-- ==== Sys2Proof/Word.lean ====
section
/-! DEFINITION. The plain widths of the Hexgus H40 (spec 00 R1, 01 R15, 15 R347): bytes, the 32- and
64-bit words, hallmarks, and the 128-byte image of a row, a line or a granule. -/
namespace Sys2Proof

/-- One byte. -/
abbrev Byte := BitVec 8
/-- A 32-bit lane unit (R133) or slot word (R19). -/
abbrev W32 := BitVec 32
/-- A 64-bit scalar (R67). -/
abbrev W64 := BitVec 64
/-- A hallmark or generation number, 16 bits (R344, R347). -/
abbrev Hm := BitVec 16
/-- The 128 bytes of a row, scratchpad line or granule (R133, R181), byte j in bits [8j+7:8j]. -/
abbrev Image := BitVec 1024
/-- A 48-bit virtual or die-local address (R272). -/
abbrev Addr := BitVec 48

/-- The null generation (R344). -/
def nullGen : Hm := 0#16
/-- The platform generation (R341). -/
def platformGen : Hm := 1#16

end Sys2Proof
end

