-- ==== Sys2Proof/Machine/Flags.lean ====
section
/-! DEFINITION. Conditions and counts of the scalar side: condition codes (R34), bit counts (R71, R72) and
bit fields (R73). -/
namespace Sys2Proof.Machine

/-- Does scalar condition code c hold between a and b (R34)? -/
def condHolds (c : Nat) (a b : W64) : Bool :=
  match c with
  | 0 => a == b
  | 1 => a != b
  | 2 => a.slt b
  | 3 => a.sle b
  | 4 => b.slt a
  | 5 => b.sle a
  | 6 => a.ult b
  | 7 => a.ule b
  | 8 => b.ult a
  | _ => b.ule a

/-- Leading zero bits of a 64-bit value, 64 for zero (R72). -/
def clz64 (a : W64) : W64 := if a = 0 then 64 else BitVec.ofNat 64 (63 - Nat.log2 a.toNat)

/-- One bits among the lowest n (R71). -/
def onesBelow (a : W64) : Nat → Nat
  | 0 => 0
  | n + 1 => onesBelow a n + (if a.getLsbD n then 1 else 0)

/-- One bits of a 64-bit value (R71). -/
def popc64 (a : W64) : W64 := BitVec.ofNat 64 (onesBelow a 64)

/-- The position and mask of a bit-field descriptor (R73). -/
def fieldPos (b : W64) : Nat := b.toNat % 64
def fieldLen (b : W64) : Nat := min (b.toNat / 256 % 64 + 1) (64 - fieldPos b)
def fieldMask (b : W64) : W64 := BitVec.ofNat 64 ((2 ^ fieldLen b - 1) * 2 ^ fieldPos b)

/-- BFX (R73). -/
def bitFieldExtract (a b : W64) : W64 := (a &&& fieldMask b) >>> fieldPos b
/-- BFI (R73). -/
def bitFieldInsert (d a b : W64) : W64 :=
  (d &&& ~~~(fieldMask b)) ||| ((a <<< fieldPos b) &&& fieldMask b)

/-- High 64 bits of a product, signed and unsigned (R74). -/
def mulHigh (a b : W64) : W64 := BitVec.ofInt 64 (a.toInt * b.toInt / 2 ^ 64)
def mulHighU (a b : W64) : W64 := BitVec.ofNat 64 (a.toNat * b.toNat / 2 ^ 64)

/-- The stochastic mixer (R125). -/
def mix64 (x : W64) : W64 :=
  let y := (x ^^^ (x >>> 30)) * 0xBF58476D1CE4E5B9#64
  let z := (y ^^^ (y >>> 27)) * 0x94D049BB133111EB#64
  z ^^^ (z >>> 31)

/-- The step of RNDSEED (R125). -/
def rndStep : W64 := 0x9E3779B97F4A7C15#64

end Sys2Proof.Machine
end

