-- ==== Sys2Proof/Syntax.lean ====
section
/-! DEFINITION. The instructions and events of the Hexgus H40: one constructor for each row of the opcode
table. A slot operation (R20, R28) holds its guard predicate p and the fields of its format under the
table's letters; a micro-op (R251) and a packet (R364) hold their fields; an event names the agent it
happens at. -/
namespace Sys2Proof

/-- A control of the platform interface that has no event of its own (R422). -/
inductive PlatformReg where
  /-- the tenancy that a core is allotted to; 4096 and above for none (R17, R276) -/
  | coreTenancy (core : Nat)
  /-- sizes of the host range and of one Empin aperture (R424) -/
  | hostRange | aperture
  /-- base and size of a die's fault-report ring, the I/O die's at 8, and the platform's head count (R407) -/
  | reportRing (die : Nat) | reportHead (die : Nat)
  /-- the violation record of a stack's lower or upper port, its low or high 8 bytes; a write to either clears it (R324) -/
  | violation (stack : Nat) (upper high : Bool)
  /-- the brick quota of a tenancy on a die (R383) -/
  | brickQuota (die ten : Nat)
  /-- debug permission of a tenancy on a die (R434) -/
  | debug (die ten : Nat)
  /-- replay capture of a tenancy on a die: its log ring, to be written or to be replayed; and the platform's count
  (R409, R410) -/
  | capture (die ten : Nat) (replay : Bool) | captureCount (die ten : Nat)
  /-- application core and identity of an event of a die (R430) -/
  | identity (die event : Nat)
  /-- command port of an Ethernet port (R428) -/
  | commandPort (port : Nat)
  /-- ends the fence of a tenancy on a die (R390) -/
  | endFence (die ten : Nat)
  /-- the HDM error count (R426) -/
  | hdmErrors
  /-- PRECTL of a core (R392) -/
  | prectl (core : Nat)
  /-- DEBT of a tenancy on a die, which the platform only reads (R404) -/
  | debt (die ten : Nat)
  /-- 8-byte word of a queue descriptor, of a translation record and of a flow entry, as they stand: FAULT, HCONF, LAST, ACC
  and DROP are there to be read; a write is the whole record's own event (R276, R361, R428) -/
  | queueWord (die queue n : Nat) | recordWord (die ten n : Nat) | flowWord (flow n : Nat)
  /-- the owner register of a stack, of which the platform writes RV and RTEN (R319) -/
  | owner (stack : Nat)
  /-- an entry of a die's slot table (R236) -/
  | slot (die idx : Nat)
  /-- an entry of the HDM map, or of an ingress map of Empin (R426, R427) -/
  | mapEntry (map g : Nat)
  /-- the state word of a link; a write enables the link again (R416, R419) -/
  | link (n : Nat)
  /-- a die's latency signature, 8 bytes at a time, and its revision (R432, R458) -/
  | signature (die n : Nat) | revision (die : Nat)
  deriving DecidableEq, Repr

/-- The atomics of RV64A, which the application cores' instruction set holds (R421; PRESUMED, log entry 74). -/
inductive RvAmo where
  | swap | add | xor | and | or | min | max | minu | maxu
  deriving DecidableEq, Repr
/-- What an access of an application core does. -/
inductive AppOp where
  | load | store | amo (op : RvAmo)
  deriving DecidableEq, Repr
/-- An access of one of the sixteen application cores. -/
structure AppReq where
  core : Nat
  op : AppOp
  deriving DecidableEq, Repr

/-- A step of the module. -/
inductive Instr where
  /-- R22. The all-zero slot word, which has no effect and belongs to no class. -/
  | nop
  /-- R71. Writes a + b to sd, modulo 2^64. -/
  | add (p : BitVec 3) (d : BitVec 6) (a : BitVec 6) (b : BitVec 6)
  /-- R71. Writes a − b to sd, modulo 2^64. -/
  | sub (p : BitVec 3) (d : BitVec 6) (a : BitVec 6) (b : BitVec 6)
  /-- R71. Writes the bitwise AND of a and b to sd. -/
  | and (p : BitVec 3) (d : BitVec 6) (a : BitVec 6) (b : BitVec 6)
  /-- R71. Writes the bitwise OR of a and b to sd. -/
  | or (p : BitVec 3) (d : BitVec 6) (a : BitVec 6) (b : BitVec 6)
  /-- R71. Writes the bitwise XOR of a and b to sd. -/
  | xor (p : BitVec 3) (d : BitVec 6) (a : BitVec 6) (b : BitVec 6)
  /-- R71. Writes a AND NOT b to sd. -/
  | andn (p : BitVec 3) (d : BitVec 6) (a : BitVec 6) (b : BitVec 6)
  /-- R71. Writes a OR NOT b to sd. -/
  | orn (p : BitVec 3) (d : BitVec 6) (a : BitVec 6) (b : BitVec 6)
  /-- R72. Shifts a left by b[5:0], shifting in zeros. -/
  | shl (p : BitVec 3) (d : BitVec 6) (a : BitVec 6) (b : BitVec 6)
  /-- R72. Shifts a right logically by b[5:0]. -/
  | shr (p : BitVec 3) (d : BitVec 6) (a : BitVec 6) (b : BitVec 6)
  /-- R72. Shifts a right arithmetically by b[5:0]. -/
  | sar (p : BitVec 3) (d : BitVec 6) (a : BitVec 6) (b : BitVec 6)
  /-- R71. Writes the smaller of a and b to sd, compared as signed values. -/
  | min (p : BitVec 3) (d : BitVec 6) (a : BitVec 6) (b : BitVec 6)
  /-- R71. Writes the larger of a and b to sd, compared as signed values. -/
  | max (p : BitVec 3) (d : BitVec 6) (a : BitVec 6) (b : BitVec 6)
  /-- R71. Writes the smaller of a and b to sd, compared as unsigned values. -/
  | minu (p : BitVec 3) (d : BitVec 6) (a : BitVec 6) (b : BitVec 6)
  /-- R71. Writes the larger of a and b to sd, compared as unsigned values. -/
  | maxu (p : BitVec 3) (d : BitVec 6) (a : BitVec 6) (b : BitVec 6)
  /-- R72. Writes the count of leading zero bits of a, which is 64 when a is zero. -/
  | clz (p : BitVec 3) (d : BitVec 6) (a : BitVec 6)
  /-- R71. Writes the count of one bits of a. -/
  | popc (p : BitVec 3) (d : BitVec 6) (a : BitVec 6)
  /-- R73. Extracts the bit field that descriptor b gives from a, zero-extended. -/
  | bfx (p : BitVec 3) (d : BitVec 6) (a : BitVec 6) (b : BitVec 6)
  /-- R73. Inserts the low bits of a into the field of sd that descriptor b gives. -/
  | bfi (p : BitVec 3) (d : BitVec 6) (a : BitVec 6) (b : BitVec 6)
  /-- R64. Compares two scalar registers and raises the duplicate-mismatch trap if they differ. -/
  | cmpt (p : BitVec 3) (a : BitVec 6) (b : BitVec 6)
  /-- R74. Writes the low 64 bits of a × b after 3 vc. -/
  | mul (p : BitVec 3) (d : BitVec 6) (a : BitVec 6) (b : BitVec 6)
  /-- R74. Writes the high 64 bits of the signed 128-bit product. -/
  | mulh (p : BitVec 3) (d : BitVec 6) (a : BitVec 6) (b : BitVec 6)
  /-- R74. Writes the high 64 bits of the unsigned 128-bit product. -/
  | mulhu (p : BitVec 3) (d : BitVec 6) (a : BitVec 6) (b : BitVec 6)
  /-- R75. Writes the signed quotient after 12 vc, and traps on a zero divisor. -/
  | div (p : BitVec 3) (d : BitVec 6) (a : BitVec 6) (b : BitVec 6)
  /-- R75. Writes the unsigned quotient after 12 vc, and traps on a zero divisor. -/
  | divu (p : BitVec 3) (d : BitVec 6) (a : BitVec 6) (b : BitVec 6)
  /-- R75. Writes the signed remainder after 12 vc, and traps on a zero divisor. -/
  | rem (p : BitVec 3) (d : BitVec 6) (a : BitVec 6) (b : BitVec 6)
  /-- R75. Writes the unsigned remainder after 12 vc, and traps on a zero divisor. -/
  | remu (p : BitVec 3) (d : BitVec 6) (a : BitVec 6) (b : BitVec 6)
  /-- R80. Writes a predicate with the result of condition cc between two registers. -/
  | cmp (p : BitVec 3) (d : BitVec 3) (a : BitVec 6) (b : BitVec 6) (c : BitVec 5)
  /-- R82. Writes a or b to sd as predicate pn selects. -/
  | sel (p : BitVec 3) (d : BitVec 6) (a : BitVec 6) (b : BitVec 6) (n : BitVec 3)
  /-- R83. Writes the AND of two predicates to a predicate. -/
  | pand (p : BitVec 3) (d : BitVec 3) (a : BitVec 3) (b : BitVec 3)
  /-- R83. Writes the OR of two predicates to a predicate. -/
  | por (p : BitVec 3) (d : BitVec 3) (a : BitVec 3) (b : BitVec 3)
  /-- R83. Writes the XOR of two predicates to a predicate. -/
  | pxor (p : BitVec 3) (d : BitVec 3) (a : BitVec 3) (b : BitVec 3)
  /-- R83. Writes predicates p0–p7 into bits 0–7 of a scalar register. -/
  | pget (p : BitVec 3) (d : BitVec 6)
  /-- R83. Sets a predicate to whether a scalar register is non-zero. -/
  | pset (p : BitVec 3) (d : BitVec 3) (a : BitVec 6)
  /-- R76. Adds a sign-extended immediate to a register. -/
  | addi (p : BitVec 3) (d : BitVec 6) (a : BitVec 6) (i : BitVec 11)
  /-- R76. ANDs a register with a sign-extended immediate. -/
  | andi (p : BitVec 3) (d : BitVec 6) (a : BitVec 6) (i : BitVec 11)
  /-- R76. ORs a register with a sign-extended immediate. -/
  | ori (p : BitVec 3) (d : BitVec 6) (a : BitVec 6) (i : BitVec 11)
  /-- R76. XORs a register with a sign-extended immediate. -/
  | xori (p : BitVec 3) (d : BitVec 6) (a : BitVec 6) (i : BitVec 11)
  /-- R77. Shifts a register left by a constant count. -/
  | shli (p : BitVec 3) (d : BitVec 6) (a : BitVec 6) (n : BitVec 6)
  /-- R77. Shifts a register right logically by a constant count. -/
  | shri (p : BitVec 3) (d : BitVec 6) (a : BitVec 6) (n : BitVec 6)
  /-- R77. Shifts a register right arithmetically by a constant count. -/
  | sari (p : BitVec 3) (d : BitVec 6) (a : BitVec 6) (n : BitVec 6)
  /-- R81. Compares a register with a sign-extended immediate under a signed condition and writes a predicate. -/
  | cmpi (p : BitVec 3) (c : BitVec 3) (d : BitVec 3) (a : BitVec 6) (i : BitVec 11)
  /-- R81. Compares a register with a sign-extended immediate under an unsigned condition and writes a predicate. -/
  | cmpiu (p : BitVec 3) (c : BitVec 3) (d : BitVec 3) (a : BitVec 6) (i : BitVec 11)
  /-- R78. Writes a sign-extended immediate to a register. -/
  | movi (p : BitVec 3) (d : BitVec 6) (i : BitVec 17)
  /-- R79. Shifts a register left and inserts an unsigned constant below the shifted value. -/
  | movhi (p : BitVec 3) (d : BitVec 6) (i : BitVec 17)
  /-- R84. Reads a control and status register into a scalar register. -/
  | csrr (p : BitVec 3) (d : BitVec 6) (c : BitVec 11)
  /-- R84. Writes a scalar register into a control and status register, with any special write semantics that CSR has. -/
  | csrw (p : BitVec 3) (a : BitVec 6) (c : BitVec 11)
  /-- R90. Branches to a bundle at a fixed offset. -/
  | br (p : BitVec 3) (o : BitVec 20)
  /-- R90. Branches to a bundle at a fixed offset and links in s63. -/
  | brl (p : BitVec 3) (o : BitVec 20)
  /-- R92. Counts down a hardware loop counter and branches back while the count is non-zero. -/
  | loop (p : BitVec 3) (l : BitVec 2) (o : BitVec 16)
  /-- R92. Counts down a loop counter, rotates VROT by k and branches back while the count is non-zero. -/
  | loopr (p : BitVec 3) (l : BitVec 2) (k : BitVec 5) (o : BitVec 16)
  /-- R91. Jumps to the address held in a register. -/
  | jr (p : BitVec 3) (a : BitVec 6)
  /-- R91. Jumps to the address held in a register and writes the link to sd. -/
  | jrl (p : BitVec 3) (d : BitVec 6) (a : BitVec 6)
  /-- R101. Raises a software trap carrying a 12-bit code. -/
  | trap (p : BitVec 3) (c : BitVec 12)
  /-- R102. Restores the trap-saved context and returns from platform level to PEPC. -/
  | eret (p : BitVec 3)
  /-- R109. Returns from a user-level interrupt handler to UIEPC. -/
  | uiret (p : BitVec 3)
  /-- R95. Holds the bundle until the outstanding-operation counters are at or below the given limits. -/
  | wait (p : BitVec 3) (l : BitVec 5) (s : BitVec 5) (c : BitVec 5) (t : BitVec 5)
  /-- R140. Adds two vector operands lane by lane. -/
  | vadd (p : BitVec 3) (d : BitVec 7) (a : BitVec 7) (b : BitVec 7) (t : BitVec 2)
  /-- R140. Subtracts two vector operands lane by lane. -/
  | vsub (p : BitVec 3) (d : BitVec 7) (a : BitVec 7) (b : BitVec 7) (t : BitVec 2)
  /-- R140. Multiplies two vector operands lane by lane. -/
  | vmul (p : BitVec 3) (d : BitVec 7) (a : BitVec 7) (b : BitVec 7) (t : BitVec 2)
  /-- R140. Fused multiply-add into the destination, lane by lane. -/
  | vfma (p : BitVec 3) (d : BitVec 7) (a : BitVec 7) (b : BitVec 7) (t : BitVec 2)
  /-- R140. Fused multiply-subtract from the destination, lane by lane. -/
  | vfms (p : BitVec 3) (d : BitVec 7) (a : BitVec 7) (b : BitVec 7) (t : BitVec 2)
  /-- R141. Writes the lane-wise maximum of two vector operands. -/
  | vmax (p : BitVec 3) (d : BitVec 7) (a : BitVec 7) (b : BitVec 7) (t : BitVec 2)
  /-- R141. Writes the lane-wise minimum of two vector operands. -/
  | vmin (p : BitVec 3) (d : BitVec 7) (a : BitVec 7) (b : BitVec 7) (t : BitVec 2)
  /-- R142. Bitwise AND of two 128-byte images. -/
  | vand (p : BitVec 3) (d : BitVec 7) (a : BitVec 7) (b : BitVec 7)
  /-- R142. Bitwise OR of two 128-byte images. -/
  | vor (p : BitVec 3) (d : BitVec 7) (a : BitVec 7) (b : BitVec 7)
  /-- R142. Bitwise XOR of two 128-byte images. -/
  | vxor (p : BitVec 3) (d : BitVec 7) (a : BitVec 7) (b : BitVec 7)
  /-- R143. Shifts 32-bit lanes left by per-lane counts. -/
  | vshl (p : BitVec 3) (d : BitVec 7) (a : BitVec 7) (b : BitVec 7)
  /-- R143. Shifts 32-bit lanes right logically by per-lane counts. -/
  | vshr (p : BitVec 3) (d : BitVec 7) (a : BitVec 7) (b : BitVec 7)
  /-- R143. Shifts 32-bit lanes right arithmetically by per-lane counts. -/
  | vsar (p : BitVec 3) (d : BitVec 7) (a : BitVec 7) (b : BitVec 7)
  /-- R144. Compares lanes and writes an all-ones or all-zeros mask row. -/
  | vcmp (p : BitVec 3) (c : BitVec 2) (d : BitVec 5) (a : BitVec 7) (b : BitVec 7) (t : BitVec 2)
  /-- R145. Selects lanes of va or vb under the mask held in the destination. -/
  | vsel (p : BitVec 3) (d : BitVec 7) (a : BitVec 7) (b : BitVec 7) (t : BitVec 2)
  /-- R146. Permutes the lanes of va by the indices in vb. -/
  | vshf (p : BitVec 3) (d : BitVec 7) (a : BitVec 7) (b : BitVec 7) (t : BitVec 2)
  /-- R147. Rotates the lanes of va by n. -/
  | vrotl (p : BitVec 3) (d : BitVec 7) (a : BitVec 7) (n : BitVec 7) (t : BitVec 2)
  /-- R148. Copies a vector operand. -/
  | vmov (p : BitVec 3) (d : BitVec 7) (a : BitVec 7) (t : BitVec 2)
  /-- R148. Writes the lane-wise absolute value. -/
  | vabs (p : BitVec 3) (d : BitVec 7) (a : BitVec 7) (t : BitVec 2)
  /-- R148. Writes the lane-wise negation. -/
  | vneg (p : BitVec 3) (d : BitVec 7) (a : BitVec 7) (t : BitVec 2)
  /-- R148. Writes the lane index j into each lane j. -/
  | viota (p : BitVec 3) (d : BitVec 7) (t : BitVec 2)
  /-- R148. Clears every unit of a vector operand. -/
  | vclr (p : BitVec 3) (d : BitVec 7)
  /-- R149. Broadcasts the low bits of a scalar into every lane. -/
  | vbc (p : BitVec 3) (d : BitVec 7) (s : BitVec 6) (t : BitVec 2)
  /-- R149. Extracts one lane into a scalar register. -/
  | vxt (p : BitVec 3) (v : BitVec 7) (d : BitVec 6) (l : BitVec 6) (t : BitVec 2)
  /-- R149. Inserts the low bits of a scalar into one lane. -/
  | vins (p : BitVec 3) (v : BitVec 7) (s : BitVec 6) (l : BitVec 6) (t : BitVec 2)
  /-- R150. Sums all lanes exactly and writes the single rounded sum to every lane. -/
  | vredSum (p : BitVec 3) (d : BitVec 7) (a : BitVec 7) (t : BitVec 2)
  /-- R150. Writes the maximum of all lanes to every lane. -/
  | vredMax (p : BitVec 3) (d : BitVec 7) (a : BitVec 7) (t : BitVec 2)
  /-- R150. Writes the minimum of all lanes to every lane. -/
  | vredMin (p : BitVec 3) (d : BitVec 7) (a : BitVec 7) (t : BitVec 2)
  /-- R151. Converts lanes between the four lane types. -/
  | vcvt (p : BitVec 3) (d : BitVec 7) (a : BitVec 7) (e : BitVec 2) (t : BitVec 2)
  /-- R65. Compares two vector operands bit for bit and traps on a mismatch. -/
  | cmptv (p : BitVec 3) (a : BitVec 7) (b : BitVec 7) (t : BitVec 2)
  /-- R152. Evaluates 2^x lane by lane. -/
  | vexp2 (p : BitVec 3) (d : BitVec 7) (a : BitVec 7) (t : BitVec 2)
  /-- R152. Evaluates log2 x lane by lane. -/
  | vlog2 (p : BitVec 3) (d : BitVec 7) (a : BitVec 7) (t : BitVec 2)
  /-- R152. Evaluates 1/x lane by lane. -/
  | vrcp (p : BitVec 3) (d : BitVec 7) (a : BitVec 7) (t : BitVec 2)
  /-- R152. Evaluates 1/√x lane by lane. -/
  | vrsq (p : BitVec 3) (d : BitVec 7) (a : BitVec 7) (t : BitVec 2)
  /-- R152. Evaluates sin(πx) lane by lane. -/
  | vsin (p : BitVec 3) (d : BitVec 7) (a : BitVec 7) (t : BitVec 2)
  /-- R152. Evaluates tanh x lane by lane. -/
  | vtanh (p : BitVec 3) (d : BitVec 7) (a : BitVec 7) (t : BitVec 2)
  /-- R154. Widens one part of a packed narrow-format image into full lanes. -/
  | vunpk (p : BitVec 3) (d : BitVec 7) (a : BitVec 7) (f : BitVec 4) (k : BitVec 3) (t : BitVec 2)
  /-- R155. Narrows full lanes into one part of a packed image. -/
  | vpack (p : BitVec 3) (d : BitVec 7) (a : BitVec 7) (f : BitVec 4) (k : BitVec 3) (t : BitVec 2)
  /-- R156. Multiplies each lane by its own binary32 scale. -/
  | vbscl (p : BitVec 3) (d : BitVec 7) (a : BitVec 7) (b : BitVec 7) (t : BitVec 2)
  /-- R157. Loads one scratchpad line into a row. -/
  | vld (p : BitVec 3) (v : BitVec 7) (a : BitVec 6) (o : BitVec 8)
  /-- R157. Stores a row into one scratchpad line. -/
  | vst (p : BitVec 3) (v : BitVec 7) (a : BitVec 6) (o : BitVec 8)
  /-- R157. Loads one scratchpad line into a column or diagonal operand. -/
  | vlds (p : BitVec 3) (v : BitVec 7) (a : BitVec 6) (o : BitVec 8)
  /-- R157. Stores a column or diagonal operand into one scratchpad line. -/
  | vsts (p : BitVec 3) (v : BitVec 7) (a : BitVec 6) (o : BitVec 8)
  /-- R172. Set addition by union of ADD table entries. -/
  | sadd (p : BitVec 3) (d : BitVec 5) (a : BitVec 7) (b : BitVec 7) (r : BitVec 2)
  /-- R172. Set subtraction through the ADD table with the second operand negated. -/
  | ssub (p : BitVec 3) (d : BitVec 5) (a : BitVec 7) (b : BitVec 7) (r : BitVec 2)
  /-- R172. Set multiplication by union of MUL table entries. -/
  | smul (p : BitVec 3) (d : BitVec 5) (a : BitVec 7) (b : BitVec 7) (r : BitVec 2)
  /-- R172. Set division by union of DIV table entries. -/
  | sdiv (p : BitVec 3) (d : BitVec 5) (a : BitVec 7) (b : BitVec 7) (r : BitVec 2)
  /-- R174. Writes the union of two sets. -/
  | suni (p : BitVec 3) (d : BitVec 5) (a : BitVec 7) (b : BitVec 7) (r : BitVec 2)
  /-- R174. Writes the intersection of two sets. -/
  | sint (p : BitVec 3) (d : BitVec 5) (a : BitVec 7) (b : BitVec 7) (r : BitVec 2)
  /-- R174. Writes all ones in lanes whose two sets share a position, and zero elsewhere. -/
  | scmp (p : BitVec 3) (d : BitVec 5) (a : BitVec 7) (b : BitVec 7) (r : BitVec 2)
  /-- R175. Negates each set exactly. -/
  | sneg (p : BitVec 3) (d : BitVec 7) (a : BitVec 7) (r : BitVec 2)
  /-- R176. Rounds each f32 outward to its enclosing ring position. -/
  | sfrom (p : BitVec 3) (d : BitVec 7) (a : BitVec 7) (r : BitVec 2)
  /-- R177. Writes the hull bounds of sets as f32 values. -/
  | sbnd (p : BitVec 3) (d : BitVec 7) (a : BitVec 7) (r : BitVec 2)
  /-- R178. Compresses each mask to its canonical arc code. -/
  | sarc (p : BitVec 3) (d : BitVec 7) (a : BitVec 7) (r : BitVec 2)
  /-- R179. Expands arc codes into masks. -/
  | smsk (p : BitVec 3) (d : BitVec 7) (a : BitVec 7) (r : BitVec 2)
  /-- R180. Sums the non-empty set lanes of a row in lane order. -/
  | sred (p : BitVec 3) (d : BitVec 7) (a : BitVec 7) (r : BitVec 2)
  /-- R184. Loads 1–8 bytes from scratchpad into a scalar register. -/
  | spld (p : BitVec 3) (d : BitVec 6) (a : BitVec 6) (o : BitVec 5) (z : BitVec 2)
  /-- R184. Stores 1–8 bytes of a scalar register to scratchpad. -/
  | spst (p : BitVec 3) (d : BitVec 6) (a : BitVec 6) (o : BitVec 5) (z : BitVec 2)
  /-- R307. Weak load from global memory. -/
  | ld (p : BitVec 3) (d : BitVec 6) (a : BitVec 6) (o : BitVec 5) (z : BitVec 2)
  /-- R307. Strong load from global memory at a scope. -/
  | lds (p : BitVec 3) (d : BitVec 6) (a : BitVec 6) (o : BitVec 5) (z : BitVec 2) (c : BitVec 2)
  /-- R307. Strong load that is an acquire at a scope. -/
  | lda (p : BitVec 3) (d : BitVec 6) (a : BitVec 6) (o : BitVec 5) (z : BitVec 2) (c : BitVec 2)
  /-- R309. Asks for the line holding an address to be brought nearer, with no architectural effect. -/
  | pref (p : BitVec 3) (a : BitVec 6) (o : BitVec 5)
  /-- R307. Weak store to global memory. -/
  | st (p : BitVec 3) (d : BitVec 6) (a : BitVec 6) (o : BitVec 5) (z : BitVec 2)
  /-- R307. Strong store to global memory at a scope. -/
  | sts (p : BitVec 3) (d : BitVec 6) (a : BitVec 6) (o : BitVec 5) (z : BitVec 2) (c : BitVec 2)
  /-- R298. Strong store that is a release at a scope. -/
  | strl (p : BitVec 3) (d : BitVec 6) (a : BitVec 6) (o : BitVec 5) (z : BitVec 2) (c : BitVec 2)
  /-- R310. Atomically adds to a 64-bit word at its home and returns the old value. -/
  | amoAdd (p : BitVec 3) (d : BitVec 6) (a : BitVec 6) (b : BitVec 6) (c : BitVec 2)
  /-- R310. Atomically ANDs a 64-bit word at its home and returns the old value. -/
  | amoAnd (p : BitVec 3) (d : BitVec 6) (a : BitVec 6) (b : BitVec 6) (c : BitVec 2)
  /-- R310. Atomically ORs a 64-bit word at its home and returns the old value. -/
  | amoOr (p : BitVec 3) (d : BitVec 6) (a : BitVec 6) (b : BitVec 6) (c : BitVec 2)
  /-- R310. Atomically XORs a 64-bit word at its home and returns the old value. -/
  | amoXor (p : BitVec 3) (d : BitVec 6) (a : BitVec 6) (b : BitVec 6) (c : BitVec 2)
  /-- R310. Atomic signed minimum on a 64-bit word at its home. -/
  | amoMin (p : BitVec 3) (d : BitVec 6) (a : BitVec 6) (b : BitVec 6) (c : BitVec 2)
  /-- R310. Atomic signed maximum on a 64-bit word at its home. -/
  | amoMax (p : BitVec 3) (d : BitVec 6) (a : BitVec 6) (b : BitVec 6) (c : BitVec 2)
  /-- R310. Atomically swaps a 64-bit word at its home. -/
  | amoSwap (p : BitVec 3) (d : BitVec 6) (a : BitVec 6) (b : BitVec 6) (c : BitVec 2)
  /-- R311. Atomic compare-and-swap on a 64-bit word. -/
  | cas (p : BitVec 3) (d : BitVec 6) (a : BitVec 6) (b : BitVec 6) (c : BitVec 2)
  /-- R312. Orders later accesses to strongly ordered and release-consistent pages after older ones at a scope. -/
  | fence (p : BitVec 3) (c : BitVec 2)
  /-- R300. Fence over pages of every class, emptying L0 at die scope or wider. -/
  | fenceAll (p : BitVec 3) (c : BitVec 2)
  /-- R313. Holds the bundle until a strong read finds the word different from the comparand. -/
  | waitaNe (p : BitVec 3) (d : BitVec 6) (a : BitVec 6) (b : BitVec 6) (c : BitVec 2)
  /-- R313. Holds the bundle until a strong read finds the word equal to the comparand. -/
  | waitaEq (p : BitVec 3) (d : BitVec 6) (a : BitVec 6) (b : BitVec 6) (c : BitVec 2)
  /-- R189. Holds the bundle until a handle is FULL or DRAINING, or traps on ERROR or FREE. -/
  | hwait (p : BitVec 3) (h : BitVec 6) (t : BitVec 1)
  /-- R190. Returns a handle's record to a scalar register. -/
  | hstat (p : BitVec 3) (d : BitVec 6) (h : BitVec 6)
  /-- R193. Returns a FREE, FULL or ERROR handle to FREE, keeping PHASE. -/
  | hrel (p : BitVec 3) (h : BitVec 6)
  /-- R191. Makes a FREE handle FULL with a byte count and format. -/
  | hset (p : BitVec 3) (h : BitVec 6) (a : BitVec 6) (b : BitVec 6)
  /-- R191. Adds to a handle's expected byte count. -/
  | hexp (p : BitVec 3) (h : BitVec 6) (a : BitVec 6) (b : BitVec 6)
  /-- R192. Commits a handle's phase, frees it and toggles PHASE. -/
  | hswap (p : BitVec 3) (h : BitVec 6)
  /-- R199. Releases scratchpad banks named in a mask. -/
  | bkrel (p : BitVec 3) (a : BitVec 6)
  /-- R201. Holds the bundle until the named banks are HELD. -/
  | bkwait (p : BitVec 3) (a : BitVec 6)
  /-- R205. Arrives at a barrier and posts expected bytes. -/
  | barv (p : BitVec 3) (n : BitVec 3) (a : BitVec 6)
  /-- R205. Initialises a barrier's quota and counts. -/
  | barvInit (p : BitVec 3) (n : BitVec 3) (a : BitVec 6)
  /-- R205. Adds expected bytes to a barrier's WANT. -/
  | bart (p : BitVec 3) (n : BitVec 3) (a : BitVec 6)
  /-- R205. Holds the bundle until the barrier's epoch has moved on. -/
  | barw (p : BitVec 3) (n : BitVec 3)
  /-- R105. Arms or disarms a handle for a user-level interrupt. -/
  | uien (p : BitVec 3) (h : BitVec 6) (e : BitVec 1)
  /-- R216. Writes a copy level register or CCTL. -/
  | clvl (p : BitVec 3) (n : BitVec 6) (a : BitVec 6) (b : BitVec 6)
  /-- R220. Issues a byte copy over a six-level box and forks an engine thread. -/
  | cgo (p : BitVec 3) (h : BitVec 6) (d : BitVec 6) (s : BitVec 6)
  /-- R220. Issues a copy that decodes source elements to a working format. -/
  | cgox (p : BitVec 3) (h : BitVec 6) (d : BitVec 6) (s : BitVec 6)
  /-- R230. Reads the issuing core's copy state, the placement of an address or its slot-table share. -/
  | cqry (p : BitVec 3) (d : BitVec 6) (a : BitVec 6) (q : BitVec 6)
  /-- R248. Starts a matrix-engine call of a routine with output and input handles. -/
  | mxcall (p : BitVec 3) (h : BitVec 6) (i : BitVec 6) (r : BitVec 5)
  /-- R241. Writes a matrix parameter register. -/
  | mxp (p : BitVec 3) (m : BitVec 3) (a : BitVec 6)
  /-- R242. Reads a matrix parameter register. -/
  | mxpr (p : BitVec 3) (d : BitVec 6) (m : BitVec 3)
  /-- R245. Loads micro-words into the user part of the microprogram store once the engine is idle. -/
  | mxldu (p : BitVec 3) (a : BitVec 6) (b : BitVec 6)
  /-- R246. Writes a user routine entry once the engine is idle. -/
  | mxrt (p : BitVec 3) (n : BitVec 6) (a : BitVec 6)
  /-- R268. Reads a per-tile status entry, waiting if the entry is awaited. -/
  | mxstat (p : BitVec 3) (d : BitVec 6) (h : BitVec 6)
  /-- R326. Starts a hand-over of a stack from the issuing die to the other die of its pair. -/
  | shand (p : BitVec 3) (h : BitVec 6) (a : BitVec 6)
  /-- R321. Reads the die's mirror of a stack's owner register. -/
  | sown (p : BitVec 3) (d : BitVec 6) (a : BitVec 6)
  /-- R349. Reads the tenancy number and current generation. -/
  | genr (p : BitVec 3) (d : BitVec 6)
  /-- R352. Ends a tenancy's current generation from platform level. -/
  | tenend (p : BitVec 3) (a : BitVec 6) (b : BitVec 6)
  /-- R350. Asks whether a granule or an import belongs to the current generation. -/
  | genprobe (p : BitVec 3) (d : BitVec 6) (a : BitVec 6) (q : BitVec 6)
  /-- R376. Reads the task's index and node number. -/
  | tidx (p : BitVec 3) (d : BitVec 6)
  /-- R377. Claims a further index of the task's node. -/
  | tnext (p : BitVec 3) (d : BitVec 6)
  /-- R379. Ends the task's run on this core and leaves a brick waiting on a word. -/
  | suspend (p : BitVec 3) (a : BitVec 6) (b : BitVec 6)
  /-- R378. Ends the tile task. -/
  | endTask (p : BitVec 3)
  /-- R419. Reads the state word of one link. -/
  | linkq (p : BitVec 3) (d : BitVec 6) (a : BitVec 6)
  /-- R169. Loads a ring image from global memory into a ring slot. -/
  | ringld (p : BitVec 3) (r : BitVec 2) (a : BitVec 6)
  /-- R444. Igpor-only dot product of 16-bit lanes into every f32 unit. -/
  | vdot (p : BitVec 3) (d : BitVec 7) (a : BitVec 7) (b : BitVec 7) (t : BitVec 2)
  /-- R444. Igpor-only absolute difference of lanes. -/
  | vabd (p : BitVec 3) (d : BitVec 5) (a : BitVec 7) (b : BitVec 7) (t : BitVec 2)
  /-- R444. Igpor-only clamp of the destination between va and vb. -/
  | vclmp (p : BitVec 3) (d : BitVec 5) (a : BitVec 7) (b : BitVec 7) (t : BitVec 2)
  /-- R444. Igpor-only conversion of the upper 16-bit lanes. -/
  | vcvth (p : BitVec 3) (d : BitVec 7) (a : BitVec 7) (e : BitVec 2) (t : BitVec 2)
  /-- R444. Igpor-only multiplication of every lane by a scalar. -/
  | vscl (p : BitVec 3) (d : BitVec 7) (s : BitVec 6) (t : BitVec 2)
  /-- R252. Micro-op that clears the working tile or loads it from 32 accumulator rows. -/
  | zero (ld : BitVec 1) (rp : BitVec 3)
  /-- R253. Micro-op that accumulates an operand product into the working tile. -/
  | mma (ap bp kp mp : BitVec 3) (ah bh : BitVec 6) (sp ua ain bin : BitVec 1)
  /-- R256. Micro-op that configures the unfolding unit. -/
  | unf (tp gp : BitVec 3)
  /-- R257. Micro-op that converts the working tile and writes it to accumulator rows, counting bytes on hout. -/
  | drain (rp scp : BitVec 3) (sc : BitVec 1) (df : BitVec 3)
  /-- R258. Micro-op that adds a stride to a call parameter. -/
  | adv (pd sp : BitVec 3) (ps : BitVec 1) (stride : BitVec 32)
  /-- R259. Micro-op that opens a counted block. -/
  | mxLoop (cp : BitVec 3)
  /-- R259. Micro-op that closes a counted block. -/
  | endl
  /-- R260. Micro-op that holds the call until a handle is ready, then makes it an input. -/
  | waith (h : BitVec 6)
  /-- R261. Micro-op that ends the call and releases its regions. -/
  | mxEnd
  /-- R250. A queued matrix call starts when it reaches the head and hin is ready. -/
  | callStart (core : Nat)
  /-- R267. The engine posts a call's status entry 6 lc after hout enters FULL or ERROR. -/
  | statusPost (core h : Nat)
  /-- R52. A fixed-latency landing-queue entry lands at its virtual cycle. -/
  | landing (core : Nat)
  /-- R53. A variable-latency result arrives and clears its pending bit. -/
  | resultArrive (core idx : Nat)
  /-- R98. A trap is taken: trap save, trap record and fetch at the vector. -/
  | trapEntry (core : Nat)
  /-- R107. A pending user-level interrupt is taken at an issue boundary of the main stream. -/
  | userLevelInterrupt (core : Nat)
  /-- R283. A translation walk completes and serves every access waiting on it. -/
  | walkComplete (kind agent ten : Nat) (va : W64)
  /-- R291. A store-buffer entry leaves SB(c) and enters the die ordering point. -/
  | sbDrain (core idx : Nat)
  /-- R291. The oldest write of a generation for a home leaves OP(d) for its route. -/
  | send (die idx : Nat)
  /-- R291. The head of a link queue moves to the next link or port queue on its route. -/
  | hop (link : Nat) (up : Bool)
  /-- R291. The head of a port queue is applied at its home and acknowledged. -/
  | apply (port : Nat) (gen : Hm)
  /-- R293. A load or atomic read takes its value from its first covering source. -/
  | serve (core idx src : Nat)
  /-- R291. L0(c) takes a copy of a line. -/
  | fill (core : Nat) (va : W64)
  /-- R291. L0(c) loses a line. -/
  | evict (core line : Nat)
  /-- R313. The machine reads a WAITA word again after a write to its line or within 4,096 lc. -/
  | waitaReread (core : Nat)
  /-- R218. A copy engine performs one line transfer of a copy's box and counts its bytes on the completion object. -/
  | copyLineTransfer (core op idx : Nat)
  /-- R227. A post message applies a copy's expectation to a handle of the destination core. -/
  | remotePost (core op : Nat)
  /-- R200. A preload copy starts once all the banks it names are RELEASED. -/
  | preloadStart (core i : Nat)
  /-- R374. The distributor starts a fresh tile task on an idle core. -/
  | taskStart (core : Nat)
  /-- R382. A read of a brick's wait word finds it changed, and the brick becomes ready. -/
  | brickReady (die idx : Nat)
  /-- R381. A ready brick is resumed on a core. -/
  | brickResume (core : Nat)
  /-- R378. After END or SUSPEND, the task's accesses and engine work finish and its indices become done. -/
  | taskComplete (core : Nat)
  /-- R387. A die marks a finished chunk with an atomic OR in the bitmap. -/
  | chunkMark (die slot : Nat)
  /-- R386. A follower distributor claims a chunk from the master. -/
  | chunkClaim (core : Nat)
  /-- R372. The master writes STATE DONE or FAILED and the DONE word, and the launch packet completes. -/
  | launchComplete (die slot : Nat)
  /-- R389. After a link loss splits a launch, each group decides whether it continues or fences. -/
  | quorumDecision (launch : Nat)
  /-- R391. The continuing group's master reissues unmarked chunks and writes STATE. -/
  | reconfiguration (launch : Nat)
  /-- R362. The command processor reads a queue's tail word again. -/
  | tailRead (die queue : Nat)
  /-- R364. Packet that starts the launch whose record it names. -/
  | launch (mask : Byte) (lrec : W64)
  /-- R364. Ordered launch packet that first reads per-node index counts. -/
  | launchi (mask : Byte) (lrec inda : W64)
  /-- R364. Packet that opens a block repeated a counted number of times. -/
  | loopPacket (ind : BitVec 1) (count : W64)
  /-- R364. Packet that closes a loop block. -/
  | endloop
  /-- R364. Packet that continues if a masked word equals a value, else skips to ENDIF. -/
  | ifeq (addr value mask : W64)
  /-- R364. Packet that continues if a masked word differs from a value. -/
  | ifne (addr value mask : W64)
  /-- R364. Packet that closes a conditional block. -/
  | endif
  /-- R364. Packet that completes once a masked word satisfies its comparison. -/
  | waitmem (op : BitVec 2) (addr value mask : W64)
  /-- R364. Packet that writes a value as a strong store at a scope. -/
  | writemem (sz8 : BitVec 1) (scope : BitVec 2) (addr value : W64)
  /-- R364. Packet that writes a word with a release and interrupts the application cores. -/
  | signal (vector : BitVec 16) (addr value : W64)
  /-- R364. Packet that completes once earlier packets' accesses are performed at a scope. -/
  | fencePacket (scope : BitVec 2)
  /-- R340. Packet that hands over a stack and optionally signals a word. -/
  | handover (cpl sig : BitVec 1) (stack core handle : Byte) (saddr sval : W64)
  /-- R364. Packet that runs a sub-stream of packets from memory. -/
  | calls (len : BitVec 32) (addr : W64)
  /-- R364. Packet that ends a sub-stream. -/
  | rets
  /-- R353. Packet on a platform queue that ends a tenancy's generation. -/
  | tenendPacket (close : BitVec 1) (ten : BitVec 12) (eraddr : W64)
  /-- R328. After the drain, the giving die invalidates, ownership switches and the completion and forwarding occur. -/
  | handoverSwitch (stack : Nat)
  /-- R320. The other dies' mirrors of an owner register change within 1 µs. -/
  | ownerMirrorUpdate (die stack : Nat)
  /-- R354. A die makes the new generation current for a tenancy and idles its cores. -/
  | tenendSwitch (ten die : Nat)
  /-- R357. After the old generation drains, the end record is written and the generation is quarantined. -/
  | tenendRecord (ten : Nat)
  /-- R346. A number becoming FREE is given to a deferred tenancy. -/
  | generationGrant
  /-- R358. The assay rewrites a stale hallmark to null, or clears a stale import. -/
  | assayRewrite (kind agent ten index : Nat)
  /-- R359. An assay pass completes, freeing numbers whose second pass has ended. -/
  | assayPassComplete
  /-- R394. PRECTL write of REQ 01 that asks a core to stop at the end of its task. -/
  | softRequest (core : Nat)
  /-- R393. PRECTL write of REQ 10 that expires the grace timer at once. -/
  | hardRequest (core : Nat)
  /-- R397. PRECTL write of REQ 11 that expires the kill timer at once. -/
  | killRequest (core : Nat)
  /-- R395. The grace timer expires and the core halts at its next issue boundary. -/
  | graceExpiry (core : Nat)
  /-- R398. Once the halted context has drained, the save area is written and PHASE becomes 5. -/
  | contextSave (core : Nat)
  /-- R397. The kill timer expires, the context is killed and a function-level reset begins. -/
  | killExpiry (core : Nat)
  /-- R399. PRECTL write of RST that restores a saved context on a core. -/
  | contextRestore (core : Nat)
  /-- R400. PRECTL write of FLR, or a kill or double trap, that starts a function-level reset of a core. -/
  | functionLevelReset (core : Nat)
  /-- R400. After the drain window, the reset kills what remains, nulls hallmarks and returns the core to PHASE 0. -/
  | flrDrainEnd (core : Nat)
  /-- R402. Platform-requested reset of a frozen command processor. -/
  | cpReset (die : Nat)
  /-- R402. The platform releases a frozen I/O link function. -/
  | ioFunctionRelease (fn : Nat)
  /-- R403. A die changes a quadrant's throttle level. -/
  | throttleLevelChange (die quadrant level : Nat)
  /-- R236. The platform writes slot-table entries. -/
  | slotTableWrite (die idx : Nat) (entry : BitVec 16)
  /-- R236. Slot-table changes take effect at the next local cycle that is a multiple of 256. -/
  | slotTableTakeEffect (die : Nat)
  /-- R361. The platform writes a command-queue descriptor. -/
  | queueDescriptorWrite (die queue : Nat) (desc : BitVec 512)
  /-- R276. The platform writes or removes a tenancy's translation record on a die. -/
  | translationRecordWrite (die ten : Nat) (remove : Bool) (rec_ : BitVec 512)
  /-- R319. The platform writes a stack's hand-over right RV and RTEN. -/
  | ownerRightWrite (stack : Nat) (rv : Bool) (rten : BitVec 12)
  /-- R317. The platform changes the number of memory-side cache slices of a stack. -/
  | cacheSlicesChange (stack n : Nat)
  /-- R341. The platform opens a tenancy and the allocator gives it a generation. -/
  | tenancyOpen (ten : Nat)
  /-- R428. The platform registers or clears a network flow. -/
  | flowRegister (flow : Nat) (entry : W64) (key : BitVec 256)
  /-- R426. The platform writes an HDM or Empin ingress map entry. -/
  | hdmMapWrite (map g : Nat) (entry : W64)
  /-- R288. The platform requests a translation invalidation from a die. -/
  | invalidationRequest (die kind ten : Nat) (a : W64) (id : Nat)
  /-- R288. An invalidation completes once no old translation remains in use. -/
  | invalidationComplete (die id : Nat)
  /-- R416. The platform enables a down link again, which then retrains. -/
  | linkEnable (link : Nat)
  /-- R422. A write to any other platform-interface control that has no row of its own. -/
  | platformRegisterWrite (reg : PlatformReg) (v : W64)
  /-- R411. A link end sends a flit, new or replayed, when it holds a credit. -/
  | flitTransmit (link : Nat) (up : Bool) (cls vc : BitVec 2) (plen crq crs : Byte) (bad : Bool)
  /-- R413. A link end accepts or discards a received flit and returns ACK or NAK. -/
  | flitReceive (link : Nat) (up : Bool)
  /-- R414. A transmitter receiving a NAK replays every unacknowledged flit. -/
  | nakReplay (link : Nat) (up : Bool)
  /-- R415. A link starts retraining on lock loss, repeated NAKs or an ACK timeout. -/
  | retrain (link : Nat)
  /-- R415. Retraining completes at a chosen width and the flits are replayed. -/
  | retrainComplete (link width : Nat)
  /-- R416. A link is declared down. -/
  | linkDown (link : Nat)
  /-- R417. A down notice arrives, and undelivered messages are resent round the other way. -/
  | downNotice (link : Nat) (up : Bool)
  /-- R429. A UDP command frame arrives for a flow and is accepted into a queue or dropped. -/
  | commandFrame (port udp : Nat) (flow npkt : BitVec 16) (zero : BitVec 32) (fseq : W64) (pkts : List (BitVec 256)) (tag : BitVec 128)
  /-- R426. A CXL host request to an HDM granule is translated and applied. -/
  | hostRequest (g off size : Nat) (write : Bool) (data : BitVec 512)
  /-- R427. A request arriving over an Empin link is handled through its ingress map. -/
  | empinRequest (link g off size : Nat) (write : Bool) (data : BitVec 512)
  /-- R454. The trust die runs its boot ROM and verifies the configuration record. -/
  | moduleReset (record : List Byte)
  /-- R455. The trust die measures, configures and releases one die. -/
  | dieRelease (image sig : List Byte) (applied : Bool)
  /-- R461. SPDM request for the supported version. -/
  | getVersion
  /-- R461. SPDM request for the responder's capabilities. -/
  | getCapabilities
  /-- R461. SPDM request that negotiates the hash and signature algorithms. -/
  | negotiateAlgorithms
  /-- R461. SPDM request for certificate-chain digests. -/
  | getDigests
  /-- R461. SPDM request for the slot 0 certificate chain. -/
  | getCertificate (off len : Nat)
  /-- R461. SPDM challenge that the responder signs. -/
  | challenge (transcript : List Byte)
  /-- R462. SPDM request for the measurement blocks. -/
  | getMeasurements (index : Nat)
  /-- R461. Any unsupported SPDM request, answered with ERROR UnsupportedRequest. -/
  | unsupportedRequest
  /-- R421. An application-core load or store to a die-local address enters the module as an I/O-die request of the APP function under the platform generation. -/
  | applicationCoreAccess (pa : W64) (size : Nat) (req : AppReq) (data : W64)
  /-- R419. A compute die's mirror of a link's state changes within 1 µs of a change at the link's ends. -/
  | linkMirrorUpdate (die link : Nat)
  /-- R364. The command processor reads a WAITMEM word again, after a write to its line or within 4,096 lc, and completes the packet once the condition holds. -/
  | waitmemReread (die queue : Nat)
  /-- R282. A core TLB, engine TLB or stage-2 cache entry is replaced at will. -/
  | tlbReplacement (kind agent idx : Nat)
  /-- R251. The matrix engine reaches a micro-word with operation 0 or 10–15, a non-zero reserved field, or a stale word, and ends the call with FCODE 0x41. -/
  | reservedMicroOp
  /-- R386. A follower distributor receives the launch record's address from the master, reads the record and joins the launch. -/
  | followerLaunch (die slot : Nat)
  deriving DecidableEq, Repr

end Sys2Proof
end

