-- ==== Sys2Proof/Config.lean ====
section
/-! DEFINITION. What one implementation fixes and what the spec leaves open: fixed counts, the table of
latencies of revision H40A (spec 03 R51), and the opaque free values (notes/assumptions/1.md). -/
namespace Sys2Proof.Config

/-- The n-th free value, 64 bits: nothing constrains it. -/
opaque freeValue : Nat → W64

/-- LAT of the latency map of a core for a slice, after a number of updates (R238); nothing constrains it. -/
opaque latency : Nat → Nat → Nat → BitVec 12

/-- The least or greatest of a list of hull bounds that holds a NaN, which the spec does not state (R177, log entry 95). -/
opaque boundOfNaN : Bool → List Nat → BitVec 32

/-- Which control of the platform interface stands at an offset of region 0x08 (R421, R422): the spec names the controls and
gives the interface no layout (log entry 105). -/
opaque platformLayout : Nat → Option PlatformReg

/-- The n-th memory-encryption key pair that the trust die draws, from a source that cannot be cloned (R460). -/
opaque drawKey : Nat → BitVec 512

/-- Does a signature stand for a message under the ROM's SLH-DSA key (R454, R455)? The key is the maker's. -/
opaque slhVerify : List Byte → List Byte → Bool
/-- Digest of the boot ROM (R461). -/
opaque romDigest : List Byte
/-- The certificate chain of slot 0 for the M of the trust die (R461). -/
opaque certChain : List Byte → List Byte
/-- The responder's ECDSA signature over a transcript (R461). -/
opaque sign : List Byte → List Byte → List Byte

/-- What Forter makes of an Igpor text: native text, entry offset, address map, spills of vectors, scalars and predicates
(R449-R453). -/
structure Translation where
  text : List Byte := []
  entry : Nat := 0
  map : List (BitVec 24) := []
  vspill : BitVec 16 := 0
  sspill : BitVec 16 := 0
  pspill : BitVec 16 := 0
  deriving DecidableEq, Repr, Inhabited

/-- Forter's translation, under a budget and a latency table, of an Igpor image whose text the rules of placement do not
determine, none where it needs more spill places than there are (R447-R449); nothing else constrains it (log entry 92). -/
opaque translation : List Byte → Nat → List Byte → Option Translation

/-- The payload bytes of a flit, whose layout the spec does not give (log entry 30). -/
opaque flitPayload : Nat → BitVec 1920

/-- Compute dies of the module (R5). -/
def dies : Nat := 8
/-- Cores of one die (R5). -/
def coresPerDie : Nat := 64
/-- Granules are 128 bytes (R347). -/
def granule : Nat := 128

/-- Latency of the scalar ALU majors, PGET, PSET, CSRR and links (R51). -/
def latALU : Nat := 1
/-- Latency of MUL, MULH, MULHU (R51). -/
def latMUL : Nat := 3
/-- Latency of DIV, DIVU, REM, REMU (R51). -/
def latDIV : Nat := 12
/-- Latency of the vector ALU and of set operations except SRED (R51). -/
def latVA : Nat := 2
/-- Latency of VFMA, VFMS, VRED, SRED (R51). -/
def latFMA : Nat := 4
/-- Latency of the special functions (R51). -/
def latSF : Nat := 8
/-- Latency of SPLD, VLD, VLDS (R51). -/
def latLS : Nat := 4
/-- Latency of VUNPK, VPACK, VBSCL (R51). -/
def latPK : Nat := 3

end Sys2Proof.Config
end

