-- ==== Sys2Proof/WellFormed.lean ====
section
/-! DEFINITION. What makes a slot legal on its own and in its bundle, judged by the encoding alone (spec 02
R21-R36, 03 R45, R59, 19 R438-R444). -/
namespace Sys2Proof

/-- The major opcode (R32) of a slot operation; 64 for the rows that are no slot. -/
def Instr.major : Instr → Nat
  | .nop => 0x00
  | .add .. => 0x01
  | .sub .. => 0x01
  | .and .. => 0x01
  | .or .. => 0x01
  | .xor .. => 0x01
  | .andn .. => 0x01
  | .orn .. => 0x01
  | .shl .. => 0x01
  | .shr .. => 0x01
  | .sar .. => 0x01
  | .min .. => 0x01
  | .max .. => 0x01
  | .minu .. => 0x01
  | .maxu .. => 0x01
  | .clz .. => 0x01
  | .popc .. => 0x01
  | .bfx .. => 0x01
  | .bfi .. => 0x01
  | .cmpt .. => 0x01
  | .mul .. => 0x02
  | .mulh .. => 0x02
  | .mulhu .. => 0x02
  | .div .. => 0x02
  | .divu .. => 0x02
  | .rem .. => 0x02
  | .remu .. => 0x02
  | .cmp .. => 0x03
  | .sel .. => 0x04
  | .pand .. => 0x05
  | .por .. => 0x05
  | .pxor .. => 0x05
  | .pget .. => 0x05
  | .pset .. => 0x05
  | .addi .. => 0x06
  | .andi .. => 0x07
  | .ori .. => 0x08
  | .xori .. => 0x09
  | .shli .. => 0x0A
  | .shri .. => 0x0A
  | .sari .. => 0x0A
  | .cmpi .. => 0x0B
  | .cmpiu .. => 0x0C
  | .movi .. => 0x0D
  | .movhi .. => 0x0E
  | .csrr .. => 0x0F
  | .csrw .. => 0x10
  | .br .. => 0x11
  | .brl .. => 0x12
  | .loop .. => 0x13
  | .loopr .. => 0x14
  | .jr .. => 0x15
  | .jrl .. => 0x15
  | .trap .. => 0x15
  | .eret .. => 0x15
  | .uiret .. => 0x15
  | .wait .. => 0x16
  | .vadd .. => 0x18
  | .vsub .. => 0x19
  | .vmul .. => 0x1A
  | .vfma .. => 0x1B
  | .vfms .. => 0x1C
  | .vmax .. => 0x1D
  | .vmin .. => 0x1E
  | .vand .. => 0x1F
  | .vor .. => 0x1F
  | .vxor .. => 0x1F
  | .vshl .. => 0x20
  | .vshr .. => 0x20
  | .vsar .. => 0x20
  | .vcmp .. => 0x21
  | .vsel .. => 0x22
  | .vshf .. => 0x23
  | .vrotl .. => 0x24
  | .vmov .. => 0x25
  | .vabs .. => 0x25
  | .vneg .. => 0x25
  | .viota .. => 0x25
  | .vclr .. => 0x25
  | .vbc .. => 0x26
  | .vxt .. => 0x26
  | .vins .. => 0x26
  | .vredSum .. => 0x27
  | .vredMax .. => 0x27
  | .vredMin .. => 0x27
  | .vcvt .. => 0x28
  | .cmptv .. => 0x29
  | .vexp2 .. => 0x2A
  | .vlog2 .. => 0x2A
  | .vrcp .. => 0x2A
  | .vrsq .. => 0x2A
  | .vsin .. => 0x2A
  | .vtanh .. => 0x2A
  | .vunpk .. => 0x2B
  | .vpack .. => 0x2C
  | .vbscl .. => 0x2D
  | .vld .. => 0x2E
  | .vst .. => 0x2E
  | .vlds .. => 0x2E
  | .vsts .. => 0x2E
  | .sadd .. => 0x2F
  | .ssub .. => 0x2F
  | .smul .. => 0x2F
  | .sdiv .. => 0x2F
  | .suni .. => 0x30
  | .sint .. => 0x30
  | .scmp .. => 0x30
  | .sneg .. => 0x31
  | .sfrom .. => 0x31
  | .sbnd .. => 0x31
  | .sarc .. => 0x31
  | .smsk .. => 0x31
  | .sred .. => 0x31
  | .spld .. => 0x32
  | .spst .. => 0x32
  | .ld .. => 0x33
  | .lds .. => 0x33
  | .lda .. => 0x33
  | .pref .. => 0x33
  | .st .. => 0x34
  | .sts .. => 0x34
  | .strl .. => 0x34
  | .amoAdd .. => 0x35
  | .amoAnd .. => 0x35
  | .amoOr .. => 0x35
  | .amoXor .. => 0x35
  | .amoMin .. => 0x35
  | .amoMax .. => 0x35
  | .amoSwap .. => 0x35
  | .cas .. => 0x35
  | .fence .. => 0x36
  | .fenceAll .. => 0x36
  | .waitaNe .. => 0x36
  | .waitaEq .. => 0x36
  | .hwait .. => 0x37
  | .hstat .. => 0x37
  | .hrel .. => 0x37
  | .hset .. => 0x37
  | .hexp .. => 0x37
  | .hswap .. => 0x37
  | .bkrel .. => 0x37
  | .bkwait .. => 0x37
  | .barv .. => 0x37
  | .barvInit .. => 0x37
  | .bart .. => 0x37
  | .barw .. => 0x37
  | .uien .. => 0x37
  | .clvl .. => 0x38
  | .cgo .. => 0x38
  | .cgox .. => 0x38
  | .cqry .. => 0x38
  | .mxcall .. => 0x39
  | .mxp .. => 0x3A
  | .mxpr .. => 0x3A
  | .mxldu .. => 0x3A
  | .mxrt .. => 0x3A
  | .mxstat .. => 0x3A
  | .shand .. => 0x3B
  | .sown .. => 0x3B
  | .genr .. => 0x3B
  | .tenend .. => 0x3B
  | .genprobe .. => 0x3B
  | .tidx .. => 0x3B
  | .tnext .. => 0x3B
  | .suspend .. => 0x3B
  | .endTask .. => 0x3B
  | .linkq .. => 0x3B
  | .ringld .. => 0x3B
  | .vdot .. => 0x17
  | .vabd .. => 0x3C
  | .vclmp .. => 0x3C
  | .vcvth .. => 0x3D
  | .vscl .. => 0x3E
  | _ => 64

/-- The guard predicate (R20); p0 for NOP and for the rows that are no slot. -/
def Instr.guard : Instr → BitVec 3
  | .add p _ _ _ => p
  | .sub p _ _ _ => p
  | .and p _ _ _ => p
  | .or p _ _ _ => p
  | .xor p _ _ _ => p
  | .andn p _ _ _ => p
  | .orn p _ _ _ => p
  | .shl p _ _ _ => p
  | .shr p _ _ _ => p
  | .sar p _ _ _ => p
  | .min p _ _ _ => p
  | .max p _ _ _ => p
  | .minu p _ _ _ => p
  | .maxu p _ _ _ => p
  | .clz p _ _ => p
  | .popc p _ _ => p
  | .bfx p _ _ _ => p
  | .bfi p _ _ _ => p
  | .cmpt p _ _ => p
  | .mul p _ _ _ => p
  | .mulh p _ _ _ => p
  | .mulhu p _ _ _ => p
  | .div p _ _ _ => p
  | .divu p _ _ _ => p
  | .rem p _ _ _ => p
  | .remu p _ _ _ => p
  | .cmp p _ _ _ _ => p
  | .sel p _ _ _ _ => p
  | .pand p _ _ _ => p
  | .por p _ _ _ => p
  | .pxor p _ _ _ => p
  | .pget p _ => p
  | .pset p _ _ => p
  | .addi p _ _ _ => p
  | .andi p _ _ _ => p
  | .ori p _ _ _ => p
  | .xori p _ _ _ => p
  | .shli p _ _ _ => p
  | .shri p _ _ _ => p
  | .sari p _ _ _ => p
  | .cmpi p _ _ _ _ => p
  | .cmpiu p _ _ _ _ => p
  | .movi p _ _ => p
  | .movhi p _ _ => p
  | .csrr p _ _ => p
  | .csrw p _ _ => p
  | .br p _ => p
  | .brl p _ => p
  | .loop p _ _ => p
  | .loopr p _ _ _ => p
  | .jr p _ => p
  | .jrl p _ _ => p
  | .trap p _ => p
  | .eret p => p
  | .uiret p => p
  | .wait p _ _ _ _ => p
  | .vadd p _ _ _ _ => p
  | .vsub p _ _ _ _ => p
  | .vmul p _ _ _ _ => p
  | .vfma p _ _ _ _ => p
  | .vfms p _ _ _ _ => p
  | .vmax p _ _ _ _ => p
  | .vmin p _ _ _ _ => p
  | .vand p _ _ _ => p
  | .vor p _ _ _ => p
  | .vxor p _ _ _ => p
  | .vshl p _ _ _ => p
  | .vshr p _ _ _ => p
  | .vsar p _ _ _ => p
  | .vcmp p _ _ _ _ _ => p
  | .vsel p _ _ _ _ => p
  | .vshf p _ _ _ _ => p
  | .vrotl p _ _ _ _ => p
  | .vmov p _ _ _ => p
  | .vabs p _ _ _ => p
  | .vneg p _ _ _ => p
  | .viota p _ _ => p
  | .vclr p _ => p
  | .vbc p _ _ _ => p
  | .vxt p _ _ _ _ => p
  | .vins p _ _ _ _ => p
  | .vredSum p _ _ _ => p
  | .vredMax p _ _ _ => p
  | .vredMin p _ _ _ => p
  | .vcvt p _ _ _ _ => p
  | .cmptv p _ _ _ => p
  | .vexp2 p _ _ _ => p
  | .vlog2 p _ _ _ => p
  | .vrcp p _ _ _ => p
  | .vrsq p _ _ _ => p
  | .vsin p _ _ _ => p
  | .vtanh p _ _ _ => p
  | .vunpk p _ _ _ _ _ => p
  | .vpack p _ _ _ _ _ => p
  | .vbscl p _ _ _ _ => p
  | .vld p _ _ _ => p
  | .vst p _ _ _ => p
  | .vlds p _ _ _ => p
  | .vsts p _ _ _ => p
  | .sadd p _ _ _ _ => p
  | .ssub p _ _ _ _ => p
  | .smul p _ _ _ _ => p
  | .sdiv p _ _ _ _ => p
  | .suni p _ _ _ _ => p
  | .sint p _ _ _ _ => p
  | .scmp p _ _ _ _ => p
  | .sneg p _ _ _ => p
  | .sfrom p _ _ _ => p
  | .sbnd p _ _ _ => p
  | .sarc p _ _ _ => p
  | .smsk p _ _ _ => p
  | .sred p _ _ _ => p
  | .spld p _ _ _ _ => p
  | .spst p _ _ _ _ => p
  | .ld p _ _ _ _ => p
  | .lds p _ _ _ _ _ => p
  | .lda p _ _ _ _ _ => p
  | .pref p _ _ => p
  | .st p _ _ _ _ => p
  | .sts p _ _ _ _ _ => p
  | .strl p _ _ _ _ _ => p
  | .amoAdd p _ _ _ _ => p
  | .amoAnd p _ _ _ _ => p
  | .amoOr p _ _ _ _ => p
  | .amoXor p _ _ _ _ => p
  | .amoMin p _ _ _ _ => p
  | .amoMax p _ _ _ _ => p
  | .amoSwap p _ _ _ _ => p
  | .cas p _ _ _ _ => p
  | .fence p _ => p
  | .fenceAll p _ => p
  | .waitaNe p _ _ _ _ => p
  | .waitaEq p _ _ _ _ => p
  | .hwait p _ _ => p
  | .hstat p _ _ => p
  | .hrel p _ => p
  | .hset p _ _ _ => p
  | .hexp p _ _ _ => p
  | .hswap p _ => p
  | .bkrel p _ => p
  | .bkwait p _ => p
  | .barv p _ _ => p
  | .barvInit p _ _ => p
  | .bart p _ _ => p
  | .barw p _ => p
  | .uien p _ _ => p
  | .clvl p _ _ _ => p
  | .cgo p _ _ _ => p
  | .cgox p _ _ _ => p
  | .cqry p _ _ _ => p
  | .mxcall p _ _ _ => p
  | .mxp p _ _ => p
  | .mxpr p _ _ => p
  | .mxldu p _ _ => p
  | .mxrt p _ _ => p
  | .mxstat p _ _ => p
  | .shand p _ _ => p
  | .sown p _ _ => p
  | .genr p _ => p
  | .tenend p _ _ => p
  | .genprobe p _ _ _ => p
  | .tidx p _ => p
  | .tnext p _ => p
  | .suspend p _ _ => p
  | .endTask p => p
  | .linkq p _ _ => p
  | .ringld p _ _ => p
  | .vdot p _ _ _ _ => p
  | .vabd p _ _ _ _ => p
  | .vclmp p _ _ _ _ => p
  | .vcvth p _ _ _ _ => p
  | .vscl p _ _ _ => p
  | _ => 0#3

/-- Unit classes (R45). -/
inductive UnitClass where
  | none | sa | va | sf | ls | br | up | pk | es
  deriving DecidableEq, Repr

/-- The class of a major (R32, R444). -/
def classOfMajor (m : Nat) : UnitClass :=
  if m = 0 then .none
  else if m ≤ 0x0E then .sa
  else if m ≤ 0x10 then .es
  else if m ≤ 0x15 then .br
  else if m = 0x16 then .es
  else if m ≤ 0x29 then .va
  else if m = 0x2A then .sf
  else if m = 0x2B then .up
  else if m = 0x2C then .pk
  else if m = 0x2D then .up
  else if m = 0x2E then .ls
  else if m ≤ 0x31 then .va
  else if m ≤ 0x36 then .ls
  else if m ≤ 0x3B then .es
  else if m ≤ 0x3E then .va
  else .none

/-- At most this many operations of a class in one bundle (R45). -/
def UnitClass.limit : UnitClass → Nat
  | .none => 4
  | .sa => 2
  | .va => 2
  | .sf => 2
  | .ls => 2
  | .br => 1
  | .up => 1
  | .pk => 1
  | .es => 1

/-- Majors marked I: a kind-00 header widens their immediate (R25, R32). -/
def majorTakesImm (m : Nat) : Bool :=
  [0x06, 0x07, 0x08, 0x09, 0x0B, 0x0C, 0x0D, 0x0E, 0x11, 0x12, 0x2E, 0x32, 0x33, 0x34].contains m
/-- Majors marked R: RND (R26, R32). -/
def majorTakesRnd (m : Nat) : Bool :=
  [0x18, 0x19, 0x1A, 0x1B, 0x1C, 0x27, 0x28, 0x2A, 0x2C, 0x2D].contains m
/-- Majors marked N: SAT. -/
def majorTakesSat (m : Nat) : Bool := [0x28, 0x2C].contains m
/-- Majors marked S: SCOPE. -/
def majorTakesScope (m : Nat) : Bool := [0x38, 0x39].contains m
/-- Majors marked C: HINT. -/
def majorTakesHint (m : Nat) : Bool := [0x33, 0x34, 0x35, 0x38].contains m

/-- Lanes of a TYPE code (R34). -/
def lanesOf (t : BitVec 2) : Nat := if t.toNat < 2 then 32 else 64

/-- The largest part number of a narrow format and a lane type (R153). -/
def partLimit (f : BitVec 4) (t : BitVec 2) : Nat :=
  let wide := decide (lanesOf t = 64)
  match f.toNat with
  | 2 => if wide then 1 else 4
  | 3 => if wide then 1 else 4
  | 4 => if wide then 3 else 7
  | 7 => if wide then 3 else 7
  | 8 => if wide then 2 else 5
  | _ => if wide then 1 else 3

/-- Is this an assigned CSR index (R86)? -/
def csrAssigned (c : Nat) : Bool :=
  c ≤ 4 || c == 0x10 || c == 0x11 || (0x18 ≤ c && c ≤ 0x1B) || c == 0x20 || c == 0x21
    || (0x30 ≤ c && c ≤ 0x32) || (0x100 ≤ c && c ≤ 0x13F) || (0x200 ≤ c && c ≤ 0x22F)
    || (0x400 ≤ c && c ≤ 0x406)

/-- The illegal-bundle subcode (2 or 3) that a slot's own operands call for beyond its fixed bits, or 0:
conditions and formats left unassigned, types and directions not accepted, operands past their limit
(R33, R34, R85, R144-R157). -/
def Instr.badCode : Instr → Nat
  | .cmp _ _ _ _ c => if 9 < c.toNat then 2 else 0
  | .cmpi _ c _ _ _ => if 5 < c.toNat then 2 else 0
  | .cmpiu _ c _ _ _ => if 3 < c.toNat then 2 else 0
  | .csrr _ _ c => if csrAssigned c.toNat then 0 else 2
  | .csrw _ _ c => if csrAssigned c.toNat then 0 else 2
  | .vrotl _ _ _ n t => if lanesOf t ≤ n.toNat then 3 else 0
  | .vxt _ _ _ l t => if lanesOf t ≤ l.toNat then 3 else 0
  | .vins _ _ _ l t => if lanesOf t ≤ l.toNat then 3 else 0
  | .vcvt _ _ _ e t => if e = t then 2 else 0
  | .vexp2 _ _ _ t => if t = 1#2 then 2 else 0
  | .vlog2 _ _ _ t => if t = 1#2 then 2 else 0
  | .vrcp _ _ _ t => if t = 1#2 then 2 else 0
  | .vrsq _ _ _ t => if t = 1#2 then 2 else 0
  | .vsin _ _ _ t => if t = 1#2 then 2 else 0
  | .vtanh _ _ _ t => if t = 1#2 then 2 else 0
  | .vunpk _ _ _ f k t =>
    if 8 < f.toNat then 2
    else if t = 1#2 && !(f.toNat == 5 || f.toNat == 6 || f.toNat == 7) then 2
    else if partLimit f t < k.toNat then 3 else 0
  | .vpack _ _ _ f k t => if 8 < f.toNat then 2 else if partLimit f t < k.toNat then 3 else 0
  | .vbscl _ _ _ _ t => if t = 1#2 then 2 else 0
  | .vld _ v _ _ => if v.extractLsb' 5 2 = 0#2 then 0 else 2
  | .vst _ v _ _ => if v.extractLsb' 5 2 = 0#2 then 0 else 2
  | .vlds _ v _ _ => if v.extractLsb' 5 2 = 0#2 then 2 else 0
  | .vsts _ v _ _ => if v.extractLsb' 5 2 = 0#2 then 2 else 0
  | .cqry _ _ _ q => if 5 < q.toNat then 2 else 0
  | .genprobe _ _ _ q => if 1 < q.toNat then 2 else 0
  | .mxrt _ n _ => if 32 ≤ n.toNat then 3 else 0
  | .clvl _ n _ b => if 7 ≤ n.toNat then 3 else if n = 6#6 && b ≠ 0#6 then 3 else 0
  | .vdot _ _ _ _ t => if t.toNat < 2 then 2 else 0
  | .vcvth _ _ _ e t => if t.toNat < 2 || 2 ≤ e.toNat then 2 else 0
  | _ => 0

/-- The same for an Igpor slot, whose seven-bit vector fields hold no direction (R439): VLD and VST name
any vector, and the column forms are not Igpor (R441). -/
def Instr.badCodeIgpor (i : Instr) : Nat :=
  match i with
  | .vld .. => 0
  | .vst .. => 0
  | _ => i.badCode

/-- RND must be zero with TYPE i32 and in VRED MAX and MIN (R26, R150, R155). -/
def Instr.rndBarred : Instr → Bool
  | .vadd _ _ _ _ t => t == 1#2
  | .vsub _ _ _ _ t => t == 1#2
  | .vmul _ _ _ _ t => t == 1#2
  | .vfma _ _ _ _ t => t == 1#2
  | .vfms _ _ _ _ t => t == 1#2
  | .vredSum _ _ _ t => t == 1#2
  | .vredMax .. => true
  | .vredMin .. => true
  | .vcvt _ _ _ _ t => t == 1#2
  | .vpack _ _ _ _ _ t => t == 1#2
  | _ => false

/-- CLVL and CQRY take no mode field (R216, R230). -/
def Instr.noMode : Instr → Bool
  | .clvl .. => true
  | .cqry .. => true
  | _ => false

/-- The kind of a bundle's header (R23). -/
inductive HdrKind where
  | none | imm | mode | portable
  deriving DecidableEq, Repr

/-- Which bits of an Igpor extension byte extend a register of this operation (R438). -/
def Instr.extMask (i : Instr) : Byte :=
  match i with
  | .nop => 0x00#8
  | .clz .. => 0xF2#8
  | .popc .. => 0xF2#8
  | .cmpt .. => 0x3E#8
  | .cmp .. => 0x7E#8
  | .sel .. => 0xFF#8
  | .pand .. => 0x56#8
  | .por .. => 0x56#8
  | .pxor .. => 0x56#8
  | .pget .. => 0xC2#8
  | .pset .. => 0x72#8
  | .cmpi .. => 0x72#8
  | .cmpiu .. => 0x72#8
  | .movi .. => 0xC2#8
  | .movhi .. => 0xC2#8
  | .csrr .. => 0xC2#8
  | .csrw .. => 0x32#8
  | .jr .. => 0x32#8
  | .jrl .. => 0xF2#8
  | .vcmp .. => 0xD6#8
  | .vabd .. => 0xD6#8
  | .vclmp .. => 0xD6#8
  | .cmptv .. => 0x16#8
  | .viota .. => 0x42#8
  | .vclr .. => 0x42#8
  | .vbc .. => 0x72#8
  | .vxt .. => 0x72#8
  | .vins .. => 0x72#8
  | .vscl .. => 0x72#8
  | .vld .. => 0x72#8
  | .vst .. => 0x72#8
  | .vlds .. => 0x72#8
  | .vsts .. => 0x72#8
  | .pref .. => 0x32#8
  | .fence .. => 0x02#8
  | .fenceAll .. => 0x02#8
  | .hstat .. => 0xC2#8
  | .hset .. => 0x3E#8
  | .hexp .. => 0x3E#8
  | .bkrel .. => 0x32#8
  | .bkwait .. => 0x32#8
  | .barv .. => 0x32#8
  | .barvInit .. => 0x32#8
  | .bart .. => 0x32#8
  | .clvl _ n _ _ => if n = 6#6 then 0x32#8 else 0x3E#8
  | .cgo .. => 0x3E#8
  | .cgox .. => 0x3E#8
  | .cqry .. => 0xF2#8
  | .mxp .. => 0x32#8
  | .mxpr .. => 0xC2#8
  | .mxldu .. => 0x3E#8
  | .mxrt .. => 0x32#8
  | .mxstat .. => 0xC2#8
  | .shand .. => 0x32#8
  | .sown .. => 0xF2#8
  | .genr .. => 0xC2#8
  | .tenend .. => 0x3E#8
  | .genprobe .. => 0xF2#8
  | .tidx .. => 0xC2#8
  | .tnext .. => 0xC2#8
  | .suspend .. => 0x3E#8
  | .linkq .. => 0xF2#8
  | .ringld .. => 0x32#8
  | .hwait .. => 0x02#8
  | .hrel .. => 0x02#8
  | .hswap .. => 0x02#8
  | .barw .. => 0x02#8
  | .uien .. => 0x02#8
  | .mxcall .. => 0x02#8
  | .endTask .. => 0x02#8
  | .wait .. => 0x02#8
  | .br .. => 0x02#8
  | .brl .. => 0x02#8
  | .loop .. => 0x02#8
  | .loopr .. => 0x02#8
  | .trap .. => 0x02#8
  | .eret .. => 0x02#8
  | .uiret .. => 0x02#8
  | _ =>
    let m := i.major
    if m ≤ 2 then 0xFE#8
    else if m ≤ 0x0A then 0xF2#8
    else if m ≤ 0x23 then 0x56#8
    else if m ≤ 0x2C then 0x52#8
    else if m = 0x2D then 0x56#8
    else if m = 0x2F then 0xD6#8
    else if m = 0x30 then 0xD6#8
    else if m = 0x31 then 0x52#8
    else if m ≤ 0x34 then 0xF2#8
    else if m ≤ 0x36 then 0xFE#8
    else if m = 0x17 then 0x56#8
    else 0x52#8

/-- The forms that are not Igpor (R441), besides any slot that writes s62: subcode 2 as an operation the
portable machine lacks (log entry 5). -/
def Instr.notIgpor : Instr → Bool
  | .vlds .. => true
  | .vsts .. => true
  | .loopr .. => true
  | .uien .. => true
  | .uiret .. => true
  | .csrr _ _ c => c.toNat == 0x10 || c.toNat == 0x11
  | .csrw _ _ c => c.toNat == 0x10 || c.toNat == 0x11
  | _ => false

/-- The majors a user-level interrupt handler may hold (R108). -/
def handlerMajor (m : Nat) : Bool :=
  m == 0x00 || m == 0x01 || (0x03 ≤ m && m ≤ 0x12) || m == 0x15 || (0x33 ≤ m && m ≤ 0x38)

/-- The subcode that a slot earns of its header's byte x, 0 where none (R24-R27, R438): 7 for a byte or
mode field it does not take, 3 for Igpor bits that extend no register. -/
def Instr.badExt (i : Instr) (k : HdrKind) (x : Byte) : Nat :=
  match k with
  | .none => 0
  | .imm => if x = 0#8 || majorTakesImm i.major then 0 else 7
  | .mode =>
    let m := i.major
    if (x.extractLsb' 7 1 ≠ 0#1 && !majorTakesSat m) || (x.extractLsb' 5 2 ≠ 0#2 && !majorTakesHint m)
      || (x.extractLsb' 3 2 ≠ 0#2 && !majorTakesScope m)
      || (x.extractLsb' 0 3 ≠ 0#3 && (!majorTakesRnd m || i.rndBarred))
      || 4 < (x.extractLsb' 0 3).toNat || (i.noMode && x ≠ 0#8) then 7 else 0
  | .portable => if x &&& ~~~i.extMask = 0#8 then 0 else 3

/-- A place that a slot writes, judged by the encoding alone (R59). -/
inductive Place where
  /-- a scalar register -/
  | scalar (n : Nat)
  /-- a predicate -/
  | pred (n : Nat)
  /-- a CSR, VWB, VROT and the loop counters among them -/
  | flag (csr : Nat)
  /-- a native vector operand -/
  | vec (dir idx : Nat)
  /-- an Igpor vector -/
  | pvec (n : Nat)
  /-- scratchpad bytes lo to hi-1 from a base register -/
  | spm (base : Nat) (lo hi : Int)
  deriving DecidableEq, Repr

/-- The signed value of a field widened by the header byte under kind 00 (R25, R31). -/
def immS (k : HdrKind) (x : Byte) {w : Nat} (f : BitVec w) : Int :=
  match k with
  | .imm => (x ++ f).toInt
  | _ => f.toInt

/-- High bits that an Igpor extension byte lends to the first, second and third register (R438). -/
def extD (k : HdrKind) (x : Byte) : Nat := if k = .portable then x.toNat / 64 else 0
def extA (k : HdrKind) (x : Byte) : Nat := if k = .portable then x.toNat / 16 % 4 else 0
def extB (k : HdrKind) (x : Byte) : Nat := if k = .portable then x.toNat / 4 % 4 else 0
def extP (k : HdrKind) (x : Byte) : Nat := if k = .portable then x.toNat / 2 % 2 else 0
def extS (k : HdrKind) (x : Byte) : Nat := if k = .portable then x.toNat % 2 else 0

/-- The vector place of a seven-bit operand. -/
def vecPlace (k : HdrKind) (x : Byte) (v : BitVec 7) : Place :=
  if k = .portable then .pvec (v.toNat + 128 * (x.toNat / 64 % 2)) else .vec (v.toNat / 32) (v.toNat % 32)
/-- The vector place of a V3C destination. -/
def rowPlace (k : HdrKind) (x : Byte) (d : BitVec 5) : Place :=
  if k = .portable then .pvec (d.toNat + 32 * (x.toNat / 64)) else .vec 0 d.toNat

/-- The places a slot operation writes (R59). -/
def Instr.writes (k : HdrKind) (x : Byte) : Instr → List Place
  | .add _ d _ _ => [.scalar (d.toNat + 64 * extD k x)]
  | .sub _ d _ _ => [.scalar (d.toNat + 64 * extD k x)]
  | .and _ d _ _ => [.scalar (d.toNat + 64 * extD k x)]
  | .or _ d _ _ => [.scalar (d.toNat + 64 * extD k x)]
  | .xor _ d _ _ => [.scalar (d.toNat + 64 * extD k x)]
  | .andn _ d _ _ => [.scalar (d.toNat + 64 * extD k x)]
  | .orn _ d _ _ => [.scalar (d.toNat + 64 * extD k x)]
  | .shl _ d _ _ => [.scalar (d.toNat + 64 * extD k x)]
  | .shr _ d _ _ => [.scalar (d.toNat + 64 * extD k x)]
  | .sar _ d _ _ => [.scalar (d.toNat + 64 * extD k x)]
  | .min _ d _ _ => [.scalar (d.toNat + 64 * extD k x)]
  | .max _ d _ _ => [.scalar (d.toNat + 64 * extD k x)]
  | .minu _ d _ _ => [.scalar (d.toNat + 64 * extD k x)]
  | .maxu _ d _ _ => [.scalar (d.toNat + 64 * extD k x)]
  | .clz _ d _ => [.scalar (d.toNat + 64 * extD k x)]
  | .popc _ d _ => [.scalar (d.toNat + 64 * extD k x)]
  | .bfx _ d _ _ => [.scalar (d.toNat + 64 * extD k x)]
  | .bfi _ d _ _ => [.scalar (d.toNat + 64 * extD k x)]
  | .mul _ d _ _ => [.scalar (d.toNat + 64 * extD k x)]
  | .mulh _ d _ _ => [.scalar (d.toNat + 64 * extD k x)]
  | .mulhu _ d _ _ => [.scalar (d.toNat + 64 * extD k x)]
  | .div _ d _ _ => [.scalar (d.toNat + 64 * extD k x)]
  | .divu _ d _ _ => [.scalar (d.toNat + 64 * extD k x)]
  | .rem _ d _ _ => [.scalar (d.toNat + 64 * extD k x)]
  | .remu _ d _ _ => [.scalar (d.toNat + 64 * extD k x)]
  | .cmp _ d _ _ _ => [.pred (d.toNat + 8 * (extD k x % 2))]
  | .sel _ d _ _ _ => [.scalar (d.toNat + 64 * extD k x)]
  | .pand _ d _ _ => [.pred (d.toNat + 8 * (extD k x % 2))]
  | .por _ d _ _ => [.pred (d.toNat + 8 * (extD k x % 2))]
  | .pxor _ d _ _ => [.pred (d.toNat + 8 * (extD k x % 2))]
  | .pget _ d => [.scalar (d.toNat + 64 * extD k x)]
  | .pset _ d _ => [.pred (d.toNat + 8 * (extD k x % 2))]
  | .addi _ d _ _ => [.scalar (d.toNat + 64 * extD k x)]
  | .andi _ d _ _ => [.scalar (d.toNat + 64 * extD k x)]
  | .ori _ d _ _ => [.scalar (d.toNat + 64 * extD k x)]
  | .xori _ d _ _ => [.scalar (d.toNat + 64 * extD k x)]
  | .shli _ d _ _ => [.scalar (d.toNat + 64 * extD k x)]
  | .shri _ d _ _ => [.scalar (d.toNat + 64 * extD k x)]
  | .sari _ d _ _ => [.scalar (d.toNat + 64 * extD k x)]
  | .cmpi _ _ d _ _ => [.pred (d.toNat + 8 * (extD k x % 2))]
  | .cmpiu _ _ d _ _ => [.pred (d.toNat + 8 * (extD k x % 2))]
  | .movi _ d _ => [.scalar (d.toNat + 64 * extD k x)]
  | .movhi _ d _ => [.scalar (d.toNat + 64 * extD k x)]
  | .csrr _ d _ => [.scalar (d.toNat + 64 * extD k x)]
  | .csrw _ _ c => [.flag c.toNat]
  | .brl _ _ => [.scalar 63]
  | .loop _ l _ => [.flag (0x18 + l.toNat)]
  | .loopr _ l _ _ => [.flag (0x18 + l.toNat), .flag 0x11]
  | .jrl _ d _ => [.scalar (d.toNat + 64 * extD k x)]
  | .vadd _ d _ _ _ => [vecPlace k x d]
  | .vsub _ d _ _ _ => [vecPlace k x d]
  | .vmul _ d _ _ _ => [vecPlace k x d]
  | .vfma _ d _ _ _ => [vecPlace k x d]
  | .vfms _ d _ _ _ => [vecPlace k x d]
  | .vmax _ d _ _ _ => [vecPlace k x d]
  | .vmin _ d _ _ _ => [vecPlace k x d]
  | .vand _ d _ _ => [vecPlace k x d]
  | .vor _ d _ _ => [vecPlace k x d]
  | .vxor _ d _ _ => [vecPlace k x d]
  | .vshl _ d _ _ => [vecPlace k x d]
  | .vshr _ d _ _ => [vecPlace k x d]
  | .vsar _ d _ _ => [vecPlace k x d]
  | .vcmp _ _ d _ _ _ => [rowPlace k x d]
  | .vsel _ d _ _ _ => [vecPlace k x d]
  | .vshf _ d _ _ _ => [vecPlace k x d]
  | .vrotl _ d _ _ _ => [vecPlace k x d]
  | .vmov _ d _ _ => [vecPlace k x d]
  | .vabs _ d _ _ => [vecPlace k x d]
  | .vneg _ d _ _ => [vecPlace k x d]
  | .viota _ d _ => [vecPlace k x d]
  | .vclr _ d => [vecPlace k x d]
  | .vbc _ d _ _ => [vecPlace k x d]
  | .vxt _ _ d _ _ => [.scalar (d.toNat + 64 * extA k x)]
  | .vins _ v _ _ _ => [vecPlace k x v]
  | .vredSum _ d _ _ => [vecPlace k x d]
  | .vredMax _ d _ _ => [vecPlace k x d]
  | .vredMin _ d _ _ => [vecPlace k x d]
  | .vcvt _ d _ _ _ => [vecPlace k x d]
  | .vexp2 _ d _ _ => [vecPlace k x d]
  | .vlog2 _ d _ _ => [vecPlace k x d]
  | .vrcp _ d _ _ => [vecPlace k x d]
  | .vrsq _ d _ _ => [vecPlace k x d]
  | .vsin _ d _ _ => [vecPlace k x d]
  | .vtanh _ d _ _ => [vecPlace k x d]
  | .vunpk _ d _ _ _ _ => [vecPlace k x d]
  | .vpack _ d _ _ _ _ => [vecPlace k x d]
  | .vbscl _ d _ _ _ => [vecPlace k x d]
  | .vld _ v _ _ => [vecPlace k x v]
  | .vst _ _ a o => [.spm (a.toNat + 64 * extA k x) (immS k x o * 128) (immS k x o * 128 + 128)]
  | .vlds _ v _ _ => [vecPlace k x v]
  | .vsts _ _ a o => [.spm (a.toNat + 64 * extA k x) (immS k x o * 128) (immS k x o * 128 + 128)]
  | .sadd _ d _ _ _ => [rowPlace k x d]
  | .ssub _ d _ _ _ => [rowPlace k x d]
  | .smul _ d _ _ _ => [rowPlace k x d]
  | .sdiv _ d _ _ _ => [rowPlace k x d]
  | .suni _ d _ _ _ => [rowPlace k x d]
  | .sint _ d _ _ _ => [rowPlace k x d]
  | .scmp _ d _ _ _ => [rowPlace k x d]
  | .sneg _ d _ _ => [vecPlace k x d]
  | .sfrom _ d _ _ => [vecPlace k x d]
  | .sbnd _ d _ _ => [vecPlace k x d]
  | .sarc _ d _ _ => [vecPlace k x d]
  | .smsk _ d _ _ => [vecPlace k x d]
  | .sred _ d _ _ => [vecPlace k x d]
  | .spld _ d _ _ _ => [.scalar (d.toNat + 64 * extD k x)]
  | .spst _ _ a o z => [.spm (a.toNat + 64 * extA k x) (immS k x o * (2 ^ z.toNat : Nat)) (immS k x o * (2 ^ z.toNat : Nat) + (2 ^ z.toNat : Nat))]
  | .ld _ d _ _ _ => [.scalar (d.toNat + 64 * extD k x)]
  | .lds _ d _ _ _ _ => [.scalar (d.toNat + 64 * extD k x)]
  | .lda _ d _ _ _ _ => [.scalar (d.toNat + 64 * extD k x)]
  | .amoAdd _ d _ _ _ => [.scalar (d.toNat + 64 * extD k x)]
  | .amoAnd _ d _ _ _ => [.scalar (d.toNat + 64 * extD k x)]
  | .amoOr _ d _ _ _ => [.scalar (d.toNat + 64 * extD k x)]
  | .amoXor _ d _ _ _ => [.scalar (d.toNat + 64 * extD k x)]
  | .amoMin _ d _ _ _ => [.scalar (d.toNat + 64 * extD k x)]
  | .amoMax _ d _ _ _ => [.scalar (d.toNat + 64 * extD k x)]
  | .amoSwap _ d _ _ _ => [.scalar (d.toNat + 64 * extD k x)]
  | .cas _ d _ _ _ => [.scalar (d.toNat + 64 * extD k x)]
  | .waitaNe _ d _ _ _ => [.scalar (d.toNat + 64 * extD k x)]
  | .waitaEq _ d _ _ _ => [.scalar (d.toNat + 64 * extD k x)]
  | .hstat _ d _ => [.scalar (d.toNat + 64 * extD k x)]
  | .cqry _ d _ _ => [.scalar (d.toNat + 64 * extD k x)]
  | .mxpr _ d _ => [.scalar (d.toNat + 64 * extD k x)]
  | .mxstat _ d _ => [.scalar (d.toNat + 64 * extD k x)]
  | .sown _ d _ => [.scalar (d.toNat + 64 * extD k x)]
  | .genr _ d => [.scalar (d.toNat + 64 * extD k x)]
  | .genprobe _ d _ _ => [.scalar (d.toNat + 64 * extD k x)]
  | .tidx _ d => [.scalar (d.toNat + 64 * extD k x)]
  | .tnext _ d => [.scalar (d.toNat + 64 * extD k x)]
  | .linkq _ d _ => [.scalar (d.toNat + 64 * extD k x)]
  | .vdot _ d _ _ _ => [vecPlace k x d]
  | .vabd _ d _ _ _ => [rowPlace k x d]
  | .vclmp _ d _ _ _ => [rowPlace k x d]
  | .vcvth _ d _ _ _ => [vecPlace k x d]
  | .vscl _ d _ _ => [vecPlace k x d]
  | _ => []

/-- Do two writes of one bundle clash (R59)? s0 and p0 are discarded. -/
def Place.clash : Place → Place → Bool
  | .scalar a, .scalar b => a == b && a != 0
  | .pred a, .pred b => a == b && a != 0
  | .flag a, .flag b => a == b
  | .vec d i, .vec e j => d != e || i == j
  | .pvec a, .pvec b => a == b
  | .spm a l h, .spm b m i => a == b && decide (l < i) && decide (m < h)
  | _, _ => false

/-! ### Micro-ops, packets and events -/

/-- Does a micro-op keep its reserved fields (R251)? -/
def Instr.microOk : Instr → Bool
  | .zero l rp => l == 1 || rp == 0
  | .mma _ _ _ mp ah bh sp _ ain bin => (sp == 1 || mp == 0) && (ain == 0 || ah == 0) && (bin == 0 || bh == 0)
  | .drain _ scp sc _ => sc == 1 || scp == 0
  | .adv _ sp ps stp => (ps == 1 || sp == 0) && (ps == 0 || stp == 0)
  | _ => true
/-- Does a packet keep the limits of its fields (R339, R364, R430)? -/
def Instr.packetOk : Instr → Bool
  | .waitmem op _ _ _ => op != 3#2
  | .signal v _ _ => !v.getLsbD 11
  | .calls len _ => len != 0 && decide (len.toNat ≤ 65536)
  | .handover cpl _ stack core handle _ _ =>
    decide (stack.toNat < 8) && (cpl == 0#1 || (decide (core.toNat < 64) && decide (handle.toNat < 64)))
  | _ => true
/-- Does the agent that a platform control names exist (R5, R14, R17)? -/
def PlatformReg.placed : PlatformReg → Bool
  | .coreTenancy core => decide (core < 512)
  | .hostRange => true
  | .aperture => true
  | .reportRing die => decide (die < 9)
  | .reportHead die => decide (die < 9)
  | .violation stack _ _ => decide (stack < 8)
  | .brickQuota die ten => decide (die < 8) && decide (ten < 4096)
  | .debug die ten => decide (die < 8) && decide (ten < 4096)
  | .capture die ten _ => decide (die < 8) && decide (ten < 4096)
  | .captureCount die ten => decide (die < 8) && decide (ten < 4096)
  | .identity die event => decide (die < 9) && decide (event < 5)
  | .commandPort port => decide (port < 4)
  | .endFence die ten => decide (die < 8) && decide (ten < 4096)
  | .hdmErrors => true
  | .prectl core => decide (core < 512)
  | .debt die ten => decide (die < 8) && decide (ten < 4096)
  | .queueWord die queue n => decide (die < 8) && decide (queue < 128) && decide (n < 8)
  | .recordWord die ten n => decide (die < 8) && decide (ten < 4096) && decide (n < 8)
  | .flowWord flow n => decide (flow < 4096) && decide (n < 4)
  | .owner stack => decide (stack < 8)
  | .slot die idx => decide (die < 8) && decide (idx < 256)
  | .mapEntry map g => decide (map ≤ 8) && decide (g < 256)
  | .link n => decide (n < 24)
  | .signature die n => decide (die < 8) && decide (n < 4)
  | .revision die => decide (die < 8)
/-- Do the agents that an event names exist (R5, R14, R17)? -/
def Instr.placed : Instr → Bool
  | .callStart core => decide (core < 512)
  | .statusPost core _ => decide (core < 512)
  | .landing core => decide (core < 512)
  | .resultArrive core _ => decide (core < 512)
  | .trapEntry core => decide (core < 512)
  | .userLevelInterrupt core => decide (core < 512)
  | .walkComplete _ _ ten _ => decide (ten < 4096)
  | .sbDrain core _ => decide (core < 512)
  | .send die _ => decide (die < 8)
  | .hop link _ => decide (link < 8)
  | .serve core _ _ => decide (core < 512)
  | .fill core _ => decide (core < 512)
  | .evict core _ => decide (core < 512)
  | .applicationCoreAccess _ _ req _ => decide (req.core < 16)
  | .waitaReread core => decide (core < 512)
  | .copyLineTransfer core _ _ => decide (core < 512)
  | .remotePost core _ => decide (core < 512)
  | .preloadStart core _ => decide (core < 512)
  | .taskStart core => decide (core < 512)
  | .brickReady die _ => decide (die < 8)
  | .brickResume core => decide (core < 512)
  | .taskComplete core => decide (core < 512)
  | .chunkMark die slot => decide (die < 8) && decide (slot < 16)
  | .chunkClaim core => decide (core < 512)
  | .launchComplete die slot => decide (die < 8) && decide (slot < 16)
  | .tailRead die queue => decide (die < 8) && decide (queue < 128)
  | .handoverSwitch stack => decide (stack < 8)
  | .ownerMirrorUpdate die stack => decide (die < 8) && decide (stack < 8)
  | .tenendSwitch ten die => decide (ten < 4096) && decide (die < 17)
  | .tenendRecord ten => decide (ten < 4096)
  | .assayRewrite _ _ ten _ => decide (ten < 4096)
  | .softRequest core => decide (core < 512)
  | .hardRequest core => decide (core < 512)
  | .killRequest core => decide (core < 512)
  | .graceExpiry core => decide (core < 512)
  | .contextSave core => decide (core < 512)
  | .killExpiry core => decide (core < 512)
  | .contextRestore core => decide (core < 512)
  | .functionLevelReset core => decide (core < 512)
  | .flrDrainEnd core => decide (core < 512)
  | .cpReset die => decide (die < 8)
  | .ioFunctionRelease fn => decide (fn < 32)
  | .throttleLevelChange die quadrant _ => decide (die < 8) && decide (quadrant < 4)
  | .slotTableWrite die _ _ => decide (die < 8)
  | .slotTableTakeEffect die => decide (die < 8)
  | .queueDescriptorWrite die queue _ => decide (die < 8) && decide (queue < 128)
  | .translationRecordWrite die ten _ _ => decide (die < 8) && decide (ten < 4096)
  | .ownerRightWrite stack _ _ => decide (stack < 8)
  | .cacheSlicesChange stack _ => decide (stack < 8)
  | .tenancyOpen ten => decide (ten < 4096)
  | .invalidationRequest die _ ten _ _ => decide (die < 8) && decide (ten < 4096)
  | .invalidationComplete die _ => decide (die < 8)
  | .linkEnable link => decide (link < 24)
  | .flitTransmit link _ _ _ _ _ _ _ => decide (link < 24)
  | .flitReceive link _ => decide (link < 24)
  | .nakReplay link _ => decide (link < 24)
  | .retrain link => decide (link < 24)
  | .retrainComplete link _ => decide (link < 24)
  | .linkDown link => decide (link < 24)
  | .downNotice link _ => decide (link < 8)
  | .empinRequest link _ _ _ _ _ => decide (link < 8)
  | .linkMirrorUpdate die link => decide (die < 8) && decide (link < 24)
  | .waitmemReread die queue => decide (die < 8) && decide (queue < 128)
  | .followerLaunch die slot => decide (die < 8) && decide (slot < 16)
  | .platformRegisterWrite reg _ => reg.placed
  | _ => true
/-- The check that an instruction passes: a slot operation its operands' limits, native or Igpor; every other one its
fields' and its agents'. -/
def Instr.wf (i : Instr) : Bool :=
  if i.major < 64 then decide (i.badCode = 0) || decide (i.badCodeIgpor = 0) else i.microOk && i.packetOk && i.placed

end Sys2Proof
end

