-- ==== Sys2Proof/Decode.lean ====
section
/-! DEFINITION. Decoding (spec 02 R19-R36): a slot word to an operation or an illegal-bundle subcode, a
bundle's sixteen bytes to its slots, and the encoder written from the same tables. -/
namespace Sys2Proof

/-- What a slot word decodes to: an operation whose must-be-zero bits are zero, one whose bits are not, or
the illegal-bundle subcode its opcode earns (R35). -/
inductive SlotDecode where
  | op (i : Instr)
  | loose (i : Instr)
  | illegal (sub : Nat)
  deriving DecidableEq, Repr

/-- The operation, loose where a must-be-zero bit is set. -/
def slotIf (ok : Bool) (i : Instr) : SlotDecode := if ok then .op i else .loose i

/-- Major 0x01: ADD, SUB, AND, OR, XOR, ANDN, ORN, SHL, SHR, SAR, MIN, MAX, MINU, MAXU, CLZ, POPC, BFX, BFI, CMPT (R33). -/
def decodeMajor01 (w : W32) : SlotDecode :=
  match (w.extractLsb' 0 5).toNat with
  | 0 => slotIf (true) (.add (w.extractLsb' 23 3) (w.extractLsb' 17 6) (w.extractLsb' 11 6) (w.extractLsb' 5 6))
  | 1 => slotIf (true) (.sub (w.extractLsb' 23 3) (w.extractLsb' 17 6) (w.extractLsb' 11 6) (w.extractLsb' 5 6))
  | 2 => slotIf (true) (.and (w.extractLsb' 23 3) (w.extractLsb' 17 6) (w.extractLsb' 11 6) (w.extractLsb' 5 6))
  | 3 => slotIf (true) (.or (w.extractLsb' 23 3) (w.extractLsb' 17 6) (w.extractLsb' 11 6) (w.extractLsb' 5 6))
  | 4 => slotIf (true) (.xor (w.extractLsb' 23 3) (w.extractLsb' 17 6) (w.extractLsb' 11 6) (w.extractLsb' 5 6))
  | 5 => slotIf (true) (.andn (w.extractLsb' 23 3) (w.extractLsb' 17 6) (w.extractLsb' 11 6) (w.extractLsb' 5 6))
  | 6 => slotIf (true) (.orn (w.extractLsb' 23 3) (w.extractLsb' 17 6) (w.extractLsb' 11 6) (w.extractLsb' 5 6))
  | 7 => slotIf (true) (.shl (w.extractLsb' 23 3) (w.extractLsb' 17 6) (w.extractLsb' 11 6) (w.extractLsb' 5 6))
  | 8 => slotIf (true) (.shr (w.extractLsb' 23 3) (w.extractLsb' 17 6) (w.extractLsb' 11 6) (w.extractLsb' 5 6))
  | 9 => slotIf (true) (.sar (w.extractLsb' 23 3) (w.extractLsb' 17 6) (w.extractLsb' 11 6) (w.extractLsb' 5 6))
  | 10 => slotIf (true) (.min (w.extractLsb' 23 3) (w.extractLsb' 17 6) (w.extractLsb' 11 6) (w.extractLsb' 5 6))
  | 11 => slotIf (true) (.max (w.extractLsb' 23 3) (w.extractLsb' 17 6) (w.extractLsb' 11 6) (w.extractLsb' 5 6))
  | 12 => slotIf (true) (.minu (w.extractLsb' 23 3) (w.extractLsb' 17 6) (w.extractLsb' 11 6) (w.extractLsb' 5 6))
  | 13 => slotIf (true) (.maxu (w.extractLsb' 23 3) (w.extractLsb' 17 6) (w.extractLsb' 11 6) (w.extractLsb' 5 6))
  | 14 => slotIf (decide ((w.extractLsb' 5 6) = 0#6)) (.clz (w.extractLsb' 23 3) (w.extractLsb' 17 6) (w.extractLsb' 11 6))
  | 15 => slotIf (decide ((w.extractLsb' 5 6) = 0#6)) (.popc (w.extractLsb' 23 3) (w.extractLsb' 17 6) (w.extractLsb' 11 6))
  | 16 => slotIf (true) (.bfx (w.extractLsb' 23 3) (w.extractLsb' 17 6) (w.extractLsb' 11 6) (w.extractLsb' 5 6))
  | 17 => slotIf (true) (.bfi (w.extractLsb' 23 3) (w.extractLsb' 17 6) (w.extractLsb' 11 6) (w.extractLsb' 5 6))
  | 18 => slotIf (decide ((w.extractLsb' 17 6) = 0#6)) (.cmpt (w.extractLsb' 23 3) (w.extractLsb' 11 6) (w.extractLsb' 5 6))
  | _ => .illegal 2

/-- Major 0x02: MUL, MULH, MULHU, DIV, DIVU, REM, REMU (R33). -/
def decodeMajor02 (w : W32) : SlotDecode :=
  match (w.extractLsb' 0 5).toNat with
  | 0 => slotIf (true) (.mul (w.extractLsb' 23 3) (w.extractLsb' 17 6) (w.extractLsb' 11 6) (w.extractLsb' 5 6))
  | 1 => slotIf (true) (.mulh (w.extractLsb' 23 3) (w.extractLsb' 17 6) (w.extractLsb' 11 6) (w.extractLsb' 5 6))
  | 2 => slotIf (true) (.mulhu (w.extractLsb' 23 3) (w.extractLsb' 17 6) (w.extractLsb' 11 6) (w.extractLsb' 5 6))
  | 3 => slotIf (true) (.div (w.extractLsb' 23 3) (w.extractLsb' 17 6) (w.extractLsb' 11 6) (w.extractLsb' 5 6))
  | 4 => slotIf (true) (.divu (w.extractLsb' 23 3) (w.extractLsb' 17 6) (w.extractLsb' 11 6) (w.extractLsb' 5 6))
  | 5 => slotIf (true) (.rem (w.extractLsb' 23 3) (w.extractLsb' 17 6) (w.extractLsb' 11 6) (w.extractLsb' 5 6))
  | 6 => slotIf (true) (.remu (w.extractLsb' 23 3) (w.extractLsb' 17 6) (w.extractLsb' 11 6) (w.extractLsb' 5 6))
  | _ => .illegal 2

/-- Major 0x03: CMP (R33). -/
def decodeMajor03 (w : W32) : SlotDecode :=
  slotIf (decide ((w.extractLsb' 20 3) = 0#3)) (.cmp (w.extractLsb' 23 3) (w.extractLsb' 17 3) (w.extractLsb' 11 6) (w.extractLsb' 5 6) (w.extractLsb' 0 5))

/-- Major 0x04: SEL (R33). -/
def decodeMajor04 (w : W32) : SlotDecode :=
  slotIf (decide ((w.extractLsb' 3 2) = 0#2)) (.sel (w.extractLsb' 23 3) (w.extractLsb' 17 6) (w.extractLsb' 11 6) (w.extractLsb' 5 6) (w.extractLsb' 0 3))

/-- Major 0x05: PAND, POR, PXOR, PGET, PSET (R33). -/
def decodeMajor05 (w : W32) : SlotDecode :=
  match (w.extractLsb' 0 5).toNat with
  | 0 => slotIf (decide ((w.extractLsb' 8 3) = 0#3) && decide ((w.extractLsb' 14 3) = 0#3) && decide ((w.extractLsb' 20 3) = 0#3)) (.pand (w.extractLsb' 23 3) (w.extractLsb' 17 3) (w.extractLsb' 11 3) (w.extractLsb' 5 3))
  | 1 => slotIf (decide ((w.extractLsb' 8 3) = 0#3) && decide ((w.extractLsb' 14 3) = 0#3) && decide ((w.extractLsb' 20 3) = 0#3)) (.por (w.extractLsb' 23 3) (w.extractLsb' 17 3) (w.extractLsb' 11 3) (w.extractLsb' 5 3))
  | 2 => slotIf (decide ((w.extractLsb' 8 3) = 0#3) && decide ((w.extractLsb' 14 3) = 0#3) && decide ((w.extractLsb' 20 3) = 0#3)) (.pxor (w.extractLsb' 23 3) (w.extractLsb' 17 3) (w.extractLsb' 11 3) (w.extractLsb' 5 3))
  | 3 => slotIf (decide ((w.extractLsb' 5 12) = 0#12)) (.pget (w.extractLsb' 23 3) (w.extractLsb' 17 6))
  | 4 => slotIf (decide ((w.extractLsb' 5 6) = 0#6) && decide ((w.extractLsb' 20 3) = 0#3)) (.pset (w.extractLsb' 23 3) (w.extractLsb' 17 3) (w.extractLsb' 11 6))
  | _ => .illegal 2

/-- Major 0x06: ADDI (R33). -/
def decodeMajor06 (w : W32) : SlotDecode :=
  slotIf (true) (.addi (w.extractLsb' 23 3) (w.extractLsb' 17 6) (w.extractLsb' 11 6) (w.extractLsb' 0 11))

/-- Major 0x07: ANDI (R33). -/
def decodeMajor07 (w : W32) : SlotDecode :=
  slotIf (true) (.andi (w.extractLsb' 23 3) (w.extractLsb' 17 6) (w.extractLsb' 11 6) (w.extractLsb' 0 11))

/-- Major 0x08: ORI (R33). -/
def decodeMajor08 (w : W32) : SlotDecode :=
  slotIf (true) (.ori (w.extractLsb' 23 3) (w.extractLsb' 17 6) (w.extractLsb' 11 6) (w.extractLsb' 0 11))

/-- Major 0x09: XORI (R33). -/
def decodeMajor09 (w : W32) : SlotDecode :=
  slotIf (true) (.xori (w.extractLsb' 23 3) (w.extractLsb' 17 6) (w.extractLsb' 11 6) (w.extractLsb' 0 11))

/-- Major 0x0A: SHLI, SHRI, SARI (R33). -/
def decodeMajor0A (w : W32) : SlotDecode :=
  match (w.extractLsb' 6 2).toNat with
  | 0 => slotIf (decide ((w.extractLsb' 8 3) = 0#3)) (.shli (w.extractLsb' 23 3) (w.extractLsb' 17 6) (w.extractLsb' 11 6) (w.extractLsb' 0 6))
  | 1 => slotIf (decide ((w.extractLsb' 8 3) = 0#3)) (.shri (w.extractLsb' 23 3) (w.extractLsb' 17 6) (w.extractLsb' 11 6) (w.extractLsb' 0 6))
  | 2 => slotIf (decide ((w.extractLsb' 8 3) = 0#3)) (.sari (w.extractLsb' 23 3) (w.extractLsb' 17 6) (w.extractLsb' 11 6) (w.extractLsb' 0 6))
  | _ => .illegal 2

/-- Major 0x0B: CMPI (R33). -/
def decodeMajor0B (w : W32) : SlotDecode :=
  slotIf (true) (.cmpi (w.extractLsb' 23 3) (w.extractLsb' 20 3) (w.extractLsb' 17 3) (w.extractLsb' 11 6) (w.extractLsb' 0 11))

/-- Major 0x0C: CMPIU (R33). -/
def decodeMajor0C (w : W32) : SlotDecode :=
  slotIf (true) (.cmpiu (w.extractLsb' 23 3) (w.extractLsb' 20 3) (w.extractLsb' 17 3) (w.extractLsb' 11 6) (w.extractLsb' 0 11))

/-- Major 0x0D: MOVI (R33). -/
def decodeMajor0D (w : W32) : SlotDecode :=
  slotIf (true) (.movi (w.extractLsb' 23 3) (w.extractLsb' 17 6) (w.extractLsb' 0 17))

/-- Major 0x0E: MOVHI (R33). -/
def decodeMajor0E (w : W32) : SlotDecode :=
  slotIf (true) (.movhi (w.extractLsb' 23 3) (w.extractLsb' 17 6) (w.extractLsb' 0 17))

/-- Major 0x0F: CSRR (R33). -/
def decodeMajor0F (w : W32) : SlotDecode :=
  slotIf (decide ((w.extractLsb' 11 6) = 0#6)) (.csrr (w.extractLsb' 23 3) (w.extractLsb' 17 6) (w.extractLsb' 0 11))

/-- Major 0x10: CSRW (R33). -/
def decodeMajor10 (w : W32) : SlotDecode :=
  slotIf (decide ((w.extractLsb' 17 6) = 0#6)) (.csrw (w.extractLsb' 23 3) (w.extractLsb' 11 6) (w.extractLsb' 0 11))

/-- Major 0x11: BR (R33). -/
def decodeMajor11 (w : W32) : SlotDecode :=
  slotIf (decide ((w.extractLsb' 20 3) = 0#3)) (.br (w.extractLsb' 23 3) (w.extractLsb' 0 20))

/-- Major 0x12: BRL (R33). -/
def decodeMajor12 (w : W32) : SlotDecode :=
  slotIf (decide ((w.extractLsb' 20 3) = 0#3)) (.brl (w.extractLsb' 23 3) (w.extractLsb' 0 20))

/-- Major 0x13: LOOP (R33). -/
def decodeMajor13 (w : W32) : SlotDecode :=
  slotIf (decide ((w.extractLsb' 16 5) = 0#5)) (.loop (w.extractLsb' 23 3) (w.extractLsb' 21 2) (w.extractLsb' 0 16))

/-- Major 0x14: LOOPR (R33). -/
def decodeMajor14 (w : W32) : SlotDecode :=
  slotIf (true) (.loopr (w.extractLsb' 23 3) (w.extractLsb' 21 2) (w.extractLsb' 16 5) (w.extractLsb' 0 16))

/-- Major 0x15: JR, JRL, TRAP, ERET, UIRET (R33). -/
def decodeMajor15 (w : W32) : SlotDecode :=
  match (w.extractLsb' 0 5).toNat with
  | 0 => slotIf (decide ((w.extractLsb' 5 6) = 0#6) && decide ((w.extractLsb' 17 6) = 0#6)) (.jr (w.extractLsb' 23 3) (w.extractLsb' 11 6))
  | 1 => slotIf (decide ((w.extractLsb' 5 6) = 0#6)) (.jrl (w.extractLsb' 23 3) (w.extractLsb' 17 6) (w.extractLsb' 11 6))
  | 2 => slotIf (decide ((w.extractLsb' 17 6) = 0#6)) (.trap (w.extractLsb' 23 3) (w.extractLsb' 5 12))
  | 3 => slotIf (decide ((w.extractLsb' 5 18) = 0#18)) (.eret (w.extractLsb' 23 3))
  | 4 => slotIf (decide ((w.extractLsb' 5 18) = 0#18)) (.uiret (w.extractLsb' 23 3))
  | _ => .illegal 2

/-- Major 0x16: WAIT (R33). -/
def decodeMajor16 (w : W32) : SlotDecode :=
  slotIf (decide ((w.extractLsb' 20 3) = 0#3)) (.wait (w.extractLsb' 23 3) (w.extractLsb' 15 5) (w.extractLsb' 10 5) (w.extractLsb' 5 5) (w.extractLsb' 0 5))

/-- Major 0x17: VDOT (R33). -/
def decodeMajor17 (w : W32) : SlotDecode :=
  slotIf (true) (.vdot (w.extractLsb' 23 3) (w.extractLsb' 16 7) (w.extractLsb' 9 7) (w.extractLsb' 2 7) (w.extractLsb' 0 2))

/-- Major 0x18: VADD (R33). -/
def decodeMajor18 (w : W32) : SlotDecode :=
  slotIf (true) (.vadd (w.extractLsb' 23 3) (w.extractLsb' 16 7) (w.extractLsb' 9 7) (w.extractLsb' 2 7) (w.extractLsb' 0 2))

/-- Major 0x19: VSUB (R33). -/
def decodeMajor19 (w : W32) : SlotDecode :=
  slotIf (true) (.vsub (w.extractLsb' 23 3) (w.extractLsb' 16 7) (w.extractLsb' 9 7) (w.extractLsb' 2 7) (w.extractLsb' 0 2))

/-- Major 0x1A: VMUL (R33). -/
def decodeMajor1A (w : W32) : SlotDecode :=
  slotIf (true) (.vmul (w.extractLsb' 23 3) (w.extractLsb' 16 7) (w.extractLsb' 9 7) (w.extractLsb' 2 7) (w.extractLsb' 0 2))

/-- Major 0x1B: VFMA (R33). -/
def decodeMajor1B (w : W32) : SlotDecode :=
  slotIf (true) (.vfma (w.extractLsb' 23 3) (w.extractLsb' 16 7) (w.extractLsb' 9 7) (w.extractLsb' 2 7) (w.extractLsb' 0 2))

/-- Major 0x1C: VFMS (R33). -/
def decodeMajor1C (w : W32) : SlotDecode :=
  slotIf (true) (.vfms (w.extractLsb' 23 3) (w.extractLsb' 16 7) (w.extractLsb' 9 7) (w.extractLsb' 2 7) (w.extractLsb' 0 2))

/-- Major 0x1D: VMAX (R33). -/
def decodeMajor1D (w : W32) : SlotDecode :=
  slotIf (true) (.vmax (w.extractLsb' 23 3) (w.extractLsb' 16 7) (w.extractLsb' 9 7) (w.extractLsb' 2 7) (w.extractLsb' 0 2))

/-- Major 0x1E: VMIN (R33). -/
def decodeMajor1E (w : W32) : SlotDecode :=
  slotIf (true) (.vmin (w.extractLsb' 23 3) (w.extractLsb' 16 7) (w.extractLsb' 9 7) (w.extractLsb' 2 7) (w.extractLsb' 0 2))

/-- Major 0x1F: VAND, VOR, VXOR (R33). -/
def decodeMajor1F (w : W32) : SlotDecode :=
  match (w.extractLsb' 0 2).toNat with
  | 0 => slotIf (true) (.vand (w.extractLsb' 23 3) (w.extractLsb' 16 7) (w.extractLsb' 9 7) (w.extractLsb' 2 7))
  | 1 => slotIf (true) (.vor (w.extractLsb' 23 3) (w.extractLsb' 16 7) (w.extractLsb' 9 7) (w.extractLsb' 2 7))
  | 2 => slotIf (true) (.vxor (w.extractLsb' 23 3) (w.extractLsb' 16 7) (w.extractLsb' 9 7) (w.extractLsb' 2 7))
  | _ => .illegal 2

/-- Major 0x20: VSHL, VSHR, VSAR (R33). -/
def decodeMajor20 (w : W32) : SlotDecode :=
  match (w.extractLsb' 0 2).toNat with
  | 0 => slotIf (true) (.vshl (w.extractLsb' 23 3) (w.extractLsb' 16 7) (w.extractLsb' 9 7) (w.extractLsb' 2 7))
  | 1 => slotIf (true) (.vshr (w.extractLsb' 23 3) (w.extractLsb' 16 7) (w.extractLsb' 9 7) (w.extractLsb' 2 7))
  | 2 => slotIf (true) (.vsar (w.extractLsb' 23 3) (w.extractLsb' 16 7) (w.extractLsb' 9 7) (w.extractLsb' 2 7))
  | _ => .illegal 2

/-- Major 0x21: VCMP (R33). -/
def decodeMajor21 (w : W32) : SlotDecode :=
  slotIf (true) (.vcmp (w.extractLsb' 23 3) (w.extractLsb' 21 2) (w.extractLsb' 16 5) (w.extractLsb' 9 7) (w.extractLsb' 2 7) (w.extractLsb' 0 2))

/-- Major 0x22: VSEL (R33). -/
def decodeMajor22 (w : W32) : SlotDecode :=
  slotIf (true) (.vsel (w.extractLsb' 23 3) (w.extractLsb' 16 7) (w.extractLsb' 9 7) (w.extractLsb' 2 7) (w.extractLsb' 0 2))

/-- Major 0x23: VSHF (R33). -/
def decodeMajor23 (w : W32) : SlotDecode :=
  slotIf (true) (.vshf (w.extractLsb' 23 3) (w.extractLsb' 16 7) (w.extractLsb' 9 7) (w.extractLsb' 2 7) (w.extractLsb' 0 2))

/-- Major 0x24: VROTL (R33). -/
def decodeMajor24 (w : W32) : SlotDecode :=
  slotIf (true) (.vrotl (w.extractLsb' 23 3) (w.extractLsb' 16 7) (w.extractLsb' 9 7) (w.extractLsb' 2 7) (w.extractLsb' 0 2))

/-- Major 0x25: VMOV, VABS, VNEG, VIOTA, VCLR (R33). -/
def decodeMajor25 (w : W32) : SlotDecode :=
  match (w.extractLsb' 2 7).toNat with
  | 0 => slotIf (true) (.vmov (w.extractLsb' 23 3) (w.extractLsb' 16 7) (w.extractLsb' 9 7) (w.extractLsb' 0 2))
  | 1 => slotIf (true) (.vabs (w.extractLsb' 23 3) (w.extractLsb' 16 7) (w.extractLsb' 9 7) (w.extractLsb' 0 2))
  | 2 => slotIf (true) (.vneg (w.extractLsb' 23 3) (w.extractLsb' 16 7) (w.extractLsb' 9 7) (w.extractLsb' 0 2))
  | 3 => slotIf (decide ((w.extractLsb' 9 7) = 0#7)) (.viota (w.extractLsb' 23 3) (w.extractLsb' 16 7) (w.extractLsb' 0 2))
  | 4 => slotIf (decide ((w.extractLsb' 0 2) = 0#2) && decide ((w.extractLsb' 9 7) = 0#7)) (.vclr (w.extractLsb' 23 3) (w.extractLsb' 16 7))
  | _ => .illegal 2

/-- Major 0x26: VBC, VXT, VINS (R33). -/
def decodeMajor26 (w : W32) : SlotDecode :=
  match (w.extractLsb' 8 2).toNat with
  | 0 => slotIf (decide ((w.extractLsb' 2 6) = 0#6)) (.vbc (w.extractLsb' 23 3) (w.extractLsb' 16 7) (w.extractLsb' 10 6) (w.extractLsb' 0 2))
  | 1 => slotIf (true) (.vxt (w.extractLsb' 23 3) (w.extractLsb' 16 7) (w.extractLsb' 10 6) (w.extractLsb' 2 6) (w.extractLsb' 0 2))
  | 2 => slotIf (true) (.vins (w.extractLsb' 23 3) (w.extractLsb' 16 7) (w.extractLsb' 10 6) (w.extractLsb' 2 6) (w.extractLsb' 0 2))
  | _ => .illegal 2

/-- Major 0x27: VRED_SUM, VRED_MAX, VRED_MIN (R33). -/
def decodeMajor27 (w : W32) : SlotDecode :=
  match (w.extractLsb' 2 7).toNat with
  | 0 => slotIf (true) (.vredSum (w.extractLsb' 23 3) (w.extractLsb' 16 7) (w.extractLsb' 9 7) (w.extractLsb' 0 2))
  | 1 => slotIf (true) (.vredMax (w.extractLsb' 23 3) (w.extractLsb' 16 7) (w.extractLsb' 9 7) (w.extractLsb' 0 2))
  | 2 => slotIf (true) (.vredMin (w.extractLsb' 23 3) (w.extractLsb' 16 7) (w.extractLsb' 9 7) (w.extractLsb' 0 2))
  | _ => .illegal 2

/-- Major 0x28: VCVT (R33). -/
def decodeMajor28 (w : W32) : SlotDecode :=
  slotIf (decide ((w.extractLsb' 4 5) = 0#5)) (.vcvt (w.extractLsb' 23 3) (w.extractLsb' 16 7) (w.extractLsb' 9 7) (w.extractLsb' 2 2) (w.extractLsb' 0 2))

/-- Major 0x29: CMPTV (R33). -/
def decodeMajor29 (w : W32) : SlotDecode :=
  slotIf (decide ((w.extractLsb' 16 7) = 0#7)) (.cmptv (w.extractLsb' 23 3) (w.extractLsb' 9 7) (w.extractLsb' 2 7) (w.extractLsb' 0 2))

/-- Major 0x2A: VEXP2, VLOG2, VRCP, VRSQ, VSIN, VTANH (R33). -/
def decodeMajor2A (w : W32) : SlotDecode :=
  match (w.extractLsb' 2 7).toNat with
  | 0 => slotIf (true) (.vexp2 (w.extractLsb' 23 3) (w.extractLsb' 16 7) (w.extractLsb' 9 7) (w.extractLsb' 0 2))
  | 1 => slotIf (true) (.vlog2 (w.extractLsb' 23 3) (w.extractLsb' 16 7) (w.extractLsb' 9 7) (w.extractLsb' 0 2))
  | 2 => slotIf (true) (.vrcp (w.extractLsb' 23 3) (w.extractLsb' 16 7) (w.extractLsb' 9 7) (w.extractLsb' 0 2))
  | 3 => slotIf (true) (.vrsq (w.extractLsb' 23 3) (w.extractLsb' 16 7) (w.extractLsb' 9 7) (w.extractLsb' 0 2))
  | 4 => slotIf (true) (.vsin (w.extractLsb' 23 3) (w.extractLsb' 16 7) (w.extractLsb' 9 7) (w.extractLsb' 0 2))
  | 5 => slotIf (true) (.vtanh (w.extractLsb' 23 3) (w.extractLsb' 16 7) (w.extractLsb' 9 7) (w.extractLsb' 0 2))
  | _ => .illegal 2

/-- Major 0x2B: VUNPK (R33). -/
def decodeMajor2B (w : W32) : SlotDecode :=
  slotIf (true) (.vunpk (w.extractLsb' 23 3) (w.extractLsb' 16 7) (w.extractLsb' 9 7) (w.extractLsb' 5 4) (w.extractLsb' 2 3) (w.extractLsb' 0 2))

/-- Major 0x2C: VPACK (R33). -/
def decodeMajor2C (w : W32) : SlotDecode :=
  slotIf (true) (.vpack (w.extractLsb' 23 3) (w.extractLsb' 16 7) (w.extractLsb' 9 7) (w.extractLsb' 5 4) (w.extractLsb' 2 3) (w.extractLsb' 0 2))

/-- Major 0x2D: VBSCL (R33). -/
def decodeMajor2D (w : W32) : SlotDecode :=
  slotIf (true) (.vbscl (w.extractLsb' 23 3) (w.extractLsb' 16 7) (w.extractLsb' 9 7) (w.extractLsb' 2 7) (w.extractLsb' 0 2))

/-- Major 0x2E: VLD, VST, VLDS, VSTS (R33). -/
def decodeMajor2E (w : W32) : SlotDecode :=
  match (w.extractLsb' 8 2).toNat with
  | 0 => slotIf (true) (.vld (w.extractLsb' 23 3) (w.extractLsb' 16 7) (w.extractLsb' 10 6) (w.extractLsb' 0 8))
  | 1 => slotIf (true) (.vst (w.extractLsb' 23 3) (w.extractLsb' 16 7) (w.extractLsb' 10 6) (w.extractLsb' 0 8))
  | 2 => slotIf (true) (.vlds (w.extractLsb' 23 3) (w.extractLsb' 16 7) (w.extractLsb' 10 6) (w.extractLsb' 0 8))
  | _ => slotIf (true) (.vsts (w.extractLsb' 23 3) (w.extractLsb' 16 7) (w.extractLsb' 10 6) (w.extractLsb' 0 8))

/-- Major 0x2F: SADD, SSUB, SMUL, SDIV (R33). -/
def decodeMajor2F (w : W32) : SlotDecode :=
  match (w.extractLsb' 21 2).toNat with
  | 0 => slotIf (true) (.sadd (w.extractLsb' 23 3) (w.extractLsb' 16 5) (w.extractLsb' 9 7) (w.extractLsb' 2 7) (w.extractLsb' 0 2))
  | 1 => slotIf (true) (.ssub (w.extractLsb' 23 3) (w.extractLsb' 16 5) (w.extractLsb' 9 7) (w.extractLsb' 2 7) (w.extractLsb' 0 2))
  | 2 => slotIf (true) (.smul (w.extractLsb' 23 3) (w.extractLsb' 16 5) (w.extractLsb' 9 7) (w.extractLsb' 2 7) (w.extractLsb' 0 2))
  | _ => slotIf (true) (.sdiv (w.extractLsb' 23 3) (w.extractLsb' 16 5) (w.extractLsb' 9 7) (w.extractLsb' 2 7) (w.extractLsb' 0 2))

/-- Major 0x30: SUNI, SINT, SCMP (R33). -/
def decodeMajor30 (w : W32) : SlotDecode :=
  match (w.extractLsb' 21 2).toNat with
  | 0 => slotIf (true) (.suni (w.extractLsb' 23 3) (w.extractLsb' 16 5) (w.extractLsb' 9 7) (w.extractLsb' 2 7) (w.extractLsb' 0 2))
  | 1 => slotIf (true) (.sint (w.extractLsb' 23 3) (w.extractLsb' 16 5) (w.extractLsb' 9 7) (w.extractLsb' 2 7) (w.extractLsb' 0 2))
  | 2 => slotIf (true) (.scmp (w.extractLsb' 23 3) (w.extractLsb' 16 5) (w.extractLsb' 9 7) (w.extractLsb' 2 7) (w.extractLsb' 0 2))
  | _ => .illegal 2

/-- Major 0x31: SNEG, SFROM, SBND, SARC, SMSK, SRED (R33). -/
def decodeMajor31 (w : W32) : SlotDecode :=
  match (w.extractLsb' 2 7).toNat with
  | 0 => slotIf (true) (.sneg (w.extractLsb' 23 3) (w.extractLsb' 16 7) (w.extractLsb' 9 7) (w.extractLsb' 0 2))
  | 1 => slotIf (true) (.sfrom (w.extractLsb' 23 3) (w.extractLsb' 16 7) (w.extractLsb' 9 7) (w.extractLsb' 0 2))
  | 2 => slotIf (true) (.sbnd (w.extractLsb' 23 3) (w.extractLsb' 16 7) (w.extractLsb' 9 7) (w.extractLsb' 0 2))
  | 3 => slotIf (true) (.sarc (w.extractLsb' 23 3) (w.extractLsb' 16 7) (w.extractLsb' 9 7) (w.extractLsb' 0 2))
  | 4 => slotIf (true) (.smsk (w.extractLsb' 23 3) (w.extractLsb' 16 7) (w.extractLsb' 9 7) (w.extractLsb' 0 2))
  | 5 => slotIf (true) (.sred (w.extractLsb' 23 3) (w.extractLsb' 16 7) (w.extractLsb' 9 7) (w.extractLsb' 0 2))
  | _ => .illegal 2

/-- Major 0x32: SPLD, SPST (R33). -/
def decodeMajor32 (w : W32) : SlotDecode :=
  match (w.extractLsb' 0 2).toNat with
  | 0 => slotIf (decide ((w.extractLsb' 2 2) = 0#2)) (.spld (w.extractLsb' 23 3) (w.extractLsb' 17 6) (w.extractLsb' 11 6) (w.extractLsb' 6 5) (w.extractLsb' 4 2))
  | 1 => slotIf (decide ((w.extractLsb' 2 2) = 0#2)) (.spst (w.extractLsb' 23 3) (w.extractLsb' 17 6) (w.extractLsb' 11 6) (w.extractLsb' 6 5) (w.extractLsb' 4 2))
  | _ => .illegal 2

/-- Major 0x33: LD, LDS, LDA, PREF (R33). -/
def decodeMajor33 (w : W32) : SlotDecode :=
  match (w.extractLsb' 0 2).toNat with
  | 0 => slotIf (decide ((w.extractLsb' 2 2) = 0#2)) (.ld (w.extractLsb' 23 3) (w.extractLsb' 17 6) (w.extractLsb' 11 6) (w.extractLsb' 6 5) (w.extractLsb' 4 2))
  | 1 => slotIf (true) (.lds (w.extractLsb' 23 3) (w.extractLsb' 17 6) (w.extractLsb' 11 6) (w.extractLsb' 6 5) (w.extractLsb' 4 2) (w.extractLsb' 2 2))
  | 2 => slotIf (true) (.lda (w.extractLsb' 23 3) (w.extractLsb' 17 6) (w.extractLsb' 11 6) (w.extractLsb' 6 5) (w.extractLsb' 4 2) (w.extractLsb' 2 2))
  | _ => slotIf (decide ((w.extractLsb' 2 4) = 0#4) && decide ((w.extractLsb' 17 6) = 0#6)) (.pref (w.extractLsb' 23 3) (w.extractLsb' 11 6) (w.extractLsb' 6 5))

/-- Major 0x34: ST, STS, STRL (R33). -/
def decodeMajor34 (w : W32) : SlotDecode :=
  match (w.extractLsb' 0 2).toNat with
  | 0 => slotIf (decide ((w.extractLsb' 2 2) = 0#2)) (.st (w.extractLsb' 23 3) (w.extractLsb' 17 6) (w.extractLsb' 11 6) (w.extractLsb' 6 5) (w.extractLsb' 4 2))
  | 1 => slotIf (true) (.sts (w.extractLsb' 23 3) (w.extractLsb' 17 6) (w.extractLsb' 11 6) (w.extractLsb' 6 5) (w.extractLsb' 4 2) (w.extractLsb' 2 2))
  | 2 => slotIf (true) (.strl (w.extractLsb' 23 3) (w.extractLsb' 17 6) (w.extractLsb' 11 6) (w.extractLsb' 6 5) (w.extractLsb' 4 2) (w.extractLsb' 2 2))
  | _ => .illegal 2

/-- Major 0x35: AMO_ADD, AMO_AND, AMO_OR, AMO_XOR, AMO_MIN, AMO_MAX, AMO_SWAP, CAS (R33). -/
def decodeMajor35 (w : W32) : SlotDecode :=
  match (w.extractLsb' 2 3).toNat with
  | 0 => slotIf (true) (.amoAdd (w.extractLsb' 23 3) (w.extractLsb' 17 6) (w.extractLsb' 11 6) (w.extractLsb' 5 6) (w.extractLsb' 0 2))
  | 1 => slotIf (true) (.amoAnd (w.extractLsb' 23 3) (w.extractLsb' 17 6) (w.extractLsb' 11 6) (w.extractLsb' 5 6) (w.extractLsb' 0 2))
  | 2 => slotIf (true) (.amoOr (w.extractLsb' 23 3) (w.extractLsb' 17 6) (w.extractLsb' 11 6) (w.extractLsb' 5 6) (w.extractLsb' 0 2))
  | 3 => slotIf (true) (.amoXor (w.extractLsb' 23 3) (w.extractLsb' 17 6) (w.extractLsb' 11 6) (w.extractLsb' 5 6) (w.extractLsb' 0 2))
  | 4 => slotIf (true) (.amoMin (w.extractLsb' 23 3) (w.extractLsb' 17 6) (w.extractLsb' 11 6) (w.extractLsb' 5 6) (w.extractLsb' 0 2))
  | 5 => slotIf (true) (.amoMax (w.extractLsb' 23 3) (w.extractLsb' 17 6) (w.extractLsb' 11 6) (w.extractLsb' 5 6) (w.extractLsb' 0 2))
  | 6 => slotIf (true) (.amoSwap (w.extractLsb' 23 3) (w.extractLsb' 17 6) (w.extractLsb' 11 6) (w.extractLsb' 5 6) (w.extractLsb' 0 2))
  | _ => slotIf (true) (.cas (w.extractLsb' 23 3) (w.extractLsb' 17 6) (w.extractLsb' 11 6) (w.extractLsb' 5 6) (w.extractLsb' 0 2))

/-- Major 0x36: FENCE, FENCE_ALL, WAITA_NE, WAITA_EQ (R33). -/
def decodeMajor36 (w : W32) : SlotDecode :=
  match (w.extractLsb' 2 3).toNat with
  | 0 => slotIf (decide ((w.extractLsb' 5 18) = 0#18)) (.fence (w.extractLsb' 23 3) (w.extractLsb' 0 2))
  | 1 => slotIf (decide ((w.extractLsb' 5 18) = 0#18)) (.fenceAll (w.extractLsb' 23 3) (w.extractLsb' 0 2))
  | 2 => slotIf (true) (.waitaNe (w.extractLsb' 23 3) (w.extractLsb' 17 6) (w.extractLsb' 11 6) (w.extractLsb' 5 6) (w.extractLsb' 0 2))
  | 3 => slotIf (true) (.waitaEq (w.extractLsb' 23 3) (w.extractLsb' 17 6) (w.extractLsb' 11 6) (w.extractLsb' 5 6) (w.extractLsb' 0 2))
  | _ => .illegal 2

/-- Major 0x37: HWAIT, HSTAT, HREL, HSET, HEXP, HSWAP, BKREL, BKWAIT, BARV, BARV_INIT, BART, BARW, UIEN (R33). -/
def decodeMajor37 (w : W32) : SlotDecode :=
  match (w.extractLsb' 0 5).toNat with
  | 0 => slotIf (decide ((w.extractLsb' 6 11) = 0#11)) (.hwait (w.extractLsb' 23 3) (w.extractLsb' 17 6) (w.extractLsb' 5 1))
  | 1 => slotIf (decide ((w.extractLsb' 5 6) = 0#6)) (.hstat (w.extractLsb' 23 3) (w.extractLsb' 17 6) (w.extractLsb' 11 6))
  | 2 => slotIf (decide ((w.extractLsb' 5 12) = 0#12)) (.hrel (w.extractLsb' 23 3) (w.extractLsb' 17 6))
  | 3 => slotIf (true) (.hset (w.extractLsb' 23 3) (w.extractLsb' 17 6) (w.extractLsb' 11 6) (w.extractLsb' 5 6))
  | 4 => slotIf (true) (.hexp (w.extractLsb' 23 3) (w.extractLsb' 17 6) (w.extractLsb' 11 6) (w.extractLsb' 5 6))
  | 5 => slotIf (decide ((w.extractLsb' 5 12) = 0#12)) (.hswap (w.extractLsb' 23 3) (w.extractLsb' 17 6))
  | 6 => slotIf (decide ((w.extractLsb' 5 6) = 0#6) && decide ((w.extractLsb' 17 6) = 0#6)) (.bkrel (w.extractLsb' 23 3) (w.extractLsb' 11 6))
  | 7 => slotIf (decide ((w.extractLsb' 5 6) = 0#6) && decide ((w.extractLsb' 17 6) = 0#6)) (.bkwait (w.extractLsb' 23 3) (w.extractLsb' 11 6))
  | 8 => if w.extractLsb' 5 6 = 1#6 then slotIf (decide ((w.extractLsb' 5 6) = 1#6) && decide ((w.extractLsb' 20 3) = 0#3)) (.barvInit (w.extractLsb' 23 3) (w.extractLsb' 17 3) (w.extractLsb' 11 6)) else slotIf (decide ((w.extractLsb' 5 6) = 0#6) && decide ((w.extractLsb' 20 3) = 0#3)) (.barv (w.extractLsb' 23 3) (w.extractLsb' 17 3) (w.extractLsb' 11 6))
  | 9 => slotIf (decide ((w.extractLsb' 5 6) = 0#6) && decide ((w.extractLsb' 20 3) = 0#3)) (.bart (w.extractLsb' 23 3) (w.extractLsb' 17 3) (w.extractLsb' 11 6))
  | 10 => slotIf (decide ((w.extractLsb' 5 12) = 0#12) && decide ((w.extractLsb' 20 3) = 0#3)) (.barw (w.extractLsb' 23 3) (w.extractLsb' 17 3))
  | 11 => slotIf (decide ((w.extractLsb' 6 11) = 0#11)) (.uien (w.extractLsb' 23 3) (w.extractLsb' 17 6) (w.extractLsb' 5 1))
  | _ => .illegal 2

/-- Major 0x38: CLVL, CGO, CGOX, CQRY (R33). -/
def decodeMajor38 (w : W32) : SlotDecode :=
  match (w.extractLsb' 0 5).toNat with
  | 0 => slotIf (true) (.clvl (w.extractLsb' 23 3) (w.extractLsb' 17 6) (w.extractLsb' 11 6) (w.extractLsb' 5 6))
  | 1 => slotIf (true) (.cgo (w.extractLsb' 23 3) (w.extractLsb' 17 6) (w.extractLsb' 11 6) (w.extractLsb' 5 6))
  | 2 => slotIf (true) (.cgox (w.extractLsb' 23 3) (w.extractLsb' 17 6) (w.extractLsb' 11 6) (w.extractLsb' 5 6))
  | 3 => slotIf (true) (.cqry (w.extractLsb' 23 3) (w.extractLsb' 17 6) (w.extractLsb' 11 6) (w.extractLsb' 5 6))
  | _ => .illegal 2

/-- Major 0x39: MXCALL (R33). -/
def decodeMajor39 (w : W32) : SlotDecode :=
  slotIf (decide ((w.extractLsb' 5 6) = 0#6)) (.mxcall (w.extractLsb' 23 3) (w.extractLsb' 17 6) (w.extractLsb' 11 6) (w.extractLsb' 0 5))

/-- Major 0x3A: MXP, MXPR, MXLDU, MXRT, MXSTAT (R33). -/
def decodeMajor3A (w : W32) : SlotDecode :=
  match (w.extractLsb' 0 5).toNat with
  | 0 => slotIf (decide ((w.extractLsb' 5 6) = 0#6) && decide ((w.extractLsb' 20 3) = 0#3)) (.mxp (w.extractLsb' 23 3) (w.extractLsb' 17 3) (w.extractLsb' 11 6))
  | 1 => slotIf (decide ((w.extractLsb' 5 6) = 0#6) && decide ((w.extractLsb' 14 3) = 0#3)) (.mxpr (w.extractLsb' 23 3) (w.extractLsb' 17 6) (w.extractLsb' 11 3))
  | 2 => slotIf (decide ((w.extractLsb' 17 6) = 0#6)) (.mxldu (w.extractLsb' 23 3) (w.extractLsb' 11 6) (w.extractLsb' 5 6))
  | 3 => slotIf (decide ((w.extractLsb' 5 6) = 0#6)) (.mxrt (w.extractLsb' 23 3) (w.extractLsb' 17 6) (w.extractLsb' 11 6))
  | 4 => slotIf (decide ((w.extractLsb' 5 6) = 0#6)) (.mxstat (w.extractLsb' 23 3) (w.extractLsb' 17 6) (w.extractLsb' 11 6))
  | _ => .illegal 2

/-- Major 0x3B: SHAND, SOWN, GENR, TENEND, GENPROBE, TIDX, TNEXT, SUSPEND, END, LINKQ, RINGLD (R33). -/
def decodeMajor3B (w : W32) : SlotDecode :=
  match (w.extractLsb' 0 5).toNat with
  | 0 => slotIf (decide ((w.extractLsb' 5 6) = 0#6)) (.shand (w.extractLsb' 23 3) (w.extractLsb' 17 6) (w.extractLsb' 11 6))
  | 1 => slotIf (decide ((w.extractLsb' 5 6) = 0#6)) (.sown (w.extractLsb' 23 3) (w.extractLsb' 17 6) (w.extractLsb' 11 6))
  | 2 => slotIf (decide ((w.extractLsb' 5 12) = 0#12)) (.genr (w.extractLsb' 23 3) (w.extractLsb' 17 6))
  | 3 => slotIf (decide ((w.extractLsb' 17 6) = 0#6)) (.tenend (w.extractLsb' 23 3) (w.extractLsb' 11 6) (w.extractLsb' 5 6))
  | 4 => slotIf (true) (.genprobe (w.extractLsb' 23 3) (w.extractLsb' 17 6) (w.extractLsb' 11 6) (w.extractLsb' 5 6))
  | 5 => slotIf (decide ((w.extractLsb' 5 12) = 0#12)) (.tidx (w.extractLsb' 23 3) (w.extractLsb' 17 6))
  | 6 => slotIf (decide ((w.extractLsb' 5 12) = 0#12)) (.tnext (w.extractLsb' 23 3) (w.extractLsb' 17 6))
  | 7 => slotIf (decide ((w.extractLsb' 17 6) = 0#6)) (.suspend (w.extractLsb' 23 3) (w.extractLsb' 11 6) (w.extractLsb' 5 6))
  | 8 => slotIf (decide ((w.extractLsb' 5 18) = 0#18)) (.endTask (w.extractLsb' 23 3))
  | 9 => slotIf (decide ((w.extractLsb' 5 6) = 0#6)) (.linkq (w.extractLsb' 23 3) (w.extractLsb' 17 6) (w.extractLsb' 11 6))
  | 10 => slotIf (decide ((w.extractLsb' 5 6) = 0#6) && decide ((w.extractLsb' 19 4) = 0#4)) (.ringld (w.extractLsb' 23 3) (w.extractLsb' 17 2) (w.extractLsb' 11 6))
  | _ => .illegal 2

/-- Major 0x3C: VABD, VCLMP (R33). -/
def decodeMajor3C (w : W32) : SlotDecode :=
  match (w.extractLsb' 21 2).toNat with
  | 0 => slotIf (true) (.vabd (w.extractLsb' 23 3) (w.extractLsb' 16 5) (w.extractLsb' 9 7) (w.extractLsb' 2 7) (w.extractLsb' 0 2))
  | 1 => slotIf (true) (.vclmp (w.extractLsb' 23 3) (w.extractLsb' 16 5) (w.extractLsb' 9 7) (w.extractLsb' 2 7) (w.extractLsb' 0 2))
  | _ => .illegal 2

/-- Major 0x3D: VCVTH (R33). -/
def decodeMajor3D (w : W32) : SlotDecode :=
  slotIf (decide ((w.extractLsb' 4 5) = 0#5)) (.vcvth (w.extractLsb' 23 3) (w.extractLsb' 16 7) (w.extractLsb' 9 7) (w.extractLsb' 2 2) (w.extractLsb' 0 2))

/-- Major 0x3E: VSCL (R33). -/
def decodeMajor3E (w : W32) : SlotDecode :=
  match (w.extractLsb' 8 2).toNat with
  | 0 => slotIf (decide ((w.extractLsb' 2 6) = 0#6)) (.vscl (w.extractLsb' 23 3) (w.extractLsb' 16 7) (w.extractLsb' 10 6) (w.extractLsb' 0 2))
  | _ => .illegal 2

/-- R32: the decoding the major selects; majors 0x17 and 0x3C-0x3E exist in Igpor code only (R444). -/
def decodeMajor (igpor : Bool) (w : W32) : SlotDecode :=
  match (w.extractLsb' 26 6).toNat with
  | 0 => if w = 0#32 then .op .nop else .illegal 3
  | 1 => decodeMajor01 w
  | 2 => decodeMajor02 w
  | 3 => decodeMajor03 w
  | 4 => decodeMajor04 w
  | 5 => decodeMajor05 w
  | 6 => decodeMajor06 w
  | 7 => decodeMajor07 w
  | 8 => decodeMajor08 w
  | 9 => decodeMajor09 w
  | 10 => decodeMajor0A w
  | 11 => decodeMajor0B w
  | 12 => decodeMajor0C w
  | 13 => decodeMajor0D w
  | 14 => decodeMajor0E w
  | 15 => decodeMajor0F w
  | 16 => decodeMajor10 w
  | 17 => decodeMajor11 w
  | 18 => decodeMajor12 w
  | 19 => decodeMajor13 w
  | 20 => decodeMajor14 w
  | 21 => decodeMajor15 w
  | 22 => decodeMajor16 w
  | 23 => if igpor then decodeMajor17 w else .illegal 1
  | 24 => decodeMajor18 w
  | 25 => decodeMajor19 w
  | 26 => decodeMajor1A w
  | 27 => decodeMajor1B w
  | 28 => decodeMajor1C w
  | 29 => decodeMajor1D w
  | 30 => decodeMajor1E w
  | 31 => decodeMajor1F w
  | 32 => decodeMajor20 w
  | 33 => decodeMajor21 w
  | 34 => decodeMajor22 w
  | 35 => decodeMajor23 w
  | 36 => decodeMajor24 w
  | 37 => decodeMajor25 w
  | 38 => decodeMajor26 w
  | 39 => decodeMajor27 w
  | 40 => decodeMajor28 w
  | 41 => decodeMajor29 w
  | 42 => decodeMajor2A w
  | 43 => decodeMajor2B w
  | 44 => decodeMajor2C w
  | 45 => decodeMajor2D w
  | 46 => decodeMajor2E w
  | 47 => decodeMajor2F w
  | 48 => decodeMajor30 w
  | 49 => decodeMajor31 w
  | 50 => decodeMajor32 w
  | 51 => decodeMajor33 w
  | 52 => decodeMajor34 w
  | 53 => decodeMajor35 w
  | 54 => decodeMajor36 w
  | 55 => decodeMajor37 w
  | 56 => decodeMajor38 w
  | 57 => decodeMajor39 w
  | 58 => decodeMajor3A w
  | 59 => decodeMajor3B w
  | 60 => if igpor then decodeMajor3C w else .illegal 1
  | 61 => if igpor then decodeMajor3D w else .illegal 1
  | 62 => if igpor then decodeMajor3E w else .illegal 1
  | _ => .illegal 4

/-- A slot word decoded on its own (R32-R35): the lowest subcode that applies, 0 where none, and the
operation. -/
def decodeSlot (igpor : Bool) (w : W32) : Nat × Instr :=
  match decodeMajor igpor w with
  | .illegal n => (n, .nop)
  | .op i => (if igpor then i.badCodeIgpor else i.badCode, i)
  | .loose i => (if (if igpor then i.badCodeIgpor else i.badCode) = 2 then 2 else 3, i)

/-- The words of the slot encodings (R20, R28, R33) as sums of their fields. -/
def encodeNat : Instr → Nat
  | .nop => 0x00000000
  | .add p d a b => 0x04000000 + p.toNat * 8388608 + d.toNat * 131072 + a.toNat * 2048 + b.toNat * 32
  | .sub p d a b => 0x04000001 + p.toNat * 8388608 + d.toNat * 131072 + a.toNat * 2048 + b.toNat * 32
  | .and p d a b => 0x04000002 + p.toNat * 8388608 + d.toNat * 131072 + a.toNat * 2048 + b.toNat * 32
  | .or p d a b => 0x04000003 + p.toNat * 8388608 + d.toNat * 131072 + a.toNat * 2048 + b.toNat * 32
  | .xor p d a b => 0x04000004 + p.toNat * 8388608 + d.toNat * 131072 + a.toNat * 2048 + b.toNat * 32
  | .andn p d a b => 0x04000005 + p.toNat * 8388608 + d.toNat * 131072 + a.toNat * 2048 + b.toNat * 32
  | .orn p d a b => 0x04000006 + p.toNat * 8388608 + d.toNat * 131072 + a.toNat * 2048 + b.toNat * 32
  | .shl p d a b => 0x04000007 + p.toNat * 8388608 + d.toNat * 131072 + a.toNat * 2048 + b.toNat * 32
  | .shr p d a b => 0x04000008 + p.toNat * 8388608 + d.toNat * 131072 + a.toNat * 2048 + b.toNat * 32
  | .sar p d a b => 0x04000009 + p.toNat * 8388608 + d.toNat * 131072 + a.toNat * 2048 + b.toNat * 32
  | .min p d a b => 0x0400000A + p.toNat * 8388608 + d.toNat * 131072 + a.toNat * 2048 + b.toNat * 32
  | .max p d a b => 0x0400000B + p.toNat * 8388608 + d.toNat * 131072 + a.toNat * 2048 + b.toNat * 32
  | .minu p d a b => 0x0400000C + p.toNat * 8388608 + d.toNat * 131072 + a.toNat * 2048 + b.toNat * 32
  | .maxu p d a b => 0x0400000D + p.toNat * 8388608 + d.toNat * 131072 + a.toNat * 2048 + b.toNat * 32
  | .clz p d a => 0x0400000E + p.toNat * 8388608 + d.toNat * 131072 + a.toNat * 2048
  | .popc p d a => 0x0400000F + p.toNat * 8388608 + d.toNat * 131072 + a.toNat * 2048
  | .bfx p d a b => 0x04000010 + p.toNat * 8388608 + d.toNat * 131072 + a.toNat * 2048 + b.toNat * 32
  | .bfi p d a b => 0x04000011 + p.toNat * 8388608 + d.toNat * 131072 + a.toNat * 2048 + b.toNat * 32
  | .cmpt p a b => 0x04000012 + p.toNat * 8388608 + a.toNat * 2048 + b.toNat * 32
  | .mul p d a b => 0x08000000 + p.toNat * 8388608 + d.toNat * 131072 + a.toNat * 2048 + b.toNat * 32
  | .mulh p d a b => 0x08000001 + p.toNat * 8388608 + d.toNat * 131072 + a.toNat * 2048 + b.toNat * 32
  | .mulhu p d a b => 0x08000002 + p.toNat * 8388608 + d.toNat * 131072 + a.toNat * 2048 + b.toNat * 32
  | .div p d a b => 0x08000003 + p.toNat * 8388608 + d.toNat * 131072 + a.toNat * 2048 + b.toNat * 32
  | .divu p d a b => 0x08000004 + p.toNat * 8388608 + d.toNat * 131072 + a.toNat * 2048 + b.toNat * 32
  | .rem p d a b => 0x08000005 + p.toNat * 8388608 + d.toNat * 131072 + a.toNat * 2048 + b.toNat * 32
  | .remu p d a b => 0x08000006 + p.toNat * 8388608 + d.toNat * 131072 + a.toNat * 2048 + b.toNat * 32
  | .cmp p d a b c => 0x0C000000 + p.toNat * 8388608 + d.toNat * 131072 + a.toNat * 2048 + b.toNat * 32 + c.toNat
  | .sel p d a b n => 0x10000000 + p.toNat * 8388608 + d.toNat * 131072 + a.toNat * 2048 + b.toNat * 32 + n.toNat
  | .pand p d a b => 0x14000000 + p.toNat * 8388608 + d.toNat * 131072 + a.toNat * 2048 + b.toNat * 32
  | .por p d a b => 0x14000001 + p.toNat * 8388608 + d.toNat * 131072 + a.toNat * 2048 + b.toNat * 32
  | .pxor p d a b => 0x14000002 + p.toNat * 8388608 + d.toNat * 131072 + a.toNat * 2048 + b.toNat * 32
  | .pget p d => 0x14000003 + p.toNat * 8388608 + d.toNat * 131072
  | .pset p d a => 0x14000004 + p.toNat * 8388608 + d.toNat * 131072 + a.toNat * 2048
  | .addi p d a i => 0x18000000 + p.toNat * 8388608 + d.toNat * 131072 + a.toNat * 2048 + i.toNat
  | .andi p d a i => 0x1C000000 + p.toNat * 8388608 + d.toNat * 131072 + a.toNat * 2048 + i.toNat
  | .ori p d a i => 0x20000000 + p.toNat * 8388608 + d.toNat * 131072 + a.toNat * 2048 + i.toNat
  | .xori p d a i => 0x24000000 + p.toNat * 8388608 + d.toNat * 131072 + a.toNat * 2048 + i.toNat
  | .shli p d a n => 0x28000000 + p.toNat * 8388608 + d.toNat * 131072 + a.toNat * 2048 + n.toNat
  | .shri p d a n => 0x28000040 + p.toNat * 8388608 + d.toNat * 131072 + a.toNat * 2048 + n.toNat
  | .sari p d a n => 0x28000080 + p.toNat * 8388608 + d.toNat * 131072 + a.toNat * 2048 + n.toNat
  | .cmpi p c d a i => 0x2C000000 + p.toNat * 8388608 + c.toNat * 1048576 + d.toNat * 131072 + a.toNat * 2048 + i.toNat
  | .cmpiu p c d a i => 0x30000000 + p.toNat * 8388608 + c.toNat * 1048576 + d.toNat * 131072 + a.toNat * 2048 + i.toNat
  | .movi p d i => 0x34000000 + p.toNat * 8388608 + d.toNat * 131072 + i.toNat
  | .movhi p d i => 0x38000000 + p.toNat * 8388608 + d.toNat * 131072 + i.toNat
  | .csrr p d c => 0x3C000000 + p.toNat * 8388608 + d.toNat * 131072 + c.toNat
  | .csrw p a c => 0x40000000 + p.toNat * 8388608 + a.toNat * 2048 + c.toNat
  | .br p o => 0x44000000 + p.toNat * 8388608 + o.toNat
  | .brl p o => 0x48000000 + p.toNat * 8388608 + o.toNat
  | .loop p l o => 0x4C000000 + p.toNat * 8388608 + l.toNat * 2097152 + o.toNat
  | .loopr p l k o => 0x50000000 + p.toNat * 8388608 + l.toNat * 2097152 + k.toNat * 65536 + o.toNat
  | .jr p a => 0x54000000 + p.toNat * 8388608 + a.toNat * 2048
  | .jrl p d a => 0x54000001 + p.toNat * 8388608 + d.toNat * 131072 + a.toNat * 2048
  | .trap p c => 0x54000002 + p.toNat * 8388608 + c.toNat * 32
  | .eret p => 0x54000003 + p.toNat * 8388608
  | .uiret p => 0x54000004 + p.toNat * 8388608
  | .wait p l s c t => 0x58000000 + p.toNat * 8388608 + l.toNat * 32768 + s.toNat * 1024 + c.toNat * 32 + t.toNat
  | .vadd p d a b t => 0x60000000 + p.toNat * 8388608 + d.toNat * 65536 + a.toNat * 512 + b.toNat * 4 + t.toNat
  | .vsub p d a b t => 0x64000000 + p.toNat * 8388608 + d.toNat * 65536 + a.toNat * 512 + b.toNat * 4 + t.toNat
  | .vmul p d a b t => 0x68000000 + p.toNat * 8388608 + d.toNat * 65536 + a.toNat * 512 + b.toNat * 4 + t.toNat
  | .vfma p d a b t => 0x6C000000 + p.toNat * 8388608 + d.toNat * 65536 + a.toNat * 512 + b.toNat * 4 + t.toNat
  | .vfms p d a b t => 0x70000000 + p.toNat * 8388608 + d.toNat * 65536 + a.toNat * 512 + b.toNat * 4 + t.toNat
  | .vmax p d a b t => 0x74000000 + p.toNat * 8388608 + d.toNat * 65536 + a.toNat * 512 + b.toNat * 4 + t.toNat
  | .vmin p d a b t => 0x78000000 + p.toNat * 8388608 + d.toNat * 65536 + a.toNat * 512 + b.toNat * 4 + t.toNat
  | .vand p d a b => 0x7C000000 + p.toNat * 8388608 + d.toNat * 65536 + a.toNat * 512 + b.toNat * 4
  | .vor p d a b => 0x7C000001 + p.toNat * 8388608 + d.toNat * 65536 + a.toNat * 512 + b.toNat * 4
  | .vxor p d a b => 0x7C000002 + p.toNat * 8388608 + d.toNat * 65536 + a.toNat * 512 + b.toNat * 4
  | .vshl p d a b => 0x80000000 + p.toNat * 8388608 + d.toNat * 65536 + a.toNat * 512 + b.toNat * 4
  | .vshr p d a b => 0x80000001 + p.toNat * 8388608 + d.toNat * 65536 + a.toNat * 512 + b.toNat * 4
  | .vsar p d a b => 0x80000002 + p.toNat * 8388608 + d.toNat * 65536 + a.toNat * 512 + b.toNat * 4
  | .vcmp p c d a b t => 0x84000000 + p.toNat * 8388608 + c.toNat * 2097152 + d.toNat * 65536 + a.toNat * 512 + b.toNat * 4 + t.toNat
  | .vsel p d a b t => 0x88000000 + p.toNat * 8388608 + d.toNat * 65536 + a.toNat * 512 + b.toNat * 4 + t.toNat
  | .vshf p d a b t => 0x8C000000 + p.toNat * 8388608 + d.toNat * 65536 + a.toNat * 512 + b.toNat * 4 + t.toNat
  | .vrotl p d a n t => 0x90000000 + p.toNat * 8388608 + d.toNat * 65536 + a.toNat * 512 + n.toNat * 4 + t.toNat
  | .vmov p d a t => 0x94000000 + p.toNat * 8388608 + d.toNat * 65536 + a.toNat * 512 + t.toNat
  | .vabs p d a t => 0x94000004 + p.toNat * 8388608 + d.toNat * 65536 + a.toNat * 512 + t.toNat
  | .vneg p d a t => 0x94000008 + p.toNat * 8388608 + d.toNat * 65536 + a.toNat * 512 + t.toNat
  | .viota p d t => 0x9400000C + p.toNat * 8388608 + d.toNat * 65536 + t.toNat
  | .vclr p d => 0x94000010 + p.toNat * 8388608 + d.toNat * 65536
  | .vbc p d s t => 0x98000000 + p.toNat * 8388608 + d.toNat * 65536 + s.toNat * 1024 + t.toNat
  | .vxt p v d l t => 0x98000100 + p.toNat * 8388608 + v.toNat * 65536 + d.toNat * 1024 + l.toNat * 4 + t.toNat
  | .vins p v s l t => 0x98000200 + p.toNat * 8388608 + v.toNat * 65536 + s.toNat * 1024 + l.toNat * 4 + t.toNat
  | .vredSum p d a t => 0x9C000000 + p.toNat * 8388608 + d.toNat * 65536 + a.toNat * 512 + t.toNat
  | .vredMax p d a t => 0x9C000004 + p.toNat * 8388608 + d.toNat * 65536 + a.toNat * 512 + t.toNat
  | .vredMin p d a t => 0x9C000008 + p.toNat * 8388608 + d.toNat * 65536 + a.toNat * 512 + t.toNat
  | .vcvt p d a e t => 0xA0000000 + p.toNat * 8388608 + d.toNat * 65536 + a.toNat * 512 + e.toNat * 4 + t.toNat
  | .cmptv p a b t => 0xA4000000 + p.toNat * 8388608 + a.toNat * 512 + b.toNat * 4 + t.toNat
  | .vexp2 p d a t => 0xA8000000 + p.toNat * 8388608 + d.toNat * 65536 + a.toNat * 512 + t.toNat
  | .vlog2 p d a t => 0xA8000004 + p.toNat * 8388608 + d.toNat * 65536 + a.toNat * 512 + t.toNat
  | .vrcp p d a t => 0xA8000008 + p.toNat * 8388608 + d.toNat * 65536 + a.toNat * 512 + t.toNat
  | .vrsq p d a t => 0xA800000C + p.toNat * 8388608 + d.toNat * 65536 + a.toNat * 512 + t.toNat
  | .vsin p d a t => 0xA8000010 + p.toNat * 8388608 + d.toNat * 65536 + a.toNat * 512 + t.toNat
  | .vtanh p d a t => 0xA8000014 + p.toNat * 8388608 + d.toNat * 65536 + a.toNat * 512 + t.toNat
  | .vunpk p d a f k t => 0xAC000000 + p.toNat * 8388608 + d.toNat * 65536 + a.toNat * 512 + f.toNat * 32 + k.toNat * 4 + t.toNat
  | .vpack p d a f k t => 0xB0000000 + p.toNat * 8388608 + d.toNat * 65536 + a.toNat * 512 + f.toNat * 32 + k.toNat * 4 + t.toNat
  | .vbscl p d a b t => 0xB4000000 + p.toNat * 8388608 + d.toNat * 65536 + a.toNat * 512 + b.toNat * 4 + t.toNat
  | .vld p v a o => 0xB8000000 + p.toNat * 8388608 + v.toNat * 65536 + a.toNat * 1024 + o.toNat
  | .vst p v a o => 0xB8000100 + p.toNat * 8388608 + v.toNat * 65536 + a.toNat * 1024 + o.toNat
  | .vlds p v a o => 0xB8000200 + p.toNat * 8388608 + v.toNat * 65536 + a.toNat * 1024 + o.toNat
  | .vsts p v a o => 0xB8000300 + p.toNat * 8388608 + v.toNat * 65536 + a.toNat * 1024 + o.toNat
  | .sadd p d a b r => 0xBC000000 + p.toNat * 8388608 + d.toNat * 65536 + a.toNat * 512 + b.toNat * 4 + r.toNat
  | .ssub p d a b r => 0xBC200000 + p.toNat * 8388608 + d.toNat * 65536 + a.toNat * 512 + b.toNat * 4 + r.toNat
  | .smul p d a b r => 0xBC400000 + p.toNat * 8388608 + d.toNat * 65536 + a.toNat * 512 + b.toNat * 4 + r.toNat
  | .sdiv p d a b r => 0xBC600000 + p.toNat * 8388608 + d.toNat * 65536 + a.toNat * 512 + b.toNat * 4 + r.toNat
  | .suni p d a b r => 0xC0000000 + p.toNat * 8388608 + d.toNat * 65536 + a.toNat * 512 + b.toNat * 4 + r.toNat
  | .sint p d a b r => 0xC0200000 + p.toNat * 8388608 + d.toNat * 65536 + a.toNat * 512 + b.toNat * 4 + r.toNat
  | .scmp p d a b r => 0xC0400000 + p.toNat * 8388608 + d.toNat * 65536 + a.toNat * 512 + b.toNat * 4 + r.toNat
  | .sneg p d a r => 0xC4000000 + p.toNat * 8388608 + d.toNat * 65536 + a.toNat * 512 + r.toNat
  | .sfrom p d a r => 0xC4000004 + p.toNat * 8388608 + d.toNat * 65536 + a.toNat * 512 + r.toNat
  | .sbnd p d a r => 0xC4000008 + p.toNat * 8388608 + d.toNat * 65536 + a.toNat * 512 + r.toNat
  | .sarc p d a r => 0xC400000C + p.toNat * 8388608 + d.toNat * 65536 + a.toNat * 512 + r.toNat
  | .smsk p d a r => 0xC4000010 + p.toNat * 8388608 + d.toNat * 65536 + a.toNat * 512 + r.toNat
  | .sred p d a r => 0xC4000014 + p.toNat * 8388608 + d.toNat * 65536 + a.toNat * 512 + r.toNat
  | .spld p d a o z => 0xC8000000 + p.toNat * 8388608 + d.toNat * 131072 + a.toNat * 2048 + o.toNat * 64 + z.toNat * 16
  | .spst p d a o z => 0xC8000001 + p.toNat * 8388608 + d.toNat * 131072 + a.toNat * 2048 + o.toNat * 64 + z.toNat * 16
  | .ld p d a o z => 0xCC000000 + p.toNat * 8388608 + d.toNat * 131072 + a.toNat * 2048 + o.toNat * 64 + z.toNat * 16
  | .lds p d a o z c => 0xCC000001 + p.toNat * 8388608 + d.toNat * 131072 + a.toNat * 2048 + o.toNat * 64 + z.toNat * 16 + c.toNat * 4
  | .lda p d a o z c => 0xCC000002 + p.toNat * 8388608 + d.toNat * 131072 + a.toNat * 2048 + o.toNat * 64 + z.toNat * 16 + c.toNat * 4
  | .pref p a o => 0xCC000003 + p.toNat * 8388608 + a.toNat * 2048 + o.toNat * 64
  | .st p d a o z => 0xD0000000 + p.toNat * 8388608 + d.toNat * 131072 + a.toNat * 2048 + o.toNat * 64 + z.toNat * 16
  | .sts p d a o z c => 0xD0000001 + p.toNat * 8388608 + d.toNat * 131072 + a.toNat * 2048 + o.toNat * 64 + z.toNat * 16 + c.toNat * 4
  | .strl p d a o z c => 0xD0000002 + p.toNat * 8388608 + d.toNat * 131072 + a.toNat * 2048 + o.toNat * 64 + z.toNat * 16 + c.toNat * 4
  | .amoAdd p d a b c => 0xD4000000 + p.toNat * 8388608 + d.toNat * 131072 + a.toNat * 2048 + b.toNat * 32 + c.toNat
  | .amoAnd p d a b c => 0xD4000004 + p.toNat * 8388608 + d.toNat * 131072 + a.toNat * 2048 + b.toNat * 32 + c.toNat
  | .amoOr p d a b c => 0xD4000008 + p.toNat * 8388608 + d.toNat * 131072 + a.toNat * 2048 + b.toNat * 32 + c.toNat
  | .amoXor p d a b c => 0xD400000C + p.toNat * 8388608 + d.toNat * 131072 + a.toNat * 2048 + b.toNat * 32 + c.toNat
  | .amoMin p d a b c => 0xD4000010 + p.toNat * 8388608 + d.toNat * 131072 + a.toNat * 2048 + b.toNat * 32 + c.toNat
  | .amoMax p d a b c => 0xD4000014 + p.toNat * 8388608 + d.toNat * 131072 + a.toNat * 2048 + b.toNat * 32 + c.toNat
  | .amoSwap p d a b c => 0xD4000018 + p.toNat * 8388608 + d.toNat * 131072 + a.toNat * 2048 + b.toNat * 32 + c.toNat
  | .cas p d a b c => 0xD400001C + p.toNat * 8388608 + d.toNat * 131072 + a.toNat * 2048 + b.toNat * 32 + c.toNat
  | .fence p c => 0xD8000000 + p.toNat * 8388608 + c.toNat
  | .fenceAll p c => 0xD8000004 + p.toNat * 8388608 + c.toNat
  | .waitaNe p d a b c => 0xD8000008 + p.toNat * 8388608 + d.toNat * 131072 + a.toNat * 2048 + b.toNat * 32 + c.toNat
  | .waitaEq p d a b c => 0xD800000C + p.toNat * 8388608 + d.toNat * 131072 + a.toNat * 2048 + b.toNat * 32 + c.toNat
  | .hwait p h t => 0xDC000000 + p.toNat * 8388608 + h.toNat * 131072 + t.toNat * 32
  | .hstat p d h => 0xDC000001 + p.toNat * 8388608 + d.toNat * 131072 + h.toNat * 2048
  | .hrel p h => 0xDC000002 + p.toNat * 8388608 + h.toNat * 131072
  | .hset p h a b => 0xDC000003 + p.toNat * 8388608 + h.toNat * 131072 + a.toNat * 2048 + b.toNat * 32
  | .hexp p h a b => 0xDC000004 + p.toNat * 8388608 + h.toNat * 131072 + a.toNat * 2048 + b.toNat * 32
  | .hswap p h => 0xDC000005 + p.toNat * 8388608 + h.toNat * 131072
  | .bkrel p a => 0xDC000006 + p.toNat * 8388608 + a.toNat * 2048
  | .bkwait p a => 0xDC000007 + p.toNat * 8388608 + a.toNat * 2048
  | .barv p n a => 0xDC000008 + p.toNat * 8388608 + n.toNat * 131072 + a.toNat * 2048
  | .barvInit p n a => 0xDC000028 + p.toNat * 8388608 + n.toNat * 131072 + a.toNat * 2048
  | .bart p n a => 0xDC000009 + p.toNat * 8388608 + n.toNat * 131072 + a.toNat * 2048
  | .barw p n => 0xDC00000A + p.toNat * 8388608 + n.toNat * 131072
  | .uien p h e => 0xDC00000B + p.toNat * 8388608 + h.toNat * 131072 + e.toNat * 32
  | .clvl p n a b => 0xE0000000 + p.toNat * 8388608 + n.toNat * 131072 + a.toNat * 2048 + b.toNat * 32
  | .cgo p h d s => 0xE0000001 + p.toNat * 8388608 + h.toNat * 131072 + d.toNat * 2048 + s.toNat * 32
  | .cgox p h d s => 0xE0000002 + p.toNat * 8388608 + h.toNat * 131072 + d.toNat * 2048 + s.toNat * 32
  | .cqry p d a q => 0xE0000003 + p.toNat * 8388608 + d.toNat * 131072 + a.toNat * 2048 + q.toNat * 32
  | .mxcall p h i r => 0xE4000000 + p.toNat * 8388608 + h.toNat * 131072 + i.toNat * 2048 + r.toNat
  | .mxp p m a => 0xE8000000 + p.toNat * 8388608 + m.toNat * 131072 + a.toNat * 2048
  | .mxpr p d m => 0xE8000001 + p.toNat * 8388608 + d.toNat * 131072 + m.toNat * 2048
  | .mxldu p a b => 0xE8000002 + p.toNat * 8388608 + a.toNat * 2048 + b.toNat * 32
  | .mxrt p n a => 0xE8000003 + p.toNat * 8388608 + n.toNat * 131072 + a.toNat * 2048
  | .mxstat p d h => 0xE8000004 + p.toNat * 8388608 + d.toNat * 131072 + h.toNat * 2048
  | .shand p h a => 0xEC000000 + p.toNat * 8388608 + h.toNat * 131072 + a.toNat * 2048
  | .sown p d a => 0xEC000001 + p.toNat * 8388608 + d.toNat * 131072 + a.toNat * 2048
  | .genr p d => 0xEC000002 + p.toNat * 8388608 + d.toNat * 131072
  | .tenend p a b => 0xEC000003 + p.toNat * 8388608 + a.toNat * 2048 + b.toNat * 32
  | .genprobe p d a q => 0xEC000004 + p.toNat * 8388608 + d.toNat * 131072 + a.toNat * 2048 + q.toNat * 32
  | .tidx p d => 0xEC000005 + p.toNat * 8388608 + d.toNat * 131072
  | .tnext p d => 0xEC000006 + p.toNat * 8388608 + d.toNat * 131072
  | .suspend p a b => 0xEC000007 + p.toNat * 8388608 + a.toNat * 2048 + b.toNat * 32
  | .endTask p => 0xEC000008 + p.toNat * 8388608
  | .linkq p d a => 0xEC000009 + p.toNat * 8388608 + d.toNat * 131072 + a.toNat * 2048
  | .ringld p r a => 0xEC00000A + p.toNat * 8388608 + r.toNat * 131072 + a.toNat * 2048
  | .vdot p d a b t => 0x5C000000 + p.toNat * 8388608 + d.toNat * 65536 + a.toNat * 512 + b.toNat * 4 + t.toNat
  | .vabd p d a b t => 0xF0000000 + p.toNat * 8388608 + d.toNat * 65536 + a.toNat * 512 + b.toNat * 4 + t.toNat
  | .vclmp p d a b t => 0xF0200000 + p.toNat * 8388608 + d.toNat * 65536 + a.toNat * 512 + b.toNat * 4 + t.toNat
  | .vcvth p d a e t => 0xF4000000 + p.toNat * 8388608 + d.toNat * 65536 + a.toNat * 512 + e.toNat * 4 + t.toNat
  | .vscl p d s t => 0xF8000000 + p.toNat * 8388608 + d.toNat * 65536 + s.toNat * 1024 + t.toNat
  | _ => 0

/-- The word of a slot operation. -/
def encodeSlot (i : Instr) : W32 := BitVec.ofNat 32 (encodeNat i)

/-- A decoded slot of a bundle: its operation and the header byte lent to it. -/
structure Slot where
  i : Instr
  x : Byte
  deriving DecidableEq, Repr

/-- A bundle that may issue: its header's kind and its slots in order, the header as NOP. -/
structure Bundle where
  kind : HdrKind
  slots : List Slot
  deriving DecidableEq, Repr

/-- A decoded bundle, or the subcode and slot of the illegal-bundle trap (R35, R36). -/
inductive BundleDecode where
  | ok (b : Bundle)
  | illegal (sub slot : Nat)
  deriving DecidableEq, Repr

/-- Is the word a header (R23)? -/
def isHeader (w : W32) : Bool := w.extractLsb' 26 6 == 0x3F#6

/-- The header's kind and bytes X1 to X3 (R23). -/
def headerOf (w : W32) : HdrKind × (Nat → Byte) :=
  if isHeader w then
    (match (w.extractLsb' 24 2).toNat with
      | 0 => .imm
      | 1 => .mode
      | 2 => .portable
      | _ => .none,
     fun n => if n = 0 then 0#8 else w.extractLsb' (8 * (n - 1)) 8)
  else (.none, fun _ => 0#8)

/-- The lowest subcode of a list that is not 0, or 0. -/
def lowest (l : List Nat) : Nat :=
  l.foldl (fun a b => if b = 0 then a else if a = 0 then b else if b < a then b else a) 0

/-- The subcode slot n earns on its own, 0 where none, and its operation (R35, R36: the lowest that
applies). handler says that the bundle stands in a user-level interrupt handler (R108). -/
def slotCheck (igpor handler : Bool) (k : HdrKind) (x : Byte) (n : Nat) (w : W32) : Nat × Instr :=
  if n = 0 && isHeader w then
    (if igpor then (if k = .portable then 0 else if k = .none then 6 else 4)
     else match k with
      | .portable => 5
      | .none => 6
      | _ => 0, .nop)
  else if isHeader w then (4, .nop)
  else if igpor && n = 0 then (5, .nop)
  else
    let (c, i) := decodeSlot igpor w
    (lowest [c, if handler && !handlerMajor (w.extractLsb' 26 6).toNat then 2 else 0,
      if igpor && (i.notIgpor || (i.writes k x).contains (.scalar 62)) then 2 else 0, i.badExt k x], i)

/-- The first slot at fault on its own, lowest slot first (R36). -/
def firstBad : Nat → List (Nat × Instr) → Option (Nat × Nat)
  | _, [] => none
  | n, (c, _) :: t => if c = 0 then firstBad (n + 1) t else some (c, n)

/-- The second pass of R36: branch-class slots outside S3, class limits, clashing writes. -/
def pairCheck (k : HdrKind) : Nat → List Slot → List Slot → Option (Nat × Nat)
  | _, _, [] => none
  | n, before, s :: t =>
    let c := classOfMajor s.i.major
    let count := (before.filter (fun b => decide (classOfMajor b.i.major = c))).length
    let own := s.i.writes k s.x
    if (decide (c = .br) && decide (n ≠ 3)) || decide (c.limit ≤ count) then some (8, n)
    else if before.any (fun b => (b.i.writes k b.x).any (fun p => own.any (fun q => p.clash q))) then some (9, n)
    else pairCheck k (n + 1) (before ++ [s]) t

/-- A bundle of four slot words (R19-R36), native or Igpor, in the main stream or in a handler. -/
def decodeBundle (igpor handler : Bool) (w0 w1 w2 w3 : W32) : BundleDecode :=
  let (k, x) := headerOf w0
  let s0 := slotCheck igpor handler k 0#8 0 w0
  let s1 := slotCheck igpor handler k (x 1) 1 w1
  let s2 := slotCheck igpor handler k (x 2) 2 w2
  let s3 := slotCheck igpor handler k (x 3) 3 w3
  match firstBad 0 [s0, s1, s2, s3] with
  | some (c, n) => .illegal c n
  | none =>
    let slots := [⟨s0.2, 0#8⟩, ⟨s1.2, x 1⟩, ⟨s2.2, x 2⟩, ⟨s3.2, x 3⟩]
    match pairCheck k 0 [] slots with
    | some (c, n) => .illegal c n
    | none => .ok ⟨k, slots⟩

/-! ### Micro-words (spec 11 R251) -/

/-- A bit field of a micro-word. -/
def mf (w : W64) (lo n : Nat) : BitVec n := w.extractLsb' lo n
/-- The micro-op of a micro-word; none where its operation is 0 or 10-15 or a reserved field is not zero (R251). -/
def decodeMicro (w : W64) : Option Instr :=
  match (mf w 60 4).toNat with
  | 1 =>
    let ld := mf w 59 1
    let rp := mf w 56 3
    if mf w 0 56 = 0 && (ld = 1 || rp = 0) then some (.zero ld rp) else none
  | 2 =>
    let sp := mf w 34 1
    let ain := mf w 32 1
    let bin := mf w 31 1
    let mp := mf w 47 3
    let ah := mf w 41 6
    let bh := mf w 35 6
    if mf w 59 1 = 0 && mf w 0 31 = 0 && (sp = 1 || mp = 0) && (ain = 0 || ah = 0) && (bin = 0 || bh = 0) then
      some (.mma (mf w 56 3) (mf w 53 3) (mf w 50 3) mp ah bh sp (mf w 33 1) ain bin)
    else none
  | 3 => if mf w 59 1 = 0 && mf w 0 53 = 0 then some (.unf (mf w 56 3) (mf w 53 3)) else none
  | 4 =>
    let sc := mf w 52 1
    let scp := mf w 53 3
    if mf w 59 1 = 0 && mf w 0 49 = 0 && (sc = 1 || scp = 0) then some (.drain (mf w 56 3) scp sc (mf w 49 3)) else none
  | 5 =>
    let ps := mf w 52 1
    let sp := mf w 53 3
    let st := mf w 0 32
    if mf w 59 1 = 0 && mf w 32 20 = 0 && (ps = 1 || sp = 0) && (ps = 0 || st = 0) then
      some (.adv (mf w 56 3) sp ps st)
    else none
  | 6 => if mf w 59 1 = 0 && mf w 0 56 = 0 then some (.mxLoop (mf w 56 3)) else none
  | 7 => if mf w 0 60 = 0 then some .endl else none
  | 8 => if mf w 59 1 = 0 && mf w 0 53 = 0 then some (.waith (mf w 53 6)) else none
  | 9 => if mf w 0 60 = 0 then some .mxEnd else none
  | _ => none

/-- A number at a bit position. -/
def at_ {n : Nat} (lo : Nat) (v : BitVec n) : W64 := v.setWidth 64 <<< lo
/-- The micro-word of a micro-op (R251). -/
def encodeMicro : Instr → W64
  | .zero ld rp => at_ 60 1#4 ||| at_ 59 ld ||| at_ 56 rp
  | .mma ap bp kp mp ah bh sp ua ain bin =>
    at_ 60 2#4 ||| at_ 56 ap ||| at_ 53 bp ||| at_ 50 kp ||| at_ 47 mp ||| at_ 41 ah ||| at_ 35 bh ||| at_ 34 sp
      ||| at_ 33 ua ||| at_ 32 ain ||| at_ 31 bin
  | .unf tp gp => at_ 60 3#4 ||| at_ 56 tp ||| at_ 53 gp
  | .drain rp scp sc df => at_ 60 4#4 ||| at_ 56 rp ||| at_ 53 scp ||| at_ 52 sc ||| at_ 49 df
  | .adv pd sp ps st => at_ 60 5#4 ||| at_ 56 pd ||| at_ 53 sp ||| at_ 52 ps ||| at_ 0 st
  | .mxLoop cp => at_ 60 6#4 ||| at_ 56 cp
  | .endl => at_ 60 7#4
  | .waith h => at_ 60 8#4 ||| at_ 53 h
  | .mxEnd => at_ 60 9#4
  | _ => 0

/-! ### Packets (spec 16 R364, spec 14 R339, spec 15 R353) -/

/-- Bytes o to o + n - 1 of a packet, as a number of m bits. -/
def pf (w : BitVec 256) (o n : Nat) : BitVec (8 * n) := w.extractLsb' (8 * o) (8 * n)
/-- Are those bytes zero? -/
def pz (w : BitVec 256) (o n : Nat) : Bool := w.extractLsb' (8 * o) (8 * n) == 0
/-- A packet, or the stream fault that its layout earns (R367): 0x01 a reserved TYPE, 0x02 a reserved byte or field. -/
def decodePacket (w : BitVec 256) : Except Nat Instr :=
  let fl := pf w 1 1
  let keep := fun (ok : Bool) (i : Instr) => if ok && i.packetOk then Except.ok i else .error 2
  let a := w.extractLsb' 64 64
  let b := w.extractLsb' 128 64
  let c := w.extractLsb' 192 64
  match (w.extractLsb' 0 8).toNat with
  | 0x01 => keep (fl == 0 && pz w 3 5 && pz w 16 16) (.launch (w.extractLsb' 16 8) a)
  | 0x02 => keep (fl == 0 && pz w 3 5 && pz w 24 8) (.launchi (w.extractLsb' 16 8) a b)
  | 0x03 => keep (w.extractLsb' 9 7 == 0 && pz w 2 6 && pz w 16 16) (.loopPacket (w.extractLsb' 8 1) a)
  | 0x04 => keep (pz w 1 31) .endloop
  | 0x05 => keep (pz w 1 7) (.ifeq a b c)
  | 0x06 => keep (pz w 1 7) (.ifne a b c)
  | 0x07 => keep (pz w 1 31) .endif
  | 0x08 => keep (w.extractLsb' 10 6 == 0 && pz w 2 6) (.waitmem (w.extractLsb' 8 2) a b c)
  | 0x09 => keep (w.extractLsb' 9 1 == 0 && w.extractLsb' 12 4 == 0 && pz w 2 6 && pz w 24 8)
      (.writemem (w.extractLsb' 8 1) (w.extractLsb' 10 2) a b)
  | 0x0A => keep (fl == 0 && pz w 4 4 && pz w 24 8) (.signal (w.extractLsb' 16 16) a b)
  | 0x0B => keep (w.extractLsb' 10 6 == 0 && pz w 2 30) (.fencePacket (w.extractLsb' 8 2))
  | 0x0C => keep (w.extractLsb' 10 6 == 0 && pz w 5 3 && pz w 24 8)
      (.handover (w.extractLsb' 8 1) (w.extractLsb' 9 1) (w.extractLsb' 16 8) (w.extractLsb' 24 8) (w.extractLsb' 32 8) a b)
  | 0x0D => keep (fl == 0 && pz w 2 2 && pz w 16 16) (.calls (w.extractLsb' 32 32) a)
  | 0x0E => keep (pz w 1 31) .rets
  | 0x0F => keep (w.extractLsb' 9 7 == 0 && w.extractLsb' 28 4 == 0 && pz w 4 4 && pz w 16 16)
      (.tenendPacket (w.extractLsb' 8 1) (w.extractLsb' 16 12) a)
  | _ => .error 1

/-- A number at a bit position of a packet. -/
def pAt {n : Nat} (lo : Nat) (v : BitVec n) : BitVec 256 := v.setWidth 256 <<< lo
/-- The 32 bytes of a packet. -/
def encodePacket : Instr → BitVec 256
  | .launch m l => pAt 0 0x01#8 ||| pAt 16 m ||| pAt 64 l
  | .launchi m l i => pAt 0 0x02#8 ||| pAt 16 m ||| pAt 64 l ||| pAt 128 i
  | .loopPacket ind n => pAt 0 0x03#8 ||| pAt 8 ind ||| pAt 64 n
  | .endloop => pAt 0 0x04#8
  | .ifeq a v m => pAt 0 0x05#8 ||| pAt 64 a ||| pAt 128 v ||| pAt 192 m
  | .ifne a v m => pAt 0 0x06#8 ||| pAt 64 a ||| pAt 128 v ||| pAt 192 m
  | .endif => pAt 0 0x07#8
  | .waitmem op a v m => pAt 0 0x08#8 ||| pAt 8 op ||| pAt 64 a ||| pAt 128 v ||| pAt 192 m
  | .writemem z sc a v => pAt 0 0x09#8 ||| pAt 8 z ||| pAt 10 sc ||| pAt 64 a ||| pAt 128 v
  | .signal x a v => pAt 0 0x0A#8 ||| pAt 16 x ||| pAt 64 a ||| pAt 128 v
  | .fencePacket sc => pAt 0 0x0B#8 ||| pAt 8 sc
  | .handover cpl sig k c h a v =>
    pAt 0 0x0C#8 ||| pAt 8 cpl ||| pAt 9 sig ||| pAt 16 k ||| pAt 24 c ||| pAt 32 h ||| pAt 64 a ||| pAt 128 v
  | .calls n a => pAt 0 0x0D#8 ||| pAt 32 n ||| pAt 64 a
  | .rets => pAt 0 0x0E#8
  | .tenendPacket cl t a => pAt 0 0x0F#8 ||| pAt 8 cl ||| pAt 16 t ||| pAt 64 a
  | _ => 0

/-! ### The words of the opcode table -/

/-- The instruction of a word of nbits bits, numbered as the opcode table numbers them: a native slot word, else an
Igpor one. Only the slot rows of the table have words. -/
def decodeTableWord (nbits w : Nat) : Option Instr :=
  let v : W32 := BitVec.ofNat 32 w
  if nbits = 0 || 32 < nbits || isHeader v then none
  else match decodeSlot false v with
    | (0, i) => some i
    | _ => match decodeSlot true v with
      | (0, i) => some i
      | _ => none

end Sys2Proof
end

