-- ==== Sys2Proof/Machine/Formats.lean ====
section
/-! DEFINITION. Number formats (spec 06): exact values, decoding of every element format, the single
rounding of R123-R124, narrowing (R128) and its flags (R129). -/
namespace Sys2Proof.Machine

/-- An exact value: NaN, an infinity, or (-1)^neg * m * 2^e. With sticky the magnitude lies strictly
between m * 2^e and (m + 1) * 2^e (a value no dyadic number equals, R152). -/
inductive Num where
  | nan
  | inf (neg : Bool)
  | fin (neg : Bool) (m : Nat) (e : Int) (sticky : Bool)
  deriving DecidableEq, Repr

/-- +0. -/
def Num.zero : Num := .fin false 0 0 false

/-- The families of special codes of R111. -/
inductive FloatKind where
  /-- E all ones holds infinity and NaN (f32, bf16, f16, e5m2). -/
  | ieee
  /-- One NaN code for each sign and no infinity (e4m3). -/
  | nanOnly
  /-- Every code is finite (e3m2, e2m3, e2m1). -/
  | finite
  deriving DecidableEq, Repr

/-- A floating-point format: exponent bits, mantissa bits, bias, special codes (R111). -/
structure FloatFmt where
  eb : Nat
  mb : Nat
  bias : Nat
  kind : FloatKind
  deriving DecidableEq, Repr

def fmtF32 : FloatFmt := ⟨8, 23, 127, .ieee⟩
def fmtBf16 : FloatFmt := ⟨8, 7, 127, .ieee⟩
def fmtF16 : FloatFmt := ⟨5, 10, 15, .ieee⟩
def fmtE5m2 : FloatFmt := ⟨5, 2, 15, .ieee⟩
def fmtE4m3 : FloatFmt := ⟨4, 3, 7, .nanOnly⟩
def fmtE3m2 : FloatFmt := ⟨3, 2, 3, .finite⟩
def fmtE2m3 : FloatFmt := ⟨2, 3, 1, .finite⟩
def fmtE2m1 : FloatFmt := ⟨2, 1, 1, .finite⟩

/-- Width in bits. -/
def FloatFmt.width (f : FloatFmt) : Nat := 1 + f.eb + f.mb

/-- The largest finite code without its sign (R111). -/
def FloatFmt.maxCode (f : FloatFmt) : Nat :=
  match f.kind with
  | .ieee => (2 ^ f.eb - 1) * 2 ^ f.mb - 1
  | .nanOnly => 2 ^ (f.eb + f.mb) - 2
  | .finite => 2 ^ (f.eb + f.mb) - 1

/-- The positive canonical NaN (R112); 0 where the format has none. -/
def FloatFmt.nanCode (f : FloatFmt) : Nat :=
  match f.kind with
  | .ieee => (2 ^ f.eb - 1) * 2 ^ f.mb + 2 ^ (f.mb - 1)
  | .nanOnly => 2 ^ (f.eb + f.mb) - 1
  | .finite => 0

/-- The value of a code (R111). -/
def FloatFmt.decode (f : FloatFmt) (code : Nat) : Num :=
  let neg := decide (code / 2 ^ (f.eb + f.mb) % 2 = 1)
  let e := code / 2 ^ f.mb % 2 ^ f.eb
  let m := code % 2 ^ f.mb
  if decide (f.kind = .ieee) && decide (e = 2 ^ f.eb - 1) then
    if m = 0 then .inf neg else .nan
  else if decide (f.kind = .nanOnly) && decide (e = 2 ^ f.eb - 1) && decide (m = 2 ^ f.mb - 1) then .nan
  else if e = 0 then .fin neg m (1 - (f.bias : Int) - f.mb) false
  else .fin neg (2 ^ f.mb + m) ((e : Int) - f.bias - f.mb) false

/-- Number of bits of a natural number. -/
def bitLen (n : Nat) : Nat := if n = 0 then 0 else Nat.log2 n + 1

/-- The six flags of FMTST (R129), bit 0 INV to bit 5 SCLB. -/
abbrev Flags := BitVec 6
def flagINV : Flags := 1#6
def flagOVF : Flags := 2#6
def flagUNF : Flags := 4#6
def flagNXT : Flags := 8#6
def flagQ4XO : Flags := 16#6
def flagSCLB : Flags := 32#6

/-- How a slot rounds: RND of its mode byte (R26) and the random word of the lane (R125). -/
structure Rounding where
  rnd : BitVec 3
  word : BitVec 64
  deriving DecidableEq, Repr

/-- Round to nearest even, which engines and unmoded slots use (R123). -/
def rne : Rounding := ⟨0#3, 0#64⟩

/-- An integer mantissa m * 2^e (sticky) rounded to a multiple of 2^q (R123, R124): the quotient and
whether it is inexact. -/
def roundTo (r : Rounding) (neg : Bool) (m : Nat) (e : Int) (sticky : Bool) (q : Int) : Nat × Bool :=
  if q ≤ e then (m * 2 ^ (e - q).toNat, sticky)
  else
    let sh := (q - e).toNat
    let t := m / 2 ^ sh
    let rem := m % 2 ^ sh
    let inexact := decide (rem ≠ 0) || sticky
    let half := 2 ^ (sh - 1)
    let up :=
      match r.rnd.toNat with
      | 0 => decide (rem > half) || (decide (rem = half) && (sticky || decide (t % 2 = 1)))
      | 1 => false
      | 2 => inexact && !neg
      | 3 => inexact && neg
      | _ => inexact && decide (rem * 2 ^ 24 / 2 ^ sh + r.word.toNat % 2 ^ 24 ≥ 2 ^ 24)
    (if up then t + 1 else t, inexact)

/-- What an overflowing result delivers (R128). -/
def FloatFmt.overflow (f : FloatFmt) (r : Rounding) (sat neg : Bool) : Nat :=
  let s := if neg then 2 ^ (f.eb + f.mb) else 0
  match f.kind with
  | .finite => s + f.maxCode
  | .nanOnly => if sat then s + f.maxCode else f.nanCode
  | .ieee =>
    if sat || decide (r.rnd = 1#3) || (decide (r.rnd = 2#3) && neg) || (decide (r.rnd = 3#3) && !neg)
    then s + f.maxCode else s + (2 ^ f.eb - 1) * 2 ^ f.mb

/-- One rounding of an exact value to a floating-point format, with the flags it raises (R123, R124,
R128, R129). -/
def FloatFmt.encode (f : FloatFmt) (r : Rounding) (sat : Bool) : Num → Nat × Flags
  | .nan => match f.kind with
    | .finite => (0, flagINV)
    | _ => (f.nanCode, 0#6)
  | .inf neg => match f.kind with
    | .ieee => ((if neg then 2 ^ (f.eb + f.mb) else 0) + (2 ^ f.eb - 1) * 2 ^ f.mb, 0#6)
    | _ => (f.overflow r sat neg, flagOVF ||| flagNXT)
  | .fin neg m e sticky =>
    let s := if neg then 2 ^ (f.eb + f.mb) else 0
    if decide (m = 0) && !sticky then (s, 0#6)
    else
      let emin : Int := 1 - f.bias
      let lead : Int := e + bitLen m - 1
      let q : Int := (if lead < emin then emin else lead) - f.mb
      let (n, inexact) := roundTo r neg m e sticky q
      let code : Int := if n < 2 ^ f.mb then n else (q + f.mb + f.bias - 1) * 2 ^ f.mb + n
      if (f.maxCode : Int) < code then (f.overflow r sat neg, flagOVF ||| flagNXT)
      else
        let nu := (roundTo r neg m e sticky (lead - f.mb)).1
        let tiny := decide (lead < emin) &&
          !(decide (lead = emin - 1) && decide (2 ^ (f.mb + 1) ≤ nu))
        (s + code.toNat, (if inexact then flagNXT else 0#6) ||| (if inexact && tiny then flagUNF else 0#6))

/-- One rounding of an exact value to an integer format of the width, two's complement where signed
(R123, R128). -/
def encodeInt (w : Nat) (signed : Bool) (r : Rounding) (sat : Bool) : Num → Nat × Flags
  | .nan => (if sat then 0 else if signed then 2 ^ (w - 1) else 2 ^ w - 1, flagINV)
  | .inf neg =>
    (if sat then (if signed then (if neg then 2 ^ (w - 1) else 2 ^ (w - 1) - 1) else (if neg then 0 else 2 ^ w - 1))
     else if signed then 2 ^ (w - 1) else 2 ^ w - 1, flagOVF ||| flagNXT)
  | .fin neg m e sticky =>
    let (n, inexact) := roundTo r neg m e sticky 0
    let v : Int := if neg then -(n : Int) else n
    let lo : Int := if signed then -(2 ^ (w - 1) : Nat) else 0
    let hi : Int := if signed then (2 ^ (w - 1) : Nat) - 1 else (2 ^ w : Nat) - 1
    if v < lo || hi < v then
      ((((if sat then (if v < lo then lo else hi) else if signed then lo else hi) % (2 ^ w : Nat)).toNat),
        flagOVF ||| flagNXT)
    else ((v % (2 ^ w : Nat)).toNat, if inexact then flagNXT else 0#6)

/-- The exact value of an integer. -/
def Num.ofInt (v : Int) : Num := .fin (decide (v < 0)) v.natAbs 0 false

/-- The value of a w-bit two's complement or unsigned code (R113). -/
def decodeInt (w : Nat) (signed : Bool) (code : Nat) : Int :=
  if signed && decide (2 ^ (w - 1) ≤ code % 2 ^ w) then (code % 2 ^ w : Nat) - (2 ^ w : Nat) else (code % 2 ^ w : Nat)

/-- Is it a NaN? -/
def Num.isNan : Num → Bool
  | .nan => true
  | _ => false

/-- The sign of a value. -/
def Num.sign : Num → Bool
  | .nan => false
  | .inf n => n
  | .fin n _ _ _ => n

/-- The opposite value. -/
def Num.neg : Num → Num
  | .nan => .nan
  | .inf n => .inf (!n)
  | .fin n m e s => .fin (!n) m e s

/-- The exact sum; an exactly zero sum of opposite signs is -0 only when rounding toward -infinity
(R127). -/
def Num.add (rd : Bool) : Num → Num → Num
  | .nan, _ => .nan
  | _, .nan => .nan
  | .inf a, .inf b => if a = b then .inf a else .nan
  | .inf a, _ => .inf a
  | _, .inf b => .inf b
  | .fin a m e _, .fin b n f _ =>
    let q := if e < f then e else f
    let x : Int := (m * 2 ^ (e - q).toNat : Nat)
    let y : Int := (n * 2 ^ (f - q).toNat : Nat)
    let v := (if a then -x else x) + (if b then -y else y)
    if v = 0 then .fin (if a = b then a else rd) 0 q false else .fin (decide (v < 0)) v.natAbs q false

/-- The exact product (R127). -/
def Num.mul : Num → Num → Num
  | .nan, _ => .nan
  | _, .nan => .nan
  | .inf a, .inf b => .inf (a ^^ b)
  | .inf a, .fin b n _ _ => if n = 0 then .nan else .inf (a ^^ b)
  | .fin a m _ _, .inf b => if m = 0 then .nan else .inf (a ^^ b)
  | .fin a m e _, .fin b n f _ => .fin (a ^^ b) (m * n) (e + f) false

/-- Comparison by value of two non-NaN numbers: negative, zero or positive as a is below, equal to or
above b; with ties between signed zeros broken by sign only where ord is set (R141, R144). -/
def Num.cmp (ord : Bool) (a b : Num) : Int :=
  match a, b with
  | .nan, _ => 0
  | _, .nan => 0
  | .inf x, .inf y => if x = y then 0 else if x then -1 else 1
  | .inf x, _ => if x then -1 else 1
  | _, .inf y => if y then 1 else -1
  | .fin x m e _, .fin y n f _ =>
    let q := if e < f then e else f
    let u : Int := (m * 2 ^ (e - q).toNat : Nat)
    let v : Int := (n * 2 ^ (f - q).toNat : Nat)
    let d := (if x then -u else u) - (if y then -v else v)
    if d = 0 then (if ord && decide (m = 0) && decide (x ≠ y) then (if x then -1 else 1) else 0) else d

/-- The larger of two lanes; NaN if either is NaN (R141). -/
def Num.max (a b : Num) : Num := if a.isNan || b.isNan then .nan else if a.cmp true b < 0 then b else a
/-- The smaller of two lanes; NaN if either is NaN (R141). -/
def Num.min (a b : Num) : Num := if a.isNan || b.isNan then .nan else if b.cmp true a < 0 then b else a

/-- INV of a result: an invalid operation gave NaN from operands none of which is NaN (R129). -/
def invFlag (ops : List Num) (r : Num) : Flags :=
  if r.isNan && !(ops.any Num.isNan) then flagINV else 0#6

/-- The exact sum of a list, NaN operands first, then infinities (R132); sum of none is +0. -/
def Num.sum (rd : Bool) : List Num → Num
  | [] => .zero
  | x :: t => t.foldl (Num.add rd) x

/-- Is the code of a block scale zero, negative, infinite or NaN (R115)? -/
def scaleBad (n : Num) : Bool :=
  match n with
  | .nan => true
  | .inf _ => true
  | .fin neg m _ _ => neg || decide (m = 0)

/-- An element format by the FMT code of a page (R121). -/
inductive Elem where
  | float (f : FloatFmt)
  | int (w : Nat) (signed : Bool)
  | q4x
  /-- bytes and the Pelelm set formats: no number. -/
  | raw (w : Nat)
  deriving DecidableEq, Repr

/-- The format of an FMT code (R121); none where reserved. -/
def elemOf (fmt : Nat) : Option Elem :=
  match fmt with
  | 0x00 => some (.raw 8)
  | 0x01 => some (.float fmtF32)
  | 0x02 => some (.float fmtBf16)
  | 0x03 => some (.float fmtF16)
  | 0x04 => some (.float fmtE4m3)
  | 0x05 => some (.float fmtE5m2)
  | 0x06 => some (.float fmtE3m2)
  | 0x07 => some (.float fmtE2m3)
  | 0x08 => some (.float fmtE2m1)
  | 0x09 => some (.int 32 true)
  | 0x0A => some (.int 16 true)
  | 0x0B => some (.int 8 true)
  | 0x0C => some (.int 4 true)
  | 0x0D => some (.int 32 false)
  | 0x0E => some (.int 16 false)
  | 0x0F => some (.int 8 false)
  | 0x10 => some .q4x
  | 0x11 => some (.raw 16)
  | 0x12 => some (.raw 32)
  | 0x13 => some (.raw 8)
  | 0x14 => some (.raw 16)
  | _ => none

/-- Element width in bits (Q4X: its 4-bit code). -/
def Elem.width : Elem → Nat
  | .float f => f.width
  | .int w _ => w
  | .q4x => 4
  | .raw w => w

/-- The value of an element code; a raw element has none and reads as its unsigned code. -/
def Elem.decode : Elem → Nat → Num
  | .float f, c => f.decode c
  | .int w s, c => Num.ofInt (decodeInt w s c)
  | .q4x, c => Num.ofInt (decodeInt 4 true c)
  | .raw _, c => Num.ofInt c

/-- May this FMT be paired with this GEO in a page (R117)? -/
def fmtGeoOk (fmt geo : Nat) : Bool :=
  match elemOf fmt with
  | none => false
  | some _ =>
    if fmt = 0x10 then geo == 2 || geo == 6
    else if geo == 0 then true
    else if geo == 4 then false
    else (4 ≤ fmt && fmt ≤ 8) || fmt == 0x0B || fmt == 0x0C

/-- The block size of a GEO code (R117); 0 where unscaled. -/
def geoBlock (geo : Nat) : Nat :=
  match geo with
  | 1 => 16
  | 2 => 32
  | 3 => 64
  | 5 => 16
  | 6 => 32
  | 7 => 64
  | _ => 0

/-- Does GEO place the scales after the blocks (R117)? -/
def geoTrailing (geo : Nat) : Bool := decide (4 ≤ geo)

/-- Where element e of a block-scaled page lies, in bits from the page's start, and its scale word in
bytes (R118). -/
def blockPlace (w geo e : Nat) : Nat × Nat :=
  let n := geoBlock geo
  let bb := n * w / 8
  let blk := e / n
  let i := e % n
  if geoTrailing geo then
    let base := blk / 32 * (32 * bb + 128)
    ((base + blk % 32 * bb) * 8 + i * w, base + 32 * bb + 4 * (blk % 32))
  else ((blk * (4 + bb) + 4) * 8 + i * w, blk * (4 + bb))

/-- The bytes of one group of a block-scaled page and the elements it holds (R118). -/
def groupSize (w geo : Nat) : Nat × Nat :=
  let n := geoBlock geo
  if geoTrailing geo then (32 * (n * w / 8) + 128, 32 * n) else (4 + n * w / 8, n)

/-- The 32 unscaled values of a Q4X block and whether Q4XO is raised (R120): codes and the four
extension nibbles. -/
def q4xDecode (code : Nat → Nat) (ext : Nat → Nat) : List Num × Bool :=
  let marked := fun j => decide (code j % 16 = 8)
  let nb := fun j => if j % 2 = 0 then j + 1 else j - 1
  let lone := (List.range 32).filter (fun j => marked j && !marked (nb j))
  let rank := fun j => (lone.takeWhile (fun x => decide (x ≠ j))).length
  let outlier := fun j => marked j && !marked (nb j) && decide (rank j < 4)
  ((List.range 32).map (fun j =>
      if outlier j then fmtE4m3.decode (code (nb j) % 16 * 16 + ext (rank j) % 16)
      else if marked j then .zero
      else if outlier (nb j) then .zero
      else Num.ofInt (decodeInt 4 true (code j))),
    (List.range 32).any (fun j => marked j && !outlier j))

end Sys2Proof.Machine
end

