-- ==== Sys2Proof/Machine/Sparse.lean ====
section
/-! DEFINITION. Sparse tables: a list of (key, value) pairs in one canonical form, keys strictly rising
and no value equal to the table's default. Memory, register files, cores and queues are held so; equal
tables are equal lists. -/
namespace Sys2Proof

/-- A table by natural key; an unlisted key holds the default its readers name. -/
abbrev Sparse (α : Type) := List (Nat × α)

/-- The value at key k, d where k is not listed. -/
def Sparse.get {α : Type} (d : α) (k : Nat) : Sparse α → α
  | [] => d
  | (i, v) :: t => if i = k then v else Sparse.get d k t

/-- List v at key k, in its place among rising keys. -/
def Sparse.insert {α : Type} (k : Nat) (v : α) : Sparse α → Sparse α
  | [] => [(k, v)]
  | (i, u) :: t =>
    if i = k then (k, v) :: t
    else if k < i then (k, v) :: (i, u) :: t
    else (i, u) :: Sparse.insert k v t

/-- Put v at key k, keeping the canonical form: v = d removes the entry. -/
def Sparse.put {α : Type} [DecidableEq α] (d : α) (k : Nat) (v : α) (m : Sparse α) : Sparse α :=
  if v = d then m.filter (fun e => decide (e.1 ≠ k)) else Sparse.insert k v m

/-- Change the value at key k by f. -/
def Sparse.upd {α : Type} [DecidableEq α] (d : α) (k : Nat) (f : α → α) (m : Sparse α) : Sparse α :=
  Sparse.put d k (f (Sparse.get d k m)) m

/-- Every listed key is at least lo, keys rise strictly and no value is the default. -/
def Sparse.wfFrom {α : Type} [DecidableEq α] (d : α) (lo : Nat) : Sparse α → Bool
  | [] => true
  | (i, v) :: t => decide (lo ≤ i) && decide (v ≠ d) && Sparse.wfFrom d (i + 1) t

/-- The canonical form. -/
def Sparse.wf {α : Type} [DecidableEq α] (d : α) (m : Sparse α) : Bool := Sparse.wfFrom d 0 m

/-- The non-default entries of a run of values placed from key k. -/
def Sparse.ofRun {α : Type} [DecidableEq α] (d : α) : Nat → List α → Sparse α
  | _, [] => []
  | k, v :: t => if v = d then Sparse.ofRun d (k + 1) t else (k, v) :: Sparse.ofRun d (k + 1) t

/-- Replace the run of values from key k on, in one pass. -/
def Sparse.putRun {α : Type} [DecidableEq α] (d : α) (k : Nat) (vs : List α) (m : Sparse α) : Sparse α :=
  m.takeWhile (fun e => decide (e.1 < k)) ++ Sparse.ofRun d k vs
    ++ (m.dropWhile (fun e => decide (e.1 < k + vs.length)))

/-- The n values from key k on. -/
def Sparse.getRun {α : Type} (d : α) : Nat → Nat → Sparse α → List α
  | _, 0, _ => []
  | k, n + 1, m =>
    match m.dropWhile (fun e => decide (e.1 < k)) with
    | [] => d :: Sparse.getRun d (k + 1) n []
    | (i, v) :: t => if i = k then v :: Sparse.getRun d (k + 1) n t
                     else d :: Sparse.getRun d (k + 1) n ((i, v) :: t)

/-- Change every listed value by f, dropping those that become the default, and what else a list that is not canonical has
at their keys. -/
def Sparse.mapVals {α : Type} [DecidableEq α] (d : α) (f : Nat → α → α) : Sparse α → Sparse α
  | [] => []
  | (i, v) :: t => if f i v = d then (Sparse.mapVals d f t).filter (fun e => decide (e.1 ≠ i)) else (i, f i v) :: Sparse.mapVals d f t

end Sys2Proof
end

