-- ==== Sys2Proof/Machine/State.lean ====
section
/-! DEFINITION. The state of the module as plain data: everything the spec gives the machine, and the
model's own fields (the agenda, the current-instruction context, the free-value counter). Sparse tables
are canonical lists; a field's default is its value at reset (notes/assumptions). -/
namespace Sys2Proof.Machine

/-- A step that has no next state. Nothing in this model raises one on a path of the spec: every stop the
spec describes (a trap, a stopped core, a failed context) is a next state. -/
inductive Fault where
  /-- Raised by no meaning; kept so that the type is inhabited. Safe: it only removes behaviours. -/
  | none
  deriving DecidableEq, Repr

/-- An instruction without a meaning. -/
inductive Refusal where
  /-- Raised by an arm of exec that has no meaning yet. Safe: nothing follows from it. -/
  | notModelled (mnemonic : String)
  deriving DecidableEq, Repr

/-! ### Registers -/

/-- A scalar register or a parameter register: 64 bits and a hallmark (R67, R240). -/
structure HReg where
  val : W64 := 0
  hm : Hm := 0
  deriving DecidableEq, Repr

/-- A predicate with its hallmark (R70). -/
structure PReg where
  val : Bool := false
  hm : Hm := 0
  deriving DecidableEq, Repr

/-- A 128-byte row or scratchpad line with its hallmark (R134, R182); bad where an uncorrectable memory
error stands in it (R203, log entry 4). -/
structure Line where
  data : Image := 0
  hm : Hm := 0
  bad : Bool := false
  deriving DecidableEq, Repr

/-- What a landing-queue entry writes (R61). -/
inductive LqKind where
  | scalar | pred | vector
  /-- an Igpor vector (R439) -/
  | pvec
  deriving DecidableEq, Repr

/-- A landing-queue entry (R61). -/
structure LqEntry where
  gen : Hm
  lmask : W32
  vwb : BitVec 12
  vrot : BitVec 5
  seq : Byte
  remv : Nat
  kind : LqKind
  dest : Nat
  value : Image
  /-- flags it raises when it lands (R130) -/
  flags : Flags
  /-- into the shadow bank -/
  shadow : Bool
  deriving DecidableEq, Repr

/-- A result that is taken when it is served (R230). -/
inductive Query where
  /-- CQRY q of a -/
  | copy (q : Nat) (a : W64)
  /-- MXSTAT of an awaited entry (R268) -/
  | status (h : Nat)
  /-- LINKQ of a link (R419) -/
  | link (l : Nat)
  deriving DecidableEq, Repr

/-- A pending variable-latency result (R53). -/
structure Pending where
  id : Nat
  shadow : Bool
  reg : Nat
  gen : Hm
  /-- the result once it can arrive -/
  value : Option W64
  /-- counted by the loads counter (R94) -/
  counted : Bool
  /-- what is read when the result is served -/
  query : Option Query := none
  /-- its load met an uncorrectable error: it never arrives (R307) -/
  failed : Bool := false
  deriving DecidableEq, Repr

/-- A write that takes effect at the start of the next virtual cycle (R84, R60, R169). -/
inductive Delayed where
  | csr (idx : Nat) (v : W64)
  | spm (addr size : Nat) (v : W64) (gen : Hm)
  | line (idx : Nat) (data : Image) (gen : Hm)
  | ring (slot : Nat) (img : BitVec 98944) (gen : Hm)
  deriving DecidableEq, Repr

/-- A ring slot: the loaded image and its hallmark (R168). -/
structure RingSlot where
  img : BitVec 98944 := 0
  hm : Hm := 0
  deriving DecidableEq, Repr

/-- Where a global access goes: its translation (R277, R285). -/
structure Target where
  dla : Nat := 0
  /-- generation of the access: the issuer's, or an exporter's -/
  gen : Hm := 0
  /-- the compute die that serves it -/
  die : Nat := 0
  /-- through the peer window, or a DLA request -/
  remote : Bool := false
  /-- EPOCH of the stack's owner register under which it is served (R336) -/
  epoch : BitVec 16 := 0
  /-- ORD: 0 strongly ordered, 1 release-consistent, 2 unordered (R296) -/
  ord : Nat := 1
  /-- CP (R280) -/
  cp : Nat := 0
  fmt : Nat := 0
  geo : Nat := 0
  /-- page size: 0 is 64 KiB, 1 is 32 MiB, 2 is 1 GiB -/
  psize : Nat := 0
  /-- held in the forward queue of a hand-over: the exporter, its guest-physical address, and whether the access reads and
  writes; the receiving die translates it at step 5 (R336) -/
  fwd : Option (Nat × Nat × Bool × Bool) := none
  deriving DecidableEq, Repr

/-! ### Handles, regions, banks and barriers -/

/-- States of a handle (R185). -/
inductive HState where
  | free | filling | full | draining | error
  deriving DecidableEq, Repr

/-- A level register (R215). -/
structure Level where
  count : BitVec 20 := 1
  sstr : BitVec 32 := 0
  dstr : BitVec 32 := 0
  deriving DecidableEq, Repr

/-- A copy descriptor (R226): addresses, levels, CCTL, CGOX or CGO, and the mode it was issued with. -/
structure CopyDesc where
  dst : W64 := 0
  src : W64 := 0
  cctl : W64 := 0
  x : Bool := false
  levels : Sparse Level := []
  scope : Nat := 0
  hint : Nat := 0
  deriving DecidableEq, Repr

/-- The completion object of a copy (R227, R228, R200). -/
inductive CopyObj where
  | handle (h : Nat)
  | barrier (b : Nat)
  | remote (core h : Nat)
  /-- the staging record of a preload, by its operation -/
  | staging (op : Nat)
  deriving DecidableEq, Repr

/-- A copy in hand (R218-R229). -/
structure Copy where
  id : Nat
  seq : BitVec 16
  desc : CopyDesc
  obj : CopyObj
  gen : Hm
  /-- destination bytes of the box -/
  bytes : Nat
  /-- first units of the line transfers made -/
  moved : List Nat := []
  /-- bytes performed and counted -/
  counted : Nat := 0
  /-- bytes written and not yet performed at the copy's scope -/
  inFlight : Nat := 0
  /-- the remote expectation has been posted (R227) -/
  posted : Bool := true
  /-- has left the copies counter (R229) -/
  left : Bool := false
  /-- FMT, GEO and page size of the source pages read so far (R223) -/
  pageFmt : Option (Nat × Nat × Nat) := none
  /-- line transfers whose first read met an uncorrectable error (R202) -/
  retried : List Nat := []
  /-- older global accesses of the core that the fork orders before it (R303) -/
  forkAt : Nat := 0
  /-- it runs a kept descriptor again (R203): the call's regions do not hold it -/
  again : Bool := false
  /-- it has met a fault and writes nothing further (R225) -/
  ended : Bool := false
  /-- targets of line transfers that wait with their translation made, at a stack port or in the forward queue of a
  hand-over, by their first unit, whether they are the source's, and their virtual address (R234, R329, R336) -/
  held : List (Nat × Bool × Nat × Target) := []
  deriving DecidableEq, Repr

/-- An engine thread that has completed and is not yet joined (R304): its operation, whether it is a call, its
completion object and its scope. -/
structure Thread where
  op : Nat
  call : Bool
  obj : CopyObj
  scope : Nat
  /-- it belongs to another core, which has posted to the handle -/
  far : Bool := false
  deriving DecidableEq, Repr

/-- The copy fault register (R229, R230). -/
structure CopyFault where
  valid : Bool := false
  seq : BitVec 16 := 0
  fcode : Byte := 0
  deriving DecidableEq, Repr

/-- A buffer handle (R185, R186). -/
structure Handle where
  exp : Nat := 0
  cnt : Nat := 0
  fmt : BitVec 6 := 0
  geo : BitVec 3 := 0
  phase : Bool := false
  refetch : Bool := false
  fcode : Byte := 0
  st : HState := .free
  hm : Hm := 0
  /-- the kept descriptor (R203) -/
  desc : Option CopyDesc := none
  /-- this phase has been rolled back once (R203) -/
  rolled : Bool := false
  deriving DecidableEq, Repr

/-- A staging record of a preload (R200): its descriptor, handle number and banks, the handle's contents, and the
operation once started. -/
structure Staged where
  desc : CopyDesc
  handle : Nat
  banks : BitVec 16
  held : Handle := {}
  op : Option Nat := none
  /-- its task was handed back: the copy runs on to FULL or ERROR and the record is dropped then (R394) -/
  orphan : Bool := false
  deriving DecidableEq, Repr

/-- A scoreboard region (R196). -/
structure Region where
  acc : Bool
  first : Nat
  last : Nat
  write : Bool
  op : Nat
  deriving DecidableEq, Repr

/-- States of a bank (R198, R199). -/
inductive BankState where
  | released | held | preloading
  /-- named by BKREL while a region touches it -/
  | releasing
  deriving DecidableEq, Repr

/-- A legacy barrier (R204). -/
structure Barrier where
  want : BitVec 24 := 0
  got : BitVec 24 := 0
  quota : BitVec 16 := 0
  arrv : BitVec 16 := 0
  wep : BitVec 2 := 0
  epoch : BitVec 2 := 0
  /-- ARRV, WANT or GOT has changed in this local cycle (the model's own, R205) -/
  moved : Bool := false
  deriving DecidableEq, Repr

/-! ### The matrix engine -/

/-- A matrix call, queued or running (R239, R248). -/
structure Call where
  id : Nat
  start : Nat
  len : Nat
  /-- m0-m7 as copied at issue, and as the micro-ops have advanced them (R240, R258) -/
  snap : List W64
  params : List W64
  hout : Nat
  hin : Nat
  gen : Hm
  scope : Nat := 0
  /-- older global accesses of the core that the fork orders before it (R303) -/
  forkAt : Nat := 0
  started : Bool := false
  /-- next micro-word -/
  pc : Nat := 0
  /-- open loops, innermost first: first word of the body and runs left (R259) -/
  loops : List (Nat × Nat) := []
  /-- working tile: f32 code of element (i, j) at 32 i + j -/
  tile : Sparse Nat := []
  /-- rows drained (R257) -/
  drained : List Nat := []
  /-- handles that are inputs: hin and those a WAITH has passed (R253, R260) -/
  inputs : List Nat := []
  /-- TP and GP of the last UNF (R256) -/
  unf : Option (W64 × W64) := none
  /-- checksum references since the last ZERO: row sums, row magnitudes, column sums, column magnitudes, and
  the slice roundings (R264) -/
  refs : List (Num × Num × Num × Num) := []
  slices : Nat := 0
  /-- status bits gathered: SCLB Q4XO DUP CHK OVF INF NAN ERR from bit 7 down (R267) -/
  bits : BitVec 8 := 0
  drains : Nat := 0
  /-- the regions it declared (R247): its checks use them, be they released from the scoreboard or not -/
  regs : List Region := []
  /-- hout has entered FULL or ERROR for it (R267) -/
  noted : Bool := false
  deriving DecidableEq, Repr

/-- An entry of the per-tile status file (R267). -/
structure StatusEntry where
  val : W64 := 0
  awaited : Bool := false
  /-- the word that the engine posts 6 lc after hout has entered FULL or ERROR -/
  final : Option W64 := none
  deriving DecidableEq, Repr

/-! ### Global memory and its ordering (spec 12, 13) -/

/-- Kinds of a core's global accesses (R307-R312, R350). -/
inductive AccKind where
  | load | store
  /-- AMO with its OPA, 7 for CAS -/
  | amo (op : Nat)
  | fence (all : Bool)
  /-- writes of a joined engine thread (R304) -/
  | thread
  /-- GENPROBE q = 0 -/
  | probe
  deriving DecidableEq, Repr

/-- A global access of a core from issue until it is performed at package scope. -/
structure Acc where
  id : Nat
  kind : AccKind
  tgt : Target := {}
  va : W64 := 0
  size : Nat := 0
  /-- store data, or the operand b of an atomic -/
  data : W64 := 0
  /-- sd at issue, which CAS compares -/
  cmp : W64 := 0
  strong : Bool := false
  acq : Bool := false
  rel : Bool := false
  scope : Nat := 0
  /-- issuing generation -/
  gen : Hm := 0
  /-- value taken; a store: left the store buffer; a fence: satisfied -/
  done : Bool := false
  /-- the writes a load has read -/
  reads : List Nat := []
  /-- counted by the stores counter until performed at its scope (R94) -/
  counted : Bool := false
  /-- the pending result of a load -/
  pid : Nat := 0
  /-- its cache hint (R26, R281) -/
  hint : Nat := 0
  deriving DecidableEq, Repr

/-- The read of a RINGLD in progress (R169): its address, the words read and their bytes; the target of the next word where
the forward queue of a hand-over holds it, and the fault that it met there (R336). -/
structure RingRead where
  ea : W64
  n : Nat := 0
  v : Nat := 0
  held : Option Target := none
  fault : Option Nat := none
  deriving DecidableEq, Repr

/-- A write held by a die ordering point (R290, R291). -/
structure OpEntry where
  wid : Nat
  /-- issuing core; 512 + d for the command processor and distributor of die d -/
  core : Nat
  /-- engine operation whose thread wrote it -/
  thr : Option Nat := none
  gen : Hm
  tgt : Target
  size : Nat
  data : Image
  scope : Nat := 0
  /-- has entered a port or link queue; the direction it took round the ring, 1 up and 2 down (R292) -/
  sent : Bool := false
  dir : Nat := 0
  /-- it has entered the I/O die's outbound CXL queue (R294) -/
  out : Bool := false
  /-- effective address of a core's store (R287, R417) -/
  va : W64 := 0
  /-- sequence number of the copy that wrote it, which may have been counted before its write is lost (R417) -/
  seq : BitVec 16 := 0
  deriving DecidableEq, Repr

/-- A read of the command processor or the distributor of a die that the forward queue of a hand-over holds (R336): whose it
is, its address, its target, and the fault that it met at the receiving die. -/
structure CpHeld where
  ten : Option Nat
  addr : Nat
  tgt : Target
  fault : Option Nat := none
  deriving DecidableEq, Repr

/-- A line of L0: the generation it was read under, its bytes, and the writes not yet applied that it holds
(write, first byte, bytes). -/
structure L0Line where
  gen : Hm := 0
  data : Image := 0
  writes : List (Nat × Nat × Nat) := []
  deriving DecidableEq, Repr

/-- An entry of a core TLB or an engine TLB: a complete translation of a VA page (R282). -/
structure TlbEntry where
  gen : Hm
  /-- first address of the page and its size in bits -/
  base : Nat
  bits : Nat
  /-- the stage-1 leaf, and its page size in bits -/
  leaf : W64
  lbits : Nat
  /-- DLA of the page's first byte; none through the peer window -/
  dla : Option Nat
  /-- stage-2 permissions -/
  r : Bool
  w : Bool
  /-- the page size of the stage-2 leaf in bits, and its GPA page for an invalidation -/
  gbits : Nat := 16
  deriving DecidableEq, Repr

/-- A stage-2 cache entry: one stage-2 leaf (R282). -/
structure S2Entry where
  gen : Hm
  base : Nat
  bits : Nat
  dla : Nat
  r : Bool
  w : Bool
  deriving DecidableEq, Repr

/-- A tenancy's translation record on a die (R276). -/
structure TransRec where
  s1root : W64 := 0
  s2root : W64 := 0
  impt : W64 := 0
  expt : W64 := 0
  hconf : W64 := 0
  deriving DecidableEq, Repr

/-- An invalidation in progress (R288): the accesses that must have been performed. -/
structure Inval where
  id : Nat
  cores : List (Nat × Nat)
  /-- writes of copies and of the command processor in the ordering points, by die -/
  writes : List (Nat × Nat) := []
  /-- line transfers of copies that wait with their target: core, copy, first unit -/
  beats : List (Nat × Nat × Nat) := []
  deriving DecidableEq, Repr

/-- A hand-over in progress (R326-R328). -/
structure HandOver where
  core : Nat
  handle : Nat
  cpl : Bool
  gen : Hm
  /-- issuing tenancy, none for the platform -/
  ten : Option Nat
  /-- the queue of the giving die whose HANDOVER packet waits -/
  queue : Option Nat := none
  deriving DecidableEq, Repr

/-- Violation record of a stack port (R324). -/
structure Violation where
  count : Nat := 0
  gen : Hm := 0
  core : Nat := 0
  src : Nat := 0
  dla : Nat := 0
  deriving DecidableEq, Repr

/-- A memory stack and its owner register (R319). -/
structure Stack where
  /-- released from reset and reachable by a present die -/
  present : Bool := false
  /-- the owner is CD((k+1) mod 8) -/
  up : Bool := false
  epoch : BitVec 16 := 0
  rv : Bool := false
  rten : BitVec 12 := 0
  mscn : Nat := 0
  hand : Option HandOver := none
  viol0 : Violation := {}
  viol1 : Violation := {}
  deriving DecidableEq, Repr

/-! ### Tasks, launches and queues (spec 16) -/

/-- Indices of a chunk that a core holds and that are not yet given out (R373). -/
structure Held where
  slot : Nat
  /-- the launch's identity -/
  lid : Nat
  node : Nat
  chunk : Nat
  left : List Nat
  deriving DecidableEq, Repr

/-- What a fault report says (R407), SERIAL and LCYC apart. -/
structure FaultInfo where
  kind : Nat
  cause : Nat := 0
  sub : Nat := 0
  core : Nat := 0xFF
  ten : Nat := 0xFFFF
  inc : Nat := 0
  index : Nat := 0xFFFFFFFF
  node : Nat := 0xFF
  slot : Nat := 0xFF
  seq : Nat := 0
  addr : Nat := 0
  data : Nat := 0
  deriving DecidableEq, Repr

/-- How a task has ended its run (R378, R379). -/
inductive Ending where
  | no
  | ended
  /-- a fence has abandoned it (R390) -/
  | abandoned
  /-- wait address and comparand; the bundle that would issue next is at the core's pc -/
  | suspended (a b : W64)
  deriving DecidableEq, Repr

/-- A tile task (R373-R381): its index, node, launch slot and token, and the indices TNEXT claimed for it with
their chunks. -/
structure Task where
  index : Nat
  node : Nat
  slot : Nat
  /-- the launch's identity -/
  lid : Nat
  token : Nat
  /-- chunk of each index held: (chunk, index) -/
  holds : List (Nat × Nat) := []
  ending : Ending := .no
  /-- s1-s6, PCF of the brick it resumes from; none for a fresh task -/
  brick : Option (List W64 × W64) := none
  deriving DecidableEq, Repr

/-- A brick in a brick queue (R380, R382). -/
structure Brick where
  ten : Nat
  /-- incarnation under which it was written: its generation and serial (R345) -/
  gen : Hm
  serial : Nat
  task : Task
  wait : W64
  cmp : W64
  ready : Bool
  deriving DecidableEq, Repr

/-- A preload entry of an image (R384): descriptor, handle, banks and SIDX. -/
structure Preload where
  desc : CopyDesc
  handle : Nat
  banks : BitVec 16
  sidx : W64
  deriving DecidableEq, Repr

/-- What the header of an accepted native image says (R431). Parameters: register, whether a default stands, default. -/
structure ImageInfo where
  idem : Bool := false
  bkg : Bool := false
  texto : Nat := 0
  textn : Nat := 0
  entry : Nat := 0
  spdo : Nat := 0
  spdn : Nat := 0
  params : List (Nat × Bool × W64) := []
  pre : List Preload := []
  deriving DecidableEq, Repr

/-- A node of a launch record (R369). -/
structure Node where
  image : W64
  nidx : Nat
  chunk : Nat
  narg : Nat
  pred : W64
  privb : W64
  privs : Nat
  mapoff : Nat
  cores : W64
  args : List W64
  img : ImageInfo := {}
  deriving DecidableEq, Repr

/-- A launch in a slot of a die's launch table (R368-R391). -/
structure Launch where
  /-- order of start, the model's own -/
  id : Nat
  ten : Nat
  gen : Hm
  lrec : W64
  /-- queue whose packet started it, and the packet's count -/
  queue : Nat
  packet : Nat
  home : Nat
  /-- die of that queue, where the packet stands until the launch ends, whoever is home then (R363, R391) -/
  issuer : Nat := 0
  /-- membership (R388) -/
  live : BitVec 8
  nodes : List Node
  mapa : W64
  donea : W64
  donev : W64
  /-- chunks handed out of each node, the master's -/
  next : List Nat
  /-- every node's image is a background image (R446) -/
  bkg : Bool := false
  /-- a follower has read the record (R386) -/
  joined : Bool := true
  /-- chunks marked: (node, chunk) -/
  marked : List (Nat × Nat) := []
  /-- undone indices of each chunk that runs on this die: (node, chunk, left) -/
  opened : List (Nat × Nat × Nat) := []
  /-- chunks whose indices are all done and whose mark is still to be made -/
  finished : List (Nat × Nat) := []
  /-- chunks to reissue (R391) -/
  reissue : List (Nat × Nat) := []
  split : Bool := false
  reiss : Nat := 0
  /-- group decided by the quorum rule, until the reconfiguration completes -/
  deciding : Option (BitVec 8) := none
  /-- membership as it stood at a loss of links that divides it, until its groups have decided (R389) -/
  lost : Option (BitVec 8) := none
  fenced : Bool := false
  failed : Bool := false
  deriving DecidableEq, Repr

/-- A sub-stream of a CALLS packet (R364). -/
structure SubStream where
  addr : W64
  len : Nat
  at_ : Nat
  deriving DecidableEq, Repr

/-- An open block of a stream (R366): depth of calls it was opened at, and for a loop its first packet and the
passes left. -/
structure Block where
  depth : Nat
  start : Nat
  left : Nat
  deriving DecidableEq, Repr

/-- What the stream of a queue waits for. -/
inductive QWait where
  | no
  /-- WAITMEM: OP, address, value, mask -/
  | mem (op : Nat) (addr value mask : W64)
  /-- a hand-over of a stack, then SIG: address and value -/
  | hand (stack : Nat) (sig : Bool) (addr value : W64)
  /-- the end record of a tenancy's TENEND -/
  | tenend (ten : Nat)
  /-- a packet's write that is not yet performed at its scope: write and scope -/
  | wrote (wid scope : Nat)
  /-- a SIGNAL's write, after which its interrupt is sent: write and VECTOR -/
  | signal (wid vector : Nat)
  /-- a FENCE: scope -/
  | fence (scope : Nat)
  deriving DecidableEq, Repr

/-- A command queue (R361-R367). -/
structure Queue where
  ring : W64 := 0
  size : Nat := 4
  valid : Bool := false
  ten : Nat := 0
  taila : W64 := 0
  heada : W64 := 0
  fault : W64 := 0
  tail : W64 := 0
  /-- next packet of the ring -/
  pos : W64 := 0
  subs : List SubStream := []
  loops : List Block := []
  blocks : List Block := []
  /-- packets are skipped to a matching ENDLOOP (true) or ENDIF: blocks of the kind opened meanwhile -/
  skip : Option (Bool × Nat) := none
  /-- the head word has been read since the descriptor was written -/
  begun : Bool := false
  /-- head word in memory, the model's copy -/
  head : W64 := 0
  wait : QWait := .no
  /-- the tail is read again only after a write to its line (R355) -/
  quiet : Bool := false
  /-- writes to the tail word's line of CXL memory when it became quiet -/
  mark : Nat := 0
  deriving DecidableEq, Repr

/-- Replay capture of a tenancy on a die (R409, R410): its ring, and whether it records or replays. -/
structure Replay where
  base : W64 := 0
  log : Nat := 0
  tail : Nat := 0
  head : Nat := 0
  replay : Bool := false
  deriving DecidableEq, Repr

/-- A record of the distributor of the token that a saved context holds (R399). -/
structure SavedToken where
  ten : Nat
  slot : Nat
  task : Task
  deriving DecidableEq, Repr

/-! ### A core -/

/-- Control and status registers (R86) that are not derived from other state. -/
structure Csrs where
  stat : W64 := 0
  splitc : W64 := 0
  vcyc : W64 := 0
  vwb : BitVec 12 := 0
  vrot : BitVec 5 := 0
  lp : Sparse W32 := []
  rndseed : W64 := 0
  fmtst : Flags := 0
  uivec : W64 := 0
  uiepc : W64 := 0
  uicause : W64 := 0
  ptvec : W64 := 0
  pepc : W64 := 0
  pcause : W64 := 0
  gracet : W64 := 100000
  killt : W64 := 2000000
  ctxptr : W64 := 0
  deriving DecidableEq, Repr

/-- A trap to be taken (R99). -/
structure TrapInfo where
  cls : Nat
  sub : Nat
  slot : Nat
  code : Nat
  lane : Nat
  addr : W64
  deriving DecidableEq, Repr

/-- One compute core. -/
structure Core where
  /-- slot-to-engine map (R47) -/
  ismap : W64 := 0x1FFF
  /-- the tenancy the core is allotted to (R17) -/
  ten : Option Nat := none
  /-- generation of the context it runs -/
  ctxGen : Hm := 0
  phase : Nat := 0
  pc : Addr := 0
  /-- platform level (R96) -/
  lvl : Bool := false
  /-- inside a user-level handler (R105) -/
  ui : Bool := false
  /-- the trap was taken inside a handler (PSTAT.UIA) -/
  uia : Bool := false
  /-- runs Igpor code (R440) -/
  igpor : Bool := false
  /-- stopped by a double trap (R103) -/
  stopped : Bool := false
  /-- a trap waits for pending results before its save (R98) -/
  trapping : Option TrapInfo := none
  /-- virtual cycles of issue bubbles left (R159) -/
  bubbles : Nat := 0
  /-- the engine operation that the bundle at hand issued (R159) -/
  engineOp : Option Nat := none
  /-- engine operations that wait for the bubbles to end (R159) -/
  blocked : List Nat := []
  /-- bubbles of copies that a user-level handler has issued, and those copies: the bubbles follow its UIRET
  (R107, R159, log entry 102) -/
  owed : Nat := 0
  owedOps : List Nat := []
  sregs : Sparse HReg := []
  shadow : Sparse HReg := []
  preds : Sparse PReg := []
  spreds : Sparse PReg := []
  csr : Csrs := {}
  lq : List LqEntry := []
  /-- results of a handler's or an Igpor bundle, landing before its next bundle (R108, R440) -/
  hq : List LqEntry := []
  nextVc : List Delayed := []
  /-- a stochastic slot of the bundle advances RNDSEED (R125) -/
  stoch : Bool := false
  pend : List Pending := []
  /-- identity of the next engine operation or pending result (the model's own) -/
  nextId : Nat := 0
  /-- the four outstanding counters (R94) -/
  nld : BitVec 12 := 0
  nst : BitVec 12 := 0
  ncp : BitVec 12 := 0
  ntl : BitVec 12 := 0
  armed : BitVec 64 := 0
  uiPend : BitVec 64 := 0
  rows : Sparse Line := []
  spm : Sparse Line := []
  pvecs : Sparse Line := []
  rings : Sparse RingSlot := []
  handles : Sparse Handle := []
  regions : List Region := []
  banks : Sparse BankState := []
  barriers : Sparse Barrier := []
  levels : Sparse Level := []
  cctl : W64 := 0
  copies : List Copy := []
  copySeq : BitVec 16 := 0
  copyFault : CopyFault := {}
  mparams : Sparse HReg := []
  /-- user words 128-255 and user entries 16-31 of the microprogram store (R243, R244) -/
  uwords : Sparse HReg := []
  uents : Sparse HReg := []
  calls : List Call := []
  status : Sparse StatusEntry := []
  /-- scratchpad addresses of the scale words and metadata bytes whose second latch copy differs from the first (R263, log
  entry 33) -/
  latchUpsets : List Nat := []
  /-- global accesses in program order -/
  accs : List Acc := []
  l0 : Sparse L0Line := []
  /-- lines that a PREF has asked for and that have not yet arrived: generation, line and hint (R309) -/
  prefs : List (Hm × Nat × Nat) := []
  tlb : List TlbEntry := []
  /-- engine threads that have completed and are not yet joined (R304) -/
  threads : List Thread := []
  /-- a trap that an access in flight raises at the next issue boundary: class, subcode, address (R307, R417) -/
  late : Option (Nat × Nat × W64) := none
  /-- the same of an access of the task, found while the platform handler of another trap runs (log entry 97) -/
  lateHeld : Option (Nat × Nat × W64) := none
  /-- lines in the instruction cache, oldest first: generation and line address (R15, log entry 104) -/
  icache : List (Hm × Nat) := []
  /-- the tenancy's switch has come at this local cycle and the core has not stopped yet: what it still issues runs under its
  old generation, ctxGen, which is no longer current (R354) -/
  stopping : Option Nat := none
  /-- frozen by a port violation (R324) -/
  frozen : Bool := false
  task : Option Task := none
  /-- the task the distributor has fixed as next (R373) -/
  nextTask : Option Task := none
  /-- the brick that the core resumes itself (R383) -/
  own : Option Task := none
  /-- a soft request has ended its run: it takes no further task (R394) -/
  parked : Bool := false
  /-- a restore has been requested and waits to read its area (log entry 123) -/
  rstDue : Bool := false
  chunks : List Held := []
  /-- preloads of the next task, not yet installed (R200) -/
  staging : List Staged := []
  /-- preload copies still running: operation and banks (R200) -/
  preloads : List (Nat × BitVec 16) := []
  /-- running pre-emption timers: local cycle at which each expires (R393) -/
  grace : Option Nat := none
  kill : Option Nat := none
  /-- REQ in force (R392) -/
  req : Nat := 0
  /-- a function-level reset is in progress since this local cycle (R400) -/
  flr : Option Nat := none
  /-- withheld (R16, R458) -/
  withheld : Bool := false
  /-- the WAITAs that hold the core: slot, address, comparand, eq, scope; and a satisfying value read again, by slot,
  with the writes read (R313) -/
  waita : List (Nat × W64 × W64 × Bool × Nat) := []
  waitaHit : List (Nat × W64 × List Nat) := []
  /-- the read of a RINGLD that holds the core (R169) -/
  ringRead : Option RingRead := none
  /-- local cycles of its die in which the core has already acted and which have not passed yet (the model's own, log
  entry 11) -/
  ahead : Nat := 0
  deriving DecidableEq, Repr

/-- One compute die; the entry of the I/O die, number 8, holds its fault-report ring alone. -/
structure Die where
  /-- local cycle counter (R56) -/
  lcyc : W64 := 0
  /-- slot-table entries in force and written but not yet in force (R233, R236) -/
  slotTab : Sparse (BitVec 16) := []
  slotNew : Sparse (Option (BitVec 16)) := []
  /-- released from reset (R6, R455) -/
  released : Bool := false
  op : List OpEntry := []
  recs : Sparse (Option TransRec) := []
  etlb : List TlbEntry := []
  s2c : List S2Entry := []
  invals : List Inval := []
  /-- fault-report ring: base, size, counts, records lost, serial (R407) -/
  frBase : W64 := 0
  frLog : Nat := 0
  frTail : Nat := 0
  frHead : Nat := 0
  frLost : W64 := 0
  frSerial : W64 := 0
  /-- records, with the LCYC at which they were made, that wait until their ring's home can be reached (R323, R336, R415) -/
  frWait : List (Nat × FaultInfo) := []
  /-- mirrors of owner registers and link states; none is the reset value (R320, R419) -/
  ownMir : Sparse (Option W64) := []
  linkMir : Sparse (Option W64) := []
  queues : Sparse Queue := []
  cpFrozen : Bool := false
  /-- reads that wait in the forward queue of a hand-over (R336) -/
  cpHeld : List CpHeld := []
  launches : Sparse (Option Launch) := []
  bricks : List Brick := []
  /-- released chunks, oldest first (R394) -/
  freed : List Held := []
  /-- tenancies for which a split has fenced the die (R390) -/
  fences : List Nat := []
  quota : Sparse Nat := []
  nextToken : Nat := 0
  saved : List SavedToken := []
  replays : Sparse (Option Replay) := []
  /-- throttle level of each quadrant (R403) -/
  throttle : Sparse Nat := []
  /-- local cycle of the last change to the slot table that is not yet in force (R236) -/
  slotAt : Nat := 0
  /-- frozen core-cycles not yet repaid, by tenancy (R404) -/
  debt : Sparse Nat := []
  /-- peer accesses refused after a split: tenancy and requesting die (R390) -/
  refused : List (Nat × Nat) := []
  /-- free values used by the latency map since the last update (R238) -/
  latEpoch : Nat := 0
  /-- tenancies with debug permission on the die (R434) -/
  debugTens : List Nat := []
  deriving DecidableEq, Repr

/-! ### Tenancies, links, the I/O die and the trust die -/

/-- States of a generation number (R344). -/
inductive GenState where
  | free | live | ending
  /-- passes of the assay that are still to complete -/
  | quarantined (passes : Nat)
  deriving DecidableEq, Repr

/-- A TENEND in progress (R354). -/
structure TenEnd where
  close : Bool
  erec : W64
  oldGen : Hm
  oldSerial : Nat
  /-- none where deferred or closing -/
  newGen : Option Hm
  newSerial : Nat := 0
  /-- dies that have switched: compute 0-7, base 8-15, I/O 16 -/
  switched : List Nat := []
  landed : Nat := 0
  copies : Nat := 0
  calls : Nat := 0
  bricks : Nat := 0
  packets : Nat := 0
  events : Nat := 0
  cores : Nat := 0
  writes : Nat := 0
  /-- queue that waits, as die * 128 + queue -/
  queue : Option Nat := none
  /-- the order of its acceptance (the model's own, R346) -/
  stamp : Nat := 0
  deriving DecidableEq, Repr

/-- A tenancy number (R341). -/
structure Tenancy where
  opened : Bool := false
  /-- current generation and its serial (R345); none while deferred -/
  gen : Option Hm := none
  serial : Nat := 0
  ending : Option TenEnd := none
  /-- accepted TENENDs that wait for the one that runs: CLOSE, end record, queue, order of acceptance -/
  queued : List (Bool × W64 × Option Nat × Nat) := []
  /-- the end record that a deferred tenancy completes (R352), and when its TENEND was accepted -/
  deferred : Option W64 := none
  stamp : Nat := 0
  deriving DecidableEq, Repr

/-- A flit on the wire (R411): its header, and whether its CRC is bad. -/
structure Flit where
  seq : BitVec 12 := 0
  ack : BitVec 12 := 0
  av : Bool := false
  nak : Bool := false
  cls : BitVec 2 := 0
  vc : BitVec 2 := 0
  plen : Byte := 0
  crq : Byte := 0
  crs : Byte := 0
  /-- bytes 16-255, and the CRC as it arrives -/
  pay : BitVec 1920 := 0
  crc : BitVec 32 := 0
  deriving DecidableEq, Repr

/-- One direction of a link at the flit level (R411-R415). -/
structure FlitDir where
  /-- the transmitter: SEQ of the next new flit; the replay buffer, oldest first, as (VC, PLEN, payload); how many of it have
  been sent since the last replay; a NAK that waits for its replay; the credits it holds, for requests and responses -/
  next : BitVec 12 := 0
  buf : List (BitVec 2 × Byte × BitVec 1920) := []
  sent : Nat := 0
  nakIn : Bool := false
  credQ : Nat := 0
  credS : Nat := 0
  /-- flits on the wire, oldest first -/
  wire : List Flit := []
  /-- the receiver: SEQ expected next; flits accepted; a NAK it has sent or is to send while the expected flit is
  missing, how many in a row, and whether one is still to be sent -/
  expect : BitVec 12 := 0
  accepted : Nat := 0
  naking : Bool := false
  nakRun : Nat := 0
  nakDue : Bool := false
  /-- flits accepted since it last returned an ACK (R413) -/
  unacked : Nat := 0
  /-- bytes of the request channel accepted and not yet handed on as whole messages (R412) -/
  got : Nat := 0
  /-- after a retrain: the transmitter sends no payload until the other end's control flit has arrived (R415) -/
  resync : Bool := false
  deriving DecidableEq, Repr

/-- A link (R411-R419): mortar 0-7, I/O 8-15, Empin 16-23. -/
structure Link where
  /-- 0 up, 1 retraining, 2 down, 3 not fitted -/
  st : Nat := 0
  width : Nat := 3
  retr : Nat := 0
  naks : Nat := 0
  /-- from end 0 to end 1, and back; end 0 of a mortar link is the die of its own number -/
  dir0 : FlitDir := {}
  dir1 : FlitDir := {}
  /-- down notices still to arrive at end 0 and at end 1 -/
  note0 : Bool := false
  note1 : Bool := false
  deriving DecidableEq, Repr

/-- A registered network flow (R428). -/
structure Flow where
  ports : Byte := 0
  die : Nat := 0
  queue : Nat := 0
  valid : Bool := false
  ten : Nat := 0
  last : W64 := 0
  acc : W64 := 0
  drop : W64 := 0
  /-- the flow's key, in the trust die's key store -/
  key : BitVec 256 := 0
  deriving DecidableEq, Repr

/-- An entry of the HDM map or of an Empin ingress map (R426). -/
structure IngressEntry where
  gpa : BitVec 24 := 0
  die : Nat := 0
  valid : Bool := false
  ten : Nat := 0
  deriving DecidableEq, Repr

/-- What an application core has last received: data, poison, or an access fault (R418, R421). -/
structure AppReply where
  data : W64 := 0
  poisoned : Bool := false
  denied : Bool := false
  deriving DecidableEq, Repr

/-- The I/O die. -/
structure IoDie where
  released : Bool := false
  /-- sizes of the host range and of one Empin aperture (R424) -/
  hostRange : Nat := 0
  aperture : Nat := 0
  flows : Sparse Flow := []
  /-- HDM map at g, Empin link j at 65536 (j + 1) + g -/
  ingress : Sparse IngressEntry := []
  hdmErrors : Nat := 0
  /-- frozen functions: 4 * die + (0 APP, 1 NET, 2 HOST, 3 EMP) (R420) -/
  frozen : Sparse Bool := []
  /-- interrupts delivered, newest last: core and identity (R430) -/
  interrupts : List (Nat × Nat) := []
  /-- event identities the platform has set: 8 * die + event gives (core, identity) -/
  identities : Sparse (Nat × Nat) := []
  /-- frames passed to the platform's receive rings -/
  received : Nat := 0
  cmdPort : Sparse Nat := []
  /-- data last returned to the host or an Empin peer -/
  reply : BitVec 512 := 0
  poisoned : Bool := false
  /-- what each of the sixteen application cores has last received (R421) -/
  apps : Sparse AppReply := []
  deriving DecidableEq, Repr

/-- The responder's answers (R461). -/
inductive Spdm where
  | none
  | version | capabilities
  /-- SHA3-384 and ECDSA with P-384 -/
  | algorithms
  | digests (d : List Byte)
  | certificate (off : Nat) (bytes : List Byte)
  | challengeAuth (sig : List Byte)
  /-- index and raw bit stream of each block -/
  | measurements (blocks : List (Nat × List Byte))
  /-- ERROR UnsupportedRequest -/
  | unsupported
  deriving DecidableEq, Repr

/-- A memory-encryption slot of the base dies: the serial of the generation it is tagged with, beside its number, and its
AES-256-XTS key pair (R460). -/
structure KeySlot where
  serial : Nat
  pair : BitVec 512
  deriving DecidableEq, Repr

/-- The trust die. -/
structure Trust where
  /-- the configuration record has been verified (R454) -/
  up : Bool := false
  /-- the I/O die has stayed in reset: the module does not come up (R455) -/
  dead : Bool := false
  /-- dies released or held so far, in the order of R6: 0 the I/O die, 1-8 stacks, 9-16 compute dies -/
  next : Nat := 0
  /-- M of each die, 64 bytes; empty is zero (R455) -/
  meas : Sparse (List Byte) := []
  /-- SHAKE256 of the configuration record (R461) -/
  recDigest : List Byte := []
  svn : W64 := 0
  rev : W64 := 0
  /-- withheld cores and the ISMAP of each core of the record (R457) -/
  withheld : Sparse Bool := []
  ismap : Sparse W64 := []
  /-- the latency signature of the record's table (R458) -/
  lattHash : BitVec 256 := 0
  /-- the last answer of the SPDM responder -/
  answer : Spdm := .none
  /-- the key store that each of the eight base dies holds, by generation: the platform's key from boot (R460) -/
  keys : Sparse (Option KeySlot) := [(1, some ⟨0, Config.drawKey 0⟩)]
  deriving DecidableEq, Repr

/-- What the agenda holds for the next step. -/
inductive Choice where
  /-- the core's next bundle -/
  | issue (core : Nat)
  /-- an event -/
  | event (i : Instr)
  /-- the next micro-word of the core's running call -/
  | engine (core : Nat)
  /-- the next packet of a queue -/
  | packet (die queue : Nat)
  /-- the CXL host, or a module behind Empin, reads or writes n bytes of its own memory that the CXL window shows (R425,
  R427) -/
  | outside (a n : Nat) (write : Bool) (v : Nat)
  deriving DecidableEq, Repr

/-! ### The context of the instruction at hand (the model's own) -/

/-- How a slot operation runs: alone, as the evaluation of R100, or as the effect of its bundle. -/
inductive ExecMode where
  | whole | probe | commit
  deriving DecidableEq, Repr

/-- What the evaluation of a slot finds (R100). -/
inductive Verdict where
  | go
  /-- an operand or destination is pending (R53, R54) -/
  | pend
  /-- a variable-latency destination has a landing-queue entry (R54) -/
  | land
  /-- some other wait of R55 -/
  | wait
  | trap (cls sub code lane : Nat) (addr : W64)
  deriving DecidableEq, Repr

/-- The agent and slot at hand. -/
structure Cur where
  core : Nat := 0
  /-- queue whose packet is at hand: die and number -/
  die : Nat := 0
  queue : Nat := 0
  slot : Nat := 0
  kind : HdrKind := .none
  x : Byte := 0
  mode : ExecMode := .whole
  verdict : Verdict := .go
  redirect : Option Addr := none
  /-- the cut of a SHAND of the bundle at hand, made with the bundle's end (R328) -/
  cut : Option (Nat × HandOver) := none
  deriving DecidableEq, Repr

/-- The module. -/
structure State where
  /-- what happens next, first first; with nothing listed core 0 issues -/
  agenda : List Choice := []
  cur : Cur := {}
  /-- counter of free values used (log entry 1) -/
  free : Nat := 0
  cores : Sparse Core := []
  dies : Sparse Die := []
  mem : List Host.Cell := []
  /-- hallmark of each granule of G7 memory and staging SRAM (R347) -/
  hallmarks : Sparse Hm := []
  /-- granules that hold an uncorrectable error (log entry 4) -/
  badGranules : Sparse Bool := []
  stackTab : Sparse Stack := []
  /-- size of the CXL window (R272) -/
  cxlSize : Nat := 0
  /-- writes applied to each line of CXL memory (the model's own, for R355) -/
  cxlWrites : Sparse Nat := []
  /-- the generation of each tenancy on each die: compute dies 0-7, base dies 8-15, the I/O die 16 (R354) -/
  gens : Sparse (Sparse Hm) := []
  /-- link queues by direction, and port queues by port and generation: (die, write) (R290) -/
  links : Sparse (List (Nat × Nat × Nat)) := []
  ports : Sparse (List (Nat × Nat)) := []
  /-- tenancy last served in rotation at each port (R234) -/
  rot : Sparse Nat := []
  /-- identity of the next access or write (the model's own) -/
  nextWid : Nat := 0
  /-- writes discarded because their generation was stale, by generation (R62) -/
  discards : Sparse Nat := []
  /-- flags that the landing-queue records of each save area still raise when they land, by the area's address and the
  record's place (the model's own, log entry 12) -/
  lqFlags : Sparse (List Flags) := []
  /-- the allocator (R344-R346) -/
  tenancies : Sparse Tenancy := []
  genStates : Sparse GenState := []
  lastGen : Nat := 1
  lastSerial : Nat := 0
  /-- serials of the generations that have ended, for contexts and reports that still name them (the model's own, R345) -/
  serials : Sparse Nat := []
  deferred : List Nat := []
  linkTab : Sparse Link := []
  io : IoDie := {}
  trust : Trust := {}
  nextLaunch : Nat := 0
  deriving DecidableEq, Repr

/-- The module right after reset. -/
def State.reset : State := {}

end Sys2Proof.Machine
end

