-- ==== Sys2Proof/Machine/Operands.lean ====
section
/-! DEFINITION. Access to cores and dies, and every operand form: scalar registers and predicates under the
hallmark rule (R67-R70), vector operands through the window (R136-R138), immediates (R25, R31), rounding
words (R125). -/
namespace Sys2Proof.Machine

/-! ### Agents -/

/-- Core c of the module; c = 64 * die + n (R14). -/
def State.core (s : State) (c : Nat) : Core := Sparse.get {} c s.cores
/-- Replace core c. -/
def State.setCore (s : State) (c : Nat) (k : Core) : State := { s with cores := Sparse.put {} c k s.cores }
/-- Change core c. -/
def State.updCore (s : State) (c : Nat) (f : Core → Core) : State := s.setCore c (f (s.core c))
/-- The core at hand. -/
def State.k (s : State) : Core := s.core s.cur.core
/-- Change the core at hand. -/
def State.updK (s : State) (f : Core → Core) : State := s.updCore s.cur.core f
/-- Die d. -/
def State.die (s : State) (d : Nat) : Die := Sparse.get {} d s.dies
/-- Change die d. -/
def State.updDie (s : State) (d : Nat) (f : Die → Die) : State :=
  { s with dies := Sparse.put {} d (f (s.die d)) s.dies }
/-- The die of a core. -/
def dieOf (c : Nat) : Nat := c / Config.coresPerDie
/-- The die of the core at hand. -/
def State.d (s : State) : Nat := dieOf s.cur.core

/-- The current generation of tenancy t on die d (R341, R354). -/
def State.genOn (s : State) (d t : Nat) : Hm := Sparse.get nullGen t (Sparse.get [] d s.gens)
/-- The generation a core reads and writes under (R68, R96); its old one where it has not yet stopped after a TENEND's switch
(R354). -/
def State.coreGen (s : State) (c : Nat) : Hm :=
  let k := s.core c
  if k.lvl then platformGen else match k.ten with
    | none => nullGen
    | some t => if k.stopping.isSome then k.ctxGen else s.genOn (dieOf c) t
/-- The generation of the core at hand. -/
def State.gen (s : State) : Hm := s.coreGen s.cur.core

/-- The quadrant of a core (R14). -/
def quadrantOf (c : Nat) : Nat := 2 * (c % Config.coresPerDie / 32) + c % 8 / 4
/-- Is the die's present local cycle a frozen one of a quadrant (R403)? -/
def Die.throttled (x : Die) (q : Nat) : Bool := decide (Sparse.get 8 q x.throttle ≤ x.lcyc.toNat % 8)
/-- The tenancy with the largest debt, the lowest number first on a tie; a debt is a sixteenth of F (R404). -/
def Die.debtor (x : Die) : Option Nat :=
  (x.debt.foldl (fun (b : Option (Nat × Nat)) q =>
    match b with
    | none => if 16 ≤ q.2 then some q else none
    | some y => if y.2 / 16 < q.2 / 16 then some q else b) none).map Prod.fst
/-- A cycle whose slot-table entry names no tenancy repays one unit of debt (R404). -/
def Die.payDebt (x : Die) : Die :=
  if (Sparse.get 0#16 (x.lcyc.toNat % 256) x.slotTab).getLsbD 15 then x
  else match x.debtor with
    | none => x
    | some t => { x with debt := Sparse.upd 0 t (fun f => f - 16) x.debt }
/-- The cores of die d that throttling freezes in this cycle: each adds one to its tenancy's F (R404), and its task's
STAT.THRT is set (R405). -/
def State.countFrozen (s : State) (d : Nat) : State :=
  let hit := fun (c : Nat) (k : Core) => dieOf c == d && k.ten.isSome && (s.die d).throttled (quadrantOf c)
  let ts := (s.cores.filter (fun e => hit e.1 e.2)).filterMap (fun e => e.2.ten)
  let mark := fun (c : Nat) (k : Core) =>
    if hit c k && k.task.isSome then { k with csr := { k.csr with stat := k.csr.stat ||| 4#64 } } else k
  let s1 := { s with cores := Sparse.mapVals {} mark s.cores }
  s1.updDie d (fun x => { x with debt := ts.foldl (fun m t => Sparse.upd 0 t (· + 1) m) x.debt })
/-- The evaluation of a barrier: the epoch closes where ARRV equals QUOTA and GOT equals WANT (R205). -/
def Barrier.evaluate (b : Barrier) : Barrier :=
  if b.arrv = b.quota && b.got = b.want then
    { b with epoch := b.epoch + 1, arrv := 0, want := 0, got := 0 }
  else b
/-- At the end of a local cycle in which ARRV, WANT or GOT changed the barrier is evaluated once (R205). -/
def Barrier.settle (b : Barrier) : Barrier := if b.moved then { b.evaluate with moved := false } else b
/-- The barriers of a core at the end of a local cycle. -/
def Core.settleBarriers (k : Core) : Core := { k with barriers := Sparse.mapVals {} (fun _ b => b.settle) k.barriers }
/-- The barriers of die d's cores that changed in this local cycle are evaluated (R205). -/
def State.closeEpochs (s : State) (d : Nat) : State :=
  if s.cores.any (fun e => dieOf e.1 == d && e.2.barriers.any (fun b => b.2.moved)) then
    { s with cores := Sparse.mapVals {} (fun c k => if dieOf c == d then k.settleBarriers else k) s.cores }
  else s
/-- The changes to a die's slot table are in force (R236). -/
def Die.slotsInForce (x : Die) : Die :=
  { x with
    slotTab := x.slotNew.foldl (fun m e => match e.2 with
      | some v => Sparse.put 0 e.1 v m
      | none => m) x.slotTab
    slotNew := [] }
/-- The local cycle counter of a die goes on; at a multiple of 256 changes to the slot table take effect (R56, R236). -/
def Die.nextCycle (x : Die) : Die :=
  let y := { x with lcyc := x.lcyc + 1 }
  if y.lcyc.toNat % 256 = 0 then y.slotsInForce else y
/-- The cores of die d that have acted in the local cycle that passes have no longer done so in the next. -/
def State.catchUp (s : State) (d : Nat) : State :=
  { s with cores := Sparse.mapVals {} (fun c k => if dieOf c == d then { k with ahead := k.ahead - 1 } else k) s.cores }
/-- A local cycle passes on die d (R56). The cycle repays the debt that stood when it began, and then adds its own (R404). -/
def State.tick (s : State) (d : Nat) : State :=
  let s0 := (s.closeEpochs d).updDie d Die.payDebt
  let s1 := if (s0.die d).throttle = [] then s0 else s0.countFrozen d
  (s1.updDie d Die.nextCycle).catchUp d
/-- n local cycles pass on die d. -/
def State.ticks (s : State) (d : Nat) : Nat → State
  | 0 => s
  | n + 1 => (s.tick d).ticks d n
/-- Core c has acted in the local cycle that follows those it has acted in: the cores of a die act side by side in one cycle,
which passes when one of them acts again (R2, log entry 11). -/
def State.spend (s : State) (c : Nat) : State := s.updCore c (fun k => { k with ahead := k.ahead + 1 })
/-- Core c is to act: the local cycles in which it has already acted pass. -/
def State.begin (s : State) (c : Nat) : State := s.ticks (dieOf c) (s.core c).ahead
/-- A write under a stale generation is discarded and counted (R62). -/
def State.discard (s : State) (g : Hm) : State := { s with discards := Sparse.upd 0 g.toNat (· + 1) s.discards }
/-- The next free value, and the state that has used it. -/
def State.freshValue (s : State) : W64 × State := (Config.freeValue s.free, { s with free := s.free + 1 })

/-! ### Scalar registers and predicates -/

/-- The register's cell in the bank a name selects: s56-s63 are the shadow bank in a handler (R107). -/
def Core.cell (k : Core) (n : Nat) : HReg :=
  if k.ui && decide (56 ≤ n) then Sparse.get {} n k.shadow else Sparse.get {} n k.sregs
/-- A scalar read under generation g (R67, R68). -/
def Core.scalar (k : Core) (g : Hm) (n : Nat) : W64 :=
  if n = 0 then 0 else if (k.cell n).hm = g then (k.cell n).val else 0
/-- A scalar write tagged g, into the shadow bank where sh (R67, R68). -/
def Core.setScalar (k : Core) (g : Hm) (sh : Bool) (n : Nat) (v : W64) : Core :=
  if n = 0 then k
  else if sh then { k with shadow := Sparse.put {} n ⟨v, g⟩ k.shadow }
  else { k with sregs := Sparse.put {} n ⟨v, g⟩ k.sregs }
/-- The predicate's cell: p6 and p7 are the shadow bank in a handler (R107). -/
def Core.pcell (k : Core) (n : Nat) : PReg :=
  if k.ui && decide (6 ≤ n) then Sparse.get {} n k.spreds else Sparse.get {} n k.preds
/-- A predicate read (R70). -/
def Core.pred (k : Core) (g : Hm) (n : Nat) : Bool :=
  if n = 0 then true else if (k.pcell n).hm = g then (k.pcell n).val else false
/-- A predicate write tagged g (R70). -/
def Core.setPred (k : Core) (g : Hm) (sh : Bool) (n : Nat) (v : Bool) : Core :=
  if n = 0 then k
  else if sh then { k with spreds := Sparse.put {} n ⟨v, g⟩ k.spreds }
  else { k with preds := Sparse.put {} n ⟨v, g⟩ k.preds }
/-- Does a name select the shadow bank now? -/
def Core.inShadow (k : Core) (n : Nat) (from_ : Nat) : Bool := k.ui && decide (from_ ≤ n)

/-- Register numbers of the first, second and third position with their Igpor bits (R438). -/
def State.rD (s : State) (d : BitVec 6) : Nat := d.toNat + 64 * extD s.cur.kind s.cur.x
def State.rA (s : State) (a : BitVec 6) : Nat := a.toNat + 64 * extA s.cur.kind s.cur.x
def State.rB (s : State) (b : BitVec 6) : Nat := b.toNat + 64 * extB s.cur.kind s.cur.x
/-- Predicate numbers of the three positions, of the guard and of another place (R438). -/
def State.pD (s : State) (d : BitVec 3) : Nat := d.toNat + 8 * (extD s.cur.kind s.cur.x % 2)
def State.pA (s : State) (a : BitVec 3) : Nat := a.toNat + 8 * (extA s.cur.kind s.cur.x % 2)
def State.pB (s : State) (b : BitVec 3) : Nat := b.toNat + 8 * (extB s.cur.kind s.cur.x % 2)
def State.pG (s : State) (p : BitVec 3) : Nat := p.toNat + 8 * extP s.cur.kind s.cur.x
def State.pS (s : State) (n : BitVec 3) : Nat := n.toNat + 8 * extS s.cur.kind s.cur.x

/-- The value of register n to the core at hand (R68). -/
def State.reg (s : State) (n : Nat) : W64 := s.k.scalar s.gen n
/-- The value of predicate n to the core at hand (R70). -/
def State.prd (s : State) (n : Nat) : Bool := s.k.pred s.gen n
/-- Is the slot's guard true (R21, R70)? -/
def State.guard (s : State) (p : BitVec 3) : Bool := s.prd (s.pG p)

/-- A signed immediate with its header byte, sign-extended to 64 bits (R25, R31). -/
def State.imm (s : State) {w : Nat} (f : BitVec w) : W64 := BitVec.ofInt 64 (immS s.cur.kind s.cur.x f)

/-! ### Vector operands -/

/-- Unit u of an image (R133). -/
def unitOf (img : Image) (u : Nat) : W32 := img.extractLsb' (32 * u) 32
/-- The image whose unit u is f u, for u below n. -/
def imageOf {w : Nat} (f : Nat → BitVec w) : Nat → Nat
  | 0 => 0
  | n + 1 => imageOf f n + (f n).toNat * 2 ^ (w * n)
/-- The image of lanes of w bits. -/
def lanesImage {w : Nat} (n : Nat) (f : Nat → BitVec w) : Image := BitVec.ofNat 1024 (imageOf f n)
/-- Lane j of w bits of an image (R133). -/
def laneOf (w : Nat) (img : Image) (j : Nat) : BitVec w := img.extractLsb' (w * j) w
/-- The bits that a mask of units covers. -/
def unitMask (m : W32) : Image :=
  lanesImage 32 (fun u => if m.getLsbD u then 0xFFFFFFFF#32 else (0#32 : W32))
/-- Replace the units that a mask covers. -/
def mergeUnits (m : W32) (new old : Image) : Image := (new &&& unitMask m) ||| (old &&& ~~~(unitMask m))
/-- All 32 units. -/
def allUnits : W32 := 0xFFFFFFFF#32

/-- Physical row of logical row i (R136). -/
def physRow (vwb : BitVec 12) (vrot : BitVec 5) (i : Nat) : Nat := (vwb.toNat + (i + vrot.toNat) % 32) % 4096
/-- Row and unit of element u of a native operand: DIR and index in seven bits (R137). -/
def elemRow (vwb : BitVec 12) (vrot : BitVec 5) (v u : Nat) : Nat :=
  physRow vwb vrot (if v / 32 % 4 = 0 then v % 32 else u)
def elemUnit (v u : Nat) : Nat :=
  match v / 32 % 4 with
  | 0 => u
  | 1 => v % 32
  | 2 => (u + v % 32) % 32
  | _ => (v % 32 + 32 - u) % 32

/-- A row or line as a reader of generation g sees it (R134, R182). -/
def Line.read (l : Line) (g : Hm) : Image := if l.hm = g then l.data else 0
/-- Write the units of a mask under generation g, with the retag rule (R134). -/
def Line.write (l : Line) (g : Hm) (m : W32) (new : Image) : Line :=
  ⟨mergeUnits m new (l.read g), g, l.bad && decide (m ≠ allUnits)⟩

/-- Row r of core k to a reader of generation g. -/
def Core.row (k : Core) (g : Hm) (r : Nat) : Image := (Sparse.get {} r k.rows).read g
/-- Write units of a row. -/
def Core.writeRow (k : Core) (g : Hm) (r : Nat) (m : W32) (new : Image) : Core :=
  { k with rows := Sparse.upd {} r (fun l => l.write g m new) k.rows }

/-- The image of a native operand (R137). -/
def Core.readVec (k : Core) (g : Hm) (v : Nat) : Image :=
  if v / 32 % 4 = 0 then k.row g (physRow k.csr.vwb k.csr.vrot (v % 32))
  else lanesImage 32 (fun u => unitOf (k.row g (elemRow k.csr.vwb k.csr.vrot v u)) (elemUnit v u))
/-- Write elements n-1 down to 0 of an operand image, one unit each. -/
def Core.writeElems (k : Core) (g : Hm) (vwb : BitVec 12) (vrot : BitVec 5) (v : Nat) (m : W32)
    (img : Image) : Nat → Core
  | 0 => k
  | n + 1 =>
    let k' := Core.writeElems k g vwb vrot v m img n
    if m.getLsbD n then
      k'.writeRow g (elemRow vwb vrot v n) (1#32 <<< elemUnit v n)
        ((unitOf img n).setWidth 1024 <<< (32 * elemUnit v n))
    else k'
/-- Write the masked elements of an operand image (R138). -/
def Core.writeVec (k : Core) (g : Hm) (vwb : BitVec 12) (vrot : BitVec 5) (v : Nat) (m : W32) (img : Image) : Core :=
  if v / 32 % 4 = 0 then
    if m = 0#32 then k else k.writeRow g (physRow vwb vrot (v % 32)) m img
  else k.writeElems g vwb vrot v m img 32

/-- Vector numbers of the three positions (R30, R438): a native operand below 128, or an Igpor vector. -/
def State.vD (s : State) (v : BitVec 7) : Nat := v.toNat + 128 * (extD s.cur.kind s.cur.x % 2)
def State.vA (s : State) (v : BitVec 7) : Nat := v.toNat + 128 * (extA s.cur.kind s.cur.x % 2)
def State.vB (s : State) (v : BitVec 7) : Nat := v.toNat + 128 * (extB s.cur.kind s.cur.x % 2)
/-- The destination of a V3C slot: always a row (R28, R438). -/
def State.vRow (s : State) (d : BitVec 5) : Nat := d.toNat + 32 * extD s.cur.kind s.cur.x
/-- The image of an operand of the core at hand. -/
def State.vec (s : State) (v : Nat) : Image :=
  if s.k.igpor then (Sparse.get {} v s.k.pvecs).read s.gen else s.k.readVec s.gen v

/-- The rows that an operand's image touches (R158). -/
def Core.rowsOf (k : Core) (v : Nat) : List Nat :=
  if k.igpor then []
  else if v / 32 % 4 = 0 then [physRow k.csr.vwb k.csr.vrot (v % 32)]
  else (List.range 32).map (fun u => physRow k.csr.vwb k.csr.vrot u)

/-! ### Modes -/

/-- RND of the slot's mode byte (R26). -/
def State.rnd (s : State) : BitVec 3 := if s.cur.kind = .mode then s.cur.x.extractLsb' 0 3 else 0#3
/-- SAT of the slot's mode byte. -/
def State.sat (s : State) : Bool := decide (s.cur.kind = .mode) && s.cur.x.getLsbD 7
/-- SCOPE of the slot's mode byte. -/
def State.scope (s : State) : Nat := if s.cur.kind = .mode then (s.cur.x.extractLsb' 3 2).toNat else 0
/-- HINT of the slot's mode byte. -/
def State.hint (s : State) : Nat := if s.cur.kind = .mode then (s.cur.x.extractLsb' 5 2).toNat else 0
/-- The rounding of lane j (R123, R125). -/
def State.rounding (s : State) (j : Nat) : Rounding :=
  ⟨s.rnd, if s.rnd = 4#3 then mix64 (s.k.csr.rndseed + BitVec.ofNat 64 j * rndStep) else 0#64⟩
/-- Is the slot rounding toward -infinity (R127)? -/
def State.rd (s : State) : Bool := decide (s.rnd = 3#3)

end Sys2Proof.Machine
end

