-- ==== Sys2Proof/Machine/Landing.lean ====
section
/-! DEFINITION. The landing queue (spec 03 R51-R62): results scheduled at issue, the advance of the virtual
cycle, delayed writes, landings, and pending results. -/
namespace Sys2Proof.Machine

/-- Do fixed results of this core land before its next bundle (handlers R108, Igpor R440)? -/
def Core.quick (k : Core) : Bool := k.ui || k.igpor

/-- SEQ of the slot at hand (R61). -/
def State.seqNow (s : State) : Byte := BitVec.ofNat 8 (4 * s.k.csr.vcyc.toNat + s.cur.slot)

/-- Queue a fixed-latency result of the slot at hand (R52, R61). -/
def State.queueResult (s : State) (lat : Nat) (kind : LqKind) (dest : Nat) (mask : W32) (value : Image)
    (flags : Flags) : State :=
  let k := s.k
  let sh := match kind with
    | .scalar => k.inShadow dest 56
    | .pred => k.inShadow dest 6
    | _ => false
  let e : LqEntry := ⟨s.gen, mask, k.csr.vwb, k.csr.vrot, s.seqNow, if k.quick then 1 else lat, kind, dest, value, flags, sh⟩
  s.updK (fun k => if k.quick then { k with hq := k.hq ++ [e] } else { k with lq := k.lq ++ [e] })

/-- Queue a scalar result (R67); a write to s0 is discarded. -/
def State.putScalar (s : State) (lat n : Nat) (v : W64) : State :=
  if n = 0 then s else s.queueResult lat .scalar n 0#32 (v.setWidth 1024) 0#6
/-- Queue a predicate result (R70); a write to p0 is discarded. -/
def State.putPred (s : State) (n : Nat) (v : Bool) : State :=
  if n = 0 then s else s.queueResult Config.latALU .pred n 0#32 (if v then 1 else 0) 0#6
/-- Queue a vector result with the flags it raises (R57, R130, R138). -/
def State.putVec (s : State) (lat v : Nat) (mask : W32) (img : Image) (flags : Flags) : State :=
  s.queueResult lat (if s.k.igpor then .pvec else .vector) v mask img flags

/-- The effect of a landing on the core, its generation current (R52, R62, R130). -/
def Core.land (k : Core) (e : LqEntry) : Core :=
  let k' := match e.kind with
    | .scalar => k.setScalar e.gen e.shadow e.dest (e.value.setWidth 64)
    | .pred => k.setPred e.gen e.shadow e.dest (e.value.getLsbD 0)
    | .vector => k.writeVec e.gen e.vwb e.vrot e.dest e.lmask e.value
    | .pvec => { k with pvecs := Sparse.upd {} e.dest (fun l => l.write e.gen e.lmask e.value) k.pvecs }
  { k' with csr := { k'.csr with fmtst := k'.csr.fmtst ||| e.flags } }

/-- Land an entry on core c: applied, or discarded and counted where its generation is stale (R62). -/
def State.landEntry (s : State) (c : Nat) (e : LqEntry) : State :=
  if e.gen = s.coreGen c then s.updCore c (fun k => k.land e) else s.discard e.gen

/-- Land a list of entries in their order (R58). -/
def State.landAll (s : State) (c : Nat) : List LqEntry → State
  | [] => s
  | e :: t => (s.landEntry c e).landAll c t

/-- Land every due entry of core c: those with no virtual cycle left. -/
def State.landDue (s : State) (c : Nat) : State :=
  let k := s.core c
  (s.setCore c { k with lq := k.lq.filter (fun e => decide (e.remv ≠ 0)) }).landAll c
    (k.lq.filter (fun e => decide (e.remv = 0)))

/-- Bytes lo to lo+n-1 of a line replaced by the low bytes of v. -/
def mergeBytes (lo n : Nat) (v old : Image) : Image :=
  let m : Image := BitVec.ofNat 1024 ((2 ^ (8 * n) - 1) * 2 ^ (8 * lo))
  ((v <<< (8 * lo)) &&& m) ||| (old &&& ~~~m)

/-- Write n bytes of scratchpad line l from byte lo on, under generation g (R182). -/
def Core.writeSpm (k : Core) (g : Hm) (l lo n : Nat) (v : Image) : Core :=
  { k with spm := Sparse.upd {} l (fun x => ⟨mergeBytes lo n v (x.read g), g, x.bad && decide (n ≠ 128)⟩) k.spm }

/-- Sticky status bits: writing 0 clears, writing 1 leaves (R50, R229, R405). -/
def stickyWrite (old new : W64) : W64 := old &&& new

/-- The effect of a CSRW on the core (R84-R86, R47, R50, R98, R102, R104). UIVEC and PEPC hold 64 bits, of which the pc takes 48
(DESIGN CHOICE, log entry 124). -/
def Core.csrWrite (k : Core) (idx : Nat) (v : W64) : Core :=
  let c := k.csr
  match idx with
  | 0x000 => { k with csr := { c with stat := stickyWrite c.stat v } }
  | 0x010 => { k with csr := { c with vwb := v.setWidth 12 } }
  | 0x011 => { k with csr := { c with vrot := v.setWidth 5 } }
  | 0x018 => { k with csr := { c with lp := Sparse.put 0 0 (v.setWidth 32) c.lp } }
  | 0x019 => { k with csr := { c with lp := Sparse.put 0 1 (v.setWidth 32) c.lp } }
  | 0x01A => { k with csr := { c with lp := Sparse.put 0 2 (v.setWidth 32) c.lp } }
  | 0x01B => { k with csr := { c with lp := Sparse.put 0 3 (v.setWidth 32) c.lp } }
  | 0x020 => { k with csr := { c with rndseed := v } }
  | 0x021 => { k with csr := { c with fmtst := v.setWidth 6 } }
  | 0x030 => { k with csr := { c with uivec := v &&& ~~~15#64 } }
  | 0x401 => { k with csr := { c with ptvec := v &&& ~~~4095#64 } }
  | 0x402 => { k with csr := { c with pepc := v &&& ~~~15#64 } }
  | 0x404 => { k with csr := { c with gracet := v &&& 0xFFFFFFFF#64 } }
  | 0x405 => { k with csr := { c with killt := v &&& 0xFFFFFFFF#64 } }
  | 0x406 => { k with csr := { c with ctxptr := v &&& ~~~0xFFFF#64 } }
  | _ => k

/-- Apply one delayed write of core c (R60, R84, R169), discarded where its generation is stale. -/
def State.applyDelayed (s : State) (c : Nat) : Delayed → State
  | .csr i v => s.updCore c (fun k => k.csrWrite i v)
  | .spm a n v g =>
    if g = s.coreGen c then s.updCore c (fun k => k.writeSpm g (a / 128) (a % 128) n (v.setWidth 1024)) else s.discard g
  | .line l img g =>
    if g = s.coreGen c then s.updCore c (fun k => k.writeSpm g l 0 128 img) else s.discard g
  | .ring r img g =>
    if g = s.coreGen c then s.updCore c (fun k => { k with rings := Sparse.put {} r ⟨img, g⟩ k.rings }) else s.discard g

/-- Apply the delayed writes of core c in slot order. -/
def State.applyAllDelayed (s : State) (c : Nat) : List Delayed → State
  | [] => s
  | d :: t => (s.applyDelayed c d).applyAllDelayed c t

/-- Take the delayed writes of core c, RNDSEED's advance first so that a CSRW prevails (R125, R126). -/
def State.applyNext (s : State) (c : Nat) : State :=
  let k := s.core c
  let seed := if k.stoch then k.csr.rndseed + rndStep else k.csr.rndseed
  (s.setCore c { k with nextVc := [], stoch := false, csr := { k.csr with rndseed := seed } }).applyAllDelayed c k.nextVc

/-- A virtual cycle of core c passes (R52): delayed writes, then the landings due. -/
def State.advanceVc (s : State) (c : Nat) : State :=
  let s1 := s.applyNext c
  (s1.updCore c (fun k => { k with
    csr := { k.csr with vcyc := k.csr.vcyc + 1 },
    lq := k.lq.map (fun e => { e with remv := e.remv - 1 }) })).landDue c

/-- The end of a handler's bundle (R107, R108): its results land, no virtual cycle passes. -/
def State.endQuick (s : State) (c : Nat) : State :=
  let s1 := s.applyNext c
  let k := s1.core c
  (s1.setCore c { k with hq := [] }).landAll c k.hq

/-- Set a register pending at issue (R53); its result is known already or comes later. -/
def State.setPending (s : State) (id : Nat) (n : Nat) (v : Option W64) (counted : Bool) : State :=
  let g := s.gen
  s.updK (fun k => { k with pend := k.pend ++ [⟨id, k.inShadow n 56, n, g, v, counted, none, false⟩] })

/-- Is the register that a name selects pending? -/
def Core.isPending (k : Core) (n : Nat) : Bool :=
  n ≠ 0 && k.pend.any (fun q => decide (q.reg = n) && (q.shadow == k.inShadow n 56))

/-- Has the register an entry in the landing queue (R54)? -/
def Core.inQueue (k : Core) (n : Nat) : Bool :=
  n ≠ 0 && k.lq.any (fun e => decide (e.kind = .scalar) && decide (e.dest = n) && (e.shadow == k.inShadow n 56))

/-- A variable-latency result is written and its pending bit clears (R53, R62, R108). -/
def State.arrive (s : State) (c : Nat) (q : Pending) (v : W64) : State :=
  let s1 := s.updCore c (fun k => { k with
    pend := k.pend.filter (fun p => decide (p.id ≠ q.id)),
    nld := if q.counted then k.nld - 1 else k.nld })
  if q.gen = s.coreGen c then s1.updCore c (fun k => k.setScalar q.gen q.shadow q.reg v) else s1.discard q.gen

end Sys2Proof.Machine
end

