-- ==== Sys2Proof/Machine/Memory.lean ====
section
/-! DEFINITION. Global memory at its homes: die-local addresses (R272), ownership (R319), granules and their
hallmarks (R348), and routes between dies (R7). -/
namespace Sys2Proof.Machine

/-! ### Die-local addresses -/

/-- KIND, STACK and OFFSET of a DLA (R272). -/
def dlaKind (a : Nat) : Nat := a / 2 ^ 45
def dlaStack (a : Nat) : Nat := a / 2 ^ 42 % 8
def dlaOffset (a : Nat) : Nat := a % 2 ^ 42
/-- Is it CXL memory? -/
def dlaCxl (a : Nat) : Bool := dlaKind a == 2

/-- Where a G7 offset lies behind the memory-encryption engine: device and granule of the device (R315). A home is one for
both ports, so no access depends on it. -/
def g7Place (off : Nat) : Nat × Nat := (off / 128 % 6, off / 128 / 6)
/-- The slice in which an SRAM offset lies (R315). -/
def sramSlice (off : Nat) : Nat := off / 0x8000000

/-- Stack k. -/
def State.stack (s : State) (k : Nat) : Stack := Sparse.get {} k s.stackTab
/-- Change stack k. -/
def State.updStack (s : State) (k : Nat) (f : Stack → Stack) : State := { s with stackTab := Sparse.upd {} k f s.stackTab }
/-- The two dies of stack k (R9). -/
def lowerDie (k : Nat) : Nat := k
def upperDie (k : Nat) : Nat := (k + 1) % Config.dies
/-- Does die d touch stack k? -/
def touches (d k : Nat) : Bool := d == lowerDie k || d == upperDie k
/-- The owner die of stack k (R319). -/
def State.owner (s : State) (k : Nat) : Nat := if (s.stack k).up then upperDie k else lowerDie k

/-- Is the DLA valid (R272): a known KIND, a present stack, an offset within its limit, no slice that serves as
memory-side cache (R278)? -/
def State.dlaOk (s : State) (a : Nat) : Bool :=
  let k := s.stack (dlaStack a)
  match dlaKind a with
  | 0 => k.present && decide (dlaOffset a < 0xBD0000000)
  | 1 => k.present && decide (dlaOffset a < 0xC0000000) && decide (sramSlice (dlaOffset a) < 24 - k.mscn)
  | 2 => dlaStack a == 0 && decide (dlaOffset a < s.cxlSize)
  | _ => false

/-- The owner register as SOWN reads it (R319). -/
def State.ownerReg (s : State) (k : Nat) : W64 :=
  let x := s.stack k
  BitVec.ofNat 64 (x.epoch.toNat * 2 ^ 48 + (if x.rv then 2 ^ 44 else 0) + x.rten.toNat * 2 ^ 32
    + x.mscn * 2 ^ 16 + k * 2 ^ 8 + (if x.hand.isSome then 16 else 0) + s.owner k)

/-! ### Generations -/

/-- Is g the platform's generation or a tenancy's current one on die d (R341, R354)? -/
def State.isCurrent (s : State) (d : Nat) (g : Hm) : Bool :=
  g == platformGen || (g != nullGen && (Sparse.get [] d s.gens).any (fun e => e.2 == g))
/-- The tenancy whose current generation on die d is g. -/
def State.tenOf (s : State) (d : Nat) (g : Hm) : Option Nat :=
  if g = nullGen then none else ((Sparse.get [] d s.gens).find? (fun e => e.2 == g)).map Prod.fst
/-- The index of the home of a DLA among the dies that hold current generations: a base die, or the I/O die. -/
def homeDie (a : Nat) : Nat := if dlaCxl a then 16 else 8 + dlaStack a

/-! ### Granules -/

/-- The canonical form of memory: addresses strictly rising, no entry equal to what an unlisted address reads as, which
is 0 (log entry 24). -/
def Memory.wf (m : List Host.Cell) : Bool := Sparse.wf (0#8) m

/-- Can the home at DLA a decrypt what bears generation g: G7 memory needs the key of the generation, staging SRAM and CXL
memory are not encrypted (R343, R460)? -/
def State.hasKey (s : State) (a : Nat) (g : Hm) : Bool := dlaKind a != 0 || (Sparse.get none g.toNat s.trust.keys).isSome
/-- n bytes from address a on, as they stand in the memory list, little-endian. -/
def rawBytes (m : Sparse Byte) (a n : Nat) : Nat :=
  (Sparse.getRun (0#8) a n m).foldr (fun b x => b.toNat + 256 * x) 0
/-- n bytes that lie in one granule, as a read under generation g sees them at the home (R343, R348, R460). -/
def State.readAt (s : State) (g : Hm) (a n : Nat) : Nat :=
  if dlaCxl a || (Sparse.get nullGen (a / 128) s.hallmarks == g && s.isCurrent (homeDie a) g && g != nullGen && s.hasKey a g)
  then rawBytes s.mem a n else 0
/-- n bytes from any address, granule by granule. -/
def State.readBytes (s : State) (g : Hm) (a : Nat) : Nat → Nat → Nat
  | 0, _ => 0
  | fuel + 1, n =>
    let m := min n (128 - a % 128)
    if n = 0 then 0 else s.readAt g a m + 2 ^ (8 * m) * State.readBytes s g (a + m) fuel (n - m)
/-- The low n bytes of a value, first byte lowest. -/
def bytesOf (v : Nat) : Nat → List Byte
  | 0 => []
  | n + 1 => BitVec.ofNat 8 v :: bytesOf (v / 256) n
/-- Write n bytes of one granule under generation g (R348): where the granule bears another hallmark its
other bytes become zero, and it is retagged; a whole-granule write clears an error (log entry 4). -/
def State.writeAt (s : State) (g : Hm) (a n v : Nat) : State :=
  let base := a / 128 * 128
  if dlaCxl a then
    { s with mem := Sparse.putRun (0#8) a (bytesOf v n) s.mem, cxlWrites := Sparse.upd 0 (a / 128) (· + 1) s.cxlWrites }
  else if Sparse.get nullGen (a / 128) s.hallmarks = g then
    { s with mem := Sparse.putRun (0#8) a (bytesOf v n) s.mem,
             badGranules := if n = 128 then Sparse.put false (a / 128) false s.badGranules else s.badGranules }
  else
    { s with mem := Sparse.putRun (0#8) base
               (bytesOf (v % 2 ^ (8 * n) * 2 ^ (8 * (a - base))) 128) s.mem,
             hallmarks := Sparse.put nullGen (a / 128) g s.hallmarks,
             badGranules := if n = 128 then Sparse.put false (a / 128) false s.badGranules else s.badGranules }
/-- Write a run of bytes from any address, granule by granule. -/
def State.writeBytes (s : State) (g : Hm) (a : Nat) : Nat → Nat → Nat → State
  | 0, _, _ => s
  | fuel + 1, n, v =>
    let m := min n (128 - a % 128)
    if n = 0 then s
    else (s.writeAt g a m (v % 2 ^ (8 * m))).writeBytes g (a + m) fuel (n - m) (v / 2 ^ (8 * m))
/-- Granules that n bytes from a touch. -/
def granules (a n : Nat) : Nat := (a % 128 + n + 127) / 128
/-- A write of n bytes under generation g. -/
def State.write (s : State) (g : Hm) (a n v : Nat) : State := s.writeBytes g a (granules a n) n v
/-- A read of n bytes under generation g. -/
def State.read (s : State) (g : Hm) (a n : Nat) : Nat := s.readBytes g a (granules a n) n
/-- Does the granule of a hold an uncorrectable error that a reader of g meets? -/
def State.badAt (s : State) (a : Nat) : Bool := Sparse.get false (a / 128) s.badGranules
/-- Does any granule of a run? -/
def State.badRun (s : State) (a n : Nat) : Bool :=
  (List.range (granules a n)).any (fun i => s.badAt (a / 128 * 128 + 128 * i))
/-- Do n bytes from a lie wholly at valid DLAs? -/
def State.runOk (s : State) (a n : Nat) : Bool :=
  (List.range (n / 0x10000 + 2)).all (fun i => s.dlaOk (min (a + 0x10000 * i) (a + n - 1)))

/-! ### Links and routes (R7) -/

/-- Link l: mortar 0-7, I/O 8-15, Empin 16-23. -/
def State.link (s : State) (l : Nat) : Link := Sparse.get {} l s.linkTab
/-- Change link l. -/
def State.updLink (s : State) (l : Nat) (f : Link → Link) : State := { s with linkTab := Sparse.upd {} l f s.linkTab }
/-- The mortar links from die d to die e in the direction of increasing (up) or decreasing index. -/
def pathLinks (up : Bool) (d e : Nat) : List Nat :=
  if up then (List.range ((e + 8 - d) % 8)).map (fun i => (d + i) % 8)
  else (List.range ((d + 8 - e) % 8)).map (fun i => (d + 7 - i) % 8)
/-- Is a direction open from d to e: no link of it is down? -/
def State.pathOpen (s : State) (up : Bool) (d e : Nat) : Bool := (pathLinks up d e).all (fun l => (s.link l).st != 2)
/-- The direction that a request from d to e takes (R7), true for increasing index; none where no route is left. The spec does
not say whether a compute die that is held in reset forwards the traffic of others: in the model it does, since its links
take no part in its reset (DESIGN CHOICE, log entry 103). -/
def State.route (s : State) (d e : Nat) : Option Bool :=
  let up := decide ((e + 8 - d) % 8 ≤ 4)
  if s.pathOpen up d e then some up else if s.pathOpen (!up) d e then some (!up) else none
/-- Does a route reach die e from die d, e itself out of reset? -/
def State.reaches (s : State) (d e : Nat) : Bool := d == e || ((s.route d e).isSome && (s.die e).released)
/-- Mortar hops from die d to die e on the route in force. -/
def State.hops (s : State) (d e : Nat) : Nat :=
  match s.route d e with
  | some true => (e + 8 - d) % 8
  | some false => (d + 8 - e) % 8
  | none => 0

/-! ### Targets and the ways to them (R7, R8, R323, R336) -/

/-- The die that serves a request for stack k that arrives now: the owner, or the receiver of a hand-over whose cut has been
made (R336). -/
def State.nextOwner (s : State) (k : Nat) : Nat :=
  if (s.stack k).hand.isSome then (if s.owner k = lowerDie k then upperDie k else lowerDie k) else s.owner k
/-- The epoch of the stack's owner register under which it serves it. -/
def State.nextEpoch (s : State) (k : Nat) : BitVec 16 :=
  if (s.stack k).hand.isSome then (s.stack k).epoch + 1 else (s.stack k).epoch
/-- May the home of a target be reached: its stack is at the epoch the target was translated under, and a request that a
forward queue has held has been translated at the receiving die (R336)? -/
def State.homeOpen (s : State) (t : Target) : Bool :=
  dlaCxl t.dla || ((s.stack (dlaStack t.dla)).epoch == t.epoch && t.fwd.isNone)
/-- Is a request of this target held for stack k: translated or routed after the cut of a hand-over (R336)? -/
def State.inForward (s : State) (k : Nat) (t : Target) : Bool :=
  !dlaCxl t.dla && dlaStack t.dla == k && (s.stack k).hand.isSome && t.epoch == (s.stack k).epoch + 1
/-- The targets of a core's requests that are still to be served at their homes. -/
def Core.waiting (k : Core) : List Target :=
  (k.accs.filter (fun a => !a.done && (match a.kind with
    | .fence _ => false
    | .thread => false
    | _ => true))).map (·.tgt)
    ++ k.copies.flatMap (fun x => x.held.map (·.2.2.2)) ++ k.ringRead.toList.filterMap (·.held)
/-- Those of a die's ordering point, command processor and distributor. -/
def Die.waiting (x : Die) : List Target := x.op.map (·.tgt) ++ x.cpHeld.map (·.tgt)
/-- Requests that the forward queue of stack k holds (R336, R337). -/
def State.forwarded (s : State) (k : Nat) : Nat :=
  s.cores.foldl (fun n e => n + (e.2.waiting.filter (s.inForward k)).length) 0
    + s.dies.foldl (fun n e => n + (e.2.waiting.filter (s.inForward k)).length) 0
/-- Places of the forward queue of a stack (R337). -/
def forwardQueue : Nat := 4096
/-- Is there no room for another request of stack k: its queue is full, and the links on the way hold what comes (R337)? -/
def State.forwardFull (s : State) (k : Nat) : Bool := (s.stack k).hand.isSome && decide (forwardQueue ≤ s.forwarded k)
/-- The code by which a translation answers while it must wait: a table cannot be reached yet, its stack being handed over or
a link on the way retraining, or the forward queue of the stack is full (R336, R337, R415). It is no subcode. -/
def walkWait : Nat := 0
/-- The links beyond die d on the way to CXL memory (R8, R424): its I/O link, and in an aperture the Empin link. -/
def State.cxlLinks (s : State) (d a : Nat) : List Nat :=
  let o := dlaOffset a
  if o < s.io.hostRange || s.io.aperture = 0 then [8 + d] else [8 + d, 16 + (o - s.io.hostRange) / s.io.aperture]
/-- The links from die d to the home of a target (R7, R8); none where no mortar route is left. -/
def State.way (s : State) (d : Nat) (t : Target) : Option (List Nat) :=
  let out := if dlaCxl t.dla then s.cxlLinks t.die t.dla else []
  if t.die = d then some out
  else match s.route d t.die with
    | none => none
    | some up => some (pathLinks up d t.die ++ out)
/-- Is every link of the way up: a request waits for one that retrains (R415)? -/
def State.wayOpen (s : State) (d : Nat) (t : Target) : Bool :=
  match s.way d t with
  | none => false
  | some ls => ls.all (fun l => (s.link l).st == 0)
/-- Has the target no way left: a link of it is down or not fitted, and no other route leads there (R417, R418)? -/
def State.wayLost (s : State) (d : Nat) (t : Target) : Bool :=
  match s.way d t with
  | none => true
  | some ls => ls.any (fun l => decide (2 ≤ (s.link l).st))
/-- A DLA request under the platform generation from die d (R97, R323): served through the stack's owner, held
over a hand-over, where it waits for room (R336, R337). -/
def State.translateDla (s : State) (d a : Nat) : Except Nat Target :=
  if !s.dlaOk a then .error 0x0A
  else if dlaCxl a then .ok { dla := a, gen := platformGen, die := d, remote := true }
  else
    let k := dlaStack a
    if !s.reaches d (s.nextOwner k) then .error 0x08
    else if s.forwardFull k then .error walkWait
    else .ok { dla := a, gen := platformGen, die := s.nextOwner k, remote := true, epoch := s.nextEpoch k }
/-- A write of n bytes under the platform generation that die d makes at a DLA, applied when its home can be reached (R323,
log entry 19): an error is walkWait, or the subcode with which it fails. -/
def State.dlaWrite (s : State) (d a n v : Nat) : Except Nat State :=
  match s.translateDla d a with
  | .error f => .error f
  | .ok t =>
    if s.wayLost d t then .error 0x08
    else if !s.homeOpen t || !s.wayOpen d t then .error walkWait
    else .ok (s.write platformGen a n v)
/-- Must such a write still wait? -/
def State.dlaHeld (s : State) (d a : Nat) : Bool :=
  match s.dlaWrite d a 1 0 with
  | .error f => f == walkWait
  | .ok _ => false

end Sys2Proof.Machine
end

