-- ==== Sys2Proof/Machine/Report.lean ====
section
/-! DEFINITION. Fault reports (R406, R407), interrupts to the application cores (R430), incarnations (R345) and
the failure of a task (R372, R397). -/
namespace Sys2Proof.Machine

/-- The serial of generation g of tenancy t (R345). -/
def State.serialOf (s : State) (t : Nat) (g : Hm) : Nat :=
  let x := Sparse.get {} t s.tenancies
  let past := Sparse.get 0 g.toNat s.serials
  if x.gen = some g then x.serial else match x.ending with
    | some e => if e.oldGen = g then e.oldSerial else past
    | none => past
/-- The incarnation of generation g of tenancy t (R345). -/
def State.incarnation (s : State) (t : Nat) (g : Hm) : Nat := g.toNat * 2 ^ 48 + s.serialOf t g
/-- An interrupt to the application core and identity that the platform has set for event e of die d (R430):
0 a PRECTL transition, 1 a fault record, 2 a port violation, 3 a link down, 4 an end record. Identity 0 sends
none. -/
def State.interrupt (s : State) (d e : Nat) : State :=
  let x := Sparse.get (0, 0) (8 * d + e) s.io.identities
  if x.2 = 0 then s else { s with io := { s.io with interrupts := s.io.interrupts ++ [x] } }

/-- The 64 bytes of a record (R407). -/
def FaultInfo.record (f : FaultInfo) (d lcyc serial : Nat) : Nat :=
  f.kind % 256 + f.cause % 256 * 2 ^ 8 + f.sub % 256 * 2 ^ 16 + f.core % 256 * 2 ^ 24 + f.ten % 2 ^ 16 * 2 ^ 32
    + d * 2 ^ 48 + f.inc % 2 ^ 64 * 2 ^ 64 + lcyc % 2 ^ 64 * 2 ^ 128 + f.index % 2 ^ 32 * 2 ^ 192
    + f.node % 256 * 2 ^ 224 + f.slot % 256 * 2 ^ 232 + f.seq % 2 ^ 16 * 2 ^ 240 + f.addr % 2 ^ 64 * 2 ^ 256
    + f.data % 2 ^ 64 * 2 ^ 320 + serial % 2 ^ 64 * 2 ^ 448

/-- The die through which die d reaches memory: the I/O die, number 8, has a link to each, and takes the one that owns the
stack named (log entry 19). -/
def State.gate (s : State) (d a : Nat) : Nat := if d < 8 then d else if dlaCxl a then 0 else s.nextOwner (dlaStack a)
/-- Where die d's next record goes. -/
def Die.frNext (x : Die) : Nat := x.frBase.toNat + 64 * (x.frTail % 2 ^ x.frLog)
/-- Write one record in die d's ring, which has space, with the LCYC at which it was made; where its home has no way left it is
counted as lost. -/
def State.putRecord (s : State) (d lcyc : Nat) (f : FaultInfo) : State :=
  let x := s.die d
  match s.dlaWrite (s.gate d x.frNext) x.frNext 64 (f.record d lcyc (x.frSerial.toNat + 1)) with
  | .ok s1 => (s1.updDie d (fun x => { x with frTail := x.frTail + 1, frSerial := x.frSerial + 1 })).interrupt d 1
  | .error _ => s.updDie d (fun x => { x with frLost := x.frLost + 1 })
/-- Has the ring of die d space for n records? With no ring set (log 0) it has none. -/
def Die.ringRoom (x : Die) (n : Nat) : Bool := decide (x.frLog ≠ 0) && decide (x.frTail + n ≤ x.frHead + 2 ^ x.frLog)
/-- A record enters the ring of die d, or is counted as lost where the ring is full. -/
def State.addRecord (s : State) (d lcyc : Nat) (f : FaultInfo) : State :=
  if (s.die d).ringRoom 1 then s.putRecord d lcyc f else s.updDie d (fun x => { x with frLost := x.frLost + 1 })
/-- A record of die d is written now (R407): where records were lost, the first record written after space returns carries
their count. -/
def State.record (s : State) (d lcyc : Nat) (f : FaultInfo) : State :=
  let x := s.die d
  if x.frLost ≠ 0 && x.ringRoom 1 then
    ((s.updDie d (fun x => { x with frLost := 0 })).putRecord d lcyc { kind := 0x0F, data := x.frLost.toNat }).addRecord d lcyc f
  else s.addRecord d lcyc f
/-- Must die d's records wait: the home of its ring's next place is being handed over, or a link on the way there retrains
(R323, R336, R415)? -/
def State.reportHeld (s : State) (d : Nat) : Bool :=
  let x := s.die d
  x.ringRoom 1 && s.dlaHeld (s.gate d x.frNext) x.frNext
/-- The records that have waited are written, oldest first. -/
def State.flushReports (s : State) (d : Nat) : State :=
  if (s.die d).frWait.isEmpty || s.reportHeld d then s
  else (s.die d).frWait.foldl (fun s r => s.record d r.1 r.2) (s.updDie d (fun x => { x with frWait := [] }))
/-- Every die's waiting records are written where they can be: a way has opened. -/
def State.flushAll (s : State) : State := (List.range 9).foldl State.flushReports s
/-- A fault enters die d's reports (R406, R407): behind those that wait, where its ring cannot be reached yet. -/
def State.report (s : State) (d : Nat) (f : FaultInfo) : State :=
  let l := (s.die d).lcyc.toNat
  if s.reportHeld d then s.updDie d (fun x => { x with frWait := x.frWait ++ [(l, f)] })
  else (s.flushReports d).record d l f

/-- The fields of a report that name core c and its tenancy; an operation's record names no task index (R406). -/
def State.coreFault (s : State) (c : Nat) (f : FaultInfo) : FaultInfo :=
  let k := s.core c
  let t := k.ten.getD 0xFFFF
  let inc := match k.ten with
    | some t => s.incarnation t k.ctxGen
    | none => 0
  { f with core := c % 64, ten := t, inc := inc }
/-- Those of a report of core c's task. -/
def State.taskFault (s : State) (c : Nat) (f : FaultInfo) : FaultInfo :=
  match (s.core c).task with
  | some x => { (s.coreFault c f) with index := x.index, node := x.node, slot := x.slot }
  | none => s.coreFault c f

/-- The indices that a task holds: its own, and those TNEXT has claimed. -/
def Task.indices (t : Task) : List Nat := t.index :: t.holds.map (·.2)
/-- Report something of core c's task on its die: a record for each index it holds (R406), one where it has no task. -/
def State.reportTask (s : State) (c : Nat) (f : FaultInfo) : State :=
  match (s.core c).task with
  | none => s.report (dieOf c) (s.coreFault c f)
  | some t => t.indices.foldl (fun s i => s.report (dieOf c) { (s.taskFault c f) with index := i }) s
/-- Launch slot n of die d. -/
def Die.launch (x : Die) (n : Nat) : Option Launch := Sparse.get none n x.launches
/-- Change launch slot n of die d. -/
def State.updLaunch (s : State) (d n : Nat) (f : Launch → Launch) : State :=
  s.updDie d (fun x => match x.launch n with
    | some l => { x with launches := Sparse.put none n (some (f l)) x.launches }
    | none => x)
/-- The launch with identity i fails, on every die that takes part in it (R372). -/
def State.failLaunch (s : State) (i : Nat) : State :=
  let mark := fun (l : Option Launch) => l.map (fun l => if l.id = i then { l with failed := true } else l)
  let onDie := fun (x : Die) => { x with launches := Sparse.mapVals none (fun _ l => mark l) x.launches }
  { s with dies := Sparse.mapVals {} (fun _ x => onDie x) s.dies }
/-- The launch of core c's task fails. -/
def State.failTask (s : State) (c : Nat) : State :=
  match (s.core c).task with
  | none => s
  | some t => match (s.die (dieOf c)).launch t.slot with
    | some l => if l.id = t.lid then s.failLaunch l.id else s
    | none => s

/-! ### What the platform reaches (R6, R422, R454, R455) -/

/-- Do the platform's controls of die d take effect: the I/O die has left reset, and so has compute die d, where one is named (8:
none)? Nothing acts on a die that is held in reset. -/
def State.reachesDie (s : State) (d : Nat) : Bool := s.io.released && (decide (8 ≤ d) || (s.die d).released)

/-! ### Stream faults (R367) -/

/-- Queue q of die d. -/
def State.queue (s : State) (d q : Nat) : Queue := Sparse.get {} q (s.die d).queues
/-- Change a queue. -/
def State.updQueue (s : State) (d q : Nat) (f : Queue → Queue) : State :=
  s.updDie d (fun x => { x with queues := Sparse.upd {} q f x.queues })
/-- The tenancy of queue q: queues 0-7 are the platform's (R361). -/
def Queue.owner (x : Queue) (q : Nat) : Option Nat := if q < 8 then none else some x.ten
/-- The count of the next packet to start; one of a sub-stream bears its CALLS's. -/
def Queue.count (x : Queue) : W64 := if x.subs.isEmpty then x.pos else x.pos - 1
/-- Queue q of die d stops with a stream fault at packet n, and with a change to the queue (R367). -/
def State.stopStream (s : State) (d q code : Nat) (n : W64) (f : Queue → Queue) : State :=
  let x := s.queue d q
  let s1 := s.updQueue d q (fun x => f { x with
    pos := n, fault := BitVec.ofNat 64 (code % 256 + 256 + n.toNat % 2 ^ 48 * 2 ^ 16) })
  let r : FaultInfo := { kind := 0x06, cause := code, seq := q, addr := n.toNat }
  s1.report d (match x.owner q with
    | none => r
    | some t => { r with ten := t, inc := s.incarnation t (s.genOn d t) })
/-- A stream fault of the packet at hand, which has not started, or of the queue itself: a packet that waits meanwhile
completes. -/
def State.streamFault (s : State) (d q code : Nat) : State := s.stopStream d q code (s.queue d q).count id
/-- A stream fault of the packet that waits: the head goes back to it (log entry 110). -/
def State.waitFault (s : State) (d q code : Nat) : State :=
  s.stopStream d q code ((s.queue d q).pos - 1) (fun x => { x with wait := .no })

end Sys2Proof.Machine
end

