-- ==== Sys2Proof/Machine/Save.lean ====
section
/-! DEFINITION. The context save area (R398): its layout, the core part that a trap save writes (R98), and the
return of that part (R102). -/
namespace Sys2Proof.Machine

/-- Fields of given byte widths, the first at the lowest address. -/
def packFields : List (Nat × Nat) → Nat
  | [] => 0
  | (n, v) :: t => v % 2 ^ (8 * n) + 2 ^ (8 * n) * packFields t
/-- n bytes of v from byte o on. -/
def field (v o n : Nat) : Nat := v / 2 ^ (8 * o) % 2 ^ (8 * n)

/-- PCAUSE of a trap (R99). -/
def pcauseOf (t : TrapInfo) (dupw plv : Bool) : W64 :=
  BitVec.ofNat 64 (t.cls + t.sub * 2 ^ 8 + t.slot % 4 * 2 ^ 16 + (if plv then 2 ^ 18 else 0)
    + (if dupw then 2 ^ 19 else 0) + t.code % 4096 * 2 ^ 20 + t.lane % 256 * 2 ^ 32)

/-- A register as a save holds it under generation g: value and hallmark, both zero where stale (R398). -/
def HReg.saved (r : HReg) (g : Hm) : Nat × Nat := if r.hm = g then (r.val.toNat, g.toNat) else (0, 0)
def PReg.saved (r : PReg) (g : Hm) : Nat × Nat := if r.hm = g then (if r.val then 1 else 0, g.toNat) else (0, 0)

/-- The REGS region (R398). -/
def Core.regsPart (k : Core) (g : Hm) : List (Nat × Nat) :=
  let rs := (List.range 64).map (fun n => if n = 0 then (0, 0) else (Sparse.get {} n k.sregs : HReg).saved g)
    ++ (List.range 8).map (fun n => (Sparse.get {} (56 + n) k.shadow : HReg).saved g)
  let ps := (List.range 7).map (fun n => (Sparse.get {} (n + 1) k.preds : PReg).saved g)
    ++ (List.range 2).map (fun n => (Sparse.get {} (6 + n) k.spreds : PReg).saved g)
  rs.map (fun r => (8, r.1)) ++ [(2, 1 + 2 * ((ps.zip (List.range 9)).foldl (fun a x => a + x.1.1 * 2 ^ x.2) 0))]
    ++ (rs ++ ps).map (fun r => (2, r.2))
/-- The value of user CSR i in a save (R398). -/
def Core.csrSaved (k : Core) (lcyc : W64) (i : Nat) : W64 :=
  match i with
  | 0x000 => k.csr.stat
  | 0x001 => k.ismap
  | 0x002 => k.csr.splitc
  | 0x003 => k.csr.vcyc
  | 0x004 => lcyc
  | 0x010 => k.csr.vwb.setWidth 64
  | 0x011 => k.csr.vrot.setWidth 64
  | 0x018 => (Sparse.get 0 0 k.csr.lp).setWidth 64
  | 0x019 => (Sparse.get 0 1 k.csr.lp).setWidth 64
  | 0x01A => (Sparse.get 0 2 k.csr.lp).setWidth 64
  | 0x01B => (Sparse.get 0 3 k.csr.lp).setWidth 64
  | 0x020 => k.csr.rndseed
  | 0x021 => k.csr.fmtst.setWidth 64
  | 0x030 => k.csr.uivec
  | 0x031 => k.csr.uiepc
  | 0x032 => k.csr.uicause
  | _ => 0
/-- A landing-queue record (R61). -/
def LqEntry.record (e : LqEntry) : List (Nat × Nat) :=
  let kind := match e.kind with
    | .scalar => 0
    | .pred => 1
    | _ => 2
  [(16, e.dest % 128 + kind * 2 ^ 40 + e.remv % 16 * 2 ^ 44 + e.seq.toNat * 2 ^ 48
      + (if kind = 2 then e.vrot.toNat * 2 ^ 63 + e.vwb.toNat * 2 ^ 68 + e.lmask.toNat * 2 ^ 80
         else e.vrot.toNat * 2 ^ 63 + e.vwb.toNat * 2 ^ 68) + e.gen.toNat * 2 ^ 112),
   (128, e.value.toNat)]
/-- Bytes of the core part: TRAP, INC, RPC, CFLAGS, TASK, REGS, CSRS and LQ lie below this offset. -/
def corePartBytes : Nat := 0x2300
/-- The core part of a save area (R398). -/
def Core.corePart (k : Core) (g : Hm) (trap : Nat) (inc : Nat) (rpc : Addr) (cflags task : Nat) (lcyc : W64) : Nat :=
  packFields ([(32, trap), (8, inc), (8, rpc.toNat), (8, cflags), (8, task)] ++ k.regsPart g ++ [(0x400 - 0x324, 0)]
    ++ (List.range 128).map (fun i => (8, (k.csrSaved lcyc i).toNat)) ++ k.lq.flatMap LqEntry.record)

/-- Registers restored from the core part, tagged with generation g where the save holds their hallmark (R399). -/
def Core.restoreRegs (k : Core) (g : Hm) (v : Nat) : Core :=
  let hmAt := fun i => field v (0x40 + 578 + 2 * i) 2
  let tag := fun i => if hmAt i = 0 then nullGen else g
  let val := fun i => if hmAt i = 0 then 0 else BitVec.ofNat 64 (field v (0x40 + 8 * i) 8)
  let pbit := fun i => decide (hmAt (72 + i) ≠ 0) && decide (field v (0x40 + 576) 2 / 2 ^ (i + 1) % 2 = 1)
  { k with
    sregs := (List.range 63).foldl (fun m n => Sparse.put {} (n + 1) ⟨val (n + 1), tag (n + 1)⟩ m) []
    shadow := (List.range 8).foldl (fun m n => Sparse.put {} (56 + n) ⟨val (64 + n), tag (64 + n)⟩ m) []
    preds := (List.range 7).foldl (fun m n => Sparse.put {} (n + 1) ⟨pbit n, tag (72 + n)⟩ m) []
    spreds := (List.range 2).foldl (fun m n => Sparse.put {} (6 + n) ⟨pbit (7 + n), tag (79 + n)⟩ m) [] }
/-- An address becomes the pc, which has 48 bits and the low four of them zero (R19, R88): PEPC, UIVEC, UIEPC and RPC hold 64
bits, and those above 47 are dropped (DESIGN CHOICE, log entry 124). -/
def asPc (v : W64) : Addr := v.setWidth 48 &&& ~~~15#48
/-- The assigned bits of STAT (R50, R229, R405). -/
def statBits : W64 := 7
/-- User CSRs restored from the core part; ISMAP and LCYC are the core's and the die's own (R399), and reserved bits stay
zero (R84). -/
def Core.restoreCsrs (k : Core) (v : Nat) : Core :=
  let at_ := fun i => BitVec.ofNat 64 (field v (0x400 + 8 * i) 8)
  { k with csr := { k.csr with
      stat := at_ 0x000 &&& statBits, splitc := at_ 0x002, vcyc := at_ 0x003, vwb := (at_ 0x010).setWidth 12,
      vrot := (at_ 0x011).setWidth 5,
      lp := (List.range 4).foldl (fun m n => Sparse.put 0 n ((at_ (0x018 + n)).setWidth 32) m) [],
      rndseed := at_ 0x020, fmtst := (at_ 0x021).setWidth 6, uivec := at_ 0x030 &&& ~~~15#64, uiepc := at_ 0x031 &&& ~~~15#64,
      uicause := at_ 0x032 &&& 0xFFFF#64 } }
/-- One landing-queue record read back with the flags it raises when it lands; none where unused. -/
def lqOfRecord (g : Hm) (flags : Flags) (v : Nat) : Option LqEntry :=
  if v = 0 then none
  else
    let d := BitVec.ofNat 128 v
    some {
      gen := if d.extractLsb' 112 16 = 0#16 then nullGen else g
      lmask := d.extractLsb' 80 32, vwb := d.extractLsb' 68 12, vrot := d.extractLsb' 63 5
      seq := d.extractLsb' 48 8, remv := (d.extractLsb' 44 4).toNat
      kind := (match (d.extractLsb' 40 4).toNat with | 0 => .scalar | 1 => .pred | _ => .vector)
      dest := (d.extractLsb' 0 7).toNat
      value := BitVec.ofNat 1024 (v / 2 ^ 128), flags := flags, shadow := false }
/-- Does a landing-queue record keep R61: reserved fields zero, KIND below 3, REMV 1-12? -/
def lqRecordOk (v : Nat) : Bool :=
  let d := BitVec.ofNat 128 v
  v == 0 || (d.extractLsb' 56 7 == 0#7 && d.extractLsb' 7 33 == 0#33 && decide ((d.extractLsb' 40 4).toNat < 3)
    && decide (1 ≤ (d.extractLsb' 44 4).toNat) && decide ((d.extractLsb' 44 4).toNat ≤ 12))
/-- The 48 landing-queue records of a core part. -/
def lqRecords (v : Nat) : List Nat := (List.range 48).map (fun i => field v (0x800 + 144 * i) 144)
/-- How long ago, in issue slots modulo 256, an entry of SEQ was issued, seen from virtual cycle vcyc (R61). -/
def seqAge (vcyc : W64) (seq : Byte) : Nat := (4 * vcyc.toNat + 259 - seq.toNat) % 256
/-- Put an entry into a landing queue that is in the order of issue. -/
def lqInsert (vcyc : W64) (e : LqEntry) : List LqEntry → List LqEntry
  | [] => [e]
  | x :: t => if seqAge vcyc x.seq < seqAge vcyc e.seq then e :: x :: t else x :: lqInsert vcyc e t
/-- A landing queue in the order of issue, which orders ties (R58, R61). -/
def lqSorted (vcyc : W64) (l : List LqEntry) : List LqEntry := l.foldl (fun q e => lqInsert vcyc e q) []
/-- The landing queue of a core part, the flags of each record beside it. -/
def lqOfPart (g : Hm) (flags : List Flags) (v : Nat) : List LqEntry :=
  lqSorted (BitVec.ofNat 64 (field v 0x418 8))
    ((lqRecords v).zipIdx.filterMap (fun r => lqOfRecord g (flags.getD r.2 0) r.1))
/-- The core part restored whole (R102, R399). -/
def Core.restoreCore (k : Core) (g : Hm) (flags : List Flags) (v : Nat) : Core :=
  { ((k.restoreRegs g v).restoreCsrs v) with lq := lqOfPart g flags v, ui := decide (field v 0x30 8 % 2 = 1) }
/-- Does every landing-queue record of a core part keep R61? -/
def lqPartOk (v : Nat) : Bool := (lqRecords v).all lqRecordOk

/-! ### Taking a trap (R98, R103) -/

/-- The address that CTXPTR holds. -/
def Core.ctxArea (k : Core) : Nat := k.csr.ctxptr.toNat
/-- The bytes of a whole save area (R398). -/
def saveAreaBytes : Nat := 0x118000
/-- Can the area at CTXPTR be written: wholly valid DLAs that a route reaches (R98)? -/
def State.areaOk (s : State) (c : Nat) : Bool :=
  let a := (s.core c).ctxArea
  s.runOk a saveAreaBytes && (match s.translateDla (dieOf c) a with
    | .ok t => !s.wayLost (dieOf c) t
    | .error _ => false)

/-- A function-level reset of a core begins (R400, step 1): PHASE 7, and nothing more issues. -/
def State.beginFlr (s : State) (c : Nat) : State :=
  let now := (s.die (dieOf c)).lcyc.toNat
  s.updCore c (fun k => { k with
    phase := 7, stopping := none, flr := some now, trapping := none, late := none, lateHeld := none, grace := none, kill := none })
/-- The write of a save to the area at CTXPTR waits (R336, R415): its stack is being handed over or its way retrains. -/
def State.areaWaits (s : State) (c : Nat) : Bool :=
  match s.translateDla (dieOf c) (s.core c).ctxArea with
  | .error f => f == walkWait
  | .ok t => !s.wayLost (dieOf c) t && (!s.homeOpen t || !s.wayOpen (dieOf c) t)

/-- A double trap (R103, R401): the core stops, no save is made, the core and its task are reported failed, and a
function-level reset follows. -/
def State.doubleTrap (s : State) (c : Nat) (t : TrapInfo) (plv : Bool) : State :=
  let k := s.core c
  let data := (pcauseOf t (k.csr.stat.getLsbD 0) plv).toNat
  let f : FaultInfo := { kind := 0x01, cause := t.cls, sub := t.sub, addr := t.addr.toNat, data := data }
  let s1 := (s.reportTask c f).failTask c
  (s1.updCore c (fun k => { k with stopped := true })).beginFlr c

/-- A trap taken at user level with no result pending (R98): the trap save, the trap record, PEPC, PCAUSE,
platform level, and the fetch at the vector. A machine check also fails the task (R307). Loads that met an error never
arrive and leave the loads counter here. A machine check or a lost route of another access, found while this trap waited,
is held and taken at the first issue boundary after ERET (DEDUCED, log entry 97). -/
def State.enterTrap (s : State) (c : Nat) (t : TrapInfo) : State :=
  let k := s.core c
  let g := s.coreGen c
  if k.lvl || k.csr.ptvec = 0 || !s.areaOk c then s.doubleTrap c t k.lvl
  else
    let pcause := pcauseOf t (k.csr.stat.getLsbD 0) false
    let trap := pcause.toNat + k.pc.toNat * 2 ^ 64 + t.addr.toNat * 2 ^ 128 + k.csr.vcyc.toNat * 2 ^ 192
    let inc := match k.ten with
      | some t => s.incarnation t g
      | none => 0
    let part := k.corePart g trap inc k.pc (if k.ui then 1 else 0) 0 (s.die (dieOf c)).lcyc
    let v := k.csr.ptvec.toNat + 0x40 * t.cls
    let lost := (k.pend.filter (fun q => q.failed && q.counted)).length
    let s0 := s.write platformGen k.ctxArea corePartBytes part
    let s1 := { s0 with lqFlags := Sparse.put [] k.ctxArea (k.lq.map LqEntry.flags) s0.lqFlags }.updCore c (fun k => { k with
      stopping := none, trapping := none, late := none, lateHeld := k.late, pend := [], nld := k.nld - BitVec.ofNat 12 lost, lvl := true
      uia := k.ui, ui := false, lq := [], hq := [], bubbles := 0, blocked := []
      waita := [], waitaHit := [], ringRead := none,
      pc := BitVec.ofNat 48 v,
      csr := { k.csr with pepc := k.pc.setWidth 64, pcause := pcause } })
    let f : FaultInfo := { kind := 0x01, cause := t.cls, sub := t.sub, addr := t.addr.toNat, data := pcause.toNat }
    let s1 := if t.cls = 8 then (s1.reportTask c f).failTask c else s1
    if 2 ^ 48 ≤ v then s1.doubleTrap c ⟨7, 1, 0, 0, 0, BitVec.ofNat 64 v⟩ true else s1

/-- Take a trap: at once where no result of the core is pending and its save need not wait, else later (R98). -/
def State.takeTrapOf (s : State) (c : Nat) (t : TrapInfo) : State :=
  if ((s.core c).pend.all (·.failed) && !s.areaWaits c) || (s.core c).lvl then s.enterTrap c t
  else s.updCore c (fun k => { k with trapping := some t })

end Sys2Proof.Machine
end

