-- ==== Sys2Proof/Machine/Ops.lean ====
section
/-! DEFINITION. The shared operations of slot meanings: the evaluation of R100 (operands pending, traps,
waits), taking an exception (R98) and the return from one (R102). -/
namespace Sys2Proof.Machine

/-- The outcome type of every meaning. -/
abbrev Out := Host.Outcome State Fault Refusal

/-- A next state. -/
def ok (s : State) : Out := .next s

/-- The bundle at hand is held: a local cycle passes (R55). -/
def State.hold (s : State) : State := s.tick s.d

/-- Pending operands and destinations of a slot (R53, R54): registers read, register written, and whether
the result is variable-latency. A handler's bundle waits only for the registers that it reads (R108). -/
def State.operandVerdict (s : State) (reads : List Nat) (dest : Option Nat) (var : Bool) : Verdict :=
  let k := s.k
  if reads.any k.isPending then .pend
  else match dest with
    | none => .go
    | some n => if !k.ui && k.isPending n then .pend else if var && !k.quick && k.inQueue n then .land else .go

/-- The trap of the slot at hand is taken (R98, R100). -/
def State.takeTrap (s : State) (t : TrapInfo) : State := s.takeTrapOf s.cur.core t

/-- The meaning of a slot operation (R21, R53, R100): with a false guard no effect; in the evaluation of a
bundle its verdict alone; as part of an issued bundle its effect; alone, the trap, the wait or the effect
that the verdict calls for. -/
def slotMeaning (p : BitVec 3) (reads : List Nat) (dest : Option Nat) (var : Bool)
    (v : State → Verdict) (e : State → State) (s : State) : Out :=
  if s.guard p then
    match s.cur.mode with
    | .commit => ok (e s)
    | m =>
      let vd := match s.operandVerdict reads dest var with
        | .go => v s
        | o => o
      if m = .probe then ok { s with cur := { s.cur with verdict := vd } }
      else match vd with
        | .go => ok (e s)
        | .trap cls sub code lane addr => ok (s.takeTrap ⟨cls, sub, s.cur.slot, code, lane, addr⟩)
        | .land => ok ((s.advanceVc s.cur.core).tick s.d)
        | _ => ok s.hold
  else if s.cur.mode = .probe then ok { s with cur := { s.cur with verdict := .go } }
  else ok s

/-- The verdict of an operation that neither traps nor waits. -/
def noTrap (_ : State) : Verdict := .go
/-- A trap with no code, lane or address (R99). -/
def trapV (cls sub : Nat) : Verdict := .trap cls sub 0 0 0
/-- A trap where a condition holds. -/
def trapIf (c : Bool) (cls sub : Nat) (rest : Verdict) : Verdict := if c then trapV cls sub else rest

end Sys2Proof.Machine
end

