-- ==== Sys2Proof/Machine/Special.lean ====
section
/-! DEFINITION. The special functions of R152, each the exact value of the function enclosed between two
neighbouring multiples of 2^-300 (or exact), so that one rounding of the enclosure is the one rounding
of the value. DEDUCED: that no argument's value lies so close to a rounding boundary that 300 bits do
not tell the side (log entry 8). -/
namespace Sys2Proof.Machine

/-- Working precision of the fixed-point evaluation. -/
def spW : Nat := 400
/-- One in fixed point. -/
def spOne : Nat := 2 ^ spW

/-- Sum over k < n of t_k/(2k+1), t_k the k-th power of z^2 times z, signs alternating where alt. -/
def arcSeries (alt : Bool) (z2 : Nat) : Nat → Nat → Nat → Int
  | 0, _, _ => 0
  | n + 1, k, t =>
    let term : Int := (t / (2 * k + 1) : Nat)
    (if alt && decide (k % 2 = 1) then -term else term) + arcSeries alt z2 n (k + 1) (t * z2 / spOne)

/-- artanh z for 0 ≤ z ≤ 1/3 in fixed point. -/
def artanhFix (z : Nat) : Nat := (arcSeries false (z * z / spOne) 140 0 z).toNat
/-- arctan z for 0 ≤ z ≤ 1/5 in fixed point. -/
def arctanFix (z : Nat) : Nat := (arcSeries true (z * z / spOne) 100 0 z).toNat
/-- ln 2. -/
def ln2Fix : Nat := 2 * artanhFix (spOne / 3)
/-- pi, by Machin's formula. -/
def piFix : Nat := 16 * arctanFix (spOne / 5) - 4 * arctanFix (spOne / 239)

/-- The exponential series of r, n terms from term k on. -/
def expSeries (r : Nat) : Nat → Nat → Nat → Nat
  | 0, _, _ => 0
  | n + 1, k, t => t + expSeries r n (k + 1) (t * r / spOne / (k + 1))
/-- e^r for 0 ≤ r ≤ 1 in fixed point. -/
def expFix (r : Nat) : Nat := expSeries r 110 0 spOne

/-- The sine series of r. -/
def sinSeries (r2 : Nat) : Nat → Nat → Nat → Int
  | 0, _, _ => 0
  | n + 1, k, t => (t : Int) - sinSeries r2 n (k + 1) (t * r2 / spOne / ((2 * k + 2) * (2 * k + 3)))
/-- sin r for 0 ≤ r ≤ 2 in fixed point. -/
def sinFix (r : Nat) : Nat := (sinSeries (r * r / spOne) 60 0 r).toNat

/-- A fixed-point value known to lie strictly inside its last place, as a number. -/
def ofFix (neg : Bool) (v : Nat) (e : Int) : Num := .fin neg (v / 2 ^ 100) (e + 100 - spW) true

/-- Integer square root by bits, from bit n down. -/
def isqrtBits (x : Nat) : Nat → Nat → Nat
  | 0, r => r
  | n + 1, r => if (r + 2 ^ n) * (r + 2 ^ n) ≤ x then isqrtBits x n (r + 2 ^ n) else isqrtBits x n r

/-- m * 2^e in fixed point, and whether bits are lost. -/
def toFix (m : Nat) (e : Int) : Nat :=
  if 0 ≤ e + spW then m * 2 ^ (e + spW).toNat else m / 2 ^ (-(e + spW)).toNat

/-- 2^x (R152 row 0). -/
def spExp2 : Num → Num
  | .nan => .nan
  | .inf true => .zero
  | .inf false => .inf false
  | .fin neg m e _ =>
    if m = 0 then .fin false 1 0 false
    else if (2 : Int) ^ 12 ≤ m * 2 ^ e.toNat ∧ 0 ≤ e then .fin false 1 (if neg then -5000 else 5000) false
    else
      let x := toFix m e
      let whole := x / spOne
      let frac := x % spOne
      if 4096 ≤ whole then .fin false 1 (if neg then -5000 else 5000) (decide (frac ≠ 0))
      else if frac = 0 then .fin false 1 (if neg then -(whole : Int) else whole) (false)
      else if neg then ofFix false (expFix ((spOne - frac) * ln2Fix / spOne)) (-(whole : Int) - 1)
      else ofFix false (expFix (frac * ln2Fix / spOne)) whole

/-- log2 x (R152 row 1). -/
def spLog2 : Num → Num
  | .nan => .nan
  | .inf true => .nan
  | .inf false => .inf false
  | .fin neg m e _ =>
    if m = 0 then .inf true
    else if neg then .nan
    else
      let l := Nat.log2 m
      let k : Int := e + l
      if m = 2 ^ l then Num.ofInt k
      else
        let y := m * 2 ^ spW / 2 ^ l
        let f := 2 * artanhFix ((y - spOne) * spOne / (y + spOne)) * spOne / ln2Fix
        let v : Int := k * spOne + f
        if 0 ≤ v then ofFix false v.toNat 0
        else .fin true ((-v).toNat / 2 ^ 100) (100 - (spW : Int)) true

/-- 1 / x (R152 row 2). -/
def spRcp : Num → Num
  | .nan => .nan
  | .inf neg => .fin neg 0 0 false
  | .fin neg m e _ =>
    if m = 0 then .inf neg
    else .fin neg (2 ^ (200 + bitLen m) / m) (-(200 + bitLen m : Int) - e) (decide (2 ^ (200 + bitLen m) % m ≠ 0))

/-- 1 / sqrt x (R152 row 3). -/
def spRsq : Num → Num
  | .nan => .nan
  | .inf true => .nan
  | .inf false => .zero
  | .fin neg m e _ =>
    if m = 0 then .inf neg
    else if neg then .nan
    else
      let odd := decide (e % 2 ≠ 0)
      let m2 := if odd then 2 * m else m
      let e2 := if odd then e - 1 else e
      let q := 2 ^ 400 / m2
      let r := isqrtBits q 201 0
      .fin false r (-200 - e2 / 2) (decide (r * r * m2 ≠ 2 ^ 400))

/-- sin(pi x) (R152 row 4). An integer x gives a zero of x's sign; R152's "+0 if x >= +0" is read by the sign, so that -0
gives -0 (DEDUCED, log entry 96). -/
def spSin : Num → Num
  | .nan => .nan
  | .inf _ => .nan
  | .fin neg m e _ =>
    if m = 0 then .fin neg 0 0 false
    else if 0 ≤ e then .fin neg 0 0 false
    else
      let den := 2 ^ (-e).toNat
      let r2 := m % (2 * den)
      let s := decide (den ≤ r2)
      let r := if s then r2 - den else r2
      if r = 0 then .fin neg 0 0 false
      else
        let h := if den < 2 * r then den - r else r
        if 2 * h = den then .fin (neg ^^ s) 1 0 false
        else ofFix (neg ^^ s) (sinFix (h * piFix / den)) 0

/-- tanh x (R152 row 5). -/
def spTanh : Num → Num
  | .nan => .nan
  | .inf neg => .fin neg 1 0 false
  | .fin neg m e _ =>
    if m = 0 then .fin neg 0 0 false
    else if e + bitLen m ≤ -60 then .fin neg (m * 2 ^ 200 - 1) (e - 200) true
    else if 8 ≤ e + bitLen m then .fin neg (2 ^ 300 - 1) (-300) true
    else
      let z := 2 * toFix m e
      let n := z / ln2Fix
      let ex := expFix (z % ln2Fix) * 2 ^ n
      ofFix neg ((ex - spOne) * spOne / (ex + spOne)) 0

end Sys2Proof.Machine
end

