-- ==== Sys2Proof/Machine/Vector.lean ====
section
/-! DEFINITION. The vector ALU, special-function, unpack, pack and row load/store classes (spec 07), CMPTV
(spec 03 R65) and the virtual-only operations of Igpor (spec 19 R444). -/
namespace Sys2Proof.Machine

/-- The floating-point format of a TYPE; none for i32 (R34). -/
def typeFmt (t : BitVec 2) : Option FloatFmt :=
  match t.toNat with
  | 0 => some fmtF32
  | 1 => none
  | 2 => some fmtBf16
  | _ => some fmtF16
/-- Lane width in bits of a TYPE (R133). -/
def typeWidth (t : BitVec 2) : Nat := if t.toNat < 2 then 32 else 16
/-- The value of a lane (R111, R113). -/
def typeDecode (t : BitVec 2) (c : Nat) : Num :=
  match typeFmt t with
  | some f => f.decode c
  | none => Num.ofInt (decodeInt 32 true c)
/-- One rounding to a lane type; i32 is signed (R123). -/
def typeEncode (t : BitVec 2) (r : Rounding) (sat : Bool) (n : Num) : Nat × Flags :=
  match typeFmt t with
  | some f => f.encode r sat n
  | none => encodeInt 32 true r sat n

/-- Lane j of an image as a natural number. -/
def laneNat (w : Nat) (img : Image) (j : Nat) : Nat := img.toNat / 2 ^ (w * j) % 2 ^ w

/-- Lanes 0 to n-1 of w bits with the flags they raise. -/
def packLanes (w : Nat) (f : Nat → Nat × Flags) : Nat → Nat × Flags
  | 0 => (0, 0#6)
  | n + 1 =>
    let r := packLanes w f n
    let x := f n
    (r.1 + x.1 % 2 ^ w * 2 ^ (w * n), r.2 ||| x.2)
/-- An image of all lanes of a TYPE. -/
def typeLanes (t : BitVec 2) (f : Nat → Nat × Flags) : Image × Flags :=
  let r := packLanes (typeWidth t) f (lanesOf t)
  (BitVec.ofNat 1024 r.1, r.2)

/-- The scoreboard's hold on vector rows (R158, R196): a source row in a pending write region, or a
destination row in any pending region. -/
def Core.rowsWait (k : Core) (src dst : List Nat) : Bool :=
  k.regions.any (fun g => g.acc &&
    (dst.any (fun r => decide (g.first ≤ r) && decide (r ≤ g.last))
      || (g.write && src.any (fun r => decide (g.first ≤ r) && decide (r ≤ g.last)))))
/-- The same for scratchpad lines (R196). -/
def Core.lineWait (k : Core) (l : Nat) (write : Bool) : Bool :=
  k.regions.any (fun g => !g.acc && (g.write || write) && decide (g.first ≤ l) && decide (l ≤ g.last))

/-- The verdict of a vector slot: its rows under the scoreboard (R158). -/
def State.vecVerdict (s : State) (src : List Nat) (dst : List Nat) : Verdict :=
  let k := s.k
  if k.rowsWait (src.flatMap k.rowsOf) (dst.flatMap k.rowsOf) then .wait else .go

/-- A vector slot that writes one whole image (R138, R139). -/
def vecOp (lat : Nat) (p : BitVec 3) (reads : List Nat) (src : State → List Nat) (dst : State → Nat)
    (f : State → Image × Flags) (s : State) : Out :=
  slotMeaning p reads none false (fun s => s.vecVerdict (src s) [dst s])
    (fun s => s.putVec lat (dst s) allUnits (f s).1 (f s).2) s

/-- Note a slot that rounds stochastically (R125). -/
def State.noteStoch (s : State) : State := if s.rnd = 4#3 then s.updK (fun k => { k with stoch := true }) else s

/-- A vector slot that rounds, so that a stochastic one advances RNDSEED (R125). -/
def vecRound (lat : Nat) (p : BitVec 3) (src : State → List Nat) (dst : State → Nat) (mask : State → W32)
    (f : State → Image × Flags) (s : State) : Out :=
  slotMeaning p [] none false (fun s => s.vecVerdict (src s) [dst s])
    (fun s => (s.putVec lat (dst s) (mask s) (f s).1 (f s).2).noteStoch) s

/-! ### Arithmetic (R140) -/

/-- One lane of an arithmetic slot: exact on numbers, wrapping on i32. -/
def arithLane (t : BitVec 2) (r : Rounding) (fi : Nat → Nat → Nat → Int) (fn : Num → Num → Num → Num)
    (useC : Bool) (x y c : Nat) : Nat × Flags :=
  match typeFmt t with
  | none => ((fi x y c % 2 ^ 32).toNat, 0#6)
  | some f =>
    let a := f.decode x
    let b := f.decode y
    let z := f.decode c
    let n := fn a b z
    let e := f.encode r false n
    (e.1, e.2 ||| invFlag (if useC then [a, b, z] else [a, b]) n)

/-- A three-operand arithmetic slot. -/
def arithOp (lat : Nat) (fi : Nat → Nat → Nat → Int) (fn : Bool → Num → Num → Num → Num) (useC : Bool)
    (p : BitVec 3) (d a b : BitVec 7) (t : BitVec 2) (s : State) : Out :=
  vecRound lat p (fun s => [s.vA a, s.vB b] ++ (if useC then [s.vD d] else [])) (fun s => s.vD d)
    (fun _ => allUnits)
    (fun s =>
      let x := s.vec (s.vA a)
      let y := s.vec (s.vB b)
      let c := s.vec (s.vD d)
      let w := typeWidth t
      typeLanes t (fun j => arithLane t (s.rounding j) fi (fn s.rd) useC (laneNat w x j) (laneNat w y j) (laneNat w c j))) s

/-- VADD (R140). -/
def execVadd (p : BitVec 3) (d a b : BitVec 7) (t : BitVec 2) (s : State) : Out :=
  arithOp Config.latVA (fun x y _ => x + y) (fun rd x y _ => x.add rd y) false p d a b t s
/-- VSUB (R140). -/
def execVsub (p : BitVec 3) (d a b : BitVec 7) (t : BitVec 2) (s : State) : Out :=
  arithOp Config.latVA (fun x y _ => (x : Int) - y) (fun rd x y _ => x.add rd y.neg) false p d a b t s
/-- VMUL (R140). -/
def execVmul (p : BitVec 3) (d a b : BitVec 7) (t : BitVec 2) (s : State) : Out :=
  arithOp Config.latVA (fun x y _ => (x : Int) * y) (fun _ x y _ => x.mul y) false p d a b t s
/-- VFMA: x * y + vd, fused (R140). -/
def execVfma (p : BitVec 3) (d a b : BitVec 7) (t : BitVec 2) (s : State) : Out :=
  arithOp Config.latFMA (fun x y c => (x : Int) * y + c) (fun rd x y c => (x.mul y).add rd c) true p d a b t s
/-- VFMS: vd - x * y, fused (R140). -/
def execVfms (p : BitVec 3) (d a b : BitVec 7) (t : BitVec 2) (s : State) : Out :=
  arithOp Config.latFMA (fun x y c => (c : Int) - x * y) (fun rd x y c => c.add rd (x.mul y).neg) true p d a b t s

/-! ### Maximum and minimum (R141) -/

/-- The greater or lesser of two lanes; a NaN lane gives the canonical NaN and no flag. -/
def maxLane (big : Bool) (t : BitVec 2) (x y : Nat) : Nat :=
  match typeFmt t with
  | none =>
    let less := decide (decodeInt 32 true x < decodeInt 32 true y)
    if big then (if less then y else x) else (if less then x else y)
  | some f =>
    let a := f.decode x
    let b := f.decode y
    if a.isNan || b.isNan then f.nanCode
    else if big then (if a.cmp true b < 0 then y else x) else (if b.cmp true a < 0 then y else x)
/-- VMAX and VMIN. -/
def maxOp (big : Bool) (p : BitVec 3) (d a b : BitVec 7) (t : BitVec 2) (s : State) : Out :=
  vecOp Config.latVA p [] (fun s => [s.vA a, s.vB b]) (fun s => s.vD d)
    (fun s =>
      let x := s.vec (s.vA a)
      let y := s.vec (s.vB b)
      let w := typeWidth t
      typeLanes t (fun j => (maxLane big t (laneNat w x j) (laneNat w y j), 0#6))) s
/-- VMAX (R141). -/
def execVmax (p : BitVec 3) (d a b : BitVec 7) (t : BitVec 2) (s : State) : Out := maxOp true p d a b t s
/-- VMIN (R141). -/
def execVmin (p : BitVec 3) (d a b : BitVec 7) (t : BitVec 2) (s : State) : Out := maxOp false p d a b t s

/-! ### Bits, shifts, comparison, selection, permutation -/

/-- A bitwise operation on whole images (R142). -/
def bitOp (f : Image → Image → Image) (p : BitVec 3) (d a b : BitVec 7) (s : State) : Out :=
  vecOp Config.latVA p [] (fun s => [s.vA a, s.vB b]) (fun s => s.vD d)
    (fun s => (f (s.vec (s.vA a)) (s.vec (s.vB b)), 0#6)) s
/-- VAND (R142). -/
def execVand (p : BitVec 3) (d a b : BitVec 7) (s : State) : Out := bitOp (· &&& ·) p d a b s
/-- VOR (R142). -/
def execVor (p : BitVec 3) (d a b : BitVec 7) (s : State) : Out := bitOp (· ||| ·) p d a b s
/-- VXOR (R142). -/
def execVxor (p : BitVec 3) (d a b : BitVec 7) (s : State) : Out := bitOp (· ^^^ ·) p d a b s

/-- A shift of 32-bit lanes by bits 4:0 of the lanes of vb (R143). -/
def shiftOp (f : W32 → Nat → W32) (p : BitVec 3) (d a b : BitVec 7) (s : State) : Out :=
  vecOp Config.latVA p [] (fun s => [s.vA a, s.vB b]) (fun s => s.vD d)
    (fun s => (lanesImage 32 (fun u => f (unitOf (s.vec (s.vA a)) u) ((unitOf (s.vec (s.vB b)) u).toNat % 32)), 0#6)) s
/-- VSHL (R143). -/
def execVshl (p : BitVec 3) (d a b : BitVec 7) (s : State) : Out := shiftOp (fun x n => x <<< n) p d a b s
/-- VSHR (R143). -/
def execVshr (p : BitVec 3) (d a b : BitVec 7) (s : State) : Out := shiftOp (fun x n => x >>> n) p d a b s
/-- VSAR (R143). -/
def execVsar (p : BitVec 3) (d a b : BitVec 7) (s : State) : Out := shiftOp (fun x n => x.sshiftRight n) p d a b s

/-- A lane comparison: 0 EQ, 1 NE, 2 LT, 3 LE; a NaN makes NE alone true (R144). -/
def cmpLane (c : Nat) (t : BitVec 2) (x y : Nat) : Bool :=
  let a := typeDecode t x
  let b := typeDecode t y
  if a.isNan || b.isNan then decide (c = 1)
  else
    let v := a.cmp false b
    match c with
    | 0 => decide (v = 0)
    | 1 => decide (v ≠ 0)
    | 2 => decide (v < 0)
    | _ => decide (v ≤ 0)
/-- VCMP writes a mask row (R144). -/
def execVcmp (p : BitVec 3) (c : BitVec 2) (d : BitVec 5) (a b : BitVec 7) (t : BitVec 2) (s : State) : Out :=
  vecOp Config.latVA p [] (fun s => [s.vA a, s.vB b]) (fun s => s.vRow d)
    (fun s =>
      let x := s.vec (s.vA a)
      let y := s.vec (s.vB b)
      let w := typeWidth t
      typeLanes t (fun j => (if cmpLane c.toNat t (laneNat w x j) (laneNat w y j) then 2 ^ w - 1 else 0, 0#6))) s
/-- VSEL selects by the mask in its destination (R145). -/
def execVsel (p : BitVec 3) (d a b : BitVec 7) (t : BitVec 2) (s : State) : Out :=
  vecOp Config.latVA p [] (fun s => [s.vA a, s.vB b, s.vD d]) (fun s => s.vD d)
    (fun s =>
      let x := s.vec (s.vA a)
      let y := s.vec (s.vB b)
      let m := s.vec (s.vD d)
      let w := typeWidth t
      typeLanes t (fun j => (if laneNat w m j ≠ 0 then laneNat w x j else laneNat w y j, 0#6))) s
/-- VSHF permutes lanes by index; a negative index gives zero (R146). -/
def execVshf (p : BitVec 3) (d a b : BitVec 7) (t : BitVec 2) (s : State) : Out :=
  vecOp Config.latVA p [] (fun s => [s.vA a, s.vB b]) (fun s => s.vD d)
    (fun s =>
      let x := s.vec (s.vA a)
      let y := s.vec (s.vB b)
      let w := typeWidth t
      typeLanes t (fun j =>
        let i := laneNat w y j
        (if 2 ^ (w - 1) ≤ i then 0 else laneNat w x (i % lanesOf t), 0#6))) s
/-- VROTL moves lane j to lane j + n (R147). -/
def execVrotl (p : BitVec 3) (d a n : BitVec 7) (t : BitVec 2) (s : State) : Out :=
  vecOp Config.latVA p [] (fun s => [s.vA a]) (fun s => s.vD d)
    (fun s =>
      let x := s.vec (s.vA a)
      let l := lanesOf t
      typeLanes t (fun j => (laneNat (typeWidth t) x ((j + l - n.toNat % l) % l), 0#6))) s

/-! ### Unary forms (R148) -/

/-- A unary slot, lane by lane. -/
def unOp (f : Nat → Nat) (p : BitVec 3) (d a : BitVec 7) (t : BitVec 2) (s : State) : Out :=
  vecOp Config.latVA p [] (fun s => [s.vA a]) (fun s => s.vD d)
    (fun s =>
      let x := s.vec (s.vA a)
      typeLanes t (fun j => (f (laneNat (typeWidth t) x j), 0#6))) s
/-- VMOV (R148). -/
def execVmov (p : BitVec 3) (d a : BitVec 7) (t : BitVec 2) (s : State) : Out := unOp id p d a t s
/-- The absolute value of a lane (R148). -/
def absLane (t : BitVec 2) (x : Nat) : Nat :=
  match typeFmt t with
  | none => if 2 ^ 31 ≤ x then (2 ^ 32 - x) % 2 ^ 32 else x
  | some f => if (f.decode x).isNan then f.nanCode else x % 2 ^ (f.eb + f.mb)
/-- The opposite of a lane (R148). -/
def negLane (t : BitVec 2) (x : Nat) : Nat :=
  match typeFmt t with
  | none => (2 ^ 32 - x) % 2 ^ 32
  | some f => if (f.decode x).isNan then f.nanCode else (x + 2 ^ (f.eb + f.mb)) % 2 ^ f.width
/-- VABS (R148). -/
def execVabs (p : BitVec 3) (d a : BitVec 7) (t : BitVec 2) (s : State) : Out := unOp (absLane t) p d a t s
/-- VNEG (R148). -/
def execVneg (p : BitVec 3) (d a : BitVec 7) (t : BitVec 2) (s : State) : Out := unOp (negLane t) p d a t s
/-- VIOTA (R148). -/
def execViota (p : BitVec 3) (d : BitVec 7) (t : BitVec 2) (s : State) : Out :=
  vecOp Config.latVA p [] (fun _ => []) (fun s => s.vD d)
    (fun _ => typeLanes t (fun j => ((typeEncode t rne false (Num.ofInt j)).1, 0#6))) s
/-- VCLR (R148). -/
def execVclr (p : BitVec 3) (d : BitVec 7) (s : State) : Out :=
  vecOp Config.latVA p [] (fun _ => []) (fun s => s.vD d) (fun _ => (0, 0#6)) s

/-! ### Scalars and lanes (R149) -/

/-- VBC (R149). -/
def execVbc (p : BitVec 3) (d : BitVec 7) (r : BitVec 6) (t : BitVec 2) (s : State) : Out :=
  vecOp Config.latVA p [s.rA r] (fun _ => []) (fun s => s.vD d)
    (fun s => typeLanes t (fun _ => ((s.reg (s.rA r)).toNat, 0#6))) s
/-- VXT: an i32 lane sign-extended, any other zero-extended (R149). -/
def execVxt (p : BitVec 3) (v : BitVec 7) (d l : BitVec 6) (t : BitVec 2) (s : State) : Out :=
  slotMeaning p [] (some (s.rA d)) false (fun s => s.vecVerdict [s.vD v] [])
    (fun s =>
      let x := laneNat (typeWidth t) (s.vec (s.vD v)) l.toNat
      s.putScalar Config.latVA (s.rA d)
        (if t = 1#2 then (BitVec.ofNat 32 x).signExtend 64 else BitVec.ofNat 64 x)) s
/-- VINS writes one lane's whole unit (R149). -/
def execVins (p : BitVec 3) (v : BitVec 7) (r l : BitVec 6) (t : BitVec 2) (s : State) : Out :=
  slotMeaning p [s.rA r] none false (fun s => s.vecVerdict [s.vD v] [s.vD v])
    (fun s =>
      let w := typeWidth t
      let u := l.toNat * w / 32
      let old := s.vec (s.vD v)
      let img := (typeLanes t (fun j => (if j = l.toNat then (s.reg (s.rA r)).toNat else laneNat w old j, 0#6))).1
      s.putVec Config.latVA (s.vD v) (1#32 <<< u) img 0#6) s

/-! ### Reductions (R150) -/

/-- Reduce all lanes to one value and write it to every lane. -/
def redOp (p : BitVec 3) (d a : BitVec 7) (t : BitVec 2) (f : State → List Nat → Nat × Flags) (s : State) : Out :=
  vecRound Config.latFMA p (fun s => [s.vA a]) (fun s => s.vD d) (fun _ => allUnits)
    (fun s =>
      let x := s.vec (s.vA a)
      let r := f s ((List.range (lanesOf t)).map (laneNat (typeWidth t) x))
      ((typeLanes t (fun _ => (r.1, 0#6))).1, r.2)) s
/-- VRED.SUM: the exact sum rounded once with lane 0's random word (R150). -/
def execVredSum (p : BitVec 3) (d a : BitVec 7) (t : BitVec 2) (s : State) : Out :=
  redOp p d a t (fun s xs =>
    match typeFmt t with
    | none => (xs.foldl (· + ·) 0 % 2 ^ 32, 0#6)
    | some f =>
      let ns := xs.map f.decode
      let n := Num.sum s.rd ns
      let e := f.encode (s.rounding 0) false n
      (e.1, e.2 ||| invFlag ns n)) s
/-- A maximum or minimum over lanes. -/
def foldMax (big : Bool) (t : BitVec 2) : List Nat → Nat
  | [] => 0
  | x :: r => r.foldl (maxLane big t) (maxLane big t x x)
/-- VRED.MAX (R150). -/
def execVredMax (p : BitVec 3) (d a : BitVec 7) (t : BitVec 2) (s : State) : Out :=
  redOp p d a t (fun _ xs => (foldMax true t xs, 0#6)) s
/-- VRED.MIN (R150). -/
def execVredMin (p : BitVec 3) (d a : BitVec 7) (t : BitVec 2) (s : State) : Out :=
  redOp p d a t (fun _ xs => (foldMax false t xs, 0#6)) s

/-! ### Conversion (R151) -/

/-- Lane i of va converted to a destination lane type; j is the source lane whose word it draws. -/
def cvtImage (s : State) (x : Image) (off : Nat) (e t : BitVec 2) : Image × Flags :=
  let ws := typeWidth t
  let wd := typeWidth e
  let n := if ws = wd then lanesOf t else 32
  let r := packLanes wd (fun j =>
    typeEncode e (s.rounding (j + off)) s.sat (typeDecode t (laneNat ws x (j + off)))) n
  (BitVec.ofNat 1024 r.1, r.2)
/-- VCVT (R151). -/
def execVcvt (p : BitVec 3) (d a : BitVec 7) (e t : BitVec 2) (s : State) : Out :=
  vecRound Config.latVA p (fun s => [s.vA a]) (fun s => s.vD d) (fun _ => allUnits)
    (fun s => cvtImage s (s.vec (s.vA a)) 0 e t) s

/-- CMPTV: the first differing unit and its lane (R65). -/
def firstDiff (x y : Image) : Option Nat := (List.range 32).find? (fun u => unitOf x u != unitOf y u)
/-- CMPTV (R65). -/
def execCmptv (p : BitVec 3) (a b : BitVec 7) (t : BitVec 2) (s : State) : Out :=
  slotMeaning p [] none false
    (fun s =>
      let x := s.vec (s.vA a)
      let y := s.vec (s.vB b)
      match s.vecVerdict [s.vA a, s.vB b] [] with
      | .wait => .wait
      | _ => match firstDiff x y with
        | none => .go
        | some u => .trap 3 2 0
            (if t.toNat < 2 then u else if laneNat 16 x (2 * u) ≠ laneNat 16 y (2 * u) then 2 * u else 2 * u + 1) 0)
    id s

/-! ### Special functions (R152) -/

/-- A special-function slot: the exact value rounded once; INV where a value that is no NaN gives NaN. -/
def sfOp (g : Num → Num) (p : BitVec 3) (d a : BitVec 7) (t : BitVec 2) (s : State) : Out :=
  vecRound Config.latSF p (fun s => [s.vA a]) (fun s => s.vD d) (fun _ => allUnits)
    (fun s =>
      let x := s.vec (s.vA a)
      typeLanes t (fun j =>
        let n := typeDecode t (laneNat (typeWidth t) x j)
        let e := typeEncode t (s.rounding j) false (g n)
        (e.1, e.2 ||| invFlag [n] (g n)))) s
/-- VEXP2 (R152). -/
def execVexp2 (p : BitVec 3) (d a : BitVec 7) (t : BitVec 2) (s : State) : Out := sfOp spExp2 p d a t s
/-- VLOG2 (R152). -/
def execVlog2 (p : BitVec 3) (d a : BitVec 7) (t : BitVec 2) (s : State) : Out := sfOp spLog2 p d a t s
/-- VRCP (R152). -/
def execVrcp (p : BitVec 3) (d a : BitVec 7) (t : BitVec 2) (s : State) : Out := sfOp spRcp p d a t s
/-- VRSQ (R152). -/
def execVrsq (p : BitVec 3) (d a : BitVec 7) (t : BitVec 2) (s : State) : Out := sfOp spRsq p d a t s
/-- VSIN (R152). -/
def execVsin (p : BitVec 3) (d a : BitVec 7) (t : BitVec 2) (s : State) : Out := sfOp spSin p d a t s
/-- VTANH (R152). -/
def execVtanh (p : BitVec 3) (d a : BitVec 7) (t : BitVec 2) (s : State) : Out := sfOp spTanh p d a t s

/-! ### Unpack, pack and block scale (R153-R156) -/

/-- The element format of a narrow-format code (R33); none for Q4X. -/
def narrowElem (f : Nat) : Option Elem :=
  match f with
  | 0 => some (.float fmtE4m3)
  | 1 => some (.float fmtE5m2)
  | 2 => some (.float fmtE3m2)
  | 3 => some (.float fmtE2m3)
  | 4 => some (.float fmtE2m1)
  | 5 => some (.int 8 true)
  | 6 => some (.int 8 false)
  | 7 => some (.int 4 true)
  | _ => none
/-- Part size in bytes (R153). -/
def partSize (f : BitVec 4) (t : BitVec 2) : Nat :=
  let two := if lanesOf t = 64 then 2 else 1
  match f.toNat with
  | 2 => 24 * two
  | 3 => 24 * two
  | 4 => 16 * two
  | 7 => 16 * two
  | 8 => 20 * two
  | _ => 32 * two
/-- The first bit of element j of a part of w-bit elements: 6-bit elements go four to three bytes (R114). -/
def elemBit (w j : Nat) : Nat := w * j

/-- The values of a Q4X block of 20 bytes in the inline layout, with Q4XO and SCLB (R115, R120), and INV where zero
times an infinite scale gives NaN (R127, R129). -/
def q4xBlock (blk : Nat) : List Num × Flags :=
  let r := q4xDecode (fun j => blk / 2 ^ (32 + 4 * j) % 16) (fun i => blk / 2 ^ (4 * i) % 16)
  let sc := fmtBf16.decode (blk / 2 ^ 16 % 2 ^ 16)
  (r.1.map (fun n => n.mul sc),
    r.1.foldl (fun f n => f ||| invFlag [n, sc] (n.mul sc))
      ((if r.2 then flagQ4XO else 0#6) ||| (if scaleBad sc then flagSCLB else 0#6)))

/-- VUNPK's image (R154). -/
def unpackImage (x : Image) (f : BitVec 4) (k : BitVec 3) (t : BitVec 2) : Image × Flags :=
  let base := x.toNat / 2 ^ (8 * (k.toNat * partSize f t))
  match narrowElem f.toNat with
  | some el => typeLanes t (fun j => typeEncode t rne false (el.decode (base / 2 ^ elemBit el.width j % 2 ^ el.width)))
  | none =>
    let b0 := q4xBlock base
    let b1 := q4xBlock (base / 2 ^ 160)
    let r := typeLanes t (fun j =>
      typeEncode t rne false ((if j < 32 then b0.1 else b1.1).getD (j % 32) .zero))
    (r.1, r.2 ||| b0.2 ||| (if lanesOf t = 64 then b1.2 else 0#6))
/-- VUNPK (R154). -/
def execVunpk (p : BitVec 3) (d a : BitVec 7) (f : BitVec 4) (k : BitVec 3) (t : BitVec 2) (s : State) : Out :=
  vecOp Config.latPK p [] (fun s => [s.vA a]) (fun s => s.vD d) (fun s => unpackImage (s.vec (s.vA a)) f k t) s

/-- A Q4X code: an integer rounded and clamped to -7..+7; NaN gives 0 and INV (R155). -/
def q4xCode (r : Rounding) (n : Num) : Nat × Flags :=
  match n with
  | .nan => (0, flagINV)
  | .inf neg => (if neg then 9 else 7, flagOVF ||| flagNXT)
  | .fin neg m e st =>
    let q := roundTo r neg m e st 0
    if 7 < q.1 then (if neg then 9 else 7, flagOVF ||| flagNXT)
    else ((if neg then (16 - q.1) % 16 else q.1), if q.2 then flagNXT else 0#6)
/-- One lane narrowed (R128, R155). -/
def packLane (f : BitVec 4) (r : Rounding) (sat : Bool) (n : Num) : Nat × Flags :=
  match narrowElem f.toNat with
  | some (.float g) => g.encode r sat n
  | some (.int w sg) => encodeInt w sg r sat n
  | _ => q4xCode r n
/-- The bits of a part written by VPACK (R155). -/
def packPart (s : State) (x : Image) (f : BitVec 4) (t : BitVec 2) : Nat × Flags :=
  let lane := fun j => packLane f (s.rounding j) s.sat (typeDecode t (laneNat (typeWidth t) x j))
  match narrowElem f.toNat with
  | some el => packLanes el.width lane (lanesOf t)
  | none =>
    let r0 := packLanes 4 lane 32
    let r1 := packLanes 4 (fun j => lane (j + 32)) 32
    let w0 := 0x3F800000 + r0.1 * 2 ^ 32
    if lanesOf t = 64 then (w0 + (0x3F800000 + r1.1 * 2 ^ 32) * 2 ^ 160, r0.2 ||| r1.2) else (w0, r0.2)
/-- VPACK writes the units of one part (R155). -/
def execVpack (p : BitVec 3) (d a : BitVec 7) (f : BitVec 4) (k : BitVec 3) (t : BitVec 2) (s : State) : Out :=
  vecRound Config.latPK p (fun s => [s.vA a, s.vD d]) (fun s => s.vD d)
    (fun _ =>
      let n := partSize f t / 4
      BitVec.ofNat 32 ((2 ^ n - 1) * 2 ^ (n * k.toNat)))
    (fun s =>
      let r := packPart s (s.vec (s.vA a)) f t
      (BitVec.ofNat 1024 (r.1 * 2 ^ (8 * (k.toNat * partSize f t))), r.2)) s
/-- VBSCL multiplies each lane by its unit's binary32 scale (R156). -/
def execVbscl (p : BitVec 3) (d a b : BitVec 7) (t : BitVec 2) (s : State) : Out :=
  vecRound Config.latPK p (fun s => [s.vA a, s.vB b]) (fun s => s.vD d) (fun _ => allUnits)
    (fun s =>
      let x := s.vec (s.vA a)
      let y := s.vec (s.vB b)
      let w := typeWidth t
      typeLanes t (fun j =>
        let v := typeDecode t (laneNat w x j)
        let sc := fmtF32.decode (unitOf y (j * w / 32)).toNat
        let n := v.mul sc
        let e := typeEncode t (s.rounding j) false n
        (e.1, e.2 ||| invFlag [v, sc] n ||| (if scaleBad sc then flagSCLB else 0#6)))) s

/-! ### Row loads and stores (R157) -/

/-- The scratchpad line of a row transfer (R157). -/
def State.vmemLine (s : State) (a : BitVec 6) (o : BitVec 8) : Nat :=
  (s.reg (s.rA a) + BitVec.ofInt 64 (128 * immS s.cur.kind s.cur.x o)).toNat % 2 ^ 19 / 128

/-- The verdict of a core slot's scratchpad access: the bank (R198), an uncorrectable error (R203), the
scoreboard (R196). -/
def State.spmVerdict (s : State) (line : Nat) (write : Bool) : Verdict :=
  let k := s.k
  match Sparse.get BankState.released (line / 256) k.banks with
  | .released => trapV 9 4
  | .releasing => trapV 9 4
  | .preloading => .wait
  | .held =>
    if k.lineWait line write then .wait
    else if !write && (Sparse.get {} line k.spm).bad && decide ((Sparse.get {} line k.spm).hm = s.gen) then
      .trap 8 0 0 0 (BitVec.ofNat 64 (line * 128))
    else .go
/-- Two waits or traps of one slot: a trap goes first. -/
def Verdict.also (a b : Verdict) : Verdict :=
  match a, b with
  | .trap c u d l x, _ => .trap c u d l x
  | _, .trap c u d l x => .trap c u d l x
  | .go, y => y
  | x, _ => x

/-- VLD and VLDS (R157). -/
def vloadOp (p : BitVec 3) (v : BitVec 7) (a : BitVec 6) (o : BitVec 8) (s : State) : Out :=
  slotMeaning p [s.rA a] none false
    (fun s => (s.spmVerdict (s.vmemLine a o) false).also (s.vecVerdict [] [s.vD v]))
    (fun s => s.putVec Config.latLS (s.vD v) allUnits ((Sparse.get {} (s.vmemLine a o) s.k.spm).read s.gen) 0#6) s
/-- VST and VSTS: the line is visible from the next virtual cycle (R60, R157). -/
def vstoreOp (p : BitVec 3) (v : BitVec 7) (a : BitVec 6) (o : BitVec 8) (s : State) : Out :=
  slotMeaning p [s.rA a] none false
    (fun s => (s.spmVerdict (s.vmemLine a o) true).also (s.vecVerdict [s.vD v] []))
    (fun s => s.updK (fun k => { k with nextVc := k.nextVc ++ [.line (s.vmemLine a o) (s.vec (s.vD v)) s.gen] })) s
/-- VLD (R157). -/
def execVld (p : BitVec 3) (v : BitVec 7) (a : BitVec 6) (o : BitVec 8) (s : State) : Out := vloadOp p v a o s
/-- VST (R157). -/
def execVst (p : BitVec 3) (v : BitVec 7) (a : BitVec 6) (o : BitVec 8) (s : State) : Out := vstoreOp p v a o s
/-- VLDS (R157). -/
def execVlds (p : BitVec 3) (v : BitVec 7) (a : BitVec 6) (o : BitVec 8) (s : State) : Out := vloadOp p v a o s
/-- VSTS (R157). -/
def execVsts (p : BitVec 3) (v : BitVec 7) (a : BitVec 6) (o : BitVec 8) (s : State) : Out := vstoreOp p v a o s

/-! ### Virtual-only operations of Igpor (R444) -/

/-- VDOT: pair products rounded to f32, paired sums rounded to f32, their sum rounded once. -/
def dotValue (t : BitVec 2) (x y : Image) : Nat × Flags :=
  let w := typeWidth t
  let num := fun (i : Image) j => typeDecode t (laneNat w i j)
  let step := fun j =>
    let a := num x j
    let b := num y j
    let pr := a.mul b
    let pe := fmtF32.encode rne false pr
    let c := num x (j + 32)
    let d := num y (j + 32)
    let q := (c.mul d).add false (fmtF32.decode pe.1)
    let qe := fmtF32.encode rne false q
    (qe.1, pe.2 ||| qe.2 ||| invFlag [a, b] pr ||| invFlag [c, d, fmtF32.decode pe.1] q)
  let qs := (List.range 32).map step
  let ns := qs.map (fun q => fmtF32.decode q.1)
  let n := Num.sum false ns
  let e := fmtF32.encode rne false n
  (e.1, qs.foldl (fun f q => f ||| q.2) (e.2 ||| invFlag ns n))
/-- VDOT (R444): every f32 unit of vd. -/
def execVdot (p : BitVec 3) (d a b : BitVec 7) (t : BitVec 2) (s : State) : Out :=
  vecOp Config.latALU p [] (fun s => [s.vA a, s.vB b]) (fun s => s.vD d)
    (fun s =>
      let r := dotValue t (s.vec (s.vA a)) (s.vec (s.vB b))
      ((typeLanes 0#2 (fun _ => (r.1, 0#6))).1, r.2)) s
/-- VABD: |rnd(a - b)| (R444). -/
def execVabd (p : BitVec 3) (d : BitVec 5) (a b : BitVec 7) (t : BitVec 2) (s : State) : Out :=
  vecOp Config.latALU p [] (fun s => [s.vA a, s.vB b]) (fun s => s.vRow d)
    (fun s =>
      let x := s.vec (s.vA a)
      let y := s.vec (s.vB b)
      let w := typeWidth t
      typeLanes t (fun j =>
        let r := arithLane t rne (fun x y _ => (x : Int) - y) (fun x y _ => x.add false y.neg) false
          (laneNat w x j) (laneNat w y j) 0
        (absLane t r.1, r.2))) s
/-- VCLMP: min(max(d, a), b) (R444). -/
def execVclmp (p : BitVec 3) (d : BitVec 5) (a b : BitVec 7) (t : BitVec 2) (s : State) : Out :=
  vecOp Config.latALU p [] (fun s => [s.vA a, s.vB b]) (fun s => s.vRow d)
    (fun s =>
      let x := s.vec (s.vA a)
      let y := s.vec (s.vB b)
      let z := s.vec (s.vRow d)
      let w := typeWidth t
      typeLanes t (fun j => (maxLane false t (maxLane true t (laneNat w z j) (laneNat w x j)) (laneNat w y j), 0#6))) s
/-- VCVTH converts lanes 32-63 (R444). -/
def execVcvth (p : BitVec 3) (d a : BitVec 7) (e t : BitVec 2) (s : State) : Out :=
  vecOp Config.latALU p [] (fun s => [s.vA a]) (fun s => s.vD d)
    (fun s => cvtImage s (s.vec (s.vA a)) 32 e t) s
/-- VSCL: d times a scalar, rounded once (R444). -/
def execVscl (p : BitVec 3) (d : BitVec 7) (r : BitVec 6) (t : BitVec 2) (s : State) : Out :=
  vecOp Config.latALU p [s.rA r] (fun s => [s.vD d]) (fun s => s.vD d)
    (fun s =>
      let x := s.vec (s.vD d)
      let w := typeWidth t
      typeLanes t (fun j => arithLane t rne (fun x y _ => (x : Int) * y) (fun x y _ => x.mul y) false
        (laneNat w x j) ((s.reg (s.rA r)).toNat % 2 ^ w) 0)) s

end Sys2Proof.Machine
end

