-- ==== Sys2Proof/Machine/Microcode.lean ====
section
/-! DEFINITION. The matrix engine's stores: parameter registers, the microprogram store with its ROM library, the
routine table (spec 11 R240-R244, R270), and the calls that wait (R192, R197). -/
namespace Sys2Proof.Machine

/-! ### Parameters and the microprogram store -/

/-- Parameter register n to a reader of generation g (R240). -/
def Core.param (k : Core) (g : Hm) (n : Nat) : W64 :=
  let r := Sparse.get {} n k.mparams
  if r.hm = g then r.val else 0
/-- The words of ROM routine n, from word 8 n on (R243: the placement is not visible; R270). -/
def romRoutine (n : Nat) : List W64 :=
  let zero : W64 := 0x1000000000000000
  let zeroLd : W64 := 0x1B00000000000000
  let mma : W64 := 0x2028000180000000
  let mmaSp : W64 := 0x202B000580000000
  let mmaUa : W64 := 0x2028000380000000
  let unf : W64 := 0x36E0000000000000
  let drain : W64 := 0x4300000000000000
  let drainDf (df : Nat) : W64 := drain + BitVec.ofNat 64 (6 * 2 ^ 53 + 2 ^ 52 + df * 2 ^ 49)
  let end_ : W64 := 0x9000000000000000
  let loop6 : W64 := 0x6600000000000000
  let adv (pd : Nat) : W64 := BitVec.ofNat 64 (5 * 2 ^ 60 + pd * 2 ^ 56 + 7 * 2 ^ 53 + 2 ^ 52)
  let endl : W64 := 0x7000000000000000
  match n with
  | 0 => [zero, mma, drain, end_]
  | 1 => [zero, mma, drainDf 1, end_]
  | 2 => [zero, mma, drainDf 2, end_]
  | 3 => [zeroLd, mma, drain, end_]
  | 4 => [zero, mma, drainDf 3, end_]
  | 5 => [zero, mma, drainDf 4, end_]
  | 6 => [zero, mmaSp, drain, end_]
  | 7 => [zero, unf, mmaUa, drain, end_]
  | 8 => [zeroLd, unf, mmaUa, drain, end_]
  | 9 => [zero, loop6, mma, adv 0, adv 1, endl, drain, end_]
  | 10 => [zero, loop6, mma, adv 0, adv 1, endl, drain + BitVec.ofNat 64 (2 ^ 49), end_]
  | _ => []
/-- Word w of the microprogram store to generation g: ROM words to all, a stale user word as zero (R243). -/
def Core.microWord (k : Core) (g : Hm) (w : Nat) : W64 :=
  if w < 128 then (romRoutine (w / 8)).getD (w % 8) 0
  else
    let r := Sparse.get {} w k.uwords
    if r.hm = g then r.val else 0
/-- Routine entry n, 0 where empty (R244). -/
def Core.routine (k : Core) (g : Hm) (n : Nat) : Option W64 :=
  if n < 16 then
    (if n ≤ 10 then some (BitVec.ofNat 64 (3 * 2 ^ 16 + ((romRoutine n).length - 1) * 2 ^ 8 + 8 * n)) else none)
  else
    let r := Sparse.get {} n k.uents
    if r.hm = g && decide (r.val ≠ 0) then some r.val else none

/-- A byte of scratchpad to generation g; the address modulo 2^19 (R181, R182). -/
def Core.spmByte (k : Core) (g : Hm) (a : Nat) : Nat :=
  ((Sparse.get {} (a % 2 ^ 19 / 128) k.spm).read g).toNat / 2 ^ (8 * (a % 128)) % 256
/-- n bytes of scratchpad, little-endian. -/
def Core.spmBytes (k : Core) (g : Hm) (a : Nat) : Nat → Nat
  | 0 => 0
  | n + 1 => k.spmByte g a + 256 * Core.spmBytes k g (a + 1) n

/-- The head call of the queue (R239). -/
def Core.headCall (k : Core) : Option Call := k.calls.head?
/-- Does a call that has started and not ended name the handle as an input (R192)? A call that R203 has cancelled, and that
waits to run again, keeps its inputs. -/
def Core.callHolds (k : Core) (h : Nat) : Bool := k.calls.any (fun c => c.inputs.contains h)

end Sys2Proof.Machine
end

