-- ==== Sys2Proof/Machine/Handles.lean ====
section
/-! DEFINITION. Scratchpad accesses, buffer handles, the scoreboard, banks and legacy barriers (spec 09), and
UIEN (spec 05 R105). -/
namespace Sys2Proof.Machine

/-! ### SPLD and SPST (R184) -/

/-- The effective address: modulo 2^19, rounded down to the access size. -/
def State.spmAddr (s : State) (a : BitVec 6) (o : BitVec 5) (z : BitVec 2) : Nat :=
  let size : Nat := 2 ^ z.toNat
  let ea := (s.reg (s.rA a) + BitVec.ofInt 64 ((size : Int) * immS s.cur.kind s.cur.x o)).toNat % 2 ^ 19
  ea - ea % size
/-- SPLD zero-extends (R184). -/
def execSpld (p : BitVec 3) (d a : BitVec 6) (o : BitVec 5) (z : BitVec 2) (s : State) : Out :=
  slotMeaning p [s.rA a] (some (s.rD d)) false
    (fun s => s.spmVerdict (s.spmAddr a o z / 128) false)
    (fun s =>
      let ea := s.spmAddr a o z
      let img := (Sparse.get {} (ea / 128) s.k.spm).read s.gen
      s.putScalar Config.latLS (s.rD d)
        (BitVec.ofNat 64 (img.toNat / 2 ^ (8 * (ea % 128)) % 2 ^ (8 * 2 ^ z.toNat)))) s
/-- SPST: visible from the next virtual cycle (R60, R184). -/
def execSpst (p : BitVec 3) (d a : BitVec 6) (o : BitVec 5) (z : BitVec 2) (s : State) : Out :=
  slotMeaning p [s.rA a, s.rD d] none false
    (fun s => s.spmVerdict (s.spmAddr a o z / 128) true)
    (fun s => s.updK (fun k => { k with nextVc := k.nextVc ++
      [.spm (s.spmAddr a o z) (2 ^ z.toNat) (s.reg (s.rD d)) s.gen] })) s

/-! ### Handles -/

/-- Handle h as generation g reads it: FREE with every field zero where stale (R186). -/
def Core.handle (k : Core) (g : Hm) (h : Nat) : Handle :=
  let x := Sparse.get {} h k.handles
  if x.hm = g then x else { hm := g }
/-- The number of a handle's state (R185). -/
def HState.code : HState → Nat
  | .free => 0
  | .filling => 1
  | .full => 2
  | .draining => 3
  | .error => 4
/-- The record of a handle (R185). -/
def Core.handleRecord (k : Core) (g : Hm) (h : Nat) : W64 :=
  let x := k.handle g h
  BitVec.ofNat 64 (x.exp * 2 ^ 44 + x.cnt * 2 ^ 24 + x.fmt.toNat * 2 ^ 18 + x.geo.toNat * 2 ^ 15
    + (if x.phase then 2 ^ 14 else 0)
    + (if k.armed.getLsbD h && decide ((Sparse.get {} h k.handles).hm = g) then 2 ^ 13 else 0)
    + (if x.refetch then 2 ^ 12 else 0) + x.fcode.toNat * 16 + x.st.code)
/-! ### Regions, banks and the copies counter (R196, R198-R200, R229) -/

/-- Does a region touch bank b? -/
def Core.bankBusy (k : Core) (b : Nat) : Bool :=
  k.regions.any (fun g => !g.acc && decide (g.first / 256 ≤ b) && decide (b ≤ g.last / 256))
/-- Release one HELD bank (R199). -/
def Core.releaseBank (k : Core) (b : Nat) : Core :=
  if Sparse.get BankState.released b k.banks = .held then
    { k with banks := Sparse.put .released b (if k.bankBusy b then .releasing else .released) k.banks }
  else k
/-- Release the banks of a mask (R199). -/
def Core.releaseBanks (k : Core) (m : BitVec 16) : Core :=
  (List.range 16).foldl (fun k b => if m.getLsbD b then k.releaseBank b else k) k
/-- Banks whose release waited on regions become RELEASED once none touches them (R199). -/
def Core.settleBanks (k : Core) : Core :=
  (List.range 16).foldl (fun k b =>
    if Sparse.get BankState.released b k.banks = .releasing && !k.bankBusy b then
      { k with banks := Sparse.put .released b .released k.banks }
    else k) k
/-- Release the regions of an engine operation (R196). -/
def Core.releaseRegions (k : Core) (f : Region → Bool) : Core :=
  { k with regions := k.regions.filter (fun g => !f g) }.settleBanks
/-- The copy of an engine operation. -/
def Core.copy (k : Core) (id : Nat) : Option Copy := k.copies.find? (fun c => c.id == id)
/-- Change a copy. -/
def Core.updCopy (k : Core) (id : Nat) (f : Copy → Copy) : Core :=
  { k with copies := k.copies.map (fun c => if c.id == id then f c else c) }
/-- A PRELOADING bank becomes HELD once no preload names it that still runs, nor one that stays staged (R200, R394). -/
def Core.settlePreloads (k : Core) : Core :=
  let free := fun b => k.preloads.all (fun p => !p.2.getLsbD b) && k.staging.all (fun r => r.op.isNone || !r.banks.getLsbD b)
  { k with banks := (List.range 16).foldl (fun m b =>
      if Sparse.get BankState.released b m == .preloading && free b then Sparse.put .released b .held m else m) k.banks }
/-- A preload copy has brought its handle to FULL or ERROR: banks that no other preload fills become HELD, once
the task they are for has them; the staging record of a task that was handed back is dropped (R200, R394). -/
def Core.preloadDone (k : Core) (op : Nat) : Core :=
  { k with staging := k.staging.filter (fun r => !(r.orphan && r.op == some op))
           preloads := k.preloads.filter (fun p => p.1 != op) }.settlePreloads
/-- Copy x has run out: its regions go, and its record. -/
def Core.dropCopy (k : Core) (x : Copy) : Core :=
  { (k.releaseRegions (fun r => r.op == x.id)) with copies := k.copies.filter (fun y => y.id != x.id) }
/-- Copy x leaves the copies counter (R229), its thread ready to be joined (R304); a staged copy is not counted. -/
def Core.leaveCounter (k : Core) (x : Copy) : Core :=
  let k := (k.updCopy x.id (fun y => { y with left := true })).preloadDone x.id
  match x.obj with
  | .staging _ => k
  | _ => { k with ncp := k.ncp - 1, threads := k.threads ++ [⟨x.id, false, x.obj, x.desc.scope, false⟩] }
/-- Is the completion object of copy x settled: its handle FULL or in ERROR? -/
def Core.settled (k : Core) (x : Copy) : Bool :=
  match x.obj with
  | .handle h => (match (k.handle x.gen h).st with | .full => true | .error => true | _ => false)
  | .staging i => (match k.staging.find? (fun r => r.op == some i) with
    | some r => r.held.st != .filling
    | none => true)
  | _ => false
/-- May copy x leave the counter (R229)? One with a handle when that is FULL or in ERROR, whoever filled it; another at its
last byte or its fault. -/
def Core.mayLeave (k : Core) (x : Copy) : Bool :=
  match x.obj with
  | .handle _ => k.settled x
  | .staging _ => k.settled x
  | _ => x.ended || decide (x.bytes ≤ x.counted)
/-- Copy id leaves the counter where it may, gives up its regions with its last byte, and its record with both (R196,
R229). -/
def Core.settleCopy (k : Core) (id : Nat) : Core :=
  match k.copy id with
  | none => k
  | some x =>
    let out := x.left || k.mayLeave x
    let k1 := if out && !x.left then k.leaveCounter x else k
    if x.counted < x.bytes then k1
    else if out then k1.dropCopy x else k1.releaseRegions (fun r => r.op == id)
/-- Settle every copy of the core: a handle has entered FULL or ERROR. -/
def Core.settleCopies (k : Core) : Core := k.copies.foldl (fun k x => k.settleCopy x.id) k

/-! ### The word of the status file (R267) -/

/-- The status bits of R267. -/
def bitSCLB : BitVec 8 := 0x80
def bitQ4XO : BitVec 8 := 0x40
def bitDUP : BitVec 8 := 0x20
def bitCHK : BitVec 8 := 0x10
def bitOVF : BitVec 8 := 0x08
def bitINF : BitVec 8 := 0x04
def bitNAN : BitVec 8 := 0x02
def bitERR : BitVec 8 := 0x01
/-- The status word of a call with an FCODE, or 0 (R267). -/
def Call.statusWord (c : Call) (f : Nat) : W64 :=
  BitVec.ofNat 64 (c.drains % 2 ^ 16 * 2 ^ 48 + f % 256 * 2 ^ 40 + 2 ^ 15 + (if f = 0 then c.bits else c.bits ||| bitERR).toNat)
/-- Handle h has entered FULL or ERROR: the word of the call that fills it stands ready for its entry (R267). -/
def Core.noteStatus (k : Core) (g : Hm) (h : Nat) : Core :=
  match k.calls.find? (fun c => c.hout == h && c.gen == g && !c.noted) with
  | none => k
  | some c => { k with
      calls := k.calls.map (fun x => if x.id == c.id then { x with noted := true } else x)
      status := Sparse.upd {} h (fun e => if e.awaited then { e with final := some (c.statusWord 0) } else e) k.status }

/-! ### Handles -/

/-- Write handle h, retagged g; an armed handle that enters FULL or ERROR raises its user-level interrupt
and the arming lapses (R105, R186, R187). -/
def Core.setHandle (k : Core) (g : Hm) (h : Nat) (x : Handle) : Core :=
  let was := (k.handle g h).st
  let k' := { k with handles := Sparse.put {} h { x with hm := g } k.handles }
  if !(x.st = .full || x.st = .error) || was = x.st then k'
  else if k.armed.getLsbD h then
    { k' with armed := k.armed &&& ~~~(1#64 <<< h), uiPend := k.uiPend ||| (1#64 <<< h) }.noteStatus g h
  else k'.noteStatus g h
/-- A handle enters ERROR with a fault code; the first code is kept (R187). -/
def Core.failHandle (k : Core) (g : Hm) (h : Nat) (f : Byte) : Core :=
  let x := k.handle g h
  if x.st = .error then k else (k.setHandle g h { x with st := .error, fcode := f }).settleCopies
/-- n bytes counted on a handle (R187): FULL at the expectation, ERROR 0x01 beyond it, ERROR 0x02 where the
handle is not FILLING, no change in ERROR. Beyond the expectation CNT stands at EXP: R187 states no CNT there (DESIGN CHOICE,
log entry 127). -/
def Core.countBytes (k : Core) (g : Hm) (h n : Nat) : Core :=
  let x := k.handle g h
  if n = 0 then k
  else match x.st with
    | .error => k
    | .filling =>
      if x.exp < x.cnt + n then (k.setHandle g h { x with cnt := x.exp, st := .error, fcode := 0x01 }).settleCopies
      else if x.cnt + n = x.exp then (k.setHandle g h { x with cnt := x.exp, st := .full }).settleCopies
      else k.setHandle g h { x with cnt := x.cnt + n }
    | _ => (k.setHandle g h { x with st := .error, fcode := 0x02 }).settleCopies
/-- The cleared record of HREL and HSWAP (R187). -/
def Handle.cleared (x : Handle) (phase : Bool) : Handle := { phase := phase, hm := x.hm }

/-- Join the completed engine threads that f picks (R304): an acquire at the thread's scope (R299), and its
writes still in the die's ordering point become older writes of the core. -/
def State.join (s : State) (f : Thread → Bool) : State :=
  let held := fun (t : Thread) => !t.far && (s.die s.d).op.any (fun e => e.core == s.cur.core && e.thr == some t.op)
  let wide := s.k.threads.any (fun t => f t && decide (1 ≤ t.scope))
  s.updK (fun k =>
    let accs := ((k.threads.filter (fun t => f t && held t)).map
      (fun t => ({ id := t.op, kind := .thread, scope := t.scope, gen := s.gen, done := true } : Acc)))
    { k with threads := k.threads.filter (fun t => !f t), l0 := if wide then [] else k.l0, accs := k.accs ++ accs })
/-- Join the threads whose completion object is handle h, of this core or of the core that posted it. -/
def State.joinHandle (s : State) (h : Nat) : State := s.join (fun t => t.obj == .handle h)

/-- HWAIT (R189). -/
def execHwait (p : BitVec 3) (h : BitVec 6) (t : BitVec 1) (s : State) : Out :=
  slotMeaning p [] none false
    (fun s => match (s.k.handle s.gen h.toNat).st with
      | .full => .go
      | .draining => .go
      | .free => trapV 9 3
      | .error => if t = 1#1 then .go else trapV 9 2
      | .filling => .wait)
    (fun s => s.joinHandle h.toNat) s
/-- HSTAT: the record as it stands at issue, a variable-latency result (R190). -/
def execHstat (p : BitVec 3) (d h : BitVec 6) (s : State) : Out :=
  slotMeaning p [] (some (s.rD d)) true noTrap
    (fun s =>
      let s1 := (s.setPending s.k.nextId (s.rD d) (some (s.k.handleRecord s.gen h.toNat)) false).updK
        (fun k => { k with nextId := k.nextId + 1 })
      if (s.k.handle s.gen h.toNat).st = .full then s1.joinHandle h.toNat else s1) s
/-- HREL (R193). -/
def execHrel (p : BitVec 3) (h : BitVec 6) (s : State) : Out :=
  slotMeaning p [] none false
    (fun s => match (s.k.handle s.gen h.toNat).st with
      | .filling => trapV 9 1
      | .draining => trapV 9 1
      | _ => .go)
    (fun s =>
      let x := s.k.handle s.gen h.toNat
      if x.st = .free then s else s.updK (fun k => k.setHandle s.gen h.toNat (x.cleared x.phase))) s
/-- Count and format operands of HSET and HEXP (R191). -/
def State.hCount (s : State) (a : BitVec 6) : Nat := (s.reg (s.rA a)).toNat % 2 ^ 32
def State.hFmt (s : State) (b : BitVec 6) : Nat := (s.reg (s.rB b)).toNat % 64
def State.hGeo (s : State) (b : BitVec 6) : Nat := (s.reg (s.rB b)).toNat / 64 % 8
/-- HSET (R191). -/
def execHset (p : BitVec 3) (h a b : BitVec 6) (s : State) : Out :=
  slotMeaning p [s.rA a, s.rB b] none false
    (fun s =>
      trapIf (decide ((s.k.handle s.gen h.toNat).st ≠ .free)) 9 1
        (trapIf (!fmtGeoOk (s.hFmt b) (s.hGeo b) || decide (0xFFFFF < s.hCount a)) 9 5 .go))
    (fun s =>
      let x := s.k.handle s.gen h.toNat
      s.updK (fun k => k.setHandle s.gen h.toNat { x with
        exp := s.hCount a, cnt := s.hCount a, fmt := BitVec.ofNat 6 (s.hFmt b), geo := BitVec.ofNat 3 (s.hGeo b),
        refetch := false, desc := none, st := .full })) s
/-- HEXP (R191). -/
def execHexp (p : BitVec 3) (h a b : BitVec 6) (s : State) : Out :=
  slotMeaning p [s.rA a, s.rB b] none false
    (fun s =>
      let x := s.k.handle s.gen h.toNat
      match x.st with
      | .free => trapIf (!fmtGeoOk (s.hFmt b) (s.hGeo b) || decide (0xFFFFF < s.hCount a)) 9 5 .go
      | .filling => trapIf (decide (0xFFFFF < s.hCount a) || decide (0xFFFFF < x.exp + s.hCount a)) 9 5 .go
      | _ => trapV 9 1)
    (fun s =>
      let x := s.k.handle s.gen h.toNat
      let n := s.hCount a
      match x.st with
      | .filling => s.updK (fun k => k.setHandle s.gen h.toNat { x with
          exp := x.exp + n, refetch := false, desc := none, st := if x.cnt = x.exp + n then .full else .filling })
      | _ => if n = 0 then s else s.updK (fun k => k.setHandle s.gen h.toNat { x with
          exp := n, cnt := 0, fmt := BitVec.ofNat 6 (s.hFmt b), geo := BitVec.ofNat 3 (s.hGeo b),
          refetch := false, desc := none, st := .filling })) s
/-- HSWAP, held while a call that has started and not ended names the handle as an input: through a rollback too, in which
the handle is FILLING again (R192, R203; an HSWAP that first meets the handle then waits in the same way: DEDUCED, log entry
107). -/
def execHswap (p : BitVec 3) (h : BitVec 6) (s : State) : Out :=
  slotMeaning p [] none false
    (fun s => match (s.k.handle s.gen h.toNat).st with
      | .full => if s.k.callHolds h.toNat then .wait else .go
      | .draining => if s.k.callHolds h.toNat then .wait else .go
      | .filling => if s.k.callHolds h.toNat then .wait else trapV 9 1
      | _ => trapV 9 1)
    (fun s =>
      let x := s.k.handle s.gen h.toNat
      s.updK (fun k => k.setHandle s.gen h.toNat (x.cleared (!x.phase)))) s

/-- UIEN (R105). -/
def execUien (p : BitVec 3) (h : BitVec 6) (e : BitVec 1) (s : State) : Out :=
  slotMeaning p [] none false noTrap
    (fun s =>
      let x := s.k.handle s.gen h.toNat
      let b := 1#64 <<< h.toNat
      s.updK (fun k =>
        let k := { k with handles := Sparse.put {} h.toNat x k.handles }
        if e = 1#1 then
          if x.st = .full || x.st = .error then
            (if k.armed &&& b = 0 then { k with uiPend := k.uiPend ||| b } else k)
          else { k with armed := k.armed ||| b }
        else { k with armed := k.armed &&& ~~~b, uiPend := k.uiPend &&& ~~~b })) s

/-! ### Banks (R198-R201) -/

/-- BKREL (R199). -/
def execBkrel (p : BitVec 3) (a : BitVec 6) (s : State) : Out :=
  slotMeaning p [s.rA a] none false noTrap
    (fun s => s.updK (fun k => k.releaseBanks ((s.reg (s.rA a)).setWidth 16))) s
/-- BKWAIT (R201). -/
def execBkwait (p : BitVec 3) (a : BitVec 6) (s : State) : Out :=
  slotMeaning p [s.rA a] none false
    (fun s =>
      let m := s.reg (s.rA a)
      let st := ((List.range 16).filter (fun b => m.getLsbD b)).map (fun b => Sparse.get BankState.released b s.k.banks)
      if st.contains .released || st.contains .releasing then trapV 9 4
      else if st.contains .preloading then .wait else .go)
    id s

/-! ### Legacy barriers (R204, R205) -/

/-- Change barrier n, which the end of the local cycle then evaluates where ARRV, WANT or GOT changed (R205). -/
def Core.updBarrier (k : Core) (n : Nat) (f : Barrier → Barrier) : Core :=
  { k with barriers := Sparse.upd {} n (fun b =>
      let c := f b
      { c with moved := b.moved || !(c.arrv = b.arrv && c.want = b.want && c.got = b.got) }) k.barriers }
/-- Barrier n. -/
def Core.barrier (k : Core) (n : Nat) : Barrier := Sparse.get {} n k.barriers
/-- BARV: an arrival that may post bytes (R205). -/
def execBarv (p n : BitVec 3) (a : BitVec 6) (s : State) : Out :=
  slotMeaning p [s.rA a] none false
    (fun s => trapIf (decide ((s.k.barrier n.toNat).arrv = (s.k.barrier n.toNat).quota)) 9 6 .go)
    (fun s => s.updK (fun k => k.updBarrier n.toNat (fun b => { b with
      arrv := b.arrv + 1, wep := b.epoch, want := b.want + (s.reg (s.rA a)).setWidth 24 }))) s
/-- BARV with INIT (R205). -/
def execBarvInit (p n : BitVec 3) (a : BitVec 6) (s : State) : Out :=
  slotMeaning p [s.rA a] none false
    (fun s => trapIf (decide ((s.reg (s.rA a)).setWidth 16 = 0#16)) 9 6 .go)
    (fun s => s.updK (fun k => k.updBarrier n.toNat (fun b => { b with
      quota := (s.reg (s.rA a)).setWidth 16, arrv := 0, want := 0, got := 0, wep := b.epoch }))) s
/-- BART (R205). -/
def execBart (p n : BitVec 3) (a : BitVec 6) (s : State) : Out :=
  slotMeaning p [s.rA a] none false noTrap
    (fun s => s.updK (fun k => k.updBarrier n.toNat (fun b => { b with
      want := b.want + (s.reg (s.rA a)).setWidth 24 }))) s
/-- BARW (R205). -/
def execBarw (p n : BitVec 3) (s : State) : Out :=
  slotMeaning p [] none false
    (fun s => if (s.k.barrier n.toNat).epoch ≠ (s.k.barrier n.toNat).wep then .go else .wait)
    (fun s => s.join (fun t => t.obj == .barrier n.toNat)) s

end Sys2Proof.Machine
end

