-- ==== Sys2Proof/Machine/Translate.lean ====
section
/-! DEFINITION. Translation of global addresses (spec 12): stage-1 and stage-2 walks, translation caches,
the peer window, permissions, platform-level addresses, and the faults in their order. -/
namespace Sys2Proof.Machine

/-- What an access needs of its page (R279). -/
inductive Perm where
  | fetch | read | write | both
  deriving DecidableEq, Repr

/-- Does the access need R? W? -/
def Perm.needR : Perm → Bool
  | .write => false
  | _ => true
def Perm.needW : Perm → Bool
  | .write => true
  | .both => true
  | _ => false

/-- The code by which a walk read that meets an uncorrectable error answers; not a subcode of the spec. -/
def walkError : Nat := 0x100

/-- n bytes of a table at a DLA, read from die d under the platform generation (R276, R284, R285): through the owner's
port, held over a hand-over (R323, R336). An error is walkWait, walkError, 0x0A for a bad address, or 0x08 where no route
is left. -/
def State.tableRead (s : State) (d a n : Nat) : Except Nat Nat :=
  match s.translateDla d a with
  | .error f => .error f
  | .ok t =>
    if s.wayLost d t then .error 0x08
    else if !s.homeOpen t || !s.wayOpen d t then .error walkWait
    else if s.badAt a then .error walkError
    else .ok (s.read platformGen a n)

/-! ### Stage 2 (R273, R278) -/

/-- Index of an address at a level, and the bits a leaf of that level maps. -/
def levelIndex (stage2 : Bool) (lvl a : Nat) : Nat :=
  match lvl with
  | 0 => a / 2 ^ 39 % (if stage2 then 8192 else 512)
  | 1 => a / 2 ^ 30 % 512
  | 2 => a / 2 ^ 25 % 32
  | _ => a / 2 ^ 16 % 512
def levelBits (lvl : Nat) : Nat :=
  match lvl with
  | 0 => 39
  | 1 => 30
  | 2 => 25
  | _ => 16
/-- The page-size code of a leaf. -/
def psizeOf (bits : Nat) : Nat := if bits = 16 then 0 else if bits = 25 then 1 else 2

/-- Is a stage-2 entry with V = 1 malformed at its level (R273)? -/
def malformed2 (lvl : Nat) (e : W64) : Bool :=
  let v := e.toNat
  let leaf := e.getLsbD 1
  decide (v / 2 ^ 48 ≠ 0) ||
  (if leaf then lvl == 0 || decide (v / 16 % 2 ^ 12 ≠ 0) || decide (v / 2 ^ 16 * 2 ^ 16 % 2 ^ levelBits lvl ≠ 0)
   else lvl == 3 || decide (v / 4 % 64 ≠ 0) || ((lvl == 0 || lvl == 2) && decide (v / 2 ^ 8 % 16 ≠ 0)))
/-- Walk the stage-2 tables from table t at a level, for die d: the leaf's DLA for the address, its size and its
permissions (R278, checks 1 and 2). -/
def State.walk2 (s : State) (d gpa : Nat) : Nat → Nat → Nat → Except Nat (Nat × Nat × Bool × Bool)
  | 0, _, _ => .error 0x0A
  | fuel + 1, lvl, t =>
    if !s.dlaOk t then .error 0x0A
    else match s.tableRead d (t + 8 * levelIndex true lvl gpa) 8 with
    | .error f => .error f
    | .ok v =>
      let e : W64 := BitVec.ofNat 64 v
      if !e.getLsbD 0 then .error 0x09
      else if malformed2 lvl e then .error 0x0A
      else if e.getLsbD 1 then
        let dla := e.toNat / 2 ^ 16 % 2 ^ 32 * 2 ^ 16 + gpa % 2 ^ levelBits lvl
        if s.dlaOk dla then .ok (dla, levelBits lvl, e.getLsbD 2, e.getLsbD 3) else .error 0x0A
      else s.walk2 d gpa fuel (lvl + 1) (e.toNat / 2 ^ 8 % 2 ^ 40 * 2 ^ 8)
/-- A stage-2 leaf from die d's cache, or by a walk (R282); the address it gives must itself be valid (R278). -/
def State.leaf2 (s : State) (d : Nat) (r : TransRec) (g : Hm) (gpa : Nat) : Except Nat (Nat × Nat × Bool × Bool) :=
  match (s.die d).s2c.find? (fun e => e.gen == g && gpa / 2 ^ e.bits == e.base / 2 ^ e.bits) with
  | some e =>
    let a := e.dla + gpa % 2 ^ e.bits
    if s.dlaOk a then .ok (a, e.bits, e.r, e.w) else .error 0x0A
  | none => s.walk2 d gpa 4 0 r.s2root.toNat
/-- The validity of the address accessed, checks 3 and 4 of R278 and the owner check, for a leaf's DLA on die d. -/
def State.check2 (s : State) (d dla : Nat) (r w needR needW : Bool) : Option Nat :=
  let k := dlaStack dla
  if !s.dlaOk dla || (!dlaCxl dla && !touches d k) then some 0x0A
  else if (needR && !r) || (needW && !w) then some 0x0B
  else if !dlaCxl dla && (s.owner k != d || (s.stack k).hand.isSome) then some 0x0C
  else none
/-- Stage 2 at die d, whole (R278): the DLA. -/
def State.stage2 (s : State) (d : Nat) (r : TransRec) (g : Hm) (gpa : Nat) (needR needW : Bool) : Except Nat Nat :=
  match s.leaf2 d r g gpa with
  | .error f => .error f
  | .ok (dla, _, pr, pw) =>
    match s.check2 d dla pr pw needR needW with
    | some f => .error f
    | none => .ok dla

/-! ### Stage 1 (R274, R275, R277) -/

/-- Fields of a stage-1 leaf (R273). -/
def leafFmt (e : W64) : Nat := (e.extractLsb' 10 6).toNat
def leafGeo (e : W64) : Nat := (e.extractLsb' 52 3).toNat
def leafCp (e : W64) : Nat := (e.extractLsb' 8 2).toNat
def leafOrd (e : W64) : Nat := (e.extractLsb' 6 2).toNat
def leafImp (e : W64) : Bool := e.getLsbD 5
/-- Is a stage-1 entry with V = 1 malformed at its level (R273, R274)? -/
def malformed1 (lvl : Nat) (e : W64) : Bool :=
  let v := e.toNat
  let peer := decide (v / 2 ^ 48 % 16 = 15)
  decide (v / 2 ^ 55 ≠ 0) ||
  (if e.getLsbD 1 then
    lvl == 0 || decide (v / 2 ^ 16 % 2 ^ 36 * 2 ^ 16 % 2 ^ levelBits lvl ≠ 0) || leafOrd e == 3 || leafCp e == 3
      || !fmtGeoOk (leafFmt e) (leafGeo e) || (leafImp e != peer) || (leafImp e && e.getLsbD 4)
   else lvl == 3 || decide (v / 2 ^ 52 % 8 ≠ 0) || decide (v / 4 % 64 ≠ 0)
      || ((lvl == 0 || lvl == 2) && decide (v / 2 ^ 8 % 16 ≠ 0)) || peer)
/-- Walk the stage-1 tables from table t at a level (R277): the leaf and its level. A table in CXL memory lies beyond the die's
I/O link (R8, R415, R418). -/
def State.walk1 (s : State) (d : Nat) (r : TransRec) (g : Hm) (va : Nat) :
    Nat → Nat → Nat → Except Nat (W64 × Nat)
  | 0, _, _ => .error 0x04
  | fuel + 1, lvl, t =>
    match s.stage2 d r g (t + 8 * levelIndex false lvl va) true false with
    | .error f => .error f
    | .ok a =>
      let t0 : Target := { dla := a, die := d }
      if s.wayLost d t0 then .error 0x08
      else if !s.wayOpen d t0 then .error walkWait
      else if s.badAt a then .error walkError
      else
        let e : W64 := BitVec.ofNat 64 (s.read g a 8)
        if !e.getLsbD 0 then .error 0x03
        else if malformed1 lvl e then .error 0x04
        else if e.getLsbD 1 then .ok (e, lvl)
        else s.walk1 d r g va fuel (lvl + 1) (e.toNat / 2 ^ 8 % 2 ^ 44 * 2 ^ 8)
/-- Is the access permitted by the stage-1 leaf (R279)? -/
def permitted1 (e : W64) (p : Perm) : Bool :=
  match p with
  | .fetch => e.getLsbD 4
  | _ => (!p.needR || e.getLsbD 2) && (!p.needW || e.getLsbD 3)
/-- The output address of a leaf at a virtual address. -/
def leafGpa (e : W64) (bits va : Nat) : Nat := e.toNat / 2 ^ 16 % 2 ^ 36 * 2 ^ 16 + va % 2 ^ bits

/-! ### The peer window (R284-R286) -/

/-- The import entry of slot n, as it stands in its table. -/
def State.importEntry (s : State) (r : TransRec) (n : Nat) : W64 :=
  BitVec.ofNat 64 (s.read platformGen (r.impt.toNat + 8 * n) 8)
/-- The import entry of slot n as die d reads it. -/
def State.importRead (s : State) (d : Nat) (r : TransRec) (n : Nat) : Except Nat W64 :=
  match s.tableRead d (r.impt.toNat + 8 * n) 8 with
  | .error f => .error f
  | .ok v => .ok (BitVec.ofNat 64 v)
/-- Is an import entry valid and well formed? -/
def importOk (e : W64) : Bool :=
  e.getLsbD 0 && (e.extractLsb' 33 3).toNat == 0 && (e.extractLsb' 1 29).toNat == 0
/-- EGEN, EIDX and EDIE. -/
def importGen (e : W64) : Hm := e.extractLsb' 48 16
def importIdx (e : W64) : Nat := (e.extractLsb' 36 12).toNat
def importDie (e : W64) : Nat := (e.extractLsb' 30 3).toNat
/-- Where a peer access goes: DLA, exporter's generation, serving die, epoch of the stack's owner register, and what the
forward queue of a hand-over holds of it. -/
structure PeerPlace where
  dla : Nat
  gen : Hm
  die : Nat
  epoch : BitVec 16
  fwd : Option (Nat × Nat × Bool × Bool) := none
  deriving DecidableEq, Repr
/-- The two words of export entry n of a translation record, as die e reads them (R284). -/
def State.exportRead (s : State) (e : Nat) (r : TransRec) (n : Nat) : Except Nat (W64 × Nat) :=
  match s.tableRead e (r.expt.toNat + 16 * n) 16 with
  | .error f => .error f
  | .ok v => .ok (BitVec.ofNat 64 v, v / 2 ^ 64)
/-- Is generation g LIVE, and current on die e (R344, R285 step 3)? The tenancy it belongs to. -/
def State.liveTen (s : State) (e : Nat) (g : Hm) : Option Nat :=
  if Sparse.get GenState.free g.toNat s.genStates = .live then s.tenOf e g else none
/-- Where a peer access of tenancy t on die d goes (R285). A request that meets a hand-over of its stack is held in the
forward queue, and waits for room in it; the receiving die translates it at step 5 (R336, R337). -/
def State.peerAccess (s : State) (d t : Nat) (r : TransRec) (gpa : Nat) (p : Perm) : Except Nat PeerPlace :=
  match s.importRead d r (gpa / 2 ^ 36 % 4096) with
  | .error f => .error f
  | .ok ie =>
  let off := gpa % 2 ^ 36
  let e := importDie ie
  if !importOk ie then .error 0x06
  else if !s.reaches d e then .error 0x08
  else if (s.die e).refused.contains (t, d) then .error 0x06
  else match s.liveTen e (importGen ie) with
    | none => .error 0x07
    | some x =>
      match Sparse.get none x (s.die e).recs with
      | none => .error 0x06
      | some xr =>
        match s.exportRead e xr (importIdx ie) with
        | .error f => .error f
        | .ok (lo, size) =>
        let g := importGen ie
        if !lo.getLsbD 0 || decide (size ≤ off) || (p.needR && !lo.getLsbD 1) || (p.needW && !lo.getLsbD 2)
        then .error 0x06
        else
          let a := lo.toNat / 2 ^ 16 % 2 ^ 36 * 2 ^ 16 + off
          match s.leaf2 e xr g a with
          | .error f => .error f
          | .ok (dla, _, pr, pw) =>
            let k := dlaStack dla
            if !dlaCxl dla && s.owner k == e && (s.stack k).hand.isSome then
              if s.forwardFull k then .error walkWait
              else .ok ⟨dla, g, s.nextOwner k, s.nextEpoch k, some (x, a, p.needR, p.needW)⟩
            else match s.check2 e dla pr pw p.needR p.needW with
              | some f => .error f
              | none => .ok ⟨dla, g, e, (s.stack k).epoch, none⟩
/-- A held request is translated by the exporter's stage 2 at the receiving die (R336): its target, or the fault. -/
def State.forwardTarget (s : State) (t : Target) : Except Nat Target :=
  match t.fwd with
  | none => .ok t
  | some (x, a, needR, needW) =>
    match Sparse.get none x (s.die t.die).recs with
    | none => .error 0x0C
    | some r => match s.leaf2 t.die r t.gen a with
      | .error f => .error f
      | .ok (dla, _, pr, pw) => match s.check2 t.die dla pr pw needR needW with
        | some f => .error f
        | none => .ok { t with dla := dla, epoch := if dlaCxl dla then 0 else (s.stack (dlaStack dla)).epoch, fwd := none }

/-! ### A whole translation (R277) -/

/-- The target of a leaf's attributes and a place. -/
def targetOf (e : W64) (bits dla : Nat) (g : Hm) (die : Nat) (remote : Bool) (ep : BitVec 16) : Target :=
  { dla := dla, gen := g, die := die, remote := remote, epoch := ep, ord := leafOrd e, cp := leafCp e,
    fmt := leafFmt e, geo := leafGeo e, psize := psizeOf bits }
/-- The target of a peer access. -/
def peerTarget (e : W64) (bits : Nat) (w : PeerPlace) : Target :=
  { targetOf e bits w.dla w.gen w.die true w.epoch with fwd := w.fwd }
/-- EPOCH of the stack that a DLA names; 0 for CXL memory. -/
def State.epochOf (s : State) (dla : Nat) : BitVec 16 := if dlaCxl dla then 0 else (s.stack (dlaStack dla)).epoch

/-- The translation that a virtual address has through an entry of a core or engine TLB. -/
def TlbEntry.covers (e : TlbEntry) (g : Hm) (va : Nat) : Bool := e.gen == g && va / 2 ^ e.bits == e.base / 2 ^ e.bits
/-- Translate a virtual address for tenancy t on die d through a list of TLB entries (R277, R282); the
alignment and width checks have been made. -/
def State.translateVa (s : State) (d t : Nat) (tlb : List TlbEntry) (va : Nat) (p : Perm) : Except Nat Target :=
  let g := s.genOn d t
  match Sparse.get none t (s.die d).recs with
  | none => .error 0x09
  | some r =>
    match tlb.find? (fun e => e.covers g va) with
    | some e =>
      if !permitted1 e.leaf p then .error 0x05
      else match e.dla with
        | none =>
          (match s.peerAccess d t r (leafGpa e.leaf e.lbits va) p with
          | .error f => .error f
          | .ok w => .ok (peerTarget e.leaf e.lbits w))
        | some base =>
          let a := base + va % 2 ^ e.bits
          (match s.check2 d a e.r e.w p.needR p.needW with
          | some f => .error f
          | none => .ok (targetOf e.leaf e.lbits a g d false (s.epochOf a)))
    | none =>
      match s.walk1 d r g va 4 0 r.s1root.toNat with
      | .error f => .error f
      | .ok (e, lvl) =>
        if !permitted1 e p then .error 0x05
        else
          let bits := levelBits lvl
          let gpa := leafGpa e bits va
          if leafImp e then
            match s.peerAccess d t r gpa p with
            | .error f => .error f
            | .ok w => .ok (peerTarget e bits w)
          else match s.stage2 d r g gpa p.needR p.needW with
            | .error f => .error f
            | .ok a => .ok (targetOf e bits a g d false (s.epochOf a))
/-- The translation of a core that has not yet stopped after its tenancy's switch (R354): only one made before the switch
still serves a fetch in hand; a new walk reads tables that are zero to its generation, and the peer window is stale. -/
def State.translateStale (s : State) (d : Nat) (g : Hm) (tlb : List TlbEntry) (va : Nat) (p : Perm) : Except Nat Target :=
  match tlb.find? (fun e => e.covers g va) with
  | none => .error 0x03
  | some e =>
    if !permitted1 e.leaf p then .error 0x05
    else match e.dla with
      | none => .error 0x07
      | some base =>
        let a := base + va % 2 ^ e.bits
        (match s.check2 d a e.r e.w p.needR p.needW with
        | some f => .error f
        | none => .ok (targetOf e.leaf e.lbits a g d false (s.epochOf a)))
/-- Translate an effective address of core c (R97, R277): size 0 where the access makes no alignment check. -/
def State.translateCore (s : State) (c : Nat) (ea : W64) (size : Nat) (p : Perm) : Except Nat Target :=
  let k := s.core c
  if 2 ^ 48 ≤ ea.toNat then .error 0x01
  else if size ≠ 0 && ea.toNat % size ≠ 0 then .error 0x02
  else if k.lvl then s.translateDla (dieOf c) ea.toNat
  else match k.ten with
    | none => .error 0x03
    | some t =>
      if k.stopping.isSome then s.translateStale (dieOf c) k.ctxGen k.tlb ea.toNat p
      else s.translateVa (dieOf c) t k.tlb ea.toNat p
/-- Translate an address of queue-held work of die d: a virtual address of tenancy t, or a DLA for the platform
(R361). -/
def State.translateCp (s : State) (d : Nat) (t : Option Nat) (a : W64) (p : Perm) : Except Nat Target :=
  if 2 ^ 48 ≤ a.toNat then .error 0x01
  else match t with
    | none => s.translateDla d a.toNat
    | some t => s.translateVa d t [] a.toNat p

/-- The verdict of a translation fault, with the effective address (R99, R287). -/
def faultV (f : Nat) (ea : W64) : Verdict :=
  if f = walkWait then .wait else if f = walkError then .trap 8 0 0 0 ea else .trap 7 f 0 0 ea

/-- Is a cache hint ignored under a page's policy (R281)? -/
def hintIgnored (cp hint : Nat) : Bool := (cp == 1 && hint == 1) || (cp == 2 && (hint == 1 || hint == 2))
/-- Count an ignored hint in the record of tenancy t on die d (R276, R281). -/
def State.countHint (s : State) (d : Nat) (t : Option Nat) (cp hint : Nat) : State :=
  if !hintIgnored cp hint then s
  else match t with
    | none => s
    | some t => s.updDie d (fun x => match Sparse.get none t x.recs with
      | none => x
      | some r =>
        let n := if r.hconf = BitVec.allOnes 64 then r.hconf else r.hconf + 1
        { x with recs := Sparse.put none t (some { r with hconf := n }) x.recs })

/-! ### Translation caches (R282, R283, R288) -/

/-- The entry that a completed walk of a virtual address leaves; none where the walk faults (R282). -/
def State.tlbFill (s : State) (d t va : Nat) : Option TlbEntry :=
  let g := s.genOn d t
  match Sparse.get none t (s.die d).recs with
  | none => none
  | some r =>
    match s.walk1 d r g va 4 0 r.s1root.toNat with
    | .error _ => none
    | .ok (e, lvl) =>
      let bits := levelBits lvl
      let base := va / 2 ^ bits * 2 ^ bits
      if leafImp e then some ⟨g, base, bits, e, bits, none, true, true, bits⟩
      else match s.leaf2 d r g (leafGpa e bits va) with
        | .error _ => none
        | .ok (a, b2, pr, pw) =>
          if (s.check2 d a pr pw false false).isSome then none
          else
            -- an entry covers no more than both stages map
            let b := min bits b2
            some ⟨g, va / 2 ^ b * 2 ^ b, b, e, bits, some (a / 2 ^ b * 2 ^ b), pr, pw, b2⟩
/-- The stage-2 entry of a completed walk; none where the walk faults (R282). -/
def State.s2Fill (s : State) (d t gpa : Nat) : Option S2Entry :=
  let g := s.genOn d t
  match Sparse.get none t (s.die d).recs with
  | none => none
  | some r =>
    match s.walk2 d gpa 4 0 r.s2root.toNat with
    | .error _ => none
    | .ok (a, b, pr, pw) =>
      if (s.check2 d a pr pw false false).isSome then none
      else some ⟨g, gpa / 2 ^ b * 2 ^ b, b, a / 2 ^ b * 2 ^ b, pr, pw⟩

end Sys2Proof.Machine
end

