-- ==== Sys2Proof/Machine/Copy.lean ====
section
/-! DEFINITION. The copy instructions and the checks of their issue (spec 10 R208-R223): copy addresses, the
loop nest and its pieces, the scoreboard regions of a copy, CLVL, CGO and CGOX. -/
namespace Sys2Proof.Machine

/-! ### Copy addresses and the box -/

/-- SPACE of a copy address (R208). -/
def spaceOf (a : W64) : Nat := (a.extractLsb' 61 3).toNat
/-- Size of a space's offset field, 0 where reserved (R208). -/
def spaceSize (sp : Nat) : Nat :=
  match sp with
  | 0 => 2 ^ 48
  | 1 => 2 ^ 19
  | 2 => 2 ^ 19
  | 3 => 2 ^ 27
  | _ => 0
/-- Is the copy address well formed (R208)? -/
def copyAddrOk (a : W64) : Bool := decide (a.toNat % 2 ^ 61 < spaceSize (spaceOf a))

/-- A place that a copy reads or writes, after own-window normalisation (R209, R210). -/
inductive Loc where
  | va (a : Nat)
  | spm (a : Nat)
  | acc (a : Nat)
  /-- this core's register window -/
  | ownReg (r : Nat)
  | rspm (core a : Nat)
  | racc (core a : Nat)
  | rreg (core r : Nat)
  /-- a reserved on-chip offset, of this core's window or of another core's -/
  | hole
  | rhole (core : Nat)
  deriving DecidableEq, Repr

/-- Where an offset of a space lies, for a copy of core c (R209, R210). -/
def locate (c sp off : Nat) : Loc :=
  match sp with
  | 0 => .va (off % 2 ^ 48)
  | 1 => .spm (off % 2 ^ 19)
  | 2 => .acc (off % 2 ^ 19)
  | _ =>
    let a := off % 2 ^ 27
    let n := a / 0x200000
    let o := a % 0x200000
    let core := dieOf c * 64 + n
    let own := decide (core = c)
    if o < 0x80000 then (if own then .spm o else .rspm core o)
    else if o < 0x100000 then (if own then .acc (o - 0x80000) else .racc core (o - 0x80000))
    else if o < 0x100200 then (if own then .ownReg ((o - 0x100000) / 8) else .rreg core ((o - 0x100000) / 8))
    else if own then .hole else .rhole core

/-- COUNT of level n. -/
def CopyDesc.count (d : CopyDesc) (n : Nat) : Nat := (Sparse.get {} n d.levels).count.toNat
/-- Strides of level n. -/
def CopyDesc.sstr (d : CopyDesc) (n : Nat) : Int := (Sparse.get {} n d.levels).sstr.toInt
def CopyDesc.dstr (d : CopyDesc) (n : Nat) : Int := (Sparse.get {} n d.levels).dstr.toInt
/-- CKIND, WFMT, POST, EOFF, LFMT, LGEO of CCTL (R217). -/
def CopyDesc.ckind (d : CopyDesc) : Nat := (d.cctl.extractLsb' 3 2).toNat
def CopyDesc.wfmt (d : CopyDesc) : Nat := (d.cctl.extractLsb' 5 2).toNat
def CopyDesc.post (d : CopyDesc) : Bool := d.cctl.getLsbD 2
def CopyDesc.eoff (d : CopyDesc) : Nat := (d.cctl.extractLsb' 32 32).toNat
def CopyDesc.lfmt (d : CopyDesc) : Nat := (d.cctl.extractLsb' 10 6).toNat
def CopyDesc.lgeo (d : CopyDesc) : Nat := (d.cctl.extractLsb' 7 3).toNat
/-- Destination bytes of one unit (R220). -/
def CopyDesc.unitBytes (d : CopyDesc) : Nat := if d.x then (if d.wfmt = 1 || d.wfmt = 2 then 2 else 4) else 1
/-- The FMT code of the working format (R220). -/
def CopyDesc.wfmtCode (d : CopyDesc) : Nat :=
  match d.wfmt with
  | 0 => 1
  | 1 => 2
  | 2 => 3
  | _ => 9
/-- Runs of the box and its units (R218). -/
def CopyDesc.runs (d : CopyDesc) : Nat := d.count 1 * d.count 2 * d.count 3 * d.count 4 * d.count 5
def CopyDesc.units (d : CopyDesc) : Nat := d.count 0 * d.runs
/-- Box size in destination bytes (R220). -/
def CopyDesc.bytes (d : CopyDesc) : Nat := d.units * d.unitBytes

/-- The offsets added to source and destination by run r, counted in loop-nest order (R218). -/
def CopyDesc.runOff (d : CopyDesc) (r : Nat) : Int × Int :=
  let i1 := r % d.count 1
  let r2 := r / d.count 1
  let i2 := r2 % d.count 2
  let r3 := r2 / d.count 2
  let i3 := r3 % d.count 3
  let r4 := r3 / d.count 3
  let i4 := r4 % d.count 4
  let i5 := r4 / d.count 4
  (i1 * d.sstr 1 + i2 * d.sstr 2 + i3 * d.sstr 3 + i4 * d.sstr 4 + i5 * d.sstr 5,
   i1 * d.dstr 1 + i2 * d.dstr 2 + i3 * d.dstr 3 + i4 * d.dstr 4 + i5 * d.dstr 5)

/-- One line transfer of a box: the number of its first destination byte in loop-nest order, its bytes, its run, its
first byte in the run, and its destination offset. -/
structure Piece where
  idx : Nat
  n : Nat
  run : Nat
  off : Nat
  dst : Nat
  deriving DecidableEq, Repr

/-- Split n bytes from offset a on at the multiples of w, modulo the space's size (R209): offset and bytes. -/
def chunks (w size : Nat) : Nat → Nat → Nat → List (Nat × Nat)
  | 0, _, _ => []
  | fuel + 1, a, n => if n = 0 then [] else
    let m := min n (w - a % w)
    (a, m) :: chunks w size fuel ((a + m) % size) (n - m)
/-- Number the chunks of run r, its first byte being number i of the box and byte o of the run. -/
def numbered (r : Nat) : Nat → Nat → List (Nat × Nat) → List Piece
  | _, _, [] => []
  | i, o, (a, m) :: t => ⟨i, m, r, o, a⟩ :: numbered r (i + m) (o + m) t
/-- First source byte of a run of a CGO, and first destination byte of a run. -/
def CopyDesc.srcOff (d : CopyDesc) (r : Nat) : Nat :=
  ((((d.src.toNat % 2 ^ 61 : Nat) : Int) + (d.runOff r).1) % (spaceSize (spaceOf d.src) : Int)).toNat
def CopyDesc.dstOff (d : CopyDesc) (r : Nat) : Nat :=
  ((((d.dst.toNat % 2 ^ 61 : Nat) : Int) + (d.runOff r).2) % (spaceSize (spaceOf d.dst) : Int)).toNat
/-- The source addresses that the loop nest computes, in runs that stay in one 128-byte line (R218). -/
def CopyDesc.srcSpan (d : CopyDesc) : List (Nat × Nat) :=
  (List.range d.runs).flatMap (fun r => chunks 128 (spaceSize (spaceOf d.src)) (d.count 0) (d.srcOff r) (d.count 0))
/-- The source bytes of a CGO in such runs; a CGOX reads elements (R222). -/
def CopyDesc.srcRuns (d : CopyDesc) : List (Nat × Nat) := if d.x then [] else d.srcSpan
/-- The line transfers of a box in loop-nest order (R209, R218): no transfer leaves its 128-byte line, and on chip
each aligned 8-byte word is written by itself (R213). -/
def CopyDesc.pieces (d : CopyDesc) : List Piece :=
  let n := d.count 0 * d.unitBytes
  let w := if spaceOf d.dst = 3 then 8 else 128
  (List.range d.runs).flatMap (fun r =>
    numbered r (r * n) 0 (chunks w (spaceSize (spaceOf d.dst)) n (d.dstOff r) n))

/-- The places of a source run and of a piece's destination. -/
def CopyDesc.srcLoc (d : CopyDesc) (c : Nat) (a : Nat) : Loc := locate c (spaceOf d.src) a
def CopyDesc.dstLoc (d : CopyDesc) (c : Nat) (p : Piece) : Loc := locate c (spaceOf d.dst) p.dst
/-- Places with their bytes that a copy of core c reads, and that it writes. -/
def CopyDesc.reads (d : CopyDesc) (c : Nat) : List (Loc × Nat) := d.srcRuns.map (fun r => (d.srcLoc c r.1, r.2))
def CopyDesc.writes (d : CopyDesc) (c : Nat) : List (Loc × Nat) := d.pieces.map (fun p => (d.dstLoc c p, p.n))

/-! ### Regions (R196) -/

/-- The shortest cyclic run of lines that covers a set of lines modulo 4096, ties to the lowest first; the
set as a sparse table. -/
def coverRun (ls : List Nat) : Option (Nat × Nat) :=
  let first := ls.headD 0
  let last := ls.getLastD 0
  let cand := (first, last - first + 1) ::
    ((ls.zip (ls.drop 1)).map (fun q => (q.2, 4096 + q.1 - q.2 + 1)))
  if ls.isEmpty then none
  else some (cand.foldl (fun b x => if x.2 < b.2 || (x.2 = b.2 && x.1 < b.1) then x else b) (first, last - first + 1))
/-- The regions of a set of lines or rows: one, or two where the run wraps (R196). -/
def regionsOf (acc write : Bool) (op : Nat) (ls : List Nat) : List Region :=
  match coverRun ls with
  | none => []
  | some (f, n) =>
    if f + n ≤ 4096 then [⟨acc, f, f + n - 1, write, op⟩]
    else [⟨acc, f, 4095, write, op⟩, ⟨acc, 0, f + n - 4097, write, op⟩]
/-- Lines or rows from byte a on for n bytes, as a sorted set added to m. -/
def addLines (a n : Nat) (m : Sparse Bool) : Sparse Bool :=
  let m := Sparse.put false (a / 128 % 4096) true m
  if n = 0 then m else Sparse.put false ((a + n - 1) / 128 % 4096) true m
/-- The lines that places touch in this core's own scratchpad (acc false) or accumulator. -/
def linesOf (acc : Bool) (ps : List (Loc × Nat)) : List Nat :=
  (ps.foldl (fun m p => match p.1 with
    | .spm a => if acc then m else addLines a p.2 m
    | .acc a => if acc then addLines a p.2 m else m
    | _ => m) []).map Prod.fst
/-- The scoreboard regions of a copy of core c: what it reads and writes in this core (R196). -/
def CopyDesc.regions (d : CopyDesc) (c op : Nat) : List Region :=
  let rs := d.reads c
  let ws := d.writes c
  regionsOf false false op (linesOf false rs) ++ regionsOf true false op (linesOf true rs)
    ++ regionsOf false true op (linesOf false ws) ++ regionsOf true true op (linesOf true ws)

/-- Do two byte runs of one 512 KiB store overlap? -/
def runsMeet (a n b m : Nat) : Bool := decide (a < b + m) && decide (b < a + n)
/-- Do the bytes a box reads and writes in one local space share any byte (R219)? -/
def CopyDesc.overlaps (d : CopyDesc) (c : Nat) : Bool :=
  let ws := d.writes c
  (d.reads c).any (fun r => ws.any (fun w => match r.1, w.1 with
    | .spm a, .spm b => runsMeet a r.2 b w.2
    | .acc a, .acc b => runsMeet a r.2 b w.2
    | _, _ => false))

/-- Is the place in a register window (R210)? -/
def Loc.isReg : Loc → Bool
  | .ownReg _ => true
  | .rreg _ _ => true
  | _ => false
/-- The other core whose window holds the place. -/
def Loc.otherCore : Loc → Option Nat
  | .rspm c _ => some c
  | .racc c _ => some c
  | .rreg c _ => some c
  | .rhole c => some c
  | _ => none

/-- The lowest handle-state subcode a copy of core c earns at issue, 0 where none (R220, R221); the deadlock
of R197 apart. The nominal source bytes of a CGOX from an on-chip space are judged for 0x16 alone, not for 0x04 and 0x13 (DESIGN
CHOICE, log entry 126). -/
def Core.copyCheck (k : Core) (g : Hm) (c : Nat) (d : CopyDesc) (h : Nat) : Nat :=
  let ok := copyAddrOk d.dst && copyAddrOk d.src
  let ws := if ok then d.writes c else []
  let rs := if ok then d.reads c else []
  let dls := ws.map Prod.fst
  let sls := if ok then d.srcSpan.map (fun r => d.srcLoc c r.1) else []
  let bytes := d.bytes
  let limit := if d.ckind = 1 then 0x7FFFFF else 0xFFFFF
  let bad12 := !ok || d.ckind == 3
  let bad11 := decide (bytes = 0) || decide (limit < bytes)
  let lines := linesOf false rs ++ linesOf false ws
  let bank := lines.any (fun l =>
    let b := Sparse.get BankState.released (l / 256) k.banks
    b == .released || b == .releasing)
  let regDst := dls.any Loc.isReg
  let aligned := (d.dst.toNat % 8 == 0) && (d.count 0 % 8 == 0)
    && [1, 2, 3, 4, 5].all (fun n => d.count n ≤ 1 || d.dstr n % 8 == 0)
  if bank then 0x04
  else if d.ckind = 0 && decide ((k.handle g h).st ≠ .free) then 0x10
  else if bad11 then 0x11
  else if bad12 then 0x12
  else if d.overlaps c then 0x13
  else if (d.ckind == 1 && decide (7 < h)) || (d.ckind == 2 && (dls.isEmpty || dls.any (fun l => l.otherCore == none)))
    then 0x14
  else if sls.any Loc.isReg || (regDst && !aligned) then 0x15
  else if d.x && (decide (spaceOf d.src ≠ 0) || regDst) then 0x16
  else 0

/-- The descriptor of a copy issued now from the registers of fields a and b (R216-R220). -/
def State.copyDesc (s : State) (x : Bool) (a b : BitVec 6) : CopyDesc :=
  let k := s.k
  { dst := s.reg (s.rA a), src := s.reg (s.rB b), cctl := k.cctl, x := x, levels := k.levels,
    scope := s.scope, hint := s.hint }

/-- Queue entries in use (R230 q3): copies that have not left the counter. -/
def Core.queueUse (k : Core) : Nat := (k.copies.filter (fun c => !c.left)).length

/-- The landing-queue entries of a core whose rows meet an engine operation's regions: how many virtual
cycles of bubbles its issue costs (R159). -/
def Core.bubblesFor (k : Core) (rs : List Region) : Nat :=
  k.lq.foldl (fun n e =>
    if decide (e.kind = .vector)
        && (List.range 32).any (fun u => e.lmask.getLsbD u
          && rs.any (fun r => r.acc && decide (r.first ≤ elemRow e.vwb e.vrot e.dest u)
            && decide (elemRow e.vwb e.vrot e.dest u ≤ r.last)))
    then max n e.remv else n) 0

/-- Does the engine operation wait on a handle in FREE: a call not yet started, or one held by a WAITH (R197)? -/
def Core.opWaitsFree (k : Core) (g : Hm) (op : Nat) : Bool :=
  k.calls.any (fun c => c.id == op &&
    (if c.started then
      (match decodeMicro (k.microWord c.gen c.pc) with
        | some (.waith h) => decide ((k.handle g h.toNat).st = .free)
        | _ => false)
    else decide ((k.handle g c.hin).st = .free)))
/-- Does every registered region belong to an operation that waits on a FREE handle (R197)? -/
def Core.deadlocked (k : Core) (g : Hm) : Bool := !k.regions.isEmpty && k.regions.all (fun r => k.opWaitsFree g r.op)

/-- Do two regions share a line or row, one of them written? -/
def Region.conflicts (a b : Region) : Bool :=
  a.acc == b.acc && decide (a.first ≤ b.last) && decide (b.first ≤ a.last) && (a.write || b.write)
/-- The banks that engine operation op of core c touches: by the lines of a copy, by the declared regions of a call. A preload
fills its own banks (R200). -/
def Core.opBanks (k : Core) (c op : Nat) : List Nat :=
  if k.preloads.any (fun p => p.1 == op) then []
  else match k.copy op with
    | some x => (linesOf false (x.desc.reads c ++ x.desc.writes c)).map (· / 256)
    | none => (k.regions.filter (fun r => r.op == op && !r.acc)).flatMap (fun r =>
        (List.range 16).filter (fun b => decide (r.first / 256 ≤ b) && decide (b ≤ r.last / 256)))
/-- Is an engine operation of core c free of the regions of earlier ones (R196), and no bank it touches PRELOADING (R198)? -/
def Core.engineClear (k : Core) (c op : Nat) : Bool :=
  (k.regions.filter (fun r => r.op == op)).all (fun r =>
    (k.regions.filter (fun q => decide (q.op < op))).all (fun q => !r.conflicts q))
  && (k.opBanks c op).all (fun b => Sparse.get BankState.released b k.banks != .preloading)

/-- The verdict of an engine operation's regions: the deadlock trap, a wait, or room (R197). -/
def Core.regionVerdict (k : Core) (g : Hm) (rs : List Region) : Verdict :=
  if k.regions.length + rs.length ≤ 32 then .go
  else if k.deadlocked g then trapV 9 7 else .wait

/-- CLVL (R216): level registers, or CCTL for n = 6. -/
def execClvl (p : BitVec 3) (n a b : BitVec 6) (s : State) : Out :=
  slotMeaning p [s.rA a, s.rB b] none false
    (fun s =>
      let v := s.reg (s.rA a)
      if n = 6#6 then
        trapIf (decide ((v.extractLsb' 16 16).toNat ≠ 0) || decide ((v.extractLsb' 0 2).toNat ≠ 0)
          || decide ((v.extractLsb' 3 2).toNat = 3)) 9 0x12 .go
      else trapIf (decide (2 ^ 20 ≤ v.toNat)) 9 0x12 .go)
    (fun s =>
      let v := s.reg (s.rA a)
      let w := s.reg (s.rB b)
      s.updK (fun k =>
        if n = 6#6 then { k with cctl := v }
        else
          let l : Level := ⟨v.setWidth 20, w.setWidth 32, w.extractLsb' 32 32⟩
          { k with levels := Sparse.put {} n.toNat l k.levels })) s

/-- Is core c2 held by the tenancy of generation g (R211)? -/
def State.heldBy (s : State) (c2 : Nat) (g : Hm) : Bool :=
  match s.tenOf (dieOf c2) g with
  | some t => g != platformGen && (s.core c2).ten == some t
  | none => false
/-- Translate a copy address of SPACE 000b (R97, R277). -/
def State.translateCopy (s : State) (c : Nat) (g : Hm) (va : Nat) (p : Perm) : Except Nat Target :=
  let d := dieOf c
  if g = platformGen then s.translateDla d va
  else match s.tenOf d g with
    | some t => s.translateVa d t (s.die d).etlb va p
    | none => .error 3
/-- FMT and GEO that a copy records (R220, R223): WFMT's of a CGOX, LFMT and LGEO of a local source, and of a virtual address
the source page's; where that page does not translate the copy will fault, and the record keeps what it held. -/
def State.copyFmt (s : State) (c : Nat) (g : Hm) (d : CopyDesc) (was : Nat × Nat) : Nat × Nat :=
  if d.x then (d.wfmtCode, 0)
  else if spaceOf d.src ≠ 0 then (d.lfmt, d.lgeo)
  else match s.translateCopy c g (d.srcOff 0) .read with
    | .ok t => (t.fmt, t.geo)
    | .error _ => was
/-- CGO and CGOX (R220): the checks, the sequence number, the expectation, the regions, the bubbles, and the
copy in the queue. -/
def copyIssue (x : Bool) (p : BitVec 3) (h a b : BitVec 6) (s : State) : Out :=
  slotMeaning p [s.rA a, s.rB b] none false
    (fun s =>
      let k := s.k
      let d := s.copyDesc x a b
      let sub := k.copyCheck s.gen s.cur.core d h.toNat
      if sub = 0x04 || sub = 0x12 then trapV 9 sub
      else
        match k.regionVerdict s.gen (d.regions s.cur.core k.nextId) with
        | .trap c u e l x => .trap c u e l x
        | v => if sub ≠ 0 then trapV 9 sub else if 64 ≤ k.queueUse then .wait else v)
    (fun s =>
      let d := s.copyDesc x a b
      let g := s.gen
      let me := s.cur.core
      s.updK (fun k =>
        let rs := d.regions me k.nextId
        let was := k.handle g h.toNat
        let f := s.copyFmt me g d (was.fmt.toNat, was.geo.toNat)
        let c : Copy := {
          forkAt := s.nextWid, id := k.nextId, seq := k.copySeq + 1, desc := d, gen := g, bytes := d.bytes,
          obj := match d.ckind with
            | 0 => .handle h.toNat
            | 1 => .barrier h.toNat
            | _ => .remote (((d.pieces.map (d.dstLoc me)).findSome? Loc.otherCore).getD 0) h.toNat
          posted := !(d.ckind == 2 && d.post) }
        let k := if d.ckind = 0 then k.setHandle g h.toNat { was with
            exp := d.bytes, cnt := 0, fmt := BitVec.ofNat 6 f.1, geo := BitVec.ofNat 3 f.2, refetch := true,
            st := .filling, desc := some d, rolled := false } else k
        { k with nextId := k.nextId + 1, copySeq := k.copySeq + 1, copies := k.copies ++ [c],
                 ncp := k.ncp + 1, regions := k.regions ++ rs, engineOp := some k.nextId })) s
/-- CGO (R220). -/
def execCgo (p : BitVec 3) (h a b : BitVec 6) (s : State) : Out := copyIssue false p h a b s
/-- CGOX (R220). -/
def execCgox (p : BitVec 3) (h a b : BitVec 6) (s : State) : Out := copyIssue true p h a b s
/-- CQRY: the value is taken when the query is served (R230). -/
def execCqry (p : BitVec 3) (d a q : BitVec 6) (s : State) : Out :=
  slotMeaning p [s.rA a] (some (s.rD d)) true noTrap
    (fun s =>
      let g := s.gen
      let n := s.rD d
      let v := s.reg (s.rA a)
      s.updK (fun k => { k with
        pend := k.pend ++ [⟨k.nextId, k.inShadow n 56, n, g, none, false, some (.copy q.toNat v), false⟩],
        nextId := k.nextId + 1 })) s

end Sys2Proof.Machine
end

