-- ==== Sys2Proof/Machine/Matrix.lean ====
section
/-! DEFINITION. The matrix instructions (spec 11 R239-R249, R267-R270): parameter registers, the microprogram
store and routine table, MXCALL and its checks, MXSTAT, and the ROM library. -/
namespace Sys2Proof.Machine

/-- MXP (R241). -/
def execMxp (p m : BitVec 3) (a : BitVec 6) (s : State) : Out :=
  slotMeaning p [s.rA a] none false noTrap
    (fun s => s.updK (fun k => { k with mparams := Sparse.put {} m.toNat ⟨s.reg (s.rA a), s.gen⟩ k.mparams })) s
/-- MXPR (R242). -/
def execMxpr (p : BitVec 3) (d : BitVec 6) (m : BitVec 3) (s : State) : Out :=
  slotMeaning p [] (some (s.rD d)) false noTrap
    (fun s => s.putScalar Config.latALU (s.rD d) (s.k.param s.gen m.toNat)) s

/-- FIRST and count of MXLDU (R245). -/
def ldFirst (b : W64) : Nat := b.toNat % 256
def ldCount (b : W64) : Nat := b.toNat / 256 % 256 + 1
/-- MXLDU: held until the engine is idle (R245). -/
def execMxldu (p : BitVec 3) (a b : BitVec 6) (s : State) : Out :=
  slotMeaning p [s.rA a, s.rB b] none false
    (fun s =>
      let k := s.k
      let x := s.reg (s.rA a)
      let y := s.reg (s.rB b)
      let lines := (List.range (ldCount y)).map (fun i => (x.toNat + 8 * i) % 2 ^ 19 / 128)
      let st := lines.map (fun l => Sparse.get BankState.released (l / 256) k.banks)
      trapIf (st.contains .released || st.contains .releasing) 9 0x04
        (trapIf (decide (ldFirst y < 128)) 9 0x24
          (trapIf (decide (x.toNat % 8 ≠ 0) || decide (2 ^ 16 ≤ y.toNat) || decide (256 < ldFirst y + ldCount y)) 9 0x25
            (if st.contains .preloading || lines.any (fun l => k.lineWait l false) || !k.calls.isEmpty then .wait else .go))))
    (fun s =>
      let x := s.reg (s.rA a)
      let y := s.reg (s.rB b)
      let g := s.gen
      s.updK (fun k => { k with uwords := (List.range (ldCount y)).foldl (fun m i =>
        Sparse.put {} (ldFirst y + i) ⟨BitVec.ofNat 64 (k.spmBytes g (x.toNat + 8 * i) 8), g⟩ m) k.uwords })) s
/-- MXRT: held until the engine is idle (R246). -/
def execMxrt (p : BitVec 3) (n a : BitVec 6) (s : State) : Out :=
  slotMeaning p [s.rA a] none false
    (fun s =>
      let x := s.reg (s.rA a)
      let start := x.toNat % 256
      let lenM1 := x.toNat / 256 % 256
      trapIf (decide (n.toNat < 16)) 9 0x24
        (trapIf (decide (2 ^ 20 ≤ x.toNat) || decide (255 < start + lenM1) || decide (start < 128)) 9 0x25
          (if s.k.calls.isEmpty then .go else .wait)))
    (fun s => s.updK (fun k => { k with uents := Sparse.put {} n.toNat ⟨s.reg (s.rA a), s.gen⟩ k.uents })) s

/-! ### The status file (R267, R268) -/

/-- The word that the engine can post in the entry of handle h. -/
def Core.statusReady (k : Core) (h : Nat) : Option W64 := (Sparse.get {} h k.status : StatusEntry).final
/-- The entry of handle h is posted: every MXSTAT that awaits it has its value (R267, R268). -/
def Core.postStatus (k : Core) (h : Nat) (v : W64) : Core :=
  { k with
    status := Sparse.put {} h ⟨v, false, none⟩ k.status
    pend := k.pend.map (fun q => if q.query = some (.status h) then { q with value := some v, query := none } else q) }

/-! ### MXCALL (R247, R248) -/

/-- Is a region descriptor well formed (R247)? -/
def regionOk (r : W64) : Bool :=
  decide ((r.extractLsb' 62 2).toNat ≠ 3) && decide ((r.extractLsb' 44 18).toNat = 0)
    && decide ((r.extractLsb' 12 20).toNat = 0) && decide ((r.extractLsb' 0 12).toNat ≤ (r.extractLsb' 32 12).toNat)
/-- The scoreboard region of a descriptor. -/
def regionOf (op : Nat) (r : W64) : Region :=
  let kind := (r.extractLsb' 62 2).toNat
  ⟨decide (kind ≠ 0), (r.extractLsb' 0 12).toNat, (r.extractLsb' 32 12).toNat, decide (kind = 2), op⟩
/-- The descriptors that an entry's REGM names (R244, R247). -/
def descriptorsOf (ent : W64) (ps : List W64) : List W64 :=
  ((List.range 4).filter (fun i => ent.getLsbD (16 + i))).map (fun i => ps.getD (4 + i) 0)
/-- Do two regions of a list of write regions share a row? -/
def writesMeet : List Region → Bool
  | [] => false
  | r :: t => t.any (fun q => decide (q.first ≤ r.last) && decide (r.first ≤ q.last)) || writesMeet t
/-- Rows of a region. -/
def Region.rows (r : Region) : Nat := r.last - r.first + 1
/-- The regions of a call to routine n, none where the entry is empty or a descriptor malformed. -/
def Core.callRegions (k : Core) (ent : W64) (ps : List W64) : Option (List Region) :=
  let ds := descriptorsOf ent ps
  let rs := ds.map (regionOf k.nextId)
  let ws := rs.filter (fun r => r.acc && r.write)
  if ds.all regionOk && !ws.isEmpty && !writesMeet ws then some rs else none
/-- The snapshot of m0-m7 (R240). -/
def Core.snapshot (k : Core) (g : Hm) : List W64 := (List.range 8).map (k.param g)
/-- The lowest subcode that MXCALL earns, 0 where none, the deadlock of R197 apart (R248). -/
def Core.callCheck (k : Core) (g : Hm) (h i r : Nat) : Nat :=
  match k.routine g r with
  | none => 0x20
  | some ent =>
    let rs := k.callRegions ent (k.snapshot g)
    let bank := (((descriptorsOf ent (k.snapshot g)).filter regionOk).map (regionOf 0)).any (fun q => !q.acc
      && (List.range 16).any (fun b => decide (q.first / 256 ≤ b) && decide (b ≤ q.last / 256)
        && (let st := Sparse.get BankState.released b k.banks
            st == .released || st == .releasing)))
    if bank then 0x04
    else if (k.handle g h).st ≠ .free then 0x21
    else if h = i then 0x22
    else if rs.isNone then 0x23
    else 0
/-- MXCALL (R248). -/
def execMxcall (p : BitVec 3) (h i : BitVec 6) (r : BitVec 5) (s : State) : Out :=
  slotMeaning p [] none false
    (fun s =>
      let k := s.k
      let g := s.gen
      let sub := k.callCheck g h.toNat i.toNat r.toNat
      let rs := match k.routine g r.toNat with
        | none => []
        | some ent => (k.callRegions ent (k.snapshot g)).getD []
      if sub = 0x04 then trapV 9 sub
      else match k.regionVerdict g rs with
        | .trap c u e l x => .trap c u e l x
        | v => if sub ≠ 0 then trapV 9 sub else if 8 ≤ k.calls.length then .wait else v)
    (fun s =>
      let g := s.gen
      s.updK (fun k =>
        -- the entry of an earlier call is posted first: an MXSTAT keeps the call it awaits
        let k := match k.statusReady h.toNat with
          | some v => k.postStatus h.toNat v
          | none => k
        let ent := (k.routine g r.toNat).getD 0
        let ps := k.snapshot g
        let rs := (k.callRegions ent ps).getD []
        let rows := ((rs.filter (fun q => q.acc && q.write)).map Region.rows).foldl (· + ·) 0
        let c : Call := {
          id := k.nextId, regs := rs, start := ent.toNat % 256, len := ent.toNat / 256 % 256 + 1, snap := ps, params := ps,
          hout := h.toNat, hin := i.toNat, gen := g, scope := s.scope, pc := ent.toNat % 256
          forkAt := s.nextWid }
        let k := k.setHandle g h.toNat { (k.handle g h.toNat) with
          exp := 128 * rows, cnt := 0, refetch := false, desc := none, st := .filling }
        { k with nextId := k.nextId + 1, regions := k.regions ++ rs, calls := k.calls ++ [c], ntl := k.ntl + 1,
                 engineOp := some k.nextId,
                 status := Sparse.upd {} h.toNat (fun e => { e with awaited := true, final := none }) k.status })) s

/-- MXSTAT: an awaited entry leaves the register pending until it is posted (R268). -/
def execMxstat (p : BitVec 3) (d h : BitVec 6) (s : State) : Out :=
  slotMeaning p [] (some (s.rD d)) true noTrap
    (fun s =>
      let g := s.gen
      let n := s.rD d
      s.updK (fun k =>
        let e := Sparse.get {} h.toNat k.status
        { k with nextId := k.nextId + 1, pend := k.pend ++ [⟨k.nextId, k.inShadow n 56, n, g,
          if e.awaited then none else some e.val, false, if e.awaited then some (.status h.toNat) else none, false⟩] })) s

end Sys2Proof.Machine
end

