-- ==== Sys2Proof/Machine/Scalar.lean ====
section
/-! DEFINITION. Scalar registers, predicates and integer arithmetic (spec 04), and CMPT (spec 03 R64). -/
namespace Sys2Proof.Machine

/-- NOP has no effect (R22). -/
def execNop (s : State) : Out :=
  if s.cur.mode = .probe then ok { s with cur := { s.cur with verdict := .go } } else ok s

/-- A register-to-register operation of latency lat (R71). -/
def aluOp (lat : Nat) (f : W64 → W64 → W64) (p : BitVec 3) (d a b : BitVec 6) (s : State) : Out :=
  slotMeaning p [s.rA a, s.rB b] (some (s.rD d)) false noTrap
    (fun s => s.putScalar lat (s.rD d) (f (s.reg (s.rA a)) (s.reg (s.rB b)))) s

/-- A one-source operation (R71). -/
def aluOp1 (f : W64 → W64) (p : BitVec 3) (d a : BitVec 6) (s : State) : Out :=
  slotMeaning p [s.rA a] (some (s.rD d)) false noTrap
    (fun s => s.putScalar Config.latALU (s.rD d) (f (s.reg (s.rA a)))) s

/-- A register and an immediate (R76, R77). -/
def aluImm (f : W64 → W64) (p : BitVec 3) (d a : BitVec 6) (s : State) : Out := aluOp1 f p d a s

/-- ADD (R71). -/
def execAdd (p : BitVec 3) (d a b : BitVec 6) (s : State) : Out :=
  aluOp Config.latALU (fun a b => a + b) p d a b s
/-- SUB (R71). -/
def execSub (p : BitVec 3) (d a b : BitVec 6) (s : State) : Out :=
  aluOp Config.latALU (fun a b => a - b) p d a b s
/-- AND (R71). -/
def execAnd (p : BitVec 3) (d a b : BitVec 6) (s : State) : Out :=
  aluOp Config.latALU (fun a b => a &&& b) p d a b s
/-- OR (R71). -/
def execOr (p : BitVec 3) (d a b : BitVec 6) (s : State) : Out :=
  aluOp Config.latALU (fun a b => a ||| b) p d a b s
/-- XOR (R71). -/
def execXor (p : BitVec 3) (d a b : BitVec 6) (s : State) : Out :=
  aluOp Config.latALU (fun a b => a ^^^ b) p d a b s
/-- ANDN (R71). -/
def execAndn (p : BitVec 3) (d a b : BitVec 6) (s : State) : Out :=
  aluOp Config.latALU (fun a b => a &&& ~~~b) p d a b s
/-- ORN (R71). -/
def execOrn (p : BitVec 3) (d a b : BitVec 6) (s : State) : Out :=
  aluOp Config.latALU (fun a b => a ||| ~~~b) p d a b s
/-- SHL (R72). -/
def execShl (p : BitVec 3) (d a b : BitVec 6) (s : State) : Out :=
  aluOp Config.latALU (fun a b => a <<< (b.toNat % 64)) p d a b s
/-- SHR (R72). -/
def execShr (p : BitVec 3) (d a b : BitVec 6) (s : State) : Out :=
  aluOp Config.latALU (fun a b => a >>> (b.toNat % 64)) p d a b s
/-- SAR (R72). -/
def execSar (p : BitVec 3) (d a b : BitVec 6) (s : State) : Out :=
  aluOp Config.latALU (fun a b => a.sshiftRight (b.toNat % 64)) p d a b s
/-- MIN, signed (R71). -/
def execMin (p : BitVec 3) (d a b : BitVec 6) (s : State) : Out :=
  aluOp Config.latALU (fun a b => if a.slt b then a else b) p d a b s
/-- MAX, signed (R71). -/
def execMax (p : BitVec 3) (d a b : BitVec 6) (s : State) : Out :=
  aluOp Config.latALU (fun a b => if a.slt b then b else a) p d a b s
/-- MINU (R71). -/
def execMinu (p : BitVec 3) (d a b : BitVec 6) (s : State) : Out :=
  aluOp Config.latALU (fun a b => if a.ult b then a else b) p d a b s
/-- MAXU (R71). -/
def execMaxu (p : BitVec 3) (d a b : BitVec 6) (s : State) : Out :=
  aluOp Config.latALU (fun a b => if a.ult b then b else a) p d a b s
/-- CLZ (R72). -/
def execClz (p : BitVec 3) (d a : BitVec 6) (s : State) : Out := aluOp1 clz64 p d a s
/-- POPC (R71). -/
def execPopc (p : BitVec 3) (d a : BitVec 6) (s : State) : Out := aluOp1 popc64 p d a s
/-- BFX (R73). -/
def execBfx (p : BitVec 3) (d a b : BitVec 6) (s : State) : Out := aluOp Config.latALU bitFieldExtract p d a b s
/-- BFI reads its destination as a third source (R73). -/
def execBfi (p : BitVec 3) (d a b : BitVec 6) (s : State) : Out :=
  slotMeaning p [s.rA a, s.rB b, s.rD d] (some (s.rD d)) false noTrap
    (fun s => s.putScalar Config.latALU (s.rD d)
      (bitFieldInsert (s.reg (s.rD d)) (s.reg (s.rA a)) (s.reg (s.rB b)))) s
/-- CMPT traps where its operands differ (R64). -/
def execCmpt (p : BitVec 3) (a b : BitVec 6) (s : State) : Out :=
  slotMeaning p [s.rA a, s.rB b] none false
    (fun s => trapIf (decide (s.reg (s.rA a) ≠ s.reg (s.rB b))) 3 1 .go) id s

/-- MUL (R74). -/
def execMul (p : BitVec 3) (d a b : BitVec 6) (s : State) : Out :=
  aluOp Config.latMUL (fun a b => a * b) p d a b s
/-- MULH (R74). -/
def execMulh (p : BitVec 3) (d a b : BitVec 6) (s : State) : Out := aluOp Config.latMUL mulHigh p d a b s
/-- MULHU (R74). -/
def execMulhu (p : BitVec 3) (d a b : BitVec 6) (s : State) : Out := aluOp Config.latMUL mulHighU p d a b s

/-- A division or remainder: arithmetic trap 0x01 where the divisor is zero (R74, R75). -/
def divOp (f : W64 → W64 → W64) (p : BitVec 3) (d a b : BitVec 6) (s : State) : Out :=
  slotMeaning p [s.rA a, s.rB b] (some (s.rD d)) false
    (fun s => trapIf (decide (s.reg (s.rB b) = 0)) 2 1 .go)
    (fun s => s.putScalar Config.latDIV (s.rD d) (f (s.reg (s.rA a)) (s.reg (s.rB b)))) s
/-- DIV truncates toward zero; -2^63 by -1 gives the dividend (R74, R75). -/
def execDiv (p : BitVec 3) (d a b : BitVec 6) (s : State) : Out := divOp BitVec.sdiv p d a b s
/-- DIVU (R74). -/
def execDivu (p : BitVec 3) (d a b : BitVec 6) (s : State) : Out := divOp BitVec.udiv p d a b s
/-- REM has the sign of the dividend; -2^63 by -1 gives 0 (R74, R75). -/
def execRem (p : BitVec 3) (d a b : BitVec 6) (s : State) : Out := divOp BitVec.srem p d a b s
/-- REMU (R74). -/
def execRemu (p : BitVec 3) (d a b : BitVec 6) (s : State) : Out := divOp BitVec.umod p d a b s

/-- CMP (R80). -/
def execCmp (p : BitVec 3) (d : BitVec 3) (a b : BitVec 6) (c : BitVec 5) (s : State) : Out :=
  slotMeaning p [s.rA a, s.rB b] none false noTrap
    (fun s => s.putPred (s.pD d) (condHolds c.toNat (s.reg (s.rA a)) (s.reg (s.rB b)))) s
/-- CMPI, signed conditions (R81). -/
def execCmpi (p c d : BitVec 3) (a : BitVec 6) (i : BitVec 11) (s : State) : Out :=
  slotMeaning p [s.rA a] none false noTrap
    (fun s => s.putPred (s.pD d) (condHolds c.toNat (s.reg (s.rA a)) (s.imm i))) s
/-- CMPI, unsigned conditions against the same sign-extended immediate (R81). -/
def execCmpiu (p c d : BitVec 3) (a : BitVec 6) (i : BitVec 11) (s : State) : Out :=
  slotMeaning p [s.rA a] none false noTrap
    (fun s => s.putPred (s.pD d) (condHolds (6 + c.toNat) (s.reg (s.rA a)) (s.imm i))) s
/-- SEL (R82). -/
def execSel (p : BitVec 3) (d a b : BitVec 6) (n : BitVec 3) (s : State) : Out :=
  slotMeaning p [s.rA a, s.rB b] (some (s.rD d)) false noTrap
    (fun s => s.putScalar Config.latALU (s.rD d)
      (if s.prd (s.pS n) then s.reg (s.rA a) else s.reg (s.rB b))) s

/-- A predicate operation (R83). -/
def predOp (f : Bool → Bool → Bool) (p d a b : BitVec 3) (s : State) : Out :=
  slotMeaning p [] none false noTrap
    (fun s => s.putPred (s.pD d) (f (s.prd (s.pA a)) (s.prd (s.pB b)))) s
/-- PAND (R83). -/
def execPand (p d a b : BitVec 3) (s : State) : Out := predOp and p d a b s
/-- POR (R83). -/
def execPor (p d a b : BitVec 3) (s : State) : Out := predOp or p d a b s
/-- PXOR (R83). -/
def execPxor (p d a b : BitVec 3) (s : State) : Out := predOp xor p d a b s

/-- The predicates p(n-1) to p0 as bits (R83). -/
def State.predBits (s : State) : Nat → Nat
  | 0 => 0
  | n + 1 => s.predBits n + (if s.prd n then 2 ^ n else 0)
/-- PGET: bit i is pi for i below 8 (R83). -/
def execPget (p : BitVec 3) (d : BitVec 6) (s : State) : Out :=
  slotMeaning p [] (some (s.rD d)) false noTrap
    (fun s => s.putScalar Config.latALU (s.rD d) (BitVec.ofNat 64 (s.predBits 8))) s
/-- PSET (R83). -/
def execPset (p d : BitVec 3) (a : BitVec 6) (s : State) : Out :=
  slotMeaning p [s.rA a] none false noTrap
    (fun s => s.putPred (s.pD d) (decide (s.reg (s.rA a) ≠ 0))) s

/-- ADDI (R76). -/
def execAddi (p : BitVec 3) (d a : BitVec 6) (i : BitVec 11) (s : State) : Out :=
  aluImm (fun x => x + s.imm i) p d a s
/-- ANDI (R76). -/
def execAndi (p : BitVec 3) (d a : BitVec 6) (i : BitVec 11) (s : State) : Out :=
  aluImm (fun x => x &&& s.imm i) p d a s
/-- ORI (R76). -/
def execOri (p : BitVec 3) (d a : BitVec 6) (i : BitVec 11) (s : State) : Out :=
  aluImm (fun x => x ||| s.imm i) p d a s
/-- XORI (R76). -/
def execXori (p : BitVec 3) (d a : BitVec 6) (i : BitVec 11) (s : State) : Out :=
  aluImm (fun x => x ^^^ s.imm i) p d a s
/-- SHLI (R77). -/
def execShli (p : BitVec 3) (d a n : BitVec 6) (s : State) : Out := aluImm (fun x => x <<< n.toNat) p d a s
/-- SHRI (R77). -/
def execShri (p : BitVec 3) (d a n : BitVec 6) (s : State) : Out := aluImm (fun x => x >>> n.toNat) p d a s
/-- SARI (R77). -/
def execSari (p : BitVec 3) (d a n : BitVec 6) (s : State) : Out :=
  aluImm (fun x => x.sshiftRight n.toNat) p d a s
/-- MOVI (R78). -/
def execMovi (p : BitVec 3) (d : BitVec 6) (i : BitVec 17) (s : State) : Out :=
  slotMeaning p [] (some (s.rD d)) false noTrap
    (fun s => s.putScalar Config.latALU (s.rD d) (s.imm i)) s
/-- MOVHI shifts by 17, or by 25 under a kind-00 header, and inserts the unsigned immediate (R79). -/
def execMovhi (p : BitVec 3) (d : BitVec 6) (i : BitVec 17) (s : State) : Out :=
  slotMeaning p [s.rD d] (some (s.rD d)) false noTrap
    (fun s => s.putScalar Config.latALU (s.rD d)
      (match s.cur.kind with
        | .imm => (s.reg (s.rD d) <<< 25) ||| (s.cur.x ++ i).setWidth 64
        | _ => (s.reg (s.rD d) <<< 17) ||| i.setWidth 64)) s

end Sys2Proof.Machine
end

