-- ==== Sys2Proof/Machine/Aes.lean ====
section
/-! DEFINITION. The tag of AES-256-GCM over no plaintext (R428). PRESUMED: its definition is that of FIPS 197 and SP 800-38D (log
entry 13). A block is a list of 16 byte values in the order of the standards. -/
namespace Sys2Proof.Machine

/-! ### AES-256 -/

/-- The substitution of bytes, 32 entries a row, the first lowest. -/
def sboxRows : List Nat :=
  [0xC072A49CAFA2D4ADF04759FA7DC982CA76ABD7FE2B670130C56F6BF27B777C63,
   0x75B227EBE28012079A059618C323C7041531D871F1E5A534CCF73F362693FDB7,
   0xCF584C4A39BECB6A5BB1FC20ED00D153842FE329B3D63B52A05A6E1B1A2C8309,
   0xD2F3FF1021DAB6BCF5389D928F40A351A89F3C507F02F94585334D43FBAAEFD0,
   0xDB0B5EDE14B8EE4688902A22DC4F816073195D643D7EA7C41744975FEC130CCD,
   0x08AE7A65EAF4566CA94ED58D6D37C8E779E4959162ACD3C25C2406490A3A32E0,
   0x9E1DC186B95735610EF6034866B53E708A8BBD4B1F74DDE8C6B4A61C2E2578BA,
   0x16BB54B00F2D99416842E6BF0D89A18CDF2855CEE9871E9B948ED9691198F8E1]
def sbox (x : Nat) : Nat := sboxRows.getD (x / 32) 0 / 2 ^ (8 * (x % 32)) % 256
/-- Twice a byte in the field of 256 elements. -/
def xtime (x : Nat) : Nat := if x < 128 then 2 * x else Nat.xor (2 * x) 0x11B
/-- The sum of two lists of bytes. -/
def xorBytes (a b : List Nat) : List Nat := List.zipWith Nat.xor a b
/-- The words of the key schedule from the last eight on, n groups of eight: each group begins with a turned word. -/
def expandKey : Nat → Nat → List (List Nat) → List (List Nat)
  | 0, _, w => w
  | n + 1, rcon, w =>
    let old := fun (i : Nat) => w.getD i []
    let last := old 7
    let t := match (last.drop 1 ++ last.take 1).map sbox with
      | b :: r => Nat.xor b rcon :: r
      | [] => []
    let w0 := xorBytes (old 0) t
    let w1 := xorBytes (old 1) w0
    let w2 := xorBytes (old 2) w1
    let w3 := xorBytes (old 3) w2
    let w4 := xorBytes (old 4) (w3.map sbox)
    let w5 := xorBytes (old 5) w4
    let w6 := xorBytes (old 6) w5
    w ++ expandKey n (xtime rcon) [w0, w1, w2, w3, w4, w5, w6, xorBytes (old 7) w6]
/-- The fifteen round keys of a key of 32 bytes. -/
def roundKeys (key : List Nat) : List (List Nat) :=
  let w := expandKey 7 1 ((List.range 8).map (fun i => (key.drop (4 * i)).take 4))
  (List.range 15).map (fun r => ((w.drop (4 * r)).take 4).flatten)
/-- The rows of a block, byte r + 4 c in row r, turned left by r. -/
def shiftRows (s : List Nat) : List Nat := (List.range 16).map (fun i => s.getD ((i + 4 * (i % 4)) % 16) 0)
/-- One column mixed. -/
def mixColumn (c : List Nat) : List Nat :=
  let x := fun (i : Nat) => c.getD (i % 4) 0
  (List.range 4).map (fun i => Nat.xor (Nat.xor (xtime (x i)) (Nat.xor (xtime (x (i + 1))) (x (i + 1)))) (Nat.xor (x (i + 2)) (x (i + 3))))
def mixColumns (s : List Nat) : List Nat := (List.range 4).flatMap (fun c => mixColumn ((s.drop (4 * c)).take 4))
/-- The rounds after the first key: all but the last mix the columns. -/
def aesRounds : List (List Nat) → List Nat → List Nat
  | [], s => s
  | [k], s => xorBytes (shiftRows (s.map sbox)) k
  | k :: ks, s => aesRounds ks (xorBytes (mixColumns (shiftRows (s.map sbox))) k)
/-- A block enciphered under a key. -/
def aes256 (key block : List Nat) : List Nat :=
  match roundKeys key with
  | [] => block
  | k :: ks => aesRounds ks (xorBytes block k)

/-! ### GCM -/

/-- A block as a number, its first byte highest. -/
def beNum (bs : List Nat) : Nat := bs.foldl (fun v b => 256 * v + b) 0
/-- n bytes of a number, the highest first. -/
def beBytes (v n : Nat) : List Nat := (List.range n).map (fun i => v / 2 ^ (8 * (n - 1 - i)) % 256)
/-- The product of two blocks: bits of x from the highest on, v halved at each step. -/
def ghashMul (x : Nat) : Nat → Nat → Nat → Nat
  | 0, _, z => z
  | n + 1, v, z => ghashMul x n (if v % 2 = 1 then Nat.xor (v / 2) (0xE1 * 2 ^ 120) else v / 2)
      (if x / 2 ^ n % 2 = 1 then Nat.xor z v else z)
/-- Bytes as blocks, the last filled with zeros. -/
def gcmBlocks (bs : List Nat) : List Nat :=
  (List.range ((bs.length + 15) / 16)).map (fun i =>
    let b := (bs.drop (16 * i)).take 16
    beNum (b ++ List.replicate (16 - b.length) 0))
/-- The tag of additional data under a key of 32 bytes and a nonce of 12, over no plaintext: 16 bytes. -/
def gcmTagBytes (key nonce aad : List Nat) : List Nat :=
  let h := beNum (aes256 key (List.replicate 16 0))
  let y := (gcmBlocks aad ++ [8 * aad.length * 2 ^ 64]).foldl (fun y b => ghashMul (Nat.xor y b) 128 h 0) 0
  xorBytes (beBytes y 16) (aes256 key (nonce ++ [0, 0, 0, 1]))
/-- The byte values of a word, the lowest first. -/
def leBytes (v n : Nat) : List Nat := (bytesOf v n).map (·.toNat)
/-- TAG of a command frame, byte 0 lowest: key, nonce and the bytes covered (R428). -/
def gcmTag (key : BitVec 256) (nonce : BitVec 96) (aad : List Byte) : BitVec 128 :=
  BitVec.ofNat 128 ((gcmTagBytes (leBytes key.toNat 32) (leBytes nonce.toNat 12) (aad.map (·.toNat))).foldr (fun b v => b + 256 * v) 0)

end Sys2Proof.Machine
end

