-- ==== Sys2Proof/Machine/Hash.lean ====
section
/-! DEFINITION. The hash functions that the spec names: SHAKE256 for measurements and signatures of latency tables
(R432, R455) and SHA3-384 for attestation (R461). PRESUMED: their definition is FIPS 202's (log entry 13). -/
namespace Sys2Proof.Machine

/-- The state of the permutation: 25 lanes, lane (x, y) at x + 5 y. -/
abbrev Lanes := List W64
/-- Lane i. -/
def lane (a : Lanes) (i : Nat) : W64 := a.getD i 0
/-- The round constants. -/
def roundConstants : List W64 :=
  [0x0000000000000001, 0x0000000000008082, 0x800000000000808A, 0x8000000080008000, 0x000000000000808B,
   0x0000000080000001, 0x8000000080008081, 0x8000000000008009, 0x000000000000008A, 0x0000000000000088,
   0x0000000080008009, 0x000000008000000A] ++
  [0x000000008000808B, 0x800000000000008B, 0x8000000000008089, 0x8000000000008003, 0x8000000000008002,
   0x8000000000000080, 0x000000000000800A, 0x800000008000000A, 0x8000000080008081, 0x8000000000008080,
   0x0000000080000001, 0x8000000080008008]
/-- The rotation of lane x + 5 y. -/
def rotations : List Nat :=
  [0, 1, 62, 28, 27, 36, 44, 6, 55, 20, 3, 10, 43, 25, 39, 41, 45, 15, 21, 8, 18, 2, 61, 56, 14]
/-- One round. -/
def keccakRound (a : Lanes) (rc : W64) : Lanes :=
  let c := (List.range 5).map (fun x => lane a x ^^^ lane a (x + 5) ^^^ lane a (x + 10) ^^^ lane a (x + 15) ^^^ lane a (x + 20))
  let d := (List.range 5).map (fun x => lane c ((x + 4) % 5) ^^^ (lane c ((x + 1) % 5)).rotateLeft 1)
  let t := (List.range 25).map (fun i => lane a i ^^^ lane d (i % 5))
  -- lane (x, y) of t goes, rotated, to (y, 2 x + 3 y)
  let b := (List.range 25).map (fun j =>
    let y := j % 5
    let x := (j / 5 + 5 * 5 - 3 * y) * 3 % 5
    (lane t (x + 5 * y)).rotateLeft (rotations.getD (x + 5 * y) 0))
  (List.range 25).map (fun i =>
    let r := i / 5 * 5
    let v := lane b i ^^^ ((~~~(lane b (r + (i % 5 + 1) % 5))) &&& lane b (r + (i % 5 + 2) % 5))
    if i = 0 then v ^^^ rc else v)
/-- The permutation. -/
def keccak (a : Lanes) : Lanes := roundConstants.foldl keccakRound a
/-- A word of eight bytes, the first lowest. -/
def wordOf (bs : List Byte) : W64 := bs.foldr (fun b w => (w <<< 8) ||| b.setWidth 64) 0
/-- Lane i of a block. -/
def blockLane (bs : List Byte) (i : Nat) : W64 := wordOf ((bs.drop (8 * i)).take 8)
/-- Absorb whole blocks of `rate` bytes. -/
def absorb (rate : Nat) : Nat → List Byte → Lanes → Lanes
  | 0, _, a => a
  | n + 1, bs, a =>
    if bs.isEmpty then a
    else absorb rate n (bs.drop rate)
      (keccak ((List.range 25).map (fun i => lane a i ^^^ (if i < rate / 8 then blockLane (bs.take rate) i else 0))))
/-- The padded message: the suffix byte, zeros, and the last bit of the block. -/
def padded (rate : Nat) (suffix : Byte) (bs : List Byte) : List Byte :=
  let k := rate - bs.length % rate
  if k = 1 then bs ++ [suffix ||| 0x80]
  else bs ++ suffix :: (List.replicate (k - 2) 0 ++ [0x80])
/-- The bytes of n lanes. -/
def laneBytes (a : Lanes) (n : Nat) : List Byte :=
  (List.range (8 * n)).map (fun i => (lane a (i / 8) >>> (8 * (i % 8))).setWidth 8)
/-- The sponge with an output no longer than its rate. -/
def sponge (rate : Nat) (suffix : Byte) (n : Nat) (bs : List Byte) : List Byte :=
  let p := padded rate suffix bs
  (laneBytes (absorb rate (p.length / rate) p (List.replicate 25 0)) (rate / 8)).take n
/-- The first n bytes of SHAKE256, n at most 136. -/
def shake256 (n : Nat) (bs : List Byte) : List Byte := sponge 136 0x1F n bs
/-- SHA3-384: 48 bytes. -/
def sha3_384 (bs : List Byte) : List Byte := sponge 104 0x06 48 bs

end Sys2Proof.Machine
end

