-- ==== Sys2Proof/Machine/Order.lean ====
section
/-! DEFINITION. The abstract machine of global memory (spec 13): performance by scope, what each access waits
for, the sources of a load, and the transitions drain, send, hop, apply, serve, fill and evict. -/
namespace Sys2Proof.Machine

/-! ### Overlap and performance (R294, R302) -/

/-- Do two byte runs share a byte? -/
def meets (a n b m : Nat) : Bool := decide (a < b + m) && decide (b < a + n)
/-- Does the run at a hold all of the run at b? -/
def holds (a n b m : Nat) : Bool := decide (a ≤ b) && decide (b + m ≤ a + n)
/-- Is the access governed by R297: not through an unordered page? -/
def Acc.ordered (a : Acc) : Bool := a.tgt.ord != 2
/-- Does write w still stand in core k's store buffer? -/
def Core.inSb (k : Core) (w : Nat) : Bool := k.accs.any (fun a => a.kind == .store && !a.done && a.id == w)
/-- Does write w still stand in an ordering point? -/
def Die.inOp (x : Die) (w : Nat) : Bool := x.op.any (fun e => e.wid == w)
/-- Has write w not yet been performed at a scope of die or wider (R294)? A write to CXL memory is performed at package scope
once it stands in the I/O die's outbound queue. -/
def Die.unperformed (x : Die) (w sc : Nat) : Bool := 2 ≤ sc && x.op.any (fun e => e.wid == w && !(sc == 2 && e.out))
/-- Is access a of core c performed at a scope (R294)? -/
def State.performed (s : State) (c : Nat) (a : Acc) (sc : Nat) : Bool :=
  let k := s.core c
  let x := s.die (dieOf c)
  match a.kind with
  | .store => sc == 0 || (a.done && !x.unperformed a.id sc)
  | .fence _ => a.done
  | .thread => decide (sc ≤ 1) || !x.op.any (fun e => e.core == c && e.thr == some a.id && !(sc == 2 && e.out))
  | .amo _ => a.done
  | _ => a.done && (sc == 0 || a.reads.all (fun w => !k.inSb w && !x.unperformed w sc))

/-- Does an older access a leave access x free to be served or drained (R295-R300)? A release waits for the accesses of its own
generation only (R302). -/
def State.letsGo (s : State) (c : Nat) (x a : Acc) : Bool :=
  let both := a.ordered && x.ordered
  let touch := meets a.tgt.dla a.size x.tgt.dla x.size
  match a.kind with
  | .fence all => a.done || (!all && !x.ordered)
  | _ =>
    (!(a.acq && both) || a.done)
    && (!(x.ordered && x.tgt.ord == 0 && (a.tgt.ord == 0 || (a.strong && a.ordered))) || s.performed c a a.scope)
    && (!(x.rel && both && a.gen == x.gen) || s.performed c a x.scope)
    && (!(both && touch) ||
        (match x.kind, a.kind with
        | .store, _ => a.done
        | .amo _, .store => s.performed c a 3
        | .amo _, .load => if a.strong then s.performed c a 3 else a.done
        | .amo _, _ => a.done
        | .probe, _ => true
        | _, .store => true
        | _, _ => !(x.strong && a.strong) || a.done))
    && (!(x.kind == .probe && a.kind == .store && a.tgt.dla / 128 == x.tgt.dla / 128) || s.performed c a 3)
/-- May access x be served or drained, given the older accesses of its core? -/
def State.mayGo (s : State) (c : Nat) (older : List Acc) (x : Acc) : Bool := older.all (s.letsGo c x)

/-- Settle the accesses of a core in program order: fences whose older accesses of their generation are performed are
satisfied (R300, R302), stores performed at their scope leave the stores counter (R94), and what is performed at every scope
leaves the list. -/
def State.settleList (s : State) (c : Nat) : List Acc → List Acc → Nat → Bool → List Acc × Nat × Bool
  | older, [], n, e => (older, n, e)
  | older, a :: t, n, e =>
    let ok := match a.kind with
      | .fence all => older.all (fun b => b.gen != a.gen || (!all && !b.ordered) || s.performed c b a.scope)
      | _ => a.done
    let b := { a with done := ok }
    let e' := e || (a.kind == .fence true && ok && !a.done && decide (1 ≤ a.scope))
    let left := b.counted && s.performed c b b.scope
    let b := { b with counted := b.counted && !left }
    let n' := if left then n + 1 else n
    if s.performed c b 3 && !b.counted then s.settleList c older t n' e' else s.settleList c (older ++ [b]) t n' e'
/-- Settle core c. -/
def State.settle (s : State) (c : Nat) : State :=
  let k := s.core c
  if k.accs.isEmpty then s
  else
    let r := s.settleList c [] k.accs 0 false
    s.setCore c { k with accs := r.1, nst := k.nst - BitVec.ofNat 12 r.2.1, l0 := if r.2.2 then [] else k.l0 }
/-- Settle every core of die d. -/
def State.settleDie (s : State) (d : Nat) : State :=
  ((s.cores.map Prod.fst).filter (fun c => dieOf c == d)).foldl State.settle s

/-- Requests of core c in flight (R231). -/
def State.inFlight (s : State) (c : Nat) : Nat :=
  ((s.core c).accs.filter (fun a => match a.kind with
      | .store => a.counted
      | .load => !a.done
      | .amo _ => !a.done
      | _ => false)).length
    + (s.core c).prefs.length
    + (((s.die (dieOf c)).op).filter (fun e => e.core == c && e.thr.isSome)).length
    + (s.core c).copies.foldl (fun n x => n + x.held.length) 0

/-! ### Sources of a load (R293) -/

/-- The low n bytes at offset o of a datum. -/
def sliceOf (v o n : Nat) : Nat := v / 2 ^ (8 * o) % 2 ^ (8 * n)
/-- What a source answers: it holds none of the bytes, only some, or all of them with the write read. -/
inductive Source where
  | none | part
  | all (v : Nat) (w : Nat)
  deriving DecidableEq, Repr
/-- The store buffer's answer: the newest older store that touches the bytes. -/
def sbSource (older : List Acc) (t : Target) (n : Nat) : Source :=
  match (older.filter (fun a => a.kind == .store && !a.done && meets a.tgt.dla a.size t.dla n)).getLast? with
  | none => .none
  | some a =>
    if holds a.tgt.dla a.size t.dla n then
      .all (if a.tgt.gen = t.gen then sliceOf a.data.toNat (t.dla - a.tgt.dla) n else 0) a.id
    else .part
/-- The ordering point's answer. -/
def Die.opSource (x : Die) (t : Target) (n : Nat) : Source :=
  match (x.op.filter (fun e => meets e.tgt.dla e.size t.dla n)).getLast? with
  | none => .none
  | some e =>
    if holds e.tgt.dla e.size t.dla n then
      .all (if e.tgt.gen = t.gen then sliceOf e.data.toNat (t.dla - e.tgt.dla) n else 0) e.wid
    else .part
/-- The value that die d serves: its ordering point first, then the home (R293, items 3 and 4); the writes
read. None while it must wait. -/
def State.serveDie (s : State) (d : Nat) (t : Target) (n : Nat) : Option (Nat × List Nat) :=
  match (s.die d).opSource t n with
  | .all v w => some (v, [w])
  | .part => none
  | .none => if s.homeOpen t && s.wayOpen d t then some (s.read t.gen t.dla n, []) else none

/-! ### Port violations (R324) -/

/-- The port of stack k on die d: 0 the lower, 1 the upper. -/
def portSide (k d : Nat) : Nat := if d = lowerDie k then 0 else 1
/-- A port refuses a request: the violation record, the frozen master, the fault report, that of the I/O die for a function of
its links. Masters below 512 are
cores; 512 + d the command processor of die d; 1024 + 4 d + f a function of the I/O link of die d. -/
def State.violation (s : State) (t : Target) (g : Hm) (m : Nat) (copy : Bool) : State :=
  let k := dlaStack t.dla
  let src := if 1024 ≤ m then 3 else if 512 ≤ m then 2 else if copy then 1 else 0
  let core := if 512 ≤ m then 63 else m % 64
  let rec0 := if portSide k t.die = 0 then (s.stack k).viol0 else (s.stack k).viol1
  let v : Violation := if rec0.count = 0 then ⟨1, g, core, src, t.dla⟩ else { rec0 with count := min (rec0.count + 1) 0xFFFF }
  let s1 := s.updStack k (fun x => if portSide k t.die = 0 then { x with viol0 := v } else { x with viol1 := v })
  let s2 := if 1024 ≤ m then { s1 with io := { s1.io with frozen := Sparse.put false (m - 1024) true s1.io.frozen } }
    else if 512 ≤ m then s1.updDie (m - 512) (fun x => { x with cpFrozen := true })
    else s1.updCore m (fun x => { x with frozen := true })
  let word := v.count * 2 ^ 48 + g.toNat * 2 ^ 32 + core * 2 ^ 26 + src * 2 ^ 24
  let ten := s.tenOf t.die g
  let f : FaultInfo := { kind := 0x05, cause := src, core := if m < 512 then m % 64 else 0xFF, addr := t.dla, data := word
                         ten := ten.getD 0xFFFF, inc := match ten with
                           | some n => s.incarnation n g
                           | none => 0 }
  (s2.report (if 1024 ≤ m then 8 else t.die) f).interrupt t.die 2
/-- Is a request for the target, at its port, from a die that does not own the stack? -/
def State.violates (s : State) (t : Target) : Bool := !dlaCxl t.dla && t.die != s.owner (dlaStack t.dla)

/-! ### Discards (R306, R355) -/

/-- Is a write under issuing generation g to target t still to be applied: both generations current at the
home? -/
def State.writeLive (s : State) (g : Hm) (t : Target) : Bool :=
  s.isCurrent (homeDie t.dla) t.gen && (s.isCurrent (homeDie t.dla) g)

/-- A write that is not applied is discarded (R306): counted under the issuer's generation where that is stale, else under
the exporter's (R286, R355). -/
def State.discardWrite (s : State) (g : Hm) (t : Target) : State :=
  s.discard (if s.isCurrent (homeDie t.dla) g then t.gen else g)

/-! ### Drain, send, hop (R291, R292) -/

/-- Access number i of core c, and those older than it. -/
def Core.acc (k : Core) (i : Nat) : Option (Acc × List Acc) := (k.accs[i]?).map (fun a => (a, k.accs.take i))
/-- Replace access number i. -/
def Core.setAcc (k : Core) (i : Nat) (a : Acc) : Core := { k with accs := k.accs.set i a }
/-- A store leaves the store buffer (R291, R294-R300). -/
def execSbDrain (core idx : Nat) (s : State) : Out :=
  match (s.core core).acc idx with
  | none => ok s
  | some (a, older) =>
    if a.kind == .store && !a.done && s.mayGo core older a then
      let s1 := s.updCore core (fun k => k.setAcc idx { a with done := true })
      if s.isCurrent (dieOf core) a.gen then
        let e : OpEntry := { wid := a.id, core := core, gen := a.gen, tgt := a.tgt, size := a.size,
                             data := (a.data.setWidth 1024), scope := a.scope, va := a.va }
        ok ((s1.updDie (dieOf core) (fun x => { x with op := x.op ++ [e] })).settle core)
      else ok ((s1.discard a.gen).settle core)
    else ok s

/-- The port queue of a target served by its die, for a generation (R290). -/
def portOf (t : Target) : Nat := if dlaCxl t.dla then 16 + t.die else 2 * dlaStack t.dla + portSide (dlaStack t.dla) t.die
def portKey (port : Nat) (g : Hm) : Nat := port * 65536 + g.toNat
/-- The link queue that leaves die d in a direction. -/
def linkKey (d : Nat) (up : Bool) : Nat := if up then 2 * d else 2 * ((d + 7) % 8) + 1
/-- Two targets of one home (R290). -/
def sameHome (a b : Target) : Bool := if dlaCxl a.dla then dlaCxl b.dla else !dlaCxl b.dla && dlaStack a.dla == dlaStack b.dla
/-- A write still held by die d's ordering point. -/
def Die.entry (x : Die) (w : Nat) : Option OpEntry := x.op.find? (fun e => e.wid == w)
/-! ### The order of a port (R234, R404) -/

/-- The tenancy with first claim in die d's local cycle: its slot-table entry, else the largest debt (R404). -/
def State.claim (s : State) (d : Nat) : Option Nat :=
  let x := s.die d
  let e := Sparse.get 0#16 (x.lcyc.toNat % 256) x.slotTab
  if e.getLsbD 15 then some (e.toNat % 4096)
  else x.debtor
/-- The tenancy a request's generation belongs to: 4096 for the platform, none where it is stale. -/
def State.claimant (s : State) (d : Nat) (g : Hm) : Option Nat := if g = platformGen then some 4096 else s.tenOf d g
/-- The next tenancy in rotation after the last served, among those with work. -/
def nextInTurn (last : Nat) (ts : List Nat) : Option Nat :=
  match ts.filter (fun t => decide (last < t)) with
  | [] => ts.foldl (fun b t => match b with
    | none => some t
    | some x => some (min x t)) none
  | l => l.foldl (fun b t => match b with
    | none => some t
    | some x => some (min x t)) none
/-- Is it the turn of tenancy t, among the tenancies with work, in die d's local cycle: the first claimant's, else the next
one's in the rotation kept under the key (R234)? -/
def State.turnOf (s : State) (d key : Nat) (work : List Nat) (t : Nat) : Bool :=
  let next := nextInTurn (Sparse.get 0 key s.rot) work == some t
  match s.claim d with
  | some c => if work.contains c then c == t else next
  | none => next
/-- A request of generation g has been served: the rotation goes on from its tenancy, unless it had first claim (R234). -/
def State.rotate (s : State) (d key : Nat) (g : Hm) : State :=
  match s.claimant d g with
  | some x => if s.claim d = some x then s else { s with rot := Sparse.put 0 key x s.rot }
  | none => s
/-- May the port serve a request of generation g now (R234)? -/
def State.portTurn (s : State) (port owner : Nat) (g : Hm) : Bool :=
  let queued := (s.ports.filter (fun e => e.1 / 65536 == port)).filterMap (fun e => s.claimant owner (BitVec.ofNat 16 e.1))
  match s.claimant owner g with
  | none => true
  | some t => s.turnOf owner port (t :: queued) t
/-- Reads that wait in a port queue among the writes: access w of core c, and a transfer of copy w of core c. -/
def coreReader (c w : Nat) : Nat × Nat := (1024 + c, w)
def copyReader (c w : Nat) : Nat × Nat := (2048 + c, w)
/-- Is the read still to be served? -/
def State.readWaits (s : State) (who : Nat × Nat) : Bool :=
  if who.1 < 2048 then (s.core (who.1 - 1024)).accs.any (fun a => a.id == who.2 && !a.done)
  else (s.core (who.1 - 2048)).copies.any (fun x => x.id == who.2 && !x.ended)
/-- May the port serve a read now: nothing of its tenancy that reached the port before it stands in the queue, and it is its
tenancy's turn (R234)? -/
def State.readTurn (s : State) (t : Target) (g : Hm) (who : Nat × Nat) : Bool :=
  (match Sparse.get [] (portKey (portOf t) g) s.ports with
  | [] => true
  | e :: _ => e == who) && s.portTurn (portOf t) t.die g
/-- May a read that does not stand in the port's queue be served there now: nothing of its tenancy stands before it, and it is
its tenancy's turn (R234)? Its requester repeats it until then. -/
def State.portFree (s : State) (t : Target) (g : Hm) : Bool :=
  (Sparse.get [] (portKey (portOf t) g) s.ports).isEmpty && s.portTurn (portOf t) t.die g
/-- What a read of core c finds that is made as a later access of the core (R293): its bytes with the writes read, none where
they come from the home; a wait; an uncorrectable error; a lost way. -/
inductive NearRead where
  | data (v : Nat) (ws : List Nat)
  | wait
  | bad
  | lost
  deriving DecidableEq, Repr
/-- A read of the core's accesses, not in their list: it waits as x would behind them (R295-R300), then comes from the store
buffer, the die's ordering point or, at its turn, the home (R234, R293). -/
def State.readNear (s : State) (c : Nat) (x : Acc) : NearRead :=
  let k := s.core c
  if !s.mayGo c k.accs x then .wait
  else match sbSource k.accs x.tgt x.size with
    | .all v w => .data v [w]
    | .part => .wait
    | .none => match (s.die (dieOf c)).opSource x.tgt x.size with
      | .all v w => .data v [w]
      | .part => .wait
      | .none =>
        if s.wayLost (dieOf c) x.tgt then .lost
        else if !s.homeOpen x.tgt || !s.wayOpen (dieOf c) x.tgt || !s.portFree x.tgt x.gen then .wait
        else if s.badAt x.tgt.dla then .bad
        else .data (s.read x.tgt.gen x.tgt.dla x.size) []
/-- A read of generation g has been made: one that the home has served moves its port's rotation on (R234). -/
def State.afterRead (s : State) (t : Target) (g : Hm) (ws : List Nat) : State :=
  if ws.isEmpty then s.rotate t.die (portOf t) g else s
/-- The read reaches its port and waits there. -/
def State.queueRead (s : State) (t : Target) (g : Hm) (who : Nat × Nat) : State :=
  { s with ports := Sparse.upd [] (portKey (portOf t) g) (fun q => if q.contains who then q else q ++ [who]) s.ports }
/-- The port has served the read. -/
def State.servedRead (s : State) (t : Target) (g : Hm) (who : Nat × Nat) : State :=
  { s with ports := Sparse.upd [] (portKey (portOf t) g) (fun q => q.erase who) s.ports }.rotate t.die (portOf t) g

/-- Does an older fence or acquire of the core hold up an engine thread forked at a place in program order (R303)? -/
def Core.forkHeld (k : Core) (at_ : Nat) : Bool :=
  k.accs.any (fun a => decide (a.id < at_) && !a.done && (match a.kind with
    | .fence _ => true
    | _ => a.acq))

/-! ### Bytes counted on completion objects (R227-R229) -/

/-- May core c receive events of generation g from another core's engine (R211, R214): it holds that generation and is
not in PHASE 3 to 7? -/
def State.accepts (s : State) (c : Nat) (g : Hm) : Bool :=
  let k := s.core c
  g == (match k.ten with | some t => s.genOn (dieOf c) t | none => nullGen) && g != nullGen
    && decide (k.phase < 3)
/-- Count n bytes on the staging record of operation i (R200). -/
def Core.countStaging (k : Core) (i n : Nat) : Core :=
  let bump := fun (h : Handle) =>
    if h.st = .filling then { h with cnt := h.cnt + n, st := if h.exp ≤ h.cnt + n then .full else .filling } else h
  { k with staging := k.staging.map (fun r => if r.op = some i then { r with held := bump r.held } else r) }
/-- The copy's thread of another core stands at this core's handle too, to be joined there (R304). -/
def Core.farThread (k : Core) (x : Copy) (h : Nat) : Core :=
  if k.threads.any (fun t => t.far && t.op == x.id && t.obj == .handle h) then k
  else { k with threads := k.threads ++ [⟨x.id, false, .handle h, x.desc.scope, true⟩] }
/-- Count n performed bytes of copy x of core c on its completion object, and settle the copy (R227-R229). -/
def State.countCopy (s : State) (c : Nat) (x : Copy) (n : Nat) : State :=
  let g := x.gen
  let s1 := match x.obj with
    | .handle h => s.updCore c (fun k => k.countBytes g h n)
    | .barrier b => s.updCore c (fun k => k.updBarrier b (fun y => { y with got := y.got + BitVec.ofNat 24 n }))
    | .remote c2 h => if s.accepts c2 g then s.updCore c2 (fun k => (k.countBytes g h n).farThread x h) else s
    | .staging i => s.updCore c (fun k => k.countStaging i n)
  s1.updCore c (fun k =>
    (k.updCopy x.id (fun y => { y with counted := y.counted + n, inFlight := y.inFlight - n })).settleCopy x.id)
/-- A copy meets a fault (R225, R228, R229), FCODE in the low byte of f and a subcode above it: it writes nothing further, its completion object reports the code, the
bytes a barrier still waits for are added, the fault register, STAT.CPYF and the fault reports are written. -/
def State.copyFault (s : State) (c : Nat) (x : Copy) (f : Nat) (addr : Nat) : State :=
  let g := x.gen
  let rest := x.bytes - x.counted - x.inFlight
  let s0 := s.updCore c (fun k =>
    (k.updCopy x.id (fun y => { y with ended := true, bytes := y.counted + y.inFlight })).releaseRegions (fun r => r.op == x.id))
  let s1 := s0.updCore c (fun k => match x.obj with
    | .handle h => k.failHandle g h (BitVec.ofNat 8 f)
    | .barrier b => k.updBarrier b (fun y => { y with got := y.got + BitVec.ofNat 24 rest })
    | .remote _ _ => k
    | .staging i => { k with staging := k.staging.map (fun r =>
        if r.op = some i then { r with held := { r.held with st := .error, fcode := BitVec.ofNat 8 f } } else r) })
  let data := match x.obj with
    | .handle h => ((s1.core c).handleRecord g h).toNat
    | _ => 0
  let s1 := match x.obj with
    | .remote c2 h => if s.accepts c2 g then s1.updCore c2 (fun k => k.failHandle g h (BitVec.ofNat 8 f)) else s1
    | _ => s1
  let s2 := s1.report (dieOf c) (s.coreFault c { kind := 0x03, cause := f % 256, sub := f / 256, seq := x.seq.toNat, addr := addr, data := data })
  s2.updCore c (fun k =>
    let cpyf := match x.obj with
      | .barrier _ => 2#64
      | .remote _ _ => 2#64
      | _ => 0#64
    ({ k with copyFault := ⟨true, x.seq, BitVec.ofNat 8 f⟩, csr := { k.csr with stat := k.csr.stat ||| cpyf } }).settleCopy x.id)
/-- A copy's write on its way is lost to a fault (R225, R417). Where the copy has already been counted and gone, its completion
object stands, and the fault register, STAT.CPYF and the fault reports say what was lost (log entry 120). -/
def State.lostBytes (s : State) (e : OpEntry) (f : Nat) : State :=
  let c := e.core
  match e.thr.bind (s.core c).copy with
  | some x =>
    let x' := { x with inFlight := x.inFlight - e.size }
    (s.updCore c (fun k => k.updCopy x.id (fun _ => x'))).copyFault c x' f e.tgt.dla
  | none =>
    let s1 := s.report (dieOf c) (s.coreFault c { kind := 0x03, cause := f % 256, sub := f / 256, seq := e.seq.toNat, addr := e.tgt.dla })
    if (s.coreGen c) != e.gen || e.gen == nullGen then s1
    else s1.updCore c (fun k => { k with
      copyFault := ⟨true, e.seq, BitVec.ofNat 8 f⟩, csr := { k.csr with stat := k.csr.stat ||| 2#64 } })

/-- Must a write to CXL memory wait before it leaves its die, whose I/O link retrains (R415)? -/
def State.outWaits (s : State) (t : Target) : Bool := dlaCxl t.dla && (s.link (8 + t.die)).st == 1
/-- Copy x of core c has been written: n of its bytes may count now (R227). -/
def State.countWrite (s : State) (e : OpEntry) : State :=
  match e.thr with
  | none => s
  | some id => match (s.core e.core).copy id with
    | some x => s.countCopy e.core x e.size
    | none => s
/-- Append to a port queue. A write to CXL memory stands in the I/O die's outbound queue then, unless the I/O link is down:
it is performed at package scope, and a copy's bytes at that scope count (R227, R294). -/
def State.toPort (s : State) (t : Target) (g : Hm) (d w : Nat) : State :=
  let s1 := { s with ports := Sparse.upd [] (portKey (portOf t) g) (fun q => q ++ [(d, w)]) s.ports }
  if dlaCxl t.dla && (s.link (8 + t.die)).st == 0 then
    let s2 := s1.updDie d (fun x => { x with op := x.op.map (fun q => if q.wid == w then { q with out := true } else q) })
    let s3 := match (s.die d).entry w with
      | some e => if e.scope = 2 && e.core < 512 then s2.countWrite e else s2
      | none => s2
    s3.settleDie d
  else s1

/-! ### Send (R291, R292) -/

/-- A fault that an access of generation g in flight has met reaches core c (R307, R417): taken at its next issue boundary,
or, an access of the task while the platform handler of another trap runs, at the first one after ERET (log entry 97). -/
def Core.lateFault (k : Core) (g : Hm) (f : Nat × Nat × W64) : Core :=
  if k.lvl && g != platformGen then { k with lateHeld := some (k.lateHeld.getD f) } else { k with late := some (k.late.getD f) }
/-- The stream of a queue whose packet's write w of die d is lost takes a stream fault (R340, R365). -/
def State.lostPacketWrite (s : State) (d w : Nat) : State :=
  let waits := fun (x : Queue) => match x.wait with
    | .wrote n _ => n == w
    | .signal n _ => n == w
    | _ => false
  ((s.die d).queues.filter (fun q => waits q.2)).foldl (fun s q => s.waitFault d q.1 5) s
/-- A write whose route is lost fails (R417): a core's with translation fault 0x08, a copy with FCODE 0x29, a packet's with
a stream fault. -/
def State.lostWrite (s : State) (d : Nat) (e : OpEntry) : State :=
  let s1 := s.updDie d (fun x => { x with op := x.op.filter (fun q => q.wid != e.wid) })
  let s2 := match e.thr with
    | some _ => s1.lostBytes e (0x29 + 256 * 8)
    | none => if e.core < 512 then s1.updCore e.core (fun k => k.lateFault e.gen (7, 8, e.va))
      else s1.lostPacketWrite d e.wid
  s2.settleDie d
/-- A write whose generation is no longer current on the die whose queue it would enter is discarded there (R306). -/
def State.dropStale (s : State) (d : Nat) (e : OpEntry) : State :=
  ((s.updDie d (fun x => { x with op := x.op.filter (fun q => q.wid != e.wid) })).discard e.gen).settleDie d
/-- A write to CXL memory that a down I/O link loses: a free value says whether the far end applied it (R418). -/
def State.maybeWrite (s : State) (gen : Hm) (t : Target) (n data : Nat) : State :=
  let s1 := { s with free := s.free + 1 }
  if dlaCxl t.dla && (Config.freeValue s.free).getLsbD 0 && s1.writeLive gen t then s1.write t.gen t.dla n data else s1
/-- Has an older write of one of some queued writes' die to the same home gone on beyond them, and not been applied yet? They
may take a new route only after it (R292). -/
def State.older (s : State) (ws : List (Nat × Nat × Nat)) : Bool :=
  ws.any (fun w => match (s.die w.1).entry w.2.1 with
    | none => false
    | some e => ((s.die w.1).op.takeWhile (fun q => q.wid != e.wid)).any (fun q =>
      q.sent && sameHome q.tgt e.tgt && !ws.any (fun v => v.1 == w.1 && v.2.1 == q.wid)))
/-- Does the link that leaves die d in a direction take no more: it is down, and its notice has arrived? -/
def State.linkClosed (s : State) (d : Nat) (up : Bool) : Bool :=
  let l := s.link (if up then d else (d + 7) % 8)
  l.st == 2 && !(if up then l.note0 else l.note1)
/-- Put a write into the link queue that leaves die d in a direction; where that link is down and its notice has arrived,
round the other way, and where that way is closed too the write is lost (R7, R417). -/
def State.toLink (s : State) (d : Nat) (up : Bool) (src w dest : Nat) : State :=
  let open_ := fun (u : Bool) => !s.linkClosed d u
  let put := fun (s : State) (u : Bool) => { s with links := Sparse.upd [] (linkKey d u) (fun q => q ++ [(src, w, dest)]) s.links }
  -- a write that turns round is on a new route: later ones of its die to its home wait for it (R292)
  let turned := s.updDie src (fun x => { x with op := x.op.map (fun q => if q.wid == w then { q with dir := 3 } else q) })
  if open_ up then put s up
  else if open_ (!up) && s.pathOpen (!up) d dest then put turned (!up)
  else match (s.die src).entry w with
    | none => s
    | some e => s.lostWrite src e
/-- One direction of a link: from end 0 where up. -/
def Link.dir (x : Link) (up : Bool) : FlitDir := if up then x.dir0 else x.dir1
/-- Change one direction. -/
def Link.updDir (x : Link) (up : Bool) (f : FlitDir → FlitDir) : Link :=
  if up then { x with dir0 := f x.dir0 } else { x with dir1 := f x.dir1 }
/-- Bytes of a write on a link: a message header and a line (R412). -/
def messageBytes : Nat := 144
/-- The head of a link queue has crossed: the receiver, which has accepted all its bytes, hands it on (R7, R291, R412). Where
it would turn round there, it waits for the older writes of its die to its home (R292). -/
def State.hop (s : State) (link : Nat) (up : Bool) : State :=
  let key := 2 * link + (if up then 0 else 1)
  match Sparse.get [] key s.links with
  | [] => s
  | (d, w, dest) :: t =>
    if ((s.link link).dir up).got < messageBytes then s
    else
      let here := if up then (link + 1) % 8 else link
      let s1 := { s with links := Sparse.put [] key t s.links }.updLink link (fun x =>
        x.updDir up (fun y => { y with got := y.got - messageBytes }))
      match (s.die d).entry w with
      | none => s1
      | some e =>
        if !s.isCurrent here e.gen then s1.dropStale d e
        else if here = dest then (if s.outWaits e.tgt then s else s1.toPort e.tgt e.gen d w)
        else if s.linkClosed here up && s.older [(d, w, dest)] then s
        else s1.toLink here up d w dest
/-- The head of a link queue moves on: link number and direction. -/
def execHop (link : Nat) (up : Bool) (s : State) : Out := if (s.link link).st ≠ 0 then ok s else ok (s.hop link up)

/-- The oldest write of its generation for its home leaves die d's ordering point for its route (R291, R292). -/
def execSend (die idx : Nat) (s : State) : Out :=
  let x := s.die die
  match x.op[idx]? with
  | none => ok s
  | some e =>
    let earlier := x.op.take idx
    if e.sent || earlier.any (fun q => !q.sent && q.gen == e.gen && sameHome q.tgt e.tgt) then ok s
    else
      let mark := fun (dir : Nat) => s.updDie die (fun x => { x with op := x.op.set idx { e with sent := true, dir := dir } })
      -- a new route waits for every write sent on the old one (R292)
      let moved := fun (dir : Nat) => x.op.any (fun q => q.sent && sameHome q.tgt e.tgt && (q.tgt.die != e.tgt.die || q.dir != dir))
      if !s.isCurrent die e.gen then ok (s.dropStale die e)
      else if e.tgt.die = die then
        (if moved 0 || s.outWaits e.tgt then ok s else ok ((mark 0).toPort e.tgt e.gen die e.wid))
      else match s.route die e.tgt.die with
        | none => ok (s.lostWrite die e)
        | some up =>
          let dir := if up then 1 else 2
          if moved dir then ok s
          else
            let s1 := mark dir
            ok { s1 with links := Sparse.upd [] (linkKey die up) (fun q => q ++ [(die, e.wid, e.tgt.die)]) s1.links }

end Sys2Proof.Machine
end

