-- ==== Sys2Proof/Machine/Access.lean ====
section
/-! DEFINITION. The global-memory instructions (spec 13 R307-R314), GENPROBE (spec 15 R350), and the transitions
apply, serve, fill, evict and the walks (R291, R282-R288). -/
namespace Sys2Proof.Machine

/-! ### Issue of an access -/

/-- The effective address of an M slot (R307). The sum does not wrap: one of 2^64 or more is no valid address and faults
with 0x01; the trap record's ADDR then holds all ones, since the spec gives such a sum no 64-bit value (DESIGN CHOICE, log
entry 106). -/
def State.globalAddr (s : State) (a : BitVec 6) (o : BitVec 5) (size : Nat) : W64 :=
  let sum : Int := ((s.reg (s.rA a)).toNat : Int) + (size : Int) * immS s.cur.kind s.cur.x o
  if (2 : Int) ^ 64 ≤ sum then BitVec.allOnes 64 else BitVec.ofInt 64 sum
/-- The verdict of a global access: its translation fault, or a wait for the limit on requests (R232). -/
def State.accessVerdict (s : State) (ea : W64) (size : Nat) (p : Perm) : Verdict :=
  match s.translateCore s.cur.core ea size p with
  | .error f => faultV f ea
  | .ok _ => if 2048 ≤ s.inFlight s.cur.core then .wait else .go
/-- The target of an address whose verdict was to go. -/
def State.targetNow (s : State) (ea : W64) (size : Nat) (p : Perm) : Target :=
  match s.translateCore s.cur.core ea size p with
  | .ok t => t
  | .error _ => {}
/-- Put an access at the end of the core's program order, its class applied (R296). -/
def State.putAcc (s : State) (a : Acc) : State :=
  let a := if a.tgt.ord = 0 then { a with strong := true, scope := max 2 a.scope } else a
  let s1 := s.updK (fun k => { k with accs := k.accs ++ [{ a with id := s.nextWid, gen := s.gen, hint := s.hint }] })
  let t := if s.k.lvl then none else s.k.ten
  { s1.countHint s.d t a.tgt.cp s.hint with nextWid := s.nextWid + 1 }
/-- A pending scalar destination with no value yet; its identity. -/
def State.awaitReg (s : State) (n : Nat) (counted : Bool) : State :=
  let s1 := s.setPending s.k.nextId n none counted
  s1.updK (fun k => { k with nextId := k.nextId + 1, nld := if counted then k.nld + 1 else k.nld })

/-- A load (R307). -/
def loadOp (strong acq : Bool) (scope : Nat) (p : BitVec 3) (d a : BitVec 6) (o : BitVec 5) (z : BitVec 2)
    (s : State) : Out :=
  let size := 2 ^ z.toNat
  slotMeaning p [s.rA a] (some (s.rD d)) true
    (fun s => s.accessVerdict (s.globalAddr a o size) size .read)
    (fun s =>
      let ea := s.globalAddr a o size
      let x : Acc := { id := 0, kind := .load, tgt := s.targetNow ea size .read, va := ea, size := size,
                       strong := strong, acq := acq, scope := scope, pid := s.k.nextId }
      (s.putAcc x).awaitReg (s.rD d) true) s
/-- LD: weak (R307). -/
def execLd (p : BitVec 3) (d a : BitVec 6) (o : BitVec 5) (z : BitVec 2) (s : State) : Out :=
  loadOp false false 0 p d a o z s
/-- LDS: strong (R307). -/
def execLds (p : BitVec 3) (d a : BitVec 6) (o : BitVec 5) (z c : BitVec 2) (s : State) : Out :=
  loadOp true false c.toNat p d a o z s
/-- LDA: an acquire (R307). -/
def execLda (p : BitVec 3) (d a : BitVec 6) (o : BitVec 5) (z c : BitVec 2) (s : State) : Out :=
  loadOp true true c.toNat p d a o z s
/-- PREF changes no architectural value; a fault or a strongly ordered page drops it. It is a request in flight until its
line arrives or the machine lets it go (R231, R309). -/
def execPref (p : BitVec 3) (a : BitVec 6) (o : BitVec 5) (s : State) : Out :=
  slotMeaning p [s.rA a] none false
    (fun s => if 2048 ≤ s.inFlight s.cur.core then .wait else .go)
    (fun s => match s.translateCore s.cur.core (s.globalAddr a o 1) 0 .read with
      | .error _ => s
      | .ok t =>
        if t.ord = 0 then s
        else
          let s1 := s.updK (fun k => { k with prefs := k.prefs ++ [(t.gen, t.dla / 128, s.hint)] })
          if s.k.lvl then s1 else s1.countHint s.d s.k.ten t.cp s.hint) s

/-- The L0 line of a store's bytes takes them at issue (R291). -/
def Core.l0Store (k : Core) (t : Target) (n w : Nat) (v : W64) : Core :=
  let l := Sparse.get {} (t.dla / 128) k.l0
  if l = {} || l.gen ≠ t.gen then k
  else
    let img := mergeBytes (t.dla % 128) n (v.setWidth 1024) l.data
    let l' : L0Line := { l with data := img, writes := l.writes ++ [(w, t.dla % 128, n)] }
    { k with l0 := Sparse.put {} (t.dla / 128) l' k.l0 }
/-- A store (R307). -/
def storeOp (strong rel : Bool) (scope : Nat) (p : BitVec 3) (d a : BitVec 6) (o : BitVec 5) (z : BitVec 2)
    (s : State) : Out :=
  let size := 2 ^ z.toNat
  slotMeaning p [s.rA a, s.rD d] none false
    (fun s => s.accessVerdict (s.globalAddr a o size) size .write)
    (fun s =>
      let ea := s.globalAddr a o size
      let t := s.targetNow ea size .write
      let v := s.reg (s.rD d)
      let x : Acc := { id := 0, kind := .store, tgt := t, va := ea, size := size, data := v,
                       strong := strong, rel := rel, scope := scope, counted := true }
      ((s.putAcc x).updK (fun k => { (k.l0Store t size s.nextWid v) with nst := k.nst + 1 })).settle s.cur.core) s
/-- ST: weak (R307). -/
def execSt (p : BitVec 3) (d a : BitVec 6) (o : BitVec 5) (z : BitVec 2) (s : State) : Out :=
  storeOp false false 0 p d a o z s
/-- STS: strong (R307). -/
def execSts (p : BitVec 3) (d a : BitVec 6) (o : BitVec 5) (z c : BitVec 2) (s : State) : Out :=
  storeOp true false c.toNat p d a o z s
/-- STRL: a release (R307). -/
def execStrl (p : BitVec 3) (d a : BitVec 6) (o : BitVec 5) (z c : BitVec 2) (s : State) : Out :=
  storeOp true true c.toNat p d a o z s

/-- An atomic (R310, R311). -/
def atomicOp (op : Nat) (p : BitVec 3) (d a b : BitVec 6) (c : BitVec 2) (s : State) : Out :=
  slotMeaning p (if op = 7 then [s.rA a, s.rB b, s.rD d] else [s.rA a, s.rB b]) (some (s.rD d)) true
    (fun s => s.accessVerdict (s.reg (s.rA a)) 8 .both)
    (fun s =>
      let ea := s.reg (s.rA a)
      let x : Acc := { id := 0, kind := .amo op, tgt := s.targetNow ea 8 .both, va := ea, size := 8,
                       data := s.reg (s.rB b), cmp := s.reg (s.rD d), strong := true, acq := true, rel := true,
                       scope := c.toNat, pid := s.k.nextId }
      (s.putAcc x).awaitReg (s.rD d) true) s
/-- AMO.ADD (R310). -/
def execAmoAdd (p : BitVec 3) (d a b : BitVec 6) (c : BitVec 2) (s : State) : Out := atomicOp 0 p d a b c s
/-- AMO.AND (R310). -/
def execAmoAnd (p : BitVec 3) (d a b : BitVec 6) (c : BitVec 2) (s : State) : Out := atomicOp 1 p d a b c s
/-- AMO.OR (R310). -/
def execAmoOr (p : BitVec 3) (d a b : BitVec 6) (c : BitVec 2) (s : State) : Out := atomicOp 2 p d a b c s
/-- AMO.XOR (R310). -/
def execAmoXor (p : BitVec 3) (d a b : BitVec 6) (c : BitVec 2) (s : State) : Out := atomicOp 3 p d a b c s
/-- AMO.MIN (R310). -/
def execAmoMin (p : BitVec 3) (d a b : BitVec 6) (c : BitVec 2) (s : State) : Out := atomicOp 4 p d a b c s
/-- AMO.MAX (R310). -/
def execAmoMax (p : BitVec 3) (d a b : BitVec 6) (c : BitVec 2) (s : State) : Out := atomicOp 5 p d a b c s
/-- AMO.SWAP (R310). -/
def execAmoSwap (p : BitVec 3) (d a b : BitVec 6) (c : BitVec 2) (s : State) : Out := atomicOp 6 p d a b c s
/-- CAS (R311). -/
def execCas (p : BitVec 3) (d a b : BitVec 6) (c : BitVec 2) (s : State) : Out := atomicOp 7 p d a b c s
/-- The combination of an AMO (R310, R33). -/
def amoF (op : Nat) (old b : W64) : W64 :=
  match op with
  | 0 => old + b
  | 1 => old &&& b
  | 2 => old ||| b
  | 3 => old ^^^ b
  | 4 => if b.slt old then b else old
  | 5 => if old.slt b then b else old
  | _ => b

/-- A fence takes its place in program order; its bundle issues at once (R312). -/
def fenceOp (all : Bool) (p : BitVec 3) (c : BitVec 2) (s : State) : Out :=
  slotMeaning p [] none false noTrap
    (fun s => (s.putAcc { id := 0, kind := .fence all, tgt := { ord := 1 }, scope := c.toNat }).settle s.cur.core) s
/-- FENCE (R300, R312). -/
def execFence (p : BitVec 3) (c : BitVec 2) (s : State) : Out := fenceOp false p c s
/-- FENCE.all (R300, R312). -/
def execFenceAll (p : BitVec 3) (c : BitVec 2) (s : State) : Out := fenceOp true p c s

/-- What the strong read of a WAITA finds now (R313). -/
def State.waitaNear (s : State) (c : Nat) (t : Target) (scope : Nat) : NearRead :=
  s.readNear c { id := 0, kind := .load, tgt := t, size := 8, strong := true, acq := true, scope := scope, gen := s.coreGen c }
/-- The strong read of a WAITA as it can be made now: the word and the writes read (R313). -/
def State.waitaRead (s : State) (c : Nat) (t : Target) (scope : Nat) : Option (W64 × List Nat) :=
  match s.waitaNear c t scope with
  | .data v ws => some (BitVec.ofNat 64 v, ws)
  | _ => none
/-- The scope of an access through a page: at least package on a strongly ordered one (R296). -/
def acqScope (t : Target) (sc : Nat) : Nat := if t.ord = 0 then max 2 sc else sc
/-- Does a word satisfy the wait? -/
def waitaHolds (eq : Bool) (w b : W64) : Bool := (w == b) == eq
/-- The value with which a WAITA is satisfied now: one read again before, or one read now. -/
def State.waitaValue (s : State) (eq : Bool) (ea b : W64) (scope : Nat) : Option (W64 × List Nat) :=
  match s.k.waitaHit.find? (fun h => h.1 == s.cur.slot) with
  | some h => some h.2
  | none => match s.translateCore s.cur.core ea 8 .read with
    | .error _ => none
    | .ok t => match s.waitaRead s.cur.core t scope with
      | some r => if waitaHolds eq r.1 b then some r else none
      | none => none
/-- WAITA (R313): held until a strong read satisfies the condition; the read is an acquire. -/
def waitaOp (eq : Bool) (p : BitVec 3) (d a b : BitVec 6) (c : BitVec 2) (s : State) : Out :=
  slotMeaning p [s.rA a, s.rB b] (some (s.rD d)) false
    (fun s =>
      let ea := s.reg (s.rA a)
      match s.translateCore s.cur.core ea 8 .read with
      | .error f => faultV f ea
      | .ok t =>
        if 2048 ≤ s.inFlight s.cur.core then .wait
        else match s.waitaValue eq ea (s.reg (s.rB b)) c.toNat with
          | some _ => .go
          | none => (match s.waitaNear s.cur.core t c.toNat with
            | .bad => .trap 8 0 0 0 ea
            | .lost => faultV 8 ea
            | _ => .wait))
    (fun s =>
      let ea := s.reg (s.rA a)
      match s.waitaValue eq ea (s.reg (s.rB b)) c.toNat with
      | none => s
      | some r =>
        let x : Acc := { id := 0, kind := .load, tgt := s.targetNow ea 8 .read, va := ea, size := 8, strong := true,
                         acq := true, scope := c.toNat, done := true, reads := r.2 }
        let s1 := ((s.putScalar Config.latALU (s.rD d) r.1).afterRead x.tgt s.gen r.2).putAcc x
        (s1.updK (fun k => { k with l0 := if acqScope x.tgt c.toNat = 0 then k.l0 else [] })).settle
          s.cur.core) s
/-- WAITA.ne (R313). -/
def execWaitaNe (p : BitVec 3) (d a b : BitVec 6) (c : BitVec 2) (s : State) : Out := waitaOp false p d a b c s
/-- WAITA.eq (R313). -/
def execWaitaEq (p : BitVec 3) (d a b : BitVec 6) (c : BitVec 2) (s : State) : Out := waitaOp true p d a b c s
/-- The word of a held WAITA is read again (R313): of the held ones of the bundle, the first whose value has not yet
been found. -/
def execWaitaReread (core : Nat) (s : State) : Out :=
  let k := s.core core
  match k.waita.find? (fun w => k.waitaHit.all (fun h => h.1 != w.1)) with
  | some (slot, ea, b, eq, sc) =>
    (match s.translateCore core ea 8 .read with
    | .error _ => ok s
    | .ok t => match s.waitaRead core t sc with
      | some r =>
        let s1 := s.afterRead t (s.coreGen core) r.2
        if waitaHolds eq r.1 b then
          ok (s1.updCore core (fun k => { k with waitaHit := k.waitaHit ++ [(slot, r)],
                                                 l0 := if acqScope t sc = 0 then k.l0 else [] }))
        else ok s1
      | none => ok s)
  | none => ok s

/-- The import entry of slot n of the core's tenancy, none without a translation record, read from its table as an access
through the slot reads it; a table that cannot be read gives GENPROBE the fault of such an access (R285, R287, R323; DESIGN
CHOICE, log entry 121). -/
def State.importSlot (s : State) (n : Nat) : Except Nat (Option W64) :=
  match s.k.ten.bind (fun t => Sparse.get none t (s.die s.d).recs) with
  | none => .ok none
  | some r => match s.importRead s.d r n with
    | .error f => .error f
    | .ok e => .ok (some e)
/-- GENPROBE (R350, R351). -/
def execGenprobe (p : BitVec 3) (d a q : BitVec 6) (s : State) : Out :=
  slotMeaning p [s.rA a] (some (s.rD d)) true
    (fun s =>
      let v := s.reg (s.rA a)
      if s.k.lvl then trapV 0x0A 0x13
      else if q = 0#6 then s.accessVerdict v 0 .read
      else if 4096 ≤ v.toNat then trapV 0x0A 0x11
      else match s.importSlot v.toNat with
        | .error f => faultV f v
        | .ok _ => .go)
    (fun s =>
      let v := s.reg (s.rA a)
      if q = 0#6 then
        let x : Acc := { id := 0, kind := .probe, tgt := s.targetNow v 0 .read, va := v, size := 1, pid := s.k.nextId }
        (s.putAcc x).awaitReg (s.rD d) false
      else
        let r := (s.importSlot v.toNat).toOption.getD none
        let e := r.getD 0
        let valid := r.isSome && importOk e
        let unreach := r.isSome && !s.reaches s.d (importDie e)
        let cur := valid && s.isCurrent (importDie e) (importGen e) && importGen e != platformGen
        let w : W64 := (if valid then 1 else 0) + (if cur then 2 else 0) + (if unreach then 4 else 0)
        let s1 := s.setPending s.k.nextId (s.rD d) (some w) false
        s1.updK (fun k => { k with nextId := k.nextId + 1 })) s

/-! ### Serve (R291, R293) -/

/-- The result of pending entry i is known. -/
def Core.setResult (k : Core) (pid : Nat) (v : W64) : Core :=
  { k with pend := k.pend.map (fun q => if q.id == pid then { q with value := some v } else q) }
/-- A load or probe takes its value (R293): done, its writes, its result, and the acquire's effect (R299). -/
def State.take (s : State) (c i : Nat) (a : Acc) (v : W64) (ws : List Nat) : State :=
  (s.updCore c (fun k =>
    let k1 := (k.setAcc i { a with done := true, reads := ws }).setResult a.pid v
    { k1 with l0 := if a.acq && a.ordered && decide (1 ≤ a.scope) then [] else k1.l0 })).settle c
/-- Is the generation of a read still current where it is read: on the core's die and at the die that serves it (R286, R348)? -/
def State.readLive (s : State) (c : Nat) (t : Target) : Bool := s.isCurrent (dieOf c) t.gen && s.isCurrent t.die t.gen
/-- What a load that a queue or L0 serves takes: zero where its generation has stopped being current. -/
def State.takeNear (s : State) (c i : Nat) (a : Acc) (v : Nat) (ws : List Nat) : State :=
  s.take c i a (if s.readLive c a.tgt then BitVec.ofNat 64 v else 0) ws
/-- An uncorrectable error reaches a load (R307): a machine check at the next issue boundary. -/
def State.takeError (s : State) (c i : Nat) (a : Acc) : State :=
  (s.updCore c (fun k =>
    let k1 := k.setAcc i { a with done := true }
    let mark := fun (q : Pending) => if q.id == a.pid then { q with failed := true } else q
    { k1 with pend := k1.pend.map mark }.lateFault a.gen (8, 0, a.va))).settle c
/-- A load or atomic whose way is lost fails with translation fault 0x08 (R417). -/
def State.takeLost (s : State) (c i : Nat) (a : Acc) : State :=
  (s.updCore c (fun k =>
    let k1 := k.setAcc i { a with done := true }
    let mark := fun (q : Pending) => if q.id == a.pid then { q with failed := true } else q
    { k1 with pend := k1.pend.map mark }.lateFault a.gen (7, 8, a.va))).settle c
/-- A stack port refuses access i of core c (R324): one violation, no data; the result stays pending on the frozen core. -/
def State.refuseAcc (s : State) (c i : Nat) (a : Acc) : State :=
  ((s.violation a.tgt a.gen c false).updCore c (fun k => k.setAcc i { a with done := true })).settle c
/-- A load is served: from the store buffer, from L0, or from the ordering point or the home (R291, R293). -/
def State.serveLoad (s : State) (core idx src : Nat) (a : Acc) (older : List Acc) : Out :=
  let k := s.core core
  let d := dieOf core
  let sb := sbSource older a.tgt a.size
  let younger := k.accs.drop (idx + 1)
  match src with
  | 0 => (match sb with
    | .all v w => ok (s.takeNear core idx a v [w])
    | _ => ok s)
  | 1 =>
    let l := Sparse.get {} (a.tgt.dla / 128) k.l0
    if a.strong || l = {} || l.gen ≠ a.tgt.gen || (sb != .none && a.ordered)
      || younger.any (fun y => y.kind == .store && meets y.tgt.dla y.size a.tgt.dla a.size) then ok s
    else
      let o := a.tgt.dla % 128
      ok (s.takeNear core idx a (sliceOf l.data.toNat o a.size)
        ((l.writes.filter (fun w => meets w.2.1 w.2.2 o a.size)).map (·.1)))
  | _ =>
    let home := (s.die d).opSource a.tgt a.size = .none
    let who := coreReader core a.id
    if sb != .none && a.ordered then ok s
    else if home && s.wayLost d a.tgt then ok (s.takeLost core idx a)
    else if home && s.homeOpen a.tgt && s.wayOpen d a.tgt && !s.readTurn a.tgt a.gen who then
      ok (s.queueRead a.tgt a.gen who)
    else
      let p := if home then s.servedRead a.tgt a.gen who else s
      if home && s.homeOpen a.tgt && s.violates a.tgt then ok (p.refuseAcc core idx a)
      else if home && s.homeOpen a.tgt && s.badAt a.tgt.dla then ok (p.takeError core idx a)
      else match s.serveDie d a.tgt a.size with
        | some r => ok (p.takeNear core idx a r.1 r.2)
        | none => ok s
/-- The effect of an AMO or CAS on its word at the home, old being what it reads (R310, R311). -/
def amoWrite (op : Nat) (old : W64) (a : Acc) : Option W64 :=
  if op = 7 then (if old = a.cmp then some a.data else none) else some (amoF op old a.data)
/-- An AMO or CAS is served at its home; one whose way is lost may have written or not (R417). -/
def State.serveAmo (s : State) (core idx : Nat) (a : Acc) (op : Nat) : Out :=
  let d := dieOf core
  let who := coreReader core a.id
  let old : W64 := BitVec.ofNat 64 (s.read a.tgt.gen a.tgt.dla 8)
  if s.wayLost d a.tgt then
    let s1 := match amoWrite op old a with
      | none => s
      | some new => s.maybeWrite a.gen a.tgt 8 new.toNat
    ok (s1.takeLost core idx a)
  else if !s.homeOpen a.tgt || !s.wayOpen d a.tgt then ok s
  else if !s.readTurn a.tgt a.gen who then ok (s.queueRead a.tgt a.gen who)
  else
    let p := s.servedRead a.tgt a.gen who
    if s.violates a.tgt then ok (p.refuseAcc core idx a)
    else if s.badAt a.tgt.dla then ok (p.takeError core idx a)
    else
      let s1 :=
        if !s.writeLive a.gen a.tgt then p.discardWrite a.gen a.tgt
        else match amoWrite op old a with
          | none => p
          | some new => p.write a.tgt.gen a.tgt.dla 8 new.toNat
      let s2 := s1.updCore core (fun k => { k with l0 := Sparse.put {} (a.tgt.dla / 128) {} k.l0 })
      ok (s2.take core idx a old [])
/-- A probe is served: 1 where its granule is tagged with the generation it names, still current at its home. -/
def State.serveProbe (s : State) (core idx : Nat) (a : Acc) : Out :=
  let d := dieOf core
  let who := coreReader core a.id
  if s.wayLost d a.tgt then ok (s.takeLost core idx a)
  else if !s.homeOpen a.tgt || !s.wayOpen d a.tgt then ok s
  else if !s.readTurn a.tgt a.gen who then ok (s.queueRead a.tgt a.gen who)
  else
    let p := s.servedRead a.tgt a.gen who
    if s.violates a.tgt then ok (p.refuseAcc core idx a)
    else
      let hit := !dlaCxl a.tgt.dla && Sparse.get nullGen (a.tgt.dla / 128) s.hallmarks == a.tgt.gen
        && s.isCurrent (homeDie a.tgt.dla) a.tgt.gen
      ok (p.take core idx a (if hit then 1 else 0) [])
/-- Serve access idx of a core from a source: 0 the store buffer, 1 L0, 2 the ordering point or the home. A
disabled serve changes nothing. -/
def execServe (core idx src : Nat) (s : State) : Out :=
  match (s.core core).acc idx with
  | none => ok s
  | some (a, older) =>
    if a.done || !s.mayGo core older a then ok s
    else match a.kind with
      | .load => s.serveLoad core idx src a older
      | .amo op => if src ≠ 2 then ok s else s.serveAmo core idx a op
      | .probe => if src ≠ 2 then ok s else s.serveProbe core idx a
      | _ => ok s

/-! ### Apply (R291, R306) -/

/-- The head of a port queue is applied at its home and acknowledged: port (2 stack + side, or 16 + die for CXL
memory) and generation. -/
def execApply (port : Nat) (gen : Hm) (s : State) : Out :=
  match Sparse.get [] (portKey port gen) s.ports with
  | [] => ok s
  | (d, w) :: t =>
    if 1024 ≤ d && s.readWaits (d, w) then ok s
    else match (s.die d).entry w with
    | none => ok { s with ports := Sparse.put [] (portKey port gen) t s.ports }
    | some e =>
      let owner := if dlaCxl e.tgt.dla then e.tgt.die else s.owner (dlaStack e.tgt.dla)
      if !s.homeOpen e.tgt then ok s
      else if s.wayLost e.tgt.die e.tgt then
        ok (({ s with ports := Sparse.put [] (portKey port gen) t s.ports }.maybeWrite e.gen e.tgt e.size e.data.toNat).lostWrite d e)
      else if !s.homeOpen e.tgt || !s.wayOpen e.tgt.die e.tgt || !s.portTurn port owner gen then ok s
      else
        let s1 := { s with ports := Sparse.put [] (portKey port gen) t s.ports }.rotate owner port gen
        let s2 := s1.updDie d (fun x => { x with op := x.op.filter (fun q => q.wid != w) })
        if s.violates e.tgt then
          let s3 := s2.violation e.tgt e.gen e.core e.thr.isSome
          ok ((if e.thr.isSome then s3.lostBytes e 0x25 else s3).settleDie d)
        else
          let s3 := if s.writeLive e.gen e.tgt then s2.write e.tgt.gen e.tgt.dla e.size e.data.toNat else s2.discardWrite e.gen e.tgt
          let s4 := if 2 ≤ e.scope && !(e.scope = 2 && e.out) && e.core < 512 then s3.countWrite e else s3
          ok (s4.settleDie d)

/-! ### L0 (R291) -/

/-- The writes of a die's ordering point that touch a line: write, first byte, bytes. -/
def Die.lineWrites (x : Die) (t : Target) : List (Nat × Nat × Nat) :=
  let base := t.dla / 128 * 128
  (x.op.filter (fun e => meets e.tgt.dla e.size base 128)).map
    (fun e => (e.wid, e.tgt.dla - base, e.size))
/-- The line as a load of the die would be served byte by byte: the home's bytes under the writes of the
ordering point, oldest first. -/
def State.lineAt (s : State) (d : Nat) (t : Target) : Image :=
  let base := t.dla / 128 * 128
  let home : Image := BitVec.ofNat 1024 (s.read t.gen base 128)
  ((s.die d).op.filter (fun e => meets e.tgt.dla e.size base 128)).foldl
    (fun img e => mergeBytes (e.tgt.dla - base) e.size (if e.tgt.gen == t.gen then e.data else 0) img) home
/-- Lines of L0: 32 KiB (R15). -/
def l0Lines : Nat := 256
/-- A line enters L0, which must have room for it. -/
def Core.fillL0 (k : Core) (n : Nat) (l : L0Line) : Core :=
  if k.l0.length < l0Lines || (k.l0.map Prod.fst).contains n then { k with l0 := Sparse.put {} n l k.l0 } else k
/-- Does every request of the core for a line bar it from L0: loads and PREFs with the hint stream or bypass, and no other
(R281)? -/
def Core.hintBars (k : Core) (n : Nat) : Bool :=
  let hints := (k.accs.filter (fun a => a.kind == .load && !a.done && a.tgt.dla / 128 == n)).map (·.hint)
    ++ (k.prefs.filter (fun p => p.2.1 == n)).map (fun p => p.2.2)
  !hints.isEmpty && hints.all (fun h => decide (2 ≤ h))
/-- L0 of a core takes a copy of the line of a virtual address, where its page and the hints of the requests for it allow it
(R280, R281, R291), at its turn at the stack's port (R234); a request that a PREF made for the line is over. -/
def execFill (core : Nat) (va : W64) (s : State) : Out :=
  match s.translateCore core va 0 .read with
  | .error _ => ok s
  | .ok t =>
    if !s.homeOpen t || !s.wayOpen (dieOf core) t || s.badAt t.dla || !s.portFree t (s.coreGen core) then ok s
    else
      let s1 := (s.afterRead t (s.coreGen core) []).updCore core (fun k => { k with prefs := k.prefs.filter (fun p => p.1 != t.gen || p.2.1 != t.dla / 128) })
      if t.cp ≠ 0 || (s.core core).hintBars (t.dla / 128) then ok s1
      else
        let l : L0Line := { gen := t.gen, data := s.lineAt (dieOf core) t, writes := (s.die (dieOf core)).lineWrites t }
        ok (s1.updCore core (fun k => k.fillL0 (t.dla / 128) l))
/-- L0 of a core loses a line (R291); a PREF still on its way to the line does nothing (R309). -/
def execEvict (core line : Nat) (s : State) : Out :=
  ok (s.updCore core (fun k => { k with l0 := Sparse.put {} line {} k.l0, prefs := k.prefs.filter (fun p => p.2.1 != line) }))

/-! ### Walks and translation caches (R282, R283, R288) -/

/-- A walk completes: kind 0 fills the TLB of core agent, 1 the engine TLB of die agent for tenancy ten, 2 its
stage-2 cache; a walk that faults fills nothing. -/
def execWalkComplete (kind agent ten : Nat) (va : W64) (s : State) : Out :=
  let a := va.toNat % 2 ^ 52
  match kind with
  | 0 => (match (s.core agent).ten with
    | none => ok s
    | some t => match s.tlbFill (dieOf agent) t (a % 2 ^ 48) with
      | none => ok s
      | some e => if 256 ≤ (s.core agent).tlb.length then ok s
        else ok (s.updCore agent (fun k => { k with tlb := e :: k.tlb })))
  | 1 => (match s.tlbFill agent ten (a % 2 ^ 48) with
    | none => ok s
    | some e => if 4096 ≤ (s.die agent).etlb.length then ok s
      else ok (s.updDie agent (fun x => { x with etlb := e :: x.etlb })))
  | _ => (match s.s2Fill agent ten a with
    | none => ok s
    | some e => if 8192 ≤ (s.die agent).s2c.length then ok s
      else ok (s.updDie agent (fun x => { x with s2c := e :: x.s2c })))
/-- An entry of a translation cache is replaced (R282). -/
def execTlbReplacement (kind agent idx : Nat) (s : State) : Out :=
  match kind with
  | 0 => ok (s.updCore agent (fun k => { k with tlb := k.tlb.eraseIdx idx }))
  | 1 => ok (s.updDie agent (fun x => { x with etlb := x.etlb.eraseIdx idx }))
  | _ => ok (s.updDie agent (fun x => { x with s2c := x.s2c.eraseIdx idx }))
/-- Does a cached translation name a stack? -/
def TlbEntry.onStack (e : TlbEntry) (k : Nat) : Bool :=
  match e.dla with
  | some a => !dlaCxl a && dlaStack a == k
  | none => false
/-- Drop the entries of die d that an invalidation kind names (R288): 0 a VA page of a tenancy, 1 a GPA page of
a tenancy, 2 a stack, 3 a tenancy. -/
def State.dropTranslations (s : State) (d kind ten a : Nat) : State :=
  let g := s.genOn d ten
  let tlb := fun (e : TlbEntry) => match kind with
    | 0 => e.gen == g && a / 2 ^ e.lbits == e.base / 2 ^ e.lbits
    | 1 => e.gen == g && leafGpa e.leaf e.lbits e.base / 2 ^ e.gbits == a / 2 ^ e.gbits
    | 2 => e.onStack a
    | _ => e.gen == g
  let s2 := fun (e : S2Entry) => match kind with
    | 0 => false
    | 1 => e.gen == g && a / 2 ^ e.bits == e.base / 2 ^ e.bits
    | 2 => !dlaCxl e.dla && dlaStack e.dla == a
    | _ => e.gen == g
  let s1 := s.updDie d (fun x => { x with etlb := x.etlb.filter (fun e => !tlb e), s2c := x.s2c.filter (fun e => !s2 e) })
  let ofCore := fun (c : Nat) (k : Core) => if dieOf c == d then { k with tlb := k.tlb.filter (fun e => !tlb e) } else k
  { s1 with cores := Sparse.mapVals {} ofCore s1.cores }
/-- The platform requests an invalidation (R288): the entries go at once, and completion waits for the accesses in flight
that the die's tables may have translated: its cores', copies' and command processor's, and peer accesses that it serves,
with the line transfers that wait with their target. -/
def execInvalidationRequest (die kind ten : Nat) (a : W64) (id : Nat) (s : State) : Out :=
  if !s.reachesDie die then ok s else
  let s1 := s.dropTranslations die kind ten a.toNat
  let live := s.cores.flatMap (fun e =>
    (e.2.accs.filter (fun x => dieOf e.1 == die || x.tgt.die == die)).map (fun x => (e.1, x.id)))
  let writes := s.dies.flatMap (fun e => (e.2.op.filter (fun w => e.1 == die || w.tgt.die == die)).map (fun w => (e.1, w.wid)))
  let beats := s.cores.flatMap (fun e => e.2.copies.flatMap (fun x =>
    (x.held.filter (fun h => dieOf e.1 == die || h.2.2.2.die == die)).map (fun h => (e.1, x.id, h.1))))
  ok (s1.updDie die (fun x => { x with invals := x.invals ++ [⟨id, live, writes, beats⟩] }))
/-- An invalidation completes once those accesses are performed (R288). -/
def execInvalidationComplete (die id : Nat) (s : State) : Out :=
  match (s.die die).invals.find? (fun i => i.id == id) with
  | none => ok s
  | some i =>
    if i.cores.any (fun p => (s.core p.1).accs.any (fun a => a.id == p.2)) || i.writes.any (fun p => (s.die p.1).inOp p.2)
      || i.beats.any (fun p => (s.core p.1).copies.any (fun x => x.id == p.2.1 && !x.ended && x.held.any (fun h => h.1 == p.2.2)))
    then ok s
    else ok (s.updDie die (fun x => { x with invals := x.invals.filter (fun j => j.id != id) }))

end Sys2Proof.Machine
end

