-- ==== Sys2Proof/Machine/MicroOps.lean ====
section
/-! DEFINITION. The matrix engine (spec 11 R250-R267): the start of a call, the micro-ops, the checks against
silent errors, rollback, the end of a call, and the per-tile status file. A micro-op acts on the head call of the
core at hand; with no started call it does nothing. -/
namespace Sys2Proof.Machine

/-! ### The call at hand -/

/-- Replace the head call of the core at hand. -/
def State.setCall (s : State) (c : Call) : State := s.updK (fun k => { k with calls := c :: k.calls.drop 1 })
/-- Parameter n of a call's copy (R240). -/
def Call.param (c : Call) (n : BitVec 3) : W64 := c.params.getD n.toNat 0
/-- The call goes on with its next micro-word. -/
def State.nextWord (s : State) (c : Call) : State := s.setCall { c with pc := c.pc + 1 }
/-- A thread record for a call, unless one stands already (R304). -/
def Core.callDone (k : Core) (c : Call) : Core :=
  if k.threads.any (fun t => t.op == c.id && !t.far) then k
  else { k with threads := k.threads ++ [⟨c.id, true, .handle c.hout, c.scope, false⟩] }
/-- The head call ends, with an FCODE or with 0 (R261, R265): hout in ERROR where there is a code, its regions
released, off the counter, its status known, and a fault reported. -/
def State.endCall (s : State) (c : Call) (f : Nat) : State :=
  let st := c.statusWord f
  let s1 := s.updK (fun k =>
    let k := if f = 0 then k else k.failHandle c.gen c.hout (BitVec.ofNat 8 f)
    let k := { (k.releaseRegions (fun r => r.op == c.id)) with calls := k.calls.drop 1, ntl := k.ntl - 1 }
    let k := { k with status := Sparse.upd {} c.hout (fun e => if (e.awaited && !c.noted) || f ≠ 0 then { e with final := some st } else e) k.status }
    k.callDone c)
  if f = 0 then s1
  else s1.report s.d (s.coreFault s.cur.core { kind := 0x04, cause := f, data := (s1.k.handleRecord c.gen c.hout).toNat })
/-- A micro-op of the head call: it acts once the call has started, which waits for the landings in its rows (R159). -/
def microMeaning (f : State → Call → State) (s : State) : Out :=
  match s.k.calls with
  | c :: _ => if c.started then ok (f s c) else ok s
  | [] => ok s

/-- Is line or row n in a region of a call that f picks? -/
def Call.has (c : Call) (f : Region → Bool) (n : Nat) : Bool :=
  c.regs.any (fun r => f r && decide (r.first ≤ n) && decide (n ≤ r.last))
/-- Is a scratchpad line in a read region of the call? A row in an accumulator region, or in a write region? -/
def Call.mayRead (c : Call) (l : Nat) : Bool := c.has (fun r => !r.acc) l
def Call.mayRow (c : Call) (r : Nat) : Bool := c.has (·.acc) r
def Call.mayWrite (c : Call) (r : Nat) : Bool := c.has (fun q => q.acc && q.write) r
/-- Has the call drained every row of its write regions? -/
def Call.wholly (c : Call) : Bool :=
  decide ((((c.regs.filter (fun q => q.acc && q.write)).map Region.rows).foldl (· + ·) 0) ≤ c.drained.length)

/-! ### Rollback (R203, R266) -/

/-- Does a kept descriptor's destination cover a scratchpad line, or a row where acc? -/
def CopyDesc.covers (d : CopyDesc) (core : Nat) (acc : Bool) (l : Nat) : Bool :=
  (linesOf acc (d.writes core)).contains l
/-- An operand fetch of the call consumes an uncorrectable error in a line: rolled back where R203 allows it, else
the input in ERROR, where it stays if it already is, and the call ended with FCODE 0x40. -/
def State.rollback (s : State) (c : Call) (acc : Bool) (l : Nat) : State :=
  let g := c.gen
  let owner := c.inputs.find? (fun h => match (s.k.handle g h).desc with
    | some d => d.covers s.cur.core acc l
    | none => false)
  match owner with
  | none => (s.updK (fun k => k.failHandle g c.hin 0x03)).endCall c 0x40
  | some h =>
    let x := s.k.handle g h
    match x.desc with
    | none => s
    | some d =>
      if x.st == .error || !x.refetch || x.rolled then (s.updK (fun k => k.failHandle g h 0x03)).endCall c 0x40
      else
        let y : Copy := { id := s.k.nextId, seq := s.k.copySeq, desc := d, obj := .handle h, gen := g,
                          bytes := d.bytes, left := true, forkAt := s.nextWid, again := true }
        let c' : Call := { c with
          started := false, pc := c.start, loops := [], tile := [], drained := [], unf := none
          params := c.snap, refs := [], slices := 0, bits := 0, drains := 0 }
        (s.updK (fun k =>
          let k := k.setHandle g h { x with st := .filling, cnt := 0, rolled := true }
          let k := k.setHandle g c.hout { (k.handle g c.hout) with cnt := 0 }
          { k with nextId := k.nextId + 1, copies := k.copies ++ [y] })).setCall c'

/-! ### The start of a call (R250) -/

/-- The head call of a core starts, or ends where its input is in ERROR. Disabled while it must wait: for a rolled-back input to
be FULL again too (R203, R266), and in a throttled cycle (R403). -/
def execCallStart (core : Nat) (s : State) : Out :=
  let s := { s with cur := { s.cur with core := core } }
  match s.k.calls with
  | [] => ok s
  | c :: _ =>
    if c.started || (s.die s.d).throttled (quadrantOf core) then ok s
    else match (s.k.handle c.gen c.hin).st with
      | .error => ok (s.endCall c 0x40)
      | .free => ok s
      | .filling => ok s
      | _ =>
        if s.k.blocked.contains c.id || s.k.owedOps.contains c.id || !s.k.engineClear core c.id || s.k.forkHeld c.forkAt
          || c.inputs.any (fun h => (s.k.handle c.gen h).st == .filling) then ok s
        else
          let s1 := s.joinHandle c.hin
          ok ((s1.updK (fun k => k.setHandle c.gen c.hin { (k.handle c.gen c.hin) with st := .draining })).setCall
            { c with started := true, inputs := if c.inputs.isEmpty then [c.hin] else c.inputs })

/-! ### Checksums (R264) -/

/-- The magnitude of a value. -/
def Num.abs : Num → Num
  | .nan => .nan
  | .inf _ => .inf false
  | .fin _ m e s => .fin false m e s
/-- Is it finite? -/
def Num.isFinite : Num → Bool
  | .fin _ _ _ _ => true
  | _ => false
/-- Element (i, j) of a working tile. -/
def tileAt (t : Sparse Nat) (i j : Nat) : Num := fmtF32.decode (Sparse.get 0 (32 * i + j) t)
/-- The references of a starting tile: row sums and magnitudes, column sums and magnitudes. -/
def tileRefs (t : Sparse Nat) : List (Num × Num × Num × Num) :=
  (List.range 32).map (fun i =>
    let row := (List.range 32).map (fun j => tileAt t i j)
    let col := (List.range 32).map (fun j => tileAt t j i)
    (Num.sum false row, Num.sum false (row.map Num.abs), Num.sum false col, Num.sum false (col.map Num.abs)))
/-- The sum over both index lists of products p i j. -/
def addRefs (p : Nat → Nat → List Num) (rs : List (Num × Num × Num × Num)) : List (Num × Num × Num × Num) :=
  let rs := if rs.isEmpty then List.replicate 32 (Num.zero, Num.zero, Num.zero, Num.zero) else rs
  (rs.zip (List.range 32)).map (fun x =>
    let row := (List.range 32).flatMap (fun j => p x.2 j)
    let col := (List.range 32).flatMap (fun j => p j x.2)
    let r := x.1
    (Num.add false r.1 (Num.sum false row), Num.add false r.2.1 (Num.sum false (row.map Num.abs)),
     Num.add false r.2.2.1 (Num.sum false col), Num.add false r.2.2.2 (Num.sum false (col.map Num.abs))))
/-- Does a row or column fail its check: |sum - reference| > (n + 1) 2^-23 magnitude, where all are finite? -/
def sumFails (ws : List Num) (ref mag : Num) (n : Nat) : Bool :=
  ws.all Num.isFinite && mag.isFinite
    && decide (0 < (Num.add false (Num.sum false ws) ref.neg).abs.cmp false (Num.mul mag (.fin false (n + 1) (-23) false)))
/-- Does any row or column of the call's tile fail? -/
def Call.checkFails (c : Call) : Bool :=
  let refs := if c.refs.isEmpty then List.replicate 32 (Num.zero, Num.zero, Num.zero, Num.zero) else c.refs
  (refs.zip (List.range 32)).any (fun x =>
    sumFails ((List.range 32).map (fun j => tileAt c.tile x.2 j)) x.1.1 x.1.2.1 c.slices
      || sumFails ((List.range 32).map (fun j => tileAt c.tile j x.2)) x.1.2.2.1 x.1.2.2.2 c.slices)

/-! ### ZERO (R252) -/

/-- The tile loaded from 32 rows from row rb on. -/
def Core.loadTile (k : Core) (g : Hm) (rb : Nat) : Sparse Nat :=
  (List.range 1024).foldl (fun t n =>
    Sparse.put 0 n (unitOf (k.row g ((rb + n / 32) % 4096)) (n % 32)).toNat t) []
/-- The 12-bit row base that a parameter holds (R251). -/
def rowBase (v : W64) : Nat := v.toNat % 4096
/-- ZERO (R252). -/
def execZero (ld : BitVec 1) (rp : BitVec 3) (s : State) : Out :=
  microMeaning (fun s c =>
    if ld = 0#1 then s.nextWord { c with tile := [], refs := [], slices := 0 }
    else
      let rb := rowBase (c.param rp)
      let rows := (List.range 32).map (fun i => (rb + i) % 4096)
      if !rows.all c.mayRow then s.endCall c 0x43
      else match rows.find? (fun r => (Sparse.get {} r s.k.rows).bad && (Sparse.get {} r s.k.rows).hm == c.gen) with
        | some r => s.rollback c true r
        | none =>
          let t := s.k.loadTile c.gen rb
          s.nextWord { c with tile := t, refs := tileRefs t, slices := 0 }) s

/-! ### MMA (R253-R256, R131, R132) -/

/-- An operand: scratchpad address of row 0, row stride, format and geometry of its handle. -/
structure Operand where
  addr : Nat
  stride : Nat
  fmt : Nat
  geo : Nat
  deriving DecidableEq, Repr

/-- Is the format one the engine takes (R253)? -/
def mmaFormat (f : Nat) : Bool := [1, 2, 3, 4, 5, 6, 7, 8, 0x0B, 0x0C, 0x0F, 0x10].contains f
/-- The slice width of a pair; 0 where it is unsupported (R254). -/
def sliceWidth (a b : Nat) : Nat :=
  let q := fun f => f == 0x10 || f == 8
  let n := fun f => [4, 5, 6, 7, 8, 0x0B, 0x0C, 0x0F, 0x10].contains f
  let h := fun f => f == 2 || f == 3
  if q a && q b then 16 else if n a && n b then 8 else if h a && h b then 4 else if a == 1 && b == 1 then 1 else 0
/-- Byte address of row r. -/
def Operand.row (o : Operand) (r : Nat) : Nat := (o.addr + r * o.stride) % 2 ^ 19
/-- Width of an element's code. -/
def Operand.width (o : Operand) : Nat := ((elemOf o.fmt).map Elem.width).getD 8
/-- First bit of element e from its row's start, and the byte of its scale word. -/
def Operand.place (o : Operand) (e : Nat) : Nat × Nat := if o.geo = 0 then (e * o.width, 0) else blockPlace o.width o.geo e
/-- Byte runs that element e of a row fetches: its code, or its whole Q4X block, and its scale word. -/
def Operand.runs (o : Operand) (r e : Nat) : List (Nat × Nat) :=
  let p := o.place e
  let base := o.row r
  let code := if o.fmt = 0x10 then (base + (o.place (e / 32 * 32)).1 / 8, 16)
    else (base + p.1 / 8, (p.1 % 8 + o.width + 7) / 8)
  if o.geo = 0 then [code] else [code, (base + p.2, 4)]
/-- n bits of scratchpad from bit b of a row on. -/
def Core.spmBits (k : Core) (g : Hm) (base b n : Nat) : Nat :=
  k.spmBytes g (base + b / 8) ((b % 8 + n + 7) / 8) / 2 ^ (b % 8) % 2 ^ n
/-- Element e of row r, exactly, with its scale's and its Q4X block's flags (R115, R116, R120). -/
def Core.operandElem (k : Core) (g : Hm) (o : Operand) (r e : Nat) : Num × BitVec 8 :=
  let p := o.place e
  let base := o.row r
  if o.fmt = 0x10 then
    let word := k.spmBytes g (base + p.2) 4
    let b0 := (o.place (e / 32 * 32)).1
    let x := q4xDecode (fun j => k.spmBits g base (b0 + 4 * j) 4) (fun j => word / 2 ^ (4 * j) % 16)
    let sc := fmtBf16.decode (word / 2 ^ 16)
    (Num.mul (x.1.getD (e % 32) .zero) sc, (if x.2 then bitQ4XO else 0) ||| (if scaleBad sc then bitSCLB else 0))
  else
    let v := match elemOf o.fmt with
      | some f => f.decode (k.spmBits g base p.1 o.width)
      | none => .zero
    if o.geo = 0 then (v, 0)
    else
      let sc := fmtF32.decode (k.spmBytes g (base + p.2) 4)
      (Num.mul v sc, if scaleBad sc then bitSCLB else 0)

/-- Fields of an unfolding descriptor, less-one fields restored (R256). -/
structure Unfold where
  base : Nat
  w : Nat
  h : Nat
  c : Nat
  r : Nat
  s : Nat
  sy : Nat
  sx : Nat
  pt : Nat
  pl : Nat
  ow : Nat
  deriving DecidableEq, Repr

/-- The fields of TP and GP. -/
def unfoldOf (tp gp : W64) : Unfold :=
  { base := (tp.extractLsb' 0 19).toNat, w := (tp.extractLsb' 19 12).toNat + 1, h := (tp.extractLsb' 31 12).toNat + 1
    c := (tp.extractLsb' 43 12).toNat + 1, r := (gp.extractLsb' 0 4).toNat + 1, s := (gp.extractLsb' 4 4).toNat + 1
    sy := (gp.extractLsb' 8 4).toNat + 1, sx := (gp.extractLsb' 12 4).toNat + 1, pt := (gp.extractLsb' 16 4).toNat
    pl := (gp.extractLsb' 20 4).toNat, ow := (gp.extractLsb' 24 12).toNat + 1 }
/-- The element of the tensor that A[i][k] takes, none for padding (R256). -/
def Unfold.elem (u : Unfold) (p0 i k : Nat) : Option Nat :=
  let p := p0 + i
  let oy := p / u.ow
  let ox := p % u.ow
  let y : Int := (oy * u.sy + k / (u.c * u.s) : Nat) - (u.pt : Int)
  let x : Int := (ox * u.sx + k / u.c % u.s : Nat) - (u.pl : Int)
  if 0 ≤ y && y < u.h && 0 ≤ x && x < u.w then some ((y.toNat * u.w + x.toNat) * u.c + k % u.c) else none

/-- One MMA's settings: both operands, K, sparse metadata operand, unfolding. -/
structure MmaPlan where
  a : Operand
  b : Operand
  n : Nat
  slice : Nat
  mta : Option Operand
  unf : Option (Unfold × Nat)
  deriving DecidableEq, Repr

/-- The element of operand A that position (i, k) reads: its row and number, none for padding. -/
def MmaPlan.aElem (m : MmaPlan) (i k : Nat) : Option (Nat × Nat) :=
  match m.unf with
  | none => some (i, k)
  | some (u, p0) => (u.elem p0 i k).map (fun e => (0, e))
/-- Stored elements of a B row. -/
def MmaPlan.stored (m : MmaPlan) : Nat := if m.mta.isSome then m.n / 2 else m.n
/-- The lines that runs of bytes touch, modulo 2^19. -/
def runLines (rs : List (Nat × Nat)) : List Nat :=
  rs.flatMap (fun r => (List.range r.2).map (fun i => (r.1 + i) % 2 ^ 19 / 128))
/-- Every line that the MMA fetches. -/
def MmaPlan.lines (m : MmaPlan) : List Nat :=
  let ts := (List.range 32).flatMap (fun i =>
    ((List.range m.n).filterMap (m.aElem i)).flatMap (fun e => m.a.runs e.1 e.2)
      ++ (List.range m.stored).flatMap (fun k => m.b.runs i k)
      ++ (match m.mta with | some o => [(o.row i, m.n / 4)] | none => []))
  ((runLines ts).foldl (fun s l => Sparse.put false l true s) []).map Prod.fst
/-- Metadata byte g of row j. -/
def Core.metaByte (k : Core) (gen : Hm) (o : Operand) (j g : Nat) : Nat := k.spmByte gen (o.row j + g)
/-- The stored element that stands at position k of B row j; none where the pattern drops it (R255). -/
def Core.sparseElem (c : Core) (gen : Hm) (o : Operand) (j k : Nat) : Option Nat :=
  let b := c.metaByte gen o j (k / 4)
  if k % 4 = b % 4 then some (2 * (k / 4)) else if k % 4 = b / 4 % 4 then some (2 * (k / 4) + 1) else none
/-- The scratchpad addresses of the scale word of element e of row r. -/
def Operand.scales (o : Operand) (r e : Nat) : List Nat := if o.geo = 0 then [] else [o.row r + (o.place e).2]
/-- The addresses of the scale words and metadata bytes that the MMA latches. -/
def MmaPlan.latched (m : MmaPlan) : List Nat :=
  (List.range 32).flatMap (fun i =>
    ((List.range m.n).filterMap (m.aElem i)).flatMap (fun e => m.a.scales e.1 e.2)
      ++ (List.range m.stored).flatMap (fun k => m.b.scales i k)
      ++ (match m.mta with
        | some o => (List.range (m.n / 4)).map (fun g => o.row i + g)
        | none => []))
/-- Do the two latches of a word that the MMA uses disagree (R263)? -/
def Core.latchFails (k : Core) (m : MmaPlan) : Bool :=
  !k.latchUpsets.isEmpty && m.latched.any (fun a => k.latchUpsets.contains (a % 2 ^ 19))
/-- Row i of A, exactly. -/
def Core.rowA (c : Core) (gen : Hm) (m : MmaPlan) (i : Nat) : List (Num × BitVec 8) :=
  (List.range m.n).map (fun k => match m.aElem i k with
    | none => (.zero, 0)
    | some e => c.operandElem gen m.a e.1 e.2)
/-- Row j of B, none at dropped positions. -/
def Core.rowB (c : Core) (gen : Hm) (m : MmaPlan) (j : Nat) : List (Option Num × BitVec 8) :=
  (List.range m.n).map (fun k =>
    match (match m.mta with
      | none => some k
      | some o => c.sparseElem gen o j k) with
    | none => (none, 0)
    | some e => let x := c.operandElem gen m.b j e; (some x.1, x.2))
/-- The products of one element (R132, R255). -/
def products (a : List (Num × BitVec 8)) (b : List (Option Num × BitVec 8)) : List Num :=
  (a.zip b).map (fun x => match x.2.1 with
    | none => .zero
    | some v => Num.mul x.1.1 v)
/-- The accumulation of R131: slices of s products, the last padded with +0, one rounding after each. -/
def accumulate (s : Nat) : Nat → List Num → Nat → Nat
  | 0, _, w => w
  | fuel + 1, ps, w =>
    if ps.isEmpty then w
    else
      let cur := ps.take s
      let sum := Num.sum false (cur ++ List.replicate (s - cur.length) Num.zero)
      accumulate s fuel (ps.drop s) (fmtF32.encode rne false (Num.add false (fmtF32.decode w) sum)).1
/-- The MMA done: tile, references, slices and status bits of the call. -/
def Core.runMma (k : Core) (c : Call) (m : MmaPlan) : Call :=
  let as_ := (List.range 32).map (k.rowA c.gen m)
  let bs := (List.range 32).map (k.rowB c.gen m)
  let prod := fun i j => products (as_.getD i []) (bs.getD j [])
  let n := (m.n + m.slice - 1) / m.slice
  let tile := (List.range 1024).foldl (fun t e =>
    Sparse.put 0 e (accumulate m.slice n (prod (e / 32) (e % 32)) (Sparse.get 0 e c.tile)) t) []
  let fa := as_.flatMap (fun r => r.map Prod.snd)
  let fb := bs.flatMap (fun r => r.map Prod.snd)
  { c with tile := tile, refs := addRefs prod c.refs, slices := c.slices + n,
           bits := (fa ++ fb).foldl (fun b f => b ||| f) c.bits, pc := c.pc + 1 }
/-- An operand from a parameter and a handle's format (R251). -/
def operandOf (v : W64) (x : Handle) : Operand :=
  ⟨(v.extractLsb' 0 19).toNat, (v.extractLsb' 32 19).toNat, x.fmt.toNat, x.geo.toNat⟩
/-- Is a number of elements no whole number of the geometry's blocks? -/
def offBlock (geo n : Nat) : Bool := decide (geo ≠ 0) && decide (n % geoBlock geo ≠ 0)
/-- MMA (R253-R255). Of several causes the one checked first names the FCODE. -/
def execMma (ap bp kp mp : BitVec 3) (ah bh : BitVec 6) (sp ua ain bin : BitVec 1) (s : State) : Out :=
  microMeaning (fun s c =>
    let g := c.gen
    let ha := if ain = 1#1 then c.hin else ah.toNat
    let hb := if bin = 1#1 then c.hin else bh.toNat
    let xa := s.k.handle g ha
    let xb := s.k.handle g hb
    let w := sliceWidth xa.fmt.toNat xb.fmt.toNat
    let n := (c.param kp).toNat % 2 ^ 20
    let nb := if sp = 1#1 then n / 2 else n
    let u := c.unf.map (fun t => unfoldOf t.1 t.2)
    if !c.inputs.contains ha || !c.inputs.contains hb || !mmaFormat xa.fmt.toNat || !mmaFormat xb.fmt.toNat then
      s.endCall c 0x44
    else if w = 0 then s.endCall c 0x45
    else if n = 0 || (sp = 1#1 && decide (n % 4 ≠ 0)) || offBlock xb.geo.toNat nb
      || (ua = 0#1 && offBlock xa.geo.toNat n)
      || (ua = 1#1 && (match u with | some u => decide (u.r * u.s * u.c < n) | none => false)) then s.endCall c 0x46
    else if ua = 1#1 && (u.isNone || decide (xa.geo ≠ 0)) then s.endCall c 0x47
    else
      let pa := c.param ap
      let a : Operand := if ua = 1#1 then ⟨(u.map (·.base)).getD 0, 0, xa.fmt.toNat, 0⟩ else operandOf pa xa
      let m : MmaPlan := {
        a := a, b := operandOf (c.param bp) xb, n := n, slice := w
        mta := if sp = 1#1 then some { operandOf (c.param mp) {} with fmt := 0 } else none
        unf := if ua = 1#1 then u.map (fun u => (u, pa.toNat % 2 ^ 24)) else none }
      let ls := m.lines
      if !ls.all c.mayRead then s.endCall c 0x43
      else match ls.find? (fun l => (Sparse.get {} l s.k.spm).bad && (Sparse.get {} l s.k.spm).hm == g) with
        | some l => s.rollback c false l
        | none =>
          let mbytes := match m.mta with
            | none => []
            | some o => (List.range 32).flatMap (fun j => (List.range (n / 4)).map (s.k.metaByte g o j))
          if s.k.latchFails m || mbytes.any (fun b => b / 16 != b % 16) then s.endCall { c with bits := c.bits ||| bitDUP } 0x49
          else if mbytes.any (fun b => decide (b / 4 % 4 ≤ b % 4)) then s.endCall c 0x48
          else s.setCall (s.k.runMma c m)) s

/-- UNF (R256). -/
def execUnf (tp gp : BitVec 3) (s : State) : Out :=
  microMeaning (fun s c =>
    let t := c.param tp
    let w := c.param gp
    if (t.extractLsb' 55 9).toNat ≠ 0 || (w.extractLsb' 36 28).toNat ≠ 0 then s.endCall c 0x47
    else s.nextWord { c with unf := some (t, w) }) s

/-! ### DRAIN (R257) -/

/-- The format of a DF code and how many tile rows share one accumulator row. -/
def drainFmt (df : Nat) : Option (FloatFmt × Nat) :=
  match df with
  | 0 => some (fmtF32, 1)
  | 1 => some (fmtBf16, 2)
  | 2 => some (fmtF16, 2)
  | 3 => some (fmtE4m3, 4)
  | 4 => some (fmtE5m2, 4)
  | _ => none
/-- One element converted: code and flags. -/
def drainElem (f : FloatFmt) (sc : Option Num) (w : Num) : Nat × Flags :=
  f.encode rne false (match sc with
    | some x => Num.mul w x
    | none => w)
/-- The image of output row q. -/
def drainImage (f : FloatFmt) (per : Nat) (sc : Option Num) (t : Sparse Nat) (q : Nat) : Image :=
  lanesImage (32 * per) (fun l => BitVec.ofNat f.width (drainElem f sc (tileAt t (per * q + l / 32) (l % 32))).1)
/-- The status bits that a DRAIN sets. -/
def drainBits (f : FloatFmt) (sc : Option Num) (t : Sparse Nat) : BitVec 8 :=
  (List.range 1024).foldl (fun b n =>
    let w := tileAt t (n / 32) (n % 32)
    let o := drainElem f sc w
    let nan := w.isNan || (f.decode o.1).isNan
    let inf := !w.isNan && !w.isFinite
    b ||| (if nan then bitNAN else 0) ||| (if inf then bitINF else 0)
      ||| (if o.2 &&& flagOVF = 0 then 0 else bitOVF)) 0
/-- DRAIN (R257, R264): checked before any byte is written; each row whole, its 128 bytes counted on hout. At the end of the
call's last DRAIN its regions are released (R196). -/
def execDrain (rp scp : BitVec 3) (sc : BitVec 1) (df : BitVec 3) (s : State) : Out :=
  microMeaning (fun s c =>
    match drainFmt df.toNat with
    | none => s.endCall c 0x4C
    | some (f, per) =>
      let rb := rowBase (c.param rp)
      let n := 32 / per
      let rows := (List.range n).map (fun q => (rb + q) % 4096)
      if !rows.all c.mayWrite then s.endCall c 0x43
      else if rows.any c.drained.contains then s.endCall c 0x4B
      else if c.checkFails then s.endCall { c with bits := c.bits ||| bitCHK } 0x4A
      else
        let x := if sc = 1#1 then some (fmtF32.decode ((c.param scp).toNat % 2 ^ 32)) else none
        let c' : Call := { c with drained := c.drained ++ rows, bits := c.bits ||| drainBits f x c.tile,
                                  drains := c.drains + 1 }
        (s.nextWord c').updK (fun k =>
          let k := (List.range n).foldl (fun k q =>
            k.writeRow c.gen ((rb + q) % 4096) allUnits (drainImage f per x c.tile q)) k
          let h := k.handle c.gen c.hout
          let k := if h.st = .error then k
            else (k.setHandle c.gen c.hout { h with fmt := BitVec.ofNat 6 (df.toNat + 1), geo := 0 }).countBytes
              c.gen c.hout (128 * n)
          let k := if c'.wholly then k.releaseRegions (fun r => r.op == c.id) else k
          if (k.handle c.gen c.hout).st = .full then k.callDone c else k)) s

/-! ### Control (R258-R261) -/

/-- ADV (R258). -/
def execAdv (pd sp : BitVec 3) (ps : BitVec 1) (stride : BitVec 32) (s : State) : Out :=
  microMeaning (fun s c =>
    let st : W64 := if ps = 1#1 then ((c.param sp).setWidth 32).signExtend 64 else stride.signExtend 64
    s.nextWord { c with params := c.params.set pd.toNat (c.param pd + st) }) s
/-- The word of the ENDL that closes a block opened before word w, the routine ending before word e (R259). -/
def Core.matchEndl (k : Core) (g : Hm) : Nat → Nat → Nat → Option Nat
  | 0, _, _ => none
  | fuel + 1, w, depth =>
    match (k.microWord g w).toNat / 2 ^ 60 with
    | 6 => k.matchEndl g fuel (w + 1) (depth + 1)
    | 7 => if depth = 0 then some w else k.matchEndl g fuel (w + 1) (depth - 1)
    | _ => k.matchEndl g fuel (w + 1) depth
/-- LOOP (R259). -/
def execMxLoop (cp : BitVec 3) (s : State) : Out :=
  microMeaning (fun s c =>
    let n := (c.param cp).toNat % 2 ^ 20
    match s.k.matchEndl c.gen (c.start + c.len - (c.pc + 1)) (c.pc + 1) 0 with
    | none => s.endCall c 0x42
    | some w =>
      if n = 0 then s.setCall { c with pc := w + 1 }
      else if 4 ≤ c.loops.length then s.endCall c 0x42
      else s.nextWord { c with loops := (c.pc + 1, n) :: c.loops }) s
/-- ENDL (R259). -/
def execEndl (s : State) : Out :=
  microMeaning (fun s c => match c.loops with
    | [] => s.endCall c 0x42
    | (w, n) :: t => if 1 < n then s.setCall { c with loops := (w, n - 1) :: t, pc := w }
        else s.nextWord { c with loops := t }) s
/-- WAITH (R260): while the handle fills, the call stays at this word. -/
def execWaith (h : BitVec 6) (s : State) : Out :=
  microMeaning (fun s c =>
    let x := s.k.handle c.gen h.toNat
    match x.st with
    | .error => s.endCall c 0x40
    | .free => s
    | .filling => s
    | _ =>
      let c' := { c with inputs := if c.inputs.contains h.toNat then c.inputs else c.inputs ++ [h.toNat] }
      (s.updK (fun k => k.setHandle c.gen h.toNat { x with st := .draining })).nextWord c') s
/-- END (R261). -/
def execMxEnd (s : State) : Out :=
  microMeaning (fun s c =>
    s.endCall c (if (s.k.handle c.gen c.hout).st = .full then 0 else 0x4B)) s
/-- A reserved, malformed or stale micro-word (R251). -/
def execReservedMicroOp (s : State) : Out := microMeaning (fun s c => s.endCall c 0x41) s
/-- Running past the routine's last word (R259). -/
def State.pastRoutine (s : State) : Out := microMeaning (fun s c => s.endCall c 0x42) s

/-! ### The status file (R267) -/

/-- The engine posts the entry of handle h of a core (R267). -/
def execStatusPost (core h : Nat) (s : State) : Out :=
  match (s.core core).statusReady h with
  | some v => ok (s.updCore core (fun k => k.postStatus h v))
  | none => ok s

end Sys2Proof.Machine
end

