-- ==== Sys2Proof/Machine/Control.lean ====
section
/-! DEFINITION. Control and status registers (R84-R87), the latency map (R238), WAIT (R95), branches, loops and
jumps (R88-R93), TRAP, ERET and UIRET (R101, R102, R109), user-level interrupts (R105-R107), and the arrival of
results (R53, R230, R268). -/
namespace Sys2Proof.Machine

/-! ### The latency map and queries (R230, R238) -/

/-- The latency-map entry of core c for slice e = 24 stack + slice (R238). -/
def State.latEntry (s : State) (c e : Nat) : BitVec 16 :=
  let k := e / 24
  let d := dieOf c
  if !(s.stack k).present || !s.reaches d (s.owner k) then 0x0FFF#16
  else
    let hops := BitVec.ofNat 4 (s.hops d (s.owner k))
    if 24 - (s.stack k).mscn ≤ e % 24 then hops ++ 0xFFF#12
    else hops ++ Config.latency c e (s.die d).latEpoch
/-- Four 16-bit entries in one word, the first lowest. -/
def fourEntries (f : Nat → BitVec 16) (i : Nat) : W64 := f (4 * i + 3) ++ f (4 * i + 2) ++ f (4 * i + 1) ++ f (4 * i)
/-- The placement record of address a (R230, query 2). -/
def State.placement (s : State) (c : Nat) (a : W64) : W64 :=
  match s.translateCore c a 0 .read with
  | .error _ => 0
  | .ok t =>
    let peer := t.remote && !(s.core c).lvl
    let kind := if peer then 3 else dlaKind t.dla
    let stack := if kind < 2 then dlaStack t.dla else 0
    let slice := if kind = 1 then sramSlice (dlaOffset t.dla) else 0
    let lat := if kind = 1 then (s.latEntry c (24 * stack + slice)).toNat else 0
    BitVec.ofNat 64 (2 ^ 63 + kind * 2 ^ 60 + stack * 2 ^ 56 + slice * 2 ^ 48 + t.psize * 2 ^ 40 + lat)
/-- Does a query of a placement wait as a load would, for a table that cannot be read yet or for room in a forward queue? -/
def State.placementWaits (s : State) (c : Nat) (a : W64) : Bool :=
  match s.translateCore c a 0 .read with
  | .error f => f == walkWait
  | .ok _ => false
/-- The answer to CQRY q of a (R230). -/
def State.answer (s : State) (c q : Nat) (a : W64) : W64 :=
  let k := s.core c
  match q with
  | 0 => if 7 ≤ a.toNat then 0 else if a = 6 then k.cctl else (Sparse.get {} a.toNat k.levels).count.setWidth 64
  | 1 =>
    if 6 ≤ a.toNat then 0
    else let l := Sparse.get {} a.toNat k.levels; (l.dstr ++ l.sstr).setWidth 64
  | 2 => s.placement c a
  | 3 => BitVec.ofNat 64 (k.copySeq.toNat * 2 ^ 32 + k.queueUse * 2 ^ 16 + s.inFlight c)
  | 4 => BitVec.ofNat 64 ((if k.copyFault.valid then 2 ^ 32 else 0) + k.copyFault.seq.toNat * 2 ^ 16
      + k.copyFault.fcode.toNat)
  | _ =>
    let n := (List.range 256).filter (fun e =>
      let x := Sparse.get 0#16 e (s.die (dieOf c)).slotTab
      x.getLsbD 15 && some (x.toNat % 4096) == k.ten)
    BitVec.ofNat 64 n.length
/-- The state word of a link (R419). -/
def Link.word (x : Link) : W64 :=
  BitVec.ofNat 64 (min x.retr 0xFFFF * 2 ^ 48 + min x.naks 0xFFFF * 2 ^ 32 + x.st % 4 * 16 + x.width % 4)
/-- Die d's mirror of the state of link l (R419). -/
def State.linkMirror (s : State) (d l : Nat) : W64 :=
  match Sparse.get none l (s.die d).linkMir with
  | some v => v
  | none => Link.word {}
/-- The value with which a pending result can arrive now; none while it cannot. -/
def State.resultOf (s : State) (c : Nat) (q : Pending) : Option W64 :=
  match q.query with
  | some (.copy n a) => if n = 2 && s.placementWaits c a then none else some (s.answer c n a)
  | some (.status h) =>
    let e := Sparse.get {} h (s.core c).status
    if e.awaited then none else some e.val
  | some (.link l) => some (s.linkMirror (dieOf c) l)
  | none => q.value
/-- Pending result idx of a core arrives (R53). -/
def execResultArrive (core idx : Nat) (s : State) : Out :=
  match (s.core core).pend[idx]? with
  | none => ok s
  | some q =>
    if q.failed then ok s
    else match s.resultOf core q with
      | none => ok s
      | some v => ok (s.arrive core q v)
/-- The due entries of a core's landing queue land (R52, R62). -/
def execLanding (core : Nat) (s : State) : Out := ok (s.landDue core)

/-! ### CSRR and CSRW (R84-R86) -/

/-- PSTAT (R103, R104). -/
def Core.pstat (k : Core) : W64 :=
  (if k.lvl then 1 else 0) + (if k.uia then 2 else 0) + (if k.uiPend = 0 then 0 else 4)
/-- The value of a CSR to core c. -/
def State.csrRead (s : State) (c idx : Nat) : W64 :=
  let k := s.core c
  if 0x100 ≤ idx && idx ≤ 0x13F then
    fourEntries (fun e => Sparse.get 0#16 e (s.die (dieOf c)).slotTab) (idx - 0x100)
  else if 0x200 ≤ idx && idx ≤ 0x22F then fourEntries (s.latEntry c) (idx - 0x200)
  else match idx with
    | 0x000 => k.csr.stat &&& statBits
    | 0x001 => k.ismap
    | 0x002 => k.csr.splitc
    | 0x003 => k.csr.vcyc
    | 0x004 => (s.die (dieOf c)).lcyc
    | 0x010 => k.csr.vwb.setWidth 64
    | 0x011 => k.csr.vrot.setWidth 64
    | 0x018 => (Sparse.get 0 0 k.csr.lp).setWidth 64
    | 0x019 => (Sparse.get 0 1 k.csr.lp).setWidth 64
    | 0x01A => (Sparse.get 0 2 k.csr.lp).setWidth 64
    | 0x01B => (Sparse.get 0 3 k.csr.lp).setWidth 64
    | 0x020 => k.csr.rndseed
    | 0x021 => k.csr.fmtst.setWidth 64
    | 0x030 => k.csr.uivec &&& ~~~15#64
    | 0x031 => k.csr.uiepc
    | 0x032 => k.csr.uicause &&& 0xFFFF#64
    | 0x400 => k.pstat
    | 0x401 => k.csr.ptvec
    | 0x402 => k.csr.pepc
    | 0x403 => k.csr.pcause
    | 0x404 => k.csr.gracet
    | 0x405 => k.csr.killt
    | 0x406 => k.csr.ctxptr
    | _ => 0
/-- The privilege trap of a platform CSR at user level (R85). -/
def csrVerdict (c : BitVec 11) (s : State) : Verdict := trapIf (decide (0x400 ≤ c.toNat) && !s.k.lvl) 4 1 .go
/-- CSRR (R84). -/
def execCsrr (p : BitVec 3) (d : BitVec 6) (c : BitVec 11) (s : State) : Out :=
  slotMeaning p [] (some (s.rD d)) false (csrVerdict c)
    (fun s => s.putScalar Config.latALU (s.rD d) (s.csrRead s.cur.core c.toNat)) s
/-- CSRW: in force from the next virtual cycle (R84). -/
def execCsrw (p : BitVec 3) (a : BitVec 6) (c : BitVec 11) (s : State) : Out :=
  slotMeaning p [s.rA a] none false (csrVerdict c)
    (fun s => s.updK (fun k => { k with nextVc := k.nextVc ++ [.csr c.toNat (s.reg (s.rA a))] })) s

/-! ### WAIT (R95) -/

/-- Is a counter within the limit that a field sets? -/
def withinLimit (n : BitVec 12) (f : BitVec 5) : Bool := f == 31#5 || decide (n.toNat ≤ f.toNat)
/-- WAIT; it joins the engine threads it finds gone from their counters (R304). -/
def execWait (p : BitVec 3) (nl ns nc nt : BitVec 5) (s : State) : Out :=
  slotMeaning p [] none false
    (fun s => if withinLimit s.k.nld nl && withinLimit s.k.nst ns && withinLimit s.k.ncp nc && withinLimit s.k.ntl nt
      then .go else .wait)
    (fun s => s.join (fun t => if t.call then nt != 31#5 else nc != 31#5)) s

/-! ### Branches, loops and jumps (R88-R93) -/

/-- The next bundle is the one at an address. -/
def State.jump (s : State) (a : Addr) : State := { s with cur := { s.cur with redirect := some a } }
/-- The bundle a number of bundles away (R90, R92). A target, the next bundle and a link address past the 48-bit range wrap
modulo 2^48 (DESIGN CHOICE, log entry 124). -/
def State.bundleAt (s : State) (off : Int) : Addr := s.k.pc + BitVec.ofInt 48 (16 * off)
/-- The link address (R90, R91). -/
def State.linkAddr (s : State) : W64 := (s.k.pc + 16).setWidth 64
/-- BR (R90). -/
def execBr (p : BitVec 3) (off : BitVec 20) (s : State) : Out :=
  slotMeaning p [] none false noTrap (fun s => s.jump (s.bundleAt (immS s.cur.kind s.cur.x off))) s
/-- BRL (R90). -/
def execBrl (p : BitVec 3) (off : BitVec 20) (s : State) : Out :=
  slotMeaning p [] (some 63) false noTrap
    (fun s => (s.putScalar Config.latALU 63 s.linkAddr).jump (s.bundleAt (immS s.cur.kind s.cur.x off))) s
/-- Count loop counter l and rotate by r; jump while the count has not run out (R92). -/
def State.loopStep (s : State) (l : BitVec 2) (rot : Option (BitVec 5)) (off : BitVec 16) : State :=
  let c := Sparse.get 0 l.toNat s.k.csr.lp
  let c' := if c = 0 then c else c - 1
  let w := Delayed.csr (0x18 + l.toNat) (c'.setWidth 64) :: (match rot with
    | none => []
    | some r => [Delayed.csr 0x011 ((s.k.csr.vrot + r).setWidth 64)])
  let s1 := s.updK (fun k => { k with nextVc := k.nextVc ++ w })
  if c' = 0 then s1 else s1.jump (s.bundleAt off.toInt)
/-- LOOP (R92). -/
def execLoop (p : BitVec 3) (l : BitVec 2) (off : BitVec 16) (s : State) : Out :=
  slotMeaning p [] none false noTrap (fun s => s.loopStep l none off) s
/-- LOOPR (R92). -/
def execLoopr (p : BitVec 3) (l : BitVec 2) (k : BitVec 5) (off : BitVec 16) (s : State) : Out :=
  slotMeaning p [] none false noTrap (fun s => s.loopStep l (some k) off) s
/-- The control traps of a jump target (R91). -/
def jumpVerdict (t : W64) : Verdict :=
  if 2 ^ 48 ≤ t.toNat then .trap 5 2 0 0 t else if t.toNat % 16 ≠ 0 then .trap 5 1 0 0 t else .go
/-- JR (R91). -/
def execJr (p : BitVec 3) (a : BitVec 6) (s : State) : Out :=
  slotMeaning p [s.rA a] none false (fun s => jumpVerdict (s.reg (s.rA a)))
    (fun s => s.jump ((s.reg (s.rA a)).setWidth 48)) s
/-- JRL (R91). -/
def execJrl (p : BitVec 3) (d a : BitVec 6) (s : State) : Out :=
  slotMeaning p [s.rA a] (some (s.rD d)) false (fun s => jumpVerdict (s.reg (s.rA a)))
    (fun s => (s.putScalar Config.latALU (s.rD d) s.linkAddr).jump ((s.reg (s.rA a)).setWidth 48)) s

/-! ### Traps and returns (R98-R103) -/

/-- TRAP (R101). -/
def execTrap (p : BitVec 3) (c : BitVec 12) (s : State) : Out :=
  slotMeaning p [] none false (fun _ => .trap 6 0 c.toNat 0 0) id s
/-- A context is given up: the core runs no task and is idle (R102, R354). -/
def Core.idle (k : Core) : Core :=
  { k with phase := 0, stopping := none, lvl := false, ui := false, uia := false, igpor := false, trapping := none, late := none,
           lateHeld := none, bubbles := 0, blocked := [], owed := 0, owedOps := [], lq := [], hq := [], nextVc := [], pend := [], task := none, waita := [],
           waitaHit := [], ringRead := none, prefs := [], grace := none, kill := none }
/-- Is the context that core c holds no longer current (R102)? -/
def State.staleContext (s : State) (c : Nat) : Bool :=
  let k := s.core c
  match k.ten with
  | none => true
  | some t => k.ctxGen == nullGen || s.genOn (dieOf c) t != k.ctxGen
/-- The return from platform level (R102; the bits of PEPC that the pc drops: log entry 124): the regions of the trap save restored from CTXPTR, user level at PEPC; a
stale context is discarded, and one whose landing queue breaks R61 is refused, its core and task reported failed. -/
def State.returnFromTrap (s : State) (c : Nat) : State :=
  let v := s.read platformGen (s.core c).ctxArea corePartBytes
  if s.staleContext c then s.updCore c Core.idle
  else if !lqPartOk v then ((s.reportTask c { kind := 0x07, addr := (s.core c).ctxArea }).failTask c).updCore c Core.idle
  else
    let pc : Addr := asPc (s.core c).csr.pepc
    -- the delayed writes of the bundle itself go first: a CSR of the platform keeps them
    (s.applyNext c).updCore c (fun k =>
      let k' := k.restoreCore k.ctxGen (Sparse.get [] k.ctxArea s.lqFlags) v
      { k' with lvl := false, uia := false, hq := [], nextVc := [], pc := pc, late := k.lateHeld, lateHeld := none })
/-- ERET (R102). An area at CTXPTR that is not wholly valid or that holds an uncorrectable error is a fault at platform
level, and so a double trap, of class 0x07 with subcode 0x0A or of class 0x08 (DEDUCED, log entry 101). -/
def execEret (p : BitVec 3) (s : State) : Out :=
  slotMeaning p [] none false
    (fun s =>
      let k := s.k
      if !k.lvl then trapV 4 2
      else if !k.pend.isEmpty then .wait
      else if !s.areaOk s.cur.core then .trap 7 0x0A 0 0 k.csr.ctxptr
      else if s.areaWaits s.cur.core then .wait
      else if s.badRun k.ctxArea corePartBytes then .trap 8 0 0 0 k.csr.ctxptr
      else .go)
    (fun s =>
      let s1 := s.returnFromTrap s.cur.core
      s1.jump s1.k.pc) s
/-- The main stream goes on; bubbles that the handler's copies owe come first (R109, R159). -/
def Core.leaveUi (k : Core) : Core :=
  { k with ui := false, bubbles := max k.bubbles k.owed, blocked := k.blocked ++ k.owedOps, owed := 0, owedOps := [] }
/-- UIRET (R109). Outside a handler it traps; the spec names no offending address for that subcode of class 0x05, and the
trap record's ADDR is 0 (DESIGN CHOICE, log entry 100). -/
def execUiret (p : BitVec 3) (s : State) : Out :=
  slotMeaning p [] none false
    (fun s => if !s.k.ui then trapV 5 3 else if s.k.pend.any (·.shadow) then .wait else .go)
    (fun s => (s.updK Core.leaveUi).jump (asPc s.k.csr.uiepc)) s

/-! ### User-level interrupts (R106, R107) -/

/-- May an interrupt be taken at this issue boundary? -/
def Core.uiReady (k : Core) : Bool :=
  k.uiPend != 0 && !k.ui && !k.lvl && k.csr.uivec != 0 && k.trapping == none && !k.stopped && k.bubbles == 0
    && k.task.any (fun t => t.ending == .no) && (k.phase == 1 || k.phase == 2)
/-- The lowest bit set, below n. -/
def lowestBit (m : W64) : Nat := ((List.range 64).find? (fun i => m.getLsbD i)).getD 0
/-- Entry into the handler (R107). -/
def Core.enterUi (k : Core) (g : Hm) : Core :=
  let h := lowestBit k.uiPend
  let x := k.handle g h
  let cause : W64 := BitVec.ofNat 64 (h + (if x.st = .error then 2 ^ 6 + x.fcode.toNat * 2 ^ 8 else 0))
  { k with uiPend := k.uiPend &&& ~~~(1#64 <<< h), ui := true, pc := asPc k.csr.uivec, waita := [], waitaHit := [], ringRead := none,
           csr := { k.csr with uiepc := k.pc.setWidth 64, uicause := cause } }
/-- A pending user-level interrupt of a core is taken (R106, R107). -/
def execUserLevelInterrupt (core : Nat) (s : State) : Out :=
  if (s.core core).uiReady then ok (s.updCore core (fun k => k.enterUi (s.coreGen core))) else ok s
/-- A trap whose pending results have arrived is taken (R98). -/
def execTrapEntry (core : Nat) (s : State) : Out :=
  let k := s.core core
  match k.trapping with
  | none => ok s
  | some t => if k.pend.all (·.failed) && !s.areaWaits core then ok (s.enterTrap core t) else ok s

end Sys2Proof.Machine
end

