-- ==== Sys2Proof/Machine/Sets.lean ====
section
/-! DEFINITION. Value rings and Pelelm sets (spec 08): rings as their loaded images, the set majors, and the
checks of RINGLD. -/
namespace Sys2Proof.Machine

/-- A ring as a set slot sees it (R164, R168): null, or the image it was loaded from. -/
structure Ring where
  null : Bool
  img : BitVec 98944
  deriving DecidableEq, Repr

/-- Ring slot n of a core to a reader of generation g (R164). -/
def Core.ring (k : Core) (g : Hm) (n : Nat) : Ring :=
  let r := Sparse.get {} n k.rings
  if r.hm = g && decide (r.img ≠ 0) then ⟨false, r.img⟩ else ⟨true, 0⟩

/-- Bits lo to lo+n-1 of an image byte offset. -/
def Ring.field (r : Ring) (byte bits : Nat) : Nat := r.img.toNat / 2 ^ (8 * byte) % 2 ^ bits
/-- N, the number of positions (R161, R164). An image whose HDR byte is neither 16 nor 32, which only a restore can bring, reads as
a ring of 16 (DESIGN CHOICE, log entry 128). -/
def Ring.n (r : Ring) : Nat := if r.null then 16 else if r.field 0 8 = 32 then 32 else 16
/-- The code of val(2i) (R168). -/
def Ring.val (r : Ring) (i : Nat) : Nat := r.field (16 + 4 * i) 32
/-- Entry (i, k) of table tb: 0 ADD, 1 MUL, 2 DIV (R168); the whole line under the null ring. -/
def Ring.entry (r : Ring) (tb i k : Nat) : Nat :=
  let n := r.n
  if r.null then 2 ^ 16 - 1 else r.field (80 + tb * (n * n * (n / 8)) + (n * i + k) * (n / 8)) n

/-- Bit i of a mask. -/
def hasBit (m i : Nat) : Bool := decide (m / 2 ^ i % 2 = 1)
/-- The negated mask: bit k moves to (N - k) mod N (R175). -/
def negMask (n m : Nat) : Nat :=
  (List.range n).foldl (fun r k => if hasBit m k then r + 2 ^ ((n - k) % n) else r) 0
/-- The union of the table entries of the pairs of positions (R172). -/
def tableUnion (r : Ring) (tb a b : Nat) : Nat :=
  (List.range r.n).foldl (fun acc i =>
    if hasBit a i then
      (List.range r.n).foldl (fun acc k => if hasBit b k then Nat.lor acc (r.entry tb i k) else acc) acc
    else acc) 0

/-- Masks of all lanes of a ring's width (R165). -/
def maskLanes (n : Nat) (f : Nat → Nat) : Image :=
  BitVec.ofNat 1024 (packLanes n (fun j => (f j, 0#6)) (1024 / n)).1

/-- A two-operand set slot: always to a row (R171). -/
def setOp3 (f : Ring → Nat → Nat → Nat) (p : BitVec 3) (d : BitVec 5) (a b : BitVec 7) (r : BitVec 2)
    (s : State) : Out :=
  vecOp Config.latVA p [] (fun s => [s.vA a, s.vB b]) (fun s => s.vRow d)
    (fun s =>
      let rg := s.k.ring s.gen r.toNat
      let x := s.vec (s.vA a)
      let y := s.vec (s.vB b)
      (maskLanes rg.n (fun j => f rg (laneNat rg.n x j) (laneNat rg.n y j)), 0#6)) s
/-- SADD (R172). -/
def execSadd (p : BitVec 3) (d : BitVec 5) (a b : BitVec 7) (r : BitVec 2) (s : State) : Out :=
  setOp3 (fun g x y => tableUnion g 0 x y) p d a b r s
/-- SSUB: ADD with b negated (R172). -/
def execSsub (p : BitVec 3) (d : BitVec 5) (a b : BitVec 7) (r : BitVec 2) (s : State) : Out :=
  setOp3 (fun g x y => tableUnion g 0 x (negMask g.n y)) p d a b r s
/-- SMUL (R172). -/
def execSmul (p : BitVec 3) (d : BitVec 5) (a b : BitVec 7) (r : BitVec 2) (s : State) : Out :=
  setOp3 (fun g x y => tableUnion g 1 x y) p d a b r s
/-- SDIV (R172). -/
def execSdiv (p : BitVec 3) (d : BitVec 5) (a b : BitVec 7) (r : BitVec 2) (s : State) : Out :=
  setOp3 (fun g x y => tableUnion g 2 x y) p d a b r s
/-- SUNI (R174). -/
def execSuni (p : BitVec 3) (d : BitVec 5) (a b : BitVec 7) (r : BitVec 2) (s : State) : Out :=
  setOp3 (fun _ x y => Nat.lor x y) p d a b r s
/-- SINT (R174). -/
def execSint (p : BitVec 3) (d : BitVec 5) (a b : BitVec 7) (r : BitVec 2) (s : State) : Out :=
  setOp3 (fun _ x y => Nat.land x y) p d a b r s
/-- SCMP: all ones where the sets share a position (R174). -/
def execScmp (p : BitVec 3) (d : BitVec 5) (a b : BitVec 7) (r : BitVec 2) (s : State) : Out :=
  setOp3 (fun g x y => if Nat.land x y ≠ 0 then 2 ^ g.n - 1 else 0) p d a b r s

/-- A one-operand set slot from whole images (R171). -/
def setOp2 (lat : Nat) (f : Ring → Image → Image × Flags) (p : BitVec 3) (d a : BitVec 7) (r : BitVec 2)
    (s : State) : Out :=
  vecOp lat p [] (fun s => [s.vA a]) (fun s => s.vD d)
    (fun s => f (s.k.ring s.gen r.toNat) (s.vec (s.vA a))) s
/-- SNEG (R175). -/
def execSneg (p : BitVec 3) (d a : BitVec 7) (r : BitVec 2) (s : State) : Out :=
  setOp2 Config.latVA (fun g x => (maskLanes g.n (fun j => negMask g.n (laneNat g.n x j)), 0#6)) p d a r s

/-- The position of |x| among the ring's values from val(2i) on (R176). -/
def findPos (g : Ring) (x : Num) : Nat → Nat → Nat
  | 0, _ => g.n / 2 - 1
  | k + 1, i =>
    let v := fmtF32.decode (g.val i)
    if v.isNan then findPos g x k (i + 1)
    else if x.cmp false v = 0 then 2 * i
    else if x.cmp false v < 0 then 2 * i - 1
    else findPos g x k (i + 1)
/-- The mask of one f32 source (R176). -/
def fromMask (g : Ring) (c : Nat) : Nat :=
  let n := g.n
  if g.null then 2 ^ n - 1
  else match fmtF32.decode c with
    | .nan => 2 ^ n - 1
    | .inf _ => 2 ^ (n / 2)
    | .fin neg m e _ =>
      if m = 0 then 1
      else
        let p := findPos g (.fin false m e false) (n / 4 - 1) 1
        2 ^ (if neg then n - p else p)
/-- Is the mask a single even position (R176)? -/
def evenPoint (n m : Nat) : Bool := (List.range (n / 2)).any (fun i => decide (m = 2 ^ (2 * i)))
/-- SFROM (R176). -/
def execSfrom (p : BitVec 3) (d a : BitVec 7) (r : BitVec 2) (s : State) : Out :=
  setOp2 Config.latVA (fun g x =>
    let q := packLanes g.n (fun j =>
      let m := fromMask g (unitOf x j).toNat
      (m, if evenPoint g.n m then 0#6 else flagNXT)) 32
    (BitVec.ofNat 1024 q.1, q.2)) p d a r s

/-- The code of minus an f32 code; a zero bound is +0 (R162). -/
def negCode (c : Nat) : Nat := if c % 2 ^ 31 = 0 then 0 else (c + 2 ^ 31) % 2 ^ 32
/-- An f32 code as a bound: a zero bound is +0 (R162). -/
def posCode (c : Nat) : Nat := if c % 2 ^ 31 = 0 then 0 else c
/-- The value of an even position as an f32 code (R162). -/
def pointCode (g : Ring) (q : Nat) : Nat :=
  let n := g.n
  if q % n = 0 then 0
  else if q = n / 2 then 0x7F800000
  else if q < n / 2 then posCode (g.val (q / 2))
  else negCode (g.val ((n - q) / 2))
/-- The hull of a position (R162). -/
def hull (g : Ring) (q : Nat) : Nat × Nat :=
  let m := g.n / 2
  if q = m then (0xFF800000, 0x7F800000)
  else if q % 2 = 0 then (pointCode g q, pointCode g q)
  else if q = m - 1 then (pointCode g (m - 2), 0x7F800000)
  else if q = m + 1 then (0xFF800000, pointCode g (m + 2))
  else (pointCode g (q - 1), pointCode g (q + 1))
/-- The lesser and greater of two f32 codes. -/
def minCode (a b : Nat) : Nat := if (fmtF32.decode b).cmp false (fmtF32.decode a) < 0 then b else a
def maxCode (a b : Nat) : Nat := if (fmtF32.decode a).cmp false (fmtF32.decode b) < 0 then b else a
/-- The least (hi false) or greatest of a list of hull bounds (R177). R169 checks no value of an image, so a bound can be
a NaN, and the spec states no least or greatest then: a free value of Config, a function of the bounds (DESIGN CHOICE,
log entry 95). -/
def boundOf (hi : Bool) (bs : List Nat) : Nat :=
  if bs.any (fun b => (fmtF32.decode b).isNan) then (Config.boundOfNaN hi bs).toNat
  else if hi then bs.foldl maxCode 0xFF800000 else bs.foldl minCode 0x7F800000
/-- The bounds of a set as f32 codes (R177). -/
def bounds (g : Ring) (x : Nat) : Nat × Nat :=
  if x = 0 then (fmtF32.nanCode, fmtF32.nanCode)
  else if g.null then (0xFF800000, 0x7F800000)
  else
    let hs := ((List.range g.n).filter (hasBit x)).map (hull g)
    (boundOf false (hs.map Prod.fst), boundOf true (hs.map Prod.snd))
/-- SBND (R177). -/
def execSbnd (p : BitVec 3) (d a : BitVec 7) (r : BitVec 2) (s : State) : Out :=
  setOp2 Config.latVA (fun g x =>
    ((typeLanes 0#2 (fun u =>
      let b := bounds g (laneNat g.n x (u / 2))
      (if u % 2 = 0 then b.1 else b.2, 0#6))).1, 0#6)) p d a r s

/-- The number of absent positions from position q on, cyclically, at most fuel. -/
def gapFrom (n m q : Nat) : Nat → Nat
  | 0 => 0
  | k + 1 => if hasBit m (q % n) then 0 else 1 + gapFrom n m (q + 1) k
/-- The shortest arc of a mask that is neither empty nor full, as start and length: the longest cyclic gap,
ties to the lowest start (R178). -/
def bestArc (n m : Nat) : Nat × Nat :=
  (List.range n).foldl (fun best st =>
    if hasBit m st && !hasBit m ((st + n - 1) % n) then
      let gap := ((List.range n).map (fun q => if (q + gapFrom n m q n) % n = st then gapFrom n m q n else 0)).foldl max 0
      if best.2 = 0 || n - gap < best.2 then (st, n - gap) else best
    else best) (0, 0)
/-- The number of positions of a mask. -/
def maskCount (n m : Nat) : Nat := ((List.range n).filter (hasBit m)).length
/-- The arc code of a mask and NXT (R166, R178). -/
def arcCode (n m : Nat) : Nat × Flags :=
  let enc := fun st len => if n = 16 then st * 16 + (len - 1) else st * 2048 + (len - 1) * 64
  if m = 0 then (enc (n - 1) n, 0#6)
  else if m = 2 ^ n - 1 then (enc 0 n, 0#6)
  else
    let a := bestArc n m
    (enc a.1 a.2, if maskCount n m < a.2 then flagNXT else 0#6)
/-- SARC (R178). -/
def execSarc (p : BitVec 3) (d a : BitVec 7) (r : BitVec 2) (s : State) : Out :=
  setOp2 Config.latVA (fun g x =>
    let q := packLanes (g.n / 2) (fun j => arcCode g.n (laneNat g.n x j)) (1024 / g.n)
    (BitVec.ofNat 1024 q.1, q.2)) p d a r s
/-- The mask of an arc code (R166). -/
def arcMask (n c : Nat) : Nat :=
  let st := if n = 16 then c / 16 % 16 else c / 2048 % 32
  let len := (if n = 16 then c % 16 else c / 64 % 32) + 1
  if len = n then (if st = n - 1 then 0 else 2 ^ n - 1)
  else (List.range len).foldl (fun r i => r + 2 ^ ((st + i) % n)) 0
/-- SMSK (R179). -/
def execSmsk (p : BitVec 3) (d a : BitVec 7) (r : BitVec 2) (s : State) : Out :=
  setOp2 Config.latVA (fun g x => (maskLanes g.n (fun j => arcMask g.n (laneNat (g.n / 2) x j)), 0#6)) p d a r s
/-- The sum of the non-empty lanes in increasing order (R180). -/
def setSum (g : Ring) (xs : List Nat) : Nat :=
  match xs.filter (fun x => decide (x ≠ 0)) with
  | [] => 0
  | x :: t => t.foldl (fun acc y => tableUnion g 0 y acc) x
/-- SRED (R180). -/
def execSred (p : BitVec 3) (d a : BitVec 7) (r : BitVec 2) (s : State) : Out :=
  setOp2 Config.latFMA (fun g x =>
    let v := setSum g ((List.range (1024 / g.n)).map (laneNat g.n x))
    (maskLanes g.n (fun _ => v), 0#6)) p d a r s

/-- May an image with these HDR and LEN words be loaded (R168, R169)? -/
def ringHeaderOk (hdr len : Nat) : Bool :=
  (decide (hdr = 16) && decide (len = 1616)) || (decide (hdr = 32) && decide (len = 12368))

end Sys2Proof.Machine
end

