-- ==== Sys2Proof/Machine/Transfer.lean ====
section
/-! DEFINITION. The work of the copy engines (spec 10 R209-R229): line transfers, expansion (R222), remote posts,
preloads (R200); and RINGLD, which reads global memory (spec 08 R168, R169). -/
namespace Sys2Proof.Machine

/-! ### Reads of a copy (R202, R209-R212, R303) -/

/-- What a copy's read of some bytes gives: the bytes, the pages read and those read at their homes; a wait; a wait at a
stack port or in the forward queue of a hand-over; an uncorrectable error, a fault code, or a refusal by a stack port. -/
inductive Fetch where
  | data (v : Nat) (pages homes : List Target)
  | wait
  | port (va : Nat) (t : Target)
  | held (va : Nat) (t : Target)
  | bad
  | fault (f : Nat) (addr : Nat)
  | viol (t : Target)
  deriving DecidableEq, Repr

/-- The fault code of a copy for a translation fault of its source or destination (R225), with the fault's subcode above
it (R407, SUB). -/
def copyCode (dst : Bool) (f : Nat) : Nat :=
  if f = 8 then 0x29 + 256 * 8 else (if dst then 0x22 else 0x21) + 256 * (f % 256)
/-- The low n bytes of an image from byte o on. -/
def imageBytes (img : Image) (o n : Nat) : Nat := img.toNat / 2 ^ (8 * o) % 2 ^ (8 * n)
/-- Read n bytes of one line of a local store. -/
def lineFetch (m : Sparse Line) (g : Hm) (a n : Nat) : Fetch :=
  let l : Line := Sparse.get {} (a / 128 % 4096) m
  if l.bad && l.hm == g then .bad else .data (imageBytes (l.read g) (a % 128) n) [] []
/-- The target of an address of a piece: one that waits with its translation made, else its translation (R329, R336). -/
def State.copyTarget (s : State) (c : Nat) (x : Copy) (idx va : Nat) (p : Perm) : Except Nat Target :=
  match x.held.find? (fun h => h.1 == idx && h.2.1 == p.needR && h.2.2.1 == va) with
  | some h => .ok h.2.2.2
  | none => s.translateCopy c x.gen va p
/-- Older accesses of the core that the copy's fork orders before it (R303). -/
def Core.forkedAfter (k : Core) (x : Copy) : List Acc := k.accs.filter (fun a => decide (a.id < x.forkAt))
/-- Must a beat on a page wait for older accesses: on a strongly ordered one until every older strongly ordered and strong
access has been performed at its own scope (R296, R303)? -/
def State.beatWaits (s : State) (c : Nat) (x : Copy) (t : Target) : Bool :=
  t.ord == 0 && ((s.core c).forkedAfter x).any (fun a =>
    (a.tgt.ord == 0 || (a.strong && a.ordered)) && !s.performed c a a.scope)
/-- Read n bytes of global memory that lie in one 128-byte line, for piece idx of copy x: as a thread forked after the
core's older accesses sees them (R303). -/
def State.fetchGlobal (s : State) (c : Nat) (x : Copy) (idx va n : Nat) : Fetch :=
  match s.copyTarget c x idx va .read with
  | .error f => if f = walkWait then .wait else .fault (copyCode false f) va
  | .ok t =>
    if t.fwd.isSome then .held va t
    else if s.beatWaits c x t then .wait
    else match (if t.ord = 2 then Source.none else sbSource ((s.core c).forkedAfter x) t n) with
    | .all v _ => .data v [t] []
    | .part => .wait
    | .none =>
      match (s.die (dieOf c)).opSource t n with
      | .all v _ => .data v [t] []
      | .part => .wait
      | .none =>
        if s.wayLost (dieOf c) t then .fault 0x29 va
        else if !s.homeOpen t || !s.wayOpen (dieOf c) t then .wait
        else if !s.readTurn t x.gen (copyReader c x.id) then .port va t
        else if s.violates t then .viol t
        else if s.badAt t.dla then .bad
        else .data (s.read t.gen t.dla n) [t] [t]
/-- Read n bytes from a place that lie in one 128-byte line. A reserved offset ends the copy with 0x26, also in the window of a
core that another tenancy holds (DESIGN CHOICE, log entry 126). -/
def State.fetchLoc (s : State) (c : Nat) (x : Copy) (idx : Nat) (l : Loc) (n : Nat) : Fetch :=
  let g := x.gen
  match l with
  | .va a => s.fetchGlobal c x idx a n
  | .spm a => lineFetch (s.core c).spm g a n
  | .acc a => lineFetch (s.core c).rows g a n
  | .rspm c2 a => if s.heldBy c2 g then lineFetch (s.core c2).spm g a n else .fault 0x27 a
  | .racc c2 a => if s.heldBy c2 g then lineFetch (s.core c2).rows g a n else .fault 0x27 a
  | _ => .fault 0x26 0
/-- Read runs of bytes one after the other, the first lowest. -/
def State.fetchAll (s : State) (c : Nat) (x : Copy) (idx sp : Nat) : List (Nat × Nat) → Fetch
  | [] => .data 0 [] []
  | (a, n) :: t =>
    match s.fetchLoc c x idx (locate c sp a) n with
    | .data v ps hs =>
      (match s.fetchAll c x idx sp t with
      | .data w qs is => .data (v + w * 2 ^ (8 * n)) (ps ++ qs) (hs ++ is)
      | o => o)
    | o => o
/-- Read n bytes from an offset of a space on. -/
def State.fetchRun (s : State) (c : Nat) (x : Copy) (idx sp a n : Nat) : Fetch :=
  s.fetchAll c x idx sp (chunks 128 (spaceSize sp) n (a % spaceSize sp) n)

/-! ### Expansion (R222) -/

/-- Bytes of a page by its size code. -/
def pageBytes (ps : Nat) : Nat := match ps with
  | 0 => 2 ^ 16
  | 1 => 2 ^ 25
  | _ => 2 ^ 30
/-- Elements of a page (R118, R114): whole groups only, and whole three-byte units of 6-bit elements. -/
def pageElems (w geo ps : Nat) : Nat :=
  if geo = 0 then (if w = 6 then pageBytes ps / 3 * 4 else pageBytes ps * 8 / w)
  else let q := groupSize w geo; pageBytes ps / q.1 * q.2
/-- May a format be expanded to WFMT (R222)? -/
def expandable (fmt wfmt : Nat) : Bool :=
  if wfmt = 3 then [9, 0x0A, 0x0B, 0x0C, 0x0D, 0x0E, 0x0F].contains fmt
  else !([0, 0x11, 0x12, 0x13, 0x14].contains fmt)
/-- A value rounded once to WFMT (R116). -/
def expandTo (wfmt : Nat) (v : Num) : Nat :=
  match wfmt with
  | 0 => (fmtF32.encode rne false v).1
  | 1 => (fmtBf16.encode rne false v).1
  | 2 => (fmtF16.encode rne false v).1
  | _ => (encodeInt 32 true rne false v).1
/-- An element of a page, its code's or block's bytes and scale word as read: the code of WFMT. n32 to i32 moves
the bits. -/
def expandElem (fmt geo wfmt e bitsAt code scale : Nat) : Nat :=
  match elemOf fmt with
  | none => 0
  | some f =>
    if fmt = 0x10 then
      let x := q4xDecode (fun j => code / 2 ^ (4 * j) % 16) (fun j => scale / 2 ^ (4 * j) % 16)
      expandTo wfmt (Num.mul (x.1.getD (e % 32) .zero) (fmtBf16.decode (scale / 2 ^ 16)))
    else
      let v := code / 2 ^ bitsAt % 2 ^ f.width
      if fmt = 0x0D && wfmt = 3 then v
      else if geo = 0 then expandTo wfmt (f.decode v)
      else expandTo wfmt (Num.mul (f.decode v) (fmtF32.decode scale))
/-- Fetch and expand one element of a CGOX: element e counted from the page named by the source. -/
def State.fetchElem (s : State) (c : Nat) (x : Copy) (idx : Nat) (t0 : Target) (e : Int) : Fetch :=
  let d := x.desc
  let w := ((elemOf t0.fmt).map Elem.width).getD 8
  let per : Int := pageElems w t0.geo t0.psize
  let page := e / per
  let i := (e % per).toNat
  let base := ((d.src.toNat % 2 ^ 48 : Nat) + page * (pageBytes t0.psize : Int)) % (2 ^ 48 : Nat)
  let o : Operand := ⟨0, 0, t0.fmt, t0.geo⟩
  let p := o.place i
  let code := if t0.fmt = 0x10 then ((o.place (i / 32 * 32)).1 / 8, 16) else (p.1 / 8, (p.1 % 8 + w + 7) / 8)
  match s.fetchRun c x idx 0 (base.toNat + code.1) code.2 with
  | .data v ps hs =>
    let fin := fun (sc : Nat) (qs is : List Target) => Fetch.data (expandElem t0.fmt t0.geo d.wfmt i (p.1 % 8) v sc) qs is
    if t0.geo = 0 then fin 0 ps hs
    else (match s.fetchRun c x idx 0 (base.toNat + p.2) 4 with
      | .data sc qs is => fin sc (ps ++ qs) (hs ++ is)
      | o => o)
  | o => o
/-- Fetch and expand n elements from e on. -/
def State.fetchElems (s : State) (c : Nat) (x : Copy) (idx : Nat) (t0 : Target) : Nat → Int → Fetch
  | 0, _ => .data 0 [] []
  | n + 1, e =>
    match s.fetchElem c x idx t0 e with
    | .data v ps hs =>
      (match s.fetchElems c x idx t0 n (e + 1) with
      | .data u qs is => .data (v + u * 2 ^ (8 * x.desc.unitBytes)) (ps ++ qs) (hs ++ is)
      | o => o)
    | o => o
/-- The attributes in which the source pages of a copy must agree (R222, R223). -/
def Target.attrs (t : Target) (x : Bool) : Nat × Nat × Nat := (t.fmt, t.geo, if x then t.psize else 0)
/-- The bytes of a piece (R218, R222). A CGOX whose source is neither aligned to its page nor expandable ends with 0x28, and a
source on chip needs a valid LFMT and LGEO but for CKIND 01, whatever POST is (DESIGN CHOICE, log entry 126). -/
def State.fetchPiece (s : State) (c : Nat) (x : Copy) (p : Piece) : Fetch :=
  let d := x.desc
  if d.x then
    let va := d.src.toNat % 2 ^ 48
    match s.translateCopy c x.gen va .read with
    | .error f => if f = walkWait then .wait else .fault (copyCode false f) va
    | .ok t0 =>
      if va % pageBytes t0.psize ≠ 0 then .fault 0x28 va
      else if !expandable t0.fmt d.wfmt then .fault 0x24 va
      else
        let ub := d.unitBytes
        let u0 := p.off / ub
        let u1 := (p.off + p.n - 1) / ub
        match s.fetchElems c x p.idx t0 (u1 - u0 + 1) ((d.eoff : Int) + (d.runOff p.run).1 + u0) with
        | .data v ps hs => .data (v / 2 ^ (8 * (p.off - u0 * ub)) % 2 ^ (8 * p.n)) (t0 :: ps) hs
        | o => o
  else if spaceOf d.src ≠ 0 && !fmtGeoOk d.lfmt d.lgeo && d.ckind ≠ 1 then .fault 0x23 0
  else s.fetchRun c x p.idx (spaceOf d.src) (d.srcOff p.run + p.off) p.n
/-- The beats of a piece's read, each line once, with the page policy by which its hint is judged (R281). -/
def beats (x : Bool) (pages : List Target) : List (Nat × Nat) :=
  ((if x then pages.drop 1 else pages).map (fun t => (t.dla / 128, t.cp))).foldl
    (fun l b => if l.contains b then l else l ++ [b]) []
/-- The reads of a piece have been served: their ports go on, and ignored hints are counted. -/
def State.served (s : State) (c : Nat) (x : Copy) (pages homes : List Target) : State :=
  let d := dieOf c
  (beats x.desc.x pages).foldl (fun s b => s.countHint d (s.tenOf d x.gen) b.2 x.desc.hint)
    (homes.foldl (fun s t => s.servedRead t x.gen (copyReader c x.id)) s)

/-! ### Writes of a copy -/

/-- Bytes of a row written under generation g, with the retag rule (R134). -/
def Core.writeRowBytes (k : Core) (g : Hm) (r lo n : Nat) (v : Nat) : Core :=
  { k with rows := Sparse.upd {} r (fun x =>
      ⟨mergeBytes lo n (BitVec.ofNat 1024 v) (x.read g), g, x.bad && decide (n ≠ 128)⟩) k.rows }
/-- What a copy's write does: the state with the bytes written, performed at once or on their way; a wait; a fault. -/
inductive Put where
  | done (s : State) (now : Bool)
  | wait
  | held (va : Nat) (t : Target)
  | fault (f : Nat) (addr : Nat)

/-- Does a core refuse writes from outside (R214)? -/
def Core.refuses (k : Core) : Bool := decide (3 ≤ k.phase)
/-- Write register r of core c2 (R212). -/
def State.putReg (s : State) (c2 : Nat) (g : Hm) (r v : Nat) : Put :=
  let k := s.core c2
  if k.task.isNone || k.phase == 0 then .fault 0x26 0
  else if k.pend.any (fun q => decide (q.reg = r) && !q.shadow) then .wait
  else .done (s.updCore c2 (fun k => k.setScalar g false r (BitVec.ofNat 64 v))) true
/-- Write n bytes of a piece to global memory: they enter the die's ordering point (R291, R303). -/
def State.putGlobal (s : State) (c : Nat) (x : Copy) (idx va n v : Nat) : Put :=
  match s.copyTarget c x idx va .write with
  | .error f => if f = walkWait then .wait else .fault (copyCode true f) va
  | .ok t =>
    let older := (s.core c).forkedAfter x
    let blocks := fun (a : Acc) => (match a.kind with
      | .fence _ => false
      | .thread => false
      | _ => !a.done) && meets a.tgt.dla a.size t.dla n
    if t.fwd.isSome then .held va t
    else if (t.ord ≠ 2 && older.any blocks) || s.beatWaits c x t then .wait
    else
      let sc := if t.ord = 0 then max 2 x.desc.scope else x.desc.scope
      let e : OpEntry := { wid := s.nextWid, core := c, thr := some x.id, seq := x.seq, gen := x.gen, tgt := t, size := n,
                           data := BitVec.ofNat 1024 v, scope := sc }
      let s1 := s.updDie (dieOf c) (fun d => { d with op := d.op ++ [e] })
      let s2 := s1.updCore c (fun k => { k with l0 := Sparse.put {} (t.dla / 128) {} k.l0 })
      let s3 := s2.countHint (dieOf c) (s.tenOf (dieOf c) x.gen) t.cp x.desc.hint
      .done { s3 with nextWid := s.nextWid + 1 } (decide (sc < 2))
/-- Write the bytes of a piece at a place; 0x26 for a reserved offset of any window, as in `State.fetchLoc` (log entry 126). -/
def State.putPiece (s : State) (c : Nat) (x : Copy) (idx : Nat) (l : Loc) (n v : Nat) : Put :=
  let g := x.gen
  let img := BitVec.ofNat 1024 v
  let there := fun (c2 : Nat) (p : Put) =>
    if !s.heldBy c2 g then .fault 0x27 0 else if (s.core c2).refuses then .fault 0x2A 0 else p
  match l with
  | .va a => s.putGlobal c x idx a n v
  | .spm a => .done (s.updCore c (fun k => k.writeSpm g (a / 128) (a % 128) n img)) true
  | .acc a => .done (s.updCore c (fun k => k.writeRowBytes g (a / 128) (a % 128) n v)) true
  | .ownReg r => s.putReg c g r v
  | .rspm c2 a => there c2 (.done (s.updCore c2 (fun k => k.writeSpm g (a / 128) (a % 128) n img)) true)
  | .racc c2 a => there c2 (.done (s.updCore c2 (fun k => k.writeRowBytes g (a / 128) (a % 128) n v)) true)
  | .rreg c2 r => there c2 (s.putReg c2 g r v)
  | .hole => .fault 0x26 0
  | .rhole _ => .fault 0x26 0

/-! ### A line transfer (R218) -/

/-- May the copy's accesses begin: its post sent, its regions and banks free, no landing in its way, every older
fence and acquire complete (R159, R196, R198, R227, R303)? -/
def State.copyGo (s : State) (c : Nat) (x : Copy) : Bool :=
  let k := s.core c
  x.posted && !x.ended && !(k.blocked ++ k.owedOps).contains x.id && (x.again || k.engineClear c x.id) && !k.forkHeld x.forkAt
    && s.isCurrent (dieOf c) x.gen
/-- Is a request free for line transfer idx of copy x, or has the transfer started and counts already (R231, R232)? -/
def State.copyRoom (s : State) (c : Nat) (x : Copy) (idx : Nat) : Bool :=
  decide (s.inFlight c < 2048) || x.held.any (fun h => h.1 == idx)
/-- Does an earlier transfer of the box, not yet made, write the same destination line (R207)? -/
def CopyDesc.mustWait (x : Copy) (ps : List Piece) (p : Piece) : Bool :=
  (ps.takeWhile (fun q => q.idx != p.idx)).any (fun q => !x.moved.contains q.idx && q.dst / 128 == p.dst / 128)
/-- Is a transfer of copy x ready: nothing holds one of its pieces? -/
def State.copyReady (s : State) (c : Nat) (x : Copy) : Bool :=
  let ps := x.desc.pieces
  s.copyGo c x && ps.any (fun p => !x.moved.contains p.idx && !CopyDesc.mustWait x ps p && s.copyRoom c x p.idx
    && (match s.fetchPiece c x p with
      | .wait => false
      | .port _ _ => false
      | .held _ _ => false
      | .data v _ _ => (match s.putPiece c x p.idx (x.desc.dstLoc c p) p.n v with
        | .wait => false
        | .held _ _ => false
        | _ => true)
      | _ => true))
/-- The other copies of the die with a transfer ready, by the tenancy they belong to. -/
def State.copiesReady (s : State) (d : Nat) : List Nat :=
  (s.cores.filter (fun e => dieOf e.1 == d)).flatMap (fun e =>
    (e.2.copies.filter (s.copyReady e.1)).filterMap (fun x => s.claimant d x.gen))
/-- Is it the turn of the copy's tenancy at the die's copy engines (R234, R404)? Their rotation has key 24 + d. -/
def State.engineTurn (s : State) (c : Nat) (x : Copy) : Bool :=
  match s.claimant (dieOf c) x.gen with
  | none => true
  | some t => s.turnOf (dieOf c) (24 + dieOf c) (t :: s.copiesReady (dieOf c)) t
/-- Record the page attributes in the completion handle (R222, R223): the first pages read. -/
def State.recordPages (s : State) (c : Nat) (x : Copy) (t : Nat × Nat × Nat) : State :=
  s.updCore c (fun k =>
    let k := k.updCopy x.id (fun y => { y with pageFmt := some t })
    if x.desc.x then k
    else match x.obj with
      | .handle h =>
        let y := k.handle x.gen h
        k.setHandle x.gen h { y with fmt := BitVec.ofNat 6 t.1, geo := BitVec.ofNat 3 t.2.1 }
      | .staging i => { k with staging := k.staging.map (fun r => if r.op = some i then
          { r with held := { r.held with fmt := BitVec.ofNat 6 t.1, geo := BitVec.ofNat 3 t.2.1 } } else r) }
      | _ => k)
/-- Does piece p of a copy of core c touch region r of the copy: read it, or write it where r is a write region? A write on chip
is performed as it is made. -/
def CopyDesc.touches (d : CopyDesc) (c : Nat) (p : Piece) (r : Region) : Bool :=
  let size := spaceSize (spaceOf d.src)
  let at_ := if r.write then [(d.dstLoc c p, p.n)]
    else (chunks 128 size p.n ((d.srcOff p.run + p.off) % size) p.n).map (fun a => (d.srcLoc c a.1, a.2))
  (linesOf r.acc at_).any (fun l => decide (r.first ≤ l) && decide (l ≤ r.last))
/-- A piece has been moved: its bytes count once performed at the copy's scope; each region of the copy goes with the last
piece that touches it (R196). -/
def State.movedPiece (s : State) (c : Nat) (x : Copy) (p : Piece) (now : Bool) : State :=
  let left := x.desc.pieces.filter (fun q => q.idx != p.idx && !x.moved.contains q.idx)
  let s1 := s.updCore c (fun k =>
    let k1 := k.updCopy x.id (fun y => { y with
      moved := y.moved ++ [p.idx], inFlight := y.inFlight + p.n, held := y.held.filter (fun h => h.1 != p.idx) })
    k1.releaseRegions (fun r => r.op == x.id && left.all (fun q => !x.desc.touches c q r)))
  if now then match (s1.core c).copy x.id with
    | some y => s1.countCopy c y p.n
    | none => s1
  else s1
/-- One line transfer: the piece that begins with byte idx of the box of engine operation op. -/
def execCopyLineTransfer (core op idx : Nat) (s : State) : Out :=
  match (s.core core).copy op with
  | none => ok s
  | some x =>
    let ps := x.desc.pieces
    match ps.find? (fun p => p.idx == idx) with
    | none => ok s
    | some p =>
      let hold := fun (src : Bool) (va : Nat) (t : Target) =>
        if x.held.any (fun h => h.1 == idx && h.2.1 == src && h.2.2.1 == va) then s
        else s.updCore core (fun k => k.updCopy op (fun y => { y with held := y.held ++ [(idx, src, va, t)] }))
      if !s.copyGo core x || x.moved.contains idx || CopyDesc.mustWait x ps p || !s.copyRoom core x idx || !s.engineTurn core x
      then ok s
      else match s.fetchPiece core x p with
        | .wait => ok s
        | .port va t => ok ((hold true va t).queueRead t x.gen (copyReader core x.id))
        | .held va t => ok (hold true va t)
        | .fault f a => ok (s.copyFault core x f a)
        | .viol t => ok (((s.servedRead t x.gen (copyReader core x.id)).violation t x.gen core true).copyFault core x 0x25 t.dla)
        | .bad =>
          if x.retried.contains idx then ok (s.copyFault core x 0x03 0)
          else ok (s.updCore core (fun k => k.updCopy op (fun y => { y with retried := y.retried ++ [idx] })))
        | .data v pages homes =>
          let as_ := (match x.pageFmt with | some t => [t] | none => []) ++ pages.map (fun t => t.attrs x.desc.x)
          if as_.any (fun a => some a != as_.head?) then ok (s.copyFault core x 0x23 0)
          else
            let s1 := match x.pageFmt, as_.head? with
              | none, some t => s.recordPages core x t
              | _, _ => s
            let s2 := s1.served core x pages homes
            match s2.putPiece core x idx (x.desc.dstLoc core p) p.n v with
            | .wait => ok s
            | .held va t => ok (hold false va t)
            | .fault f a => ok (s2.copyFault core x f a)
            | .done s3 now => ok ((s3.movedPiece core x p now).rotate (dieOf core) (24 + dieOf core) x.gen)

/-! ### Remote posts (R227) and preloads (R200) -/

/-- FMT and GEO that a post carries. -/
def State.postFmt (s : State) (c : Nat) (x : Copy) : Nat × Nat := s.copyFmt c x.gen x.desc (x.desc.lfmt, x.desc.lgeo)
/-- The post message of a copy is applied at the destination core (R227). -/
def execRemotePost (core op : Nat) (s : State) : Out :=
  match (s.core core).copy op with
  | none => ok s
  | some x =>
    match x.obj with
    | .remote c2 h =>
      if x.posted || !s.copyGo core { x with posted := true } then ok s
      else if !s.heldBy c2 x.gen then ok (s.copyFault core x 0x27 0)
      else if (s.core c2).refuses then ok (s.copyFault core x 0x2A 0)
      else
        let g := x.gen
        let y := (s.core c2).handle g h
        let s1 := s.updCore core (fun k => k.updCopy op (fun z => { z with posted := true }))
        let f := s.postFmt core x
        (match y.st with
        | .error => ok s1
        | .free => ok (s1.updCore c2 (fun k => k.setHandle g h { y with
            exp := x.bytes, cnt := 0, fmt := BitVec.ofNat 6 f.1, geo := BitVec.ofNat 3 f.2, refetch := false,
            desc := none, st := .filling }))
        | .filling =>
          if 0xFFFFF < y.exp + x.bytes then ok ((s1.updCore c2 (fun k => k.failHandle g h 0x20)).copyFault core x 0x20 0)
          else ok (s1.updCore c2 (fun k => k.setHandle g h { y with exp := y.exp + x.bytes }))
        | _ => ok ((s1.updCore c2 (fun k => k.failHandle g h 0x20)).copyFault core x 0x20 0))
    | _ => ok s
/-- Does the core run a task that has not yet issued END or SUSPEND? -/
def Core.running (k : Core) : Bool := k.task.any (fun t => t.ending == .no)
/-- Preload i of a core starts once all the banks it names are RELEASED; they become PRELOADING (R200). Of R385's stores the
current task has issued those that stand before the release in its program; a preload that names no bank, for which no release
tells this, starts once that task has ended its run (DEDUCED, log entry 109). -/
def execPreloadStart (core i : Nat) (s : State) : Out :=
  let k := s.core core
  match k.staging[i]? with
  | none => ok s
  | some r =>
    let bs := (List.range 16).filter (fun b => r.banks.getLsbD b)
    -- a bank that another preload of the same task already fills serves both
    let own := fun b => k.preloads.all (fun p => !p.2.getLsbD b || k.staging.any (fun q => q.op == some p.1))
      && k.staging.any (fun q => q.op.isSome && q.banks.getLsbD b)
    let free := fun b => Sparse.get BankState.released b k.banks == .released
      || (Sparse.get BankState.released b k.banks == .preloading && own b)
    if r.op.isSome || !bs.all free || (bs.isEmpty && k.running) || 64 ≤ k.queueUse then ok s
    else
      let g := match k.ten with
        | some t => s.genOn (dieOf core) t
        | none => nullGen
      let f := s.copyFmt core g r.desc (0, 0)
      let h : Handle := { exp := r.desc.bytes, fmt := BitVec.ofNat 6 f.1, geo := BitVec.ofNat 3 f.2,
                          refetch := true, st := .filling, hm := g, desc := some r.desc }
      let x : Copy := { id := k.nextId, seq := k.copySeq + 1, desc := r.desc, obj := .staging k.nextId, gen := g,
                        bytes := r.desc.bytes, forkAt := s.nextWid }
      ok (s.updCore core (fun k => { k with
        nextId := k.nextId + 1, copySeq := k.copySeq + 1, copies := k.copies ++ [x], preloads := k.preloads ++ [(x.id, r.banks)],
        banks := bs.foldl (fun m b => Sparse.put .released b .preloading m) k.banks,
        staging := k.staging.set i { r with held := h, op := some k.nextId } }))

/-! ### RINGLD (R168-R170) -/

/-- A read of a ring image: the bytes, or a wait or a trap. -/
inductive ImageRead where
  | data (v : Nat)
  | stop (v : Verdict)
  deriving DecidableEq, Repr

/-- A read of one word of a ring image: the word with the writes read and its target; a word that a hand-over's forward queue
holds; or a wait or a trap. -/
inductive WordRead where
  | word (v : Nat) (ws : List Nat) (t : Target)
  | held (t : Target)
  | stop (v : Verdict)
  deriving DecidableEq, Repr

/-- The access that a RINGLD's read of one word makes (R169, R296). -/
def State.imageAcc (s : State) (ea : W64) (t : Target) : Acc :=
  { id := 0, kind := .load, tgt := t, va := ea, size := 8, strong := t.ord == 0, scope := if t.ord = 0 then 2 else 0
    gen := s.gen, done := true }
/-- Read one aligned 8-byte word as the core's own later load would (R169, R293), its store buffer included on a page of any
class; h is what the read in progress holds of it. -/
def State.imageWord (s : State) (ea : W64) (h : Option RingRead) : WordRead :=
  let tgt : Except Nat Target := match h with
    | some r => (match r.fault, r.held with
      | some f, _ => .error f
      | none, some t => .ok t
      | none, none => s.translateCore s.cur.core ea 0 .read)
    | none => s.translateCore s.cur.core ea 0 .read
  match tgt with
  | .error f => .stop (faultV f ea)
  | .ok t =>
    if t.fwd.isSome then .held t
    else match s.readNear s.cur.core (s.imageAcc ea t) with
      | .data v ws => .word v ws t
      | .wait => .stop .wait
      | .bad => .stop (.trap 8 0 0 0 ea)
      | .lost => .stop (faultV 8 ea)
/-- The read that a core makes of the image at an address, none where its read is of another. -/
def Core.ringAt (k : Core) (ea : W64) : Option RingRead :=
  match k.ringRead with
  | some r => if r.ea = ea then some r else none
  | none => none
/-- The words of a RINGLD's read so far, and their bytes. -/
def Core.ringSoFar (k : Core) (ea : W64) : Nat × Nat :=
  match k.ringAt ea with
  | some r => (r.n, r.v)
  | none => (0, 0)
/-- Has every word of the image been read? -/
def ringWhole (r : Nat × Nat) : Bool := decide (1 ≤ r.1) && decide (r.2 / 2 ^ 32 % 2 ^ 32 ≤ 8 * r.1)
/-- Does the header read break R168? -/
def ringBad (r : Nat × Nat) : Bool := decide (1 ≤ r.1) && !ringHeaderOk (r.2 % 2 ^ 32) (r.2 / 2 ^ 32 % 2 ^ 32)
/-- How a RINGLD of address ea stands (R169): its image once every word has been read, each once and none before the read
began; a trap that the address, the header or the next word earns; or a wait, in which the core reads on, a word in each
local cycle (the pace is the model's: DESIGN CHOICE, log entry 108). -/
def State.ringImage (s : State) (ea : W64) : ImageRead :=
  let r := s.k.ringSoFar ea
  if ea.toNat % 16 ≠ 0 then .stop (trapV 0x0A 0x30)
  else if ringBad r then .stop (trapV 0x0A 0x31)
  else if ringWhole r then .data r.2
  else match s.imageWord (ea + BitVec.ofNat 64 (8 * r.1)) (s.k.ringAt ea) with
    | .stop v => .stop v
    | _ => .stop .wait
/-- The address whose image an enabled RINGLD of a bundle reads. -/
def State.ringAddr (s : State) : Instr → Option W64
  | .ringld p _ a => if s.guard p then some (s.reg (s.rA a)) else none
  | _ => none
/-- A held RINGLD reads the next word of its image, where that can be read now (R169). A word that comes from a write not yet
applied stays among the core's accesses, for what waits until it is performed (R298, R300, R305). -/
def State.ringStep (s : State) (ea : W64) : State :=
  let r := s.k.ringSoFar ea
  let a := ea + BitVec.ofNat 64 (8 * r.1)
  if ringWhole r || ringBad r then s
  else match s.imageWord a (s.k.ringAt ea) with
    | .word w ws t =>
      let s1 := (s.updK (fun k => { k with ringRead := some { ea := ea, n := r.1 + 1, v := r.2 + w * 2 ^ (64 * r.1) } })).afterRead
        t s.gen ws
      if ws.isEmpty then s1 else (s1.putAcc { s.imageAcc a t with reads := ws }).settle s.cur.core
    | .held t => s.updK (fun k => { k with ringRead := some { ea := ea, n := r.1, v := r.2, held := some t } })
    | .stop _ => s
/-- RINGLD: the slot holds the image from the next virtual cycle (R169, R170). -/
def execRingld (p : BitVec 3) (r : BitVec 2) (a : BitVec 6) (s : State) : Out :=
  slotMeaning p [s.rA a] none false
    (fun s => match s.ringImage (s.reg (s.rA a)) with
      | .stop v => v
      | .data _ => .go)
    (fun s => match s.ringImage (s.reg (s.rA a)) with
      | .stop _ => s
      | .data v => s.updK (fun k => { k with ringRead := none
                                             nextVc := k.nextVc ++ [.ring r.toNat (BitVec.ofNat 98944 v) s.gen] })) s

end Sys2Proof.Machine
end

