-- ==== Sys2Proof/Machine/Stacks.lean ====
section
/-! DEFINITION. Memory stacks and their hand-over (spec 14): SOWN, SHAND, the drain order, the mirrors of owner
registers, and the completion of a hand-over. -/
namespace Sys2Proof.Machine

/-- Die d's mirror of the owner register of stack k (R320): the stack's two dies follow the register itself. -/
def State.ownerMirror (s : State) (d k : Nat) : W64 :=
  if touches d k then s.ownerReg k
  else match Sparse.get none k (s.die d).ownMir with
    | some v => v
    | none => BitVec.ofNat 64 (k * 2 ^ 8 + k)
/-- SOWN (R321). -/
def execSown (p : BitVec 3) (d a : BitVec 6) (s : State) : Out :=
  slotMeaning p [s.rA a] (some (s.rD d)) false
    (fun s => trapIf (decide (8 ≤ (s.reg (s.rA a)).toNat)) 0x0A 0x01 .go)
    (fun s => s.putScalar Config.latALU (s.rD d) (s.ownerMirror s.d (s.reg (s.rA a)).toNat)) s

/-- Does a fence take the tenancy's right: it neither issues nor accepts a hand-over at a fenced die (R390)? -/
def State.fencedFor (s : State) (t d k : Nat) : Bool :=
  (s.die d).fences.contains t || (s.die (lowerDie k)).fences.contains t || (s.die (upperDie k)).fences.contains t
/-- May die d hand over stack k for tenancy t, none for the platform: the subcode of the first check that fails
(R326, R327, R340). -/
def State.handCheck (s : State) (d : Nat) (t : Option Nat) (k : Nat) : Option Nat :=
  let x := s.stack k
  if !touches d k then some 0x02
  else if (match t with
      | none => false
      | some t => !x.rv || x.rten.toNat != t || s.fencedFor t d k) then some 0x03
  else if s.owner k != d || x.hand.isSome then some 0x04
  else none
/-- The cut (R328, step 1). -/
def State.cut (s : State) (k : Nat) (h : HandOver) : State := s.updStack k (fun x => { x with hand := some h })
/-- The tenancy that a core acts for: none at platform level. -/
def Core.actor (k : Core) : Option Nat := if k.lvl then none else k.ten
/-- The cut that a bundle's SHAND has made takes effect with the bundle's end: no request of the bundle itself is new after
it (R328, step 1). -/
def State.endCut (s : State) : State :=
  match s.cur.cut with
  | none => s
  | some (k, h) => { s.cut k h with cur := { s.cur with cut := none } }
/-- SHAND (R326). -/
def execShand (p : BitVec 3) (h a : BitVec 6) (s : State) : Out :=
  slotMeaning p [s.rA a] none false
    (fun s =>
      let v := s.reg (s.rA a)
      if v.extractLsb' 16 48 != 0 || v.getLsbD 14 || v.extractLsb' 3 5 != 0 then trapV 0x0A 0x01
      else match s.handCheck s.d s.k.actor (v.toNat % 8) with
        | some c => trapV 0x0A c
        | none => .go)
    (fun s =>
      let v := s.reg (s.rA a)
      let o : HandOver := { core := (v.extractLsb' 8 6).toNat, handle := h.toNat, cpl := v.getLsbD 15, gen := s.gen, ten := s.k.actor }
      if s.cur.mode = .commit then { s with cur := { s.cur with cut := some (v.toNat % 8, o) } } else s.cut (v.toNat % 8) o) s

/-- Is access a of a core still to be performed at stack k under its present epoch (R329, R330)? A request that its
port refuses does not hold the hand-over. -/
def State.pendsOn (s : State) (k c : Nat) (a : Acc) : Bool :=
  !dlaCxl a.tgt.dla && dlaStack a.tgt.dla == k && a.tgt.epoch == (s.stack k).epoch && !s.violates a.tgt
    && (match a.kind with
      | .store => !s.performed c a 2
      | .load => !a.done
      | .amo _ => !a.done
      | .probe => !a.done
      | _ => false)
/-- Is the target of a request one of stack k that was made before the cut? -/
def State.beforeCut (s : State) (k : Nat) (t : Target) : Bool :=
  !dlaCxl t.dla && dlaStack t.dla == k && t.epoch == (s.stack k).epoch && t.fwd.isNone
/-- Has every request that was before the cut of stack k been performed, a copy's line transfer that waits at its port with
its translation made among them (R328, step 2, R329, R330)? -/
def State.drainedOf (s : State) (k : Nat) : Bool :=
  s.cores.all (fun e => e.2.accs.all (fun a => !s.pendsOn k e.1 a)
      && e.2.copies.all (fun x => x.ended || x.held.all (fun h => !s.beforeCut k h.2.2.2)))
    && s.dies.all (fun e => e.2.op.all (fun w => !s.beforeCut k w.tgt))
/-! ### The forward queue at step 5 (R336) -/

/-- Does the forward queue of stack k hold a request of this target? -/
def Target.heldFor (t : Target) (k : Nat) : Bool := t.fwd.isSome && !dlaCxl t.dla && dlaStack t.dla == k
/-- What becomes of a held request of stack k when the receiving die takes it: its target, its fault, or nothing yet, where
its walk cannot read a table (R336). -/
def State.taken (s : State) (k : Nat) (t : Target) : Option (Except Nat Target) :=
  if !t.heldFor k then none
  else match s.forwardTarget t with
    | .ok t' => some (.ok t')
    | .error f => if f = walkWait then none else some (.error f)
/-- The late fault of a held access: a machine check where its walk met an uncorrectable error, else a translation fault. -/
def heldFault (f : Nat) (va : W64) : Nat × Nat × W64 := if f = walkError then (8, 0, va) else (7, f, va)
/-- A held request of core c has failed at the receiving die, which reports it (R336, R407): the cause is the subcode, or a
copy's FCODE. -/
def State.heldReport (s : State) (d c cause : Nat) (addr : Nat) : State :=
  s.report d (s.coreFault c { kind := 0x0E, cause := cause, addr := addr })
/-- The same of a request of a die's command processor or distributor, of tenancy t or the platform. -/
def State.cpHeldReport (s : State) (d : Nat) (t : Option Nat) (g : Hm) (cause addr : Nat) : State :=
  s.report d { kind := 0x0E, cause := cause, addr := addr, ten := t.getD 0xFFFF, inc := match t with
    | none => 0
    | some n => s.incarnation n g }
/-- A held access of core c fails: a load or atomic never gets its result, a store is not made; its requester takes the fault
(R336). -/
def Core.failHeld (k : Core) (a : Acc) (f : Nat) : Core :=
  let mark := fun (q : Pending) => if q.id == a.pid && a.kind != .store then { q with failed := true } else q
  let k1 : Core := { k with
    accs := k.accs.map (fun b => if b.id == a.id then { b with done := true } else b)
    pend := k.pend.map mark
    l0 := if a.kind == .store then Sparse.put {} (a.tgt.dla / 128) {} k.l0 else k.l0 }
  k1.lateFault a.gen (heldFault f a.va)
/-- The held accesses of core c to stack k are translated at the receiving die. -/
def State.forwardAccs (s : State) (k c : Nat) : State :=
  (s.core c).accs.foldl (fun s a =>
    if a.done then s
    else match s.taken k a.tgt with
      | none => s
      | some (.ok t) => s.updCore c (fun x => { x with accs := x.accs.map (fun b => if b.id == a.id then { b with tgt := t } else b) })
      | some (.error f) => (s.updCore c (fun x => x.failHeld a f)).heldReport a.tgt.die c (if f = walkError then 8 else f) a.va.toNat) s
/-- The held line transfers of core c's copies. -/
def State.forwardCopies (s : State) (k c : Nat) : State :=
  (s.core c).copies.foldl (fun s x => x.held.foldl (fun s h =>
    match s.taken k h.2.2.2 with
      | none => s
      | some (.ok t) => s.updCore c (fun y => y.updCopy x.id (fun z => { z with
          held := z.held.map (fun q => if q == h then (q.1, q.2.1, q.2.2.1, t) else q) }))
      | some (.error f) => (match (s.core c).copy x.id with
        | none => s
        | some y => if y.ended then s
          else (s.copyFault c y (copyCode (!h.2.1) f) h.2.2.1).heldReport h.2.2.2.die c (copyCode (!h.2.1) f % 256) h.2.2.1)) s) s
/-- The held writes of die d's ordering point. -/
def State.forwardWrites (s : State) (k d : Nat) : State :=
  (s.die d).op.foldl (fun s e =>
    match s.taken k e.tgt with
      | none => s
      | some (.ok t) => s.updDie d (fun x => { x with op := x.op.map (fun q => if q.wid == e.wid then { q with tgt := t } else q) })
      | some (.error f) =>
        let s1 := s.updDie d (fun x => { x with op := x.op.filter (fun q => q.wid != e.wid) })
        let s2 := match e.thr with
          | some _ => s1.lostBytes e (copyCode true f)
          | none => if e.core < 512 then s1.updCore e.core (fun x => x.lateFault e.gen (heldFault f e.va))
            else s1.lostPacketWrite d e.wid
        let cause := if e.thr.isSome then copyCode true f % 256 else if f = walkError then 8 else f
        if e.core < 512 then (s2.settleDie d).heldReport e.tgt.die e.core cause e.tgt.dla
        else (s2.settleDie d).cpHeldReport e.tgt.die (s.tenOf d e.gen) e.gen cause e.tgt.dla) s
/-- The held reads of die d's command processor and distributor: each takes its fault where it is made again. -/
def State.forwardReads (s : State) (k d : Nat) : State :=
  (s.die d).cpHeld.foldl (fun s h =>
    let set := fun (s : State) (y : CpHeld) => s.updDie d (fun x => { x with cpHeld := x.cpHeld.map (fun q => if q == h then y else q) })
    match s.taken k h.tgt with
      | none => s
      | some (.ok t) => set s { h with tgt := t }
      | some (.error f) => (set s { h with tgt := { h.tgt with fwd := none }, fault := some f }).cpHeldReport h.tgt.die h.ten
          (match h.ten with
            | none => platformGen
            | some t => s.genOn d t) (if f = walkError then 8 else f) h.addr) s
/-- The word that a RINGLD of core c reads next (R169). -/
def State.forwardRing (s : State) (k c : Nat) : State :=
  match (s.core c).ringRead with
  | none => s
  | some r => match r.held.bind (s.taken k) with
    | none => s
    | some (.ok t) => s.updCore c (fun x => { x with ringRead := some { r with held := some t } })
    | some (.error f) => (s.updCore c (fun x => { x with ringRead := some { r with held := none, fault := some f } })).heldReport
        ((r.held.map (·.die)).getD 0) c (if f = walkError then 8 else f) (r.ea.toNat + 8 * r.n)
/-- Step 5: every held request of stack k goes to the receiving die, which handles it as if it had arrived there first; one
whose walk waits there for a table is handled once it can read it. -/
def State.forward (s : State) (k : Nat) : State :=
  let s1 := (s.cores.map Prod.fst).foldl (fun s c => ((s.forwardAccs k c).forwardCopies k c).forwardRing k c) s
  let s2 := (s.dies.map Prod.fst).foldl (fun s d => (s.forwardWrites k d).forwardReads k d) s1
  (s2.cores.map Prod.fst).foldl State.settle s2

/-! ### The drain order (R328) -/

/-- L0 lines of the stack go from a die's cores: G's in step 3, and H's, which the peer window has filled, so that every
access of H after step 4 sees G's writes (R328, R333). -/
def State.dropL0 (s : State) (d k : Nat) : State :=
  let f := fun (c : Nat) (x : Core) => if dieOf c == d then
    { x with l0 := x.l0.filter (fun e => dlaCxl (128 * e.1) || dlaStack (128 * e.1) != k) } else x
  { s with cores := Sparse.mapVals {} f s.cores }
/-- A report that names a hand-over's core, tenancy and incarnation. -/
def State.handFault (s : State) (h : HandOver) (kind : Nat) : FaultInfo :=
  { kind := kind, core := h.core, ten := h.ten.getD 0xFFFF, data := h.handle
    inc := match h.ten with
      | some t => s.incarnation t h.gen
      | none => 0 }
/-- The completion of a hand-over to die d (R332). -/
def State.handComplete (s : State) (d : Nat) (h : HandOver) : State :=
  let c := Config.coresPerDie * d + h.core
  let k := s.core c
  match h.ten with
  | none => s.report d (s.handFault h 0x0A)
  | some t =>
    if !s.isCurrent d h.gen then
      -- discarded, and counted in EVENTS (R355)
      { s with tenancies := Sparse.upd {} t (fun x => { x with ending := x.ending.map (fun e =>
          if e.oldGen = h.gen then { e with events := e.events + 1 } else e) }) s.tenancies }
    else if k.ten = some t && k.task.isSome && (k.phase == 1 || k.phase == 2) then
      s.updCore c (fun k =>
        let k1 := k.countBytes h.gen h.handle 1
        -- to observe the handle is an acquire at package scope (R304, R333)
        { k1 with threads := k1.threads ++ [⟨0, false, .handle h.handle, 2, true⟩] })
    else s.report d (s.handFault h 0x0A)
/-- The die that a hand-over of stack k gives it to. -/
def State.receiver (s : State) (k : Nat) : Nat := if s.owner k = lowerDie k then upperDie k else lowerDie k
/-- Steps 3 and 4 of the switch (R328): cached translations and L0 lines of the stack go, and the owner register changes. -/
def State.switched (s : State) (k : Nat) : State :=
  let g := s.owner k
  let r := s.receiver k
  let s1 := ((s.dropTranslations g 2 0 k).dropL0 g k).dropL0 r k
  let s2 := s1.updStack k (fun x => { x with up := !x.up, epoch := x.epoch + 1, hand := none })
  -- every die's latency map follows the new owner (R238)
  { s2 with dies := Sparse.mapVals {} (fun _ x => { x with latEpoch := x.latEpoch + 1 }) s2.dies }
/-- The switch of a hand-over (R328, steps 3 to 5): enabled once the drain is complete. With no hand-over in progress, what
still waits at the receiving die of the last one is tried again. -/
def execHandoverSwitch (stack : Nat) (s : State) : Out :=
  match (s.stack stack).hand with
  | none => ok (s.forward stack).flushAll
  | some h =>
    if !s.drainedOf stack then ok s
    else
      let s2 := ((s.switched stack).forward stack).flushAll
      ok (if h.cpl then s2.handComplete (s.receiver stack) h else s2)
/-- The mirror of an owner register changes on a die (R320). -/
def execOwnerMirrorUpdate (die stack : Nat) (s : State) : Out :=
  ok (s.updDie die (fun x => { x with ownMir := Sparse.put none stack (some (s.ownerReg stack)) x.ownMir }))

end Sys2Proof.Machine
end

