-- ==== Sys2Proof/Machine/Tenancy.lean ====
section
/-! DEFINITION. Tenancies and generations (spec 15): GENR, the allocator, TENEND from its acceptance to the end
record, deferred generations, and the assay. -/
namespace Sys2Proof.Machine

/-! ### GENR (R349) -/

/-- GENR. -/
def execGenr (p : BitVec 3) (d : BitVec 6) (s : State) : Out :=
  slotMeaning p [] (some (s.rD d)) false noTrap
    (fun s =>
      let v : W64 := if s.k.lvl then 0x10000001#64
        else BitVec.ofNat 64 (s.k.ten.getD 0 * 2 ^ 16 + s.gen.toNat)
      s.putScalar Config.latALU (s.rD d) v) s

/-! ### The allocator (R344-R346) -/

/-- Tenancy t. -/
def State.tenancy (s : State) (t : Nat) : Tenancy := Sparse.get {} t s.tenancies
/-- Change tenancy t. -/
def State.updTen (s : State) (t : Nat) (f : Tenancy → Tenancy) : State :=
  { s with tenancies := Sparse.upd {} t f s.tenancies }
/-- May work of tenancy t start: it holds a generation and no TENEND runs (R352, R354)? -/
def State.tenReady (s : State) (t : Nat) : Bool := (s.tenancy t).gen.isSome && (s.tenancy t).ending.isNone
/-- State of a generation number. -/
def State.genState (s : State) (g : Hm) : GenState := Sparse.get .free g.toNat s.genStates
/-- Set the state of a generation number. -/
def State.setGenState (s : State) (g : Hm) (x : GenState) : State :=
  { s with genStates := Sparse.put .free g.toNat x s.genStates }
/-- The number after n in the order of R345. -/
def nextNumber (n : Nat) : Nat := if 0xFFFF ≤ n then 2 else n + 1
/-- The lowest FREE number from n on. -/
def State.freeFrom (s : State) : Nat → Nat → Option Nat
  | 0, _ => none
  | fuel + 1, n =>
    if Sparse.get GenState.free n s.genStates = .free then some n else s.freeFrom fuel (nextNumber n)
/-- The number the allocator hands out next: the lowest FREE one above the last, wrapping (R345). -/
def State.nextFree (s : State) : Option Nat := s.freeFrom 65534 (nextNumber s.lastGen)
/-- Hand out number n with the next serial; a fresh key pair is drawn and installed in every base die, tagged with its
incarnation (R345, R354, R460). -/
def State.handOut (s : State) (n : Nat) : State :=
  { s with genStates := Sparse.put .free n .live s.genStates, lastGen := n, lastSerial := s.lastSerial + 1, free := s.free + 1
           trust := { s.trust with
             keys := Sparse.put none n (some ⟨s.lastSerial + 1, Config.drawKey (s.free + 1)⟩) s.trust.keys } }
/-- Erase the key of a generation in every base die (R354, R460). -/
def State.dropKey (s : State) (g : Hm) : State :=
  { s with trust := { s.trust with keys := Sparse.put none g.toNat none s.trust.keys } }
/-- Make g the current generation of tenancy t on die d: compute dies 0-7, base dies 8-15, the I/O die 16. -/
def State.setGenOn (s : State) (d t : Nat) (g : Hm) : State :=
  { s with gens := Sparse.upd [] d (fun m => Sparse.put nullGen t g m) s.gens }
/-- Make g current on every die. -/
def State.setGenAll (s : State) (t : Nat) (g : Hm) : State :=
  (List.range 17).foldl (fun s d => s.setGenOn d t g) s
/-! ### Deferred generations (R346, R352) -/

/-- The incarnation word of a generation and its serial (R345). -/
def incarnationOf (g : Option Hm) (serial : Nat) : Nat :=
  match g with
  | some g => g.toNat * 2 ^ 48 + serial % 2 ^ 48
  | none => 0

/-- Number n goes to deferred tenancy t: with its TENEND still running, the dies that have switched take it, the others will;
after its end record, every die does, and the record is completed. -/
def State.grant (s : State) (t n : Nat) : State :=
  let x := s.tenancy t
  let g := BitVec.ofNat 16 n
  let s1 := (s.handOut n).updTen t (fun x => { x with
    gen := some g, serial := s.lastSerial + 1, deferred := none
    ending := x.ending.map (fun e => { e with newGen := some g, newSerial := s.lastSerial + 1 }) })
  match x.ending with
  | some e => e.switched.foldl (fun s d => s.setGenOn d t g) s1
  | none =>
    let s2 := s1.setGenAll t g
    match x.deferred with
    | none => s2
    | some a =>
      let fl := s2.read platformGen (a.toNat + 16) 4
      let at_ := s2.gate 8 a.toNat
      match s2.dlaWrite at_ (a.toNat + 8) 8 (incarnationOf (some g) (s.lastSerial + 1)) with
      | .error _ => s2
      | .ok s3 => (s3.dlaWrite at_ (a.toNat + 16) 4 (if fl / 2 ^ 17 % 2 = 1 then fl - 2 ^ 17 else fl)).toOption.getD s3
/-- Must the completion of a deferred tenancy's end record wait for the record's home? -/
def State.recordHeld (s : State) (t : Nat) : Bool :=
  match (s.tenancy t).ending, (s.tenancy t).deferred with
  | none, some a => s.dlaHeld (s.gate 8 a.toNat) a.toNat
  | _, _ => false
/-- FREE numbers go to the tenancies that have waited longest for one, as far as they reach. -/
def State.grants (s : State) : List Nat → State
  | [] => s
  | t :: rest =>
    if s.recordHeld t then s
    else match s.nextFree with
      | none => s
      | some n => ({ s with deferred := rest }.grant t n).grants rest
/-- The deferred tenancies come before any other (R346). -/
def State.grantAll (s : State) : State := s.grants s.deferred
/-- The number that goes to a tenancy behind the deferred ones. -/
def State.newFree (s : State) : Option Nat := if s.deferred.isEmpty then s.nextFree else none
/-- The platform opens a tenancy (R341, R346): refused where its number is open or still ending, or no number is
FREE. -/
def execTenancyOpen (ten : Nat) (s : State) : Out :=
  let x := s.tenancy ten
  if !s.io.released || 4096 ≤ ten || x.opened || x.ending.isSome || !x.queued.isEmpty || s.deferred.contains ten then ok s
  else
    let s0 := s.grantAll
    match s0.newFree with
    | none => ok s0
    | some n =>
      let s1 := (s0.handOut n).updTen ten (fun x => { x with opened := true, gen := some (BitVec.ofNat 16 n),
                                                             serial := s0.lastSerial + 1 })
      ok (s1.setGenAll ten (BitVec.ofNat 16 n))

/-! ### TENEND: acceptance (R352-R354) -/

/-- Tenancy t joins the deferred ones, in the order their TENENDs were accepted (R346). -/
def State.defer (s : State) (t stamp : Nat) : State :=
  let before := fun (u : Nat) => decide ((s.tenancy u).stamp ≤ stamp)
  { s with deferred := s.deferred.takeWhile before ++ t :: s.deferred.dropWhile before }
/-- Step 1 for tenancy t, which holds a generation; the numbers owed to deferred tenancies have been given. -/
def State.startTenend (s : State) (t : Nat) (close : Bool) (erec : W64) (queue : Option Nat) (stamp : Nat) : State :=
  let x := s.tenancy t
  let g := x.gen.getD nullGen
  let n := if close then none else s.newFree
  let s1 := (s.setGenState g .ending)
  let s1 := { s1 with discards := Sparse.put 0 g.toNat 0 s1.discards }
  let s2 := match n with
    | some n => s1.handOut n
    | none => if close then s1 else s1.defer t stamp
  let new := n.map (BitVec.ofNat 16)
  let e : TenEnd := { close := close, erec := erec, oldGen := g, oldSerial := x.serial, newGen := new,
                      newSerial := s2.lastSerial, queue := queue, stamp := stamp }
  s2.updTen t (fun x => { x with ending := some e, gen := new, serial := if new.isSome then s2.lastSerial else 0,
                                 deferred := if close || new.isSome then none else some erec, stamp := stamp })
/-- The allocator accepts a TENEND: it runs, or waits for the one that runs or for a generation (R354). -/
def State.acceptTenend (s : State) (t : Nat) (close : Bool) (erec : W64) (queue : Option Nat) : State :=
  let s0 := s.grantAll
  let x := s0.tenancy t
  let s1 := { s0.updTen t (fun x => { x with opened := !close }) with nextWid := s0.nextWid + 1 }
  if x.ending.isSome || x.gen.isNone || !x.queued.isEmpty then
    s1.updTen t (fun x => { x with queued := x.queued ++ [(close, erec, queue, s0.nextWid)] })
  else s1.startTenend t close erec queue s0.nextWid
/-- The next accepted TENEND of tenancy t starts, where there is one and it can. -/
def State.nextTenend (s : State) (t : Nat) : State :=
  let x := s.tenancy t
  match x.queued with
  | [] => s
  | (close, erec, queue, stamp) :: rest =>
    if x.ending.isSome || x.gen.isNone then s
    else (s.updTen t (fun x => { x with queued := rest })).startTenend t close erec queue stamp
/-- Is an end-record address good: 64-byte aligned, bits [63:48] zero, a valid DLA (R352)? -/
def State.recordAddrOk (s : State) (b : W64) : Bool :=
  b.extractLsb' 0 6 == 0 && b.extractLsb' 48 16 == 0 && s.runOk b.toNat 64
/-- TENEND (R352). -/
def execTenend (p : BitVec 3) (a b : BitVec 6) (s : State) : Out :=
  slotMeaning p [s.rA a, s.rB b] none false
    (fun s =>
      let v := s.reg (s.rA a)
      if !s.k.lvl then trapV 0x0A 0x10
      else trapIf (v.extractLsb' 13 51 != 0 || !(s.tenancy (v.toNat % 4096)).opened || !s.recordAddrOk (s.reg (s.rB b)))
        0x0A 0x12 .go)
    (fun s =>
      let v := s.reg (s.rA a)
      s.acceptTenend (v.toNat % 4096) (v.getLsbD 12) (s.reg (s.rB b)) none) s

/-! ### TENEND: the switch (R354, R355) -/

/-- Is an access of the retired generation one whose write is still to be made? -/
def Acc.unmade (a : Acc) (g : Hm) : Bool :=
  a.gen == g && !a.done && (match a.kind with | .store => true | .amo _ => true | _ => false)
/-- Results of generation g on their way to registers and rings of a core. -/
def Core.landedOf (k : Core) (g : Hm) : Nat :=
  (k.lq.filter (fun e => e.gen == g)).length + (k.hq.filter (fun e => e.gen == g)).length
    + (k.pend.filter (fun q => q.gen == g)).length
    + (k.nextVc.filter (fun d => match d with | .ring _ _ h => h == g | _ => false)).length
/-- Bricks of a core's tenancy that have left the brick queue: fixed as its next task, or kept for it to resume. -/
def Core.bricksOf (k : Core) : Nat :=
  ((k.nextTask.toList ++ k.own.toList).filter (·.brick.isSome)).length
/-- Completion events of generation g on their way: handle and barrier counts of copies whose bytes are still to be performed
on another core, and status posts (R355). -/
def Core.eventsOf (k : Core) (g : Hm) : Nat :=
  (k.copies.filter (fun x => x.gen == g && x.inFlight != 0 && (match x.obj with
    | .remote _ _ => true
    | _ => false))).length + (k.status.filter (fun e => e.2.final.isSome)).length
/-- Does the switch abandon a stream here, or find a context of g under a platform handler? -/
def Core.streamOf (k : Core) (g : Hm) : Bool :=
  k.ctxGen == g && (k.lvl || (k.task.isSome && decide (k.phase < 4)))
/-- Is a delayed write of a core one of generation g? -/
def Delayed.under (d : Delayed) (g : Hm) : Bool :=
  match d with
  | .csr _ _ => false
  | .spm _ _ _ h => h == g
  | .line _ _ h => h == g
  | .ring _ _ h => h == g
/-- The engines of a core hold nothing of generation g; what a platform handler has issued goes on (R354, R355). -/
def Core.dropEngines (k : Core) (g : Hm) : Core :=
  let copies := k.copies.filter (fun x => x.gen != g)
  let calls := k.calls.filter (fun x => x.gen != g)
  let kept := copies.map (·.id) ++ calls.map (·.id)
  { k with
    copies := copies, calls := calls, staging := [], preloads := []
    threads := k.threads.filter (fun t => !t.far && kept.contains t.op), regions := k.regions.filter (fun r => kept.contains r.op)
    blocked := k.blocked.filter kept.contains, owedOps := k.owedOps.filter kept.contains
    ncp := BitVec.ofNat 12 (copies.filter (fun x => !x.left)).length, ntl := BitVec.ofNat 12 calls.length }
/-- A core that runs on for a while after the switch sees nothing of its old generation: every element that bears it reads zero
(R68, R134, R182, R186). -/
def Core.blank (k : Core) : Core :=
  { k with
    sregs := [], shadow := [], preds := [], spreds := [], rows := [], spm := [], pvecs := [], rings := [], handles := []
    mparams := [], uwords := [], uents := [] }
/-- A core of the tenancy at the switch in its die's local cycle now: its engines and its results on their way hold nothing of
g. One that runs a platform handler, a save or a reset goes on; another one stops within 64 lc, and what it issues until
then has no effect (R354, R355). -/
def Core.afterSwitch (k : Core) (g : Hm) (now : Nat) : Core :=
  let k1 : Core := { k.dropEngines g with
    uiPend := 0, accs := k.accs.filter (fun a => a.gen != g), pend := k.pend.filter (fun q => q.gen != g)
    lq := k.lq.filter (fun e => e.gen != g), hq := k.hq.filter (fun e => e.gen != g)
    nextVc := k.nextVc.filter (fun d => !d.under g), nextTask := none, own := none, chunks := [] }
  let k2 : Core := { k1 with
    nst := BitVec.ofNat 12 (k1.accs.filter (·.counted)).length
    nld := BitVec.ofNat 12 (k1.pend.filter (·.counted)).length }
  if k.lvl || decide (4 ≤ k.phase) then { k2 with task := none, tlb := k.tlb.filter (fun e => e.gen != g) }
  else if k.task.isNone then { k2.idle with nst := 0, nld := 0, accs := [], l0 := [], banks := [], req := 0 }
  else { k2.blank with stopping := some now, l0 := [], bubbles := 0 }
/-- The core stops and falls idle (R354). -/
def Core.stop (k : Core) : Core :=
  { k.idle with nst := 0, nld := 0, ncp := 0, ntl := 0, accs := [], l0 := [], banks := [], req := 0, own := none
                copies := [], calls := [], threads := [], regions := [], tlb := k.tlb.filter (fun e => e.gen != k.ctxGen) }
/-- The cores of tenancy t on die d that have not yet stopped do so. -/
def State.stopCores (s : State) (d t : Nat) : State :=
  let f := fun (c : Nat) (k : Core) => if dieOf c == d && k.ten == some t && k.stopping.isSome then k.stop else k
  { s with cores := Sparse.mapVals {} f s.cores }
/-- Has every core of tenancy t stopped? -/
def State.allStopped (s : State) (t : Nat) : Bool := s.cores.all (fun e => e.2.ten != some t || e.2.stopping.isNone)
/-- A queue of the tenancy after the switch (R355). -/
def Queue.emptied (q : Queue) (mark : Nat) : Queue :=
  { q with tail := 0, pos := 0, head := 0, subs := [], loops := [], blocks := [], skip := none, wait := .no
           begun := true, quiet := true, mark := mark }
/-- Packets that the switch abandons: those not started, the one being executed, and launches in flight. -/
def State.abandonedOf (s : State) (d n : Nat) (q : Queue) : Nat :=
  (if q.begun then (q.tail - q.pos).toNat else 0) + (if q.wait = .no then 0 else 1)
    + ((List.range 16).filter (fun i => match (s.die d).launch i with
      | some l => l.issuer == d && l.queue == n
      | none => false)).length
/-- Writes applied so far to the line of a queue's tail word, where it lies in CXL memory. -/
def State.tailMark (s : State) (d t : Nat) (q : Queue) : Nat :=
  match s.translateCp d (some t) q.taila .read with
  | .ok g => if dlaCxl g.dla then Sparse.get 0 (g.dla / 128) s.cxlWrites else 0
  | .error _ => 0
/-- Step 3 on compute die d for tenancy t (R354, R355). -/
def State.switchCompute (s : State) (d t : Nat) (e : TenEnd) : State :=
  let g := e.oldGen
  let x := s.die d
  let mine := s.cores.filter (fun c => dieOf c.1 == d && c.2.ten == some t)
  let sum := fun (f : Core → Nat) => mine.foldl (fun n c => n + f c.2) 0
  let qs := x.queues.filter (fun q => decide (8 ≤ q.1) && q.2.valid && q.2.ten == t)
  let dropped := x.op.filter (fun w => w.gen == g && !w.sent)
  let writes := sum (fun k => (k.accs.filter (fun a => a.unmade g)).length) + dropped.length
  let s1 := s.updTen t (fun y => { y with ending := some { e with
    switched := d :: e.switched
    landed := e.landed + sum (fun k => k.landedOf g)
    copies := e.copies + sum (fun k => (k.copies.filter (fun x => x.gen == g)).length)
    calls := e.calls + sum (fun k => (k.calls.filter (fun x => x.gen == g)).length)
    events := e.events + sum (fun k => k.eventsOf g)
    cores := e.cores + (mine.filter (fun c => c.2.streamOf g)).length
    bricks := e.bricks + (x.bricks.filter (fun b => b.ten == t)).length + sum Core.bricksOf
    packets := e.packets + qs.foldl (fun n q => n + s.abandonedOf d q.1 q.2) 0
    writes := e.writes + writes } })
  let s2 := s1.updDie d (fun x => { x with
    op := x.op.filter (fun w => w.gen != g || w.sent)
    etlb := x.etlb.filter (fun y => y.gen != g), s2c := x.s2c.filter (fun y => y.gen != g)
    cpHeld := x.cpHeld.filter (fun h => h.ten != some t)
    bricks := x.bricks.filter (fun b => b.ten != t), saved := x.saved.filter (fun y => y.ten != t)
    launches := Sparse.mapVals none (fun _ l => match l with
      | some l => if l.ten = t then none else some l
      | none => none) x.launches
    queues := Sparse.mapVals {} (fun n q => if 8 ≤ n && q.valid && q.ten == t then q.emptied (s.tailMark d t q) else q) x.queues })
  let f := fun (c : Nat) (k : Core) => if dieOf c == d && k.ten == some t then k.afterSwitch g (s.die d).lcyc.toNat else k
  ({ s2 with cores := Sparse.mapVals {} f s2.cores }).setGenOn d t (e.newGen.getD nullGen)
/-- Step 3 on the I/O die: the tenancy's flows are deregistered (R355). -/
def State.switchIo (s : State) (t : Nat) : State :=
  { s with io := { s.io with flows := Sparse.mapVals {} (fun _ f => if f.ten = t then { f with valid := false } else f)
                               s.io.flows } }
/-- A die switches for tenancy ten (R354, step 3): compute dies 0-7, base dies 8-15, the I/O die 16. The last one
lets the key go (step 4). On a compute die that has switched, the cores of the tenancy that still run stop. -/
def execTenendSwitch (ten die : Nat) (s : State) : Out :=
  match (s.tenancy ten).ending with
  | none => ok s
  | some e =>
    if 17 ≤ die then ok s
    else if e.switched.contains die then ok (s.stopCores die ten)
    else
      let s1 := if die < 8 then s.switchCompute die ten e
        else
          let s0 := (s.updTen ten (fun x => { x with ending := some { e with switched := die :: e.switched } })).setGenOn
            die ten (e.newGen.getD nullGen)
          if die = 16 then s0.switchIo ten else s0
      ok (if e.switched.length = 16 then s1.dropKey e.oldGen else s1)

/-! ### TENEND: drain and record (R354, R357) -/

/-- Has everything issued under g reached its write point? What another tenancy issued does not hold it up (R302, R354). -/
def State.drainedGen (s : State) (g : Hm) : Bool :=
  s.cores.all (fun e => e.2.accs.all (fun a => a.gen != g))
    && s.dies.all (fun e => e.2.op.all (fun w => w.gen != g))
    && s.stackTab.all (fun e => match e.2.hand with
      | some h => h.gen != g
      | none => true)
/-- Writes of other tenancies, still under way, into exports of generation g: each will be discarded at its write point, and
counts here unless its issuer's generation has ended too (R286, R355). -/
def State.strandedOn (s : State) (g : Hm) : Nat :=
  let hit := fun (h : Hm) (t : Target) => h != g && t.gen == g && s.isCurrent (homeDie t.dla) h
  s.cores.foldl (fun n e => n + (e.2.accs.filter (fun a => hit a.gen a.tgt && a.unmade a.gen)).length
      + e.2.copies.foldl (fun n x => n + (x.held.filter (fun h => !h.2.1 && hit x.gen h.2.2.2)).length) 0) 0
    + s.dies.foldl (fun n e => n + (e.2.op.filter (fun w => hit w.gen w.tgt)).length) 0
/-- Every TLB, engine TLB and stage-2 cache entry tagged g goes, on every die (R354, step 5). -/
def State.dropTagged (s : State) (g : Hm) : State :=
  { s with
    cores := Sparse.mapVals {} (fun _ k => { k with tlb := k.tlb.filter (fun y => y.gen != g) }) s.cores
    dies := Sparse.mapVals {} (fun _ x => { x with
      etlb := x.etlb.filter (fun y => y.gen != g), s2c := x.s2c.filter (fun y => y.gen != g) }) s.dies }
/-- A count of the end record saturates. -/
def sat32 (n : Nat) : Nat := min n 0xFFFFFFFF
/-- The end record (R357). -/
def TenEnd.record (e : TenEnd) (t writes : Nat) : Nat :=
  packFields [(8, incarnationOf (some e.oldGen) e.oldSerial), (8, incarnationOf e.newGen e.newSerial),
    (4, t + (if e.close then 2 ^ 16 else 0) + (if e.newGen.isNone && !e.close then 2 ^ 17 else 0)),
    (4, sat32 e.landed), (4, sat32 (e.writes + writes)), (4, sat32 e.copies), (4, sat32 e.calls), (4, sat32 e.bricks),
    (4, sat32 e.packets), (4, sat32 e.events), (4, sat32 e.cores), (4, 0), (8, 1)]
/-- The queue that waits for the TENEND of tenancy t goes on. -/
def State.queueGoesOn (s : State) (q : Option Nat) (t : Nat) : State :=
  match q with
  | none => s
  | some n => s.updDie (n / 128) (fun x => { x with queues := Sparse.upd {} (n % 128) (fun y =>
      if y.wait = .tenend t then { y with wait := .no } else y) x.queues })
/-- Debt that is unpaid when a tenancy closes is lost (R404). -/
def State.dropDebt (s : State) (t : Nat) : State :=
  { s with dies := Sparse.mapVals {} (fun _ x => { x with debt := Sparse.put 0 t 0 x.debt }) s.dies }
/-- Steps 5 and 6 for tenancy ten: once drained, the translations of the old generation are gone and the end record is
written, the old generation is quarantined, and the next TENEND starts. -/
def execTenendRecord (ten : Nat) (s : State) : Out :=
  match (s.tenancy ten).ending with
  | none => ok s
  | some e =>
    let at_ := s.gate 8 e.erec.toNat
    if e.switched.length ≠ 17 || !s.drainedGen e.oldGen || !s.allStopped ten || s.dlaHeld at_ e.erec.toNat then ok s
    else
      let s0 := s.dropTagged e.oldGen
      let n := Sparse.get 0 e.oldGen.toNat s.discards + s.strandedOn e.oldGen
      -- a record whose home has no way left is lost (log entry 19)
      let s1 := match s0.dlaWrite at_ e.erec.toNat 64 (e.record ten n) with
        | .ok s1 => s1
        | .error _ => s0
      let s2 := { (s1.setGenState e.oldGen (.quarantined 3)).updTen ten (fun x => { x with ending := none }) with
        serials := Sparse.put 0 e.oldGen.toNat e.oldSerial s1.serials }
      let s2 := if e.close then s2.dropDebt ten else s2
      ok (((s2.queueGoesOn e.queue ten).interrupt 8 4).grantAll.nextTenend ten)
/-- A FREE number goes to the tenancy that has waited longest for one; its end record, where it has been written, is completed
once its home can be reached, and the tenancy's next TENEND starts (R346, R352). -/
def execGenerationGrant (s : State) : Out :=
  match s.deferred with
  | [] => ok s
  | t :: rest =>
    match s.nextFree with
    | some n => if s.recordHeld t then ok s else ok (({ s with deferred := rest }.grant t n).nextTenend t)
    | none => ok s

/-! ### The assay (R358-R360) -/

/-- Does the assay write null over a hallmark of g? -/
def State.stale (s : State) (g : Hm) : Bool := g != nullGen && g != platformGen && decide (s.genState g ≠ .live)
/-- The hallmark after the assay's visit. -/
def State.assayed (s : State) (g : Hm) : Hm := if s.stale g then nullGen else g
/-- The hallmark of a register, a predicate, a line, a handle and a ring slot after the visit. -/
def State.assayReg (s : State) (r : HReg) : HReg := { r with hm := s.assayed r.hm }
def State.assayPred (s : State) (r : PReg) : PReg := { r with hm := s.assayed r.hm }
def State.assayLine (s : State) (r : Line) : Line := { r with hm := s.assayed r.hm }
def State.assayHandle (s : State) (r : Handle) : Handle := { r with hm := s.assayed r.hm }
def State.assayRing (s : State) (r : RingSlot) : RingSlot := { r with hm := s.assayed r.hm }
/-- Element n of a kind in a core: 1 scratchpad line, 2 row, 3 scalar, 4 shadow scalar, 5 predicate, 6 shadow
predicate, 7 handle, 8 parameter, 9 ring slot, 10 user word, 11 user entry, 12 Igpor vector. -/
def State.assayElem (s : State) (kind n : Nat) (k : Core) : Core :=
  match kind with
  | 1 => { k with spm := Sparse.upd {} n s.assayLine k.spm }
  | 2 => { k with rows := Sparse.upd {} n s.assayLine k.rows }
  | 3 => { k with sregs := Sparse.upd {} n s.assayReg k.sregs }
  | 4 => { k with shadow := Sparse.upd {} n s.assayReg k.shadow }
  | 5 => { k with preds := Sparse.upd {} n s.assayPred k.preds }
  | 6 => { k with spreds := Sparse.upd {} n s.assayPred k.spreds }
  | 7 => { k with handles := Sparse.upd {} n s.assayHandle k.handles }
  | 8 => { k with mparams := Sparse.upd {} n s.assayReg k.mparams }
  | 9 => { k with rings := Sparse.upd {} n s.assayRing k.rings }
  | 10 => { k with uwords := Sparse.upd {} n s.assayReg k.uwords }
  | 11 => { k with uents := Sparse.upd {} n s.assayReg k.uents }
  | 12 => { k with pvecs := Sparse.upd {} n s.assayLine k.pvecs }
  | _ => k
/-- Every element of a core. -/
def State.assayCore (s : State) (k : Core) : Core :=
  { k with
    spm := Sparse.mapVals {} (fun _ => s.assayLine) k.spm, rows := Sparse.mapVals {} (fun _ => s.assayLine) k.rows
    pvecs := Sparse.mapVals {} (fun _ => s.assayLine) k.pvecs
    sregs := Sparse.mapVals {} (fun _ => s.assayReg) k.sregs
    shadow := Sparse.mapVals {} (fun _ => s.assayReg) k.shadow
    preds := Sparse.mapVals {} (fun _ => s.assayPred) k.preds
    spreds := Sparse.mapVals {} (fun _ => s.assayPred) k.spreds
    handles := Sparse.mapVals {} (fun _ => s.assayHandle) k.handles
    mparams := Sparse.mapVals {} (fun _ => s.assayReg) k.mparams
    rings := Sparse.mapVals {} (fun _ => s.assayRing) k.rings
    uwords := Sparse.mapVals {} (fun _ => s.assayReg) k.uwords
    uents := Sparse.mapVals {} (fun _ => s.assayReg) k.uents }
/-- Import entry n of a translation record: V := 0 where its EGEN is not LIVE. -/
def State.assayImport (s : State) (r : TransRec) (n : Nat) : State :=
  let e := s.importEntry r n
  if e.getLsbD 0 && decide (s.genState (importGen e) ≠ .live) then
    s.write platformGen (r.impt.toNat + 8 * n) 8 (e.toNat - 1)
  else s
/-- The assay rewrites one element (R358): kind 0 the granule number `index`, 1-12 an element of core `agent`, 13 is
the import entry `index` of tenancy ten on die `agent`. -/
def execAssayRewrite (kind agent ten index : Nat) (s : State) : Out :=
  match kind with
  | 0 => ok { s with hallmarks := Sparse.upd nullGen index s.assayed s.hallmarks }
  | 13 => (match Sparse.get none ten (s.die agent).recs with
    | none => ok s
    | some r => if 4096 ≤ index then ok s else ok (s.assayImport r index))
  | _ => ok (s.updCore agent (s.assayElem kind index))
/-- Every import entry of every translation record. -/
def State.assayImports (s : State) : State :=
  s.dies.foldl (fun s d => d.2.recs.foldl (fun s r => match r.2 with
    | none => s
    | some r => (List.range 4096).foldl (fun s n => s.assayImport r n) s) s) s
/-- A quarantined number nears FREE by one pass. -/
def GenState.passed : GenState → GenState
  | .quarantined n => if n ≤ 1 then .free else .quarantined (n - 1)
  | x => x
/-- A pass of the assay completes (R359): every stale hallmark it met is null and every stale import clear, and
numbers whose second pass has ended are FREE. -/
def execAssayPassComplete (s : State) : Out :=
  let s1 := { s with hallmarks := Sparse.mapVals nullGen (fun _ => s.assayed) s.hallmarks,
                     cores := Sparse.mapVals {} (fun _ => s.assayCore) s.cores }
  let s2 := s1.assayImports
  ok { s2 with genStates := Sparse.mapVals .free (fun _ => GenState.passed) s2.genStates }

end Sys2Proof.Machine
end

