-- ==== Sys2Proof/Machine/Launches.lean ====
section
/-! DEFINITION. What the command processor and the distributor of a die read and write (R361, R365), native images
and their acceptance (spec 19 R431-R434, R384), launch records (R368-R371), and the launch table (R386). -/
namespace Sys2Proof.Machine

/-! ### Reads and writes of the command processor (R361, R365) -/

/-- The generation of work of tenancy t, or of the platform, on die d. -/
def State.cpGen (s : State) (d : Nat) (t : Option Nat) : Hm := match t with
  | none => platformGen
  | some t => s.genOn d t
/-- Is a read held in a forward queue the one of tenancy t, or of the platform, at address a? -/
def CpHeld.isOf (h : CpHeld) (t : Option Nat) (a : Nat) : Bool := h.ten == t && h.addr == a
/-- The target of a read of die d's command processor or distributor: one that a forward queue has held, else its translation
(R336). -/
def State.cpTarget (s : State) (d : Nat) (t : Option Nat) (a : Nat) : Except Nat Target :=
  match (s.die d).cpHeld.find? (fun h => h.isOf t a) with
  | some h => (match h.fault with
    | some f => .error f
    | none => .ok h.tgt)
  | none => s.translateCp d t (BitVec.ofNat 64 a) .read
/-- n bytes of one granule at an address of tenancy t, or a DLA for the platform, as the command processor of die d
reads them (R365), at a home at its turn (R234): an error 0 says that the read waits, another names the fault. -/
def State.cpRead (s : State) (d : Nat) (t : Option Nat) (a n : Nat) : Except Nat Nat :=
  match s.cpTarget d t a with
  | .error f => .error f
  | .ok g =>
    let home := (s.die d).opSource g n = .none
    if s.badAt g.dla && home then .error walkError
    else if s.wayLost d g && home then .error 8
    else if home && !s.portFree g (s.cpGen d t) then .error 0
    else match s.serveDie d g n with
      | none => .error 0
      | some r => .ok r.1
/-- A read at address a is held no more. -/
def State.cpDrop (s : State) (d : Nat) (t : Option Nat) (a : Nat) : State :=
  s.updDie d (fun x => { x with cpHeld := x.cpHeld.filter (fun h => !h.isOf t a) })
/-- A read at address a waits: where it has reached the forward queue of a hand-over, that holds it (R336). -/
def State.cpHold (s : State) (d : Nat) (t : Option Nat) (a : Nat) : State :=
  match s.cpTarget d t a with
  | .error _ => s
  | .ok g =>
    if g.fwd.isSome && !(s.die d).cpHeld.any (fun h => h.isOf t a) then
      s.updDie d (fun x => { x with cpHeld := x.cpHeld ++ [⟨t, a, g, none⟩] })
    else s
/-- A read at address a has been made: it is held no more, and the rotation of its port goes on, if a home has served it
(R234). -/
def State.cpTurn (s : State) (d : Nat) (t : Option Nat) (a : Nat) : State :=
  match s.cpTarget d t a with
  | .error _ => s.cpDrop d t a
  | .ok g => if (s.die d).opSource g 1 = .none then (s.cpDrop d t a).rotate g.die (portOf g) (s.cpGen d t) else s.cpDrop d t a
/-- A read of n bytes from a has been made, granule by granule. -/
def State.cpTurns (s : State) (d : Nat) (t : Option Nat) (a n : Nat) : State :=
  (List.range (granules a n)).foldl (fun s i => s.cpTurn d t (if i = 0 then a else a / 128 * 128 + 128 * i)) s
/-- n aligned 8-byte words, the first lowest. -/
def State.cpWords (s : State) (d : Nat) (t : Option Nat) : Nat → Nat → Except Nat Nat
  | _, 0 => .ok 0
  | a, n + 1 =>
    match s.cpRead d t a 8 with
    | .error f => .error f
    | .ok w => match s.cpWords d t (a + 8) n with
      | .error f => .error f
      | .ok r => .ok (w + 2 ^ 64 * r)
/-- The codes with which the translation of n bytes from a ends for an access, page by page; an error 0 waits. -/
def State.spanCodes (s : State) (d : Nat) (t : Option Nat) (a n : Nat) (p : Perm) : List Nat :=
  if n = 0 then []
  else (List.range (n / 65536 + 2)).filterMap (fun i =>
    match s.translateCp d t (BitVec.ofNat 64 (min (a + 65536 * i) (a + n - 1))) p with
    | .ok _ => none
    | .error f => some f)
/-- A write of the hardware to a record, applied at its home at once (log entry 19): the state, or the fault; an error 0
waits, for the home over a hand-over or for a link that retrains (R336, R415), and 8 is a lost way (R417). -/
def State.homeWrite (s : State) (d : Nat) (t : Option Nat) (a n v : Nat) : Except Nat State :=
  match s.translateCp d t (BitVec.ofNat 64 a) .write with
  | .error f => .error f
  | .ok g =>
    if s.wayLost d g then .error 8
    else if !s.homeOpen g || !s.wayOpen d g then .error 0
    else .ok (if s.isCurrent (homeDie g.dla) g.gen then s.write g.gen g.dla n v else s.discard g.gen)
/-- Must such a write wait? -/
def State.homeHeld (s : State) (d : Nat) (t : Option Nat) (a : Nat) : Bool :=
  match s.homeWrite d t a 1 0 with
  | .error f => f == 0
  | .ok _ => false
/-- A write of a packet: it enters the die's ordering point with its scope (R363). -/
def State.cpStore (s : State) (d : Nat) (t : Option Nat) (a : W64) (n v scope : Nat) : Except Nat State :=
  match s.translateCp d t a .write with
  | .error f => .error f
  | .ok g =>
    let gen := s.cpGen d t
    let e : OpEntry := { wid := s.nextWid, core := 512 + d, gen := gen, tgt := g, size := n,
                         data := BitVec.ofNat 1024 v, scope := scope }
    let s1 := s.updDie d (fun x => { x with op := x.op ++ [e] })
    .ok { s1 with nextWid := s.nextWid + 1 }

/-! ### Native images (R431-R434) -/

/-- A preload entry of 144 bytes (R226, R384); none where it breaks a rule. No core is known yet when it is checked: window 0 of
SPACE 011b counts as the core's own and every other one as another core's (DESIGN CHOICE, log entry 126). -/
def preloadOf (v spdn : Nat) : Option Preload :=
  let level := fun (k : Nat) => Level.mk (BitVec.ofNat 20 (field v (32 + 12 * k) 4))
    (BitVec.ofNat 32 (field v (36 + 12 * k) 4)) (BitVec.ofNat 32 (field v (40 + 12 * k) 4))
  let levels := (List.range 6).foldl (fun m k => Sparse.put {} k (level k) m) []
  let cctl : W64 := BitVec.ofNat 64 (field v 16 8)
  let rout := field v 24 1
  let h := field v 25 1
  let banks : BitVec 16 := BitVec.ofNat 16 (field v 26 2)
  let sidx : W64 := BitVec.ofNat 64 (field v 128 8)
  let d : CopyDesc := { dst := BitVec.ofNat 64 (field v 0 8), src := BitVec.ofNat 64 (field v 8 8), cctl := cctl,
                        x := rout == 2, levels := levels }
  let lines := linesOf false ((d.writes 512).map (fun w => match w.1 with
    | .rspm _ a => (Loc.spm a, w.2)
    | o => (o, w.2)))
  let held : Core := { banks := (List.range 16).map (fun b => (b, BankState.held)) }
  if (rout != 1 && rout != 2) || field v 28 4 != 0 || field v 104 24 != 0 || field v 136 8 != 0
    || (List.range 6).any (fun k => decide (2 ^ 20 ≤ field v (32 + 12 * k) 4)) || decide (63 < h)
    || cctl.extractLsb' 16 16 != 0 || cctl.extractLsb' 0 5 != 0
    || (spaceOf d.src != 0 && sidx != 0)
    || held.copyCheck nullGen 512 d h != 0
    || (List.range 16).any (fun b => banks.getLsbD b != lines.any (fun l => l / 256 == b))
    || lines.any (fun l => decide (128 * l < spdn))
  then none
  else some ⟨d, h, banks, sidx⟩
/-- The bytes of a word list, as the numbers of R432: the first 32 bytes of SHAKE256 over `H40LATv1` and the table. -/
def latencySignature (table : List Byte) : BitVec 256 :=
  let h := shake256 32 ([0x48, 0x34, 0x30, 0x4C, 0x41, 0x54, 0x76, 0x31] ++ table)
  BitVec.ofNat 256 (h.foldr (fun b x => b.toNat + 256 * x) 0)
/-- Parameter entry k of a header. -/
def paramOf (h k : Nat) : Nat × Bool × W64 :=
  (field h (128 + 16 * k) 1, decide (field h (129 + 16 * k) 1 % 2 = 1), BitVec.ofNat 64 (field h (136 + 16 * k) 8))
/-- No number of a list stands twice in it. -/
def allDistinct : List Nat → Bool
  | [] => true
  | x :: t => !t.contains x && allDistinct t
/-- What a header of 384 bytes says by itself (R431, R433), the preload block apart. -/
def headerOk (h narg privs : Nat) : Bool :=
  let f := field h 6 2
  let npar := field h 73 1
  let ps := (List.range npar).map (paramOf h)
  field h 0 4 == 0x4E303448 && field h 4 2 == 1 && decide (f < 16) && field h 75 1 == 0 && field h 120 8 == 0
    && (f / 8 % 2 == 1 || (field h 74 1 == 0 && field h 80 8 == 0 && field h 88 32 == 0))
    && (List.range 16).all (fun k => decide (field h (129 + 16 * k) 1 < 2) && field h (130 + 16 * k) 6 == 0)
    && field h 48 4 % 16 == 0 && field h 52 4 % 16 == 0 && decide (16 ≤ field h 52 4) && decide (field h 52 4 ≤ 2 ^ 24)
    && field h 56 4 % 16 == 0 && decide (field h 56 4 < field h 52 4) && decide (field h 64 4 ≤ 524288)
    && field h 68 4 % 16 == 0 && decide (field h 72 1 ≤ 8) && (field h 72 1 == 0 || field h 68 4 != 0)
    && decide (npar ≤ 16) && ps.all (fun p => p.1 != 0 && p.1 != 62 && decide (p.1 < 64)) && allDistinct (ps.map (·.1))
    && ps.zipIdx.all (fun p => p.1.2.1 || decide (p.2 < narg)) && decide (field h 76 4 ≤ privs)
/-- The image of a node as the command processor of die d accepts it for tenancy t (R433, R434): an error 0 waits,
another is an uncorrectable error; none where it is refused. -/
def State.imageOf (s : State) (d t a narg privs : Nat) : Except Nat (Option ImageInfo) :=
  if a % 256 ≠ 0 then .ok none
  else match s.cpWords d (some t) a 48 with
    | .error f => if f = 0 || f = walkError then .error f else .ok none
    | .ok h =>
      let sig : BitVec 256 := BitVec.ofNat 256 (field h 16 32)
      let f := field h 6 2
      let forced := f / 2 % 2 == 1 && (s.die d).debugTens.contains t
      let pren := field h 72 1
      let spdn := field h 64 4
      let codes := s.spanCodes d (some t) (a + field h 48 4) (field h 52 4) .fetch
        ++ s.spanCodes d (some t) (a + field h 48 4) (field h 52 4) .read
        ++ s.spanCodes d (some t) (a + field h 60 4) spdn .read
        ++ s.spanCodes d (some t) (a + field h 68 4) (144 * pren) .read
        ++ s.spanCodes d (some t) (a + field h 80 4) (4 * field h 84 4) .read
      if !headerOk h narg privs || (sig != s.trust.lattHash && !forced) then .ok none
      else if codes.contains 0 then .error 0
      else if !codes.isEmpty then .ok none
      else match s.cpWords d (some t) (a + field h 68 4) (18 * pren) with
        | .error f => .error f
        | .ok v =>
          let ps := (List.range pren).map (fun i => preloadOf (field v (144 * i) 144) spdn)
          if ps.any Option.isNone then .ok none
          else .ok (some {
            idem := decide (f % 2 = 1), bkg := decide (f / 4 % 2 = 1), texto := field h 48 4, textn := field h 52 4
            entry := field h 56 4, spdo := field h 60 4, spdn := spdn
            params := (List.range (field h 73 1)).map (paramOf h), pre := ps.filterMap id })

/-! ### Launch records (R368-R371) -/

/-- Chunks of a node. -/
def Node.chunks (n : Node) : Nat := (n.nidx + n.chunk - 1) / n.chunk
/-- First index of chunk k and the indices it covers (R369). -/
def Node.indices (n : Node) (k : Nat) : List Nat :=
  (List.range (min n.chunk (n.nidx - k * n.chunk))).map (fun i => k * n.chunk + i)
/-- Does the mask of a node admit core c (R369)? -/
def Node.admits (n : Node) (c : Nat) : Bool := n.cores == 0 || n.cores.getLsbD (c % 64)
/-- The dies of a launch packet (R364): DIEMASK, zero for the home die alone. -/
def launchDies (mask : Byte) (home : Nat) : List Nat :=
  if mask = 0 then [home] else (List.range 8).filter (fun k => mask.getLsbD k)
/-- Does the tenancy hold, on die e, a core that the mask names? -/
def State.holdsCore (s : State) (t e : Nat) (m : W64) : Bool :=
  m == 0 || (List.range 64).any (fun n => m.getLsbD n && (s.core (64 * e + n)).ten == some t)
/-- Node entry j of 192 bytes, its index count replaced where LAUNCHI gives one; an error 0 waits, 7 is a refusal, 5
an uncorrectable error (R367, R371). -/
def State.nodeOf (s : State) (d t j v : Nat) (dies : List Nat) (nidx : Option Nat) : Except Nat Node :=
  let chunk := field v 12 1
  let narg := field v 13 1
  let privs := field v 32 4
  let cores : W64 := BitVec.ofNat 64 (field v 48 8)
  if field v 14 2 ≠ 0 || field v 56 8 ≠ 0 || chunk = 0 || 64 < chunk || 16 < narg || field v 16 8 / 2 ^ j ≠ 0
    || privs % 128 ≠ 0 || !dies.all (fun e => s.holdsCore t e cores) then .error 7
  else match s.imageOf d t (field v 0 8) narg privs with
    | .error f => .error (if f = 0 then 0 else 5)
    | .ok none => .error 7
    | .ok (some i) => .ok {
        image := BitVec.ofNat 64 (field v 0 8), nidx := nidx.getD (field v 8 4), chunk := chunk, narg := narg
        pred := BitVec.ofNat 64 (field v 16 8), privb := BitVec.ofNat 64 (field v 24 8), privs := privs
        mapoff := field v 36 4, cores := cores
        args := (List.range narg).map (fun k => BitVec.ofNat 64 (field v (64 + 8 * k) 8)), img := i }
/-- Node entries j to j + n - 1 of a record. -/
def State.nodesOf (s : State) (d t : Nat) (v : Nat) (dies : List Nat) (counts : Option Nat) :
    Nat → Nat → Except Nat (List Node)
  | _, 0 => .ok []
  | j, n + 1 =>
    match s.nodeOf d t j (field v (192 * j) 192) dies (counts.map (fun c => c / 2 ^ (32 * j) % 2 ^ 32)) with
    | .error f => .error f
    | .ok x => match s.nodesOf d t v dies counts (j + 1) n with
      | .error f => .error f
      | .ok r => .ok (x :: r)
/-- Do the bitmap ranges of two nodes of a list overlap? The range of a node without chunks is empty (R371). -/
def mapsMeet : List Node → Bool
  | [] => false
  | x :: t => t.any (fun y => x.chunks != 0 && y.chunks != 0 && meets x.mapoff x.chunks y.mapoff y.chunks) || mapsMeet t
/-- A stream-fault code for a read of a packet: 0 waits (R365). -/
def readCode (f : Nat) : Nat := if f = 0 then 0 else 5
/-- The NODES counts of LAUNCHI at an address, 4 bytes each. -/
def State.countsAt (s : State) (d t : Nat) (a : W64) : Nat → Except Nat Nat
  | 0 => .ok 0
  | n + 1 =>
    match s.cpRead d (some t) a.toNat 4 with
    | .error f => .error f
    | .ok w => match s.countsAt d t (a + 4) n with
      | .error f => .error f
      | .ok r => .ok (w + 2 ^ 32 * r)
/-- The launch that a packet of queue q of die d names (R368-R371, R387), slot and table apart. -/
def State.launchOf (s : State) (d q t : Nat) (mask : Byte) (lrec : W64) (inda : Option W64) : Except Nat Launch :=
  let dies := launchDies mask d
  if !dies.contains d then .error 8
  else if lrec.toNat % 64 ≠ 0 then .error 5
  else match s.cpWords d (some t) lrec.toNat 8 with
    | .error f => .error (readCode f)
    | .ok h =>
      let n := field h 0 1
      if n = 0 || 64 < n || field h 1 7 ≠ 0 || field h 40 24 ≠ 0 || field h 32 8 ≠ 0 then .error 7
      else if field h 8 8 % 8 ≠ 0 || field h 16 8 % 8 ≠ 0 then .error 5
      else match (show Except Nat (Option Nat) from match inda with
          | none => .ok none
          | some a => if a.toNat % 4 ≠ 0 then .error 5 else match s.countsAt d t a n with
            | .error f => .error (readCode f)
            | .ok c => .ok (some c)) with
        | .error f => .error f
        | .ok counts => match s.cpWords d (some t) (lrec.toNat + 64) (24 * n) with
          | .error f => .error (readCode f)
          | .ok v => match s.nodesOf d t v dies counts 0 n with
            | .error f => .error f
            | .ok nodes =>
              if mapsMeet nodes then .error 7
              else if mask != 0 && dies != [d] && (!nodes.all (fun x => x.img.idem) || dies.any (fun e =>
                !(s.die e).released || (Sparse.get none t (s.die e).recs).isNone || !s.reaches d e)) then .error 8
              else .ok {
                id := s.nextLaunch, ten := t, gen := s.genOn d t, lrec := lrec, queue := q
                packet := 0, home := d, issuer := d, live := dies.foldl (fun m e => m ||| (1#8 <<< e)) 0#8, nodes := nodes
                mapa := BitVec.ofNat 64 (field h 8 8), donea := BitVec.ofNat 64 (field h 16 8)
                donev := BitVec.ofNat 64 (field h 24 8), next := nodes.map (fun _ => 0)
                bkg := nodes.all (fun x => x.img.bkg) }

/-! ### The launch table -/

/-- The lowest free launch slot of a die. -/
def Die.freeSlot (x : Die) : Option Nat := (List.range 16).find? (fun n => (x.launch n).isNone)
/-- Put a launch into the lowest free slot of die e. -/
def State.placeLaunch (s : State) (e : Nat) (l : Launch) : State :=
  s.updDie e (fun x => match x.freeSlot with
    | none => x
    | some n => { x with launches := Sparse.put none n (some l) x.launches })
/-- Reserve a slot on each die, in increasing order, the master's copy joined and the followers' not (R386). -/
def State.startLaunch (s : State) (dies : List Nat) (l : Launch) : State :=
  let s1 := dies.foldl (fun s e => s.placeLaunch e { l with joined := decide (e = l.home) }) s
  { s1 with nextLaunch := s.nextLaunch + 1 }
/-- The slot of die e that holds launch id. -/
def Die.slotOf (x : Die) (id : Nat) : Option Nat :=
  (List.range 16).find? (fun n => match x.launch n with
    | some l => l.id == id
    | none => false)
/-- Change every copy of a launch. -/
def State.updCopies (s : State) (id : Nat) (f : Launch → Launch) : State :=
  let g := fun (_ : Nat) (l : Option Launch) => l.map (fun l => if l.id = id then f l else l)
  { s with dies := Sparse.mapVals {} (fun _ x => { x with launches := Sparse.mapVals none g x.launches }) s.dies }
/-- The copy of a launch that its master holds. -/
def State.masterOf (s : State) (l : Launch) : Option Launch :=
  match (s.die l.home).slotOf l.id with
  | none => none
  | some n => (s.die l.home).launch n
/-- Launches of queue q of die d in flight: those whose packet it started, until they end (R363). -/
def State.inFlightOf (s : State) (d q : Nat) : Nat :=
  ((List.range 16).filter (fun n => match (s.die d).launch n with
    | some l => l.issuer == d && l.queue == q
    | none => false)).length

end Sys2Proof.Machine
end

