-- ==== Sys2Proof/Machine/Distributor.lean ====
section
/-! DEFINITION. The distributor (spec 16 R373-R391): replay capture (spec 17 R409, R410), the order of next tasks, task
entry, the end of a task and its brick, chunks and their marks, the end of a launch, splits and the quorum rule. -/
namespace Sys2Proof.Machine

/-! ### Replay capture (R409, R410) -/

/-- A decision of the distributor or the command processor. -/
structure Rec where
  kind : Nat
  core : Nat := 0xFF
  slot : Nat := 0xFF
  node : Nat := 0xFF
  index : Nat := 0
  value : Nat := 0
  deriving DecidableEq, Repr

/-- Its 16 bytes, decision number n of the log. -/
def Rec.word (r : Rec) (n : Nat) : Nat :=
  packFields [(1, r.kind), (1, r.core), (1, r.slot), (1, r.node), (4, r.index), (4, r.value), (4, n)]
/-- What comes of a decision: it is made, it waits for the log, or the replay stops. -/
inductive Decision where
  | go (s : State)
  | wait
  | stop (s : State)
/-- Where decision n of a log stands. -/
def Replay.slot (r : Replay) (n : Nat) : Nat := r.base.toNat + 16 * (n % 2 ^ r.log)
/-- The record of a log at decision n. -/
def State.logged (s : State) (r : Replay) (n : Nat) : Nat := s.read platformGen (r.slot n) 16
/-- Must die d wait before it reaches m records of a log from decision n on (R323, R336, R415)? -/
def State.logHeld (s : State) (d : Nat) (r : Replay) (n m : Nat) : Bool :=
  (List.range m).any (fun i => s.dlaHeld d (r.slot (n + i)))
/-- Append decisions to a log that has room for them; a record whose home has no way left is lost (log entry 19). -/
def State.append (s : State) (d t : Nat) (r : Replay) : List Rec → State
  | [] => s.updDie d (fun x => { x with replays := Sparse.put none t (some r) x.replays })
  | e :: rest =>
    ((s.dlaWrite d (r.slot r.tail) 16 (e.word r.tail)).toOption.getD s).append d t { r with tail := r.tail + 1 } rest
/-- Is chunk k of node j still to be given out? -/
def Launch.chunkLeft (l : Launch) (j k : Nat) : Bool := l.reissue.contains (j, k) || decide (l.next.getD j 0 ≤ k)
/-- Does a released chunk of die d, or one that a core of it holds, still have an index that p picks? -/
def State.kept (s : State) (d : Nat) (p : Held → Bool) : Bool :=
  (s.die d).freed.any p || s.cores.any (fun e => dieOf e.1 == d && e.2.chunks.any p)
/-- Is index i of node j of launch l still to be run to its end on die d: its chunk has it left or is to be given out, or a
task or brick of the die is for it? -/
def State.available (s : State) (d : Nat) (l : Launch) (j i : Nat) : Bool :=
  let mine := fun (t : Task) => t.lid == l.id && t.node == j && t.index == i
  s.kept d (fun h => h.lid == l.id && h.node == j && h.left.contains i)
    || (s.die d).bricks.any (fun b => mine b.task)
    || s.cores.any (fun e => dieOf e.1 == d && (e.2.task.any mine || e.2.nextTask.any mine || e.2.own.any mine))
    || (match l.nodes[j]? with
      | none => false
      | some n => decide (i < n.nidx) && l.chunkLeft j (i / n.chunk))
/-- Can the logged decision w not be made (R410): its core is not the tenancy's, its index or chunk is not available, or its
launch record has no such node? -/
def State.cannot (s : State) (d t w : Nat) : Bool :=
  let kind := field w 0 1
  let core := field w 1 1
  let j := field w 3 1
  let i := field w 4 4
  (core != 0xFF && decide ((s.core (64 * d + core)).ten ≠ some t))
    || (match (s.die d).launch (field w 2 1) with
      | none => false
      | some l => decide (kind < 6 ∨ kind = 8) && (match l.nodes[j]? with
        | none => true
        | some n =>
          if kind = 8 then decide (n.chunks ≤ i)
          else if kind = 1 || kind = 5 then decide (n.chunks ≤ i) || !(l.chunkLeft j i
            || s.kept d (fun h => h.lid == l.id && h.node == j && h.chunk == i))
          else (kind != 4 || i != 0xFFFFFFFF) && !s.available d l j i))
/-- A logged decision cannot be made: the replay stops, the launch fails and its queue takes the fault (R410). -/
def State.diverge (s : State) (d t w : Nat) (queue : Option Nat) : State :=
  let s1 := s.updDie d (fun x => { x with replays := Sparse.put none t none x.replays })
  match (s.die d).launch (field w 2 1), queue with
  | some l, _ => (s1.failLaunch l.id).streamFault l.issuer l.queue 0x0B
  | none, some q => (match (s1.queue d q).wait with
    | .mem _ _ _ _ => s1.waitFault d q 0x0B
    | _ => s1.streamFault d q 0x0B)
  | none, none => s1
/-- Are decisions the next ones of a replay's log? -/
def State.matchesLog (s : State) (r : Replay) (rs : List Rec) : Bool :=
  decide (r.head + rs.length ≤ r.tail)
    && rs.zipIdx.all (fun e => s.logged r (r.head + e.2) == e.1.word (r.head + e.2))
/-- What comes of a decision that is not the log's next: it waits, and the replay stops where the log's next one cannot be
made (R410). -/
def State.stuck (s : State) (d t : Nat) (r : Replay) (queue : Option Nat) : Decision :=
  if decide (r.head < r.tail) && !s.logHeld d r r.head 1 && s.cannot d t (s.logged r r.head) then .stop (s.diverge d t (s.logged r r.head) queue)
  else .wait
/-- Make decisions of tenancy t on die d under its capture or replay, the state after them being s'. They wait while the log
has no space, or its memory cannot be reached yet. -/
def State.logging (s : State) (d t : Nat) (queue : Option Nat) (rs : List Rec) (s' : State) : Decision :=
  match Sparse.get none t (s.die d).replays with
  | none => .go s'
  | some r =>
    if !r.replay then
      if r.head + 2 ^ r.log < r.tail + rs.length || s.logHeld d r r.tail rs.length then .wait else .go (s'.append d t r rs)
    else if s.logHeld d r r.head rs.length then .wait
    else if s.matchesLog r rs then
      .go (s'.updDie d (fun x => { x with replays := Sparse.put none t (some { r with head := r.head + rs.length }) x.replays }))
    else s.stuck d t r queue
/-- The replay of tenancy t on die d, where one is on. -/
def State.replaying (s : State) (d t : Nat) : Option Replay :=
  match Sparse.get none t (s.die d).replays with
  | some r => if r.replay then some r else none
  | none => none
/-- The next decision of a replay's log. -/
def State.nextLogged (s : State) (r : Replay) : Option Nat :=
  if r.head < r.tail then some (s.logged r r.head) else none
/-- Of several choices, each a state and the decisions that lead to it or none where it cannot be made yet, the first; under a
replay the one that the log records (R410). -/
def State.choose (s : State) (d t : Nat) (cs : List (Option (State × List Rec))) : Decision :=
  match s.replaying d t with
  | none => (match cs with
    | some c :: _ => s.logging d t none c.2 c.1
    | _ => .wait)
  | some r => (match cs.find? (fun c => match c with
      | some c => s.matchesLog r c.2
      | none => false) with
    | some (some c) => s.logging d t none c.2 c.1
    | _ => s.stuck d t r none)
/-- The state after a decision. -/
def State.after (s : State) : Decision → State
  | .go s' => s'
  | .wait => s
  | .stop s' => s'

/-! ### Failures of the distributor's accesses (R387) -/

/-- The report of an access to a launch's record that failed with translation fault f. -/
def State.recordFault (s : State) (_d slot : Nat) (l : Launch) (f addr : Nat) : FaultInfo :=
  { kind := 0x10, cause := if f = walkError then 8 else 7, sub := if f = walkError then 0 else f, ten := l.ten
    inc := s.incarnation l.ten l.gen, slot := slot, addr := addr }
/-- Such an access concerns chunk k of node j: each of its indices is reported, and the launch fails. -/
def State.chunkFault (s : State) (d slot : Nat) (l : Launch) (j k f addr : Nat) : State :=
  let is := match l.nodes[j]? with
    | some n => n.indices k
    | none => []
  (is.foldl (fun s i => s.report d { (s.recordFault d slot l f addr) with index := i, node := j }) s).failLaunch l.id
/-- A write to a launch's record; a fault is reported and fails the launch. None while it waits. -/
def State.recordWrite (s : State) (d slot : Nat) (l : Launch) (a n v : Nat) : Option State :=
  match s.homeWrite d (some l.ten) a n v with
  | .ok s1 => some s1
  | .error f => if f = 0 then none else some ((s.report d (s.recordFault d slot l f a)).failLaunch l.id)
/-- Report each index of a task or brick x of tenancy t, under its incarnation, on die d (R406). -/
def State.reportIndices (s : State) (d kind t inc : Nat) (x : Task) : State :=
  x.indices.foldl (fun s i => s.report d { kind := kind, ten := t, inc := inc, index := i, node := x.node, slot := x.slot
                                           seq := x.token }) s
/-- The preloads of a next task that goes: those that run, to be dropped when they end (R394). -/
def Core.orphans (k : Core) : List Staged :=
  (k.staging.filter (fun r => r.op.isSome && r.held.st == .filling)).map (fun r => { r with orphan := true })
/-- The next task of core k goes with its preloads: those that have ended are dropped at once, and the banks that no other one
fills become HELD by no one (R394). -/
def Core.dropStaging (k : Core) : Core := { k with staging := k.orphans }.settlePreloads
/-- Core c's fixed next task, and the brick it is to resume itself, go where p picks them, each index with its record (R390,
R406). -/
def State.dropFixed (s : State) (c kind : Nat) (p : Task → Bool) : State :=
  let d := dieOf c
  let k := s.core c
  let t := k.ten.getD 0xFFFF
  let gone := (k.nextTask.toList ++ k.own.toList).filter p
  (gone.foldl (fun s x => s.reportIndices d kind t (s.incarnation t (s.genOn d t)) x) s).updCore c (fun k => {
    (if k.nextTask.any p then k.dropStaging else k) with
      nextTask := k.nextTask.filter (fun x => !p x), own := k.own.filter (fun x => !p x) })
/-- What die d and its cores hold of launch id beside the running tasks: bricks and fixed tasks, each index with a record of
the kind, and chunks. -/
def State.dropWork (s : State) (d kind id : Nat) : State :=
  let mine := fun (t : Task) => t.lid == id
  let s1 := ((s.cores.map Prod.fst).filter (fun c => dieOf c == d)).foldl (fun s c =>
    (s.dropFixed c kind mine).updCore c (fun k => { k with chunks := k.chunks.filter (fun h => h.lid != id) })) s
  (((s.die d).bricks.filter (fun b => mine b.task)).foldl (fun s b => s.reportIndices d kind b.ten
    (b.gen.toNat * 2 ^ 48 + b.serial) b.task) s1).updDie d (fun x => { x with
      bricks := x.bricks.filter (fun b => !mine b.task), freed := x.freed.filter (fun h => h.lid != id) })

/-! ### The order of next tasks (R373, R446) -/

/-- The launch in slot n of die d, if it is launch lid and still gives out work there. -/
def State.launchAt (s : State) (d n lid : Nat) : Option Launch :=
  match (s.die d).launch n with
  | some l => if l.id = lid && !l.failed && l.joined && !l.fenced then some l else none
  | none => none
/-- Does node j of a live launch admit core c? -/
def State.admitted (s : State) (c n lid j : Nat) : Bool :=
  match s.launchAt (dieOf c) n lid with
  | none => false
  | some l => match l.nodes[j]? with
    | none => false
    | some x => x.admits c
/-- Is every chunk of node i marked? -/
def Launch.nodeDone (l : Launch) (i : Nat) : Bool :=
  match l.nodes[i]? with
  | none => true
  | some n => (l.marked.filter (fun m => m.1 == i)).length == n.chunks
/-- Are the predecessors of node j complete? -/
def Launch.ready (l : Launch) (j : Nat) : Bool :=
  match l.nodes[j]? with
  | none => false
  | some n => (List.range j).all (fun i => !n.pred.getLsbD i || l.nodeDone i)
/-- The chunks that a launch could give core c now, the one R373 and R391 take first: reissued ones, then chunk NEXT of each
node, the lowest node first. -/
def Launch.offers (l : Launch) (c : Nat) : List (Nat × Nat) :=
  let fits := fun j => l.ready j && (match l.nodes[j]? with
    | none => false
    | some n => n.admits c)
  l.reissue.filter (fun r => fits r.1)
    ++ (((List.range l.nodes.length).filter fits).map (fun j => (j, l.next.getD j 0))).filter (fun r =>
      match l.nodes[r.1]? with
      | none => false
      | some n => decide (r.2 < n.chunks))
/-- Where a core's next task comes from. -/
inductive Source1 where
  /-- a brick of the die, by its place -/
  | brick (i : Nat)
  /-- the next index of a chunk that the core holds -/
  | held (i : Nat)
  /-- a released chunk -/
  | freed (i : Nat)
  /-- a new chunk: launch slot, node, chunk -/
  | chunk (slot node k : Nat)
  deriving DecidableEq, Repr

/-- The launches of tenancy t on die d that give out work, the background ones last, oldest first. -/
def State.liveLaunches (s : State) (d t : Nat) : List (Nat × Launch) :=
  let ls := (List.range 16).filterMap (fun n => match (s.die d).launch n with
    | some l => if l.ten = t && (s.launchAt d n l.id).isSome then some (n, l) else none
    | none => none)
  let before := fun (a b : Nat × Launch) => (!a.2.bkg && b.2.bkg) || (a.2.bkg == b.2.bkg && decide (a.2.id ≤ b.2.id))
  ls.foldl (fun acc x => acc.takeWhile (fun y => before y x) ++ x :: acc.dropWhile (fun y => before y x)) []
/-- The incarnation under which a brick was written (R345). -/
def Brick.incarnation (b : Brick) : Nat := b.gen.toNat * 2 ^ 48 + b.serial
/-- The sources that core c's next task could have now, the one R373 takes first. -/
def State.sources (s : State) (c : Nat) : List Source1 :=
  let d := dieOf c
  let k := s.core c
  match k.ten with
  | none => []
  | some t =>
    let now := s.incarnation t (s.genOn d t)
    let fit := fun (b : Brick) => b.ten == t && b.ready && b.incarnation == now && s.admitted c b.task.slot b.task.lid b.task.node
    let bkg := fun (b : Brick) => match (s.die d).launch b.task.slot with
      | some l => l.bkg
      | none => false
    let bricks := (s.die d).bricks.zipIdx.filter (fun b => fit b.1)
    let mine := fun (h : Held) => !h.left.isEmpty && s.admitted c h.slot h.lid h.node
    let lent := fun (h : Held) => mine h && (match (s.die d).launch h.slot with
      | some l => l.ten == t
      | none => false)
    (bricks.filter (fun b => !bkg b.1) ++ bricks.filter (fun b => bkg b.1)).map (fun b => .brick b.2)
      ++ (k.chunks.zipIdx.filter (fun h => mine h.1)).map (fun h => .held h.2)
      ++ ((s.die d).freed.zipIdx.filter (fun h => lent h.1)).map (fun h => .freed h.2)
      ++ (s.liveLaunches d t).flatMap (fun x => (x.2.offers c).map (fun r => .chunk x.1 r.1 r.2))
/-- The source of core c's next task (R373). -/
def State.pick (s : State) (c : Nat) : Option Source1 := (s.sources c).head?
/-- The first brick of tenancy t on die d whose incarnation is not its current one. -/
def State.staleBrick (s : State) (d t : Nat) : Option Brick :=
  (s.die d).bricks.find? (fun b => b.ten == t && b.incarnation != s.incarnation t (s.genOn d t))
/-- It is refused where the distributor meets it (R355, R381). -/
def State.refuseBrick (s : State) (d : Nat) (b : Brick) : State :=
  (s.reportIndices d 0x07 b.ten b.incarnation b.task).updDie d (fun x => { x with bricks := x.bricks.erase b })

/-- A fresh task of an index, with a token of the die. -/
def State.freshTask (s : State) (d slot lid j i : Nat) : Task × State :=
  let n := (s.die d).nextToken
  ({ index := i, node := j, slot := slot, lid := lid, token := n },
   s.updDie d (fun x => { x with nextToken := (n + 1) % 65536 }))
/-- Where NEXT of node j lies in memory (R369). -/
def Launch.nextAddr (l : Launch) (j : Nat) : Nat := l.lrec.toNat + 64 + 192 * j + 40
/-- Must the giving out of chunk k of node j wait for the write of NEXT? -/
def State.chunkHeld (s : State) (l : Launch) (j k : Nat) : Bool :=
  !l.reissue.contains (j, k) && s.homeHeld l.home (some l.ten) (l.nextAddr j)
/-- Chunk k of node j is given out to die d (R373, R386, R391): NEXT rises, in the record too, unless the chunk is
reissued. -/
def State.openChunk (s : State) (d slot : Nat) (l : Launch) (j k : Nat) : State :=
  let again := l.reissue.contains (j, k)
  let s1 := s.updCopies l.id (fun x => if again then { x with reissue := x.reissue.filter (fun r => r != (j, k)) }
    else { x with next := x.next.set j (k + 1) })
  let s2 := if again then s1
    else match s1.homeWrite l.home (some l.ten) (l.nextAddr j) 4 (k + 1) with
      | .ok s2 => s2
      | .error f => s1.chunkFault l.home slot l j k f (l.nextAddr j)
  let n := match l.nodes[j]? with
    | some n => (n.indices k).length
    | none => 0
  s2.updLaunch d slot (fun x => { x with opened := x.opened ++ [(j, k, n)] })
/-- The indices of chunk k of node j of a launch. -/
def Launch.indices (l : Launch) (j k : Nat) : List Nat :=
  match l.nodes[j]? with
  | some n => n.indices k
  | none => []
/-- Take the first index of held chunk h for core c. -/
def State.takeIndex (s : State) (c : Nat) (h : Held) : Option (Task × State) :=
  match h.left with
  | [] => none
  | i :: rest =>
    let r := s.freshTask (dieOf c) h.slot h.lid h.node i
    some (r.1, r.2.updCore c (fun k => { k with chunks := (if rest.isEmpty then [] else [{ h with left := rest }]) ++ k.chunks }))
/-- Take a source for core c: the task and the decisions made; none where a follower must first claim, or where NEXT cannot
be written yet. -/
def State.takeSource (s : State) (c : Nat) (src : Source1) : Option (Task × State × List Rec) :=
  let d := dieOf c
  let fixed := fun (t : Task) => ({ kind := 2, core := c % 64, slot := t.slot, node := t.node, index := t.index, value := t.token } : Rec)
  match src with
  | .brick i => (match (s.die d).bricks[i]? with
    | none => none
    | some b => some (b.task, s.updDie d (fun x => { x with bricks := x.bricks.eraseIdx i }), [fixed b.task]))
  | .held i => (match (s.core c).chunks[i]? with
    | none => none
    | some h => match (s.updCore c (fun k => { k with chunks := k.chunks.eraseIdx i })).takeIndex c h with
      | none => none
      | some r => some (r.1, r.2, [fixed r.1]))
  | .freed i => (match (s.die d).freed[i]? with
    | none => none
    | some h => match (s.updDie d (fun x => { x with freed := x.freed.eraseIdx i })).takeIndex c h with
      | none => none
      | some r => some (r.1, r.2, [{ kind := 1, core := c % 64, slot := h.slot, node := h.node, index := h.chunk }, fixed r.1]))
  | .chunk slot j k => (match (s.die d).launch slot with
    | none => none
    | some l =>
      if l.home ≠ d || s.chunkHeld l j k then none
      else match (s.openChunk d slot l j k).takeIndex c ⟨slot, l.id, j, k, l.indices j k⟩ with
        | none => none
        | some r => some (r.1, r.2, [{ kind := 1, core := c % 64, slot := slot, node := j, index := k }, fixed r.1]))
/-- Preload entry p of a task of index i: its source moved by i times SIDX (R384). -/
def Preload.staged (p : Preload) (i : Nat) : Staged :=
  let src : W64 := if spaceOf p.desc.src = 0 then
      ((p.desc.src + BitVec.ofNat 64 i * p.sidx).setWidth 48).setWidth 64 else p.desc.src
  { desc := { p.desc with src := src }, handle := p.handle, banks := p.banks }
/-- The node of a task. -/
def State.nodeOfTask (s : State) (d : Nat) (t : Task) : Option Node :=
  match s.launchAt d t.slot t.lid with
  | none => none
  | some l => l.nodes[t.node]?
/-- Under a replay a fresh task takes the token that the log gives the next task fixed (R410). -/
def State.loggedToken (s : State) (d t : Nat) : State :=
  match s.replaying d t with
  | none => s
  | some r => match ((List.range (min 3 (r.tail - r.head))).map (fun i => s.logged r (r.head + i))).find? (fun w => field w 0 1 == 2) with
    | some w => s.updDie d (fun x => { x with nextToken := field w 8 4 % 65536 })
    | none => s
/-- A source is core c's next task (R373), and its preloads are staged (R200): the state and the decisions. -/
def State.fixFrom (s : State) (c t : Nat) (src : Source1) : Option (State × List Rec) :=
  let d := dieOf c
  let s0 := match src with
    | .brick _ => s
    | _ => s.loggedToken d t
  match s0.takeSource c src with
  | none => none
  | some (x, s1, rs) =>
    let st := if x.brick.isSome then [] else match s1.nodeOfTask d x with
      | none => []
      | some n => n.img.pre.map (fun p => p.staged x.index)
    some (s1.updCore c (fun k => { k with nextTask := some x, staging := k.staging.filter (·.orphan) ++ st }), rs)
/-- The distributor fixes core c's next task (R373). -/
def State.fixNext (s : State) (c : Nat) : Decision :=
  match (s.core c).ten with
  | none => .wait
  | some t => s.choose (dieOf c) t ((s.sources c).map (s.fixFrom c t))
/-- A follower's claim of chunk k of node j from the master (R386): the state and the decisions. -/
def State.claimChunk (s : State) (c : Nat) (src : Source1) : Option (State × List Rec) :=
  let d := dieOf c
  match src with
  | .chunk slot j k => (match (s.die d).launch slot with
    | none => none
    | some l =>
      if l.home = d || !s.reaches d l.home || s.chunkHeld l j k then none
      else
        let h : Held := ⟨slot, l.id, j, k, l.indices j k⟩
        some ((s.openChunk d slot l j k).updCore c (fun x => { x with chunks := h :: x.chunks }),
          [{ kind := 5, slot := slot, node := j, index := k }, { kind := 1, core := c % 64, slot := slot, node := j, index := k }]))
  | _ => none
/-- A follower claims from the master the chunk that core c would take (R386). -/
def execChunkClaim (core : Nat) (s : State) : Out :=
  match (s.core core).ten with
  | none => ok s
  | some t => ok (s.after (s.choose (dieOf core) t ((s.sources core).map (s.claimChunk core))))

/-! ### Task entry (R374, R381, R435) -/

/-- n bytes of global memory from a virtual address, granule by granule, as the distributor reads them (R365): an error 0
waits, another names the fault. -/
def State.imageRun (s : State) (d t : Nat) : Nat → Nat → Nat → Except Nat Nat
  | 0, _, _ => .ok 0
  | fuel + 1, a, n =>
    let m := min n (128 - a % 128)
    if n = 0 then .ok 0
    else match s.cpRead d (some t) a m with
      | .error f => .error f
      | .ok v => match s.imageRun d t fuel (a + m) (n - m) with
        | .error f => .error f
        | .ok r => .ok (v + 2 ^ (8 * m) * r)
/-- Write the spdata of n bytes into the scratchpad from address 0 (R435). -/
def Core.putSpdata (k : Core) (g : Hm) (n v : Nat) : Core :=
  (List.range ((n + 127) / 128)).foldl (fun k i =>
    k.writeSpm g i 0 (min 128 (n - 128 * i)) (BitVec.ofNat 1024 (v / 2 ^ (1024 * i)))) k
/-- The scalar registers of a task at its entry (R69, R374, R381). -/
def entryRegs (g : Hm) (t : Task) (n : Node) : Sparse HReg :=
  let m0 := n.img.params.zipIdx.foldl (fun m p =>
    Sparse.put {} p.1.1 ⟨if p.2 < n.narg then n.args.getD p.2 0 else p.1.2.2, g⟩ m) []
  let m1 := Sparse.put {} 62 ⟨n.privb + BitVec.ofNat 64 (t.index * n.privs), g⟩ m0
  match t.brick with
  | none => m1
  | some b => (List.range 6).foldl (fun m i => Sparse.put {} (i + 1) ⟨b.1.getD i 0, g⟩ m) m1
/-- The banks at entry: HELD, but for those a preload of a fresh task still fills (R200, R381, R385). -/
def Core.entryBanks (k : Core) (fresh : Bool) : Sparse BankState :=
  (List.range 16).map (fun b => (b, if fresh && k.preloads.any (fun p => p.2.getLsbD b) then .preloading else .held))
/-- Every handle is FREE, and the staging records of a fresh task are installed in theirs under generation g (R200). A brick
has none: those of the next task that a core's own brick displaces stay staged (R381, R383). -/
def Core.install (k : Core) (g : Hm) (fresh : Bool) : Core :=
  let own := fun (r : Staged) => fresh && !r.orphan
  let mine := k.staging.filter own
  let hs := mine.foldl (fun m r => Sparse.put {} r.handle { r.held with hm := g, desc := some r.desc } m) []
  let of := fun (op : Nat) => mine.find? (fun r => r.op == some op)
  let copies := k.copies.map (fun x => match x.obj with
    | .staging op => (match of op with
      | some r => { x with obj := .handle r.handle }
      | none => x)
    | _ => x)
  let running := copies.filter (fun x => !x.left && (match x.obj with | .handle _ => true | _ => false))
  let gone := mine.filter (fun r => copies.all (fun x => some x.id != r.op || x.left))
  { k with handles := hs, copies := copies, ncp := BitVec.ofNat 12 running.length, staging := k.staging.filter (fun r => !own r)
           threads := gone.filterMap (fun r => r.op.map (fun op => ⟨op, false, .handle r.handle, r.desc.scope, false⟩)) }
/-- The core at the entry of a task (R69, R70, R126, R135, R185, R200, R215, R347, R374, R381, R405). R85 resets the
user-writable CSRs at the entry of a fresh task and R374 names STAT and VCYC; the spec gives no entry value for SPLITC,
UIEPC and UICAUSE, which only hardware writes, nor for any CSR of a task that resumes from a brick, which carries none but
DUPWEAK and CPYF: the model starts all of them at their reset values at every entry (DESIGN CHOICE, log entry 98). -/
def Core.enterTask (k : Core) (g : Hm) (t : Task) (n : Node) : Core :=
  let pcf := match t.brick with
    | none => 0
    | some b => b.2
  let pc : Addr := match t.brick with
    | none => BitVec.ofNat 48 (n.image.toNat + n.img.texto + n.img.entry)
    | some b => b.2.setWidth 48 &&& ~~~15#48
  let csr : Csrs := { ptvec := k.csr.ptvec, pepc := k.csr.pepc, pcause := k.csr.pcause, gracet := k.csr.gracet
                      killt := k.csr.killt, ctxptr := k.csr.ctxptr, rndseed := BitVec.ofNat 64 t.index, stat := pcf &&& 3#64 }
  let fresh := t.brick.isNone
  { (k.install g fresh) with
    sregs := entryRegs g t n, preds := [], shadow := [], spreds := [], csr := csr, barriers := [], levels := [], cctl := 0
    copyFault := {}, mparams := [], status := [], armed := 0, uiPend := 0, l0 := [], lq := [], hq := [], nextVc := []
    pend := [], accs := [], regions := [], calls := [], nld := 0, nst := 0, ntl := 0, banks := k.entryBanks fresh, stoch := false
    ui := false, uia := false, lvl := false, igpor := false, trapping := none, bubbles := 0, engineOp := none
    blocked := [], owed := 0, owedOps := [], waita := [], waitaHit := [], ringRead := none, stopping := none, late := none, lateHeld := none, phase := 1, req := 0, grace := none, kill := none
    pc := pc, ctxGen := g, task := some { t with ending := .no, brick := none }, nextTask := none, own := none, pvecs := k.pvecs }
/-- The entry state of a task of Igpor code under generation g (R439): its `.param` registers hold their arguments, s62 its
private memory's address, and every other scalar, vector and predicate reads zero or false. No image of a launch is Igpor
code (R433), so no step enters one. -/
def Core.igporEntry (k : Core) (g : Hm) (args : List (Nat × W64)) (priv : W64) : Core :=
  { k with
    igpor := true, ctxGen := g, preds := [], pvecs := []
    sregs := Sparse.put {} 62 ⟨priv, g⟩ (args.foldl (fun m p => Sparse.put {} p.1 ⟨p.2, g⟩ m) []) }
/-- May core c take a task: idle, allotted, and with nothing of the last task left (R200, R373)? -/
def State.coreIdle (s : State) (c : Nat) : Bool :=
  let k := s.core c
  k.task.isNone && k.phase == 0 && !k.lvl && !k.stopped && !k.frozen && !k.withheld && !k.parked && !k.rstDue && k.trapping.isNone
    && k.flr.isNone && (s.die (dieOf c)).released && k.ncp == 0 && k.ntl == 0 && k.accs.isEmpty
    && (match k.ten with
      | none => false
      | some t => s.tenReady t)
/-- Core c enters task t of node n: fresh, its spdata written after the preloads are installed, or resumed. None while the
reads of its spdata wait. -/
def State.enter (s : State) (c : Nat) (t : Task) (l : Launch) (n : Node) : Option State :=
  let d := dieOf c
  let g := s.genOn d l.ten
  let a := n.image.toNat + n.img.spdo
  if t.brick.isSome then some ((s.updCore c (fun k => k.enterTask g t n)).interrupt d 0)
  else match s.imageRun d l.ten (n.img.spdn / 64 + 2) a n.img.spdn with
    | .error f =>
      if f = 0 then none
      else some (((s.report d { (s.recordFault d t.slot l f a) with index := t.index, node := t.node }).failLaunch l.id).updCore
        c (fun k => { k.dropStaging with nextTask := none }))
    | .ok v => some (((s.cpTurns d (some l.ten) a n.img.spdn).updCore c (fun k =>
        (k.enterTask g t n).putSpdata g n.img.spdn v)).interrupt d 0)
/-- The distributor starts a fresh tile task on an idle core; where none is fixed yet, it fixes one first (R373,
R374). A fixed task of a launch that has failed is refused. -/
def execTaskStart (core : Nat) (s : State) : Out :=
  let k := s.core core
  let d := dieOf core
  if !s.coreIdle core || k.own.isSome then ok s
  else match k.nextTask with
    | none => (match k.ten.bind (s.staleBrick d) with
      | some b => ok (s.refuseBrick d b)
      | none => ok (s.after (s.fixNext core)))
    | some t =>
      if t.brick.isSome then ok s
      else match s.launchAt d t.slot t.lid, s.nodeOfTask d t with
        | some l, some n =>
          if k.staging.any (fun r => r.op.isNone) then ok s
          else (match s.enter core t l n with
            | none => ok s
            | some s1 => ok (s1.after (s1.fixNext core)))
        | _, _ => ok (s.dropFixed core 0x07 (fun x => x == t))
/-- A ready brick is resumed on a core (R381, R383). -/
def execBrickResume (core : Nat) (s : State) : Out :=
  let k := s.core core
  let d := dieOf core
  let own := k.own.isSome
  if !s.coreIdle core then ok s
  else match (if own then k.own else k.nextTask) with
    | none => ok s
    | some t =>
      if t.brick.isNone then ok s
      else match s.launchAt d t.slot t.lid, s.nodeOfTask d t with
        | some l, some n =>
          -- a brick that its own core resumes leaves a next task already fixed where it is (R383)
          let next := if own then k.nextTask else none
          let rec3 : Rec := { kind := 3, core := core % 64, slot := t.slot, node := t.node, index := t.index, value := t.token }
          (match s.enter core t l n with
          | none => ok s
          | some s0 =>
            let s1 := s0.updCore core (fun k => { k with nextTask := next })
            match s.logging d l.ten none [rec3] s1 with
            | .go s2 => ok (if next.isSome then s2 else s2.after (s2.fixNext core))
            | r => ok (s.after r))
        | _, _ => ok (s.dropFixed core 0x07 (fun x => x == t))

/-! ### The end of a task (R378, R379, R383, R394) -/

/-- Index i of chunk k of the task's node is done on die d. -/
def State.indexDone (s : State) (d : Nat) (t : Task) (k : Nat) : State :=
  s.updLaunch d t.slot (fun l =>
    if l.id ≠ t.lid then l
    else
      let hit := fun (o : Nat × Nat × Nat) => o.1 == t.node && o.2.1 == k
      let opened := l.opened.map (fun o => if hit o then (o.1, o.2.1, o.2.2 - 1) else o)
      { l with opened := opened.filter (fun o => o.2.2 != 0)
               finished := l.finished ++ (opened.filter (fun o => o.2.2 == 0)).map (fun o => (o.1, o.2.1)) })
/-- The chunk of a task's own index. -/
def State.chunkOf (s : State) (d : Nat) (t : Task) : Nat :=
  match (s.die d).launch t.slot with
  | some l => (match l.nodes[t.node]? with
    | some n => t.index / n.chunk
    | none => 0)
  | none => 0
/-- Every index a task holds is done. -/
def State.taskDone (s : State) (d : Nat) (t : Task) : State :=
  t.holds.foldl (fun s h => s.indexDone d t h.1) (s.indexDone d t (s.chunkOf d t))
/-- A brick of task x of tenancy t on die d, written under the tenancy's current incarnation (R345, R382). -/
def State.brickFor (s : State) (d t : Nat) (x : Task) (a b : W64) (ready : Bool) : Brick :=
  let g := s.genOn d t
  ⟨t, g, s.serialOf t g, x, a, b, ready⟩
/-- A core's fixed next task goes back unstarted, and the core gives up its chunks; preload copies of that task that are
running run on to FULL or ERROR in their staging records (R394). A brick that the core was to resume itself goes back to the
queue in the same way (DEDUCED, log entry 122). -/
def State.handBack (s : State) (c : Nat) : State :=
  let d := dieOf c
  let k := s.core c
  let rel : List Held := match k.nextTask with
    | none => k.chunks
    | some t =>
      if t.brick.isSome then k.chunks
      else
        let ch := s.chunkOf d t
        let same := fun (h : Held) => h.lid == t.lid && h.node == t.node && h.chunk == ch
        if k.chunks.any same then k.chunks.map (fun h => if same h then { h with left := t.index :: h.left } else h)
        else ⟨t.slot, t.lid, t.node, ch, [t.index]⟩ :: k.chunks
  let back := ((k.own.toList ++ k.nextTask.toList).filter (·.brick.isSome)).map (fun t => s.brickFor d (k.ten.getD 0) t 0 0 true)
  (s.updDie d (fun x => { x with freed := x.freed ++ rel, bricks := back ++ x.bricks })).updCore c
    (fun k => { k.dropStaging with nextTask := none, own := none, chunks := [] })
/-- Has everything of core c's ended task been performed and has every engine operation left its counter (R305,
R378)? -/
def State.taskDrained (s : State) (c : Nat) : Bool :=
  let k := s.core c
  k.lq.isEmpty && k.hq.isEmpty && k.nextVc.isEmpty && k.pend.isEmpty && k.accs.isEmpty && k.ncp == 0 && k.ntl == 0
    && k.late.isNone && k.trapping.isNone && !k.lvl && decide (k.phase < 3)
    && (s.die (dieOf c)).op.all (fun e => e.core != c)
/-- The core after its task: idle, its banks released (R199), parked after a soft request. -/
def Core.rest (k : Core) : Core :=
  { (k.releaseBanks 0xFFFF#16) with
    task := none, phase := 0, parked := decide (k.phase = 2), req := 0, grace := none, kill := none, threads := []
    uiPend := 0, armed := 0, ui := false, igpor := false }
/-- s1-s6 and PCF of a brick of core c's task (R380). -/
def State.brickOf (s : State) (c : Nat) : List W64 × W64 :=
  let k := s.core c
  let g := s.coreGen c
  ((List.range 6).map (fun i => k.scalar g (i + 1)),
   ((k.pc &&& ~~~15#48).setWidth 64 ||| (k.csr.stat &&& 3#64)))
/-- Does the launch of a task of die d still stand there? -/
def State.launchStands (s : State) (d : Nat) (t : Task) : Bool :=
  match (s.die d).launch t.slot with
  | some l => l.id == t.lid
  | none => false
/-- A drained task that suspended leaves a brick; at its quota it stays fixed to the core, and with its launch gone it ends
there (R381, R383, R406). -/
def State.leaveBrick (s : State) (core : Nat) (t : Task) (a b : W64) : State :=
  let k := s.core core
  let d := dieOf core
  let x := { t with brick := some (s.brickOf core), ending := .no }
  let ten := k.ten.getD 0
  let used := ((s.die d).bricks.filter (fun y => y.ten == ten)).length
  let full := decide (Sparse.get 4096 ten (s.die d).quota ≤ used) || decide (4096 ≤ (s.die d).bricks.length)
  let s0 := s.updCore core Core.rest
  if !s.launchStands d t then s0.reportIndices d 0x07 ten (s.incarnation ten (s.genOn d ten)) t
  else if full && k.phase != 2 then
    (s0.report d { (s.taskFault core { kind := 0x08 }) with seq := t.token }).updCore core (fun k => { k with own := some x })
  else s0.updDie d (fun z => { z with bricks := z.bricks ++ [s.brickFor d ten x a b (a == 0)] })
/-- What a drained task leaves as it ends: its indices done, a brick, or nothing. -/
def State.taskLeaves (s : State) (core : Nat) (t : Task) : State :=
  match t.ending with
  | .suspended a b => s.leaveBrick core t a b
  | .abandoned => s.updCore core Core.rest
  | _ => (s.taskDone (dieOf core) t).updCore core Core.rest
/-- After END or SUSPEND the task finishes: its indices are done, or it leaves a brick, which is refused where its launch has
ended meanwhile (R378, R379, R383, R406). A task that a fence abandoned is over once what it issued has completed (R390). -/
def execTaskComplete (core : Nat) (s : State) : Out :=
  match (s.core core).task with
  | none => ok s
  | some t =>
    if t.ending = .no || !s.taskDrained core then ok s
    else
      let s1 := s.taskLeaves core t
      ok (if (s.core core).phase = 2 then s1.handBack core else s1)

/-! ### Bricks that wait (R382) -/

/-- The wait word of brick idx of a die is read: the brick is ready where it differs; a fault ends the brick. -/
def execBrickReady (die idx : Nat) (s : State) : Out :=
  match (s.die die).bricks[idx]? with
  | none => ok s
  | some b =>
    if b.ready || !s.tenReady b.ten then ok s
    else match s.cpRead die (some b.ten) b.wait.toNat 8 with
      | .ok v =>
        let s0 := s.cpTurn die (some b.ten) b.wait.toNat
        if BitVec.ofNat 64 v = b.cmp then ok s0
        else ok (s0.updDie die (fun x => { x with bricks := x.bricks.set idx { b with ready := true } }))
      | .error f =>
        if f = 0 then ok (s.cpHold die (some b.ten) b.wait.toNat)
        else
          let rep : FaultInfo := { kind := 0x09, cause := if f = walkError then 0 else f, ten := b.ten
                                   inc := s.incarnation b.ten b.gen, node := b.task.node, slot := b.task.slot
                                   seq := b.task.token, addr := b.wait.toNat }
          let s1 := (s.cpDrop die (some b.ten) b.wait.toNat).updDie die (fun x => { x with bricks := x.bricks.eraseIdx idx })
          ok ((b.task.indices.foldl (fun s i => s.report die { rep with index := i }) s1).failLaunch b.task.lid)

/-! ### Marks and the end of a launch (R372, R387) -/

/-- The word and bit of the bitmap that record chunk k of node j. -/
def Launch.mark (l : Launch) (j k : Nat) : Nat × Nat :=
  let b := (match l.nodes[j]? with | some n => n.mapoff | none => 0) + k
  (l.mapa.toNat + 8 * (b / 64), b % 64)
/-- Where DONEC of node j lies in memory (R369). -/
def Launch.doneAddr (l : Launch) (j : Nat) : Nat := l.lrec.toNat + 64 + 192 * j + 44
/-- A die marks a finished chunk with an atomic OR at the home, and DONEC rises (R387). A fenced die marks nothing more
(R390). -/
def execChunkMark (die slot : Nat) (s : State) : Out :=
  match (s.die die).launch slot with
  | none => ok s
  | some l => match l.finished with
    | [] => ok s
    | (j, k) :: rest =>
      let m := l.mark j k
      let gone := s.updLaunch die slot (fun l => { l with finished := rest })
      if l.fenced then ok gone
      else match s.translateCp die (some l.ten) (BitVec.ofNat 64 m.1) .both with
      | .error f => ok (if f = 0 then s else gone.chunkFault die slot l j k f m.1)
      | .ok g =>
        if s.wayLost die g then ok (gone.chunkFault die slot l j k 8 m.1)
        else if s.badAt g.dla then ok (gone.chunkFault die slot l j k walkError m.1)
        else if !s.homeOpen g || !s.wayOpen die g || (s.die die).opSource g 8 ≠ .none then ok s
        else
          let w := Nat.lor (s.read g.gen g.dla 8) (2 ^ m.2)
          let s1 := if s.isCurrent (homeDie g.dla) g.gen then gone.write g.gen g.dla 8 w else gone.discard g.gen
          let s2 := s1.updCopies l.id (fun x => { x with
            marked := if x.marked.contains (j, k) then x.marked else x.marked ++ [(j, k)] })
          let n := (l.marked.filter (fun x => x.1 == j && x.2 != k)).length + 1
          ok (match s2.homeWrite die (some l.ten) (l.doneAddr j) 4 n with
            | .ok s3 => s3
            | .error f => if f = 0 then s else s2.chunkFault die slot l j k f (l.doneAddr j))
/-- The STATE word of a launch (R370). -/
def Launch.stateWord (l : Launch) (done failed : Bool) : Nat :=
  l.reiss % 2 ^ 32 * 2 ^ 32 + l.live.toNat * 2 ^ 24 + l.home * 2 ^ 16 + (if l.split then 4 else 0)
    + (if failed then 2 else 0) + (if done then 1 else 0)
/-- Free every slot that holds a launch; what still stands of one that failed goes, with its records (R406; their KIND is
the model's choice, log entry 111). -/
def State.freeLaunch (s : State) (id : Nat) : State :=
  let g := fun (_ : Nat) (l : Option Launch) => match l with
    | some l => if l.id = id then none else some l
    | none => none
  let s1 := (s.dies.map Prod.fst).foldl (fun s d => s.dropWork d 0x07 id) s
  { s1 with dies := Sparse.mapVals {} (fun _ x => { x with launches := Sparse.mapVals none g x.launches }) s1.dies }
/-- Is a write under generation g to CXL memory that is performed at package scope still to be globally observable? A release
at system scope of the command processor or the distributor waits for it (R294, R363, R372). -/
def State.outbound (s : State) (g : Hm) : Bool := s.dies.any (fun e => e.2.op.any (fun w => w.gen == g && w.out))
/-- The master ends a launch that is complete or has failed: STATE, then DONEA, then its packet (R372). Where the write of
STATE or of DONEV faults, that is reported and the launch has failed: FAILED is then written in the same way (R387). -/
def execLaunchComplete (die slot : Nat) (s : State) : Out :=
  match (s.die die).launch slot with
  | none => ok s
  | some l =>
    let done := (List.range l.nodes.length).all l.nodeDone
    if l.home ≠ die || (!done && !l.failed) then ok s
    else
      let good := done && !l.failed
      let failed := fun (s : State) (f a : Nat) => (s.report die (s.recordFault die slot l f a)).failLaunch l.id
      match s.homeWrite die (some l.ten) (l.lrec.toNat + 32) 8 (l.stateWord good (!good)) with
      | .error f => ok (if f = 0 then s else if good then failed s f (l.lrec.toNat + 32) else (failed s f (l.lrec.toNat + 32)).freeLaunch l.id)
      | .ok s1 =>
        if !good || l.donea = 0 then ok (s1.freeLaunch l.id)
        else if s.outbound l.gen then ok s
        else match s1.homeWrite die (some l.ten) l.donea.toNat 8 l.donev.toNat with
          | .ok s2 => ok (s2.freeLaunch l.id)
          | .error f => ok (if f = 0 then s else failed s1 f l.donea.toNat)
/-- A follower reads the record of a launch and joins it (R386). -/
def execFollowerLaunch (die slot : Nat) (s : State) : Out :=
  match (s.die die).launch slot with
  | none => ok s
  | some l =>
    if l.joined then ok s
    else match s.cpWords die (some l.ten) l.lrec.toNat (8 + 24 * l.nodes.length) with
      | .ok _ => ok ((s.cpTurns die (some l.ten) l.lrec.toNat (64 + 192 * l.nodes.length)).updLaunch die slot
          (fun l => { l with joined := true }))
      | .error f =>
        if f = 0 then ok s
        else ok ((s.report die (s.recordFault die slot l f l.lrec.toNat)).failLaunch l.id)

/-! ### Splits (R388-R391) -/

/-- The dies of a membership, and those of them in one group with die d (R388). -/
def membersOf (m : BitVec 8) : List Nat := (List.range 8).filter (fun k => m.getLsbD k)
def State.groupOf (s : State) (m : BitVec 8) (d : Nat) : List Nat :=
  (membersOf m).filter (fun e => e == d || (s.route d e).isSome)
/-- The group of a divided membership m of launch l that goes on (R389). -/
def State.survivors (s : State) (l : Launch) (m : BitVec 8) : Option (List Nat) :=
  let ms := membersOf m
  let ok := fun g : List Nat => decide (ms.length < 2 * g.length) || (2 * g.length == ms.length && g.contains l.home)
  (ms.map (s.groupOf m)).find? ok
/-- Do the links join the dies of a membership in more than one group? -/
def State.divided (s : State) (m : BitVec 8) : Bool := (membersOf m).any (fun d => s.groupOf m d != membersOf m)
/-- A loss of links has just been declared: each launch that it divides is judged by its membership as it stands now, which a
reconfiguration changes only when it completes (R388, R389). -/
def State.noteLoss (s : State) : State :=
  let mark := fun (l : Launch) => if s.divided l.live && l.lost.isNone then { l with lost := some l.live } else l
  let g := fun (_ : Nat) (l : Option Launch) => l.map mark
  { s with dies := Sparse.mapVals {} (fun _ x => { x with launches := Sparse.mapVals none g x.launches }) s.dies }
/-- Is die d one that a fence has taken out of the launch? -/
def State.fencedOut (s : State) (l : Launch) (d : Nat) : Bool :=
  match (s.die d).slotOf l.id with
  | none => false
  | some n => match (s.die d).launch n with
    | some x => x.fenced
    | none => false
/-- Is copy x an operation of launch lid: not a preload of another launch's next task, nor of one handed back? -/
def Core.copyOf (k : Core) (lid : Nat) (x : Copy) : Bool :=
  match x.obj with
  | .staging op => k.nextTask.any (fun t => t.lid == lid) && k.staging.any (fun r => r.op == some op && !r.orphan)
  | _ => true
/-- A fence abandons the task of core c: each index and each operation in flight is reported, and the core issues nothing more
of it; its operations complete, and the core then falls idle (R390). -/
def State.abandon (s : State) (c : Nat) : State :=
  let d := dieOf c
  let k := s.core c
  match k.task with
  | none => s
  | some t =>
    let f := s.coreFault c { kind := 0x0C }
    let s1 := t.indices.foldl (fun s i => s.report d { (s.taskFault c { kind := 0x0C }) with index := i }) s
    let s2 := (k.copies.filter (k.copyOf t.lid)).foldl (fun s x => s.report d { f with seq := x.seq.toNat }) s1
    let s3 := k.calls.foldl (fun s x => s.report d { f with data := (k.handleRecord x.gen x.hout).toNat }) s2
    s3.updCore c (fun k => { (if k.ui then k.leaveUi else k) with task := k.task.map (fun t => { t with ending := .abandoned }) })
/-- Fence die d for a launch: its tasks and bricks are abandoned, its copy gives out nothing more, and its stacks go
to their other die where that one goes on (R390). -/
def State.fence (s : State) (d : Nat) (l : Launch) (group : List Nat) : State :=
  match (s.die d).slotOf l.id with
  | none => s
  | some slot =>
    let s1 := s.updLaunch d slot (fun x => { x with fenced := true })
    let mine := (List.range 64).map (fun n => 64 * d + n)
    let s2 := (mine.filter (fun c => match (s.core c).task with
      | some t => t.slot == slot && t.lid == l.id && t.ending != .abandoned
      | none => false)).foldl State.abandon s1
    let s4 := (s2.dropWork d 0x0C l.id).updDie d (fun x => { x with
      fences := if x.fences.contains l.ten then x.fences else l.ten :: x.fences })
    (List.range 8).foldl (fun s k =>
      let x := s.stack k
      let o := if d = lowerDie k then upperDie k else lowerDie k
      if touches d k && s.owner k == d && group.contains o && x.rv && x.rten.toNat == l.ten && x.hand.isNone then
        s.cut k { core := 0, handle := 0, cpl := false, gen := l.gen, ten := some l.ten }
      else s) s4
/-- After a loss of links has split a launch, each group decides (R389, R390). -/
def execQuorumDecision (launch : Nat) (s : State) : Out :=
  match (s.dies.flatMap (fun x => x.2.launches.filterMap (fun l => l.2))).find? (fun l => l.id == launch) with
  | none => ok s
  | some l =>
    let was := l.lost.getD l.live
    let ms := membersOf was
    if l.failed || !s.divided was then ok s
    else match s.survivors l was with
      | none => ok ((ms.foldl (fun s d => s.fence d l []) s).failLaunch l.id)
      | some g0 =>
        let g := g0.filter (fun d => !s.fencedOut l d)
        let out := ms.filter (fun d => !g.contains d)
        let s1 := out.foldl (fun s d => s.fence d l g) s
        let s2 := g.foldl (fun s d => s.updDie d (fun x => { x with
          refused := x.refused ++ (out.map (fun e => (l.ten, e))).filter (fun p => !x.refused.contains p) })) s1
        let m : BitVec 8 := g.foldl (fun m d => m ||| (1#8 <<< d)) 0#8
        ok (s2.updCopies l.id (fun x => { x with deciding := if m = l.live then l.deciding else some m, lost := none }))
/-- The chunks of a launch to be given out again: below NEXT, unmarked and held by no die of the group (R391). -/
def State.toReissue (s : State) (l : Launch) (g : List Nat) : List (Nat × Nat) :=
  let held := g.flatMap (fun d => match (s.die d).slotOf l.id with
    | none => []
    | some n => match (s.die d).launch n with
      | none => []
      | some x => x.opened.map (fun o => (o.1, o.2.1)) ++ x.finished)
  (List.range l.nodes.length).flatMap (fun j =>
    ((List.range (l.next.getD j 0)).map (fun k => (j, k))).filter (fun p =>
      !l.marked.contains p && !held.contains p && !l.reissue.contains p))
/-- The continuing group's master reissues what was lost and writes STATE (R391). -/
def execReconfiguration (launch : Nat) (s : State) : Out :=
  match (s.dies.flatMap (fun x => x.2.launches.filterMap (fun l => l.2))).find? (fun l => l.id == launch) with
  | none => ok s
  | some l => match l.deciding with
    | none => ok s
    | some m =>
      let g := membersOf m
      let home := if g.contains l.home then l.home else g.headD 0
      let a := l.lrec.toNat + 32
      -- the master writes STATE, or for it the first die of the group that can reach the record
      match (home :: g.filter (fun e => e != home)).find? (fun e => match s.homeWrite e (some l.ten) a 8 0 with
        | .ok _ => true
        | .error f => f == 0) with
      | none => ok ((g.foldl (fun s d => s.fence d l []) s).failLaunch l.id)
      | some e =>
        if s.homeHeld e (some l.ten) a then ok s else
        let rs := s.toReissue l g
        let merged := (List.range l.nodes.length).flatMap (fun j =>
          ((List.range (l.next.getD j 0)).map (fun k => (j, k))).filter (fun p => rs.contains p || l.reissue.contains p))
        let up := fun (x : Launch) => { x with
          live := m, home := home, split := true, reiss := x.reiss + rs.length, reissue := merged, deciding := none }
        let slot := ((s.die home).slotOf l.id).getD 0xFF
        let recs := rs.map (fun p => ({ kind := 8, slot := slot, node := p.1, index := p.2 } : Rec))
        match s.recordWrite e slot (up l) a 8 ((up l).stateWord false false) with
        | none => ok s
        | some s1 => match s1.logging home l.ten none recs (s1.updCopies l.id up) with
          | .go s2 => ok s2
          | r => ok (s.after r)

/-! ### TIDX, TNEXT, SUSPEND and END (R375-R379) -/

/-- The trap of a task instruction at platform level (R375). -/
def taskVerdict (rest : State → Verdict) (s : State) : Verdict := if s.k.lvl then trapV 0x0A 0x21 else rest s
/-- TIDX (R376). -/
def execTidx (p : BitVec 3) (d : BitVec 6) (s : State) : Out :=
  slotMeaning p [] (some (s.rD d)) false (taskVerdict (fun _ => .go))
    (fun s =>
      let v := match s.k.task with
        | none => 0
        | some t => t.index % 2 ^ 32 + t.node % 64 * 2 ^ 32
      s.putScalar Config.latALU (s.rD d) (BitVec.ofNat 64 v)) s
/-- Where TNEXT of core c takes its index: a chunk the core holds, or a new chunk of its node; none where the node has
no index left (R377). -/
def State.claimSource (s : State) (c : Nat) : Option Source1 :=
  let k := s.core c
  match k.task with
  | none => none
  | some t => match s.launchAt (dieOf c) t.slot t.lid with
    | none => none
    | some l => match k.chunks.zipIdx.find? (fun h => h.1.lid == l.id && h.1.node == t.node && !h.1.left.isEmpty) with
      | some h => some (.held h.2)
      | none => match l.reissue.find? (fun r => r.1 == t.node) with
        | some r => some (.chunk t.slot r.1 r.2)
        | none =>
          let n := l.next.getD t.node 0
          match l.nodes[t.node]? with
          | none => none
          | some x => if n < x.chunks then some (.chunk t.slot t.node n) else none
/-- Must a TNEXT that takes a source wait: a follower's master cannot be reached, or NEXT cannot be written yet? -/
def State.claimHeld (s : State) (c : Nat) (src : Option Source1) : Bool :=
  match src with
  | some (.chunk slot j k) => (match (s.die (dieOf c)).launch slot with
    | some l => !s.reaches (dieOf c) l.home || s.chunkHeld l j k
    | none => false)
  | _ => false
/-- The task of core c holds index i of chunk k. -/
def State.holdIndex (s : State) (c k i : Nat) : State :=
  s.updCore c (fun x => { x with task := x.task.map (fun t => { t with holds := t.holds ++ [(k, i)] }) })
/-- A TNEXT on core c takes its index from a source: its result and the state after it (R377). -/
def State.claimFrom (s : State) (c : Nat) (src : Option Source1) : W64 × State :=
  let d := dieOf c
  match src with
  | some (.held i) => (match (s.core c).chunks[i]? with
    | some h => (match h.left with
      | j :: rest =>
        let cs := fun (k : Core) => if rest.isEmpty then k.chunks.eraseIdx i else k.chunks.set i { h with left := rest }
        (BitVec.ofNat 64 j, (s.updCore c (fun k => { k with chunks := cs k })).holdIndex c h.chunk j)
      | [] => (BitVec.allOnes 64, s))
    | none => (BitVec.allOnes 64, s))
  | some (.chunk slot j k) => (match (s.die d).launch slot with
    | some l => (match l.indices j k with
      | i :: rest =>
        let s1 := s.openChunk d slot l j k
        let s2 := s1.updCore c (fun x => { x with
          chunks := (if rest.isEmpty then [] else [⟨slot, l.id, j, k, rest⟩]) ++ x.chunks })
        (BitVec.ofNat 64 i, s2.holdIndex c k i)
      | [] => (BitVec.allOnes 64, s))
    | none => (BitVec.allOnes 64, s))
  | _ => (BitVec.allOnes 64, s)
/-- The decisions of a TNEXT that takes a source (R409). -/
def State.claimRecs (s : State) (c : Nat) (src : Option Source1) : List Rec :=
  let v := (s.claimFrom c src).1
  let t := (s.core c).task
  let slot := (t.map (·.slot)).getD 0xFF
  let node := (t.map (·.node)).getD 0xFF
  let r : Rec := { kind := 4, core := c % 64, slot := slot, node := node, index := v.toNat % 2 ^ 32, value := v.toNat % 2 ^ 32 }
  match src with
  | some (.chunk n j k) =>
    let far := match (s.die (dieOf c)).launch n with
      | some l => l.home != dieOf c
      | none => false
    (if far then [{ kind := 5, slot := slot, node := j, index := k }] else [])
      ++ [{ kind := 1, core := c % 64, slot := slot, node := j, index := k }, r]
  | _ => [r]
/-- The source that TNEXT takes on core c; under a replay none, where the log says that the node had no index left (R410). -/
def State.claimTaken (s : State) (c : Nat) : Option Source1 :=
  match (s.core c).ten with
  | none => s.claimSource c
  | some t => match s.replaying (dieOf c) t with
    | none => s.claimSource c
    | some r => if s.matchesLog r (s.claimRecs c none) then none else s.claimSource c
/-- The claim of a TNEXT on core c: its result and the state after it (R377). -/
def State.claimNext (s : State) (c : Nat) : W64 × State := s.claimFrom c (s.claimTaken c)
/-- Must TNEXT wait? -/
def State.claimWaits (s : State) (c : Nat) : Bool := s.claimHeld c (s.claimTaken c)
/-- What becomes of a TNEXT under replay capture. -/
def State.claimDecision (s : State) (c : Nat) : Decision :=
  let r := s.claimNext c
  match (s.core c).ten with
  | none => .go r.2
  | some t => s.logging (dieOf c) t none (s.claimRecs c (s.claimTaken c)) r.2
/-- TNEXT (R377). -/
def execTnext (p : BitVec 3) (d : BitVec 6) (s : State) : Out :=
  slotMeaning p [] (some (s.rD d)) true
    (taskVerdict (fun s => if s.claimWaits s.cur.core then .wait
      else match s.claimDecision s.cur.core with
        | .wait => .wait
        | _ => .go))
    (fun s =>
      let v := (s.claimNext s.cur.core).1
      let s1 := s.after (s.claimDecision s.cur.core)
      let s2 := s1.setPending s.k.nextId (s.rD d) (some v) false
      s2.updK (fun k => { k with nextId := k.nextId + 1 })) s
/-- The task of the core at hand ends its run; every bank still HELD becomes RELEASED (R199, R378), one that a pending region
touches once that has gone, as for BKREL (DEDUCED, log entry 129). -/
def State.endRun (s : State) (e : Ending) : State :=
  s.updK (fun k => { (k.releaseBanks 0xFFFF#16) with task := k.task.map (fun t => { t with ending := e }) })
/-- SUSPEND (R379). -/
def execSuspend (p : BitVec 3) (a b : BitVec 6) (s : State) : Out :=
  slotMeaning p [s.rA a, s.rB b] none false
    (taskVerdict (fun s =>
      let v := s.reg (s.rA a)
      if v = 0 then .go
      else if v.toNat % 8 ≠ 0 then trapV 0x0A 0x20
      else match s.translateCore s.cur.core v 8 .read with
        | .error f => faultV f v
        | .ok _ => .go))
    (fun s => s.endRun (.suspended (s.reg (s.rA a)) (s.reg (s.rB b)))) s
/-- END (R378). -/
def execEndTask (p : BitVec 3) (s : State) : Out :=
  slotMeaning p [] none false (taskVerdict (fun _ => .go)) (fun s => s.endRun .ended) s

end Sys2Proof.Machine
end

