-- ==== Sys2Proof/Machine/Packets.lean ====
section
/-! DEFINITION. The command processor (spec 16 R361-R367, spec 14 R339-R340, spec 15 R353): the reading of a queue's
tail and packets, their start, nesting, waits and effects. A packet's meaning acts on queue `cur.queue` of die
`cur.die`; where the queue is not interpreted, or the packet may not start yet, it changes nothing. -/
namespace Sys2Proof.Machine

/-! ### The queue at hand -/

/-- Does the command processor work at the queue (R325, R352, R354, R361)? -/
def State.queueRuns (s : State) (d q : Nat) : Bool :=
  let x := s.queue d q
  x.valid && (s.die d).released && !(s.die d).cpFrozen && (match x.owner q with
    | none => true
    | some t => s.tenReady t)
/-- Is the queue interpreted: it has not stopped either (R367)? -/
def State.queueLive (s : State) (d q : Nat) : Bool := s.queueRuns d q && !(s.queue d q).fault.getLsbD 8
/-- The generation of a queue's work. -/
def State.queueGen (s : State) (d q : Nat) : Hm :=
  match (s.queue d q).owner q with
  | none => platformGen
  | some t => s.genOn d t
/-- Has every write of the die's command processor under generation g left the ordering point? -/
def State.cpDrained (s : State) (d : Nat) (g : Hm) : Bool := (s.die d).op.all (fun e => e.core != 512 + d || e.gen != g)
/-- The head count: the packets started, but not past a LOOP of the ring that is open (R362). -/
def Queue.headNow (x : Queue) : W64 :=
  match x.loops.filter (fun b => b.depth == 0) with
  | [] => x.pos
  | l => l.foldl (fun (m : W64) b => if m.toNat ≤ b.start - 1 then m else BitVec.ofNat 64 (b.start - 1)) x.pos
/-- Write the head word where it has changed, a release at system scope (R362): once every older write of the stream has been
performed, and its home can be reached. -/
def State.putHead (s : State) (d q : Nat) : State :=
  let x := s.queue d q
  let n := x.headNow
  if n = x.head || !s.cpDrained d (s.queueGen d q) then s
  else match (s.updQueue d q (fun x => { x with head := n })).homeWrite d (x.owner q) x.heada.toNat 8 n.toNat with
    | .ok s1 => s1
    | .error f => if f = 0 || x.fault.getLsbD 8 then s else s.streamFault d q 5
/-- Has the head word of queue q still to be written: it has changed, also back to the packet of a stream fault, and a write
of it would be made now? -/
def State.headDue (s : State) (d q : Nat) : Bool :=
  let x := s.queue d q
  s.queueRuns d q && x.begun && x.headNow != x.head && s.cpDrained d (s.queueGen d q) && !s.homeHeld d (x.owner q) x.heada.toNat
/-- Position of the next packet in the ring or the sub-stream at hand. -/
def Queue.place (x : Queue) : Nat :=
  match x.subs with
  | [] => x.pos.toNat
  | b :: _ => b.at_
/-- Move to a position of the stream at hand. -/
def Queue.goto (x : Queue) (n : Nat) : Queue :=
  match x.subs with
  | [] => { x with pos := BitVec.ofNat 64 n }
  | b :: t => { x with subs := { b with at_ := n } :: t }
/-- The packet at hand is consumed, with a change to its queue. -/
def State.consume (s : State) (d q : Nat) (f : Queue → Queue) : State :=
  (s.updQueue d q (fun x => f (x.goto (x.place + 1)))).putHead d q
/-- A packet's meaning: it starts once its queue is live and waits for nothing, an ordered one once no launch of the
queue is in flight either (R363). -/
def packetMeaning (ordered : Bool) (f : State → Nat → Nat → Queue → State) (s : State) : Out :=
  let d := s.cur.die
  let q := s.cur.queue
  let x := s.queue d q
  if !s.queueLive d q || x.wait ≠ .no || x.skip.isSome || (ordered && s.inFlightOf d q != 0) then ok s else ok (f s d q x)
/-- A decision of the command processor for a tenancy's queue, under replay capture (R409). -/
def State.queueDecision (s : State) (d q : Nat) (r : Rec) (s' : State) : State :=
  match (s.queue d q).owner q with
  | none => s'
  | some t => s.after (s.logging d t (some q) [r] s')
/-- The result of a condition: under a replay the one of the log (R410). -/
def State.loggedResult (s : State) (d q : Nat) (r : Bool) : Bool :=
  match (s.queue d q).owner q with
  | none => r
  | some t => match (s.replaying d t).bind s.nextLogged with
    | some w => if field w 0 1 = 7 then field w 8 4 != 0 else r
    | none => r
/-- The tail count that is consumed where the tail word reads n: under a replay the one of the log, once the tail has come so
far; none while it waits (R410). -/
def State.loggedTail (s : State) (d q : Nat) (n : W64) : Option W64 :=
  let x := s.queue d q
  match x.owner q with
  | none => some n
  | some t => match s.replaying d t with
    | none => some n
    | some r => match s.nextLogged r with
      | none => none
      | some w =>
        let m := (BitVec.ofNat 32 (field w 8 4) - x.tail.setWidth 32).toNat
        if field w 0 1 = 6 && decide (m ≤ (n - x.tail).toNat) then some (x.tail + BitVec.ofNat 64 m) else none
/-- Read an aligned word of n bytes for a packet: an error 0 waits, 5 is the stream fault (R365). -/
def State.operandRead (s : State) (d q : Nat) (a : W64) (n : Nat) : Except Nat W64 :=
  if a.toNat % n ≠ 0 then .error 5
  else match s.cpRead d ((s.queue d q).owner q) a.toNat n with
    | .ok v => .ok (BitVec.ofNat 64 v)
    | .error f => .error (readCode f)
/-- The command processor reads an aligned word of n bytes for a queue and goes on with it; the read may wait, or stop the
stream (R365). -/
def State.reading (s : State) (d q : Nat) (a : W64) (n : Nat) (f : State → W64 → State) : State :=
  let t := (s.queue d q).owner q
  match s.operandRead d q a n with
  | .error c =>
    if c = 0 then s.cpHold d t a.toNat
    else
      let s1 := s.cpDrop d t a.toNat
      (match (s.queue d q).wait with
      | .mem _ _ _ _ => if a = (s.queue d q).taila then s1.streamFault d q 5 else s1.waitFault d q 5
      | _ => s1.streamFault d q 5)
  | .ok w => f (s.cpTurn d t a.toNat) w
/-- A write of a packet that may meet a fault: a stream fault, a wait, or the state after it (R365). -/
def State.packetWrite (s : State) (d q : Nat) (r : Except Nat State) (f : State → State) : State :=
  match r with
  | .ok s1 => f s1
  | .error c => if c = 0 then s else s.streamFault d q 5
/-- A stream fault, or nothing yet where the code is 0. -/
def State.faultOr (s : State) (d q code : Nat) : State := if code = 0 then s else s.streamFault d q code

/-! ### Launches (R364, R371, R387) -/

/-- A launch packet. -/
def State.launchPacket (s : State) (d q : Nat) (x : Queue) (mask : Byte) (lrec : W64) (inda : Option W64) : State :=
  match x.owner q with
  | none => s.streamFault d q 0x0C
  | some t =>
    if 16 ≤ s.inFlightOf d q then s
    else match s.launchOf d q t mask lrec inda with
      | .error c => s.faultOr d q c
      | .ok l =>
        let dies := launchDies mask d
        if dies.any (fun e => (s.die e).freeSlot.isNone) then s
        else ((s.cpTurns d (some t) lrec.toNat (64 + 192 * l.nodes.length)).startLaunch dies { l with packet := x.pos.toNat }).consume
          d q id
/-- LAUNCH. -/
def execLaunch (mask : Byte) (lrec : W64) (s : State) : Out :=
  packetMeaning false (fun s d q x => s.launchPacket d q x mask lrec none) s
/-- LAUNCHI. -/
def execLaunchi (mask : Byte) (lrec inda : W64) (s : State) : Out :=
  packetMeaning true (fun s d q x => s.launchPacket d q x mask lrec (some inda)) s

/-! ### Loops and conditions (R364, R366) -/

/-- LOOP. -/
def execLoopPacket (ind : BitVec 1) (count : W64) (s : State) : Out :=
  packetMeaning false (fun s d q x =>
    let go := fun (s : State) (v : W64) =>
      let n := v.toNat % 2 ^ 32
      if n = 0 then s.consume d q (fun x => { x with skip := some (true, 0) })
      else s.consume d q (fun y => { y with loops := ⟨x.subs.length, x.place + 1, n⟩ :: y.loops })
    if 4 ≤ x.loops.length then s.streamFault d q 6
    else if ind = 1#1 then s.reading d q count 4 go else go s count) s
/-- ENDLOOP. -/
def execEndloop (s : State) : Out :=
  packetMeaning false (fun s d q x =>
    match x.loops with
    | [] => s.streamFault d q 6
    | b :: t =>
      if b.depth ≠ x.subs.length then s.streamFault d q 6
      else if 1 < b.left then
        (s.updQueue d q (fun x => { (x.goto b.start) with loops := { b with left := b.left - 1 } :: t })).putHead d q
      else s.consume d q (fun x => { x with loops := t })) s
/-- IFEQ and IFNE. -/
def condition (eq : Bool) (addr value mask : W64) (s : State) : Out :=
  packetMeaning true (fun s d q x =>
    if 8 ≤ x.blocks.length then s.streamFault d q 6
    else s.reading d q addr 8 (fun s w =>
      let holds := s.loggedResult d q (((w &&& mask) == value) == eq)
      let s1 := s.consume d q (fun y =>
        if holds then { y with blocks := ⟨x.subs.length, 0, 0⟩ :: y.blocks } else { y with skip := some (false, 0) })
      s.queueDecision d q { kind := 7, value := if holds then 1 else 0 } s1)) s
/-- IFEQ. -/
def execIfeq (addr value mask : W64) (s : State) : Out := condition true addr value mask s
/-- IFNE. -/
def execIfne (addr value mask : W64) (s : State) : Out := condition false addr value mask s
/-- ENDIF. -/
def execEndif (s : State) : Out :=
  packetMeaning false (fun s d q x =>
    match x.blocks with
    | [] => s.streamFault d q 6
    | b :: t => if b.depth ≠ x.subs.length then s.streamFault d q 6 else s.consume d q (fun x => { x with blocks := t })) s
/-- A packet of TYPE t that the stream skips (R364): it is consumed, and the skip ends at the matching ENDLOOP or
ENDIF. -/
def State.skipPacket (s : State) (d q t : Nat) (loop : Bool) (n : Nat) : State :=
  let opens := if loop then t == 3 else t == 5 || t == 6
  let closes := if loop then t == 4 else t == 7
  s.consume d q (fun x => { x with
    skip := if opens then some (loop, n + 1) else if closes then (if n = 0 then none else some (loop, n - 1)) else some (loop, n) })

/-! ### Waits and writes -/

/-- WAITMEM's comparison (R364). -/
def waitHolds (op : Nat) (w value mask : W64) : Bool :=
  let x := w &&& mask
  match op with
  | 0 => x == value
  | 1 => x != value
  | _ => decide (value.toNat ≤ x.toNat)
/-- WAITMEM. -/
def execWaitmem (op : BitVec 2) (addr value mask : W64) (s : State) : Out :=
  packetMeaning true (fun s d q _ => s.reading d q addr 8 (fun s w =>
    if waitHolds op.toNat w value mask then
      s.queueDecision d q { kind := 7, value := 1 } (s.consume d q id)
    else s.consume d q (fun x => { x with wait := .mem op.toNat addr value mask }))) s
/-- The word of a WAITMEM that waits is read again (R364). -/
def execWaitmemReread (die queue : Nat) (s : State) : Out :=
  match (s.queue die queue).wait with
  | .mem op addr value mask =>
    if !s.queueLive die queue then ok s
    else ok (s.reading die queue addr 8 (fun s w =>
      if waitHolds op w value mask then
        s.queueDecision die queue { kind := 7, value := 1 } (s.updQueue die queue (fun x => { x with wait := .no }))
      else s))
  | _ => ok s
/-- WRITEMEM: a strong store at its scope. -/
def execWritemem (sz8 : BitVec 1) (scope : BitVec 2) (addr value : W64) (s : State) : Out :=
  packetMeaning true (fun s d q x =>
    let n := if sz8 = 1#1 then 8 else 4
    if addr.toNat % n ≠ 0 then s.streamFault d q 5
    else s.packetWrite d q (s.cpStore d (x.owner q) addr n (value.toNat % 2 ^ (8 * n)) scope.toNat)
      (fun s1 => s1.consume d q (fun x => { x with wait := .wrote s.nextWid scope.toNat }))) s
/-- SIGNAL: a release at system scope, then the interrupt (R364, R430). -/
def execSignal (vector : BitVec 16) (addr value : W64) (s : State) : Out :=
  packetMeaning true (fun s d q x =>
    if addr.toNat % 8 ≠ 0 then s.streamFault d q 5
    else if !s.cpDrained d (s.queueGen d q) || s.outbound (s.queueGen d q) then s
    else s.packetWrite d q (s.cpStore d (x.owner q) addr 8 value.toNat 3)
      (fun s1 => s1.consume d q (fun x => { x with wait := .signal s.nextWid vector.toNat }))) s
/-- FENCE. -/
def execFencePacket (scope : BitVec 2) (s : State) : Out :=
  packetMeaning true (fun s d q _ => s.consume d q (fun x => { x with wait := .fence scope.toNat })) s
/-- HANDOVER (R339, R340). -/
def execHandover (cpl sig : BitVec 1) (stack core handle : Byte) (saddr sval : W64) (s : State) : Out :=
  packetMeaning true (fun s d q x =>
    let k := stack.toNat % 8
    match s.handCheck d (x.owner q) k with
    | some _ => s.streamFault d q 9
    | none =>
      let h : HandOver := { core := core.toNat % 64, handle := handle.toNat % 64, cpl := decide (cpl = 1#1)
                            gen := s.queueGen d q, ten := x.owner q, queue := some q }
      (s.cut k h).consume d q (fun x => { x with wait := .hand k (decide (sig = 1#1)) saddr sval })) s
/-- CALLS. -/
def execCalls (len : BitVec 32) (addr : W64) (s : State) : Out :=
  packetMeaning false (fun s d q x =>
    if addr.toNat % 32 ≠ 0 then s.streamFault d q 5
    else if 4 ≤ x.subs.length then s.streamFault d q 6
    else s.consume d q (fun x => { x with subs := ⟨addr, len.toNat, 0⟩ :: x.subs })) s
/-- The sub-stream at hand ends: a loop or block that it leaves open is a stream fault (R364, R366). -/
def State.endSub (s : State) (d q : Nat) (x : Queue) : State :=
  let n := x.subs.length
  if x.skip.isSome || x.loops.any (fun b => b.depth == n) || x.blocks.any (fun b => b.depth == n) then s.streamFault d q 6
  else s.updQueue d q (fun x => { x with subs := x.subs.drop 1 })
/-- RETS. -/
def execRets (s : State) : Out :=
  packetMeaning false (fun s d q x => if x.subs.isEmpty then s.streamFault d q 6 else s.endSub d q x) s
/-- TENEND as a packet (R353). -/
def execTenendPacket (close : BitVec 1) (ten : BitVec 12) (eraddr : W64) (s : State) : Out :=
  packetMeaning true (fun s d q _ =>
    if 8 ≤ q then s.streamFault d q 3
    else if !(s.tenancy ten.toNat).opened || !s.recordAddrOk eraddr then s.streamFault d q 0x0A
    else
      (s.consume d q (fun x => { x with wait := .tenend ten.toNat })).acceptTenend ten.toNat (decide (close = 1#1)) eraddr
        (some (128 * d + q))) s

/-! ### The progress of a queue -/

/-- What a queue waits for may have come (R363): a write performed at its scope, a hand-over through its step 5, a
FENCE's condition. -/
def State.settleWait (s : State) (d q : Nat) : State :=
  let x := s.queue d q
  let free := s.updQueue d q (fun x => { x with wait := .no })
  match x.wait with
  | .wrote w sc => if (s.die d).unperformed w sc then s else free
  | .signal w v =>
    if (s.die d).inOp w then s
    else if v % 2048 = 0 then free
    else { free with io := { free.io with interrupts := free.io.interrupts ++ [(v / 4096, v % 2048)] } }
  | .fence sc =>
    let g := s.queueGen d q
    if sc ≤ 1 || (sc == 2 && (s.die d).op.all (fun e => e.core != 512 + d || e.gen != g || e.out))
      || (s.cpDrained d g && !s.outbound g) then free else s
  | .hand k sig a v =>
    let ours := match (s.stack k).hand with
      | some h => h.queue == some q && s.owner k == d
      | none => false
    if ours then s
    else if !sig then free
    else if a.toNat % 8 ≠ 0 then s.waitFault d q 5
    else if !s.cpDrained d (s.queueGen d q) then s
    else match s.cpStore d (x.owner q) a 8 v.toNat 2 with
      | .ok s1 => s1.updQueue d q (fun x => { x with wait := .wrote s.nextWid 2 })
      | .error c => if c = 0 then s else s.waitFault d q 5
  | _ => s
/-- May the tail word be read again (R355)? -/
def State.tailHeard (s : State) (d q : Nat) (x : Queue) : Bool :=
  !x.quiet || (match s.translateCp d (x.owner q) x.taila .read with
    | .error _ => false
    | .ok g => if dlaCxl g.dla then Sparse.get 0 (g.dla / 128) s.cxlWrites != x.mark
        else Sparse.get nullGen (g.dla / 128) s.hallmarks == g.gen)
/-- The command processor reads a queue's tail word again (R362). -/
def execTailRead (die queue : Nat) (s : State) : Out :=
  let x := s.queue die queue
  if !s.queueLive die queue || !x.begun || !s.tailHeard die queue x then ok s
  else ok (s.reading die queue x.taila 8 (fun s n =>
      let upd := fun (m : W64) => s.updQueue die queue (fun x => { x with tail := m, quiet := false })
      if 2 ^ x.size < (n - x.head).toNat then (upd n).streamFault die queue 4
      else if n = x.tail then upd n
      else match s.loggedTail die queue n with
        | none => s
        | some m => s.queueDecision die queue { kind := 6, value := m.toNat % 2 ^ 32 } (upd m)))
/-- What the next packet of a queue is. -/
inductive Fetched where
  /-- the queue's own progress, or none -/
  | moved (s : State)
  /-- a packet of 32 bytes, and the state after its read -/
  | packet (w : BitVec 256) (s : State)
/-- The next packet of queue q of die d (R362-R364). -/
def State.nextPacket (s : State) (d q : Nat) : Fetched :=
  let x := s.queue d q
  let t := x.owner q
  if s.headDue d q then .moved (s.putHead d q)
  else if x.wait ≠ .no then .moved (if s.queueRuns d q then s.settleWait d q else s)
  else if !s.queueLive d q then .moved s
  else if !x.begun then
    .moved (s.reading d q x.heada 8 (fun s n =>
      s.updQueue d q (fun x => { x with begun := true, pos := n, tail := n, head := n })))
  else
    let a := match x.subs with
      | [] => if x.pos = x.tail then none else some (x.ring.toNat + 32 * (x.pos.toNat % 2 ^ x.size))
      | b :: _ => if b.len ≤ b.at_ then none else some (b.addr.toNat + 32 * b.at_)
    match a with
    | none => .moved (if x.subs.isEmpty then s else s.endSub d q x)
    | some a => match s.cpWords d t a 4 with
      | .error f => .moved (if f = 0 then s.cpHold d t a else (s.cpDrop d t a).streamFault d q 5)
      | .ok w => match x.skip with
        | some (l, n) => .moved ((s.cpTurn d t a).skipPacket d q (w % 256) l n)
        | none => .packet (BitVec.ofNat 256 w) (s.cpTurn d t a)

end Sys2Proof.Machine
end

