-- ==== Sys2Proof/Machine/Preempt.lean ====
section
/-! DEFINITION. Pre-emption (spec 17 R392-R399): requests and timers, the halt, the whole context save area, the
restore; kill and function-level reset (R397, R400, R401); command-processor reset and the release of I/O functions
(R402); the throttle level (R403). -/
namespace Sys2Proof.Machine

/-! ### Requests and timers (R392-R396) -/

/-- Set PHASE of core c; a transition to 1, 5 or 6 interrupts the application cores (R392, R430). -/
def State.setPhase (s : State) (c ph : Nat) : State :=
  let s1 := s.updCore c (fun k => { k with phase := ph })
  if ph = 1 || ph = 5 || ph = 6 then s1.interrupt (dieOf c) 0 else s1
/-- Is a request of a strength accepted: PHASE 1-4, stronger than the one in force, no reset in progress or due (R392,
R401)? -/
def Core.takesReq (k : Core) (req : Nat) : Bool :=
  decide (1 ≤ k.phase) && decide (k.phase ≤ 4) && decide (k.req < req) && k.flr.isNone && !k.stopped
/-- A request enters into force: the first one of a context starts both timers (R393), and PHASE 1 becomes 2 (R394). -/
def State.request (s : State) (c req : Nat) : State :=
  let now := (s.die (dieOf c)).lcyc.toNat
  s.updCore c (fun k => { k with
    grace := if k.req = 0 then some (now + k.csr.gracet.toNat) else k.grace
    kill := if k.req = 0 then some (now + k.csr.killt.toNat) else k.kill
    req := req, phase := if k.phase = 1 then 2 else k.phase })
/-- Has the task of the core issued END, so that any request is a soft one (R396)? -/
def Core.ending (k : Core) : Bool := k.task.any (fun t => t.ending == .ended)
/-- The grace timer of core c has expired: with the task still running the core halts at its next issue boundary
(R395). -/
def State.halt (s : State) (c : Nat) : State :=
  let k := s.core c
  if (k.phase = 1 || k.phase = 2) && k.task.isSome && !k.ending && !k.stopped then s.updCore c (fun k => { k with phase := 3 }) else s
/-- The context of core c is killed (R397): its task and each index it holds are reported failed and its launch fails; a
function-level reset begins at once, from PHASE 6. -/
def State.killContext (s : State) (c : Nat) : State :=
  let s1 := if (s.core c).task.isSome then (s.reportTask c { kind := 0x02 }).failTask c else s
  (((s1.handBack c).updCore c (fun k => { k with task := none, own := none })).setPhase c 6).beginFlr c
/-- The kill timer of core c has expired. -/
def State.killNow (s : State) (c : Nat) : State :=
  let k := s.core c
  if 1 ≤ k.phase && k.phase ≤ 4 && !k.ending && !k.stopped then s.killContext c else s
/-- A soft request (R394), a hard one, which is a soft one whose grace timer has expired, and a kill request, one whose
kill timer has expired (R393, R397). -/
def State.softRequest (s : State) (c : Nat) : State := if (s.core c).takesReq 1 then s.request c 1 else s
def State.hardRequest (s : State) (c : Nat) : State := if (s.core c).takesReq 2 then (s.request c 2).halt c else s
def State.killRequest (s : State) (c : Nat) : State := if (s.core c).takesReq 3 then (s.request c 3).killNow c else s
/-- A soft request. -/
def execSoftRequest (core : Nat) (s : State) : Out := ok (if s.reachesDie (dieOf core) then s.softRequest core else s)
/-- A hard request. -/
def execHardRequest (core : Nat) (s : State) : Out := ok (if s.reachesDie (dieOf core) then s.hardRequest core else s)
/-- A kill request. -/
def execKillRequest (core : Nat) (s : State) : Out := ok (if s.reachesDie (dieOf core) then s.killRequest core else s)
/-- Has a timer run out? -/
def State.expired (s : State) (c : Nat) (t : Option Nat) : Bool :=
  match t with
  | some n => decide (n ≤ (s.die (dieOf c)).lcyc.toNat)
  | none => false
/-- The grace timer expires (R395). -/
def execGraceExpiry (core : Nat) (s : State) : Out :=
  ok (if s.expired core (s.core core).grace then s.halt core else s)
/-- The kill timer expires (R397). -/
def execKillExpiry (core : Nat) (s : State) : Out :=
  ok (if s.expired core (s.core core).kill then s.killNow core else s)

/-! ### The whole save area (R398) -/

/-- Bytes in front of an offset, then more fields from it. -/
def padTo (n v : Nat) (rest : Nat) : Nat := v % 2 ^ (8 * n) + 2 ^ (8 * n) * rest
/-- The value and the hallmark of an element under generation g, zero where stale. -/
def tagOf (g h : Hm) : Nat := if h = g then g.toNat else 0
/-- HND (R398): the records, the hallmarks, and the pending user-level interrupts. -/
def Core.hndPart (k : Core) (g : Hm) : Nat :=
  packFields ((List.range 64).map (fun h => (8, (k.handleRecord g h).toNat))
    ++ (List.range 64).map (fun h => (2, tagOf g (Sparse.get {} h k.handles : Handle).hm))
    ++ [(8, k.uiPend.toNat)])
/-- A barrier as its 16-byte record (R204). -/
def Barrier.record (b : Barrier) : Nat :=
  b.epoch.toNat + b.wep.toNat * 2 ^ 2 + b.arrv.toNat * 2 ^ 48 + b.quota.toNat * 2 ^ 64 + b.got.toNat * 2 ^ 80
    + b.want.toNat * 2 ^ 104
/-- A barrier from its record. -/
def barrierOf (v : Nat) : Barrier :=
  let w := BitVec.ofNat 128 v
  { want := w.extractLsb' 104 24, got := w.extractLsb' 80 24, quota := w.extractLsb' 64 16, arrv := w.extractLsb' 48 16
    wep := w.extractLsb' 2 2, epoch := w.extractLsb' 0 2 }
/-- The copy fault register in the layout of CQRY 4 (R230). -/
def CopyFault.word (f : CopyFault) : Nat := (if f.valid then 2 ^ 32 else 0) + f.seq.toNat * 2 ^ 16 + f.fcode.toNat
/-- The byte of a bank state: 0 HELD, 1 otherwise; a bank that a preload of the next task fills is one that this task
has released. -/
def bankByte (b : BankState) : Nat := if b = .held then 0 else 1
/-- SYNC (R398). -/
def Core.syncPart (k : Core) : Nat :=
  padTo 0x200 (packFields ((List.range 8).map (fun b => (16, (k.barrier b).record))
    ++ (List.range 6).flatMap (fun n =>
      let l : Level := Sparse.get {} n k.levels
      [(4, l.count.toNat), (4, l.sstr.toNat), (4, l.dstr.toNat), (4, 0)])
    ++ [(8, k.cctl.toNat), (8, k.copySeq.toNat), (8, k.copyFault.word)]
    ++ (List.range 16).map (fun b => (1, bankByte (Sparse.get .released b k.banks)))))
    (packFields ((List.range 64).map (fun h => (8, (Sparse.get {} h k.status : StatusEntry).val.toNat))))
/-- n registers from number b on and their hallmarks. -/
def taggedRegs (m : Sparse HReg) (g : Hm) (b n : Nat) : List (Nat × Nat) :=
  let rs := (List.range n).map (fun i => (Sparse.get {} (b + i) m : HReg).saved g)
  rs.map (fun r => (8, r.1)) ++ rs.map (fun r => (2, r.2))
/-- MTX (R398). -/
def Core.mtxPart (k : Core) (g : Hm) : Nat :=
  packFields (taggedRegs k.mparams g 0 8 ++ taggedRegs k.uents g 16 16 ++ taggedRegs k.uwords g 128 128)
/-- RING (R398). -/
def Core.ringPart (k : Core) (g : Hm) : Nat :=
  packFields ((List.range 4).map (fun n =>
    let r : RingSlot := Sparse.get {} n k.rings
    (0x4000, if r.hm = g then r.img.toNat + g.toNat * 2 ^ 98944 else 0)))
/-- Hallmarks and data of 4,096 lines. -/
def lineTags (m : Sparse Line) (g : Hm) : Nat :=
  packFields ((List.range 4096).map (fun n => (2, tagOf g (Sparse.get {} n m : Line).hm)))
def lineData (m : Sparse Line) (g : Hm) : Nat :=
  packFields ((List.range 4096).map (fun n => (128, ((Sparse.get {} n m : Line).read g).toNat)))
/-- The regions from HND on, which a trap save leaves unwritten. -/
def Core.livePart (k : Core) (g : Hm) : Nat :=
  packFields [(0x400, k.hndPart g), (0x400, k.syncPart), (0x1000, k.mtxPart g), (0x10000, k.ringPart g)
              , (0x2000, lineTags k.spm g), (0x2000, lineTags k.rows g), (0x80000, lineData k.spm g)
              , (0x80000, lineData k.rows g)]
/-- Offset of HND. -/
def hndOffset : Nat := 0x2800
/-- TASK (R398). -/
def Task.word (t : Task) : Nat :=
  t.index % 2 ^ 32 + t.node % 64 * 2 ^ 32 + t.slot % 16 * 2 ^ 40 + t.token % 2 ^ 16 * 2 ^ 48

/-! ### The save (R395, R396) -/

/-- Is the halted context of core c ready for its save: a trap it has raised taken, results arrived, copies and calls
off their counters, accesses performed at package scope, status entries posted,
epochs evaluated (R205)? -/
def State.halted (s : State) (c : Nat) : Bool :=
  let k := s.core c
  !k.stopped && k.flr.isNone && k.trapping.isNone && k.late.isNone && k.pend.isEmpty && k.bubbles == 0 && k.ncp == 0 && k.ntl == 0 && k.accs.isEmpty
    && k.status.all (fun e => !e.2.awaited && e.2.final.isNone) && k.barriers.all (fun e => !e.2.moved)
    && (s.die (dieOf c)).op.all (fun e => e.core != c)
/-- Does a line that the save reads under generation g hold an uncorrectable error? -/
def badLine (g : Hm) (m : Sparse Line) : Bool := m.any (fun e => e.2.bad && e.2.hm == g)
/-- Does the save fail (R395): the area is not wholly at valid addresses that a route reaches, or a write or a read of the
save meets an uncorrectable error? Only the first granule is written in part, and only over a trap save. -/
def State.saveFails (s : State) (c : Nat) : Bool :=
  let k := s.core c
  !s.areaOk c || (k.lvl && s.badAt k.ctxArea) || badLine k.ctxGen k.spm || badLine k.ctxGen k.rows
/-- Bytes between the landing queue and HND, which are reserved and written as zero. -/
def reservedGap : Nat := 0x2800 - corePartBytes
/-- Write the save area of core c (R396, R398): over a trap save only what that left unwritten, with CFLAGS.LVL. -/
def State.writeSave (s : State) (c : Nat) : State :=
  let k := s.core c
  let g := k.ctxGen
  let a := k.ctxArea
  let task := match k.task with
    | some t => t.word
    | none => 0
  let s1 :=
    if k.lvl then
      let fl := s.read platformGen (a + 0x30) 8
      ((s.write platformGen (a + 0x30) 8 (Nat.lor fl 6)).write platformGen (a + 0x38) 8 task).write platformGen
        (a + corePartBytes) reservedGap 0
    else
      let inc := match k.ten with
        | some t => s.incarnation t g
        | none => 0
      let part := k.corePart g (k.csr.vcyc.toNat * 2 ^ 192) inc k.pc ((if k.ui then 1 else 0) + 4) task (s.die (dieOf c)).lcyc
      let s0 := s.write platformGen a hndOffset part
      { s0 with lqFlags := Sparse.put [] a (k.lq.map LqEntry.flags) s0.lqFlags }
  s1.write platformGen (a + hndOffset) (saveAreaBytes - hndOffset) (k.livePart g)
/-- The context of core c, drained, is saved: PHASE 4 once it has drained, then the area, and PHASE 5. The task's
indices stay held by the saved context; what the core had not begun goes back (R395). A save that cannot be made kills
the context. -/
def execContextSave (core : Nat) (s : State) : Out :=
  let k := s.core core
  if k.phase = 3 then (if s.halted core then ok (s.updCore core (fun k => { k with phase := 4 })) else ok s)
  else if k.phase = 4 then
    if s.saveFails core then ok (s.killContext core)
    else if s.areaWaits core then ok s
    else
      let s1 := s.writeSave core
      let tok : List SavedToken := match k.task, k.ten with
        | some t, some n => [⟨n, t.slot, t⟩]
        | _, _ => []
      let s2 := (s1.updDie (dieOf core) (fun x => { x with saved := x.saved ++ tok })).handBack core
      ok ((s2.updCore core (fun k => { k.idle with banks := [], req := 0, threads := [], l0 := [] })).setPhase core 5)
  else ok s

/-! ### The restore (R399) -/

/-- The bits that user CSR i assigns (R86); an unassigned index has none. -/
def csrBits (i : Nat) : Nat :=
  if i = 0x000 then 3
  else if i = 0x001 then 13
  else if [0x002, 0x003, 0x004, 0x020, 0x030, 0x031].contains i then 64
  else if i = 0x010 then 12
  else if i = 0x011 then 5
  else if [0x018, 0x019, 0x01A, 0x01B].contains i then 32
  else if i = 0x021 then 6
  else if i = 0x032 then 16
  else 0
/-- Are the reserved bits of a saved user CSR zero? -/
def csrClean (i v : Nat) : Bool := decide (v < 2 ^ csrBits i) && (i != 0x030 || v % 16 == 0)
/-- Are the reserved bits of CCTL, of the copy sequence number and of the copy fault register zero (R217, R229, R230)? -/
def copyWordsClean (v : Nat) : Bool :=
  let c := field v 0x2CE0 8
  let f := field v 0x2CF0 8
  c / 2 ^ 16 % 2 ^ 16 == 0 && c % 4 == 0 && c / 8 % 4 != 3 && decide (field v 0x2CE8 8 < 2 ^ 16)
    && decide (f < 2 ^ 33) && f / 2 ^ 8 % 2 ^ 8 == 0
/-- Are the reserved bytes and bits of an area zero, and its landing queue in the order of R61? -/
def areaClean (v : Nat) : Bool :=
  let z := fun (o n : Nat) => field v o n == 0
  let csrs := (List.range 128).all (fun i => csrClean i (field v (0x400 + 8 * i) 8))
  copyWordsClean v && z 0x324 (0x400 - 0x324) && csrs && decide (field v 0x280 2 < 2 ^ 10) && decide (field v 0x30 8 < 8)
    && field v 0x38 8 / 2 ^ 38 % 4 == 0 && field v 0x38 8 / 2 ^ 44 % 16 == 0
    && decide (field v 0 8 < 2 ^ 40) && z 0x2300 0x500 && z 0x2A88 0x178
    && (List.range 64).all (fun h => decide (field v (0x2800 + 8 * h) 8 / 8 % 2 = 0) && decide (field v (0x2800 + 8 * h) 8 % 8 < 5))
    && (List.range 8).all (fun b => field v (0x2C00 + 16 * b) 16 / 16 % 2 ^ 44 == 0)
    && (List.range 6).all (fun n => decide (field v (0x2C80 + 16 * n) 4 < 2 ^ 20) && z (0x2C8C + 16 * n) 4)
    && (List.range 16).all (fun b => decide (field v (0x2CF8 + b) 1 < 2)) && z 0x2D08 0xF8
    && (List.range 64).all (fun h => field v (0x2E00 + 8 * h) 8 / 2 ^ 16 % 2 ^ 24 == 0 && field v (0x2E00 + 8 * h) 8 / 2 ^ 8 % 2 ^ 7 == 0)
    && (List.range 16).all (fun n => decide (field v (0x3050 + 8 * n) 8 < 2 ^ 20)) && z 0x35F0 0xA10 && (List.range 4).all (fun n => z (0x4000 + 0x4000 * n + 12370) (0x4000 - 12370))
    && lqPartOk v
/-- n tagged registers from offset o of the area, numbered from b. -/
def untagRegs (v : Nat) (g : Hm) (o b n : Nat) : Sparse HReg :=
  (List.range n).foldl (fun m i =>
    if field v (o + 8 * n + 2 * i) 2 = 0 then m else Sparse.put {} (b + i) ⟨BitVec.ofNat 64 (field v (o + 8 * i) 8), g⟩ m) []
/-- Lines from their hallmarks at offset o and their data at offset p. -/
def untagLines (v : Nat) (g : Hm) (o p : Nat) : Sparse Line :=
  (List.range 4096).foldl (fun m n =>
    if field v (o + 2 * n) 2 = 0 then m else Sparse.put {} n ⟨BitVec.ofNat 1024 (field v (p + 128 * n) 128), g, false⟩ m) []
/-- A handle from its record (R185); no descriptor is kept in the area. -/
def handleOf (w : Nat) (g : Hm) : Handle :=
  { exp := w / 2 ^ 44, cnt := w / 2 ^ 24 % 2 ^ 20, fmt := BitVec.ofNat 6 (w / 2 ^ 18), geo := BitVec.ofNat 3 (w / 2 ^ 15)
    phase := decide (w / 2 ^ 14 % 2 = 1), refetch := decide (w / 2 ^ 12 % 2 = 1), fcode := BitVec.ofNat 8 (w / 16)
    st := (match w % 8 with | 1 => .filling | 2 => .full | 3 => .draining | 4 => .error | _ => .free), hm := g }
/-- The regions from HND on written back under generation g (R399). -/
def Core.restoreLive (k : Core) (g : Hm) (v : Nat) : Core :=
  let hs := (List.range 64).filter (fun h => field v (0x2A00 + 2 * h) 2 != 0)
  let level := fun (n : Nat) => Level.mk (BitVec.ofNat 20 (field v (0x2C80 + 16 * n) 4))
    (BitVec.ofNat 32 (field v (0x2C84 + 16 * n) 4)) (BitVec.ofNat 32 (field v (0x2C88 + 16 * n) 4))
  let f := field v 0x2CF0 8
  { k with
    handles := hs.foldl (fun m h => Sparse.put {} h (handleOf (field v (0x2800 + 8 * h) 8) g) m) []
    armed := hs.foldl (fun (m : W64) h => if field v (0x2800 + 8 * h) 8 / 2 ^ 13 % 2 = 1 then m ||| (1#64 <<< h) else m) 0
    uiPend := BitVec.ofNat 64 (field v 0x2A80 8)
    barriers := (List.range 8).foldl (fun m b => Sparse.put {} b (barrierOf (field v (0x2C00 + 16 * b) 16)) m) []
    levels := (List.range 6).foldl (fun m n => Sparse.put {} n (level n) m) []
    cctl := BitVec.ofNat 64 (field v 0x2CE0 8), copySeq := BitVec.ofNat 16 (field v 0x2CE8 8)
    copyFault := ⟨decide (f / 2 ^ 32 % 2 = 1), BitVec.ofNat 16 (f / 2 ^ 16), BitVec.ofNat 8 f⟩
    banks := (List.range 16).foldl (fun m b =>
      Sparse.put .released b (if field v (0x2CF8 + b) 1 = 0 then .held else .released) m) []
    status := (List.range 64).foldl (fun m h =>
      Sparse.put {} h ⟨BitVec.ofNat 64 (field v (0x2E00 + 8 * h) 8), false, none⟩ m) []
    mparams := untagRegs v g 0x3000 0 8, uents := untagRegs v g 0x3050 16 16, uwords := untagRegs v g 0x30F0 128 128
    rings := (List.range 4).foldl (fun m n =>
      if field v (0x4000 + 0x4000 * n + 12368) 2 = 0 then m
      else Sparse.put {} n ⟨BitVec.ofNat 98944 (field v (0x4000 + 0x4000 * n) 12368), g⟩ m) []
    spm := untagLines v g 0x14000 0x18000, rows := untagLines v g 0x16000 0x98000
    regions := [], copies := [], calls := [], threads := [], accs := [], l0 := [], pend := [], hq := [], nextVc := []
    nld := 0, nst := 0, ncp := 0, ntl := 0, staging := [], preloads := [] }
/-- The saved task that an area's TASK names for tenancy t on die d, while its launch stands (R399). -/
def State.savedTask (s : State) (d t w : Nat) : Option SavedToken :=
  (s.die d).saved.find? (fun x => x.ten == t && x.task.word == w && (match (s.die d).launch x.slot with
    | some l => l.id == x.task.lid && !l.fenced
    | none => false))
/-- The core as an accepted restore leaves it, PHASE apart (R396, R399). A context saved over a trap save enters the trap
handler again as if the trap had just been taken: its landing queue stays in the area until ERET (R98). -/
def Core.restored (k : Core) (g : Hm) (flags : List Flags) (v : Nat) (t : Task) : Core :=
  let fl := field v 0x30 8
  let lvl := decide (fl / 2 % 2 = 1)
  let uia := decide (fl % 2 = 1)
  let k1 := (k.restoreCore g flags v).restoreLive g v
  let cause := field v 0 8
  { k1 with
    lq := if lvl then [] else k1.lq, ctxGen := g, task := some t, lvl := lvl, ui := uia && !lvl, uia := uia && lvl
    igpor := false, bubbles := 0, blocked := [], owed := 0, owedOps := [], trapping := none, late := none
    lateHeld := none, stopping := none, req := 0, grace := none, kill := none
    pc := if lvl then BitVec.ofNat 48 (k.csr.ptvec.toNat + 0x40 * (cause % 256)) else asPc (BitVec.ofNat 64 (field v 0x28 8))
    csr := if lvl then { k1.csr with pepc := BitVec.ofNat 64 (field v 8 8) &&& ~~~15#64, pcause := BitVec.ofNat 64 cause } else k1.csr }
/-- A restore of the context at CTXPTR (R392, R399): accepted in PHASE 0; a context that is refused is reported. A next task
fixed for the core goes back as R394 gives. The restore waits, and the core takes no task meanwhile, for preloads that still
run into the scratchpad, and until the area can be read; the event then makes it (DEDUCED, log entry 123). -/
def State.restoreContext (s : State) (core : Nat) : State :=
  let k := s.core core
  let d := dieOf core
  if k.phase ≠ 0 || k.flr.isSome || k.task.isSome || k.stopped then s
  else if s.areaWaits core || !k.preloads.isEmpty then (s.handBack core).updCore core (fun k => { k with rstDue := true })
  else
    let s := (s.handBack core).updCore core (fun k => { k with rstDue := false })
    let k := s.core core
    let a := k.ctxArea
    let v := s.read platformGen a saveAreaBytes
    let refuse := s.report d { (s.coreFault core { kind := 0x07, addr := a }) with inc := field v 0x20 8 }
    match k.ten with
    | none => refuse
    | some t =>
      let g := s.genOn d t
      let inc := s.incarnation t g
      if !s.areaOk core || s.badRun a saveAreaBytes || !s.tenReady t || g = nullGen || field v 0x20 8 ≠ inc
        || !areaClean v || field v 0x30 8 / 4 % 2 = 0 then refuse
      else match s.savedTask d t (field v 0x38 8) with
        | none => refuse
        | some x =>
          let s1 := (s.updDie d (fun y => { y with saved := y.saved.erase x })).updCore core (fun k =>
            k.restored g (Sparse.get [] a s.lqFlags) v x.task)
          let s2 := s1.setPhase core 1
          let k2 := s2.core core
          let vector := k2.csr.ptvec.toNat + 0x40 * field v 0 1
          if !k2.lvl then s2
          else if k2.csr.ptvec = 0 then s2.doubleTrap core ⟨field v 0 1, field v 1 1, 0, 0, 0, 0⟩ false
          else if 2 ^ 48 ≤ vector then s2.doubleTrap core ⟨7, 1, 0, 0, 0, BitVec.ofNat 64 vector⟩ true
          else s2
/-- PRECTL.RST. -/
def execContextRestore (core : Nat) (s : State) : Out := ok (if s.reachesDie (dieOf core) then s.restoreContext core else s)

/-! ### Function-level reset (R400, R401) -/

/-- The lc that outstanding work may take to drain (R400). -/
def flrDrain : Nat := 2000000
/-- The platform asks for a function-level reset of a core (R392, R400, R401): accepted in PHASE 0, 5 or 6, or frozen. -/
def State.resetCore (s : State) (core : Nat) : State :=
  let k := s.core core
  if k.flr.isSome || !(k.phase = 0 || k.phase = 5 || k.phase = 6 || k.frozen || k.stopped) then s
  else s.beginFlr core
/-- PRECTL.FLR, or a reset that follows a kill or a double trap. -/
def execFunctionLevelReset (core : Nat) (s : State) : Out := ok (if s.reachesDie (dieOf core) then s.resetCore core else s)

/-! ### PRECTL (R392) -/

/-- PRECTL as it reads: PHASE, and the request in force. -/
def Core.prectl (k : Core) : W64 := BitVec.ofNat 64 (k.phase % 16 * 2 ^ 12 + k.req % 4)
/-- A write to PRECTL of core c: one that sets a reserved bit, or more than one of FLR, RST and a non-zero REQ, changes
nothing, nor does one that does not fit PHASE. -/
def State.writePrectl (s : State) (c : Nat) (v : W64) : State :=
  let req := (v.extractLsb' 0 2).toNat
  let rst := v.getLsbD 2
  let flr := v.getLsbD 3
  let asked := (if req = 0 then 0 else 1) + (if rst then 1 else 0) + (if flr then 1 else 0)
  if v.extractLsb' 16 48 ≠ 0 || v.extractLsb' 4 8 ≠ 0 || asked ≠ 1 then s
  else if flr then s.resetCore c
  else if rst then s.restoreContext c
  else if req = 1 then s.softRequest c
  else if req = 2 then s.hardRequest c
  else s.killRequest c

/-! ### The drain of a reset (R400) -/

/-- Has everything of core c drained? -/
def State.flrDrained (s : State) (c : Nat) : Bool :=
  let k := s.core c
  k.pend.isEmpty && k.copies.isEmpty && k.calls.isEmpty && k.accs.isEmpty && (s.die (dieOf c)).op.all (fun e => e.core != c)
/-- What remains of core c is killed (step 3): each copy, call and discarded write in the fault reports, and the indices
of a task that has not been reported. -/
def State.killRest (s : State) (c : Nat) : State :=
  let d := dieOf c
  let k := s.core c
  let f := s.coreFault c { kind := 0x0B }
  let s0 := if k.task.isSome && !k.stopped then (s.reportTask c { kind := 0x0B }).failTask c else s
  let s1 := (k.copies.filter (fun x => !x.left)).foldl (fun s x => s.report d { f with seq := x.seq.toNat }) s0
  let s2 := k.calls.foldl (fun s x => s.report d { f with data := (k.handleRecord x.gen x.hout).toNat }) s1
  let sb := k.accs.filter (fun a => a.kind == .store && !a.done)
  let s3 := sb.foldl (fun s a => s.report d { f with addr := a.tgt.dla }) s2
  let held := (s.die d).op.filter (fun e => e.core == c && !e.sent)
  let s4 := held.foldl (fun s e => s.report d { f with addr := e.tgt.dla }) s3
  s4.updDie d (fun x => { x with op := x.op.filter (fun e => e.core != c || e.sent) })
/-- Step 4: on every die, the cached translations of a tenancy's generation go. -/
def State.dropTenancy (s : State) (t : Option Nat) : State :=
  match t with
  | none => s
  | some t => (List.range Config.dies).foldl (fun s d => s.dropTranslations d 3 t 0) s
/-- Step 5: every hallmark of the core null, its control registers at their reset values but for PTVEC, CTXPTR, GRACET
and KILLT, ISMAP from the configuration record. -/
def Core.cleared (k : Core) (ismap : W64) : Core :=
  { k.idle with
    sregs := [], shadow := [], preds := [], spreds := [], handles := [], mparams := [], uwords := [], uents := [], rings := []
    rows := Sparse.mapVals {} (fun _ l => { l with hm := nullGen }) k.rows
    spm := Sparse.mapVals {} (fun _ l => { l with hm := nullGen }) k.spm
    pvecs := Sparse.mapVals {} (fun _ l => { l with hm := nullGen }) k.pvecs
    csr := { ptvec := k.csr.ptvec, ctxptr := k.csr.ctxptr, gracet := k.csr.gracet, killt := k.csr.killt }
    ismap := ismap, copies := [], calls := [], threads := [], staging := [], preloads := [], regions := [], status := []
    barriers := [], levels := [], cctl := 0, copyFault := {}, armed := 0, uiPend := 0, accs := [], l0 := [], banks := []
    nld := 0, nst := 0, ncp := 0, ntl := 0, stopped := false, frozen := false, engineOp := none, stoch := false, icache := []
    req := 0, flr := none, parked := false, own := none, nextTask := none, chunks := [], rstDue := false }
/-- The drain of a function-level reset ends: drained, or 2,000,000 lc after its start (R400, steps 3 to 6). -/
def execFlrDrainEnd (core : Nat) (s : State) : Out :=
  match (s.core core).flr with
  | none => ok s
  | some n =>
    if !s.flrDrained core && decide ((s.die (dieOf core)).lcyc.toNat < n + flrDrain) then ok s
    else
      let s1 := ((s.killRest core).handBack core).dropTenancy (s.core core).ten
      let m := Sparse.get (0x1FFF#64) core s.trust.ismap
      ok (s1.updCore core (fun k => k.cleared m))

/-! ### Releasing frozen masters (R402) and throttling (R403) -/

/-- TYPE of the packet that a queue is executing. -/
def QWait.type : QWait → Nat
  | .mem .. => 0x08
  | .wrote .. => 0x09
  | .signal .. => 0x0A
  | .fence _ => 0x0B
  | .hand .. => 0x0C
  | .tenend _ => 0x0F
  | .no => 0
/-- A queue after the reset: nothing in execution, interpretation from the head on, which counts the packets started. -/
def Queue.resumed (x : Queue) : Queue :=
  { x with wait := .no, pos := x.headNow, subs := [], loops := [], blocks := [], skip := none }
/-- The packet that queue q was executing is abandoned and reported. -/
def State.abandonPacket (s : State) (d q : Nat) : State :=
  let x := s.queue d q
  if x.wait = .no then s
  else
    let f : FaultInfo := { kind := 0x0D, cause := x.wait.type, seq := q, addr := (x.pos - 1).toNat }
    s.report d (match x.owner q with
      | none => f
      | some t => { f with ten := t, inc := s.incarnation t (s.genOn d t) })
/-- The report of a write of the command processor that its reset discards (R400 step 3, R402). -/
def State.cpWriteFault (s : State) (d : Nat) (e : OpEntry) : FaultInfo :=
  let f : FaultInfo := { kind := 0x0B, addr := e.tgt.dla }
  match s.tenOf d e.gen with
  | none => f
  | some t => { f with ten := t, inc := s.incarnation t e.gen }
/-- Reset of a frozen command processor (R402): its writes still in the ordering point are discarded, each with a record. -/
def execCpReset (die : Nat) (s : State) : Out :=
  if !(s.die die).cpFrozen || !s.reachesDie die then ok s
  else
    let s0 := ((s.die die).queues.map Prod.fst).foldl (fun s q => s.abandonPacket die q) s
    let held := (s.die die).op.filter (fun e => e.core == 512 + die && !e.sent)
    let s1 := held.foldl (fun s e => s.report die (s.cpWriteFault die e)) s0
    ok (s1.updDie die (fun x => { x with
      cpFrozen := false, cpHeld := [], queues := Sparse.mapVals {} (fun _ q => q.resumed) x.queues
      op := x.op.filter (fun e => e.core != 512 + die || e.sent) }))
/-- A frozen function of an I/O link is released (R402): 4 die + 0 APP, 1 NET, 2 HOST, 3 EMP. -/
def execIoFunctionRelease (fn : Nat) (s : State) : Out :=
  if !s.reachesDie (fn / 4) then ok s else ok { s with io := { s.io with frozen := Sparse.put false fn false s.io.frozen } }
/-- A die changes the throttle level of a quadrant, 1 to 8 (R403). -/
def execThrottleLevelChange (die quadrant level : Nat) (s : State) : Out :=
  if level = 0 || 8 < level || 4 ≤ quadrant then ok s
  else ok (s.updDie die (fun x => { x with throttle := Sparse.put 8 quadrant level x.throttle }))

end Sys2Proof.Machine
end

