-- ==== Sys2Proof/Machine/Links.lean ====
section
/-! DEFINITION. Links (spec 18 R411-R419): flits, acknowledgement and replay, retraining, a link that is down and its
notices, the mirrors of link states, and LINKQ. A write crosses a mortar link by HOP once the flits that carry it have been
accepted; the bytes of its message are not laid out in the spec (notes/assumptions/30.md). -/
namespace Sys2Proof.Machine

/-! ### Flits (R411-R414) -/

/-- One bit, and one byte, of the CRC-32 of IEEE 802.3: bits enter least significant first (log entry 112). -/
def crcBit (c : BitVec 32) : BitVec 32 := if c.getLsbD 0 then (c >>> 1) ^^^ 0xEDB88320#32 else c >>> 1
def crcByte (c : BitVec 32) (b : Byte) : BitVec 32 := (List.range 8).foldl (fun c _ => crcBit c) (c ^^^ b.setWidth 32)
/-- The CRC-32 of some bytes: all ones at the start, complemented at the end. -/
def crc32 (bs : List Byte) : BitVec 32 := ~~~(bs.foldl crcByte (BitVec.allOnes 32))
/-- The 256 bytes of a flit, byte 0 in bits [7:0]: the payload above the header (R411). -/
def Flit.word (f : Flit) : BitVec 2048 :=
  f.pay ++ (f.seq ++ f.ack ++ BitVec.ofBool f.av ++ BitVec.ofBool f.nak ++ f.cls ++ f.vc ++ f.plen ++ f.crq ++ f.crs ++ 0#42
    ++ f.crc : BitVec 128)
/-- The CRC that a flit should bear, over its bytes 4-255. -/
def Flit.crcOf (f : Flit) : BitVec 32 := crc32 (bytesOf (f.word.toNat / 2 ^ 32) 252)
/-- Has the flit arrived undamaged? -/
def Flit.intact (f : Flit) : Bool := f.crc == f.crcOf
/-- A flit as its transmitter completes it, and as damage on its way leaves it. -/
def Flit.sealed (f : Flit) (bad : Bool) : Flit := { f with crc := if bad then ~~~f.crcOf else f.crcOf }
/-- SEQ of the oldest flit in the replay buffer. -/
def FlitDir.first (x : FlitDir) : BitVec 12 := x.next - BitVec.ofNat 12 x.buf.length
/-- What a transmitter sends as its next payload flit (R414): the next flit to be replayed, or a new one where it holds
fewer than 4,095 unacknowledged and a credit of the channel, with a payload of its own; none after a retrain until the other
end has said what it accepted (R415), nor between a NAK and its replay. -/
def FlitDir.payload (x : FlitDir) (vc : BitVec 2) (plen : Byte) (pay : BitVec 1920) : Option (Flit × FlitDir) :=
  if x.resync || x.nakIn then none else match x.buf[x.sent]? with
  | some b => some ({ seq := x.first + BitVec.ofNat 12 x.sent, cls := 1, vc := b.1, plen := b.2.1, pay := b.2.2 },
      { x with sent := x.sent + 1 })
  | none =>
    let cred := if vc = 0 then x.credQ else x.credS
    if 4095 ≤ x.buf.length || decide (240 < plen.toNat) || decide (2 ≤ vc.toNat) || cred = 0 then none
    else some ({ seq := x.next, cls := 1, vc := vc, plen := plen, pay := pay },
      { x with next := x.next + 1, buf := x.buf ++ [(vc, plen, pay)], sent := x.sent + 1
               credQ := if vc = 0 then x.credQ - 1 else x.credQ, credS := if vc = 0 then x.credS else x.credS - 1 })
/-- A direction of a link that stops to retrain: what is on its wire is lost (R415). -/
def FlitDir.stop (x : FlitDir) : FlitDir :=
  { x with wire := [], nakIn := false, naking := false, nakRun := 0, nakDue := false, resync := true }
/-- The link stops to retrain, if it is up. -/
def Link.retrain (x : Link) : Link := if x.st = 0 then { x with st := 1, dir0 := x.dir0.stop, dir1 := x.dir1.stop } else x
/-- What an end's receiver, of the direction towards it, puts into a flit that the end sends: its ACK and NAK. -/
def FlitDir.answer (x : FlitDir) (f : Flit) : Flit :=
  { f with ack := x.expect - 1, av := decide (0 < x.accepted), nak := x.nakDue }
/-- A link end sends a flit (R411, R414): idle, payload or control, with its acknowledgement and the credits it returns;
`bad` says that it is damaged on its way. The eighth NAK in a row for one flit makes the link retrain (R415). -/
def execFlitTransmit (link : Nat) (up : Bool) (cls vc : BitVec 2) (plen crq crs : Byte) (bad : Bool) (s : State) : Out :=
  let x := s.link link
  let out := x.dir up
  let back := x.dir (!up)
  let r : Option (Flit × FlitDir) :=
    if cls = 1 then out.payload vc plen (Config.flitPayload s.free) else if cls = 3 then none
    else some ({ cls := cls, pay := Config.flitPayload s.free }, out)
  match r with
  | none => ok s
  | some (f, out') =>
    if x.st ≠ 0 then ok s
    else
      let f := ({ back.answer f with crq := crq, crs := crs } : Flit).sealed bad
      ok ({ s with free := s.free + 1 }.updLink link (fun x =>
        let x1 := x.updDir up (fun _ => { out' with wire := out.wire ++ [f] })
        let x2 := x1.updDir (!up) (fun y => { y with nakDue := false, unacked := 0 })
        let x3 := { x2 with naks := if back.nakDue then x.naks + 1 else x.naks }
        if back.nakDue && decide (8 ≤ back.nakRun) then x3.retrain else x3))
/-- A receiver asks for a replay (R413). -/
def FlitDir.sendNak (x : FlitDir) : FlitDir := { x with naking := true, nakRun := x.nakRun + 1, nakDue := true }
/-- Does a receiver accept an arriving flit (R413)? -/
def FlitDir.takes (x : FlitDir) (f : Flit) : Bool := f.intact && f.cls == 1 && decide (f.vc.toNat < 2) && f.seq == x.expect
/-- What a receiver does with an arriving flit (R413). -/
def FlitDir.receive (x : FlitDir) (f : Flit) : FlitDir :=
  let back := (x.expect - 1 - f.seq).toNat
  if !f.intact then (if !x.naking || (f.cls == 1 && f.seq == x.expect) then x.sendNak else x)
  else if f.cls ≠ 1 || decide (2 ≤ f.vc.toNat) then x
  else if f.seq = x.expect then
    { x with expect := x.expect + 1, accepted := x.accepted + 1, naking := false, nakRun := 0, unacked := x.unacked + 1
             got := if f.vc = 0 then x.got + f.plen.toNat else x.got }
  else if back < min x.accepted 4095 then x
  else if x.naking then x else x.sendNak
/-- What a transmitter learns from an arriving flit: its acknowledgement frees the flits it covers, a NAK calls for a
replay, credits return (R411, R414); the control flit after a retrain has it replay the rest (R415). -/
def FlitDir.learn (x : FlitDir) (f : Flit) : FlitDir :=
  let n := (f.ack - x.first).toNat + 1
  let y := if f.av && decide (n ≤ x.buf.length) then { x with buf := x.buf.drop n, sent := x.sent - n } else x
  let y := if x.resync && f.cls == 2 then { y with resync := false, sent := 0 } else y
  { y with nakIn := y.nakIn || f.nak, credQ := y.credQ + f.crq.toNat, credS := y.credS + f.crs.toNat }
/-- The oldest flit on a wire arrives (R413). A receiver that has accepted 32 flits returns an ACK before it takes another. -/
def execFlitReceive (link : Nat) (up : Bool) (s : State) : Out :=
  let x := (s.link link).dir up
  match x.wire with
  | [] => ok s
  | f :: rest =>
    if x.takes f && decide (32 ≤ x.unacked) then ok s
    else ok (s.updLink link (fun x =>
      let x1 := x.updDir up (fun y => ({ y with wire := rest }).receive f)
      if !f.intact || f.cls = 3 then x1 else x1.updDir (!up) (fun y => y.learn f)))
/-- A transmitter that has received a NAK replays every unacknowledged flit (R414). -/
def execNakReplay (link : Nat) (up : Bool) (s : State) : Out :=
  let x := s.link link
  if x.st ≠ 0 || !(x.dir up).nakIn then ok s
  else ok (s.updLink link (fun x => x.updDir up (fun y => { y with sent := 0, nakIn := false })))

/-! ### Retraining, and a link that is down (R415-R418) -/

/-- A link starts to retrain (R415): both ends stop, and what is on the wires is lost. -/
def execRetrain (link : Nat) (s : State) : Out := ok (s.updLink link Link.retrain)
/-- The control flit that an end sends after a retrain, its receiver being the direction given (R415). -/
def FlitDir.resume (back : FlitDir) : Flit := ({ back.answer { cls := 2 } with nak := false } : Flit).sealed false
/-- Retraining completes at a width: 3 all lanes, 1 lanes 0-7, 2 lanes 8-15 (R415, R419). Each end sends a control flit with
the last flit it has accepted. -/
def execRetrainComplete (link width : Nat) (s : State) : Out :=
  if (s.link link).st ≠ 1 || width = 0 || 3 < width then ok s
  else ok (s.updLink link (fun x => { x with
    st := 0, width := width, retr := x.retr + 1
    dir0 := { x.dir0 with wire := [x.dir1.resume], unacked := 0 }
    dir1 := { x.dir1 with wire := [x.dir0.resume], unacked := 0 } })).flushAll
/-- The latency maps are updated (R238). -/
def State.newLatencies (s : State) : State :=
  (List.range Config.dies).foldl (fun s d => s.updDie d (fun x => { x with latEpoch := x.latEpoch + 1 })) s
/-- The dies whose application cores hear of a link: its ends, 8 for the I/O die (R430). -/
def linkEnds (l : Nat) : List Nat := if l < 8 then [l, (l + 1) % 8] else if l < 16 then [l - 8, 8] else [8]
/-- Each end of a mortar link hands on every message it has accepted from it (R417). -/
def State.handOn (s : State) (link : Nat) : State :=
  let all := fun (s : State) (up : Bool) =>
    (List.range (((s.link link).dir up).got / messageBytes)).foldl (fun s _ => s.hop link up) s
  all (all s true) false
/-- A link is declared down (R416): while it retrains, or after 16 retrains. A mortar link's ends first hand on what they have
accepted (R417). -/
def execLinkDown (link : Nat) (s : State) : Out :=
  let x := s.link link
  if !(x.st = 1 || (x.st = 0 && decide (16 ≤ x.retr))) then ok s
  else
    let m := decide (link < 8)
    let s0 := if m then s.handOn link else s
    let s1 := s0.updLink link (fun x => { x with st := 2, width := 0, dir0 := {}, dir1 := {}, note0 := m, note1 := m })
    let s2 := if m then s1.newLatencies.noteLoss else s1
    ok ((linkEnds link).foldl (fun s d => s.interrupt d 3) s2.flushAll)
/-- A down notice arrives at an end of a mortar link (R417): the writes that wait there go round the other way, in their
order and once no older write of theirs is on the old route (R292), or are lost. -/
def execDownNotice (link : Nat) (up : Bool) (s : State) : Out :=
  let x := s.link link
  if x.st ≠ 2 || !(if up then x.note0 else x.note1) then ok s
  else
    let here := if up then link else (link + 1) % 8
    let key := linkKey here up
    let waiting := Sparse.get [] key s.links
    if s.older waiting then ok s else
    let s1 := s.updLink link (fun x => if up then { x with note0 := false } else { x with note1 := false })
    let s2 := { s1 with links := Sparse.put [] key [] s1.links }
    ok (waiting.foldl (fun s e => s.toLink here (!up) e.1 e.2.1 e.2.2) s2)
/-- The platform enables a down link again (R416): it retrains. -/
def State.enableLink (s : State) (link : Nat) : State :=
  if (s.link link).st ≠ 2 then s
  else
    let s1 := s.updLink link (fun x => { x with st := 1, note0 := false, note1 := false })
    if link < 8 then s1.newLatencies else s1
/-- LINK_ENABLE. -/
def execLinkEnable (link : Nat) (s : State) : Out := ok (if s.reachesDie 8 then s.enableLink link else s)

/-! ### LINKQ (R419) -/

/-- A die's mirror of a link's state changes. -/
def execLinkMirrorUpdate (die link : Nat) (s : State) : Out :=
  ok (s.updDie die (fun x => { x with linkMir := Sparse.put none link (some (s.link link).word) x.linkMir }))
/-- LINKQ: the mirror as it stands when the query is served. -/
def execLinkq (p : BitVec 3) (d a : BitVec 6) (s : State) : Out :=
  slotMeaning p [s.rA a] (some (s.rD d)) true
    (fun s => trapIf (decide (24 ≤ (s.reg (s.rA a)).toNat)) 0x0A 0x40 .go)
    (fun s =>
      let g := s.gen
      let n := s.rD d
      let l := (s.reg (s.rA a)).toNat
      s.updK (fun k => { k with
        pend := k.pend ++ [⟨k.nextId, k.inShadow n 56, n, g, none, false, some (.link l), false⟩],
        nextId := k.nextId + 1 })) s

end Sys2Proof.Machine
end

