-- ==== Sys2Proof/Machine/Platform.lean ====
section
/-! DEFINITION. The platform interface (spec 18 R422): queue descriptors (R361), translation records (R276), hand-over
rights (R319), memory-side cache slices (R10, R317), slot tables (R236), network flows (R428), the HDM map (R426), and
the other controls that the chapters give the platform. -/
namespace Sys2Proof.Machine

/-! ### Queue descriptors and translation records -/

/-- Does die d hold a translation record for tenancy t? -/
def State.hasRecord (s : State) (d t : Nat) : Bool := (Sparse.get none t (s.die d).recs).isSome
/-- Is a queue descriptor with V = 1 refused (R361, R276)? -/
def State.refusesQueue (s : State) (d q v : Nat) : Bool :=
  let size := field v 8 1
  let ten := field v 10 2
  decide (size < 4) || decide (16 < size) || decide (field v 0 8 % (32 * 2 ^ size) ≠ 0) || decide (field v 16 8 % 8 ≠ 0)
    || decide (field v 24 8 % 8 ≠ 0) || field v 9 1 / 2 != 0 || ten / 2 ^ 12 != 0 || field v 12 4 != 0 || field v 40 24 != 0
    || (if q < 8 then ten != 0 else !s.hasRecord d (ten % 4096))
/-- The platform writes a queue descriptor of 64 bytes: the queue starts afresh, its FAULT cleared (R361, R367). -/
def execQueueDescriptorWrite (die queue : Nat) (desc : BitVec 512) (s : State) : Out :=
  let v := desc.toNat
  let valid := decide (field v 9 1 % 2 = 1)
  if !s.reachesDie die || 128 ≤ queue || (valid && s.refusesQueue die queue v) then ok s
  else ok (s.updQueue die queue (fun _ => {
    ring := BitVec.ofNat 64 (field v 0 8), size := field v 8 1, valid := valid, ten := field v 10 2 % 4096
    taila := BitVec.ofNat 64 (field v 16 8), heada := BitVec.ofNat 64 (field v 24 8) }))
/-- Is a translation record refused (R276)? -/
def refusesRecord (v : Nat) : Bool :=
  field v 0 8 / 2 ^ 52 != 0 || field v 0 8 % 2 ^ 12 != 0 || field v 8 8 / 2 ^ 48 != 0 || field v 8 8 % 2 ^ 16 != 0
    || field v 16 8 / 2 ^ 48 != 0 || field v 16 8 % 2 ^ 15 != 0 || field v 24 8 / 2 ^ 48 != 0 || field v 24 8 % 2 ^ 16 != 0
    || field v 40 24 != 0
/-- Does tenancy t hold a core or a valid queue of die d? -/
def State.holdsOn (s : State) (d t : Nat) : Bool :=
  s.cores.any (fun c => dieOf c.1 == d && c.2.ten == some t)
    || (s.die d).queues.any (fun q => decide (8 ≤ q.1) && q.2.valid && q.2.ten == t)
/-- The platform writes a tenancy's translation record on a die, or removes it (R276). HCONF is the hardware's. -/
def execTranslationRecordWrite (die ten : Nat) (remove : Bool) (rec_ : BitVec 512) (s : State) : Out :=
  let v := rec_.toNat
  let old := Sparse.get none ten (s.die die).recs
  if !s.reachesDie die || 4096 ≤ ten then ok s
  else if remove then
    if s.holdsOn die ten then ok s else ok (s.updDie die (fun x => { x with recs := Sparse.put none ten none x.recs }))
  else if refusesRecord v then ok s
  else
    let count := match old with
      | some r => r.hconf
      | none => 0
    let r : TransRec := { s1root := BitVec.ofNat 64 (field v 0 8), s2root := BitVec.ofNat 64 (field v 8 8)
                          impt := BitVec.ofNat 64 (field v 16 8), expt := BitVec.ofNat 64 (field v 24 8), hconf := count }
    ok (s.updDie die (fun x => { x with recs := Sparse.put none ten (some r) x.recs }))

/-! ### Stacks and slot tables -/

/-- The platform sets a stack's hand-over right (R319). -/
def State.setRight (s : State) (stack : Nat) (rv : Bool) (rten : BitVec 12) : State :=
  s.updStack stack (fun x => { x with rv := rv, rten := rten })
/-- The platform writes a stack's hand-over right (R319). -/
def execOwnerRightWrite (stack : Nat) (rv : Bool) (rten : BitVec 12) (s : State) : Out :=
  ok (if s.reachesDie 8 then s.setRight stack rv rten else s)
/-- Entries of a stage-2 table at a level (R273). -/
def tableEntries (lvl : Nat) : Nat := if lvl = 0 then 8192 else if lvl = 2 then 32 else 512
/-- Does a stage-2 table map any of the DLAs from lo up to hi? -/
def State.tableMaps (s : State) (lo hi : Nat) : Nat → Nat → Nat → Bool
  | 0, _, _ => false
  | fuel + 1, lvl, t => (List.range (tableEntries lvl)).any (fun i =>
      let e : W64 := BitVec.ofNat 64 (s.read platformGen (t + 8 * i) 8)
      if !e.getLsbD 0 || malformed2 lvl e then false
      else if e.getLsbD 1 then
        let a := e.toNat / 2 ^ 16 % 2 ^ 32 * 2 ^ 16
        decide (a < hi) && decide (lo < a + 2 ^ levelBits lvl)
      else s.tableMaps lo hi fuel (lvl + 1) (e.toNat / 2 ^ 8 % 2 ^ 40 * 2 ^ 8))
/-- The DLA of staging slice n of a stack (R272). -/
def sliceDla (stack n : Nat) : Nat := 2 ^ 45 + stack * 2 ^ 42 + n * 0x8000000
/-- The platform changes the number of memory-side cache slices of a stack (R10, R317): refused while a tenancy page maps a
slice whose role would change; the hallmarks of such slices become null and the latency maps are updated. -/
def execCacheSlicesChange (stack n : Nat) (s : State) : Out :=
  let old := (s.stack stack).mscn
  let lo := sliceDla stack (24 - max n old)
  let hi := sliceDla stack (24 - min n old)
  let mapped := s.dies.any (fun d => d.2.recs.any (fun r => match r.2 with
    | some r => s.tableMaps lo hi 4 0 r.s2root.toNat
    | none => false))
  if !s.reachesDie 8 || 8 < n || 8 ≤ stack || mapped then ok s
  else
    let hs := s.hallmarks.filter (fun e => decide (e.1 < lo / 128) || decide (hi / 128 ≤ e.1))
    ok (({ s with hallmarks := hs }.updStack stack (fun x => { x with mscn := n })).newLatencies)
/-- A new entry for a slot table waits for the cycle at which it takes effect; one with a reserved bit set is refused (R236). -/
def State.setSlot (s : State) (die idx : Nat) (entry : BitVec 16) : State :=
  if 256 ≤ idx || entry.extractLsb' 12 3 ≠ 0 then s
  else s.updDie die (fun x => { x with slotNew := Sparse.put none idx (some entry) x.slotNew, slotAt := x.lcyc.toNat })
/-- The platform writes a slot-table entry (R233, R236). -/
def execSlotTableWrite (die idx : Nat) (entry : BitVec 16) (s : State) : Out :=
  ok (if s.reachesDie die then s.setSlot die idx entry else s)
/-- Changes to the slot table take effect at the next local cycle that is a multiple of 256 (R236): the passing of the cycle
does it (`State.tick`), and the event finds nothing left but what a state holds over. -/
def execSlotTableTakeEffect (die : Nat) (s : State) : Out :=
  let x := s.die die
  if x.lcyc.toNat % 256 ≠ 0 || x.lcyc.toNat ≤ x.slotAt then ok s else ok (s.updDie die Die.slotsInForce)

/-! ### The I/O die's maps -/

/-- The platform registers a network flow, or clears it, its key with it (R428). An entry with a reserved bit set, or with a
queue outside 8-127, is refused (log entry 40). -/
def execFlowRegister (flow : Nat) (entry : W64) (key : BitVec 256) (s : State) : Out :=
  let v := entry.toNat
  let f : Flow := { ports := BitVec.ofNat 8 (field v 0 1), die := field v 1 1, queue := field v 2 1
                    valid := decide (field v 3 1 = 1), ten := field v 4 2, key := if field v 3 1 = 1 then key else 0 }
  if !s.reachesDie 8 || 4096 ≤ flow || field v 0 1 / 16 ≠ 0 || 8 ≤ f.die || f.queue < 8 || 128 ≤ f.queue || 2 ≤ field v 3 1
    || 4096 ≤ f.ten || field v 6 2 ≠ 0 then ok s
  else ok { s with io := { s.io with flows := Sparse.put {} flow f s.io.flows } }
/-- Set an entry of the HDM map (map 0) or of the ingress map of Empin link j (map j + 1) (R426, R427). -/
def State.setMap (s : State) (map g : Nat) (entry : W64) : State :=
  let e : IngressEntry := { gpa := entry.extractLsb' 40 24, die := (entry.extractLsb' 24 3).toNat, valid := entry.getLsbD 12
                            ten := (entry.extractLsb' 0 12).toNat }
  if 256 ≤ g || 8 < map then s
  else { s with io := { s.io with ingress := Sparse.put {} (65536 * map + g) e s.io.ingress } }
/-- The platform writes an entry of such a map. -/
def execHdmMapWrite (map g : Nat) (entry : W64) (s : State) : Out := ok (if s.reachesDie 8 then s.setMap map g entry else s)
/-- A map entry as a word (R426). -/
def IngressEntry.word (e : IngressEntry) : W64 :=
  BitVec.ofNat 64 (e.gpa.toNat * 2 ^ 40 + e.die % 8 * 2 ^ 24 + (if e.valid then 2 ^ 12 else 0) + e.ten % 4096)
/-- Word n of a flow entry (R428). -/
def Flow.word (f : Flow) (n : Nat) : W64 :=
  match n with
  | 0 => BitVec.ofNat 64 (f.ports.toNat + f.die * 2 ^ 8 + f.queue * 2 ^ 16 + (if f.valid then 2 ^ 24 else 0) + f.ten * 2 ^ 32)
  | 1 => f.last
  | 2 => f.acc
  | _ => f.drop
/-- Word n of a queue descriptor (R361). -/
def Queue.word (x : Queue) (n : Nat) : W64 :=
  match n with
  | 0 => x.ring
  | 1 => BitVec.ofNat 64 (x.size + (if x.valid then 2 ^ 8 else 0) + x.ten * 2 ^ 16)
  | 2 => x.taila
  | 3 => x.heada
  | 4 => x.fault
  | _ => 0
/-- Word n of a translation record (R276). -/
def TransRec.word (r : TransRec) (n : Nat) : W64 :=
  match n with
  | 0 => r.s1root
  | 1 => r.s2root
  | 2 => r.impt
  | 3 => r.expt
  | 4 => r.hconf
  | _ => 0

/-! ### The other controls -/

/-- The size of the CXL window: the host range and eight apertures (R424). -/
def IoDie.window (x : IoDie) : Nat := x.hostRange + 8 * x.aperture
/-- Set the I/O die and with it the CXL window. -/
def State.setIo (s : State) (x : IoDie) : State := { s with io := x, cxlSize := x.window }
/-- The platform allots core c to tenancy t, or to none (R16, R276, R395): refused for a withheld core, for one that still
runs or is being reset, and where the die has no record of the tenancy. A core whose context was saved is idle again. -/
def State.allot (s : State) (c : Nat) (t : Option Nat) : State :=
  let k := s.core c
  let allowed := match t with
    | none => true
    | some t => s.hasRecord (dieOf c) t
  if k.withheld || Sparse.get false c s.trust.withheld || !(k.phase = 0 || k.phase = 5) || k.task.isSome || k.flr.isSome || k.stopped || !allowed then s
  else (s.handBack c).updCore c (fun k => { k with ten := t, phase := 0, parked := false })
/-- A ring's base and the power of two of its size, in one word: the base is aligned to 4 KiB. -/
def ringBase (v : W64) : W64 := v &&& ~~~4095#64
def ringLog (v : W64) : Nat := v.toNat % 4096
/-- The compute die that holds a control, 8 where none does. -/
def regDie : PlatformReg → Nat
  | .coreTenancy core => dieOf core
  | .hostRange => 8
  | .aperture => 8
  | .reportRing die => die
  | .reportHead die => die
  | .violation _ _ _ => 8
  | .brickQuota die _ => die
  | .debug die _ => die
  | .capture die _ _ => die
  | .captureCount die _ => die
  | .identity _ _ => 8
  | .commandPort _ => 8
  | .endFence die _ => die
  | .hdmErrors => 8
  | .prectl core => dieOf core
  | .debt die _ => die
  | .queueWord die _ _ => die
  | .recordWord die _ _ => die
  | .flowWord _ _ => 8
  | .owner _ => 8
  | .slot die _ => die
  | .mapEntry _ _ => 8
  | .link _ => 8
  | .signature die _ => die
  | .revision die => die
/-- What a write to a control changes (R422). One word of a record that the platform writes whole does nothing: the record has an event of
its own (log entry 105). -/
def State.setReg (s : State) (r : PlatformReg) (v : W64) : State :=
  match r with
  | .queueWord _ _ _ => s
  | .recordWord _ _ _ => s
  | .flowWord _ _ => s
  | .owner k => s.setRight k (v.getLsbD 44) (v.extractLsb' 32 12)
  | .slot d i => s.setSlot d i (v.setWidth 16)
  | .mapEntry m g => s.setMap m g v
  | .link l => s.enableLink l
  | .signature _ _ => s
  | .revision _ => s
  | .prectl c => s.writePrectl c v
  | .debt _ _ => s
  | .coreTenancy c => s.allot c (if v.toNat < 4096 then some v.toNat else none)
  | .hostRange => s.setIo { s.io with hostRange := v.toNat }
  | .aperture => s.setIo { s.io with aperture := v.toNat }
  | .reportRing d =>
    if ringLog v < 6 || 16 < ringLog v then s
    else s.updDie d (fun x => { x with frBase := ringBase v, frLog := ringLog v, frTail := 0, frHead := 0 })
  | .reportHead d => s.updDie d (fun x => { x with frHead := v.toNat })
  | .violation k upper _ => s.updStack k (fun x => if upper then { x with viol1 := {} } else { x with viol0 := {} })
  | .brickQuota d t => s.updDie d (fun x => { x with quota := Sparse.put 4096 t v.toNat x.quota })
  | .debug d t => s.updDie d (fun x => { x with debugTens := (x.debugTens.filter (· != t)) ++ (if v = 0 then [] else [t]) })
  | .capture d t replay =>
    if v ≠ 0 && (ringLog v < 6 || 16 < ringLog v) then s
    else
    let r : Option Replay := if v = 0 then none else some { base := ringBase v, log := ringLog v, replay := replay }
    s.updDie d (fun x => { x with replays := Sparse.put none t r x.replays })
  | .captureCount d t => s.updDie d (fun x => match Sparse.get none t x.replays with
      | none => x
      | some r =>
        let r' := if r.replay then { r with tail := v.toNat } else { r with head := v.toNat }
        { x with replays := Sparse.put none t (some r') x.replays })
  | .identity d e =>
    { s with io := { s.io with identities := Sparse.put (0, 0) (8 * d + e) (v.toNat / 2048 % 16, v.toNat % 2048) s.io.identities } }
  | .commandPort p => { s with io := { s.io with cmdPort := Sparse.put 0 p (v.toNat % 65536) s.io.cmdPort } }
  | .endFence d t =>
    let f := fun (e : Nat) (x : Die) => { x with
      fences := if e = d then x.fences.filter (· != t) else x.fences, refused := x.refused.filter (· != (t, d)) }
    { s with dies := Sparse.mapVals {} f s.dies }
  | .hdmErrors => { s with io := { s.io with hdmErrors := v.toNat } }
/-- A write to a control, which a die held in reset does not take (R6, R454, R455). -/
def State.writeReg (s : State) (r : PlatformReg) (v : W64) : State := if s.reachesDie (regDie r) then s.setReg r v else s
/-- What a control reads as (R236, R276, R319, R324, R361, R392, R404, R407, R416, R422, R426, R428, R458). The signature that
the record gives is every die's. -/
def State.readReg (s : State) (r : PlatformReg) : W64 :=
  let word := fun (high : Bool) (v : Violation) =>
    if high then v.count * 2 ^ 48 + v.gen.toNat * 2 ^ 32 + v.core * 2 ^ 26 + v.src * 2 ^ 24 else v.dla % 2 ^ 48
  match r with
  | .queueWord d q n => (s.queue d q).word n
  | .recordWord d t n => (match Sparse.get none t (s.die d).recs with
    | none => 0
    | some r => r.word n)
  | .flowWord f n => (Sparse.get {} f s.io.flows).word n
  | .owner k => s.ownerReg k
  | .slot d i => (Sparse.get 0#16 i (s.die d).slotTab).setWidth 64
  | .mapEntry m g => (Sparse.get {} (65536 * m + g) s.io.ingress).word
  | .link l => (s.link l).word
  | .signature _ n => s.trust.lattHash.extractLsb' (64 * n) 64
  | .revision _ => s.trust.rev
  | .prectl c => (s.core c).prectl
  | .debt d t => BitVec.ofNat 64 (Sparse.get 0 t (s.die d).debt / 16)
  | .coreTenancy c => BitVec.ofNat 64 ((s.core c).ten.getD 4096)
  | .hostRange => BitVec.ofNat 64 s.io.hostRange
  | .aperture => BitVec.ofNat 64 s.io.aperture
  | .reportRing d => (s.die d).frBase ||| BitVec.ofNat 64 (s.die d).frLog
  | .reportHead d => BitVec.ofNat 64 (s.die d).frTail
  | .violation k upper high => BitVec.ofNat 64 (word high (if upper then (s.stack k).viol1 else (s.stack k).viol0))
  | .brickQuota d t => BitVec.ofNat 64 (Sparse.get 4096 t (s.die d).quota)
  | .debug d t => if (s.die d).debugTens.contains t then 1 else 0
  | .capture d t _ => (match Sparse.get none t (s.die d).replays with
    | none => 0
    | some r => r.base ||| BitVec.ofNat 64 r.log)
  | .captureCount d t => (match Sparse.get none t (s.die d).replays with
    | none => 0
    | some r => BitVec.ofNat 64 (if r.replay then r.head else r.tail))
  | .identity d e => let x := Sparse.get (0, 0) (8 * d + e) s.io.identities
    BitVec.ofNat 64 (x.1 * 2048 + x.2)
  | .commandPort p => BitVec.ofNat 64 (Sparse.get 0 p s.io.cmdPort)
  | .endFence d t => if (s.die d).fences.contains t then 1 else 0
  | .hdmErrors => BitVec.ofNat 64 s.io.hdmErrors
/-- PLATFORM_REGISTER_WRITE (R422). -/
def execPlatformRegisterWrite (reg : PlatformReg) (v : W64) (s : State) : Out := ok (s.writeReg reg v)

end Sys2Proof.Machine
end

