-- ==== Sys2Proof/Machine/HostIf.lean ====
section
/-! DEFINITION. What reaches the module from outside (spec 18): accesses of the application cores (R421-R423), requests of
the CXL host (R426) and over Empin (R427), and command frames of the network engine (R428, R429). -/
namespace Sys2Proof.Machine

/-! ### Functions of an I/O link (R420) -/

/-- Does the I/O link of die d take a request of a function: 0 APP, 1 NET, 2 HOST, 3 EMP? -/
def State.takesIo (s : State) (d f : Nat) : Bool :=
  s.io.released && (s.die d).released && !Sparse.get false (4 * d + f) s.io.frozen && (s.link (8 + d)).st == 0
/-- Is the I/O link of die d down, so that its requests get no data (R418)? -/
def State.ioDown (s : State) (d : Nat) : Bool := decide (2 ≤ (s.link (8 + d)).st)
/-- The master of a function of die d's I/O link, as a port names it (R324). -/
def ioMaster (d f : Nat) : Nat := 1024 + 4 * d + f
/-- The answer to the host or an Empin peer: data, or poison. -/
def State.answerIo (s : State) (v : Nat) (poison : Bool) : State :=
  { s with io := { s.io with reply := BitVec.ofNat 512 v, poisoned := poison } }
/-- What application core c receives: data, poison, or an access fault (R418, R421). -/
def State.answerApp (s : State) (c : Nat) (r : AppReply) : State :=
  { s with io := { s.io with apps := Sparse.put {} c r s.io.apps } }
/-- The new value of n bytes that an atomic of RV64A finds as old, its operand being v (PRESUMED, log entry 74). -/
def rvResult (o : RvAmo) (n old v : Nat) : Nat :=
  let m := 2 ^ (8 * n)
  let x := old % m
  let y := v % m
  let less := fun (signed : Bool) => if signed then decide ((x + m / 2) % m < (y + m / 2) % m) else decide (x < y)
  match o with
  | .swap => y
  | .add => (x + y) % m
  | .xor => Nat.xor x y
  | .and => Nat.land x y
  | .or => Nat.lor x y
  | .min => if less true then x else y
  | .max => if less true then y else x
  | .minu => if less false then x else y
  | .maxu => if less false then y else x
/-- A read, write or atomic of n bytes under generation g at a target that is open: the state, the data read, and whether it is
poison. -/
def State.perform (s : State) (g : Hm) (a n : Nat) (op : AppOp) (v : Nat) : State × Nat × Bool :=
  let put := fun (w : Nat) => if s.isCurrent (homeDie a) g then s.write g a n (w % 2 ^ (8 * n)) else s.discard g
  match op with
  | .store => (put v, 0, false)
  | .load => if s.badRun a n then (s, 0, true) else (s, s.read g a n, false)
  | .amo o => if s.badRun a n then (s, 0, true) else (put (rvResult o n (s.read g a n) v), s.read g a n, false)
/-- May a request of an I/O function that die d makes reach its home now: the hand-over, the links on its way, and its turn at
the port, where no request of its tenancy stands before it (R234, R323, R336, R415)? -/
def State.ioGo (s : State) (d : Nat) (t : Target) : Bool :=
  s.homeOpen t && s.wayOpen d t && s.portFree t t.gen

/-! ### Application cores (R421) -/

/-- Is an access of an application core whole: one, two, four or eight bytes, an atomic of four or eight and aligned? -/
def reqWhole (r : AppReq) (pa : W64) (size : Nat) : Bool :=
  match r.op with
  | .amo _ => (size == 4 || size == 8) && pa.toNat % size == 0
  | _ => decide (1 ≤ size) && decide (size ≤ 8)
/-- A load, store or atomic of an application core at a 56-bit physical address. A die-local address is an I/O-die request under
the platform generation (R323). The platform interface of region 0x08 has no layout in the spec: the offset of each control
is a free value of Config (log entry 105). A load of another register of regions 0x08 and 0x09 returns a free value, and an
atomic there an access fault. Nothing of the I/O die acts before its release (R6). -/
def execApplicationCoreAccess (pa : W64) (size : Nat) (req : AppReq) (data : W64) (s : State) : Out :=
  let r := pa.toNat / 2 ^ 48 % 256
  let a := pa.toNat % 2 ^ 48
  let poison := s.answerApp req.core { poisoned := true }
  let deny := s.answerApp req.core { denied := true }
  let low := fun (v : W64) => ({ data := BitVec.ofNat 64 (v.toNat % 2 ^ (8 * size)) } : AppReply)
  if !reqWhole req pa size || !s.io.released then ok s
  else if r < 8 then
    if s.ioDown r then ok poison
    else if !s.takesIo r 0 then ok s
    else match s.translateDla r a with
      | .error f => if f = walkWait then ok s else ok deny
      | .ok t =>
        if s.wayLost r t then ok poison
        else if !s.ioGo r t then ok s
        else if s.violates t then ok (s.violation t platformGen (ioMaster r 0) false)
        else
          let x := s.perform platformGen t.dla size req.op data.toNat
          ok ((x.1.answerApp req.core { data := BitVec.ofNat 64 x.2.1, poisoned := x.2.2 }).rotate t.die (portOf t) t.gen)
  else if r < 10 then
    (match req.op with
    | .amo _ => ok deny
    | .store => (match (if r = 8 then Config.platformLayout a else none) with
      | some reg => ok (if reg.placed then s.writeReg reg data else s)
      | none => ok s)
    | .load => (match (if r = 8 then Config.platformLayout a else none) with
      | some reg => ok (if reg.placed then s.answerApp req.core (low (s.readReg reg)) else s)
      | none =>
        let v := s.freshValue
        ok (v.2.answerApp req.core (low v.1))))
  else ok deny

/-! ### The CXL host and Empin (R426, R427) -/

/-- Where a request to an ingress entry goes, translated by stage 2 of its tenancy at its die, which must own the stack (R278,
R329); an error `walkWait` where it waits for its tables, and another where it is refused. -/
def State.ingressTarget (s : State) (e : IngressEntry) (off n : Nat) (write : Bool) : Except Nat Target :=
  let gpa := e.gpa.toNat * 2 ^ 28 + off
  let g := s.genOn e.die e.ten
  if !e.valid || gpa / 2 ^ 48 % 16 = 15 || g = nullGen || 2 ^ 28 < off + n then .error 0x09
  else match Sparse.get none e.ten (s.die e.die).recs with
    | none => .error 0x09
    | some r => match s.leaf2 e.die r g gpa with
      | .error f => .error f
      | .ok (dla, _, pr, pw) => match s.check2 e.die dla pr pw (!write) write with
        | some f => .error f
        | none => .ok { dla := dla, gen := g, die := e.die, remote := true, epoch := s.epochOf dla }
/-- A request from outside through an ingress entry: refused, it counts as an HDM error and a read returns poison. -/
def State.ingress (s : State) (f key off n : Nat) (write : Bool) (data : Nat) : State :=
  let e : IngressEntry := Sparse.get {} key s.io.ingress
  let refuse := { s.answerIo 0 (!write) with io := { (s.answerIo 0 (!write)).io with hdmErrors := s.io.hdmErrors + 1 } }
  if n = 0 || 64 < n then s
  else if !e.valid then refuse
  else if s.ioDown e.die then s.answerIo 0 true
  else if !s.takesIo e.die f then s
  else match s.ingressTarget e off n write with
    | .error x => if x = walkWait then s else refuse
    | .ok t =>
      if s.wayLost e.die t then refuse
      else if !s.ioGo e.die t then s
      else if s.violates t then s.violation t t.gen (ioMaster e.die f) false
      else
        let x := s.perform t.gen t.dla n (if write then .store else .load) data
        (x.1.answerIo x.2.1 x.2.2).rotate t.die (portOf t) t.gen
/-- A CXL host request of n bytes, within one host line, to an HDM granule (R426). -/
def execHostRequest (g off size : Nat) (write : Bool) (data : BitVec 512) (s : State) : Out :=
  if 256 ≤ g then ok s else ok (s.ingress 2 g off size write data.toNat)
/-- A request that arrives over Empin link j (R427). -/
def execEmpinRequest (link g off size : Nat) (write : Bool) (data : BitVec 512) (s : State) : Out :=
  if 8 ≤ link || 256 ≤ g || (s.link (16 + link)).st ≠ 0 then ok s
  else ok (s.ingress 3 (65536 * (link + 1) + g) off size write data.toNat)

/-- The host or an Empin peer reads or writes memory of its own, which the module reaches at a DLA of the CXL window: what it
writes is globally observable at once, and what it reads holds the module's writes that have been performed at system scope
(R425, R427). -/
def State.outside (s : State) (a n : Nat) (write : Bool) (v : Nat) : State :=
  if n = 0 || 64 < n || !(dlaCxl a && s.dlaOk a && s.dlaOk (a + n - 1)) then s
  else if write then s.write platformGen a n (v % 2 ^ (8 * n))
  else s.answerIo (s.read platformGen a n) false

/-! ### Command frames (R428, R429) -/

/-- The bytes that a frame's tag covers (R428). -/
def frameBytes (flow npkt : BitVec 16) (zero : BitVec 32) (fseq : W64) (pkts : List (BitVec 256)) : List Byte :=
  bytesOf flow.toNat 2 ++ bytesOf npkt.toNat 2 ++ bytesOf zero.toNat 4 ++ bytesOf fseq.toNat 8
    ++ pkts.flatMap (fun p => bytesOf p.toNat 32)
/-- The nonce: FLOW, two zero bytes, FSEQ. -/
def frameNonce (flow : BitVec 16) (fseq : W64) : BitVec 96 := BitVec.ofNat 96 (flow.toNat + fseq.toNat * 2 ^ 32)
/-- Change a flow. -/
def State.updFlow (s : State) (n : Nat) (f : Flow → Flow) : State :=
  { s with io := { s.io with flows := Sparse.upd {} n f s.io.flows } }
/-- Write packets into the slots of a queue from count n on, under its tenancy's generation; an error 0 waits. -/
def State.putPackets (s : State) (d : Nat) (x : Queue) : Nat → List (BitVec 256) → Except Nat State
  | _, [] => .ok s
  | n, p :: rest =>
    match s.homeWrite d (some x.ten) (x.ring.toNat + 32 * (n % 2 ^ x.size)) 32 p.toNat with
    | .error f => .error f
    | .ok s1 => s1.putPackets d x (n + 1) rest
/-- An aligned word of tenancy t as the network engine reads it through die d, at its home (R295, R429): an error 0 waits. -/
def State.netRead (s : State) (d t a : Nat) : Except Nat Nat :=
  match s.translateCp d (some t) (BitVec.ofNat 64 a) .read with
  | .error f => .error f
  | .ok g =>
    if s.wayLost d g then .error 8
    else if !s.homeOpen g || !s.wayOpen d g then .error 0
    else if s.badAt g.dla then .error walkError
    else .ok (s.read g.gen g.dla 8)
/-- The packets of a frame enter the queue of its flow, then the new tail (R429): an error 0 waits, another drops the frame. -/
def State.acceptFrame (s : State) (f : Flow) (n : Nat) (fseq : W64) (pkts : List (BitVec 256)) : Except Nat State :=
  let x := s.queue f.die f.queue
  match s.netRead f.die x.ten x.taila.toNat with
  | .error c => .error c
  | .ok tail => match s.netRead f.die x.ten x.heada.toNat with
    | .error c => .error c
    | .ok head =>
      if 2 ^ x.size < (BitVec.ofNat 64 tail - BitVec.ofNat 64 head).toNat + pkts.length then .error 4
      else match s.putPackets f.die x tail pkts with
        | .error c => .error c
        | .ok s1 => match s1.homeWrite f.die (some x.ten) x.taila.toNat 8 ((tail + pkts.length) % 2 ^ 64) with
          | .error c => .error c
          | .ok s2 => .ok (s2.updFlow n (fun f => { f with last := fseq, acc := f.acc + 1 }))
/-- A frame arrives at an Ethernet port (R428, R429), with its UDP port, 65536 where it carries no UDP: a command frame is
accepted whole, dropped and counted, or, like every other frame, passed to the platform's receive rings. With its die's I/O link
down the head cannot be read, and the frame is dropped (R418); a frozen or retraining function takes it later. -/
def execCommandFrame (port udp : Nat) (flow npkt : BitVec 16) (zero : BitVec 32) (fseq : W64) (pkts : List (BitVec 256))
    (tag : BitVec 128) (s : State) : Out :=
  let n := flow.toNat
  let f : Flow := Sparse.get {} n s.io.flows
  let pass := { s with io := { s.io with received := s.io.received + 1 } }
  if !s.io.released then ok s
  else if udp ≠ Sparse.get 0 port s.io.cmdPort || 4096 ≤ n || !f.valid then ok pass
  else
    let x := s.queue f.die f.queue
    let good := f.ports.getLsbD port && x.valid && !x.fault.getLsbD 8 && x.ten == f.ten && zero == 0
      && npkt.toNat == pkts.length && decide (1 ≤ pkts.length) && decide (pkts.length ≤ 32)
      && tag == gcmTag f.key (frameNonce flow fseq) (frameBytes flow npkt zero fseq pkts)
      && decide (f.last.toNat < fseq.toNat)
    let drop := s.updFlow n (fun f => { f with drop := f.drop + 1 })
    if !good || s.ioDown f.die then ok drop
    else if !s.takesIo f.die 1 then ok s
    else match s.acceptFrame f n fseq pkts with
      | .error c => ok (if c = 0 then s else drop)
      | .ok s1 => ok s1

end Sys2Proof.Machine
end

