-- ==== Sys2Proof/Machine/Trust.lean ====
section
/-! DEFINITION. The trust die (spec 20): module reset and the configuration record (R454, R457), the release of the dies
(R6, R455, R458), and the SPDM responder (R461, R462). -/
namespace Sys2Proof.Machine

/-! ### The configuration record (R457) -/

/-- n bytes of a list from offset o on, the first lowest. -/
def recField (bs : List Byte) (o n : Nat) : Nat := ((bs.drop o).take n).foldr (fun b v => b.toNat + 256 * v) 0
/-- Bytes of its signature. -/
def recSigBytes : Nat := 29792
/-- Does a record keep the layout? -/
def recordLaid (r : List Byte) : Bool :=
  let len := recField r 24 4
  let part := fun (o n : Nat) => decide (3200 ≤ recField r o 4) && decide (recField r o 4 + recField r n 4 ≤ len)
  recField r 0 4 == 0x43303448 && recField r 4 4 == 1 && decide (3200 ≤ len) && r.length == len + recSigBytes
    && recField r 44 20 == 0 && part 28 32 && part 36 40
    && (List.range 512).all (fun i => decide (recField r (64 + 2 * i) 2 < 2 ^ 13))
/-- Does a slot-to-engine map leave an instance of every class (R16, R47)? -/
def mapWhole (m : W64) : Bool :=
  m.extractLsb' 8 5 == 31#5 && (List.range 4).all (fun i => m.extractLsb' (2 * i) 2 != 0)
/-- The trust die after it has verified a record, with the platform's key pair drawn (R460). -/
def trustOf (key : BitVec 512) (r : List Byte) : Trust :=
  let ism := fun (i : Nat) => BitVec.ofNat 64 (recField r (64 + 2 * i) 2)
  let held := recField r 1088 64
  { up := true, recDigest := shake256 64 r, svn := BitVec.ofNat 64 (recField r 8 8), rev := BitVec.ofNat 64 (recField r 16 8)
    withheld := (List.range 512).foldl (fun m i => Sparse.put false i (decide (held / 2 ^ i % 2 = 1) || !mapWhole (ism i)) m) []
    ismap := (List.range 512).foldl (fun m i => Sparse.put 0x1FFF i (ism i) m) []
    lattHash := latencySignature ((r.drop 1152).take 2048), keys := [(1, some ⟨0, key⟩)] }
/-- Module reset (R454): the whole module returns to its reset state, and the boot ROM verifies the configuration record.
If that fails no die leaves reset. What happens next, and the count of free values, are the model's own. -/
def execModuleReset (record : List Byte) (s : State) : Out :=
  let len := recField record 24 4
  let good := recordLaid record && Config.slhVerify (record.take len) (record.drop len)
  ok { State.reset with
    agenda := s.agenda, cur := s.cur, free := s.free + 1, trust := if good then trustOf (Config.drawKey (s.free + 1)) record else {} }

/-! ### The release of the dies (R6, R455, R458) -/

/-- Is compute die k held in reset for good? -/
def State.heldInReset (s : State) (k : Nat) : Bool := decide (9 + k < s.trust.next) && !(s.die k).released
/-- Every die's mirror of the owner register of stack k shows the owner at reset (R320, R455). -/
def State.mirrorOwner (s : State) (k : Nat) : State :=
  (List.range Config.dies).foldl (fun s d => s.updDie d (fun x => { x with
    ownMir := Sparse.put none k (some (s.ownerReg k)) x.ownMir })) s
/-- Compute die k stays in reset: the stack it would own at reset belongs to its other die, and a stack that neither of its
dies reaches is absent (R9, R455). A die that leaves reset changes no owner. -/
def State.settleStacks (s : State) (k : Nat) : State :=
  if !s.heldInReset k then s
  else [k, (k + 7) % 8].foldl (fun s j => s.updStack j (fun x => { x with
    up := x.up || j == k, present := x.present && !(s.heldInReset (lowerDie j) && s.heldInReset (upperDie j)) })) s |>.mirrorOwner k
/-- The cores of compute die k take their maps from the record; those withheld, or all of them where the die stays in
reset, run no code (R16, R455, R458). -/
def State.bootCores (s : State) (k : Nat) (good : Bool) : State :=
  (List.range Config.coresPerDie).foldl (fun s n =>
    let c := Config.coresPerDie * k + n
    s.updCore c (fun x => { x with
      ismap := Sparse.get 0x1FFF c s.trust.ismap, withheld := !good || Sparse.get false c s.trust.withheld })) s
/-- The trust die comes to the next die: it measures its firmware image, verifies the signature, and releases it, unless
its defect map or trims fail to apply (R455, R459). A die that fails stays in reset. -/
def execDieRelease (image sig : List Byte) (applied : Bool) (s : State) : Out :=
  let n := s.trust.next
  if !s.trust.up || s.trust.dead || 17 ≤ n then ok s
  else
    let good := !image.isEmpty && Config.slhVerify image sig && applied
    let m := shake256 64 (List.replicate 64 0 ++ shake256 64 image)
    let s1 := { s with trust := { s.trust with
      next := n + 1, meas := if good then Sparse.put [] n m s.trust.meas else s.trust.meas, dead := decide (n = 0) && !good } }
    if n = 0 then ok { s1 with io := { s1.io with released := good } }
    else if n < 9 then ok (s1.updStack (n - 1) (fun x => { x with present := good }))
    else
      let k := n - 9
      ok (((s1.updDie k (fun x => { x with released := good, lcyc := 0 })).bootCores k good).settleStacks k)

/-! ### Attestation (R461, R462) -/

/-- The SPDM responder answers, over the I/O die's CXL port or the platform interface, once every die has been measured: two
responses between the same resets are identical (R462; DEDUCED, log entry 130). -/
def State.respond (s : State) (a : Spdm) : State :=
  if s.trust.up && s.io.released && s.trust.next == 17 then { s with trust := { s.trust with answer := a } } else s
/-- GET_VERSION. -/
def execGetVersion (s : State) : Out := ok (s.respond .version)
/-- GET_CAPABILITIES. -/
def execGetCapabilities (s : State) : Out := ok (s.respond .capabilities)
/-- NEGOTIATE_ALGORITHMS: SHA3-384 and ECDSA with P-384. -/
def execNegotiateAlgorithms (s : State) : Out := ok (s.respond .algorithms)
/-- The certificate chain of slot 0. -/
def chain0 : List Byte := Config.certChain Config.romDigest
/-- GET_DIGESTS: the digest of the chain in slot 0. -/
def execGetDigests (s : State) : Out := ok (s.respond (.digests (sha3_384 chain0)))
/-- GET_CERTIFICATE: a portion of the chain in slot 0. -/
def execGetCertificate (off len : Nat) (s : State) : Out := ok (s.respond (.certificate off ((chain0.drop off).take len)))
/-- The bytes of measurement block i (R461); none for an index without a block. -/
def State.block (s : State) (i : Nat) : Option (List Byte) :=
  let m := fun (n : Nat) => match Sparse.get [] n s.trust.meas with
    | [] => List.replicate 64 0
    | l => l
  if i = 1 then some Config.romDigest
  else if 2 ≤ i ∧ i ≤ 18 then some (m (i - 2))
  else if i = 19 then some s.trust.recDigest
  else if i = 20 then some (bytesOf s.trust.svn.toNat 8)
  else none
/-- Measurement blocks of some indices. -/
def State.blocks (s : State) (is : List Nat) : List (Nat × List Byte) :=
  is.filterMap (fun i => (s.block i).map (fun b => (i, b)))
/-- CHALLENGE: the responder's signature over the SHA3-384 digest of the transcript (R461). -/
def execChallenge (transcript : List Byte) (s : State) : Out :=
  ok (s.respond (.challengeAuth (Config.sign Config.romDigest (sha3_384 transcript))))
/-- GET_MEASUREMENTS of one index, or of all with 0xFF (R461, R462). -/
def execGetMeasurements (index : Nat) (s : State) : Out :=
  let is := if index = 0xFF then (List.range 20).map (· + 1) else [index]
  ok (s.respond (.measurements (s.blocks is)))
/-- Any other request (R461). -/
def execUnsupportedRequest (s : State) : Out := ok (s.respond .unsupported)

end Sys2Proof.Machine
end

