-- ==== Sys2Proof/Machine/Dispatch.lean ====
section
/-! DEFINITION. The one dispatch: each instruction, micro-op, packet and event to its meaning. -/
namespace Sys2Proof.Machine

/-- The meaning of an instruction. -/
def exec (i : Instr) (s : State) : Host.Outcome State Fault Refusal :=
  match i with
  | .nop => Sys2Proof.Machine.execNop s
  | .add p d a b => Sys2Proof.Machine.execAdd p d a b s
  | .sub p d a b => Sys2Proof.Machine.execSub p d a b s
  | .and p d a b => Sys2Proof.Machine.execAnd p d a b s
  | .or p d a b => Sys2Proof.Machine.execOr p d a b s
  | .xor p d a b => Sys2Proof.Machine.execXor p d a b s
  | .andn p d a b => Sys2Proof.Machine.execAndn p d a b s
  | .orn p d a b => Sys2Proof.Machine.execOrn p d a b s
  | .shl p d a b => Sys2Proof.Machine.execShl p d a b s
  | .shr p d a b => Sys2Proof.Machine.execShr p d a b s
  | .sar p d a b => Sys2Proof.Machine.execSar p d a b s
  | .min p d a b => Sys2Proof.Machine.execMin p d a b s
  | .max p d a b => Sys2Proof.Machine.execMax p d a b s
  | .minu p d a b => Sys2Proof.Machine.execMinu p d a b s
  | .maxu p d a b => Sys2Proof.Machine.execMaxu p d a b s
  | .clz p d a => Sys2Proof.Machine.execClz p d a s
  | .popc p d a => Sys2Proof.Machine.execPopc p d a s
  | .bfx p d a b => Sys2Proof.Machine.execBfx p d a b s
  | .bfi p d a b => Sys2Proof.Machine.execBfi p d a b s
  | .cmpt p a b => Sys2Proof.Machine.execCmpt p a b s
  | .mul p d a b => Sys2Proof.Machine.execMul p d a b s
  | .mulh p d a b => Sys2Proof.Machine.execMulh p d a b s
  | .mulhu p d a b => Sys2Proof.Machine.execMulhu p d a b s
  | .div p d a b => Sys2Proof.Machine.execDiv p d a b s
  | .divu p d a b => Sys2Proof.Machine.execDivu p d a b s
  | .rem p d a b => Sys2Proof.Machine.execRem p d a b s
  | .remu p d a b => Sys2Proof.Machine.execRemu p d a b s
  | .cmp p d a b c => Sys2Proof.Machine.execCmp p d a b c s
  | .sel p d a b n => Sys2Proof.Machine.execSel p d a b n s
  | .pand p d a b => Sys2Proof.Machine.execPand p d a b s
  | .por p d a b => Sys2Proof.Machine.execPor p d a b s
  | .pxor p d a b => Sys2Proof.Machine.execPxor p d a b s
  | .pget p d => Sys2Proof.Machine.execPget p d s
  | .pset p d a => Sys2Proof.Machine.execPset p d a s
  | .addi p d a i' => Sys2Proof.Machine.execAddi p d a i' s
  | .andi p d a i' => Sys2Proof.Machine.execAndi p d a i' s
  | .ori p d a i' => Sys2Proof.Machine.execOri p d a i' s
  | .xori p d a i' => Sys2Proof.Machine.execXori p d a i' s
  | .shli p d a n => Sys2Proof.Machine.execShli p d a n s
  | .shri p d a n => Sys2Proof.Machine.execShri p d a n s
  | .sari p d a n => Sys2Proof.Machine.execSari p d a n s
  | .cmpi p c d a i' => Sys2Proof.Machine.execCmpi p c d a i' s
  | .cmpiu p c d a i' => Sys2Proof.Machine.execCmpiu p c d a i' s
  | .movi p d i' => Sys2Proof.Machine.execMovi p d i' s
  | .movhi p d i' => Sys2Proof.Machine.execMovhi p d i' s
  | .csrr p d c => Sys2Proof.Machine.execCsrr p d c s
  | .csrw p a c => Sys2Proof.Machine.execCsrw p a c s
  | .br p o => Sys2Proof.Machine.execBr p o s
  | .brl p o => Sys2Proof.Machine.execBrl p o s
  | .loop p l o => Sys2Proof.Machine.execLoop p l o s
  | .loopr p l k o => Sys2Proof.Machine.execLoopr p l k o s
  | .jr p a => Sys2Proof.Machine.execJr p a s
  | .jrl p d a => Sys2Proof.Machine.execJrl p d a s
  | .trap p c => Sys2Proof.Machine.execTrap p c s
  | .eret p => Sys2Proof.Machine.execEret p s
  | .uiret p => Sys2Proof.Machine.execUiret p s
  | .wait p l s' c t => Sys2Proof.Machine.execWait p l s' c t s
  | .vadd p d a b t => Sys2Proof.Machine.execVadd p d a b t s
  | .vsub p d a b t => Sys2Proof.Machine.execVsub p d a b t s
  | .vmul p d a b t => Sys2Proof.Machine.execVmul p d a b t s
  | .vfma p d a b t => Sys2Proof.Machine.execVfma p d a b t s
  | .vfms p d a b t => Sys2Proof.Machine.execVfms p d a b t s
  | .vmax p d a b t => Sys2Proof.Machine.execVmax p d a b t s
  | .vmin p d a b t => Sys2Proof.Machine.execVmin p d a b t s
  | .vand p d a b => Sys2Proof.Machine.execVand p d a b s
  | .vor p d a b => Sys2Proof.Machine.execVor p d a b s
  | .vxor p d a b => Sys2Proof.Machine.execVxor p d a b s
  | .vshl p d a b => Sys2Proof.Machine.execVshl p d a b s
  | .vshr p d a b => Sys2Proof.Machine.execVshr p d a b s
  | .vsar p d a b => Sys2Proof.Machine.execVsar p d a b s
  | .vcmp p c d a b t => Sys2Proof.Machine.execVcmp p c d a b t s
  | .vsel p d a b t => Sys2Proof.Machine.execVsel p d a b t s
  | .vshf p d a b t => Sys2Proof.Machine.execVshf p d a b t s
  | .vrotl p d a n t => Sys2Proof.Machine.execVrotl p d a n t s
  | .vmov p d a t => Sys2Proof.Machine.execVmov p d a t s
  | .vabs p d a t => Sys2Proof.Machine.execVabs p d a t s
  | .vneg p d a t => Sys2Proof.Machine.execVneg p d a t s
  | .viota p d t => Sys2Proof.Machine.execViota p d t s
  | .vclr p d => Sys2Proof.Machine.execVclr p d s
  | .vbc p d s' t => Sys2Proof.Machine.execVbc p d s' t s
  | .vxt p v d l t => Sys2Proof.Machine.execVxt p v d l t s
  | .vins p v s' l t => Sys2Proof.Machine.execVins p v s' l t s
  | .vredSum p d a t => Sys2Proof.Machine.execVredSum p d a t s
  | .vredMax p d a t => Sys2Proof.Machine.execVredMax p d a t s
  | .vredMin p d a t => Sys2Proof.Machine.execVredMin p d a t s
  | .vcvt p d a e t => Sys2Proof.Machine.execVcvt p d a e t s
  | .cmptv p a b t => Sys2Proof.Machine.execCmptv p a b t s
  | .vexp2 p d a t => Sys2Proof.Machine.execVexp2 p d a t s
  | .vlog2 p d a t => Sys2Proof.Machine.execVlog2 p d a t s
  | .vrcp p d a t => Sys2Proof.Machine.execVrcp p d a t s
  | .vrsq p d a t => Sys2Proof.Machine.execVrsq p d a t s
  | .vsin p d a t => Sys2Proof.Machine.execVsin p d a t s
  | .vtanh p d a t => Sys2Proof.Machine.execVtanh p d a t s
  | .vunpk p d a f k t => Sys2Proof.Machine.execVunpk p d a f k t s
  | .vpack p d a f k t => Sys2Proof.Machine.execVpack p d a f k t s
  | .vbscl p d a b t => Sys2Proof.Machine.execVbscl p d a b t s
  | .vld p v a o => Sys2Proof.Machine.execVld p v a o s
  | .vst p v a o => Sys2Proof.Machine.execVst p v a o s
  | .vlds p v a o => Sys2Proof.Machine.execVlds p v a o s
  | .vsts p v a o => Sys2Proof.Machine.execVsts p v a o s
  | .sadd p d a b r => Sys2Proof.Machine.execSadd p d a b r s
  | .ssub p d a b r => Sys2Proof.Machine.execSsub p d a b r s
  | .smul p d a b r => Sys2Proof.Machine.execSmul p d a b r s
  | .sdiv p d a b r => Sys2Proof.Machine.execSdiv p d a b r s
  | .suni p d a b r => Sys2Proof.Machine.execSuni p d a b r s
  | .sint p d a b r => Sys2Proof.Machine.execSint p d a b r s
  | .scmp p d a b r => Sys2Proof.Machine.execScmp p d a b r s
  | .sneg p d a r => Sys2Proof.Machine.execSneg p d a r s
  | .sfrom p d a r => Sys2Proof.Machine.execSfrom p d a r s
  | .sbnd p d a r => Sys2Proof.Machine.execSbnd p d a r s
  | .sarc p d a r => Sys2Proof.Machine.execSarc p d a r s
  | .smsk p d a r => Sys2Proof.Machine.execSmsk p d a r s
  | .sred p d a r => Sys2Proof.Machine.execSred p d a r s
  | .spld p d a o z => Sys2Proof.Machine.execSpld p d a o z s
  | .spst p d a o z => Sys2Proof.Machine.execSpst p d a o z s
  | .ld p d a o z => Sys2Proof.Machine.execLd p d a o z s
  | .lds p d a o z c => Sys2Proof.Machine.execLds p d a o z c s
  | .lda p d a o z c => Sys2Proof.Machine.execLda p d a o z c s
  | .pref p a o => Sys2Proof.Machine.execPref p a o s
  | .st p d a o z => Sys2Proof.Machine.execSt p d a o z s
  | .sts p d a o z c => Sys2Proof.Machine.execSts p d a o z c s
  | .strl p d a o z c => Sys2Proof.Machine.execStrl p d a o z c s
  | .amoAdd p d a b c => Sys2Proof.Machine.execAmoAdd p d a b c s
  | .amoAnd p d a b c => Sys2Proof.Machine.execAmoAnd p d a b c s
  | .amoOr p d a b c => Sys2Proof.Machine.execAmoOr p d a b c s
  | .amoXor p d a b c => Sys2Proof.Machine.execAmoXor p d a b c s
  | .amoMin p d a b c => Sys2Proof.Machine.execAmoMin p d a b c s
  | .amoMax p d a b c => Sys2Proof.Machine.execAmoMax p d a b c s
  | .amoSwap p d a b c => Sys2Proof.Machine.execAmoSwap p d a b c s
  | .cas p d a b c => Sys2Proof.Machine.execCas p d a b c s
  | .fence p c => Sys2Proof.Machine.execFence p c s
  | .fenceAll p c => Sys2Proof.Machine.execFenceAll p c s
  | .waitaNe p d a b c => Sys2Proof.Machine.execWaitaNe p d a b c s
  | .waitaEq p d a b c => Sys2Proof.Machine.execWaitaEq p d a b c s
  | .hwait p h t => Sys2Proof.Machine.execHwait p h t s
  | .hstat p d h => Sys2Proof.Machine.execHstat p d h s
  | .hrel p h => Sys2Proof.Machine.execHrel p h s
  | .hset p h a b => Sys2Proof.Machine.execHset p h a b s
  | .hexp p h a b => Sys2Proof.Machine.execHexp p h a b s
  | .hswap p h => Sys2Proof.Machine.execHswap p h s
  | .bkrel p a => Sys2Proof.Machine.execBkrel p a s
  | .bkwait p a => Sys2Proof.Machine.execBkwait p a s
  | .barv p n a => Sys2Proof.Machine.execBarv p n a s
  | .barvInit p n a => Sys2Proof.Machine.execBarvInit p n a s
  | .bart p n a => Sys2Proof.Machine.execBart p n a s
  | .barw p n => Sys2Proof.Machine.execBarw p n s
  | .uien p h e => Sys2Proof.Machine.execUien p h e s
  | .clvl p n a b => Sys2Proof.Machine.execClvl p n a b s
  | .cgo p h d s' => Sys2Proof.Machine.execCgo p h d s' s
  | .cgox p h d s' => Sys2Proof.Machine.execCgox p h d s' s
  | .cqry p d a q => Sys2Proof.Machine.execCqry p d a q s
  | .mxcall p h i' r => Sys2Proof.Machine.execMxcall p h i' r s
  | .mxp p m a => Sys2Proof.Machine.execMxp p m a s
  | .mxpr p d m => Sys2Proof.Machine.execMxpr p d m s
  | .mxldu p a b => Sys2Proof.Machine.execMxldu p a b s
  | .mxrt p n a => Sys2Proof.Machine.execMxrt p n a s
  | .mxstat p d h => Sys2Proof.Machine.execMxstat p d h s
  | .shand p h a => Sys2Proof.Machine.execShand p h a s
  | .sown p d a => Sys2Proof.Machine.execSown p d a s
  | .genr p d => Sys2Proof.Machine.execGenr p d s
  | .tenend p a b => Sys2Proof.Machine.execTenend p a b s
  | .genprobe p d a q => Sys2Proof.Machine.execGenprobe p d a q s
  | .tidx p d => Sys2Proof.Machine.execTidx p d s
  | .tnext p d => Sys2Proof.Machine.execTnext p d s
  | .suspend p a b => Sys2Proof.Machine.execSuspend p a b s
  | .endTask p => Sys2Proof.Machine.execEndTask p s
  | .linkq p d a => Sys2Proof.Machine.execLinkq p d a s
  | .ringld p r a => Sys2Proof.Machine.execRingld p r a s
  | .vdot p d a b t => Sys2Proof.Machine.execVdot p d a b t s
  | .vabd p d a b t => Sys2Proof.Machine.execVabd p d a b t s
  | .vclmp p d a b t => Sys2Proof.Machine.execVclmp p d a b t s
  | .vcvth p d a e t => Sys2Proof.Machine.execVcvth p d a e t s
  | .vscl p d s' t => Sys2Proof.Machine.execVscl p d s' t s
  | .zero ld rp => Sys2Proof.Machine.execZero ld rp s
  | .mma ap bp kp mp ah bh sp ua ain bin => Sys2Proof.Machine.execMma ap bp kp mp ah bh sp ua ain bin s
  | .unf tp gp => Sys2Proof.Machine.execUnf tp gp s
  | .drain rp scp sc df => Sys2Proof.Machine.execDrain rp scp sc df s
  | .adv pd sp ps stride => Sys2Proof.Machine.execAdv pd sp ps stride s
  | .mxLoop cp => Sys2Proof.Machine.execMxLoop cp s
  | .endl => Sys2Proof.Machine.execEndl s
  | .waith h => Sys2Proof.Machine.execWaith h s
  | .mxEnd => Sys2Proof.Machine.execMxEnd s
  | .callStart core => Sys2Proof.Machine.execCallStart core s
  | .statusPost core h => Sys2Proof.Machine.execStatusPost core h s
  | .landing core => Sys2Proof.Machine.execLanding core s
  | .resultArrive core idx => Sys2Proof.Machine.execResultArrive core idx s
  | .trapEntry core => Sys2Proof.Machine.execTrapEntry core s
  | .userLevelInterrupt core => Sys2Proof.Machine.execUserLevelInterrupt core s
  | .walkComplete kind agent ten va => Sys2Proof.Machine.execWalkComplete kind agent ten va s
  | .sbDrain core idx => Sys2Proof.Machine.execSbDrain core idx s
  | .send die idx => Sys2Proof.Machine.execSend die idx s
  | .hop link up => Sys2Proof.Machine.execHop link up s
  | .apply port gen => Sys2Proof.Machine.execApply port gen s
  | .serve core idx src => Sys2Proof.Machine.execServe core idx src s
  | .fill core va => Sys2Proof.Machine.execFill core va s
  | .evict core line => Sys2Proof.Machine.execEvict core line s
  | .waitaReread core => Sys2Proof.Machine.execWaitaReread core s
  | .copyLineTransfer core op idx => Sys2Proof.Machine.execCopyLineTransfer core op idx s
  | .remotePost core op => Sys2Proof.Machine.execRemotePost core op s
  | .preloadStart core i' => Sys2Proof.Machine.execPreloadStart core i' s
  | .taskStart core => Sys2Proof.Machine.execTaskStart core s
  | .brickReady die idx => Sys2Proof.Machine.execBrickReady die idx s
  | .brickResume core => Sys2Proof.Machine.execBrickResume core s
  | .taskComplete core => Sys2Proof.Machine.execTaskComplete core s
  | .chunkMark die slot => Sys2Proof.Machine.execChunkMark die slot s
  | .chunkClaim core => Sys2Proof.Machine.execChunkClaim core s
  | .launchComplete die slot => Sys2Proof.Machine.execLaunchComplete die slot s
  | .quorumDecision launch => Sys2Proof.Machine.execQuorumDecision launch s
  | .reconfiguration launch => Sys2Proof.Machine.execReconfiguration launch s
  | .tailRead die queue => Sys2Proof.Machine.execTailRead die queue s
  | .launch mask lrec => Sys2Proof.Machine.execLaunch mask lrec s
  | .launchi mask lrec inda => Sys2Proof.Machine.execLaunchi mask lrec inda s
  | .loopPacket ind count => Sys2Proof.Machine.execLoopPacket ind count s
  | .endloop => Sys2Proof.Machine.execEndloop s
  | .ifeq addr value mask => Sys2Proof.Machine.execIfeq addr value mask s
  | .ifne addr value mask => Sys2Proof.Machine.execIfne addr value mask s
  | .endif => Sys2Proof.Machine.execEndif s
  | .waitmem op addr value mask => Sys2Proof.Machine.execWaitmem op addr value mask s
  | .writemem sz8 scope addr value => Sys2Proof.Machine.execWritemem sz8 scope addr value s
  | .signal vector addr value => Sys2Proof.Machine.execSignal vector addr value s
  | .fencePacket scope => Sys2Proof.Machine.execFencePacket scope s
  | .handover cpl sig stack core handle saddr sval => Sys2Proof.Machine.execHandover cpl sig stack core handle saddr sval s
  | .calls len addr => Sys2Proof.Machine.execCalls len addr s
  | .rets => Sys2Proof.Machine.execRets s
  | .tenendPacket close ten eraddr => Sys2Proof.Machine.execTenendPacket close ten eraddr s
  | .handoverSwitch stack => Sys2Proof.Machine.execHandoverSwitch stack s
  | .ownerMirrorUpdate die stack => Sys2Proof.Machine.execOwnerMirrorUpdate die stack s
  | .tenendSwitch ten die => Sys2Proof.Machine.execTenendSwitch ten die s
  | .tenendRecord ten => Sys2Proof.Machine.execTenendRecord ten s
  | .generationGrant => Sys2Proof.Machine.execGenerationGrant s
  | .assayRewrite kind agent ten index => Sys2Proof.Machine.execAssayRewrite kind agent ten index s
  | .assayPassComplete => Sys2Proof.Machine.execAssayPassComplete s
  | .softRequest core => Sys2Proof.Machine.execSoftRequest core s
  | .hardRequest core => Sys2Proof.Machine.execHardRequest core s
  | .killRequest core => Sys2Proof.Machine.execKillRequest core s
  | .graceExpiry core => Sys2Proof.Machine.execGraceExpiry core s
  | .contextSave core => Sys2Proof.Machine.execContextSave core s
  | .killExpiry core => Sys2Proof.Machine.execKillExpiry core s
  | .contextRestore core => Sys2Proof.Machine.execContextRestore core s
  | .functionLevelReset core => Sys2Proof.Machine.execFunctionLevelReset core s
  | .flrDrainEnd core => Sys2Proof.Machine.execFlrDrainEnd core s
  | .cpReset die => Sys2Proof.Machine.execCpReset die s
  | .ioFunctionRelease fn => Sys2Proof.Machine.execIoFunctionRelease fn s
  | .throttleLevelChange die quadrant level => Sys2Proof.Machine.execThrottleLevelChange die quadrant level s
  | .slotTableWrite die idx entry => Sys2Proof.Machine.execSlotTableWrite die idx entry s
  | .slotTableTakeEffect die => Sys2Proof.Machine.execSlotTableTakeEffect die s
  | .queueDescriptorWrite die queue desc => Sys2Proof.Machine.execQueueDescriptorWrite die queue desc s
  | .translationRecordWrite die ten remove rec_ => Sys2Proof.Machine.execTranslationRecordWrite die ten remove rec_ s
  | .ownerRightWrite stack rv rten => Sys2Proof.Machine.execOwnerRightWrite stack rv rten s
  | .cacheSlicesChange stack n => Sys2Proof.Machine.execCacheSlicesChange stack n s
  | .tenancyOpen ten => Sys2Proof.Machine.execTenancyOpen ten s
  | .flowRegister flow entry key => Sys2Proof.Machine.execFlowRegister flow entry key s
  | .hdmMapWrite map g entry => Sys2Proof.Machine.execHdmMapWrite map g entry s
  | .invalidationRequest die kind ten a id => Sys2Proof.Machine.execInvalidationRequest die kind ten a id s
  | .invalidationComplete die id => Sys2Proof.Machine.execInvalidationComplete die id s
  | .linkEnable link => Sys2Proof.Machine.execLinkEnable link s
  | .platformRegisterWrite reg v => Sys2Proof.Machine.execPlatformRegisterWrite reg v s
  | .flitTransmit link up cls vc plen crq crs bad => Sys2Proof.Machine.execFlitTransmit link up cls vc plen crq crs bad s
  | .flitReceive link up => Sys2Proof.Machine.execFlitReceive link up s
  | .nakReplay link up => Sys2Proof.Machine.execNakReplay link up s
  | .retrain link => Sys2Proof.Machine.execRetrain link s
  | .retrainComplete link width => Sys2Proof.Machine.execRetrainComplete link width s
  | .linkDown link => Sys2Proof.Machine.execLinkDown link s
  | .downNotice link up => Sys2Proof.Machine.execDownNotice link up s
  | .commandFrame port udp flow npkt zero fseq pkts tag => Sys2Proof.Machine.execCommandFrame port udp flow npkt zero fseq pkts tag s
  | .hostRequest g off size write data => Sys2Proof.Machine.execHostRequest g off size write data s
  | .empinRequest link g off size write data => Sys2Proof.Machine.execEmpinRequest link g off size write data s
  | .moduleReset record => Sys2Proof.Machine.execModuleReset record s
  | .dieRelease image sig applied => Sys2Proof.Machine.execDieRelease image sig applied s
  | .getVersion => Sys2Proof.Machine.execGetVersion s
  | .getCapabilities => Sys2Proof.Machine.execGetCapabilities s
  | .negotiateAlgorithms => Sys2Proof.Machine.execNegotiateAlgorithms s
  | .getDigests => Sys2Proof.Machine.execGetDigests s
  | .getCertificate off len => Sys2Proof.Machine.execGetCertificate off len s
  | .challenge transcript => Sys2Proof.Machine.execChallenge transcript s
  | .getMeasurements index => Sys2Proof.Machine.execGetMeasurements index s
  | .unsupportedRequest => Sys2Proof.Machine.execUnsupportedRequest s
  | .applicationCoreAccess pa size req data => Sys2Proof.Machine.execApplicationCoreAccess pa size req data s
  | .linkMirrorUpdate die link => Sys2Proof.Machine.execLinkMirrorUpdate die link s
  | .waitmemReread die queue => Sys2Proof.Machine.execWaitmemReread die queue s
  | .tlbReplacement kind agent idx => Sys2Proof.Machine.execTlbReplacement kind agent idx s
  | .reservedMicroOp => Sys2Proof.Machine.execReservedMicroOp s
  | .followerLaunch die slot => Sys2Proof.Machine.execFollowerLaunch die slot s

end Sys2Proof.Machine
end

