-- ==== Sys2Proof/Machine/Issue.lean ====
section
/-! DEFINITION. The steps of the agents that run code: the issue of a bundle (spec 03 R48-R58, 05 R88, R98-R100,
07 R159), the next micro-word of a running call, the next packet of a queue, an event; and the placing of a word
where the next step fetches it. -/
namespace Sys2Proof.Machine

/-! ### Fetch (R88) -/

/-- Slot word i of a bundle's 16 bytes. -/
def wordAt (v i : Nat) : W32 := BitVec.ofNat 32 (v / 2 ^ (32 * i))
/-- The line that a fetch from target t takes its bundle from. -/
def Target.codeLine (t : Target) : Hm × Nat := (t.gen, t.dla / 128)
/-- The bundle that core c issues next, or the trap that its fetch or its encoding earns (R35, R88, R100). The spec gives
the instruction cache of R15 a size and no coherence rule: the model takes the bytes as they stand at the home when the
bundle is fetched, past the die's ordering point, and the cache says which lines need no access (DESIGN CHOICE, log entry
104). -/
def State.fetchBundle (s : State) (c : Nat) : Except TrapInfo Bundle :=
  let k := s.core c
  let ea : W64 := k.pc.setWidth 64
  match s.translateCore c ea 16 .fetch with
  | .error f => if f = walkError then .error ⟨8, 0, 0, 0, 0, ea⟩ else .error ⟨7, f, 0, 0, 0, ea⟩
  | .ok t =>
    let held := k.icache.contains t.codeLine
    if !held && s.badAt t.dla then .error ⟨8, 0, 0, 0, 0, ea⟩
    else if !held && s.wayLost (dieOf c) t then .error ⟨7, 8, 0, 0, 0, ea⟩
    else
      let v := s.read t.gen t.dla 16
      match decodeBundle k.igpor k.ui (wordAt v 0) (wordAt v 1) (wordAt v 2) (wordAt v 3) with
      | .illegal sub slot => .error ⟨1, sub, slot, 0, 0, 0⟩
      | .ok b => .ok b

/-- The lines that the instruction cache holds: 64 KiB (R15). -/
def codeLines : Nat := 512
/-- A line enters the instruction cache; the oldest leaves a full one. -/
def Core.fillCode (k : Core) (l : Hm × Nat) : Core :=
  { k with icache := (if k.icache.length < codeLines then k.icache else k.icache.drop 1) ++ [l] }
/-- The fetch of core c misses the instruction cache (R55): the core is frozen for this local cycle, in which the line
enters the cache, once its walk has the tables and its home serves it, at its turn (R234). -/
def State.codeMiss (s : State) (c : Nat) : Option State :=
  match s.translateCore c ((s.core c).pc.setWidth 64) 16 .fetch with
  | .error f => if f = walkWait then some s else none
  | .ok t =>
    if (s.core c).icache.contains t.codeLine || s.badAt t.dla || s.wayLost (dieOf c) t then none
    else if s.homeOpen t && s.wayOpen (dieOf c) t && s.portFree t (s.coreGen c) then
      some ((s.afterRead t (s.coreGen c) []).updCore c (fun k => k.fillCode t.codeLine))
    else some s

/-! ### The evaluation of a bundle (R100) -/

/-- Slot n of core c's bundle is at hand. -/
def State.atSlot (s : State) (c n : Nat) (kind : HdrKind) (x : Byte) (m : ExecMode) : State :=
  { s with cur := { s.cur with core := c, slot := n, kind := kind, x := x, mode := m, verdict := .go } }
/-- What the evaluation of slot n finds. -/
def State.probeSlot (s : State) (c n : Nat) (kind : HdrKind) (x : Slot) : Verdict :=
  match exec x.i (s.atSlot c n kind x.x .probe) with
  | .next t => t.cur.verdict
  | _ => .go
/-- The verdicts of the slots from n on. -/
def State.probeSlots (s : State) (c : Nat) (kind : HdrKind) : Nat → List Slot → List (Nat × Verdict)
  | _, [] => []
  | n, x :: t => (n, s.probeSlot c n kind x) :: s.probeSlots c kind (n + 1) t
/-- The trap of the lowest slot that traps. -/
def firstTrap : List (Nat × Verdict) → Option TrapInfo
  | [] => none
  | (n, .trap cls sub code lane addr) :: _ => some ⟨cls, sub, n, code, lane, addr⟩
  | _ :: t => firstTrap t
/-- What is to be done with a bundle. -/
inductive Evaluation where
  | hold | land | trap (t : TrapInfo) | wait | issue
  deriving DecidableEq, Repr
/-- The evaluation of a bundle: pending operands first, then the landing waits, then traps, then other waits (R53,
R54, R100). -/
def evaluate (vs : List (Nat × Verdict)) : Evaluation :=
  if vs.any (fun v => v.2 = .pend) then .hold
  else if vs.any (fun v => v.2 = .land) then .land
  else match firstTrap vs with
    | some t => .trap t
    | none => if vs.any (fun v => v.2 = .wait) then .wait else .issue

/-! ### WAITA slots of a bundle (R313) -/

/-- Address, comparand, condition and scope of an enabled WAITA. -/
def State.waitaOf (s : State) : Instr → Option (W64 × W64 × Bool × Nat)
  | .waitaNe p _ a b c => if s.guard p then some (s.reg (s.rA a), s.reg (s.rB b), false, c.toNat) else none
  | .waitaEq p _ a b c => if s.guard p then some (s.reg (s.rA a), s.reg (s.rB b), true, c.toNat) else none
  | _ => none
/-- The enabled WAITAs from slot n on, by slot. -/
def State.waitas (s : State) (c : Nat) (kind : HdrKind) : Nat → List Slot → List (Nat × W64 × W64 × Bool × Nat)
  | _, [] => []
  | n, x :: t =>
    match (s.atSlot c n kind x.x .probe).waitaOf x.i with
    | some w => (n, w) :: s.waitas c kind (n + 1) t
    | none => s.waitas c kind (n + 1) t
/-- A held bundle's RINGLD, in the slots from n on, reads the next word of its image (R169). -/
def State.ringReads (s : State) (c : Nat) (kind : HdrKind) : Nat → List Slot → State
  | _, [] => s
  | n, x :: t =>
    match (s.atSlot c n kind x.x .probe).ringAddr x.i with
    | some ea => { ((s.atSlot c n kind x.x .probe).ringStep ea) with cur := s.cur }
    | none => s.ringReads c kind (n + 1) t
/-- The value that satisfies each enabled WAITA of a bundle that issues, fixed before any slot takes effect (R58). -/
def State.waitaHits (s : State) (c : Nat) (ws : List (Nat × W64 × W64 × Bool × Nat)) : List (Nat × W64 × List Nat) :=
  ws.filterMap (fun w =>
    ((s.atSlot c w.1 .none 0#8 .probe).waitaValue w.2.2.2.1 w.2.1 w.2.2.1 w.2.2.2.2).map (fun r => (w.1, r)))

/-! ### The issue of a bundle -/

/-- The slots from n on take effect in their order (R58). -/
def commitSlots (c : Nat) (kind : HdrKind) : Nat → List Slot → State → Out
  | _, [], s => ok s
  | n, x :: t, s => match exec x.i (s.atSlot c n kind x.x .commit) with
    | .next s' => commitSlots c kind (n + 1) t s'
    | o => o

/-- Is the bundle split: two operations of a class with one surviving instance (R48)? -/
def needsSplit (ismap : W64) (b : Bundle) : Bool :=
  [(UnitClass.sa, 0), (UnitClass.va, 2), (UnitClass.sf, 4), (UnitClass.ls, 6)].any (fun e =>
    decide (ismap.extractLsb' e.2 2 ≠ 3#2)
      && decide (2 ≤ (b.slots.filter (fun x => decide (classOfMajor x.i.major = e.1))).length))
/-- The scratchpad line that an enabled slot accesses. -/
def State.lineUsed (s : State) : Instr → Option Nat
  | .spld p _ a o z => if s.guard p then some (s.spmAddr a o z / 128) else none
  | .spst p _ a o z => if s.guard p then some (s.spmAddr a o z / 128) else none
  | .vld p _ a o => if s.guard p then some (s.vmemLine a o) else none
  | .vst p _ a o => if s.guard p then some (s.vmemLine a o) else none
  | .vlds p _ a o => if s.guard p then some (s.vmemLine a o) else none
  | .vsts p _ a o => if s.guard p then some (s.vmemLine a o) else none
  | _ => none
/-- The lines that the slots from n on access. -/
def State.linesUsed (s : State) (c : Nat) (kind : HdrKind) : Nat → List Slot → List Nat
  | _, [] => []
  | n, x :: t =>
    match (s.atSlot c n kind x.x .probe).lineUsed x.i with
    | some l => l :: s.linesUsed c kind (n + 1) t
    | none => s.linesUsed c kind (n + 1) t
/-- Two different lines of one bank: a bank conflict (R183). -/
def bankConflict : List Nat → Bool
  | [a, b] => decide (a ≠ b) && decide (a / 256 = b / 256)
  | _ => false

/-- The bubbles of the engine operation that the bundle has issued (R159). In a user-level handler the main landing queue
and VCYC stand still (R107): the handler goes on, the operation waits, and the bubbles follow UIRET (log entry 102). -/
def Core.takeBubbles (k : Core) : Core :=
  match k.engineOp with
  | none => k
  | some op =>
    let n := k.bubblesFor (k.regions.filter (fun r => r.op == op))
    if n = 0 then { k with engineOp := none }
    else if k.ui then { k with engineOp := none, owed := max k.owed n, owedOps := k.owedOps ++ [op] }
    else { k with engineOp := none, bubbles := max k.bubbles n, blocked := k.blocked ++ [op] }
/-- One bubble passes; the operations that waited go on with the last (R159). -/
def Core.passBubble (k : Core) : Core :=
  { k with bubbles := k.bubbles - 1, blocked := if k.bubbles ≤ 1 then [] else k.blocked }
/-- The end of an issued bundle: the next bundle's address, a virtual cycle or, in a handler, none (R107, R440); after
an ERET the restored context goes on at its own virtual cycle (R102). was is the core before the bundle. -/
def State.endBundle (s : State) (c : Nat) (was : Core) : State :=
  let next : Addr := match s.cur.redirect with
    | some a => a
    | none => was.pc + 16
  let s1 := s.updCore c (fun k => { k with pc := next, waita := [], waitaHit := [], ringRead := none })
  let s2 := if was.lvl && !(s1.core c).lvl then s1
    else if was.ui then s1.endQuick c
    else if was.igpor then (s1.endQuick c).advanceVc c
    else s1.advanceVc c
  s2.updCore c Core.takeBubbles
/-- The marks of a split bundle (R50). A CSRW to STAT in the split bundle itself takes effect with the next virtual cycle,
after these marks, and so clears a DUPWEAK that the bundle has just set (DEDUCED, log entry 99). -/
def Core.markSplit (k : Core) : Core :=
  { k with csr := { k.csr with stat := k.csr.stat ||| 1
                               splitc := if k.csr.splitc = BitVec.allOnes 64 then k.csr.splitc else k.csr.splitc + 1 } }
/-- A bundle that a core issues after its tenancy's switch and before it has stopped: s1 is what it would have done. Only the
core's place in its code and its untagged control registers change; every result and write is discarded and counted
(R354, R355). -/
def State.discardBundle (s : State) (c : Nat) (s1 : State) : State :=
  let k := s.core c
  let k1 := s1.core c
  let added := fun {α : Type} (f : Core → List α) => (f k1).length - (f k).length
  let handles := ((List.range 64).filter (fun h => (Sparse.get {} h k1.handles : Handle) != Sparse.get {} h k.handles)).length
  let results := added Core.lq + added Core.hq + added Core.pend + handles
    + ((k1.nextVc.drop k.nextVc.length).filter (fun d => match d with | .ring _ _ _ => true | _ => false)).length
  let writes := ((k1.accs.drop k.accs.length).filter (fun a => match a.kind with
    | .store => true
    | .amo _ => true
    | _ => false)).length
  let count := fun (e : TenEnd) => if e.oldGen = k.ctxGen then { e with
    landed := e.landed + results, writes := e.writes + writes
    copies := e.copies + added Core.copies, calls := e.calls + added Core.calls } else e
  let s2 := match k.ten with
    | none => s
    | some t => s.updTen t (fun x => { x with ending := x.ending.map count })
  let csrWrite := fun (d : Delayed) => match d with
    | .csr _ _ => true
    | _ => false
  { s2.updCore c (fun k => { k with csr := k1.csr, nextVc := k1.nextVc.filter csrWrite }) with cur := s1.cur }
/-- Issue a bundle whose evaluation found neither trap nor wait. -/
def State.issueBundle (s : State) (c : Nat) (b : Bundle) : Out :=
  let was := s.core c
  let split := needsSplit was.ismap b
  let lines := s.linesUsed c b.kind 0 b.slots
  let hits := s.waitaHits c (s.waitas c b.kind 0 b.slots)
  let s0 := { s.updCore c (fun k => { k with waitaHit := hits }) with cur := { s.cur with redirect := none, cut := none } }
  match commitSlots c b.kind 0 b.slots s0 with
  | .next t =>
    let s1 := if was.stopping.isSome then s0.discardBundle c t else t.endCut
    let s2 := if split then s1.updCore c Core.markSplit else s1
    let s3 := (s2.endBundle c was).spend c
    let s4 := if split then s3.spend c else s3
    ok (if bankConflict lines then s4.spend c else s4)
  | o => o
/-- Does an enabled slot make a request that counts (R231)? -/
def State.makesRequest (s : State) (i : Instr) : Bool :=
  match i with
  | .ld p _ _ _ _ => s.guard p
  | .lds p _ _ _ _ _ => s.guard p
  | .lda p _ _ _ _ _ => s.guard p
  | .pref p _ _ => s.guard p
  | .st p _ _ _ _ => s.guard p
  | .sts p _ _ _ _ _ => s.guard p
  | .strl p _ _ _ _ _ => s.guard p
  | .amoAdd p _ _ _ _ => s.guard p
  | .amoAnd p _ _ _ _ => s.guard p
  | .amoOr p _ _ _ _ => s.guard p
  | .amoXor p _ _ _ _ => s.guard p
  | .amoMin p _ _ _ _ => s.guard p
  | .amoMax p _ _ _ _ => s.guard p
  | .amoSwap p _ _ _ _ => s.guard p
  | .cas p _ _ _ _ => s.guard p
  | _ => false
/-- Would a bundle's requests take the core past its 2,048 (R15, R232)? -/
def State.crowded (s : State) (c : Nat) (b : Bundle) : Bool :=
  let n := (b.slots.filter (fun x => (s.atSlot c 0 b.kind x.x .probe).makesRequest x.i)).length
  decide (1 ≤ n) && decide (2048 < s.inFlight c + n)
/-- One local cycle of core c with a bundle at hand: trap, wait or issue. -/
def State.runBundle (s : State) (c : Nat) : Out :=
  match s.codeMiss c with
  | some s1 => ok (s1.spend c)
  | none =>
  match s.fetchBundle c with
  | .error t => ok ((s.takeTrapOf c t).spend c)
  | .ok b =>
    let e := evaluate (s.probeSlots c b.kind 0 b.slots)
    match (if e = .issue && s.crowded c b then .wait else e) with
    | .hold => ok (s.spend c)
    | .land => ok ((s.advanceVc c).spend c)
    | .trap t => ok ((s.takeTrapOf c t).spend c)
    | .wait => ok (((s.ringReads c b.kind 0 b.slots).updCore c (fun k => { k with waita := s.waitas c b.kind 0 b.slots })).spend c)
    | .issue => s.issueBundle c b

/-! ### One local cycle of a core -/

/-- What a core does in a local cycle. -/
inductive CoreTurn where
  /-- frozen, stopped or without a task -/
  | idle
  /-- a trap is entered -/
  | enter (t : TrapInfo)
  /-- a machine check or a lost route is taken at this issue boundary (R307, R417) -/
  | late (t : TrapInfo)
  /-- a virtual cycle without a bundle: a bubble (R159), or after END or SUSPEND (R378) -/
  | bubble
  | run
  deriving DecidableEq, Repr
/-- The core's turn. A trap that no slot raises, of a fetch, of a late machine check or of a lost route, has SLOT 0 in its record
(DESIGN CHOICE, log entry 125). -/
def State.turn (s : State) (c : Nat) : CoreTurn :=
  let k := s.core c
  if k.stopped || k.frozen || k.withheld || (k.task.isNone && !k.lvl) || (s.die (dieOf c)).throttled (quadrantOf c)
  then .idle
  else match k.trapping with
    | some t => if k.pend.all (·.failed) && !s.areaWaits c then .enter t else .idle
    | none =>
      if 0 < k.bubbles && k.phase < 4 then .bubble
      else match k.late with
        | some (cls, sub, a) => if k.phase < 4 then .late ⟨cls, sub, 0, 0, 0, a⟩ else .idle
        | none =>
          if 3 ≤ k.phase then .idle
          else if !k.lvl && k.task.any (fun t => t.ending != .no) then .bubble
          else .run
/-- What core c does in the local cycle at hand. -/
def State.act (s : State) (c : Nat) : Out :=
  if (s.core c).stopping.any (fun n => decide (n + 64 ≤ (s.die (dieOf c)).lcyc.toNat)) then
    ok ((s.updCore c Core.stop).spend c)
  else match s.turn c with
  | .idle => ok (s.spend c)
  | .enter t => ok ((s.enterTrap c t).spend c)
  | .late t => ok (((s.updCore c (fun k => { k with late := none })).takeTrapOf c t).spend c)
  | .bubble => ok (((s.updCore c Core.passBubble).advanceVc c).spend c)
  | .run =>
    if (s.core c).uiReady then (s.updCore c (fun k => k.enterUi (s.coreGen c))).runBundle c else s.runBundle c
/-- One local cycle of core c: the cycles in which it has acted before pass first (R2). -/
def State.issue (s : State) (c : Nat) : Out := (s.begin c).act c

/-! ### The engine, the command processor and events -/

/-- The next micro-word of core c's running call; with a routine's end behind it the call fails (R251, R259). -/
def State.engineStep (s : State) (c : Nat) : Out :=
  let k := s.core c
  let s1 := { s with cur := { s.cur with core := c } }
  if (s.die (dieOf c)).throttled (quadrantOf c) then ok s
  else match k.calls with
    | [] => ok s
    | x :: _ =>
      if x.start + x.len ≤ x.pc then s1.pastRoutine
      else match decodeMicro (k.microWord x.gen x.pc) with
        | some i => exec i s1
        | none => exec .reservedMicroOp s1
/-- The next packet of queue q of die d (R362-R367). -/
def State.packetStep (s : State) (d q : Nat) : Out :=
  match s.nextPacket d q with
  | .moved t => ok t
  | .packet w t => match decodePacket w with
    | .error code => ok (t.streamFault d q code)
    | .ok i => exec i { t with cur := { t.cur with die := d, queue := q } }
/-- Is the row an event: neither a slot operation, nor a micro-op, nor a packet? -/
def isEvent (i : Instr) : Bool :=
  i.major == 64 && (match i with
    | .nop => false
    | .zero .. => false
    | .mma .. => false
    | .unf .. => false
    | .drain .. => false
    | .adv .. => false
    | .mxLoop .. => false
    | .endl => false
    | .waith .. => false
    | .mxEnd => false
    | .reservedMicroOp => false
    | .launch .. => false
    | .launchi .. => false
    | .loopPacket .. => false
    | .endloop => false
    | .ifeq .. => false
    | .ifne .. => false
    | .endif => false
    | .waitmem .. => false
    | .writemem .. => false
    | .signal .. => false
    | .fencePacket .. => false
    | .handover .. => false
    | .calls .. => false
    | .rets => false
    | .tenendPacket .. => false
    | _ => true)
/-- An event that names agents of the module happens. -/
def State.eventStep (s : State) (i : Instr) : Out := if isEvent i && i.wf then exec i s else ok s
/-- The next step: what the agenda names first; with nothing listed core 0's next bundle. -/
def State.next (s : State) : Out :=
  match s.agenda with
  | [] => s.issue 0
  | x :: t =>
    let s1 := { s with agenda := t }
    match x with
    | .issue c => if c < 512 then s1.issue c else ok s1
    | .event i => s1.eventStep i
    | .engine c => if c < 512 then s1.engineStep c else ok s1
    | .packet d q => if d < 8 && q < 128 then s1.packetStep d q else ok s1
    | .outside a n w v => ok (s1.outside a n w v)

/-! ### Placing a word -/

/-- The 16 bytes of a bundle that holds the word: a branch-class word in S3, an operation of Igpor alone behind a
kind-10 header in S1, every other in S0. -/
def bundleOf (w : W32) : Bool × Nat :=
  if (decodeSlot false w).1 = 0 then
    (false, if classOfMajor (w.extractLsb' 26 6).toNat = .br then w.toNat * 2 ^ 96 else w.toNat)
  else if (decodeSlot true w).1 = 0 then (true, 0xFE000000 + w.toNat * 2 ^ 32)
  else (false, w.toNat)
/-- Tenancy 2 is live under generation 2 on every die, with a translation record on die 0. -/
def State.openTenancy (s : State) : State :=
  let rec_ : TransRec := {}
  { (s.updDie 0 (fun x => { x with released := true, throttle := [], recs := Sparse.put none 2 (some rec_) x.recs })) with
    tenancies := Sparse.put {} 2 { opened := true, gen := some 2#16, serial := 1 } s.tenancies
    genStates := Sparse.put .free 2 .live s.genStates
    gens := (List.range 17).foldl (fun m d => Sparse.upd [] d (fun t => Sparse.put nullGen 2 2#16 t) m) s.gens
    trust := { s.trust with keys := Sparse.put none 2 (some ⟨1, Config.drawKey 1⟩) s.trust.keys }
    stackTab := Sparse.put {} 0 { (s.stack 0) with present := true, up := false, hand := none } s.stackTab }
/-- Core 0 runs a task of tenancy 2 at address 0, whose page is die-local page 0. -/
def Core.atZero (k : Core) (igpor : Bool) : Core :=
  { k with
    ten := some 2, ctxGen := 2#16, phase := 1, pc := 0, lvl := false, ui := false, igpor := igpor, stopped := false
    frozen := false, withheld := false, trapping := none, late := none, lateHeld := none, stopping := none, bubbles := 0, blocked := [], uiPend := 0, pend := []
    icache := [(2#16, 0)]
    task := some ⟨0, 0, 0, 0, 0, [], .no, none⟩, banks := k.entryBanks true
    tlb := [⟨2#16, 0, 16, 0x5F#64, 16, some 0, true, true, 16⟩] }
/-- The word stands where core 0 fetches next. -/
def State.placeWord (s : State) (nbits w : Nat) : State :=
  let b := bundleOf (BitVec.ofNat 32 (w % 2 ^ nbits))
  let s1 := s.openTenancy.updCore 0 (fun k => k.atZero b.1)
  { (s1.write 2#16 0 16 b.2) with agenda := [], badGranules := Sparse.put false 0 false s.badGranules }

end Sys2Proof.Machine
end

