-- ==== Sys2Proof/Machine/Step.lean ====
section
/-! DEFINITION. One step of the module, and the placing of an instruction where the next step fetches it. -/
namespace Sys2Proof.Machine

/-- One step: the agent that the agenda names acts once. -/
def step (s : State) : Host.Outcome State Fault Refusal := s.next

/-- s with the instruction of nbits bits stored where core 0 fetches its next bundle. -/
def State.withFetchWord (s : State) (nbits w : Nat) : State := s.placeWord nbits w

end Sys2Proof.Machine
end

