-- ==== Sys2Proof/Safety.lean ====
section
/-! DEFINITION. What counts as a sound state and as an instruction that executes, in the terms that the statements
use. -/
namespace Sys2Proof.Machine

/-- Memory is in its canonical form. -/
def State.MemoryCanonical (s : State) : Prop := Memory.wf s.mem = true

/-- The slot at hand executes: its guard is true, and it is part of a bundle that issues, or stands alone with no
operand or destination pending and no landing in its way (R21, R53, R54, R100). -/
def State.Executes (s : State) (p : BitVec 3) (reads : List Nat) (dest : Option Nat) (var : Bool) : Prop :=
  s.guard p = true ∧ (s.cur.mode = .commit ∨ s.cur.mode = .whole ∧ s.operandVerdict reads dest var = .go)

/-- The slot at hand executes and nothing it checks stops it: it earns no trap and waits for nothing. -/
def State.Clear (s : State) (p : BitVec 3) (reads : List Nat) (dest : Option Nat) (var : Bool) (v : Verdict) : Prop :=
  s.Executes p reads dest var ∧ v = .go

/-- The flags that lanes 0 to n-1 raise, with those they start from. -/
def lanesFlags (f : Nat → Nat × Flags) (n : Nat) : Flags := (List.range n).foldl (fun a j => a ||| (f j).2) 0#6
/-- The image holds in lane j of w bits, for j below n, what f says. -/
def HoldsLanes (img : Image) (w n : Nat) (f : Nat → Nat × Flags) : Prop :=
  ∀ j < n, laneNat w img j = (f j).1 % 2 ^ w
/-- The instruction completes: it queues for operand d, to land after lat virtual cycles, an image of all the lanes of a
TYPE with the flags they raise, and changes nothing else. -/
def State.QueuesLanes (s : State) (i : Instr) (lat d : Nat) (t : BitVec 2) (f : Nat → Nat × Flags) : Prop :=
  ∃ img, exec i s = .next (s.putVec lat d allUnits img (lanesFlags f (lanesOf t)))
    ∧ HoldsLanes img (typeWidth t) (lanesOf t) f
/-- The same of an instruction that rounds, which advances RNDSEED where it rounds stochastically (R125). -/
def State.RoundsLanes (s : State) (i : Instr) (lat d : Nat) (t : BitVec 2) (f : Nat → Nat × Flags) : Prop :=
  ∃ img, exec i s = .next (s.putVec lat d allUnits img (lanesFlags f (lanesOf t))).noteStoch
    ∧ HoldsLanes img (typeWidth t) (lanesOf t) f

/-- The core at hand, its landing queues aside, and everything outside the core are as they were. -/
def State.OnlyQueues (s t : State) : Prop :=
  t = s ∨ ∃ lq hq, t = s.updK (fun k => { k with lq := lq, hq := hq })

end Sys2Proof.Machine
end

