-- ==== Sys2Proof/Certificates/Slice0/Obligations.lean ====
section
/-! DEFINITION. The statements: what the spec's rules say of instructions, events and the machine, as propositions about
exec and step. -/

open Sys2Proof Sys2Proof.Machine

/-! ### Scalar registers, predicates and integer arithmetic (spec 04) -/

/-- R71: each register-to-register operation that executes queues its result for the register it names, to land one
virtual cycle later, from the values its operands read; a and b are read under R68. -/
def Obligations.ScalarOperationResults : Prop :=
  ∀ (s : State) (p : BitVec 3) (d a b : BitVec 6),
    (s.Executes p [s.rA a, s.rB b] (some (s.rD d)) false →
      let x := s.reg (s.rA a)
      let y := s.reg (s.rB b)
      let puts : W64 → Out := fun v => .next (s.putScalar 1 (s.rD d) v)
      exec (.add p d a b) s = puts (x + y) ∧ exec (.sub p d a b) s = puts (x - y)
      ∧ exec (.and p d a b) s = puts (x &&& y) ∧ exec (.or p d a b) s = puts (x ||| y)
      ∧ exec (.xor p d a b) s = puts (x ^^^ y) ∧ exec (.andn p d a b) s = puts (x &&& ~~~y)
      ∧ exec (.orn p d a b) s = puts (x ||| ~~~y)
      ∧ exec (.min p d a b) s = puts (if x.toInt < y.toInt then x else y)
      ∧ exec (.max p d a b) s = puts (if x.toInt < y.toInt then y else x)
      ∧ exec (.minu p d a b) s = puts (if x.toNat < y.toNat then x else y)
      ∧ exec (.maxu p d a b) s = puts (if x.toNat < y.toNat then y else x))
    ∧ (s.Executes p [s.rA a] (some (s.rD d)) false →
      exec (.popc p d a) s = .next (s.putScalar 1 (s.rD d)
        (BitVec.ofNat 64 ((List.range 64).filter (fun i => (s.reg (s.rA a)).getLsbD i)).length)))

/-- R72: a register shift uses only bits 5:0 of b, a shift by 0 copies a, and CLZ counts the zeros above the highest one, 64
for zero; R77: the constant shifts; R73: bit i of BFX is bit POS + i of a inside the field and 0 outside, and bit i of BFI
is bit i - POS of a inside the field and bit i of sd outside. -/
def Obligations.ShiftAndBitFieldResults : Prop :=
  (∀ (s : State) (p : BitVec 3) (d a b n : BitVec 6),
    (s.Executes p [s.rA a, s.rB b] (some (s.rD d)) false →
      let x := s.reg (s.rA a)
      let m := (s.reg (s.rB b)).toNat % 64
      let puts : W64 → Out := fun v => .next (s.putScalar 1 (s.rD d) v)
      exec (.shl p d a b) s = puts (x <<< m) ∧ exec (.shr p d a b) s = puts (x >>> m)
      ∧ exec (.sar p d a b) s = puts (x.sshiftRight m)
      ∧ (m = 0 → exec (.shl p d a b) s = puts x ∧ exec (.shr p d a b) s = puts x ∧ exec (.sar p d a b) s = puts x))
    ∧ (s.Executes p [s.rA a] (some (s.rD d)) false →
      let x := s.reg (s.rA a)
      let puts : W64 → Out := fun v => .next (s.putScalar 1 (s.rD d) v)
      exec (.shli p d a n) s = puts (x <<< n.toNat) ∧ exec (.shri p d a n) s = puts (x >>> n.toNat)
      ∧ exec (.sari p d a n) s = puts (x.sshiftRight n.toNat)
      ∧ (x = 0 → exec (.clz p d a) s = puts 64)
      ∧ ∀ h < 64, x.getLsbD h = true → (∀ i, h < i → x.getLsbD i = false) →
          exec (.clz p d a) s = puts (BitVec.ofNat 64 (63 - h))))
  ∧ (∀ (s : State) (p : BitVec 3) (d a b : BitVec 6),
    let x := s.reg (s.rA a)
    let w := s.reg (s.rB b)
    let pos := w.toNat % 64
    let len := min (w.toNat / 256 % 64 + 1) (64 - pos)
    (s.Executes p [s.rA a, s.rB b] (some (s.rD d)) false →
      ∃ v : W64, exec (.bfx p d a b) s = .next (s.putScalar 1 (s.rD d) v)
        ∧ ∀ i < 64, v.getLsbD i = (decide (i < len) && x.getLsbD (pos + i)))
    ∧ (s.Executes p [s.rA a, s.rB b, s.rD d] (some (s.rD d)) false →
      ∃ v : W64, exec (.bfi p d a b) s = .next (s.putScalar 1 (s.rD d) v)
        ∧ ∀ i < 64, v.getLsbD i = if pos ≤ i ∧ i < pos + len then x.getLsbD (i - pos)
            else (s.reg (s.rD d)).getLsbD i))

/-- R74, R75: products, quotients and remainders, with their latencies; a division runs where its divisor is not zero, and
-2^63 by -1 gives the dividend and the remainder 0; a division or remainder by zero takes the arithmetic trap, subcode
0x01, and with a false guard does nothing. -/
def Obligations.ProductsQuotientsAndDivisionTraps : Prop :=
  (∀ (s : State) (p : BitVec 3) (d a b : BitVec 6), s.Executes p [s.rA a, s.rB b] (some (s.rD d)) false →
    let x := s.reg (s.rA a)
    let y := s.reg (s.rB b)
    let puts : Nat → W64 → Out := fun lat v => .next (s.putScalar lat (s.rD d) v)
    exec (.mul p d a b) s = puts 3 (BitVec.ofNat 64 (x.toNat * y.toNat))
    ∧ exec (.mulh p d a b) s = puts 3 (BitVec.ofInt 64 (x.toInt * y.toInt / 2 ^ 64))
    ∧ exec (.mulhu p d a b) s = puts 3 (BitVec.ofNat 64 (x.toNat * y.toNat / 2 ^ 64))
    ∧ (y ≠ 0 →
      exec (.div p d a b) s = puts 12 (BitVec.ofInt 64 (x.toInt.tdiv y.toInt))
      ∧ exec (.divu p d a b) s = puts 12 (BitVec.ofNat 64 (x.toNat / y.toNat))
      ∧ exec (.rem p d a b) s = puts 12 (BitVec.ofInt 64 (x.toInt.tmod y.toInt))
      ∧ exec (.remu p d a b) s = puts 12 (BitVec.ofNat 64 (x.toNat % y.toNat))))
  ∧ (∀ (s : State) (p : BitVec 3) (d a b : BitVec 6) (i : Instr),
    i ∈ [.div p d a b, .divu p d a b, .rem p d a b, .remu p d a b] → s.cur.mode = .whole →
    (s.guard p = true → s.operandVerdict [s.rA a, s.rB b] (some (s.rD d)) false = .go → s.reg (s.rB b) = 0 →
      exec i s = .next (s.takeTrap ⟨2, 1, s.cur.slot, 0, 0, 0⟩))
    ∧ (s.guard p = false → exec i s = .next s))

/-- R76, R78, R79: the immediate operations; the immediate is sign-extended, MOVHI's zero-extended, and a kind-00 header
lends eight bits above it. -/
def Obligations.ImmediateResults : Prop :=
  ∀ (s : State) (p : BitVec 3) (d a : BitVec 6) (i : BitVec 11) (j : BitVec 17),
    (s.Executes p [s.rA a] (some (s.rD d)) false →
      let x := s.reg (s.rA a)
      let y : W64 := if s.cur.kind = .imm then (s.cur.x ++ i).signExtend 64 else i.signExtend 64
      let puts : W64 → Out := fun v => .next (s.putScalar 1 (s.rD d) v)
      exec (.addi p d a i) s = puts (x + y) ∧ exec (.andi p d a i) s = puts (x &&& y)
      ∧ exec (.ori p d a i) s = puts (x ||| y) ∧ exec (.xori p d a i) s = puts (x ^^^ y))
    ∧ (s.Executes p [] (some (s.rD d)) false →
      exec (.movi p d j) s = .next (s.putScalar 1 (s.rD d)
        (if s.cur.kind = .imm then (s.cur.x ++ j).signExtend 64 else j.signExtend 64)))
    ∧ (s.Executes p [s.rD d] (some (s.rD d)) false →
      exec (.movhi p d j) s = .next (s.putScalar 1 (s.rD d)
        (if s.cur.kind = .imm then (s.reg (s.rD d) <<< 25) ||| (s.cur.x ++ j).setWidth 64
         else (s.reg (s.rD d) <<< 17) ||| j.setWidth 64)))

/-- R80, R81, R82, R83: comparisons write the predicate they name, with the conditions EQ, NE, LT, LE, GT, GE signed and
LTU, LEU, GTU, GEU unsigned; SEL picks by a predicate; the predicate operations; bit i of PGET is pi for i below 8, and
its other bits are 0. -/
def Obligations.ComparisonAndPredicateResults : Prop :=
  (∀ (s : State) (p c d3 n : BitVec 3) (d a b : BitVec 6) (m : BitVec 5) (i : BitVec 11),
    let x := s.reg (s.rA a)
    let y := s.reg (s.rB b)
    let z : W64 := if s.cur.kind = .imm then (s.cur.x ++ i).signExtend 64 else i.signExtend 64
    let puts : Bool → Out := fun v => .next (s.putPred (s.pD d3) v)
    let signed := fun (m : Nat) (x y : W64) => match m with
      | 0 => decide (x = y)
      | 1 => decide (x ≠ y)
      | 2 => decide (x.toInt < y.toInt)
      | 3 => decide (x.toInt ≤ y.toInt)
      | 4 => decide (y.toInt < x.toInt)
      | _ => decide (y.toInt ≤ x.toInt)
    let unsigned := fun (m : Nat) (x y : W64) => match m with
      | 0 => decide (x.toNat < y.toNat)
      | 1 => decide (x.toNat ≤ y.toNat)
      | 2 => decide (y.toNat < x.toNat)
      | _ => decide (y.toNat ≤ x.toNat)
    (s.Executes p [s.rA a, s.rB b] none false →
      (m.toNat < 6 → exec (.cmp p d3 a b m) s = puts (signed m.toNat x y))
      ∧ (6 ≤ m.toNat → m.toNat < 10 → exec (.cmp p d3 a b m) s = puts (unsigned (m.toNat - 6) x y)))
    ∧ (s.Executes p [s.rA a] none false →
      (c.toNat < 6 → exec (.cmpi p c d3 a i) s = puts (signed c.toNat x z))
      ∧ (c.toNat < 4 → exec (.cmpiu p c d3 a i) s = puts (unsigned c.toNat x z)))
    ∧ (s.Executes p [s.rA a, s.rB b] (some (s.rD d)) false →
      exec (.sel p d a b n) s = .next (s.putScalar 1 (s.rD d) (if s.prd (s.pS n) then x else y))))
  ∧ (∀ (s : State) (p d3 a3 b3 : BitVec 3) (d a : BitVec 6),
    (s.Executes p [] none false →
      let x := s.prd (s.pA a3)
      let y := s.prd (s.pB b3)
      exec (.pand p d3 a3 b3) s = .next (s.putPred (s.pD d3) (x && y))
      ∧ exec (.por p d3 a3 b3) s = .next (s.putPred (s.pD d3) (x || y))
      ∧ exec (.pxor p d3 a3 b3) s = .next (s.putPred (s.pD d3) (x ^^ y)))
    ∧ (s.Executes p [] (some (s.rD d)) false →
      ∃ v : W64, exec (.pget p d) s = .next (s.putScalar 1 (s.rD d) v)
        ∧ ∀ i < 64, v.getLsbD i = (decide (i < 8) && s.prd i))
    ∧ (s.Executes p [s.rA a] none false →
      exec (.pset p d3 a) s = .next (s.putPred (s.pD d3) (decide (s.reg (s.rA a) ≠ 0)))))

/-- R64, R65: a comparison of duplicates lets the bundle go on, with nothing changed, where its operands are equal, and
takes the duplicate-mismatch trap where they differ; CMPTV's trap names the first differing unit's lane. -/
def Obligations.DuplicateChecks : Prop :=
  ∀ (s : State) (p : BitVec 3) (a b : BitVec 6) (va vb : BitVec 7) (t : BitVec 2),
    (s.Executes p [s.rA a, s.rB b] none false → s.reg (s.rA a) = s.reg (s.rB b) →
      exec (.cmpt p a b) s = .next s)
    ∧ (s.guard p = true → s.cur.mode = .whole → s.operandVerdict [s.rA a, s.rB b] none false = .go →
      s.reg (s.rA a) ≠ s.reg (s.rB b) → exec (.cmpt p a b) s = .next (s.takeTrap ⟨3, 1, s.cur.slot, 0, 0, 0⟩))
    ∧ (s.Executes p [] none false → s.vecVerdict [s.vA va, s.vB vb] [] = .go →
      (∀ u < 32, unitOf (s.vec (s.vA va)) u = unitOf (s.vec (s.vB vb)) u) → exec (.cmptv p va vb t) s = .next s)
    ∧ (s.guard p = true → s.cur.mode = .whole → s.vecVerdict [s.vA va, s.vB vb] [] = .go →
      ∀ u < 32, (∀ j < u, unitOf (s.vec (s.vA va)) j = unitOf (s.vec (s.vB vb)) j) →
        unitOf (s.vec (s.vA va)) u ≠ unitOf (s.vec (s.vB vb)) u →
        exec (.cmptv p va vb t) s = .next (s.takeTrap ⟨3, 2, s.cur.slot, 0,
          if t.toNat < 2 then u
          else if (unitOf (s.vec (s.vA va)) u).toNat % 65536 = (unitOf (s.vec (s.vB vb)) u).toNat % 65536
            then 2 * u + 1 else 2 * u, 0⟩))

/-- R21: a slot operation whose guard is false has no effect on any state, whichever operation it is; R22: NOP has
none. -/
def Obligations.SuppressedSlotsDoNothing : Prop :=
  ∀ (s : State), s.cur.mode ≠ .probe →
    exec .nop s = .next s ∧ ∀ i : Instr, i.major < 64 → s.guard i.guard = false → exec i s = .next s

/-! ### Control registers, control flow, traps and user-level interrupts (spec 04, 05) -/

/-- R84, R85, R86, R50: CSRR queues the register's value as it stands at issue; CSRW notes its write for the next virtual
cycle; at user level an index of 0x400 or more takes privilege trap 0x01; a CSRW leaves the value's defined bits in a
read-write register, clears STAT's bits where it writes 0, and changes nothing in a read-only one. -/
def Obligations.ControlRegistersReadAndWrite : Prop :=
  (∀ (s : State) (p : BitVec 3) (d a : BitVec 6) (c : BitVec 11),
    (c.toNat < 0x400 ∨ s.k.lvl = true →
      (s.Executes p [] (some (s.rD d)) false →
        exec (.csrr p d c) s = .next (s.putScalar 1 (s.rD d) (s.csrRead s.cur.core c.toNat)))
      ∧ (s.Executes p [s.rA a] none false →
        exec (.csrw p a c) s = .next (s.updK (fun k =>
          { k with nextVc := k.nextVc ++ [.csr c.toNat (s.reg (s.rA a))] }))))
    ∧ (0x400 ≤ c.toNat → s.k.lvl = false → s.guard p = true → s.cur.mode = .whole →
      (s.operandVerdict [] (some (s.rD d)) false = .go →
        exec (.csrr p d c) s = .next (s.takeTrap ⟨4, 1, s.cur.slot, 0, 0, 0⟩))
      ∧ (s.operandVerdict [s.rA a] none false = .go →
        exec (.csrw p a c) s = .next (s.takeTrap ⟨4, 1, s.cur.slot, 0, 0, 0⟩))))
  ∧ (∀ (s : State) (c idx : Nat) (v : W64), (s.applyDelayed c (.csr idx v)).csrRead c idx =
    if idx = 0x000 then s.csrRead c idx &&& v
    else if idx = 0x010 then v &&& 0xFFF
    else if idx = 0x011 then v &&& 0x1F
    else if 0x018 ≤ idx ∧ idx ≤ 0x01B then v &&& 0xFFFFFFFF
    else if idx = 0x020 then v
    else if idx = 0x021 then v &&& 0x3F
    else if idx = 0x030 ∨ idx = 0x402 then v &&& ~~~0xF
    else if idx = 0x401 then v &&& ~~~0xFFF
    else if idx = 0x404 ∨ idx = 0x405 then v &&& 0xFFFFFFFF
    else if idx = 0x406 then v &&& ~~~0xFFFF
    else s.csrRead c idx)

/-- R90, R91: branches and jumps redirect the stream; BRL and JRL queue the link PC + 16; a jump to an address that is
no bundle address takes a control trap, 0x02 before 0x01. -/
def Obligations.BranchesRedirect : Prop :=
  ∀ (s : State) (p : BitVec 3) (d a : BitVec 6) (o : BitVec 20),
    let off : Int := if s.cur.kind = .imm then (s.cur.x ++ o).toInt else o.toInt
    let target : Addr := s.k.pc + BitVec.ofInt 48 (16 * off)
    let link : W64 := (s.k.pc + 16).setWidth 64
    let x := s.reg (s.rA a)
    (s.Executes p [] none false → exec (.br p o) s = .next (s.jump target))
    ∧ (s.Executes p [] (some 63) false → exec (.brl p o) s = .next ((s.putScalar 1 63 link).jump target))
    ∧ (x.toNat < 2 ^ 48 → x.toNat % 16 = 0 →
      (s.Executes p [s.rA a] none false → exec (.jr p a) s = .next (s.jump (x.setWidth 48)))
      ∧ (s.Executes p [s.rA a] (some (s.rD d)) false →
        exec (.jrl p d a) s = .next ((s.putScalar 1 (s.rD d) link).jump (x.setWidth 48))))
    ∧ (s.guard p = true → s.cur.mode = .whole → ¬ (x.toNat < 2 ^ 48 ∧ x.toNat % 16 = 0) →
      let t : TrapInfo := ⟨5, if 2 ^ 48 ≤ x.toNat then 2 else 1, s.cur.slot, 0, 0, x⟩
      (s.operandVerdict [s.rA a] none false = .go → exec (.jr p a) s = .next (s.takeTrap t))
      ∧ (s.operandVerdict [s.rA a] (some (s.rD d)) false = .go → exec (.jrl p d a) s = .next (s.takeTrap t)))

/-- R92: LOOP and LOOPR count their counter down to 0, LOOPR rotates VROT whether or not it branches, and both branch while
the count is not 0, the new values in force from the next virtual cycle. R95: WAIT lets its bundle go where every count is
within its limit, 31 being none, and joins the engine threads that its counters cover; where some count is above its limit
it holds the bundle for a local cycle. -/
def Obligations.LoopsAndWaits : Prop :=
  (∀ (s : State) (p : BitVec 3) (l : BitVec 2) (r : BitVec 5) (o : BitVec 16), s.Executes p [] none false →
    let c := Sparse.get 0 l.toNat s.k.csr.lp
    let count : Delayed := .csr (0x18 + l.toNat) (BitVec.ofNat 64 (c.toNat - 1))
    let rot : Delayed := .csr 0x011 (BitVec.ofNat 64 ((s.k.csr.vrot.toNat + r.toNat) % 32))
    let target : Addr := s.k.pc + BitVec.ofInt 48 (16 * o.toInt)
    let go := fun (s : State) => if 2 ≤ c.toNat then s.jump target else s
    exec (.loop p l o) s = .next (go (s.updK (fun k => { k with nextVc := k.nextVc ++ [count] })))
    ∧ exec (.loopr p l r o) s = .next (go (s.updK (fun k => { k with nextVc := k.nextVc ++ [count, rot] }))))
  ∧ (∀ (s : State) (p : BitVec 3) (nl ns nc nt : BitVec 5),
    let within := (nl ≠ 31 → s.k.nld.toNat ≤ nl.toNat) ∧ (ns ≠ 31 → s.k.nst.toNat ≤ ns.toNat)
      ∧ (nc ≠ 31 → s.k.ncp.toNat ≤ nc.toNat) ∧ (nt ≠ 31 → s.k.ntl.toNat ≤ nt.toNat)
    (within → s.Executes p [] none false → exec (.wait p nl ns nc nt) s = .next
      (s.join (fun t => if t.call then nt != 31 else nc != 31)))
    ∧ (¬ within → s.guard p = true → s.cur.mode = .whole → exec (.wait p nl ns nc nt) s = .next (s.tick s.d)))

/-- R98, R99, R101: TRAP takes a trap of class 6 with its code. A trap at user level with no result pending writes the trap
record to the area at CTXPTR, sets PEPC and PCAUSE, enters platform level and goes on at PTVEC + 0x40 × CLASS; with a
result pending, or while its save cannot be made yet (the model's choice, log entry 19), it waits, and the trap entry takes it
later. A machine check fails the launch of the core's task too (R307). R103: a trap at platform level, with PTVEC zero, or with
no valid area at CTXPTR stops the core for the reset that follows; no register changes and no save is made: of memory, it
changes what the fault reports write and nothing else; so does a trap whose vector is no address, once it is entered. That
PHASE is 7 in the same step, and that PEPC and PCAUSE stand as they were, is the model's reading (log entries 119 and 22). -/
def Obligations.TrapsEnterOrStopTheCore : Prop :=
  ((∀ (s : State) (p : BitVec 3) (c : BitVec 12), s.guard p = true → s.cur.mode = .whole →
    exec (.trap p c) s = .next (s.takeTrap ⟨6, 0, s.cur.slot, c.toNat, 0, 0⟩))
  ∧ ∀ (s : State) (c : Nat) (t : TrapInfo), (s.core c).lvl = false →
    ((∃ q ∈ (s.core c).pend, q.failed = false) ∨ s.areaWaits c = true →
      s.takeTrapOf c t = s.updCore c (fun k => { k with trapping := some t }))
    ∧ ((∀ q ∈ (s.core c).pend, q.failed = true) → s.areaWaits c = false → s.takeTrapOf c t = s.enterTrap c t
      ∧ ((s.core c).trapping = some t → exec (.trapEntry c) s = .next (s.enterTrap c t)))
    ∧ ((s.core c).csr.ptvec ≠ 0 → s.areaOk c = true → (s.core c).ctxArea % 2 ^ 16 = 0 → s.MemoryCanonical →
      t.cls < 64 → t.sub < 256 → t.slot < 4 → t.code < 4096 → t.lane < 256 →
      (s.core c).csr.ptvec.toNat + 0x40 * t.cls < 2 ^ 48 →
      let u := s.enterTrap c t
      let cause := t.cls + t.sub * 2 ^ 8 + t.slot * 2 ^ 16 + (if (s.core c).csr.stat.getLsbD 0 then 2 ^ 19 else 0)
        + t.code * 2 ^ 20 + t.lane * 2 ^ 32
      (u.core c).lvl = true ∧ (u.core c).ui = false ∧ (u.core c).uia = (s.core c).ui
      ∧ (u.core c).csr.pepc = (s.core c).pc.setWidth 64 ∧ (u.core c).csr.pcause.toNat = cause
      ∧ (u.core c).pc.toNat = (s.core c).csr.ptvec.toNat + 0x40 * t.cls
      ∧ (u.core c).lq = [] ∧ (u.core c).sregs = (s.core c).sregs
      ∧ (t.cls ≠ 8 ∨ (s.die (dieOf c)).frLog = 0 →
        u.read platformGen (s.core c).ctxArea 8 = cause
        ∧ u.read platformGen ((s.core c).ctxArea + 8) 8 = (s.core c).pc.toNat
        ∧ u.read platformGen ((s.core c).ctxArea + 16) 8 = t.addr.toNat
        ∧ u.read platformGen ((s.core c).ctxArea + 24) 8 = (s.core c).csr.vcyc.toNat)
      ∧ (t.cls = 8 → ∀ x l, (s.core c).task = some x → (s.die (dieOf c)).launch x.slot = some l → l.id = x.lid →
        ∀ d n y, (u.die d).launch n = some y → y.id = l.id → y.failed = true)))
  ∧ (∀ (s : State) (c : Nat) (t : TrapInfo), (s.core c).lvl = false → (s.core c).csr.ptvec ≠ 0 → s.areaOk c = true →
    2 ^ 48 ≤ (s.core c).csr.ptvec.toNat + 0x40 * t.cls →
    ((s.enterTrap c t).core c).stopped = true ∧ ((s.enterTrap c t).core c).phase = 7 ∧ ((s.enterTrap c t).core c).lvl = true)
  ∧ (∀ (s : State) (c : Nat) (t : TrapInfo), (s.core c).lvl = true ∨ (s.core c).csr.ptvec = 0 ∨ s.areaOk c = false →
    let u := s.enterTrap c t
    (u.core c).stopped = true ∧ (u.core c).phase = 7 ∧ (u.core c).lvl = (s.core c).lvl
    ∧ (∃ n, u.mem = (s.reportTask c { kind := 1, cause := t.cls, sub := t.sub, addr := t.addr.toNat, data := n }).mem)
    ∧ (u.core c).csr = (s.core c).csr ∧ (u.core c).sregs = (s.core c).sregs ∧ (u.core c).pc = (s.core c).pc
    ∧ u.turn c = .idle)

/-- R102: at platform level with nothing pending and an area that can be read, ERET goes on at user level at PEPC, in
the context that the trap save wrote, or falls idle where that context's generation is no longer current; at user level it
takes privilege trap 0x02. That a context whose landing queue breaks R61 is refused, the core falling idle, and that the pc
takes bits 47 to 4 of PEPC, are the model's choices (log entries 115 and 124). -/
def Obligations.ReturnsFromPlatformLevel : Prop :=
  ∀ (s : State) (p : BitVec 3), s.cur.mode = .whole → s.guard p = true →
    (s.k.lvl = false → exec (.eret p) s = .next (s.takeTrap ⟨4, 2, s.cur.slot, 0, 0, 0⟩))
    ∧ (s.k.lvl = true → s.k.pend = [] → s.areaOk s.cur.core = true → s.areaWaits s.cur.core = false →
      s.badRun s.k.ctxArea corePartBytes = false →
      let v := s.read platformGen s.k.ctxArea corePartBytes
      ∃ t, exec (.eret p) s = .next t
        ∧ (s.staleContext s.cur.core = true ∨ lqPartOk v = false → t.k.task = none ∧ t.k.phase = 0 ∧ t.k.lvl = false)
        ∧ (s.staleContext s.cur.core = false → lqPartOk v = true → t.k.lvl = false ∧ t.k.uia = false
          ∧ t.k.pc = s.k.csr.pepc.setWidth 48 &&& ~~~15 ∧ t.cur.redirect = some (s.k.csr.pepc.setWidth 48 &&& ~~~15)
          ∧ t.k.ui = decide (field v 0x30 8 % 2 = 1) ∧ t.k.csr.stat = BitVec.ofNat 64 (field v 0x400 8) &&& 7
          ∧ t.k.csr.vcyc = BitVec.ofNat 64 (field v 0x418 8) ∧ t.k.lq.length ≤ 48 ∧ t.k.handles = s.k.handles
          ∧ ∀ n < 56, 0 < n → t.k.scalar s.k.ctxGen n =
              if field v (0x282 + 2 * n) 2 = 0 then 0 else BitVec.ofNat 64 (field v (0x40 + 8 * n) 8)))

/-- R106, R107, R109: a pending interrupt of a core that may take one enters the handler at UIVEC in the shadow bank,
lowest handle first, with UIEPC and UICAUSE set and no virtual cycle passed; UIRET resumes at UIEPC in the main bank, the
bubbles that copies of the handler owe to come first (R159; that they wait for UIRET is read from R107, log entry 102), and
outside a handler takes control trap 0x03, whose ADDR is 0 (the model's choice, log entry 100). The pc takes bits 47 to 4 of
UIVEC and UIEPC (the model's choice, log entry 124). -/
def Obligations.UserLevelInterruptsEnterAndReturn : Prop :=
  (∀ (s : State) (c h : Nat), (s.core c).uiReady = true → h < 64 → (s.core c).uiPend.getLsbD h = true →
    (∀ i < h, (s.core c).uiPend.getLsbD i = false) →
    ∃ t, exec (.userLevelInterrupt c) s = .next t ∧ (t.core c).ui = true
      ∧ (t.core c).pc = (s.core c).csr.uivec.setWidth 48 &&& ~~~15
      ∧ (t.core c).csr = { (s.core c).csr with
          uiepc := (s.core c).pc.setWidth 64
          uicause := BitVec.ofNat 64 (h + if ((s.core c).handle (s.coreGen c) h).st = .error
            then 64 + 256 * ((s.core c).handle (s.coreGen c) h).fcode.toNat else 0) }
      ∧ (∀ i, (t.core c).uiPend.getLsbD i = ((s.core c).uiPend.getLsbD i && decide (i ≠ h)))
      ∧ (t.core c).lq = (s.core c).lq ∧ (t.core c).sregs = (s.core c).sregs)
  ∧ ∀ (s : State) (p : BitVec 3), s.guard p = true → s.cur.mode = .whole →
    (s.k.ui = true → (∀ q ∈ s.k.pend, q.shadow = false) → exec (.uiret p) s = .next
      ((s.updK (fun k => { k with ui := false, bubbles := max k.bubbles k.owed, blocked := k.blocked ++ k.owedOps
                                  owed := 0, owedOps := [] })).jump (s.k.csr.uiepc.setWidth 48 &&& ~~~15)))
    ∧ (s.k.ui = false → exec (.uiret p) s = .next (s.takeTrap ⟨5, 3, s.cur.slot, 0, 0, 0⟩))

/-- R52, R53, R62: the due entries of a landing queue land and leave it; a pending result arrives in its register, and
its pending bit clears. -/
def Obligations.ResultsLandAndArrive : Prop :=
  (∀ (s : State) (c : Nat), ∃ t, exec (.landing c) s = .next t
    ∧ (t.core c).lq = (s.core c).lq.filter (fun e => decide (e.remv ≠ 0))
    ∧ ∀ (n : Nat) (v : W64), n ≠ 0 → (s.core c).ui = false →
      (∃ e, (s.core c).lq.filter (fun e => decide (e.remv = 0)) = [e] ∧ e.kind = .scalar ∧ e.dest = n
        ∧ e.gen = s.coreGen c ∧ e.shadow = false ∧ e.value.setWidth 64 = v) →
      (t.core c).scalar (s.coreGen c) n = v)
  ∧ ∀ (s : State) (c i : Nat) (q : Pending) (v : W64), (s.core c).pend[i]? = some q → q.failed = false →
    s.resultOf c q = some v → ∃ t, exec (.resultArrive c i) s = .next t
      ∧ (∀ r ∈ (t.core c).pend, r ∈ (s.core c).pend ∧ r.id ≠ q.id)
      ∧ (q.counted = true → (t.core c).nld = (s.core c).nld - 1)
      ∧ (q.gen = s.coreGen c → q.reg ≠ 0 → q.shadow = (s.core c).inShadow q.reg 56 →
        (t.core c).scalar (s.coreGen c) q.reg = v)
      ∧ (q.gen ≠ s.coreGen c → t.discards = Sparse.upd 0 q.gen.toNat (· + 1) s.discards)

/-! ### Vector operations (spec 07) -/

/-- R140: VADD, VSUB, VMUL, VFMA and VFMS write to each lane the exact sum, difference, product or fused result, rounded once
to a floating-point TYPE with its flags, or taken modulo 2^32 for i32. R141, R142, R143: maximum and minimum by signed
value with a NaN lane giving the canonical NaN and no flag, the bitwise operations on whole images, and the shifts of
32-bit lanes by bits 4:0. -/
def Obligations.VectorArithmeticAndBitResults : Prop :=
  (∀ (s : State) (p : BitVec 3) (d a b : BitVec 7) (t : BitVec 2),
    let x := laneNat (typeWidth t) (s.vec (s.vA a))
    let y := laneNat (typeWidth t) (s.vec (s.vB b))
    let c := laneNat (typeWidth t) (s.vec (s.vD d))
    let lane := fun (wrap : Int → Int → Int → Int) (exact : Machine.Num → Machine.Num → Machine.Num → Machine.Num) (fused : Bool) (j : Nat) =>
      match typeFmt t with
      | none => ((wrap (x j) (y j) (c j) % 2 ^ 32).toNat, 0)
      | some f =>
        let ops := [f.decode (x j), f.decode (y j)] ++ (if fused then [f.decode (c j)] else [])
        let v := exact (f.decode (x j)) (f.decode (y j)) (f.decode (c j))
        let e := f.encode (s.rounding j) false v
        (e.1, e.2 ||| (if v = .nan ∧ .nan ∉ ops then flagINV else 0))
    (s.Clear p [] none false (s.vecVerdict [s.vA a, s.vB b] [s.vD d]) →
      s.RoundsLanes (.vadd p d a b t) 2 (s.vD d) t (lane (fun x y _ => x + y) (fun x y _ => x.add s.rd y) false)
      ∧ s.RoundsLanes (.vsub p d a b t) 2 (s.vD d) t (lane (fun x y _ => x - y) (fun x y _ => x.add s.rd y.neg) false)
      ∧ s.RoundsLanes (.vmul p d a b t) 2 (s.vD d) t (lane (fun x y _ => x * y) (fun x y _ => x.mul y) false))
    ∧ (s.Clear p [] none false (s.vecVerdict [s.vA a, s.vB b, s.vD d] [s.vD d]) →
      s.RoundsLanes (.vfma p d a b t) 4 (s.vD d) t
        (lane (fun x y c => x * y + c) (fun x y c => (x.mul y).add s.rd c) true)
      ∧ s.RoundsLanes (.vfms p d a b t) 4 (s.vD d) t
        (lane (fun x y c => c - x * y) (fun x y c => c.add s.rd (x.mul y).neg) true)))
  ∧ (∀ (s : State) (p : BitVec 3) (d a b : BitVec 7) (t : BitVec 2),
    s.Clear p [] none false (s.vecVerdict [s.vA a, s.vB b] [s.vD d]) →
    let u := s.vec (s.vA a)
    let v := s.vec (s.vB b)
    let x := laneNat (typeWidth t) u
    let y := laneNat (typeWidth t) v
    let below := fun (m n : Nat) => match typeFmt t with
      | none => decide ((BitVec.ofNat 32 m).toInt < (BitVec.ofNat 32 n).toInt)
      | some f => decide ((f.decode m).cmp true (f.decode n) < 0)
    let pick := fun (big : Bool) (j : Nat) =>
      ((match typeFmt t with
        | none => if below (x j) (y j) = big then y j else x j
        | some f => if f.decode (x j) = .nan ∨ f.decode (y j) = .nan then f.nanCode
            else if big then (if below (x j) (y j) then y j else x j) else (if below (y j) (x j) then y j else x j)),
        (0 : Flags))
    let word := fun (f : W32 → Nat → W32) (j : Nat) =>
      ((f (unitOf u j) ((unitOf v j).toNat % 32)).toNat, (0 : Flags))
    s.QueuesLanes (.vmax p d a b t) 2 (s.vD d) t (pick true) ∧ s.QueuesLanes (.vmin p d a b t) 2 (s.vD d) t (pick false)
    ∧ exec (.vand p d a b) s = .next (s.putVec 2 (s.vD d) allUnits (u &&& v) 0)
    ∧ exec (.vor p d a b) s = .next (s.putVec 2 (s.vD d) allUnits (u ||| v) 0)
    ∧ exec (.vxor p d a b) s = .next (s.putVec 2 (s.vD d) allUnits (u ^^^ v) 0)
    ∧ s.QueuesLanes (.vshl p d a b) 2 (s.vD d) 1 (word (fun x n => x <<< n))
    ∧ s.QueuesLanes (.vshr p d a b) 2 (s.vD d) 1 (word (fun x n => x >>> n))
    ∧ s.QueuesLanes (.vsar p d a b) 2 (s.vD d) 1 (word (fun x n => x.sshiftRight n)))

/-- R144, R145, R146, R147: VCMP writes all ones or all zeros, with NaN unequal to everything; VSEL picks by the mask in its
destination; VSHF picks the lane an index names, or zero; VROTL moves lane j to lane j + n. R148, R149: the unary forms,
the broadcast of a scalar, the extraction of a lane, and the insertion of one, which writes the one unit that holds the
lane. -/
def Obligations.VectorSelectionsAndMoves : Prop :=
  (∀ (s : State) (p : BitVec 3) (c : BitVec 2) (r : BitVec 5) (d a b n : BitVec 7) (t : BitVec 2),
    let w := typeWidth t
    let l := lanesOf t
    let x := laneNat w (s.vec (s.vA a))
    let y := laneNat w (s.vec (s.vB b))
    let m := laneNat w (s.vec (s.vD d))
    let holds := fun (x y : Machine.Num) =>
      if x = .nan ∨ y = .nan then decide (c = 1)
      else match c.toNat with
        | 0 => decide (x.cmp false y = 0)
        | 1 => decide (x.cmp false y ≠ 0)
        | 2 => decide (x.cmp false y < 0)
        | _ => decide (x.cmp false y ≤ 0)
    (s.Clear p [] none false (s.vecVerdict [s.vA a, s.vB b] [s.vRow r]) →
      s.QueuesLanes (.vcmp p c r a b t) 2 (s.vRow r) t
        (fun j => (if holds (typeDecode t (x j)) (typeDecode t (y j)) then 2 ^ w - 1 else 0, 0)))
    ∧ (s.Clear p [] none false (s.vecVerdict [s.vA a, s.vB b, s.vD d] [s.vD d]) →
      s.QueuesLanes (.vsel p d a b t) 2 (s.vD d) t (fun j => (if m j = 0 then y j else x j, 0)))
    ∧ (s.Clear p [] none false (s.vecVerdict [s.vA a, s.vB b] [s.vD d]) →
      s.QueuesLanes (.vshf p d a b t) 2 (s.vD d) t (fun j => (if 2 ^ (w - 1) ≤ y j then 0 else x (y j % l), 0)))
    ∧ (s.Clear p [] none false (s.vecVerdict [s.vA a] [s.vD d]) → n.toNat < l →
      ∃ f, s.QueuesLanes (.vrotl p d a n t) 2 (s.vD d) t f ∧ ∀ j < l, f ((j + n.toNat) % l) = (x j, 0)))
  ∧ (∀ (s : State) (p : BitVec 3) (d a : BitVec 7) (r l : BitVec 6) (t : BitVec 2),
    let w := typeWidth t
    let x := laneNat w (s.vec (s.vA a))
    (s.Clear p [] none false (s.vecVerdict [s.vA a] [s.vD d]) →
      s.QueuesLanes (.vmov p d a t) 2 (s.vD d) t (fun j => (x j, 0))
      ∧ s.QueuesLanes (.vabs p d a t) 2 (s.vD d) t (fun j =>
        (match typeFmt t with
          | none => (BitVec.ofNat 32 (x j)).toInt.natAbs
          | some f => if f.decode (x j) = .nan then f.nanCode else x j % 2 ^ (w - 1), 0))
      ∧ s.QueuesLanes (.vneg p d a t) 2 (s.vD d) t (fun j =>
        (match typeFmt t with
          | none => 2 ^ 32 - x j
          | some f => if f.decode (x j) = .nan then f.nanCode else x j + 2 ^ (w - 1), 0)))
    ∧ (s.Clear p [] none false (s.vecVerdict [] [s.vD d]) →
      s.QueuesLanes (.viota p d t) 2 (s.vD d) t (fun j => ((typeEncode t rne false (Num.ofInt j)).1, 0))
      ∧ exec (.vclr p d) s = .next (s.putVec 2 (s.vD d) allUnits 0 0))
    ∧ (s.Clear p [s.rA r] none false (s.vecVerdict [] [s.vD d]) →
      s.QueuesLanes (.vbc p d r t) 2 (s.vD d) t (fun _ => ((s.reg (s.rA r)).toNat, 0)))
    ∧ (s.Clear p [] (some (s.rA r)) false (s.vecVerdict [s.vD d] []) →
      let v := laneNat w (s.vec (s.vD d)) l.toNat
      exec (.vxt p d r l t) s = .next (s.putScalar 2 (s.rA r)
        (if t = 1 then (BitVec.ofNat 32 v).signExtend 64 else BitVec.ofNat 64 v)))
    ∧ (s.Clear p [s.rA r] none false (s.vecVerdict [s.vD d] [s.vD d]) → l.toNat < lanesOf t →
      ∃ img, exec (.vins p d r l t) s = .next (s.putVec 2 (s.vD d) (1 <<< (l.toNat * w / 32)) img 0)
        ∧ HoldsLanes img w (lanesOf t) (fun j =>
            (if j = l.toNat then (s.reg (s.rA r)).toNat else laneNat w (s.vec (s.vD d)) j, 0))))

/-- R150, R151: a reduction writes one value to every lane, SUM the exact sum rounded once under lane 0's word and wrapped
for i32; VCVT rounds each lane once to the destination type, with the upper half zero where the width halves and the
upper lanes ignored where it doubles. -/
def Obligations.VectorReductionsAndConversions : Prop :=
  ∀ (s : State) (p : BitVec 3) (d a : BitVec 7) (e t : BitVec 2),
    s.Clear p [] none false (s.vecVerdict [s.vA a] [s.vD d]) →
    let u := s.vec (s.vA a)
    let xs := (List.range (lanesOf t)).map (laneNat (typeWidth t) u)
    let sum := match typeFmt t with
      | none => (xs.sum % 2 ^ 32, 0)
      | some f =>
        let v := Num.sum s.rd (xs.map f.decode)
        let e := f.encode (s.rounding 0) false v
        (e.1, e.2 ||| (if v = .nan ∧ .nan ∉ xs.map f.decode then flagINV else 0))
    let n := if typeWidth e = typeWidth t then lanesOf t else 32
    let conv := fun j => typeEncode e (s.rounding j) s.sat (typeDecode t (laneNat (typeWidth t) u j))
    s.RoundsLanes (.vredSum p d a t) 4 (s.vD d) t (fun _ => sum)
    ∧ (∃ m, s.RoundsLanes (.vredMax p d a t) 4 (s.vD d) t (fun _ => (m, 0))
      ∧ ((∃ x ∈ xs, typeDecode t x = .nan) → ∃ f, typeFmt t = some f ∧ m = f.nanCode)
      ∧ ((∀ x ∈ xs, typeDecode t x ≠ .nan) → m ∈ xs ∧ ∀ x ∈ xs, (typeDecode t m).cmp true (typeDecode t x) ≥ 0))
    ∧ (∃ m, s.RoundsLanes (.vredMin p d a t) 4 (s.vD d) t (fun _ => (m, 0))
      ∧ ((∃ x ∈ xs, typeDecode t x = .nan) → ∃ f, typeFmt t = some f ∧ m = f.nanCode)
      ∧ ((∀ x ∈ xs, typeDecode t x ≠ .nan) → m ∈ xs ∧ ∀ x ∈ xs, (typeDecode t m).cmp true (typeDecode t x) ≤ 0))
    ∧ ∃ img, exec (.vcvt p d a e t) s = .next (s.putVec 2 (s.vD d) allUnits img (lanesFlags conv n)).noteStoch
      ∧ HoldsLanes img (typeWidth e) n conv ∧ img.toNat < 2 ^ (typeWidth e * n)

/-- R152: each special function rounds its exact value once to the lane type; INV where a lane that is no NaN gives NaN; the
special results of the functions, and 1 / x and 1 / √x enclosed from both sides. The value comes from the model's
enclosure of the function, which is the model's choice (log entry 8); that VSIN of -0 is -0 is the model's reading (log entry
96). -/
def Obligations.SpecialFunctions : Prop :=
  (∀ (s : State) (p : BitVec 3) (d a : BitVec 7) (t : BitVec 2),
    s.Clear p [] none false (s.vecVerdict [s.vA a] [s.vD d]) →
    let lane := fun (g : Machine.Num → Machine.Num) (j : Nat) =>
      let x := typeDecode t (laneNat (typeWidth t) (s.vec (s.vA a)) j)
      let e := typeEncode t (s.rounding j) false (g x)
      (e.1, e.2 ||| (if g x = .nan ∧ x ≠ .nan then flagINV else 0))
    s.RoundsLanes (.vexp2 p d a t) 8 (s.vD d) t (lane spExp2) ∧ s.RoundsLanes (.vlog2 p d a t) 8 (s.vD d) t (lane spLog2)
    ∧ s.RoundsLanes (.vrcp p d a t) 8 (s.vD d) t (lane spRcp) ∧ s.RoundsLanes (.vrsq p d a t) 8 (s.vD d) t (lane spRsq)
    ∧ s.RoundsLanes (.vsin p d a t) 8 (s.vD d) t (lane spSin) ∧ s.RoundsLanes (.vtanh p d a t) 8 (s.vD d) t (lane spTanh))
  ∧ (spExp2 .nan = .nan ∧ spLog2 .nan = .nan ∧ spRcp .nan = .nan ∧ spRsq .nan = .nan ∧ spSin .nan = .nan ∧ spTanh .nan = .nan
  ∧ spExp2 (.inf true) = .zero ∧ spExp2 (.inf false) = .inf false ∧ spLog2 (.inf true) = .nan
  ∧ spLog2 (.inf false) = .inf false ∧ spRsq (.inf true) = .nan ∧ spRsq (.inf false) = .zero
  ∧ ∀ (neg : Bool) (e : Int), spRcp (.inf neg) = .fin neg 0 0 false ∧ spSin (.inf neg) = .nan
    ∧ spTanh (.inf neg) = .fin neg 1 0 false ∧ spTanh (.fin neg 0 e false) = .fin neg 0 0 false
    ∧ spLog2 (.fin neg 0 e false) = .inf true ∧ spRcp (.fin neg 0 e false) = .inf neg
    ∧ spRsq (.fin neg 0 e false) = .inf neg ∧ spSin (.fin neg 0 e false) = .fin neg 0 0 false
    ∧ spLog2 (.fin false 1 0 false) = .zero ∧ spExp2 (.fin neg 0 e false) = .fin false 1 0 false
    ∧ ∀ m : Nat, 0 < m →
      spLog2 (.fin true m e false) = .nan ∧ spRsq (.fin true m e false) = .nan
      ∧ (0 ≤ e → spSin (.fin neg m e false) = .fin neg 0 0 false)
      ∧ (∃ (r k : Nat) (st : Bool), spRcp (.fin neg m e false) = .fin neg r (-(k : Int) - e) st
        ∧ r * m ≤ 2 ^ k ∧ 2 ^ k < (r + 1) * m ∧ (st = true ↔ r * m ≠ 2 ^ k))
      ∧ (∃ (r : Nat) (st : Bool), spRsq (.fin false m e false) = .fin false r (-200 - e / 2) st
        ∧ let n : Nat := if e % 2 = 0 then m else 2 * m
          r * r * n ≤ 2 ^ 400 ∧ 2 ^ 400 < (r + 1) * (r + 1) * n ∧ (st = true ↔ r * r * n ≠ 2 ^ 400)))

/-- R153, R154, R155, R156: VUNPK widens the elements of one part, VPACK narrows every lane into the units of one part
and no other, and VBSCL multiplies each lane by its unit's scale. -/
def Obligations.PackedElementResults : Prop :=
  ∀ (s : State) (p : BitVec 3) (d a b : BitVec 7) (f : BitVec 4) (k : BitVec 3) (t : BitVec 2),
    let w := typeWidth t
    let u := s.vec (s.vA a)
    let base := 8 * (k.toNat * partSize f t)
    let scale := fun j => fmtF32.decode (unitOf (s.vec (s.vB b)) (j * w / 32)).toNat
    (s.Clear p [] none false (s.vecVerdict [s.vA a] [s.vD d]) →
      (∀ el, narrowElem f.toNat = some el → s.QueuesLanes (.vunpk p d a f k t) 3 (s.vD d) t
        (fun j => typeEncode t rne false (el.decode (u.toNat / 2 ^ (base + el.width * j) % 2 ^ el.width))))
      ∧ (narrowElem f.toNat = none → ∃ img fl, exec (.vunpk p d a f k t) s = .next (s.putVec 3 (s.vD d) allUnits img fl)
        ∧ HoldsLanes img w (lanesOf t) (fun j =>
          typeEncode t rne false ((q4xBlock (u.toNat / 2 ^ (base + 160 * (j / 32)))).1.getD (j % 32) .zero))))
    ∧ (s.Clear p [] none false (s.vecVerdict [s.vA a, s.vD d] [s.vD d]) → (k.toNat + 1) * partSize f t ≤ 128 →
      ∃ (mask : W32) (img : Image) (fl : Flags), exec (.vpack p d a f k t) s = .next (s.putVec 3 (s.vD d) mask img fl).noteStoch
        ∧ (∀ i < 32, mask.getLsbD i = decide (k.toNat * partSize f t ≤ 4 * i ∧ 4 * i < (k.toNat + 1) * partSize f t))
        ∧ (∀ el, narrowElem f.toNat = some el → ∀ j < lanesOf t, img.toNat / 2 ^ (base + el.width * j) % 2 ^ el.width
            = (packLane f (s.rounding j) s.sat (typeDecode t (laneNat w u j))).1 % 2 ^ el.width)
        ∧ (narrowElem f.toNat = none → ∀ j < lanesOf t,
            img.toNat / 2 ^ (base + 160 * (j / 32)) % 2 ^ 32 = 0x3F800000
            ∧ img.toNat / 2 ^ (base + 160 * (j / 32) + 32 + 4 * (j % 32)) % 16
              = (q4xCode (s.rounding j) (typeDecode t (laneNat w u j))).1 % 16))
    ∧ (s.Clear p [] none false (s.vecVerdict [s.vA a, s.vB b] [s.vD d]) →
      s.RoundsLanes (.vbscl p d a b t) 3 (s.vD d) t (fun j =>
        let x := typeDecode t (laneNat w u j)
        let e := typeEncode t (s.rounding j) false (x.mul (scale j))
        (e.1, e.2 ||| (if x.mul (scale j) = .nan ∧ x ≠ .nan ∧ scale j ≠ .nan then flagINV else 0)
          ||| (if scaleBad (scale j) then flagSCLB else 0))))

/-- R157, R181, R182, R184, R169: the row and scalar transfers of the scratchpad and RINGLD: the address is taken modulo
512 KiB and rounded down, a line that bears another hallmark reads as zeros, a load queues what it read, and a store's
bytes and a ring's image wait for the next virtual cycle. R60, R182, R170: the deferred store of bytes under the current
generation writes its bytes of its line, leaves the line's other bytes as that generation read them, and leaves every other
line alone; that of a line writes the whole line, and that of a ring gives its slot the new image, both tagged with the
generation, and leave every other line and slot as they were; one of another generation is discarded and counted. -/
def Obligations.ScratchpadReadsAndWrites : Prop :=
  (∀ (s : State) (p : BitVec 3) (v : BitVec 7) (d a : BitVec 6) (o8 : BitVec 8) (o5 : BitVec 5) (z r : BitVec 2),
    let off : Int := if s.cur.kind = .imm then (s.cur.x ++ o8).toInt else o8.toInt
    let off' : Int := if s.cur.kind = .imm then (s.cur.x ++ o5).toInt else o5.toInt
    let n : Nat := 2 ^ z.toNat
    let line := (s.reg (s.rA a) + BitVec.ofInt 64 (128 * off)).toNat % 2 ^ 19 / 128
    let addr := (s.reg (s.rA a) + BitVec.ofInt 64 (n * off')).toNat % 2 ^ 19 / n * n
    let held := fun l => if (Sparse.get {} l s.k.spm).hm = s.gen then (Sparse.get {} l s.k.spm).data else 0
    let defer := fun x => s.updK (fun k => { k with nextVc := k.nextVc ++ [x] })
    (s.Clear p [s.rA a] none false ((s.spmVerdict line false).also (s.vecVerdict [] [s.vD v])) →
      exec (.vld p v a o8) s = .next (s.putVec 4 (s.vD v) allUnits (held line) 0)
      ∧ exec (.vlds p v a o8) s = .next (s.putVec 4 (s.vD v) allUnits (held line) 0))
    ∧ (s.Clear p [s.rA a] none false ((s.spmVerdict line true).also (s.vecVerdict [s.vD v] [])) →
      exec (.vst p v a o8) s = .next (defer (.line line (s.vec (s.vD v)) s.gen))
      ∧ exec (.vsts p v a o8) s = .next (defer (.line line (s.vec (s.vD v)) s.gen)))
    ∧ (s.Clear p [s.rA a] (some (s.rD d)) false (s.spmVerdict (addr / 128) false) →
      exec (.spld p d a o5 z) s = .next (s.putScalar 4 (s.rD d)
        (BitVec.ofNat 64 ((held (addr / 128)).toNat / 2 ^ (8 * (addr % 128)) % 2 ^ (8 * n)))))
    ∧ (s.Clear p [s.rA a, s.rD d] none false (s.spmVerdict (addr / 128) true) →
      exec (.spst p d a o5 z) s = .next (defer (.spm addr n (s.reg (s.rD d)) s.gen)))
    ∧ ∀ img, s.ringImage (s.reg (s.rA a)) = .data img → s.Executes p [s.rA a] none false →
      exec (.ringld p r a) s = .next (s.updK (fun k => { k with
        ringRead := none, nextVc := k.nextVc ++ [.ring r.toNat (BitVec.ofNat 98944 img) s.gen] })))
  ∧ (∀ (s : State) (c addr n : Nat) (v : W64) (g : Hm), addr % 128 + n ≤ 128 → n ≤ 8 →
    let t := s.applyDelayed c (.spm addr n v g)
    (g = s.coreGen c → ∀ l i, i < 128 →
      let byte := fun (x : State) => ((Sparse.get {} l (x.core c).spm).read g).extractLsb' (8 * i) 8
      byte t = if l = addr / 128 ∧ addr % 128 ≤ i ∧ i < addr % 128 + n then v.extractLsb' (8 * (i - addr % 128)) 8
        else byte s)
    ∧ (g ≠ s.coreGen c → t = { s with discards := Sparse.upd 0 g.toNat (· + 1) s.discards }))
  ∧ (∀ (s : State) (c l : Nat) (img : Image) (g : Hm), let t := s.applyDelayed c (.line l img g)
    (g = s.coreGen c → ∀ j, Sparse.get {} j (t.core c).spm = if j = l then ⟨img, g, false⟩ else Sparse.get {} j (s.core c).spm)
    ∧ (g ≠ s.coreGen c → t = { s with discards := Sparse.upd 0 g.toNat (· + 1) s.discards }))
  ∧ (∀ (s : State) (c r : Nat) (img : BitVec 98944) (g : Hm), let t := s.applyDelayed c (.ring r img g)
    (g = s.coreGen c → ∀ j, Sparse.get {} j (t.core c).rings = if j = r then ⟨img, g⟩ else Sparse.get {} j (s.core c).rings)
    ∧ (g ≠ s.coreGen c → t = { s with discards := Sparse.upd 0 g.toNat (· + 1) s.discards }))

/-- R444: the operations of Igpor alone, each with the effect of its template. -/
def Obligations.VirtualVectorResults : Prop :=
  ∀ (s : State) (p : BitVec 3) (r : BitVec 5) (d a b : BitVec 7) (n : BitVec 6) (e t : BitVec 2),
    let w := typeWidth t
    let x := laneNat w (s.vec (s.vA a))
    let y := laneNat w (s.vec (s.vB b))
    let f32 := fun (v : Machine.Num) => (fmtF32.encode rne false v).1
    let num := fun c => typeDecode t c
    let q := fun j => f32 (((num (x (j + 32))).mul (num (y (j + 32)))).add false
      (fmtF32.decode (f32 ((num (x j)).mul (num (y j))))))
    let bigger := fun (m n : Nat) => maxLane true t m n
    let smaller := fun (m n : Nat) => maxLane false t m n
    (s.Clear p [] none false (s.vecVerdict [s.vA a, s.vB b] [s.vD d]) →
      ∃ img fl, exec (.vdot p d a b t) s = .next (s.putVec 1 (s.vD d) allUnits img fl)
        ∧ HoldsLanes img 32 32 (fun _ =>
            (f32 (Num.sum false ((List.range 32).map (fun j => fmtF32.decode (q j)))), 0)))
    ∧ (s.Clear p [] none false (s.vecVerdict [s.vA a, s.vB b] [s.vRow r]) →
      (∃ img fl, exec (.vabd p r a b t) s = .next (s.putVec 1 (s.vRow r) allUnits img fl)
        ∧ HoldsLanes img w (lanesOf t) (fun j => (absLane t (match typeFmt t with
          | none => (((x j : Int) - y j) % 2 ^ 32).toNat
          | some f => (f.encode rne false ((f.decode (x j)).add false (f.decode (y j)).neg)).1), 0)))
      ∧ s.QueuesLanes (.vclmp p r a b t) 1 (s.vRow r) t
          (fun j => (smaller (bigger (laneNat w (s.vec (s.vRow r)) j) (x j)) (y j), 0)))
    ∧ (s.Clear p [] none false (s.vecVerdict [s.vA a] [s.vD d]) → w = 16 → typeWidth e = 32 →
      s.QueuesLanes (.vcvth p d a e t) 1 (s.vD d) e
        (fun j => typeEncode e (s.rounding (j + 32)) s.sat (num (x (j + 32)))))
    ∧ (s.Clear p [s.rA n] none false (s.vecVerdict [s.vD d] [s.vD d]) →
      ∃ img fl, exec (.vscl p d n t) s = .next (s.putVec 1 (s.vD d) allUnits img fl)
        ∧ HoldsLanes img w (lanesOf t) (fun j =>
          let m := laneNat w (s.vec (s.vD d)) j
          let c := (s.reg (s.rA n)).toNat % 2 ^ w
          (match typeFmt t with
          | none => m * c % 2 ^ 32
          | some f => (f.encode rne false ((f.decode m).mul (f.decode c))).1, 0)))

/-! ### Value rings and sets (spec 08) -/

/-- R164, R172, R174, R175: the lane-by-lane set operations, position by position; under the null ring every entry is the
whole line. R176, R177: SFROM rounds each f32 outward to the one position that holds it, or to the whole line, with NXT
where some lane is no exact point; SBND writes the least and the greatest bound of a set's positions. R166, R178, R179,
R180: SARC writes the canonical code of the shortest arc that covers a set, with NXT where it covers more; SMSK writes the
positions of an arc; SRED adds the non-empty lanes in rising order and writes the sum to every lane. -/
def Obligations.SetResults : Prop :=
  (∀ (s : State) (p : BitVec 3) (d : BitVec 5) (e a b : BitVec 7) (r : BitVec 2),
    let g := s.k.ring s.gen r.toNat
    let x := laneNat g.n (s.vec (s.vA a))
    let y := laneNat g.n (s.vec (s.vB b))
    let union := fun (tb : Nat) (m n : Nat) (q : Nat) =>
      ∃ i < g.n, ∃ k < g.n, hasBit m i ∧ hasBit n k ∧ hasBit (g.entry tb i k) q
    let writes := fun (i : Instr) (dst : Nat) (has : Nat → Nat → Prop) =>
      ∃ img, exec i s = .next (s.putVec 2 dst allUnits img 0)
        ∧ ∀ j < 1024 / g.n, ∀ q < g.n, (hasBit (laneNat g.n img j) q ↔ has j q)
    (g.null = true → g.n = 16 ∧ ∀ tb i k, g.entry tb i k = 0xFFFF)
    ∧ (s.Clear p [] none false (s.vecVerdict [s.vA a, s.vB b] [s.vRow d]) →
      writes (.sadd p d a b r) (s.vRow d) (fun j => union 0 (x j) (y j))
      ∧ writes (.ssub p d a b r) (s.vRow d) (fun j q =>
        ∃ i < g.n, ∃ k < g.n, hasBit (x j) i ∧ hasBit (y j) k ∧ hasBit (g.entry 0 i ((g.n - k) % g.n)) q)
      ∧ writes (.smul p d a b r) (s.vRow d) (fun j => union 1 (x j) (y j))
      ∧ writes (.sdiv p d a b r) (s.vRow d) (fun j => union 2 (x j) (y j))
      ∧ writes (.suni p d a b r) (s.vRow d) (fun j q => hasBit (x j) q ∨ hasBit (y j) q)
      ∧ writes (.sint p d a b r) (s.vRow d) (fun j q => hasBit (x j) q ∧ hasBit (y j) q)
      ∧ writes (.scmp p d a b r) (s.vRow d) (fun j _ => ∃ i < g.n, hasBit (x j) i ∧ hasBit (y j) i))
    ∧ (s.Clear p [] none false (s.vecVerdict [s.vA a] [s.vD e]) →
      writes (.sneg p e a r) (s.vD e) (fun j q => hasBit (x j) ((g.n - q) % g.n))))
  ∧ (∀ (s : State) (p : BitVec 3) (d a : BitVec 7) (r : BitVec 2),
    s.Clear p [] none false (s.vecVerdict [s.vA a] [s.vD d]) →
    let g := s.k.ring s.gen r.toNat
    let n := g.n
    let u := s.vec (s.vA a)
    let code := fun j => fmtF32.decode (unitOf u j).toNat
    let value := fun i => fmtF32.decode (g.val i)
    (∃ img fl, exec (.sfrom p d a r) s = .next (s.putVec 2 (s.vD d) allUnits img fl) ∧ img.toNat < 2 ^ (32 * n)
      ∧ ((fl = 0 ∧ ∀ j < 32, ∃ i < n / 2, laneNat n img j = 2 ^ (2 * i))
        ∨ fl = flagNXT ∧ ∃ j < 32, ∀ i < n / 2, laneNat n img j ≠ 2 ^ (2 * i))
      ∧ ∀ j < 32, let m := laneNat n img j
        (g.null = true ∨ code j = .nan → m = 2 ^ n - 1)
        ∧ (g.null = false → ∀ neg, code j = .inf neg → m = 2 ^ (n / 2))
        ∧ (g.null = false → ∀ neg e st, code j = .fin neg 0 e st → m = 1)
        ∧ (g.null = false → (∀ i, 0 < i → i < n / 4 → value i ≠ .nan) →
          ∀ neg w e st, code j = .fin neg w e st → w ≠ 0 →
          let x := Num.fin false w e false
          ∃ q, 0 < q ∧ q < n / 2 ∧ m = 2 ^ (if neg then n - q else q)
            ∧ (q % 2 = 0 → x.cmp false (value (q / 2)) = 0)
            ∧ (q % 2 = 1 → (q = 1 ∨ 0 < x.cmp false (value (q / 2)))
              ∧ (q + 1 = n / 2 ∨ x.cmp false (value ((q + 1) / 2)) < 0))))
    ∧ ∃ img, exec (.sbnd p d a r) s = .next (s.putVec 2 (s.vD d) allUnits img 0)
      ∧ ∀ j < 16, let m := laneNat n u j
        let lo := laneNat 32 img (2 * j)
        let hi := laneNat 32 img (2 * j + 1)
        let f := fmtF32.decode
        (m = 0 → lo = 0x7FC00000 ∧ hi = 0x7FC00000)
        ∧ (m ≠ 0 → g.null = true → lo = 0xFF800000 ∧ hi = 0x7F800000)
        ∧ (m ≠ 0 → g.null = false → (∀ i, 0 < i → i < n / 4 → ∃ w e, w ≠ 0 ∧ value i = .fin false w e false) →
          (∃ q < n, hasBit m q ∧ lo = (hull g q).1) ∧ (∃ q < n, hasBit m q ∧ hi = (hull g q).2)
          ∧ ∀ q < n, hasBit m q → (f lo).cmp false (f (hull g q).1) ≤ 0 ∧ 0 ≤ (f hi).cmp false (f (hull g q).2)))
  ∧ (∀ (s : State) (p : BitVec 3) (d a : BitVec 7) (r : BitVec 2),
    s.Clear p [] none false (s.vecVerdict [s.vA a] [s.vD d]) →
    let g := s.k.ring s.gen r.toNat
    let n := g.n
    let l := 1024 / n
    let u := s.vec (s.vA a)
    let x := laneNat n u
    let code := fun st len => if n = 16 then st * 16 + (len - 1) else st * 2048 + (len - 1) * 64
    let covers := fun (m st len : Nat) => ∀ q < n, hasBit m q → (q + n - st) % n < len
    let gap := fun (m st len : Nat) => ∃ q < n, (q + n - st) % n < len ∧ hasBit m q = false
    (∃ img fl, exec (.sarc p d a r) s = .next (s.putVec 2 (s.vD d) allUnits img fl) ∧ img.toNat < 2 ^ 512
      ∧ ∀ j < l, let c := laneNat (n / 2) img j
        (x j = 0 → c = code (n - 1) n) ∧ (x j = 2 ^ n - 1 → c = code 0 n)
        ∧ (x j ≠ 0 → x j ≠ 2 ^ n - 1 → ∃ st len, st < n ∧ 0 < len ∧ len ≤ n ∧ c = code st len ∧ covers (x j) st len
          ∧ (∀ st' len', st' < n → 0 < len' → covers (x j) st' len' → len < len' ∨ len = len' ∧ st ≤ st')
          ∧ (gap (x j) st len → fl = flagNXT)))
    ∧ (∃ img, exec (.smsk p d a r) s = .next (s.putVec 2 (s.vD d) allUnits img 0)
      ∧ ∀ j < l, ∀ st len, st < n → 0 < len → len ≤ n →
        (if n = 16 then laneNat 8 u j else laneNat 16 u j / 64 * 64) = code st len →
        ∀ q < n, (hasBit (laneNat n img j) q ↔
          if len = n then st ≠ n - 1 else (q + n - st) % n < len))
    ∧ ∃ img, exec (.sred p d a r) s = .next (s.putVec 4 (s.vD d) allUnits img 0)
      ∧ HoldsLanes img n l (fun _ =>
        (match ((List.range l).map x).filter (fun m => decide (m ≠ 0)) with
        | [] => 0
        | m :: t => t.foldl (fun acc y => tableUnion g 0 y acc) m, 0)))

/-! ### Global memory and its ordering (spec 11, 12, 13) -/

/-- R307, R310, R311, R312, R309: a global access whose address translates and whose core is below the limit on requests
takes its place at the end of the core's program order, a load or atomic leaving its destination pending and a store
counted; a fence takes its place whatever is in flight; PREF changes nothing but the requests in flight and the refetch hints
that its page counts. The address of a sum past 2^64 is all ones (the model's choice, log entry 106), which is no address. -/
def Obligations.GlobalAccessesEnterProgramOrder : Prop :=
  ∀ (s : State) (p : BitVec 3) (d a b : BitVec 6) (o : BitVec 5) (z c : BitVec 2),
    let n : Nat := 2 ^ z.toNat
    let off : Int := if s.cur.kind = .imm then (s.cur.x ++ o).toInt else o.toInt
    let x := s.reg (s.rA a)
    let address := fun (n : Nat) => if 2 ^ 64 ≤ (x.toNat : Int) + n * off then BitVec.allOnes 64 else x + BitVec.ofInt 64 (n * off)
    let ea := address n
    let load := fun (strong acq : Bool) (sc : Nat) =>
      ((s.putAcc { id := 0, kind := .load, tgt := s.targetNow ea n .read, va := ea, size := n, strong := strong, acq := acq
                   scope := sc, pid := s.k.nextId }).awaitReg (s.rD d) true)
    let store := fun (strong rel : Bool) (sc : Nat) =>
      (((s.putAcc { id := 0, kind := .store, tgt := s.targetNow ea n .write, va := ea, size := n, data := s.reg (s.rD d)
                    strong := strong, rel := rel, scope := sc, counted := true }).updK (fun k =>
          { (k.l0Store (s.targetNow ea n .write) n s.nextWid (s.reg (s.rD d))) with nst := k.nst + 1 })).settle s.cur.core)
    let atomic := fun (op : Nat) =>
      ((s.putAcc { id := 0, kind := .amo op, tgt := s.targetNow x 8 .both, va := x, size := 8, data := s.reg (s.rB b)
                   cmp := s.reg (s.rD d), strong := true, acq := true, rel := true, scope := c.toNat
                   pid := s.k.nextId }).awaitReg (s.rD d) true)
    let fence := fun (all : Bool) =>
      ((s.putAcc { id := 0, kind := .fence all, scope := c.toNat }).settle s.cur.core)
    (s.Clear p [s.rA a] (some (s.rD d)) true (s.accessVerdict ea n .read) →
      exec (.ld p d a o z) s = .next (load false false 0) ∧ exec (.lds p d a o z c) s = .next (load true false c.toNat)
      ∧ exec (.lda p d a o z c) s = .next (load true true c.toNat))
    ∧ (s.Clear p [s.rA a, s.rD d] none false (s.accessVerdict ea n .write) →
      exec (.st p d a o z) s = .next (store false false 0) ∧ exec (.sts p d a o z c) s = .next (store true false c.toNat)
      ∧ exec (.strl p d a o z c) s = .next (store true true c.toNat))
    ∧ (s.Clear p [s.rA a, s.rB b] (some (s.rD d)) true (s.accessVerdict x 8 .both) →
      exec (.amoAdd p d a b c) s = .next (atomic 0) ∧ exec (.amoAnd p d a b c) s = .next (atomic 1) ∧ exec (.amoOr p d a b c) s = .next (atomic 2)
      ∧ exec (.amoXor p d a b c) s = .next (atomic 3) ∧ exec (.amoMin p d a b c) s = .next (atomic 4)
      ∧ exec (.amoMax p d a b c) s = .next (atomic 5) ∧ exec (.amoSwap p d a b c) s = .next (atomic 6))
    ∧ (s.Clear p [s.rA a, s.rB b, s.rD d] (some (s.rD d)) true (s.accessVerdict x 8 .both) →
      exec (.cas p d a b c) s = .next (atomic 7))
    ∧ (s.Executes p [] none false →
      exec (.fence p c) s = .next (fence false) ∧ exec (.fenceAll p c) s = .next (fence true))
    ∧ (s.Executes p [s.rA a] none false → s.inFlight s.cur.core < 2048 →
      exec (.pref p a o) s = .next (match s.translateCore s.cur.core (address 1) 0 .read with
        | .ok t =>
          let u := s.updK (fun k => { k with prefs := k.prefs ++ [(t.gen, t.dla / 128, s.hint)] })
          if t.ord = 0 then s else if s.k.lvl = true then u else u.countHint s.d s.k.ten t.cp s.hint
        | .error _ => s))

/-- R313, R293: a WAITA whose word satisfies it takes the word and goes on, as an acquire; one that finds no such word, or whose
word cannot be read yet, is held for a local cycle, and traps where the word's home has an uncorrectable error or no way leads
there; the word of a held one is read again until it satisfies. -/
def Obligations.AddressWaits : Prop :=
  ∀ (s : State) (p : BitVec 3) (d a b : BitVec 6) (c : BitVec 2) (t : Target),
    let ea := s.reg (s.rA a)
    let near := s.waitaNear s.cur.core t c.toNat
    s.guard p = true → s.translateCore s.cur.core ea 8 .read = .ok t →
    (∀ (eq : Bool), let i : Instr := if eq then .waitaEq p d a b c else .waitaNe p d a b c
      (∀ w ws, s.waitaValue eq ea (s.reg (s.rB b)) c.toNat = some (w, ws) →
        s.Executes p [s.rA a, s.rB b] (some (s.rD d)) false → s.inFlight s.cur.core < 2048 →
        exec i s = .next (((((s.putScalar 1 (s.rD d) w).afterRead t s.gen ws).putAcc
          { id := 0, kind := .load, tgt := t, va := ea, size := 8, strong := true, acq := true, scope := c.toNat
            done := true, reads := ws }).updK (fun k => { k with
              l0 := if c = 0 ∧ t.ord ≠ 0 then k.l0 else [] })).settle s.cur.core))
      ∧ (s.waitaValue eq ea (s.reg (s.rB b)) c.toNat = none → s.cur.mode = .whole →
        s.operandVerdict [s.rA a, s.rB b] (some (s.rD d)) false = .go →
        (2048 ≤ s.inFlight s.cur.core ∨ near ≠ .bad ∧ near ≠ .lost → exec i s = .next s.hold)
        ∧ (s.inFlight s.cur.core < 2048 →
          (near = .bad → exec i s = .next (s.takeTrap ⟨8, 0, s.cur.slot, 0, 0, ea⟩))
          ∧ (near = .lost → exec i s = .next (s.takeTrap ⟨7, 8, s.cur.slot, 0, 0, ea⟩)))))
    ∧ ∀ (n : Nat) (eq : Bool) (u : W64) (sc : Nat) (w : W64) (ws : List Nat), (s.k.waita = [(n, ea, u, eq, sc)]) →
      s.k.waitaHit = [] → s.waitaRead s.cur.core t sc = some (w, ws) → (w = u ↔ eq = true) →
      exec (.waitaReread s.cur.core) s = .next ((s.afterRead t s.gen ws).updK (fun k =>
        { k with waitaHit := [(n, w, ws)], l0 := if sc = 0 ∧ t.ord ≠ 0 then k.l0 else [] }))

/-- R291, R293, R299, R310, R311: a load that may go takes the newest older store of its own core that holds its bytes,
a copy in L0, or what its die serves, and zero where its generation is no longer current (R348); an atomic reads and writes
its home in one step, CAS writing only where the old value is the compared one. A read at a home takes its turn at the
stack's port (R234). -/
def Obligations.AccessesAreServed : Prop :=
  ∀ (s : State) (c i : Nat) (a : Acc) (older : List Acc), (s.core c).acc i = some (a, older) → a.done = false →
    s.mayGo c older a = true →
    let live := fun (v : W64) => if s.readLive c a.tgt then v else 0
    let served := if (s.die (dieOf c)).opSource a.tgt a.size = .none then s.servedRead a.tgt a.gen (coreReader c a.id) else s
    (a.kind = .load →
      (∀ v w, sbSource older a.tgt a.size = .all v w →
        exec (.serve c i 0) s = .next (s.take c i a (live (BitVec.ofNat 64 v)) [w]))
      ∧ (a.strong = false → sbSource older a.tgt a.size = .none →
        (∀ y ∈ (s.core c).accs.drop (i + 1), y.kind = .store → meets y.tgt.dla y.size a.tgt.dla a.size = false) →
        let l := Sparse.get {} (a.tgt.dla / 128) (s.core c).l0
        l ≠ {} → l.gen = a.tgt.gen → ∃ ws, exec (.serve c i 1) s = .next (s.take c i a
          (live (BitVec.ofNat 64 (l.data.toNat / 2 ^ (8 * (a.tgt.dla % 128)) % 2 ^ (8 * a.size)))) ws))
      ∧ (sbSource older a.tgt a.size = .none → s.wayLost (dieOf c) a.tgt = false → s.violates a.tgt = false →
        s.badAt a.tgt.dla = false →
        ((s.die (dieOf c)).opSource a.tgt a.size = .none → s.readTurn a.tgt a.gen (coreReader c a.id) = true) →
        ∀ v ws, s.serveDie (dieOf c) a.tgt a.size = some (v, ws) →
        exec (.serve c i 2) s = .next (served.take c i a (if served.readLive c a.tgt then BitVec.ofNat 64 v else 0) ws)))
    ∧ ∀ op, a.kind = .amo op → s.wayLost (dieOf c) a.tgt = false → s.homeOpen a.tgt = true →
      s.wayOpen (dieOf c) a.tgt = true → s.readTurn a.tgt a.gen (coreReader c a.id) = true → s.violates a.tgt = false →
      s.badAt a.tgt.dla = false →
      let p := s.servedRead a.tgt a.gen (coreReader c a.id)
      let old : W64 := BitVec.ofNat 64 (s.read a.tgt.gen a.tgt.dla 8)
      let put := fun (x : State) => (x.updCore c (fun k => { k with l0 := Sparse.put {} (a.tgt.dla / 128) {} k.l0 })).take c i a old []
      (op = 7 → old ≠ a.cmp → s.writeLive a.gen a.tgt = true → exec (.serve c i 2) s = .next (put p))
      ∧ (op < 7 ∨ old = a.cmp → s.writeLive a.gen a.tgt = true → exec (.serve c i 2) s = .next (put
        (p.write a.tgt.gen a.tgt.dla 8 (match op with
          | 0 => old + a.data
          | 1 => old &&& a.data
          | 2 => old ||| a.data
          | 3 => old ^^^ a.data
          | 4 => if a.data.toInt < old.toInt then a.data else old
          | 5 => if old.toInt < a.data.toInt then a.data else old
          | _ => a.data).toNat)))

/-- R291, R292, R306, R412: a store that may go leaves the store buffer for its die's ordering point; the oldest write of its
generation for its home is sent to the port of its own die, or into the link queue of its route, once no write for that home
is on another route; the head of a link queue, its bytes accepted, hops on to its port or the next link, waits where that link
is closed while an older write of its die for its home is still on its way, or is discarded where its generation is no longer
current; the head of a port queue is applied at its home and leaves the ordering point. -/
def Obligations.WritesTravelToTheirHomes : Prop :=
  (∀ (s : State) (c i : Nat) (a : Acc) (older : List Acc), (s.core c).acc i = some (a, older) → a.kind = .store →
    a.done = false → s.mayGo c older a = true → s.isCurrent (dieOf c) a.gen = true →
    exec (.sbDrain c i) s = .next (((s.updCore c (fun k => k.setAcc i { a with done := true })).updDie (dieOf c) (fun x =>
      { x with op := x.op ++ [{ wid := a.id, core := c, gen := a.gen, tgt := a.tgt, size := a.size
                                data := a.data.setWidth 1024, scope := a.scope, va := a.va }] })).settle c))
  ∧ (∀ (s : State) (d i : Nat) (e : OpEntry), (s.die d).op[i]? = some e → e.sent = false →
    (∀ q ∈ (s.die d).op.take i, q.sent = true ∨ q.gen ≠ e.gen ∨ sameHome q.tgt e.tgt = false) →
    s.isCurrent d e.gen = true →
    let mark := fun (dir : Nat) => s.updDie d (fun x => { x with op := x.op.set i { e with sent := true, dir := dir } })
    let alone := fun (dir : Nat) => ∀ q ∈ (s.die d).op, q.sent = false ∨ sameHome q.tgt e.tgt = false
      ∨ q.tgt.die = e.tgt.die ∧ q.dir = dir
    (e.tgt.die = d → alone 0 → s.outWaits e.tgt = false → exec (.send d i) s = .next ((mark 0).toPort e.tgt e.gen d e.wid))
    ∧ (e.tgt.die ≠ d → ∀ up, s.route d e.tgt.die = some up → alone (if up then 1 else 2) →
      exec (.send d i) s = .next { (mark (if up then 1 else 2)) with
        links := Sparse.upd [] (linkKey d up) (fun q => q ++ [(d, e.wid, e.tgt.die)]) s.links }))
  ∧ (∀ (s : State) (l d w dest : Nat) (up : Bool) (t : List (Nat × Nat × Nat)) (e : OpEntry),
    let key := 2 * l + (if up then 0 else 1)
    let here := if up then (l + 1) % 8 else l
    Sparse.get [] key s.links = (d, w, dest) :: t → (s.link l).st = 0 → (s.die d).entry w = some e →
    144 ≤ ((s.link l).dir up).got →
    let s1 := { s with links := Sparse.put [] key t s.links }.updLink l (fun x =>
      x.updDir up (fun y => { y with got := y.got - 144 }))
    (s.isCurrent here e.gen = true → exec (.hop l up) s = .next (if here = dest
      then (if s.outWaits e.tgt then s else s1.toPort e.tgt e.gen d w)
      else if s.linkClosed here up = true ∧ s.older [(d, w, dest)] = true then s else s1.toLink here up d w dest))
    ∧ (s.isCurrent here e.gen = false → exec (.hop l up) s = .next (s1.dropStale d e)))
  ∧ ∀ (s : State) (port d w : Nat) (g : Hm) (q : List (Nat × Nat)) (e : OpEntry),
    Sparse.get [] (portKey port g) s.ports = (d, w) :: q → d < 8 → (s.die d).entry w = some e → s.wayLost e.tgt.die e.tgt = false →
    s.homeOpen e.tgt = true → s.wayOpen e.tgt.die e.tgt = true → s.violates e.tgt = false → s.writeLive e.gen e.tgt = true →
    s.portTurn port (if dlaCxl e.tgt.dla then e.tgt.die else s.owner (dlaStack e.tgt.dla)) g = true → e.thr = none →
    ∃ t, exec (.apply port g) s = .next t
      ∧ t.mem = (s.write e.tgt.gen e.tgt.dla e.size e.data.toNat).mem
      ∧ t.hallmarks = (s.write e.tgt.gen e.tgt.dla e.size e.data.toNat).hallmarks
      ∧ (∀ y ∈ (t.die d).op, y.wid ≠ w) ∧ Sparse.get [] (portKey port g) t.ports = q

/-- R182, R343, R347, R348, R460: a write under a generation reads back under it at homes where it is current and has its key; every other byte
reads to that generation as before, and to another generation as before, or as 0 where its granule has been retagged. -/
def Obligations.MemoryReadsBackWrites : Prop :=
  ∀ (s : State) (g : Hm) (a n v : Nat), s.MemoryCanonical →
    let t := s.write g a n v
    ((∀ i < n, dlaCxl (a + i) = true ∨ g ≠ nullGen ∧ s.isCurrent (homeDie (a + i)) g = true ∧ s.hasKey (a + i) g = true) →
      ∀ i < n, t.read g (a + i) 1 = v / 2 ^ (8 * i) % 256)
    ∧ ∀ b, b < a ∨ a + n ≤ b → t.read g b 1 = s.read g b 1
      ∧ ∀ h, h ≠ g → t.read h b 1 =
          if 0 < n ∧ a / 128 ≤ b / 128 ∧ b / 128 ≤ (a + n - 1) / 128 ∧ dlaCxl b = false then 0 else s.read h b 1

/-- R15, R280, R281, R282, R288, R291: a line is copied into L0 where its page and the hints of its requests allow it, its home
can be reached and L0 has room, and leaves L0; a PREF's request is over with either; a walk that succeeds puts its translation first in a cache that has room, and an entry is replaced; an invalidation drops
the entries it names and is complete once the accesses then in flight that its die's tables may have translated are
performed (that it waits for every one of them is the model's reading, log entry 37). -/
def Obligations.CachesFillAndEvict : Prop :=
  ∀ (s : State) (c : Nat),
    (∀ (va : W64) (t : Target), s.translateCore c va 0 .read = .ok t → s.homeOpen t = true →
      s.wayOpen (dieOf c) t = true → s.badAt t.dla = false → s.portFree t (s.coreGen c) = true →
      let turned := s.afterRead t (s.coreGen c) []
      let n := t.dla / 128
      let l : L0Line := { gen := t.gen, data := s.lineAt (dieOf c) t, writes := (s.die (dieOf c)).lineWrites t }
      let ends := fun (k : Machine.Core) => { k with prefs := k.prefs.filter (fun p => p.1 != t.gen || p.2.1 != n) }
      (t.cp ≠ 0 ∨ (s.core c).hintBars n = true → exec (.fill c va) s = .next (turned.updCore c ends))
      ∧ (t.cp = 0 → (s.core c).hintBars n = false → (s.core c).l0.length < 256 ∨ n ∈ (s.core c).l0.map Prod.fst →
        exec (.fill c va) s = .next ((turned.updCore c ends).updCore c (fun k => { k with l0 := Sparse.put {} n l k.l0 }))))
    ∧ (∀ l, exec (.evict c l) s = .next (s.updCore c (fun k =>
        { k with l0 := Sparse.put {} l {} k.l0, prefs := k.prefs.filter (fun p => p.2.1 != l) })))
    ∧ (∀ (ten : Nat) (va : W64) (e : TlbEntry), (s.core c).ten = some ten →
      s.tlbFill (dieOf c) ten (va.toNat % 2 ^ 48) = some e → (s.core c).tlb.length < 256 → ∀ u,
      exec (.walkComplete 0 c u va) s = .next (s.updCore c (fun k => { k with tlb := e :: k.tlb })))
    ∧ (∀ (ten : Nat) (va : W64) (e : TlbEntry), s.tlbFill c ten (va.toNat % 2 ^ 48) = some e →
      (s.die c).etlb.length < 4096 →
      exec (.walkComplete 1 c ten va) s = .next (s.updDie c (fun x => { x with etlb := e :: x.etlb })))
    ∧ (∀ (ten : Nat) (va : W64) (e : S2Entry), s.s2Fill c ten (va.toNat % 2 ^ 52) = some e → (s.die c).s2c.length < 8192 →
      exec (.walkComplete 2 c ten va) s = .next (s.updDie c (fun x => { x with s2c := e :: x.s2c })))
    ∧ ∀ i, exec (.tlbReplacement 0 c i) s = .next (s.updCore c (fun k => { k with tlb := k.tlb.eraseIdx i }))
      ∧ exec (.tlbReplacement 1 c i) s = .next (s.updDie c (fun x => { x with etlb := x.etlb.eraseIdx i }))
      ∧ exec (.tlbReplacement 2 c i) s = .next (s.updDie c (fun x => { x with s2c := x.s2c.eraseIdx i }))
      ∧ (∀ kind ten a id, s.reachesDie c = true → exec (.invalidationRequest c kind ten a id) s = .next
        ((s.dropTranslations c kind ten a.toNat).updDie c (fun x => { x with invals := x.invals ++
          [⟨id, s.cores.flatMap (fun e =>
              (e.2.accs.filter (fun x => dieOf e.1 == c || x.tgt.die == c)).map (fun x => (e.1, x.id))),
            s.dies.flatMap (fun e => (e.2.op.filter (fun w => e.1 == c || w.tgt.die == c)).map (fun w => (e.1, w.wid))),
            s.cores.flatMap (fun e => e.2.copies.flatMap (fun x => (x.held.filter (fun h => dieOf e.1 == c || h.2.2.2.die == c)).map
              (fun h => (e.1, x.id, h.1))))⟩] })))
      ∧ ∀ (id : Nat) (w : Inval), (s.die c).invals.find? (fun j => j.id == id) = some w →
        (∀ q ∈ w.cores, ∀ x ∈ (s.core q.1).accs, x.id ≠ q.2) → (∀ q ∈ w.writes, (s.die q.1).inOp q.2 = false) →
        (∀ q ∈ w.beats, ∀ x ∈ (s.core q.1).copies, x.id = q.2.1 → x.ended = false → ∀ h ∈ x.held, h.1 ≠ q.2.2) →
        exec (.invalidationComplete c id) s = .next
          (s.updDie c (fun x => { x with invals := x.invals.filter (fun j => j.id != id) }))

/-! ### Handles, banks and barriers (spec 09), copies (spec 10) and matrix calls (spec 11) -/

/-- R189, R190, R191, R192, R193: what each handle operation leaves in its handle in the states that allow it, every other
handle as it was; HSTAT reads the record, and HWAIT goes on at FULL or DRAINING, joining the engine threads that filled
the handle, and holds its bundle while the handle fills; HSWAP is held while a call that has started names the handle as an
input; an operation in a state that does not allow it takes the
handle-state trap, with its subcode. -/
def Obligations.HandleOperationsAndTraps : Prop :=
  (∀ (s : State) (p : BitVec 3) (h a b d : BitVec 6) (w : BitVec 1),
    let x := s.k.handle s.gen h.toNat
    let n := (s.reg (s.rA a)).toNat % 2 ^ 32
    let fmt := (s.reg (s.rB b)).toNat % 64
    let geo := (s.reg (s.rB b)).toNat / 64 % 8
    let becomes := fun (i : Instr) (y : Handle) => ∃ t, exec i s = .next t ∧ t.gen = s.gen ∧ t.mem = s.mem
      ∧ t.k.sregs = s.k.sregs ∧ t.k.handle s.gen h.toNat = { y with hm := s.gen }
      ∧ ∀ m, m ≠ h.toNat → t.k.handle s.gen m = s.k.handle s.gen m
    (s.Executes p [s.rA a, s.rB b] none false → n ≤ 0xFFFFF →
      (x.st = .free → fmtGeoOk fmt geo = true →
        becomes (.hset p h a b) { x with exp := n, cnt := n, fmt := BitVec.ofNat 6 fmt, geo := BitVec.ofNat 3 geo
                                         refetch := false, desc := none, st := .full }
        ∧ becomes (.hexp p h a b) (if n = 0 then x else { x with
            exp := n, cnt := 0, fmt := BitVec.ofNat 6 fmt, geo := BitVec.ofNat 3 geo, refetch := false, desc := none
            st := .filling }))
      ∧ (x.st = .filling → x.exp + n ≤ 0xFFFFF → becomes (.hexp p h a b) { x with
          exp := x.exp + n, refetch := false, desc := none, st := if x.cnt = x.exp + n then .full else .filling }))
    ∧ (s.Executes p [] none false →
      (x.st = .free → becomes (.hrel p h) x)
      ∧ (x.st = .full ∨ x.st = .error → becomes (.hrel p h) { phase := x.phase })
      ∧ (x.st = .full ∨ x.st = .draining → s.k.callHolds h.toNat = false → becomes (.hswap p h) { phase := !x.phase })
      ∧ (x.st = .full ∨ x.st = .draining ∨ x.st = .error ∧ w = 1 →
        exec (.hwait p h w) s = .next (s.join (fun t => t.obj == .handle h.toNat))))
    ∧ (s.Executes p [] (some (s.rD d)) true → ∃ t, exec (.hstat p d h) s = .next t ∧ t.mem = s.mem
      ∧ t.k.handles = s.k.handles ∧ t.k.sregs = s.k.sregs ∧ t.k.pend = s.k.pend ++
        [⟨s.k.nextId, s.k.inShadow (s.rD d) 56, s.rD d, s.gen, some (s.k.handleRecord s.gen h.toNat), false, none, false⟩]))
  ∧ (∀ (s : State) (p : BitVec 3) (h a b : BitVec 6), s.guard p = true → s.cur.mode = .whole →
    let st := (s.k.handle s.gen h.toNat).st
    let n := (s.reg (s.rA a)).toNat % 2 ^ 32
    let bad := fmtGeoOk ((s.reg (s.rB b)).toNat % 64) ((s.reg (s.rB b)).toNat / 64 % 8) = false ∨ 0xFFFFF < n
    let traps := fun (i : Instr) (sub : Nat) => exec i s = .next (s.takeTrap ⟨9, sub, s.cur.slot, 0, 0, 0⟩)
    (st = .filling ∨ st = .draining → traps (.hrel p h) 1)
    ∧ (st = .free ∨ st = .error ∨ st = .filling ∧ s.k.callHolds h.toNat = false → traps (.hswap p h) 1)
    ∧ (st = .full ∨ st = .draining → s.k.callHolds h.toNat = true → exec (.hswap p h) s = .next s.hold)
    ∧ (st = .free → traps (.hwait p h 0) 3 ∧ traps (.hwait p h 1) 3) ∧ (st = .error → traps (.hwait p h 0) 2)
    ∧ (st = .filling → exec (.hwait p h 0) s = .next s.hold ∧ exec (.hwait p h 1) s = .next s.hold)
    ∧ (s.operandVerdict [s.rA a, s.rB b] none false = .go →
      (st ≠ .free → traps (.hset p h a b) 1) ∧ (st = .free → bad → traps (.hset p h a b) 5 ∧ traps (.hexp p h a b) 5)
      ∧ (st = .full ∨ st = .draining ∨ st = .error → traps (.hexp p h a b) 1)
      ∧ (st = .filling → 0xFFFFF < n ∨ 0xFFFFF < (s.k.handle s.gen h.toNat).exp + n → traps (.hexp p h a b) 5)))

/-- R105, R198, R199, R201: UIEN arms a handle, or raises its interrupt at once where it is FULL or in ERROR, or takes
both back; BKREL releases the HELD banks of its mask, at once or once no region touches them; BKWAIT goes on where every
bank of its mask is HELD, waits for a PRELOADING one and traps on a RELEASED one, among which is one that BKREL has named while
a region still touches it. -/
def Obligations.InterruptsAndBanks : Prop :=
  ∀ (s : State) (p : BitVec 3) (h a : BitVec 6),
    let st := (s.k.handle s.gen h.toNat).st
    let bank := fun b => Sparse.get BankState.released b s.k.banks
    let named := fun b => (s.reg (s.rA a)).getLsbD b
    (s.Executes p [] none false →
      (∃ t, exec (.uien p h 1) s = .next t ∧ t.mem = s.mem
        ∧ (∀ m, t.k.armed.getLsbD m = (s.k.armed.getLsbD m || decide (m = h.toNat ∧ st ≠ .full ∧ st ≠ .error)))
        ∧ (∀ m, t.k.uiPend.getLsbD m = (s.k.uiPend.getLsbD m
            || decide (m = h.toNat ∧ (st = .full ∨ st = .error) ∧ s.k.armed.getLsbD m = false))))
      ∧ ∃ t, exec (.uien p h 0) s = .next t ∧ t.mem = s.mem
        ∧ (∀ m, t.k.armed.getLsbD m = (s.k.armed.getLsbD m && decide (m ≠ h.toNat)))
        ∧ (∀ m, t.k.uiPend.getLsbD m = (s.k.uiPend.getLsbD m && decide (m ≠ h.toNat))))
    ∧ (s.Executes p [s.rA a] none false → ∃ t, exec (.bkrel p a) s = .next t ∧ t.mem = s.mem ∧ t.k.spm = s.k.spm
      ∧ ∀ b, Sparse.get BankState.released b t.k.banks =
          if b < 16 ∧ named b = true ∧ bank b = .held then (if s.k.bankBusy b = true then .releasing else .released)
          else bank b)
    ∧ (s.Executes p [s.rA a] none false → (∀ b < 16, named b = true → bank b = .held) → exec (.bkwait p a) s = .next s)
    ∧ (s.guard p = true → s.cur.mode = .whole → s.operandVerdict [s.rA a] none false = .go →
      ((∃ b < 16, named b = true ∧ (bank b = .released ∨ bank b = .releasing)) → exec (.bkwait p a) s = .next (s.takeTrap ⟨9, 4, s.cur.slot, 0, 0, 0⟩))
      ∧ ((∀ b < 16, named b = true → bank b = .held ∨ bank b = .preloading) →
        (∃ b < 16, named b = true ∧ bank b = .preloading) → exec (.bkwait p a) s = .next s.hold))

/-- R204, R205: BARV counts an arrival and the bytes it posts, BART posts bytes, BARV with INIT sets the quota and
clears the counts; at the end of a local cycle in which a barrier changed, its epoch closes where arrivals and bytes are
complete; and BARW goes on once the epoch it waits for has closed. -/
def Obligations.LegacyBarriers : Prop :=
  ∀ (s : State) (p n : BitVec 3) (a : BitVec 6),
    let x := s.k.barrier n.toNat
    let v := s.reg (s.rA a)
    let closed := fun (y : Barrier) =>
      if y.arrv = y.quota ∧ y.got = y.want then { y with epoch := y.epoch + 1, arrv := 0, want := 0, got := 0 } else y
    let becomes := fun (i : Instr) (y : Barrier) => ∃ t, exec i s = .next t ∧ t.mem = s.mem ∧ t.k.sregs = s.k.sregs
      ∧ t.k.handles = s.k.handles ∧ t.k.barrier n.toNat = y ∧ ∀ m, m ≠ n.toNat → t.k.barrier m = s.k.barrier m
    (s.Executes p [s.rA a] none false →
      (x.arrv ≠ x.quota → becomes (.barv p n a)
        { x with arrv := x.arrv + 1, wep := x.epoch, want := x.want + v.setWidth 24, moved := true })
      ∧ (v.setWidth 16 ≠ (0 : BitVec 16) → becomes (.barvInit p n a)
        { x with quota := v.setWidth 16, arrv := 0, want := 0, got := 0, wep := x.epoch
                 moved := x.moved || decide (x.arrv ≠ 0 ∨ x.want ≠ 0 ∨ x.got ≠ 0) })
      ∧ becomes (.bart p n a) { x with want := x.want + v.setWidth 24
                                       moved := x.moved || decide (v.setWidth 24 ≠ (0 : BitVec 24)) })
    ∧ (∀ c, let y := (s.core c).barrier n.toNat
      ((s.tick (dieOf c)).core c).barrier n.toNat = if y.moved then { (closed y) with moved := false } else y)
    ∧ (s.Executes p [] none false → x.epoch ≠ x.wep →
      exec (.barw p n) s = .next (s.join (fun t => t.obj == .barrier n.toNat)))
    ∧ (s.guard p = true → s.cur.mode = .whole →
      (x.epoch = x.wep → exec (.barw p n) s = .next s.hold)
      ∧ (s.operandVerdict [s.rA a] none false = .go →
        (x.arrv = x.quota → exec (.barv p n a) s = .next (s.takeTrap ⟨9, 6, s.cur.slot, 0, 0, 0⟩))
        ∧ (v.setWidth 16 = (0 : BitVec 16) → exec (.barvInit p n a) s = .next (s.takeTrap ⟨9, 6, s.cur.slot, 0, 0, 0⟩))))

/-- R216, R220, R221, R229, R230: CLVL sets a level register or CCTL; a copy that its checks let go enters the copy queue
with the next sequence number, is counted, holds its regions and, where it completes a handle, makes it FILLING with its
box size as the expectation; one that fails a check takes the handle-state trap; CQRY leaves its destination pending. -/
def Obligations.CopyInstructions : Prop :=
  ∀ (s : State) (p : BitVec 3) (n h a b d q : BitVec 6) (x : Bool),
    let u := s.reg (s.rA a)
    let v := s.reg (s.rB b)
    let desc : CopyDesc := { dst := u, src := v, cctl := s.k.cctl, x := x, levels := s.k.levels, scope := s.scope, hint := s.hint }
    let rs := desc.regions s.cur.core s.k.nextId
    let i : Instr := if x then .cgox p h a b else .cgo p h a b
    let sub := s.k.copyCheck s.gen s.cur.core desc h.toNat
    (s.Executes p [s.rA a, s.rB b] none false →
      (n ≠ 6 → u.toNat < 2 ^ 20 → exec (.clvl p n a b) s = .next (s.updK (fun k => { k with
        levels := Sparse.put {} n.toNat ⟨u.setWidth 20, v.setWidth 32, (v >>> 32).setWidth 32⟩ k.levels })))
      ∧ (u.toNat / 2 ^ 16 % 2 ^ 16 = 0 → u.toNat % 4 = 0 → u.toNat / 8 % 4 ≠ 3 →
        exec (.clvl p 6 a b) s = .next (s.updK (fun k => { k with cctl := u })))
      ∧ (sub = 0 → s.k.regions.length + rs.length ≤ 32 → s.k.queueUse < 64 → ∃ t c, exec i s = .next t ∧ t.mem = s.mem
        ∧ t.k.sregs = s.k.sregs ∧ t.k.copies = s.k.copies ++ [c] ∧ c.seq = s.k.copySeq + 1 ∧ t.k.copySeq = s.k.copySeq + 1
        ∧ c.desc = desc ∧ c.gen = s.gen ∧ c.bytes = desc.bytes ∧ c.counted = 0 ∧ t.k.ncp = s.k.ncp + 1
        ∧ t.k.regions = s.k.regions ++ rs
        ∧ (desc.ckind = 0 → c.obj = .handle h.toNat ∧ (t.k.handle s.gen h.toNat).st = .filling
          ∧ (t.k.handle s.gen h.toNat).exp = desc.bytes ∧ (t.k.handle s.gen h.toNat).cnt = 0)
        ∧ (desc.ckind = 1 → c.obj = .barrier h.toNat ∧ t.k.handles = s.k.handles)))
    ∧ (s.guard p = true → s.cur.mode = .whole → s.operandVerdict [s.rA a, s.rB b] none false = .go → sub ≠ 0 →
      s.k.regions.length + rs.length ≤ 32 → exec i s = .next (s.takeTrap ⟨9, sub, s.cur.slot, 0, 0, 0⟩))
    ∧ (s.Executes p [s.rA a] (some (s.rD d)) true → ∃ t, exec (.cqry p d a q) s = .next t ∧ t.mem = s.mem
      ∧ t.k.sregs = s.k.sregs ∧ t.k.pend = s.k.pend ++ [⟨s.k.nextId, s.k.inShadow (s.rD d) 56, s.rD d, s.gen, none, false,
        some (.copy q.toNat u), false⟩])

/-- R239-R248, R267, R268: the parameter registers are written and read under the hallmark rule; MXLDU and MXRT fill user
words and entries while the engine is idle; MXCALL enters the call queue with a snapshot of the parameters and makes its
output handle FILLING; MXSTAT reads a status entry, or waits for one that is awaited. -/
def Obligations.MatrixInstructions : Prop :=
  ∀ (s : State) (p m : BitVec 3) (d a b h i n : BitVec 6) (r : BitVec 5),
    let u := s.reg (s.rA a)
    let v := s.reg (s.rB b)
    let first := v.toNat % 256
    let count := v.toNat / 256 % 256 + 1
    (s.Executes p [s.rA a] none false → ∃ t, exec (.mxp p m a) s = .next t ∧ t.mem = s.mem ∧ t.k.sregs = s.k.sregs
      ∧ t.k.param s.gen m.toNat = u ∧ ∀ j, j ≠ m.toNat → t.k.param s.gen j = s.k.param s.gen j)
    ∧ (s.Executes p [] (some (s.rD d)) false →
      exec (.mxpr p d m) s = .next (s.putScalar 1 (s.rD d) (s.k.param s.gen m.toNat)))
    ∧ (s.Executes p [s.rA a, s.rB b] none false → 128 ≤ first → first + count ≤ 256 → u.toNat % 8 = 0 → v.toNat < 2 ^ 16 →
      s.k.calls = [] → (∀ l < 4096, (∃ j < count, l = (u.toNat + 8 * j) % 2 ^ 19 / 128) →
        Sparse.get BankState.released (l / 256) s.k.banks = .held ∧ s.k.lineWait l false = false) →
      ∃ t, exec (.mxldu p a b) s = .next t ∧ t.mem = s.mem ∧ t.k.spm = s.k.spm ∧ t.k.sregs = s.k.sregs
        ∧ ∀ j, Sparse.get {} j t.k.uwords = if first ≤ j ∧ j < first + count
          then ⟨BitVec.ofNat 64 (s.k.spmBytes s.gen (u.toNat + 8 * (j - first)) 8), s.gen⟩ else Sparse.get {} j s.k.uwords)
    ∧ (s.Executes p [s.rA a] none false → 16 ≤ n.toNat → u.toNat < 2 ^ 20 → 128 ≤ u.toNat % 256 →
      u.toNat % 256 + u.toNat / 256 % 256 ≤ 255 → s.k.calls = [] → exec (.mxrt p n a) s = .next (s.updK (fun k =>
        { k with uents := Sparse.put {} n.toNat ⟨u, s.gen⟩ k.uents })))
    ∧ (s.Executes p [] none false → s.k.callCheck s.gen h.toNat i.toNat r.toNat = 0 → s.k.calls.length < 8 →
      ∀ ent rs, s.k.routine s.gen r.toNat = some ent → s.k.callRegions ent (s.k.snapshot s.gen) = some rs →
      s.k.regions.length + rs.length ≤ 32 → ∃ t c, exec (.mxcall p h i r) s = .next t ∧ t.mem = s.mem
        ∧ t.k.sregs = s.k.sregs ∧ t.k.calls = s.k.calls ++ [c] ∧ c.snap = s.k.snapshot s.gen ∧ c.start = ent.toNat % 256
        ∧ c.len = ent.toNat / 256 % 256 + 1 ∧ c.hout = h.toNat ∧ c.hin = i.toNat ∧ c.started = false
        ∧ t.k.ntl = s.k.ntl + 1 ∧ t.k.regions = s.k.regions ++ rs ∧ (t.k.handle s.gen h.toNat).st = .filling
        ∧ (t.k.handle s.gen h.toNat).exp = 128 * ((rs.filter (fun q => q.acc && q.write)).map Region.rows).sum
        ∧ (Sparse.get {} h.toNat t.k.status).awaited = true)
    ∧ (s.guard p = true → s.cur.mode = .whole → s.k.callCheck s.gen h.toNat i.toNat r.toNat ≠ 0 →
      s.k.regions.length ≤ 28 → exec (.mxcall p h i r) s = .next
        (s.takeTrap ⟨9, s.k.callCheck s.gen h.toNat i.toNat r.toNat, s.cur.slot, 0, 0, 0⟩))
    ∧ (s.Executes p [] (some (s.rD d)) true → ∃ t q, exec (.mxstat p d h) s = .next t ∧ t.mem = s.mem
      ∧ t.k.sregs = s.k.sregs ∧ t.k.pend = s.k.pend ++ [q] ∧ q.reg = s.rD d
      ∧ let e := Sparse.get {} h.toNat s.k.status
        if e.awaited = true then q.value = none ∧ q.query = some (.status h.toNat)
        else q.value = some e.val ∧ q.query = none)

/-! ### System operations: stacks, tenancies, tasks, links (spec 14, 15, 16, 18) -/

/-- R321, R326, R349, R350, R352, R376, R377, R378, R379, R419: what each system operation leaves where its checks let
it: SOWN and GENR their values, SHAND a cut of the stack, which the end of its bundle makes, GENPROBE and LINKQ a pending
result, TENEND, once numbers have gone to those that wait for one, an ending of the tenancy's generation, or a place behind
the TENEND that runs, TIDX and TNEXT an index of the task, which TNEXT claims at its issue (the model's reading, log entry
55), SUSPEND and END the end of the task's run; each traps with its subcode where a check refuses it, an import table that
GENPROBE cannot read with the fault of that read (the model's choice, log entry 121), and the task operations at platform
level. -/
def Obligations.SystemInstructions : Prop :=
  ∀ (s : State) (p : BitVec 3) (h a b d : BitVec 6),
    let u := s.reg (s.rA a)
    let v := s.reg (s.rB b)
    let k := u.toNat % 8
    let awaits := fun (i : Instr) (x : Option W64) (y : Option Query) => ∃ t, exec i s = .next t ∧ t.mem = s.mem
      ∧ t.k.sregs = s.k.sregs ∧ t.k.pend = s.k.pend ++ [⟨s.k.nextId, s.k.inShadow (s.rD d) 56, s.rD d, s.gen, x, false, y, false⟩]
    (s.Executes p [s.rA a] (some (s.rD d)) false → u.toNat < 8 →
      exec (.sown p d a) s = .next (s.putScalar 1 (s.rD d) (s.ownerMirror s.d u.toNat)))
    ∧ (s.Executes p [s.rA a] none false → u.toNat < 2 ^ 16 → u.getLsbD 14 = false → u.extractLsb' 3 5 = 0 →
      touches s.d k = true → s.owner k = s.d → (s.stack k).hand = none →
      (∀ t, s.k.lvl = false → s.k.ten = some t →
        (s.stack k).rv = true ∧ (s.stack k).rten.toNat = t ∧ s.fencedFor t s.d k = false) →
      s.cur.cut = none → ∃ t w, exec (.shand p h a) s = .next t ∧ t.stackTab = (if s.cur.mode = .commit then s.stackTab
          else t.endCut.stackTab)
        ∧ let t' := t.endCut
          t'.mem = s.mem ∧ t'.cores = s.cores ∧ (t'.stack k).hand = some w
          ∧ w.core = (u.extractLsb' 8 6).toNat ∧ w.handle = h.toNat ∧ w.cpl = u.getLsbD 15 ∧ w.gen = s.gen
          ∧ w.ten = (if s.k.lvl then none else s.k.ten) ∧ t'.owner k = s.d
          ∧ ∀ j, j ≠ k → t'.stack j = s.stack j)
    ∧ (s.Executes p [] (some (s.rD d)) false →
      (s.k.lvl = true → exec (.genr p d) s = .next (s.putScalar 1 (s.rD d) 0x10000001))
      ∧ (∀ t, s.k.lvl = false → s.k.ten = some t →
        exec (.genr p d) s = .next (s.putScalar 1 (s.rD d) (BitVec.ofNat 64 (t * 2 ^ 16 + s.gen.toNat)))))
    ∧ (s.Executes p [s.rA a] (some (s.rD d)) true → s.k.lvl = false → s.accessVerdict u 0 .read = .go →
      exec (.genprobe p d a 0) s = .next ((s.putAcc { id := 0, kind := .probe, tgt := s.targetNow u 0 .read, va := u
                                                      size := 1, pid := s.k.nextId }).awaitReg (s.rD d) false))
    ∧ (s.Executes p [s.rA a] (some (s.rD d)) true → s.k.lvl = false → u.toNat < 4096 →
      (s.importSlot u.toNat = .ok none → awaits (.genprobe p d a 1) (some 0) none)
      ∧ ∀ e, s.importSlot u.toNat = .ok (some e) →
        ∃ w, awaits (.genprobe p d a 1) (some w) none ∧ w.toNat < 8 ∧ w.getLsbD 0 = importOk e
        ∧ w.getLsbD 1 = (importOk e && s.isCurrent (importDie e) (importGen e) && importGen e != platformGen)
        ∧ w.getLsbD 2 = !s.reaches s.d (importDie e))
    ∧ (s.Executes p [s.rA a] (some (s.rD d)) true → u.toNat < 24 → awaits (.linkq p d a) none (some (.link u.toNat)))
    ∧ (s.Executes p [s.rA a, s.rB b] none false → s.k.lvl = true → u.toNat < 2 ^ 13 → s.recordAddrOk v = true →
      let m := u.toNat % 4096
      let s0 := s.grantAll
      let x := s0.tenancy m
      (s.tenancy m).opened = true → ∃ t, exec (.tenend p a b) s = .next t ∧ t.mem = s0.mem ∧ t.cores = s0.cores
        ∧ (t.tenancy m).opened = !u.getLsbD 12
        ∧ (x.ending ≠ none ∨ x.gen = none ∨ x.queued ≠ [] → (t.tenancy m).ending = x.ending ∧ (t.tenancy m).gen = x.gen
          ∧ (t.tenancy m).queued = x.queued ++ [(u.getLsbD 12, v, none, s0.nextWid)])
        ∧ ∀ g, x.gen = some g → x.ending = none → x.queued = [] → s0.genState g = .live → ∃ e,
          (t.tenancy m).ending = some e ∧ e.oldGen = g ∧ e.erec = v ∧ e.close = u.getLsbD 12 ∧ t.genState g = .ending
          ∧ (e.close = true → e.newGen = none ∧ (t.tenancy m).gen = none)
          ∧ (∀ n, e.close = false → s0.newFree = some n →
            e.newGen = some (BitVec.ofNat 16 n) ∧ (t.tenancy m).gen = e.newGen ∧ e.newSerial = s0.lastSerial + 1)
          ∧ (e.close = false → s0.newFree = none → e.newGen = none ∧ (t.tenancy m).gen = none ∧ m ∈ t.deferred))
    ∧ (s.guard p = true → s.cur.mode = .whole →
      let traps := fun (i : Instr) (sub : Nat) => exec i s = .next (s.takeTrap ⟨0x0A, sub, s.cur.slot, 0, 0, 0⟩)
      let faults := fun (i : Instr) (f : Nat) => f ≠ walkWait → f ≠ walkError → exec i s = .next (s.takeTrap ⟨7, f, s.cur.slot, 0, 0, u⟩)
      (s.operandVerdict [s.rA a] (some (s.rD d)) false = .go → 8 ≤ u.toNat → traps (.sown p d a) 0x01)
      ∧ (s.operandVerdict [s.rA a] none false = .go →
        let shaped := u.toNat < 2 ^ 16 ∧ u.getLsbD 14 = false ∧ u.extractLsb' 3 5 = 0
        let barred := ∃ t, s.k.lvl = false ∧ s.k.ten = some t
          ∧ ((s.stack k).rv = false ∨ (s.stack k).rten.toNat ≠ t ∨ s.fencedFor t s.d k = true)
        (¬ shaped → traps (.shand p h a) 0x01)
        ∧ (shaped → touches s.d k = false → traps (.shand p h a) 0x02)
        ∧ (shaped → touches s.d k = true → barred → traps (.shand p h a) 0x03)
        ∧ (shaped → touches s.d k = true → ¬ barred → s.owner k ≠ s.d ∨ (s.stack k).hand ≠ none → traps (.shand p h a) 0x04))
      ∧ (s.operandVerdict [s.rA a] (some (s.rD d)) true = .go →
        (24 ≤ u.toNat → traps (.linkq p d a) 0x40)
        ∧ (s.k.lvl = true → traps (.genprobe p d a 0) 0x13 ∧ traps (.genprobe p d a 1) 0x13)
        ∧ (s.k.lvl = false → 4096 ≤ u.toNat → traps (.genprobe p d a 1) 0x11)
        ∧ (s.k.lvl = false → u.toNat < 4096 → ∀ f, s.importSlot u.toNat = .error f → faults (.genprobe p d a 1) f))
      ∧ (s.operandVerdict [s.rA a, s.rB b] none false = .go →
        (s.k.lvl = false → traps (.tenend p a b) 0x10)
        ∧ (s.k.lvl = true → 2 ^ 13 ≤ u.toNat ∨ (s.tenancy (u.toNat % 4096)).opened = false ∨ s.recordAddrOk v = false →
          traps (.tenend p a b) 0x12)
        ∧ (s.k.lvl = false → u.toNat % 8 ≠ 0 → traps (.suspend p a b) 0x20)
        ∧ (s.k.lvl = false → u ≠ 0 → u.toNat % 8 = 0 → ∀ f, s.translateCore s.cur.core u 8 .read = .error f →
          faults (.suspend p a b) f)))
    ∧ ∀ x, s.k.task = some x →
      (s.k.lvl = false →
        (s.Executes p [] (some (s.rD d)) false → ∃ w, exec (.tidx p d) s = .next (s.putScalar 1 (s.rD d) w)
          ∧ w.toNat % 2 ^ 32 = x.index % 2 ^ 32 ∧ w.toNat / 2 ^ 32 = x.node % 64)
        ∧ (s.Executes p [] (some (s.rD d)) true → (∀ t, Sparse.get none t (s.die s.d).replays = none) →
          (s.claimSource s.cur.core = none → awaits (.tnext p d) (some (BitVec.allOnes 64)) none)
          ∧ (∀ i c j rest, s.claimSource s.cur.core = some (.held i) → s.k.chunks[i]? = some c → c.left = j :: rest →
            ∃ t r, exec (.tnext p d) s = .next t ∧ t.mem = s.mem ∧ t.k.pend = s.k.pend ++ [r] ∧ r.reg = s.rD d
              ∧ r.value = some (BitVec.ofNat 64 j) ∧ t.k.task = some { x with holds := x.holds ++ [(c.chunk, j)] }
              ∧ t.k.chunks = if rest = [] then s.k.chunks.eraseIdx i else s.k.chunks.set i { c with left := rest })
          ∧ (∀ slot j n l i rest, s.claimSource s.cur.core = some (.chunk slot j n) →
            (s.die s.d).launch slot = some l → l.home = s.d → s.chunkHeld l j n = false → l.indices j n = i :: rest →
            ∃ t r, exec (.tnext p d) s = .next t ∧ t.k.sregs = s.k.sregs ∧ t.k.pend = s.k.pend ++ [r] ∧ r.reg = s.rD d
              ∧ r.value = some (BitVec.ofNat 64 i) ∧ t.k.task = some { x with holds := x.holds ++ [(n, i)] }))
        ∧ (s.Executes p [s.rA a, s.rB b] none false →
          (u = 0 ∨ u.toNat % 8 = 0 ∧ ∃ t, s.translateCore s.cur.core u 8 .read = .ok t) →
          exec (.suspend p a b) s = .next (s.updK (fun k =>
            { (k.releaseBanks 0xFFFF) with task := some { x with ending := .suspended u v } })))
        ∧ (s.Executes p [] none false → exec (.endTask p) s = .next (s.updK (fun k =>
            { (k.releaseBanks 0xFFFF) with task := some { x with ending := .ended } }))))
      ∧ (s.k.lvl = true → s.guard p = true → s.cur.mode = .whole →
        let trap := Host.Outcome.next (s.takeTrap ⟨0x0A, 0x21, s.cur.slot, 0, 0, 0⟩)
        (s.operandVerdict [] (some (s.rD d)) false = .go → exec (.tidx p d) s = trap)
        ∧ (s.operandVerdict [] (some (s.rD d)) true = .go → exec (.tnext p d) s = trap)
        ∧ (s.operandVerdict [s.rA a, s.rB b] none false = .go → exec (.suspend p a b) s = trap)
        ∧ (exec (.endTask p) s = trap))

/-! ### The matrix engine (spec 11) -/

/-- R252, R255, R256, R257, R258, R259, R260, R131: what each micro-op does to the running call. R250, R251, R257, R259, R260,
R261, R265, R267: a call at the head of the queue starts once its input is FULL or DRAINING; END ends it, its output
whole; a reserved micro-word and each fault end it with their fault code, its output in ERROR; either way it leaves its
counter and its regions, which a DRAIN of the last row to be drained gives up before; the status entry that is awaited stands
ready from the moment the output is FULL, or from the end, and a later step posts it to every MXSTAT that awaits it. That an
MMA ends 0x44 before any other cause, and a DRAIN of a reserved DF 0x4C first, is the model's reading (log entry 31); that the
post is no sooner and no later than its own step is the model's choice (log entry 34). -/
def Obligations.MicroOpsAndCalls : Prop :=
  (∀ (s : State) (c : Call) (l : List Call), s.k.calls = c :: l → c.started = true →
    let g := c.gen
    let goes := fun (i : Instr) (c' : Call) => exec i s = .next (s.updK (fun k => { k with calls := c' :: l }))
    let plain := fun (q : List Call) => q.map (fun y => { y with noted := false })
    (∀ rp, goes (.zero 0 rp) { c with tile := [], refs := [], slices := 0, pc := c.pc + 1 })
    ∧ (∀ (rp : BitVec 3), let row := fun i => ((c.params.getD rp.toNat 0).toNat % 4096 + i) % 4096
      (∀ i < 32, c.mayRow (row i) = true ∧ (Sparse.get {} (row i) s.k.rows).bad = false) →
      ∃ c', goes (.zero 1 rp) c' ∧ c'.pc = c.pc + 1 ∧ c'.params = c.params ∧ c'.slices = 0
        ∧ ∀ i < 32, ∀ j < 32, Sparse.get 0 (32 * i + j) c'.tile = (unitOf (s.k.row g (row i)) j).toNat)
    ∧ (∀ (ap bp kp mp : BitVec 3) (ah bh : BitVec 6) (sp ua ain bin : BitVec 1) (u : Option (Unfold × Nat)),
      let ha := if ain = 1 then c.hin else ah.toNat
      let hb := if bin = 1 then c.hin else bh.toNat
      let xa := s.k.handle g ha
      let xb := s.k.handle g hb
      let n := (c.params.getD kp.toNat 0).toNat % 2 ^ 20
      let pa := c.params.getD ap.toNat 0
      let w := sliceWidth xa.fmt.toNat xb.fmt.toNat
      let m : MmaPlan := {
        a := if ua = 1 then ⟨(u.map (·.1.base)).getD 0, 0, xa.fmt.toNat, 0⟩ else operandOf pa xa
        b := operandOf (c.params.getD bp.toNat 0) xb, n := n, slice := w
        mta := if sp = 1 then some { operandOf (c.params.getD mp.toNat 0) {} with fmt := 0 } else none
        unf := if ua = 1 then u else none }
      u = c.unf.map (fun t => (unfoldOf t.1 t.2, pa.toNat % 2 ^ 24)) → ha ∈ c.inputs → hb ∈ c.inputs →
      mmaFormat xa.fmt.toNat = true → mmaFormat xb.fmt.toNat = true → w ≠ 0 → n ≠ 0 →
      offBlock xb.geo.toNat (if sp = 1 then n / 2 else n) = false → (sp = 1 → n % 4 = 0) →
      (ua ≠ 1 → offBlock xa.geo.toNat n = false) →
      (ua = 1 → xa.geo = 0 ∧ ∃ v, u = some v ∧ n ≤ v.1.r * v.1.s * v.1.c) →
      (∀ y ∈ m.lines, c.mayRead y = true ∧ (Sparse.get {} y s.k.spm).bad = false) →
      (∀ o, m.mta = some o → ∀ j < 32, ∀ e < n / 4, let b := s.k.metaByte g o j e
        b / 16 = b % 16 ∧ b % 4 < b / 4 % 4) →
      (∀ y ∈ m.latched, y % 2 ^ 19 ∉ s.k.latchUpsets) →
      ∃ c', goes (.mma ap bp kp mp ah bh sp ua ain bin) c' ∧ c'.pc = c.pc + 1 ∧ c'.params = c.params
        ∧ ∀ i < 32, ∀ j < 32, Sparse.get 0 (32 * i + j) c'.tile =
            accumulate w ((n + w - 1) / w) (products (s.k.rowA g m i) (s.k.rowB g m j)) (Sparse.get 0 (32 * i + j) c.tile))
    ∧ (∀ (tp gp : BitVec 3), let t := c.params.getD tp.toNat 0
      let w := c.params.getD gp.toNat 0
      t.toNat < 2 ^ 55 → w.toNat < 2 ^ 36 → goes (.unf tp gp) { c with unf := some (t, w), pc := c.pc + 1 })
    ∧ (∀ (rp scp : BitVec 3) (sc : BitVec 1) (df : BitVec 3) (f : FloatFmt) (per : Nat),
      let row := fun q => ((c.params.getD rp.toNat 0).toNat % 4096 + q) % 4096
      let x := if sc = 1 then some (fmtF32.decode ((c.params.getD scp.toNat 0).toNat % 2 ^ 32)) else none
      let h := s.k.handle g c.hout
      drainFmt df.toNat = some (f, per) → (∀ q < 32 / per, c.mayWrite (row q) = true ∧ row q ∉ c.drained) →
      c.checkFails = false → h.st = .filling → h.cnt + 128 * (32 / per) ≤ h.exp →
      ∃ t c' l', exec (.drain rp scp sc df) s = .next t ∧ t.mem = s.mem ∧ t.k.sregs = s.k.sregs ∧ t.k.calls = c' :: l'
        ∧ plain l' = plain l ∧ c'.pc = c.pc + 1 ∧ c'.tile = c.tile ∧ c'.drains = c.drains + 1
        ∧ c'.drained = c.drained ++ (List.range (32 / per)).map row ∧ (c'.wholly = true → ∀ r ∈ t.k.regions, r.op ≠ c.id)
        ∧ (h.cnt + 128 * (32 / per) = h.exp → c.noted = false → (Sparse.get {} c.hout s.k.status).awaited = true → ∃ v : W64,
          (Sparse.get {} c.hout t.k.status).final = some v ∧ v.toNat / 2 ^ 40 % 256 = 0 ∧ v.getLsbD 15 = true
          ∧ v.setWidth 8 = c'.bits ∧ v.toNat / 2 ^ 48 = (c.drains + 1) % 2 ^ 16)
        ∧ (∀ i < 32, ∀ j < 32, laneNat f.width (t.k.row g (row (i / per))) (32 * (i % per) + j) =
            (drainElem f x (tileAt c.tile i j)).1 % 2 ^ f.width)
        ∧ (∀ r, (∀ q < 32 / per, r ≠ row q) → Sparse.get {} r t.k.rows = Sparse.get {} r s.k.rows)
        ∧ (t.k.handle g c.hout).cnt = h.cnt + 128 * (32 / per)
        ∧ (t.k.handle g c.hout).fmt.toNat = df.toNat + 1 ∧ (t.k.handle g c.hout).geo = 0
        ∧ ((t.k.handle g c.hout).st = .full ↔ h.cnt + 128 * (32 / per) = h.exp))
    ∧ (∀ (pd sp : BitVec 3) (ps : BitVec 1) (stride : BitVec 32),
      goes (.adv pd sp ps stride) { c with pc := c.pc + 1, params := c.params.set pd.toNat (c.params.getD pd.toNat 0
        + (if ps = 1 then ((c.params.getD sp.toNat 0).setWidth 32).signExtend 64 else stride.signExtend 64)) })
    ∧ (∀ (cp : BitVec 3) (e : Nat), let n := (c.params.getD cp.toNat 0).toNat % 2 ^ 20
      s.k.matchEndl g (c.start + c.len - (c.pc + 1)) (c.pc + 1) 0 = some e →
      (n = 0 → goes (.mxLoop cp) { c with pc := e + 1 })
      ∧ (n ≠ 0 → c.loops.length < 4 → goes (.mxLoop cp) { c with loops := (c.pc + 1, n) :: c.loops, pc := c.pc + 1 }))
    ∧ (∀ w n r, c.loops = (w, n) :: r →
      (1 < n → goes .endl { c with loops := (w, n - 1) :: r, pc := w })
      ∧ (n ≤ 1 → goes .endl { c with loops := r, pc := c.pc + 1 }))
    ∧ ∀ (h : BitVec 6), let x := s.k.handle g h.toNat
      (x.st = .full ∨ x.st = .draining → ∃ t c', exec (.waith h) s = .next t ∧ t.mem = s.mem ∧ t.k.calls = c' :: l
        ∧ c'.pc = c.pc + 1 ∧ h.toNat ∈ c'.inputs ∧ (∀ j ∈ c.inputs, j ∈ c'.inputs)
        ∧ t.k.handle g h.toNat = { x with st := .draining, hm := g }
        ∧ ∀ j, j ≠ h.toNat → t.k.handle g j = s.k.handle g j)
      ∧ (x.st = .free ∨ x.st = .filling → exec (.waith h) s = .next s))
  ∧ (∀ (s : State) (c : Call) (l : List Call), s.k.calls = c :: l →
    let out := s.k.handle c.gen c.hout
    let plain := fun (q : List Call) => q.map (fun y => { y with noted := false })
    let leaves := fun (t : State) => plain t.k.calls = plain l ∧ t.k.ntl = s.k.ntl - 1 ∧ (∀ r ∈ t.k.regions, r.op ≠ c.id)
      ∧ t.k.sregs = s.k.sregs ∧ t.k.rows = s.k.rows
    let ends := fun (i : Instr) (f : Nat) => ∃ t, exec i s = .next t ∧ leaves t ∧ (t.k.handle c.gen c.hout).st = .error
      ∧ (t.k.handle c.gen c.hout).fcode = (if out.st = .error then out.fcode else BitVec.ofNat 8 f)
      ∧ (∃ v : W64, (Sparse.get {} c.hout t.k.status).final = some v ∧ v.toNat / 2 ^ 40 % 256 = f ∧ v.getLsbD 15 = true
        ∧ v.getLsbD 0 = true ∧ v.toNat / 2 ^ 48 = c.drains % 2 ^ 16)
    (c.started = true →
      (out.st = .full → ∃ t, exec .mxEnd s = .next t ∧ t.mem = s.mem ∧ leaves t ∧ t.k.calls = l ∧ t.k.handles = s.k.handles
        ∧ (c.noted = true → ∀ h, Sparse.get {} h t.k.status = (Sparse.get {} h s.k.status : StatusEntry))
        ∧ (c.noted = false → (Sparse.get {} c.hout s.k.status).awaited = true → ∃ v : W64,
          (Sparse.get {} c.hout t.k.status).final = some v ∧ v.toNat / 2 ^ 40 % 256 = 0 ∧ v.getLsbD 15 = true
          ∧ v.setWidth 8 = c.bits ∧ v.toNat / 2 ^ 48 = c.drains % 2 ^ 16))
      ∧ (out.st ≠ .full → ends .mxEnd 0x4B) ∧ ends .reservedMicroOp 0x41 ∧ (c.loops = [] → ends .endl 0x42)
      ∧ (∀ rp scp sc df, 5 ≤ (df : BitVec 3).toNat → ends (.drain rp scp sc df) 0x4C)
      ∧ (∀ (rp : BitVec 3), (∃ i < 32, c.mayRow (((c.params.getD rp.toNat 0).toNat % 4096 + i) % 4096) = false) →
        ends (.zero 1 rp) 0x43)
      ∧ (∀ ap bp kp mp (ah bh : BitVec 6) sp ua, ah.toNat ∉ c.inputs → ends (.mma ap bp kp mp ah bh sp ua 0 0) 0x44)
      ∧ (∀ h : BitVec 6, (s.k.handle c.gen h.toNat).st = .error → ends (.waith h) 0x40))
    ∧ (c.started = false → (s.die s.d).throttled (quadrantOf s.cur.core) = false →
      ((s.k.handle c.gen c.hin).st = .full ∨ (s.k.handle c.gen c.hin).st = .draining →
        c.id ∉ s.k.blocked → c.id ∉ s.k.owedOps → (∀ h ∈ c.inputs, (s.k.handle c.gen h).st ≠ .filling) →
        s.k.engineClear s.cur.core c.id = true → s.k.forkHeld c.forkAt = false → ∃ t, exec (.callStart s.cur.core) s = .next t ∧ t.mem = s.mem
          ∧ t.k.calls = { c with started := true, inputs := if c.inputs = [] then [c.hin] else c.inputs } :: l
          ∧ (t.k.handle c.gen c.hin).st = .draining ∧ ∀ j, j ≠ c.hin → t.k.handle c.gen j = s.k.handle c.gen j)
      ∧ ((s.k.handle c.gen c.hin).st = .error → ends (.callStart s.cur.core) 0x40))
    ∧ ∀ h (v : W64), (Sparse.get {} h s.k.status : StatusEntry).final = some v →
      exec (.statusPost s.cur.core h) s = .next (s.updK (fun k => { k with
        status := Sparse.put {} h ⟨v, false, none⟩ k.status
        pend := k.pend.map (fun q => if q.query = some (.status h) then { q with value := some v, query := none } else q) })))

/-! ### Command queues and packets (spec 16) -/

/-- R362, R363, R364, R366, R339, R353: a packet that may start is consumed with the effect that its type has. R361, R362,
R364, R365: a queue reads its tail word again and takes it as its tail where it is no further than the ring's size from
the head; a consumed packet moves the head on, in the queue and in its head word; a waiting WAITMEM ends once its word
satisfies it, and a write of the command processor enters its die's ordering point. A read that a home has served moves its
port's rotation on (R234). The head word is written at its home in the step itself, once every older write of the stream
has left the ordering point, and a SIGNAL waits for the outbound queue of the I/O die: these are the model's choices (log
entries 19, 60 and 116). -/
def Obligations.PacketsAndQueues : Prop :=
  (∀ (s : State), let d := s.cur.die
    let q := s.cur.queue
    let x := s.queue d q
    let does := fun (i : Instr) (f : Queue → Queue) => exec i s = .next (s.consume d q f)
    let read := fun (a : W64) => s.cpTurn d (x.owner q) a.toNat
    let readDoes := fun (i : Instr) (a : W64) (f : Queue → Queue) => exec i s = .next ((read a).consume d q f)
    s.queueLive d q = true → x.wait = .no → x.skip = none →
    (∀ (m : Byte) (r : W64) (t : Nat) (l : Launch), x.owner q = some t → s.inFlightOf d q < 16 →
      (∀ e ∈ launchDies m d, ∃ n < 16, (s.die e).launch n = none) →
      (s.launchOf d q t m r none = .ok l → exec (.launch m r) s =
        .next (((s.cpTurns d (some t) r.toNat (64 + 192 * l.nodes.length)).startLaunch (launchDies m d)
          { l with packet := x.pos.toNat }).consume d q id))
      ∧ (∀ a, s.inFlightOf d q = 0 → s.launchOf d q t m r (some a) = .ok l → exec (.launchi m r a) s =
        .next (((s.cpTurns d (some t) r.toNat (64 + 192 * l.nodes.length)).startLaunch (launchDies m d)
          { l with packet := x.pos.toNat }).consume d q id)))
    ∧ (x.loops.length < 4 → ∀ (c : W64),
      let goes := fun (u : State) (v : W64) => u.consume d q (fun y =>
        if v.toNat % 2 ^ 32 = 0 then { y with skip := some (true, 0) }
        else { y with loops := ⟨x.subs.length, x.place + 1, v.toNat % 2 ^ 32⟩ :: y.loops })
      exec (.loopPacket 0 c) s = .next (goes s c)
      ∧ ∀ v, s.operandRead d q c 4 = .ok v → exec (.loopPacket 1 c) s = .next (goes (read c) v))
    ∧ (∀ b t, x.loops = b :: t → b.depth = x.subs.length →
      (b.left ≤ 1 → does .endloop (fun y => { y with loops := t }))
      ∧ (1 < b.left → exec .endloop s = .next ((s.updQueue d q (fun y =>
        { (y.goto b.start) with loops := { b with left := b.left - 1 } :: t })).putHead d q)))
    ∧ (∀ b t, x.blocks = b :: t → b.depth = x.subs.length → does .endif (fun y => { y with blocks := t }))
    ∧ (∀ (n : BitVec 32) (a : W64), a.toNat % 32 = 0 → x.subs.length < 4 →
      does (.calls n a) (fun y => { y with subs := ⟨a, n.toNat, 0⟩ :: y.subs }))
    ∧ (∀ b t, x.subs = b :: t → (∀ l ∈ x.loops, l.depth ≠ x.subs.length) → (∀ l ∈ x.blocks, l.depth ≠ x.subs.length) →
      exec .rets s = .next (s.updQueue d q (fun y => { y with subs := t })))
    ∧ (s.inFlightOf d q = 0 →
      (∀ (a v m w : W64), s.operandRead d q a 8 = .ok w → (∀ t, Sparse.get none t (s.die d).replays = none) →
        (x.blocks.length < 8 →
          let opened := fun (holds : Bool) (y : Queue) => if holds then { y with blocks := ⟨x.subs.length, 0, 0⟩ :: y.blocks }
            else { y with skip := some (false, 0) }
          readDoes (.ifeq a v m) a (opened (w &&& m == v)) ∧ readDoes (.ifne a v m) a (opened (w &&& m != v)))
        ∧ ∀ op : BitVec 2, readDoes (.waitmem op a v m) a (fun y =>
          if (op = 0 ∧ w &&& m = v) ∨ (op = 1 ∧ w &&& m ≠ v) ∨ (2 ≤ op.toNat ∧ v.toNat ≤ (w &&& m).toNat) then y
          else { y with wait := .mem op.toNat a v m }))
      ∧ (∀ (z : BitVec 1) (sc : BitVec 2) (a v : W64) (u : State), let n := if z = 1 then 8 else 4
        a.toNat % n = 0 → s.cpStore d (x.owner q) a n (v.toNat % 2 ^ (8 * n)) sc.toNat = .ok u →
        exec (.writemem z sc a v) s = .next (u.consume d q (fun y => { y with wait := .wrote s.nextWid sc.toNat })))
      ∧ (∀ (c : BitVec 16) (a v : W64) (u : State), a.toNat % 8 = 0 → s.cpDrained d (s.queueGen d q) = true →
        s.outbound (s.queueGen d q) = false → s.cpStore d (x.owner q) a 8 v.toNat 3 = .ok u →
        exec (.signal c a v) s = .next (u.consume d q (fun y => { y with wait := .signal s.nextWid c.toNat })))
      ∧ (∀ sc : BitVec 2, does (.fencePacket sc) (fun y => { y with wait := .fence sc.toNat }))
      ∧ (∀ (cpl sig : BitVec 1) (k c h : Byte) (a v : W64), s.handCheck d (x.owner q) (k.toNat % 8) = none →
        let w : HandOver := { core := c.toNat % 64, handle := h.toNat % 64, cpl := decide (cpl = 1), gen := s.queueGen d q
                              ten := x.owner q, queue := some q }
        exec (.handover cpl sig k c h a v) s = .next ((s.updStack (k.toNat % 8) (fun y => { y with hand := some w })).consume
          d q (fun y => { y with wait := .hand (k.toNat % 8) (decide (sig = 1)) a v })))
      ∧ ∀ (close : BitVec 1) (n : BitVec 12) (a : W64), q < 8 → (s.tenancy n.toNat).opened = true → s.recordAddrOk a = true →
        exec (.tenendPacket close n a) s = .next ((s.consume d q (fun y => { y with wait := .tenend n.toNat })).acceptTenend
          n.toNat (decide (close = 1)) a (some (128 * d + q)))))
  ∧ (∀ (s : State) (d q : Nat), let x := s.queue d q
    let read := fun (a : W64) => s.cpTurn d (x.owner q) a.toNat
    (s.queueLive d q = true → x.begun = true → x.quiet = false → (∀ t, Sparse.get none t (s.die d).replays = none) →
      ∀ n, s.operandRead d q x.taila 8 = .ok n → (n - x.head).toNat ≤ 2 ^ x.size →
      exec (.tailRead d q) s = .next ((read x.taila).updQueue d q (fun y => { y with tail := n, quiet := false })))
    ∧ (∀ op a v m w, x.wait = .mem op a v m → s.queueLive d q = true → s.operandRead d q a 8 = .ok w →
      (∀ t, Sparse.get none t (s.die d).replays = none) → waitHolds op w v m = true →
      exec (.waitmemReread d q) s = .next ((read a).updQueue d q (fun y => { y with wait := .no })))
    ∧ (let moved := (s.updQueue d q (fun y => y.goto (y.place + 1))).updQueue d q (fun y => { y with head := x.pos + 1 })
      ∀ g, x.subs = [] → x.loops = [] → x.head ≠ x.pos + 1 → moved.translateCp d (x.owner q) x.heada .write = .ok g →
      moved.wayLost d g = false → moved.homeOpen g = true → moved.wayOpen d g = true →
      s.isCurrent (homeDie g.dla) g.gen = true →
      (s.cpDrained d (s.queueGen d q) = true → s.consume d q id = moved.write g.gen g.dla 8 (x.pos + 1).toNat)
      ∧ (s.cpDrained d (s.queueGen d q) = false →
        s.consume d q id = s.updQueue d q (fun y => y.goto (y.place + 1))))
    ∧ ∀ (t : Option Nat) (a : W64) (n v sc : Nat) (g : Target), s.translateCp d t a .write = .ok g →
      ∃ u, s.cpStore d t a n v sc = .ok u ∧ u.mem = s.mem ∧ u.cores = s.cores ∧ (u.die d).op = (s.die d).op ++
        [{ wid := s.nextWid, core := 512 + d, gen := (match t with | none => platformGen | some t => s.genOn d t), tgt := g
           size := n, data := BitVec.ofNat 1024 v, scope := sc }])

/-! ### Tasks and launches (spec 16) -/

/-- R374, R381, R382, R378, R383, R386: an idle core enters its fixed next task, fresh at its image's entry or resumed
from its brick; a brick is ready once its wait word differs from its comparand; a task that has ended and drained leaves
its core idle and its indices done, one that has suspended leaves a brick under its tenancy's current incarnation, and one
that a fence abandoned leaves nothing; a follower claims a chunk of its master
and joins a launch. -/
def Obligations.TasksStartAndComplete : Prop :=
  ∀ (s : State) (c : Nat), let k := s.core c
    let d := dieOf c
    (∀ t l n, s.coreIdle c = true → s.launchAt d t.slot t.lid = some l → l.nodes[t.node]? = some n →
      (∀ x, Sparse.get none x (s.die d).replays = none) →
      let g := s.genOn d l.ten
      let enters := fun (i : Instr) => ∃ u, exec i s = .next u ∧ (u.core c).phase = 1 ∧ (u.core c).lvl = false
        ∧ (u.core c).ctxGen = g ∧ (u.core c).preds = [] ∧ (u.core c).lq = [] ∧ (u.core c).pend = []
        ∧ (u.core c).csr.vcyc = 0 ∧ (u.core c).csr.rndseed = BitVec.ofNat 64 t.index
        ∧ (u.core c).task = some { t with ending := .no, brick := none }
        ∧ (u.core c).sregs = entryRegs g t n ∧ Sparse.get {} 62 (entryRegs g t n) = ⟨n.privb + BitVec.ofNat 64 (t.index * n.privs), g⟩
        ∧ (match t.brick with
          | none => (u.core c).csr.stat = 0
            ∧ (u.core c).pc = BitVec.ofNat 48 (n.image.toNat + n.img.texto + n.img.entry)
            ∧ ∀ (p r : Nat) (y : Bool) (v : W64), n.img.params[p]? = some (r, y, v) → allDistinct (n.img.params.map (·.1)) = true →
              r ≠ 62 → Sparse.get {} r (u.core c).sregs = ⟨if p < n.narg then n.args.getD p 0 else v, g⟩
          | some b => (u.core c).csr.stat = b.2 &&& 3 ∧ (u.core c).pc = b.2.setWidth 48 &&& ~~~15
            ∧ ∀ i < 6, Sparse.get {} (i + 1) (u.core c).sregs = ⟨b.1.getD i 0, g⟩)
      (k.own = none → k.nextTask = some t → t.brick = none → (∀ r ∈ k.staging, r.op ≠ none) →
        ∀ v, s.imageRun d l.ten (n.img.spdn / 64 + 2) (n.image.toNat + n.img.spdo) n.img.spdn = .ok v → enters (.taskStart c))
      ∧ (k.own = some t ∨ k.own = none ∧ k.nextTask = some t → t.brick ≠ none → enters (.brickResume c)))
    ∧ (∀ (e i : Nat) (b : Brick) (v : Nat), (s.die e).bricks[i]? = some b → b.ready = false → s.tenReady b.ten = true →
      s.cpRead e (some b.ten) b.wait.toNat 8 = .ok v → BitVec.ofNat 64 v ≠ b.cmp → exec (.brickReady e i) s =
        .next ((s.cpTurn e (some b.ten) b.wait.toNat).updDie e (fun x => { x with bricks := x.bricks.set i { b with ready := true } })))
    ∧ (∀ t, k.task = some t → s.taskDrained c = true → k.phase ≠ 2 →
      (t.ending = .ended → exec (.taskComplete c) s = .next ((s.taskDone d t).updCore c Core.rest))
      ∧ (t.ending = .abandoned → exec (.taskComplete c) s = .next (s.updCore c Core.rest))
      ∧ ∀ a b n, t.ending = .suspended a b → k.ten = some n → (s.die d).bricks.length < 4096 → s.launchStands d t = true →
        ((s.die d).bricks.filter (fun y => y.ten == n)).length < Sparse.get 4096 n (s.die d).quota →
        let g := s.genOn d n
        exec (.taskComplete c) s = .next ((s.updCore c Core.rest).updDie d (fun x => { x with bricks := x.bricks ++
          [⟨n, g, s.serialOf n g, { t with brick := some (s.brickOf c), ending := .no }, a, b, a == 0⟩] })))
    ∧ (∀ t slot j n l, k.ten = some t → s.pick c = some (.chunk slot j n) → (s.die d).launch slot = some l → l.home ≠ d →
      s.chunkHeld l j n = false → s.reaches d l.home = true → (∀ x, Sparse.get none x (s.die d).replays = none) → exec (.chunkClaim c) s =
        .next ((s.openChunk d slot l j n).updCore c (fun x => { x with chunks := ⟨slot, l.id, j, n, l.indices j n⟩ :: x.chunks })))
    ∧ ∀ e slot l v, (s.die e).launch slot = some l → l.joined = false →
      s.cpWords e (some l.ten) l.lrec.toNat (8 + 24 * l.nodes.length) = .ok v →
      exec (.followerLaunch e slot) s = .next ((s.cpTurns e (some l.ten) l.lrec.toNat (64 + 192 * l.nodes.length)).updLaunch e slot
          (fun x => { x with joined := true }))

/-- R387, R370, R372, R389, R390, R391: a finished chunk is marked by an OR of its bit and DONEC; the master ends a launch
that is complete with DONE, then DONEV, or that has failed with FAILED, and its slots are freed; where the write of STATE or of
DONEV faults, that is reported and the launch has failed, STATE being written as it was before DONEV; after a split each group
decides by the quorum rule, on the membership as it stood when the loss occurred, and the group that goes on reissues what was
lost and has STATE say so. The model's choices: the words of a record are written at their home in the step that writes them
(log 19), all copies of a launch change together (log 56), a die that a fence took out is in no group that goes on (log 117),
and DONEV waits for the outbound queue (log 116). -/
def Obligations.LaunchesEndAndSplit : Prop :=
  ∀ (s : State) (d n : Nat) (l : Launch),
    -- die e can write at address a, at the target g; or the write faults with code f
    let lands := fun (u : State) (e a : Nat) (g : Target) => u.translateCp e (some l.ten) (BitVec.ofNat 64 a) .write = .ok g
      ∧ u.wayLost e g = false ∧ u.homeOpen g = true ∧ u.wayOpen e g = true ∧ u.isCurrent (homeDie g.dla) g.gen = true
    let faults := fun (u : State) (e a f : Nat) => f ≠ 0 ∧ (u.translateCp e (some l.ten) (BitVec.ofNat 64 a) .write = .error f
      ∨ f = 8 ∧ ∃ g, u.translateCp e (some l.ten) (BitVec.ofNat 64 a) .write = .ok g ∧ u.wayLost e g = true)
    let state := l.lrec.toNat + 32
    ((s.die d).launch n = some l → l.fenced = false → ∀ j k rest, l.finished = (j, k) :: rest →
      let bit := ((l.nodes[j]?).map Node.mapoff).getD 0 + k
      let a := l.mapa.toNat + 8 * (bit / 64)
      let gone := s.updLaunch d n (fun x => { x with finished := rest })
      ∀ g h, s.translateCp d (some l.ten) (BitVec.ofNat 64 a) .both = .ok g → s.badAt g.dla = false → s.wayLost d g = false →
      s.homeOpen g = true → s.wayOpen d g = true → (s.die d).opSource g 8 = .none → s.isCurrent (homeDie g.dla) g.gen = true →
      let marked := (gone.write g.gen g.dla 8 (Nat.lor (s.read g.gen g.dla 8) (2 ^ (bit % 64)))).updCopies l.id (fun x =>
        { x with marked := if x.marked.contains (j, k) then x.marked else x.marked ++ [(j, k)] })
      lands marked d (l.lrec.toNat + 64 + 192 * j + 44) h → exec (.chunkMark d n) s =
        .next (marked.write h.gen h.dla 4 ((l.marked.filter (fun x => x.1 == j && x.2 != k)).length + 1)))
    ∧ ((s.die d).launch n = some l → l.home = d →
      let word := fun (x : Nat) => l.reiss % 2 ^ 32 * 2 ^ 32 + l.live.toNat * 2 ^ 24 + l.home * 2 ^ 16 + (if l.split then 4 else 0) + x
      let failed := fun (u : State) (f a : Nat) => (u.report d (u.recordFault d n l f a)).failLaunch l.id
      (l.failed = false → (∀ i < l.nodes.length, l.nodeDone i = true) →
        (∀ g, lands s d state g →
          let s1 := s.write g.gen g.dla 8 (word 1)
          (l.donea = 0 → exec (.launchComplete d n) s = .next (s1.freeLaunch l.id))
          ∧ (l.donea ≠ 0 → s.outbound l.gen = false →
            (∀ h, lands s1 d l.donea.toNat h → exec (.launchComplete d n) s =
              .next ((s1.write h.gen h.dla 8 l.donev.toNat).freeLaunch l.id))
            ∧ ∀ f, faults s1 d l.donea.toNat f → exec (.launchComplete d n) s = .next (failed s1 f l.donea.toNat)))
        ∧ ∀ f, faults s d state f → exec (.launchComplete d n) s = .next (failed s f state))
      ∧ (l.failed = true →
        (∀ g, lands s d state g → exec (.launchComplete d n) s = .next ((s.write g.gen g.dla 8 (word 2)).freeLaunch l.id))
        ∧ ∀ f, faults s d state f → exec (.launchComplete d n) s = .next ((failed s f state).freeLaunch l.id)))
    ∧ ((∀ e m, ((s.freeLaunch l.id).die e).launch m = match (s.die e).launch m with
        | some x => if x.id = l.id then none else some x
        | none => none)
      ∧ let of := fun (u : State) (P : Launch → Prop) => ∀ e m x, (u.die e).launch m = some x → x.id = l.id → P x
        (s.dies.flatMap (fun x => x.2.launches.filterMap (fun y => y.2))).find? (fun x => x.id == l.id) = some l →
        (let was := l.lost.getD l.live
         let ms := membersOf was
         l.failed = false → (∃ e ∈ ms, s.groupOf was e ≠ ms) →
          (s.survivors l was = none → ∃ u, exec (.quorumDecision l.id) s = .next u ∧ of u (fun x => x.failed = true))
          ∧ ∀ g, s.survivors l was = some g → (ms.length < 2 * g.length ∨ 2 * g.length = ms.length ∧ l.home ∈ g)
            ∧ ∃ (u : State) (m : BitVec 8), exec (.quorumDecision l.id) s = .next u
              ∧ of u (fun x => x.lost = none ∧ (m ≠ l.live → x.deciding = some m))
              ∧ ∀ e < 8, m.getLsbD e = true ↔ e ∈ g ∧ s.fencedOut l e = false)
        ∧ ∀ (m : BitVec 8) (g : Target), l.deciding = some m →
          let home := if l.home ∈ membersOf m then l.home else (membersOf m).headD 0
          let rs := s.toReissue l (membersOf m)
          lands s home state g → (∀ x, Sparse.get none x (s.die home).replays = none) →
          ∃ u, exec (.reconfiguration l.id) s = .next u
            ∧ u.mem = (s.write g.gen g.dla 8 ((l.reiss + rs.length) % 2 ^ 32 * 2 ^ 32 + m.toNat * 2 ^ 24 + home * 2 ^ 16 + 4)).mem
            ∧ of u (fun x => x.live = m ∧ x.home = home ∧ x.split = true ∧ x.deciding = none ∧ ∀ r ∈ rs, r ∈ x.reissue))

/-! ### Stacks, tenancies and generations (spec 14, 15) -/

/-- R320, R328, R331, R332: a hand-over whose stack has drained switches: the other die of the stack owns it, under the next
epoch, no cached translation of the giving die (in a core TLB, its engine TLB or its stage-2 cache) is under it any more, no
line of the stack is in an L0 of either die, and the receiving core's handle counts one; the mirrors of owner registers follow
them. The forward queue's requests may take more with them when it empties, and so may fault records that waited (log 19, the
model's choice): where there are none, memory, registers and handles stand. -/
def Obligations.StacksChangeHands : Prop :=
  ∀ (s : State) (k : Nat) (h : HandOver), k < 8 → (s.stack k).hand = some h → s.drainedOf k = true →
    let g := s.owner k
    let r := if g = lowerDie k then upperDie k else lowerDie k
    let c := 64 * r + h.core
    let nothingHeld := (∀ m, (∀ a ∈ (s.core m).accs, a.tgt.heldFor k = false)
        ∧ (∀ x ∈ (s.core m).copies, ∀ q ∈ x.held, q.2.2.2.heldFor k = false)
        ∧ ∀ r x, (s.core m).ringRead = some r → r.held = some x → x.heldFor k = false)
      ∧ ∀ d, (∀ e ∈ (s.die d).op, e.tgt.heldFor k = false) ∧ (∀ q ∈ (s.die d).cpHeld, q.tgt.heldFor k = false)
        ∧ (s.die d).frWait = []
    let away := fun (a : Nat) => dlaCxl a = true ∨ dlaStack a ≠ k
    ∃ t, exec (.handoverSwitch k) s = .next t ∧ t.owner k = r ∧ (t.stack k).epoch = (s.stack k).epoch + 1
      ∧ (t.stack k).hand = none ∧ (t.stack k).rv = (s.stack k).rv ∧ (t.stack k).rten = (s.stack k).rten
      ∧ (∀ j, j ≠ k → t.stack j = s.stack j)
      ∧ (∀ m, dieOf m = g ∨ dieOf m = r → ∀ n, dlaCxl (128 * n) = false → dlaStack (128 * n) = k →
        Sparse.get {} n (t.core m).l0 = {})
      ∧ (∀ m, dieOf m = g → ∀ x ∈ (t.core m).tlb, ∀ a, x.dla = some a → away a)
      ∧ (∀ x ∈ (t.die g).etlb, ∀ a, x.dla = some a → away a) ∧ (∀ x ∈ (t.die g).s2c, away x.dla)
      ∧ (nothingHeld → h.cpl = false → t.mem = s.mem ∧ ∀ m, (t.core m).sregs = (s.core m).sregs ∧ (t.core m).handles = (s.core m).handles)
      ∧ (∀ n, nothingHeld → h.cpl = true → h.ten = some n → s.isCurrent r h.gen = true → (s.core c).ten = some n →
        (s.core c).task ≠ none → (s.core c).phase = 1 ∨ (s.core c).phase = 2 →
        let x := (s.core c).handle h.gen h.handle
        let y := (t.core c).handle h.gen h.handle
        (x.st = .filling → x.cnt + 1 < x.exp → y = { x with cnt := x.cnt + 1, hm := h.gen })
        ∧ (x.st = .filling → x.cnt + 1 = x.exp → y = { x with cnt := x.exp, st := .full, hm := h.gen })
        ∧ (x.st = .free → y.st = .error ∧ y.fcode = 2))
      ∧ ∀ d, ∃ t, exec (.ownerMirrorUpdate d k) s = .next t ∧ t.mem = s.mem ∧ t.cores = s.cores
        ∧ t.ownerMirror d k = s.ownerReg k ∧ ∀ e j, (e ≠ d ∨ j ≠ k) → t.ownerMirror e j = s.ownerMirror e j

/-- R341, R345, R346, R354, R355, R357: the platform opens a tenancy with the allocator's next number, current on every die
from then on; a TENEND makes each die in turn hold nothing of the old generation and the new one current, the cores that run
on stop, and once all have switched and stopped and its writes are drained, its end record is written and the old number is QUARANTINED; a tenancy that
waits for a number gets the next FREE one. The model's choices: the cores stop in a second event of the switch (logs 61,
114), the number is out of use for three passes of the assay (log 64), a grant reaches all dies at once (log 62) and a record
is applied at its home in the step that writes it (log 19). -/
def Obligations.GenerationsComeAndGo : Prop :=
  ∀ (s : State) (t : Nat),
    (t < 4096 → s.io.released = true → (s.tenancy t).opened = false → (s.tenancy t).ending = none →
      (s.tenancy t).queued = [] → t ∉ s.deferred →
      -- the deferred tenancies take their numbers first
      let s0 := s.grantAll
      (s.deferred = [] → s0 = s)
      ∧ ∀ n, s0.deferred = [] → s0.nextFree = some n → ∃ u, exec (.tenancyOpen t) s = .next u ∧ u.mem = s0.mem ∧ u.cores = s.cores
        ∧ (u.tenancy t).opened = true ∧ (u.tenancy t).gen = some (BitVec.ofNat 16 n) ∧ (u.tenancy t).serial = s0.lastSerial + 1
        ∧ u.lastSerial = s0.lastSerial + 1 ∧ Sparse.get GenState.free n u.genStates = .live
        ∧ (∃ key, Sparse.get none n u.trust.keys = some ⟨s0.lastSerial + 1, key⟩)
        ∧ (∀ d < 17, u.genOn d t = BitVec.ofNat 16 n) ∧ ∀ x, x ≠ t → u.tenancy x = s0.tenancy x)
    ∧ (∀ e, (s.tenancy t).ending = some e →
      (∀ d < 17, d ∉ e.switched → ∃ u, exec (.tenendSwitch t d) s = .next u ∧ u.mem = s.mem
        ∧ u.genOn d t = e.newGen.getD 0
        ∧ (∀ x, x ≠ d → u.genOn x t = s.genOn x t)
        ∧ (∃ e', (u.tenancy t).ending = some e' ∧ e'.switched = d :: e.switched ∧ e'.oldGen = e.oldGen ∧ e'.erec = e.erec)
        ∧ (d < 8 → (∀ b ∈ (u.die d).bricks, b.ten ≠ t) ∧ (∀ y ∈ (u.die d).op, y.gen = e.oldGen → y.sent = true)
          ∧ (∀ n l, (u.die d).launch n = some l → l.ten ≠ t)
          ∧ ∀ c, dieOf c = d → (s.core c).ten = some t → (∀ y ∈ (u.core c).copies, y.gen ≠ e.oldGen)
            ∧ (∀ y ∈ (u.core c).calls, y.gen ≠ e.oldGen) ∧ (∀ y ∈ (u.core c).accs, y.gen ≠ e.oldGen)
            ∧ ((u.core c).task = none ∨ (u.core c).stopping = some (s.die d).lcyc.toNat))
        ∧ (d = 16 → ∀ f, (Sparse.get {} f s.io.flows).ten = t → (Sparse.get {} f u.io.flows).valid = false)
        ∧ (∀ c, dieOf c ≠ d ∨ (s.core c).ten ≠ some t → u.core c = s.core c))
      ∧ (∀ d < 17, d ∈ e.switched → ∃ u, exec (.tenendSwitch t d) s = .next u ∧ u.mem = s.mem ∧ u.gens = s.gens
        ∧ ∀ c, if dieOf c = d ∧ (s.core c).ten = some t ∧ (s.core c).stopping ≠ none then
            (u.core c).task = none ∧ (u.core c).stopping = none ∧ (u.core c).accs = [] ∧ (u.core c).copies = []
          else u.core c = s.core c)
      ∧ (e.switched.length = 17 → s.drainedGen e.oldGen = true → s.allStopped t = true → e.queue = none → (s.tenancy t).queued = [] →
        let w := s.gate 8 e.erec.toNat
        ∀ g, s.translateDla w e.erec.toNat = .ok g → s.wayLost w g = false → s.homeOpen g = true → s.wayOpen w g = true → ∃ u,
        exec (.tenendRecord t) s = .next u ∧ (u.tenancy t).ending = none ∧ u.genState e.oldGen = .quarantined 3
        ∧ (s.deferred = [] → u.mem = (s.write platformGen e.erec.toNat 64
            (e.record t (Sparse.get 0 e.oldGen.toNat s.discards + s.strandedOn e.oldGen))).mem)
        ∧ (∀ c, u.core c = { s.core c with tlb := (u.core c).tlb } ∧ ∀ y ∈ (u.core c).tlb, y.gen ≠ e.oldGen)
        ∧ ∀ d, (∀ y ∈ (u.die d).etlb, y.gen ≠ e.oldGen) ∧ ∀ y ∈ (u.die d).s2c, y.gen ≠ e.oldGen))
    ∧ ∀ rest n, s.deferred = t :: rest → (s.tenancy t).ending = none → (s.tenancy t).queued = [] → s.recordHeld t = false →
      s.nextFree = some n → ∃ u, exec .generationGrant s = .next u ∧ u.deferred = rest ∧ (u.tenancy t).gen = some (BitVec.ofNat 16 n)
        ∧ (u.tenancy t).serial = s.lastSerial + 1 ∧ u.cores = s.cores ∧ ∀ d < 17, u.genOn d t = BitVec.ofNat 16 n

/-- R358, R359, R360, R182: the assay writes the null hallmark over stale ones and leaves data as it is, one element at a
visit, or all of them and the stale imports in a pass, which brings every QUARANTINED number nearer to FREE (that a pass ends
with all of them treated, and counts the numbers down by one, is the model's reading: log 64); no element of a LIVE
generation, of the platform's or of none is changed. -/
def Obligations.AssayRetiresHallmarks : Prop :=
  ∀ (s : State),
    let after := fun (g : Hm) => if g ≠ 0 ∧ g ≠ platformGen ∧ s.genState g ≠ .live then (0 : Hm) else g
    (∀ a n i, ∃ t, exec (.assayRewrite 0 a n i) s = .next t ∧ t.mem = s.mem ∧ t.cores = s.cores
      ∧ ∀ j, Sparse.get nullGen j t.hallmarks =
          if j = i then after (Sparse.get nullGen j s.hallmarks) else Sparse.get nullGen j s.hallmarks)
    ∧ (∀ c n i, ∃ t, exec (.assayRewrite 3 c n i) s = .next t ∧ t.mem = s.mem ∧ t.hallmarks = s.hallmarks
      ∧ (t.core c).preds = (s.core c).preds ∧ ∀ j, Sparse.get {} j (t.core c).sregs =
        if j = i then { Sparse.get {} j (s.core c).sregs with hm := after (Sparse.get {} j (s.core c).sregs).hm }
        else Sparse.get {} j (s.core c).sregs)
    ∧ ∃ t, exec .assayPassComplete s = .next t
      ∧ (∀ j, Sparse.get nullGen j t.hallmarks = after (Sparse.get nullGen j s.hallmarks)
        ∨ Sparse.get nullGen j t.hallmarks = platformGen)
      ∧ (∀ c j, Sparse.get {} j (t.core c).sregs = { Sparse.get {} j (s.core c).sregs with
          hm := after (Sparse.get {} j (s.core c).sregs).hm })
      ∧ (∀ c g h, g ≠ 0 → s.genState g = .live → (t.core c).handle g h = (s.core c).handle g h)
      ∧ ∀ n, Sparse.get GenState.free n t.genStates = match Sparse.get GenState.free n s.genStates with
        | .quarantined 1 => .free
        | .quarantined 0 => .free
        | .quarantined (m + 2) => .quarantined (m + 1)
        | x => x

/-! ### Pre-emption, reset and throttling (spec 17) -/

/-- R392, R393, R394, R395, R397: the first request of a context starts both timers and a soft one leaves the task running
in PHASE 2; a hard request, or an expired grace timer, halts a task that still runs in PHASE 3; a kill request, or an
expired kill timer, kills the context: no task, its launch failed, and a function-level reset begins at once, PHASE 7, where
R397 has PHASE become 6 before it (the model's reading: log 119); on a core that a double trap has stopped none of them has an
effect. A request of the platform reaches a die that has left reset (R6). -/
def Obligations.PreemptionRequests : Prop :=
  ∀ (s : State) (c : Nat), let k := s.core c
    let now := (s.die (dieOf c)).lcyc.toNat
    let kills := fun (i : Instr) => ∃ t, exec i s = .next t ∧ (t.core c).phase = 7 ∧ (t.core c).flr = some now
      ∧ (t.core c).task = none ∧ (t.core c).trapping = none ∧ (t.core c).kill = none ∧ (t.core c).chunks = [] ∧ (∀ j, j ≠ c → t.core j = s.core j)
      ∧ ∀ x l, k.task = some x → (s.die (dieOf c)).launch x.slot = some l → l.id = x.lid →
        ∀ d n y, (t.die d).launch n = some y → y.id = l.id → y.failed = true
    let halts := fun (i : Instr) (r : Nat) => ∃ t, exec i s = .next t ∧ t.mem = s.mem ∧ (t.core c).phase = 3
      ∧ (t.core c).req = r ∧ (t.core c).task = k.task ∧ (t.core c).sregs = k.sregs ∧ (t.core c).lq = k.lq
    let out := s.reachesDie (dieOf c) = true
    (k.phase = 1 → k.req = 0 → k.flr = none → k.stopped = false → out → exec (.softRequest c) s = .next (s.updCore c (fun k => { k with
      grace := some (now + k.csr.gracet.toNat), kill := some (now + k.csr.killt.toNat), req := 1, phase := 2 })))
    ∧ (k.stopped = true → ∀ i ∈ [Instr.softRequest c, .hardRequest c, .killRequest c, .graceExpiry c, .killExpiry c],
      exec i s = .next s)
    ∧ (k.flr = none → k.stopped = false → ∀ x, k.task = some x → x.ending = .no →
      (k.phase = 1 ∨ k.phase = 2 →
        (k.req < 2 → out → halts (.hardRequest c) 2)
        ∧ ∀ n, k.grace = some n → n ≤ now → halts (.graceExpiry c) k.req)
      ∧ (1 ≤ k.phase → k.phase ≤ 4 → (k.req < 3 → out → kills (.killRequest c)) ∧ ∀ n, k.kill = some n → n ≤ now → kills (.killExpiry c)))

/-- R395, R396, R398, R399, R400, R402, R403: a halted core that has drained saves its whole area and is in PHASE 5, its
task held by the saved context; a save that cannot be made kills the context, and one whose area is not open yet waits; a
restore that names it goes on at the saved pc in PHASE 1 with nothing in flight; a
function-level reset leaves every hallmark null and the control registers at their reset values but for four, in
PHASE 0; frozen masters are released, a command processor going on at its queues' heads, and the throttle level is set. The
model's readings: a kill and a reset begin PHASE 7 at once (log 119), a write that its area's stack or links hold up waits (log
19), a restore hands back what was fixed for the core and waits for its preloads (log 123), and the pc takes the 48 bits of RPC
with the low four zero (log 124). -/
def Obligations.ContextsAreSavedAndReset : Prop :=
  ∀ (s : State) (c : Nat), let k := s.core c
    let d := dieOf c
    let out := s.reachesDie d = true
    (k.phase = 3 → s.halted c = true → exec (.contextSave c) s = .next (s.updCore c (fun k => { k with phase := 4 })))
    ∧ (k.phase = 4 →
      (s.saveFails c = true → ∃ t, exec (.contextSave c) s = .next t ∧ (t.core c).phase = 7 ∧ (t.core c).task = none)
      ∧ (s.saveFails c = false → s.areaWaits c = true → exec (.contextSave c) s = .next s)
      ∧ ∀ n x, s.saveFails c = false → s.areaWaits c = false → k.ten = some n → k.task = some x → ∃ t, exec (.contextSave c) s = .next t
        ∧ (t.core c).phase = 5 ∧ (t.core c).task = none ∧ (t.core c).lvl = false ∧ (t.core c).lq = []
        ∧ (t.die d).saved = (s.die d).saved ++ [⟨n, x.slot, x⟩] ∧ t.mem = (s.writeSave c).mem
        ∧ t.hallmarks = (s.writeSave c).hallmarks)
    ∧ (out → k.phase = 0 → k.flr = none → k.task = none → k.stopped = false → k.preloads = [] →
      s.areaWaits c = false → ∀ n x, k.ten = some n → s.areaOk c = true → s.badRun k.csr.ctxptr.toNat 0x118000 = false → s.tenReady n = true →
      let g := s.genOn d n
      let v := s.read platformGen k.csr.ctxptr.toNat 0x118000
      g ≠ 0 → field v 0x20 8 = s.incarnation n g → areaClean v = true → field v 0x30 8 = 4 →
      s.savedTask d n (field v 0x38 8) = some x →
      ∃ t, exec (.contextRestore c) s = .next t ∧ t.mem = s.mem ∧ (t.core c).phase = 1 ∧ (t.core c).lvl = false
        ∧ (t.core c).ui = false ∧ (t.core c).ctxGen = g ∧ (t.core c).pc = BitVec.ofNat 48 (field v 0x28 8) &&& ~~~15
        ∧ (t.core c).task = some { x.task with ending := .no } ∧ (t.core c).accs = [] ∧ (t.core c).copies = []
        ∧ (t.core c).calls = [] ∧ (t.core c).l0 = [] ∧ (t.core c).pend = [] ∧ (t.die d).saved = (s.die d).saved.erase x)
    ∧ (out → k.phase = 0 → k.flr = none → k.task = none → k.stopped = false → k.preloads = [] →
      s.areaWaits c = false → ∀ n, k.ten = some n → field (s.read platformGen k.csr.ctxptr.toNat 0x118000) 0x20 8 ≠ s.incarnation n (s.genOn d n) →
      ∃ t, exec (.contextRestore c) s = .next t ∧ (t.core c).task = none ∧ (t.core c).phase = 0 ∧ (t.core c).nextTask = none
        ∧ (t.core c).sregs = k.sregs ∧ (t.core c).csr = k.csr ∧ (t.core c).pc = k.pc ∧ ∀ j, j ≠ c → t.core j = s.core j)
    ∧ (out → k.phase = 0 → k.flr = none → k.task = none → k.stopped = false → s.areaWaits c = true ∨ k.preloads ≠ [] →
      ∃ t, exec (.contextRestore c) s = .next t ∧ (t.core c).rstDue = true ∧ (t.core c).task = none ∧ t.mem = s.mem)
    ∧ (out → k.flr = none → k.phase = 0 ∨ k.phase = 5 ∨ k.phase = 6 ∨ k.frozen = true ∨ k.stopped = true →
      exec (.functionLevelReset c) s =
        .next (s.updCore c (fun k => { k with
          phase := 7, flr := some (s.die d).lcyc.toNat, stopping := none, trapping := none, late := none, lateHeld := none
          grace := none, kill := none })))
    ∧ (∀ n, k.flr = some n → s.flrDrained c = true ∨ n + 2000000 ≤ (s.die d).lcyc.toNat →
      ∃ t, exec (.flrDrainEnd c) s = .next t ∧ (t.core c).phase = 0 ∧ (t.core c).flr = none ∧ (t.core c).sregs = []
        ∧ (t.core c).preds = [] ∧ (t.core c).handles = [] ∧ (t.core c).mparams = [] ∧ (t.core c).rings = []
        ∧ (∀ r, (Sparse.get {} r (t.core c).rows).hm = 0 ∧ (Sparse.get {} r (t.core c).spm).hm = 0)
        ∧ (t.core c).lq = [] ∧ (t.core c).pend = [] ∧ (t.core c).accs = [] ∧ (t.core c).frozen = false
        ∧ (t.core c).csr = { ptvec := k.csr.ptvec, ctxptr := k.csr.ctxptr, gracet := k.csr.gracet, killt := k.csr.killt }
        ∧ (t.core c).ismap = Sparse.get 0x1FFF c s.trust.ismap ∧ (∀ e ∈ (t.die d).op, e.core = c → e.sent = true))
    ∧ (∀ e, (s.die e).cpFrozen = true → s.reachesDie e = true → ∃ t, exec (.cpReset e) s = .next t ∧ (t.die e).cpFrozen = false
      ∧ t.cores = s.cores ∧ (t.die e).cpHeld = []
      ∧ ∀ q, t.queue e q = { s.queue e q with
        wait := .no, pos := (s.queue e q).headNow, subs := [], loops := [], blocks := [], skip := none })
    ∧ (∀ f, s.reachesDie (f / 4) = true → ∃ t, exec (.ioFunctionRelease f) s = .next t ∧ t.mem = s.mem ∧ t.cores = s.cores
      ∧ ∀ j, Sparse.get false j t.io.frozen = if j = f then false else Sparse.get false j s.io.frozen)
    ∧ ∀ e q n, 1 ≤ n → n ≤ 8 → q < 4 → exec (.throttleLevelChange e q n) s =
      .next (s.updDie e (fun x => { x with throttle := Sparse.put 8 q n x.throttle }))

/-! ### Links (spec 18) -/

/-- R411, R413, R414, R415, R416, R417, R419: a flit is sent with the acknowledgement of the flits received, kept until it
is acknowledged and taken only intact and in its order, at most 32 of them without an acknowledgement; a NAK makes the
unacknowledged ones go again as they were kept, before any new one, and the eighth in a row for one flit a retrain; a retrain loses what is on the wires and
nothing accepted, and each end then says by a control flit what it has accepted; a link that goes down sends its waiting
writes the other way, in their order, once no older one is still on its way (R292). -/
def Obligations.LinksCarryFlits : Prop :=
  ∀ (s : State) (n : Nat) (up : Bool), let x := s.link n
    let out := x.dir up
    let inn := x.dir (!up)
    (x.st = 0 →
      (∀ (vc : BitVec 2) (len rq rs : Byte) (bad : Bool), out.sent = out.buf.length → out.buf.length < 4095 → len.toNat ≤ 240 →
        vc.toNat < 2 → 0 < (if vc = 0 then out.credQ else out.credS) → out.resync = false → out.nakIn = false →
        ∃ t f, exec (.flitTransmit n up 1 vc len rq rs bad) s = .next t ∧ f.seq = out.next ∧ f.ack = inn.expect - 1
          ∧ f.nak = inn.nakDue ∧ f.vc = vc ∧ f.plen = len ∧ f.crq = rq ∧ f.crs = rs ∧ f.intact = !bad
          ∧ ((t.link n).dir up).next = out.next + 1 ∧ ((t.link n).dir up).buf = out.buf ++ [(vc, len, f.pay)]
          ∧ (if vc = 0 then ((t.link n).dir up).credQ + 1 = out.credQ else ((t.link n).dir up).credS + 1 = out.credS)
          ∧ ((t.link n).dir (!up)).nakDue = false ∧ ((t.link n).dir (!up)).unacked = 0 ∧ (∀ m, m ≠ n → t.link m = s.link m)
          ∧ (if inn.nakDue = true ∧ 8 ≤ inn.nakRun then (t.link n).st = 1 ∧ ((t.link n).dir up).wire = []
            else (t.link n).st = 0 ∧ ((t.link n).dir up).wire = out.wire ++ [f]))
      ∧ (out.resync = true ∨ out.nakIn = true → ∀ vc len rq rs bad, exec (.flitTransmit n up 1 vc len rq rs bad) s = .next s)
      -- a flit that is sent again is the flit that was kept
      ∧ (∀ k vc len rq rs bad, out.buf[out.sent]? = some k → out.resync = false → out.nakIn = false → inn.nakDue = false →
        ∃ t f, exec (.flitTransmit n up 1 vc len rq rs bad) s = .next t ∧ ((t.link n).dir up).wire = out.wire ++ [f]
          ∧ f.seq = out.first + BitVec.ofNat 12 out.sent ∧ (f.vc, f.plen, f.pay) = k ∧ ((t.link n).dir up).buf = out.buf
          ∧ ((t.link n).dir up).sent = out.sent + 1)
      ∧ (out.nakIn = true → ∃ t, exec (.nakReplay n up) s = .next t ∧ ((t.link n).dir up).sent = 0
        ∧ ((t.link n).dir up).buf = out.buf ∧ ((t.link n).dir up).nakIn = false ∧ (t.link n).dir (!up) = inn)
      ∧ let stops := fun (d : FlitDir) => { d with
          wire := [], nakIn := false, naking := false, nakRun := 0, nakDue := false, resync := true }
        ∃ t, exec (.retrain n) s = .next t ∧ (t.link n).st = 1 ∧ (t.link n).dir0 = stops x.dir0
          ∧ (t.link n).dir1 = stops x.dir1)
    ∧ (∀ f rest, out.wire = f :: rest →
      let taken := f.intact = true ∧ f.cls = 1 ∧ f.vc.toNat < 2 ∧ f.seq = out.expect
      (taken → 32 ≤ out.unacked → exec (.flitReceive n up) s = .next s)
      ∧ ((taken → out.unacked < 32) → ∃ t, exec (.flitReceive n up) s = .next t ∧ ((t.link n).dir up).wire = rest
        ∧ (taken → ((t.link n).dir up).expect = out.expect + 1 ∧ ((t.link n).dir up).accepted = out.accepted + 1
          ∧ ((t.link n).dir up).naking = false ∧ ((t.link n).dir up).unacked = out.unacked + 1
          ∧ ((t.link n).dir up).got = (if f.vc = 0 then out.got + f.plen.toNat else out.got))
        ∧ (¬taken → ((t.link n).dir up).expect = out.expect ∧ ((t.link n).dir up).accepted = out.accepted
          ∧ ((t.link n).dir up).got = out.got)
        ∧ (f.intact = false → out.naking = false → ((t.link n).dir up).nakDue = true ∧ (t.link n).dir (!up) = inn)
        ∧ (f.intact = true → f.cls = 2 → inn.resync = true →
          ((t.link n).dir (!up)).resync = false ∧ ((t.link n).dir (!up)).sent = 0)
        ∧ (f.intact = true → f.cls ≠ 3 → ∀ k, f.av = true → k = (f.ack - inn.first).toNat + 1 → k ≤ inn.buf.length →
          ((t.link n).dir (!up)).buf = inn.buf.drop k)))
    ∧ (x.st = 1 →
      (∀ w, 1 ≤ w → w ≤ 3 → ∃ t, exec (.retrainComplete n w) s = .next t ∧ (t.link n).st = 0 ∧ (t.link n).width = w
        ∧ (t.link n).retr = x.retr + 1 ∧ ((t.link n).dir up).expect = out.expect ∧ ((t.link n).dir up).unacked = 0
        ∧ ((t.link n).dir up).buf = out.buf ∧ ∃ f, ((t.link n).dir up).wire = [f] ∧ f.cls = 2 ∧ f.intact = true
          ∧ f.ack = inn.expect - 1 ∧ (f.av = true ↔ 0 < inn.accepted) ∧ f.nak = false)
      ∧ let s1 := if n < 8 then s.handOn n else s
        ∃ t, exec (.linkDown n) s = .next t ∧ (t.link n).st = 2 ∧ (t.link n).width = 0
        ∧ (t.link n).note0 = decide (n < 8) ∧ (t.link n).note1 = decide (n < 8) ∧ t.links = s1.links ∧ t.cores = s1.cores)
    ∧ (x.st = 2 →
      ((if up then x.note0 else x.note1) = true →
        let here := if up then n else (n + 1) % 8
        s.older (Sparse.get [] (linkKey here up) s.links) = false →
        let s1 := { s.updLink n (fun x => if up then { x with note0 := false } else { x with note1 := false }) with
                    links := Sparse.put [] (linkKey here up) [] s.links }
        exec (.downNotice n up) s =
          .next ((Sparse.get [] (linkKey here up) s.links).foldl (fun s e => s.toLink here (!up) e.1 e.2.1 e.2.2) s1))
      ∧ ∃ t, (s.io.released = true → exec (.linkEnable n) s = .next t) ∧ (t.link n).st = 1 ∧ (t.link n).retr = x.retr ∧ t.cores = s.cores)
    ∧ ∀ d, exec (.linkMirrorUpdate d n) s =
      .next (s.updDie d (fun y => { y with linkMir := Sparse.put none n (some x.word) y.linkMir }))

/-! ### The platform interface (spec 18) -/

/-- R16, R236, R276, R317, R319, R324, R361, R383, R392, R407, R422, R426, R428: each write of the platform's interface takes
effect where its rule allows it, and one that the rule refuses changes nothing; and what the hardware writes there for the
platform (FAULT, HCONF, LAST, ACC, DROP, the owner registers, the slot tables in force) is what it reads. -/
def Obligations.PlatformWritesTakeEffect : Prop :=
  ∀ (s : State) (d q t : Nat) (w : BitVec 512), let v := w.toNat
    let desc : Queue := { ring := BitVec.ofNat 64 (field v 0 8), size := field v 8 1, valid := decide (field v 9 1 % 2 = 1)
                          ten := field v 10 2 % 4096, taila := BitVec.ofNat 64 (field v 16 8), heada := BitVec.ofNat 64 (field v 24 8) }
    -- a die held in reset takes no write (R6, R454, R455), and nothing is taken while the I/O die is
    (s.reachesDie d = false → ∀ i ∈ [Instr.queueDescriptorWrite d q w, .translationRecordWrite d t false w,
        .translationRecordWrite d t true w, .slotTableWrite d q (w.setWidth 16), .platformRegisterWrite (.brickQuota d t) (w.setWidth 64)],
      exec i s = .next s)
    ∧ (s.reachesDie d = true →
    (q < 128 →
      (field v 9 1 % 2 = 0 ∨ s.refusesQueue d q v = false →
        exec (.queueDescriptorWrite d q w) s = .next (s.updQueue d q (fun _ => desc)))
      ∧ (field v 9 1 % 2 = 1 → (field v 8 1 < 4 ∨ 16 < field v 8 1 ∨ field v 0 8 % (32 * 2 ^ field v 8 1) ≠ 0
          ∨ field v 16 8 % 8 ≠ 0 ∨ field v 24 8 % 8 ≠ 0 ∨ 2 ≤ field v 9 1 ∨ field v 12 4 ≠ 0 ∨ field v 40 24 ≠ 0
          ∨ 8 ≤ q ∧ s.hasRecord d (field v 10 2 % 4096) = false) →
        exec (.queueDescriptorWrite d q w) s = .next s))
    ∧ (t < 4096 →
      (s.holdsOn d t = false → exec (.translationRecordWrite d t true w) s =
        .next (s.updDie d (fun x => { x with recs := Sparse.put none t none x.recs })))
      ∧ (s.holdsOn d t = true → exec (.translationRecordWrite d t true w) s = .next s)
      ∧ (refusesRecord v = false → ∃ r, exec (.translationRecordWrite d t false w) s =
          .next (s.updDie d (fun x => { x with recs := Sparse.put none t (some r) x.recs }))
        ∧ r.s1root.toNat = field v 0 8 ∧ r.s2root.toNat = field v 8 8 ∧ r.impt.toNat = field v 16 8
        ∧ r.expt.toNat = field v 24 8 ∧ ∀ o, Sparse.get none t (s.die d).recs = some o → r.hconf = o.hconf))
    ∧ (∀ rv rt, exec (.ownerRightWrite q rv rt) s = .next (s.updStack q (fun x => { x with rv := rv, rten := rt })))
    ∧ (∀ n, q < 8 → n ≤ 8 → let lo := sliceDla q (24 - max n (s.stack q).mscn)
      let hi := sliceDla q (24 - min n (s.stack q).mscn)
      (∀ e ∈ s.dies, ∀ r ∈ e.2.recs, ∀ y, r.2 = some y → s.tableMaps lo hi 4 0 y.s2root.toNat = false) →
      ∃ u, exec (.cacheSlicesChange q n) s = .next u ∧ (u.stack q).mscn = n ∧ u.mem = s.mem ∧ u.cores = s.cores
        ∧ ∀ g, lo / 128 ≤ g → g < hi / 128 → Sparse.get nullGen g u.hallmarks = 0)
    ∧ (∀ (i : Nat) (e : BitVec 16), i < 256 →
      (e.toNat / 2 ^ 12 % 8 = 0 → exec (.slotTableWrite d i e) s = .next (s.updDie d (fun x =>
        { x with slotNew := Sparse.put none i (some e) x.slotNew, slotAt := x.lcyc.toNat })))
      ∧ (e.toNat / 2 ^ 12 % 8 ≠ 0 → exec (.slotTableWrite d i e) s = .next s))
    ∧ ((s.die d).lcyc.toNat % 256 = 0 → (s.die d).slotAt < (s.die d).lcyc.toNat → ∃ u,
      exec (.slotTableTakeEffect d) s = .next u ∧ u.cores = s.cores ∧ (u.die d).slotNew = []
      ∧ ((s.die d).slotNew = [] → (u.die d).slotTab = (s.die d).slotTab)
      ∧ ∀ i e, (s.die d).slotNew = [(i, some e)] → ∀ j, Sparse.get 0 j (u.die d).slotTab =
        if j = i then e else Sparse.get 0 j (s.die d).slotTab)
    ∧ (∀ (f : Nat) (e : W64) (key : BitVec 256), let y := e.toNat
      f < 4096 → field y 0 1 < 16 → field y 1 1 < 8 → 8 ≤ field y 2 1 → field y 2 1 < 128 → field y 3 1 < 2 →
      field y 4 2 < 4096 → field y 6 2 = 0 → ∃ u, exec (.flowRegister f e key) s = .next u ∧ u.cores = s.cores
        ∧ let z := Sparse.get {} f u.io.flows
          z.ports.toNat = field y 0 1 ∧ z.die = field y 1 1 ∧ z.queue = field y 2 1 ∧ z.ten = field y 4 2 ∧ z.last = 0
          ∧ z.valid = decide (field y 3 1 = 1) ∧ (z.valid = true → z.key = key))
    ∧ (∀ (m g : Nat) (e : W64), m ≤ 8 → g < 256 → ∃ u, exec (.hdmMapWrite m g e) s = .next u ∧ u.cores = s.cores
      ∧ ∀ j, Sparse.get {} j u.io.ingress = if j = 65536 * m + g then
        { gpa := e.extractLsb' 40 24, die := (e.extractLsb' 24 3).toNat, valid := e.getLsbD 12, ten := (e.extractLsb' 0 12).toNat }
        else Sparse.get {} j s.io.ingress)
    ∧ ∀ (y : W64), let writes := fun (r : PlatformReg) (u : State) => exec (.platformRegisterWrite r y) s = .next u
      (∀ i, exec (.platformRegisterWrite (.owner q) y) s = exec (.ownerRightWrite q (y.getLsbD 44) (y.extractLsb' 32 12)) s
        ∧ exec (.platformRegisterWrite (.slot d i) y) s = exec (.slotTableWrite d i (y.setWidth 16)) s
        ∧ exec (.platformRegisterWrite (.mapEntry d i) y) s = exec (.hdmMapWrite d i y) s
        ∧ exec (.platformRegisterWrite (.link i) y) s = exec (.linkEnable i) s
        ∧ s.readReg (.queueWord d q 4) = (s.queue d q).fault ∧ s.readReg (.owner q) = s.ownerReg q
        ∧ (s.readReg (.slot d i)).toNat = (Sparse.get 0#16 i (s.die d).slotTab).toNat ∧ s.readReg (.link i) = (s.link i).word
        ∧ (∀ r, Sparse.get none t (s.die d).recs = some r → s.readReg (.recordWord d t 4) = r.hconf)
        ∧ let z := Sparse.get {} i s.io.flows
          s.readReg (.flowWord i 1) = z.last ∧ s.readReg (.flowWord i 2) = z.acc ∧ s.readReg (.flowWord i 3) = z.drop)
      ∧ writes (.brickQuota d t) (s.updDie d (fun x => { x with quota := Sparse.put 4096 t y.toNat x.quota }))
      ∧ writes (.reportHead d) (s.updDie d (fun x => { x with frHead := y.toNat }))
      ∧ (∀ h, writes (.violation q true h) (s.updStack q (fun x => { x with viol1 := {} }))
        ∧ writes (.violation q false h) (s.updStack q (fun x => { x with viol0 := {} })))
      ∧ (s.readReg (.violation q false false)).toNat = (s.stack q).viol0.dla % 2 ^ 48
      ∧ (s.readReg (.violation q true false)).toNat = (s.stack q).viol1.dla % 2 ^ 48
      ∧ (∀ c, (s.core c).withheld = true ∨ Sparse.get false c s.trust.withheld = true → writes (.coreTenancy c) s)
      ∧ (∀ c, let asks := fun (i : Instr) => exec (.platformRegisterWrite (.prectl c) y) s = exec i s
        (y = 1 → asks (.softRequest c)) ∧ (y = 2 → asks (.hardRequest c)) ∧ (y = 3 → asks (.killRequest c))
        ∧ (y = 4 → asks (.contextRestore c)) ∧ (y = 8 → asks (.functionLevelReset c))
        ∧ (y ∉ [1, 2, 3, 4, 8] → y.extractLsb' 12 4 = 0 → writes (.prectl c) s))
      ∧ (∀ c, s.reachesDie (dieOf c) = true → (s.core c).withheld = false → Sparse.get false c s.trust.withheld = false → (s.core c).phase = 0 → (s.core c).task = none → (s.core c).flr = none →
        (s.core c).stopped = false → y.toNat < 4096 → s.hasRecord (dieOf c) y.toNat = true →
        ∃ u, writes (.coreTenancy c) u ∧ (u.core c).ten = some y.toNat ∧ (u.core c).phase = 0 ∧ (u.core c).chunks = []
          ∧ ∀ j, j ≠ c → u.core j = s.core j)
      ∧ ∃ u, writes (.endFence d t) u ∧ (t ∉ (u.die d).fences) ∧ ∀ e, (t, d) ∉ (u.die e).refused)

/-! ### What reaches the module from outside, and the trust die (spec 18, 20) -/

/-- R421, R422, R426, R427, R428, R429: an access of an application core to a control of the platform interface reads or
writes it, wherever the layout, which the spec leaves out (log entry 105), puts it; one at a die-local address, and a request of the CXL host
or of Empin through a valid entry, reads or writes its home, at its turn, under the generation it names; a request through no valid
entry is counted and returns poison; a good command frame puts its packets into its queue, any other is counted or passed
on. -/
def Obligations.RequestsFromOutside : Prop :=
  ∀ (s : State),
    let answers := fun (i : Instr) (v : Nat) => ∃ u, exec i s = .next u ∧ u.mem = s.mem ∧ u.cores = s.cores
      ∧ u.io.reply.toNat = v ∧ u.io.poisoned = false
    -- what application core m receives
    let gives := fun (m : Nat) (i : Instr) (v : Nat) => ∃ u, exec i s = .next u ∧ u.mem = s.mem ∧ u.cores = s.cores
      ∧ ∀ j, Sparse.get {} j u.io.apps = if j = m then { data := BitVec.ofNat 64 v } else Sparse.get {} j s.io.apps
    let stores := fun (i : Instr) (g : Hm) (a n v : Nat) => ∃ u, exec i s = .next u ∧ u.cores = s.cores
      ∧ u.mem = (s.write g a n (v % 2 ^ (8 * n))).mem ∧ u.hallmarks = (s.write g a n (v % 2 ^ (8 * n))).hallmarks
    (∀ (m a n : Nat) (v : W64) (r : PlatformReg), a < 2 ^ 48 → 1 ≤ n → n ≤ 8 → s.io.released = true →
      Config.platformLayout a = some r → r.placed = true →
      let i := fun o => Instr.applicationCoreAccess (BitVec.ofNat 64 (8 * 2 ^ 48 + a)) n ⟨m, o⟩ v
      exec (i .store) s = exec (.platformRegisterWrite r v) s ∧ gives m (i .load) ((s.readReg r).toNat % 2 ^ (8 * n)))
    ∧ (∀ (m d a n : Nat) (v : W64) (t : Target), d < 8 → a < 2 ^ 48 → 1 ≤ n → n ≤ 8 → s.takesIo d 0 = true →
      s.translateDla d a = .ok t → s.wayLost d t = false → s.ioGo d t = true → s.violates t = false →
      let i := fun o => Instr.applicationCoreAccess (BitVec.ofNat 64 (d * 2 ^ 48 + a)) n ⟨m, o⟩ v
      (s.badRun t.dla n = false → gives m (i .load) (s.read platformGen t.dla n))
      ∧ stores (i .store) platformGen t.dla n v.toNat
      ∧ ∀ o, n = 4 ∨ n = 8 → a % n = 0 → s.badRun t.dla n = false → ∃ u, exec (i (.amo o)) s = .next u
        ∧ u.mem = (s.write platformGen t.dla n (rvResult o n (s.read platformGen t.dla n) v.toNat % 2 ^ (8 * n))).mem
        ∧ Sparse.get {} m u.io.apps = { data := BitVec.ofNat 64 (s.read platformGen t.dla n) })
    ∧ (∀ (m g off n : Nat) (v : BitVec 512) (w : Bool), m ≤ 8 → g < 256 → 1 ≤ n → n ≤ 64 →
      (m ≠ 0 → (s.link (15 + m)).st = 0) →
      let i := fun w => if m = 0 then Instr.hostRequest g off n w v else .empinRequest (m - 1) g off n w v
      let f := if m = 0 then 2 else 3
      let e : IngressEntry := Sparse.get {} (65536 * m + g) s.io.ingress
      (e.valid = false → ∃ u, exec (i w) s = .next u ∧ u.mem = s.mem ∧ u.cores = s.cores
        ∧ u.io.hdmErrors = s.io.hdmErrors + 1 ∧ u.io.poisoned = !w)
      ∧ (∀ t, e.valid = true → s.takesIo e.die f = true → s.ingressTarget e off n w = .ok t → s.wayLost e.die t = false →
        s.ioGo e.die t = true → s.violates t = false →
        (w = false → s.badRun t.dla n = false → answers (i false) (s.read t.gen t.dla n % 2 ^ 512))
        ∧ (w = true → s.isCurrent (homeDie t.dla) t.gen = true → stores (i true) t.gen t.dla n v.toNat)))
    ∧ ∀ (port udp : Nat) (flow npkt : BitVec 16) (z : BitVec 32) (fs : W64) (ps : List (BitVec 256)) (tag : BitVec 128),
      let f : Flow := Sparse.get {} flow.toNat s.io.flows
      let x := s.queue f.die f.queue
      let i := Instr.commandFrame port udp flow npkt z fs ps tag
      s.io.released = true →
      (udp ≠ Sparse.get 0 port s.io.cmdPort → ∃ u, exec i s = .next u ∧ u.mem = s.mem ∧ u.cores = s.cores ∧ u.dies = s.dies
        ∧ u.io.received = s.io.received + 1)
      ∧ (udp = Sparse.get 0 port s.io.cmdPort → flow.toNat < 4096 → f.valid = true →
        let sealed := tag = gcmTag f.key (BitVec.ofNat 96 (flow.toNat + fs.toNat * 2 ^ 32)) (frameBytes flow npkt z fs ps)
        (fs.toNat ≤ f.last.toNat ∨ f.ports.getLsbD port = false ∨ npkt.toNat ≠ ps.length ∨ ¬sealed →
          ∃ u, exec i s = .next u ∧ u.mem = s.mem ∧ u.dies = s.dies
            ∧ (Sparse.get {} flow.toNat u.io.flows).drop = f.drop + 1 ∧ (Sparse.get {} flow.toNat u.io.flows).last = f.last)
        ∧ (s.takesIo f.die 1 = true → f.last.toNat < fs.toNat → f.ports.getLsbD port = true → x.valid = true → x.fault.getLsbD 8 = false → x.ten = f.ten →
          z = 0 → npkt.toNat = ps.length → 1 ≤ ps.length → ps.length ≤ 32 →
          sealed →
          ∀ u, s.acceptFrame f flow.toNat fs ps = .ok u → exec i s = .next u
            ∧ (Sparse.get {} flow.toNat u.io.flows).last = fs ∧ (Sparse.get {} flow.toNat u.io.flows).acc = f.acc + 1))

/-- R6, R16, R454, R455, R457, R461, R462: a module reset leaves every core, register and byte at its reset value and takes
over a record only where it is well laid and its signature stands; the dies are then released in order, each where its
image's signature stands, a compute die's cores with the record's maps and withheld cores; and the responder answers
what the requests name, once every die has been measured (the model's reading of R462: log 130). -/
def Obligations.TheModuleBoots : Prop :=
  ∀ (s : State), let next := s.trust.next
    let tells := fun (i : Instr) (a : Spdm) => exec i s = .next { s with trust := { s.trust with answer := a } }
    (∀ r, ∃ u, exec (.moduleReset r) s = .next u ∧ u.mem = [] ∧ u.cores = [] ∧ u.dies = [] ∧ u.hallmarks = []
      ∧ u.tenancies = [] ∧ u.io = {} ∧ u.trust.next = 0
      ∧ (u.trust.up = true ↔ recordLaid r = true
        ∧ Config.slhVerify (r.take (recField r 24 4)) (r.drop (recField r 24 4)) = true)
      ∧ (u.trust.up = true → u.trust.svn.toNat = recField r 8 8 ∧ u.trust.recDigest = shake256 64 r))
    ∧ (∀ img sig applied, s.trust.up = true → s.trust.dead = false → next < 17 →
      let good := !img.isEmpty && Config.slhVerify img sig && applied
      ∃ u, exec (.dieRelease img sig applied) s = .next u ∧ u.trust.next = next + 1 ∧ u.mem = s.mem
        ∧ (good = true → Sparse.get [] next u.trust.meas = shake256 64 (List.replicate 64 0 ++ shake256 64 img))
        ∧ (next = 0 → u.io.released = good ∧ u.trust.dead = !good)
        ∧ (1 ≤ next → next ≤ 8 → (u.stack (next - 1)).present = good ∧ u.dies = s.dies)
        ∧ (9 ≤ next → (u.die (next - 9)).released = good ∧ ∀ n < 64, let c := 64 * (next - 9) + n
          (u.core c).ismap = Sparse.get 0x1FFF c s.trust.ismap
          ∧ (u.core c).withheld = (!good || Sparse.get false c s.trust.withheld)))
    ∧ (s.trust.up = true → s.io.released = true → next = 17 →
      tells .getVersion .version ∧ tells .getCapabilities .capabilities ∧ tells .negotiateAlgorithms .algorithms
      ∧ tells .getDigests (.digests (sha3_384 (Config.certChain Config.romDigest)))
      ∧ (∀ o n, tells (.getCertificate o n) (.certificate o (((Config.certChain Config.romDigest).drop o).take n)))
      ∧ (∀ t, tells (.challenge t) (.challengeAuth (Config.sign Config.romDigest (sha3_384 t))))
      ∧ tells (.getMeasurements 1) (.measurements [(1, Config.romDigest)])
      ∧ (∀ i, 2 ≤ i → i ≤ 18 → tells (.getMeasurements i) (.measurements [(i, match Sparse.get [] (i - 2) s.trust.meas with
          | [] => List.replicate 64 0
          | l => l)]))
      ∧ tells (.getMeasurements 20) (.measurements [(20, bytesOf s.trust.svn.toNat 8)])
      ∧ tells .unsupportedRequest .unsupported)

/-! ### Copies (spec 10) -/

/-- R218, R209, R222, R223, R225, R227, R234, R336: a line transfer whose turn it is, in its copy and at the die's engines,
writes the bytes its source gives to its destination
and counts them on the completion object; a source that faults, disagrees in its page attributes or fails twice ends the
copy with the fault code; a post message applies the expectation to the remote handle by its state. R200: a preload starts
once every bank it names is RELEASED and the copy queue has room, and one that names none once no task runs (the model's
reading of R385: log 109); its banks become PRELOADING and its copy is in hand with
a staging record that counts its bytes. -/
def Obligations.CopiesMovePostAndPreload : Prop :=
  (∀ (s : State) (c op : Nat) (x : Copy), (s.core c).copy op = some x →
    (∀ (idx : Nat) (p : Piece), x.desc.pieces.find? (fun q => q.idx == idx) = some p → s.copyGo c x = true →
      x.moved.contains idx = false → CopyDesc.mustWait x x.desc.pieces p = false → s.copyRoom c x idx = true →
      s.engineTurn c x = true →
      let run := exec (.copyLineTransfer c op idx) s
      (∀ v, s.fetchPiece c x p = .data v [] [] → x.pageFmt = none →
        let img := BitVec.ofNat 1024 v
        let moves := fun (f : Core → Core) (e : Nat) => run =
          .next (((s.updCore e f).movedPiece c x p true).rotate (dieOf c) (24 + dieOf c) x.gen)
        let far := fun e => s.heldBy e x.gen = true ∧ (s.core e).phase < 3
        (∀ a, x.desc.dstLoc c p = .spm a → moves (fun k => k.writeSpm x.gen (a / 128) (a % 128) p.n img) c)
        ∧ (∀ a, x.desc.dstLoc c p = .acc a → moves (fun k => k.writeRowBytes x.gen (a / 128) (a % 128) p.n v) c)
        ∧ (∀ e a, x.desc.dstLoc c p = .rspm e a → far e → moves (fun k => k.writeSpm x.gen (a / 128) (a % 128) p.n img) e)
        ∧ (∀ e a, x.desc.dstLoc c p = .racc e a → far e → moves (fun k => k.writeRowBytes x.gen (a / 128) (a % 128) p.n v) e)
        ∧ (∀ r, x.desc.dstLoc c p = .ownReg r → (s.core c).task ≠ none → (s.core c).phase ≠ 0 →
          (∀ q ∈ (s.core c).pend, q.reg = r → q.shadow = true) →
          moves (fun k => k.setScalar x.gen false r (BitVec.ofNat 64 v)) c)
        ∧ (∀ a t, x.desc.dstLoc c p = .va a → s.translateCopy c x.gen a .write = .ok t → t.fwd = none → x.held = [] →
          (s.core c).accs = [] →
          ∃ u, run = .next u ∧ ∃ o, (u.die (dieOf c)).op = (s.die (dieOf c)).op ++ [o] ∧ o.core = c ∧ o.thr = some x.id
            ∧ o.gen = x.gen ∧ o.tgt = t ∧ o.size = p.n ∧ o.data = img)
        ∧ (x.desc.dstLoc c p = .hole → run = .next (s.copyFault c x 0x26 0))
        ∧ (∀ e a, x.desc.dstLoc c p = .rspm e a → s.heldBy e x.gen = false → run = .next (s.copyFault c x 0x27 0))
        ∧ (∀ e a, x.desc.dstLoc c p = .rspm e a → s.heldBy e x.gen = true → 3 ≤ (s.core e).phase →
          run = .next (s.copyFault c x 0x2A 0)))
      ∧ (∀ f a, s.fetchPiece c x p = .fault f a → run = .next (s.copyFault c x f a))
      ∧ (∀ a t, s.fetchPiece c x p = .held a t → x.held = [] → run =
        .next (s.updCore c (fun k => k.updCopy op (fun y => { y with held := y.held ++ [(idx, true, a, t)] }))))
      ∧ (∀ a t, s.fetchPiece c x p = .port a t → x.held = [] → run = .next ((s.updCore c (fun k =>
        k.updCopy op (fun y => { y with held := y.held ++ [(idx, true, a, t)] }))).queueRead t x.gen (copyReader c x.id)))
      ∧ (∀ v t ts hs, s.fetchPiece c x p = .data v (t :: ts) hs → x.pageFmt ≠ none → x.pageFmt ≠ some (t.attrs x.desc.x) →
        run = .next (s.copyFault c x 0x23 0))
      ∧ (s.fetchPiece c x p = .bad →
        (x.retried.contains idx = true → run = .next (s.copyFault c x 0x03 0))
        ∧ (x.retried.contains idx = false → run =
          .next (s.updCore c (fun k => k.updCopy op (fun y => { y with retried := y.retried ++ [idx] }))))))
    ∧ ∀ e h, x.obj = .remote e h → x.posted = false → s.copyGo c { x with posted := true } = true →
      let run := exec (.remotePost c op) s
      let y := (s.core e).handle x.gen h
      let sent := s.updCore c (fun k => k.updCopy op (fun z => { z with posted := true }))
      let failed := (sent.updCore e (fun k => k.failHandle x.gen h 0x20)).copyFault c x 0x20 0
      let f := s.postFmt c x
      (s.heldBy e x.gen = false → run = .next (s.copyFault c x 0x27 0))
      ∧ (s.heldBy e x.gen = true → (s.core e).phase < 3 →
        (y.st = .free → run = .next (sent.updCore e (fun k => k.setHandle x.gen h { y with
          exp := x.bytes, cnt := 0, fmt := BitVec.ofNat 6 f.1, geo := BitVec.ofNat 3 f.2, refetch := false, desc := none,
          st := .filling })))
        ∧ (y.st = .filling → run = .next (if 0xFFFFF < y.exp + x.bytes then failed
            else sent.updCore e (fun k => k.setHandle x.gen h { y with exp := y.exp + x.bytes })))
        ∧ (y.st = .full ∨ y.st = .draining → run = .next failed)
        ∧ (y.st = .error → run = .next sent)))
  ∧ (∀ (s : State) (c i : Nat) (r : Staged), let k := s.core c
    k.staging[i]? = some r → r.op = none → k.queueUse < 64 → (r.banks = 0 → k.running = false) →
    (∀ b, r.banks.getLsbD b = true → Sparse.get BankState.released b k.banks = .released) →
    ∃ t, exec (.preloadStart c i) s = .next t
      ∧ (∀ b, b < 16 → Sparse.get BankState.released b (t.core c).banks =
          if r.banks.getLsbD b then .preloading else Sparse.get BankState.released b k.banks)
      ∧ (∃ x, (t.core c).copies = k.copies ++ [x] ∧ x.desc = r.desc ∧ x.bytes = r.desc.bytes ∧ x.id = k.nextId
        ∧ x.obj = .staging k.nextId)
      ∧ (∃ r', (t.core c).staging = k.staging.set i r' ∧ r'.op = some k.nextId ∧ r'.held.st = .filling ∧ r'.held.cnt = 0
        ∧ r'.held.exp = r.desc.bytes ∧ r'.held.refetch = true)
      ∧ (t.core c).sregs = k.sregs ∧ (t.core c).spm = k.spm ∧ t.mem = s.mem ∧ ∀ e, e ≠ c → t.core e = s.core e)

/-! ### The machine as a whole -/

/-- R19, R20, R33: every slot operation that keeps its operands' limits, native or Igpor, decodes from its own word, and a
word that decodes to an operation is that operation's word: no bit of a slot's encoding is dropped. -/
def Obligations.SlotEncodingRoundTrip : Prop :=
  (∀ (i : Instr) (ig : Bool), i.major < 64 → (i.major = 0x17 ∨ 0x3C ≤ i.major → ig = true) →
    (if ig then i.badCodeIgpor else i.badCode) = 0 → decodeSlot ig (encodeSlot i) = (0, i))
  ∧ ∀ (w : W32) (ig : Bool) (i : Instr), decodeSlot ig w = (0, i) → encodeSlot i = w

/-- R251, R364: every micro-op and every packet that keeps its reserved fields decodes from its own micro-word or its own
32 bytes, and a micro-word that decodes is the word of its micro-op. -/
def Obligations.MicroWordAndPacketRoundTrip : Prop :=
  (∀ i, i.microOk = true → encodeMicro i ≠ 0 → decodeMicro (encodeMicro i) = some i)
  ∧ (∀ w i, decodeMicro w = some i → encodeMicro i = w)
  ∧ (∀ i, i.packetOk = true → encodePacket i ≠ 0 → decodePacket (encodePacket i) = .ok i)
  ∧ ∀ w i, decodePacket w = .ok i → encodePacket i = w

/-- Words that the spec writes out for an assembly line, one or two of each kind, decode to the line's operation. -/
def Obligations.SpecWordsDecode : Prop :=
  decodeSlot false 0x04060840 = (0, .add 0 3 1 2) ∧ decodeSlot false 0x180207FB = (0, .addi 0 1 0 0x7FB)
  ∧ decodeSlot false 0x3C080011 = (0, .csrr 0 4 0x11) ∧ decodeSlot false 0x48000005 = (0, .brl 0 5)
  ∧ decodeSlot false 0x54002462 = (0, .trap 0 0x123) ∧ decodeSlot false 0x84460208 = (0, .vcmp 0 2 6 1 2 0)
  ∧ decodeSlot false 0xBC0D1424 = (0, .sadd 0 13 10 9 0) ∧ decodeSlot false 0xC80A10A0 = (0, .spld 0 5 2 2 2)
  ∧ decodeSlot false 0xCC0A18B0 = (0, .ld 0 5 3 2 3) ∧ decodeSlot false 0xDC065163 = (0, .hset 0 3 10 11)
  ∧ decodeSlot false 0xE4122003 = (0, .mxcall 0 9 4 3) ∧ decodeSlot false 0xE80A1001 = (0, .mxpr 0 5 2)
  ∧ decodeSlot false 0xEC120002 = (0, .genr 0 9) ∧ decodeSlot false 0xEC005167 = (0, .suspend 0 10 11)
  ∧ decodeSlot false 0xEC0A1809 = (0, .linkq 0 5 3) ∧ decodeMicro 0x8040000000000000 = some (.waith 2)

/-- R22, R27, R35, R36, R45, R59: the word 0 is NOP, of no class and no effect; a word of an unassigned major, or of major 0
that is not NOP, is illegal; so is a bundle with a
header outside S0, a header of kind 10 in native code or of kind 11 anywhere, a branch-class slot outside S3, and two
slots that write one scalar register; the trap's subcode and slot are those of R36. -/
def Obligations.IllegalEncodingsRefused : Prop :=
  (decodeSlot false 0 = (0, .nop) ∧ decodeSlot true 0 = (0, .nop) ∧ classOfMajor Instr.nop.major = .none
    ∧ ∀ s, exec .nop s = .next s)
  ∧ (∀ w : W32, let m := (w.extractLsb' 26 6).toNat
    (m = 0x17 ∨ m = 0x3C ∨ m = 0x3D ∨ m = 0x3E → ∃ i, decodeSlot false w = (1, i))
    ∧ (m = 0 → w ≠ 0 → ∃ i, decodeSlot false w = (3, i)))
  ∧ (∀ (h : Bool) (w a b : W32), isHeader w = true →
    decodeBundle false h 0 w a b = .illegal 4 1 ∧ decodeBundle false h 0 0 w b = .illegal 4 2
    ∧ decodeBundle false h 0 0 0 w = .illegal 4 3)
  ∧ (∀ (h : Bool) (w a b c : W32), isHeader w = true →
    (w.extractLsb' 24 2 = 2 → decodeBundle false h w a b c = .illegal 5 0)
    ∧ (w.extractLsb' 24 2 = 3 → decodeBundle false h w a b c = .illegal 6 0 ∧ decodeBundle true h w a b c = .illegal 6 0))
  ∧ (∀ (w : W32) (i : Instr), decodeSlot false w = (0, i) → classOfMajor i.major = .br →
    decodeBundle false false w 0 0 0 = .illegal 8 0 ∧ decodeBundle false false 0 w 0 0 = .illegal 8 1
    ∧ decodeBundle false false 0 0 w 0 = .illegal 8 2
    ∧ decodeBundle false false 0 0 0 w = .ok ⟨.none, [⟨.nop, 0⟩, ⟨.nop, 0⟩, ⟨.nop, 0⟩, ⟨i, 0⟩]⟩)
  ∧ ∀ (p q : BitVec 3) (d a b e f : BitVec 6) (h : Bool),
    (d ≠ 0 → decodeBundle false h (encodeSlot (.add p d a b)) (encodeSlot (.sub q d e f)) 0 0 = .illegal 9 1)
    ∧ decodeBundle false h (encodeSlot (.add p 0 a b)) (encodeSlot (.sub q 0 e f)) 0 0 =
      .ok ⟨.none, [⟨.add p 0 a b, 0⟩, ⟨.sub q 0 e f, 0⟩, ⟨.nop, 0⟩, ⟨.nop, 0⟩]⟩

/-- R10, R86, R319, R345, R361, R392, R393, R403, R419: what module reset leaves, of the values that the spec states; and
memory in its canonical form, which this model chooses to read as 0 where nothing has written it (log entry 24). -/
def Obligations.ResetLeaves : Prop :=
  let s := State.reset
  s.MemoryCanonical ∧ s.mem = [] ∧ s.lastGen = 1 ∧ s.lastSerial = 0
  ∧ (∀ c, let k := s.core c
    k.phase = 0 ∧ k.req = 0 ∧ k.csr.gracet = 100000 ∧ k.csr.killt = 2000000 ∧ k.csr.vcyc = 0 ∧ k.csr.stat = 0 ∧ k.csr.splitc = 0
      ∧ k.csr.uivec = 0 ∧ k.csr.ptvec = 0 ∧ k.csr.ctxptr = 0 ∧ k.nld = 0 ∧ k.nst = 0 ∧ k.ncp = 0 ∧ k.ntl = 0
      ∧ (∀ g r, k.scalar g r = 0) ∧ ∀ g r, g ≠ 0 → k.row g r = 0)
  ∧ (∀ k < 8, s.owner k = k ∧ (s.stack k).epoch = 0 ∧ (s.stack k).rv = false ∧ (s.stack k).mscn = 0
    ∧ (s.stack k).hand = none ∧ s.ownerReg k = BitVec.ofNat 64 (k * 2 ^ 8 + k))
  ∧ (∀ d q, (s.queue d q).valid = false ∧ (s.die d).frLost = 0)
  ∧ (∀ l, (s.link l).st = 0 ∧ (s.link l).width = 3 ∧ (s.link l).retr = 0)
  ∧ ∀ g, s.genState g = .free

/-- A step with nothing listed, or with a core listed, fetches the bundle at the core's pc and, where it decodes, earns no
trap and waits for nothing, runs its slots in order and ends it; of a bundle of one operation, that is the operation's
exec. The engine's next micro-word, a queue's next packet and a listed event run as exec of what they decode to. -/
def Obligations.StepRunsTheDecoded : Prop :=
  ∀ (s : State) (c : Nat) (rest : List Choice), c < 512 →
    let s0 := { s with agenda := rest }
    -- the cycles in which the core has acted before have passed (R2)
    let s1 := s0.begin c
    (∀ (b : Bundle) (t : Target), s.agenda = .issue c :: rest ∨ (s.agenda = [] ∧ rest = [] ∧ c = 0) → s1.turn c = .run →
      (s1.core c).uiReady = false → (s1.core c).stopping = none → s1.codeMiss c = none →
      s1.translateCore c ((s1.core c).pc.setWidth 64) 16 .fetch = .ok t → s1.badAt t.dla = false → s1.wayLost (dieOf c) t = false →
      (let v := s1.read t.gen t.dla 16
       decodeBundle (s1.core c).igpor (s1.core c).ui (wordAt v 0) (wordAt v 1) (wordAt v 2) (wordAt v 3) = .ok b) →
      evaluate (s1.probeSlots c b.kind 0 b.slots) = .issue → s1.crowded c b = false → step s = s1.issueBundle c b)
    ∧ (∀ (i : Instr) (u : State),
      let b : Bundle := ⟨.none, [⟨i, 0⟩, ⟨.nop, 0⟩, ⟨.nop, 0⟩, ⟨.nop, 0⟩]⟩
      let hits := s.waitaHits c (s.waitas c .none 0 b.slots)
      let s0 := { s.updCore c (fun k => { k with waitaHit := hits }) with cur := { s.cur with redirect := none, cut := none } }
      let split := needsSplit (s.core c).ismap b
      let end_ := fun (u : State) => if split then u.endCut.updCore c Machine.Core.markSplit else u.endCut
      -- its local cycle, another where it is split, and another for a bank conflict
      let spent := fun (u : State) => (fun v => v.spend c)^[1 + (if split then 1 else 0)
        + (if bankConflict (s.linesUsed c .none 0 b.slots) then 1 else 0)] u
      (s.core c).stopping = none → exec i (s0.atSlot c 0 .none 0 .commit) = .next u →
      s.issueBundle c b = .next (spent ((end_ (u.atSlot c 3 .none 0 .commit)).endBundle c (s.core c))))
    ∧ (∀ x l i, s.agenda = .engine c :: rest → (s.die (dieOf c)).throttled (quadrantOf c) = false → (s.core c).calls = x :: l →
      x.pc < x.start + x.len → decodeMicro ((s.core c).microWord x.gen x.pc) = some i →
      step s = exec i { s0 with cur := { s.cur with core := c } })
    ∧ (∀ d q w i t, d < 8 → q < 128 → s.agenda = .packet d q :: rest → s0.nextPacket d q = .packet w t → decodePacket w = .ok i →
      step s = exec i { t with cur := { t.cur with die := d, queue := q } })
    ∧ ∀ i, s.agenda = .event i :: rest → isEvent i = true → i.wf = true → step s = exec i s0

/-- No instruction and no step ends the machine: every instruction answers a next state in every state, and so does every
step, whatever the bytes, the operands and the mode. -/
def Obligations.EveryStepGoesOn : Prop :=
  (∀ (i : Instr) (s : State), ∃ t, exec i s = .next t) ∧ ∀ s : State, ∃ t, step s = .next t

/-- R181, R347 and the model's own list of cells (log entry 24): every instruction, every step and the placing of a word
keep memory in its canonical form. -/
def Obligations.StepKeepsMemoryCanonical : Prop :=
  (∀ (i : Instr) (s t : State), s.MemoryCanonical → exec i s = .next t → t.MemoryCanonical)
  ∧ (∀ (s t : State), s.MemoryCanonical → step s = .next t → t.MemoryCanonical)
  ∧ ∀ (s : State) (n w : Nat), s.MemoryCanonical → (s.withFetchWord n w).MemoryCanonical

/-- R52, R58: a scalar result of latency L is not to be seen before L virtual cycles have passed, and from then on it is,
where no other result for its register is in the landing queue. -/
def Obligations.ResultsLandAfterTheirLatency : Prop :=
  ∀ (s : State) (lat n : Nat) (v : W64), 1 ≤ lat → n ≠ 0 → s.k.quick = false →
    (∀ e ∈ s.k.lq, e.kind ≠ .scalar ∨ e.dest ≠ n) → ∀ j,
    ((fun u => u.advanceVc u.cur.core)^[j] (s.putScalar lat n v)).reg n = if lat ≤ j then v else s.reg n

/-- R67, R68, R70, R134, R182, R186: a register, predicate, row, line or handle reads as it stands only under its own
hallmark, else as zero, false or FREE; s0 reads as zero and p0 as true whatever was written; a write tags its place. -/
def Obligations.HallmarksGuardReads : Prop :=
  ∀ (k : Machine.Core) (g : Hm) (n : Nat) (v : W64) (x : Bool) (img : Image),
    -- scratchpad line n under generation g
    let line := fun (k : Machine.Core) (g : Hm) (n : Nat) => (Sparse.get {} n k.spm).read g
    k.scalar g 0 = 0 ∧ (k.setScalar g false 0 v).scalar g 0 = 0 ∧ k.pred g 0 = true ∧ (k.setPred g false 0 x).pred g 0 = true
    ∧ ((k.cell n).hm ≠ g → k.scalar g n = 0) ∧ (n ≠ 0 → (k.cell n).hm = g → k.scalar g n = (k.cell n).val)
    ∧ (n ≠ 0 → (k.pcell n).hm ≠ g → k.pred g n = false)
    ∧ ((Sparse.get {} n k.rows).hm ≠ g → k.row g n = 0)
    ∧ ((Sparse.get {} n k.spm).hm ≠ g → line k g n = 0) ∧ line (k.writeSpm g n 0 128 img) g n = img
    ∧ (∀ h, h ≠ g → line (k.writeSpm g n 0 128 img) h n = 0)
    ∧ (∀ m, m ≠ n → ∀ h, line (k.writeSpm g n 0 128 img) h m = line k h m)
    ∧ ((Sparse.get {} n k.handles).hm ≠ g → (k.handle g n).st = .free ∧ (k.handle g n).exp = 0 ∧ (k.handle g n).cnt = 0)
    ∧ (k.ui = false → n ≠ 0 → (k.setScalar g false n v).scalar g n = v ∧ (k.setPred g false n x).pred g n = x
      ∧ (∀ h, h ≠ g → (k.setScalar g false n v).scalar h n = 0)
      ∧ ∀ m, m ≠ n → ∀ h, (k.setScalar g false n v).scalar h m = k.scalar h m)
    ∧ (k.writeRow g n allUnits img).row g n = img
    ∧ ∀ m, m ≠ n → ∀ h, (k.writeRow g n allUnits img).row h m = k.row h m

/-- R52, R58 and the rules of each family: as part of an issued bundle, the register, predicate, vector and set operations
change nothing but the landing queues and the note that a slot rounded stochastically; the global accesses, fences and
address waits change no register, predicate, control register, row, line, handle or byte of memory at their issue. -/
def Obligations.OperationsLeaveTheRest : Prop :=
  ∀ (i : Instr) (s t : State), s.cur.mode = .commit → exec i s = .next t →
    (i.major ∈ [0x01, 0x02, 0x03, 0x04, 0x05, 0x06, 0x07, 0x08, 0x09, 0x0A, 0x0B, 0x0C, 0x0D, 0x0E, 0x0F, 0x17, 0x18, 0x19, 0x1A
        , 0x1B, 0x1C, 0x1D, 0x1E, 0x1F, 0x20, 0x21, 0x22, 0x23, 0x24, 0x25, 0x26, 0x27, 0x28, 0x2A, 0x2B, 0x2C, 0x2D, 0x2F
        , 0x30, 0x31, 0x3C, 0x3D, 0x3E] → (∀ p a b, i ≠ .cmpt p a b) →
      ∃ u, s.OnlyQueues u ∧ (t = u ∨ t = u.updK (fun k => { k with stoch := true })))
    ∧ (i.major ∈ [0x33, 0x34, 0x35, 0x36] → t.mem = s.mem ∧ t.hallmarks = s.hallmarks ∧ t.k.sregs = s.k.sregs
      ∧ t.k.shadow = s.k.shadow ∧ t.k.preds = s.k.preds ∧ t.k.csr = s.k.csr ∧ t.k.rows = s.k.rows ∧ t.k.spm = s.k.spm
      ∧ t.k.handles = s.k.handles ∧ t.k.mparams = s.k.mparams ∧ t.k.barriers = s.k.barriers ∧ t.k.pc = s.k.pc
      ∧ t.k.lvl = s.k.lvl ∧ ∀ c, c ≠ s.cur.core → t.core c = s.core c)
end

