-- ==== Sys2Proof/Laws/Sparse.lean ====
section
/-! SUPPORT. Laws of sparse tables: every operation keeps the canonical form, and what a read gives after a write. -/
namespace Sys2Proof

variable {α : Type} [DecidableEq α] {d : α}

/-! ### The canonical form -/

theorem Sparse.wfFrom_mono {lo lo' : Nat} (h : lo' ≤ lo) :
    ∀ {m : Sparse α}, Sparse.wfFrom d lo m = true → Sparse.wfFrom d lo' m = true
  | [], _ => rfl
  | (i, v) :: t, hm => by
    simp only [Sparse.wfFrom, Bool.and_eq_true, decide_eq_true_eq] at hm ⊢
    exact ⟨⟨h.trans hm.1.1, hm.1.2⟩, hm.2⟩

theorem Sparse.insert_wfFrom {k : Nat} {v : α} (hv : v ≠ d) : ∀ {m : Sparse α} {lo : Nat}, lo ≤ k →
    Sparse.wfFrom d lo m = true → Sparse.wfFrom d lo (Sparse.insert k v m) = true
  | [], lo, hk, _ => by simp [Sparse.insert, Sparse.wfFrom, hv, hk]
  | (i, u) :: t, lo, hk, hm => by
    have hm' := hm
    simp only [Sparse.wfFrom, Bool.and_eq_true, decide_eq_true_eq] at hm'
    obtain ⟨⟨h1, h2⟩, h3⟩ := hm'
    unfold Sparse.insert
    split
    · next hik => subst hik; simp [Sparse.wfFrom, h1, hv, h3]
    · split
      · simp [Sparse.wfFrom, hk, hv, h2, h3]; omega
      · simp only [Sparse.wfFrom, Bool.and_eq_true, decide_eq_true_eq]
        exact ⟨⟨h1, h2⟩, Sparse.insert_wfFrom hv (by omega) h3⟩

theorem Sparse.filter_wfFrom {p : Nat × α → Bool} : ∀ {m : Sparse α} {lo : Nat},
    Sparse.wfFrom d lo m = true → Sparse.wfFrom d lo (m.filter p) = true
  | [], _, _ => rfl
  | (i, u) :: t, lo, hm => by
    simp only [Sparse.wfFrom, Bool.and_eq_true, decide_eq_true_eq] at hm
    obtain ⟨⟨h1, h2⟩, h3⟩ := hm
    rw [List.filter_cons]
    split
    · simp [Sparse.wfFrom, h1, h2, Sparse.filter_wfFrom h3]
    · exact Sparse.wfFrom_mono (by omega) (Sparse.filter_wfFrom h3)

theorem Sparse.put_wfFrom {k : Nat} {v : α} {m : Sparse α} {lo : Nat} (hk : lo ≤ k)
    (hm : Sparse.wfFrom d lo m = true) : Sparse.wfFrom d lo (Sparse.put d k v m) = true := by
  unfold Sparse.put
  split
  · exact Sparse.filter_wfFrom hm
  · next hv => exact Sparse.insert_wfFrom hv hk hm

/-- A write keeps the canonical form. -/
theorem Sparse.put_wf {k : Nat} {v : α} {m : Sparse α} (h : Sparse.wf d m = true) :
    Sparse.wf d (Sparse.put d k v m) = true := Sparse.put_wfFrom (Nat.zero_le _) h

/-- A change keeps the canonical form. -/
theorem Sparse.upd_wf {k : Nat} {f : α → α} {m : Sparse α} (h : Sparse.wf d m = true) :
    Sparse.wf d (Sparse.upd d k f m) = true := Sparse.put_wf h

theorem Sparse.mapVals_wfFrom {f : Nat → α → α} : ∀ {m : Sparse α} {lo : Nat},
    Sparse.wfFrom d lo m = true → Sparse.wfFrom d lo (Sparse.mapVals d f m) = true
  | [], _, _ => rfl
  | (i, u) :: t, lo, hm => by
    simp only [Sparse.wfFrom, Bool.and_eq_true, decide_eq_true_eq] at hm
    obtain ⟨⟨h1, _⟩, h3⟩ := hm
    unfold Sparse.mapVals
    split
    · exact Sparse.filter_wfFrom (Sparse.wfFrom_mono (by omega) (Sparse.mapVals_wfFrom h3))
    · next hv => simp [Sparse.wfFrom, h1, hv, Sparse.mapVals_wfFrom h3]

/-- A change of every value keeps the canonical form. -/
theorem Sparse.mapVals_wf {f : Nat → α → α} {m : Sparse α} (h : Sparse.wf d m = true) :
    Sparse.wf d (Sparse.mapVals d f m) = true := Sparse.mapVals_wfFrom h

theorem Sparse.ofRun_append_wfFrom {r : Sparse α} : ∀ {vs : List α} {k lo : Nat}, lo ≤ k →
    Sparse.wfFrom d (k + vs.length) r = true → Sparse.wfFrom d lo (Sparse.ofRun d k vs ++ r) = true
  | [], k, lo, hk, hr => by simpa [Sparse.ofRun] using Sparse.wfFrom_mono hk hr
  | v :: t, k, lo, hk, hr => by
    have hr' : Sparse.wfFrom d (k + 1 + t.length) r = true := by
      simpa [Nat.add_assoc, Nat.add_comm 1] using hr
    unfold Sparse.ofRun
    split
    · exact Sparse.ofRun_append_wfFrom (by omega) hr'
    · next hv =>
      simp [Sparse.wfFrom, hk, hv, Sparse.ofRun_append_wfFrom (Nat.le_refl (k + 1)) hr']

theorem Sparse.dropWhile_wfFrom {n : Nat} : ∀ {m : Sparse α} {lo : Nat}, Sparse.wfFrom d lo m = true →
    Sparse.wfFrom d (max lo n) (m.dropWhile (fun e => decide (e.1 < n))) = true
  | [], _, _ => rfl
  | (i, u) :: t, lo, hm => by
    have hm' := hm
    simp only [Sparse.wfFrom, Bool.and_eq_true, decide_eq_true_eq] at hm'
    obtain ⟨⟨h1, h2⟩, h3⟩ := hm'
    rw [List.dropWhile_cons]
    split
    · next hi =>
      simp only [decide_eq_true_eq] at hi
      exact Sparse.wfFrom_mono (by omega) (Sparse.dropWhile_wfFrom h3)
    · next hi =>
      simp only [decide_eq_true_eq, not_lt] at hi
      simp only [Sparse.wfFrom, Bool.and_eq_true, decide_eq_true_eq]
      exact ⟨⟨by omega, h2⟩, h3⟩

theorem Sparse.takeWhile_append_wfFrom {n : Nat} {r : Sparse α} : ∀ {m : Sparse α} {lo : Nat}, lo ≤ n →
    Sparse.wfFrom d lo m = true → Sparse.wfFrom d n r = true →
    Sparse.wfFrom d lo (m.takeWhile (fun e => decide (e.1 < n)) ++ r) = true
  | [], _, hn, _, hr => by simpa using Sparse.wfFrom_mono hn hr
  | (i, u) :: t, lo, hn, hm, hr => by
    simp only [Sparse.wfFrom, Bool.and_eq_true, decide_eq_true_eq] at hm
    obtain ⟨⟨h1, h2⟩, h3⟩ := hm
    rw [List.takeWhile_cons]
    split
    · next hi =>
      simp only [decide_eq_true_eq] at hi
      simp only [List.cons_append, Sparse.wfFrom, Bool.and_eq_true, decide_eq_true_eq]
      exact ⟨⟨h1, h2⟩, Sparse.takeWhile_append_wfFrom (by omega) h3 hr⟩
    · simpa using Sparse.wfFrom_mono hn hr

/-- A write of a run keeps the canonical form. -/
theorem Sparse.putRun_wf {k : Nat} {vs : List α} {m : Sparse α} (h : Sparse.wf d m = true) :
    Sparse.wf d (Sparse.putRun d k vs m) = true := by
  unfold Sparse.putRun Sparse.wf
  rw [List.append_assoc]
  refine Sparse.takeWhile_append_wfFrom (Nat.zero_le _) h (Sparse.ofRun_append_wfFrom (Nat.le_refl _) ?_)
  exact Sparse.wfFrom_mono (by omega) (Sparse.dropWhile_wfFrom (n := k + vs.length) h)

/-! ### Reads after writes -/

omit [DecidableEq α] in
theorem Sparse.get_filter_ne {k j : Nat} (hj : j ≠ k) : ∀ (m : Sparse α),
    Sparse.get d j (m.filter (fun e => decide (e.1 ≠ k))) = Sparse.get d j m
  | [] => rfl
  | (i, u) :: t => by
    rw [List.filter_cons]
    split
    · simp only [Sparse.get]; split
      · rfl
      · exact Sparse.get_filter_ne hj t
    · next h =>
      simp only [decide_eq_true_eq, not_not] at h
      have : i ≠ j := by omega
      simp only [Sparse.get, this, if_false]; exact Sparse.get_filter_ne hj t

omit [DecidableEq α] in
theorem Sparse.get_filter_same {k : Nat} : ∀ (m : Sparse α),
    Sparse.get d k (m.filter (fun e => decide (e.1 ≠ k))) = d
  | [] => rfl
  | (i, u) :: t => by
    rw [List.filter_cons]
    split
    · next h =>
      simp only [decide_eq_true_eq] at h
      simp only [Sparse.get, h, if_false]; exact Sparse.get_filter_same t
    · exact Sparse.get_filter_same t

omit [DecidableEq α] in
theorem Sparse.get_insert {k j : Nat} {v : α} : ∀ (m : Sparse α),
    Sparse.get d j (Sparse.insert k v m) = if j = k then v else Sparse.get d j m
  | [] => by
    by_cases h : j = k
    · simp [Sparse.insert, Sparse.get, h]
    · simp [Sparse.insert, Sparse.get, h, Ne.symm h]
  | (i, u) :: t => by
    unfold Sparse.insert
    split
    · next h =>
      subst h
      by_cases h : j = i
      · simp [Sparse.get, h]
      · simp [Sparse.get, h, Ne.symm h]
    · split
      · by_cases h : j = k
        · simp [Sparse.get, h]
        · simp [Sparse.get, h, Ne.symm h]
      · next h1 h2 =>
        simp only [Sparse.get, Sparse.get_insert t]
        by_cases h : j = k
        · subst h; simp [h1]
        · simp [h]

/-- What a read gives after a write. -/
theorem Sparse.get_put {k j : Nat} {v : α} {m : Sparse α} :
    Sparse.get d j (Sparse.put d k v m) = if j = k then v else Sparse.get d j m := by
  unfold Sparse.put
  split
  · next hv =>
    split
    · next h => rw [h, hv]; exact Sparse.get_filter_same m
    · next h => exact Sparse.get_filter_ne h m
  · exact Sparse.get_insert m

/-- A read of the key written gives the value written. -/
@[simp] theorem Sparse.get_put_same {k : Nat} {v : α} {m : Sparse α} :
    Sparse.get d k (Sparse.put d k v m) = v := by simp [Sparse.get_put]

/-- A write leaves every other key alone. -/
theorem Sparse.get_put_other {k j : Nat} {v : α} {m : Sparse α} (hj : j ≠ k) :
    Sparse.get d j (Sparse.put d k v m) = Sparse.get d j m := by simp [Sparse.get_put, hj]

@[simp] theorem Sparse.get_upd_same {k : Nat} {f : α → α} {m : Sparse α} :
    Sparse.get d k (Sparse.upd d k f m) = f (Sparse.get d k m) := Sparse.get_put_same

theorem Sparse.get_upd_other {k j : Nat} {f : α → α} {m : Sparse α} (hj : j ≠ k) :
    Sparse.get d j (Sparse.upd d k f m) = Sparse.get d j m := Sparse.get_put_other hj

/-- What a read gives after a change of every value that leaves the default alone, whatever the list. -/
theorem Sparse.get_mapVals {k : Nat} {f : Nat → α → α} (hf : f k d = d) : ∀ (m : Sparse α),
    Sparse.get d k (Sparse.mapVals d f m) = f k (Sparse.get d k m)
  | [] => by simp [Sparse.mapVals, Sparse.get, hf]
  | (i, u) :: t => by
    unfold Sparse.mapVals
    by_cases h : i = k
    · subst h
      split
      · next hv => rw [Sparse.get_filter_same]; simp [Sparse.get, hv]
      · simp [Sparse.get]
    · split
      · rw [Sparse.get_filter_ne (Ne.symm h), Sparse.get_mapVals hf t]; simp [Sparse.get, h]
      · simp only [Sparse.get, h, if_false]; exact Sparse.get_mapVals hf t

omit [DecidableEq α] in
@[simp] theorem Sparse.get_nil {k : Nat} : Sparse.get d k [] = d := rfl

end Sys2Proof
end

