-- ==== Sys2Proof/Laws/State.lean ====
section
/-! SUPPORT. What each update of the state leaves alone, field by field, and what it changes. -/
namespace Sys2Proof.Machine

/-! ### setCore -/

@[simp] theorem State.setCore_agenda (s : State) (c : Nat) (k : Core) : (s.setCore c k).agenda = s.agenda := rfl
@[simp] theorem State.setCore_cur (s : State) (c : Nat) (k : Core) : (s.setCore c k).cur = s.cur := rfl
@[simp] theorem State.setCore_free (s : State) (c : Nat) (k : Core) : (s.setCore c k).free = s.free := rfl
@[simp] theorem State.setCore_dies (s : State) (c : Nat) (k : Core) : (s.setCore c k).dies = s.dies := rfl
@[simp] theorem State.setCore_mem (s : State) (c : Nat) (k : Core) : (s.setCore c k).mem = s.mem := rfl
@[simp] theorem State.setCore_hallmarks (s : State) (c : Nat) (k : Core) : (s.setCore c k).hallmarks = s.hallmarks := rfl
@[simp] theorem State.setCore_badGranules (s : State) (c : Nat) (k : Core) : (s.setCore c k).badGranules = s.badGranules := rfl
@[simp] theorem State.setCore_stackTab (s : State) (c : Nat) (k : Core) : (s.setCore c k).stackTab = s.stackTab := rfl
@[simp] theorem State.setCore_cxlSize (s : State) (c : Nat) (k : Core) : (s.setCore c k).cxlSize = s.cxlSize := rfl
@[simp] theorem State.setCore_cxlWrites (s : State) (c : Nat) (k : Core) : (s.setCore c k).cxlWrites = s.cxlWrites := rfl
@[simp] theorem State.setCore_gens (s : State) (c : Nat) (k : Core) : (s.setCore c k).gens = s.gens := rfl
@[simp] theorem State.setCore_links (s : State) (c : Nat) (k : Core) : (s.setCore c k).links = s.links := rfl
@[simp] theorem State.setCore_ports (s : State) (c : Nat) (k : Core) : (s.setCore c k).ports = s.ports := rfl
@[simp] theorem State.setCore_rot (s : State) (c : Nat) (k : Core) : (s.setCore c k).rot = s.rot := rfl
@[simp] theorem State.setCore_nextWid (s : State) (c : Nat) (k : Core) : (s.setCore c k).nextWid = s.nextWid := rfl
@[simp] theorem State.setCore_discards (s : State) (c : Nat) (k : Core) : (s.setCore c k).discards = s.discards := rfl
@[simp] theorem State.setCore_tenancies (s : State) (c : Nat) (k : Core) : (s.setCore c k).tenancies = s.tenancies := rfl
@[simp] theorem State.setCore_genStates (s : State) (c : Nat) (k : Core) : (s.setCore c k).genStates = s.genStates := rfl
@[simp] theorem State.setCore_lastGen (s : State) (c : Nat) (k : Core) : (s.setCore c k).lastGen = s.lastGen := rfl
@[simp] theorem State.setCore_lastSerial (s : State) (c : Nat) (k : Core) : (s.setCore c k).lastSerial = s.lastSerial := rfl
@[simp] theorem State.setCore_deferred (s : State) (c : Nat) (k : Core) : (s.setCore c k).deferred = s.deferred := rfl
@[simp] theorem State.setCore_linkTab (s : State) (c : Nat) (k : Core) : (s.setCore c k).linkTab = s.linkTab := rfl
@[simp] theorem State.setCore_io (s : State) (c : Nat) (k : Core) : (s.setCore c k).io = s.io := rfl
@[simp] theorem State.setCore_trust (s : State) (c : Nat) (k : Core) : (s.setCore c k).trust = s.trust := rfl
@[simp] theorem State.setCore_nextLaunch (s : State) (c : Nat) (k : Core) : (s.setCore c k).nextLaunch = s.nextLaunch := rfl
@[simp] theorem State.setCore_lqFlags (s : State) (c : Nat) (k : Core) : (s.setCore c k).lqFlags = s.lqFlags := rfl
@[simp] theorem State.setCore_serials (s : State) (c : Nat) (k : Core) : (s.setCore c k).serials = s.serials := rfl

/-! ### updCore -/

@[simp] theorem State.updCore_agenda (s : State) (c : Nat) (f : Core → Core) : (s.updCore c f).agenda = s.agenda := rfl
@[simp] theorem State.updCore_cur (s : State) (c : Nat) (f : Core → Core) : (s.updCore c f).cur = s.cur := rfl
@[simp] theorem State.updCore_free (s : State) (c : Nat) (f : Core → Core) : (s.updCore c f).free = s.free := rfl
@[simp] theorem State.updCore_dies (s : State) (c : Nat) (f : Core → Core) : (s.updCore c f).dies = s.dies := rfl
@[simp] theorem State.updCore_mem (s : State) (c : Nat) (f : Core → Core) : (s.updCore c f).mem = s.mem := rfl
@[simp] theorem State.updCore_hallmarks (s : State) (c : Nat) (f : Core → Core) : (s.updCore c f).hallmarks = s.hallmarks := rfl
@[simp] theorem State.updCore_badGranules (s : State) (c : Nat) (f : Core → Core) : (s.updCore c f).badGranules = s.badGranules := rfl
@[simp] theorem State.updCore_stackTab (s : State) (c : Nat) (f : Core → Core) : (s.updCore c f).stackTab = s.stackTab := rfl
@[simp] theorem State.updCore_cxlSize (s : State) (c : Nat) (f : Core → Core) : (s.updCore c f).cxlSize = s.cxlSize := rfl
@[simp] theorem State.updCore_cxlWrites (s : State) (c : Nat) (f : Core → Core) : (s.updCore c f).cxlWrites = s.cxlWrites := rfl
@[simp] theorem State.updCore_gens (s : State) (c : Nat) (f : Core → Core) : (s.updCore c f).gens = s.gens := rfl
@[simp] theorem State.updCore_links (s : State) (c : Nat) (f : Core → Core) : (s.updCore c f).links = s.links := rfl
@[simp] theorem State.updCore_ports (s : State) (c : Nat) (f : Core → Core) : (s.updCore c f).ports = s.ports := rfl
@[simp] theorem State.updCore_rot (s : State) (c : Nat) (f : Core → Core) : (s.updCore c f).rot = s.rot := rfl
@[simp] theorem State.updCore_nextWid (s : State) (c : Nat) (f : Core → Core) : (s.updCore c f).nextWid = s.nextWid := rfl
@[simp] theorem State.updCore_discards (s : State) (c : Nat) (f : Core → Core) : (s.updCore c f).discards = s.discards := rfl
@[simp] theorem State.updCore_tenancies (s : State) (c : Nat) (f : Core → Core) : (s.updCore c f).tenancies = s.tenancies := rfl
@[simp] theorem State.updCore_genStates (s : State) (c : Nat) (f : Core → Core) : (s.updCore c f).genStates = s.genStates := rfl
@[simp] theorem State.updCore_lastGen (s : State) (c : Nat) (f : Core → Core) : (s.updCore c f).lastGen = s.lastGen := rfl
@[simp] theorem State.updCore_lastSerial (s : State) (c : Nat) (f : Core → Core) : (s.updCore c f).lastSerial = s.lastSerial := rfl
@[simp] theorem State.updCore_deferred (s : State) (c : Nat) (f : Core → Core) : (s.updCore c f).deferred = s.deferred := rfl
@[simp] theorem State.updCore_linkTab (s : State) (c : Nat) (f : Core → Core) : (s.updCore c f).linkTab = s.linkTab := rfl
@[simp] theorem State.updCore_io (s : State) (c : Nat) (f : Core → Core) : (s.updCore c f).io = s.io := rfl
@[simp] theorem State.updCore_trust (s : State) (c : Nat) (f : Core → Core) : (s.updCore c f).trust = s.trust := rfl
@[simp] theorem State.updCore_nextLaunch (s : State) (c : Nat) (f : Core → Core) : (s.updCore c f).nextLaunch = s.nextLaunch := rfl
@[simp] theorem State.updCore_lqFlags (s : State) (c : Nat) (f : Core → Core) : (s.updCore c f).lqFlags = s.lqFlags := rfl
@[simp] theorem State.updCore_serials (s : State) (c : Nat) (f : Core → Core) : (s.updCore c f).serials = s.serials := rfl

/-! ### updK -/

@[simp] theorem State.updK_agenda (s : State) (f : Core → Core) : (s.updK f).agenda = s.agenda := rfl
@[simp] theorem State.updK_cur (s : State) (f : Core → Core) : (s.updK f).cur = s.cur := rfl
@[simp] theorem State.updK_free (s : State) (f : Core → Core) : (s.updK f).free = s.free := rfl
@[simp] theorem State.updK_dies (s : State) (f : Core → Core) : (s.updK f).dies = s.dies := rfl
@[simp] theorem State.updK_mem (s : State) (f : Core → Core) : (s.updK f).mem = s.mem := rfl
@[simp] theorem State.updK_hallmarks (s : State) (f : Core → Core) : (s.updK f).hallmarks = s.hallmarks := rfl
@[simp] theorem State.updK_badGranules (s : State) (f : Core → Core) : (s.updK f).badGranules = s.badGranules := rfl
@[simp] theorem State.updK_stackTab (s : State) (f : Core → Core) : (s.updK f).stackTab = s.stackTab := rfl
@[simp] theorem State.updK_cxlSize (s : State) (f : Core → Core) : (s.updK f).cxlSize = s.cxlSize := rfl
@[simp] theorem State.updK_cxlWrites (s : State) (f : Core → Core) : (s.updK f).cxlWrites = s.cxlWrites := rfl
@[simp] theorem State.updK_gens (s : State) (f : Core → Core) : (s.updK f).gens = s.gens := rfl
@[simp] theorem State.updK_links (s : State) (f : Core → Core) : (s.updK f).links = s.links := rfl
@[simp] theorem State.updK_ports (s : State) (f : Core → Core) : (s.updK f).ports = s.ports := rfl
@[simp] theorem State.updK_rot (s : State) (f : Core → Core) : (s.updK f).rot = s.rot := rfl
@[simp] theorem State.updK_nextWid (s : State) (f : Core → Core) : (s.updK f).nextWid = s.nextWid := rfl
@[simp] theorem State.updK_discards (s : State) (f : Core → Core) : (s.updK f).discards = s.discards := rfl
@[simp] theorem State.updK_tenancies (s : State) (f : Core → Core) : (s.updK f).tenancies = s.tenancies := rfl
@[simp] theorem State.updK_genStates (s : State) (f : Core → Core) : (s.updK f).genStates = s.genStates := rfl
@[simp] theorem State.updK_lastGen (s : State) (f : Core → Core) : (s.updK f).lastGen = s.lastGen := rfl
@[simp] theorem State.updK_lastSerial (s : State) (f : Core → Core) : (s.updK f).lastSerial = s.lastSerial := rfl
@[simp] theorem State.updK_deferred (s : State) (f : Core → Core) : (s.updK f).deferred = s.deferred := rfl
@[simp] theorem State.updK_linkTab (s : State) (f : Core → Core) : (s.updK f).linkTab = s.linkTab := rfl
@[simp] theorem State.updK_io (s : State) (f : Core → Core) : (s.updK f).io = s.io := rfl
@[simp] theorem State.updK_trust (s : State) (f : Core → Core) : (s.updK f).trust = s.trust := rfl
@[simp] theorem State.updK_nextLaunch (s : State) (f : Core → Core) : (s.updK f).nextLaunch = s.nextLaunch := rfl
@[simp] theorem State.updK_lqFlags (s : State) (f : Core → Core) : (s.updK f).lqFlags = s.lqFlags := rfl
@[simp] theorem State.updK_serials (s : State) (f : Core → Core) : (s.updK f).serials = s.serials := rfl

/-! ### updDie -/

@[simp] theorem State.updDie_agenda (s : State) (d : Nat) (f : Die → Die) : (s.updDie d f).agenda = s.agenda := rfl
@[simp] theorem State.updDie_cur (s : State) (d : Nat) (f : Die → Die) : (s.updDie d f).cur = s.cur := rfl
@[simp] theorem State.updDie_free (s : State) (d : Nat) (f : Die → Die) : (s.updDie d f).free = s.free := rfl
@[simp] theorem State.updDie_cores (s : State) (d : Nat) (f : Die → Die) : (s.updDie d f).cores = s.cores := rfl
@[simp] theorem State.updDie_mem (s : State) (d : Nat) (f : Die → Die) : (s.updDie d f).mem = s.mem := rfl
@[simp] theorem State.updDie_hallmarks (s : State) (d : Nat) (f : Die → Die) : (s.updDie d f).hallmarks = s.hallmarks := rfl
@[simp] theorem State.updDie_badGranules (s : State) (d : Nat) (f : Die → Die) : (s.updDie d f).badGranules = s.badGranules := rfl
@[simp] theorem State.updDie_stackTab (s : State) (d : Nat) (f : Die → Die) : (s.updDie d f).stackTab = s.stackTab := rfl
@[simp] theorem State.updDie_cxlSize (s : State) (d : Nat) (f : Die → Die) : (s.updDie d f).cxlSize = s.cxlSize := rfl
@[simp] theorem State.updDie_cxlWrites (s : State) (d : Nat) (f : Die → Die) : (s.updDie d f).cxlWrites = s.cxlWrites := rfl
@[simp] theorem State.updDie_gens (s : State) (d : Nat) (f : Die → Die) : (s.updDie d f).gens = s.gens := rfl
@[simp] theorem State.updDie_links (s : State) (d : Nat) (f : Die → Die) : (s.updDie d f).links = s.links := rfl
@[simp] theorem State.updDie_ports (s : State) (d : Nat) (f : Die → Die) : (s.updDie d f).ports = s.ports := rfl
@[simp] theorem State.updDie_rot (s : State) (d : Nat) (f : Die → Die) : (s.updDie d f).rot = s.rot := rfl
@[simp] theorem State.updDie_nextWid (s : State) (d : Nat) (f : Die → Die) : (s.updDie d f).nextWid = s.nextWid := rfl
@[simp] theorem State.updDie_discards (s : State) (d : Nat) (f : Die → Die) : (s.updDie d f).discards = s.discards := rfl
@[simp] theorem State.updDie_tenancies (s : State) (d : Nat) (f : Die → Die) : (s.updDie d f).tenancies = s.tenancies := rfl
@[simp] theorem State.updDie_genStates (s : State) (d : Nat) (f : Die → Die) : (s.updDie d f).genStates = s.genStates := rfl
@[simp] theorem State.updDie_lastGen (s : State) (d : Nat) (f : Die → Die) : (s.updDie d f).lastGen = s.lastGen := rfl
@[simp] theorem State.updDie_lastSerial (s : State) (d : Nat) (f : Die → Die) : (s.updDie d f).lastSerial = s.lastSerial := rfl
@[simp] theorem State.updDie_deferred (s : State) (d : Nat) (f : Die → Die) : (s.updDie d f).deferred = s.deferred := rfl
@[simp] theorem State.updDie_linkTab (s : State) (d : Nat) (f : Die → Die) : (s.updDie d f).linkTab = s.linkTab := rfl
@[simp] theorem State.updDie_io (s : State) (d : Nat) (f : Die → Die) : (s.updDie d f).io = s.io := rfl
@[simp] theorem State.updDie_trust (s : State) (d : Nat) (f : Die → Die) : (s.updDie d f).trust = s.trust := rfl
@[simp] theorem State.updDie_nextLaunch (s : State) (d : Nat) (f : Die → Die) : (s.updDie d f).nextLaunch = s.nextLaunch := rfl
@[simp] theorem State.updDie_lqFlags (s : State) (d : Nat) (f : Die → Die) : (s.updDie d f).lqFlags = s.lqFlags := rfl
@[simp] theorem State.updDie_serials (s : State) (d : Nat) (f : Die → Die) : (s.updDie d f).serials = s.serials := rfl

/-! ### updStack -/

@[simp] theorem State.updStack_agenda (s : State) (k : Nat) (f : Stack → Stack) : (s.updStack k f).agenda = s.agenda := rfl
@[simp] theorem State.updStack_cur (s : State) (k : Nat) (f : Stack → Stack) : (s.updStack k f).cur = s.cur := rfl
@[simp] theorem State.updStack_free (s : State) (k : Nat) (f : Stack → Stack) : (s.updStack k f).free = s.free := rfl
@[simp] theorem State.updStack_cores (s : State) (k : Nat) (f : Stack → Stack) : (s.updStack k f).cores = s.cores := rfl
@[simp] theorem State.updStack_dies (s : State) (k : Nat) (f : Stack → Stack) : (s.updStack k f).dies = s.dies := rfl
@[simp] theorem State.updStack_mem (s : State) (k : Nat) (f : Stack → Stack) : (s.updStack k f).mem = s.mem := rfl
@[simp] theorem State.updStack_hallmarks (s : State) (k : Nat) (f : Stack → Stack) : (s.updStack k f).hallmarks = s.hallmarks := rfl
@[simp] theorem State.updStack_badGranules (s : State) (k : Nat) (f : Stack → Stack) : (s.updStack k f).badGranules = s.badGranules := rfl
@[simp] theorem State.updStack_cxlSize (s : State) (k : Nat) (f : Stack → Stack) : (s.updStack k f).cxlSize = s.cxlSize := rfl
@[simp] theorem State.updStack_cxlWrites (s : State) (k : Nat) (f : Stack → Stack) : (s.updStack k f).cxlWrites = s.cxlWrites := rfl
@[simp] theorem State.updStack_gens (s : State) (k : Nat) (f : Stack → Stack) : (s.updStack k f).gens = s.gens := rfl
@[simp] theorem State.updStack_links (s : State) (k : Nat) (f : Stack → Stack) : (s.updStack k f).links = s.links := rfl
@[simp] theorem State.updStack_ports (s : State) (k : Nat) (f : Stack → Stack) : (s.updStack k f).ports = s.ports := rfl
@[simp] theorem State.updStack_rot (s : State) (k : Nat) (f : Stack → Stack) : (s.updStack k f).rot = s.rot := rfl
@[simp] theorem State.updStack_nextWid (s : State) (k : Nat) (f : Stack → Stack) : (s.updStack k f).nextWid = s.nextWid := rfl
@[simp] theorem State.updStack_discards (s : State) (k : Nat) (f : Stack → Stack) : (s.updStack k f).discards = s.discards := rfl
@[simp] theorem State.updStack_tenancies (s : State) (k : Nat) (f : Stack → Stack) : (s.updStack k f).tenancies = s.tenancies := rfl
@[simp] theorem State.updStack_genStates (s : State) (k : Nat) (f : Stack → Stack) : (s.updStack k f).genStates = s.genStates := rfl
@[simp] theorem State.updStack_lastGen (s : State) (k : Nat) (f : Stack → Stack) : (s.updStack k f).lastGen = s.lastGen := rfl
@[simp] theorem State.updStack_lastSerial (s : State) (k : Nat) (f : Stack → Stack) : (s.updStack k f).lastSerial = s.lastSerial := rfl
@[simp] theorem State.updStack_deferred (s : State) (k : Nat) (f : Stack → Stack) : (s.updStack k f).deferred = s.deferred := rfl
@[simp] theorem State.updStack_linkTab (s : State) (k : Nat) (f : Stack → Stack) : (s.updStack k f).linkTab = s.linkTab := rfl
@[simp] theorem State.updStack_io (s : State) (k : Nat) (f : Stack → Stack) : (s.updStack k f).io = s.io := rfl
@[simp] theorem State.updStack_trust (s : State) (k : Nat) (f : Stack → Stack) : (s.updStack k f).trust = s.trust := rfl
@[simp] theorem State.updStack_nextLaunch (s : State) (k : Nat) (f : Stack → Stack) : (s.updStack k f).nextLaunch = s.nextLaunch := rfl
@[simp] theorem State.updStack_lqFlags (s : State) (k : Nat) (f : Stack → Stack) : (s.updStack k f).lqFlags = s.lqFlags := rfl
@[simp] theorem State.updStack_serials (s : State) (k : Nat) (f : Stack → Stack) : (s.updStack k f).serials = s.serials := rfl

/-! ### updLink -/

@[simp] theorem State.updLink_agenda (s : State) (l : Nat) (f : Link → Link) : (s.updLink l f).agenda = s.agenda := rfl
@[simp] theorem State.updLink_cur (s : State) (l : Nat) (f : Link → Link) : (s.updLink l f).cur = s.cur := rfl
@[simp] theorem State.updLink_free (s : State) (l : Nat) (f : Link → Link) : (s.updLink l f).free = s.free := rfl
@[simp] theorem State.updLink_cores (s : State) (l : Nat) (f : Link → Link) : (s.updLink l f).cores = s.cores := rfl
@[simp] theorem State.updLink_dies (s : State) (l : Nat) (f : Link → Link) : (s.updLink l f).dies = s.dies := rfl
@[simp] theorem State.updLink_mem (s : State) (l : Nat) (f : Link → Link) : (s.updLink l f).mem = s.mem := rfl
@[simp] theorem State.updLink_hallmarks (s : State) (l : Nat) (f : Link → Link) : (s.updLink l f).hallmarks = s.hallmarks := rfl
@[simp] theorem State.updLink_badGranules (s : State) (l : Nat) (f : Link → Link) : (s.updLink l f).badGranules = s.badGranules := rfl
@[simp] theorem State.updLink_stackTab (s : State) (l : Nat) (f : Link → Link) : (s.updLink l f).stackTab = s.stackTab := rfl
@[simp] theorem State.updLink_cxlSize (s : State) (l : Nat) (f : Link → Link) : (s.updLink l f).cxlSize = s.cxlSize := rfl
@[simp] theorem State.updLink_cxlWrites (s : State) (l : Nat) (f : Link → Link) : (s.updLink l f).cxlWrites = s.cxlWrites := rfl
@[simp] theorem State.updLink_gens (s : State) (l : Nat) (f : Link → Link) : (s.updLink l f).gens = s.gens := rfl
@[simp] theorem State.updLink_links (s : State) (l : Nat) (f : Link → Link) : (s.updLink l f).links = s.links := rfl
@[simp] theorem State.updLink_ports (s : State) (l : Nat) (f : Link → Link) : (s.updLink l f).ports = s.ports := rfl
@[simp] theorem State.updLink_rot (s : State) (l : Nat) (f : Link → Link) : (s.updLink l f).rot = s.rot := rfl
@[simp] theorem State.updLink_nextWid (s : State) (l : Nat) (f : Link → Link) : (s.updLink l f).nextWid = s.nextWid := rfl
@[simp] theorem State.updLink_discards (s : State) (l : Nat) (f : Link → Link) : (s.updLink l f).discards = s.discards := rfl
@[simp] theorem State.updLink_tenancies (s : State) (l : Nat) (f : Link → Link) : (s.updLink l f).tenancies = s.tenancies := rfl
@[simp] theorem State.updLink_genStates (s : State) (l : Nat) (f : Link → Link) : (s.updLink l f).genStates = s.genStates := rfl
@[simp] theorem State.updLink_lastGen (s : State) (l : Nat) (f : Link → Link) : (s.updLink l f).lastGen = s.lastGen := rfl
@[simp] theorem State.updLink_lastSerial (s : State) (l : Nat) (f : Link → Link) : (s.updLink l f).lastSerial = s.lastSerial := rfl
@[simp] theorem State.updLink_deferred (s : State) (l : Nat) (f : Link → Link) : (s.updLink l f).deferred = s.deferred := rfl
@[simp] theorem State.updLink_io (s : State) (l : Nat) (f : Link → Link) : (s.updLink l f).io = s.io := rfl
@[simp] theorem State.updLink_trust (s : State) (l : Nat) (f : Link → Link) : (s.updLink l f).trust = s.trust := rfl
@[simp] theorem State.updLink_nextLaunch (s : State) (l : Nat) (f : Link → Link) : (s.updLink l f).nextLaunch = s.nextLaunch := rfl
@[simp] theorem State.updLink_lqFlags (s : State) (l : Nat) (f : Link → Link) : (s.updLink l f).lqFlags = s.lqFlags := rfl
@[simp] theorem State.updLink_serials (s : State) (l : Nat) (f : Link → Link) : (s.updLink l f).serials = s.serials := rfl

/-! ### discard -/

@[simp] theorem State.discard_agenda (s : State) (g : Hm) : (s.discard g).agenda = s.agenda := rfl
@[simp] theorem State.discard_cur (s : State) (g : Hm) : (s.discard g).cur = s.cur := rfl
@[simp] theorem State.discard_free (s : State) (g : Hm) : (s.discard g).free = s.free := rfl
@[simp] theorem State.discard_cores (s : State) (g : Hm) : (s.discard g).cores = s.cores := rfl
@[simp] theorem State.discard_dies (s : State) (g : Hm) : (s.discard g).dies = s.dies := rfl
@[simp] theorem State.discard_mem (s : State) (g : Hm) : (s.discard g).mem = s.mem := rfl
@[simp] theorem State.discard_hallmarks (s : State) (g : Hm) : (s.discard g).hallmarks = s.hallmarks := rfl
@[simp] theorem State.discard_badGranules (s : State) (g : Hm) : (s.discard g).badGranules = s.badGranules := rfl
@[simp] theorem State.discard_stackTab (s : State) (g : Hm) : (s.discard g).stackTab = s.stackTab := rfl
@[simp] theorem State.discard_cxlSize (s : State) (g : Hm) : (s.discard g).cxlSize = s.cxlSize := rfl
@[simp] theorem State.discard_cxlWrites (s : State) (g : Hm) : (s.discard g).cxlWrites = s.cxlWrites := rfl
@[simp] theorem State.discard_gens (s : State) (g : Hm) : (s.discard g).gens = s.gens := rfl
@[simp] theorem State.discard_links (s : State) (g : Hm) : (s.discard g).links = s.links := rfl
@[simp] theorem State.discard_ports (s : State) (g : Hm) : (s.discard g).ports = s.ports := rfl
@[simp] theorem State.discard_rot (s : State) (g : Hm) : (s.discard g).rot = s.rot := rfl
@[simp] theorem State.discard_nextWid (s : State) (g : Hm) : (s.discard g).nextWid = s.nextWid := rfl
@[simp] theorem State.discard_tenancies (s : State) (g : Hm) : (s.discard g).tenancies = s.tenancies := rfl
@[simp] theorem State.discard_genStates (s : State) (g : Hm) : (s.discard g).genStates = s.genStates := rfl
@[simp] theorem State.discard_lastGen (s : State) (g : Hm) : (s.discard g).lastGen = s.lastGen := rfl
@[simp] theorem State.discard_lastSerial (s : State) (g : Hm) : (s.discard g).lastSerial = s.lastSerial := rfl
@[simp] theorem State.discard_deferred (s : State) (g : Hm) : (s.discard g).deferred = s.deferred := rfl
@[simp] theorem State.discard_linkTab (s : State) (g : Hm) : (s.discard g).linkTab = s.linkTab := rfl
@[simp] theorem State.discard_io (s : State) (g : Hm) : (s.discard g).io = s.io := rfl
@[simp] theorem State.discard_trust (s : State) (g : Hm) : (s.discard g).trust = s.trust := rfl
@[simp] theorem State.discard_nextLaunch (s : State) (g : Hm) : (s.discard g).nextLaunch = s.nextLaunch := rfl
@[simp] theorem State.discard_lqFlags (s : State) (g : Hm) : (s.discard g).lqFlags = s.lqFlags := rfl
@[simp] theorem State.discard_serials (s : State) (g : Hm) : (s.discard g).serials = s.serials := rfl

/-! ### jump -/

@[simp] theorem State.jump_agenda (s : State) (a : Addr) : (s.jump a).agenda = s.agenda := rfl
@[simp] theorem State.jump_free (s : State) (a : Addr) : (s.jump a).free = s.free := rfl
@[simp] theorem State.jump_cores (s : State) (a : Addr) : (s.jump a).cores = s.cores := rfl
@[simp] theorem State.jump_dies (s : State) (a : Addr) : (s.jump a).dies = s.dies := rfl
@[simp] theorem State.jump_mem (s : State) (a : Addr) : (s.jump a).mem = s.mem := rfl
@[simp] theorem State.jump_hallmarks (s : State) (a : Addr) : (s.jump a).hallmarks = s.hallmarks := rfl
@[simp] theorem State.jump_badGranules (s : State) (a : Addr) : (s.jump a).badGranules = s.badGranules := rfl
@[simp] theorem State.jump_stackTab (s : State) (a : Addr) : (s.jump a).stackTab = s.stackTab := rfl
@[simp] theorem State.jump_cxlSize (s : State) (a : Addr) : (s.jump a).cxlSize = s.cxlSize := rfl
@[simp] theorem State.jump_cxlWrites (s : State) (a : Addr) : (s.jump a).cxlWrites = s.cxlWrites := rfl
@[simp] theorem State.jump_gens (s : State) (a : Addr) : (s.jump a).gens = s.gens := rfl
@[simp] theorem State.jump_links (s : State) (a : Addr) : (s.jump a).links = s.links := rfl
@[simp] theorem State.jump_ports (s : State) (a : Addr) : (s.jump a).ports = s.ports := rfl
@[simp] theorem State.jump_rot (s : State) (a : Addr) : (s.jump a).rot = s.rot := rfl
@[simp] theorem State.jump_nextWid (s : State) (a : Addr) : (s.jump a).nextWid = s.nextWid := rfl
@[simp] theorem State.jump_discards (s : State) (a : Addr) : (s.jump a).discards = s.discards := rfl
@[simp] theorem State.jump_tenancies (s : State) (a : Addr) : (s.jump a).tenancies = s.tenancies := rfl
@[simp] theorem State.jump_genStates (s : State) (a : Addr) : (s.jump a).genStates = s.genStates := rfl
@[simp] theorem State.jump_lastGen (s : State) (a : Addr) : (s.jump a).lastGen = s.lastGen := rfl
@[simp] theorem State.jump_lastSerial (s : State) (a : Addr) : (s.jump a).lastSerial = s.lastSerial := rfl
@[simp] theorem State.jump_deferred (s : State) (a : Addr) : (s.jump a).deferred = s.deferred := rfl
@[simp] theorem State.jump_linkTab (s : State) (a : Addr) : (s.jump a).linkTab = s.linkTab := rfl
@[simp] theorem State.jump_io (s : State) (a : Addr) : (s.jump a).io = s.io := rfl
@[simp] theorem State.jump_trust (s : State) (a : Addr) : (s.jump a).trust = s.trust := rfl
@[simp] theorem State.jump_nextLaunch (s : State) (a : Addr) : (s.jump a).nextLaunch = s.nextLaunch := rfl
@[simp] theorem State.jump_lqFlags (s : State) (a : Addr) : (s.jump a).lqFlags = s.lqFlags := rfl
@[simp] theorem State.jump_serials (s : State) (a : Addr) : (s.jump a).serials = s.serials := rfl

/-! ### updTen -/

@[simp] theorem State.updTen_agenda (s : State) (t : Nat) (f : Tenancy → Tenancy) : (s.updTen t f).agenda = s.agenda := rfl
@[simp] theorem State.updTen_cur (s : State) (t : Nat) (f : Tenancy → Tenancy) : (s.updTen t f).cur = s.cur := rfl
@[simp] theorem State.updTen_free (s : State) (t : Nat) (f : Tenancy → Tenancy) : (s.updTen t f).free = s.free := rfl
@[simp] theorem State.updTen_cores (s : State) (t : Nat) (f : Tenancy → Tenancy) : (s.updTen t f).cores = s.cores := rfl
@[simp] theorem State.updTen_dies (s : State) (t : Nat) (f : Tenancy → Tenancy) : (s.updTen t f).dies = s.dies := rfl
@[simp] theorem State.updTen_mem (s : State) (t : Nat) (f : Tenancy → Tenancy) : (s.updTen t f).mem = s.mem := rfl
@[simp] theorem State.updTen_hallmarks (s : State) (t : Nat) (f : Tenancy → Tenancy) : (s.updTen t f).hallmarks = s.hallmarks := rfl
@[simp] theorem State.updTen_badGranules (s : State) (t : Nat) (f : Tenancy → Tenancy) : (s.updTen t f).badGranules = s.badGranules := rfl
@[simp] theorem State.updTen_stackTab (s : State) (t : Nat) (f : Tenancy → Tenancy) : (s.updTen t f).stackTab = s.stackTab := rfl
@[simp] theorem State.updTen_cxlSize (s : State) (t : Nat) (f : Tenancy → Tenancy) : (s.updTen t f).cxlSize = s.cxlSize := rfl
@[simp] theorem State.updTen_cxlWrites (s : State) (t : Nat) (f : Tenancy → Tenancy) : (s.updTen t f).cxlWrites = s.cxlWrites := rfl
@[simp] theorem State.updTen_gens (s : State) (t : Nat) (f : Tenancy → Tenancy) : (s.updTen t f).gens = s.gens := rfl
@[simp] theorem State.updTen_links (s : State) (t : Nat) (f : Tenancy → Tenancy) : (s.updTen t f).links = s.links := rfl
@[simp] theorem State.updTen_ports (s : State) (t : Nat) (f : Tenancy → Tenancy) : (s.updTen t f).ports = s.ports := rfl
@[simp] theorem State.updTen_rot (s : State) (t : Nat) (f : Tenancy → Tenancy) : (s.updTen t f).rot = s.rot := rfl
@[simp] theorem State.updTen_nextWid (s : State) (t : Nat) (f : Tenancy → Tenancy) : (s.updTen t f).nextWid = s.nextWid := rfl
@[simp] theorem State.updTen_discards (s : State) (t : Nat) (f : Tenancy → Tenancy) : (s.updTen t f).discards = s.discards := rfl
@[simp] theorem State.updTen_lqFlags (s : State) (t : Nat) (f : Tenancy → Tenancy) : (s.updTen t f).lqFlags = s.lqFlags := rfl
@[simp] theorem State.updTen_genStates (s : State) (t : Nat) (f : Tenancy → Tenancy) : (s.updTen t f).genStates = s.genStates := rfl
@[simp] theorem State.updTen_lastGen (s : State) (t : Nat) (f : Tenancy → Tenancy) : (s.updTen t f).lastGen = s.lastGen := rfl
@[simp] theorem State.updTen_lastSerial (s : State) (t : Nat) (f : Tenancy → Tenancy) : (s.updTen t f).lastSerial = s.lastSerial := rfl
@[simp] theorem State.updTen_serials (s : State) (t : Nat) (f : Tenancy → Tenancy) : (s.updTen t f).serials = s.serials := rfl
@[simp] theorem State.updTen_deferred (s : State) (t : Nat) (f : Tenancy → Tenancy) : (s.updTen t f).deferred = s.deferred := rfl
@[simp] theorem State.updTen_linkTab (s : State) (t : Nat) (f : Tenancy → Tenancy) : (s.updTen t f).linkTab = s.linkTab := rfl
@[simp] theorem State.updTen_io (s : State) (t : Nat) (f : Tenancy → Tenancy) : (s.updTen t f).io = s.io := rfl
@[simp] theorem State.updTen_trust (s : State) (t : Nat) (f : Tenancy → Tenancy) : (s.updTen t f).trust = s.trust := rfl
@[simp] theorem State.updTen_nextLaunch (s : State) (t : Nat) (f : Tenancy → Tenancy) : (s.updTen t f).nextLaunch = s.nextLaunch := rfl

/-! ### Cores, dies, stacks and links read back -/

@[simp] theorem State.core_setCore_same (s : State) (c : Nat) (k : Core) : (s.setCore c k).core c = k :=
  Sparse.get_put_same
theorem State.core_setCore (s : State) (c d : Nat) (k : Core) :
    (s.setCore c k).core d = if d = c then k else s.core d := Sparse.get_put
@[simp] theorem State.core_updCore_same (s : State) (c : Nat) (f : Core → Core) :
    (s.updCore c f).core c = f (s.core c) := Sparse.get_put_same
theorem State.core_updCore (s : State) (c d : Nat) (f : Core → Core) :
    (s.updCore c f).core d = if d = c then f (s.core c) else s.core d := Sparse.get_put
@[simp] theorem State.k_updK (s : State) (f : Core → Core) : (s.updK f).k = f s.k := Sparse.get_put_same
@[simp] theorem State.k_jump (s : State) (a : Addr) : (s.jump a).k = s.k := rfl
@[simp] theorem State.tenancy_updTen_same (s : State) (t : Nat) (f : Tenancy → Tenancy) : (s.updTen t f).tenancy t = f (s.tenancy t) :=
  Sparse.get_put_same
theorem State.tenancy_updTen (s : State) (t j : Nat) (f : Tenancy → Tenancy) :
    (s.updTen t f).tenancy j = if j = t then f (s.tenancy t) else s.tenancy j := Sparse.get_put
theorem State.core_updK (s : State) (d : Nat) (f : Core → Core) :
    (s.updK f).core d = if d = s.cur.core then f s.k else s.core d := Sparse.get_put
@[simp] theorem State.core_updDie (s : State) (d c : Nat) (f : Die → Die) : (s.updDie d f).core c = s.core c := rfl
@[simp] theorem State.die_updDie_same (s : State) (d : Nat) (f : Die → Die) : (s.updDie d f).die d = f (s.die d) :=
  Sparse.get_put_same
theorem State.die_updDie (s : State) (d e : Nat) (f : Die → Die) :
    (s.updDie d f).die e = if e = d then f (s.die d) else s.die e := Sparse.get_put
@[simp] theorem State.die_setCore (s : State) (c d : Nat) (k : Core) : (s.setCore c k).die d = s.die d := rfl
@[simp] theorem State.die_updCore (s : State) (c d : Nat) (f : Core → Core) : (s.updCore c f).die d = s.die d := rfl
@[simp] theorem State.stack_updStack_same (s : State) (k : Nat) (f : Stack → Stack) :
    (s.updStack k f).stack k = f (s.stack k) := Sparse.get_put_same
theorem State.stack_updStack (s : State) (k j : Nat) (f : Stack → Stack) :
    (s.updStack k f).stack j = if j = k then f (s.stack k) else s.stack j := Sparse.get_put
@[simp] theorem State.link_updLink_same (s : State) (l : Nat) (f : Link → Link) :
    (s.updLink l f).link l = f (s.link l) := Sparse.get_put_same
theorem State.link_updLink (s : State) (l j : Nat) (f : Link → Link) :
    (s.updLink l f).link j = if j = l then f (s.link l) else s.link j := Sparse.get_put

end Sys2Proof.Machine
end

