-- ==== Sys2Proof/Laws/Slots.lean ====
section
/-! SUPPORT. What a slot operation does in each of its three modes, and what a queued result changes. -/
namespace Sys2Proof.Machine

variable {p : BitVec 3} {reads : List Nat} {dest : Option Nat} {var : Bool}
  {v : State → Verdict} {e : State → State} {s : State}

/-- A slot with a false guard has no effect (R21). -/
theorem slotMeaning_false (h : s.guard p = false) (hm : s.cur.mode ≠ .probe) :
    slotMeaning p reads dest var v e s = .next s := by
  simp [slotMeaning, h, hm, ok]

/-- A slot of an issued bundle takes its effect. -/
theorem slotMeaning_commit (h : s.guard p = true) (hm : s.cur.mode = .commit) :
    slotMeaning p reads dest var v e s = .next (e s) := by
  simp [slotMeaning, h, hm, ok]

/-- A slot that stands alone and that nothing stops takes its effect. -/
theorem slotMeaning_whole (h : s.guard p = true) (hm : s.cur.mode = .whole)
    (ho : s.operandVerdict reads dest var = .go) (hv : v s = .go) :
    slotMeaning p reads dest var v e s = .next (e s) := by
  simp [slotMeaning, h, hm, ho, hv, ok]

/-- A slot that executes takes its effect, where its checks let it. -/
theorem slotMeaning_executes (h : s.Executes p reads dest var) (hv : v s = .go) :
    slotMeaning p reads dest var v e s = .next (e s) := by
  obtain ⟨hg, hm | ⟨hm, ho⟩⟩ := h
  · exact slotMeaning_commit hg hm
  · exact slotMeaning_whole hg hm ho hv

/-- A slot that stands alone and earns a trap takes it. -/
theorem slotMeaning_trap {cls sub code lane : Nat} {a : W64} (h : s.guard p = true) (hm : s.cur.mode = .whole)
    (ho : s.operandVerdict reads dest var = .go) (hv : v s = .trap cls sub code lane a) :
    slotMeaning p reads dest var v e s = .next (s.takeTrap ⟨cls, sub, s.cur.slot, code, lane, a⟩) := by
  simp [slotMeaning, h, hm, ho, hv, ok]

/-- The evaluation of a bundle notes a slot's verdict and changes nothing else (R100). -/
theorem slotMeaning_probe (hm : s.cur.mode = .probe) :
    ∃ w, slotMeaning p reads dest var v e s = .next { s with cur := { s.cur with verdict := w } } := by
  unfold slotMeaning
  split
  · simp only [hm, if_true, ok]
    exact ⟨_, rfl⟩
  · simp only [hm, ok]
    exact ⟨_, rfl⟩

/-- Everything a slot operation can do, said once: its effect, a noted verdict, a trap, a virtual cycle, a hold, or
nothing. -/
theorem slotMeaning_cases {t : State} (h : slotMeaning p reads dest var v e s = .next t) :
    t = e s ∨ (∃ w, t = { s with cur := { s.cur with verdict := w } }) ∨ (∃ i, t = s.takeTrap i)
      ∨ t = (s.advanceVc s.cur.core).tick s.d ∨ t = s.hold ∨ t = s := by
  simp only [slotMeaning, ok] at h
  split at h
  · split at h
    · exact .inl (Host.Outcome.next.inj h).symm
    · split at h
      · exact .inr (.inl ⟨_, (Host.Outcome.next.inj h).symm⟩)
      · split at h
        · exact .inl (Host.Outcome.next.inj h).symm
        · exact .inr (.inr (.inl ⟨_, (Host.Outcome.next.inj h).symm⟩))
        · exact .inr (.inr (.inr (.inl (Host.Outcome.next.inj h).symm)))
        · exact .inr (.inr (.inr (.inr (.inl (Host.Outcome.next.inj h).symm))))
  · split at h
    · exact .inr (.inl ⟨_, (Host.Outcome.next.inj h).symm⟩)
    · exact .inr (.inr (.inr (.inr (.inr (Host.Outcome.next.inj h).symm))))

/-- A slot operation always answers a next state. -/
theorem slotMeaning_goes : ∃ t, slotMeaning p reads dest var v e s = .next t := by
  simp only [slotMeaning, ok]
  repeat' split
  all_goals exact ⟨_, rfl⟩

/-! ### Queued results -/

/-- A queued result changes the landing queues of the core at hand and nothing else (R52). -/
theorem State.queueResult_onlyQueues (lat : Nat) (kind : LqKind) (d : Nat) (m : W32) (x : Image) (f : Flags) :
    s.OnlyQueues (s.queueResult lat kind d m x f) := by
  right
  unfold State.queueResult
  by_cases hq : (s.core s.cur.core).quick = true
  · simp only [State.updK, State.updCore, State.k, hq, if_true]; exact ⟨_, _, rfl⟩
  · simp only [State.updK, State.updCore, State.k, hq]; exact ⟨_, _, rfl⟩

theorem State.onlyQueues_refl (s : State) : s.OnlyQueues s := .inl rfl

/-- A scalar result changes the landing queues alone; one for s0 changes nothing (R67). -/
theorem State.putScalar_onlyQueues (lat n : Nat) (x : W64) : s.OnlyQueues (s.putScalar lat n x) := by
  unfold State.putScalar
  split
  · exact .inl rfl
  · exact State.queueResult_onlyQueues ..

/-- A predicate result changes the landing queues alone; one for p0 changes nothing (R70). -/
theorem State.putPred_onlyQueues (n : Nat) (x : Bool) : s.OnlyQueues (s.putPred n x) := by
  unfold State.putPred
  split
  · exact .inl rfl
  · exact State.queueResult_onlyQueues ..

/-- A vector result changes the landing queues alone. -/
theorem State.putVec_onlyQueues (lat d : Nat) (m : W32) (x : Image) (f : Flags) :
    s.OnlyQueues (s.putVec lat d m x f) := State.queueResult_onlyQueues ..

end Sys2Proof.Machine
end

