-- ==== Sys2Proof/Laws/Canonical.lean ====
section
/-! SUPPORT. Every operation of the machine keeps memory in its canonical form. -/
namespace Sys2Proof.Machine

/-- Memory is canonical in whatever next state an outcome gives. -/
@[irreducible] def OutWf (o : Out) : Prop := ∀ t, o = .next t → Memory.wf t.mem = true

theorem OutWf.next {o : Out} {t : State} (h : OutWf o) (e : o = .next t) : Memory.wf t.mem = true := by
  unfold OutWf at h; exact h t e

@[irreducible] def DecWf (x : Decision) : Prop :=
  match x with
  | .go t => Memory.wf t.mem = true
  | .wait => True
  | .stop t => Memory.wf t.mem = true
theorem DecWf.mk_go {t : State} (h : Memory.wf t.mem = true) : DecWf (.go t) := by unfold DecWf; exact h
theorem DecWf.mk_wait : DecWf .wait := by unfold DecWf; trivial
theorem DecWf.mk_stop {t : State} (h : Memory.wf t.mem = true) : DecWf (.stop t) := by unfold DecWf; exact h
theorem DecWf.go {x : Decision} {t : State} (h : DecWf x) (e : x = .go t) : Memory.wf t.mem = true := by
  subst e; unfold DecWf at h; exact h
theorem DecWf.stop {x : Decision} {t : State} (h : DecWf x) (e : x = .stop t) : Memory.wf t.mem = true := by
  subst e; unfold DecWf at h; exact h

theorem foldl_wf {α : Type} {f : State → α → State} {s : State} {l : List α}
    (hf : ∀ s x, Memory.wf s.mem = true → Memory.wf (f s x).mem = true) (h : Memory.wf s.mem = true) :
    Memory.wf (l.foldl f s).mem = true := by
  induction l generalizing s with
  | nil => exact h
  | cons x t ih => exact ih (hf s x h)

theorem ite_wf {c : Prop} [Decidable c] {a b : State} (ha : Memory.wf a.mem = true) (hb : Memory.wf b.mem = true) :
    Memory.wf (if c then a else b).mem = true := by
  split
  · exact ha
  · exact hb

theorem ok_wf {s : State} (h : Memory.wf s.mem = true) : OutWf (ok s) := by
  unfold OutWf; rintro t ⟨⟩; exact h

theorem State.writeAt_wf {s : State} (g : Hm) (a n v : Nat) (h : Memory.wf s.mem = true) :
    Memory.wf (s.writeAt g a n v).mem = true := by
  unfold State.writeAt
  dsimp only
  split
  · exact Sparse.putRun_wf h
  · split
    · exact Sparse.putRun_wf h
    · exact Sparse.putRun_wf h

theorem State.writeBytes_wf (g : Hm) : ∀ (fuel : Nat) {s : State} (a n v : Nat), Memory.wf s.mem = true →
    Memory.wf (s.writeBytes g a fuel n v).mem = true
  | 0, _, _, _, _, h => h
  | fuel + 1, s, a, n, v, h => by
    unfold State.writeBytes
    dsimp only
    split
    · exact h
    · exact State.writeBytes_wf g fuel _ _ _ (State.writeAt_wf _ _ _ _ h)

theorem State.setCore_wf {s : State} {x1 : ℕ} {x2 : Core} (h : Memory.wf s.mem = true) :
    Memory.wf (State.setCore s x1 x2).mem = true := by
  unfold State.setCore
  repeat' first
    | with_reducible exact h

theorem State.updCore_wf {s : State} {x1 : ℕ} {x2 : Core → Core} (h : Memory.wf s.mem = true) :
    Memory.wf (State.updCore s x1 x2).mem = true := by
  unfold State.updCore
  repeat' first
    | with_reducible exact h | with_reducible assumption | with_reducible apply State.setCore_wf

theorem State.updDie_wf {s : State} {x1 : ℕ} {x2 : Die → Die} (h : Memory.wf s.mem = true) :
    Memory.wf (State.updDie s x1 x2).mem = true := by
  unfold State.updDie
  repeat' first
    | with_reducible exact h

theorem State.write_wf {s : State} {x1 : Hm} {x2 : ℕ} {x3 : ℕ} {x4 : ℕ} (h : Memory.wf s.mem = true) :
    Memory.wf (State.write s x1 x2 x3 x4).mem = true := by
  unfold State.write
  repeat' first
    | with_reducible exact h | with_reducible assumption | with_reducible apply State.writeBytes_wf

theorem State.interrupt_wf {s : State} {x1 : ℕ} {x2 : ℕ} (h : Memory.wf s.mem = true) :
    Memory.wf (State.interrupt s x1 x2).mem = true := by
  unfold State.interrupt
  repeat' first
    | with_reducible exact h | with_reducible assumption | split | (intro s h) | (intro s h) | (dsimp only)

theorem State.dlaWrite_wf {s : State} {x1 : Nat} {x2 : Nat} {x3 : Nat} {x4 : Nat} (h : Memory.wf s.mem = true) :
    ∀ t, State.dlaWrite s x1 x2 x3 x4 = .ok t → Memory.wf t.mem = true := by
  intro t hh
  unfold State.dlaWrite at hh
  try dsimp only at hh
  repeat' (split at hh)
  all_goals first
    | cases hh
    | skip
  all_goals repeat' first
    | with_reducible exact h | with_reducible assumption | with_reducible apply ok_wf
    | with_reducible apply State.write_wf | with_reducible apply ok_wf | (intro s h) | (dsimp only) | split

theorem State.putRecord_wf {s : State} {x1 : Nat} {x2 : Nat} {x3 : FaultInfo} (h : Memory.wf s.mem = true) :
    Memory.wf (State.putRecord s x1 x2 x3).mem = true := by
  unfold State.putRecord
  repeat' first
    | with_reducible exact h | with_reducible assumption
    | (with_reducible refine State.dlaWrite_wf ?_ _ (by assumption)) | with_reducible apply ok_wf
    | with_reducible apply State.updDie_wf | with_reducible apply State.interrupt_wf | with_reducible apply ok_wf
    | split | (intro s h) | (dsimp only)

theorem State.addRecord_wf {s : State} {x1 : Nat} {x2 : Nat} {x3 : FaultInfo} (h : Memory.wf s.mem = true) :
    Memory.wf (State.addRecord s x1 x2 x3).mem = true := by
  unfold State.addRecord
  repeat' first
    | with_reducible exact h | with_reducible assumption | with_reducible apply State.putRecord_wf
    | with_reducible apply State.updDie_wf | split | (intro s h) | (dsimp only)

theorem State.record_wf {s : State} {x1 : Nat} {x2 : Nat} {x3 : FaultInfo} (h : Memory.wf s.mem = true) :
    Memory.wf (State.record s x1 x2 x3).mem = true := by
  unfold State.record
  repeat' first
    | with_reducible exact h | with_reducible assumption | with_reducible apply State.updDie_wf
    | with_reducible apply State.putRecord_wf | with_reducible apply State.addRecord_wf | split | (intro s h)
    | (dsimp only)

theorem State.flushReports_wf {s : State} {x1 : Nat} (h : Memory.wf s.mem = true) :
    Memory.wf (State.flushReports s x1).mem = true := by
  unfold State.flushReports
  repeat' first
    | with_reducible exact h | with_reducible assumption | with_reducible apply State.record_wf
    | with_reducible apply State.updDie_wf | (with_reducible refine foldl_wf (fun s x h => ?_) ?_) | split
    | (intro s h) | (dsimp only)

theorem State.report_wf {s : State} {x1 : Nat} {x2 : FaultInfo} (h : Memory.wf s.mem = true) :
    Memory.wf (State.report s x1 x2).mem = true := by
  unfold State.report
  repeat' first
    | with_reducible exact h | with_reducible assumption | with_reducible apply State.updDie_wf
    | with_reducible apply State.flushReports_wf | with_reducible apply State.record_wf | split | (intro s h)
    | (dsimp only)

theorem State.abandon_wf {s : State} {x1 : Nat} (h : Memory.wf s.mem = true) :
    Memory.wf (State.abandon s x1).mem = true := by
  unfold State.abandon
  repeat' first
    | with_reducible exact h | with_reducible assumption | with_reducible apply State.report_wf
    | with_reducible apply State.updCore_wf | (with_reducible refine foldl_wf (fun s x h => ?_) ?_) | split
    | (intro s h) | (dsimp only)

theorem State.abandonPacket_wf {s : State} {x1 : ℕ} {x2 : ℕ} (h : Memory.wf s.mem = true) :
    Memory.wf (State.abandonPacket s x1 x2).mem = true := by
  unfold State.abandonPacket
  repeat' first
    | with_reducible exact h | with_reducible assumption | with_reducible apply State.report_wf | split | (intro s h)
    | (intro s h) | (dsimp only)

theorem State.discard_wf {s : State} {x1 : Hm} (h : Memory.wf s.mem = true) :
    Memory.wf (State.discard s x1).mem = true := by
  unfold State.discard
  repeat' first
    | with_reducible exact h

theorem State.homeWrite_wf {s : State} {x1 : Nat} {x2 : Option Nat} {x3 : Nat} {x4 : Nat} {x5 : Nat} (h : Memory.wf s.mem = true) :
    ∀ t, State.homeWrite s x1 x2 x3 x4 x5 = .ok t → Memory.wf t.mem = true := by
  intro t hh
  unfold State.homeWrite at hh
  try dsimp only at hh
  repeat' (split at hh)
  all_goals first
    | cases hh
    | skip
  all_goals repeat' first
    | with_reducible exact h | with_reducible assumption | with_reducible apply State.write_wf
    | with_reducible apply ok_wf | with_reducible apply State.discard_wf | with_reducible apply ok_wf | (intro s h)
    | (dsimp only) | split

theorem State.putPackets_wf {d : Nat} {q : Queue} : ∀ {ws : List (BitVec 256)} {s : State} {n : Nat},
    Memory.wf s.mem = true → ∀ t, s.putPackets d q n ws = .ok t → Memory.wf t.mem = true
  | [], _, _, h, t, hh => by cases hh; exact h
  | _ :: l, s, n, h, t, hh => by
    unfold State.putPackets at hh
    split at hh
    · cases hh
    · next s1 e => exact State.putPackets_wf (ws := l) (State.homeWrite_wf h _ e) t hh

theorem State.updFlow_wf {s : State} {x1 : ℕ} {x2 : Flow → Flow} (h : Memory.wf s.mem = true) :
    Memory.wf (State.updFlow s x1 x2).mem = true := by
  unfold State.updFlow
  repeat' first
    | with_reducible exact h

theorem State.acceptFrame_wf {s : State} {x1 : Flow} {x2 : Nat} {x3 : W64} {x4 : List (BitVec 256)} (h : Memory.wf s.mem = true) :
    ∀ t, State.acceptFrame s x1 x2 x3 x4 = .ok t → Memory.wf t.mem = true := by
  intro t hh
  unfold State.acceptFrame at hh
  try dsimp only at hh
  repeat' (split at hh)
  all_goals first
    | cases hh
    | skip
  all_goals repeat' first
    | with_reducible exact h | with_reducible assumption
    | (with_reducible refine State.putPackets_wf ?_ _ (by assumption))
    | (with_reducible refine State.homeWrite_wf ?_ _ (by assumption)) | with_reducible apply State.updFlow_wf
    | (intro s h) | (dsimp only) | split

theorem State.setGenState_wf {s : State} {x1 : Hm} {x2 : GenState} (h : Memory.wf s.mem = true) :
    Memory.wf (State.setGenState s x1 x2).mem = true := by
  unfold State.setGenState
  repeat' first
    | with_reducible exact h

theorem State.updTen_wf {s : State} {x1 : ℕ} {x2 : Tenancy → Tenancy} (h : Memory.wf s.mem = true) :
    Memory.wf (State.updTen s x1 x2).mem = true := by
  unfold State.updTen
  repeat' first
    | with_reducible exact h

theorem State.handOut_wf {s : State} {x1 : Nat} (h : Memory.wf s.mem = true) :
    Memory.wf (State.handOut s x1).mem = true := by
  unfold State.handOut
  repeat' first
    | with_reducible exact h | with_reducible assumption | (intro s h) | (dsimp only)

theorem State.defer_wf {s : State} {x1 : Nat} {x2 : Nat} (h : Memory.wf s.mem = true) :
    Memory.wf (State.defer s x1 x2).mem = true := by
  unfold State.defer
  repeat' first
    | with_reducible exact h | with_reducible assumption | (intro s h) | (dsimp only)

theorem State.startTenend_wf {s : State} {x1 : Nat} {x2 : Bool} {x3 : W64} {x4 : Option Nat} {x5 : Nat} (h : Memory.wf s.mem = true) :
    Memory.wf (State.startTenend s x1 x2 x3 x4 x5).mem = true := by
  unfold State.startTenend
  repeat' first
    | with_reducible exact h | with_reducible assumption | with_reducible apply State.setGenState_wf
    | with_reducible apply State.handOut_wf | with_reducible apply State.defer_wf
    | with_reducible apply State.updTen_wf | split | (intro s h) | (dsimp only)

theorem State.setGenOn_wf {s : State} {x1 : ℕ} {x2 : ℕ} {x3 : Hm} (h : Memory.wf s.mem = true) :
    Memory.wf (State.setGenOn s x1 x2 x3).mem = true := by
  unfold State.setGenOn
  repeat' first
    | with_reducible exact h

theorem State.setGenAll_wf {s : State} {x1 : ℕ} {x2 : Hm} (h : Memory.wf s.mem = true) :
    Memory.wf (State.setGenAll s x1 x2).mem = true := by
  unfold State.setGenAll
  repeat' first
    | with_reducible exact h | with_reducible assumption | with_reducible apply State.setGenOn_wf
    | (with_reducible refine foldl_wf (fun s x h => ?_) ?_)

theorem State.grant_wf {s : State} {x1 : Nat} {x2 : Nat} (h : Memory.wf s.mem = true) :
    Memory.wf (State.grant s x1 x2).mem = true := by
  unfold State.grant
  dsimp only
  split
  · exact foldl_wf (fun s x h => State.setGenOn_wf h) (State.updTen_wf (State.handOut_wf h))
  · have h2 := State.setGenAll_wf (x1 := x1) (x2 := BitVec.ofNat 16 x2) (State.updTen_wf (x1 := x1)
      (x2 := fun x => { x with gen := some (BitVec.ofNat 16 x2), serial := s.lastSerial + 1, deferred := none
                               ending := x.ending.map (fun e => { e with newGen := some (BitVec.ofNat 16 x2), newSerial := s.lastSerial + 1 }) })
      (State.handOut_wf (x1 := x2) h))
    split
    · exact h2
    · split
      · exact h2
      · next s3 e =>
        have h3 := State.dlaWrite_wf h2 _ e
        cases hw : s3.dlaWrite _ _ _ _ with
        | error f => exact h3
        | ok t => exact State.dlaWrite_wf h3 _ hw

theorem State.grants_wf {l : List Nat} : ∀ {s : State}, Memory.wf s.mem = true → Memory.wf (s.grants l).mem = true := by
  induction l with
  | nil => intro s h; exact h
  | cons t l ih =>
    intro s h
    unfold State.grants
    split
    · exact h
    · split
      · exact h
      · exact ih (State.grant_wf h)

theorem State.grantAll_wf {s : State} (h : Memory.wf s.mem = true) :
    Memory.wf (State.grantAll s).mem = true := by
  unfold State.grantAll
  repeat' first
    | with_reducible exact h | with_reducible assumption | with_reducible apply State.grants_wf | (intro s h)
    | (dsimp only)

theorem State.acceptTenend_wf {s : State} {x1 : Nat} {x2 : Bool} {x3 : W64} {x4 : Option Nat} (h : Memory.wf s.mem = true) :
    Memory.wf (State.acceptTenend s x1 x2 x3 x4).mem = true := by
  unfold State.acceptTenend
  repeat' first
    | with_reducible exact h | with_reducible assumption | with_reducible apply State.grantAll_wf
    | with_reducible apply State.updTen_wf | with_reducible apply State.startTenend_wf | split | (intro s h)
    | (dsimp only)

theorem State.landEntry_wf {s : State} {x1 : ℕ} {x2 : LqEntry} (h : Memory.wf s.mem = true) :
    Memory.wf (State.landEntry s x1 x2).mem = true := by
  unfold State.landEntry
  repeat' first
    | with_reducible exact h | with_reducible assumption | with_reducible apply State.updCore_wf
    | with_reducible apply State.discard_wf | split

theorem State.landAll_wf {c : Nat} : ∀ {es : List LqEntry} {s : State}, Memory.wf s.mem = true →
    Memory.wf (s.landAll c es).mem = true
  | [], _, h => h
  | _ :: t, _, h => State.landAll_wf (es := t) (State.landEntry_wf (s := _) h)

theorem State.landDue_wf {s : State} {x1 : ℕ} (h : Memory.wf s.mem = true) :
    Memory.wf (State.landDue s x1).mem = true := by
  unfold State.landDue
  repeat' first
    | with_reducible exact h | with_reducible assumption | with_reducible apply State.setCore_wf
    | with_reducible apply State.landAll_wf

theorem State.applyDelayed_wf {s : State} {x1 : ℕ} {x2 : Delayed} (h : Memory.wf s.mem = true) :
    Memory.wf (State.applyDelayed s x1 x2).mem = true := by
  unfold State.applyDelayed
  repeat' first
    | with_reducible exact h | with_reducible assumption | with_reducible apply State.updCore_wf
    | with_reducible apply State.discard_wf | split

theorem State.applyAllDelayed_wf {c : Nat} : ∀ {ds : List Delayed} {s : State}, Memory.wf s.mem = true →
    Memory.wf (s.applyAllDelayed c ds).mem = true
  | [], _, h => h
  | _ :: t, _, h => State.applyAllDelayed_wf (ds := t) (State.applyDelayed_wf h)

theorem State.applyNext_wf {s : State} {x1 : ℕ} (h : Memory.wf s.mem = true) :
    Memory.wf (State.applyNext s x1).mem = true := by
  unfold State.applyNext
  repeat' first
    | with_reducible exact h | with_reducible assumption | with_reducible apply State.applyAllDelayed_wf
    | with_reducible apply State.setCore_wf

theorem State.advanceVc_wf {s : State} {x1 : ℕ} (h : Memory.wf s.mem = true) :
    Memory.wf (State.advanceVc s x1).mem = true := by
  unfold State.advanceVc
  repeat' first
    | with_reducible exact h | with_reducible assumption | with_reducible apply State.landDue_wf
    | with_reducible apply State.updCore_wf | with_reducible apply State.applyNext_wf

theorem State.after_wf {s : State} {x : Decision} (h : Memory.wf s.mem = true) (hx : DecWf x) :
    Memory.wf (s.after x).mem = true := by
  cases x
  · exact hx.go rfl
  · exact h
  · exact hx.stop rfl

theorem State.handBack_wf {s : State} {x1 : Nat} (h : Memory.wf s.mem = true) :
    Memory.wf (State.handBack s x1).mem = true := by
  unfold State.handBack
  repeat' first
    | with_reducible exact h | with_reducible assumption | with_reducible apply State.updDie_wf
    | with_reducible apply State.updCore_wf | split | (intro s h) | (dsimp only)

theorem State.allot_wf {s : State} {x1 : Nat} {x2 : Option Nat} (h : Memory.wf s.mem = true) :
    Memory.wf (State.allot s x1 x2).mem = true := by
  unfold State.allot
  repeat' first
    | with_reducible exact h | with_reducible assumption | with_reducible apply State.handBack_wf
    | with_reducible apply State.updCore_wf | split | (intro s h) | (dsimp only)

theorem State.answerIo_wf {s : State} {x1 : Nat} {x2 : Bool} (h : Memory.wf s.mem = true) :
    Memory.wf (State.answerIo s x1 x2).mem = true := by
  unfold State.answerIo
  repeat' first
    | with_reducible exact h | with_reducible assumption | (intro s h) | (dsimp only)

theorem State.append_wf {d t : Nat} : ∀ {rs : List Rec} {s : State} {r : Replay}, Memory.wf s.mem = true →
    Memory.wf (s.append d t r rs).mem = true
  | [], _, _, h => h
  | e :: l, s, r, h => State.append_wf (rs := l) (by
    cases hw : s.dlaWrite d (r.slot r.tail) 16 (e.word r.tail) with
    | ok t => exact State.dlaWrite_wf h _ hw
    | error _ => exact h)

theorem State.arrive_wf {s : State} {x1 : ℕ} {x2 : Pending} {x3 : W64} (h : Memory.wf s.mem = true) :
    Memory.wf (State.arrive s x1 x2 x3).mem = true := by
  unfold State.arrive
  repeat' first
    | with_reducible exact h | with_reducible assumption | with_reducible apply State.updCore_wf
    | with_reducible apply State.discard_wf | split

theorem State.assayImport_wf {s : State} {x1 : TransRec} {x2 : ℕ} (h : Memory.wf s.mem = true) :
    Memory.wf (State.assayImport s x1 x2).mem = true := by
  unfold State.assayImport
  repeat' first
    | with_reducible exact h | with_reducible assumption | with_reducible apply State.write_wf | split | (intro s h)
    | (intro s h) | (dsimp only)

theorem State.assayImports_wf {s : State} (h : Memory.wf s.mem = true) :
    Memory.wf (State.assayImports s).mem = true := by
  unfold State.assayImports
  repeat' first
    | with_reducible exact h | with_reducible assumption | with_reducible apply State.assayImport_wf
    | (with_reducible refine foldl_wf (fun s x h => ?_) ?_) | split

theorem State.atSlot_wf {s : State} {x1 : ℕ} {x2 : ℕ} {x3 : HdrKind} {x4 : Byte} {x5 : ExecMode} (h : Memory.wf s.mem = true) :
    Memory.wf (State.atSlot s x1 x2 x3 x4 x5).mem = true := by
  unfold State.atSlot
  repeat' first
    | with_reducible exact h

theorem State.updK_wf {s : State} {x1 : Core → Core} (h : Memory.wf s.mem = true) :
    Memory.wf (State.updK s x1).mem = true := by
  unfold State.updK
  repeat' first
    | with_reducible exact h | with_reducible assumption | with_reducible apply State.updCore_wf

theorem State.setPending_wf {s : State} {x1 : ℕ} {x2 : ℕ} {x3 : Option W64} {x4 : Bool} (h : Memory.wf s.mem = true) :
    Memory.wf (State.setPending s x1 x2 x3 x4).mem = true := by
  unfold State.setPending
  repeat' first
    | with_reducible exact h | with_reducible assumption | with_reducible apply State.updK_wf

theorem State.awaitReg_wf {s : State} {x1 : ℕ} {x2 : Bool} (h : Memory.wf s.mem = true) :
    Memory.wf (State.awaitReg s x1 x2).mem = true := by
  unfold State.awaitReg
  repeat' first
    | with_reducible exact h | with_reducible assumption | with_reducible apply State.setPending_wf
    | with_reducible apply State.updK_wf

theorem State.bootCores_wf {s : State} {x1 : ℕ} {x2 : Bool} (h : Memory.wf s.mem = true) :
    Memory.wf (State.bootCores s x1 x2).mem = true := by
  unfold State.bootCores
  repeat' first
    | with_reducible exact h | with_reducible assumption | with_reducible apply State.updCore_wf
    | (with_reducible refine foldl_wf (fun s x h => ?_) ?_)

theorem State.failLaunch_wf {s : State} {x1 : ℕ} (h : Memory.wf s.mem = true) :
    Memory.wf (State.failLaunch s x1).mem = true := by
  unfold State.failLaunch
  repeat' first
    | with_reducible exact h

theorem State.chunkFault_wf {s : State} {x1 : ℕ} {x2 : ℕ} {x3 : Launch} {x4 : ℕ} {x5 : ℕ} {x6 : ℕ} {x7 : ℕ} (h : Memory.wf s.mem = true) :
    Memory.wf (State.chunkFault s x1 x2 x3 x4 x5 x6 x7).mem = true := by
  unfold State.chunkFault
  repeat' first
    | with_reducible exact h | with_reducible assumption | with_reducible apply State.failLaunch_wf
    | with_reducible apply State.report_wf | (with_reducible refine foldl_wf (fun s x h => ?_) ?_)

theorem State.updCopies_wf {s : State} {x1 : ℕ} {x2 : Launch → Launch} (h : Memory.wf s.mem = true) :
    Memory.wf (State.updCopies s x1 x2).mem = true := by
  unfold State.updCopies
  repeat' first
    | with_reducible exact h

theorem State.updLaunch_wf {s : State} {x1 : ℕ} {x2 : ℕ} {x3 : Launch → Launch} (h : Memory.wf s.mem = true) :
    Memory.wf (State.updLaunch s x1 x2 x3).mem = true := by
  unfold State.updLaunch
  repeat' first
    | with_reducible exact h | with_reducible assumption | with_reducible apply State.updDie_wf

theorem State.countFrozen_wf {s : State} {x1 : ℕ} (h : Memory.wf s.mem = true) :
    Memory.wf (State.countFrozen s x1).mem = true := by
  unfold State.countFrozen
  repeat' first
    | with_reducible exact h | with_reducible assumption | with_reducible apply State.updDie_wf

theorem State.closeEpochs_wf {s : State} {x1 : Nat} (h : Memory.wf s.mem = true) :
    Memory.wf (State.closeEpochs s x1).mem = true := by
  unfold State.closeEpochs
  repeat' first
    | with_reducible exact h | with_reducible assumption | split | (intro s h) | (dsimp only)

theorem State.catchUp_wf {s : State} {x1 : Nat} (h : Memory.wf s.mem = true) :
    Memory.wf (State.catchUp s x1).mem = true := by
  unfold State.catchUp
  repeat' first
    | with_reducible exact h | with_reducible assumption | split | (intro s h) | (dsimp only)

theorem State.tick_wf {s : State} {x1 : Nat} (h : Memory.wf s.mem = true) :
    Memory.wf (State.tick s x1).mem = true := by
  unfold State.tick
  repeat' first
    | with_reducible exact h | with_reducible assumption | with_reducible apply State.closeEpochs_wf
    | with_reducible apply State.updDie_wf | with_reducible apply State.countFrozen_wf
    | with_reducible apply State.catchUp_wf | split | (intro s h) | (dsimp only)

theorem State.failTask_wf {s : State} {x1 : ℕ} (h : Memory.wf s.mem = true) :
    Memory.wf (State.failTask s x1).mem = true := by
  unfold State.failTask
  repeat' first
    | with_reducible exact h | with_reducible assumption | with_reducible apply State.failLaunch_wf | split

theorem State.reportTask_wf {s : State} {x1 : ℕ} {x2 : FaultInfo} (h : Memory.wf s.mem = true) :
    Memory.wf (State.reportTask s x1 x2).mem = true := by
  unfold State.reportTask
  repeat' first
    | with_reducible exact h | with_reducible assumption | with_reducible apply State.report_wf
    | (with_reducible refine foldl_wf (fun s x h => ?_) ?_) | split

theorem State.beginFlr_wf {s : State} {x1 : Nat} (h : Memory.wf s.mem = true) :
    Memory.wf (State.beginFlr s x1).mem = true := by
  unfold State.beginFlr
  repeat' first
    | with_reducible exact h | with_reducible assumption | with_reducible apply State.updCore_wf | (intro s h)
    | (dsimp only)

theorem State.doubleTrap_wf {s : State} {x1 : Nat} {x2 : TrapInfo} {x3 : Bool} (h : Memory.wf s.mem = true) :
    Memory.wf (State.doubleTrap s x1 x2 x3).mem = true := by
  unfold State.doubleTrap
  repeat' first
    | with_reducible exact h | with_reducible assumption | with_reducible apply State.reportTask_wf
    | with_reducible apply State.failTask_wf | with_reducible apply State.updCore_wf
    | with_reducible apply State.beginFlr_wf | (intro s h) | (dsimp only)

theorem State.enterTrap_wf {s : State} {x1 : Nat} {x2 : TrapInfo} (h : Memory.wf s.mem = true) :
    Memory.wf (State.enterTrap s x1 x2).mem = true := by
  unfold State.enterTrap
  repeat' first
    | with_reducible exact h | with_reducible assumption | with_reducible apply State.doubleTrap_wf
    | with_reducible apply State.write_wf | with_reducible apply State.updCore_wf
    | with_reducible apply State.reportTask_wf | with_reducible apply State.failTask_wf | split | (intro s h)
    | (dsimp only)

theorem State.takeTrapOf_wf {s : State} {x1 : Nat} {x2 : TrapInfo} (h : Memory.wf s.mem = true) :
    Memory.wf (State.takeTrapOf s x1 x2).mem = true := by
  unfold State.takeTrapOf
  repeat' first
    | with_reducible exact h | with_reducible assumption | with_reducible apply State.enterTrap_wf
    | with_reducible apply State.updCore_wf | split | (intro s h) | (dsimp only)

theorem State.takeTrap_wf {s : State} {x1 : TrapInfo} (h : Memory.wf s.mem = true) :
    Memory.wf (State.takeTrap s x1).mem = true := by
  unfold State.takeTrap
  repeat' first
    | with_reducible exact h | with_reducible assumption | with_reducible apply State.takeTrapOf_wf

theorem slotMeaning_wf {s : State} {p : BitVec 3} {reads : List Nat} {dest : Option Nat} {var : Bool}
    {v : State → Verdict} {e : State → State}
    (he : ∀ s, Memory.wf s.mem = true → Memory.wf (e s).mem = true) (h : Memory.wf s.mem = true) :
    OutWf (slotMeaning p reads dest var v e s) := by
  unfold OutWf
  intro t ht
  rcases slotMeaning_cases ht with rfl | ⟨w, rfl⟩ | ⟨i, rfl⟩ | rfl | rfl | rfl
  · exact he s h
  · exact h
  · exact State.takeTrap_wf h
  · exact State.tick_wf (State.advanceVc_wf h)
  · exact State.tick_wf h
  · exact h

theorem execMxp_wf {x0 : BitVec 3} {x1 : BitVec 3} {x2 : BitVec 6} {s : State} (h : Memory.wf s.mem = true) :
    OutWf (execMxp x0 x1 x2 s) := by
  unfold execMxp
  repeat' first
    | with_reducible exact h | with_reducible assumption | with_reducible apply slotMeaning_wf
    | with_reducible apply State.updK_wf | intro s h

theorem execCmpt_wf {x0 : BitVec 3} {x1 : BitVec 6} {x2 : BitVec 6} {s : State} (h : Memory.wf s.mem = true) :
    OutWf (execCmpt x0 x1 x2 s) := by
  unfold execCmpt
  repeat' first
    | with_reducible exact h | with_reducible assumption | with_reducible apply slotMeaning_wf | intro s h
    | with_reducible apply ok_wf | (unfold id; with_reducible exact h)

theorem State.queueResult_wf {s : State} {x1 : ℕ} {x2 : LqKind} {x3 : ℕ} {x4 : W32} {x5 : Image} {x6 : Flags} (h : Memory.wf s.mem = true) :
    Memory.wf (State.queueResult s x1 x2 x3 x4 x5 x6).mem = true := by
  unfold State.queueResult
  repeat' first
    | with_reducible exact h | with_reducible assumption | with_reducible apply State.updK_wf

theorem State.putVec_wf {s : State} {x1 : ℕ} {x2 : ℕ} {x3 : W32} {x4 : Image} {x5 : Flags} (h : Memory.wf s.mem = true) :
    Memory.wf (State.putVec s x1 x2 x3 x4 x5).mem = true := by
  unfold State.putVec
  repeat' first
    | with_reducible exact h | with_reducible assumption | with_reducible apply State.queueResult_wf

theorem vecOp_wf {x0 : ℕ} {x1 : BitVec 3} {x2 : List ℕ} {x3 : State → List ℕ} {x4 : State → ℕ} {x5 : State → Image × Flags} {s : State} (h : Memory.wf s.mem = true) :
    OutWf (vecOp x0 x1 x2 x3 x4 x5 s) := by
  unfold vecOp
  repeat' first
    | with_reducible exact h | with_reducible assumption | with_reducible apply slotMeaning_wf
    | with_reducible apply State.putVec_wf | intro s h

theorem setOp2_wf {x0 : ℕ} {x1 : Ring → Image → Image × Flags} {x2 : BitVec 3} {x3 : BitVec 7} {x4 : BitVec 7} {x5 : BitVec 2} {s : State} (h : Memory.wf s.mem = true) :
    OutWf (setOp2 x0 x1 x2 x3 x4 x5 s) := by
  unfold setOp2
  repeat' first
    | with_reducible exact h | with_reducible assumption | with_reducible apply vecOp_wf

theorem execSarc_wf {x0 : BitVec 3} {x1 : BitVec 7} {x2 : BitVec 7} {x3 : BitVec 2} {s : State} (h : Memory.wf s.mem = true) :
    OutWf (execSarc x0 x1 x2 x3 s) := by
  unfold execSarc
  repeat' first
    | with_reducible exact h | with_reducible assumption | with_reducible apply setOp2_wf

theorem State.settle_wf {s : State} {x1 : ℕ} (h : Memory.wf s.mem = true) :
    Memory.wf (State.settle s x1).mem = true := by
  unfold State.settle
  repeat' first
    | with_reducible exact h | with_reducible assumption | with_reducible apply State.setCore_wf | split | (intro s h)
    | (intro s h) | (dsimp only)

theorem State.countHint_wf {s : State} {x1 : ℕ} {x2 : Option ℕ} {x3 : ℕ} {x4 : ℕ} (h : Memory.wf s.mem = true) :
    Memory.wf (State.countHint s x1 x2 x3 x4).mem = true := by
  unfold State.countHint
  repeat' first
    | with_reducible exact h | with_reducible assumption | with_reducible apply State.updDie_wf | split

theorem State.putAcc_wf {s : State} {x1 : Acc} (h : Memory.wf s.mem = true) :
    Memory.wf (State.putAcc s x1).mem = true := by
  unfold State.putAcc
  repeat' first
    | with_reducible exact h | with_reducible assumption | with_reducible apply State.updK_wf
    | with_reducible apply State.countHint_wf | split | (intro s h) | (dsimp only)

theorem State.updStack_wf {s : State} {x1 : ℕ} {x2 : Stack → Stack} (h : Memory.wf s.mem = true) :
    Memory.wf (State.updStack s x1 x2).mem = true := by
  unfold State.updStack
  repeat' first
    | with_reducible exact h

theorem State.cut_wf {s : State} {x1 : ℕ} {x2 : HandOver} (h : Memory.wf s.mem = true) :
    Memory.wf (State.cut s x1 x2).mem = true := by
  unfold State.cut
  repeat' first
    | with_reducible exact h | with_reducible assumption | with_reducible apply State.updStack_wf

theorem State.reportIndices_wf {s : State} {x1 : Nat} {x2 : Nat} {x3 : Nat} {x4 : Nat} {x5 : Task} (h : Memory.wf s.mem = true) :
    Memory.wf (State.reportIndices s x1 x2 x3 x4 x5).mem = true := by
  unfold State.reportIndices
  repeat' first
    | with_reducible exact h | with_reducible assumption | with_reducible apply State.report_wf
    | (with_reducible refine foldl_wf (fun s x h => ?_) ?_) | (intro s h) | (dsimp only)

theorem State.dropFixed_wf {s : State} {x1 : Nat} {x2 : Nat} {x3 : Task → Bool} (h : Memory.wf s.mem = true) :
    Memory.wf (State.dropFixed s x1 x2 x3).mem = true := by
  unfold State.dropFixed
  repeat' first
    | with_reducible exact h | with_reducible assumption | with_reducible apply State.reportIndices_wf
    | with_reducible apply State.updCore_wf | (with_reducible refine foldl_wf (fun s x h => ?_) ?_) | split
    | (intro s h) | (dsimp only)

theorem State.dropWork_wf {s : State} {x1 : Nat} {x2 : Nat} {x3 : Nat} (h : Memory.wf s.mem = true) :
    Memory.wf (State.dropWork s x1 x2 x3).mem = true := by
  unfold State.dropWork
  repeat' first
    | with_reducible exact h | with_reducible assumption | with_reducible apply State.dropFixed_wf
    | with_reducible apply State.updCore_wf | with_reducible apply State.reportIndices_wf
    | with_reducible apply State.updDie_wf | (with_reducible refine foldl_wf (fun s x h => ?_) ?_) | (intro s h)
    | (dsimp only)

theorem State.fence_wf {s : State} {x1 : Nat} {x2 : Launch} {x3 : List Nat} (h : Memory.wf s.mem = true) :
    Memory.wf (State.fence s x1 x2 x3).mem = true := by
  unfold State.fence
  repeat' first
    | with_reducible exact h | with_reducible assumption | with_reducible apply State.updLaunch_wf
    | with_reducible apply State.abandon_wf | with_reducible apply State.dropWork_wf
    | with_reducible apply State.updDie_wf | with_reducible apply State.cut_wf
    | (with_reducible refine foldl_wf (fun s x h => ?_) ?_) | split | (intro s h) | (dsimp only)

theorem fenceOp_wf {x0 : Bool} {x1 : BitVec 3} {x2 : BitVec 2} {s : State} (h : Memory.wf s.mem = true) :
    OutWf (fenceOp x0 x1 x2 s) := by
  unfold fenceOp
  repeat' first
    | with_reducible exact h | with_reducible assumption | with_reducible apply slotMeaning_wf
    | with_reducible apply State.putAcc_wf | with_reducible apply State.fence_wf
    | with_reducible apply State.settle_wf | with_reducible apply ok_wf | (intro s h) | (dsimp only)

theorem execFenceAll_wf {x0 : BitVec 3} {x1 : BitVec 2} {s : State} (h : Memory.wf s.mem = true) :
    OutWf (execFenceAll x0 x1 s) := by
  unfold execFenceAll
  repeat' first
    | with_reducible exact h | with_reducible assumption | with_reducible apply fenceOp_wf

theorem execVdot_wf {x0 : BitVec 3} {x1 : BitVec 7} {x2 : BitVec 7} {x3 : BitVec 7} {x4 : BitVec 2} {s : State} (h : Memory.wf s.mem = true) :
    OutWf (execVdot x0 x1 x2 x3 x4 s) := by
  unfold execVdot
  repeat' first
    | with_reducible exact h | with_reducible assumption | with_reducible apply vecOp_wf

theorem loadOp_wf {x0 : Bool} {x1 : Bool} {x2 : ℕ} {x3 : BitVec 3} {x4 : BitVec 6} {x5 : BitVec 6} {x6 : BitVec 5} {x7 : BitVec 2} {s : State} (h : Memory.wf s.mem = true) :
    OutWf (loadOp x0 x1 x2 x3 x4 x5 x6 x7 s) := by
  unfold loadOp
  repeat' first
    | with_reducible exact h | with_reducible assumption | with_reducible apply slotMeaning_wf
    | with_reducible apply State.putAcc_wf | with_reducible apply State.awaitReg_wf | intro s h

theorem execLds_wf {x0 : BitVec 3} {x1 : BitVec 6} {x2 : BitVec 6} {x3 : BitVec 5} {x4 : BitVec 2} {x5 : BitVec 2} {s : State} (h : Memory.wf s.mem = true) :
    OutWf (execLds x0 x1 x2 x3 x4 x5 s) := by
  unfold execLds
  repeat' first
    | with_reducible exact h | with_reducible assumption | with_reducible apply loadOp_wf

theorem execClvl_wf {x0 : BitVec 3} {x1 : BitVec 6} {x2 : BitVec 6} {x3 : BitVec 6} {s : State} (h : Memory.wf s.mem = true) :
    OutWf (execClvl x0 x1 x2 x3 s) := by
  unfold execClvl
  repeat' first
    | with_reducible exact h | with_reducible assumption | with_reducible apply slotMeaning_wf
    | with_reducible apply State.updK_wf | intro s h

theorem State.join_wf {s : State} {x1 : Thread → Bool} (h : Memory.wf s.mem = true) :
    Memory.wf (State.join s x1).mem = true := by
  unfold State.join
  repeat' first
    | with_reducible exact h | with_reducible assumption | with_reducible apply State.updK_wf | split | (intro s h)
    | (dsimp only)

theorem State.joinHandle_wf {s : State} {x1 : ℕ} (h : Memory.wf s.mem = true) :
    Memory.wf (State.joinHandle s x1).mem = true := by
  unfold State.joinHandle
  repeat' first
    | with_reducible exact h | with_reducible assumption | with_reducible apply State.join_wf

theorem execHwait_wf {x0 : BitVec 3} {x1 : BitVec 6} {x2 : BitVec 1} {s : State} (h : Memory.wf s.mem = true) :
    OutWf (execHwait x0 x1 x2 s) := by
  unfold execHwait
  repeat' first
    | with_reducible exact h | with_reducible assumption | with_reducible apply slotMeaning_wf
    | with_reducible apply State.joinHandle_wf | intro s h

theorem setOp3_wf {x0 : Ring → ℕ → ℕ → ℕ} {x1 : BitVec 3} {x2 : BitVec 5} {x3 : BitVec 7} {x4 : BitVec 7} {x5 : BitVec 2} {s : State} (h : Memory.wf s.mem = true) :
    OutWf (setOp3 x0 x1 x2 x3 x4 x5 s) := by
  unfold setOp3
  repeat' first
    | with_reducible exact h | with_reducible assumption | with_reducible apply vecOp_wf

theorem execSsub_wf {x0 : BitVec 3} {x1 : BitVec 5} {x2 : BitVec 7} {x3 : BitVec 7} {x4 : BitVec 2} {s : State} (h : Memory.wf s.mem = true) :
    OutWf (execSsub x0 x1 x2 x3 x4 s) := by
  unfold execSsub
  repeat' first
    | with_reducible exact h | with_reducible assumption | with_reducible apply setOp3_wf

theorem State.newLatencies_wf {s : State} (h : Memory.wf s.mem = true) :
    Memory.wf (State.newLatencies s).mem = true := by
  unfold State.newLatencies
  repeat' first
    | with_reducible exact h | with_reducible assumption | with_reducible apply State.updDie_wf
    | (with_reducible refine foldl_wf (fun s x h => ?_) ?_)

theorem State.updLink_wf {s : State} {x1 : ℕ} {x2 : Link → Link} (h : Memory.wf s.mem = true) :
    Memory.wf (State.updLink s x1 x2).mem = true := by
  unfold State.updLink
  repeat' first
    | with_reducible exact h

theorem State.noteLoss_wf {s : State} (h : Memory.wf s.mem = true) :
    Memory.wf (State.noteLoss s).mem = true := by
  unfold State.noteLoss
  repeat' first
    | with_reducible exact h | with_reducible assumption | split | (intro s h) | (dsimp only)

theorem State.settleDie_wf {s : State} {x1 : ℕ} (h : Memory.wf s.mem = true) :
    Memory.wf (State.settleDie s x1).mem = true := by
  unfold State.settleDie
  repeat' first
    | with_reducible exact h | with_reducible assumption | with_reducible apply State.settle_wf
    | (with_reducible refine foldl_wf (fun s x h => ?_) ?_)

theorem State.copyFault_wf {s : State} {x1 : Nat} {x2 : Copy} {x3 : Nat} {x4 : Nat} (h : Memory.wf s.mem = true) :
    Memory.wf (State.copyFault s x1 x2 x3 x4).mem = true := by
  unfold State.copyFault
  repeat' first
    | with_reducible exact h | with_reducible assumption | with_reducible apply State.updCore_wf
    | with_reducible apply State.report_wf | split | (intro s h) | (dsimp only)

theorem State.lostBytes_wf {s : State} {x1 : OpEntry} {x2 : Nat} (h : Memory.wf s.mem = true) :
    Memory.wf (State.lostBytes s x1 x2).mem = true := by
  unfold State.lostBytes
  repeat' first
    | with_reducible exact h | with_reducible assumption | with_reducible apply State.updCore_wf
    | with_reducible apply State.copyFault_wf | with_reducible apply State.report_wf | split | (intro s h)
    | (dsimp only)

theorem State.updQueue_wf {s : State} {x1 : ℕ} {x2 : ℕ} {x3 : Queue → Queue} (h : Memory.wf s.mem = true) :
    Memory.wf (State.updQueue s x1 x2 x3).mem = true := by
  unfold State.updQueue
  repeat' first
    | with_reducible exact h | with_reducible assumption | with_reducible apply State.updDie_wf

theorem State.stopStream_wf {s : State} {x1 : Nat} {x2 : Nat} {x3 : Nat} {x4 : W64} {x5 : Queue → Queue} (h : Memory.wf s.mem = true) :
    Memory.wf (State.stopStream s x1 x2 x3 x4 x5).mem = true := by
  unfold State.stopStream
  repeat' first
    | with_reducible exact h | with_reducible assumption | with_reducible apply State.updQueue_wf
    | with_reducible apply State.report_wf | split | (intro s h) | (dsimp only)

theorem State.waitFault_wf {s : State} {x1 : Nat} {x2 : Nat} {x3 : Nat} (h : Memory.wf s.mem = true) :
    Memory.wf (State.waitFault s x1 x2 x3).mem = true := by
  unfold State.waitFault
  repeat' first
    | with_reducible exact h | with_reducible assumption | with_reducible apply State.stopStream_wf | (intro s h)
    | (dsimp only)

theorem State.lostPacketWrite_wf {s : State} {x1 : Nat} {x2 : Nat} (h : Memory.wf s.mem = true) :
    Memory.wf (State.lostPacketWrite s x1 x2).mem = true := by
  unfold State.lostPacketWrite
  repeat' first
    | with_reducible exact h | with_reducible assumption | with_reducible apply State.waitFault_wf
    | (with_reducible refine foldl_wf (fun s x h => ?_) ?_) | split | (intro s h) | (dsimp only)

theorem State.lostWrite_wf {s : State} {x1 : Nat} {x2 : OpEntry} (h : Memory.wf s.mem = true) :
    Memory.wf (State.lostWrite s x1 x2).mem = true := by
  unfold State.lostWrite
  repeat' first
    | with_reducible exact h | with_reducible assumption | with_reducible apply State.updDie_wf
    | with_reducible apply State.lostBytes_wf | with_reducible apply State.updCore_wf
    | with_reducible apply State.lostPacketWrite_wf | with_reducible apply State.settleDie_wf | split | (intro s h)
    | (dsimp only)

theorem State.toLink_wf {s : State} {x1 : Nat} {x2 : Bool} {x3 : Nat} {x4 : Nat} {x5 : Nat} (h : Memory.wf s.mem = true) :
    Memory.wf (State.toLink s x1 x2 x3 x4 x5).mem = true := by
  unfold State.toLink
  repeat' first
    | with_reducible exact h | with_reducible assumption | with_reducible apply State.updDie_wf
    | with_reducible apply State.lostWrite_wf | split | (intro s h) | (dsimp only)

theorem State.countCopy_wf {s : State} {x1 : Nat} {x2 : Copy} {x3 : Nat} (h : Memory.wf s.mem = true) :
    Memory.wf (State.countCopy s x1 x2 x3).mem = true := by
  unfold State.countCopy
  repeat' first
    | with_reducible exact h | with_reducible assumption | with_reducible apply State.updCore_wf | split
    | (intro s h) | (dsimp only)

theorem State.countWrite_wf {s : State} {x1 : OpEntry} (h : Memory.wf s.mem = true) :
    Memory.wf (State.countWrite s x1).mem = true := by
  unfold State.countWrite
  repeat' first
    | with_reducible exact h | with_reducible assumption | with_reducible apply State.countCopy_wf | split
    | (intro s h) | (dsimp only)

theorem State.toPort_wf {s : State} {x1 : Target} {x2 : Hm} {x3 : Nat} {x4 : Nat} (h : Memory.wf s.mem = true) :
    Memory.wf (State.toPort s x1 x2 x3 x4).mem = true := by
  unfold State.toPort
  repeat' first
    | with_reducible exact h | with_reducible assumption | with_reducible apply State.updDie_wf
    | with_reducible apply State.countWrite_wf | with_reducible apply State.settleDie_wf | split | (intro s h)
    | (dsimp only)

theorem State.dropStale_wf {s : State} {x1 : Nat} {x2 : OpEntry} (h : Memory.wf s.mem = true) :
    Memory.wf (State.dropStale s x1 x2).mem = true := by
  unfold State.dropStale
  repeat' first
    | with_reducible exact h | with_reducible assumption | with_reducible apply State.updDie_wf
    | with_reducible apply State.discard_wf | with_reducible apply State.settleDie_wf | (intro s h) | (dsimp only)

theorem State.hop_wf {s : State} {x1 : Nat} {x2 : Bool} (h : Memory.wf s.mem = true) :
    Memory.wf (State.hop s x1 x2).mem = true := by
  unfold State.hop
  repeat' first
    | with_reducible exact h | with_reducible assumption | with_reducible apply State.updLink_wf
    | with_reducible apply State.dropStale_wf | with_reducible apply State.toPort_wf
    | with_reducible apply State.toLink_wf | split | (intro s h) | (dsimp only)

theorem State.handOn_wf {s : State} {x1 : Nat} (h : Memory.wf s.mem = true) :
    Memory.wf (State.handOn s x1).mem = true := by
  unfold State.handOn
  repeat' first
    | with_reducible exact h | with_reducible assumption | with_reducible apply State.hop_wf
    | (with_reducible refine foldl_wf (fun s x h => ?_) ?_) | (intro s h) | (dsimp only)

theorem State.flushAll_wf {s : State} (h : Memory.wf s.mem = true) :
    Memory.wf (State.flushAll s).mem = true := by
  unfold State.flushAll
  repeat' first
    | with_reducible exact h | with_reducible assumption | with_reducible apply State.flushReports_wf
    | (with_reducible refine foldl_wf (fun s x h => ?_) ?_) | (intro s h) | (dsimp only)

theorem execLinkDown_wf {x0 : Nat} {s : State} (h : Memory.wf s.mem = true) :
    OutWf (execLinkDown x0 s) := by
  unfold execLinkDown
  repeat' first
    | with_reducible exact h | with_reducible assumption | with_reducible apply ok_wf
    | with_reducible apply State.handOn_wf | with_reducible apply State.updLink_wf
    | with_reducible apply State.newLatencies_wf | with_reducible apply State.noteLoss_wf
    | with_reducible apply State.interrupt_wf | with_reducible apply State.flushAll_wf | with_reducible apply ok_wf
    | (with_reducible refine foldl_wf (fun s x h => ?_) ?_) | split | (intro s h) | (dsimp only)

theorem State.putScalar_wf {s : State} {x1 : ℕ} {x2 : ℕ} {x3 : W64} (h : Memory.wf s.mem = true) :
    Memory.wf (State.putScalar s x1 x2 x3).mem = true := by
  unfold State.putScalar
  repeat' first
    | with_reducible exact h | with_reducible assumption | with_reducible apply State.queueResult_wf | split

theorem divOp_wf {x0 : W64 → W64 → W64} {x1 : BitVec 3} {x2 : BitVec 6} {x3 : BitVec 6} {x4 : BitVec 6} {s : State} (h : Memory.wf s.mem = true) :
    OutWf (divOp x0 x1 x2 x3 x4 s) := by
  unfold divOp
  repeat' first
    | with_reducible exact h | with_reducible assumption | with_reducible apply slotMeaning_wf
    | with_reducible apply State.putScalar_wf | intro s h

theorem execDiv_wf {x0 : BitVec 3} {x1 : BitVec 6} {x2 : BitVec 6} {x3 : BitVec 6} {s : State} (h : Memory.wf s.mem = true) :
    OutWf (execDiv x0 x1 x2 x3 s) := by
  unfold execDiv
  repeat' first
    | with_reducible exact h | with_reducible assumption | with_reducible apply divOp_wf

theorem execVscl_wf {x0 : BitVec 3} {x1 : BitVec 7} {x2 : BitVec 6} {x3 : BitVec 2} {s : State} (h : Memory.wf s.mem = true) :
    OutWf (execVscl x0 x1 x2 x3 s) := by
  unfold execVscl
  repeat' first
    | with_reducible exact h | with_reducible assumption | with_reducible apply vecOp_wf

theorem shiftOp_wf {x0 : W32 → ℕ → W32} {x1 : BitVec 3} {x2 : BitVec 7} {x3 : BitVec 7} {x4 : BitVec 7} {s : State} (h : Memory.wf s.mem = true) :
    OutWf (shiftOp x0 x1 x2 x3 x4 s) := by
  unfold shiftOp
  repeat' first
    | with_reducible exact h | with_reducible assumption | with_reducible apply vecOp_wf

theorem execVsar_wf {x0 : BitVec 3} {x1 : BitVec 7} {x2 : BitVec 7} {x3 : BitVec 7} {s : State} (h : Memory.wf s.mem = true) :
    OutWf (execVsar x0 x1 x2 x3 s) := by
  unfold execVsar
  repeat' first
    | with_reducible exact h | with_reducible assumption | with_reducible apply shiftOp_wf

theorem State.rotate_wf {s : State} {x1 : Nat} {x2 : Nat} {x3 : Hm} (h : Memory.wf s.mem = true) :
    Memory.wf (State.rotate s x1 x2 x3).mem = true := by
  unfold State.rotate
  repeat' first
    | with_reducible exact h | with_reducible assumption | split | (intro s h) | (dsimp only)

theorem State.afterRead_wf {s : State} {x1 : Target} {x2 : Hm} {x3 : List Nat} (h : Memory.wf s.mem = true) :
    Memory.wf (State.afterRead s x1 x2 x3).mem = true := by
  unfold State.afterRead
  repeat' first
    | with_reducible exact h | with_reducible assumption | with_reducible apply State.rotate_wf | split | (intro s h)
    | (dsimp only)

theorem execFill_wf {x0 : Nat} {x1 : W64} {s : State} (h : Memory.wf s.mem = true) :
    OutWf (execFill x0 x1 s) := by
  unfold execFill
  repeat' first
    | with_reducible exact h | with_reducible assumption | with_reducible apply ok_wf
    | with_reducible apply State.afterRead_wf | with_reducible apply State.updCore_wf | with_reducible apply ok_wf
    | split | (intro s h) | (dsimp only)

theorem State.jump_wf {s : State} {x1 : Addr} (h : Memory.wf s.mem = true) :
    Memory.wf (State.jump s x1).mem = true := by
  unfold State.jump
  repeat' first
    | with_reducible exact h

theorem State.loopStep_wf {s : State} {x1 : BitVec 2} {x2 : Option (BitVec 5)} {x3 : BitVec 16} (h : Memory.wf s.mem = true) :
    Memory.wf (State.loopStep s x1 x2 x3).mem = true := by
  unfold State.loopStep
  repeat' first
    | with_reducible exact h | with_reducible assumption | with_reducible apply State.updK_wf
    | with_reducible apply State.jump_wf | split | (intro s h) | (intro s h) | (dsimp only)

theorem execLoopr_wf {x0 : BitVec 3} {x1 : BitVec 2} {x2 : BitVec 5} {x3 : BitVec 16} {s : State} (h : Memory.wf s.mem = true) :
    OutWf (execLoopr x0 x1 x2 x3 s) := by
  unfold execLoopr
  repeat' first
    | with_reducible exact h | with_reducible assumption | with_reducible apply slotMeaning_wf
    | with_reducible apply State.loopStep_wf | intro s h

theorem execCmptv_wf {x0 : BitVec 3} {x1 : BitVec 7} {x2 : BitVec 7} {x3 : BitVec 2} {s : State} (h : Memory.wf s.mem = true) :
    OutWf (execCmptv x0 x1 x2 x3 s) := by
  unfold execCmptv
  repeat' first
    | with_reducible exact h | with_reducible assumption | with_reducible apply slotMeaning_wf | intro s h
    | with_reducible apply ok_wf | (unfold id; with_reducible exact h)

theorem execIoFunctionRelease_wf {x0 : Nat} {s : State} (h : Memory.wf s.mem = true) :
    OutWf (execIoFunctionRelease x0 s) := by
  unfold execIoFunctionRelease
  repeat' first
    | with_reducible exact h | with_reducible assumption | with_reducible apply ok_wf | with_reducible apply ok_wf
    | split | (intro s h) | (dsimp only)

theorem State.streamFault_wf {s : State} {x1 : Nat} {x2 : Nat} {x3 : Nat} (h : Memory.wf s.mem = true) :
    Memory.wf (State.streamFault s x1 x2 x3).mem = true := by
  unfold State.streamFault
  repeat' first
    | with_reducible exact h | with_reducible assumption | with_reducible apply State.stopStream_wf | (intro s h)
    | (dsimp only)

theorem State.diverge_wf {s : State} {x1 : Nat} {x2 : Nat} {x3 : Nat} {x4 : Option Nat} (h : Memory.wf s.mem = true) :
    Memory.wf (State.diverge s x1 x2 x3 x4).mem = true := by
  unfold State.diverge
  repeat' first
    | with_reducible exact h | with_reducible assumption | with_reducible apply State.updDie_wf
    | with_reducible apply State.failLaunch_wf | with_reducible apply State.streamFault_wf
    | with_reducible apply State.waitFault_wf | split | (intro s h) | (dsimp only)

theorem State.stuck_wf {s : State} {x1 : Nat} {x2 : Nat} {x3 : Replay} {x4 : Option Nat} (h : Memory.wf s.mem = true) :
    DecWf (State.stuck s x1 x2 x3 x4) := by
  unfold State.stuck
  repeat' first
    | with_reducible exact h | with_reducible assumption | with_reducible apply State.diverge_wf
    | with_reducible apply DecWf.mk_go | with_reducible exact DecWf.mk_wait | with_reducible apply DecWf.mk_stop
    | split | (intro s h) | (dsimp only)

theorem State.logging_wf {s : State} {x1 : ℕ} {x2 : ℕ} {x3 : Option ℕ} {x4 : List Rec} {x5 : State} (h : Memory.wf s.mem = true) (h5 : Memory.wf x5.mem = true) :
    DecWf (State.logging s x1 x2 x3 x4 x5) := by
  unfold State.logging
  repeat' first
    | with_reducible exact h | with_reducible assumption | with_reducible apply State.updDie_wf
    | with_reducible apply State.append_wf | with_reducible apply State.stuck_wf | with_reducible apply DecWf.mk_go
    | with_reducible exact DecWf.mk_wait | with_reducible apply DecWf.mk_stop | split

theorem State.queueDecision_wf {s : State} {x1 : ℕ} {x2 : ℕ} {x3 : Rec} {x4 : State} (h : Memory.wf s.mem = true) (h4 : Memory.wf x4.mem = true) :
    Memory.wf (State.queueDecision s x1 x2 x3 x4).mem = true := by
  unfold State.queueDecision
  repeat' first
    | with_reducible exact h | with_reducible assumption
    | (with_reducible refine DecWf.go (State.logging_wf ?_ ?_) (by assumption))
    | (with_reducible refine DecWf.stop (State.logging_wf ?_ ?_) (by assumption))
    | with_reducible apply State.after_wf | with_reducible refine State.logging_wf ?_ ?_ | split

theorem State.cpDrop_wf {s : State} {x1 : Nat} {x2 : Option Nat} {x3 : Nat} (h : Memory.wf s.mem = true) :
    Memory.wf (State.cpDrop s x1 x2 x3).mem = true := by
  unfold State.cpDrop
  repeat' first
    | with_reducible exact h | with_reducible assumption | with_reducible apply State.updDie_wf | (intro s h)
    | (dsimp only)

theorem State.cpHold_wf {s : State} {x1 : Nat} {x2 : Option Nat} {x3 : Nat} (h : Memory.wf s.mem = true) :
    Memory.wf (State.cpHold s x1 x2 x3).mem = true := by
  unfold State.cpHold
  repeat' first
    | with_reducible exact h | with_reducible assumption | with_reducible apply ok_wf
    | with_reducible apply State.updDie_wf | with_reducible apply ok_wf | split | (intro s h) | (dsimp only)

theorem State.cpTurn_wf {s : State} {x1 : Nat} {x2 : Option Nat} {x3 : Nat} (h : Memory.wf s.mem = true) :
    Memory.wf (State.cpTurn s x1 x2 x3).mem = true := by
  unfold State.cpTurn
  repeat' first
    | with_reducible exact h | with_reducible assumption | with_reducible apply State.cpDrop_wf
    | with_reducible apply ok_wf | with_reducible apply State.rotate_wf | with_reducible apply ok_wf | split
    | (intro s h) | (dsimp only)

theorem State.reading_wf {s : State} {x1 : Nat} {x2 : Nat} {x3 : W64} {x4 : Nat} {x5 : State → W64 → State}
    (h : Memory.wf s.mem = true) (hf : ∀ s w, Memory.wf s.mem = true → Memory.wf (x5 s w).mem = true) :
    Memory.wf (State.reading s x1 x2 x3 x4 x5).mem = true := by
  unfold State.reading
  repeat' first
    | with_reducible exact h | with_reducible assumption | with_reducible apply State.cpHold_wf
    | with_reducible apply State.cpDrop_wf | with_reducible apply State.streamFault_wf | with_reducible apply State.waitFault_wf
    | with_reducible apply State.cpTurn_wf | with_reducible apply hf | split | (dsimp only)

theorem execTailRead_wf {x0 : Nat} {x1 : Nat} {s : State} (h : Memory.wf s.mem = true) :
    OutWf (execTailRead x0 x1 s) := by
  unfold execTailRead
  repeat' first
    | with_reducible exact h | with_reducible assumption | with_reducible apply ok_wf
    | with_reducible refine State.reading_wf ?_ ?_ | with_reducible apply State.updQueue_wf
    | with_reducible apply State.streamFault_wf | with_reducible apply State.queueDecision_wf
    | with_reducible apply ok_wf | split | (intro s n h) | (intro s h) | (dsimp only)

theorem execBfi_wf {x0 : BitVec 3} {x1 : BitVec 6} {x2 : BitVec 6} {x3 : BitVec 6} {s : State} (h : Memory.wf s.mem = true) :
    OutWf (execBfi x0 x1 x2 x3 s) := by
  unfold execBfi
  repeat' first
    | with_reducible exact h | with_reducible assumption | with_reducible apply slotMeaning_wf
    | with_reducible apply State.putScalar_wf | intro s h

theorem unOp_wf {x0 : ℕ → ℕ} {x1 : BitVec 3} {x2 : BitVec 7} {x3 : BitVec 7} {x4 : BitVec 2} {s : State} (h : Memory.wf s.mem = true) :
    OutWf (unOp x0 x1 x2 x3 x4 s) := by
  unfold unOp
  repeat' first
    | with_reducible exact h | with_reducible assumption | with_reducible apply vecOp_wf

theorem execVneg_wf {x0 : BitVec 3} {x1 : BitVec 7} {x2 : BitVec 7} {x3 : BitVec 2} {s : State} (h : Memory.wf s.mem = true) :
    OutWf (execVneg x0 x1 x2 x3 s) := by
  unfold execVneg
  repeat' first
    | with_reducible exact h | with_reducible assumption | with_reducible apply unOp_wf

theorem aluOp_wf {x0 : ℕ} {x1 : W64 → W64 → W64} {x2 : BitVec 3} {x3 : BitVec 6} {x4 : BitVec 6} {x5 : BitVec 6} {s : State} (h : Memory.wf s.mem = true) :
    OutWf (aluOp x0 x1 x2 x3 x4 x5 s) := by
  unfold aluOp
  repeat' first
    | with_reducible exact h | with_reducible assumption | with_reducible apply slotMeaning_wf
    | with_reducible apply State.putScalar_wf | intro s h

theorem execShr_wf {x0 : BitVec 3} {x1 : BitVec 6} {x2 : BitVec 6} {x3 : BitVec 6} {s : State} (h : Memory.wf s.mem = true) :
    OutWf (execShr x0 x1 x2 x3 s) := by
  unfold execShr
  repeat' first
    | with_reducible exact h | with_reducible assumption | with_reducible apply aluOp_wf

theorem execSdiv_wf {x0 : BitVec 3} {x1 : BitVec 5} {x2 : BitVec 7} {x3 : BitVec 7} {x4 : BitVec 2} {s : State} (h : Memory.wf s.mem = true) :
    OutWf (execSdiv x0 x1 x2 x3 x4 s) := by
  unfold execSdiv
  repeat' first
    | with_reducible exact h | with_reducible assumption | with_reducible apply setOp3_wf

theorem execSbnd_wf {x0 : BitVec 3} {x1 : BitVec 7} {x2 : BitVec 7} {x3 : BitVec 2} {s : State} (h : Memory.wf s.mem = true) :
    OutWf (execSbnd x0 x1 x2 x3 s) := by
  unfold execSbnd
  repeat' first
    | with_reducible exact h | with_reducible assumption | with_reducible apply setOp2_wf

theorem execHrel_wf {x0 : BitVec 3} {x1 : BitVec 6} {s : State} (h : Memory.wf s.mem = true) :
    OutWf (execHrel x0 x1 s) := by
  unfold execHrel
  repeat' first
    | with_reducible exact h | with_reducible assumption | with_reducible apply slotMeaning_wf
    | with_reducible apply State.updK_wf | intro s h | with_reducible apply ok_wf | split | (intro s h) | (intro s h)
    | (dsimp only)

theorem execUiret_wf {x0 : BitVec 3} {s : State} (h : Memory.wf s.mem = true) :
    OutWf (execUiret x0 s) := by
  unfold execUiret
  repeat' first
    | with_reducible exact h | with_reducible assumption | with_reducible apply slotMeaning_wf
    | with_reducible apply State.updK_wf | with_reducible apply State.jump_wf | with_reducible apply ok_wf | split
    | (intro s h) | (dsimp only)

theorem State.respond_wf {s : State} {x1 : Spdm} (h : Memory.wf s.mem = true) :
    Memory.wf (State.respond s x1).mem = true := by
  unfold State.respond
  repeat' first
    | with_reducible exact h | with_reducible assumption | split | (intro s h) | (dsimp only)

theorem execGetDigests_wf {s : State} (h : Memory.wf s.mem = true) :
    OutWf (execGetDigests s) := by
  unfold execGetDigests
  repeat' first
    | with_reducible exact h | with_reducible assumption | with_reducible apply ok_wf
    | with_reducible apply State.respond_wf

theorem State.noteStoch_wf {s : State} (h : Memory.wf s.mem = true) :
    Memory.wf (State.noteStoch s).mem = true := by
  unfold State.noteStoch
  repeat' first
    | with_reducible exact h | with_reducible assumption | with_reducible apply State.updK_wf | split

theorem vecRound_wf {x0 : ℕ} {x1 : BitVec 3} {x2 : State → List ℕ} {x3 : State → ℕ} {x4 : State → W32} {x5 : State → Image × Flags} {s : State} (h : Memory.wf s.mem = true) :
    OutWf (vecRound x0 x1 x2 x3 x4 x5 s) := by
  unfold vecRound
  repeat' first
    | with_reducible exact h | with_reducible assumption | with_reducible apply slotMeaning_wf
    | with_reducible apply State.putVec_wf | with_reducible apply State.noteStoch_wf | intro s h

theorem arithOp_wf {x0 : ℕ} {x1 : ℕ → ℕ → ℕ → ℤ} {x2 : Bool → Num → Num → Num → Num} {x3 : Bool} {x4 : BitVec 3} {x5 : BitVec 7} {x6 : BitVec 7} {x7 : BitVec 7} {x8 : BitVec 2} {s : State} (h : Memory.wf s.mem = true) :
    OutWf (arithOp x0 x1 x2 x3 x4 x5 x6 x7 x8 s) := by
  unfold arithOp
  repeat' first
    | with_reducible exact h | with_reducible assumption | with_reducible apply vecRound_wf

theorem execVfma_wf {x0 : BitVec 3} {x1 : BitVec 7} {x2 : BitVec 7} {x3 : BitVec 7} {x4 : BitVec 2} {s : State} (h : Memory.wf s.mem = true) :
    OutWf (execVfma x0 x1 x2 x3 x4 s) := by
  unfold execVfma
  repeat' first
    | with_reducible exact h | with_reducible assumption | with_reducible apply arithOp_wf

theorem execNegotiateAlgorithms_wf {s : State} (h : Memory.wf s.mem = true) :
    OutWf (execNegotiateAlgorithms s) := by
  unfold execNegotiateAlgorithms
  repeat' first
    | with_reducible exact h | with_reducible assumption | with_reducible apply ok_wf
    | with_reducible apply State.respond_wf

theorem execHset_wf {x0 : BitVec 3} {x1 : BitVec 6} {x2 : BitVec 6} {x3 : BitVec 6} {s : State} (h : Memory.wf s.mem = true) :
    OutWf (execHset x0 x1 x2 x3 s) := by
  unfold execHset
  repeat' first
    | with_reducible exact h | with_reducible assumption | with_reducible apply slotMeaning_wf
    | with_reducible apply State.updK_wf | intro s h

theorem State.putHead_wf {s : State} {x1 : Nat} {x2 : Nat} (h : Memory.wf s.mem = true) :
    Memory.wf (State.putHead s x1 x2).mem = true := by
  unfold State.putHead
  repeat' first
    | with_reducible exact h | with_reducible assumption | with_reducible apply State.updQueue_wf
    | (with_reducible refine State.homeWrite_wf ?_ _ (by assumption)) | with_reducible apply ok_wf
    | with_reducible apply State.streamFault_wf | with_reducible apply ok_wf | split | (intro s h) | (dsimp only)

theorem State.consume_wf {s : State} {x1 : ℕ} {x2 : ℕ} {x3 : Queue → Queue} (h : Memory.wf s.mem = true) :
    Memory.wf (State.consume s x1 x2 x3).mem = true := by
  unfold State.consume
  repeat' first
    | with_reducible exact h | with_reducible assumption | with_reducible apply State.putHead_wf
    | with_reducible apply State.updQueue_wf

theorem packetMeaning_wf {x0 : Bool} {x1 : State → ℕ → ℕ → Queue → State} {s : State} (h : Memory.wf s.mem = true)
    (hf : ∀ s a b c, Memory.wf s.mem = true → Memory.wf (x1 s a b c).mem = true) :
    OutWf (packetMeaning x0 x1 s) := by
  unfold packetMeaning
  repeat' first
    | with_reducible exact h | with_reducible assumption | with_reducible apply ok_wf | with_reducible apply ok_wf
    | with_reducible apply hf | split | (intro s h) | (intro s h) | (dsimp only)

theorem execTenendPacket_wf {x0 : BitVec 1} {x1 : BitVec 12} {x2 : W64} {s : State} (h : Memory.wf s.mem = true) :
    OutWf (execTenendPacket x0 x1 x2 s) := by
  unfold execTenendPacket
  repeat' first
    | with_reducible exact h | with_reducible assumption | with_reducible apply State.streamFault_wf
    | with_reducible apply State.acceptTenend_wf | with_reducible apply packetMeaning_wf
    | with_reducible apply State.consume_wf | with_reducible apply ok_wf | split | (intro s d q x h)

theorem State.take_wf {s : State} {x1 : ℕ} {x2 : ℕ} {x3 : Acc} {x4 : W64} {x5 : List ℕ} (h : Memory.wf s.mem = true) :
    Memory.wf (State.take s x1 x2 x3 x4 x5).mem = true := by
  unfold State.take
  repeat' first
    | with_reducible exact h | with_reducible assumption | with_reducible apply State.updCore_wf
    | with_reducible apply State.settle_wf

theorem execModuleReset_wf {x0 : List Byte} {s : State} (_ : Memory.wf s.mem = true) :
    OutWf (execModuleReset x0 s) := ok_wf (show Memory.wf State.reset.mem = true from rfl)

theorem execRetrain_wf {x0 : Nat} {s : State} (h : Memory.wf s.mem = true) :
    OutWf (execRetrain x0 s) := by
  unfold execRetrain
  repeat' first
    | with_reducible exact h | with_reducible assumption | with_reducible apply ok_wf
    | with_reducible apply State.updLink_wf | with_reducible apply ok_wf | (intro s h) | (dsimp only)

theorem execCpReset_wf {x0 : Nat} {s : State} (h : Memory.wf s.mem = true) :
    OutWf (execCpReset x0 s) := by
  unfold execCpReset
  repeat' first
    | with_reducible exact h | with_reducible assumption | with_reducible apply ok_wf
    | with_reducible apply State.abandonPacket_wf | with_reducible apply State.report_wf
    | with_reducible apply State.updDie_wf | with_reducible apply ok_wf
    | (with_reducible refine foldl_wf (fun s x h => ?_) ?_) | split | (intro s h) | (dsimp only)

theorem State.endCall_wf {s : State} {x1 : Call} {x2 : Nat} (h : Memory.wf s.mem = true) :
    Memory.wf (State.endCall s x1 x2).mem = true := by
  unfold State.endCall
  repeat' first
    | with_reducible exact h | with_reducible assumption | with_reducible apply State.updK_wf
    | with_reducible apply State.report_wf | split | (intro s h) | (dsimp only)

theorem microMeaning_wf {x0 : State → Call → State} {s : State} (h : Memory.wf s.mem = true)
    (hf : ∀ s a, Memory.wf s.mem = true → Memory.wf (x0 s a).mem = true) :
    OutWf (microMeaning x0 s) := by
  unfold microMeaning
  repeat' first
    | with_reducible exact h | with_reducible assumption | with_reducible apply ok_wf | with_reducible apply ok_wf
    | with_reducible apply hf | split

theorem State.setCall_wf {s : State} {x1 : Call} (h : Memory.wf s.mem = true) :
    Memory.wf (State.setCall s x1).mem = true := by
  unfold State.setCall
  repeat' first
    | with_reducible exact h | with_reducible assumption | with_reducible apply State.updK_wf

theorem State.nextWord_wf {s : State} {x1 : Call} (h : Memory.wf s.mem = true) :
    Memory.wf (State.nextWord s x1).mem = true := by
  unfold State.nextWord
  repeat' first
    | with_reducible exact h | with_reducible assumption | with_reducible apply State.setCall_wf

theorem execUnf_wf {x0 : BitVec 3} {x1 : BitVec 3} {s : State} (h : Memory.wf s.mem = true) :
    OutWf (execUnf x0 x1 s) := by
  unfold execUnf
  repeat' first
    | with_reducible exact h | with_reducible assumption | with_reducible apply microMeaning_wf
    | with_reducible apply State.nextWord_wf | with_reducible apply State.endCall_wf | with_reducible apply ok_wf
    | split | (intro s c h) | (intro s h) | (dsimp only)

theorem State.cpStore_wf {s : State} {x1 : Nat} {x2 : Option Nat} {x3 : W64} {x4 : Nat} {x5 : Nat} {x6 : Nat} (h : Memory.wf s.mem = true) :
    ∀ t, State.cpStore s x1 x2 x3 x4 x5 x6 = .ok t → Memory.wf t.mem = true := by
  intro t hh
  unfold State.cpStore at hh
  try dsimp only at hh
  repeat' (split at hh)
  all_goals first
    | cases hh
    | skip
  all_goals repeat' first
    | with_reducible exact h | with_reducible assumption | with_reducible apply State.write_wf
    | with_reducible apply ok_wf | with_reducible apply State.updDie_wf | with_reducible apply ok_wf | (intro s h)
    | (dsimp only) | split

theorem State.packetWrite_wf {s : State} {d q : Nat} {r : Except Nat State} {f : State → State} (h : Memory.wf s.mem = true)
    (hr : ∀ t, r = .ok t → Memory.wf t.mem = true)
    (hf : ∀ s, Memory.wf s.mem = true → Memory.wf (f s).mem = true) :
    Memory.wf (State.packetWrite s d q r f).mem = true := by
  unfold State.packetWrite
  split
  · next s1 => exact hf _ (hr s1 rfl)
  · split
    · exact h
    · exact State.streamFault_wf h

theorem execSignal_wf {x0 : BitVec 16} {x1 : W64} {x2 : W64} {s : State} (h : Memory.wf s.mem = true) :
    OutWf (execSignal x0 x1 x2 s) := by
  unfold execSignal
  repeat' first
    | with_reducible exact h | with_reducible assumption | with_reducible apply packetMeaning_wf
    | with_reducible apply State.streamFault_wf | with_reducible apply State.packetWrite_wf
    | (with_reducible refine State.cpStore_wf ?_ _ (by assumption)) | with_reducible apply State.consume_wf
    | with_reducible apply ok_wf | split | (intro s d q x h) | (intro s h) | (dsimp only)

theorem execVmul_wf {x0 : BitVec 3} {x1 : BitVec 7} {x2 : BitVec 7} {x3 : BitVec 7} {x4 : BitVec 2} {s : State} (h : Memory.wf s.mem = true) :
    OutWf (execVmul x0 x1 x2 x3 x4 s) := by
  unfold execVmul
  repeat' first
    | with_reducible exact h | with_reducible assumption | with_reducible apply arithOp_wf

theorem execBart_wf {x0 : BitVec 3} {x1 : BitVec 3} {x2 : BitVec 6} {s : State} (h : Memory.wf s.mem = true) :
    OutWf (execBart x0 x1 x2 s) := by
  unfold execBart
  repeat' first
    | with_reducible exact h | with_reducible assumption | with_reducible apply slotMeaning_wf
    | with_reducible apply State.updK_wf | intro s h

theorem sfOp_wf {x0 : Num → Num} {x1 : BitVec 3} {x2 : BitVec 7} {x3 : BitVec 7} {x4 : BitVec 2} {s : State} (h : Memory.wf s.mem = true) :
    OutWf (sfOp x0 x1 x2 x3 x4 s) := by
  unfold sfOp
  repeat' first
    | with_reducible exact h | with_reducible assumption | with_reducible apply vecRound_wf

theorem execVrsq_wf {x0 : BitVec 3} {x1 : BitVec 7} {x2 : BitVec 7} {x3 : BitVec 2} {s : State} (h : Memory.wf s.mem = true) :
    OutWf (execVrsq x0 x1 x2 x3 s) := by
  unfold execVrsq
  repeat' first
    | with_reducible exact h | with_reducible assumption | with_reducible apply sfOp_wf

theorem execMinu_wf {x0 : BitVec 3} {x1 : BitVec 6} {x2 : BitVec 6} {x3 : BitVec 6} {s : State} (h : Memory.wf s.mem = true) :
    OutWf (execMinu x0 x1 x2 x3 s) := by
  unfold execMinu
  repeat' first
    | with_reducible exact h | with_reducible assumption | with_reducible apply aluOp_wf

theorem execSar_wf {x0 : BitVec 3} {x1 : BitVec 6} {x2 : BitVec 6} {x3 : BitVec 6} {s : State} (h : Memory.wf s.mem = true) :
    OutWf (execSar x0 x1 x2 x3 s) := by
  unfold execSar
  repeat' first
    | with_reducible exact h | with_reducible assumption | with_reducible apply aluOp_wf

theorem execResultArrive_wf {x0 : ℕ} {x1 : ℕ} {s : State} (h : Memory.wf s.mem = true) :
    OutWf (execResultArrive x0 x1 s) := by
  unfold execResultArrive
  repeat' first
    | with_reducible exact h | with_reducible assumption | with_reducible apply ok_wf
    | with_reducible apply State.arrive_wf | with_reducible apply ok_wf | split

theorem State.putPred_wf {s : State} {x1 : ℕ} {x2 : Bool} (h : Memory.wf s.mem = true) :
    Memory.wf (State.putPred s x1 x2).mem = true := by
  unfold State.putPred
  repeat' first
    | with_reducible exact h | with_reducible assumption | with_reducible apply State.queueResult_wf | split

theorem execPset_wf {x0 : BitVec 3} {x1 : BitVec 3} {x2 : BitVec 6} {s : State} (h : Memory.wf s.mem = true) :
    OutWf (execPset x0 x1 x2 s) := by
  unfold execPset
  repeat' first
    | with_reducible exact h | with_reducible assumption | with_reducible apply slotMeaning_wf
    | with_reducible apply State.putPred_wf | intro s h

theorem atomicOp_wf {x0 : ℕ} {x1 : BitVec 3} {x2 : BitVec 6} {x3 : BitVec 6} {x4 : BitVec 6} {x5 : BitVec 2} {s : State} (h : Memory.wf s.mem = true) :
    OutWf (atomicOp x0 x1 x2 x3 x4 x5 s) := by
  unfold atomicOp
  repeat' first
    | with_reducible exact h | with_reducible assumption | with_reducible apply slotMeaning_wf
    | with_reducible apply State.putAcc_wf | with_reducible apply State.awaitReg_wf | intro s h

theorem execAmoXor_wf {x0 : BitVec 3} {x1 : BitVec 6} {x2 : BitVec 6} {x3 : BitVec 6} {x4 : BitVec 2} {s : State} (h : Memory.wf s.mem = true) :
    OutWf (execAmoXor x0 x1 x2 x3 x4 s) := by
  unfold execAmoXor
  repeat' first
    | with_reducible exact h | with_reducible assumption | with_reducible apply atomicOp_wf

theorem execLoop_wf {x0 : BitVec 3} {x1 : BitVec 2} {x2 : BitVec 16} {s : State} (h : Memory.wf s.mem = true) :
    OutWf (execLoop x0 x1 x2 s) := by
  unfold execLoop
  repeat' first
    | with_reducible exact h | with_reducible assumption | with_reducible apply slotMeaning_wf
    | with_reducible apply State.loopStep_wf | intro s h

theorem condition_wf {x0 : Bool} {x1 : W64} {x2 : W64} {x3 : W64} {s : State} (h : Memory.wf s.mem = true) :
    OutWf (condition x0 x1 x2 x3 s) := by
  unfold condition
  repeat' first
    | with_reducible exact h | with_reducible assumption | with_reducible apply packetMeaning_wf
    | with_reducible apply State.streamFault_wf | with_reducible refine State.reading_wf ?_ ?_
    | with_reducible apply State.consume_wf | with_reducible apply State.queueDecision_wf
    | with_reducible apply ok_wf | split | (intro s d q x h) | (intro s n h) | (intro s h) | (dsimp only)

theorem execIfne_wf {x0 : W64} {x1 : W64} {x2 : W64} {s : State} (h : Memory.wf s.mem = true) :
    OutWf (execIfne x0 x1 x2 s) := by
  unfold execIfne
  repeat' first
    | with_reducible exact h | with_reducible assumption | with_reducible apply condition_wf

theorem execVbc_wf {x0 : BitVec 3} {x1 : BitVec 7} {x2 : BitVec 6} {x3 : BitVec 2} {s : State} (h : Memory.wf s.mem = true) :
    OutWf (execVbc x0 x1 x2 x3 s) := by
  unfold execVbc
  repeat' first
    | with_reducible exact h | with_reducible assumption | with_reducible apply vecOp_wf

theorem execFence_wf {x0 : BitVec 3} {x1 : BitVec 2} {s : State} (h : Memory.wf s.mem = true) :
    OutWf (execFence x0 x1 s) := by
  unfold execFence
  repeat' first
    | with_reducible exact h | with_reducible assumption | with_reducible apply fenceOp_wf

theorem execVbscl_wf {x0 : BitVec 3} {x1 : BitVec 7} {x2 : BitVec 7} {x3 : BitVec 7} {x4 : BitVec 2} {s : State} (h : Memory.wf s.mem = true) :
    OutWf (execVbscl x0 x1 x2 x3 x4 s) := by
  unfold execVbscl
  repeat' first
    | with_reducible exact h | with_reducible assumption | with_reducible apply vecRound_wf

theorem execTrapEntry_wf {x0 : Nat} {s : State} (h : Memory.wf s.mem = true) :
    OutWf (execTrapEntry x0 s) := by
  unfold execTrapEntry
  repeat' first
    | with_reducible exact h | with_reducible assumption | with_reducible apply ok_wf
    | with_reducible apply State.enterTrap_wf | with_reducible apply ok_wf | split | (intro s h) | (dsimp only)

theorem execCas_wf {x0 : BitVec 3} {x1 : BitVec 6} {x2 : BitVec 6} {x3 : BitVec 6} {x4 : BitVec 2} {s : State} (h : Memory.wf s.mem = true) :
    OutWf (execCas x0 x1 x2 x3 x4 s) := by
  unfold execCas
  repeat' first
    | with_reducible exact h | with_reducible assumption | with_reducible apply atomicOp_wf

theorem copyIssue_wf {x0 : Bool} {x1 : BitVec 3} {x2 : BitVec 6} {x3 : BitVec 6} {x4 : BitVec 6} {s : State} (h : Memory.wf s.mem = true) :
    OutWf (copyIssue x0 x1 x2 x3 x4 s) := by
  unfold copyIssue
  repeat' first
    | with_reducible exact h | with_reducible assumption | with_reducible apply slotMeaning_wf
    | with_reducible apply State.updK_wf | with_reducible apply ok_wf | split | (intro s h) | (dsimp only)

theorem execCgox_wf {x0 : BitVec 3} {x1 : BitVec 6} {x2 : BitVec 6} {x3 : BitVec 6} {s : State} (h : Memory.wf s.mem = true) :
    OutWf (execCgox x0 x1 x2 x3 s) := by
  unfold execCgox
  repeat' first
    | with_reducible exact h | with_reducible assumption | with_reducible apply copyIssue_wf

theorem execAnd_wf {x0 : BitVec 3} {x1 : BitVec 6} {x2 : BitVec 6} {x3 : BitVec 6} {s : State} (h : Memory.wf s.mem = true) :
    OutWf (execAnd x0 x1 x2 x3 s) := by
  unfold execAnd
  repeat' first
    | with_reducible exact h | with_reducible assumption | with_reducible apply aluOp_wf

theorem maxOp_wf {x0 : Bool} {x1 : BitVec 3} {x2 : BitVec 7} {x3 : BitVec 7} {x4 : BitVec 7} {x5 : BitVec 2} {s : State} (h : Memory.wf s.mem = true) :
    OutWf (maxOp x0 x1 x2 x3 x4 x5 s) := by
  unfold maxOp
  repeat' first
    | with_reducible exact h | with_reducible assumption | with_reducible apply vecOp_wf

theorem execVmin_wf {x0 : BitVec 3} {x1 : BitVec 7} {x2 : BitVec 7} {x3 : BitVec 7} {x4 : BitVec 2} {s : State} (h : Memory.wf s.mem = true) :
    OutWf (execVmin x0 x1 x2 x3 x4 s) := by
  unfold execVmin
  repeat' first
    | with_reducible exact h | with_reducible assumption | with_reducible apply maxOp_wf

theorem execVrotl_wf {x0 : BitVec 3} {x1 : BitVec 7} {x2 : BitVec 7} {x3 : BitVec 7} {x4 : BitVec 2} {s : State} (h : Memory.wf s.mem = true) :
    OutWf (execVrotl x0 x1 x2 x3 x4 s) := by
  unfold execVrotl
  repeat' first
    | with_reducible exact h | with_reducible assumption | with_reducible apply vecOp_wf

theorem execSmsk_wf {x0 : BitVec 3} {x1 : BitVec 7} {x2 : BitVec 7} {x3 : BitVec 2} {s : State} (h : Memory.wf s.mem = true) :
    OutWf (execSmsk x0 x1 x2 x3 s) := by
  unfold execSmsk
  repeat' first
    | with_reducible exact h | with_reducible assumption | with_reducible apply setOp2_wf

theorem State.dropDebt_wf {s : State} {x1 : ℕ} (h : Memory.wf s.mem = true) :
    Memory.wf (State.dropDebt s x1).mem = true := by
  unfold State.dropDebt
  repeat' first
    | with_reducible exact h

theorem State.nextTenend_wf {s : State} {x1 : Nat} (h : Memory.wf s.mem = true) :
    Memory.wf (State.nextTenend s x1).mem = true := by
  unfold State.nextTenend
  repeat' first
    | with_reducible exact h | with_reducible assumption | with_reducible apply State.updTen_wf
    | with_reducible apply State.startTenend_wf | split | (intro s h) | (dsimp only)

theorem State.queueGoesOn_wf {s : State} {x1 : Option ℕ} {x2 : ℕ} (h : Memory.wf s.mem = true) :
    Memory.wf (State.queueGoesOn s x1 x2).mem = true := by
  unfold State.queueGoesOn
  repeat' first
    | with_reducible exact h | with_reducible assumption | with_reducible apply State.updDie_wf | split

theorem State.dropL0_wf {s : State} {x1 : ℕ} {x2 : ℕ} (h : Memory.wf s.mem = true) :
    Memory.wf (State.dropL0 s x1 x2).mem = true := by
  unfold State.dropL0
  repeat' first
    | with_reducible exact h

theorem State.dropTranslations_wf {s : State} {x1 : Nat} {x2 : Nat} {x3 : Nat} {x4 : Nat} (h : Memory.wf s.mem = true) :
    Memory.wf (State.dropTranslations s x1 x2 x3 x4).mem = true := by
  unfold State.dropTranslations
  repeat' first
    | with_reducible exact h | with_reducible assumption | with_reducible apply State.updDie_wf | split | (intro s h)
    | (dsimp only)

theorem State.switched_wf {s : State} {x1 : Nat} (h : Memory.wf s.mem = true) :
    Memory.wf (State.switched s x1).mem = true := by
  unfold State.switched
  repeat' first
    | with_reducible exact h | with_reducible assumption | with_reducible apply State.dropTranslations_wf
    | with_reducible apply State.dropL0_wf | with_reducible apply State.updStack_wf | (intro s h) | (dsimp only)

theorem State.dropTagged_wf {s : State} {x1 : Hm} (h : Memory.wf s.mem = true) :
    Memory.wf (State.dropTagged s x1).mem = true := by
  unfold State.dropTagged
  repeat' first
    | with_reducible exact h | with_reducible assumption | (intro s h) | (dsimp only)

theorem execTenendRecord_wf {x0 : Nat} {s : State} (h : Memory.wf s.mem = true) :
    OutWf (execTenendRecord x0 s) := by
  unfold execTenendRecord
  repeat' first
    | with_reducible exact h | with_reducible assumption | with_reducible apply ok_wf
    | with_reducible apply State.switched_wf | with_reducible apply State.dropTagged_wf
    | (with_reducible refine State.dlaWrite_wf ?_ _ (by assumption)) | with_reducible apply State.record_wf
    | with_reducible apply State.setGenState_wf | with_reducible apply State.updTen_wf
    | with_reducible apply State.dropDebt_wf | with_reducible apply State.queueGoesOn_wf
    | with_reducible apply State.interrupt_wf | with_reducible apply State.grantAll_wf
    | with_reducible apply State.nextTenend_wf | with_reducible apply ok_wf | split | (intro s h) | (dsimp only)

theorem execTlbReplacement_wf {x0 : ℕ} {x1 : ℕ} {x2 : ℕ} {s : State} (h : Memory.wf s.mem = true) :
    OutWf (execTlbReplacement x0 x1 x2 s) := by
  unfold execTlbReplacement
  repeat' first
    | with_reducible exact h | with_reducible assumption | with_reducible apply ok_wf
    | with_reducible apply State.updDie_wf | with_reducible apply State.updCore_wf | with_reducible apply ok_wf
    | split

theorem execGenerationGrant_wf {s : State} (h : Memory.wf s.mem = true) :
    OutWf (execGenerationGrant s) := by
  unfold execGenerationGrant
  repeat' first
    | with_reducible exact h | with_reducible assumption | with_reducible apply ok_wf
    | with_reducible apply State.grant_wf | with_reducible apply State.nextTenend_wf | with_reducible apply ok_wf
    | split | (intro s h) | (dsimp only)

theorem execVcmp_wf {x0 : BitVec 3} {x1 : BitVec 2} {x2 : BitVec 5} {x3 : BitVec 7} {x4 : BitVec 7} {x5 : BitVec 2} {s : State} (h : Memory.wf s.mem = true) :
    OutWf (execVcmp x0 x1 x2 x3 x4 x5 s) := by
  unfold execVcmp
  repeat' first
    | with_reducible exact h | with_reducible assumption | with_reducible apply vecOp_wf

theorem State.recordWrite_wf {s : State} {x1 : Nat} {x2 : Nat} {x3 : Launch} {x4 : Nat} {x5 : Nat} {x6 : Nat} (h : Memory.wf s.mem = true) :
    ∀ t, State.recordWrite s x1 x2 x3 x4 x5 x6 = some t → Memory.wf t.mem = true := by
  intro t hh
  unfold State.recordWrite at hh
  try dsimp only at hh
  repeat' (split at hh)
  all_goals first
    | cases hh
    | skip
  all_goals repeat' first
    | with_reducible exact h | with_reducible assumption
    | (with_reducible refine State.homeWrite_wf ?_ _ (by assumption)) | with_reducible apply ok_wf
    | with_reducible apply State.report_wf | with_reducible apply State.failLaunch_wf | with_reducible apply ok_wf
    | (intro s h) | (dsimp only) | split

theorem execReconfiguration_wf {x0 : Nat} {s : State} (h : Memory.wf s.mem = true) :
    OutWf (execReconfiguration x0 s) := by
  unfold execReconfiguration
  repeat' first
    | with_reducible exact h | with_reducible assumption | with_reducible apply ok_wf
    | with_reducible apply State.failLaunch_wf
    | with_reducible apply State.after_wf
    | (with_reducible refine foldl_wf (fun s x h => State.fence_wf h) ?_) | split | (dsimp only)
  · next hw _ _ e =>
    have h1 := State.recordWrite_wf h _ hw
    exact DecWf.go (State.logging_wf h1 (State.updCopies_wf h1)) e
  all_goals
    next hw _ _ _ =>
      have h1 := State.recordWrite_wf h _ hw
      exact State.logging_wf h1 (State.updCopies_wf h1)

theorem State.openChunk_wf {s : State} {x1 : Nat} {x2 : Nat} {x3 : Launch} {x4 : Nat} {x5 : Nat} (h : Memory.wf s.mem = true) :
    Memory.wf (State.openChunk s x1 x2 x3 x4 x5).mem = true := by
  unfold State.openChunk
  repeat' first
    | with_reducible exact h | with_reducible assumption | with_reducible apply State.updLaunch_wf
    | with_reducible apply State.updCopies_wf | with_reducible apply State.chunkFault_wf
    | (with_reducible refine State.homeWrite_wf ?_ _ (by assumption)) | split | (dsimp only)

theorem State.claimChunk_wf {s : State} {x1 : Nat} {x2 : Source1} (h : Memory.wf s.mem = true) :
    ∀ t, State.claimChunk s x1 x2 = some t → Memory.wf t.1.mem = true := by
  intro t hh
  unfold State.claimChunk at hh
  try dsimp only at hh
  repeat' (split at hh)
  all_goals first
    | cases hh
    | skip
  all_goals repeat' first
    | with_reducible exact h | with_reducible assumption | with_reducible apply State.openChunk_wf
    | with_reducible apply State.updCore_wf | (intro s h) | (dsimp only) | split

theorem State.choose_wf {s : State} {d t : ℕ} {cs : List (Option (State × List Rec))} (h : Memory.wf s.mem = true)
    (hc : ∀ c ∈ cs, ∀ r, c = some r → Memory.wf r.1.mem = true) : DecWf (s.choose d t cs) := by
  unfold State.choose
  split
  · split
    · next c _ => exact State.logging_wf h (hc _ (List.mem_cons_self ..) _ rfl)
    · exact DecWf.mk_wait
  · split
    · next c hf => exact State.logging_wf h (hc _ (List.mem_of_find?_eq_some hf) _ rfl)
    · exact State.stuck_wf h

theorem execChunkClaim_wf {x0 : ℕ} {s : State} (h : Memory.wf s.mem = true) :
    OutWf (execChunkClaim x0 s) := by
  unfold execChunkClaim
  split
  · exact ok_wf h
  · refine ok_wf (State.after_wf h (State.choose_wf h (fun c hc r hr => ?_)))
    obtain ⟨src, -, rfl⟩ := List.mem_map.mp hc
    exact State.claimChunk_wf h _ hr

theorem redOp_wf {x0 : BitVec 3} {x1 : BitVec 7} {x2 : BitVec 7} {x3 : BitVec 2} {x4 : State → List ℕ → ℕ × Flags} {s : State} (h : Memory.wf s.mem = true) :
    OutWf (redOp x0 x1 x2 x3 x4 s) := by
  unfold redOp
  repeat' first
    | with_reducible exact h | with_reducible assumption | with_reducible apply vecRound_wf

theorem execVredMin_wf {x0 : BitVec 3} {x1 : BitVec 7} {x2 : BitVec 7} {x3 : BitVec 2} {s : State} (h : Memory.wf s.mem = true) :
    OutWf (execVredMin x0 x1 x2 x3 s) := by
  unfold execVredMin
  repeat' first
    | with_reducible exact h | with_reducible assumption | with_reducible apply redOp_wf

theorem execMxldu_wf {x0 : BitVec 3} {x1 : BitVec 6} {x2 : BitVec 6} {s : State} (h : Memory.wf s.mem = true) :
    OutWf (execMxldu x0 x1 x2 s) := by
  unfold execMxldu
  repeat' first
    | with_reducible exact h | with_reducible assumption | with_reducible apply slotMeaning_wf
    | with_reducible apply State.updK_wf | intro s h

theorem execBrl_wf {x0 : BitVec 3} {x1 : BitVec 20} {s : State} (h : Memory.wf s.mem = true) :
    OutWf (execBrl x0 x1 s) := by
  unfold execBrl
  repeat' first
    | with_reducible exact h | with_reducible assumption | with_reducible apply slotMeaning_wf
    | with_reducible apply State.jump_wf | with_reducible apply State.putScalar_wf | intro s h

theorem State.setPhase_wf {s : State} {x1 : ℕ} {x2 : ℕ} (h : Memory.wf s.mem = true) :
    Memory.wf (State.setPhase s x1 x2).mem = true := by
  unfold State.setPhase
  repeat' first
    | with_reducible exact h | with_reducible assumption | with_reducible apply State.updCore_wf
    | with_reducible apply State.interrupt_wf | split

theorem State.killContext_wf {s : State} {x1 : Nat} (h : Memory.wf s.mem = true) :
    Memory.wf (State.killContext s x1).mem = true := by
  unfold State.killContext
  repeat' first
    | with_reducible exact h | with_reducible assumption | with_reducible apply State.reportTask_wf
    | with_reducible apply State.failTask_wf | with_reducible apply State.handBack_wf
    | with_reducible apply State.updCore_wf | with_reducible apply State.setPhase_wf
    | with_reducible apply State.beginFlr_wf | split | (intro s h) | (dsimp only)

theorem State.killNow_wf {s : State} {x1 : Nat} (h : Memory.wf s.mem = true) :
    Memory.wf (State.killNow s x1).mem = true := by
  unfold State.killNow
  repeat' first
    | with_reducible exact h | with_reducible assumption | with_reducible apply State.killContext_wf | split
    | (intro s h) | (dsimp only)

theorem State.request_wf {s : State} {x1 : ℕ} {x2 : ℕ} (h : Memory.wf s.mem = true) :
    Memory.wf (State.request s x1 x2).mem = true := by
  unfold State.request
  repeat' first
    | with_reducible exact h | with_reducible assumption | with_reducible apply State.updCore_wf

theorem State.killRequest_wf {s : State} {x1 : Nat} (h : Memory.wf s.mem = true) :
    Memory.wf (State.killRequest s x1).mem = true := by
  unfold State.killRequest
  repeat' first
    | with_reducible exact h | with_reducible assumption | with_reducible apply State.request_wf
    | with_reducible apply State.killNow_wf | split | (intro s h) | (dsimp only)

theorem execKillRequest_wf {x0 : Nat} {s : State} (h : Memory.wf s.mem = true) :
    OutWf (execKillRequest x0 s) := by
  unfold execKillRequest
  repeat' first
    | with_reducible exact h | with_reducible assumption | with_reducible apply ok_wf
    | with_reducible apply State.killRequest_wf | with_reducible apply ok_wf | split | (intro s h) | (dsimp only)

theorem execKillExpiry_wf {x0 : ℕ} {s : State} (h : Memory.wf s.mem = true) :
    OutWf (execKillExpiry x0 s) := by
  unfold execKillExpiry
  repeat' first
    | with_reducible exact h | with_reducible assumption | with_reducible apply ok_wf
    | with_reducible apply State.killNow_wf | with_reducible apply ok_wf | split

theorem execAssayPassComplete_wf {s : State} (h : Memory.wf s.mem = true) :
    OutWf (execAssayPassComplete s) := by
  unfold execAssayPassComplete
  repeat' first
    | with_reducible exact h | with_reducible assumption | with_reducible apply ok_wf
    | with_reducible apply State.assayImports_wf

theorem predOp_wf {x0 : Bool → Bool → Bool} {x1 : BitVec 3} {x2 : BitVec 3} {x3 : BitVec 3} {x4 : BitVec 3} {s : State} (h : Memory.wf s.mem = true) :
    OutWf (predOp x0 x1 x2 x3 x4 s) := by
  unfold predOp
  repeat' first
    | with_reducible exact h | with_reducible assumption | with_reducible apply slotMeaning_wf
    | with_reducible apply State.putPred_wf | intro s h

theorem execPand_wf {x0 : BitVec 3} {x1 : BitVec 3} {x2 : BitVec 3} {x3 : BitVec 3} {s : State} (h : Memory.wf s.mem = true) :
    OutWf (execPand x0 x1 x2 x3 s) := by
  unfold execPand
  repeat' first
    | with_reducible exact h | with_reducible assumption | with_reducible apply predOp_wf

theorem execBarv_wf {x0 : BitVec 3} {x1 : BitVec 3} {x2 : BitVec 6} {s : State} (h : Memory.wf s.mem = true) :
    OutWf (execBarv x0 x1 x2 s) := by
  unfold execBarv
  repeat' first
    | with_reducible exact h | with_reducible assumption | with_reducible apply slotMeaning_wf
    | with_reducible apply State.updK_wf | intro s h

theorem execWaitmemReread_wf {x0 : Nat} {x1 : Nat} {s : State} (h : Memory.wf s.mem = true) :
    OutWf (execWaitmemReread x0 x1 s) := by
  unfold execWaitmemReread
  repeat' first
    | with_reducible exact h | with_reducible assumption | with_reducible apply ok_wf
    | with_reducible refine State.reading_wf ?_ ?_ | with_reducible apply State.queueDecision_wf
    | with_reducible apply State.updQueue_wf | with_reducible apply ok_wf | split | (intro s n h) | (intro s h)
    | (dsimp only)

theorem execVshl_wf {x0 : BitVec 3} {x1 : BitVec 7} {x2 : BitVec 7} {x3 : BitVec 7} {s : State} (h : Memory.wf s.mem = true) :
    OutWf (execVshl x0 x1 x2 x3 s) := by
  unfold execVshl
  repeat' first
    | with_reducible exact h | with_reducible assumption | with_reducible apply shiftOp_wf

theorem aluOp1_wf {x0 : W64 → W64} {x1 : BitVec 3} {x2 : BitVec 6} {x3 : BitVec 6} {s : State} (h : Memory.wf s.mem = true) :
    OutWf (aluOp1 x0 x1 x2 x3 s) := by
  unfold aluOp1
  repeat' first
    | with_reducible exact h | with_reducible assumption | with_reducible apply slotMeaning_wf
    | with_reducible apply State.putScalar_wf | intro s h

theorem aluImm_wf {x0 : W64 → W64} {x1 : BitVec 3} {x2 : BitVec 6} {x3 : BitVec 6} {s : State} (h : Memory.wf s.mem = true) :
    OutWf (aluImm x0 x1 x2 x3 s) := by
  unfold aluImm
  repeat' first
    | with_reducible exact h | with_reducible assumption | with_reducible apply aluOp1_wf

theorem execSari_wf {x0 : BitVec 3} {x1 : BitVec 6} {x2 : BitVec 6} {x3 : BitVec 6} {s : State} (h : Memory.wf s.mem = true) :
    OutWf (execSari x0 x1 x2 x3 s) := by
  unfold execSari
  repeat' first
    | with_reducible exact h | with_reducible assumption | with_reducible apply aluImm_wf

theorem State.dropTenancy_wf {s : State} {x1 : Option ℕ} (h : Memory.wf s.mem = true) :
    Memory.wf (State.dropTenancy s x1).mem = true := by
  unfold State.dropTenancy
  repeat' first
    | with_reducible exact h | with_reducible assumption | with_reducible apply State.dropTranslations_wf
    | (with_reducible refine foldl_wf (fun s x h => ?_) ?_) | split

theorem State.killRest_wf {s : State} {x1 : ℕ} (h : Memory.wf s.mem = true) :
    Memory.wf (State.killRest s x1).mem = true := by
  unfold State.killRest
  repeat' first
    | with_reducible exact h | with_reducible assumption | with_reducible apply State.updDie_wf
    | with_reducible apply State.report_wf | with_reducible apply State.failTask_wf
    | with_reducible apply State.reportTask_wf | (with_reducible refine foldl_wf (fun s x h => ?_) ?_) | split

theorem execFlrDrainEnd_wf {x0 : ℕ} {s : State} (h : Memory.wf s.mem = true) :
    OutWf (execFlrDrainEnd x0 s) := by
  unfold execFlrDrainEnd
  repeat' first
    | with_reducible exact h | with_reducible assumption | with_reducible apply ok_wf
    | with_reducible apply State.dropTenancy_wf | with_reducible apply State.killRest_wf
    | with_reducible apply State.updCore_wf | with_reducible apply State.handBack_wf | with_reducible apply ok_wf
    | split

theorem execGetMeasurements_wf {x0 : ℕ} {s : State} (h : Memory.wf s.mem = true) :
    OutWf (execGetMeasurements x0 s) := by
  unfold execGetMeasurements
  repeat' first
    | with_reducible exact h | with_reducible assumption | with_reducible apply ok_wf
    | with_reducible apply State.respond_wf

theorem execPref_wf {x0 : BitVec 3} {x1 : BitVec 6} {x2 : BitVec 5} {s : State} (h : Memory.wf s.mem = true) :
    OutWf (execPref x0 x1 x2 s) := by
  unfold execPref
  repeat' first
    | with_reducible exact h | with_reducible assumption | with_reducible apply slotMeaning_wf
    | with_reducible apply ok_wf | with_reducible apply State.updK_wf | with_reducible apply State.countHint_wf
    | with_reducible apply ok_wf | split | (intro s h) | (dsimp only)

theorem execVmax_wf {x0 : BitVec 3} {x1 : BitVec 7} {x2 : BitVec 7} {x3 : BitVec 7} {x4 : BitVec 2} {s : State} (h : Memory.wf s.mem = true) :
    OutWf (execVmax x0 x1 x2 x3 x4 s) := by
  unfold execVmax
  repeat' first
    | with_reducible exact h | with_reducible assumption | with_reducible apply maxOp_wf

theorem execSfrom_wf {x0 : BitVec 3} {x1 : BitVec 7} {x2 : BitVec 7} {x3 : BitVec 2} {s : State} (h : Memory.wf s.mem = true) :
    OutWf (execSfrom x0 x1 x2 x3 s) := by
  unfold execSfrom
  repeat' first
    | with_reducible exact h | with_reducible assumption | with_reducible apply setOp2_wf

theorem vstoreOp_wf {x0 : BitVec 3} {x1 : BitVec 7} {x2 : BitVec 6} {x3 : BitVec 8} {s : State} (h : Memory.wf s.mem = true) :
    OutWf (vstoreOp x0 x1 x2 x3 s) := by
  unfold vstoreOp
  repeat' first
    | with_reducible exact h | with_reducible assumption | with_reducible apply slotMeaning_wf
    | with_reducible apply State.updK_wf | intro s h

theorem execVsts_wf {x0 : BitVec 3} {x1 : BitVec 7} {x2 : BitVec 6} {x3 : BitVec 8} {s : State} (h : Memory.wf s.mem = true) :
    OutWf (execVsts x0 x1 x2 x3 s) := by
  unfold execVsts
  repeat' first
    | with_reducible exact h | with_reducible assumption | with_reducible apply vstoreOp_wf

theorem execAmoAnd_wf {x0 : BitVec 3} {x1 : BitVec 6} {x2 : BitVec 6} {x3 : BitVec 6} {x4 : BitVec 2} {s : State} (h : Memory.wf s.mem = true) :
    OutWf (execAmoAnd x0 x1 x2 x3 x4 s) := by
  unfold execAmoAnd
  repeat' first
    | with_reducible exact h | with_reducible assumption | with_reducible apply atomicOp_wf

theorem execShli_wf {x0 : BitVec 3} {x1 : BitVec 6} {x2 : BitVec 6} {x3 : BitVec 6} {s : State} (h : Memory.wf s.mem = true) :
    OutWf (execShli x0 x1 x2 x3 s) := by
  unfold execShli
  repeat' first
    | with_reducible exact h | with_reducible assumption | with_reducible apply aluImm_wf

theorem State.freshTask_wf {s : State} {x1 : ℕ} {x2 : ℕ} {x3 : ℕ} {x4 : ℕ} {x5 : ℕ} (h : Memory.wf s.mem = true) :
    Memory.wf (State.freshTask s x1 x2 x3 x4 x5).2.mem = true := by
  unfold State.freshTask
  repeat' first
    | with_reducible exact h | with_reducible assumption | with_reducible apply State.updDie_wf

theorem State.takeIndex_wf {s : State} {x1 : ℕ} {x2 : Held} (h : Memory.wf s.mem = true) :
    ∀ (a : Task) (t : State), State.takeIndex s x1 x2 = some (a, t) → Memory.wf t.mem = true := by
  intro a t hh
  unfold State.takeIndex at hh
  try dsimp only at hh
  repeat' (split at hh)
  all_goals first
    | cases hh
  all_goals repeat' first
    | with_reducible exact h | with_reducible assumption | with_reducible apply State.freshTask_wf
    | with_reducible apply State.updCore_wf

theorem State.takeSource_wf {s : State} {x1 : ℕ} {x2 : Source1} (h : Memory.wf s.mem = true) :
    ∀ (a : Task) (t : State) (rs : List Rec), State.takeSource s x1 x2 = some (a, t, rs) → Memory.wf t.mem = true := by
  intro a t rs hh
  unfold State.takeSource at hh
  try dsimp only at hh
  repeat' (split at hh)
  all_goals first
    | cases hh
  all_goals repeat' first
    | with_reducible exact h | with_reducible assumption | with_reducible apply State.openChunk_wf
    | with_reducible apply State.updDie_wf | with_reducible refine State.takeIndex_wf ?_ _ _ (by assumption)
    | with_reducible apply State.updCore_wf

theorem State.loggedToken_wf {s : State} {x1 : Nat} {x2 : Nat} (h : Memory.wf s.mem = true) :
    Memory.wf (State.loggedToken s x1 x2).mem = true := by
  unfold State.loggedToken
  repeat' first
    | with_reducible exact h | with_reducible assumption | with_reducible apply State.updDie_wf | split | (intro s h)
    | (dsimp only)

theorem State.fixFrom_wf {s : State} {x1 : Nat} {x2 : Nat} {x3 : Source1} (h : Memory.wf s.mem = true) :
    ∀ t, State.fixFrom s x1 x2 x3 = some t → Memory.wf t.1.mem = true := by
  intro t hh
  unfold State.fixFrom at hh
  try dsimp only at hh
  repeat' (split at hh)
  all_goals first
    | cases hh
    | skip
  all_goals repeat' first
    | with_reducible exact h | with_reducible assumption | with_reducible apply State.loggedToken_wf
    | (with_reducible refine State.takeSource_wf ?_ _ _ _ (by assumption)) | with_reducible apply State.updCore_wf
    | (intro s h) | (dsimp only) | split

theorem State.fixNext_wf {s : State} {x1 : ℕ} (h : Memory.wf s.mem = true) :
    DecWf (State.fixNext s x1) := by
  unfold State.fixNext
  split
  · exact DecWf.mk_wait
  · refine State.choose_wf h (fun c hc r hr => ?_)
    obtain ⟨src, -, rfl⟩ := List.mem_map.mp hc
    exact State.fixFrom_wf h _ hr

theorem State.cpTurns_wf {s : State} {x1 : Nat} {x2 : Option Nat} {x3 : Nat} {x4 : Nat} (h : Memory.wf s.mem = true) :
    Memory.wf (State.cpTurns s x1 x2 x3 x4).mem = true := by
  unfold State.cpTurns
  repeat' first
    | with_reducible exact h | with_reducible assumption | with_reducible apply State.cpTurn_wf
    | (with_reducible refine foldl_wf (fun s x h => ?_) ?_) | split | (intro s h) | (dsimp only)

theorem State.enter_wf {s : State} {x1 : Nat} {x2 : Task} {x3 : Launch} {x4 : Node} (h : Memory.wf s.mem = true) :
    ∀ t, State.enter s x1 x2 x3 x4 = some t → Memory.wf t.mem = true := by
  intro t hh
  unfold State.enter at hh
  try dsimp only at hh
  repeat' (split at hh)
  all_goals first
    | cases hh
    | skip
  all_goals repeat' first
    | with_reducible exact h | with_reducible assumption | with_reducible apply State.updCore_wf
    | with_reducible apply State.interrupt_wf | with_reducible apply State.report_wf
    | with_reducible apply State.failLaunch_wf | with_reducible apply ok_wf | with_reducible apply State.cpTurns_wf
    | with_reducible apply ok_wf | (intro s h) | (dsimp only) | split

theorem State.refuseBrick_wf {s : State} {x1 : Nat} {x2 : Brick} (h : Memory.wf s.mem = true) :
    Memory.wf (State.refuseBrick s x1 x2).mem = true := by
  unfold State.refuseBrick
  repeat' first
    | with_reducible exact h | with_reducible assumption | with_reducible apply State.reportIndices_wf
    | with_reducible apply State.updDie_wf | (intro s h) | (dsimp only)

theorem execTaskStart_wf {x0 : Nat} {s : State} (h : Memory.wf s.mem = true) :
    OutWf (execTaskStart x0 s) := by
  unfold execTaskStart
  repeat' first
    | with_reducible exact h | with_reducible assumption | with_reducible apply ok_wf
    | with_reducible apply State.refuseBrick_wf | with_reducible apply State.after_wf
    | (with_reducible refine DecWf.go (State.fixNext_wf ?_) (by assumption)) | (with_reducible refine DecWf.stop (State.fixNext_wf ?_) (by assumption)) | with_reducible apply State.fixNext_wf
    | (with_reducible refine State.enter_wf ?_ _ (by assumption)) | with_reducible apply State.dropFixed_wf
    | with_reducible apply ok_wf | split | (intro s h) | (dsimp only)

theorem State.rollback_wf {s : State} {x1 : Call} {x2 : Bool} {x3 : Nat} (h : Memory.wf s.mem = true) :
    Memory.wf (State.rollback s x1 x2 x3).mem = true := by
  unfold State.rollback
  repeat' first
    | with_reducible exact h | with_reducible assumption | with_reducible apply State.updK_wf
    | with_reducible apply State.endCall_wf | with_reducible apply State.setCall_wf | split | (intro s h)
    | (dsimp only)

theorem execMma_wf {ap bp kp mp : BitVec 3} {ah bh : BitVec 6} {sp ua ain bin : BitVec 1} {s : State}
    (h : Memory.wf s.mem = true) : OutWf (execMma ap bp kp mp ah bh sp ua ain bin s) := by
  unfold execMma
  refine microMeaning_wf h (fun s c h => ?_)
  extract_lets
  repeat' first
    | with_reducible exact h | with_reducible apply State.endCall_wf | with_reducible apply State.rollback_wf
    | with_reducible apply State.setCall_wf | with_reducible refine ite_wf ?_ ?_ | split

theorem execBarw_wf {x0 : BitVec 3} {x1 : BitVec 3} {s : State} (h : Memory.wf s.mem = true) :
    OutWf (execBarw x0 x1 s) := by
  unfold execBarw
  repeat' first
    | with_reducible exact h | with_reducible assumption | with_reducible apply slotMeaning_wf
    | with_reducible apply State.join_wf | intro s h

theorem execTenend_wf {x0 : BitVec 3} {x1 : BitVec 6} {x2 : BitVec 6} {s : State} (h : Memory.wf s.mem = true) :
    OutWf (execTenend x0 x1 x2 s) := by
  unfold execTenend
  repeat' first
    | with_reducible exact h | with_reducible assumption | with_reducible apply slotMeaning_wf
    | with_reducible apply State.acceptTenend_wf | intro s h

theorem vloadOp_wf {x0 : BitVec 3} {x1 : BitVec 7} {x2 : BitVec 6} {x3 : BitVec 8} {s : State} (h : Memory.wf s.mem = true) :
    OutWf (vloadOp x0 x1 x2 x3 s) := by
  unfold vloadOp
  repeat' first
    | with_reducible exact h | with_reducible assumption | with_reducible apply slotMeaning_wf
    | with_reducible apply State.putVec_wf | intro s h

theorem execVlds_wf {x0 : BitVec 3} {x1 : BitVec 7} {x2 : BitVec 6} {x3 : BitVec 8} {s : State} (h : Memory.wf s.mem = true) :
    OutWf (execVlds x0 x1 x2 x3 s) := by
  unfold execVlds
  repeat' first
    | with_reducible exact h | with_reducible assumption | with_reducible apply vloadOp_wf

theorem execAndn_wf {x0 : BitVec 3} {x1 : BitVec 6} {x2 : BitVec 6} {x3 : BitVec 6} {s : State} (h : Memory.wf s.mem = true) :
    OutWf (execAndn x0 x1 x2 x3 s) := by
  unfold execAndn
  repeat' first
    | with_reducible exact h | with_reducible assumption | with_reducible apply aluOp_wf

theorem execCsrw_wf {x0 : BitVec 3} {x1 : BitVec 6} {x2 : BitVec 11} {s : State} (h : Memory.wf s.mem = true) :
    OutWf (execCsrw x0 x1 x2 s) := by
  unfold execCsrw
  repeat' first
    | with_reducible exact h | with_reducible assumption | with_reducible apply slotMeaning_wf
    | with_reducible apply State.updK_wf | intro s h

theorem execHop_wf {x0 : Nat} {x1 : Bool} {s : State} (h : Memory.wf s.mem = true) :
    OutWf (execHop x0 x1 s) := by
  unfold execHop
  repeat' first
    | with_reducible exact h | with_reducible assumption | with_reducible apply ok_wf
    | with_reducible apply State.hop_wf | with_reducible apply ok_wf | split | (intro s h) | (dsimp only)

theorem execBkwait_wf {x0 : BitVec 3} {x1 : BitVec 6} {s : State} (h : Memory.wf s.mem = true) :
    OutWf (execBkwait x0 x1 s) := by
  unfold execBkwait
  repeat' first
    | with_reducible exact h | with_reducible assumption | with_reducible apply slotMeaning_wf | intro s h
    | with_reducible apply ok_wf | (unfold id; with_reducible exact h)

theorem execChunkMark_wf {x0 : Nat} {x1 : Nat} {s : State} (h : Memory.wf s.mem = true) :
    OutWf (execChunkMark x0 x1 s) := by
  unfold execChunkMark
  repeat' first
    | with_reducible exact h | with_reducible assumption | with_reducible apply ok_wf
    | with_reducible apply State.updLaunch_wf | with_reducible apply State.chunkFault_wf
    | with_reducible apply State.write_wf | with_reducible apply State.discard_wf
    | with_reducible apply State.updCopies_wf | (with_reducible refine State.homeWrite_wf ?_ _ (by assumption))
    | with_reducible apply ok_wf | split | (intro s h) | (dsimp only)

theorem execSpst_wf {x0 : BitVec 3} {x1 : BitVec 6} {x2 : BitVec 6} {x3 : BitVec 5} {x4 : BitVec 2} {s : State} (h : Memory.wf s.mem = true) :
    OutWf (execSpst x0 x1 x2 x3 x4 s) := by
  unfold execSpst
  repeat' first
    | with_reducible exact h | with_reducible assumption | with_reducible apply slotMeaning_wf
    | with_reducible apply State.updK_wf | intro s h

theorem execXori_wf {x0 : BitVec 3} {x1 : BitVec 6} {x2 : BitVec 6} {x3 : BitVec 11} {s : State} (h : Memory.wf s.mem = true) :
    OutWf (execXori x0 x1 x2 x3 s) := by
  unfold execXori
  repeat' first
    | with_reducible exact h | with_reducible assumption | with_reducible apply aluImm_wf

theorem execHandover_wf {x0 : BitVec 1} {x1 : BitVec 1} {x2 : Byte} {x3 : Byte} {x4 : Byte} {x5 : W64} {x6 : W64} {s : State} (h : Memory.wf s.mem = true) :
    OutWf (execHandover x0 x1 x2 x3 x4 x5 x6 s) := by
  unfold execHandover
  repeat' first
    | with_reducible exact h | with_reducible assumption | with_reducible apply State.streamFault_wf
    | with_reducible apply packetMeaning_wf | with_reducible apply State.cut_wf
    | with_reducible apply State.consume_wf | with_reducible apply ok_wf | split | (intro s d q x h) | (intro s h)
    | (dsimp only)

theorem execQueueDescriptorWrite_wf {x0 : Nat} {x1 : Nat} {x2 : BitVec 512} {s : State} (h : Memory.wf s.mem = true) :
    OutWf (execQueueDescriptorWrite x0 x1 x2 s) := by
  unfold execQueueDescriptorWrite
  repeat' first
    | with_reducible exact h | with_reducible assumption | with_reducible apply ok_wf
    | with_reducible apply State.updQueue_wf | with_reducible apply ok_wf | split | (intro s h) | (dsimp only)

theorem execGenprobe_wf {x0 : BitVec 3} {x1 : BitVec 6} {x2 : BitVec 6} {x3 : BitVec 6} {s : State} (h : Memory.wf s.mem = true) :
    OutWf (execGenprobe x0 x1 x2 x3 s) := by
  unfold execGenprobe
  repeat' first
    | with_reducible exact h | with_reducible assumption | with_reducible apply slotMeaning_wf
    | with_reducible apply ok_wf | with_reducible apply State.putAcc_wf | with_reducible apply State.awaitReg_wf
    | with_reducible apply State.setPending_wf | with_reducible apply State.updK_wf | with_reducible apply ok_wf
    | split | (intro s h) | (dsimp only)

theorem execBarvInit_wf {x0 : BitVec 3} {x1 : BitVec 3} {x2 : BitVec 6} {s : State} (h : Memory.wf s.mem = true) :
    OutWf (execBarvInit x0 x1 x2 s) := by
  unfold execBarvInit
  repeat' first
    | with_reducible exact h | with_reducible assumption | with_reducible apply slotMeaning_wf
    | with_reducible apply State.updK_wf | intro s h

theorem execSuni_wf {x0 : BitVec 3} {x1 : BitVec 5} {x2 : BitVec 7} {x3 : BitVec 7} {x4 : BitVec 2} {s : State} (h : Memory.wf s.mem = true) :
    OutWf (execSuni x0 x1 x2 x3 x4 s) := by
  unfold execSuni
  repeat' first
    | with_reducible exact h | with_reducible assumption | with_reducible apply setOp3_wf

theorem execAdd_wf {x0 : BitVec 3} {x1 : BitVec 6} {x2 : BitVec 6} {x3 : BitVec 6} {s : State} (h : Memory.wf s.mem = true) :
    OutWf (execAdd x0 x1 x2 x3 s) := by
  unfold execAdd
  repeat' first
    | with_reducible exact h | with_reducible assumption | with_reducible apply aluOp_wf

theorem execCqry_wf {x0 : BitVec 3} {x1 : BitVec 6} {x2 : BitVec 6} {x3 : BitVec 6} {s : State} (h : Memory.wf s.mem = true) :
    OutWf (execCqry x0 x1 x2 x3 s) := by
  unfold execCqry
  repeat' first
    | with_reducible exact h | with_reducible assumption | with_reducible apply slotMeaning_wf
    | with_reducible apply State.updK_wf | intro s h

theorem execVsub_wf {x0 : BitVec 3} {x1 : BitVec 7} {x2 : BitVec 7} {x3 : BitVec 7} {x4 : BitVec 2} {s : State} (h : Memory.wf s.mem = true) :
    OutWf (execVsub x0 x1 x2 x3 x4 s) := by
  unfold execVsub
  repeat' first
    | with_reducible exact h | with_reducible assumption | with_reducible apply arithOp_wf

theorem execDivu_wf {x0 : BitVec 3} {x1 : BitVec 6} {x2 : BitVec 6} {x3 : BitVec 6} {s : State} (h : Memory.wf s.mem = true) :
    OutWf (execDivu x0 x1 x2 x3 s) := by
  unfold execDivu
  repeat' first
    | with_reducible exact h | with_reducible assumption | with_reducible apply divOp_wf

theorem execGenr_wf {x0 : BitVec 3} {x1 : BitVec 6} {s : State} (h : Memory.wf s.mem = true) :
    OutWf (execGenr x0 x1 s) := by
  unfold execGenr
  repeat' first
    | with_reducible exact h | with_reducible assumption | with_reducible apply slotMeaning_wf
    | with_reducible apply State.putScalar_wf | intro s h

theorem execJrl_wf {x0 : BitVec 3} {x1 : BitVec 6} {x2 : BitVec 6} {s : State} (h : Memory.wf s.mem = true) :
    OutWf (execJrl x0 x1 x2 s) := by
  unfold execJrl
  repeat' first
    | with_reducible exact h | with_reducible assumption | with_reducible apply slotMeaning_wf
    | with_reducible apply State.jump_wf | with_reducible apply State.putScalar_wf | intro s h

theorem execRetrainComplete_wf {x0 : Nat} {x1 : Nat} {s : State} (h : Memory.wf s.mem = true) :
    OutWf (execRetrainComplete x0 x1 s) := by
  unfold execRetrainComplete
  repeat' first
    | with_reducible exact h | with_reducible assumption | with_reducible apply ok_wf
    | with_reducible apply State.updLink_wf | with_reducible apply State.flushAll_wf | with_reducible apply ok_wf
    | split | (intro s h) | (dsimp only)

theorem execVcvt_wf {x0 : BitVec 3} {x1 : BitVec 7} {x2 : BitVec 7} {x3 : BitVec 2} {x4 : BitVec 2} {s : State} (h : Memory.wf s.mem = true) :
    OutWf (execVcvt x0 x1 x2 x3 x4 s) := by
  unfold execVcvt
  repeat' first
    | with_reducible exact h | with_reducible assumption | with_reducible apply vecRound_wf

theorem execMxrt_wf {x0 : BitVec 3} {x1 : BitVec 6} {x2 : BitVec 6} {s : State} (h : Memory.wf s.mem = true) :
    OutWf (execMxrt x0 x1 x2 s) := by
  unfold execMxrt
  repeat' first
    | with_reducible exact h | with_reducible assumption | with_reducible apply slotMeaning_wf
    | with_reducible apply State.updK_wf | intro s h

theorem execOr_wf {x0 : BitVec 3} {x1 : BitVec 6} {x2 : BitVec 6} {x3 : BitVec 6} {s : State} (h : Memory.wf s.mem = true) :
    OutWf (execOr x0 x1 x2 x3 s) := by
  unfold execOr
  repeat' first
    | with_reducible exact h | with_reducible assumption | with_reducible apply aluOp_wf

theorem execSadd_wf {x0 : BitVec 3} {x1 : BitVec 5} {x2 : BitVec 7} {x3 : BitVec 7} {x4 : BitVec 2} {s : State} (h : Memory.wf s.mem = true) :
    OutWf (execSadd x0 x1 x2 x3 x4 s) := by
  unfold execSadd
  repeat' first
    | with_reducible exact h | with_reducible assumption | with_reducible apply setOp3_wf

theorem execHexp_wf {x0 : BitVec 3} {x1 : BitVec 6} {x2 : BitVec 6} {x3 : BitVec 6} {s : State} (h : Memory.wf s.mem = true) :
    OutWf (execHexp x0 x1 x2 x3 s) := by
  unfold execHexp
  repeat' first
    | with_reducible exact h | with_reducible assumption | with_reducible apply slotMeaning_wf
    | with_reducible apply State.updK_wf | intro s h | with_reducible apply ok_wf | split | (intro s h) | (intro s h)
    | (dsimp only)

theorem execSel_wf {x0 : BitVec 3} {x1 : BitVec 6} {x2 : BitVec 6} {x3 : BitVec 6} {x4 : BitVec 3} {s : State} (h : Memory.wf s.mem = true) :
    OutWf (execSel x0 x1 x2 x3 x4 s) := by
  unfold execSel
  repeat' first
    | with_reducible exact h | with_reducible assumption | with_reducible apply slotMeaning_wf
    | with_reducible apply State.putScalar_wf | intro s h

theorem execLd_wf {x0 : BitVec 3} {x1 : BitVec 6} {x2 : BitVec 6} {x3 : BitVec 5} {x4 : BitVec 2} {s : State} (h : Memory.wf s.mem = true) :
    OutWf (execLd x0 x1 x2 x3 x4 s) := by
  unfold execLd
  repeat' first
    | with_reducible exact h | with_reducible assumption | with_reducible apply loadOp_wf

theorem execAdv_wf {x0 : BitVec 3} {x1 : BitVec 3} {x2 : BitVec 1} {x3 : BitVec 32} {s : State} (h : Memory.wf s.mem = true) :
    OutWf (execAdv x0 x1 x2 x3 s) := by
  unfold execAdv
  repeat' first
    | with_reducible exact h | with_reducible assumption | with_reducible apply microMeaning_wf
    | with_reducible apply State.nextWord_wf | with_reducible apply ok_wf | split | (intro s c h)

theorem execWaitmem_wf {x0 : BitVec 2} {x1 : W64} {x2 : W64} {x3 : W64} {s : State} (h : Memory.wf s.mem = true) :
    OutWf (execWaitmem x0 x1 x2 x3 s) := by
  unfold execWaitmem
  repeat' first
    | with_reducible exact h | with_reducible assumption | with_reducible apply packetMeaning_wf
    | with_reducible refine State.reading_wf ?_ ?_ | with_reducible apply State.queueDecision_wf
    | with_reducible apply State.consume_wf | with_reducible apply ok_wf | split | (intro s d q x h) | (intro s n h)
    | (intro s h) | (dsimp only)

theorem execVshr_wf {x0 : BitVec 3} {x1 : BitVec 7} {x2 : BitVec 7} {x3 : BitVec 7} {s : State} (h : Memory.wf s.mem = true) :
    OutWf (execVshr x0 x1 x2 x3 s) := by
  unfold execVshr
  repeat' first
    | with_reducible exact h | with_reducible assumption | with_reducible apply shiftOp_wf

theorem execCacheSlicesChange_wf {x0 : Nat} {x1 : Nat} {s : State} (h : Memory.wf s.mem = true) :
    OutWf (execCacheSlicesChange x0 x1 s) := by
  unfold execCacheSlicesChange
  repeat' first
    | with_reducible exact h | with_reducible assumption | with_reducible apply ok_wf
    | with_reducible apply State.updStack_wf | with_reducible apply State.newLatencies_wf
    | with_reducible apply ok_wf | split | (intro s h) | (dsimp only)

theorem execCmpiu_wf {x0 : BitVec 3} {x1 : BitVec 3} {x2 : BitVec 3} {x3 : BitVec 6} {x4 : BitVec 11} {s : State} (h : Memory.wf s.mem = true) :
    OutWf (execCmpiu x0 x1 x2 x3 x4 s) := by
  unfold execCmpiu
  repeat' first
    | with_reducible exact h | with_reducible assumption | with_reducible apply slotMeaning_wf
    | with_reducible apply State.putPred_wf | intro s h

theorem execNakReplay_wf {x0 : ℕ} {x1 : Bool} {s : State} (h : Memory.wf s.mem = true) :
    OutWf (execNakReplay x0 x1 s) := by
  unfold execNakReplay
  repeat' first
    | with_reducible exact h | with_reducible assumption | with_reducible apply ok_wf
    | with_reducible apply State.updLink_wf | with_reducible apply ok_wf | split | (intro s h) | (intro s h)
    | (dsimp only)

theorem bitOp_wf {x0 : Image → Image → Image} {x1 : BitVec 3} {x2 : BitVec 7} {x3 : BitVec 7} {x4 : BitVec 7} {s : State} (h : Memory.wf s.mem = true) :
    OutWf (bitOp x0 x1 x2 x3 x4 s) := by
  unfold bitOp
  repeat' first
    | with_reducible exact h | with_reducible assumption | with_reducible apply vecOp_wf

theorem execVand_wf {x0 : BitVec 3} {x1 : BitVec 7} {x2 : BitVec 7} {x3 : BitVec 7} {s : State} (h : Memory.wf s.mem = true) :
    OutWf (execVand x0 x1 x2 x3 s) := by
  unfold execVand
  repeat' first
    | with_reducible exact h | with_reducible assumption | with_reducible apply bitOp_wf

theorem execGetVersion_wf {s : State} (h : Memory.wf s.mem = true) :
    OutWf (execGetVersion s) := by
  unfold execGetVersion
  repeat' first
    | with_reducible exact h | with_reducible assumption | with_reducible apply ok_wf
    | with_reducible apply State.respond_wf

theorem execStatusPost_wf {x0 : Nat} {x1 : Nat} {s : State} (h : Memory.wf s.mem = true) :
    OutWf (execStatusPost x0 x1 s) := by
  unfold execStatusPost
  repeat' first
    | with_reducible exact h | with_reducible assumption | with_reducible apply ok_wf
    | with_reducible apply State.updCore_wf | with_reducible apply ok_wf | split | (intro s h) | (dsimp only)

theorem State.writeSave_wf {s : State} {x1 : Nat} (h : Memory.wf s.mem = true) :
    Memory.wf (State.writeSave s x1).mem = true := by
  unfold State.writeSave
  repeat' first
    | with_reducible exact h | with_reducible assumption | with_reducible apply State.write_wf | split | (intro s h)
    | (dsimp only)

theorem execContextSave_wf {x0 : Nat} {s : State} (h : Memory.wf s.mem = true) :
    OutWf (execContextSave x0 s) := by
  unfold execContextSave
  repeat' first
    | with_reducible exact h | with_reducible assumption | with_reducible apply ok_wf
    | with_reducible apply State.updCore_wf | with_reducible apply State.killContext_wf
    | with_reducible apply State.writeSave_wf | with_reducible apply State.updDie_wf
    | with_reducible apply State.handBack_wf | with_reducible apply State.setPhase_wf | with_reducible apply ok_wf
    | split | (intro s h) | (dsimp only)

theorem execBfx_wf {x0 : BitVec 3} {x1 : BitVec 6} {x2 : BitVec 6} {x3 : BitVec 6} {s : State} (h : Memory.wf s.mem = true) :
    OutWf (execBfx x0 x1 x2 x3 s) := by
  unfold execBfx
  repeat' first
    | with_reducible exact h | with_reducible assumption | with_reducible apply aluOp_wf

theorem execMxstat_wf {x0 : BitVec 3} {x1 : BitVec 6} {x2 : BitVec 6} {s : State} (h : Memory.wf s.mem = true) :
    OutWf (execMxstat x0 x1 x2 s) := by
  unfold execMxstat
  repeat' first
    | with_reducible exact h | with_reducible assumption | with_reducible apply slotMeaning_wf
    | with_reducible apply State.updK_wf | intro s h

theorem storeOp_wf {x0 : Bool} {x1 : Bool} {x2 : ℕ} {x3 : BitVec 3} {x4 : BitVec 6} {x5 : BitVec 6} {x6 : BitVec 5} {x7 : BitVec 2} {s : State} (h : Memory.wf s.mem = true) :
    OutWf (storeOp x0 x1 x2 x3 x4 x5 x6 x7 s) := by
  unfold storeOp
  repeat' first
    | with_reducible exact h | with_reducible assumption | with_reducible apply slotMeaning_wf
    | with_reducible apply State.settle_wf | with_reducible apply State.putAcc_wf | with_reducible apply State.updK_wf
    | intro s h

theorem execStrl_wf {x0 : BitVec 3} {x1 : BitVec 6} {x2 : BitVec 6} {x3 : BitVec 5} {x4 : BitVec 2} {x5 : BitVec 2} {s : State} (h : Memory.wf s.mem = true) :
    OutWf (execStrl x0 x1 x2 x3 x4 x5 s) := by
  unfold execStrl
  repeat' first
    | with_reducible exact h | with_reducible assumption | with_reducible apply storeOp_wf

theorem execGetCertificate_wf {x0 : ℕ} {x1 : ℕ} {s : State} (h : Memory.wf s.mem = true) :
    OutWf (execGetCertificate x0 x1 s) := by
  unfold execGetCertificate
  repeat' first
    | with_reducible exact h | with_reducible assumption | with_reducible apply ok_wf
    | with_reducible apply State.respond_wf

theorem execVrcp_wf {x0 : BitVec 3} {x1 : BitVec 7} {x2 : BitVec 7} {x3 : BitVec 2} {s : State} (h : Memory.wf s.mem = true) :
    OutWf (execVrcp x0 x1 x2 x3 s) := by
  unfold execVrcp
  repeat' first
    | with_reducible exact h | with_reducible assumption | with_reducible apply sfOp_wf

theorem execAmoAdd_wf {x0 : BitVec 3} {x1 : BitVec 6} {x2 : BitVec 6} {x3 : BitVec 6} {x4 : BitVec 2} {s : State} (h : Memory.wf s.mem = true) :
    OutWf (execAmoAdd x0 x1 x2 x3 x4 s) := by
  unfold execAmoAdd
  repeat' first
    | with_reducible exact h | with_reducible assumption | with_reducible apply atomicOp_wf

theorem execZero_wf {x0 : BitVec 1} {x1 : BitVec 3} {s : State} (h : Memory.wf s.mem = true) :
    OutWf (execZero x0 x1 s) := by
  unfold execZero
  repeat' first
    | with_reducible exact h | with_reducible assumption | with_reducible apply microMeaning_wf
    | with_reducible apply State.nextWord_wf | with_reducible apply State.endCall_wf
    | with_reducible apply State.rollback_wf | with_reducible apply ok_wf | split | (intro s c h) | (intro s h)
    | (dsimp only)

theorem execVsin_wf {x0 : BitVec 3} {x1 : BitVec 7} {x2 : BitVec 7} {x3 : BitVec 2} {s : State} (h : Memory.wf s.mem = true) :
    OutWf (execVsin x0 x1 x2 x3 s) := by
  unfold execVsin
  repeat' first
    | with_reducible exact h | with_reducible assumption | with_reducible apply sfOp_wf

theorem execRem_wf {x0 : BitVec 3} {x1 : BitVec 6} {x2 : BitVec 6} {x3 : BitVec 6} {s : State} (h : Memory.wf s.mem = true) :
    OutWf (execRem x0 x1 x2 x3 s) := by
  unfold execRem
  repeat' first
    | with_reducible exact h | with_reducible assumption | with_reducible apply divOp_wf

theorem execXor_wf {x0 : BitVec 3} {x1 : BitVec 6} {x2 : BitVec 6} {x3 : BitVec 6} {s : State} (h : Memory.wf s.mem = true) :
    OutWf (execXor x0 x1 x2 x3 s) := by
  unfold execXor
  repeat' first
    | with_reducible exact h | with_reducible assumption | with_reducible apply aluOp_wf

theorem execMin_wf {x0 : BitVec 3} {x1 : BitVec 6} {x2 : BitVec 6} {x3 : BitVec 6} {s : State} (h : Memory.wf s.mem = true) :
    OutWf (execMin x0 x1 x2 x3 s) := by
  unfold execMin
  repeat' first
    | with_reducible exact h | with_reducible assumption | with_reducible apply aluOp_wf

theorem execBrickResume_wf {x0 : Nat} {s : State} (h : Memory.wf s.mem = true) :
    OutWf (execBrickResume x0 s) := by
  unfold execBrickResume
  repeat' first
    | with_reducible exact h | with_reducible assumption | with_reducible apply ok_wf
    | (with_reducible refine State.enter_wf ?_ _ (by assumption)) | with_reducible apply State.updCore_wf
    | (with_reducible refine DecWf.go (State.logging_wf ?_ ?_) (by assumption)) | (with_reducible refine DecWf.stop (State.logging_wf ?_ ?_) (by assumption)) | with_reducible refine State.logging_wf ?_ ?_
    | with_reducible apply State.after_wf
    | (with_reducible refine DecWf.go (State.fixNext_wf ?_) (by assumption)) | (with_reducible refine DecWf.stop (State.fixNext_wf ?_) (by assumption)) | with_reducible apply State.fixNext_wf
    | with_reducible apply State.dropFixed_wf | with_reducible apply ok_wf | split | (intro s h) | (dsimp only)

theorem execVadd_wf {x0 : BitVec 3} {x1 : BitVec 7} {x2 : BitVec 7} {x3 : BitVec 7} {x4 : BitVec 2} {s : State} (h : Memory.wf s.mem = true) :
    OutWf (execVadd x0 x1 x2 x3 x4 s) := by
  unfold execVadd
  repeat' first
    | with_reducible exact h | with_reducible assumption | with_reducible apply arithOp_wf

theorem execNop_wf {s : State} (h : Memory.wf s.mem = true) :
    OutWf (execNop s) := by
  unfold execNop
  repeat' first
    | with_reducible exact h | with_reducible assumption | with_reducible apply ok_wf | with_reducible apply ok_wf
    | split

theorem execPopc_wf {x0 : BitVec 3} {x1 : BitVec 6} {x2 : BitVec 6} {s : State} (h : Memory.wf s.mem = true) :
    OutWf (execPopc x0 x1 x2 s) := by
  unfold execPopc
  repeat' first
    | with_reducible exact h | with_reducible assumption | with_reducible apply aluOp1_wf

theorem execVcvth_wf {x0 : BitVec 3} {x1 : BitVec 7} {x2 : BitVec 7} {x3 : BitVec 2} {x4 : BitVec 2} {s : State} (h : Memory.wf s.mem = true) :
    OutWf (execVcvth x0 x1 x2 x3 x4 s) := by
  unfold execVcvth
  repeat' first
    | with_reducible exact h | with_reducible assumption | with_reducible apply vecOp_wf

theorem execOwnerMirrorUpdate_wf {x0 : ℕ} {x1 : ℕ} {s : State} (h : Memory.wf s.mem = true) :
    OutWf (execOwnerMirrorUpdate x0 x1 s) := by
  unfold execOwnerMirrorUpdate
  repeat' first
    | with_reducible exact h | with_reducible assumption | with_reducible apply ok_wf
    | with_reducible apply State.updDie_wf

theorem execReservedMicroOp_wf {s : State} (h : Memory.wf s.mem = true) :
    OutWf (execReservedMicroOp s) := by
  unfold execReservedMicroOp
  repeat' first
    | with_reducible exact h | with_reducible assumption | with_reducible apply microMeaning_wf
    | with_reducible apply State.endCall_wf | with_reducible apply ok_wf | split | (intro s c h)

theorem execFencePacket_wf {x0 : BitVec 2} {s : State} (h : Memory.wf s.mem = true) :
    OutWf (execFencePacket x0 s) := by
  unfold execFencePacket
  repeat' first
    | with_reducible exact h | with_reducible assumption | with_reducible apply packetMeaning_wf
    | with_reducible apply State.consume_wf | with_reducible apply ok_wf | split | (intro s d q x h)

theorem execMxEnd_wf {s : State} (h : Memory.wf s.mem = true) :
    OutWf (execMxEnd s) := by
  unfold execMxEnd
  repeat' first
    | with_reducible exact h | with_reducible assumption | with_reducible apply microMeaning_wf
    | with_reducible apply State.endCall_wf | with_reducible apply ok_wf | split | (intro s c h)

theorem State.violation_wf {s : State} {x1 : Target} {x2 : Hm} {x3 : Nat} {x4 : Bool} (h : Memory.wf s.mem = true) :
    Memory.wf (State.violation s x1 x2 x3 x4).mem = true := by
  unfold State.violation
  repeat' first
    | with_reducible exact h | with_reducible assumption | with_reducible apply State.updStack_wf
    | with_reducible apply State.updDie_wf | with_reducible apply State.updCore_wf
    | with_reducible apply State.report_wf | with_reducible apply State.interrupt_wf | split | (intro s h)
    | (dsimp only)

theorem State.perform_wf {s : State} {x1 : Hm} {x2 x3 : Nat} {x4 : AppOp} {x5 : Nat} (h : Memory.wf s.mem = true) :
    Memory.wf (s.perform x1 x2 x3 x4 x5).1.mem = true := by
  unfold State.perform
  repeat' first
    | with_reducible exact h | with_reducible assumption | with_reducible apply State.write_wf
    | with_reducible apply State.discard_wf | split | (dsimp only)

theorem State.ingress_wf {s : State} {x1 : Nat} {x2 : Nat} {x3 : Nat} {x4 : Nat} {x5 : Bool} {x6 : Nat} (h : Memory.wf s.mem = true) :
    Memory.wf (State.ingress s x1 x2 x3 x4 x5 x6).mem = true := by
  unfold State.ingress
  repeat' first
    | with_reducible exact h | with_reducible assumption | with_reducible apply State.answerIo_wf
    | with_reducible apply ok_wf | with_reducible apply State.violation_wf | with_reducible apply State.perform_wf
    | with_reducible apply State.rotate_wf | with_reducible apply ok_wf | split | (intro s h) | (dsimp only)

theorem execHostRequest_wf {x0 : ℕ} {x1 : ℕ} {x2 : ℕ} {x3 : Bool} {x4 : BitVec 512} {s : State} (h : Memory.wf s.mem = true) :
    OutWf (execHostRequest x0 x1 x2 x3 x4 s) := by
  unfold execHostRequest
  repeat' first
    | with_reducible exact h | with_reducible assumption | with_reducible apply ok_wf
    | with_reducible apply State.ingress_wf | with_reducible apply ok_wf | split

theorem execEmpinRequest_wf {x0 : ℕ} {x1 : ℕ} {x2 : ℕ} {x3 : ℕ} {x4 : Bool} {x5 : BitVec 512} {s : State} (h : Memory.wf s.mem = true) :
    OutWf (execEmpinRequest x0 x1 x2 x3 x4 x5 s) := by
  unfold execEmpinRequest
  repeat' first
    | with_reducible exact h | with_reducible assumption | with_reducible apply ok_wf
    | with_reducible apply State.ingress_wf | with_reducible apply ok_wf | split

theorem execChallenge_wf {x0 : List Byte} {s : State} (h : Memory.wf s.mem = true) :
    OutWf (execChallenge x0 s) := by
  unfold execChallenge
  repeat' first
    | with_reducible exact h | with_reducible assumption | with_reducible apply ok_wf
    | with_reducible apply State.respond_wf | with_reducible apply ok_wf | (intro s h) | (dsimp only)

theorem execLinkq_wf {x0 : BitVec 3} {x1 : BitVec 6} {x2 : BitVec 6} {s : State} (h : Memory.wf s.mem = true) :
    OutWf (execLinkq x0 x1 x2 s) := by
  unfold execLinkq
  repeat' first
    | with_reducible exact h | with_reducible assumption | with_reducible apply slotMeaning_wf
    | with_reducible apply State.updK_wf | intro s h

theorem execWaitaReread_wf {x0 : Nat} {s : State} (h : Memory.wf s.mem = true) :
    OutWf (execWaitaReread x0 s) := by
  unfold execWaitaReread
  repeat' first
    | with_reducible exact h | with_reducible assumption | with_reducible apply ok_wf
    | with_reducible apply State.afterRead_wf | with_reducible apply State.updCore_wf | with_reducible apply ok_wf
    | split | (intro s h) | (dsimp only)

theorem execSt_wf {x0 : BitVec 3} {x1 : BitVec 6} {x2 : BitVec 6} {x3 : BitVec 5} {x4 : BitVec 2} {s : State} (h : Memory.wf s.mem = true) :
    OutWf (execSt x0 x1 x2 x3 x4 s) := by
  unfold execSt
  repeat' first
    | with_reducible exact h | with_reducible assumption | with_reducible apply storeOp_wf

theorem execAmoMin_wf {x0 : BitVec 3} {x1 : BitVec 6} {x2 : BitVec 6} {x3 : BitVec 6} {x4 : BitVec 2} {s : State} (h : Memory.wf s.mem = true) :
    OutWf (execAmoMin x0 x1 x2 x3 x4 s) := by
  unfold execAmoMin
  repeat' first
    | with_reducible exact h | with_reducible assumption | with_reducible apply atomicOp_wf

theorem State.freeLaunch_wf {s : State} {x1 : Nat} (h : Memory.wf s.mem = true) :
    Memory.wf (State.freeLaunch s x1).mem = true := by
  unfold State.freeLaunch
  repeat' first
    | with_reducible exact h | with_reducible assumption | with_reducible apply State.dropWork_wf
    | (with_reducible refine foldl_wf (fun s x h => ?_) ?_) | split | (intro s h) | (dsimp only)

theorem execLaunchComplete_wf {x0 : Nat} {x1 : Nat} {s : State} (h : Memory.wf s.mem = true) :
    OutWf (execLaunchComplete x0 x1 s) := by
  unfold execLaunchComplete
  repeat' first
    | with_reducible exact h | with_reducible assumption | with_reducible apply ok_wf
    | with_reducible apply State.report_wf | with_reducible apply State.failLaunch_wf
    | (with_reducible refine State.homeWrite_wf ?_ _ (by assumption)) | with_reducible apply State.freeLaunch_wf
    | with_reducible apply ok_wf | split | (intro s h) | (dsimp only)

theorem waitaOp_wf {x0 : Bool} {x1 : BitVec 3} {x2 : BitVec 6} {x3 : BitVec 6} {x4 : BitVec 6} {x5 : BitVec 2} {s : State} (h : Memory.wf s.mem = true) :
    OutWf (waitaOp x0 x1 x2 x3 x4 x5 s) := by
  unfold waitaOp
  repeat' first
    | with_reducible exact h | with_reducible assumption | with_reducible apply slotMeaning_wf
    | with_reducible apply ok_wf | with_reducible apply State.putScalar_wf | with_reducible apply State.afterRead_wf
    | with_reducible apply State.putAcc_wf | with_reducible apply State.updK_wf
    | with_reducible apply State.settle_wf | with_reducible apply ok_wf | split | (intro s h) | (dsimp only)

theorem execWaitaEq_wf {x0 : BitVec 3} {x1 : BitVec 6} {x2 : BitVec 6} {x3 : BitVec 6} {x4 : BitVec 2} {s : State} (h : Memory.wf s.mem = true) :
    OutWf (execWaitaEq x0 x1 x2 x3 x4 s) := by
  unfold execWaitaEq
  repeat' first
    | with_reducible exact h | with_reducible assumption | with_reducible apply waitaOp_wf

theorem execVclmp_wf {x0 : BitVec 3} {x1 : BitVec 5} {x2 : BitVec 7} {x3 : BitVec 7} {x4 : BitVec 2} {s : State} (h : Memory.wf s.mem = true) :
    OutWf (execVclmp x0 x1 x2 x3 x4 s) := by
  unfold execVclmp
  repeat' first
    | with_reducible exact h | with_reducible assumption | with_reducible apply vecOp_wf

theorem execSpld_wf {x0 : BitVec 3} {x1 : BitVec 6} {x2 : BitVec 6} {x3 : BitVec 5} {x4 : BitVec 2} {s : State} (h : Memory.wf s.mem = true) :
    OutWf (execSpld x0 x1 x2 x3 x4 s) := by
  unfold execSpld
  repeat' first
    | with_reducible exact h | with_reducible assumption | with_reducible apply slotMeaning_wf
    | with_reducible apply State.putScalar_wf | intro s h

theorem execVsel_wf {x0 : BitVec 3} {x1 : BitVec 7} {x2 : BitVec 7} {x3 : BitVec 7} {x4 : BitVec 2} {s : State} (h : Memory.wf s.mem = true) :
    OutWf (execVsel x0 x1 x2 x3 x4 s) := by
  unfold execVsel
  repeat' first
    | with_reducible exact h | with_reducible assumption | with_reducible apply vecOp_wf

theorem execSmul_wf {x0 : BitVec 3} {x1 : BitVec 5} {x2 : BitVec 7} {x3 : BitVec 7} {x4 : BitVec 2} {s : State} (h : Memory.wf s.mem = true) :
    OutWf (execSmul x0 x1 x2 x3 x4 s) := by
  unfold execSmul
  repeat' first
    | with_reducible exact h | with_reducible assumption | with_reducible apply setOp3_wf

theorem execAmoOr_wf {x0 : BitVec 3} {x1 : BitVec 6} {x2 : BitVec 6} {x3 : BitVec 6} {x4 : BitVec 2} {s : State} (h : Memory.wf s.mem = true) :
    OutWf (execAmoOr x0 x1 x2 x3 x4 s) := by
  unfold execAmoOr
  repeat' first
    | with_reducible exact h | with_reducible assumption | with_reducible apply atomicOp_wf

theorem execMovhi_wf {x0 : BitVec 3} {x1 : BitVec 6} {x2 : BitVec 17} {s : State} (h : Memory.wf s.mem = true) :
    OutWf (execMovhi x0 x1 x2 s) := by
  unfold execMovhi
  repeat' first
    | with_reducible exact h | with_reducible assumption | with_reducible apply slotMeaning_wf
    | with_reducible apply State.putScalar_wf | intro s h

theorem execScmp_wf {x0 : BitVec 3} {x1 : BitVec 5} {x2 : BitVec 7} {x3 : BitVec 7} {x4 : BitVec 2} {s : State} (h : Memory.wf s.mem = true) :
    OutWf (execScmp x0 x1 x2 x3 x4 s) := by
  unfold execScmp
  repeat' first
    | with_reducible exact h | with_reducible assumption | with_reducible apply setOp3_wf

theorem State.handComplete_wf {s : State} {x1 : Nat} {x2 : HandOver} (h : Memory.wf s.mem = true) :
    Memory.wf (State.handComplete s x1 x2).mem = true := by
  unfold State.handComplete
  repeat' first
    | with_reducible exact h | with_reducible assumption | with_reducible apply State.report_wf
    | with_reducible apply State.updCore_wf | split | (intro s h) | (dsimp only)

theorem State.heldReport_wf {s : State} {x1 : Nat} {x2 : Nat} {x3 : Nat} {x4 : Nat} (h : Memory.wf s.mem = true) :
    Memory.wf (State.heldReport s x1 x2 x3 x4).mem = true := by
  unfold State.heldReport
  repeat' first
    | with_reducible exact h | with_reducible assumption | with_reducible apply State.report_wf | (intro s h)
    | (dsimp only)

theorem State.forwardAccs_wf {s : State} {x1 : Nat} {x2 : Nat} (h : Memory.wf s.mem = true) :
    Memory.wf (State.forwardAccs s x1 x2).mem = true := by
  unfold State.forwardAccs
  repeat' first
    | with_reducible exact h | with_reducible assumption | with_reducible apply ok_wf
    | with_reducible apply State.updCore_wf | with_reducible apply State.heldReport_wf | with_reducible apply ok_wf
    | (with_reducible refine foldl_wf (fun s x h => ?_) ?_) | split | (intro s h) | (dsimp only)

theorem State.forwardCopies_wf {s : State} {x1 : Nat} {x2 : Nat} (h : Memory.wf s.mem = true) :
    Memory.wf (State.forwardCopies s x1 x2).mem = true := by
  unfold State.forwardCopies
  repeat' first
    | with_reducible exact h | with_reducible assumption | with_reducible apply ok_wf
    | with_reducible apply State.updCore_wf | with_reducible apply State.copyFault_wf
    | with_reducible apply State.heldReport_wf | with_reducible apply ok_wf
    | (with_reducible refine foldl_wf (fun s x h => ?_) ?_) | split | (intro s h) | (dsimp only)

theorem State.cpHeldReport_wf {s : State} {x1 : Nat} {x2 : Option Nat} {x3 : Hm} {x4 : Nat} {x5 : Nat} (h : Memory.wf s.mem = true) :
    Memory.wf (State.cpHeldReport s x1 x2 x3 x4 x5).mem = true := by
  unfold State.cpHeldReport
  repeat' first
    | with_reducible exact h | with_reducible assumption | with_reducible apply State.report_wf | split | (intro s h)
    | (dsimp only)

theorem State.forwardWrites_wf {s : State} {x1 : Nat} {x2 : Nat} (h : Memory.wf s.mem = true) :
    Memory.wf (State.forwardWrites s x1 x2).mem = true := by
  unfold State.forwardWrites
  repeat' first
    | with_reducible exact h | with_reducible assumption | with_reducible apply ok_wf
    | with_reducible apply State.updDie_wf | with_reducible apply State.lostBytes_wf
    | with_reducible apply State.updCore_wf | with_reducible apply State.lostPacketWrite_wf
    | with_reducible apply State.settleDie_wf | with_reducible apply State.heldReport_wf
    | with_reducible apply State.cpHeldReport_wf | with_reducible apply ok_wf
    | (with_reducible refine foldl_wf (fun s x h => ?_) ?_) | split | (intro s h) | (dsimp only)

theorem State.forwardReads_wf {s : State} {x1 : Nat} {x2 : Nat} (h : Memory.wf s.mem = true) :
    Memory.wf (State.forwardReads s x1 x2).mem = true := by
  unfold State.forwardReads
  repeat' first
    | with_reducible exact h | with_reducible assumption | with_reducible apply State.updDie_wf
    | with_reducible apply ok_wf | with_reducible apply State.cpHeldReport_wf | with_reducible apply ok_wf
    | (with_reducible refine foldl_wf (fun s x h => ?_) ?_) | split | (intro s h) | (dsimp only)

theorem State.forwardRing_wf {s : State} {x1 : Nat} {x2 : Nat} (h : Memory.wf s.mem = true) :
    Memory.wf (State.forwardRing s x1 x2).mem = true := by
  unfold State.forwardRing
  repeat' first
    | with_reducible exact h | with_reducible assumption | with_reducible apply ok_wf
    | with_reducible apply State.updCore_wf | with_reducible apply State.heldReport_wf | with_reducible apply ok_wf
    | split | (intro s h) | (dsimp only)

theorem State.forward_wf {s : State} {x1 : Nat} (h : Memory.wf s.mem = true) :
    Memory.wf (State.forward s x1).mem = true := by
  unfold State.forward
  repeat' first
    | with_reducible exact h | with_reducible assumption | with_reducible apply State.forwardAccs_wf
    | with_reducible apply State.forwardCopies_wf | with_reducible apply State.forwardRing_wf
    | with_reducible apply State.forwardWrites_wf | with_reducible apply State.forwardReads_wf
    | with_reducible apply State.settle_wf | (with_reducible refine foldl_wf (fun s x h => ?_) ?_) | (intro s h)
    | (dsimp only)

theorem execHandoverSwitch_wf {x0 : Nat} {s : State} (h : Memory.wf s.mem = true) :
    OutWf (execHandoverSwitch x0 s) := by
  unfold execHandoverSwitch
  repeat' first
    | with_reducible exact h | with_reducible assumption | with_reducible apply ok_wf
    | with_reducible apply State.forward_wf | with_reducible apply State.flushAll_wf
    | with_reducible apply State.switched_wf | with_reducible apply State.handComplete_wf
    | with_reducible apply ok_wf | split | (intro s h) | (dsimp only)

theorem execMax_wf {x0 : BitVec 3} {x1 : BitVec 6} {x2 : BitVec 6} {x3 : BitVec 6} {s : State} (h : Memory.wf s.mem = true) :
    OutWf (execMax x0 x1 x2 x3 s) := by
  unfold execMax
  repeat' first
    | with_reducible exact h | with_reducible assumption | with_reducible apply aluOp_wf

theorem execRemu_wf {x0 : BitVec 3} {x1 : BitVec 6} {x2 : BitVec 6} {x3 : BitVec 6} {s : State} (h : Memory.wf s.mem = true) :
    OutWf (execRemu x0 x1 x2 x3 s) := by
  unfold execRemu
  repeat' first
    | with_reducible exact h | with_reducible assumption | with_reducible apply divOp_wf

theorem execDrain_wf {x0 : BitVec 3} {x1 : BitVec 3} {x2 : BitVec 1} {x3 : BitVec 3} {s : State} (h : Memory.wf s.mem = true) :
    OutWf (execDrain x0 x1 x2 x3 s) := by
  unfold execDrain
  repeat' first
    | with_reducible exact h | with_reducible assumption | with_reducible apply microMeaning_wf
    | with_reducible apply State.endCall_wf | with_reducible apply State.nextWord_wf
    | with_reducible apply State.updK_wf | with_reducible apply ok_wf
    | (with_reducible refine foldl_wf (fun s x h => ?_) ?_) | split | (intro s c h) | (intro s h) | (dsimp only)

theorem execMulhu_wf {x0 : BitVec 3} {x1 : BitVec 6} {x2 : BitVec 6} {x3 : BitVec 6} {s : State} (h : Memory.wf s.mem = true) :
    OutWf (execMulhu x0 x1 x2 x3 s) := by
  unfold execMulhu
  repeat' first
    | with_reducible exact h | with_reducible assumption | with_reducible apply aluOp_wf

theorem execMxLoop_wf {x0 : BitVec 3} {s : State} (h : Memory.wf s.mem = true) :
    OutWf (execMxLoop x0 s) := by
  unfold execMxLoop
  repeat' first
    | with_reducible exact h | with_reducible assumption | with_reducible apply microMeaning_wf
    | with_reducible apply State.setCall_wf | with_reducible apply State.nextWord_wf
    | with_reducible apply State.endCall_wf | with_reducible apply ok_wf | split | (intro s c h) | (intro s h)
    | (dsimp only)

theorem State.setRight_wf {s : State} {x1 : Nat} {x2 : Bool} {x3 : BitVec 12} (h : Memory.wf s.mem = true) :
    Memory.wf (State.setRight s x1 x2 x3).mem = true := by
  unfold State.setRight
  repeat' first
    | with_reducible exact h | with_reducible assumption | with_reducible apply State.updStack_wf | (intro s h)
    | (dsimp only)

theorem execOwnerRightWrite_wf {x0 : Nat} {x1 : Bool} {x2 : BitVec 12} {s : State} (h : Memory.wf s.mem = true) :
    OutWf (execOwnerRightWrite x0 x1 x2 s) := by
  unfold execOwnerRightWrite
  repeat' first
    | with_reducible exact h | with_reducible assumption | with_reducible apply ok_wf
    | with_reducible apply State.setRight_wf | with_reducible apply ok_wf | split | (intro s h) | (dsimp only)

theorem execVclr_wf {x0 : BitVec 3} {x1 : BitVec 7} {s : State} (h : Memory.wf s.mem = true) :
    OutWf (execVclr x0 x1 s) := by
  unfold execVclr
  repeat' first
    | with_reducible exact h | with_reducible assumption | with_reducible apply vecOp_wf

theorem State.restoreContext_wf {s : State} {x1 : Nat} (h : Memory.wf s.mem = true) :
    Memory.wf (State.restoreContext s x1).mem = true := by
  unfold State.restoreContext
  repeat' first
    | with_reducible exact h | with_reducible assumption | with_reducible apply State.handBack_wf
    | with_reducible apply State.updCore_wf | with_reducible apply State.report_wf
    | with_reducible apply State.updDie_wf | with_reducible apply State.setPhase_wf
    | with_reducible apply State.doubleTrap_wf | split | (intro s h) | (dsimp only)

theorem execContextRestore_wf {x0 : Nat} {s : State} (h : Memory.wf s.mem = true) :
    OutWf (execContextRestore x0 s) := by
  unfold execContextRestore
  repeat' first
    | with_reducible exact h | with_reducible assumption | with_reducible apply ok_wf
    | with_reducible apply State.restoreContext_wf | with_reducible apply ok_wf | split | (intro s h) | (dsimp only)

theorem execVredSum_wf {x0 : BitVec 3} {x1 : BitVec 7} {x2 : BitVec 7} {x3 : BitVec 2} {s : State} (h : Memory.wf s.mem = true) :
    OutWf (execVredSum x0 x1 x2 x3 s) := by
  unfold execVredSum
  repeat' first
    | with_reducible exact h | with_reducible assumption | with_reducible apply redOp_wf

theorem execCmpi_wf {x0 : BitVec 3} {x1 : BitVec 3} {x2 : BitVec 3} {x3 : BitVec 6} {x4 : BitVec 11} {s : State} (h : Memory.wf s.mem = true) :
    OutWf (execCmpi x0 x1 x2 x3 x4 s) := by
  unfold execCmpi
  repeat' first
    | with_reducible exact h | with_reducible assumption | with_reducible apply slotMeaning_wf
    | with_reducible apply State.putPred_wf | intro s h

theorem State.halt_wf {s : State} {x1 : Nat} (h : Memory.wf s.mem = true) :
    Memory.wf (State.halt s x1).mem = true := by
  unfold State.halt
  repeat' first
    | with_reducible exact h | with_reducible assumption | with_reducible apply State.updCore_wf | split
    | (intro s h) | (dsimp only)

theorem execGraceExpiry_wf {x0 : ℕ} {s : State} (h : Memory.wf s.mem = true) :
    OutWf (execGraceExpiry x0 s) := by
  unfold execGraceExpiry
  repeat' first
    | with_reducible exact h | with_reducible assumption | with_reducible apply ok_wf
    | with_reducible apply State.halt_wf | with_reducible apply ok_wf | split

theorem State.setIo_wf {s : State} {x1 : IoDie} (h : Memory.wf s.mem = true) :
    Memory.wf (State.setIo s x1).mem = true := by
  unfold State.setIo
  repeat' first
    | with_reducible exact h

theorem State.softRequest_wf {s : State} {x1 : Nat} (h : Memory.wf s.mem = true) :
    Memory.wf (State.softRequest s x1).mem = true := by
  unfold State.softRequest
  repeat' first
    | with_reducible exact h | with_reducible assumption | with_reducible apply State.request_wf | split
    | (intro s h) | (dsimp only)

theorem State.hardRequest_wf {s : State} {x1 : Nat} (h : Memory.wf s.mem = true) :
    Memory.wf (State.hardRequest s x1).mem = true := by
  unfold State.hardRequest
  repeat' first
    | with_reducible exact h | with_reducible assumption | with_reducible apply State.request_wf
    | with_reducible apply State.halt_wf | split | (intro s h) | (dsimp only)

theorem State.resetCore_wf {s : State} {x1 : Nat} (h : Memory.wf s.mem = true) :
    Memory.wf (State.resetCore s x1).mem = true := by
  unfold State.resetCore
  repeat' first
    | with_reducible exact h | with_reducible assumption | with_reducible apply State.beginFlr_wf | split
    | (intro s h) | (dsimp only)

theorem State.writePrectl_wf {s : State} {x1 : Nat} {x2 : W64} (h : Memory.wf s.mem = true) :
    Memory.wf (State.writePrectl s x1 x2).mem = true := by
  unfold State.writePrectl
  repeat' first
    | with_reducible exact h | with_reducible assumption | with_reducible apply State.resetCore_wf
    | with_reducible apply State.restoreContext_wf | with_reducible apply State.softRequest_wf
    | with_reducible apply State.hardRequest_wf | with_reducible apply State.killRequest_wf | split | (intro s h)
    | (dsimp only)

theorem State.enableLink_wf {s : State} {x1 : Nat} (h : Memory.wf s.mem = true) :
    Memory.wf (State.enableLink s x1).mem = true := by
  unfold State.enableLink
  repeat' first
    | with_reducible exact h | with_reducible assumption | with_reducible apply State.updLink_wf
    | with_reducible apply State.newLatencies_wf | split | (intro s h) | (dsimp only)

theorem State.setSlot_wf {s : State} {x1 : Nat} {x2 : Nat} {x3 : BitVec 16} (h : Memory.wf s.mem = true) :
    Memory.wf (State.setSlot s x1 x2 x3).mem = true := by
  unfold State.setSlot
  repeat' first
    | with_reducible exact h | with_reducible assumption | with_reducible apply State.updDie_wf | split | (intro s h)
    | (dsimp only)

theorem State.setMap_wf {s : State} {x1 : Nat} {x2 : Nat} {x3 : W64} (h : Memory.wf s.mem = true) :
    Memory.wf (State.setMap s x1 x2 x3).mem = true := by
  unfold State.setMap
  repeat' first
    | with_reducible exact h | with_reducible assumption | with_reducible apply State.ingress_wf | split
    | (intro s h) | (dsimp only)

theorem State.setReg_wf {s : State} {x1 : PlatformReg} {x2 : W64} (h : Memory.wf s.mem = true) :
    Memory.wf (State.setReg s x1 x2).mem = true := by
  unfold State.setReg
  repeat' first
    | with_reducible exact h | with_reducible assumption | with_reducible apply State.setRight_wf
    | with_reducible apply State.setSlot_wf | with_reducible apply State.setMap_wf
    | with_reducible apply State.enableLink_wf | with_reducible apply State.writePrectl_wf
    | with_reducible apply State.allot_wf | with_reducible apply State.setIo_wf
    | with_reducible apply State.updDie_wf | with_reducible apply State.violation_wf
    | with_reducible apply State.updStack_wf | split | (intro s h) | (dsimp only)

theorem State.writeReg_wf {s : State} {x1 : PlatformReg} {x2 : W64} (h : Memory.wf s.mem = true) :
    Memory.wf (State.writeReg s x1 x2).mem = true := by
  unfold State.writeReg
  repeat' first
    | with_reducible exact h | with_reducible assumption | with_reducible apply State.setReg_wf | split | (intro s h)
    | (dsimp only)

theorem execPlatformRegisterWrite_wf {x0 : PlatformReg} {x1 : W64} {s : State} (h : Memory.wf s.mem = true) :
    OutWf (execPlatformRegisterWrite x0 x1 s) := by
  unfold execPlatformRegisterWrite
  repeat' first
    | with_reducible exact h | with_reducible assumption | with_reducible apply ok_wf
    | with_reducible apply State.writeReg_wf

theorem execVxor_wf {x0 : BitVec 3} {x1 : BitVec 7} {x2 : BitVec 7} {x3 : BitVec 7} {s : State} (h : Memory.wf s.mem = true) :
    OutWf (execVxor x0 x1 x2 x3 s) := by
  unfold execVxor
  repeat' first
    | with_reducible exact h | with_reducible assumption | with_reducible apply bitOp_wf

theorem execPor_wf {x0 : BitVec 3} {x1 : BitVec 3} {x2 : BitVec 3} {x3 : BitVec 3} {s : State} (h : Memory.wf s.mem = true) :
    OutWf (execPor x0 x1 x2 x3 s) := by
  unfold execPor
  repeat' first
    | with_reducible exact h | with_reducible assumption | with_reducible apply predOp_wf

theorem execVabs_wf {x0 : BitVec 3} {x1 : BitVec 7} {x2 : BitVec 7} {x3 : BitVec 2} {s : State} (h : Memory.wf s.mem = true) :
    OutWf (execVabs x0 x1 x2 x3 s) := by
  unfold execVabs
  repeat' first
    | with_reducible exact h | with_reducible assumption | with_reducible apply unOp_wf

theorem execAmoSwap_wf {x0 : BitVec 3} {x1 : BitVec 6} {x2 : BitVec 6} {x3 : BitVec 6} {x4 : BitVec 2} {s : State} (h : Memory.wf s.mem = true) :
    OutWf (execAmoSwap x0 x1 x2 x3 x4 s) := by
  unfold execAmoSwap
  repeat' first
    | with_reducible exact h | with_reducible assumption | with_reducible apply atomicOp_wf

theorem execWait_wf {x0 : BitVec 3} {x1 : BitVec 5} {x2 : BitVec 5} {x3 : BitVec 5} {x4 : BitVec 5} {s : State} (h : Memory.wf s.mem = true) :
    OutWf (execWait x0 x1 x2 x3 x4 s) := by
  unfold execWait
  repeat' first
    | with_reducible exact h | with_reducible assumption | with_reducible apply slotMeaning_wf
    | with_reducible apply State.join_wf | intro s h

theorem execMul_wf {x0 : BitVec 3} {x1 : BitVec 6} {x2 : BitVec 6} {x3 : BitVec 6} {s : State} (h : Memory.wf s.mem = true) :
    OutWf (execMul x0 x1 x2 x3 s) := by
  unfold execMul
  repeat' first
    | with_reducible exact h | with_reducible assumption | with_reducible apply aluOp_wf

theorem execFlitTransmit_wf {x0 : Nat} {x1 : Bool} {x2 : BitVec 2} {x3 : BitVec 2} {x4 : Byte} {x5 : Byte} {x6 : Byte} {x7 : Bool} {s : State} (h : Memory.wf s.mem = true) :
    OutWf (execFlitTransmit x0 x1 x2 x3 x4 x5 x6 x7 s) := by
  unfold execFlitTransmit
  repeat' first
    | with_reducible exact h | with_reducible assumption | with_reducible apply ok_wf
    | with_reducible apply State.updLink_wf | with_reducible apply ok_wf | split | (intro s h) | (dsimp only)

theorem State.mirrorOwner_wf {s : State} {x1 : Nat} (h : Memory.wf s.mem = true) :
    Memory.wf (State.mirrorOwner s x1).mem = true := by
  unfold State.mirrorOwner
  repeat' first
    | with_reducible exact h | with_reducible assumption | with_reducible apply State.updDie_wf
    | (with_reducible refine foldl_wf (fun s x h => ?_) ?_) | (intro s h) | (dsimp only)

theorem State.settleStacks_wf {s : State} {x1 : Nat} (h : Memory.wf s.mem = true) :
    Memory.wf (State.settleStacks s x1).mem = true := by
  unfold State.settleStacks
  repeat' first
    | with_reducible exact h | with_reducible assumption | with_reducible apply State.updStack_wf
    | with_reducible apply State.mirrorOwner_wf | (with_reducible refine foldl_wf (fun s x h => ?_) ?_) | split
    | (intro s h) | (dsimp only)

theorem execDieRelease_wf {x0 : List Byte} {x1 : List Byte} {x2 : Bool} {s : State} (h : Memory.wf s.mem = true) :
    OutWf (execDieRelease x0 x1 x2 s) := by
  unfold execDieRelease
  repeat' first
    | with_reducible exact h | with_reducible assumption | with_reducible apply ok_wf
    | with_reducible apply State.updStack_wf | with_reducible apply State.updDie_wf
    | with_reducible apply State.bootCores_wf | with_reducible apply State.settleStacks_wf
    | with_reducible apply ok_wf | split | (intro s h) | (dsimp only)

theorem execShri_wf {x0 : BitVec 3} {x1 : BitVec 6} {x2 : BitVec 6} {x3 : BitVec 6} {s : State} (h : Memory.wf s.mem = true) :
    OutWf (execShri x0 x1 x2 x3 s) := by
  unfold execShri
  repeat' first
    | with_reducible exact h | with_reducible assumption | with_reducible apply aluImm_wf

theorem State.faultOr_wf {s : State} {x1 : ℕ} {x2 : ℕ} {x3 : ℕ} (h : Memory.wf s.mem = true) :
    Memory.wf (State.faultOr s x1 x2 x3).mem = true := by
  unfold State.faultOr
  repeat' first
    | with_reducible exact h | with_reducible assumption | with_reducible apply State.streamFault_wf | split

theorem State.placeLaunch_wf {s : State} {x1 : ℕ} {x2 : Launch} (h : Memory.wf s.mem = true) :
    Memory.wf (State.placeLaunch s x1 x2).mem = true := by
  unfold State.placeLaunch
  repeat' first
    | with_reducible exact h | with_reducible assumption | with_reducible apply State.updDie_wf

theorem State.startLaunch_wf {s : State} {x1 : List ℕ} {x2 : Launch} (h : Memory.wf s.mem = true) :
    Memory.wf (State.startLaunch s x1 x2).mem = true := by
  unfold State.startLaunch
  repeat' first
    | with_reducible exact h | with_reducible assumption | with_reducible apply State.placeLaunch_wf
    | (with_reducible refine foldl_wf (fun s x h => ?_) ?_)

theorem State.launchPacket_wf {s : State} {x1 : Nat} {x2 : Nat} {x3 : Queue} {x4 : Byte} {x5 : W64} {x6 : Option W64} (h : Memory.wf s.mem = true) :
    Memory.wf (State.launchPacket s x1 x2 x3 x4 x5 x6).mem = true := by
  unfold State.launchPacket
  repeat' first
    | with_reducible exact h | with_reducible assumption | with_reducible apply State.streamFault_wf
    | with_reducible apply State.faultOr_wf | with_reducible apply ok_wf | with_reducible apply State.cpTurns_wf
    | with_reducible apply State.startLaunch_wf | with_reducible apply State.consume_wf | with_reducible apply ok_wf
    | split | (intro s h) | (dsimp only)

theorem execLaunch_wf {x0 : Byte} {x1 : W64} {s : State} (h : Memory.wf s.mem = true) :
    OutWf (execLaunch x0 x1 s) := by
  unfold execLaunch
  repeat' first
    | with_reducible exact h | with_reducible assumption | with_reducible apply packetMeaning_wf
    | with_reducible apply State.launchPacket_wf | with_reducible apply ok_wf | split | (intro s d q x h)

theorem execRemotePost_wf {x0 : ℕ} {x1 : ℕ} {s : State} (h : Memory.wf s.mem = true) :
    OutWf (execRemotePost x0 x1 s) := by
  unfold execRemotePost
  repeat' first
    | with_reducible exact h | with_reducible assumption | with_reducible apply ok_wf
    | with_reducible apply State.updCore_wf | with_reducible apply State.copyFault_wf | with_reducible apply ok_wf
    | split | (intro s h) | (intro s h) | (dsimp only)

theorem execMxcall_wf {x0 : BitVec 3} {x1 : BitVec 6} {x2 : BitVec 6} {x3 : BitVec 5} {s : State} (h : Memory.wf s.mem = true) :
    OutWf (execMxcall x0 x1 x2 x3 s) := by
  unfold execMxcall
  repeat' first
    | with_reducible exact h | with_reducible assumption | with_reducible apply slotMeaning_wf
    | with_reducible apply State.updK_wf | with_reducible apply State.write_wf | with_reducible apply ok_wf
    | (with_reducible refine foldl_wf (fun s x h => ?_) ?_) | split | (intro s h) | (dsimp only)

theorem State.indexDone_wf {s : State} {x1 : ℕ} {x2 : Task} {x3 : ℕ} (h : Memory.wf s.mem = true) :
    Memory.wf (State.indexDone s x1 x2 x3).mem = true := by
  unfold State.indexDone
  repeat' first
    | with_reducible exact h | with_reducible assumption | with_reducible apply State.updLaunch_wf

theorem State.taskDone_wf {s : State} {x1 : ℕ} {x2 : Task} (h : Memory.wf s.mem = true) :
    Memory.wf (State.taskDone s x1 x2).mem = true := by
  unfold State.taskDone
  repeat' first
    | with_reducible exact h | with_reducible assumption | with_reducible apply State.indexDone_wf
    | (with_reducible refine foldl_wf (fun s x h => ?_) ?_)

theorem State.leaveBrick_wf {s : State} {x1 : Nat} {x2 : Task} {x3 x4 : W64} (h : Memory.wf s.mem = true) :
    Memory.wf (State.leaveBrick s x1 x2 x3 x4).mem = true := by
  have h0 : Memory.wf (s.updCore x1 Core.rest).mem = true := State.updCore_wf h
  unfold State.leaveBrick
  refine iteInduction (motive := fun (u : State) => Memory.wf u.mem = true)
    (fun _ => State.reportIndices_wf h0) (fun _ => ?_)
  exact iteInduction (motive := fun (u : State) => Memory.wf u.mem = true)
    (fun _ => State.updCore_wf (State.report_wf h0)) (fun _ => State.updDie_wf h0)

theorem State.taskLeaves_wf {s : State} {x1 : Nat} {x2 : Task} (h : Memory.wf s.mem = true) :
    Memory.wf (State.taskLeaves s x1 x2).mem = true := by
  have h1 : Memory.wf (s.updCore x1 Core.rest).mem = true := State.updCore_wf h
  have h2 : Memory.wf ((s.taskDone (dieOf x1) x2).updCore x1 Core.rest).mem = true := State.updCore_wf (State.taskDone_wf h)
  unfold State.taskLeaves
  cases x2.ending
  · exact h2
  · exact h2
  · exact h1
  · exact State.leaveBrick_wf h

theorem execTaskComplete_wf {x0 : Nat} {s : State} (h : Memory.wf s.mem = true) :
    OutWf (execTaskComplete x0 s) := by
  unfold execTaskComplete
  repeat' first
    | with_reducible exact h | with_reducible assumption | with_reducible apply ok_wf
    | with_reducible apply State.taskLeaves_wf | with_reducible apply State.handBack_wf | with_reducible apply ok_wf
    | split | (intro s h) | (dsimp only)

theorem execVredMax_wf {x0 : BitVec 3} {x1 : BitVec 7} {x2 : BitVec 7} {x3 : BitVec 2} {s : State} (h : Memory.wf s.mem = true) :
    OutWf (execVredMax x0 x1 x2 x3 s) := by
  unfold execVredMax
  repeat' first
    | with_reducible exact h | with_reducible assumption | with_reducible apply redOp_wf

theorem execBrickReady_wf {x0 : Nat} {x1 : Nat} {s : State} (h : Memory.wf s.mem = true) :
    OutWf (execBrickReady x0 x1 s) := by
  unfold execBrickReady
  repeat' first
    | with_reducible exact h | with_reducible assumption | with_reducible apply ok_wf
    | with_reducible apply State.cpTurn_wf | with_reducible apply State.updDie_wf
    | with_reducible apply State.cpHold_wf | with_reducible apply State.cpDrop_wf
    | with_reducible apply State.report_wf | with_reducible apply State.failLaunch_wf | with_reducible apply ok_wf
    | (with_reducible refine foldl_wf (fun s x h => ?_) ?_) | split | (intro s h) | (dsimp only)

theorem execViota_wf {x0 : BitVec 3} {x1 : BitVec 7} {x2 : BitVec 2} {s : State} (h : Memory.wf s.mem = true) :
    OutWf (execViota x0 x1 x2 s) := by
  unfold execViota
  repeat' first
    | with_reducible exact h | with_reducible assumption | with_reducible apply vecOp_wf

theorem execEvict_wf {x0 : Nat} {x1 : Nat} {s : State} (h : Memory.wf s.mem = true) :
    OutWf (execEvict x0 x1 s) := by
  unfold execEvict
  repeat' first
    | with_reducible exact h | with_reducible assumption | with_reducible apply ok_wf
    | with_reducible apply State.updCore_wf | with_reducible apply ok_wf | (intro s h) | (dsimp only)

theorem execLoopPacket_wf {x0 : BitVec 1} {x1 : W64} {s : State} (h : Memory.wf s.mem = true) :
    OutWf (execLoopPacket x0 x1 s) := by
  unfold execLoopPacket
  repeat' first
    | with_reducible exact h | with_reducible assumption | with_reducible apply packetMeaning_wf
    | with_reducible apply State.consume_wf | with_reducible apply State.streamFault_wf
    | with_reducible refine State.reading_wf ?_ ?_ | with_reducible apply ok_wf | split | (intro s d q x h)
    | (intro s n h) | (intro s h) | (dsimp only)

theorem execCgo_wf {x0 : BitVec 3} {x1 : BitVec 6} {x2 : BitVec 6} {x3 : BitVec 6} {s : State} (h : Memory.wf s.mem = true) :
    OutWf (execCgo x0 x1 x2 x3 s) := by
  unfold execCgo
  repeat' first
    | with_reducible exact h | with_reducible assumption | with_reducible apply copyIssue_wf

theorem execMaxu_wf {x0 : BitVec 3} {x1 : BitVec 6} {x2 : BitVec 6} {x3 : BitVec 6} {s : State} (h : Memory.wf s.mem = true) :
    OutWf (execMaxu x0 x1 x2 x3 s) := by
  unfold execMaxu
  repeat' first
    | with_reducible exact h | with_reducible assumption | with_reducible apply aluOp_wf

theorem execThrottleLevelChange_wf {x0 : ℕ} {x1 : ℕ} {x2 : ℕ} {s : State} (h : Memory.wf s.mem = true) :
    OutWf (execThrottleLevelChange x0 x1 x2 s) := by
  unfold execThrottleLevelChange
  repeat' first
    | with_reducible exact h | with_reducible assumption | with_reducible apply ok_wf
    | with_reducible apply State.updDie_wf | with_reducible apply ok_wf | split

theorem execLinkMirrorUpdate_wf {x0 : ℕ} {x1 : ℕ} {s : State} (h : Memory.wf s.mem = true) :
    OutWf (execLinkMirrorUpdate x0 x1 s) := by
  unfold execLinkMirrorUpdate
  repeat' first
    | with_reducible exact h | with_reducible assumption | with_reducible apply ok_wf
    | with_reducible apply State.updDie_wf

theorem execGetCapabilities_wf {s : State} (h : Memory.wf s.mem = true) :
    OutWf (execGetCapabilities s) := by
  unfold execGetCapabilities
  repeat' first
    | with_reducible exact h | with_reducible assumption | with_reducible apply ok_wf
    | with_reducible apply State.respond_wf

theorem execSneg_wf {x0 : BitVec 3} {x1 : BitVec 7} {x2 : BitVec 7} {x3 : BitVec 2} {s : State} (h : Memory.wf s.mem = true) :
    OutWf (execSneg x0 x1 x2 x3 s) := by
  unfold execSneg
  repeat' first
    | with_reducible exact h | with_reducible assumption | with_reducible apply setOp2_wf

theorem execEndl_wf {s : State} (h : Memory.wf s.mem = true) :
    OutWf (execEndl s) := by
  unfold execEndl
  repeat' first
    | with_reducible exact h | with_reducible assumption | with_reducible apply microMeaning_wf
    | with_reducible apply State.setCall_wf | with_reducible apply State.nextWord_wf
    | with_reducible apply State.endCall_wf | with_reducible apply ok_wf | split | (intro s c h)

theorem execPxor_wf {x0 : BitVec 3} {x1 : BitVec 3} {x2 : BitVec 3} {x3 : BitVec 3} {s : State} (h : Memory.wf s.mem = true) :
    OutWf (execPxor x0 x1 x2 x3 s) := by
  unfold execPxor
  repeat' first
    | with_reducible exact h | with_reducible assumption | with_reducible apply predOp_wf

theorem execJr_wf {x0 : BitVec 3} {x1 : BitVec 6} {s : State} (h : Memory.wf s.mem = true) :
    OutWf (execJr x0 x1 s) := by
  unfold execJr
  repeat' first
    | with_reducible exact h | with_reducible assumption | with_reducible apply slotMeaning_wf
    | with_reducible apply State.jump_wf | intro s h

theorem State.endRun_wf {s : State} {x1 : Ending} (h : Memory.wf s.mem = true) :
    Memory.wf (State.endRun s x1).mem = true := by
  unfold State.endRun
  repeat' first
    | with_reducible exact h | with_reducible assumption | with_reducible apply State.updK_wf

theorem execEndTask_wf {x0 : BitVec 3} {s : State} (h : Memory.wf s.mem = true) :
    OutWf (execEndTask x0 s) := by
  unfold execEndTask
  repeat' first
    | with_reducible exact h | with_reducible assumption | with_reducible apply slotMeaning_wf
    | with_reducible apply State.endRun_wf | intro s h

theorem execTranslationRecordWrite_wf {x0 : Nat} {x1 : Nat} {x2 : Bool} {x3 : BitVec 512} {s : State} (h : Memory.wf s.mem = true) :
    OutWf (execTranslationRecordWrite x0 x1 x2 x3 s) := by
  unfold execTranslationRecordWrite
  repeat' first
    | with_reducible exact h | with_reducible assumption | with_reducible apply ok_wf
    | with_reducible apply State.updDie_wf | with_reducible apply ok_wf | split | (intro s h) | (dsimp only)

theorem execInvalidationRequest_wf {x0 : Nat} {x1 : Nat} {x2 : Nat} {x3 : W64} {x4 : Nat} {s : State} (h : Memory.wf s.mem = true) :
    OutWf (execInvalidationRequest x0 x1 x2 x3 x4 s) := by
  unfold execInvalidationRequest
  repeat' first
    | with_reducible exact h | with_reducible assumption | with_reducible apply ok_wf
    | with_reducible apply State.dropTranslations_wf | with_reducible apply State.updDie_wf
    | with_reducible apply ok_wf | split | (intro s h) | (dsimp only)

theorem execRingld_wf {x0 : BitVec 3} {x1 : BitVec 2} {x2 : BitVec 6} {s : State} (h : Memory.wf s.mem = true) :
    OutWf (execRingld x0 x1 x2 s) := by
  unfold execRingld
  repeat' first
    | with_reducible exact h | with_reducible assumption | with_reducible apply slotMeaning_wf
    | with_reducible apply State.updK_wf | with_reducible apply ok_wf | split | (intro s h) | (dsimp only)

theorem execUnsupportedRequest_wf {s : State} (h : Memory.wf s.mem = true) :
    OutWf (execUnsupportedRequest s) := by
  unfold execUnsupportedRequest
  repeat' first
    | with_reducible exact h | with_reducible assumption | with_reducible apply ok_wf
    | with_reducible apply State.respond_wf

theorem execHstat_wf {x0 : BitVec 3} {x1 : BitVec 6} {x2 : BitVec 6} {s : State} (h : Memory.wf s.mem = true) :
    OutWf (execHstat x0 x1 x2 s) := by
  unfold execHstat
  repeat' first
    | with_reducible exact h | with_reducible assumption | with_reducible apply slotMeaning_wf
    | with_reducible apply State.setPending_wf | with_reducible apply State.joinHandle_wf
    | with_reducible apply State.updK_wf | intro s h | with_reducible apply ok_wf | split

theorem State.returnFromTrap_wf {s : State} {x1 : Nat} (h : Memory.wf s.mem = true) :
    Memory.wf (State.returnFromTrap s x1).mem = true := by
  unfold State.returnFromTrap
  repeat' first
    | with_reducible exact h | with_reducible assumption | with_reducible apply State.updCore_wf
    | with_reducible apply State.reportTask_wf | with_reducible apply State.failTask_wf
    | with_reducible apply State.applyNext_wf | split | (intro s h) | (dsimp only)

theorem execEret_wf {x0 : BitVec 3} {s : State} (h : Memory.wf s.mem = true) :
    OutWf (execEret x0 s) := by
  unfold execEret
  repeat' first
    | with_reducible exact h | with_reducible assumption | with_reducible apply slotMeaning_wf
    | with_reducible apply State.returnFromTrap_wf | with_reducible apply State.jump_wf | with_reducible apply ok_wf
    | split | (intro s h) | (dsimp only)

theorem execLanding_wf {x0 : ℕ} {s : State} (h : Memory.wf s.mem = true) :
    OutWf (execLanding x0 s) := by
  unfold execLanding
  repeat' first
    | with_reducible exact h | with_reducible assumption | with_reducible apply ok_wf
    | with_reducible apply State.landDue_wf

theorem execUserLevelInterrupt_wf {x0 : ℕ} {s : State} (h : Memory.wf s.mem = true) :
    OutWf (execUserLevelInterrupt x0 s) := by
  unfold execUserLevelInterrupt
  repeat' first
    | with_reducible exact h | with_reducible assumption | with_reducible apply ok_wf
    | with_reducible apply State.updCore_wf | with_reducible apply ok_wf | split

theorem execBr_wf {x0 : BitVec 3} {x1 : BitVec 20} {s : State} (h : Memory.wf s.mem = true) :
    OutWf (execBr x0 x1 s) := by
  unfold execBr
  repeat' first
    | with_reducible exact h | with_reducible assumption | with_reducible apply slotMeaning_wf
    | with_reducible apply State.jump_wf | intro s h

theorem execShand_wf {x0 : BitVec 3} {x1 : BitVec 6} {x2 : BitVec 6} {s : State} (h : Memory.wf s.mem = true) :
    OutWf (execShand x0 x1 x2 s) := by
  unfold execShand
  repeat' first
    | with_reducible exact h | with_reducible assumption | with_reducible apply slotMeaning_wf
    | with_reducible apply State.cut_wf | with_reducible apply ok_wf | split | (intro s h) | (dsimp only)

theorem execVunpk_wf {x0 : BitVec 3} {x1 : BitVec 7} {x2 : BitVec 7} {x3 : BitVec 4} {x4 : BitVec 3} {x5 : BitVec 2} {s : State} (h : Memory.wf s.mem = true) :
    OutWf (execVunpk x0 x1 x2 x3 x4 x5 s) := by
  unfold execVunpk
  repeat' first
    | with_reducible exact h | with_reducible assumption | with_reducible apply vecOp_wf

theorem execLinkEnable_wf {x0 : Nat} {s : State} (h : Memory.wf s.mem = true) :
    OutWf (execLinkEnable x0 s) := by
  unfold execLinkEnable
  repeat' first
    | with_reducible exact h | with_reducible assumption | with_reducible apply ok_wf
    | with_reducible apply State.enableLink_wf | with_reducible apply ok_wf | split | (intro s h) | (dsimp only)

theorem execSend_wf {x0 : Nat} {x1 : Nat} {s : State} (h : Memory.wf s.mem = true) :
    OutWf (execSend x0 x1 s) := by
  unfold execSend
  repeat' first
    | with_reducible exact h | with_reducible assumption | with_reducible apply ok_wf
    | with_reducible apply State.take_wf | with_reducible apply State.updDie_wf
    | with_reducible apply State.dropStale_wf | with_reducible apply State.toPort_wf
    | with_reducible apply State.lostWrite_wf | with_reducible apply ok_wf | split | (intro s h) | (dsimp only)

theorem execMulh_wf {x0 : BitVec 3} {x1 : BitVec 6} {x2 : BitVec 6} {x3 : BitVec 6} {s : State} (h : Memory.wf s.mem = true) :
    OutWf (execMulh x0 x1 x2 x3 s) := by
  unfold execMulh
  repeat' first
    | with_reducible exact h | with_reducible assumption | with_reducible apply aluOp_wf

theorem execVpack_wf {x0 : BitVec 3} {x1 : BitVec 7} {x2 : BitVec 7} {x3 : BitVec 4} {x4 : BitVec 3} {x5 : BitVec 2} {s : State} (h : Memory.wf s.mem = true) :
    OutWf (execVpack x0 x1 x2 x3 x4 x5 s) := by
  unfold execVpack
  repeat' first
    | with_reducible exact h | with_reducible assumption | with_reducible apply vecRound_wf

theorem execPget_wf {x0 : BitVec 3} {x1 : BitVec 6} {s : State} (h : Memory.wf s.mem = true) :
    OutWf (execPget x0 x1 s) := by
  unfold execPget
  repeat' first
    | with_reducible exact h | with_reducible assumption | with_reducible apply slotMeaning_wf
    | with_reducible apply State.putScalar_wf | intro s h

theorem execUien_wf {x0 : BitVec 3} {x1 : BitVec 6} {x2 : BitVec 1} {s : State} (h : Memory.wf s.mem = true) :
    OutWf (execUien x0 x1 x2 s) := by
  unfold execUien
  repeat' first
    | with_reducible exact h | with_reducible assumption | with_reducible apply slotMeaning_wf
    | with_reducible apply State.updK_wf | intro s h

theorem execSown_wf {x0 : BitVec 3} {x1 : BitVec 6} {x2 : BitVec 6} {s : State} (h : Memory.wf s.mem = true) :
    OutWf (execSown x0 x1 x2 s) := by
  unfold execSown
  repeat' first
    | with_reducible exact h | with_reducible assumption | with_reducible apply slotMeaning_wf
    | with_reducible apply State.putScalar_wf | intro s h

theorem execCmp_wf {x0 : BitVec 3} {x1 : BitVec 3} {x2 : BitVec 6} {x3 : BitVec 6} {x4 : BitVec 5} {s : State} (h : Memory.wf s.mem = true) :
    OutWf (execCmp x0 x1 x2 x3 x4 s) := by
  unfold execCmp
  repeat' first
    | with_reducible exact h | with_reducible assumption | with_reducible apply slotMeaning_wf
    | with_reducible apply State.putPred_wf | intro s h

theorem execQuorumDecision_wf {x0 : Nat} {s : State} (h : Memory.wf s.mem = true) :
    OutWf (execQuorumDecision x0 s) := by
  unfold execQuorumDecision
  repeat' first
    | with_reducible exact h | with_reducible assumption | with_reducible apply ok_wf
    | with_reducible apply State.fence_wf | with_reducible apply State.failLaunch_wf
    | with_reducible apply State.updDie_wf | with_reducible apply State.updCopies_wf | with_reducible apply ok_wf
    | (with_reducible refine foldl_wf (fun s x h => ?_) ?_) | split | (intro s h) | (dsimp only)

theorem State.dropKey_wf {s : State} {x1 : Hm} (h : Memory.wf s.mem = true) :
    Memory.wf (State.dropKey s x1).mem = true := by
  unfold State.dropKey
  repeat' first
    | with_reducible exact h | with_reducible assumption | (intro s h) | (dsimp only)

theorem State.switchIo_wf {s : State} {x1 : ℕ} (h : Memory.wf s.mem = true) :
    Memory.wf (State.switchIo s x1).mem = true := by
  unfold State.switchIo
  repeat' first
    | with_reducible exact h

theorem State.switchCompute_wf {s : State} {x1 : Nat} {x2 : Nat} {x3 : TenEnd} (h : Memory.wf s.mem = true) :
    Memory.wf (State.switchCompute s x1 x2 x3).mem = true := by
  unfold State.switchCompute
  repeat' first
    | with_reducible exact h | with_reducible assumption | with_reducible apply State.updTen_wf
    | with_reducible apply State.switched_wf | with_reducible apply State.updDie_wf
    | with_reducible apply State.setGenOn_wf | (with_reducible refine foldl_wf (fun s x h => ?_) ?_) | split
    | (intro s h) | (dsimp only)

theorem State.stopCores_wf {s : State} {x1 : Nat} {x2 : Nat} (h : Memory.wf s.mem = true) :
    Memory.wf (State.stopCores s x1 x2).mem = true := by
  unfold State.stopCores
  repeat' first
    | with_reducible exact h | with_reducible assumption | split | (intro s h) | (dsimp only)

theorem execTenendSwitch_wf {x0 : Nat} {x1 : Nat} {s : State} (h : Memory.wf s.mem = true) :
    OutWf (execTenendSwitch x0 x1 s) := by
  unfold execTenendSwitch
  repeat' first
    | with_reducible exact h | with_reducible assumption | with_reducible apply ok_wf
    | with_reducible apply State.switched_wf | with_reducible apply State.stopCores_wf
    | with_reducible apply State.switchCompute_wf | with_reducible apply State.updTen_wf
    | with_reducible apply State.setGenOn_wf | with_reducible apply State.switchIo_wf
    | with_reducible apply State.dropKey_wf | with_reducible apply ok_wf | split | (intro s h) | (dsimp only)

theorem execMovi_wf {x0 : BitVec 3} {x1 : BitVec 6} {x2 : BitVec 17} {s : State} (h : Memory.wf s.mem = true) :
    OutWf (execMovi x0 x1 x2 s) := by
  unfold execMovi
  repeat' first
    | with_reducible exact h | with_reducible assumption | with_reducible apply slotMeaning_wf
    | with_reducible apply State.putScalar_wf | intro s h

theorem execLda_wf {x0 : BitVec 3} {x1 : BitVec 6} {x2 : BitVec 6} {x3 : BitVec 5} {x4 : BitVec 2} {x5 : BitVec 2} {s : State} (h : Memory.wf s.mem = true) :
    OutWf (execLda x0 x1 x2 x3 x4 x5 s) := by
  unfold execLda
  repeat' first
    | with_reducible exact h | with_reducible assumption | with_reducible apply loadOp_wf

theorem execFlowRegister_wf {x0 : Nat} {x1 : W64} {x2 : BitVec 256} {s : State} (h : Memory.wf s.mem = true) :
    OutWf (execFlowRegister x0 x1 x2 s) := by
  unfold execFlowRegister
  repeat' first
    | with_reducible exact h | with_reducible assumption | with_reducible apply ok_wf | with_reducible apply ok_wf
    | split | (intro s h) | (dsimp only)

theorem execEndloop_wf {s : State} (h : Memory.wf s.mem = true) :
    OutWf (execEndloop s) := by
  unfold execEndloop
  repeat' first
    | with_reducible exact h | with_reducible assumption | with_reducible apply State.streamFault_wf
    | with_reducible apply State.putHead_wf | with_reducible apply packetMeaning_wf
    | with_reducible apply State.updQueue_wf | with_reducible apply State.consume_wf | with_reducible apply ok_wf
    | split | (intro s d q x h)

theorem State.putReg_wf {s : State} {x1 : ℕ} {x2 : Hm} {x3 : ℕ} {x4 : ℕ} (h : Memory.wf s.mem = true) :
    ∀ t b, State.putReg s x1 x2 x3 x4 = .done t b → Memory.wf t.mem = true := by
  intro t b hh
  unfold State.putReg at hh
  try dsimp only at hh
  repeat' (split at hh)
  all_goals first
    | cases hh
  all_goals repeat' first
    | with_reducible exact h | with_reducible assumption | with_reducible apply State.updCore_wf

theorem State.putGlobal_wf {s : State} {x1 : ℕ} {x2 : Copy} {x3 : ℕ} {x4 : ℕ} {x5 : ℕ} {x6 : ℕ} (h : Memory.wf s.mem = true) :
    ∀ t b, State.putGlobal s x1 x2 x3 x4 x5 x6 = .done t b → Memory.wf t.mem = true := by
  intro t b hh
  unfold State.putGlobal at hh
  try dsimp only at hh
  repeat' (split at hh)
  all_goals first
    | cases hh
    | (exfalso; revert hh; split <;> exact fun e => nomatch e)
  all_goals repeat' first
    | with_reducible exact h | with_reducible assumption | with_reducible apply State.updDie_wf
    | with_reducible apply State.countHint_wf | with_reducible apply State.updCore_wf

theorem State.putPiece_wf {s : State} {x1 : ℕ} {x2 : Copy} {x3 : ℕ} {x4 : Loc} {x5 : ℕ} {x6 : ℕ} (h : Memory.wf s.mem = true) :
    ∀ t b, State.putPiece s x1 x2 x3 x4 x5 x6 = .done t b → Memory.wf t.mem = true := by
  intro t b hh
  unfold State.putPiece at hh
  try dsimp only at hh
  repeat' (split at hh)
  all_goals first
    | cases hh
    | skip
  all_goals repeat' first
    | with_reducible exact h | with_reducible assumption
    | with_reducible refine State.putReg_wf ?_ _ _ (by assumption) | with_reducible apply State.updCore_wf
    | with_reducible refine State.putGlobal_wf ?_ _ _ (by assumption)

theorem State.recordPages_wf {s : State} {x1 : ℕ} {x2 : Copy} {x3 : ℕ × ℕ × ℕ} (h : Memory.wf s.mem = true) :
    Memory.wf (State.recordPages s x1 x2 x3).mem = true := by
  unfold State.recordPages
  repeat' first
    | with_reducible exact h | with_reducible assumption | with_reducible apply State.updCore_wf

theorem State.movedPiece_wf {s : State} {x1 : Nat} {x2 : Copy} {x3 : Piece} {x4 : Bool} (h : Memory.wf s.mem = true) :
    Memory.wf (State.movedPiece s x1 x2 x3 x4).mem = true := by
  unfold State.movedPiece
  repeat' first
    | with_reducible exact h | with_reducible assumption | with_reducible apply State.updCore_wf
    | with_reducible apply State.countCopy_wf | split | (intro s h) | (dsimp only)

theorem State.queueRead_wf {s : State} {x1 : Target} {x2 : Hm} {x3 : Nat × Nat} (h : Memory.wf s.mem = true) :
    Memory.wf (State.queueRead s x1 x2 x3).mem = true := by
  unfold State.queueRead
  repeat' first
    | with_reducible exact h | with_reducible assumption | split | (intro s h) | (dsimp only)

theorem State.servedRead_wf {s : State} {x1 : Target} {x2 : Hm} {x3 : Nat × Nat} (h : Memory.wf s.mem = true) :
    Memory.wf (State.servedRead s x1 x2 x3).mem = true := by
  unfold State.servedRead
  repeat' first
    | with_reducible exact h | with_reducible assumption | with_reducible apply State.rotate_wf | (intro s h)
    | (dsimp only)

theorem State.served_wf {s : State} {x1 : Nat} {x2 : Copy} {x3 : List Target} {x4 : List Target} (h : Memory.wf s.mem = true) :
    Memory.wf (State.served s x1 x2 x3 x4).mem = true := by
  unfold State.served
  repeat' first
    | with_reducible exact h | with_reducible assumption | with_reducible apply State.countHint_wf
    | with_reducible apply State.servedRead_wf | (with_reducible refine foldl_wf (fun s x h => ?_) ?_) | (intro s h)
    | (dsimp only)

theorem execCopyLineTransfer_wf {x0 : Nat} {x1 : Nat} {x2 : Nat} {s : State} (h : Memory.wf s.mem = true) :
    OutWf (execCopyLineTransfer x0 x1 x2 s) := by
  unfold execCopyLineTransfer
  repeat' first
    | with_reducible exact h | with_reducible assumption | with_reducible apply ok_wf
    | with_reducible apply State.updCore_wf | with_reducible apply State.queueRead_wf
    | with_reducible apply State.copyFault_wf | with_reducible apply State.servedRead_wf
    | with_reducible apply State.violation_wf | with_reducible apply State.recordPages_wf
    | with_reducible apply State.served_wf | (with_reducible refine State.putPiece_wf ?_ _ _ (by assumption))
    | with_reducible apply State.movedPiece_wf | with_reducible apply State.rotate_wf | with_reducible apply ok_wf
    | split | (intro s h) | (dsimp only)

theorem execTidx_wf {x0 : BitVec 3} {x1 : BitVec 6} {s : State} (h : Memory.wf s.mem = true) :
    OutWf (execTidx x0 x1 s) := by
  unfold execTidx
  repeat' first
    | with_reducible exact h | with_reducible assumption | with_reducible apply slotMeaning_wf
    | with_reducible apply State.putScalar_wf | intro s h

theorem execTenancyOpen_wf {x0 : Nat} {s : State} (h : Memory.wf s.mem = true) :
    OutWf (execTenancyOpen x0 s) := by
  unfold execTenancyOpen
  repeat' first
    | with_reducible exact h | with_reducible assumption | with_reducible apply ok_wf
    | with_reducible apply State.grantAll_wf | with_reducible apply State.handOut_wf
    | with_reducible apply State.updTen_wf | with_reducible apply State.setGenAll_wf | with_reducible apply ok_wf
    | split | (intro s h) | (dsimp only)

theorem execVxt_wf {x0 : BitVec 3} {x1 : BitVec 7} {x2 : BitVec 6} {x3 : BitVec 6} {x4 : BitVec 2} {s : State} (h : Memory.wf s.mem = true) :
    OutWf (execVxt x0 x1 x2 x3 x4 s) := by
  unfold execVxt
  repeat' first
    | with_reducible exact h | with_reducible assumption | with_reducible apply slotMeaning_wf
    | with_reducible apply State.putScalar_wf | intro s h

theorem execIfeq_wf {x0 : W64} {x1 : W64} {x2 : W64} {s : State} (h : Memory.wf s.mem = true) :
    OutWf (execIfeq x0 x1 x2 s) := by
  unfold execIfeq
  repeat' first
    | with_reducible exact h | with_reducible assumption | with_reducible apply condition_wf

theorem execCalls_wf {x0 : BitVec 32} {x1 : W64} {s : State} (h : Memory.wf s.mem = true) :
    OutWf (execCalls x0 x1 s) := by
  unfold execCalls
  repeat' first
    | with_reducible exact h | with_reducible assumption | with_reducible apply State.streamFault_wf
    | with_reducible apply packetMeaning_wf | with_reducible apply State.consume_wf | with_reducible apply ok_wf
    | split | (intro s d q x h)

theorem State.takeLost_wf {s : State} {x1 : Nat} {x2 : Nat} {x3 : Acc} (h : Memory.wf s.mem = true) :
    Memory.wf (State.takeLost s x1 x2 x3).mem = true := by
  unfold State.takeLost
  repeat' first
    | with_reducible exact h | with_reducible assumption | with_reducible apply State.updCore_wf
    | with_reducible apply State.settle_wf | split | (intro s h) | (dsimp only)

theorem State.takeError_wf {s : State} {x1 : Nat} {x2 : Nat} {x3 : Acc} (h : Memory.wf s.mem = true) :
    Memory.wf (State.takeError s x1 x2 x3).mem = true := by
  unfold State.takeError
  repeat' first
    | with_reducible exact h | with_reducible assumption | with_reducible apply State.updCore_wf
    | with_reducible apply State.settle_wf | split | (intro s h) | (dsimp only)

theorem State.takeNear_wf {s : State} {x1 : Nat} {x2 : Nat} {x3 : Acc} {x4 : Nat} {x5 : List Nat} (h : Memory.wf s.mem = true) :
    Memory.wf (State.takeNear s x1 x2 x3 x4 x5).mem = true := by
  unfold State.takeNear
  repeat' first
    | with_reducible exact h | with_reducible assumption | with_reducible apply State.take_wf | split | (intro s h)
    | (dsimp only)

theorem State.refuseAcc_wf {s : State} {x1 : Nat} {x2 : Nat} {x3 : Acc} (h : Memory.wf s.mem = true) :
    Memory.wf (State.refuseAcc s x1 x2 x3).mem = true := by
  unfold State.refuseAcc
  repeat' first
    | with_reducible exact h | with_reducible assumption | with_reducible apply State.violation_wf
    | with_reducible apply State.updCore_wf | with_reducible apply State.settle_wf | (intro s h) | (dsimp only)

theorem State.serveLoad_wf {s : State} {x1 : Nat} {x2 : Nat} {x3 : Nat} {x4 : Acc} {x5 : List Acc} (h : Memory.wf s.mem = true) :
    OutWf (State.serveLoad s x1 x2 x3 x4 x5) := by
  unfold State.serveLoad
  repeat' first
    | with_reducible exact h | with_reducible assumption | with_reducible apply ok_wf
    | with_reducible apply State.takeNear_wf | with_reducible apply State.takeLost_wf
    | with_reducible apply State.queueRead_wf | with_reducible apply State.servedRead_wf
    | with_reducible apply State.refuseAcc_wf | with_reducible apply State.takeError_wf | with_reducible apply ok_wf
    | split | (intro s h) | (dsimp only)

theorem State.discardWrite_wf {s : State} {x1 : Hm} {x2 : Target} (h : Memory.wf s.mem = true) :
    Memory.wf (State.discardWrite s x1 x2).mem = true := by
  unfold State.discardWrite
  repeat' first
    | with_reducible exact h | with_reducible assumption | with_reducible apply State.discard_wf | split
    | (intro s h) | (dsimp only)

theorem State.maybeWrite_wf {s : State} {x1 : Hm} {x2 : Target} {x3 : ℕ} {x4 : ℕ} (h : Memory.wf s.mem = true) :
    Memory.wf (State.maybeWrite s x1 x2 x3 x4).mem = true := by
  unfold State.maybeWrite
  dsimp only
  repeat' first
    | with_reducible exact h | with_reducible assumption | with_reducible apply State.write_wf | split

theorem State.serveAmo_wf {s : State} {x1 : Nat} {x2 : Nat} {x3 : Acc} {x4 : Nat} (h : Memory.wf s.mem = true) :
    OutWf (State.serveAmo s x1 x2 x3 x4) := by
  unfold State.serveAmo
  repeat' first
    | with_reducible exact h | with_reducible assumption | with_reducible apply State.maybeWrite_wf
    | with_reducible apply ok_wf | with_reducible apply State.takeLost_wf | with_reducible apply State.queueRead_wf
    | with_reducible apply State.servedRead_wf | with_reducible apply State.refuseAcc_wf
    | with_reducible apply State.takeError_wf | with_reducible apply State.discardWrite_wf
    | with_reducible apply State.write_wf | with_reducible apply State.updCore_wf
    | with_reducible apply State.take_wf | with_reducible apply ok_wf | split | (intro s h) | (dsimp only)

theorem State.serveProbe_wf {s : State} {x1 : Nat} {x2 : Nat} {x3 : Acc} (h : Memory.wf s.mem = true) :
    OutWf (State.serveProbe s x1 x2 x3) := by
  unfold State.serveProbe
  repeat' first
    | with_reducible exact h | with_reducible assumption | with_reducible apply ok_wf
    | with_reducible apply State.takeLost_wf | with_reducible apply State.queueRead_wf
    | with_reducible apply State.servedRead_wf | with_reducible apply State.refuseAcc_wf
    | with_reducible apply State.take_wf | with_reducible apply ok_wf | split | (intro s h) | (dsimp only)

theorem execServe_wf {x0 : Nat} {x1 : Nat} {x2 : Nat} {s : State} (h : Memory.wf s.mem = true) :
    OutWf (execServe x0 x1 x2 s) := by
  unfold execServe
  repeat' first
    | with_reducible exact h | with_reducible assumption | with_reducible apply ok_wf
    | with_reducible apply State.serveLoad_wf | with_reducible apply State.serveAmo_wf
    | with_reducible apply State.serveProbe_wf | with_reducible apply ok_wf | split | (intro s h) | (dsimp only)

theorem execFlitReceive_wf {x0 : Nat} {x1 : Bool} {s : State} (h : Memory.wf s.mem = true) :
    OutWf (execFlitReceive x0 x1 s) := by
  unfold execFlitReceive
  repeat' first
    | with_reducible exact h | with_reducible assumption | with_reducible apply ok_wf
    | with_reducible apply State.updLink_wf | with_reducible apply ok_wf | split | (intro s h) | (dsimp only)

theorem execVfms_wf {x0 : BitVec 3} {x1 : BitVec 7} {x2 : BitVec 7} {x3 : BitVec 7} {x4 : BitVec 2} {s : State} (h : Memory.wf s.mem = true) :
    OutWf (execVfms x0 x1 x2 x3 x4 s) := by
  unfold execVfms
  repeat' first
    | with_reducible exact h | with_reducible assumption | with_reducible apply arithOp_wf

theorem execLaunchi_wf {x0 : Byte} {x1 : W64} {x2 : W64} {s : State} (h : Memory.wf s.mem = true) :
    OutWf (execLaunchi x0 x1 x2 s) := by
  unfold execLaunchi
  repeat' first
    | with_reducible exact h | with_reducible assumption | with_reducible apply packetMeaning_wf
    | with_reducible apply State.launchPacket_wf | with_reducible apply ok_wf | split | (intro s d q x h)

theorem State.freshValue_wf {s : State} (h : Memory.wf s.mem = true) :
    Memory.wf (State.freshValue s).2.mem = true := by
  unfold State.freshValue
  repeat' first
    | with_reducible exact h

theorem State.answerApp_wf {s : State} {x1 : Nat} {x2 : AppReply} (h : Memory.wf s.mem = true) :
    Memory.wf (State.answerApp s x1 x2).mem = true := by
  unfold State.answerApp
  repeat' first
    | with_reducible exact h | with_reducible assumption | (intro s h) | (dsimp only)

theorem execApplicationCoreAccess_wf {x0 : W64} {x1 : Nat} {x2 : AppReq} {x3 : W64} {s : State} (h : Memory.wf s.mem = true) :
    OutWf (execApplicationCoreAccess x0 x1 x2 x3 s) := by
  unfold execApplicationCoreAccess
  repeat' first
    | with_reducible exact h | with_reducible assumption | with_reducible apply State.answerApp_wf
    | with_reducible apply ok_wf | with_reducible apply State.violation_wf | with_reducible apply State.perform_wf
    | with_reducible apply State.rotate_wf | with_reducible apply State.writeReg_wf
    | with_reducible apply State.freshValue_wf | with_reducible apply ok_wf | split | (intro s h) | (dsimp only)

theorem execWaitaNe_wf {x0 : BitVec 3} {x1 : BitVec 6} {x2 : BitVec 6} {x3 : BitVec 6} {x4 : BitVec 2} {s : State} (h : Memory.wf s.mem = true) :
    OutWf (execWaitaNe x0 x1 x2 x3 x4 s) := by
  unfold execWaitaNe
  repeat' first
    | with_reducible exact h | with_reducible assumption | with_reducible apply waitaOp_wf

theorem execVlog2_wf {x0 : BitVec 3} {x1 : BitVec 7} {x2 : BitVec 7} {x3 : BitVec 2} {s : State} (h : Memory.wf s.mem = true) :
    OutWf (execVlog2 x0 x1 x2 x3 s) := by
  unfold execVlog2
  repeat' first
    | with_reducible exact h | with_reducible assumption | with_reducible apply sfOp_wf

theorem execPreloadStart_wf {x0 : Nat} {x1 : Nat} {s : State} (h : Memory.wf s.mem = true) :
    OutWf (execPreloadStart x0 x1 s) := by
  unfold execPreloadStart
  repeat' first
    | with_reducible exact h | with_reducible assumption | with_reducible apply ok_wf
    | with_reducible apply State.updCore_wf | with_reducible apply ok_wf
    | (with_reducible refine foldl_wf (fun s x h => ?_) ?_) | split | (intro s h) | (dsimp only)

theorem execShl_wf {x0 : BitVec 3} {x1 : BitVec 6} {x2 : BitVec 6} {x3 : BitVec 6} {s : State} (h : Memory.wf s.mem = true) :
    OutWf (execShl x0 x1 x2 x3 s) := by
  unfold execShl
  repeat' first
    | with_reducible exact h | with_reducible assumption | with_reducible apply aluOp_wf

theorem execAndi_wf {x0 : BitVec 3} {x1 : BitVec 6} {x2 : BitVec 6} {x3 : BitVec 11} {s : State} (h : Memory.wf s.mem = true) :
    OutWf (execAndi x0 x1 x2 x3 s) := by
  unfold execAndi
  repeat' first
    | with_reducible exact h | with_reducible assumption | with_reducible apply aluImm_wf

theorem execWritemem_wf {x0 : BitVec 1} {x1 : BitVec 2} {x2 : W64} {x3 : W64} {s : State} (h : Memory.wf s.mem = true) :
    OutWf (execWritemem x0 x1 x2 x3 s) := by
  unfold execWritemem
  repeat' first
    | with_reducible exact h | with_reducible assumption | with_reducible apply packetMeaning_wf
    | with_reducible apply State.streamFault_wf | with_reducible apply State.packetWrite_wf
    | (with_reducible refine State.cpStore_wf ?_ _ (by assumption)) | with_reducible apply State.consume_wf
    | with_reducible apply ok_wf | split | (intro s d q x h) | (intro s h) | (dsimp only)

theorem execEndif_wf {s : State} (h : Memory.wf s.mem = true) :
    OutWf (execEndif s) := by
  unfold execEndif
  repeat' first
    | with_reducible exact h | with_reducible assumption | with_reducible apply State.streamFault_wf
    | with_reducible apply packetMeaning_wf | with_reducible apply State.consume_wf | with_reducible apply ok_wf
    | split | (intro s d q x h)

theorem execSuspend_wf {x0 : BitVec 3} {x1 : BitVec 6} {x2 : BitVec 6} {s : State} (h : Memory.wf s.mem = true) :
    OutWf (execSuspend x0 x1 x2 s) := by
  unfold execSuspend
  repeat' first
    | with_reducible exact h | with_reducible assumption | with_reducible apply slotMeaning_wf
    | with_reducible apply State.endRun_wf | intro s h

theorem execVabd_wf {x0 : BitVec 3} {x1 : BitVec 5} {x2 : BitVec 7} {x3 : BitVec 7} {x4 : BitVec 2} {s : State} (h : Memory.wf s.mem = true) :
    OutWf (execVabd x0 x1 x2 x3 x4 s) := by
  unfold execVabd
  repeat' first
    | with_reducible exact h | with_reducible assumption | with_reducible apply vecOp_wf

theorem execAssayRewrite_wf {x0 : ℕ} {x1 : ℕ} {x2 : ℕ} {x3 : ℕ} {s : State} (h : Memory.wf s.mem = true) :
    OutWf (execAssayRewrite x0 x1 x2 x3 s) := by
  unfold execAssayRewrite
  repeat' first
    | with_reducible exact h | with_reducible assumption | with_reducible apply ok_wf
    | with_reducible apply State.updCore_wf | with_reducible apply State.assayImport_wf | with_reducible apply ok_wf
    | split

theorem execSlotTableWrite_wf {x0 : Nat} {x1 : Nat} {x2 : BitVec 16} {s : State} (h : Memory.wf s.mem = true) :
    OutWf (execSlotTableWrite x0 x1 x2 s) := by
  unfold execSlotTableWrite
  repeat' first
    | with_reducible exact h | with_reducible assumption | with_reducible apply ok_wf
    | with_reducible apply State.setSlot_wf | with_reducible apply ok_wf | split | (intro s h) | (dsimp only)

theorem execDownNotice_wf {x0 : Nat} {x1 : Bool} {s : State} (h : Memory.wf s.mem = true) :
    OutWf (execDownNotice x0 x1 s) := by
  unfold execDownNotice
  repeat' first
    | with_reducible exact h | with_reducible assumption | with_reducible apply ok_wf
    | with_reducible apply State.updLink_wf | with_reducible apply State.toLink_wf | with_reducible apply ok_wf
    | (with_reducible refine foldl_wf (fun s x h => ?_) ?_) | split | (intro s h) | (dsimp only)

theorem State.holdIndex_wf {s : State} {x1 : ℕ} {x2 : ℕ} {x3 : ℕ} (h : Memory.wf s.mem = true) :
    Memory.wf (State.holdIndex s x1 x2 x3).mem = true := by
  unfold State.holdIndex
  repeat' first
    | with_reducible exact h | with_reducible assumption | with_reducible apply State.updCore_wf

theorem State.claimFrom_wf {s : State} {x1 : Nat} {x2 : Option Source1} (h : Memory.wf s.mem = true) :
    Memory.wf (State.claimFrom s x1 x2).2.mem = true := by
  unfold State.claimFrom
  repeat' first
    | with_reducible exact h | with_reducible assumption | with_reducible apply State.updCore_wf
    | with_reducible apply State.holdIndex_wf | with_reducible apply State.openChunk_wf | split | (intro s h)
    | (dsimp only)

theorem State.claimNext_wf {s : State} {x1 : Nat} (h : Memory.wf s.mem = true) :
    Memory.wf (State.claimNext s x1).2.mem = true := by
  unfold State.claimNext
  repeat' first
    | with_reducible exact h | with_reducible assumption | with_reducible apply State.claimFrom_wf | (intro s h)
    | (dsimp only)

theorem State.claimDecision_wf {s : State} {x1 : Nat} (h : Memory.wf s.mem = true) :
    DecWf (State.claimDecision s x1) := by
  unfold State.claimDecision
  repeat' first
    | with_reducible exact h | with_reducible assumption | with_reducible apply State.claimNext_wf
    | (with_reducible refine DecWf.go (State.logging_wf ?_ ?_) (by assumption)) | (with_reducible refine DecWf.stop (State.logging_wf ?_ ?_) (by assumption)) | with_reducible refine State.logging_wf ?_ ?_
    | with_reducible apply DecWf.mk_go | with_reducible exact DecWf.mk_wait | with_reducible apply DecWf.mk_stop
    | split | (intro s h) | (dsimp only)

theorem execTnext_wf {x0 : BitVec 3} {x1 : BitVec 6} {s : State} (h : Memory.wf s.mem = true) :
    OutWf (execTnext x0 x1 s) := by
  unfold execTnext
  repeat' first
    | with_reducible exact h | with_reducible assumption | with_reducible apply slotMeaning_wf
    | with_reducible apply State.claimDecision_wf
    | (with_reducible refine DecWf.go (State.claimDecision_wf ?_) (by assumption))
    | (with_reducible refine DecWf.stop (State.claimDecision_wf ?_) (by assumption))
    | with_reducible apply State.setPending_wf | with_reducible apply State.claimNext_wf
    | with_reducible apply State.updK_wf | with_reducible apply State.after_wf | intro s h

theorem execCallStart_wf {x0 : Nat} {s : State} (h : Memory.wf s.mem = true) :
    OutWf (execCallStart x0 s) := by
  unfold execCallStart
  repeat' first
    | with_reducible exact h | with_reducible assumption | with_reducible apply ok_wf
    | with_reducible apply State.endCall_wf | with_reducible apply State.joinHandle_wf
    | with_reducible apply State.updK_wf | with_reducible apply State.setCall_wf | with_reducible apply ok_wf | split
    | (intro s h) | (dsimp only)

theorem execVtanh_wf {x0 : BitVec 3} {x1 : BitVec 7} {x2 : BitVec 7} {x3 : BitVec 2} {s : State} (h : Memory.wf s.mem = true) :
    OutWf (execVtanh x0 x1 x2 x3 s) := by
  unfold execVtanh
  repeat' first
    | with_reducible exact h | with_reducible assumption | with_reducible apply sfOp_wf

theorem execVshf_wf {x0 : BitVec 3} {x1 : BitVec 7} {x2 : BitVec 7} {x3 : BitVec 7} {x4 : BitVec 2} {s : State} (h : Memory.wf s.mem = true) :
    OutWf (execVshf x0 x1 x2 x3 x4 s) := by
  unfold execVshf
  repeat' first
    | with_reducible exact h | with_reducible assumption | with_reducible apply vecOp_wf

theorem execFollowerLaunch_wf {x0 : Nat} {x1 : Nat} {s : State} (h : Memory.wf s.mem = true) :
    OutWf (execFollowerLaunch x0 x1 s) := by
  unfold execFollowerLaunch
  repeat' first
    | with_reducible exact h | with_reducible assumption | with_reducible apply ok_wf
    | with_reducible apply State.cpTurns_wf | with_reducible apply State.updLaunch_wf
    | with_reducible apply State.report_wf | with_reducible apply State.failLaunch_wf | with_reducible apply ok_wf
    | split | (intro s h) | (dsimp only)

theorem execSbDrain_wf {x0 : Nat} {x1 : Nat} {s : State} (h : Memory.wf s.mem = true) :
    OutWf (execSbDrain x0 x1 s) := by
  unfold execSbDrain
  repeat' first
    | with_reducible exact h | with_reducible assumption | with_reducible apply ok_wf
    | with_reducible apply State.updCore_wf | with_reducible apply State.updDie_wf
    | with_reducible apply State.settle_wf | with_reducible apply State.discard_wf | with_reducible apply ok_wf
    | split | (intro s h) | (dsimp only)

theorem execApply_wf {x0 : Nat} {x1 : Hm} {s : State} (h : Memory.wf s.mem = true) :
    OutWf (execApply x0 x1 s) := by
  unfold execApply
  repeat' first
    | with_reducible exact h | with_reducible assumption | with_reducible apply ok_wf
    | with_reducible apply State.maybeWrite_wf | with_reducible apply State.lostWrite_wf
    | with_reducible apply State.rotate_wf | with_reducible apply State.updDie_wf
    | with_reducible apply State.violation_wf | with_reducible apply State.lostBytes_wf
    | with_reducible apply State.settleDie_wf | with_reducible apply State.write_wf
    | with_reducible apply State.discardWrite_wf | with_reducible apply State.countWrite_wf
    | with_reducible apply ok_wf | split | (intro s h) | (dsimp only)

theorem execWaith_wf {x0 : BitVec 6} {s : State} (h : Memory.wf s.mem = true) :
    OutWf (execWaith x0 s) := by
  unfold execWaith
  repeat' first
    | with_reducible exact h | with_reducible assumption | with_reducible apply microMeaning_wf
    | with_reducible apply State.updK_wf | with_reducible apply State.nextWord_wf
    | with_reducible apply State.endCall_wf | with_reducible apply ok_wf | split | (intro s c h) | (intro s h)
    | (dsimp only)

theorem execInvalidationComplete_wf {x0 : Nat} {x1 : Nat} {s : State} (h : Memory.wf s.mem = true) :
    OutWf (execInvalidationComplete x0 x1 s) := by
  unfold execInvalidationComplete
  repeat' first
    | with_reducible exact h | with_reducible assumption | with_reducible apply ok_wf
    | with_reducible apply State.updDie_wf | with_reducible apply ok_wf | split | (intro s h) | (dsimp only)

theorem execHardRequest_wf {x0 : Nat} {s : State} (h : Memory.wf s.mem = true) :
    OutWf (execHardRequest x0 s) := by
  unfold execHardRequest
  repeat' first
    | with_reducible exact h | with_reducible assumption | with_reducible apply ok_wf
    | with_reducible apply State.hardRequest_wf | with_reducible apply ok_wf | split | (intro s h) | (dsimp only)

theorem execVst_wf {x0 : BitVec 3} {x1 : BitVec 7} {x2 : BitVec 6} {x3 : BitVec 8} {s : State} (h : Memory.wf s.mem = true) :
    OutWf (execVst x0 x1 x2 x3 s) := by
  unfold execVst
  repeat' first
    | with_reducible exact h | with_reducible assumption | with_reducible apply vstoreOp_wf

theorem execAddi_wf {x0 : BitVec 3} {x1 : BitVec 6} {x2 : BitVec 6} {x3 : BitVec 11} {s : State} (h : Memory.wf s.mem = true) :
    OutWf (execAddi x0 x1 x2 x3 s) := by
  unfold execAddi
  repeat' first
    | with_reducible exact h | with_reducible assumption | with_reducible apply aluImm_wf

theorem execVmov_wf {x0 : BitVec 3} {x1 : BitVec 7} {x2 : BitVec 7} {x3 : BitVec 2} {s : State} (h : Memory.wf s.mem = true) :
    OutWf (execVmov x0 x1 x2 x3 s) := by
  unfold execVmov
  repeat' first
    | with_reducible exact h | with_reducible assumption | with_reducible apply unOp_wf

theorem execSts_wf {x0 : BitVec 3} {x1 : BitVec 6} {x2 : BitVec 6} {x3 : BitVec 5} {x4 : BitVec 2} {x5 : BitVec 2} {s : State} (h : Memory.wf s.mem = true) :
    OutWf (execSts x0 x1 x2 x3 x4 x5 s) := by
  unfold execSts
  repeat' first
    | with_reducible exact h | with_reducible assumption | with_reducible apply storeOp_wf

theorem execMxpr_wf {x0 : BitVec 3} {x1 : BitVec 6} {x2 : BitVec 3} {s : State} (h : Memory.wf s.mem = true) :
    OutWf (execMxpr x0 x1 x2 s) := by
  unfold execMxpr
  repeat' first
    | with_reducible exact h | with_reducible assumption | with_reducible apply slotMeaning_wf
    | with_reducible apply State.putScalar_wf | intro s h

theorem execHswap_wf {x0 : BitVec 3} {x1 : BitVec 6} {s : State} (h : Memory.wf s.mem = true) :
    OutWf (execHswap x0 x1 s) := by
  unfold execHswap
  repeat' first
    | with_reducible exact h | with_reducible assumption | with_reducible apply slotMeaning_wf
    | with_reducible apply State.updK_wf | with_reducible apply ok_wf | split | (intro s h) | (dsimp only)

theorem execVexp2_wf {x0 : BitVec 3} {x1 : BitVec 7} {x2 : BitVec 7} {x3 : BitVec 2} {s : State} (h : Memory.wf s.mem = true) :
    OutWf (execVexp2 x0 x1 x2 x3 s) := by
  unfold execVexp2
  repeat' first
    | with_reducible exact h | with_reducible assumption | with_reducible apply sfOp_wf

theorem execCommandFrame_wf {x0 : Nat} {x1 : Nat} {x2 : BitVec 16} {x3 : BitVec 16} {x4 : BitVec 32} {x5 : W64} {x6 : List (BitVec 256)} {x7 : BitVec 128} {s : State} (h : Memory.wf s.mem = true) :
    OutWf (execCommandFrame x0 x1 x2 x3 x4 x5 x6 x7 s) := by
  unfold execCommandFrame
  repeat' first
    | with_reducible exact h | with_reducible assumption | with_reducible apply ok_wf
    | with_reducible apply State.updFlow_wf | (with_reducible refine State.acceptFrame_wf ?_ _ (by assumption))
    | with_reducible apply ok_wf | split | (intro s h) | (dsimp only)

theorem execHdmMapWrite_wf {x0 : Nat} {x1 : Nat} {x2 : W64} {s : State} (h : Memory.wf s.mem = true) :
    OutWf (execHdmMapWrite x0 x1 x2 s) := by
  unfold execHdmMapWrite
  repeat' first
    | with_reducible exact h | with_reducible assumption | with_reducible apply ok_wf
    | with_reducible apply State.setMap_wf | with_reducible apply ok_wf | split | (intro s h) | (dsimp only)

theorem execSub_wf {x0 : BitVec 3} {x1 : BitVec 6} {x2 : BitVec 6} {x3 : BitVec 6} {s : State} (h : Memory.wf s.mem = true) :
    OutWf (execSub x0 x1 x2 x3 s) := by
  unfold execSub
  repeat' first
    | with_reducible exact h | with_reducible assumption | with_reducible apply aluOp_wf

theorem execVld_wf {x0 : BitVec 3} {x1 : BitVec 7} {x2 : BitVec 6} {x3 : BitVec 8} {s : State} (h : Memory.wf s.mem = true) :
    OutWf (execVld x0 x1 x2 x3 s) := by
  unfold execVld
  repeat' first
    | with_reducible exact h | with_reducible assumption | with_reducible apply vloadOp_wf

theorem execSoftRequest_wf {x0 : Nat} {s : State} (h : Memory.wf s.mem = true) :
    OutWf (execSoftRequest x0 s) := by
  unfold execSoftRequest
  repeat' first
    | with_reducible exact h | with_reducible assumption | with_reducible apply ok_wf
    | with_reducible apply State.softRequest_wf | with_reducible apply ok_wf | split | (intro s h) | (dsimp only)

theorem execClz_wf {x0 : BitVec 3} {x1 : BitVec 6} {x2 : BitVec 6} {s : State} (h : Memory.wf s.mem = true) :
    OutWf (execClz x0 x1 x2 s) := by
  unfold execClz
  repeat' first
    | with_reducible exact h | with_reducible assumption | with_reducible apply aluOp1_wf

theorem execSred_wf {x0 : BitVec 3} {x1 : BitVec 7} {x2 : BitVec 7} {x3 : BitVec 2} {s : State} (h : Memory.wf s.mem = true) :
    OutWf (execSred x0 x1 x2 x3 s) := by
  unfold execSred
  repeat' first
    | with_reducible exact h | with_reducible assumption | with_reducible apply setOp2_wf

theorem execOri_wf {x0 : BitVec 3} {x1 : BitVec 6} {x2 : BitVec 6} {x3 : BitVec 11} {s : State} (h : Memory.wf s.mem = true) :
    OutWf (execOri x0 x1 x2 x3 s) := by
  unfold execOri
  repeat' first
    | with_reducible exact h | with_reducible assumption | with_reducible apply aluImm_wf

theorem execAmoMax_wf {x0 : BitVec 3} {x1 : BitVec 6} {x2 : BitVec 6} {x3 : BitVec 6} {x4 : BitVec 2} {s : State} (h : Memory.wf s.mem = true) :
    OutWf (execAmoMax x0 x1 x2 x3 x4 s) := by
  unfold execAmoMax
  repeat' first
    | with_reducible exact h | with_reducible assumption | with_reducible apply atomicOp_wf

theorem execSint_wf {x0 : BitVec 3} {x1 : BitVec 5} {x2 : BitVec 7} {x3 : BitVec 7} {x4 : BitVec 2} {s : State} (h : Memory.wf s.mem = true) :
    OutWf (execSint x0 x1 x2 x3 x4 s) := by
  unfold execSint
  repeat' first
    | with_reducible exact h | with_reducible assumption | with_reducible apply setOp3_wf

theorem execVor_wf {x0 : BitVec 3} {x1 : BitVec 7} {x2 : BitVec 7} {x3 : BitVec 7} {s : State} (h : Memory.wf s.mem = true) :
    OutWf (execVor x0 x1 x2 x3 s) := by
  unfold execVor
  repeat' first
    | with_reducible exact h | with_reducible assumption | with_reducible apply bitOp_wf

theorem State.endSub_wf {s : State} {x1 : ℕ} {x2 : ℕ} {x3 : Queue} (h : Memory.wf s.mem = true) :
    Memory.wf (State.endSub s x1 x2 x3).mem = true := by
  unfold State.endSub
  repeat' first
    | with_reducible exact h | with_reducible assumption | with_reducible apply State.streamFault_wf
    | with_reducible apply State.updQueue_wf | split | (intro s h) | (intro s h) | (dsimp only)

theorem execRets_wf {s : State} (h : Memory.wf s.mem = true) :
    OutWf (execRets s) := by
  unfold execRets
  repeat' first
    | with_reducible exact h | with_reducible assumption | with_reducible apply State.streamFault_wf
    | with_reducible apply State.endSub_wf | with_reducible apply packetMeaning_wf | with_reducible apply ok_wf
    | split | (intro s d q x h)

theorem execOrn_wf {x0 : BitVec 3} {x1 : BitVec 6} {x2 : BitVec 6} {x3 : BitVec 6} {s : State} (h : Memory.wf s.mem = true) :
    OutWf (execOrn x0 x1 x2 x3 s) := by
  unfold execOrn
  repeat' first
    | with_reducible exact h | with_reducible assumption | with_reducible apply aluOp_wf

theorem execCsrr_wf {x0 : BitVec 3} {x1 : BitVec 6} {x2 : BitVec 11} {s : State} (h : Memory.wf s.mem = true) :
    OutWf (execCsrr x0 x1 x2 s) := by
  unfold execCsrr
  repeat' first
    | with_reducible exact h | with_reducible assumption | with_reducible apply slotMeaning_wf
    | with_reducible apply State.putScalar_wf | intro s h

theorem execBkrel_wf {x0 : BitVec 3} {x1 : BitVec 6} {s : State} (h : Memory.wf s.mem = true) :
    OutWf (execBkrel x0 x1 s) := by
  unfold execBkrel
  repeat' first
    | with_reducible exact h | with_reducible assumption | with_reducible apply slotMeaning_wf
    | with_reducible apply State.updK_wf | intro s h

theorem execWalkComplete_wf {x0 : ℕ} {x1 : ℕ} {x2 : ℕ} {x3 : W64} {s : State} (h : Memory.wf s.mem = true) :
    OutWf (execWalkComplete x0 x1 x2 x3 s) := by
  unfold execWalkComplete
  repeat' first
    | with_reducible exact h | with_reducible assumption | with_reducible apply ok_wf
    | with_reducible apply State.updDie_wf | with_reducible apply State.updCore_wf | with_reducible apply ok_wf
    | split | (intro s h) | (intro s h) | (dsimp only)

theorem execVins_wf {x0 : BitVec 3} {x1 : BitVec 7} {x2 : BitVec 6} {x3 : BitVec 6} {x4 : BitVec 2} {s : State} (h : Memory.wf s.mem = true) :
    OutWf (execVins x0 x1 x2 x3 x4 s) := by
  unfold execVins
  repeat' first
    | with_reducible exact h | with_reducible assumption | with_reducible apply slotMeaning_wf
    | with_reducible apply State.putVec_wf | intro s h

theorem execTrap_wf {x0 : BitVec 3} {x1 : BitVec 12} {s : State} (h : Memory.wf s.mem = true) :
    OutWf (execTrap x0 x1 s) := by
  unfold execTrap
  repeat' first
    | with_reducible exact h | with_reducible assumption | with_reducible apply slotMeaning_wf | intro s h
    | with_reducible apply ok_wf | (unfold id; with_reducible exact h)

theorem execFunctionLevelReset_wf {x0 : Nat} {s : State} (h : Memory.wf s.mem = true) :
    OutWf (execFunctionLevelReset x0 s) := by
  unfold execFunctionLevelReset
  repeat' first
    | with_reducible exact h | with_reducible assumption | with_reducible apply ok_wf
    | with_reducible apply State.resetCore_wf | with_reducible apply ok_wf | split | (intro s h) | (dsimp only)

theorem execSlotTableTakeEffect_wf {x0 : Nat} {s : State} (h : Memory.wf s.mem = true) :
    OutWf (execSlotTableTakeEffect x0 s) := by
  unfold execSlotTableTakeEffect
  repeat' first
    | with_reducible exact h | with_reducible assumption | with_reducible apply ok_wf
    | with_reducible apply State.updDie_wf | with_reducible apply ok_wf | split | (intro s h) | (dsimp only)

theorem exec_wf {s : State} (i : Instr) (h : Memory.wf s.mem = true) : OutWf (exec i s) := by
  cases i
  · exact execNop_wf h
  · exact execAdd_wf h
  · exact execSub_wf h
  · exact execAnd_wf h
  · exact execOr_wf h
  · exact execXor_wf h
  · exact execAndn_wf h
  · exact execOrn_wf h
  · exact execShl_wf h
  · exact execShr_wf h
  · exact execSar_wf h
  · exact execMin_wf h
  · exact execMax_wf h
  · exact execMinu_wf h
  · exact execMaxu_wf h
  · exact execClz_wf h
  · exact execPopc_wf h
  · exact execBfx_wf h
  · exact execBfi_wf h
  · exact execCmpt_wf h
  · exact execMul_wf h
  · exact execMulh_wf h
  · exact execMulhu_wf h
  · exact execDiv_wf h
  · exact execDivu_wf h
  · exact execRem_wf h
  · exact execRemu_wf h
  · exact execCmp_wf h
  · exact execSel_wf h
  · exact execPand_wf h
  · exact execPor_wf h
  · exact execPxor_wf h
  · exact execPget_wf h
  · exact execPset_wf h
  · exact execAddi_wf h
  · exact execAndi_wf h
  · exact execOri_wf h
  · exact execXori_wf h
  · exact execShli_wf h
  · exact execShri_wf h
  · exact execSari_wf h
  · exact execCmpi_wf h
  · exact execCmpiu_wf h
  · exact execMovi_wf h
  · exact execMovhi_wf h
  · exact execCsrr_wf h
  · exact execCsrw_wf h
  · exact execBr_wf h
  · exact execBrl_wf h
  · exact execLoop_wf h
  · exact execLoopr_wf h
  · exact execJr_wf h
  · exact execJrl_wf h
  · exact execTrap_wf h
  · exact execEret_wf h
  · exact execUiret_wf h
  · exact execWait_wf h
  · exact execVadd_wf h
  · exact execVsub_wf h
  · exact execVmul_wf h
  · exact execVfma_wf h
  · exact execVfms_wf h
  · exact execVmax_wf h
  · exact execVmin_wf h
  · exact execVand_wf h
  · exact execVor_wf h
  · exact execVxor_wf h
  · exact execVshl_wf h
  · exact execVshr_wf h
  · exact execVsar_wf h
  · exact execVcmp_wf h
  · exact execVsel_wf h
  · exact execVshf_wf h
  · exact execVrotl_wf h
  · exact execVmov_wf h
  · exact execVabs_wf h
  · exact execVneg_wf h
  · exact execViota_wf h
  · exact execVclr_wf h
  · exact execVbc_wf h
  · exact execVxt_wf h
  · exact execVins_wf h
  · exact execVredSum_wf h
  · exact execVredMax_wf h
  · exact execVredMin_wf h
  · exact execVcvt_wf h
  · exact execCmptv_wf h
  · exact execVexp2_wf h
  · exact execVlog2_wf h
  · exact execVrcp_wf h
  · exact execVrsq_wf h
  · exact execVsin_wf h
  · exact execVtanh_wf h
  · exact execVunpk_wf h
  · exact execVpack_wf h
  · exact execVbscl_wf h
  · exact execVld_wf h
  · exact execVst_wf h
  · exact execVlds_wf h
  · exact execVsts_wf h
  · exact execSadd_wf h
  · exact execSsub_wf h
  · exact execSmul_wf h
  · exact execSdiv_wf h
  · exact execSuni_wf h
  · exact execSint_wf h
  · exact execScmp_wf h
  · exact execSneg_wf h
  · exact execSfrom_wf h
  · exact execSbnd_wf h
  · exact execSarc_wf h
  · exact execSmsk_wf h
  · exact execSred_wf h
  · exact execSpld_wf h
  · exact execSpst_wf h
  · exact execLd_wf h
  · exact execLds_wf h
  · exact execLda_wf h
  · exact execPref_wf h
  · exact execSt_wf h
  · exact execSts_wf h
  · exact execStrl_wf h
  · exact execAmoAdd_wf h
  · exact execAmoAnd_wf h
  · exact execAmoOr_wf h
  · exact execAmoXor_wf h
  · exact execAmoMin_wf h
  · exact execAmoMax_wf h
  · exact execAmoSwap_wf h
  · exact execCas_wf h
  · exact execFence_wf h
  · exact execFenceAll_wf h
  · exact execWaitaNe_wf h
  · exact execWaitaEq_wf h
  · exact execHwait_wf h
  · exact execHstat_wf h
  · exact execHrel_wf h
  · exact execHset_wf h
  · exact execHexp_wf h
  · exact execHswap_wf h
  · exact execBkrel_wf h
  · exact execBkwait_wf h
  · exact execBarv_wf h
  · exact execBarvInit_wf h
  · exact execBart_wf h
  · exact execBarw_wf h
  · exact execUien_wf h
  · exact execClvl_wf h
  · exact execCgo_wf h
  · exact execCgox_wf h
  · exact execCqry_wf h
  · exact execMxcall_wf h
  · exact execMxp_wf h
  · exact execMxpr_wf h
  · exact execMxldu_wf h
  · exact execMxrt_wf h
  · exact execMxstat_wf h
  · exact execShand_wf h
  · exact execSown_wf h
  · exact execGenr_wf h
  · exact execTenend_wf h
  · exact execGenprobe_wf h
  · exact execTidx_wf h
  · exact execTnext_wf h
  · exact execSuspend_wf h
  · exact execEndTask_wf h
  · exact execLinkq_wf h
  · exact execRingld_wf h
  · exact execVdot_wf h
  · exact execVabd_wf h
  · exact execVclmp_wf h
  · exact execVcvth_wf h
  · exact execVscl_wf h
  · exact execZero_wf h
  · exact execMma_wf h
  · exact execUnf_wf h
  · exact execDrain_wf h
  · exact execAdv_wf h
  · exact execMxLoop_wf h
  · exact execEndl_wf h
  · exact execWaith_wf h
  · exact execMxEnd_wf h
  · exact execCallStart_wf h
  · exact execStatusPost_wf h
  · exact execLanding_wf h
  · exact execResultArrive_wf h
  · exact execTrapEntry_wf h
  · exact execUserLevelInterrupt_wf h
  · exact execWalkComplete_wf h
  · exact execSbDrain_wf h
  · exact execSend_wf h
  · exact execHop_wf h
  · exact execApply_wf h
  · exact execServe_wf h
  · exact execFill_wf h
  · exact execEvict_wf h
  · exact execWaitaReread_wf h
  · exact execCopyLineTransfer_wf h
  · exact execRemotePost_wf h
  · exact execPreloadStart_wf h
  · exact execTaskStart_wf h
  · exact execBrickReady_wf h
  · exact execBrickResume_wf h
  · exact execTaskComplete_wf h
  · exact execChunkMark_wf h
  · exact execChunkClaim_wf h
  · exact execLaunchComplete_wf h
  · exact execQuorumDecision_wf h
  · exact execReconfiguration_wf h
  · exact execTailRead_wf h
  · exact execLaunch_wf h
  · exact execLaunchi_wf h
  · exact execLoopPacket_wf h
  · exact execEndloop_wf h
  · exact execIfeq_wf h
  · exact execIfne_wf h
  · exact execEndif_wf h
  · exact execWaitmem_wf h
  · exact execWritemem_wf h
  · exact execSignal_wf h
  · exact execFencePacket_wf h
  · exact execHandover_wf h
  · exact execCalls_wf h
  · exact execRets_wf h
  · exact execTenendPacket_wf h
  · exact execHandoverSwitch_wf h
  · exact execOwnerMirrorUpdate_wf h
  · exact execTenendSwitch_wf h
  · exact execTenendRecord_wf h
  · exact execGenerationGrant_wf h
  · exact execAssayRewrite_wf h
  · exact execAssayPassComplete_wf h
  · exact execSoftRequest_wf h
  · exact execHardRequest_wf h
  · exact execKillRequest_wf h
  · exact execGraceExpiry_wf h
  · exact execContextSave_wf h
  · exact execKillExpiry_wf h
  · exact execContextRestore_wf h
  · exact execFunctionLevelReset_wf h
  · exact execFlrDrainEnd_wf h
  · exact execCpReset_wf h
  · exact execIoFunctionRelease_wf h
  · exact execThrottleLevelChange_wf h
  · exact execSlotTableWrite_wf h
  · exact execSlotTableTakeEffect_wf h
  · exact execQueueDescriptorWrite_wf h
  · exact execTranslationRecordWrite_wf h
  · exact execOwnerRightWrite_wf h
  · exact execCacheSlicesChange_wf h
  · exact execTenancyOpen_wf h
  · exact execFlowRegister_wf h
  · exact execHdmMapWrite_wf h
  · exact execInvalidationRequest_wf h
  · exact execInvalidationComplete_wf h
  · exact execLinkEnable_wf h
  · exact execPlatformRegisterWrite_wf h
  · exact execFlitTransmit_wf h
  · exact execFlitReceive_wf h
  · exact execNakReplay_wf h
  · exact execRetrain_wf h
  · exact execRetrainComplete_wf h
  · exact execLinkDown_wf h
  · exact execDownNotice_wf h
  · exact execCommandFrame_wf h
  · exact execHostRequest_wf h
  · exact execEmpinRequest_wf h
  · exact execModuleReset_wf h
  · exact execDieRelease_wf h
  · exact execGetVersion_wf h
  · exact execGetCapabilities_wf h
  · exact execNegotiateAlgorithms_wf h
  · exact execGetDigests_wf h
  · exact execGetCertificate_wf h
  · exact execChallenge_wf h
  · exact execGetMeasurements_wf h
  · exact execUnsupportedRequest_wf h
  · exact execApplicationCoreAccess_wf h
  · exact execLinkMirrorUpdate_wf h
  · exact execWaitmemReread_wf h
  · exact execTlbReplacement_wf h
  · exact execReservedMicroOp_wf h
  · exact execFollowerLaunch_wf h

theorem State.pastRoutine_wf {s : State} (h : Memory.wf s.mem = true) :
    OutWf (State.pastRoutine s) := by
  unfold State.pastRoutine
  repeat' first
    | with_reducible exact h | with_reducible assumption | with_reducible apply microMeaning_wf
    | with_reducible apply State.endCall_wf | with_reducible apply ok_wf | split | (intro s c h)

theorem State.engineStep_wf {s : State} {x1 : ℕ} (h : Memory.wf s.mem = true) :
    OutWf (State.engineStep s x1) := by
  unfold State.engineStep
  repeat' first
    | with_reducible exact h | with_reducible assumption | with_reducible apply ok_wf | with_reducible apply exec_wf
    | with_reducible apply State.pastRoutine_wf | with_reducible apply ok_wf | split | (intro s h) | (intro s h)
    | (dsimp only)

theorem State.eventStep_wf {s : State} {x1 : Instr} (h : Memory.wf s.mem = true) :
    OutWf (State.eventStep s x1) := by
  unfold State.eventStep
  repeat' first
    | with_reducible exact h | with_reducible assumption | with_reducible apply ok_wf | with_reducible apply exec_wf
    | with_reducible apply ok_wf | split

theorem State.ticks_wf {s : State} {d : Nat} (h : Memory.wf s.mem = true) : ∀ {n : Nat}, Memory.wf (s.ticks d n).mem = true := by
  intro n
  induction n generalizing s with
  | zero => exact h
  | succ n ih => exact ih (State.tick_wf h)

theorem State.begin_wf {s : State} {x1 : Nat} (h : Memory.wf s.mem = true) : Memory.wf (s.begin x1).mem = true :=
  State.ticks_wf h

theorem State.hold_wf {s : State} (h : Memory.wf s.mem = true) :
    Memory.wf (State.hold s).mem = true := by
  unfold State.hold
  repeat' first
    | with_reducible exact h | with_reducible assumption | with_reducible apply State.tick_wf

theorem State.endQuick_wf {s : State} {x1 : ℕ} (h : Memory.wf s.mem = true) :
    Memory.wf (State.endQuick s x1).mem = true := by
  unfold State.endQuick
  repeat' first
    | with_reducible exact h | with_reducible assumption | with_reducible apply State.applyNext_wf
    | with_reducible apply State.setCore_wf | with_reducible apply State.landAll_wf

theorem State.endBundle_wf {s : State} {x1 : Nat} {x2 : Core} (h : Memory.wf s.mem = true) :
    Memory.wf (State.endBundle s x1 x2).mem = true := by
  unfold State.endBundle
  repeat' first
    | with_reducible exact h | with_reducible assumption | with_reducible apply State.updCore_wf
    | with_reducible apply State.endQuick_wf | with_reducible apply State.advanceVc_wf | split | (intro s h)
    | (dsimp only)

theorem commitSlots_wf {c : Nat} {kind : HdrKind} : ∀ {xs : List Slot} {n : Nat} {s : State}, Memory.wf s.mem = true →
    OutWf (commitSlots c kind n xs s)
  | [], _, _, h => ok_wf h
  | x :: l, n, s, h => by
    have he := exec_wf (s := s.atSlot c n kind x.x .commit) x.i h
    unfold commitSlots
    split
    · next t ht => unfold OutWf at he; exact commitSlots_wf (xs := l) (he _ ht)
    · exact he

theorem State.endCut_wf {s : State} (h : Memory.wf s.mem = true) :
    Memory.wf (State.endCut s).mem = true := by
  unfold State.endCut
  repeat' first
    | with_reducible exact h | with_reducible assumption | with_reducible apply State.cut_wf | split | (intro s h)
    | (dsimp only)

theorem State.discardBundle_wf {s : State} {x1 : Nat} {x2 : State} (h : Memory.wf s.mem = true) (h2 : Memory.wf x2.mem = true) :
    Memory.wf (State.discardBundle s x1 x2).mem = true := by
  unfold State.discardBundle
  repeat' first
    | with_reducible exact h | with_reducible assumption | with_reducible apply State.updTen_wf
    | with_reducible apply State.updCore_wf | split | (intro s h) | (dsimp only)

theorem State.spend_wf {s : State} {x1 : Nat} (h : Memory.wf s.mem = true) :
    Memory.wf (State.spend s x1).mem = true := by
  unfold State.spend
  repeat' first
    | with_reducible exact h | with_reducible assumption | with_reducible apply State.updCore_wf | (intro s h)
    | (dsimp only)

theorem State.issueBundle_wf {s : State} {x1 : Nat} {x2 : Bundle} (h : Memory.wf s.mem = true) :
    OutWf (State.issueBundle s x1 x2) := by
  unfold State.issueBundle
  repeat' first
    | with_reducible exact h | with_reducible assumption | with_reducible apply State.updCore_wf
    | (with_reducible refine OutWf.next (commitSlots_wf ?_) (by assumption)) | with_reducible apply commitSlots_wf
    | with_reducible apply State.discardBundle_wf | with_reducible apply State.endCut_wf
    | with_reducible apply State.endBundle_wf | with_reducible apply State.spend_wf | with_reducible apply ok_wf
    | with_reducible apply ok_wf | split | (intro s h) | (dsimp only)

theorem State.codeMiss_wf {s : State} {x1 : Nat} (h : Memory.wf s.mem = true) :
    ∀ t, State.codeMiss s x1 = some t → Memory.wf t.mem = true := by
  intro t hh
  unfold State.codeMiss at hh
  try dsimp only at hh
  repeat' (split at hh)
  all_goals first
    | cases hh
    | skip
  all_goals repeat' first
    | with_reducible exact h | with_reducible assumption | with_reducible apply ok_wf
    | with_reducible apply State.afterRead_wf | with_reducible apply State.updCore_wf | with_reducible apply ok_wf
    | (intro s h) | (dsimp only) | split

theorem State.ringStep_wf {s : State} {x1 : W64} (h : Memory.wf s.mem = true) :
    Memory.wf (State.ringStep s x1).mem = true := by
  unfold State.ringStep
  repeat' first
    | with_reducible exact h | with_reducible assumption | with_reducible apply State.updK_wf
    | with_reducible apply State.afterRead_wf | with_reducible apply State.putAcc_wf
    | with_reducible apply State.settle_wf | split | (intro s h) | (dsimp only)

theorem State.ringReads_wf {c : Nat} {kind : HdrKind} : ∀ {l : List Slot} {s : State} {n : Nat},
    Memory.wf s.mem = true → Memory.wf (State.ringReads s c kind n l).mem = true := by
  intro l
  induction l with
  | nil => intro s n h; exact h
  | cons x t ih =>
    intro s n h
    unfold State.ringReads
    split
    · exact State.ringStep_wf (State.atSlot_wf h)
    · exact ih h

theorem State.runBundle_wf {s : State} {x1 : Nat} (h : Memory.wf s.mem = true) :
    OutWf (State.runBundle s x1) := by
  unfold State.runBundle
  repeat' first
    | with_reducible exact h | with_reducible assumption
    | (with_reducible refine State.codeMiss_wf ?_ _ (by assumption)) | with_reducible apply ok_wf
    | with_reducible apply State.ringReads_wf | with_reducible apply State.tick_wf | with_reducible apply State.takeTrapOf_wf
    | with_reducible apply State.hold_wf | with_reducible apply State.advanceVc_wf | with_reducible apply State.spend_wf
    | with_reducible apply State.updCore_wf | with_reducible apply State.issueBundle_wf | with_reducible apply ok_wf
    | split | (intro s h) | (dsimp only)

theorem State.act_wf {s : State} {x1 : Nat} (h : Memory.wf s.mem = true) :
    OutWf (State.act s x1) := by
  unfold State.act
  repeat' first
    | with_reducible exact h | with_reducible assumption | with_reducible apply ok_wf
    | with_reducible apply State.updCore_wf | with_reducible apply State.spend_wf
    | (with_reducible refine State.enter_wf ?_ _ (by assumption)) | with_reducible apply State.enterTrap_wf
    | with_reducible apply State.takeTrapOf_wf | with_reducible apply State.advanceVc_wf
    | with_reducible apply State.runBundle_wf | with_reducible apply ok_wf | split | (intro s h) | (dsimp only)

theorem State.issue_wf {s : State} {x1 : Nat} (h : Memory.wf s.mem = true) :
    OutWf (State.issue s x1) := by
  unfold State.issue
  repeat' first
    | with_reducible exact h | with_reducible assumption | with_reducible apply State.begin_wf
    | with_reducible apply State.act_wf | with_reducible apply ok_wf | (intro s h) | (dsimp only)

theorem State.skipPacket_wf {s : State} {x1 : ℕ} {x2 : ℕ} {x3 : ℕ} {x4 : Bool} {x5 : ℕ} (h : Memory.wf s.mem = true) :
    Memory.wf (State.skipPacket s x1 x2 x3 x4 x5).mem = true := by
  unfold State.skipPacket
  repeat' first
    | with_reducible exact h | with_reducible assumption | with_reducible apply State.consume_wf

theorem State.settleWait_wf {s : State} {x1 : Nat} {x2 : Nat} (h : Memory.wf s.mem = true) :
    Memory.wf (State.settleWait s x1 x2).mem = true := by
  unfold State.settleWait
  repeat' first
    | with_reducible exact h | with_reducible assumption | with_reducible apply State.updQueue_wf
    | with_reducible apply State.fence_wf | with_reducible apply State.waitFault_wf
    | (with_reducible refine State.cpStore_wf ?_ _ (by assumption)) | with_reducible apply ok_wf
    | with_reducible apply ok_wf | split | (intro s h) | (dsimp only)

theorem State.nextPacket_wf {s : State} {x1 : ℕ} {x2 : ℕ} (h : Memory.wf s.mem = true) :
    (∀ t, State.nextPacket s x1 x2 = .moved t → Memory.wf t.mem = true)
      ∧ ∀ w t, State.nextPacket s x1 x2 = .packet w t → Memory.wf t.mem = true := by
  unfold State.nextPacket
  dsimp only
  refine ⟨fun t hh => ?_, fun w t hh => ?_⟩ <;> repeat' (split at hh)
  all_goals first
    | cases hh
  all_goals repeat' first
    | with_reducible exact h | with_reducible assumption | with_reducible apply State.skipPacket_wf
    | with_reducible refine State.reading_wf ?_ ?_ | with_reducible apply State.cpHold_wf | with_reducible apply State.cpTurn_wf
    | with_reducible apply State.cpDrop_wf | with_reducible apply State.streamFault_wf | with_reducible apply State.putHead_wf
    | with_reducible apply State.settleWait_wf | with_reducible apply State.endSub_wf
    | with_reducible apply State.updQueue_wf | with_reducible apply State.faultOr_wf | (intro s n h) | split

theorem State.packetStep_wf {s : State} {x1 : Nat} {x2 : Nat} (h : Memory.wf s.mem = true) :
    OutWf (State.packetStep s x1 x2) := by
  unfold State.packetStep
  have hn := State.nextPacket_wf (x1 := x1) (x2 := x2) h
  split
  · next t e => exact ok_wf (hn.1 t e)
  · next w t e =>
    have ht := hn.2 w t e
    split
    · exact ok_wf (State.streamFault_wf ht)
    · exact exec_wf _ (by exact ht)

theorem State.outside_wf {s : State} {x1 : Nat} {x2 : Nat} {x3 : Bool} {x4 : Nat} (h : Memory.wf s.mem = true) :
    Memory.wf (State.outside s x1 x2 x3 x4).mem = true := by
  unfold State.outside
  repeat' first
    | with_reducible exact h | with_reducible assumption | with_reducible apply State.write_wf
    | with_reducible apply State.answerIo_wf | split | (intro s h) | (dsimp only)

theorem State.next_wf {s : State} (h : Memory.wf s.mem = true) :
    OutWf (State.next s) := by
  unfold State.next
  repeat' first
    | with_reducible exact h | with_reducible assumption | with_reducible apply State.issue_wf
    | with_reducible apply ok_wf | with_reducible apply State.eventStep_wf | with_reducible apply State.engineStep_wf
    | with_reducible apply State.packetStep_wf | with_reducible apply State.outside_wf | with_reducible apply ok_wf
    | split | (intro s h) | (dsimp only)

theorem State.openTenancy_wf {s : State} (h : Memory.wf s.mem = true) :
    Memory.wf (State.openTenancy s).mem = true := by
  unfold State.openTenancy
  repeat' first
    | with_reducible exact h | with_reducible assumption | with_reducible apply State.updDie_wf
    | (with_reducible refine foldl_wf (fun s x h => ?_) ?_) | (intro s h) | (dsimp only)

theorem State.placeWord_wf {s : State} {x1 : ℕ} {x2 : ℕ} (h : Memory.wf s.mem = true) :
    Memory.wf (State.placeWord s x1 x2).mem = true := by
  unfold State.placeWord
  repeat' first
    | with_reducible exact h | with_reducible assumption | with_reducible apply State.openTenancy_wf
    | with_reducible apply State.write_wf | with_reducible apply State.updCore_wf

theorem State.withFetchWord_wf {s : State} {x1 : ℕ} {x2 : ℕ} (h : Memory.wf s.mem = true) :
    Memory.wf (State.withFetchWord s x1 x2).mem = true := by
  unfold State.withFetchWord
  repeat' first
    | with_reducible exact h | with_reducible assumption | with_reducible apply State.placeWord_wf

end Sys2Proof.Machine
end

