-- ==== Sys2Proof/Laws/Dispatch.lean ====
section
/-! SUPPORT. The arm of exec for each constructor, as a rewriting rule. -/
namespace Sys2Proof.Machine

theorem exec_nop (s : State) : exec (.nop) s = execNop s := rfl
theorem exec_add (p : BitVec 3) (d : BitVec 6) (a : BitVec 6) (b : BitVec 6) (s : State) : exec (.add p d a b) s = execAdd p d a b s := rfl
theorem exec_sub (p : BitVec 3) (d : BitVec 6) (a : BitVec 6) (b : BitVec 6) (s : State) : exec (.sub p d a b) s = execSub p d a b s := rfl
theorem exec_and (p : BitVec 3) (d : BitVec 6) (a : BitVec 6) (b : BitVec 6) (s : State) : exec (.and p d a b) s = execAnd p d a b s := rfl
theorem exec_or (p : BitVec 3) (d : BitVec 6) (a : BitVec 6) (b : BitVec 6) (s : State) : exec (.or p d a b) s = execOr p d a b s := rfl
theorem exec_xor (p : BitVec 3) (d : BitVec 6) (a : BitVec 6) (b : BitVec 6) (s : State) : exec (.xor p d a b) s = execXor p d a b s := rfl
theorem exec_andn (p : BitVec 3) (d : BitVec 6) (a : BitVec 6) (b : BitVec 6) (s : State) : exec (.andn p d a b) s = execAndn p d a b s := rfl
theorem exec_orn (p : BitVec 3) (d : BitVec 6) (a : BitVec 6) (b : BitVec 6) (s : State) : exec (.orn p d a b) s = execOrn p d a b s := rfl
theorem exec_shl (p : BitVec 3) (d : BitVec 6) (a : BitVec 6) (b : BitVec 6) (s : State) : exec (.shl p d a b) s = execShl p d a b s := rfl
theorem exec_shr (p : BitVec 3) (d : BitVec 6) (a : BitVec 6) (b : BitVec 6) (s : State) : exec (.shr p d a b) s = execShr p d a b s := rfl
theorem exec_sar (p : BitVec 3) (d : BitVec 6) (a : BitVec 6) (b : BitVec 6) (s : State) : exec (.sar p d a b) s = execSar p d a b s := rfl
theorem exec_min (p : BitVec 3) (d : BitVec 6) (a : BitVec 6) (b : BitVec 6) (s : State) : exec (.min p d a b) s = execMin p d a b s := rfl
theorem exec_max (p : BitVec 3) (d : BitVec 6) (a : BitVec 6) (b : BitVec 6) (s : State) : exec (.max p d a b) s = execMax p d a b s := rfl
theorem exec_minu (p : BitVec 3) (d : BitVec 6) (a : BitVec 6) (b : BitVec 6) (s : State) : exec (.minu p d a b) s = execMinu p d a b s := rfl
theorem exec_maxu (p : BitVec 3) (d : BitVec 6) (a : BitVec 6) (b : BitVec 6) (s : State) : exec (.maxu p d a b) s = execMaxu p d a b s := rfl
theorem exec_clz (p : BitVec 3) (d : BitVec 6) (a : BitVec 6) (s : State) : exec (.clz p d a) s = execClz p d a s := rfl
theorem exec_popc (p : BitVec 3) (d : BitVec 6) (a : BitVec 6) (s : State) : exec (.popc p d a) s = execPopc p d a s := rfl
theorem exec_bfx (p : BitVec 3) (d : BitVec 6) (a : BitVec 6) (b : BitVec 6) (s : State) : exec (.bfx p d a b) s = execBfx p d a b s := rfl
theorem exec_bfi (p : BitVec 3) (d : BitVec 6) (a : BitVec 6) (b : BitVec 6) (s : State) : exec (.bfi p d a b) s = execBfi p d a b s := rfl
theorem exec_cmpt (p : BitVec 3) (a : BitVec 6) (b : BitVec 6) (s : State) : exec (.cmpt p a b) s = execCmpt p a b s := rfl
theorem exec_mul (p : BitVec 3) (d : BitVec 6) (a : BitVec 6) (b : BitVec 6) (s : State) : exec (.mul p d a b) s = execMul p d a b s := rfl
theorem exec_mulh (p : BitVec 3) (d : BitVec 6) (a : BitVec 6) (b : BitVec 6) (s : State) : exec (.mulh p d a b) s = execMulh p d a b s := rfl
theorem exec_mulhu (p : BitVec 3) (d : BitVec 6) (a : BitVec 6) (b : BitVec 6) (s : State) : exec (.mulhu p d a b) s = execMulhu p d a b s := rfl
theorem exec_div (p : BitVec 3) (d : BitVec 6) (a : BitVec 6) (b : BitVec 6) (s : State) : exec (.div p d a b) s = execDiv p d a b s := rfl
theorem exec_divu (p : BitVec 3) (d : BitVec 6) (a : BitVec 6) (b : BitVec 6) (s : State) : exec (.divu p d a b) s = execDivu p d a b s := rfl
theorem exec_rem (p : BitVec 3) (d : BitVec 6) (a : BitVec 6) (b : BitVec 6) (s : State) : exec (.rem p d a b) s = execRem p d a b s := rfl
theorem exec_remu (p : BitVec 3) (d : BitVec 6) (a : BitVec 6) (b : BitVec 6) (s : State) : exec (.remu p d a b) s = execRemu p d a b s := rfl
theorem exec_cmp (p : BitVec 3) (d : BitVec 3) (a : BitVec 6) (b : BitVec 6) (c : BitVec 5) (s : State) : exec (.cmp p d a b c) s = execCmp p d a b c s := rfl
theorem exec_sel (p : BitVec 3) (d : BitVec 6) (a : BitVec 6) (b : BitVec 6) (n : BitVec 3) (s : State) : exec (.sel p d a b n) s = execSel p d a b n s := rfl
theorem exec_pand (p : BitVec 3) (d : BitVec 3) (a : BitVec 3) (b : BitVec 3) (s : State) : exec (.pand p d a b) s = execPand p d a b s := rfl
theorem exec_por (p : BitVec 3) (d : BitVec 3) (a : BitVec 3) (b : BitVec 3) (s : State) : exec (.por p d a b) s = execPor p d a b s := rfl
theorem exec_pxor (p : BitVec 3) (d : BitVec 3) (a : BitVec 3) (b : BitVec 3) (s : State) : exec (.pxor p d a b) s = execPxor p d a b s := rfl
theorem exec_pget (p : BitVec 3) (d : BitVec 6) (s : State) : exec (.pget p d) s = execPget p d s := rfl
theorem exec_pset (p : BitVec 3) (d : BitVec 3) (a : BitVec 6) (s : State) : exec (.pset p d a) s = execPset p d a s := rfl
theorem exec_addi (p : BitVec 3) (d : BitVec 6) (a : BitVec 6) (i' : BitVec 11) (s : State) : exec (.addi p d a i') s = execAddi p d a i' s := rfl
theorem exec_andi (p : BitVec 3) (d : BitVec 6) (a : BitVec 6) (i' : BitVec 11) (s : State) : exec (.andi p d a i') s = execAndi p d a i' s := rfl
theorem exec_ori (p : BitVec 3) (d : BitVec 6) (a : BitVec 6) (i' : BitVec 11) (s : State) : exec (.ori p d a i') s = execOri p d a i' s := rfl
theorem exec_xori (p : BitVec 3) (d : BitVec 6) (a : BitVec 6) (i' : BitVec 11) (s : State) : exec (.xori p d a i') s = execXori p d a i' s := rfl
theorem exec_shli (p : BitVec 3) (d : BitVec 6) (a : BitVec 6) (n : BitVec 6) (s : State) : exec (.shli p d a n) s = execShli p d a n s := rfl
theorem exec_shri (p : BitVec 3) (d : BitVec 6) (a : BitVec 6) (n : BitVec 6) (s : State) : exec (.shri p d a n) s = execShri p d a n s := rfl
theorem exec_sari (p : BitVec 3) (d : BitVec 6) (a : BitVec 6) (n : BitVec 6) (s : State) : exec (.sari p d a n) s = execSari p d a n s := rfl
theorem exec_cmpi (p : BitVec 3) (c : BitVec 3) (d : BitVec 3) (a : BitVec 6) (i' : BitVec 11) (s : State) : exec (.cmpi p c d a i') s = execCmpi p c d a i' s := rfl
theorem exec_cmpiu (p : BitVec 3) (c : BitVec 3) (d : BitVec 3) (a : BitVec 6) (i' : BitVec 11) (s : State) : exec (.cmpiu p c d a i') s = execCmpiu p c d a i' s := rfl
theorem exec_movi (p : BitVec 3) (d : BitVec 6) (i' : BitVec 17) (s : State) : exec (.movi p d i') s = execMovi p d i' s := rfl
theorem exec_movhi (p : BitVec 3) (d : BitVec 6) (i' : BitVec 17) (s : State) : exec (.movhi p d i') s = execMovhi p d i' s := rfl
theorem exec_csrr (p : BitVec 3) (d : BitVec 6) (c : BitVec 11) (s : State) : exec (.csrr p d c) s = execCsrr p d c s := rfl
theorem exec_csrw (p : BitVec 3) (a : BitVec 6) (c : BitVec 11) (s : State) : exec (.csrw p a c) s = execCsrw p a c s := rfl
theorem exec_br (p : BitVec 3) (o : BitVec 20) (s : State) : exec (.br p o) s = execBr p o s := rfl
theorem exec_brl (p : BitVec 3) (o : BitVec 20) (s : State) : exec (.brl p o) s = execBrl p o s := rfl
theorem exec_loop (p : BitVec 3) (l : BitVec 2) (o : BitVec 16) (s : State) : exec (.loop p l o) s = execLoop p l o s := rfl
theorem exec_loopr (p : BitVec 3) (l : BitVec 2) (k : BitVec 5) (o : BitVec 16) (s : State) : exec (.loopr p l k o) s = execLoopr p l k o s := rfl
theorem exec_jr (p : BitVec 3) (a : BitVec 6) (s : State) : exec (.jr p a) s = execJr p a s := rfl
theorem exec_jrl (p : BitVec 3) (d : BitVec 6) (a : BitVec 6) (s : State) : exec (.jrl p d a) s = execJrl p d a s := rfl
theorem exec_trap (p : BitVec 3) (c : BitVec 12) (s : State) : exec (.trap p c) s = execTrap p c s := rfl
theorem exec_eret (p : BitVec 3) (s : State) : exec (.eret p) s = execEret p s := rfl
theorem exec_uiret (p : BitVec 3) (s : State) : exec (.uiret p) s = execUiret p s := rfl
theorem exec_wait (p : BitVec 3) (l : BitVec 5) (s' : BitVec 5) (c : BitVec 5) (t : BitVec 5) (s : State) : exec (.wait p l s' c t) s = execWait p l s' c t s := rfl
theorem exec_vadd (p : BitVec 3) (d : BitVec 7) (a : BitVec 7) (b : BitVec 7) (t : BitVec 2) (s : State) : exec (.vadd p d a b t) s = execVadd p d a b t s := rfl
theorem exec_vsub (p : BitVec 3) (d : BitVec 7) (a : BitVec 7) (b : BitVec 7) (t : BitVec 2) (s : State) : exec (.vsub p d a b t) s = execVsub p d a b t s := rfl
theorem exec_vmul (p : BitVec 3) (d : BitVec 7) (a : BitVec 7) (b : BitVec 7) (t : BitVec 2) (s : State) : exec (.vmul p d a b t) s = execVmul p d a b t s := rfl
theorem exec_vfma (p : BitVec 3) (d : BitVec 7) (a : BitVec 7) (b : BitVec 7) (t : BitVec 2) (s : State) : exec (.vfma p d a b t) s = execVfma p d a b t s := rfl
theorem exec_vfms (p : BitVec 3) (d : BitVec 7) (a : BitVec 7) (b : BitVec 7) (t : BitVec 2) (s : State) : exec (.vfms p d a b t) s = execVfms p d a b t s := rfl
theorem exec_vmax (p : BitVec 3) (d : BitVec 7) (a : BitVec 7) (b : BitVec 7) (t : BitVec 2) (s : State) : exec (.vmax p d a b t) s = execVmax p d a b t s := rfl
theorem exec_vmin (p : BitVec 3) (d : BitVec 7) (a : BitVec 7) (b : BitVec 7) (t : BitVec 2) (s : State) : exec (.vmin p d a b t) s = execVmin p d a b t s := rfl
theorem exec_vand (p : BitVec 3) (d : BitVec 7) (a : BitVec 7) (b : BitVec 7) (s : State) : exec (.vand p d a b) s = execVand p d a b s := rfl
theorem exec_vor (p : BitVec 3) (d : BitVec 7) (a : BitVec 7) (b : BitVec 7) (s : State) : exec (.vor p d a b) s = execVor p d a b s := rfl
theorem exec_vxor (p : BitVec 3) (d : BitVec 7) (a : BitVec 7) (b : BitVec 7) (s : State) : exec (.vxor p d a b) s = execVxor p d a b s := rfl
theorem exec_vshl (p : BitVec 3) (d : BitVec 7) (a : BitVec 7) (b : BitVec 7) (s : State) : exec (.vshl p d a b) s = execVshl p d a b s := rfl
theorem exec_vshr (p : BitVec 3) (d : BitVec 7) (a : BitVec 7) (b : BitVec 7) (s : State) : exec (.vshr p d a b) s = execVshr p d a b s := rfl
theorem exec_vsar (p : BitVec 3) (d : BitVec 7) (a : BitVec 7) (b : BitVec 7) (s : State) : exec (.vsar p d a b) s = execVsar p d a b s := rfl
theorem exec_vcmp (p : BitVec 3) (c : BitVec 2) (d : BitVec 5) (a : BitVec 7) (b : BitVec 7) (t : BitVec 2) (s : State) : exec (.vcmp p c d a b t) s = execVcmp p c d a b t s := rfl
theorem exec_vsel (p : BitVec 3) (d : BitVec 7) (a : BitVec 7) (b : BitVec 7) (t : BitVec 2) (s : State) : exec (.vsel p d a b t) s = execVsel p d a b t s := rfl
theorem exec_vshf (p : BitVec 3) (d : BitVec 7) (a : BitVec 7) (b : BitVec 7) (t : BitVec 2) (s : State) : exec (.vshf p d a b t) s = execVshf p d a b t s := rfl
theorem exec_vrotl (p : BitVec 3) (d : BitVec 7) (a : BitVec 7) (n : BitVec 7) (t : BitVec 2) (s : State) : exec (.vrotl p d a n t) s = execVrotl p d a n t s := rfl
theorem exec_vmov (p : BitVec 3) (d : BitVec 7) (a : BitVec 7) (t : BitVec 2) (s : State) : exec (.vmov p d a t) s = execVmov p d a t s := rfl
theorem exec_vabs (p : BitVec 3) (d : BitVec 7) (a : BitVec 7) (t : BitVec 2) (s : State) : exec (.vabs p d a t) s = execVabs p d a t s := rfl
theorem exec_vneg (p : BitVec 3) (d : BitVec 7) (a : BitVec 7) (t : BitVec 2) (s : State) : exec (.vneg p d a t) s = execVneg p d a t s := rfl
theorem exec_viota (p : BitVec 3) (d : BitVec 7) (t : BitVec 2) (s : State) : exec (.viota p d t) s = execViota p d t s := rfl
theorem exec_vclr (p : BitVec 3) (d : BitVec 7) (s : State) : exec (.vclr p d) s = execVclr p d s := rfl
theorem exec_vbc (p : BitVec 3) (d : BitVec 7) (s' : BitVec 6) (t : BitVec 2) (s : State) : exec (.vbc p d s' t) s = execVbc p d s' t s := rfl
theorem exec_vxt (p : BitVec 3) (v : BitVec 7) (d : BitVec 6) (l : BitVec 6) (t : BitVec 2) (s : State) : exec (.vxt p v d l t) s = execVxt p v d l t s := rfl
theorem exec_vins (p : BitVec 3) (v : BitVec 7) (s' : BitVec 6) (l : BitVec 6) (t : BitVec 2) (s : State) : exec (.vins p v s' l t) s = execVins p v s' l t s := rfl
theorem exec_vredSum (p : BitVec 3) (d : BitVec 7) (a : BitVec 7) (t : BitVec 2) (s : State) : exec (.vredSum p d a t) s = execVredSum p d a t s := rfl
theorem exec_vredMax (p : BitVec 3) (d : BitVec 7) (a : BitVec 7) (t : BitVec 2) (s : State) : exec (.vredMax p d a t) s = execVredMax p d a t s := rfl
theorem exec_vredMin (p : BitVec 3) (d : BitVec 7) (a : BitVec 7) (t : BitVec 2) (s : State) : exec (.vredMin p d a t) s = execVredMin p d a t s := rfl
theorem exec_vcvt (p : BitVec 3) (d : BitVec 7) (a : BitVec 7) (e : BitVec 2) (t : BitVec 2) (s : State) : exec (.vcvt p d a e t) s = execVcvt p d a e t s := rfl
theorem exec_cmptv (p : BitVec 3) (a : BitVec 7) (b : BitVec 7) (t : BitVec 2) (s : State) : exec (.cmptv p a b t) s = execCmptv p a b t s := rfl
theorem exec_vexp2 (p : BitVec 3) (d : BitVec 7) (a : BitVec 7) (t : BitVec 2) (s : State) : exec (.vexp2 p d a t) s = execVexp2 p d a t s := rfl
theorem exec_vlog2 (p : BitVec 3) (d : BitVec 7) (a : BitVec 7) (t : BitVec 2) (s : State) : exec (.vlog2 p d a t) s = execVlog2 p d a t s := rfl
theorem exec_vrcp (p : BitVec 3) (d : BitVec 7) (a : BitVec 7) (t : BitVec 2) (s : State) : exec (.vrcp p d a t) s = execVrcp p d a t s := rfl
theorem exec_vrsq (p : BitVec 3) (d : BitVec 7) (a : BitVec 7) (t : BitVec 2) (s : State) : exec (.vrsq p d a t) s = execVrsq p d a t s := rfl
theorem exec_vsin (p : BitVec 3) (d : BitVec 7) (a : BitVec 7) (t : BitVec 2) (s : State) : exec (.vsin p d a t) s = execVsin p d a t s := rfl
theorem exec_vtanh (p : BitVec 3) (d : BitVec 7) (a : BitVec 7) (t : BitVec 2) (s : State) : exec (.vtanh p d a t) s = execVtanh p d a t s := rfl
theorem exec_vunpk (p : BitVec 3) (d : BitVec 7) (a : BitVec 7) (f : BitVec 4) (k : BitVec 3) (t : BitVec 2) (s : State) : exec (.vunpk p d a f k t) s = execVunpk p d a f k t s := rfl
theorem exec_vpack (p : BitVec 3) (d : BitVec 7) (a : BitVec 7) (f : BitVec 4) (k : BitVec 3) (t : BitVec 2) (s : State) : exec (.vpack p d a f k t) s = execVpack p d a f k t s := rfl
theorem exec_vbscl (p : BitVec 3) (d : BitVec 7) (a : BitVec 7) (b : BitVec 7) (t : BitVec 2) (s : State) : exec (.vbscl p d a b t) s = execVbscl p d a b t s := rfl
theorem exec_vld (p : BitVec 3) (v : BitVec 7) (a : BitVec 6) (o : BitVec 8) (s : State) : exec (.vld p v a o) s = execVld p v a o s := rfl
theorem exec_vst (p : BitVec 3) (v : BitVec 7) (a : BitVec 6) (o : BitVec 8) (s : State) : exec (.vst p v a o) s = execVst p v a o s := rfl
theorem exec_vlds (p : BitVec 3) (v : BitVec 7) (a : BitVec 6) (o : BitVec 8) (s : State) : exec (.vlds p v a o) s = execVlds p v a o s := rfl
theorem exec_vsts (p : BitVec 3) (v : BitVec 7) (a : BitVec 6) (o : BitVec 8) (s : State) : exec (.vsts p v a o) s = execVsts p v a o s := rfl
theorem exec_sadd (p : BitVec 3) (d : BitVec 5) (a : BitVec 7) (b : BitVec 7) (r : BitVec 2) (s : State) : exec (.sadd p d a b r) s = execSadd p d a b r s := rfl
theorem exec_ssub (p : BitVec 3) (d : BitVec 5) (a : BitVec 7) (b : BitVec 7) (r : BitVec 2) (s : State) : exec (.ssub p d a b r) s = execSsub p d a b r s := rfl
theorem exec_smul (p : BitVec 3) (d : BitVec 5) (a : BitVec 7) (b : BitVec 7) (r : BitVec 2) (s : State) : exec (.smul p d a b r) s = execSmul p d a b r s := rfl
theorem exec_sdiv (p : BitVec 3) (d : BitVec 5) (a : BitVec 7) (b : BitVec 7) (r : BitVec 2) (s : State) : exec (.sdiv p d a b r) s = execSdiv p d a b r s := rfl
theorem exec_suni (p : BitVec 3) (d : BitVec 5) (a : BitVec 7) (b : BitVec 7) (r : BitVec 2) (s : State) : exec (.suni p d a b r) s = execSuni p d a b r s := rfl
theorem exec_sint (p : BitVec 3) (d : BitVec 5) (a : BitVec 7) (b : BitVec 7) (r : BitVec 2) (s : State) : exec (.sint p d a b r) s = execSint p d a b r s := rfl
theorem exec_scmp (p : BitVec 3) (d : BitVec 5) (a : BitVec 7) (b : BitVec 7) (r : BitVec 2) (s : State) : exec (.scmp p d a b r) s = execScmp p d a b r s := rfl
theorem exec_sneg (p : BitVec 3) (d : BitVec 7) (a : BitVec 7) (r : BitVec 2) (s : State) : exec (.sneg p d a r) s = execSneg p d a r s := rfl
theorem exec_sfrom (p : BitVec 3) (d : BitVec 7) (a : BitVec 7) (r : BitVec 2) (s : State) : exec (.sfrom p d a r) s = execSfrom p d a r s := rfl
theorem exec_sbnd (p : BitVec 3) (d : BitVec 7) (a : BitVec 7) (r : BitVec 2) (s : State) : exec (.sbnd p d a r) s = execSbnd p d a r s := rfl
theorem exec_sarc (p : BitVec 3) (d : BitVec 7) (a : BitVec 7) (r : BitVec 2) (s : State) : exec (.sarc p d a r) s = execSarc p d a r s := rfl
theorem exec_smsk (p : BitVec 3) (d : BitVec 7) (a : BitVec 7) (r : BitVec 2) (s : State) : exec (.smsk p d a r) s = execSmsk p d a r s := rfl
theorem exec_sred (p : BitVec 3) (d : BitVec 7) (a : BitVec 7) (r : BitVec 2) (s : State) : exec (.sred p d a r) s = execSred p d a r s := rfl
theorem exec_spld (p : BitVec 3) (d : BitVec 6) (a : BitVec 6) (o : BitVec 5) (z : BitVec 2) (s : State) : exec (.spld p d a o z) s = execSpld p d a o z s := rfl
theorem exec_spst (p : BitVec 3) (d : BitVec 6) (a : BitVec 6) (o : BitVec 5) (z : BitVec 2) (s : State) : exec (.spst p d a o z) s = execSpst p d a o z s := rfl
theorem exec_ld (p : BitVec 3) (d : BitVec 6) (a : BitVec 6) (o : BitVec 5) (z : BitVec 2) (s : State) : exec (.ld p d a o z) s = execLd p d a o z s := rfl
theorem exec_lds (p : BitVec 3) (d : BitVec 6) (a : BitVec 6) (o : BitVec 5) (z : BitVec 2) (c : BitVec 2) (s : State) : exec (.lds p d a o z c) s = execLds p d a o z c s := rfl
theorem exec_lda (p : BitVec 3) (d : BitVec 6) (a : BitVec 6) (o : BitVec 5) (z : BitVec 2) (c : BitVec 2) (s : State) : exec (.lda p d a o z c) s = execLda p d a o z c s := rfl
theorem exec_pref (p : BitVec 3) (a : BitVec 6) (o : BitVec 5) (s : State) : exec (.pref p a o) s = execPref p a o s := rfl
theorem exec_st (p : BitVec 3) (d : BitVec 6) (a : BitVec 6) (o : BitVec 5) (z : BitVec 2) (s : State) : exec (.st p d a o z) s = execSt p d a o z s := rfl
theorem exec_sts (p : BitVec 3) (d : BitVec 6) (a : BitVec 6) (o : BitVec 5) (z : BitVec 2) (c : BitVec 2) (s : State) : exec (.sts p d a o z c) s = execSts p d a o z c s := rfl
theorem exec_strl (p : BitVec 3) (d : BitVec 6) (a : BitVec 6) (o : BitVec 5) (z : BitVec 2) (c : BitVec 2) (s : State) : exec (.strl p d a o z c) s = execStrl p d a o z c s := rfl
theorem exec_amoAdd (p : BitVec 3) (d : BitVec 6) (a : BitVec 6) (b : BitVec 6) (c : BitVec 2) (s : State) : exec (.amoAdd p d a b c) s = execAmoAdd p d a b c s := rfl
theorem exec_amoAnd (p : BitVec 3) (d : BitVec 6) (a : BitVec 6) (b : BitVec 6) (c : BitVec 2) (s : State) : exec (.amoAnd p d a b c) s = execAmoAnd p d a b c s := rfl
theorem exec_amoOr (p : BitVec 3) (d : BitVec 6) (a : BitVec 6) (b : BitVec 6) (c : BitVec 2) (s : State) : exec (.amoOr p d a b c) s = execAmoOr p d a b c s := rfl
theorem exec_amoXor (p : BitVec 3) (d : BitVec 6) (a : BitVec 6) (b : BitVec 6) (c : BitVec 2) (s : State) : exec (.amoXor p d a b c) s = execAmoXor p d a b c s := rfl
theorem exec_amoMin (p : BitVec 3) (d : BitVec 6) (a : BitVec 6) (b : BitVec 6) (c : BitVec 2) (s : State) : exec (.amoMin p d a b c) s = execAmoMin p d a b c s := rfl
theorem exec_amoMax (p : BitVec 3) (d : BitVec 6) (a : BitVec 6) (b : BitVec 6) (c : BitVec 2) (s : State) : exec (.amoMax p d a b c) s = execAmoMax p d a b c s := rfl
theorem exec_amoSwap (p : BitVec 3) (d : BitVec 6) (a : BitVec 6) (b : BitVec 6) (c : BitVec 2) (s : State) : exec (.amoSwap p d a b c) s = execAmoSwap p d a b c s := rfl
theorem exec_cas (p : BitVec 3) (d : BitVec 6) (a : BitVec 6) (b : BitVec 6) (c : BitVec 2) (s : State) : exec (.cas p d a b c) s = execCas p d a b c s := rfl
theorem exec_fence (p : BitVec 3) (c : BitVec 2) (s : State) : exec (.fence p c) s = execFence p c s := rfl
theorem exec_fenceAll (p : BitVec 3) (c : BitVec 2) (s : State) : exec (.fenceAll p c) s = execFenceAll p c s := rfl
theorem exec_waitaNe (p : BitVec 3) (d : BitVec 6) (a : BitVec 6) (b : BitVec 6) (c : BitVec 2) (s : State) : exec (.waitaNe p d a b c) s = execWaitaNe p d a b c s := rfl
theorem exec_waitaEq (p : BitVec 3) (d : BitVec 6) (a : BitVec 6) (b : BitVec 6) (c : BitVec 2) (s : State) : exec (.waitaEq p d a b c) s = execWaitaEq p d a b c s := rfl
theorem exec_hwait (p : BitVec 3) (h : BitVec 6) (t : BitVec 1) (s : State) : exec (.hwait p h t) s = execHwait p h t s := rfl
theorem exec_hstat (p : BitVec 3) (d : BitVec 6) (h : BitVec 6) (s : State) : exec (.hstat p d h) s = execHstat p d h s := rfl
theorem exec_hrel (p : BitVec 3) (h : BitVec 6) (s : State) : exec (.hrel p h) s = execHrel p h s := rfl
theorem exec_hset (p : BitVec 3) (h : BitVec 6) (a : BitVec 6) (b : BitVec 6) (s : State) : exec (.hset p h a b) s = execHset p h a b s := rfl
theorem exec_hexp (p : BitVec 3) (h : BitVec 6) (a : BitVec 6) (b : BitVec 6) (s : State) : exec (.hexp p h a b) s = execHexp p h a b s := rfl
theorem exec_hswap (p : BitVec 3) (h : BitVec 6) (s : State) : exec (.hswap p h) s = execHswap p h s := rfl
theorem exec_bkrel (p : BitVec 3) (a : BitVec 6) (s : State) : exec (.bkrel p a) s = execBkrel p a s := rfl
theorem exec_bkwait (p : BitVec 3) (a : BitVec 6) (s : State) : exec (.bkwait p a) s = execBkwait p a s := rfl
theorem exec_barv (p : BitVec 3) (n : BitVec 3) (a : BitVec 6) (s : State) : exec (.barv p n a) s = execBarv p n a s := rfl
theorem exec_barvInit (p : BitVec 3) (n : BitVec 3) (a : BitVec 6) (s : State) : exec (.barvInit p n a) s = execBarvInit p n a s := rfl
theorem exec_bart (p : BitVec 3) (n : BitVec 3) (a : BitVec 6) (s : State) : exec (.bart p n a) s = execBart p n a s := rfl
theorem exec_barw (p : BitVec 3) (n : BitVec 3) (s : State) : exec (.barw p n) s = execBarw p n s := rfl
theorem exec_uien (p : BitVec 3) (h : BitVec 6) (e : BitVec 1) (s : State) : exec (.uien p h e) s = execUien p h e s := rfl
theorem exec_clvl (p : BitVec 3) (n : BitVec 6) (a : BitVec 6) (b : BitVec 6) (s : State) : exec (.clvl p n a b) s = execClvl p n a b s := rfl
theorem exec_cgo (p : BitVec 3) (h : BitVec 6) (d : BitVec 6) (s' : BitVec 6) (s : State) : exec (.cgo p h d s') s = execCgo p h d s' s := rfl
theorem exec_cgox (p : BitVec 3) (h : BitVec 6) (d : BitVec 6) (s' : BitVec 6) (s : State) : exec (.cgox p h d s') s = execCgox p h d s' s := rfl
theorem exec_cqry (p : BitVec 3) (d : BitVec 6) (a : BitVec 6) (q : BitVec 6) (s : State) : exec (.cqry p d a q) s = execCqry p d a q s := rfl
theorem exec_mxcall (p : BitVec 3) (h : BitVec 6) (i' : BitVec 6) (r : BitVec 5) (s : State) : exec (.mxcall p h i' r) s = execMxcall p h i' r s := rfl
theorem exec_mxp (p : BitVec 3) (m : BitVec 3) (a : BitVec 6) (s : State) : exec (.mxp p m a) s = execMxp p m a s := rfl
theorem exec_mxpr (p : BitVec 3) (d : BitVec 6) (m : BitVec 3) (s : State) : exec (.mxpr p d m) s = execMxpr p d m s := rfl
theorem exec_mxldu (p : BitVec 3) (a : BitVec 6) (b : BitVec 6) (s : State) : exec (.mxldu p a b) s = execMxldu p a b s := rfl
theorem exec_mxrt (p : BitVec 3) (n : BitVec 6) (a : BitVec 6) (s : State) : exec (.mxrt p n a) s = execMxrt p n a s := rfl
theorem exec_mxstat (p : BitVec 3) (d : BitVec 6) (h : BitVec 6) (s : State) : exec (.mxstat p d h) s = execMxstat p d h s := rfl
theorem exec_shand (p : BitVec 3) (h : BitVec 6) (a : BitVec 6) (s : State) : exec (.shand p h a) s = execShand p h a s := rfl
theorem exec_sown (p : BitVec 3) (d : BitVec 6) (a : BitVec 6) (s : State) : exec (.sown p d a) s = execSown p d a s := rfl
theorem exec_genr (p : BitVec 3) (d : BitVec 6) (s : State) : exec (.genr p d) s = execGenr p d s := rfl
theorem exec_tenend (p : BitVec 3) (a : BitVec 6) (b : BitVec 6) (s : State) : exec (.tenend p a b) s = execTenend p a b s := rfl
theorem exec_genprobe (p : BitVec 3) (d : BitVec 6) (a : BitVec 6) (q : BitVec 6) (s : State) : exec (.genprobe p d a q) s = execGenprobe p d a q s := rfl
theorem exec_tidx (p : BitVec 3) (d : BitVec 6) (s : State) : exec (.tidx p d) s = execTidx p d s := rfl
theorem exec_tnext (p : BitVec 3) (d : BitVec 6) (s : State) : exec (.tnext p d) s = execTnext p d s := rfl
theorem exec_suspend (p : BitVec 3) (a : BitVec 6) (b : BitVec 6) (s : State) : exec (.suspend p a b) s = execSuspend p a b s := rfl
theorem exec_endTask (p : BitVec 3) (s : State) : exec (.endTask p) s = execEndTask p s := rfl
theorem exec_linkq (p : BitVec 3) (d : BitVec 6) (a : BitVec 6) (s : State) : exec (.linkq p d a) s = execLinkq p d a s := rfl
theorem exec_ringld (p : BitVec 3) (r : BitVec 2) (a : BitVec 6) (s : State) : exec (.ringld p r a) s = execRingld p r a s := rfl
theorem exec_vdot (p : BitVec 3) (d : BitVec 7) (a : BitVec 7) (b : BitVec 7) (t : BitVec 2) (s : State) : exec (.vdot p d a b t) s = execVdot p d a b t s := rfl
theorem exec_vabd (p : BitVec 3) (d : BitVec 5) (a : BitVec 7) (b : BitVec 7) (t : BitVec 2) (s : State) : exec (.vabd p d a b t) s = execVabd p d a b t s := rfl
theorem exec_vclmp (p : BitVec 3) (d : BitVec 5) (a : BitVec 7) (b : BitVec 7) (t : BitVec 2) (s : State) : exec (.vclmp p d a b t) s = execVclmp p d a b t s := rfl
theorem exec_vcvth (p : BitVec 3) (d : BitVec 7) (a : BitVec 7) (e : BitVec 2) (t : BitVec 2) (s : State) : exec (.vcvth p d a e t) s = execVcvth p d a e t s := rfl
theorem exec_vscl (p : BitVec 3) (d : BitVec 7) (s' : BitVec 6) (t : BitVec 2) (s : State) : exec (.vscl p d s' t) s = execVscl p d s' t s := rfl
theorem exec_zero (ld : BitVec 1) (rp : BitVec 3) (s : State) : exec (.zero ld rp) s = execZero ld rp s := rfl
theorem exec_mma (ap : BitVec 3) (bp : BitVec 3) (kp : BitVec 3) (mp : BitVec 3) (ah : BitVec 6) (bh : BitVec 6) (sp : BitVec 1) (ua : BitVec 1) (ain : BitVec 1) (bin : BitVec 1) (s : State) : exec (.mma ap bp kp mp ah bh sp ua ain bin) s = execMma ap bp kp mp ah bh sp ua ain bin s := rfl
theorem exec_unf (tp : BitVec 3) (gp : BitVec 3) (s : State) : exec (.unf tp gp) s = execUnf tp gp s := rfl
theorem exec_drain (rp : BitVec 3) (scp : BitVec 3) (sc : BitVec 1) (df : BitVec 3) (s : State) : exec (.drain rp scp sc df) s = execDrain rp scp sc df s := rfl
theorem exec_adv (pd : BitVec 3) (sp : BitVec 3) (ps : BitVec 1) (stride : BitVec 32) (s : State) : exec (.adv pd sp ps stride) s = execAdv pd sp ps stride s := rfl
theorem exec_mxLoop (cp : BitVec 3) (s : State) : exec (.mxLoop cp) s = execMxLoop cp s := rfl
theorem exec_endl (s : State) : exec (.endl) s = execEndl s := rfl
theorem exec_waith (h : BitVec 6) (s : State) : exec (.waith h) s = execWaith h s := rfl
theorem exec_mxEnd (s : State) : exec (.mxEnd) s = execMxEnd s := rfl
theorem exec_callStart (core : Nat) (s : State) : exec (.callStart core) s = execCallStart core s := rfl
theorem exec_statusPost (core : Nat) (h : Nat) (s : State) : exec (.statusPost core h) s = execStatusPost core h s := rfl
theorem exec_landing (core : Nat) (s : State) : exec (.landing core) s = execLanding core s := rfl
theorem exec_resultArrive (core : Nat) (idx : Nat) (s : State) : exec (.resultArrive core idx) s = execResultArrive core idx s := rfl
theorem exec_trapEntry (core : Nat) (s : State) : exec (.trapEntry core) s = execTrapEntry core s := rfl
theorem exec_userLevelInterrupt (core : Nat) (s : State) : exec (.userLevelInterrupt core) s = execUserLevelInterrupt core s := rfl
theorem exec_walkComplete (kind : Nat) (agent : Nat) (ten : Nat) (va : W64) (s : State) : exec (.walkComplete kind agent ten va) s = execWalkComplete kind agent ten va s := rfl
theorem exec_sbDrain (core : Nat) (idx : Nat) (s : State) : exec (.sbDrain core idx) s = execSbDrain core idx s := rfl
theorem exec_send (die : Nat) (idx : Nat) (s : State) : exec (.send die idx) s = execSend die idx s := rfl
theorem exec_hop (link : Nat) (up : Bool) (s : State) : exec (.hop link up) s = execHop link up s := rfl
theorem exec_apply (port : Nat) (gen : Hm) (s : State) : exec (.apply port gen) s = execApply port gen s := rfl
theorem exec_serve (core : Nat) (idx : Nat) (src : Nat) (s : State) : exec (.serve core idx src) s = execServe core idx src s := rfl
theorem exec_fill (core : Nat) (va : W64) (s : State) : exec (.fill core va) s = execFill core va s := rfl
theorem exec_evict (core : Nat) (line : Nat) (s : State) : exec (.evict core line) s = execEvict core line s := rfl
theorem exec_waitaReread (core : Nat) (s : State) : exec (.waitaReread core) s = execWaitaReread core s := rfl
theorem exec_copyLineTransfer (core : Nat) (op : Nat) (idx : Nat) (s : State) : exec (.copyLineTransfer core op idx) s = execCopyLineTransfer core op idx s := rfl
theorem exec_remotePost (core : Nat) (op : Nat) (s : State) : exec (.remotePost core op) s = execRemotePost core op s := rfl
theorem exec_preloadStart (core : Nat) (i' : Nat) (s : State) : exec (.preloadStart core i') s = execPreloadStart core i' s := rfl
theorem exec_taskStart (core : Nat) (s : State) : exec (.taskStart core) s = execTaskStart core s := rfl
theorem exec_brickReady (die : Nat) (idx : Nat) (s : State) : exec (.brickReady die idx) s = execBrickReady die idx s := rfl
theorem exec_brickResume (core : Nat) (s : State) : exec (.brickResume core) s = execBrickResume core s := rfl
theorem exec_taskComplete (core : Nat) (s : State) : exec (.taskComplete core) s = execTaskComplete core s := rfl
theorem exec_chunkMark (die : Nat) (slot : Nat) (s : State) : exec (.chunkMark die slot) s = execChunkMark die slot s := rfl
theorem exec_chunkClaim (core : Nat) (s : State) : exec (.chunkClaim core) s = execChunkClaim core s := rfl
theorem exec_launchComplete (die : Nat) (slot : Nat) (s : State) : exec (.launchComplete die slot) s = execLaunchComplete die slot s := rfl
theorem exec_quorumDecision (launch : Nat) (s : State) : exec (.quorumDecision launch) s = execQuorumDecision launch s := rfl
theorem exec_reconfiguration (launch : Nat) (s : State) : exec (.reconfiguration launch) s = execReconfiguration launch s := rfl
theorem exec_tailRead (die : Nat) (queue : Nat) (s : State) : exec (.tailRead die queue) s = execTailRead die queue s := rfl
theorem exec_launch (mask : Byte) (lrec : W64) (s : State) : exec (.launch mask lrec) s = execLaunch mask lrec s := rfl
theorem exec_launchi (mask : Byte) (lrec : W64) (inda : W64) (s : State) : exec (.launchi mask lrec inda) s = execLaunchi mask lrec inda s := rfl
theorem exec_loopPacket (ind : BitVec 1) (count : W64) (s : State) : exec (.loopPacket ind count) s = execLoopPacket ind count s := rfl
theorem exec_endloop (s : State) : exec (.endloop) s = execEndloop s := rfl
theorem exec_ifeq (addr : W64) (value : W64) (mask : W64) (s : State) : exec (.ifeq addr value mask) s = execIfeq addr value mask s := rfl
theorem exec_ifne (addr : W64) (value : W64) (mask : W64) (s : State) : exec (.ifne addr value mask) s = execIfne addr value mask s := rfl
theorem exec_endif (s : State) : exec (.endif) s = execEndif s := rfl
theorem exec_waitmem (op : BitVec 2) (addr : W64) (value : W64) (mask : W64) (s : State) : exec (.waitmem op addr value mask) s = execWaitmem op addr value mask s := rfl
theorem exec_writemem (sz8 : BitVec 1) (scope : BitVec 2) (addr : W64) (value : W64) (s : State) : exec (.writemem sz8 scope addr value) s = execWritemem sz8 scope addr value s := rfl
theorem exec_signal (vector : BitVec 16) (addr : W64) (value : W64) (s : State) : exec (.signal vector addr value) s = execSignal vector addr value s := rfl
theorem exec_fencePacket (scope : BitVec 2) (s : State) : exec (.fencePacket scope) s = execFencePacket scope s := rfl
theorem exec_handover (cpl : BitVec 1) (sig : BitVec 1) (stack : Byte) (core : Byte) (handle : Byte) (saddr : W64) (sval : W64) (s : State) : exec (.handover cpl sig stack core handle saddr sval) s = execHandover cpl sig stack core handle saddr sval s := rfl
theorem exec_calls (len : BitVec 32) (addr : W64) (s : State) : exec (.calls len addr) s = execCalls len addr s := rfl
theorem exec_rets (s : State) : exec (.rets) s = execRets s := rfl
theorem exec_tenendPacket (close : BitVec 1) (ten : BitVec 12) (eraddr : W64) (s : State) : exec (.tenendPacket close ten eraddr) s = execTenendPacket close ten eraddr s := rfl
theorem exec_handoverSwitch (stack : Nat) (s : State) : exec (.handoverSwitch stack) s = execHandoverSwitch stack s := rfl
theorem exec_ownerMirrorUpdate (die : Nat) (stack : Nat) (s : State) : exec (.ownerMirrorUpdate die stack) s = execOwnerMirrorUpdate die stack s := rfl
theorem exec_tenendSwitch (ten : Nat) (die : Nat) (s : State) : exec (.tenendSwitch ten die) s = execTenendSwitch ten die s := rfl
theorem exec_tenendRecord (ten : Nat) (s : State) : exec (.tenendRecord ten) s = execTenendRecord ten s := rfl
theorem exec_generationGrant (s : State) : exec (.generationGrant) s = execGenerationGrant s := rfl
theorem exec_assayRewrite (kind : Nat) (agent : Nat) (ten : Nat) (index : Nat) (s : State) : exec (.assayRewrite kind agent ten index) s = execAssayRewrite kind agent ten index s := rfl
theorem exec_assayPassComplete (s : State) : exec (.assayPassComplete) s = execAssayPassComplete s := rfl
theorem exec_softRequest (core : Nat) (s : State) : exec (.softRequest core) s = execSoftRequest core s := rfl
theorem exec_hardRequest (core : Nat) (s : State) : exec (.hardRequest core) s = execHardRequest core s := rfl
theorem exec_killRequest (core : Nat) (s : State) : exec (.killRequest core) s = execKillRequest core s := rfl
theorem exec_graceExpiry (core : Nat) (s : State) : exec (.graceExpiry core) s = execGraceExpiry core s := rfl
theorem exec_contextSave (core : Nat) (s : State) : exec (.contextSave core) s = execContextSave core s := rfl
theorem exec_killExpiry (core : Nat) (s : State) : exec (.killExpiry core) s = execKillExpiry core s := rfl
theorem exec_contextRestore (core : Nat) (s : State) : exec (.contextRestore core) s = execContextRestore core s := rfl
theorem exec_functionLevelReset (core : Nat) (s : State) : exec (.functionLevelReset core) s = execFunctionLevelReset core s := rfl
theorem exec_flrDrainEnd (core : Nat) (s : State) : exec (.flrDrainEnd core) s = execFlrDrainEnd core s := rfl
theorem exec_cpReset (die : Nat) (s : State) : exec (.cpReset die) s = execCpReset die s := rfl
theorem exec_ioFunctionRelease (fn : Nat) (s : State) : exec (.ioFunctionRelease fn) s = execIoFunctionRelease fn s := rfl
theorem exec_throttleLevelChange (die : Nat) (quadrant : Nat) (level : Nat) (s : State) : exec (.throttleLevelChange die quadrant level) s = execThrottleLevelChange die quadrant level s := rfl
theorem exec_slotTableWrite (die : Nat) (idx : Nat) (entry : BitVec 16) (s : State) : exec (.slotTableWrite die idx entry) s = execSlotTableWrite die idx entry s := rfl
theorem exec_slotTableTakeEffect (die : Nat) (s : State) : exec (.slotTableTakeEffect die) s = execSlotTableTakeEffect die s := rfl
theorem exec_queueDescriptorWrite (die : Nat) (queue : Nat) (desc : BitVec 512) (s : State) : exec (.queueDescriptorWrite die queue desc) s = execQueueDescriptorWrite die queue desc s := rfl
theorem exec_translationRecordWrite (die : Nat) (ten : Nat) (remove : Bool) (rec_ : BitVec 512) (s : State) : exec (.translationRecordWrite die ten remove rec_) s = execTranslationRecordWrite die ten remove rec_ s := rfl
theorem exec_ownerRightWrite (stack : Nat) (rv : Bool) (rten : BitVec 12) (s : State) : exec (.ownerRightWrite stack rv rten) s = execOwnerRightWrite stack rv rten s := rfl
theorem exec_cacheSlicesChange (stack : Nat) (n : Nat) (s : State) : exec (.cacheSlicesChange stack n) s = execCacheSlicesChange stack n s := rfl
theorem exec_tenancyOpen (ten : Nat) (s : State) : exec (.tenancyOpen ten) s = execTenancyOpen ten s := rfl
theorem exec_flowRegister (flow : Nat) (entry : W64) (key : BitVec 256) (s : State) : exec (.flowRegister flow entry key) s = execFlowRegister flow entry key s := rfl
theorem exec_hdmMapWrite (map : Nat) (g : Nat) (entry : W64) (s : State) : exec (.hdmMapWrite map g entry) s = execHdmMapWrite map g entry s := rfl
theorem exec_invalidationRequest (die : Nat) (kind : Nat) (ten : Nat) (a : W64) (id : Nat) (s : State) : exec (.invalidationRequest die kind ten a id) s = execInvalidationRequest die kind ten a id s := rfl
theorem exec_invalidationComplete (die : Nat) (id : Nat) (s : State) : exec (.invalidationComplete die id) s = execInvalidationComplete die id s := rfl
theorem exec_linkEnable (link : Nat) (s : State) : exec (.linkEnable link) s = execLinkEnable link s := rfl
theorem exec_platformRegisterWrite (reg : PlatformReg) (v : W64) (s : State) : exec (.platformRegisterWrite reg v) s = execPlatformRegisterWrite reg v s := rfl
theorem exec_flitTransmit (link : Nat) (up : Bool) (cls : BitVec 2) (vc : BitVec 2) (plen : Byte) (crq : Byte) (crs : Byte) (bad : Bool) (s : State) : exec (.flitTransmit link up cls vc plen crq crs bad) s = execFlitTransmit link up cls vc plen crq crs bad s := rfl
theorem exec_flitReceive (link : Nat) (up : Bool) (s : State) : exec (.flitReceive link up) s = execFlitReceive link up s := rfl
theorem exec_nakReplay (link : Nat) (up : Bool) (s : State) : exec (.nakReplay link up) s = execNakReplay link up s := rfl
theorem exec_retrain (link : Nat) (s : State) : exec (.retrain link) s = execRetrain link s := rfl
theorem exec_retrainComplete (link : Nat) (width : Nat) (s : State) : exec (.retrainComplete link width) s = execRetrainComplete link width s := rfl
theorem exec_linkDown (link : Nat) (s : State) : exec (.linkDown link) s = execLinkDown link s := rfl
theorem exec_downNotice (link : Nat) (up : Bool) (s : State) : exec (.downNotice link up) s = execDownNotice link up s := rfl
theorem exec_commandFrame (port : Nat) (udp : Nat) (flow : BitVec 16) (npkt : BitVec 16) (zero : BitVec 32) (fseq : W64) (pkts : List (BitVec 256)) (tag : BitVec 128) (s : State) : exec (.commandFrame port udp flow npkt zero fseq pkts tag) s = execCommandFrame port udp flow npkt zero fseq pkts tag s := rfl
theorem exec_hostRequest (g : Nat) (off : Nat) (size : Nat) (write : Bool) (data : BitVec 512) (s : State) : exec (.hostRequest g off size write data) s = execHostRequest g off size write data s := rfl
theorem exec_empinRequest (link : Nat) (g : Nat) (off : Nat) (size : Nat) (write : Bool) (data : BitVec 512) (s : State) : exec (.empinRequest link g off size write data) s = execEmpinRequest link g off size write data s := rfl
theorem exec_moduleReset (record : List Byte) (s : State) : exec (.moduleReset record) s = execModuleReset record s := rfl
theorem exec_dieRelease (image : List Byte) (sig : List Byte) (applied : Bool) (s : State) : exec (.dieRelease image sig applied) s = execDieRelease image sig applied s := rfl
theorem exec_getVersion (s : State) : exec (.getVersion) s = execGetVersion s := rfl
theorem exec_getCapabilities (s : State) : exec (.getCapabilities) s = execGetCapabilities s := rfl
theorem exec_negotiateAlgorithms (s : State) : exec (.negotiateAlgorithms) s = execNegotiateAlgorithms s := rfl
theorem exec_getDigests (s : State) : exec (.getDigests) s = execGetDigests s := rfl
theorem exec_getCertificate (off : Nat) (len : Nat) (s : State) : exec (.getCertificate off len) s = execGetCertificate off len s := rfl
theorem exec_challenge (transcript : List Byte) (s : State) : exec (.challenge transcript) s = execChallenge transcript s := rfl
theorem exec_getMeasurements (index : Nat) (s : State) : exec (.getMeasurements index) s = execGetMeasurements index s := rfl
theorem exec_unsupportedRequest (s : State) : exec (.unsupportedRequest) s = execUnsupportedRequest s := rfl
theorem exec_applicationCoreAccess (pa : W64) (size : Nat) (req : AppReq) (data : W64) (s : State) : exec (.applicationCoreAccess pa size req data) s = execApplicationCoreAccess pa size req data s := rfl
theorem exec_linkMirrorUpdate (die : Nat) (link : Nat) (s : State) : exec (.linkMirrorUpdate die link) s = execLinkMirrorUpdate die link s := rfl
theorem exec_waitmemReread (die : Nat) (queue : Nat) (s : State) : exec (.waitmemReread die queue) s = execWaitmemReread die queue s := rfl
theorem exec_tlbReplacement (kind : Nat) (agent : Nat) (idx : Nat) (s : State) : exec (.tlbReplacement kind agent idx) s = execTlbReplacement kind agent idx s := rfl
theorem exec_reservedMicroOp (s : State) : exec (.reservedMicroOp) s = execReservedMicroOp s := rfl
theorem exec_followerLaunch (die : Nat) (slot : Nat) (s : State) : exec (.followerLaunch die slot) s = execFollowerLaunch die slot s := rfl

end Sys2Proof.Machine
end

