-- ==== Sys2Proof/Laws/Families.lean ====
section
/-! SUPPORT. For each shared operation of the instruction families, the next state it answers where it executes. -/
namespace Sys2Proof.Machine

variable {s : State} {p : BitVec 3}

theorem aluOp_executes {lat : Nat} {f : W64 → W64 → W64} {d a b : BitVec 6}
    (h : s.Executes p [s.rA a, s.rB b] (some (s.rD d)) false) :
    aluOp lat f p d a b s = .next (s.putScalar lat (s.rD d) (f (s.reg (s.rA a)) (s.reg (s.rB b)))) :=
  slotMeaning_executes h rfl

theorem aluOp1_executes {f : W64 → W64} {d a : BitVec 6} (h : s.Executes p [s.rA a] (some (s.rD d)) false) :
    aluOp1 f p d a s = .next (s.putScalar 1 (s.rD d) (f (s.reg (s.rA a)))) :=
  slotMeaning_executes h rfl

theorem divOp_executes {f : W64 → W64 → W64} {d a b : BitVec 6}
    (h : s.Executes p [s.rA a, s.rB b] (some (s.rD d)) false) (hb : s.reg (s.rB b) ≠ 0) :
    divOp f p d a b s = .next (s.putScalar 12 (s.rD d) (f (s.reg (s.rA a)) (s.reg (s.rB b)))) :=
  slotMeaning_executes h (by
    have hb' : s.reg (s.rB b) ≠ 0#64 := hb
    simp [trapIf, hb'])

theorem divOp_traps {f : W64 → W64 → W64} {d a b : BitVec 6} (hg : s.guard p = true) (hm : s.cur.mode = .whole)
    (ho : s.operandVerdict [s.rA a, s.rB b] (some (s.rD d)) false = .go) (hb : s.reg (s.rB b) = 0) :
    divOp f p d a b s = .next (s.takeTrap ⟨2, 1, s.cur.slot, 0, 0, 0⟩) :=
  slotMeaning_trap hg hm ho (by simp [trapIf, trapV, hb])

theorem predOp_executes {f : Bool → Bool → Bool} {d a b : BitVec 3} (h : s.Executes p [] none false) :
    predOp f p d a b s = .next (s.putPred (s.pD d) (f (s.prd (s.pA a)) (s.prd (s.pB b)))) :=
  slotMeaning_executes h rfl

theorem vecOp_executes {lat : Nat} {reads : List Nat} {src : State → List Nat} {dst : State → Nat}
    {f : State → Image × Flags} (h : s.Executes p reads none false) (hv : s.vecVerdict (src s) [dst s] = .go) :
    vecOp lat p reads src dst f s = .next (s.putVec lat (dst s) allUnits (f s).1 (f s).2) :=
  slotMeaning_executes h hv

theorem vecRound_executes {lat : Nat} {src : State → List Nat} {dst : State → Nat} {m : State → W32}
    {f : State → Image × Flags} (h : s.Executes p [] none false) (hv : s.vecVerdict (src s) [dst s] = .go) :
    vecRound lat p src dst m f s = .next (s.putVec lat (dst s) (m s) (f s).1 (f s).2).noteStoch :=
  slotMeaning_executes h hv

theorem vloadOp_executes {v : BitVec 7} {a : BitVec 6} {o : BitVec 8} (h : s.Executes p [s.rA a] none false)
    (hl : s.spmVerdict (s.vmemLine a o) false = .go) (hv : s.vecVerdict [] [s.vD v] = .go) :
    vloadOp p v a o s = .next (s.putVec 4 (s.vD v) allUnits ((Sparse.get {} (s.vmemLine a o) s.k.spm).read s.gen) 0#6) :=
  slotMeaning_executes h (by simp [hl, hv, Verdict.also])

theorem vstoreOp_executes {v : BitVec 7} {a : BitVec 6} {o : BitVec 8} (h : s.Executes p [s.rA a] none false)
    (hl : s.spmVerdict (s.vmemLine a o) true = .go) (hv : s.vecVerdict [s.vD v] [] = .go) :
    vstoreOp p v a o s = .next (s.updK (fun k =>
      { k with nextVc := k.nextVc ++ [.line (s.vmemLine a o) (s.vec (s.vD v)) s.gen] })) :=
  slotMeaning_executes h (by simp [hl, hv, Verdict.also])

theorem loadOp_executes {strong acq : Bool} {scope : Nat} {d a : BitVec 6} {o : BitVec 5} {z : BitVec 2}
    (h : s.Executes p [s.rA a] (some (s.rD d)) true)
    (hv : s.accessVerdict (s.globalAddr a o (2 ^ z.toNat)) (2 ^ z.toNat) .read = .go) :
    loadOp strong acq scope p d a o z s = .next ((s.putAcc
      { id := 0, kind := .load, tgt := s.targetNow (s.globalAddr a o (2 ^ z.toNat)) (2 ^ z.toNat) .read,
        va := s.globalAddr a o (2 ^ z.toNat), size := 2 ^ z.toNat, strong := strong, acq := acq, scope := scope,
        pid := s.k.nextId }).awaitReg (s.rD d) true) := by
  unfold loadOp
  dsimp only
  rw [slotMeaning_executes h (by exact hv)]

theorem storeOp_executes {strong rel : Bool} {scope : Nat} {d a : BitVec 6} {o : BitVec 5} {z : BitVec 2}
    (h : s.Executes p [s.rA a, s.rD d] none false)
    (hv : s.accessVerdict (s.globalAddr a o (2 ^ z.toNat)) (2 ^ z.toNat) .write = .go) :
    storeOp strong rel scope p d a o z s = .next (((s.putAcc
      { id := 0, kind := .store, tgt := s.targetNow (s.globalAddr a o (2 ^ z.toNat)) (2 ^ z.toNat) .write,
        va := s.globalAddr a o (2 ^ z.toNat), size := 2 ^ z.toNat, data := s.reg (s.rD d), strong := strong, rel := rel,
        scope := scope, counted := true }).updK (fun k => { (k.l0Store
          (s.targetNow (s.globalAddr a o (2 ^ z.toNat)) (2 ^ z.toNat) .write) (2 ^ z.toNat) s.nextWid (s.reg (s.rD d)))
          with nst := k.nst + 1 })).settle s.cur.core) := by
  unfold storeOp
  dsimp only
  rw [slotMeaning_executes h (by exact hv)]

theorem atomicOp_executes {op : Nat} {d a b : BitVec 6} {c : BitVec 2}
    (h : s.Executes p (if op = 7 then [s.rA a, s.rB b, s.rD d] else [s.rA a, s.rB b]) (some (s.rD d)) true)
    (hv : s.accessVerdict (s.reg (s.rA a)) 8 .both = .go) :
    atomicOp op p d a b c s = .next ((s.putAcc
      { id := 0, kind := .amo op, tgt := s.targetNow (s.reg (s.rA a)) 8 .both, va := s.reg (s.rA a), size := 8,
        data := s.reg (s.rB b), cmp := s.reg (s.rD d), strong := true, acq := true, rel := true, scope := c.toNat,
        pid := s.k.nextId }).awaitReg (s.rD d) true) := by
  unfold atomicOp
  dsimp only
  rw [slotMeaning_executes h (by exact hv)]

theorem fenceOp_executes {all : Bool} {c : BitVec 2} (h : s.Executes p [] none false) :
    fenceOp all p c s
      = .next ((s.putAcc { id := 0, kind := .fence all, tgt := { ord := 1 }, scope := c.toNat }).settle s.cur.core) := by
  unfold fenceOp
  rw [slotMeaning_executes h rfl]

/-- Everything a packet can do, said once: its effect, or nothing while its queue must wait. -/
theorem packetMeaning_cases {ordered : Bool} {f : State → Nat → Nat → Queue → State} {t : State}
    (h : packetMeaning ordered f s = .next t) :
    t = s ∨ t = f s s.cur.die s.cur.queue (s.queue s.cur.die s.cur.queue) := by
  unfold packetMeaning at h
  dsimp only at h
  split at h
  · exact .inl (Host.Outcome.next.inj h).symm
  · exact .inr (Host.Outcome.next.inj h).symm

/-- Everything a micro-op can do, said once: its effect on the head call, or nothing where none runs. -/
theorem microMeaning_cases {f : State → Call → State} {t : State} (h : microMeaning f s = .next t) :
    t = s ∨ ∃ c l, s.k.calls = c :: l ∧ c.started = true ∧ t = f s c := by
  unfold microMeaning at h
  split at h
  · next c l hc =>
    split at h
    · next hb => exact .inr ⟨c, l, hc, hb, (Host.Outcome.next.inj h).symm⟩
    · exact .inl (Host.Outcome.next.inj h).symm
  · exact .inl (Host.Outcome.next.inj h).symm

/-- A micro-op of a started call acts. -/
theorem microMeaning_runs {f : State → Call → State} {c : Call} {l : List Call} (hc : s.k.calls = c :: l)
    (hs : c.started = true) : microMeaning f s = .next (f s c) := by
  unfold microMeaning
  rw [hc]
  simp [hs, ok]

end Sys2Proof.Machine
end

