-- ==== Sys2Proof/Laws/Flits.lean ====
section
/-! SUPPORT. Flits (R411): the CRC that a flit should bear does not depend on the one it bears, so a sealed flit arrives intact
and a damaged one does not. -/
namespace Sys2Proof.Machine

/-- R411: the CRC covers bytes 4-255, so not the CRC itself. -/
theorem Flit.crcOf_crc (f : Flit) (c : BitVec 32) : Flit.crcOf { f with crc := c } = f.crcOf := by
  have e : (Flit.word { f with crc := c }).toNat / 2 ^ 32 = f.word.toNat / 2 ^ 32 := by
    apply Nat.eq_of_testBit_eq
    intro i
    have h : ∀ g : Flit, (g.word.toNat / 2 ^ 32).testBit i = g.word.getLsbD (32 + i) := by
      intro g; rw [Nat.testBit_div_two_pow, BitVec.testBit_toNat, Nat.add_comm]
    rw [h, h]
    simp only [Flit.word, BitVec.getLsbD_append, show ¬ 32 + i < 32 by omega, if_false]
  unfold Flit.crcOf
  rw [e]
/-- R413: a flit as it was sent is intact. -/
theorem Flit.sealed_intact (f : Flit) : (f.sealed false).intact = true := by simp [Flit.intact, Flit.sealed, Flit.crcOf_crc]
/-- R413: one that was damaged on its way is not. -/
theorem Flit.sealed_damaged (f : Flit) : (f.sealed true).intact = false := by simp [Flit.intact, Flit.sealed, Flit.crcOf_crc]

end Sys2Proof.Machine
end

