-- ==== Sys2Proof/Laws/Lanes.lean ====
section
/-! SUPPORT. Packed lanes: what each lane of a packed image holds, the flags it gathers, and what the vector families
queue in those terms. -/
namespace Sys2Proof.Machine

variable {w n j : Nat} {f : Nat → Nat × Flags} {t : BitVec 2} {s : State} {p : BitVec 3}

theorem packLanes_lt (w : Nat) (f : Nat → Nat × Flags) (n : Nat) : (packLanes w f n).1 < 2 ^ (w * n) := by
  induction n with
  | zero => simp [packLanes]
  | succ n ih =>
    have h : (f n).1 % 2 ^ w < 2 ^ w := Nat.mod_lt _ (by positivity)
    rw [packLanes, Nat.mul_succ, Nat.pow_add]
    dsimp only
    calc _ < 2 ^ (w * n) + (f n).1 % 2 ^ w * 2 ^ (w * n) := by omega
      _ = ((f n).1 % 2 ^ w + 1) * 2 ^ (w * n) := by ring
      _ ≤ 2 ^ w * 2 ^ (w * n) := Nat.mul_le_mul_right _ h
      _ = _ := by ring

/-- Lane j of packed lanes. -/
theorem packLanes_lane (h : j < n) : (packLanes w f n).1 / 2 ^ (w * j) % 2 ^ w = (f j).1 % 2 ^ w := by
  induction n with
  | zero => omega
  | succ n ih =>
    rw [packLanes]
    dsimp only
    rcases Nat.lt_succ_iff_lt_or_eq.mp h with hj | rfl
    · rw [← ih hj]
      obtain ⟨k, rfl⟩ := Nat.exists_eq_add_of_lt hj
      have e : 2 ^ (w * (j + k + 1)) = 2 ^ (w * j) * (2 ^ w * 2 ^ (w * k)) := by
        rw [← Nat.pow_add, ← Nat.pow_add]; congr 1; ring
      rw [e, show ∀ a b c d : Nat, a + b * (c * (d * 2 ^ (w * k))) = a + c * (d * (b * 2 ^ (w * k))) by intros; ring,
        Nat.add_mul_div_left _ _ (by positivity), Nat.add_mul_mod_self_left]
    · have hl := packLanes_lt w f j
      rw [Nat.add_mul_div_right _ _ (by positivity), Nat.div_eq_of_lt hl, Nat.zero_add, Nat.mod_mod]

/-- The flags of packed lanes. -/
theorem packLanes_flags (w : Nat) (f : Nat → Nat × Flags) (n : Nat) : (packLanes w f n).2 = lanesFlags f n := by
  induction n with
  | zero => rfl
  | succ n ih =>
    rw [packLanes, lanesFlags, List.range_succ, List.foldl_append]
    dsimp only [List.foldl]
    rw [ih]
    rfl

/-- Packed lanes that fit in an image hold what was packed. -/
theorem packLanes_holds (h : w * n ≤ 1024) : HoldsLanes (BitVec.ofNat 1024 (packLanes w f n).1) w n f := by
  intro j hj
  have hl : (packLanes w f n).1 < 2 ^ 1024 := (packLanes_lt w f n).trans_le (Nat.pow_le_pow_right Nat.two_pos h)
  rw [laneNat, BitVec.toNat_ofNat, Nat.mod_eq_of_lt hl, packLanes_lane hj]

theorem lanes_fit (t : BitVec 2) : typeWidth t * lanesOf t = 1024 := by revert t; decide

theorem typeLanes_holds (t : BitVec 2) (f : Nat → Nat × Flags) :
    HoldsLanes (typeLanes t f).1 (typeWidth t) (lanesOf t) f := packLanes_holds (lanes_fit t).le

theorem typeLanes_flags (t : BitVec 2) (f : Nat → Nat × Flags) : (typeLanes t f).2 = lanesFlags f (lanesOf t) :=
  packLanes_flags ..

theorem HoldsLanes.congr {img : Image} {f g : Nat → Nat × Flags} (h : HoldsLanes img w n f)
    (e : ∀ j < n, (f j).1 % 2 ^ w = (g j).1 % 2 ^ w) : HoldsLanes img w n g :=
  fun j hj => (h j hj).trans (e j hj)

theorem lanesFlags_congr {f g : Nat → Nat × Flags} (e : ∀ j < n, (f j).2 = (g j).2) :
    lanesFlags f n = lanesFlags g n := by
  induction n with
  | zero => rfl
  | succ n ih =>
    have h := ih (fun j hj => e j (by omega))
    simp only [lanesFlags, List.range_succ, List.foldl_append, List.foldl] at h ⊢
    rw [h, e n (by omega)]

/-- A vector slot that executes queues the lanes it computes. -/
theorem vecOp_lanes {i : Instr} {lat : Nat} {reads : List Nat} {src : State → List Nat} {dst : State → Nat}
    {g : State → Nat → Nat × Flags} (hi : exec i s = vecOp lat p reads src dst (fun s => typeLanes t (g s)) s)
    (h : s.Clear p reads none false (s.vecVerdict (src s) [dst s])) :
    s.QueuesLanes i lat (dst s) t (g s) :=
  ⟨_, by rw [hi, vecOp_executes h.1 h.2, typeLanes_flags], typeLanes_holds t _⟩

/-- A vector slot that rounds, likewise. -/
theorem vecRound_lanes {i : Instr} {lat : Nat} {src : State → List Nat} {dst : State → Nat}
    {g : State → Nat → Nat × Flags}
    (hi : exec i s = vecRound lat p src dst (fun _ => allUnits) (fun s => typeLanes t (g s)) s)
    (h : s.Clear p [] none false (s.vecVerdict (src s) [dst s])) :
    s.RoundsLanes i lat (dst s) t (g s) :=
  ⟨_, by rw [hi, vecRound_executes h.1 h.2, typeLanes_flags], typeLanes_holds t _⟩

/-- What lanes are said to hold may be said otherwise. -/
theorem State.QueuesLanes.congr {i : Instr} {lat d : Nat} {f g : Nat → Nat × Flags} (h : s.QueuesLanes i lat d t f)
    (e : ∀ j < lanesOf t, (f j).1 % 2 ^ typeWidth t = (g j).1 % 2 ^ typeWidth t ∧ (f j).2 = (g j).2) :
    s.QueuesLanes i lat d t g := by
  obtain ⟨img, hx, hl⟩ := h
  exact ⟨img, by rw [hx, lanesFlags_congr fun j hj => (e j hj).2], hl.congr fun j hj => (e j hj).1⟩

theorem State.RoundsLanes.congr {i : Instr} {lat d : Nat} {f g : Nat → Nat × Flags} (h : s.RoundsLanes i lat d t f)
    (e : ∀ j < lanesOf t, (f j).1 % 2 ^ typeWidth t = (g j).1 % 2 ^ typeWidth t ∧ (f j).2 = (g j).2) :
    s.RoundsLanes i lat d t g := by
  obtain ⟨img, hx, hl⟩ := h
  exact ⟨img, by rw [hx, lanesFlags_congr fun j hj => (e j hj).2], hl.congr fun j hj => (e j hj).1⟩

end Sys2Proof.Machine
end

