-- ==== Sys2Proof/Laws/Objects.lean ====
section
/-! SUPPORT. What a write of a handle, a barrier or a register of a core changes, said once. -/
namespace Sys2Proof.Machine

variable (k : Core) (g : Hm) (h m : Nat) (x : Handle)

/-- A handle that enters FULL or ERROR changes at most the status file and the mark of the call that fills it. -/
theorem Core.noteStatus_cases : ∃ cs st, k.noteStatus g h = { k with calls := cs, status := st } := by
  unfold Core.noteStatus
  split
  · exact ⟨_, _, rfl⟩
  · exact ⟨_, _, rfl⟩

/-- A write of a handle replaces its record; where the handle enters FULL or ERROR, its interrupt may be raised and the status
word of its call noted. -/
theorem Core.setHandle_cases : ∃ a u cs st, k.setHandle g h x = { k with
    handles := Sparse.put {} h { x with hm := g } k.handles, armed := a, uiPend := u, calls := cs, status := st } := by
  unfold Core.setHandle
  dsimp only
  split
  · exact ⟨_, _, _, _, rfl⟩
  · split
    · obtain ⟨cs, st, e⟩ := Core.noteStatus_cases { k with
        handles := Sparse.put {} h { x with hm := g } k.handles
        armed := k.armed &&& ~~~(1#64 <<< h), uiPend := k.uiPend ||| (1#64 <<< h) } g h
      exact ⟨_, _, cs, st, e⟩
    · obtain ⟨cs, st, e⟩ := Core.noteStatus_cases { k with handles := Sparse.put {} h { x with hm := g } k.handles } g h
      exact ⟨_, _, cs, st, e⟩

theorem Core.handles_setHandle : (k.setHandle g h x).handles = Sparse.put {} h { x with hm := g } k.handles := by
  obtain ⟨_, _, _, _, e⟩ := k.setHandle_cases g h x; rw [e]

theorem Core.sregs_setHandle : (k.setHandle g h x).sregs = k.sregs := by
  obtain ⟨_, _, _, _, e⟩ := k.setHandle_cases g h x; rw [e]

theorem Core.regions_setHandle : (k.setHandle g h x).regions = k.regions := by
  obtain ⟨_, _, _, _, e⟩ := k.setHandle_cases g h x; rw [e]

theorem Core.ten_setHandle : (k.setHandle g h x).ten = k.ten := by
  obtain ⟨_, _, _, _, e⟩ := k.setHandle_cases g h x; rw [e]

theorem Core.lvl_setHandle : (k.setHandle g h x).lvl = k.lvl := by
  obtain ⟨_, _, _, _, e⟩ := k.setHandle_cases g h x; rw [e]

/-- A handle written reads back; every other handle reads as before. -/
theorem Core.handle_setHandle : (k.setHandle g h x).handle g m = if m = h then { x with hm := g } else k.handle g m := by
  unfold Core.handle
  rw [k.handles_setHandle]
  by_cases hm : m = h
  · subst hm
    rw [Sparse.get_put_same]
    simp
  · rw [Sparse.get_put_other hm, if_neg hm]

/-- A barrier changed reads back as changed, marked for the evaluation at the end of the local cycle where ARRV, WANT or GOT
changed; every other barrier reads as before. -/
theorem Core.barrier_updBarrier (n : Nat) (f : Barrier → Barrier) :
    (k.updBarrier n f).barrier m = if m = n then
        { f (k.barrier n) with moved := (k.barrier n).moved || !((f (k.barrier n)).arrv = (k.barrier n).arrv
          && (f (k.barrier n)).want = (k.barrier n).want && (f (k.barrier n)).got = (k.barrier n).got) }
      else k.barrier m := by
  unfold Core.barrier Core.updBarrier
  by_cases hm : m = n
  · subst hm
    rw [Sparse.get_upd_same, if_pos rfl]
  · rw [Sparse.get_upd_other hm, if_neg hm]

/-- A scalar register written reads back under the generation it was written with, in its bank; every other register of
the main bank reads as before. -/
theorem Core.scalar_setScalar_same (v : W64) (hn : h ≠ 0) :
    (k.setScalar g (k.inShadow h 56) h v).scalar g h = v := by
  unfold Core.setScalar Core.scalar Core.cell Core.inShadow
  rw [if_neg hn, if_neg hn]
  by_cases hu : (k.ui && decide (56 ≤ h)) = true
  · simp only [hu, if_true, Sparse.get_put_same]
  · simp only [hu, Bool.false_eq_true, if_false, Sparse.get_put_same, if_true]

theorem Core.scalar_setScalar_other (b : Bool) (v : W64) (hm : m ≠ h) :
    (k.setScalar g b h v).scalar g m = k.scalar g m := by
  unfold Core.setScalar Core.scalar Core.cell
  by_cases hn : h = 0
  · simp [hn]
  · rw [if_neg hn]
    by_cases hb : b = true
    · simp only [hb, if_true, Sparse.get_put_other hm]
    · simp only [hb, Bool.false_eq_true, if_false, Sparse.get_put_other hm]

end Sys2Proof.Machine
end

