-- ==== Sys2Proof/Laws/PerInstr.lean ====
section
/-! SUPPORT. Laws by instruction: where the fields that every slot operation has stand in its word (R20). -/

namespace Sys2Proof.Laws.WordFields

/-- The word of a slot operation has 32 bits, its MAJOR in bits 31:26 and its guard in bits 25:23 (R20). -/
def Statement (i : Instr) : Prop :=
  i.major < 64 → encodeNat i < 2 ^ 32 ∧ encodeNat i / 2 ^ 26 = i.major ∧ encodeNat i / 2 ^ 23 % 8 = i.guard.toNat


/-- A sum of a MAJOR, a guard and less than the rest of a word has them in their places. -/
theorem fields {n m g r : Nat} (h : n = m * 67108864 + g * 8388608 + r) (hm : m < 64) (hg : g < 8) (hr : r < 8388608) :
    n < 2 ^ 32 ∧ n / 2 ^ 26 = m ∧ n / 2 ^ 23 % 8 = g := by omega

theorem part0 : (Statement .nop)
    ∧ (∀ p d a b, Statement (.add p d a b))
    ∧ (∀ p d a b, Statement (.sub p d a b))
    ∧ (∀ p d a b, Statement (.and p d a b))
    ∧ (∀ p d a b, Statement (.or p d a b))
    ∧ (∀ p d a b, Statement (.xor p d a b))
    ∧ (∀ p d a b, Statement (.andn p d a b))
    ∧ (∀ p d a b, Statement (.orn p d a b))
    ∧ (∀ p d a b, Statement (.shl p d a b))
    ∧ (∀ p d a b, Statement (.shr p d a b))
    ∧ (∀ p d a b, Statement (.sar p d a b))
    ∧ (∀ p d a b, Statement (.min p d a b))
    ∧ (∀ p d a b, Statement (.max p d a b))
    ∧ (∀ p d a b, Statement (.minu p d a b)) :=
  ⟨fun _ => ⟨by decide, by decide, by decide⟩,
    fun p d a b => fun _ => fields (n := 0x04000000 + p.toNat * 8388608 + d.toNat * 131072 + a.toNat * 2048 + b.toNat * 32) (m := 1) (g := p.toNat) (r := 0 + d.toNat * 131072 + a.toNat * 2048 + b.toNat * 32) (by omega) (by decide) p.isLt (by omega),
    fun p d a b => fun _ => fields (n := 0x04000001 + p.toNat * 8388608 + d.toNat * 131072 + a.toNat * 2048 + b.toNat * 32) (m := 1) (g := p.toNat) (r := 1 + d.toNat * 131072 + a.toNat * 2048 + b.toNat * 32) (by omega) (by decide) p.isLt (by omega),
    fun p d a b => fun _ => fields (n := 0x04000002 + p.toNat * 8388608 + d.toNat * 131072 + a.toNat * 2048 + b.toNat * 32) (m := 1) (g := p.toNat) (r := 2 + d.toNat * 131072 + a.toNat * 2048 + b.toNat * 32) (by omega) (by decide) p.isLt (by omega),
    fun p d a b => fun _ => fields (n := 0x04000003 + p.toNat * 8388608 + d.toNat * 131072 + a.toNat * 2048 + b.toNat * 32) (m := 1) (g := p.toNat) (r := 3 + d.toNat * 131072 + a.toNat * 2048 + b.toNat * 32) (by omega) (by decide) p.isLt (by omega),
    fun p d a b => fun _ => fields (n := 0x04000004 + p.toNat * 8388608 + d.toNat * 131072 + a.toNat * 2048 + b.toNat * 32) (m := 1) (g := p.toNat) (r := 4 + d.toNat * 131072 + a.toNat * 2048 + b.toNat * 32) (by omega) (by decide) p.isLt (by omega),
    fun p d a b => fun _ => fields (n := 0x04000005 + p.toNat * 8388608 + d.toNat * 131072 + a.toNat * 2048 + b.toNat * 32) (m := 1) (g := p.toNat) (r := 5 + d.toNat * 131072 + a.toNat * 2048 + b.toNat * 32) (by omega) (by decide) p.isLt (by omega),
    fun p d a b => fun _ => fields (n := 0x04000006 + p.toNat * 8388608 + d.toNat * 131072 + a.toNat * 2048 + b.toNat * 32) (m := 1) (g := p.toNat) (r := 6 + d.toNat * 131072 + a.toNat * 2048 + b.toNat * 32) (by omega) (by decide) p.isLt (by omega),
    fun p d a b => fun _ => fields (n := 0x04000007 + p.toNat * 8388608 + d.toNat * 131072 + a.toNat * 2048 + b.toNat * 32) (m := 1) (g := p.toNat) (r := 7 + d.toNat * 131072 + a.toNat * 2048 + b.toNat * 32) (by omega) (by decide) p.isLt (by omega),
    fun p d a b => fun _ => fields (n := 0x04000008 + p.toNat * 8388608 + d.toNat * 131072 + a.toNat * 2048 + b.toNat * 32) (m := 1) (g := p.toNat) (r := 8 + d.toNat * 131072 + a.toNat * 2048 + b.toNat * 32) (by omega) (by decide) p.isLt (by omega),
    fun p d a b => fun _ => fields (n := 0x04000009 + p.toNat * 8388608 + d.toNat * 131072 + a.toNat * 2048 + b.toNat * 32) (m := 1) (g := p.toNat) (r := 9 + d.toNat * 131072 + a.toNat * 2048 + b.toNat * 32) (by omega) (by decide) p.isLt (by omega),
    fun p d a b => fun _ => fields (n := 0x0400000A + p.toNat * 8388608 + d.toNat * 131072 + a.toNat * 2048 + b.toNat * 32) (m := 1) (g := p.toNat) (r := 10 + d.toNat * 131072 + a.toNat * 2048 + b.toNat * 32) (by omega) (by decide) p.isLt (by omega),
    fun p d a b => fun _ => fields (n := 0x0400000B + p.toNat * 8388608 + d.toNat * 131072 + a.toNat * 2048 + b.toNat * 32) (m := 1) (g := p.toNat) (r := 11 + d.toNat * 131072 + a.toNat * 2048 + b.toNat * 32) (by omega) (by decide) p.isLt (by omega),
    fun p d a b => fun _ => fields (n := 0x0400000C + p.toNat * 8388608 + d.toNat * 131072 + a.toNat * 2048 + b.toNat * 32) (m := 1) (g := p.toNat) (r := 12 + d.toNat * 131072 + a.toNat * 2048 + b.toNat * 32) (by omega) (by decide) p.isLt (by omega)⟩
theorem part1 : (∀ p d a b, Statement (.maxu p d a b))
    ∧ (∀ p d a, Statement (.clz p d a))
    ∧ (∀ p d a, Statement (.popc p d a))
    ∧ (∀ p d a b, Statement (.bfx p d a b))
    ∧ (∀ p d a b, Statement (.bfi p d a b))
    ∧ (∀ p a b, Statement (.cmpt p a b))
    ∧ (∀ p d a b, Statement (.mul p d a b))
    ∧ (∀ p d a b, Statement (.mulh p d a b))
    ∧ (∀ p d a b, Statement (.mulhu p d a b))
    ∧ (∀ p d a b, Statement (.div p d a b))
    ∧ (∀ p d a b, Statement (.divu p d a b))
    ∧ (∀ p d a b, Statement (.rem p d a b))
    ∧ (∀ p d a b, Statement (.remu p d a b))
    ∧ (∀ p d a b c, Statement (.cmp p d a b c)) :=
  ⟨fun p d a b => fun _ => fields (n := 0x0400000D + p.toNat * 8388608 + d.toNat * 131072 + a.toNat * 2048 + b.toNat * 32) (m := 1) (g := p.toNat) (r := 13 + d.toNat * 131072 + a.toNat * 2048 + b.toNat * 32) (by omega) (by decide) p.isLt (by omega),
    fun p d a => fun _ => fields (n := 0x0400000E + p.toNat * 8388608 + d.toNat * 131072 + a.toNat * 2048) (m := 1) (g := p.toNat) (r := 14 + d.toNat * 131072 + a.toNat * 2048) (by omega) (by decide) p.isLt (by omega),
    fun p d a => fun _ => fields (n := 0x0400000F + p.toNat * 8388608 + d.toNat * 131072 + a.toNat * 2048) (m := 1) (g := p.toNat) (r := 15 + d.toNat * 131072 + a.toNat * 2048) (by omega) (by decide) p.isLt (by omega),
    fun p d a b => fun _ => fields (n := 0x04000010 + p.toNat * 8388608 + d.toNat * 131072 + a.toNat * 2048 + b.toNat * 32) (m := 1) (g := p.toNat) (r := 16 + d.toNat * 131072 + a.toNat * 2048 + b.toNat * 32) (by omega) (by decide) p.isLt (by omega),
    fun p d a b => fun _ => fields (n := 0x04000011 + p.toNat * 8388608 + d.toNat * 131072 + a.toNat * 2048 + b.toNat * 32) (m := 1) (g := p.toNat) (r := 17 + d.toNat * 131072 + a.toNat * 2048 + b.toNat * 32) (by omega) (by decide) p.isLt (by omega),
    fun p a b => fun _ => fields (n := 0x04000012 + p.toNat * 8388608 + a.toNat * 2048 + b.toNat * 32) (m := 1) (g := p.toNat) (r := 18 + a.toNat * 2048 + b.toNat * 32) (by omega) (by decide) p.isLt (by omega),
    fun p d a b => fun _ => fields (n := 0x08000000 + p.toNat * 8388608 + d.toNat * 131072 + a.toNat * 2048 + b.toNat * 32) (m := 2) (g := p.toNat) (r := 0 + d.toNat * 131072 + a.toNat * 2048 + b.toNat * 32) (by omega) (by decide) p.isLt (by omega),
    fun p d a b => fun _ => fields (n := 0x08000001 + p.toNat * 8388608 + d.toNat * 131072 + a.toNat * 2048 + b.toNat * 32) (m := 2) (g := p.toNat) (r := 1 + d.toNat * 131072 + a.toNat * 2048 + b.toNat * 32) (by omega) (by decide) p.isLt (by omega),
    fun p d a b => fun _ => fields (n := 0x08000002 + p.toNat * 8388608 + d.toNat * 131072 + a.toNat * 2048 + b.toNat * 32) (m := 2) (g := p.toNat) (r := 2 + d.toNat * 131072 + a.toNat * 2048 + b.toNat * 32) (by omega) (by decide) p.isLt (by omega),
    fun p d a b => fun _ => fields (n := 0x08000003 + p.toNat * 8388608 + d.toNat * 131072 + a.toNat * 2048 + b.toNat * 32) (m := 2) (g := p.toNat) (r := 3 + d.toNat * 131072 + a.toNat * 2048 + b.toNat * 32) (by omega) (by decide) p.isLt (by omega),
    fun p d a b => fun _ => fields (n := 0x08000004 + p.toNat * 8388608 + d.toNat * 131072 + a.toNat * 2048 + b.toNat * 32) (m := 2) (g := p.toNat) (r := 4 + d.toNat * 131072 + a.toNat * 2048 + b.toNat * 32) (by omega) (by decide) p.isLt (by omega),
    fun p d a b => fun _ => fields (n := 0x08000005 + p.toNat * 8388608 + d.toNat * 131072 + a.toNat * 2048 + b.toNat * 32) (m := 2) (g := p.toNat) (r := 5 + d.toNat * 131072 + a.toNat * 2048 + b.toNat * 32) (by omega) (by decide) p.isLt (by omega),
    fun p d a b => fun _ => fields (n := 0x08000006 + p.toNat * 8388608 + d.toNat * 131072 + a.toNat * 2048 + b.toNat * 32) (m := 2) (g := p.toNat) (r := 6 + d.toNat * 131072 + a.toNat * 2048 + b.toNat * 32) (by omega) (by decide) p.isLt (by omega),
    fun p d a b c => fun _ => fields (n := 0x0C000000 + p.toNat * 8388608 + d.toNat * 131072 + a.toNat * 2048 + b.toNat * 32 + c.toNat) (m := 3) (g := p.toNat) (r := 0 + d.toNat * 131072 + a.toNat * 2048 + b.toNat * 32 + c.toNat) (by omega) (by decide) p.isLt (by omega)⟩
theorem part2 : (∀ p d a b n, Statement (.sel p d a b n))
    ∧ (∀ p d a b, Statement (.pand p d a b))
    ∧ (∀ p d a b, Statement (.por p d a b))
    ∧ (∀ p d a b, Statement (.pxor p d a b))
    ∧ (∀ p d, Statement (.pget p d))
    ∧ (∀ p d a, Statement (.pset p d a))
    ∧ (∀ p d a i, Statement (.addi p d a i))
    ∧ (∀ p d a i, Statement (.andi p d a i))
    ∧ (∀ p d a i, Statement (.ori p d a i))
    ∧ (∀ p d a i, Statement (.xori p d a i))
    ∧ (∀ p d a n, Statement (.shli p d a n))
    ∧ (∀ p d a n, Statement (.shri p d a n))
    ∧ (∀ p d a n, Statement (.sari p d a n))
    ∧ (∀ p c d a i, Statement (.cmpi p c d a i)) :=
  ⟨fun p d a b n => fun _ => fields (n := 0x10000000 + p.toNat * 8388608 + d.toNat * 131072 + a.toNat * 2048 + b.toNat * 32 + n.toNat) (m := 4) (g := p.toNat) (r := 0 + d.toNat * 131072 + a.toNat * 2048 + b.toNat * 32 + n.toNat) (by omega) (by decide) p.isLt (by omega),
    fun p d a b => fun _ => fields (n := 0x14000000 + p.toNat * 8388608 + d.toNat * 131072 + a.toNat * 2048 + b.toNat * 32) (m := 5) (g := p.toNat) (r := 0 + d.toNat * 131072 + a.toNat * 2048 + b.toNat * 32) (by omega) (by decide) p.isLt (by omega),
    fun p d a b => fun _ => fields (n := 0x14000001 + p.toNat * 8388608 + d.toNat * 131072 + a.toNat * 2048 + b.toNat * 32) (m := 5) (g := p.toNat) (r := 1 + d.toNat * 131072 + a.toNat * 2048 + b.toNat * 32) (by omega) (by decide) p.isLt (by omega),
    fun p d a b => fun _ => fields (n := 0x14000002 + p.toNat * 8388608 + d.toNat * 131072 + a.toNat * 2048 + b.toNat * 32) (m := 5) (g := p.toNat) (r := 2 + d.toNat * 131072 + a.toNat * 2048 + b.toNat * 32) (by omega) (by decide) p.isLt (by omega),
    fun p d => fun _ => fields (n := 0x14000003 + p.toNat * 8388608 + d.toNat * 131072) (m := 5) (g := p.toNat) (r := 3 + d.toNat * 131072) (by omega) (by decide) p.isLt (by omega),
    fun p d a => fun _ => fields (n := 0x14000004 + p.toNat * 8388608 + d.toNat * 131072 + a.toNat * 2048) (m := 5) (g := p.toNat) (r := 4 + d.toNat * 131072 + a.toNat * 2048) (by omega) (by decide) p.isLt (by omega),
    fun p d a i => fun _ => fields (n := 0x18000000 + p.toNat * 8388608 + d.toNat * 131072 + a.toNat * 2048 + i.toNat) (m := 6) (g := p.toNat) (r := 0 + d.toNat * 131072 + a.toNat * 2048 + i.toNat) (by omega) (by decide) p.isLt (by omega),
    fun p d a i => fun _ => fields (n := 0x1C000000 + p.toNat * 8388608 + d.toNat * 131072 + a.toNat * 2048 + i.toNat) (m := 7) (g := p.toNat) (r := 0 + d.toNat * 131072 + a.toNat * 2048 + i.toNat) (by omega) (by decide) p.isLt (by omega),
    fun p d a i => fun _ => fields (n := 0x20000000 + p.toNat * 8388608 + d.toNat * 131072 + a.toNat * 2048 + i.toNat) (m := 8) (g := p.toNat) (r := 0 + d.toNat * 131072 + a.toNat * 2048 + i.toNat) (by omega) (by decide) p.isLt (by omega),
    fun p d a i => fun _ => fields (n := 0x24000000 + p.toNat * 8388608 + d.toNat * 131072 + a.toNat * 2048 + i.toNat) (m := 9) (g := p.toNat) (r := 0 + d.toNat * 131072 + a.toNat * 2048 + i.toNat) (by omega) (by decide) p.isLt (by omega),
    fun p d a n => fun _ => fields (n := 0x28000000 + p.toNat * 8388608 + d.toNat * 131072 + a.toNat * 2048 + n.toNat) (m := 10) (g := p.toNat) (r := 0 + d.toNat * 131072 + a.toNat * 2048 + n.toNat) (by omega) (by decide) p.isLt (by omega),
    fun p d a n => fun _ => fields (n := 0x28000040 + p.toNat * 8388608 + d.toNat * 131072 + a.toNat * 2048 + n.toNat) (m := 10) (g := p.toNat) (r := 64 + d.toNat * 131072 + a.toNat * 2048 + n.toNat) (by omega) (by decide) p.isLt (by omega),
    fun p d a n => fun _ => fields (n := 0x28000080 + p.toNat * 8388608 + d.toNat * 131072 + a.toNat * 2048 + n.toNat) (m := 10) (g := p.toNat) (r := 128 + d.toNat * 131072 + a.toNat * 2048 + n.toNat) (by omega) (by decide) p.isLt (by omega),
    fun p c d a i => fun _ => fields (n := 0x2C000000 + p.toNat * 8388608 + c.toNat * 1048576 + d.toNat * 131072 + a.toNat * 2048 + i.toNat) (m := 11) (g := p.toNat) (r := 0 + c.toNat * 1048576 + d.toNat * 131072 + a.toNat * 2048 + i.toNat) (by omega) (by decide) p.isLt (by omega)⟩
theorem part3 : (∀ p c d a i, Statement (.cmpiu p c d a i))
    ∧ (∀ p d i, Statement (.movi p d i))
    ∧ (∀ p d i, Statement (.movhi p d i))
    ∧ (∀ p d c, Statement (.csrr p d c))
    ∧ (∀ p a c, Statement (.csrw p a c))
    ∧ (∀ p o, Statement (.br p o))
    ∧ (∀ p o, Statement (.brl p o))
    ∧ (∀ p l o, Statement (.loop p l o))
    ∧ (∀ p l k o, Statement (.loopr p l k o))
    ∧ (∀ p a, Statement (.jr p a))
    ∧ (∀ p d a, Statement (.jrl p d a))
    ∧ (∀ p c, Statement (.trap p c))
    ∧ (∀ p, Statement (.eret p))
    ∧ (∀ p, Statement (.uiret p)) :=
  ⟨fun p c d a i => fun _ => fields (n := 0x30000000 + p.toNat * 8388608 + c.toNat * 1048576 + d.toNat * 131072 + a.toNat * 2048 + i.toNat) (m := 12) (g := p.toNat) (r := 0 + c.toNat * 1048576 + d.toNat * 131072 + a.toNat * 2048 + i.toNat) (by omega) (by decide) p.isLt (by omega),
    fun p d i => fun _ => fields (n := 0x34000000 + p.toNat * 8388608 + d.toNat * 131072 + i.toNat) (m := 13) (g := p.toNat) (r := 0 + d.toNat * 131072 + i.toNat) (by omega) (by decide) p.isLt (by omega),
    fun p d i => fun _ => fields (n := 0x38000000 + p.toNat * 8388608 + d.toNat * 131072 + i.toNat) (m := 14) (g := p.toNat) (r := 0 + d.toNat * 131072 + i.toNat) (by omega) (by decide) p.isLt (by omega),
    fun p d c => fun _ => fields (n := 0x3C000000 + p.toNat * 8388608 + d.toNat * 131072 + c.toNat) (m := 15) (g := p.toNat) (r := 0 + d.toNat * 131072 + c.toNat) (by omega) (by decide) p.isLt (by omega),
    fun p a c => fun _ => fields (n := 0x40000000 + p.toNat * 8388608 + a.toNat * 2048 + c.toNat) (m := 16) (g := p.toNat) (r := 0 + a.toNat * 2048 + c.toNat) (by omega) (by decide) p.isLt (by omega),
    fun p o => fun _ => fields (n := 0x44000000 + p.toNat * 8388608 + o.toNat) (m := 17) (g := p.toNat) (r := 0 + o.toNat) (by omega) (by decide) p.isLt (by omega),
    fun p o => fun _ => fields (n := 0x48000000 + p.toNat * 8388608 + o.toNat) (m := 18) (g := p.toNat) (r := 0 + o.toNat) (by omega) (by decide) p.isLt (by omega),
    fun p l o => fun _ => fields (n := 0x4C000000 + p.toNat * 8388608 + l.toNat * 2097152 + o.toNat) (m := 19) (g := p.toNat) (r := 0 + l.toNat * 2097152 + o.toNat) (by omega) (by decide) p.isLt (by omega),
    fun p l k o => fun _ => fields (n := 0x50000000 + p.toNat * 8388608 + l.toNat * 2097152 + k.toNat * 65536 + o.toNat) (m := 20) (g := p.toNat) (r := 0 + l.toNat * 2097152 + k.toNat * 65536 + o.toNat) (by omega) (by decide) p.isLt (by omega),
    fun p a => fun _ => fields (n := 0x54000000 + p.toNat * 8388608 + a.toNat * 2048) (m := 21) (g := p.toNat) (r := 0 + a.toNat * 2048) (by omega) (by decide) p.isLt (by omega),
    fun p d a => fun _ => fields (n := 0x54000001 + p.toNat * 8388608 + d.toNat * 131072 + a.toNat * 2048) (m := 21) (g := p.toNat) (r := 1 + d.toNat * 131072 + a.toNat * 2048) (by omega) (by decide) p.isLt (by omega),
    fun p c => fun _ => fields (n := 0x54000002 + p.toNat * 8388608 + c.toNat * 32) (m := 21) (g := p.toNat) (r := 2 + c.toNat * 32) (by omega) (by decide) p.isLt (by omega),
    fun p => fun _ => fields (n := 0x54000003 + p.toNat * 8388608) (m := 21) (g := p.toNat) (r := 3) (by omega) (by decide) p.isLt (by omega),
    fun p => fun _ => fields (n := 0x54000004 + p.toNat * 8388608) (m := 21) (g := p.toNat) (r := 4) (by omega) (by decide) p.isLt (by omega)⟩
theorem part4 : (∀ p l s c t, Statement (.wait p l s c t))
    ∧ (∀ p d a b t, Statement (.vadd p d a b t))
    ∧ (∀ p d a b t, Statement (.vsub p d a b t))
    ∧ (∀ p d a b t, Statement (.vmul p d a b t))
    ∧ (∀ p d a b t, Statement (.vfma p d a b t))
    ∧ (∀ p d a b t, Statement (.vfms p d a b t))
    ∧ (∀ p d a b t, Statement (.vmax p d a b t))
    ∧ (∀ p d a b t, Statement (.vmin p d a b t))
    ∧ (∀ p d a b, Statement (.vand p d a b))
    ∧ (∀ p d a b, Statement (.vor p d a b))
    ∧ (∀ p d a b, Statement (.vxor p d a b))
    ∧ (∀ p d a b, Statement (.vshl p d a b))
    ∧ (∀ p d a b, Statement (.vshr p d a b))
    ∧ (∀ p d a b, Statement (.vsar p d a b)) :=
  ⟨fun p l s c t => fun _ => fields (n := 0x58000000 + p.toNat * 8388608 + l.toNat * 32768 + s.toNat * 1024 + c.toNat * 32 + t.toNat) (m := 22) (g := p.toNat) (r := 0 + l.toNat * 32768 + s.toNat * 1024 + c.toNat * 32 + t.toNat) (by omega) (by decide) p.isLt (by omega),
    fun p d a b t => fun _ => fields (n := 0x60000000 + p.toNat * 8388608 + d.toNat * 65536 + a.toNat * 512 + b.toNat * 4 + t.toNat) (m := 24) (g := p.toNat) (r := 0 + d.toNat * 65536 + a.toNat * 512 + b.toNat * 4 + t.toNat) (by omega) (by decide) p.isLt (by omega),
    fun p d a b t => fun _ => fields (n := 0x64000000 + p.toNat * 8388608 + d.toNat * 65536 + a.toNat * 512 + b.toNat * 4 + t.toNat) (m := 25) (g := p.toNat) (r := 0 + d.toNat * 65536 + a.toNat * 512 + b.toNat * 4 + t.toNat) (by omega) (by decide) p.isLt (by omega),
    fun p d a b t => fun _ => fields (n := 0x68000000 + p.toNat * 8388608 + d.toNat * 65536 + a.toNat * 512 + b.toNat * 4 + t.toNat) (m := 26) (g := p.toNat) (r := 0 + d.toNat * 65536 + a.toNat * 512 + b.toNat * 4 + t.toNat) (by omega) (by decide) p.isLt (by omega),
    fun p d a b t => fun _ => fields (n := 0x6C000000 + p.toNat * 8388608 + d.toNat * 65536 + a.toNat * 512 + b.toNat * 4 + t.toNat) (m := 27) (g := p.toNat) (r := 0 + d.toNat * 65536 + a.toNat * 512 + b.toNat * 4 + t.toNat) (by omega) (by decide) p.isLt (by omega),
    fun p d a b t => fun _ => fields (n := 0x70000000 + p.toNat * 8388608 + d.toNat * 65536 + a.toNat * 512 + b.toNat * 4 + t.toNat) (m := 28) (g := p.toNat) (r := 0 + d.toNat * 65536 + a.toNat * 512 + b.toNat * 4 + t.toNat) (by omega) (by decide) p.isLt (by omega),
    fun p d a b t => fun _ => fields (n := 0x74000000 + p.toNat * 8388608 + d.toNat * 65536 + a.toNat * 512 + b.toNat * 4 + t.toNat) (m := 29) (g := p.toNat) (r := 0 + d.toNat * 65536 + a.toNat * 512 + b.toNat * 4 + t.toNat) (by omega) (by decide) p.isLt (by omega),
    fun p d a b t => fun _ => fields (n := 0x78000000 + p.toNat * 8388608 + d.toNat * 65536 + a.toNat * 512 + b.toNat * 4 + t.toNat) (m := 30) (g := p.toNat) (r := 0 + d.toNat * 65536 + a.toNat * 512 + b.toNat * 4 + t.toNat) (by omega) (by decide) p.isLt (by omega),
    fun p d a b => fun _ => fields (n := 0x7C000000 + p.toNat * 8388608 + d.toNat * 65536 + a.toNat * 512 + b.toNat * 4) (m := 31) (g := p.toNat) (r := 0 + d.toNat * 65536 + a.toNat * 512 + b.toNat * 4) (by omega) (by decide) p.isLt (by omega),
    fun p d a b => fun _ => fields (n := 0x7C000001 + p.toNat * 8388608 + d.toNat * 65536 + a.toNat * 512 + b.toNat * 4) (m := 31) (g := p.toNat) (r := 1 + d.toNat * 65536 + a.toNat * 512 + b.toNat * 4) (by omega) (by decide) p.isLt (by omega),
    fun p d a b => fun _ => fields (n := 0x7C000002 + p.toNat * 8388608 + d.toNat * 65536 + a.toNat * 512 + b.toNat * 4) (m := 31) (g := p.toNat) (r := 2 + d.toNat * 65536 + a.toNat * 512 + b.toNat * 4) (by omega) (by decide) p.isLt (by omega),
    fun p d a b => fun _ => fields (n := 0x80000000 + p.toNat * 8388608 + d.toNat * 65536 + a.toNat * 512 + b.toNat * 4) (m := 32) (g := p.toNat) (r := 0 + d.toNat * 65536 + a.toNat * 512 + b.toNat * 4) (by omega) (by decide) p.isLt (by omega),
    fun p d a b => fun _ => fields (n := 0x80000001 + p.toNat * 8388608 + d.toNat * 65536 + a.toNat * 512 + b.toNat * 4) (m := 32) (g := p.toNat) (r := 1 + d.toNat * 65536 + a.toNat * 512 + b.toNat * 4) (by omega) (by decide) p.isLt (by omega),
    fun p d a b => fun _ => fields (n := 0x80000002 + p.toNat * 8388608 + d.toNat * 65536 + a.toNat * 512 + b.toNat * 4) (m := 32) (g := p.toNat) (r := 2 + d.toNat * 65536 + a.toNat * 512 + b.toNat * 4) (by omega) (by decide) p.isLt (by omega)⟩
theorem part5 : (∀ p c d a b t, Statement (.vcmp p c d a b t))
    ∧ (∀ p d a b t, Statement (.vsel p d a b t))
    ∧ (∀ p d a b t, Statement (.vshf p d a b t))
    ∧ (∀ p d a n t, Statement (.vrotl p d a n t))
    ∧ (∀ p d a t, Statement (.vmov p d a t))
    ∧ (∀ p d a t, Statement (.vabs p d a t))
    ∧ (∀ p d a t, Statement (.vneg p d a t))
    ∧ (∀ p d t, Statement (.viota p d t))
    ∧ (∀ p d, Statement (.vclr p d))
    ∧ (∀ p d s t, Statement (.vbc p d s t))
    ∧ (∀ p v d l t, Statement (.vxt p v d l t))
    ∧ (∀ p v s l t, Statement (.vins p v s l t))
    ∧ (∀ p d a t, Statement (.vredSum p d a t))
    ∧ (∀ p d a t, Statement (.vredMax p d a t)) :=
  ⟨fun p c d a b t => fun _ => fields (n := 0x84000000 + p.toNat * 8388608 + c.toNat * 2097152 + d.toNat * 65536 + a.toNat * 512 + b.toNat * 4 + t.toNat) (m := 33) (g := p.toNat) (r := 0 + c.toNat * 2097152 + d.toNat * 65536 + a.toNat * 512 + b.toNat * 4 + t.toNat) (by omega) (by decide) p.isLt (by omega),
    fun p d a b t => fun _ => fields (n := 0x88000000 + p.toNat * 8388608 + d.toNat * 65536 + a.toNat * 512 + b.toNat * 4 + t.toNat) (m := 34) (g := p.toNat) (r := 0 + d.toNat * 65536 + a.toNat * 512 + b.toNat * 4 + t.toNat) (by omega) (by decide) p.isLt (by omega),
    fun p d a b t => fun _ => fields (n := 0x8C000000 + p.toNat * 8388608 + d.toNat * 65536 + a.toNat * 512 + b.toNat * 4 + t.toNat) (m := 35) (g := p.toNat) (r := 0 + d.toNat * 65536 + a.toNat * 512 + b.toNat * 4 + t.toNat) (by omega) (by decide) p.isLt (by omega),
    fun p d a n t => fun _ => fields (n := 0x90000000 + p.toNat * 8388608 + d.toNat * 65536 + a.toNat * 512 + n.toNat * 4 + t.toNat) (m := 36) (g := p.toNat) (r := 0 + d.toNat * 65536 + a.toNat * 512 + n.toNat * 4 + t.toNat) (by omega) (by decide) p.isLt (by omega),
    fun p d a t => fun _ => fields (n := 0x94000000 + p.toNat * 8388608 + d.toNat * 65536 + a.toNat * 512 + t.toNat) (m := 37) (g := p.toNat) (r := 0 + d.toNat * 65536 + a.toNat * 512 + t.toNat) (by omega) (by decide) p.isLt (by omega),
    fun p d a t => fun _ => fields (n := 0x94000004 + p.toNat * 8388608 + d.toNat * 65536 + a.toNat * 512 + t.toNat) (m := 37) (g := p.toNat) (r := 4 + d.toNat * 65536 + a.toNat * 512 + t.toNat) (by omega) (by decide) p.isLt (by omega),
    fun p d a t => fun _ => fields (n := 0x94000008 + p.toNat * 8388608 + d.toNat * 65536 + a.toNat * 512 + t.toNat) (m := 37) (g := p.toNat) (r := 8 + d.toNat * 65536 + a.toNat * 512 + t.toNat) (by omega) (by decide) p.isLt (by omega),
    fun p d t => fun _ => fields (n := 0x9400000C + p.toNat * 8388608 + d.toNat * 65536 + t.toNat) (m := 37) (g := p.toNat) (r := 12 + d.toNat * 65536 + t.toNat) (by omega) (by decide) p.isLt (by omega),
    fun p d => fun _ => fields (n := 0x94000010 + p.toNat * 8388608 + d.toNat * 65536) (m := 37) (g := p.toNat) (r := 16 + d.toNat * 65536) (by omega) (by decide) p.isLt (by omega),
    fun p d s t => fun _ => fields (n := 0x98000000 + p.toNat * 8388608 + d.toNat * 65536 + s.toNat * 1024 + t.toNat) (m := 38) (g := p.toNat) (r := 0 + d.toNat * 65536 + s.toNat * 1024 + t.toNat) (by omega) (by decide) p.isLt (by omega),
    fun p v d l t => fun _ => fields (n := 0x98000100 + p.toNat * 8388608 + v.toNat * 65536 + d.toNat * 1024 + l.toNat * 4 + t.toNat) (m := 38) (g := p.toNat) (r := 256 + v.toNat * 65536 + d.toNat * 1024 + l.toNat * 4 + t.toNat) (by omega) (by decide) p.isLt (by omega),
    fun p v s l t => fun _ => fields (n := 0x98000200 + p.toNat * 8388608 + v.toNat * 65536 + s.toNat * 1024 + l.toNat * 4 + t.toNat) (m := 38) (g := p.toNat) (r := 512 + v.toNat * 65536 + s.toNat * 1024 + l.toNat * 4 + t.toNat) (by omega) (by decide) p.isLt (by omega),
    fun p d a t => fun _ => fields (n := 0x9C000000 + p.toNat * 8388608 + d.toNat * 65536 + a.toNat * 512 + t.toNat) (m := 39) (g := p.toNat) (r := 0 + d.toNat * 65536 + a.toNat * 512 + t.toNat) (by omega) (by decide) p.isLt (by omega),
    fun p d a t => fun _ => fields (n := 0x9C000004 + p.toNat * 8388608 + d.toNat * 65536 + a.toNat * 512 + t.toNat) (m := 39) (g := p.toNat) (r := 4 + d.toNat * 65536 + a.toNat * 512 + t.toNat) (by omega) (by decide) p.isLt (by omega)⟩
theorem part6 : (∀ p d a t, Statement (.vredMin p d a t))
    ∧ (∀ p d a e t, Statement (.vcvt p d a e t))
    ∧ (∀ p a b t, Statement (.cmptv p a b t))
    ∧ (∀ p d a t, Statement (.vexp2 p d a t))
    ∧ (∀ p d a t, Statement (.vlog2 p d a t))
    ∧ (∀ p d a t, Statement (.vrcp p d a t))
    ∧ (∀ p d a t, Statement (.vrsq p d a t))
    ∧ (∀ p d a t, Statement (.vsin p d a t))
    ∧ (∀ p d a t, Statement (.vtanh p d a t))
    ∧ (∀ p d a f k t, Statement (.vunpk p d a f k t))
    ∧ (∀ p d a f k t, Statement (.vpack p d a f k t))
    ∧ (∀ p d a b t, Statement (.vbscl p d a b t))
    ∧ (∀ p v a o, Statement (.vld p v a o))
    ∧ (∀ p v a o, Statement (.vst p v a o)) :=
  ⟨fun p d a t => fun _ => fields (n := 0x9C000008 + p.toNat * 8388608 + d.toNat * 65536 + a.toNat * 512 + t.toNat) (m := 39) (g := p.toNat) (r := 8 + d.toNat * 65536 + a.toNat * 512 + t.toNat) (by omega) (by decide) p.isLt (by omega),
    fun p d a e t => fun _ => fields (n := 0xA0000000 + p.toNat * 8388608 + d.toNat * 65536 + a.toNat * 512 + e.toNat * 4 + t.toNat) (m := 40) (g := p.toNat) (r := 0 + d.toNat * 65536 + a.toNat * 512 + e.toNat * 4 + t.toNat) (by omega) (by decide) p.isLt (by omega),
    fun p a b t => fun _ => fields (n := 0xA4000000 + p.toNat * 8388608 + a.toNat * 512 + b.toNat * 4 + t.toNat) (m := 41) (g := p.toNat) (r := 0 + a.toNat * 512 + b.toNat * 4 + t.toNat) (by omega) (by decide) p.isLt (by omega),
    fun p d a t => fun _ => fields (n := 0xA8000000 + p.toNat * 8388608 + d.toNat * 65536 + a.toNat * 512 + t.toNat) (m := 42) (g := p.toNat) (r := 0 + d.toNat * 65536 + a.toNat * 512 + t.toNat) (by omega) (by decide) p.isLt (by omega),
    fun p d a t => fun _ => fields (n := 0xA8000004 + p.toNat * 8388608 + d.toNat * 65536 + a.toNat * 512 + t.toNat) (m := 42) (g := p.toNat) (r := 4 + d.toNat * 65536 + a.toNat * 512 + t.toNat) (by omega) (by decide) p.isLt (by omega),
    fun p d a t => fun _ => fields (n := 0xA8000008 + p.toNat * 8388608 + d.toNat * 65536 + a.toNat * 512 + t.toNat) (m := 42) (g := p.toNat) (r := 8 + d.toNat * 65536 + a.toNat * 512 + t.toNat) (by omega) (by decide) p.isLt (by omega),
    fun p d a t => fun _ => fields (n := 0xA800000C + p.toNat * 8388608 + d.toNat * 65536 + a.toNat * 512 + t.toNat) (m := 42) (g := p.toNat) (r := 12 + d.toNat * 65536 + a.toNat * 512 + t.toNat) (by omega) (by decide) p.isLt (by omega),
    fun p d a t => fun _ => fields (n := 0xA8000010 + p.toNat * 8388608 + d.toNat * 65536 + a.toNat * 512 + t.toNat) (m := 42) (g := p.toNat) (r := 16 + d.toNat * 65536 + a.toNat * 512 + t.toNat) (by omega) (by decide) p.isLt (by omega),
    fun p d a t => fun _ => fields (n := 0xA8000014 + p.toNat * 8388608 + d.toNat * 65536 + a.toNat * 512 + t.toNat) (m := 42) (g := p.toNat) (r := 20 + d.toNat * 65536 + a.toNat * 512 + t.toNat) (by omega) (by decide) p.isLt (by omega),
    fun p d a f k t => fun _ => fields (n := 0xAC000000 + p.toNat * 8388608 + d.toNat * 65536 + a.toNat * 512 + f.toNat * 32 + k.toNat * 4 + t.toNat) (m := 43) (g := p.toNat) (r := 0 + d.toNat * 65536 + a.toNat * 512 + f.toNat * 32 + k.toNat * 4 + t.toNat) (by omega) (by decide) p.isLt (by omega),
    fun p d a f k t => fun _ => fields (n := 0xB0000000 + p.toNat * 8388608 + d.toNat * 65536 + a.toNat * 512 + f.toNat * 32 + k.toNat * 4 + t.toNat) (m := 44) (g := p.toNat) (r := 0 + d.toNat * 65536 + a.toNat * 512 + f.toNat * 32 + k.toNat * 4 + t.toNat) (by omega) (by decide) p.isLt (by omega),
    fun p d a b t => fun _ => fields (n := 0xB4000000 + p.toNat * 8388608 + d.toNat * 65536 + a.toNat * 512 + b.toNat * 4 + t.toNat) (m := 45) (g := p.toNat) (r := 0 + d.toNat * 65536 + a.toNat * 512 + b.toNat * 4 + t.toNat) (by omega) (by decide) p.isLt (by omega),
    fun p v a o => fun _ => fields (n := 0xB8000000 + p.toNat * 8388608 + v.toNat * 65536 + a.toNat * 1024 + o.toNat) (m := 46) (g := p.toNat) (r := 0 + v.toNat * 65536 + a.toNat * 1024 + o.toNat) (by omega) (by decide) p.isLt (by omega),
    fun p v a o => fun _ => fields (n := 0xB8000100 + p.toNat * 8388608 + v.toNat * 65536 + a.toNat * 1024 + o.toNat) (m := 46) (g := p.toNat) (r := 256 + v.toNat * 65536 + a.toNat * 1024 + o.toNat) (by omega) (by decide) p.isLt (by omega)⟩
theorem part7 : (∀ p v a o, Statement (.vlds p v a o))
    ∧ (∀ p v a o, Statement (.vsts p v a o))
    ∧ (∀ p d a b r, Statement (.sadd p d a b r))
    ∧ (∀ p d a b r, Statement (.ssub p d a b r))
    ∧ (∀ p d a b r, Statement (.smul p d a b r))
    ∧ (∀ p d a b r, Statement (.sdiv p d a b r))
    ∧ (∀ p d a b r, Statement (.suni p d a b r))
    ∧ (∀ p d a b r, Statement (.sint p d a b r))
    ∧ (∀ p d a b r, Statement (.scmp p d a b r))
    ∧ (∀ p d a r, Statement (.sneg p d a r))
    ∧ (∀ p d a r, Statement (.sfrom p d a r))
    ∧ (∀ p d a r, Statement (.sbnd p d a r))
    ∧ (∀ p d a r, Statement (.sarc p d a r))
    ∧ (∀ p d a r, Statement (.smsk p d a r)) :=
  ⟨fun p v a o => fun _ => fields (n := 0xB8000200 + p.toNat * 8388608 + v.toNat * 65536 + a.toNat * 1024 + o.toNat) (m := 46) (g := p.toNat) (r := 512 + v.toNat * 65536 + a.toNat * 1024 + o.toNat) (by omega) (by decide) p.isLt (by omega),
    fun p v a o => fun _ => fields (n := 0xB8000300 + p.toNat * 8388608 + v.toNat * 65536 + a.toNat * 1024 + o.toNat) (m := 46) (g := p.toNat) (r := 768 + v.toNat * 65536 + a.toNat * 1024 + o.toNat) (by omega) (by decide) p.isLt (by omega),
    fun p d a b r => fun _ => fields (n := 0xBC000000 + p.toNat * 8388608 + d.toNat * 65536 + a.toNat * 512 + b.toNat * 4 + r.toNat) (m := 47) (g := p.toNat) (r := 0 + d.toNat * 65536 + a.toNat * 512 + b.toNat * 4 + r.toNat) (by omega) (by decide) p.isLt (by omega),
    fun p d a b r => fun _ => fields (n := 0xBC200000 + p.toNat * 8388608 + d.toNat * 65536 + a.toNat * 512 + b.toNat * 4 + r.toNat) (m := 47) (g := p.toNat) (r := 2097152 + d.toNat * 65536 + a.toNat * 512 + b.toNat * 4 + r.toNat) (by omega) (by decide) p.isLt (by omega),
    fun p d a b r => fun _ => fields (n := 0xBC400000 + p.toNat * 8388608 + d.toNat * 65536 + a.toNat * 512 + b.toNat * 4 + r.toNat) (m := 47) (g := p.toNat) (r := 4194304 + d.toNat * 65536 + a.toNat * 512 + b.toNat * 4 + r.toNat) (by omega) (by decide) p.isLt (by omega),
    fun p d a b r => fun _ => fields (n := 0xBC600000 + p.toNat * 8388608 + d.toNat * 65536 + a.toNat * 512 + b.toNat * 4 + r.toNat) (m := 47) (g := p.toNat) (r := 6291456 + d.toNat * 65536 + a.toNat * 512 + b.toNat * 4 + r.toNat) (by omega) (by decide) p.isLt (by omega),
    fun p d a b r => fun _ => fields (n := 0xC0000000 + p.toNat * 8388608 + d.toNat * 65536 + a.toNat * 512 + b.toNat * 4 + r.toNat) (m := 48) (g := p.toNat) (r := 0 + d.toNat * 65536 + a.toNat * 512 + b.toNat * 4 + r.toNat) (by omega) (by decide) p.isLt (by omega),
    fun p d a b r => fun _ => fields (n := 0xC0200000 + p.toNat * 8388608 + d.toNat * 65536 + a.toNat * 512 + b.toNat * 4 + r.toNat) (m := 48) (g := p.toNat) (r := 2097152 + d.toNat * 65536 + a.toNat * 512 + b.toNat * 4 + r.toNat) (by omega) (by decide) p.isLt (by omega),
    fun p d a b r => fun _ => fields (n := 0xC0400000 + p.toNat * 8388608 + d.toNat * 65536 + a.toNat * 512 + b.toNat * 4 + r.toNat) (m := 48) (g := p.toNat) (r := 4194304 + d.toNat * 65536 + a.toNat * 512 + b.toNat * 4 + r.toNat) (by omega) (by decide) p.isLt (by omega),
    fun p d a r => fun _ => fields (n := 0xC4000000 + p.toNat * 8388608 + d.toNat * 65536 + a.toNat * 512 + r.toNat) (m := 49) (g := p.toNat) (r := 0 + d.toNat * 65536 + a.toNat * 512 + r.toNat) (by omega) (by decide) p.isLt (by omega),
    fun p d a r => fun _ => fields (n := 0xC4000004 + p.toNat * 8388608 + d.toNat * 65536 + a.toNat * 512 + r.toNat) (m := 49) (g := p.toNat) (r := 4 + d.toNat * 65536 + a.toNat * 512 + r.toNat) (by omega) (by decide) p.isLt (by omega),
    fun p d a r => fun _ => fields (n := 0xC4000008 + p.toNat * 8388608 + d.toNat * 65536 + a.toNat * 512 + r.toNat) (m := 49) (g := p.toNat) (r := 8 + d.toNat * 65536 + a.toNat * 512 + r.toNat) (by omega) (by decide) p.isLt (by omega),
    fun p d a r => fun _ => fields (n := 0xC400000C + p.toNat * 8388608 + d.toNat * 65536 + a.toNat * 512 + r.toNat) (m := 49) (g := p.toNat) (r := 12 + d.toNat * 65536 + a.toNat * 512 + r.toNat) (by omega) (by decide) p.isLt (by omega),
    fun p d a r => fun _ => fields (n := 0xC4000010 + p.toNat * 8388608 + d.toNat * 65536 + a.toNat * 512 + r.toNat) (m := 49) (g := p.toNat) (r := 16 + d.toNat * 65536 + a.toNat * 512 + r.toNat) (by omega) (by decide) p.isLt (by omega)⟩
theorem part8 : (∀ p d a r, Statement (.sred p d a r))
    ∧ (∀ p d a o z, Statement (.spld p d a o z))
    ∧ (∀ p d a o z, Statement (.spst p d a o z))
    ∧ (∀ p d a o z, Statement (.ld p d a o z))
    ∧ (∀ p d a o z c, Statement (.lds p d a o z c))
    ∧ (∀ p d a o z c, Statement (.lda p d a o z c))
    ∧ (∀ p a o, Statement (.pref p a o))
    ∧ (∀ p d a o z, Statement (.st p d a o z))
    ∧ (∀ p d a o z c, Statement (.sts p d a o z c))
    ∧ (∀ p d a o z c, Statement (.strl p d a o z c))
    ∧ (∀ p d a b c, Statement (.amoAdd p d a b c))
    ∧ (∀ p d a b c, Statement (.amoAnd p d a b c))
    ∧ (∀ p d a b c, Statement (.amoOr p d a b c))
    ∧ (∀ p d a b c, Statement (.amoXor p d a b c)) :=
  ⟨fun p d a r => fun _ => fields (n := 0xC4000014 + p.toNat * 8388608 + d.toNat * 65536 + a.toNat * 512 + r.toNat) (m := 49) (g := p.toNat) (r := 20 + d.toNat * 65536 + a.toNat * 512 + r.toNat) (by omega) (by decide) p.isLt (by omega),
    fun p d a o z => fun _ => fields (n := 0xC8000000 + p.toNat * 8388608 + d.toNat * 131072 + a.toNat * 2048 + o.toNat * 64 + z.toNat * 16) (m := 50) (g := p.toNat) (r := 0 + d.toNat * 131072 + a.toNat * 2048 + o.toNat * 64 + z.toNat * 16) (by omega) (by decide) p.isLt (by omega),
    fun p d a o z => fun _ => fields (n := 0xC8000001 + p.toNat * 8388608 + d.toNat * 131072 + a.toNat * 2048 + o.toNat * 64 + z.toNat * 16) (m := 50) (g := p.toNat) (r := 1 + d.toNat * 131072 + a.toNat * 2048 + o.toNat * 64 + z.toNat * 16) (by omega) (by decide) p.isLt (by omega),
    fun p d a o z => fun _ => fields (n := 0xCC000000 + p.toNat * 8388608 + d.toNat * 131072 + a.toNat * 2048 + o.toNat * 64 + z.toNat * 16) (m := 51) (g := p.toNat) (r := 0 + d.toNat * 131072 + a.toNat * 2048 + o.toNat * 64 + z.toNat * 16) (by omega) (by decide) p.isLt (by omega),
    fun p d a o z c => fun _ => fields (n := 0xCC000001 + p.toNat * 8388608 + d.toNat * 131072 + a.toNat * 2048 + o.toNat * 64 + z.toNat * 16 + c.toNat * 4) (m := 51) (g := p.toNat) (r := 1 + d.toNat * 131072 + a.toNat * 2048 + o.toNat * 64 + z.toNat * 16 + c.toNat * 4) (by omega) (by decide) p.isLt (by omega),
    fun p d a o z c => fun _ => fields (n := 0xCC000002 + p.toNat * 8388608 + d.toNat * 131072 + a.toNat * 2048 + o.toNat * 64 + z.toNat * 16 + c.toNat * 4) (m := 51) (g := p.toNat) (r := 2 + d.toNat * 131072 + a.toNat * 2048 + o.toNat * 64 + z.toNat * 16 + c.toNat * 4) (by omega) (by decide) p.isLt (by omega),
    fun p a o => fun _ => fields (n := 0xCC000003 + p.toNat * 8388608 + a.toNat * 2048 + o.toNat * 64) (m := 51) (g := p.toNat) (r := 3 + a.toNat * 2048 + o.toNat * 64) (by omega) (by decide) p.isLt (by omega),
    fun p d a o z => fun _ => fields (n := 0xD0000000 + p.toNat * 8388608 + d.toNat * 131072 + a.toNat * 2048 + o.toNat * 64 + z.toNat * 16) (m := 52) (g := p.toNat) (r := 0 + d.toNat * 131072 + a.toNat * 2048 + o.toNat * 64 + z.toNat * 16) (by omega) (by decide) p.isLt (by omega),
    fun p d a o z c => fun _ => fields (n := 0xD0000001 + p.toNat * 8388608 + d.toNat * 131072 + a.toNat * 2048 + o.toNat * 64 + z.toNat * 16 + c.toNat * 4) (m := 52) (g := p.toNat) (r := 1 + d.toNat * 131072 + a.toNat * 2048 + o.toNat * 64 + z.toNat * 16 + c.toNat * 4) (by omega) (by decide) p.isLt (by omega),
    fun p d a o z c => fun _ => fields (n := 0xD0000002 + p.toNat * 8388608 + d.toNat * 131072 + a.toNat * 2048 + o.toNat * 64 + z.toNat * 16 + c.toNat * 4) (m := 52) (g := p.toNat) (r := 2 + d.toNat * 131072 + a.toNat * 2048 + o.toNat * 64 + z.toNat * 16 + c.toNat * 4) (by omega) (by decide) p.isLt (by omega),
    fun p d a b c => fun _ => fields (n := 0xD4000000 + p.toNat * 8388608 + d.toNat * 131072 + a.toNat * 2048 + b.toNat * 32 + c.toNat) (m := 53) (g := p.toNat) (r := 0 + d.toNat * 131072 + a.toNat * 2048 + b.toNat * 32 + c.toNat) (by omega) (by decide) p.isLt (by omega),
    fun p d a b c => fun _ => fields (n := 0xD4000004 + p.toNat * 8388608 + d.toNat * 131072 + a.toNat * 2048 + b.toNat * 32 + c.toNat) (m := 53) (g := p.toNat) (r := 4 + d.toNat * 131072 + a.toNat * 2048 + b.toNat * 32 + c.toNat) (by omega) (by decide) p.isLt (by omega),
    fun p d a b c => fun _ => fields (n := 0xD4000008 + p.toNat * 8388608 + d.toNat * 131072 + a.toNat * 2048 + b.toNat * 32 + c.toNat) (m := 53) (g := p.toNat) (r := 8 + d.toNat * 131072 + a.toNat * 2048 + b.toNat * 32 + c.toNat) (by omega) (by decide) p.isLt (by omega),
    fun p d a b c => fun _ => fields (n := 0xD400000C + p.toNat * 8388608 + d.toNat * 131072 + a.toNat * 2048 + b.toNat * 32 + c.toNat) (m := 53) (g := p.toNat) (r := 12 + d.toNat * 131072 + a.toNat * 2048 + b.toNat * 32 + c.toNat) (by omega) (by decide) p.isLt (by omega)⟩
theorem part9 : (∀ p d a b c, Statement (.amoMin p d a b c))
    ∧ (∀ p d a b c, Statement (.amoMax p d a b c))
    ∧ (∀ p d a b c, Statement (.amoSwap p d a b c))
    ∧ (∀ p d a b c, Statement (.cas p d a b c))
    ∧ (∀ p c, Statement (.fence p c))
    ∧ (∀ p c, Statement (.fenceAll p c))
    ∧ (∀ p d a b c, Statement (.waitaNe p d a b c))
    ∧ (∀ p d a b c, Statement (.waitaEq p d a b c))
    ∧ (∀ p h t, Statement (.hwait p h t))
    ∧ (∀ p d h, Statement (.hstat p d h))
    ∧ (∀ p h, Statement (.hrel p h))
    ∧ (∀ p h a b, Statement (.hset p h a b))
    ∧ (∀ p h a b, Statement (.hexp p h a b))
    ∧ (∀ p h, Statement (.hswap p h)) :=
  ⟨fun p d a b c => fun _ => fields (n := 0xD4000010 + p.toNat * 8388608 + d.toNat * 131072 + a.toNat * 2048 + b.toNat * 32 + c.toNat) (m := 53) (g := p.toNat) (r := 16 + d.toNat * 131072 + a.toNat * 2048 + b.toNat * 32 + c.toNat) (by omega) (by decide) p.isLt (by omega),
    fun p d a b c => fun _ => fields (n := 0xD4000014 + p.toNat * 8388608 + d.toNat * 131072 + a.toNat * 2048 + b.toNat * 32 + c.toNat) (m := 53) (g := p.toNat) (r := 20 + d.toNat * 131072 + a.toNat * 2048 + b.toNat * 32 + c.toNat) (by omega) (by decide) p.isLt (by omega),
    fun p d a b c => fun _ => fields (n := 0xD4000018 + p.toNat * 8388608 + d.toNat * 131072 + a.toNat * 2048 + b.toNat * 32 + c.toNat) (m := 53) (g := p.toNat) (r := 24 + d.toNat * 131072 + a.toNat * 2048 + b.toNat * 32 + c.toNat) (by omega) (by decide) p.isLt (by omega),
    fun p d a b c => fun _ => fields (n := 0xD400001C + p.toNat * 8388608 + d.toNat * 131072 + a.toNat * 2048 + b.toNat * 32 + c.toNat) (m := 53) (g := p.toNat) (r := 28 + d.toNat * 131072 + a.toNat * 2048 + b.toNat * 32 + c.toNat) (by omega) (by decide) p.isLt (by omega),
    fun p c => fun _ => fields (n := 0xD8000000 + p.toNat * 8388608 + c.toNat) (m := 54) (g := p.toNat) (r := 0 + c.toNat) (by omega) (by decide) p.isLt (by omega),
    fun p c => fun _ => fields (n := 0xD8000004 + p.toNat * 8388608 + c.toNat) (m := 54) (g := p.toNat) (r := 4 + c.toNat) (by omega) (by decide) p.isLt (by omega),
    fun p d a b c => fun _ => fields (n := 0xD8000008 + p.toNat * 8388608 + d.toNat * 131072 + a.toNat * 2048 + b.toNat * 32 + c.toNat) (m := 54) (g := p.toNat) (r := 8 + d.toNat * 131072 + a.toNat * 2048 + b.toNat * 32 + c.toNat) (by omega) (by decide) p.isLt (by omega),
    fun p d a b c => fun _ => fields (n := 0xD800000C + p.toNat * 8388608 + d.toNat * 131072 + a.toNat * 2048 + b.toNat * 32 + c.toNat) (m := 54) (g := p.toNat) (r := 12 + d.toNat * 131072 + a.toNat * 2048 + b.toNat * 32 + c.toNat) (by omega) (by decide) p.isLt (by omega),
    fun p h t => fun _ => fields (n := 0xDC000000 + p.toNat * 8388608 + h.toNat * 131072 + t.toNat * 32) (m := 55) (g := p.toNat) (r := 0 + h.toNat * 131072 + t.toNat * 32) (by omega) (by decide) p.isLt (by omega),
    fun p d h => fun _ => fields (n := 0xDC000001 + p.toNat * 8388608 + d.toNat * 131072 + h.toNat * 2048) (m := 55) (g := p.toNat) (r := 1 + d.toNat * 131072 + h.toNat * 2048) (by omega) (by decide) p.isLt (by omega),
    fun p h => fun _ => fields (n := 0xDC000002 + p.toNat * 8388608 + h.toNat * 131072) (m := 55) (g := p.toNat) (r := 2 + h.toNat * 131072) (by omega) (by decide) p.isLt (by omega),
    fun p h a b => fun _ => fields (n := 0xDC000003 + p.toNat * 8388608 + h.toNat * 131072 + a.toNat * 2048 + b.toNat * 32) (m := 55) (g := p.toNat) (r := 3 + h.toNat * 131072 + a.toNat * 2048 + b.toNat * 32) (by omega) (by decide) p.isLt (by omega),
    fun p h a b => fun _ => fields (n := 0xDC000004 + p.toNat * 8388608 + h.toNat * 131072 + a.toNat * 2048 + b.toNat * 32) (m := 55) (g := p.toNat) (r := 4 + h.toNat * 131072 + a.toNat * 2048 + b.toNat * 32) (by omega) (by decide) p.isLt (by omega),
    fun p h => fun _ => fields (n := 0xDC000005 + p.toNat * 8388608 + h.toNat * 131072) (m := 55) (g := p.toNat) (r := 5 + h.toNat * 131072) (by omega) (by decide) p.isLt (by omega)⟩
theorem part10 : (∀ p a, Statement (.bkrel p a))
    ∧ (∀ p a, Statement (.bkwait p a))
    ∧ (∀ p n a, Statement (.barv p n a))
    ∧ (∀ p n a, Statement (.barvInit p n a))
    ∧ (∀ p n a, Statement (.bart p n a))
    ∧ (∀ p n, Statement (.barw p n))
    ∧ (∀ p h e, Statement (.uien p h e))
    ∧ (∀ p n a b, Statement (.clvl p n a b))
    ∧ (∀ p h d s, Statement (.cgo p h d s))
    ∧ (∀ p h d s, Statement (.cgox p h d s))
    ∧ (∀ p d a q, Statement (.cqry p d a q))
    ∧ (∀ p h i r, Statement (.mxcall p h i r))
    ∧ (∀ p m a, Statement (.mxp p m a))
    ∧ (∀ p d m, Statement (.mxpr p d m)) :=
  ⟨fun p a => fun _ => fields (n := 0xDC000006 + p.toNat * 8388608 + a.toNat * 2048) (m := 55) (g := p.toNat) (r := 6 + a.toNat * 2048) (by omega) (by decide) p.isLt (by omega),
    fun p a => fun _ => fields (n := 0xDC000007 + p.toNat * 8388608 + a.toNat * 2048) (m := 55) (g := p.toNat) (r := 7 + a.toNat * 2048) (by omega) (by decide) p.isLt (by omega),
    fun p n a => fun _ => fields (n := 0xDC000008 + p.toNat * 8388608 + n.toNat * 131072 + a.toNat * 2048) (m := 55) (g := p.toNat) (r := 8 + n.toNat * 131072 + a.toNat * 2048) (by omega) (by decide) p.isLt (by omega),
    fun p n a => fun _ => fields (n := 0xDC000028 + p.toNat * 8388608 + n.toNat * 131072 + a.toNat * 2048) (m := 55) (g := p.toNat) (r := 40 + n.toNat * 131072 + a.toNat * 2048) (by omega) (by decide) p.isLt (by omega),
    fun p n a => fun _ => fields (n := 0xDC000009 + p.toNat * 8388608 + n.toNat * 131072 + a.toNat * 2048) (m := 55) (g := p.toNat) (r := 9 + n.toNat * 131072 + a.toNat * 2048) (by omega) (by decide) p.isLt (by omega),
    fun p n => fun _ => fields (n := 0xDC00000A + p.toNat * 8388608 + n.toNat * 131072) (m := 55) (g := p.toNat) (r := 10 + n.toNat * 131072) (by omega) (by decide) p.isLt (by omega),
    fun p h e => fun _ => fields (n := 0xDC00000B + p.toNat * 8388608 + h.toNat * 131072 + e.toNat * 32) (m := 55) (g := p.toNat) (r := 11 + h.toNat * 131072 + e.toNat * 32) (by omega) (by decide) p.isLt (by omega),
    fun p n a b => fun _ => fields (n := 0xE0000000 + p.toNat * 8388608 + n.toNat * 131072 + a.toNat * 2048 + b.toNat * 32) (m := 56) (g := p.toNat) (r := 0 + n.toNat * 131072 + a.toNat * 2048 + b.toNat * 32) (by omega) (by decide) p.isLt (by omega),
    fun p h d s => fun _ => fields (n := 0xE0000001 + p.toNat * 8388608 + h.toNat * 131072 + d.toNat * 2048 + s.toNat * 32) (m := 56) (g := p.toNat) (r := 1 + h.toNat * 131072 + d.toNat * 2048 + s.toNat * 32) (by omega) (by decide) p.isLt (by omega),
    fun p h d s => fun _ => fields (n := 0xE0000002 + p.toNat * 8388608 + h.toNat * 131072 + d.toNat * 2048 + s.toNat * 32) (m := 56) (g := p.toNat) (r := 2 + h.toNat * 131072 + d.toNat * 2048 + s.toNat * 32) (by omega) (by decide) p.isLt (by omega),
    fun p d a q => fun _ => fields (n := 0xE0000003 + p.toNat * 8388608 + d.toNat * 131072 + a.toNat * 2048 + q.toNat * 32) (m := 56) (g := p.toNat) (r := 3 + d.toNat * 131072 + a.toNat * 2048 + q.toNat * 32) (by omega) (by decide) p.isLt (by omega),
    fun p h i r => fun _ => fields (n := 0xE4000000 + p.toNat * 8388608 + h.toNat * 131072 + i.toNat * 2048 + r.toNat) (m := 57) (g := p.toNat) (r := 0 + h.toNat * 131072 + i.toNat * 2048 + r.toNat) (by omega) (by decide) p.isLt (by omega),
    fun p m a => fun _ => fields (n := 0xE8000000 + p.toNat * 8388608 + m.toNat * 131072 + a.toNat * 2048) (m := 58) (g := p.toNat) (r := 0 + m.toNat * 131072 + a.toNat * 2048) (by omega) (by decide) p.isLt (by omega),
    fun p d m => fun _ => fields (n := 0xE8000001 + p.toNat * 8388608 + d.toNat * 131072 + m.toNat * 2048) (m := 58) (g := p.toNat) (r := 1 + d.toNat * 131072 + m.toNat * 2048) (by omega) (by decide) p.isLt (by omega)⟩
theorem part11 : (∀ p a b, Statement (.mxldu p a b))
    ∧ (∀ p n a, Statement (.mxrt p n a))
    ∧ (∀ p d h, Statement (.mxstat p d h))
    ∧ (∀ p h a, Statement (.shand p h a))
    ∧ (∀ p d a, Statement (.sown p d a))
    ∧ (∀ p d, Statement (.genr p d))
    ∧ (∀ p a b, Statement (.tenend p a b))
    ∧ (∀ p d a q, Statement (.genprobe p d a q))
    ∧ (∀ p d, Statement (.tidx p d))
    ∧ (∀ p d, Statement (.tnext p d))
    ∧ (∀ p a b, Statement (.suspend p a b))
    ∧ (∀ p, Statement (.endTask p))
    ∧ (∀ p d a, Statement (.linkq p d a))
    ∧ (∀ p r a, Statement (.ringld p r a)) :=
  ⟨fun p a b => fun _ => fields (n := 0xE8000002 + p.toNat * 8388608 + a.toNat * 2048 + b.toNat * 32) (m := 58) (g := p.toNat) (r := 2 + a.toNat * 2048 + b.toNat * 32) (by omega) (by decide) p.isLt (by omega),
    fun p n a => fun _ => fields (n := 0xE8000003 + p.toNat * 8388608 + n.toNat * 131072 + a.toNat * 2048) (m := 58) (g := p.toNat) (r := 3 + n.toNat * 131072 + a.toNat * 2048) (by omega) (by decide) p.isLt (by omega),
    fun p d h => fun _ => fields (n := 0xE8000004 + p.toNat * 8388608 + d.toNat * 131072 + h.toNat * 2048) (m := 58) (g := p.toNat) (r := 4 + d.toNat * 131072 + h.toNat * 2048) (by omega) (by decide) p.isLt (by omega),
    fun p h a => fun _ => fields (n := 0xEC000000 + p.toNat * 8388608 + h.toNat * 131072 + a.toNat * 2048) (m := 59) (g := p.toNat) (r := 0 + h.toNat * 131072 + a.toNat * 2048) (by omega) (by decide) p.isLt (by omega),
    fun p d a => fun _ => fields (n := 0xEC000001 + p.toNat * 8388608 + d.toNat * 131072 + a.toNat * 2048) (m := 59) (g := p.toNat) (r := 1 + d.toNat * 131072 + a.toNat * 2048) (by omega) (by decide) p.isLt (by omega),
    fun p d => fun _ => fields (n := 0xEC000002 + p.toNat * 8388608 + d.toNat * 131072) (m := 59) (g := p.toNat) (r := 2 + d.toNat * 131072) (by omega) (by decide) p.isLt (by omega),
    fun p a b => fun _ => fields (n := 0xEC000003 + p.toNat * 8388608 + a.toNat * 2048 + b.toNat * 32) (m := 59) (g := p.toNat) (r := 3 + a.toNat * 2048 + b.toNat * 32) (by omega) (by decide) p.isLt (by omega),
    fun p d a q => fun _ => fields (n := 0xEC000004 + p.toNat * 8388608 + d.toNat * 131072 + a.toNat * 2048 + q.toNat * 32) (m := 59) (g := p.toNat) (r := 4 + d.toNat * 131072 + a.toNat * 2048 + q.toNat * 32) (by omega) (by decide) p.isLt (by omega),
    fun p d => fun _ => fields (n := 0xEC000005 + p.toNat * 8388608 + d.toNat * 131072) (m := 59) (g := p.toNat) (r := 5 + d.toNat * 131072) (by omega) (by decide) p.isLt (by omega),
    fun p d => fun _ => fields (n := 0xEC000006 + p.toNat * 8388608 + d.toNat * 131072) (m := 59) (g := p.toNat) (r := 6 + d.toNat * 131072) (by omega) (by decide) p.isLt (by omega),
    fun p a b => fun _ => fields (n := 0xEC000007 + p.toNat * 8388608 + a.toNat * 2048 + b.toNat * 32) (m := 59) (g := p.toNat) (r := 7 + a.toNat * 2048 + b.toNat * 32) (by omega) (by decide) p.isLt (by omega),
    fun p => fun _ => fields (n := 0xEC000008 + p.toNat * 8388608) (m := 59) (g := p.toNat) (r := 8) (by omega) (by decide) p.isLt (by omega),
    fun p d a => fun _ => fields (n := 0xEC000009 + p.toNat * 8388608 + d.toNat * 131072 + a.toNat * 2048) (m := 59) (g := p.toNat) (r := 9 + d.toNat * 131072 + a.toNat * 2048) (by omega) (by decide) p.isLt (by omega),
    fun p r a => fun _ => fields (n := 0xEC00000A + p.toNat * 8388608 + r.toNat * 131072 + a.toNat * 2048) (m := 59) (g := p.toNat) (r := 10 + r.toNat * 131072 + a.toNat * 2048) (by omega) (by decide) p.isLt (by omega)⟩
theorem part12 : (∀ p d a b t, Statement (.vdot p d a b t))
    ∧ (∀ p d a b t, Statement (.vabd p d a b t))
    ∧ (∀ p d a b t, Statement (.vclmp p d a b t))
    ∧ (∀ p d a e t, Statement (.vcvth p d a e t))
    ∧ (∀ p d s t, Statement (.vscl p d s t)) :=
  ⟨fun p d a b t => fun _ => fields (n := 0x5C000000 + p.toNat * 8388608 + d.toNat * 65536 + a.toNat * 512 + b.toNat * 4 + t.toNat) (m := 23) (g := p.toNat) (r := 0 + d.toNat * 65536 + a.toNat * 512 + b.toNat * 4 + t.toNat) (by omega) (by decide) p.isLt (by omega),
    fun p d a b t => fun _ => fields (n := 0xF0000000 + p.toNat * 8388608 + d.toNat * 65536 + a.toNat * 512 + b.toNat * 4 + t.toNat) (m := 60) (g := p.toNat) (r := 0 + d.toNat * 65536 + a.toNat * 512 + b.toNat * 4 + t.toNat) (by omega) (by decide) p.isLt (by omega),
    fun p d a b t => fun _ => fields (n := 0xF0200000 + p.toNat * 8388608 + d.toNat * 65536 + a.toNat * 512 + b.toNat * 4 + t.toNat) (m := 60) (g := p.toNat) (r := 2097152 + d.toNat * 65536 + a.toNat * 512 + b.toNat * 4 + t.toNat) (by omega) (by decide) p.isLt (by omega),
    fun p d a e t => fun _ => fields (n := 0xF4000000 + p.toNat * 8388608 + d.toNat * 65536 + a.toNat * 512 + e.toNat * 4 + t.toNat) (m := 61) (g := p.toNat) (r := 0 + d.toNat * 65536 + a.toNat * 512 + e.toNat * 4 + t.toNat) (by omega) (by decide) p.isLt (by omega),
    fun p d s t => fun _ => fields (n := 0xF8000000 + p.toNat * 8388608 + d.toNat * 65536 + s.toNat * 1024 + t.toNat) (m := 62) (g := p.toNat) (r := 0 + d.toNat * 65536 + s.toNat * 1024 + t.toNat) (by omega) (by decide) p.isLt (by omega)⟩
theorem nop : Statement (.nop) := part0.1
theorem add x0 x1 x2 x3 : Statement (.add x0 x1 x2 x3) := part0.2.1 x0 x1 x2 x3
theorem sub x0 x1 x2 x3 : Statement (.sub x0 x1 x2 x3) := part0.2.2.1 x0 x1 x2 x3
theorem and x0 x1 x2 x3 : Statement (.and x0 x1 x2 x3) := part0.2.2.2.1 x0 x1 x2 x3
theorem or x0 x1 x2 x3 : Statement (.or x0 x1 x2 x3) := part0.2.2.2.2.1 x0 x1 x2 x3
theorem xor x0 x1 x2 x3 : Statement (.xor x0 x1 x2 x3) := part0.2.2.2.2.2.1 x0 x1 x2 x3
theorem andn x0 x1 x2 x3 : Statement (.andn x0 x1 x2 x3) := part0.2.2.2.2.2.2.1 x0 x1 x2 x3
theorem orn x0 x1 x2 x3 : Statement (.orn x0 x1 x2 x3) := part0.2.2.2.2.2.2.2.1 x0 x1 x2 x3
theorem shl x0 x1 x2 x3 : Statement (.shl x0 x1 x2 x3) := part0.2.2.2.2.2.2.2.2.1 x0 x1 x2 x3
theorem shr x0 x1 x2 x3 : Statement (.shr x0 x1 x2 x3) := part0.2.2.2.2.2.2.2.2.2.1 x0 x1 x2 x3
theorem sar x0 x1 x2 x3 : Statement (.sar x0 x1 x2 x3) := part0.2.2.2.2.2.2.2.2.2.2.1 x0 x1 x2 x3
theorem min x0 x1 x2 x3 : Statement (.min x0 x1 x2 x3) := part0.2.2.2.2.2.2.2.2.2.2.2.1 x0 x1 x2 x3
theorem max x0 x1 x2 x3 : Statement (.max x0 x1 x2 x3) := part0.2.2.2.2.2.2.2.2.2.2.2.2.1 x0 x1 x2 x3
theorem minu x0 x1 x2 x3 : Statement (.minu x0 x1 x2 x3) := part0.2.2.2.2.2.2.2.2.2.2.2.2.2 x0 x1 x2 x3
theorem maxu x0 x1 x2 x3 : Statement (.maxu x0 x1 x2 x3) := part1.1 x0 x1 x2 x3
theorem clz x0 x1 x2 : Statement (.clz x0 x1 x2) := part1.2.1 x0 x1 x2
theorem popc x0 x1 x2 : Statement (.popc x0 x1 x2) := part1.2.2.1 x0 x1 x2
theorem bfx x0 x1 x2 x3 : Statement (.bfx x0 x1 x2 x3) := part1.2.2.2.1 x0 x1 x2 x3
theorem bfi x0 x1 x2 x3 : Statement (.bfi x0 x1 x2 x3) := part1.2.2.2.2.1 x0 x1 x2 x3
theorem cmpt x0 x1 x2 : Statement (.cmpt x0 x1 x2) := part1.2.2.2.2.2.1 x0 x1 x2
theorem mul x0 x1 x2 x3 : Statement (.mul x0 x1 x2 x3) := part1.2.2.2.2.2.2.1 x0 x1 x2 x3
theorem mulh x0 x1 x2 x3 : Statement (.mulh x0 x1 x2 x3) := part1.2.2.2.2.2.2.2.1 x0 x1 x2 x3
theorem mulhu x0 x1 x2 x3 : Statement (.mulhu x0 x1 x2 x3) := part1.2.2.2.2.2.2.2.2.1 x0 x1 x2 x3
theorem div x0 x1 x2 x3 : Statement (.div x0 x1 x2 x3) := part1.2.2.2.2.2.2.2.2.2.1 x0 x1 x2 x3
theorem divu x0 x1 x2 x3 : Statement (.divu x0 x1 x2 x3) := part1.2.2.2.2.2.2.2.2.2.2.1 x0 x1 x2 x3
theorem rem x0 x1 x2 x3 : Statement (.rem x0 x1 x2 x3) := part1.2.2.2.2.2.2.2.2.2.2.2.1 x0 x1 x2 x3
theorem remu x0 x1 x2 x3 : Statement (.remu x0 x1 x2 x3) := part1.2.2.2.2.2.2.2.2.2.2.2.2.1 x0 x1 x2 x3
theorem cmp x0 x1 x2 x3 x4 : Statement (.cmp x0 x1 x2 x3 x4) := part1.2.2.2.2.2.2.2.2.2.2.2.2.2 x0 x1 x2 x3 x4
theorem sel x0 x1 x2 x3 x4 : Statement (.sel x0 x1 x2 x3 x4) := part2.1 x0 x1 x2 x3 x4
theorem pand x0 x1 x2 x3 : Statement (.pand x0 x1 x2 x3) := part2.2.1 x0 x1 x2 x3
theorem por x0 x1 x2 x3 : Statement (.por x0 x1 x2 x3) := part2.2.2.1 x0 x1 x2 x3
theorem pxor x0 x1 x2 x3 : Statement (.pxor x0 x1 x2 x3) := part2.2.2.2.1 x0 x1 x2 x3
theorem pget x0 x1 : Statement (.pget x0 x1) := part2.2.2.2.2.1 x0 x1
theorem pset x0 x1 x2 : Statement (.pset x0 x1 x2) := part2.2.2.2.2.2.1 x0 x1 x2
theorem addi x0 x1 x2 x3 : Statement (.addi x0 x1 x2 x3) := part2.2.2.2.2.2.2.1 x0 x1 x2 x3
theorem andi x0 x1 x2 x3 : Statement (.andi x0 x1 x2 x3) := part2.2.2.2.2.2.2.2.1 x0 x1 x2 x3
theorem ori x0 x1 x2 x3 : Statement (.ori x0 x1 x2 x3) := part2.2.2.2.2.2.2.2.2.1 x0 x1 x2 x3
theorem xori x0 x1 x2 x3 : Statement (.xori x0 x1 x2 x3) := part2.2.2.2.2.2.2.2.2.2.1 x0 x1 x2 x3
theorem shli x0 x1 x2 x3 : Statement (.shli x0 x1 x2 x3) := part2.2.2.2.2.2.2.2.2.2.2.1 x0 x1 x2 x3
theorem shri x0 x1 x2 x3 : Statement (.shri x0 x1 x2 x3) := part2.2.2.2.2.2.2.2.2.2.2.2.1 x0 x1 x2 x3
theorem sari x0 x1 x2 x3 : Statement (.sari x0 x1 x2 x3) := part2.2.2.2.2.2.2.2.2.2.2.2.2.1 x0 x1 x2 x3
theorem cmpi x0 x1 x2 x3 x4 : Statement (.cmpi x0 x1 x2 x3 x4) := part2.2.2.2.2.2.2.2.2.2.2.2.2.2 x0 x1 x2 x3 x4
theorem cmpiu x0 x1 x2 x3 x4 : Statement (.cmpiu x0 x1 x2 x3 x4) := part3.1 x0 x1 x2 x3 x4
theorem movi x0 x1 x2 : Statement (.movi x0 x1 x2) := part3.2.1 x0 x1 x2
theorem movhi x0 x1 x2 : Statement (.movhi x0 x1 x2) := part3.2.2.1 x0 x1 x2
theorem csrr x0 x1 x2 : Statement (.csrr x0 x1 x2) := part3.2.2.2.1 x0 x1 x2
theorem csrw x0 x1 x2 : Statement (.csrw x0 x1 x2) := part3.2.2.2.2.1 x0 x1 x2
theorem br x0 x1 : Statement (.br x0 x1) := part3.2.2.2.2.2.1 x0 x1
theorem brl x0 x1 : Statement (.brl x0 x1) := part3.2.2.2.2.2.2.1 x0 x1
theorem loop x0 x1 x2 : Statement (.loop x0 x1 x2) := part3.2.2.2.2.2.2.2.1 x0 x1 x2
theorem loopr x0 x1 x2 x3 : Statement (.loopr x0 x1 x2 x3) := part3.2.2.2.2.2.2.2.2.1 x0 x1 x2 x3
theorem jr x0 x1 : Statement (.jr x0 x1) := part3.2.2.2.2.2.2.2.2.2.1 x0 x1
theorem jrl x0 x1 x2 : Statement (.jrl x0 x1 x2) := part3.2.2.2.2.2.2.2.2.2.2.1 x0 x1 x2
theorem trap x0 x1 : Statement (.trap x0 x1) := part3.2.2.2.2.2.2.2.2.2.2.2.1 x0 x1
theorem eret x0 : Statement (.eret x0) := part3.2.2.2.2.2.2.2.2.2.2.2.2.1 x0
theorem uiret x0 : Statement (.uiret x0) := part3.2.2.2.2.2.2.2.2.2.2.2.2.2 x0
theorem wait x0 x1 x2 x3 x4 : Statement (.wait x0 x1 x2 x3 x4) := part4.1 x0 x1 x2 x3 x4
theorem vadd x0 x1 x2 x3 x4 : Statement (.vadd x0 x1 x2 x3 x4) := part4.2.1 x0 x1 x2 x3 x4
theorem vsub x0 x1 x2 x3 x4 : Statement (.vsub x0 x1 x2 x3 x4) := part4.2.2.1 x0 x1 x2 x3 x4
theorem vmul x0 x1 x2 x3 x4 : Statement (.vmul x0 x1 x2 x3 x4) := part4.2.2.2.1 x0 x1 x2 x3 x4
theorem vfma x0 x1 x2 x3 x4 : Statement (.vfma x0 x1 x2 x3 x4) := part4.2.2.2.2.1 x0 x1 x2 x3 x4
theorem vfms x0 x1 x2 x3 x4 : Statement (.vfms x0 x1 x2 x3 x4) := part4.2.2.2.2.2.1 x0 x1 x2 x3 x4
theorem vmax x0 x1 x2 x3 x4 : Statement (.vmax x0 x1 x2 x3 x4) := part4.2.2.2.2.2.2.1 x0 x1 x2 x3 x4
theorem vmin x0 x1 x2 x3 x4 : Statement (.vmin x0 x1 x2 x3 x4) := part4.2.2.2.2.2.2.2.1 x0 x1 x2 x3 x4
theorem vand x0 x1 x2 x3 : Statement (.vand x0 x1 x2 x3) := part4.2.2.2.2.2.2.2.2.1 x0 x1 x2 x3
theorem vor x0 x1 x2 x3 : Statement (.vor x0 x1 x2 x3) := part4.2.2.2.2.2.2.2.2.2.1 x0 x1 x2 x3
theorem vxor x0 x1 x2 x3 : Statement (.vxor x0 x1 x2 x3) := part4.2.2.2.2.2.2.2.2.2.2.1 x0 x1 x2 x3
theorem vshl x0 x1 x2 x3 : Statement (.vshl x0 x1 x2 x3) := part4.2.2.2.2.2.2.2.2.2.2.2.1 x0 x1 x2 x3
theorem vshr x0 x1 x2 x3 : Statement (.vshr x0 x1 x2 x3) := part4.2.2.2.2.2.2.2.2.2.2.2.2.1 x0 x1 x2 x3
theorem vsar x0 x1 x2 x3 : Statement (.vsar x0 x1 x2 x3) := part4.2.2.2.2.2.2.2.2.2.2.2.2.2 x0 x1 x2 x3
theorem vcmp x0 x1 x2 x3 x4 x5 : Statement (.vcmp x0 x1 x2 x3 x4 x5) := part5.1 x0 x1 x2 x3 x4 x5
theorem vsel x0 x1 x2 x3 x4 : Statement (.vsel x0 x1 x2 x3 x4) := part5.2.1 x0 x1 x2 x3 x4
theorem vshf x0 x1 x2 x3 x4 : Statement (.vshf x0 x1 x2 x3 x4) := part5.2.2.1 x0 x1 x2 x3 x4
theorem vrotl x0 x1 x2 x3 x4 : Statement (.vrotl x0 x1 x2 x3 x4) := part5.2.2.2.1 x0 x1 x2 x3 x4
theorem vmov x0 x1 x2 x3 : Statement (.vmov x0 x1 x2 x3) := part5.2.2.2.2.1 x0 x1 x2 x3
theorem vabs x0 x1 x2 x3 : Statement (.vabs x0 x1 x2 x3) := part5.2.2.2.2.2.1 x0 x1 x2 x3
theorem vneg x0 x1 x2 x3 : Statement (.vneg x0 x1 x2 x3) := part5.2.2.2.2.2.2.1 x0 x1 x2 x3
theorem viota x0 x1 x2 : Statement (.viota x0 x1 x2) := part5.2.2.2.2.2.2.2.1 x0 x1 x2
theorem vclr x0 x1 : Statement (.vclr x0 x1) := part5.2.2.2.2.2.2.2.2.1 x0 x1
theorem vbc x0 x1 x2 x3 : Statement (.vbc x0 x1 x2 x3) := part5.2.2.2.2.2.2.2.2.2.1 x0 x1 x2 x3
theorem vxt x0 x1 x2 x3 x4 : Statement (.vxt x0 x1 x2 x3 x4) := part5.2.2.2.2.2.2.2.2.2.2.1 x0 x1 x2 x3 x4
theorem vins x0 x1 x2 x3 x4 : Statement (.vins x0 x1 x2 x3 x4) := part5.2.2.2.2.2.2.2.2.2.2.2.1 x0 x1 x2 x3 x4
theorem vredSum x0 x1 x2 x3 : Statement (.vredSum x0 x1 x2 x3) := part5.2.2.2.2.2.2.2.2.2.2.2.2.1 x0 x1 x2 x3
theorem vredMax x0 x1 x2 x3 : Statement (.vredMax x0 x1 x2 x3) := part5.2.2.2.2.2.2.2.2.2.2.2.2.2 x0 x1 x2 x3
theorem vredMin x0 x1 x2 x3 : Statement (.vredMin x0 x1 x2 x3) := part6.1 x0 x1 x2 x3
theorem vcvt x0 x1 x2 x3 x4 : Statement (.vcvt x0 x1 x2 x3 x4) := part6.2.1 x0 x1 x2 x3 x4
theorem cmptv x0 x1 x2 x3 : Statement (.cmptv x0 x1 x2 x3) := part6.2.2.1 x0 x1 x2 x3
theorem vexp2 x0 x1 x2 x3 : Statement (.vexp2 x0 x1 x2 x3) := part6.2.2.2.1 x0 x1 x2 x3
theorem vlog2 x0 x1 x2 x3 : Statement (.vlog2 x0 x1 x2 x3) := part6.2.2.2.2.1 x0 x1 x2 x3
theorem vrcp x0 x1 x2 x3 : Statement (.vrcp x0 x1 x2 x3) := part6.2.2.2.2.2.1 x0 x1 x2 x3
theorem vrsq x0 x1 x2 x3 : Statement (.vrsq x0 x1 x2 x3) := part6.2.2.2.2.2.2.1 x0 x1 x2 x3
theorem vsin x0 x1 x2 x3 : Statement (.vsin x0 x1 x2 x3) := part6.2.2.2.2.2.2.2.1 x0 x1 x2 x3
theorem vtanh x0 x1 x2 x3 : Statement (.vtanh x0 x1 x2 x3) := part6.2.2.2.2.2.2.2.2.1 x0 x1 x2 x3
theorem vunpk x0 x1 x2 x3 x4 x5 : Statement (.vunpk x0 x1 x2 x3 x4 x5) := part6.2.2.2.2.2.2.2.2.2.1 x0 x1 x2 x3 x4 x5
theorem vpack x0 x1 x2 x3 x4 x5 : Statement (.vpack x0 x1 x2 x3 x4 x5) := part6.2.2.2.2.2.2.2.2.2.2.1 x0 x1 x2 x3 x4 x5
theorem vbscl x0 x1 x2 x3 x4 : Statement (.vbscl x0 x1 x2 x3 x4) := part6.2.2.2.2.2.2.2.2.2.2.2.1 x0 x1 x2 x3 x4
theorem vld x0 x1 x2 x3 : Statement (.vld x0 x1 x2 x3) := part6.2.2.2.2.2.2.2.2.2.2.2.2.1 x0 x1 x2 x3
theorem vst x0 x1 x2 x3 : Statement (.vst x0 x1 x2 x3) := part6.2.2.2.2.2.2.2.2.2.2.2.2.2 x0 x1 x2 x3
theorem vlds x0 x1 x2 x3 : Statement (.vlds x0 x1 x2 x3) := part7.1 x0 x1 x2 x3
theorem vsts x0 x1 x2 x3 : Statement (.vsts x0 x1 x2 x3) := part7.2.1 x0 x1 x2 x3
theorem sadd x0 x1 x2 x3 x4 : Statement (.sadd x0 x1 x2 x3 x4) := part7.2.2.1 x0 x1 x2 x3 x4
theorem ssub x0 x1 x2 x3 x4 : Statement (.ssub x0 x1 x2 x3 x4) := part7.2.2.2.1 x0 x1 x2 x3 x4
theorem smul x0 x1 x2 x3 x4 : Statement (.smul x0 x1 x2 x3 x4) := part7.2.2.2.2.1 x0 x1 x2 x3 x4
theorem sdiv x0 x1 x2 x3 x4 : Statement (.sdiv x0 x1 x2 x3 x4) := part7.2.2.2.2.2.1 x0 x1 x2 x3 x4
theorem suni x0 x1 x2 x3 x4 : Statement (.suni x0 x1 x2 x3 x4) := part7.2.2.2.2.2.2.1 x0 x1 x2 x3 x4
theorem sint x0 x1 x2 x3 x4 : Statement (.sint x0 x1 x2 x3 x4) := part7.2.2.2.2.2.2.2.1 x0 x1 x2 x3 x4
theorem scmp x0 x1 x2 x3 x4 : Statement (.scmp x0 x1 x2 x3 x4) := part7.2.2.2.2.2.2.2.2.1 x0 x1 x2 x3 x4
theorem sneg x0 x1 x2 x3 : Statement (.sneg x0 x1 x2 x3) := part7.2.2.2.2.2.2.2.2.2.1 x0 x1 x2 x3
theorem sfrom x0 x1 x2 x3 : Statement (.sfrom x0 x1 x2 x3) := part7.2.2.2.2.2.2.2.2.2.2.1 x0 x1 x2 x3
theorem sbnd x0 x1 x2 x3 : Statement (.sbnd x0 x1 x2 x3) := part7.2.2.2.2.2.2.2.2.2.2.2.1 x0 x1 x2 x3
theorem sarc x0 x1 x2 x3 : Statement (.sarc x0 x1 x2 x3) := part7.2.2.2.2.2.2.2.2.2.2.2.2.1 x0 x1 x2 x3
theorem smsk x0 x1 x2 x3 : Statement (.smsk x0 x1 x2 x3) := part7.2.2.2.2.2.2.2.2.2.2.2.2.2 x0 x1 x2 x3
theorem sred x0 x1 x2 x3 : Statement (.sred x0 x1 x2 x3) := part8.1 x0 x1 x2 x3
theorem spld x0 x1 x2 x3 x4 : Statement (.spld x0 x1 x2 x3 x4) := part8.2.1 x0 x1 x2 x3 x4
theorem spst x0 x1 x2 x3 x4 : Statement (.spst x0 x1 x2 x3 x4) := part8.2.2.1 x0 x1 x2 x3 x4
theorem ld x0 x1 x2 x3 x4 : Statement (.ld x0 x1 x2 x3 x4) := part8.2.2.2.1 x0 x1 x2 x3 x4
theorem lds x0 x1 x2 x3 x4 x5 : Statement (.lds x0 x1 x2 x3 x4 x5) := part8.2.2.2.2.1 x0 x1 x2 x3 x4 x5
theorem lda x0 x1 x2 x3 x4 x5 : Statement (.lda x0 x1 x2 x3 x4 x5) := part8.2.2.2.2.2.1 x0 x1 x2 x3 x4 x5
theorem pref x0 x1 x2 : Statement (.pref x0 x1 x2) := part8.2.2.2.2.2.2.1 x0 x1 x2
theorem st x0 x1 x2 x3 x4 : Statement (.st x0 x1 x2 x3 x4) := part8.2.2.2.2.2.2.2.1 x0 x1 x2 x3 x4
theorem sts x0 x1 x2 x3 x4 x5 : Statement (.sts x0 x1 x2 x3 x4 x5) := part8.2.2.2.2.2.2.2.2.1 x0 x1 x2 x3 x4 x5
theorem strl x0 x1 x2 x3 x4 x5 : Statement (.strl x0 x1 x2 x3 x4 x5) := part8.2.2.2.2.2.2.2.2.2.1 x0 x1 x2 x3 x4 x5
theorem amoAdd x0 x1 x2 x3 x4 : Statement (.amoAdd x0 x1 x2 x3 x4) := part8.2.2.2.2.2.2.2.2.2.2.1 x0 x1 x2 x3 x4
theorem amoAnd x0 x1 x2 x3 x4 : Statement (.amoAnd x0 x1 x2 x3 x4) := part8.2.2.2.2.2.2.2.2.2.2.2.1 x0 x1 x2 x3 x4
theorem amoOr x0 x1 x2 x3 x4 : Statement (.amoOr x0 x1 x2 x3 x4) := part8.2.2.2.2.2.2.2.2.2.2.2.2.1 x0 x1 x2 x3 x4
theorem amoXor x0 x1 x2 x3 x4 : Statement (.amoXor x0 x1 x2 x3 x4) := part8.2.2.2.2.2.2.2.2.2.2.2.2.2 x0 x1 x2 x3 x4
theorem amoMin x0 x1 x2 x3 x4 : Statement (.amoMin x0 x1 x2 x3 x4) := part9.1 x0 x1 x2 x3 x4
theorem amoMax x0 x1 x2 x3 x4 : Statement (.amoMax x0 x1 x2 x3 x4) := part9.2.1 x0 x1 x2 x3 x4
theorem amoSwap x0 x1 x2 x3 x4 : Statement (.amoSwap x0 x1 x2 x3 x4) := part9.2.2.1 x0 x1 x2 x3 x4
theorem cas x0 x1 x2 x3 x4 : Statement (.cas x0 x1 x2 x3 x4) := part9.2.2.2.1 x0 x1 x2 x3 x4
theorem fence x0 x1 : Statement (.fence x0 x1) := part9.2.2.2.2.1 x0 x1
theorem fenceAll x0 x1 : Statement (.fenceAll x0 x1) := part9.2.2.2.2.2.1 x0 x1
theorem waitaNe x0 x1 x2 x3 x4 : Statement (.waitaNe x0 x1 x2 x3 x4) := part9.2.2.2.2.2.2.1 x0 x1 x2 x3 x4
theorem waitaEq x0 x1 x2 x3 x4 : Statement (.waitaEq x0 x1 x2 x3 x4) := part9.2.2.2.2.2.2.2.1 x0 x1 x2 x3 x4
theorem hwait x0 x1 x2 : Statement (.hwait x0 x1 x2) := part9.2.2.2.2.2.2.2.2.1 x0 x1 x2
theorem hstat x0 x1 x2 : Statement (.hstat x0 x1 x2) := part9.2.2.2.2.2.2.2.2.2.1 x0 x1 x2
theorem hrel x0 x1 : Statement (.hrel x0 x1) := part9.2.2.2.2.2.2.2.2.2.2.1 x0 x1
theorem hset x0 x1 x2 x3 : Statement (.hset x0 x1 x2 x3) := part9.2.2.2.2.2.2.2.2.2.2.2.1 x0 x1 x2 x3
theorem hexp x0 x1 x2 x3 : Statement (.hexp x0 x1 x2 x3) := part9.2.2.2.2.2.2.2.2.2.2.2.2.1 x0 x1 x2 x3
theorem hswap x0 x1 : Statement (.hswap x0 x1) := part9.2.2.2.2.2.2.2.2.2.2.2.2.2 x0 x1
theorem bkrel x0 x1 : Statement (.bkrel x0 x1) := part10.1 x0 x1
theorem bkwait x0 x1 : Statement (.bkwait x0 x1) := part10.2.1 x0 x1
theorem barv x0 x1 x2 : Statement (.barv x0 x1 x2) := part10.2.2.1 x0 x1 x2
theorem barvInit x0 x1 x2 : Statement (.barvInit x0 x1 x2) := part10.2.2.2.1 x0 x1 x2
theorem bart x0 x1 x2 : Statement (.bart x0 x1 x2) := part10.2.2.2.2.1 x0 x1 x2
theorem barw x0 x1 : Statement (.barw x0 x1) := part10.2.2.2.2.2.1 x0 x1
theorem uien x0 x1 x2 : Statement (.uien x0 x1 x2) := part10.2.2.2.2.2.2.1 x0 x1 x2
theorem clvl x0 x1 x2 x3 : Statement (.clvl x0 x1 x2 x3) := part10.2.2.2.2.2.2.2.1 x0 x1 x2 x3
theorem cgo x0 x1 x2 x3 : Statement (.cgo x0 x1 x2 x3) := part10.2.2.2.2.2.2.2.2.1 x0 x1 x2 x3
theorem cgox x0 x1 x2 x3 : Statement (.cgox x0 x1 x2 x3) := part10.2.2.2.2.2.2.2.2.2.1 x0 x1 x2 x3
theorem cqry x0 x1 x2 x3 : Statement (.cqry x0 x1 x2 x3) := part10.2.2.2.2.2.2.2.2.2.2.1 x0 x1 x2 x3
theorem mxcall x0 x1 x2 x3 : Statement (.mxcall x0 x1 x2 x3) := part10.2.2.2.2.2.2.2.2.2.2.2.1 x0 x1 x2 x3
theorem mxp x0 x1 x2 : Statement (.mxp x0 x1 x2) := part10.2.2.2.2.2.2.2.2.2.2.2.2.1 x0 x1 x2
theorem mxpr x0 x1 x2 : Statement (.mxpr x0 x1 x2) := part10.2.2.2.2.2.2.2.2.2.2.2.2.2 x0 x1 x2
theorem mxldu x0 x1 x2 : Statement (.mxldu x0 x1 x2) := part11.1 x0 x1 x2
theorem mxrt x0 x1 x2 : Statement (.mxrt x0 x1 x2) := part11.2.1 x0 x1 x2
theorem mxstat x0 x1 x2 : Statement (.mxstat x0 x1 x2) := part11.2.2.1 x0 x1 x2
theorem shand x0 x1 x2 : Statement (.shand x0 x1 x2) := part11.2.2.2.1 x0 x1 x2
theorem sown x0 x1 x2 : Statement (.sown x0 x1 x2) := part11.2.2.2.2.1 x0 x1 x2
theorem genr x0 x1 : Statement (.genr x0 x1) := part11.2.2.2.2.2.1 x0 x1
theorem tenend x0 x1 x2 : Statement (.tenend x0 x1 x2) := part11.2.2.2.2.2.2.1 x0 x1 x2
theorem genprobe x0 x1 x2 x3 : Statement (.genprobe x0 x1 x2 x3) := part11.2.2.2.2.2.2.2.1 x0 x1 x2 x3
theorem tidx x0 x1 : Statement (.tidx x0 x1) := part11.2.2.2.2.2.2.2.2.1 x0 x1
theorem tnext x0 x1 : Statement (.tnext x0 x1) := part11.2.2.2.2.2.2.2.2.2.1 x0 x1
theorem suspend x0 x1 x2 : Statement (.suspend x0 x1 x2) := part11.2.2.2.2.2.2.2.2.2.2.1 x0 x1 x2
theorem endTask x0 : Statement (.endTask x0) := part11.2.2.2.2.2.2.2.2.2.2.2.1 x0
theorem linkq x0 x1 x2 : Statement (.linkq x0 x1 x2) := part11.2.2.2.2.2.2.2.2.2.2.2.2.1 x0 x1 x2
theorem ringld x0 x1 x2 : Statement (.ringld x0 x1 x2) := part11.2.2.2.2.2.2.2.2.2.2.2.2.2 x0 x1 x2
theorem vdot x0 x1 x2 x3 x4 : Statement (.vdot x0 x1 x2 x3 x4) := part12.1 x0 x1 x2 x3 x4
theorem vabd x0 x1 x2 x3 x4 : Statement (.vabd x0 x1 x2 x3 x4) := part12.2.1 x0 x1 x2 x3 x4
theorem vclmp x0 x1 x2 x3 x4 : Statement (.vclmp x0 x1 x2 x3 x4) := part12.2.2.1 x0 x1 x2 x3 x4
theorem vcvth x0 x1 x2 x3 x4 : Statement (.vcvth x0 x1 x2 x3 x4) := part12.2.2.2.1 x0 x1 x2 x3 x4
theorem vscl x0 x1 x2 x3 : Statement (.vscl x0 x1 x2 x3) := part12.2.2.2.2 x0 x1 x2 x3
theorem zero x0 x1 : Statement (.zero x0 x1) := fun h => absurd h (Nat.lt_irrefl 64)
theorem mma x0 x1 x2 x3 x4 x5 x6 x7 x8 x9 : Statement (.mma x0 x1 x2 x3 x4 x5 x6 x7 x8 x9) := fun h => absurd h (Nat.lt_irrefl 64)
theorem unf x0 x1 : Statement (.unf x0 x1) := fun h => absurd h (Nat.lt_irrefl 64)
theorem drain x0 x1 x2 x3 : Statement (.drain x0 x1 x2 x3) := fun h => absurd h (Nat.lt_irrefl 64)
theorem adv x0 x1 x2 x3 : Statement (.adv x0 x1 x2 x3) := fun h => absurd h (Nat.lt_irrefl 64)
theorem mxLoop x0 : Statement (.mxLoop x0) := fun h => absurd h (Nat.lt_irrefl 64)
theorem endl : Statement (.endl) := fun h => absurd h (Nat.lt_irrefl 64)
theorem waith x0 : Statement (.waith x0) := fun h => absurd h (Nat.lt_irrefl 64)
theorem mxEnd : Statement (.mxEnd) := fun h => absurd h (Nat.lt_irrefl 64)
theorem callStart x0 : Statement (.callStart x0) := fun h => absurd h (Nat.lt_irrefl 64)
theorem statusPost x0 x1 : Statement (.statusPost x0 x1) := fun h => absurd h (Nat.lt_irrefl 64)
theorem landing x0 : Statement (.landing x0) := fun h => absurd h (Nat.lt_irrefl 64)
theorem resultArrive x0 x1 : Statement (.resultArrive x0 x1) := fun h => absurd h (Nat.lt_irrefl 64)
theorem trapEntry x0 : Statement (.trapEntry x0) := fun h => absurd h (Nat.lt_irrefl 64)
theorem userLevelInterrupt x0 : Statement (.userLevelInterrupt x0) := fun h => absurd h (Nat.lt_irrefl 64)
theorem walkComplete x0 x1 x2 x3 : Statement (.walkComplete x0 x1 x2 x3) := fun h => absurd h (Nat.lt_irrefl 64)
theorem sbDrain x0 x1 : Statement (.sbDrain x0 x1) := fun h => absurd h (Nat.lt_irrefl 64)
theorem send x0 x1 : Statement (.send x0 x1) := fun h => absurd h (Nat.lt_irrefl 64)
theorem hop x0 x1 : Statement (.hop x0 x1) := fun h => absurd h (Nat.lt_irrefl 64)
theorem apply x0 x1 : Statement (.apply x0 x1) := fun h => absurd h (Nat.lt_irrefl 64)
theorem serve x0 x1 x2 : Statement (.serve x0 x1 x2) := fun h => absurd h (Nat.lt_irrefl 64)
theorem fill x0 x1 : Statement (.fill x0 x1) := fun h => absurd h (Nat.lt_irrefl 64)
theorem evict x0 x1 : Statement (.evict x0 x1) := fun h => absurd h (Nat.lt_irrefl 64)
theorem waitaReread x0 : Statement (.waitaReread x0) := fun h => absurd h (Nat.lt_irrefl 64)
theorem copyLineTransfer x0 x1 x2 : Statement (.copyLineTransfer x0 x1 x2) := fun h => absurd h (Nat.lt_irrefl 64)
theorem remotePost x0 x1 : Statement (.remotePost x0 x1) := fun h => absurd h (Nat.lt_irrefl 64)
theorem preloadStart x0 x1 : Statement (.preloadStart x0 x1) := fun h => absurd h (Nat.lt_irrefl 64)
theorem taskStart x0 : Statement (.taskStart x0) := fun h => absurd h (Nat.lt_irrefl 64)
theorem brickReady x0 x1 : Statement (.brickReady x0 x1) := fun h => absurd h (Nat.lt_irrefl 64)
theorem brickResume x0 : Statement (.brickResume x0) := fun h => absurd h (Nat.lt_irrefl 64)
theorem taskComplete x0 : Statement (.taskComplete x0) := fun h => absurd h (Nat.lt_irrefl 64)
theorem chunkMark x0 x1 : Statement (.chunkMark x0 x1) := fun h => absurd h (Nat.lt_irrefl 64)
theorem chunkClaim x0 : Statement (.chunkClaim x0) := fun h => absurd h (Nat.lt_irrefl 64)
theorem launchComplete x0 x1 : Statement (.launchComplete x0 x1) := fun h => absurd h (Nat.lt_irrefl 64)
theorem quorumDecision x0 : Statement (.quorumDecision x0) := fun h => absurd h (Nat.lt_irrefl 64)
theorem reconfiguration x0 : Statement (.reconfiguration x0) := fun h => absurd h (Nat.lt_irrefl 64)
theorem tailRead x0 x1 : Statement (.tailRead x0 x1) := fun h => absurd h (Nat.lt_irrefl 64)
theorem launch x0 x1 : Statement (.launch x0 x1) := fun h => absurd h (Nat.lt_irrefl 64)
theorem launchi x0 x1 x2 : Statement (.launchi x0 x1 x2) := fun h => absurd h (Nat.lt_irrefl 64)
theorem loopPacket x0 x1 : Statement (.loopPacket x0 x1) := fun h => absurd h (Nat.lt_irrefl 64)
theorem endloop : Statement (.endloop) := fun h => absurd h (Nat.lt_irrefl 64)
theorem ifeq x0 x1 x2 : Statement (.ifeq x0 x1 x2) := fun h => absurd h (Nat.lt_irrefl 64)
theorem ifne x0 x1 x2 : Statement (.ifne x0 x1 x2) := fun h => absurd h (Nat.lt_irrefl 64)
theorem endif : Statement (.endif) := fun h => absurd h (Nat.lt_irrefl 64)
theorem waitmem x0 x1 x2 x3 : Statement (.waitmem x0 x1 x2 x3) := fun h => absurd h (Nat.lt_irrefl 64)
theorem writemem x0 x1 x2 x3 : Statement (.writemem x0 x1 x2 x3) := fun h => absurd h (Nat.lt_irrefl 64)
theorem signal x0 x1 x2 : Statement (.signal x0 x1 x2) := fun h => absurd h (Nat.lt_irrefl 64)
theorem fencePacket x0 : Statement (.fencePacket x0) := fun h => absurd h (Nat.lt_irrefl 64)
theorem handover x0 x1 x2 x3 x4 x5 x6 : Statement (.handover x0 x1 x2 x3 x4 x5 x6) := fun h => absurd h (Nat.lt_irrefl 64)
theorem calls x0 x1 : Statement (.calls x0 x1) := fun h => absurd h (Nat.lt_irrefl 64)
theorem rets : Statement (.rets) := fun h => absurd h (Nat.lt_irrefl 64)
theorem tenendPacket x0 x1 x2 : Statement (.tenendPacket x0 x1 x2) := fun h => absurd h (Nat.lt_irrefl 64)
theorem handoverSwitch x0 : Statement (.handoverSwitch x0) := fun h => absurd h (Nat.lt_irrefl 64)
theorem ownerMirrorUpdate x0 x1 : Statement (.ownerMirrorUpdate x0 x1) := fun h => absurd h (Nat.lt_irrefl 64)
theorem tenendSwitch x0 x1 : Statement (.tenendSwitch x0 x1) := fun h => absurd h (Nat.lt_irrefl 64)
theorem tenendRecord x0 : Statement (.tenendRecord x0) := fun h => absurd h (Nat.lt_irrefl 64)
theorem generationGrant : Statement (.generationGrant) := fun h => absurd h (Nat.lt_irrefl 64)
theorem assayRewrite x0 x1 x2 x3 : Statement (.assayRewrite x0 x1 x2 x3) := fun h => absurd h (Nat.lt_irrefl 64)
theorem assayPassComplete : Statement (.assayPassComplete) := fun h => absurd h (Nat.lt_irrefl 64)
theorem softRequest x0 : Statement (.softRequest x0) := fun h => absurd h (Nat.lt_irrefl 64)
theorem hardRequest x0 : Statement (.hardRequest x0) := fun h => absurd h (Nat.lt_irrefl 64)
theorem killRequest x0 : Statement (.killRequest x0) := fun h => absurd h (Nat.lt_irrefl 64)
theorem graceExpiry x0 : Statement (.graceExpiry x0) := fun h => absurd h (Nat.lt_irrefl 64)
theorem contextSave x0 : Statement (.contextSave x0) := fun h => absurd h (Nat.lt_irrefl 64)
theorem killExpiry x0 : Statement (.killExpiry x0) := fun h => absurd h (Nat.lt_irrefl 64)
theorem contextRestore x0 : Statement (.contextRestore x0) := fun h => absurd h (Nat.lt_irrefl 64)
theorem functionLevelReset x0 : Statement (.functionLevelReset x0) := fun h => absurd h (Nat.lt_irrefl 64)
theorem flrDrainEnd x0 : Statement (.flrDrainEnd x0) := fun h => absurd h (Nat.lt_irrefl 64)
theorem cpReset x0 : Statement (.cpReset x0) := fun h => absurd h (Nat.lt_irrefl 64)
theorem ioFunctionRelease x0 : Statement (.ioFunctionRelease x0) := fun h => absurd h (Nat.lt_irrefl 64)
theorem throttleLevelChange x0 x1 x2 : Statement (.throttleLevelChange x0 x1 x2) := fun h => absurd h (Nat.lt_irrefl 64)
theorem slotTableWrite x0 x1 x2 : Statement (.slotTableWrite x0 x1 x2) := fun h => absurd h (Nat.lt_irrefl 64)
theorem slotTableTakeEffect x0 : Statement (.slotTableTakeEffect x0) := fun h => absurd h (Nat.lt_irrefl 64)
theorem queueDescriptorWrite x0 x1 x2 : Statement (.queueDescriptorWrite x0 x1 x2) := fun h => absurd h (Nat.lt_irrefl 64)
theorem translationRecordWrite x0 x1 x2 x3 : Statement (.translationRecordWrite x0 x1 x2 x3) := fun h => absurd h (Nat.lt_irrefl 64)
theorem ownerRightWrite x0 x1 x2 : Statement (.ownerRightWrite x0 x1 x2) := fun h => absurd h (Nat.lt_irrefl 64)
theorem cacheSlicesChange x0 x1 : Statement (.cacheSlicesChange x0 x1) := fun h => absurd h (Nat.lt_irrefl 64)
theorem tenancyOpen x0 : Statement (.tenancyOpen x0) := fun h => absurd h (Nat.lt_irrefl 64)
theorem flowRegister x0 x1 x2 : Statement (.flowRegister x0 x1 x2) := fun h => absurd h (Nat.lt_irrefl 64)
theorem hdmMapWrite x0 x1 x2 : Statement (.hdmMapWrite x0 x1 x2) := fun h => absurd h (Nat.lt_irrefl 64)
theorem invalidationRequest x0 x1 x2 x3 x4 : Statement (.invalidationRequest x0 x1 x2 x3 x4) := fun h => absurd h (Nat.lt_irrefl 64)
theorem invalidationComplete x0 x1 : Statement (.invalidationComplete x0 x1) := fun h => absurd h (Nat.lt_irrefl 64)
theorem linkEnable x0 : Statement (.linkEnable x0) := fun h => absurd h (Nat.lt_irrefl 64)
theorem platformRegisterWrite x0 x1 : Statement (.platformRegisterWrite x0 x1) := fun h => absurd h (Nat.lt_irrefl 64)
theorem flitTransmit x0 x1 x2 x3 x4 x5 x6 x7 : Statement (.flitTransmit x0 x1 x2 x3 x4 x5 x6 x7) := fun h => absurd h (Nat.lt_irrefl 64)
theorem flitReceive x0 x1 : Statement (.flitReceive x0 x1) := fun h => absurd h (Nat.lt_irrefl 64)
theorem nakReplay x0 x1 : Statement (.nakReplay x0 x1) := fun h => absurd h (Nat.lt_irrefl 64)
theorem retrain x0 : Statement (.retrain x0) := fun h => absurd h (Nat.lt_irrefl 64)
theorem retrainComplete x0 x1 : Statement (.retrainComplete x0 x1) := fun h => absurd h (Nat.lt_irrefl 64)
theorem linkDown x0 : Statement (.linkDown x0) := fun h => absurd h (Nat.lt_irrefl 64)
theorem downNotice x0 x1 : Statement (.downNotice x0 x1) := fun h => absurd h (Nat.lt_irrefl 64)
theorem commandFrame x0 x1 x2 x3 x4 x5 x6 x7 : Statement (.commandFrame x0 x1 x2 x3 x4 x5 x6 x7) := fun h => absurd h (Nat.lt_irrefl 64)
theorem hostRequest x0 x1 x2 x3 x4 : Statement (.hostRequest x0 x1 x2 x3 x4) := fun h => absurd h (Nat.lt_irrefl 64)
theorem empinRequest x0 x1 x2 x3 x4 x5 : Statement (.empinRequest x0 x1 x2 x3 x4 x5) := fun h => absurd h (Nat.lt_irrefl 64)
theorem moduleReset x0 : Statement (.moduleReset x0) := fun h => absurd h (Nat.lt_irrefl 64)
theorem dieRelease x0 x1 x2 : Statement (.dieRelease x0 x1 x2) := fun h => absurd h (Nat.lt_irrefl 64)
theorem getVersion : Statement (.getVersion) := fun h => absurd h (Nat.lt_irrefl 64)
theorem getCapabilities : Statement (.getCapabilities) := fun h => absurd h (Nat.lt_irrefl 64)
theorem negotiateAlgorithms : Statement (.negotiateAlgorithms) := fun h => absurd h (Nat.lt_irrefl 64)
theorem getDigests : Statement (.getDigests) := fun h => absurd h (Nat.lt_irrefl 64)
theorem getCertificate x0 x1 : Statement (.getCertificate x0 x1) := fun h => absurd h (Nat.lt_irrefl 64)
theorem challenge x0 : Statement (.challenge x0) := fun h => absurd h (Nat.lt_irrefl 64)
theorem getMeasurements x0 : Statement (.getMeasurements x0) := fun h => absurd h (Nat.lt_irrefl 64)
theorem unsupportedRequest : Statement (.unsupportedRequest) := fun h => absurd h (Nat.lt_irrefl 64)
theorem applicationCoreAccess x0 x1 x2 x3 : Statement (.applicationCoreAccess x0 x1 x2 x3) := fun h => absurd h (Nat.lt_irrefl 64)
theorem linkMirrorUpdate x0 x1 : Statement (.linkMirrorUpdate x0 x1) := fun h => absurd h (Nat.lt_irrefl 64)
theorem waitmemReread x0 x1 : Statement (.waitmemReread x0 x1) := fun h => absurd h (Nat.lt_irrefl 64)
theorem tlbReplacement x0 x1 x2 : Statement (.tlbReplacement x0 x1 x2) := fun h => absurd h (Nat.lt_irrefl 64)
theorem reservedMicroOp : Statement (.reservedMicroOp) := fun h => absurd h (Nat.lt_irrefl 64)
theorem followerLaunch x0 x1 : Statement (.followerLaunch x0 x1) := fun h => absurd h (Nat.lt_irrefl 64)

end Sys2Proof.Laws.WordFields
end

