-- ==== Sys2Proof/Machine/Assembler.lean ====
section
/-! DEFINITION. From source to words (spec 02 R39-R44, spec 19 R443): values of expressions, one line's bundle, data and
padding. Names, labels and the spelling of a line (R38, R42) are text and have no place here. -/
namespace Sys2Proof.Machine

/-! ### Expressions (R41) -/

/-- A binary operator of an expression. -/
inductive ExprOp where
  | add | sub | mul | div | shl | shr | and | or | xor
  deriving DecidableEq, Repr

/-- An expression on 64-bit two's complement integers. -/
inductive Expr where
  | lit (v : W64)
  | label (name : String)
  | neg (e : Expr)
  | not (e : Expr)
  | bin (op : ExprOp) (a b : Expr)
  deriving DecidableEq, Repr

/-- The value of an operator; none is an assembly error. -/
def ExprOp.eval (o : ExprOp) (a b : W64) : Option W64 :=
  match o with
  | .add => some (a + b)
  | .sub => some (a - b)
  | .mul => some (a * b)
  | .div => if b = 0 then none else some (a.sdiv b)
  | .shl => if b.toNat < 64 then some (a <<< b.toNat) else none
  | .shr => if b.toNat < 64 then some (a.sshiftRight b.toNat) else none
  | .and => some (a &&& b)
  | .or => some (a ||| b)
  | .xor => some (a ^^^ b)
/-- The value of an expression under the values of its labels. -/
def Expr.eval (env : String → Option W64) : Expr → Option W64
  | .lit v => some v
  | .label n => env n
  | .neg e => (e.eval env).map (fun v => -v)
  | .not e => (e.eval env).map (fun v => ~~~v)
  | .bin o a b => match a.eval env, b.eval env with
    | some x, some y => o.eval x y
    | _, _ => none
/-- A decimal p / q in a format: round to nearest even, an error past the largest finite value (R41). -/
def literalCode (f : FloatFmt) (neg : Bool) (p q : Nat) : Option Nat :=
  if q = 0 then none
  else
    let past := match f.decode f.maxCode with
      | .fin _ m e _ => decide (q * m * 2 ^ e.toNat < p * 2 ^ (-e).toNat)
      | _ => true
    if past then none else some (f.encode rne false (.fin neg (p * 2 ^ 256 / q) (-256) (p * 2 ^ 256 % q != 0))).1

/-! ### Operands (R31, R40, R44) -/

/-- The immediate field of a major: its lowest bit and its width; none where the major takes no expression. -/
def immField (m : Nat) : Option (Nat × Nat) :=
  if [0x06, 0x07, 0x08, 0x09, 0x0B, 0x0C].contains m then some (0, 11)
  else if m = 0x0D || m = 0x0E then some (0, 17)
  else if m = 0x11 || m = 0x12 then some (0, 20)
  else if m = 0x13 || m = 0x14 then some (0, 16)
  else if m = 0x2E then some (0, 8)
  else if [0x32, 0x33, 0x34].contains m then some (6, 5)
  else none
/-- Does a value fit a field of w bits, unsigned in MOVHI alone (R32)? -/
def fitsField (m w : Nat) (v : Int) : Bool :=
  if m = 0x0E then decide (0 ≤ v) && decide (v < 2 ^ w)
  else decide (-(2 ^ (w - 1) : Int) ≤ v) && decide (v < 2 ^ (w - 1))
/-- A byte value in units of a field: an error where it is no multiple (R40). -/
def inUnits (unit : Nat) (v : Int) : Option Int := if v % unit = 0 then some (v / unit) else none
/-- The offset of a branch from the bundle at pc to a target. -/
def branchOffset (pc target : W64) : Option Int := inUnits 16 (target - pc).toInt

/-! ### One line (R39) -/

/-- A written operation: its slot operation with a zero immediate field, its immediate in the field's units, and the mode
byte that its suffixes name. -/
structure WrittenOp where
  i : Instr
  imm : Int := 0
  mode : Byte := 0
  deriving DecidableEq, Repr

/-- Does the operation need an immediate beyond its narrow field? -/
def WrittenOp.needsExt (o : WrittenOp) : Bool :=
  match immField o.i.major with
  | none => false
  | some (_, w) => !fitsField o.i.major w o.imm
/-- The word and the extension byte of an operation, at the extended width where `wide`; none where it does not fit. -/
def WrittenOp.encode (o : WrittenOp) (wide : Bool) : Option (W32 × Byte) :=
  let m := o.i.major
  match immField m with
  | none => if o.imm = 0 then some (encodeSlot o.i, 0) else none
  | some (lo, w) =>
    let ext := wide && majorTakesImm m
    if !fitsField m (if ext then w + 8 else w) o.imm then none
    else some (encodeSlot o.i ||| (BitVec.ofInt 32 (o.imm % 2 ^ w) <<< lo), if ext then BitVec.ofInt 8 (o.imm / 2 ^ w) else 0)
/-- Is it a branch-class operation? -/
def isBranch (i : Instr) : Bool := decide (classOfMajor i.major = .br)
/-- A header word. -/
def headerWord (kind : Nat) (x1 x2 x3 : Byte) : W32 :=
  BitVec.ofNat 32 (0x3F * 2 ^ 26 + kind * 2 ^ 24 + x3.toNat * 2 ^ 16 + x2.toNat * 2 ^ 8 + x1.toNat)
/-- Put operations into slots: in the order written from the first free slot, a branch into S3 where it stands last;
none where they do not fit. -/
def placeOps {α : Type} (branch : α → Bool) (empty : α) (slots : Nat) (ops : List α) : Option (List α) :=
  let rest := ops.dropLast
  if slots < ops.length || rest.any branch then none
  else match ops.getLast? with
    | none => some (List.replicate slots empty)
    | some l =>
      if branch l then some (rest ++ List.replicate (slots - ops.length) empty ++ [l])
      else some (ops ++ List.replicate (slots - ops.length) empty)
/-- The bundle that the words form, where R35 finds no fault. -/
def legalWords (igpor : Bool) (ws : List W32) : Option (List W32) :=
  match decodeBundle igpor false (ws.getD 0 0) (ws.getD 1 0) (ws.getD 2 0) (ws.getD 3 0) with
  | .ok _ => some ws
  | .illegal .. => none
/-- The four words of a line; none where the assembler rejects it. -/
def assembleLine (ops : List WrittenOp) : Option (List W32) :=
  let wide := ops.any WrittenOp.needsExt
  let moded := ops.any (fun o => o.mode != 0)
  if wide && moded then none
  else match ops.mapM (fun o => (o.encode wide).map (fun e => (e.1, if moded then o.mode else e.2, isBranch o.i))) with
    | none => none
    | some es =>
      let slots := if wide || moded then 3 else 4
      match placeOps (fun e => e.2.2) (0#32, 0#8, false) slots es with
      | none => none
      | some ps =>
        let x := fun n => (ps.getD n (0#32, 0#8, false)).2.1
        legalWords false ((if wide || moded then [headerWord (if wide then 0 else 1) (x 0) (x 1) (x 2)] else []) ++ ps.map (·.1))
/-- The four words of an Igpor line: each operation with the byte that extends its registers, behind a kind-10 header in
every bundle (R443). -/
def assembleIgpor (ops : List (WrittenOp × Byte)) : Option (List W32) :=
  match ops.mapM (fun o => if o.1.mode != 0 then none else (o.1.encode false).map (fun e => (e.1, o.2, isBranch o.1.i))) with
  | none => none
  | some es =>
    match placeOps (fun e => e.2.2) (0#32, 0#8, false) 3 es with
    | none => none
    | some ps =>
      let x := fun n => (ps.getD n (0#32, 0#8, false)).2.1
      legalWords true (headerWord 2 (x 0) (x 1) (x 2) :: ps.map (·.1))

/-! ### Directives (R43) -/

/-- The little-endian bytes of one item; none where the value does not fit them, signed or unsigned. -/
def emitItem (n : Nat) (v : W64) : Option (List Byte) :=
  if n = 8 || decide (v.toNat < 2 ^ (8 * n)) || decide (-(2 ^ (8 * n - 1) : Int) ≤ v.toInt) && decide (v.toInt < 0) then
    some ((List.range n).map (fun i => v.extractLsb' (8 * i) 8))
  else none
/-- `.byte`, `.half`, `.word`, `.dword`. -/
def emitItems (n : Nat) (vs : List W64) : Option (List Byte) := (vs.mapM (emitItem n)).map List.flatten
/-- `.fill`. -/
def emitFill (count n : Nat) (v : W64) : Option (List Byte) :=
  if [1, 2, 4, 8].contains n then emitItems n (List.replicate count v) else none
/-- `.align`: zero bytes, which are NOP bundles in text. -/
def emitAlign (text : Bool) (n len : Nat) : Option (List Byte) :=
  if n ≠ 2 ^ Nat.log2 n || (text && n % 16 != 0) then none else some (List.replicate ((n - len % n) % n) 0)
/-- May these registers be the `.param` registers of a kernel (R43, R439)? -/
def paramsOk (igpor : Bool) (rs : List Nat) : Bool :=
  decide (rs.length ≤ 16) && decide rs.Nodup
    && rs.all (fun r => if igpor then decide (1 ≤ r) && decide (r ≤ 60) else decide (r < 64) && r != 0 && r != 62)

end Sys2Proof.Machine
end

