-- ==== Sys2Proof/Machine/Latency.lean ====
section
/-! DEFINITION. The latencies of revision H40A as one table: the latency of each operation (spec 03 R51, R53), the selector
of its word and the canonical latency table with its signature (spec 19 R432). -/
namespace Sys2Proof.Machine

/-- Does the operation write a register, s0 and p0 included? -/
def writesRegister (i : Instr) : Bool :=
  (i.writes .none 0).any (fun p => match p with
    | .scalar _ => true
    | .pred _ => true
    | .vec _ _ => true
    | .pvec _ => true
    | .flag _ => false
    | .spm _ _ _ => false)
/-- The operations of variable latency (R53). -/
def variableLatency : Instr → Bool
  | .ld .. => true
  | .lds .. => true
  | .lda .. => true
  | .amoAdd .. => true
  | .amoAnd .. => true
  | .amoOr .. => true
  | .amoXor .. => true
  | .amoMin .. => true
  | .amoMax .. => true
  | .amoSwap .. => true
  | .cas .. => true
  | .cqry .. => true
  | .mxstat .. => true
  | .hstat .. => true
  | .tnext .. => true
  | .linkq .. => true
  | .genprobe .. => true
  | _ => false
/-- The latency of a fixed-latency operation, by its major and operation (R51). -/
def fixedLatency (i : Instr) : Nat :=
  match i with
  | .mul .. => Config.latMUL
  | .mulh .. => Config.latMUL
  | .mulhu .. => Config.latMUL
  | .div .. => Config.latDIV
  | .divu .. => Config.latDIV
  | .rem .. => Config.latDIV
  | .remu .. => Config.latDIV
  | .vfma .. => Config.latFMA
  | .vfms .. => Config.latFMA
  | .vredSum .. => Config.latFMA
  | .vredMax .. => Config.latFMA
  | .vredMin .. => Config.latFMA
  | .sred .. => Config.latFMA
  | .spld .. => Config.latLS
  | .vld .. => Config.latLS
  | .vlds .. => Config.latLS
  | .vunpk .. => Config.latPK
  | .vpack .. => Config.latPK
  | .vbscl .. => Config.latPK
  | _ =>
    if i.major = 0x2A then Config.latSF
    else if (0x18 ≤ i.major && i.major ≤ 0x28) || (0x2F ≤ i.major && i.major ≤ 0x31) then Config.latVA
    else Config.latALU
/-- The byte that describes an operation: 0x80 for a variable latency, 0 where it writes no register, else its latency. -/
def latencyOf (i : Instr) : Byte :=
  if variableLatency i then 0x80 else if writesRegister i then BitVec.ofNat 8 (fixedLatency i) else 0

/-- The selector of a slot word: the field that R33 lists for its major, modulo 32, and zero where it lists none (R432). -/
def selectorOf (w : W32) : Nat :=
  let f := fun (lo n : Nat) => w.toNat / 2 ^ lo % 2 ^ n % 32
  let m := w.toNat / 2 ^ 26
  if m = 0x0A then f 6 2
  else if m = 0x0B || m = 0x0C then f 20 3
  else if m = 0x1F || m = 0x20 then f 0 2
  else if m = 0x21 || m = 0x2F || m = 0x30 then f 21 2
  else if m = 0x26 || m = 0x2E then f 8 2
  else if m = 0x25 || m = 0x27 || m = 0x28 || m = 0x2A || m = 0x2B || m = 0x2C || m = 0x31 then f 2 7
  else if m = 0x32 || m = 0x33 || m = 0x34 then f 0 2
  else if m = 0x35 || m = 0x36 then f 2 3
  else if m = 0x01 || m = 0x02 || m = 0x03 || m = 0x05 || m = 0x15 || (0x37 ≤ m && m ≤ 0x3B) then f 0 5
  else 0
/-- A word of each code whose selector is sel, its other fields zero: the field's values that equal sel modulo 32, with every
TYPE. -/
def codesAt (m sel : Nat) : List W32 :=
  let base := m * 2 ^ 26
  let at' := fun (lo : Nat) => [BitVec.ofNat 32 (base + sel * 2 ^ lo)]
  let fits := fun (n lo : Nat) => if sel < n then at' lo else []
  if m = 0x0A then fits 4 6
  else if m = 0x0B || m = 0x0C then fits 8 20
  else if m = 0x1F || m = 0x20 || m = 0x32 || m = 0x33 || m = 0x34 then fits 4 0
  else if m = 0x21 || m = 0x2F || m = 0x30 then fits 4 21
  else if m = 0x26 || m = 0x2E then fits 4 8
  else if m = 0x25 || m = 0x27 || m = 0x28 || m = 0x2A || m = 0x2B || m = 0x2C || m = 0x31 then
    (List.range 16).map (fun j => BitVec.ofNat 32 (base + (sel + 32 * (j / 4)) * 4 + j % 4))
  else if m = 0x35 || m = 0x36 then fits 8 2
  else if m = 0x01 || m = 0x02 || m = 0x03 || m = 0x05 || m = 0x15 || (0x37 ≤ m && m ≤ 0x3B) then at' 0
  else fits 1 0
/-- Byte 32 × major + sel of the table: that of an assigned native code that falls on it, 0 where none does. -/
def latencyByte (m sel : Nat) : Byte :=
  match (codesAt m sel).find? (fun w => decide ((decodeSlot false w).1 = 0)) with
  | none => 0
  | some w => latencyOf (decodeSlot false w).2
/-- The canonical latency table of the revision, 2,048 bytes. -/
def latencyTable : List Byte := (List.range 2048).map (fun k => latencyByte (k / 32) (k % 32))
/-- Its signature: what a native image of the revision carries in LSIG. -/
def revisionSignature : BitVec 256 := latencySignature latencyTable

end Sys2Proof.Machine
end

