-- ==== Sys2Proof/Machine/Forter.lean ====
section
/-! DEFINITION. The schedule that the translator Forter makes of an Igpor text (spec 19 R449-R453): operands, expansions,
placement, registers and rows, spills, and the address map. No step calls it; choices that the rules leave open are log
entry 92. -/
namespace Sys2Proof.Machine

/-! ### Register operands of an Igpor operation (R438, R439) -/

/-- The classes of Igpor registers. -/
inductive RegClass where
  | scalar | pred | vec
  deriving DecidableEq, Repr
/-- A physical register. -/
abbrev Reg := RegClass × Nat

/-- A register operand: its virtual number, its field in the slot word, and what the operation does with it; `keeps`: it may
leave the old value, so the new one stays in the same place. -/
structure RegUse where
  cls : RegClass
  n : Nat
  lo : Nat
  width : Nat
  reads : Bool := false
  writes : Bool := false
  keeps : Bool := false
  deriving DecidableEq, Repr

/-- Is the destination a source as well? -/
def readsDest : Instr → Bool
  | .bfi .. => true
  | .movhi .. => true
  | .cas .. => true
  | .vfma .. => true
  | .vfms .. => true
  | .vsel .. => true
  | .vins .. => true
  | .vpack .. => true
  | .vscl .. => true
  | .vclmp .. => true
  | _ => false
/-- The register that a position names: its class, number and field; none where the format names none there. A scalar has
two bits in its pair, a predicate one (R438). -/
def regAt (w : W32) (x : Byte) (mask : Nat) (pair lo : Nat) (vec : Option Nat) : Option RegUse :=
  let bits := mask / 2 ^ pair % 4
  let hi := x.toNat / 2 ^ pair % 4
  let f := fun n => w.toNat / 2 ^ lo % 2 ^ n
  if bits = 0 then none
  else match vec with
    | some n => some { cls := .vec, n := f n + 2 ^ n * hi, lo := lo, width := n }
    | none =>
      if bits = 3 then some { cls := .scalar, n := f 6 + 64 * hi, lo := lo, width := 6 }
      else some { cls := .pred, n := f 3 + 8 * hi, lo := lo, width := 3 }
/-- The place of a register operand among the places written. -/
def RegUse.place (u : RegUse) : Place :=
  match u.cls with
  | .scalar => .scalar u.n
  | .pred => .pred u.n
  | .vec => .pvec u.n
/-- The register operands of an operation, s0 and p0 apart: the guard, the three positions, SEL's predicate, and the
predicates that PGET reads. -/
def regUses (w : W32) (x : Byte) (i : Instr) : List RegUse :=
  let m := i.major
  let mask := i.extMask.toNat
  let vector := decide (0x17 ≤ m) && decide (m ≤ 0x31) || decide (0x3C ≤ m) && decide (m ≤ 0x3E)
  let mixed := m = 0x26 || m = 0x2E || m = 0x3E
  let narrow := m = 0x21 || m = 0x2F || m = 0x30 || m = 0x3C
  let ws := i.writes .portable x
  let guarded := w.toNat / 2 ^ 23 % 8 + x.toNat / 2 % 2 != 0
  let written := fun (u : RegUse) (first : Bool) =>
    let wr := ws.contains u.place
    { u with
      reads := !wr || (first && readsDest i), writes := wr
      keeps := wr && (guarded || readsDest i) }
  let first := if vector then regAt w x mask 6 16 (some (if narrow then 5 else 7)) else regAt w x mask 6 17 none
  let second := if mixed then regAt w x mask 4 10 none
    else if vector then regAt w x mask 4 9 (some 7) else regAt w x mask 4 11 none
  let third := if vector then regAt w x mask 2 2 (some 7) else regAt w x mask 2 5 none
  let source := fun (u : RegUse) => { u with reads := true }
  let guard : RegUse := { cls := .pred, n := w.toNat / 2 ^ 23 % 8 + 8 * (x.toNat / 2 % 2), lo := 23, width := 3, reads := true }
  let chosen : RegUse := { cls := .pred, n := w.toNat % 8 + 8 * (x.toNat % 2), lo := 0, width := 3, reads := true }
  let gathered : List RegUse := match i with
    | .pget .. => (List.range 8).map (fun n => { cls := .pred, n := n, lo := 0, width := 0, reads := true })
    | _ => []
  let uses : List RegUse := guard :: (first.map (fun u => written u true)).toList
    ++ (second.map (fun u => if m = 0x26 then written u false else source u)).toList ++ (third.map source).toList
    ++ (if mask % 2 = 1 then [chosen] else []) ++ gathered
  uses.filter (fun u => u.cls == .vec || u.n != 0)

/-! ### Templates (R444, R450) and spill code (R452) -/

/-- The steps of one copy of a virtual-only operation (R444, R450): vd holds the old destination, va and vb the sources, sa
the scalar, x the temporaries, and dst takes the copy's result: vd in copy 0, the check row in copy 1. -/
def template (i : Instr) (vd va vb dst : BitVec 7) (sa : BitVec 6) (x : Nat → BitVec 7) : List Instr :=
  match i with
  | .vdot p _ _ _ t =>
    [.vcvt p (x 0) va 0 t, .vcvt p (x 1) vb 0 t, .vrotl p (x 2) va 32 t, .vrotl p (x 3) vb 32 t,
     .vcvt p (x 4) (x 2) 0 t, .vcvt p (x 5) (x 3) 0 t, .vmul p (x 6) (x 0) (x 1) 0, .vfma p (x 6) (x 4) (x 5) 0,
     .vredSum p dst (x 6) 0]
  | .vabd p _ _ _ t => [.vsub p (x 0) va vb t, .vabs p dst (x 0) t]
  | .vclmp p _ _ _ t => [.vmax p (x 0) vd va t, .vmin p dst (x 0) vb t]
  | .vcvth p _ _ e t => [.vrotl p (x 0) va 32 t, .vcvt p dst (x 0) e t]
  | .vscl p _ _ t => [.vbc p (x 0) sa t, .vmul p dst vd (x 0) t]
  | _ => []
/-- The comparison of the copies, in the bundle of the first slot that reads vd; VDOT and VCVTH leave the type they
convert to. -/
def templateCheck (i : Instr) (vd check : BitVec 7) : Option Instr :=
  match i with
  | .vdot p .. => some (.cmptv p vd check 0)
  | .vabd p _ _ _ t => some (.cmptv p vd check t)
  | .vclmp p _ _ _ t => some (.cmptv p vd check t)
  | .vcvth p _ _ e _ => some (.cmptv p vd check e)
  | .vscl p _ _ t => some (.cmptv p vd check t)
  | _ => none
/-- Temporaries of one copy of a virtual-only operation (R444). -/
def temporaries : Instr → Nat
  | .vdot .. => 7
  | .vabd .. => 1
  | .vclmp .. => 1
  | .vcvth .. => 1
  | .vscl .. => 1
  | _ => 0
/-- The physical register of a virtual scalar that has its own (R451). -/
def ownScalar (n : Nat) : Option Nat := if n ≤ 60 || n = 62 || n = 63 then some n else none
/-- The lowest of the registers from lo to hi that is not busy (R451): scalars 1-60, predicates 1-7, rows 0 to B - 1. -/
def lowestFree (lo hi : Nat) (busy : Nat → Bool) : Option Nat := ((List.range (hi + 1)).drop lo).find? (fun n => !busy n)
/-- The value to spill among register and next read (R451, R452): the furthest next read, on a tie the lower register. -/
def victim (l : List (Nat × Nat)) : Option Nat :=
  (l.foldl (fun a v => match a with
    | none => some v
    | some b => if b.2 < v.2 || (b.2 == v.2 && decide (v.1 < b.1)) then some v else a) none).map (·.1)
/-- Spill and reload of a row at vector line k (R452): scratchpad line 3968 + k. -/
def spillRow (v : BitVec 7) (k : Nat) : WrittenOp := { i := .vst 0 v 0 0, imm := (k : Int) - 128 }
def reloadRow (v : BitVec 7) (k : Nat) : WrittenOp := { i := .vld 0 v 0 0, imm := (k : Int) - 128 }
/-- Spill and reload of a scalar at slot k. -/
def spillScalar (r : BitVec 6) (k : Nat) : WrittenOp := { i := .st 0 r 62 0 3, imm := k }
def reloadScalar (r : BitVec 6) (k : Nat) : WrittenOp := { i := .ld 0 r 62 0 3, imm := k }
/-- Spill of predicate n and reload into predicate m at slot k, through s61. -/
def spillPred (n : BitVec 3) (k : Nat) : List WrittenOp :=
  [{ i := .pget 0 61 }, { i := .shri 0 61 61 (n.setWidth 6) }, { i := .andi 0 61 61 0, imm := 1 }, spillScalar 61 k]
def reloadPred (m : BitVec 3) (k : Nat) : List WrittenOp := [reloadScalar 61 k, { i := .pset 0 m 61 }]

/-! ### The operations to place -/

/-- A value of a virtual register: the register and the write that made it, 0 at entry. Numbers from 256 name temporaries
and check rows, which are never spilled. -/
structure Value where
  cls : RegClass
  n : Nat
  id : Nat := 0
  deriving DecidableEq, Repr
/-- The physical register that a value has as its own (R451). -/
def Value.own (v : Value) : Option Nat :=
  match v.cls with
  | .scalar => ownScalar v.n
  | .pred => if v.n ≤ 7 then some v.n else none
  | .vec => none

/-- A field of an operation that still waits for its register: the value read, the value written in its place, and the
value made. -/
structure OpenUse where
  lo : Nat
  width : Nat
  src : Option Value := none
  old : Option Value := none
  dst : Option Value := none
  deriving DecidableEq, Repr
/-- An operation whose register fields are open. -/
structure OpenOp where
  w : W32
  uses : List OpenUse
  deriving DecidableEq, Repr
/-- Operations of Igpor bundle src that stand in one vc. -/
structure OpGroup where
  src : Nat
  ops : List OpenOp
  deriving DecidableEq, Repr

/-- The values that an operation needs, and those that it makes. -/
def OpenOp.reads (o : OpenOp) : List Value := o.uses.flatMap (fun u => u.src.toList ++ u.old.toList)
def OpenOp.defs (o : OpenOp) : List Value := o.uses.filterMap (·.dst)
def OpGroup.reads (g : OpGroup) : List Value := g.ops.flatMap OpenOp.reads
def OpGroup.defs (g : OpGroup) : List Value := g.ops.flatMap OpenOp.defs

/-- A word with n in a field. -/
def setField (w : W32) (lo width n : Nat) : W32 :=
  w - BitVec.ofNat 32 (w.toNat / 2 ^ lo % 2 ^ width * 2 ^ lo) + BitVec.ofNat 32 (n % 2 ^ width * 2 ^ lo)
/-- The operation of a word as its source line writes it. -/
def writtenOf (w : W32) : WrittenOp :=
  let i := (decodeSlot false w).2
  match immField i.major with
  | none => { i := i }
  | some (lo, n) =>
    let v := w.toNat / 2 ^ lo % 2 ^ n
    { i := (decodeSlot false (setField w lo n 0)).2
      imm := if v < 2 ^ (n - 1) || i.major = 0x0E then (v : Int) else (v : Int) - 2 ^ n }

/-- The value that each virtual register holds, by the write that made it. -/
abbrev Names := List ((RegClass × Nat) × Nat)
/-- The value of a register; none where nothing has written a register that has no physical one of its own. -/
def Names.value (ns : Names) (cls : RegClass) (n : Nat) : Option Value :=
  match ns.find? (fun p => p.1 == (cls, n)) with
  | some p => some ⟨cls, n, p.2⟩
  | none => if (Value.own ⟨cls, n, 0⟩).isSome then some ⟨cls, n, 0⟩ else none
/-- Open a register operand; a write makes value id. -/
def openUse (ns : Names) (id : Nat) (u : RegUse) : Option OpenUse :=
  let v := ns.value u.cls u.n
  if (u.reads || u.keeps) && v.isNone then none
  else some {
    lo := u.lo, width := u.width
    src := if u.reads then v else none
    old := if u.keeps then v else none
    dst := if u.writes && !u.keeps then some ⟨u.cls, u.n, id⟩ else none }
/-- Open an operation. -/
def openOp (ns : Names) (id : Nat) (w : W32) (x : Byte) (i : Instr) : Option OpenOp :=
  let us := regUses w x i
  (us.mapM (openUse ns id)).map (fun os => ⟨us.foldl (fun w u => setField w u.lo u.width 0) w, os⟩)

/-- What an operation does at the end of its bundle that no latency shows: 0 a scratchpad store, 1 a CSR write, 2 a ring
load. -/
def lateKind (i : Instr) : Option Nat :=
  match i with
  | .spst .. => some 0
  | .vst .. => some 0
  | .csrw .. => some 1
  | .ringld .. => some 2
  | _ => none
/-- Does an operation see such an effect? -/
def seesLate (kind : Nat) (i : Instr) : Bool :=
  match kind with
  | 0 => i.major = 0x2E || i.major = 0x32 || decide (classOfMajor i.major = .es)
  | 1 => true
  | _ => decide (0x2F ≤ i.major) && decide (i.major ≤ 0x31)
/-- Must two slots of a bundle stay together: does the lower write what the higher reads, in the place where it reads it? -/
def slotsTied (a b : W32 × Byte × Instr) : Bool :=
  (regUses a.1 a.2.1 a.2.2).any (fun u => u.writes && (u.keeps || (Value.own ⟨u.cls, u.n, 0⟩).isSome)
    && (regUses b.1 b.2.1 b.2.2).any (fun v => v.reads && v.cls == u.cls && v.n == u.n))
  || (match lateKind a.2.2 with
      | some k => seesLate k b.2.2
      | none => false)
/-- Must a bundle stay in one vc? -/
def bundleTied : List (W32 × Byte × Instr) → Bool
  | [] => false
  | a :: t => t.any (slotsTied a) || bundleTied t

/-! ### Expansions (R450) -/

/-- A comparison that waits for the first reader of its vd. -/
structure PendingCheck where
  op : OpenOp
  vd : Value
  guard : Option Value
  deriving DecidableEq, Repr

/-- Step `i` of copy c of an expansion, its fields naming placeholders: 1 vd, 2 va, 3 vb, 4 the result, 8 + j temporary j,
s1 the scalar, p1 the guard. `val` gives the values, `res` that of the result. -/
def openStep (val : RegClass → Nat → Option Value) (c id : Nat) (res : OpenUse → OpenUse) (i : Instr) : Option OpenOp :=
  let w := encodeSlot i
  let us := regUses w 0 i
  (us.mapM (fun u =>
    let field : OpenUse := { lo := u.lo, width := u.width }
    if u.cls == .vec && u.n = 4 then some (res field)
    else if u.cls == .vec && decide (8 ≤ u.n) then
      let v : Value := ⟨.vec, 256 + 16 * c + u.n - 8, id⟩
      some (if !u.writes then { field with src := some v }
        else if readsDest i then { field with src := some v, old := some v } else { field with dst := some v })
    else (val u.cls u.n).map (fun v => { field with src := some v }))).map
      (fun os => ⟨us.foldl (fun w u => setField w u.lo u.width 0) w, os⟩)
/-- The groups of a virtual-only operation, both copies of a step in one, and the comparison that they leave. -/
def expand (ns : Names) (src id : Nat) (w : W32) (x : Byte) (i : Instr) : Option (List OpGroup × PendingCheck) :=
  let us := regUses w x i
  let guard := (us.find? (fun u => u.lo = 23)).bind (fun u => ns.value u.cls u.n)
  let i' := (decodeSlot true (setField w 23 3 (if guard.isSome then 1 else 0))).2
  let at_ := fun (lo : Nat) => (us.find? (fun u => u.lo = lo)).bind (fun u => ns.value u.cls u.n)
  let val := fun (cls : RegClass) (n : Nat) => match cls with
    | .pred => guard
    | .scalar => at_ 10
    | .vec => if n = 1 then at_ 16 else if n = 2 then at_ 9 else at_ 2
  let vd := (us.find? (fun u => u.lo = 16)).map (fun u => (⟨u.cls, u.n, id⟩ : Value))
  let check : Value := ⟨.vec, 512, id⟩
  let made := if guard.isSome then at_ 16 else vd
  let res := fun (c : Nat) (f : OpenUse) =>
    if c = 1 then { f with dst := some check }
    else if guard.isSome then { f with old := made } else { f with dst := made }
  let steps := template i' 1 2 3 4 1 (fun j => BitVec.ofNat 7 (8 + j))
  let copy := fun c => steps.mapM (openStep val c id (res c))
  match made, copy 0, copy 1, templateCheck i' 1 2 with
  | some v, some a, some b, some t =>
    let held := (List.range (2 * temporaries i)).map (fun j => ({
      lo := 0, width := 0, src := some ⟨.vec, 256 + 16 * (j % 2) + j / 2, id⟩ } : OpenUse))
    let cw := setField (setField (encodeSlot t) 9 7 0) 2 7 0
    let cmp : OpenOp := ⟨setField cw 23 3 0, ([⟨9, 7, some v, none, none⟩, ⟨2, 7, some check, none, none⟩] : List OpenUse)
      ++ (guard.map (fun g => (⟨23, 3, some g, none, none⟩ : OpenUse))).toList⟩
    let last := fun (k : Nat) (o : OpenOp) => if k + 1 = steps.length then { o with uses := o.uses ++ held } else o
    some ((List.range steps.length).map (fun k =>
      ⟨src, [last k (a.getD k ⟨0, []⟩), b.getD k ⟨0, []⟩]⟩), ⟨cmp, v, guard⟩)
  | _, _, _, _ => none
/-- Does a group need a comparison before it: it reads vd, or writes the guard? -/
def PendingCheck.due (p : PendingCheck) (g : OpGroup) : Bool :=
  g.reads.contains p.vd || (match p.guard with
    | none => false
    | some q => g.defs.any (fun v => v.cls == .pred && v.n == q.n)
      || g.ops.any (fun o => o.uses.any (fun u => u.old == some q)))
/-- Add a group to those before it, with the comparisons that it makes due: in its bundle, or where they do not fit in
bundles just before it. A comparison whose vd is overwritten unread goes. -/
def addGroup (a : List OpGroup × List PendingCheck) (g : OpGroup) : List OpGroup × List PendingCheck :=
  let due := a.2.filter (fun p => p.due g)
  let rest := a.2.filter (fun p => !p.due g && !g.defs.any (fun v => v.cls == p.vd.cls && v.n == p.vd.n))
  let va := fun (o : OpenOp) => decide (classOfMajor (o.w.toNat / 2 ^ 26) = .va)
  let ops := due.map (·.op) ++ g.ops
  if ops.length ≤ 4 && (ops.filter va).length ≤ 2 then (a.1 ++ [{ g with ops := ops }], rest)
  else (a.1 ++ due.map (fun p => ⟨g.src, [p.op]⟩) ++ [g], rest)

/-- What a text is read into: groups, comparisons that wait, and the value of each register. -/
structure Reading where
  groups : List OpGroup := []
  checks : List PendingCheck := []
  names : Names := []
  deriving DecidableEq, Repr
/-- May control leave the order of the text at this operation? -/
def leavesOrder : Instr → Bool
  | .br .. => true
  | .brl .. => true
  | .loop .. => true
  | .jr .. => true
  | .jrl .. => true
  | .suspend .. => true
  | _ => false
/-- Read Igpor bundle k. -/
def Reading.bundle (r : Reading) (k : Nat) (w : Nat → W32) : Option Reading :=
  let x := (headerOf (w 0)).2
  let slots := ((List.range 3).map (fun j => (w (j + 1), x (j + 1), (decodeSlot true (w (j + 1))).2))).filter
    (fun p => p.1 != 0)
  let id := fun j => 4 * k + j + 1
  let tied := bundleTied slots
  if slots.any (fun p => leavesOrder p.2.2) || (tied && slots.any (fun p => temporaries p.2.2 != 0)) then none
  else
    let parts := (List.range slots.length).mapM (fun j =>
      let p := slots.getD j (0, 0, .nop)
      if temporaries p.2.2 != 0 then (expand r.names k (id j) p.1 p.2.1 p.2.2).map (fun e => (e.1, [e.2]))
      else (openOp r.names (id j) p.1 p.2.1 p.2.2).map (fun o => ([⟨k, [o]⟩], [])))
    parts.map (fun ps =>
      let ps := if tied then [([⟨k, ps.flatMap (fun p => p.1.flatMap (·.ops))⟩], [])] else ps
      let (gs, cs) := ps.foldl (fun a p => let b := p.1.foldl addGroup a; (b.1, b.2 ++ p.2)) (r.groups, r.checks)
      let made := (ps.flatMap (fun p => p.1.flatMap OpGroup.defs)).filter (fun v => decide (v.n < 256))
      { groups := gs, checks := cs
        names := made.foldl (fun ns v => ((v.cls, v.n), v.id) :: ns.filter (fun q => q.1 != (v.cls, v.n))) r.names })

/-! ### Placement (R449, R451, R452) -/

/-- What a schedule is made for: the budget and the latency table. -/
structure Plan where
  budget : Nat
  lat : Nat → Nat → Byte

/-- Where a value is: a physical register, or a spill line or slot since a vc. -/
inductive Spot where
  | reg (n : Nat)
  | line (k since : Nat)
  deriving DecidableEq, Repr

/-- An operation that Forter adds of its own: the register it reads and the one it writes, and where a value is after it. -/
structure Service where
  op : WrittenOp
  src : Nat
  reads : Option Reg := none
  writes : Option Reg := none
  sets : Option (Value × Spot) := none
  deriving DecidableEq, Repr

/-- A schedule in the making: the vc being filled and its operations, finished bundles latest first with their map entries,
where values are, when each register's last write lands, and when it was last used; `forced` counts the bundles made only to
bring a value back or to make room for the group at hand. -/
structure Sched where
  vc : Nat := 0
  ops : List WrittenOp := []
  first : Option Nat := none
  late : List (Nat × Nat) := []
  out : List (List W32 × Nat) := []
  spots : List (Value × Spot) := []
  lands : List (Reg × Nat) := []
  used : List (Reg × Nat) := []
  queue : List Service := []
  forced : Nat := 0
  vspill : Nat := 0
  sspill : Nat := 0
  pspill : Nat := 0
  short : Bool := false
  deriving DecidableEq, Repr

/-- The entry of a key, and a key's new entry. -/
def assoc {α β : Type} [BEq α] (l : List (α × β)) (k : α) : Option β := (l.find? (fun p => p.1 == k)).map (·.2)
def assocPut {α β : Type} [BEq α] (l : List (α × β)) (k : α) (v : β) : List (α × β) :=
  l.filter (fun p => p.1 != k) ++ [(k, v)]

/-- The vc at which a result written at vc t lands: that of the next bundle where the pending bit takes over (R53). -/
def Plan.landing (c : Plan) (w : W32) (t : Nat) : Nat :=
  let b := (c.lat (w.toNat / 2 ^ 26) (selectorOf w)).toNat
  if b = 0x80 then t + 1 else t + b
/-- Where a value is. -/
def Sched.spot (s : Sched) (v : Value) : Option Spot :=
  match assoc s.spots v with
  | some p => some p
  | none => v.own.map .reg
/-- The register of a value. -/
def Sched.regOf (s : Sched) (v : Value) : Option Reg :=
  match s.spot v with
  | some (.reg n) => some (v.cls, n)
  | _ => none
/-- Has a register's last write landed? -/
def Sched.landed (s : Sched) (r : Reg) : Bool := decide ((assoc s.lands r).getD 0 ≤ s.vc)
/-- Does the vc being filled use a register? -/
def Sched.inUse (s : Sched) (r : Reg) : Bool := assoc s.used r == some s.vc
/-- The Igpor bundle of a value's next read among the groups to come. -/
def nextRead (gs : List OpGroup) (v : Value) : Option Nat := (gs.find? (fun g => g.reads.contains v)).map (·.src)
/-- The live value of virtual register n of a class: read in the groups to come before anything makes it there. -/
def liveValue (cls : RegClass) (n : Nat) : List OpGroup → List Value → Option Value
  | [], _ => none
  | g :: t, made =>
    match g.reads.find? (fun v => v.cls == cls && v.n == n && !made.contains v) with
    | some v => some v
    | none => liveValue cls n t (g.defs ++ made)
/-- The live value that stands in a register without owning it. -/
def Sched.guest (s : Sched) (gs : List OpGroup) (r : Reg) : Option Value :=
  (s.spots.find? (fun p => p.1.cls == r.1 && p.2 == .reg r.2 && (nextRead gs p.1).isSome)).map (·.1)
/-- The live value of a register's own virtual register, where it is in its place. -/
def Sched.owner (s : Sched) (gs : List OpGroup) (r : Reg) : Option Value :=
  if r.1 == .vec then none
  else (liveValue r.1 r.2 gs []).bind (fun v => if s.spot v == some (.reg r.2) then some v else none)
/-- The registers that values without one of their own may take (R451). -/
def Plan.pool (c : Plan) (cls : RegClass) : Nat × Nat :=
  match cls with
  | .scalar => (1, 60)
  | .pred => (1, 7)
  | .vec => (0, c.budget - 1)
/-- Is a register free: unused in this vc, no live value in it, and its own virtual register not live (R451)? -/
def Sched.isFree (s : Sched) (gs : List OpGroup) (r : Reg) : Bool :=
  !s.inUse r && (s.guest gs r).isNone && (r.1 == .vec || (liveValue r.1 r.2 gs []).isNone)
/-- The lowest free register of a class, those of `bar` passed over. -/
def Sched.lowest (s : Sched) (c : Plan) (gs : List OpGroup) (cls : RegClass) (bar : List Nat) : Option Nat :=
  lowestFree (c.pool cls).1 (c.pool cls).2 (fun n => !s.isFree gs (cls, n) || bar.contains n)
/-- The value to spill for a definition, and its register: one that has landed and that no slot of this vc reads, a guest
before a register's owner (R451, R452). -/
def Sched.toSpill (s : Sched) (c : Plan) (gs : List OpGroup) (cls : RegClass) (spare : List Value) : Option (Value × Nat) :=
  let regs := (List.range ((c.pool cls).2 + 1)).drop (c.pool cls).1
  let pick := fun (f : Reg → Option Value) =>
    let l := regs.filterMap (fun n => match f (cls, n) with
      | none => none
      | some v => if decide (v.n < 256) && !s.inUse (cls, n) && s.landed (cls, n) && !spare.contains v then
          some (v, n, (nextRead gs v).getD 0) else none)
    (victim (l.map (·.2))).bind (fun n => (l.find? (fun e => e.2.1 == n)).map (fun e => (e.1, n)))
  match pick (s.guest gs) with
  | some e => some e
  | none => pick (s.owner gs)
/-- The lowest free spill line, or free slot of the 32 that scalars and predicates share (R452). -/
def Sched.line (s : Sched) (cls : RegClass) : Option Nat :=
  lowestFree 0 (if cls == .vec then 127 else 31) (fun k => s.spots.any (fun p =>
    (p.1.cls == .vec) == (cls == .vec) && (match p.2 with
      | .line j _ => j == k
      | .reg _ => false)))
/-- The operations that spill a value from register n to place k: the first in the defining bundle, the others in the vc
that follow (R452). -/
def spillOps (src : Nat) (v : Value) (n k : Nat) : List Service :=
  let gone := some (v, Spot.line k 0)
  match v.cls with
  | .vec => [{ op := spillRow (BitVec.ofNat 7 n) k, src := src, reads := some (.vec, n), sets := gone }]
  | .scalar => [{ op := spillScalar (BitVec.ofNat 6 n) k, src := src, reads := some (.scalar, n), sets := gone }]
  | .pred => match spillPred (BitVec.ofNat 3 n) k with
    | o :: t => { op := o, src := src, reads := some (.pred, n), writes := some (.scalar, 61), sets := gone }
        :: t.map (fun o => {
          op := o, src := src, reads := some (.scalar, 61)
          writes := if writesRegister o.i then some (.scalar, 61) else none })
    | [] => []
/-- The operations that reload a value from place k into register n (R452). -/
def reloadOps (src : Nat) (v : Value) (n k : Nat) : List Service :=
  let back := some (v, Spot.reg n)
  match v.cls with
  | .vec => [{ op := reloadRow (BitVec.ofNat 7 n) k, src := src, writes := some (.vec, n), sets := back }]
  | .scalar => [{ op := reloadScalar (BitVec.ofNat 6 n) k, src := src, writes := some (.scalar, n), sets := back }]
  | .pred => match reloadPred (BitVec.ofNat 3 n) k with
    | o :: t => { op := o, src := src, writes := some (.scalar, 61) } :: t.map (fun o => {
        op := o, src := src, reads := some (.scalar, 61), writes := some (.pred, n), sets := back })
    | [] => []
/-- What one of Forter's own operations leaves, apart from standing in the bundle. -/
def Sched.note (c : Plan) (s : Sched) (q : Service) : Sched :=
  let mark := fun (l : List (Reg × Nat)) (r : Option Reg) => match r with
    | some r => assocPut l r s.vc
    | none => l
  { s with
    used := mark (mark s.used q.reads) q.writes
    lands := match q.writes with
      | some r => assocPut s.lands r (c.landing (encodeSlot q.op.i) s.vc)
      | none => s.lands
    spots := match q.sets with
      | some (v, .line k _) => assocPut s.spots v (.line k s.vc)
      | some (v, p) => assocPut s.spots v p
      | none => s.spots }
/-- One of Forter's own operations joins the bundle. -/
def Sched.add (c : Plan) (s : Sched) (q : Service) : Sched :=
  { s.note c q with ops := s.ops ++ [q.op], first := if s.first.isNone then some q.src else s.first }
/-- Spill a value from register n: the operation for this bundle, the others behind in the queue, the value counted. -/
def Sched.spill (c : Plan) (s : Sched) (src : Nat) (v : Value) (n : Nat) : Option (Service × Sched) :=
  if v.cls == .pred && !s.queue.isEmpty then none
  else match spillOps src v n ((s.line v.cls).getD 0) with
    | [] => none
    | q :: t =>
      let s := s.note c q
      some (q, { s with
        queue := s.queue ++ t, short := s.short || (s.line v.cls).isNone
        vspill := s.vspill + (if v.cls == .vec then 1 else 0)
        sspill := s.sspill + (if v.cls == .scalar then 1 else 0)
        pspill := s.pspill + (if v.cls == .pred then 1 else 0) })
/-- The register of a value made by group src, gs being the groups from it on, and the spill that makes room. A register's
own value turns a guest that is still to be read out of it. -/
def Sched.room (c : Plan) (s : Sched) (src : Nat) (gs : List OpGroup) (v : Value) : Option (Nat × List Service × Sched) :=
  let out := fun (o : Value) (n : Nat) => (s.spill c src o n).map (fun e => (n, [e.1], e.2))
  match v.own with
  | some n => match s.guest gs.tail (v.cls, n) with
    | none => some (n, [], s)
    | some o => if s.landed (v.cls, n) then out o n else none
  | none => match s.lowest c gs v.cls [] with
    | some n => some (n, [], s)
    | none => match s.toSpill c gs v.cls [] with
      | some (o, n) => out o n
      | none => none
/-- Place one operation of a bundle that finds its sources where `before` has them: its registers, and the landing of its
result no earlier than that of the write before it. -/
def Sched.placeOp (c : Plan) (before : Sched) (src : Nat) (gs : List OpGroup)
    (a : Sched × List WrittenOp × List Service) (o : OpenOp) : Option (Sched × List WrittenOp × List Service) :=
  let room := match o.defs.head? with
    | none => some (0, [], a.1)
    | some v => a.1.room c src gs v
  room.bind (fun (n, qs, s) =>
    let reg := fun (u : OpenUse) => match u.dst with
      | some _ => n
      | none => ((u.src.or u.old).bind before.regOf).elim 0 (·.2)
    let w := o.uses.foldl (fun w u => setField w u.lo u.width (reg u)) o.w
    let wrote := o.uses.filterMap (fun u => match u.dst with
      | some v => some (v.cls, n)
      | none => u.old.bind before.regOf)
    let t := c.landing w s.vc
    if wrote.any (fun r => decide (t < (assoc s.lands r).getD 0)) then none
    else some ({ s with
      lands := wrote.foldl (fun l r => assocPut l r t) s.lands
      used := wrote.foldl (fun l r => assocPut l r s.vc) s.used
      spots := o.defs.foldl (fun l v => if v.own.isSome then l else assocPut l v (.reg n)) s.spots },
      a.2.1 ++ [writtenOf w], a.2.2 ++ qs))
/-- Does an operation read or write FMTST, which results set as they land (R130)? -/
def touchesFlags : Instr → Bool
  | .csrr _ _ c => c.toNat == 0x21
  | .csrw _ _ c => c.toNat == 0x21
  | _ => false
/-- Place the first of the groups gs in the vc being filled, where R449 lets it. -/
def Sched.place (c : Plan) (s : Sched) (g : OpGroup) (gs : List OpGroup) : Option Sched :=
  let kinds := g.ops.map (fun o => (decodeSlot false o.w).2)
  let sources := g.ops.all (fun o => o.uses.all (fun u =>
    (match u.src with
      | none => true
      | some v => match s.regOf v with
        | some r => s.landed r
        | none => false)
    && (match u.old with
      | none => true
      | some v => (s.regOf v).isSome)))
  if s.ops.any (fun o => isBranch o.i) || s.late.any (fun l => decide (l.1 < g.src) && kinds.any (seesLate l.2)) || !sources
    || (kinds.any touchesFlags && s.lands.any (fun l => decide (s.vc < l.2))) then none
  else
    let s0 := { s with used := (g.reads.filterMap s.regOf).foldl (fun l r => assocPut l r s.vc) s.used }
    match g.ops.foldlM (fun a o => Sched.placeOp c s0 g.src gs a o) (s0, [], []) with
    | none => none
    | some (s1, ops, qs) =>
      let all := s.ops ++ ops ++ qs.map (·.op)
      if (assembleLine all).isNone then none
      else some { s1 with
        ops := all, first := if s.first.isNone then some g.src else s.first, forced := 0
        late := s.late ++ kinds.filterMap (fun i => (lateKind i).map (fun k => (g.src, k))) }
/-- Reload one spilled row where a row and a slot are free (R452). -/
def Sched.reload (c : Plan) (src : Nat) (gs : List OpGroup) (s : Sched) (e : Value × Spot) : Sched :=
  match e.1.cls, e.2 with
  | .vec, .line k since =>
    if s.vc ≤ since || (nextRead gs e.1).isNone then s
    else match s.lowest c gs .vec [] with
      | none => s
      | some n => (reloadOps src e.1 n k).foldl (fun s q =>
          let t := c.landing (encodeSlot q.op.i) s.vc
          if decide (t < (assoc s.lands (.vec, n)).getD 0) || (assembleLine (s.ops ++ [q.op])).isNone then s
          else s.add c q) s
  | _, _ => s
/-- Bring back a value that group g reads, in a vc of its own, where nothing else makes room for it; or make room for what g
makes, once every result has landed. -/
def Sched.force (c : Plan) (s : Sched) (g : OpGroup) (gs : List OpGroup) : Sched :=
  let begun := fun (s : Sched) (qs : List Service) => match qs with
    | [] => s
    | q :: t => { s.add c q with queue := s.queue ++ t }
  let spill := fun (s : Sched) (v : Value) (n : Nat) => match s.spill c g.src v n with
    | some (q, s') => { s' with ops := s.ops ++ [q.op], first := some g.src }
    | none => s
  match g.reads.find? (fun v => (s.regOf v).isNone) with
  | some v =>
    (match s.spot v with
    | some (.line k _) =>
      let back := fun (s : Sched) (n : Nat) (now : Bool) =>
        if decide (s.vc + 1 < (assoc s.lands (v.cls, n)).getD 0) then s
        else if now then begun s (reloadOps g.src v n k) else { s with queue := s.queue ++ reloadOps g.src v n k }
      (match v.own with
      | some n => (match s.guest gs (v.cls, n) with
        | none => back s n true
        | some o => if s.landed (v.cls, n) then back (spill s o n) n false else s)
      | none => (match s.lowest c gs v.cls ((g.defs.filter (fun d => d.cls == v.cls)).filterMap Value.own) with
        | some n => if v.cls == .vec then s else back s n true
        | none => (match s.toSpill c gs v.cls g.reads with
          | none => s
          | some (o, n) => back (spill s o n) n (v.cls == .vec))))
    | _ => s)
  | none =>
    if s.lands.any (fun l => decide (s.vc < l.2)) then s
    else match g.defs.findSome? (fun v => match v.own with
        | some n => (s.guest gs.tail (v.cls, n)).map (fun o => (o, n))
        | none => s.toSpill c gs v.cls g.reads) with
      | none => s
      | some (o, n) => spill s o n
/-- Finish the vc being filled, gs being the groups not yet placed, and open the next; none where no vc to come would differ. -/
def Sched.close (c : Plan) (s : Sched) (gs : List OpGroup) : Option Sched :=
  let src := (gs.head?.map (·.src)).getD (s.out.head?.elim 0 (·.2))
  let s1 := match gs with
    | g :: _ =>
      if !s.ops.isEmpty || !s.queue.isEmpty || 64 ≤ s.forced then s
      else
        let s' := s.force c g gs
        { s' with forced := s.forced + (if s'.ops.isEmpty && s'.queue.isEmpty then 0 else 1) }
    | [] => s
  let s2 := s1.spots.foldl (Sched.reload c src gs) s1
  if s2.ops.isEmpty && s2.queue.isEmpty && s2.lands.all (fun l => decide (l.2 ≤ s2.vc)) then none
  else match assembleLine s2.ops with
    | none => none
    | some ws =>
      let s3 := { s2 with
        vc := s2.vc + 1, ops := [], first := none, late := []
        out := (ws, s2.first.getD (s2.out.head?.elim 0 (·.2))) :: s2.out }
      match s3.queue with
      | [] => some s3
      | q :: t => if q.reads.all s3.landed then some ({ s3 with queue := t }.add c q) else some s3
/-- Place every group in order. -/
def Sched.run (c : Plan) : Nat → Sched → List OpGroup → Option Sched
  | 0, _, _ => none
  | f + 1, s, [] => if s.ops.isEmpty && s.queue.isEmpty then some s else (s.close c []).bind (fun s => Sched.run c f s [])
  | f + 1, s, g :: t =>
    match s.place c g (g :: t) with
    | some s => Sched.run c f s t
    | none => (s.close c (g :: t)).bind (fun s => Sched.run c f s (g :: t))

end Sys2Proof.Machine
end

