-- ==== Sys2Proof/Machine/Loader.lean ====
section
/-! DEFINITION. Fat objects, the loader's choice of an image, and what the translator Forter promises (spec 19 R436, R437,
R441-R443, R447, R448, R453). The device sees none of these: they are functions of bytes, and no step calls them. -/
namespace Sys2Proof.Machine

/-- The bytes of a list as one number, the first lowest. -/
def numOf (bs : List Byte) : Nat := bs.foldr (fun b x => b.toNat + 256 * x) 0

/-! ### Fat objects (R436) -/

/-- A directory entry: a native or an Igpor image, its revision name and signature, and its bytes. -/
structure FatEntry where
  native : Bool
  rev : W64
  sig : BitVec 256
  image : List Byte
  deriving DecidableEq, Repr

/-- Entry e of an object; none where it breaks the layout. -/
def fatEntry (obj : List Byte) (e : Nat) : Option FatEntry :=
  let v := numOf ((obj.drop (32 + 64 * e)).take 64)
  let kind := field v 0 1
  let off := field v 48 8
  let size := field v 56 8
  let img := (obj.drop off).take size
  let h := numOf (img.take 384)
  if obj.length < 96 + 64 * e || (kind != 1 && kind != 2) || field v 1 7 != 0 || off % 256 != 0 || obj.length < off + size
    || size < 384 then none
  else if kind = 1 then
    (if field v 8 8 != field h 8 8 || field v 16 32 != field h 16 32 then none
     else some ⟨true, BitVec.ofNat 64 (field v 8 8), BitVec.ofNat 256 (field v 16 32), img⟩)
  else if field v 8 8 != 0 || field v 16 32 != numOf (shake256 32 img) then none
  else some ⟨false, 0, BitVec.ofNat 256 (field v 16 32), img⟩
/-- The directory of a fat object; none where the loader refuses it. -/
def fatEntries (obj : List Byte) : Option (List FatEntry) :=
  let v := numOf (obj.take 32)
  let n := field v 6 2
  if obj.length < 32 || field v 0 4 != 0x46303448 || field v 4 2 != 1 || n = 0 || 255 < n || field v 8 24 != 0 then none
  else match (List.range n).mapM (fatEntry obj) with
    | none => none
    | some es => if 1 < (es.filter (fun e => !e.native)).length then none else some es

/-! ### Igpor images (R441, R443) -/

/-- Is the form not Igpor: an excluded operation, or one that writes s62 (R441)? -/
def excludedForm (x : Byte) (i : Instr) : Bool := i.notIgpor || (i.writes .portable x).contains (.scalar 62)
/-- Does a branch of bundle k of n leave the text? -/
def badTarget (n k : Nat) (i : Instr) : Bool :=
  let out := fun (o : Int) => decide ((k : Int) + o < 0) || decide ((n : Int) ≤ k + o)
  match i with
  | .br _ o => out o.toInt
  | .brl _ o => out o.toInt
  | .loop _ _ o => out o.toInt
  | _ => false
/-- The STATUS that bundle k of n earns (a column form is excluded whatever vector it names): 1 malformed, 2 an excluded
form, 3 more temporaries than the budget has rows for, 0 none (R448). -/
def bundleStatus (b n k : Nat) (w : Nat → W32) : Nat :=
  let x := (headerOf (w 0)).2
  let slots := (List.range 3).map (fun j => (x (j + 1), decodeSlot true (w (j + 1))))
  let plain := slots.map (fun p =>
    (decide (p.2.1 = 0) || p.2.2.major == 0x2E) && decide (p.2.2.badExt .portable p.1 = 0) && excludedForm p.1 p.2.2)
  let bad := decide ((slotCheck true false (headerOf (w 0)).1 0 0 (w 0)).1 ≠ 0)
    || (List.range 3).any (fun j => !plain.getD j false
      && decide ((slotCheck true false (headerOf (w 0)).1 (x (j + 1)) (j + 1) (w (j + 1))).1 ≠ 0))
    || (pairCheck .portable 0 [] (⟨.nop, 0⟩ :: slots.map (fun p => ⟨p.2.2, p.1⟩))).isSome
    || slots.any (fun p => badTarget n k p.2.2)
  if bad then 1
  else if plain.any id then 2
  else if slots.any (fun p => temporaries p.2.2 != 0 && decide (b < 2 * temporaries p.2.2 + 2)) then 3
  else 0
/-- Does the header of an Igpor image keep R443, its registers apart? -/
def igporHeaderOk (img : List Byte) : Bool :=
  let h := numOf (img.take 384)
  let inside := fun (o n : Nat) => decide (o + n ≤ img.length)
  decide (384 ≤ img.length) && field h 0 4 == 0x50303448 && field h 4 2 == 1 && field h 6 2 % 2 == field h 6 2 % 4
    && decide (field h 6 2 < 8) && field h 16 32 == 0 && field h 74 1 == 0 && field h 75 1 == 0 && field h 80 40 == 0
    && field h 120 8 == 0 && field h 48 4 % 16 == 0 && field h 52 4 % 16 == 0 && decide (16 ≤ field h 52 4)
    && decide (field h 52 4 ≤ 2 ^ 24) && field h 56 4 % 16 == 0 && decide (field h 56 4 < field h 52 4)
    && decide (field h 64 4 ≤ 524288) && field h 68 4 % 16 == 0 && decide (field h 72 1 ≤ 8) && decide (field h 73 1 ≤ 16)
    && (List.range 16).all (fun k => decide (field h (129 + 16 * k) 1 < 2) && field h (130 + 16 * k) 6 == 0)
    && inside (field h 48 4) (field h 52 4) && inside (field h 60 4) (field h 64 4)
    && inside (field h 68 4) (144 * field h 72 1)
/-- Word j of bundle k of an Igpor text. -/
def igporWord (img : List Byte) (k j : Nat) : W32 :=
  BitVec.ofNat 32 (numOf ((img.drop (field (numOf (img.take 384)) 48 4 + 16 * k + 4 * j)).take 4))
/-- Do its `.param` registers keep R441, each one of s1-s60? -/
def igporParamsOk (img : List Byte) : Bool :=
  let h := numOf (img.take 384)
  (List.range (field h 73 1)).all (fun k => paramsOk true [(paramOf h k).1])
/-- The STATUS of an Igpor image under budget b before it is translated, and the offset of the first bundle that earns it
(R448, log entry 92). -/
def igporStatus (img : List Byte) (b : Nat) : Nat × Nat :=
  let h := numOf (img.take 384)
  if !igporHeaderOk img then (1, 0)
  else
    let n := field h 52 4 / 16
    let first := fun c => ((List.range n).find? (fun k => bundleStatus b n k (igporWord img k) == c)).map (fun k => 16 * k)
    match first 1 with
    | some a => (1, a)
    | none =>
      if !igporParamsOk img then (2, 0)
      else match first 2 with
        | some a => (2, a)
        | none =>
          if b < 8 || 32 < b then (3, 0)
          else match first 3 with
            | some a => (3, a)
            | none => (0, 0)

/-! ### Forter (R447-R453) -/

/-- A native image by its fields (R431). -/
structure NativeImage where
  flags : Nat
  rev : Nat
  lsig : BitVec 256
  text : List Byte
  entry : Nat
  spdata : List Byte
  preload : List Byte
  params : List (Nat × Bool × W64)
  bud : Nat
  privn : Nat
  map : List (BitVec 32)
  igsig : BitVec 256
  deriving DecidableEq, Repr

/-- The bytes of an image (R431): text, preload block, spdata and address map behind the header, in this order, each from
the byte after the one before (log entry 92). -/
def NativeImage.bytes (i : NativeImage) : List Byte :=
  let preo := 384 + i.text.length
  let spdo := preo + i.preload.length
  let mapo := spdo + i.spdata.length
  [0x48, 0x34, 0x30, 0x4E] ++ bytesOf 1 2 ++ bytesOf i.flags 2 ++ bytesOf i.rev 8 ++ bytesOf i.lsig.toNat 32
    ++ bytesOf 384 4 ++ bytesOf i.text.length 4 ++ bytesOf i.entry 4 ++ bytesOf spdo 4 ++ bytesOf i.spdata.length 4
    ++ bytesOf (if i.preload.isEmpty then 0 else preo) 4 ++ bytesOf (i.preload.length / 144) 1 ++ bytesOf i.params.length 1
    ++ bytesOf i.bud 1 ++ [0] ++ bytesOf i.privn 4 ++ bytesOf mapo 4 ++ bytesOf i.map.length 4 ++ bytesOf i.igsig.toNat 32
    ++ List.replicate 8 0
    ++ i.params.flatMap (fun p => bytesOf p.1 1 ++ bytesOf p.2.1.toNat 1 ++ List.replicate 6 0 ++ bytesOf p.2.2.toNat 8)
    ++ List.replicate (256 - 16 * i.params.length) 0 ++ i.text ++ i.preload ++ i.spdata
    ++ i.map.flatMap (fun m => bytesOf m.toNat 4)
/-- The Igpor address, counted from its text, that native text offset a is mapped back to (R453). -/
def NativeImage.mapBack (i : NativeImage) (a : Nat) : Option Nat := (i.map[a / 16]?).map (fun m => 16 * (m.toNat % 2 ^ 24))

/-- Forter's translation of a text under a budget and a latency table (R449-R453), none where it needs more than 128 spill
lines or 32 slots (R448). A text that control may leave out of order, or that the rules cannot place, is left open (log
entry 92). -/
def translate (img : List Byte) (b : Nat) (table : List Byte) : Option Config.Translation :=
  let h := numOf (img.take 384)
  let read := (List.range (field h 52 4 / 16)).foldlM (fun (r : Reading) k => r.bundle k (igporWord img k)) {}
  let placed := (if field h 56 4 = 0 then read else none).bind (fun r =>
    Sched.run ⟨b, fun m sel => table.getD (32 * m + sel) 0⟩ (1024 * (r.groups.length + 1)) {} r.groups)
  match placed with
  | none => Config.translation img b table
  | some s =>
    let out := if s.out.isEmpty then [([0, 0, 0, 0], 0)] else s.out.reverse
    if s.short then none
    else some {
      text := out.flatMap (fun e => e.1.flatMap (fun w => bytesOf w.toNat 4)), entry := 0
      map := out.map (fun e => BitVec.ofNat 24 e.2)
      vspill := BitVec.ofNat 16 s.vspill, sspill := BitVec.ofNat 16 s.sspill, pspill := BitVec.ofNat 16 s.pspill }

/-- Forter's result record (R447). -/
structure ForterRecord where
  status : Nat
  outn : Nat := 0
  vspill : BitVec 16 := 0
  sspill : BitVec 16 := 0
  bad : Nat := 0
  pspill : BitVec 16 := 0
  deriving DecidableEq, Repr

/-- The 32 bytes of a result record, DONE the last eight. -/
def ForterRecord.bytes (r : ForterRecord) : List Byte :=
  bytesOf r.status 4 ++ bytesOf r.outn 4 ++ bytesOf r.vspill.toNat 2 ++ bytesOf r.sspill.toNat 2 ++ bytesOf r.bad 4
    ++ bytesOf r.pspill.toNat 2 ++ List.replicate 6 0 ++ bytesOf 1 8
/-- Forter on an Igpor image, an output buffer of `room` bytes, a budget and a latency table (R447, R448, R452, R453): its
record, and the image where STATUS is 0. -/
def forter (img : List Byte) (room b : Nat) (table : List Byte) : ForterRecord × Option NativeImage :=
  let h := numOf (img.take 384)
  let part := fun (o n : Nat) => (img.drop o).take n
  match igporStatus img b with
  | (0, _) =>
    (match translate img b table with
    | none => ({ status := 4 }, none)
    | some t =>
      let i : NativeImage := {
        flags := field h 6 2 + 8, rev := field h 8 8, lsig := latencySignature table, text := t.text, entry := t.entry
        spdata := part (field h 60 4) (field h 64 4), preload := part (field h 68 4) (144 * field h 72 1)
        params := (List.range (field h 73 1)).map (paramOf h), bud := b, privn := 256
        map := t.map.map (fun m => m.setWidth 32), igsig := BitVec.ofNat 256 (numOf (shake256 32 img)) }
      if room < i.bytes.length then ({ status := 5 }, none)
      else ({ status := 0, outn := i.bytes.length, vspill := t.vspill, sspill := t.sspill, pspill := t.pspill }, some i))
  | (c, a) => ({ status := c, bad := a }, none)
/-- A store that Forter makes: its address and bytes, and whether it is a release at package scope. -/
structure ForterStore where
  addr : W64
  bytes : List Byte
  release : Bool
  deriving DecidableEq, Repr
/-- What Forter stores, in order, under its launch arguments 1-4 for the image that argument 0 names (R447): the native
image, the record, and DONE last. -/
def forterStores (img : List Byte) (out size b rec_ : W64) (table : List Byte) : List ForterStore :=
  let r := forter img size.toNat b.toNat table
  (r.2.map (fun i => ⟨out, i.bytes, false⟩)).toList
    ++ [⟨rec_, r.1.bytes.take 24, false⟩, ⟨rec_ + 24, r.1.bytes.drop 24, true⟩]

/-! ### The loader (R437) -/

/-- A tenancy's cached translation: the Igpor entry's SIG, the die's signature, the budget, and the image. -/
structure Cached where
  sig : BitVec 256
  lsig : BitVec 256
  budget : Nat
  image : List Byte
  deriving DecidableEq, Repr

/-- The image for a die of revision name n, with its latency table, from a directory and a cache: the first source that
yields one, and the cache afterwards; none where the load fails. -/
def loadImage (es : List FatEntry) (cache : List Cached) (n : W64) (table : List Byte) (room b : Nat) :
    Option (List Byte × List Cached) :=
  let l := latencySignature table
  match es.find? (fun e => e.native && e.rev == n) with
  | some e => some (e.image, cache)
  | none => match es.find? (fun e => e.native && e.sig == l) with
    | some e => some (e.image, cache)
    | none => match es.find? (fun e => !e.native) with
      | none => none
      | some e => match cache.find? (fun c => c.sig == e.sig && c.lsig == l && c.budget == b) with
        | some c => some (c.image, cache)
        | none => match (forter e.image room b table).2 with
          | none => none
          | some i => some (i.bytes, cache ++ [⟨e.sig, l, b, i.bytes⟩])
/-- The budget of a load: 32 unless the caller names one from 8 to 32. -/
def loadBudget (named : Option Nat) : Option Nat :=
  match named with
  | none => some 32
  | some b => if 8 ≤ b && b ≤ 32 then some b else none

end Sys2Proof.Machine
end

