-- ==== Sys2Proof/Tests/Slice0.lean ====
section
/-! SUPPORT. The model's own tests: words of the spec's encodings and what they decode to, terms that the well-formedness
checks refuse, small steps with the spec's own results, and witnesses of the statements' hypotheses. -/

open Sys2Proof Sys2Proof.Machine

set_option Elab.async false

namespace Sys2Proof.Tests

/-- One word of each row of the opcode table, its fixed bits and operand fields laid as the table lays them (R28, R32, R33,
R444): rows 1 to 20. -/
theorem test_decode_rows_1 :
    decodeSlot false 0x00000000 = (0, .nop)
    ∧ decodeSlot false 0x06A790C0 = (0, .add 5 19 50 6)
    ∧ decodeSlot false 0x06EEC361 = (0, .sub 5 55 24 27)
    ∧ decodeSlot false 0x0684FFC2 = (0, .and 5 2 31 62)
    ∧ decodeSlot false 0x06BBB5E3 = (0, .or 5 29 54 47)
    ∧ decodeSlot false 0x06B39664 = (0, .xor 5 25 50 51)
    ∧ decodeSlot false 0x06C5BC25 = (0, .andn 5 34 55 33)
    ∧ decodeSlot false 0x06E198E6 = (0, .orn 5 48 51 7)
    ∧ decodeSlot false 0x06DFC787 = (0, .shl 5 47 56 60)
    ∧ decodeSlot false 0x06C6BA28 = (0, .shr 5 35 23 17)
    ∧ decodeSlot false 0x06EF83A9 = (0, .sar 5 55 48 29)
    ∧ decodeSlot false 0x06CA744A = (0, .min 5 37 14 34)
    ∧ decodeSlot false 0x069C568B = (0, .max 5 14 10 52)
    ∧ decodeSlot false 0x06D4EC2C = (0, .minu 5 42 29 33)
    ∧ decodeSlot false 0x05E1004D = (0, .maxu 3 48 32 2)
    ∧ decodeSlot false 0x068CB00E = (0, .clz 5 6 22)
    ∧ decodeSlot false 0x06F1A00F = (0, .popc 5 56 52)
    ∧ decodeSlot false 0x06C64450 = (0, .bfx 5 35 8 34)
    ∧ decodeSlot false 0x06B45051 = (0, .bfi 5 26 10 2)
    ∧ decodeSlot false 0x06801752 = (0, .cmpt 5 2 58) := by
  decide +kernel

/-- One word of each row of the opcode table, its fixed bits and operand fields laid as the table lays them (R28, R32, R33,
R444): rows 21 to 40. -/
theorem test_decode_rows_2 :
    decodeSlot false 0x0A867140 = (0, .mul 5 3 14 10)
    ∧ decodeSlot false 0x0ADE4901 = (0, .mulh 5 47 9 8)
    ∧ decodeSlot false 0x0A881522 = (0, .mulhu 5 4 2 41)
    ∧ decodeSlot false 0x0A8646C3 = (0, .div 5 3 8 54)
    ∧ decodeSlot false 0x0ADECC44 = (0, .divu 5 47 25 34)
    ∧ decodeSlot false 0x0AB91C45 = (0, .rem 5 28 35 34)
    ∧ decodeSlot false 0x0AE17206 = (0, .remu 5 48 46 16)
    ∧ decodeSlot false 0x0F03E4C2 = (0, .cmp 6 1 60 38 2)
    ∧ decodeSlot false 0x11EF7CC7 = (0, .sel 3 55 47 38 7)
    ∧ decodeSlot false 0x160C0860 = (0, .pand 4 6 1 3)
    ∧ decodeSlot false 0x160210E1 = (0, .por 4 1 2 7)
    ∧ decodeSlot false 0x158E2022 = (0, .pxor 3 7 4 1)
    ∧ decodeSlot false 0x16AA0003 = (0, .pget 5 21)
    ∧ decodeSlot false 0x16836804 = (0, .pset 5 1 45)
    ∧ decodeSlot false 0x1ACD7BF7 = (0, .addi 5 38 47 1015)
    ∧ decodeSlot false 0x1EF51FA8 = (0, .andi 5 58 35 1960)
    ∧ decodeSlot false 0x22CDFE45 = (0, .ori 5 38 63 1605)
    ∧ decodeSlot false 0x269BEC4C = (0, .xori 5 13 61 1100)
    ∧ decodeSlot false 0x2A834009 = (0, .shli 5 1 40 9)
    ∧ decodeSlot false 0x2A9B186B = (0, .shri 5 13 35 43) := by
  decide +kernel

/-- One word of each row of the opcode table, its fixed bits and operand fields laid as the table lays them (R28, R32, R33,
R444): rows 41 to 60. -/
theorem test_decode_rows_3 :
    decodeSlot false 0x2AFC5893 = (0, .sari 5 62 11 19)
    ∧ decodeSlot false 0x2DAEA1D8 = (0, .cmpi 3 2 7 20 472)
    ∧ decodeSlot false 0x32BD0AED = (0, .cmpiu 5 3 6 33 749)
    ∧ decodeSlot false 0x36B6D501 = (0, .movi 5 27 54529)
    ∧ decodeSlot false 0x3AF43BC9 = (0, .movhi 5 58 15305)
    ∧ decodeSlot false 0x3ECC0105 = (0, .csrr 5 38 261)
    ∧ decodeSlot false 0x43015A1C = (0, .csrw 6 43 540)
    ∧ decodeSlot false 0x468343C3 = (0, .br 5 213955)
    ∧ decodeSlot false 0x4A896FE7 = (0, .brl 5 618471)
    ∧ decodeSlot false 0x4EE03577 = (0, .loop 5 3 13687)
    ∧ decodeSlot false 0x5325673B = (0, .loopr 6 1 5 26427)
    ∧ decodeSlot false 0x5681E800 = (0, .jr 5 61)
    ∧ decodeSlot false 0x56979801 = (0, .jrl 5 11 51)
    ∧ decodeSlot false 0x5680EDC2 = (0, .trap 5 1902)
    ∧ decodeSlot false 0x56800003 = (0, .eret 5)
    ∧ decodeSlot false 0x56800004 = (0, .uiret 5)
    ∧ decodeSlot false 0x598BE5EE = (0, .wait 3 23 25 15 14)
    ∧ decodeSlot false 0x61FAE41D = (0, .vadd 3 122 114 7 1)
    ∧ decodeSlot false 0x668DBCEB = (0, .vsub 5 13 94 58 3)
    ∧ decodeSlot false 0x6A89D357 = (0, .vmul 5 9 105 85 3) := by
  decide +kernel

/-- One word of each row of the opcode table, its fixed bits and operand fields laid as the table lays them (R28, R32, R33,
R444): rows 61 to 80. -/
theorem test_decode_rows_4 :
    decodeSlot false 0x6E9DF59D = (0, .vfma 5 29 122 103 1)
    ∧ decodeSlot false 0x72DE222D = (0, .vfms 5 94 17 11 1)
    ∧ decodeSlot false 0x74C97362 = (0, .vmax 1 73 57 88 2)
    ∧ decodeSlot false 0x7B39A975 = (0, .vmin 6 57 84 93 1)
    ∧ decodeSlot false 0x7DA97974 = (0, .vand 3 41 60 93)
    ∧ decodeSlot false 0x7EF02031 = (0, .vor 5 112 16 12)
    ∧ decodeSlot false 0x7EF37552 = (0, .vxor 5 115 58 84)
    ∧ decodeSlot false 0x81D8A62C = (0, .vshl 3 88 83 11)
    ∧ decodeSlot false 0x82F54029 = (0, .vshr 5 117 32 10)
    ∧ decodeSlot false 0x82D6318E = (0, .vsar 5 86 24 99)
    ∧ decodeSlot false 0x86CFD05F = (0, .vcmp 5 2 15 104 23 3)
    ∧ decodeSlot false 0x8ADA85BD = (0, .vsel 5 90 66 111 1)
    ∧ decodeSlot false 0x8EB0B38F = (0, .vshf 5 48 89 99 3)
    ∧ decodeSlot false 0x924902DB = (0, .vrotl 4 73 1 54 3)
    ∧ decodeSlot false 0x96E36401 = (0, .vmov 5 99 50 1)
    ∧ decodeSlot false 0x968ADA05 = (0, .vabs 5 10 109 1)
    ∧ decodeSlot false 0x96FCB809 = (0, .vneg 5 124 92 1)
    ∧ decodeSlot false 0x96ED000D = (0, .viota 5 109 1)
    ∧ decodeSlot false 0x969E0010 = (0, .vclr 5 30)
    ∧ decodeSlot false 0x9AE37003 = (0, .vbc 5 99 28 3) := by
  decide +kernel

/-- One word of each row of the opcode table, its fixed bits and operand fields laid as the table lays them (R28, R32, R33,
R444): rows 81 to 100. -/
theorem test_decode_rows_5 :
    decodeSlot false 0x98D031E7 = (0, .vxt 1 80 12 57 3)
    ∧ decodeSlot false 0x9A68D2CA = (0, .vins 4 104 52 50 2)
    ∧ decodeSlot false 0x9EDD5601 = (0, .vredSum 5 93 43 1)
    ∧ decodeSlot false 0x9EC3E806 = (0, .vredMax 5 67 116 2)
    ∧ decodeSlot false 0x9F6E5C0B = (0, .vredMin 6 110 46 3)
    ∧ decodeSlot false 0xA298720B = (0, .vcvt 5 24 57 2 3)
    ∧ decodeSlot false 0xA5800D16 = (0, .cmptv 3 6 69 2)
    ∧ decodeSlot false 0xAAFAEC03 = (0, .vexp2 5 122 118 3)
    ∧ decodeSlot false 0xAAC15C07 = (0, .vlog2 5 65 46 3)
    ∧ decodeSlot false 0xAAF0B00B = (0, .vrcp 5 112 88 3)
    ∧ decodeSlot false 0xAACE180E = (0, .vrsq 5 78 12 2)
    ∧ decodeSlot false 0xAB7C7213 = (0, .vsin 6 124 57 3)
    ∧ decodeSlot false 0xA8E42E17 = (0, .vtanh 1 100 23 3)
    ∧ decodeSlot false 0xAFFAC847 = (0, .vunpk 7 122 100 2 1 3)
    ∧ decodeSlot false 0xB1B8A6A9 = (0, .vpack 3 56 83 5 2 1)
    ∧ decodeSlot false 0xB747A8D6 = (0, .vbscl 6 71 84 53 2)
    ∧ decodeSlot false 0xB91DE471 = (0, .vld 2 29 57 113)
    ∧ decodeSlot false 0xBA960D27 = (0, .vst 5 22 3 39)
    ∧ decodeSlot false 0xBAB41E64 = (0, .vlds 5 52 7 100)
    ∧ decodeSlot false 0xBAD6D39B = (0, .vsts 5 86 52 155) := by
  decide +kernel

/-- One word of each row of the opcode table, its fixed bits and operand fields laid as the table lays them (R28, R32, R33,
R444): rows 101 to 120. -/
theorem test_decode_rows_6 :
    decodeSlot false 0xBE8793A9 = (0, .sadd 5 7 73 106 1)
    ∧ decodeSlot false 0xBDBA3301 = (0, .ssub 3 26 25 64 1)
    ∧ decodeSlot false 0xBF459AFE = (0, .smul 6 5 77 63 2)
    ∧ decodeSlot false 0xBEF6A353 = (0, .sdiv 5 22 81 84 3)
    ∧ decodeSlot false 0xC184BF4A = (0, .suni 3 4 95 82 2)
    ∧ decodeSlot false 0xC2BAFBFF = (0, .sint 5 26 125 127 3)
    ∧ decodeSlot false 0xC2DE3916 = (0, .scmp 5 30 28 69 2)
    ∧ decodeSlot false 0xC6D6E003 = (0, .sneg 5 86 112 3)
    ∧ decodeSlot false 0xC6D6A005 = (0, .sfrom 5 86 80 1)
    ∧ decodeSlot false 0xC6C70C09 = (0, .sbnd 5 71 6 1)
    ∧ decodeSlot false 0xC594780D = (0, .sarc 3 20 60 1)
    ∧ decodeSlot false 0xC6D32E12 = (0, .smsk 5 83 23 2)
    ∧ decodeSlot false 0xC64ECE17 = (0, .sred 4 78 103 3)
    ∧ decodeSlot false 0xCA936770 = (0, .spld 5 9 44 29 3)
    ∧ decodeSlot false 0xCAF9B931 = (0, .spst 5 60 55 4 3)
    ∧ decodeSlot false 0xCF4EDAB0 = (0, .ld 6 39 27 10 3)
    ∧ decodeSlot false 0xCE75435D = (0, .lds 4 58 40 13 1 3)
    ∧ decodeSlot false 0xCE29FBDE = (0, .lda 4 20 63 15 1 3)
    ∧ decodeSlot false 0xCE80BEC3 = (0, .pref 5 23 27)
    ∧ decodeSlot false 0xD36FD310 = (0, .st 6 55 58 12 1) := by
  decide +kernel

/-- One word of each row of the opcode table, its fixed bits and operand fields laid as the table lays them (R28, R32, R33,
R444): rows 121 to 140. -/
theorem test_decode_rows_7 :
    decodeSlot false 0xD3994E65 = (0, .sts 7 12 41 25 2 1)
    ∧ decodeSlot false 0xD0C3EFAE = (0, .strl 1 33 61 30 2 3)
    ∧ decodeSlot false 0xD6E5A4E2 = (0, .amoAdd 5 50 52 39 2)
    ∧ decodeSlot false 0xD5BAC105 = (0, .amoAnd 3 29 24 8 1)
    ∧ decodeSlot false 0xD6C8234A = (0, .amoOr 5 36 4 26 2)
    ∧ decodeSlot false 0xD5B8796E = (0, .amoXor 3 28 15 11 2)
    ∧ decodeSlot false 0xD6DD9173 = (0, .amoMin 5 46 50 11 3)
    ∧ decodeSlot false 0xD6E44C55 = (0, .amoMax 5 50 9 34 1)
    ∧ decodeSlot false 0xD5952619 = (0, .amoSwap 3 10 36 48 1)
    ∧ decodeSlot false 0xD6CBCBDF = (0, .cas 5 37 57 30 3)
    ∧ decodeSlot false 0xDA800002 = (0, .fence 5 2)
    ∧ decodeSlot false 0xDA800006 = (0, .fenceAll 5 2)
    ∧ decodeSlot false 0xDB76896B = (0, .waitaNe 6 59 17 11 3)
    ∧ decodeSlot false 0xD9E9926E = (0, .waitaEq 3 52 50 19 2)
    ∧ decodeSlot false 0xDEA60020 = (0, .hwait 5 19 1)
    ∧ decodeSlot false 0xDEE56001 = (0, .hstat 5 50 44)
    ∧ decodeSlot false 0xDEBC0002 = (0, .hrel 5 30)
    ∧ decodeSlot false 0xDEAEC423 = (0, .hset 5 23 24 33)
    ∧ decodeSlot false 0xDED842C4 = (0, .hexp 5 44 8 22)
    ∧ decodeSlot false 0xDEEA0005 = (0, .hswap 5 53) := by
  decide +kernel

/-- One word of each row of the opcode table, its fixed bits and operand fields laid as the table lays them (R28, R32, R33,
R444): rows 141 to 160. -/
theorem test_decode_rows_8 :
    decodeSlot false 0xDE803806 = (0, .bkrel 5 7)
    ∧ decodeSlot false 0xDE804007 = (0, .bkwait 5 8)
    ∧ decodeSlot false 0xDE8CD808 = (0, .barv 5 6 27)
    ∧ decodeSlot false 0xDD83E828 = (0, .barvInit 3 1 61)
    ∧ decodeSlot false 0xDE827809 = (0, .bart 5 1 15)
    ∧ decodeSlot false 0xDE84000A = (0, .barw 5 2)
    ∧ decodeSlot false 0xDE9E002B = (0, .uien 5 15 1)
    ∧ decodeSlot false 0xE20B02C0 = (0, .clvl 4 5 32 22)
    ∧ decodeSlot false 0xE2DCB161 = (0, .cgo 5 46 22 11)
    ∧ decodeSlot false 0xE2F72362 = (0, .cgox 5 59 36 27)
    ∧ decodeSlot false 0xE23978A3 = (0, .cqry 4 28 47 5)
    ∧ decodeSlot false 0xE6A98802 = (0, .mxcall 5 20 49 2)
    ∧ decodeSlot false 0xEA86F800 = (0, .mxp 5 3 31)
    ∧ decodeSlot false 0xEAE21801 = (0, .mxpr 5 49 3)
    ∧ decodeSlot false 0xEA804382 = (0, .mxldu 5 8 28)
    ∧ decodeSlot false 0xEB3EC003 = (0, .mxrt 6 31 24)
    ∧ decodeSlot false 0xEAC43004 = (0, .mxstat 5 34 6)
    ∧ decodeSlot false 0xEDF42000 = (0, .shand 3 58 4)
    ∧ decodeSlot false 0xEDED0001 = (0, .sown 3 54 32)
    ∧ decodeSlot false 0xEEB80002 = (0, .genr 5 28) := by
  decide +kernel

/-- One word of each row of the opcode table, its fixed bits and operand fields laid as the table lays them (R28, R32, R33,
R444): rows 161 to 173. -/
theorem test_decode_rows_9 :
    decodeSlot false 0xEE814DE3 = (0, .tenend 5 41 47)
    ∧ decodeSlot false 0xED000004 = (0, .genprobe 2 0 0 0)
    ∧ decodeSlot false 0xEEA20005 = (0, .tidx 5 17)
    ∧ decodeSlot false 0xEEDC0006 = (0, .tnext 5 46)
    ∧ decodeSlot false 0xEE816D67 = (0, .suspend 5 45 43)
    ∧ decodeSlot false 0xEE800008 = (0, .endTask 5)
    ∧ decodeSlot false 0xEE95B009 = (0, .linkq 5 10 54)
    ∧ decodeSlot false 0xEE85680A = (0, .ringld 5 2 45)
    ∧ decodeSlot true 0x5EBB975B = (0, .vdot 5 59 75 86 3)
    ∧ decodeSlot true 0xF294D5A3 = (0, .vabd 5 20 106 104 3)
    ∧ decodeSlot true 0xF2A63985 = (0, .vclmp 5 6 28 97 1)
    ∧ decodeSlot true 0xF653CA07 = (0, .vcvth 4 83 101 1 3)
    ∧ decodeSlot true 0xFADA9802 = (0, .vscl 5 90 38 2) := by
  decide +kernel

/-- One micro-word of each micro-op, laid as R251 lays it. -/
theorem test_decode_micro :
    decodeMicro 0x1D00000000000000 = some (.zero 1 5)
    ∧ decodeMicro 0x1000000000000000 = some (.zero 0 0)
    ∧ decodeMicro 0x214E2A0680000000 = some (.mma 1 2 3 4 21 0 1 1 0 1)
    ∧ decodeMicro 0x26BC016100000000 = some (.mma 6 5 7 0 0 44 0 0 1 0)
    ∧ decodeMicro 0x3620000000000000 = some (.unf 6 1)
    ∧ decodeMicro 0x43D8000000000000 = some (.drain 3 6 1 4)
    ∧ decodeMicro 0x52000000FFFFFF80 = some (.adv 2 0 0 0xFFFFFF80)
    ∧ decodeMicro 0x52F0000000000000 = some (.adv 2 7 1 0)
    ∧ decodeMicro 0x6500000000000000 = some (.mxLoop 5)
    ∧ decodeMicro 0x7000000000000000 = some (.endl)
    ∧ decodeMicro 0x8040000000000000 = some (.waith 2)
    ∧ decodeMicro 0x9000000000000000 = some (.mxEnd) := by
  decide +kernel

/-- Micro-words with an operation that is none, or with a field that must be zero, are reserved (R251). -/
theorem test_micro_refused :
    decodeMicro 0x1500000000000000 = none
    ∧ decodeMicro 0xA000000000000000 = none
    ∧ decodeMicro 0x0000000000000000 = none
    ∧ decodeMicro 0x2002000000000000 = none
    ∧ decodeMicro 0x2000060100000000 = none
    ∧ decodeMicro 0x2000001880000000 = none
    ∧ decodeMicro 0x2000000000000001 = none
    ∧ decodeMicro 0x4020000000000000 = none
    ∧ decodeMicro 0x5020000000000000 = none
    ∧ decodeMicro 0x5010000000000001 = none
    ∧ decodeMicro 0x5000000100000000 = none
    ∧ decodeMicro 0x8000000000000001 = none
    ∧ decodeMicro 0x9800000000000000 = none := by
  decide +kernel

/-- One packet of each TYPE, laid as R364, R339 and R353 lay it. -/
theorem test_decode_packets :
    decodePacket 0x0000000000000000000000000000000011223344556677880000000000810001 = .ok (.launch 0x81 0x1122334455667788)
    ∧ decodePacket 0x000000000000000099AABBCCDDEEFF0111223344556677880000000000060002 = .ok (.launchi 0x06 0x1122334455667788 0x99AABBCCDDEEFF01)
    ∧ decodePacket 0x0000000000000000000000000000000011223344556677880000000000000103 = .ok (.loopPacket 1 0x1122334455667788)
    ∧ decodePacket 0x0000000000000000000000000000000000000000000000000000000000000004 = .ok (.endloop)
    ∧ decodePacket 0x0F1E2D3C4B5A697899AABBCCDDEEFF0111223344556677880000000000000005 = .ok (.ifeq 0x1122334455667788 0x99AABBCCDDEEFF01 0x0F1E2D3C4B5A6978)
    ∧ decodePacket 0x0F1E2D3C4B5A697899AABBCCDDEEFF0111223344556677880000000000000006 = .ok (.ifne 0x1122334455667788 0x99AABBCCDDEEFF01 0x0F1E2D3C4B5A6978)
    ∧ decodePacket 0x0000000000000000000000000000000000000000000000000000000000000007 = .ok (.endif)
    ∧ decodePacket 0x0F1E2D3C4B5A697899AABBCCDDEEFF0111223344556677880000000000000208 = .ok (.waitmem 2 0x1122334455667788 0x99AABBCCDDEEFF01 0x0F1E2D3C4B5A6978)
    ∧ decodePacket 0x000000000000000099AABBCCDDEEFF0111223344556677880000000000000D09 = .ok (.writemem 1 3 0x1122334455667788 0x99AABBCCDDEEFF01)
    ∧ decodePacket 0x000000000000000099AABBCCDDEEFF011122334455667788000000000345000A = .ok (.signal 0x345 0x1122334455667788 0x99AABBCCDDEEFF01)
    ∧ decodePacket 0x000000000000000000000000000000000000000000000000000000000000020B = .ok (.fencePacket 2)
    ∧ decodePacket 0x000000000000000099AABBCCDDEEFF0111223344556677880000003F2A05030C = .ok (.handover 1 1 5 0x2A 0x3F 0x1122334455667788 0x99AABBCCDDEEFF01)
    ∧ decodePacket 0x000000000000000000000000000000001122334455667788000100000000000D = .ok (.calls 65536 0x1122334455667788)
    ∧ decodePacket 0x000000000000000000000000000000000000000000000000000000000000000E = .ok (.rets)
    ∧ decodePacket 0x000000000000000000000000000000001122334455667788000000000123010F = .ok (.tenendPacket 1 0x123 0x1122334455667788) := by
  decide +kernel

/-- Packets of a reserved TYPE, or with a reserved byte or field that is not zero, are refused (R364, R367). -/
theorem test_packets_refused :
    decodePacket 0x0000000000000000000000000000000000000000000000000000000000000000 = .error 1
    ∧ decodePacket 0x0000000000000000000000000000000000000000000000000000000000000010 = .error 1
    ∧ decodePacket 0x0000000000000000000000000000000011223344556677880000000000000101 = .error 2
    ∧ decodePacket 0x0000000000000000000000000000000000000000000000000000000000000308 = .error 2
    ∧ decodePacket 0x000000000000000000000000000000000000000000000000000000000800000A = .error 2
    ∧ decodePacket 0x000000000000000000000000000000000000000000000020000000000000000D = .error 2
    ∧ decodePacket 0x000000000000000000000000000000000000000000000020000100010000000D = .error 2
    ∧ decodePacket 0x000000000000000000000000000000000000000000000000000000000008000C = .error 2
    ∧ decodePacket 0x000000000000000000000000000000000000000000000000000000004000010C = .error 2
    ∧ decodePacket 0x000000000000000000000000000000000000000000000000000000400000010C = .error 2
    ∧ decodePacket 0x000000000000000000000000000000000000000000000000000000001000000F = .error 2
    ∧ decodePacket 0x0100000000000000000000000000000000000000000000000000000000000004 = .error 2 := by
  decide +kernel

/-- Words that the spec writes out beside an assembly line of the scalar and control chapters. -/
theorem test_spec_words_scalar :
    decodeSlot false 0x04060840 = (0, .add 0 3 1 2) ∧ decodeSlot false 0x08860843 = (0, .div 1 3 1 2)
    ∧ decodeSlot false 0x08880845 = (0, .rem 1 4 1 2) ∧ decodeSlot false 0x2C121000 = (0, .cmpi 0 1 1 2 0)
    ∧ decodeSlot false 0x3407FFFF = (0, .movi 0 3 0x1FFFF) ∧ decodeSlot false 0x0C0420A9 = (0, .cmp 0 2 4 5 9)
    ∧ decodeSlot false 0x101220A2 = (0, .sel 0 9 4 5 2) ∧ decodeSlot false 0x14060842 = (0, .pxor 0 3 1 2)
    ∧ decodeSlot false 0x14140003 = (0, .pget 0 10) ∧ decodeSlot false 0x280A300C = (0, .shli 0 5 6 12)
    ∧ decodeSlot false 0x280A30BF = (0, .sari 0 5 6 63) ∧ decodeSlot false 0x040E4130 = (0, .bfx 0 7 8 9)
    ∧ decodeSlot false 0x340848D1 = (0, .movi 0 4 0x048D1) ∧ decodeSlot false 0x3809C4D5 = (0, .movhi 0 4 0x1C4D5)
    ∧ decodeSlot false 0x40001818 = (0, .csrw 0 3 0x018) ∧ decodeSlot false 0x3C180003 = (0, .csrr 0 12 0x003)
    ∧ decodeSlot false 0x5005FFFD = (0, .loopr 0 0 5 0xFFFD) ∧ decodeSlot false 0x5401F800 = (0, .jr 0 63)
    ∧ decodeSlot false 0x547E4801 = (0, .jrl 0 63 9) ∧ decodeSlot false 0x54000003 = (0, .eret 0)
    ∧ decodeSlot false 0x54000004 = (0, .uiret 0) := by
  decide +kernel

/-- Words that the spec writes out beside an assembly line of the vector and set chapters. -/
theorem test_spec_words_vector :
    decodeSlot false 0x6C05430A = (0, .vfma 0 5 0x21 0x42 2) ∧ decodeSlot false 0xA80A1616 = (0, .vtanh 0 10 11 2)
    ∧ decodeSlot false 0x84460208 = (0, .vcmp 0 2 6 1 2 0) ∧ decodeSlot false 0x9823151D = (0, .vxt 0 0x23 5 7 1)
    ∧ decodeSlot false 0xB8451E02 = (0, .vlds 0 0x45 7 2) ∧ decodeSlot false 0x9400000C = (0, .viota 0 0 0)
    ∧ decodeSlot false 0xBC0D1424 = (0, .sadd 0 13 10 9 0) ∧ decodeSlot false 0xC4024601 = (0, .sneg 0 2 0x23 1)
    ∧ decodeSlot false 0xEC00080A = (0, .ringld 0 0 1) ∧ decodeSlot false 0xC80A10A0 = (0, .spld 0 5 2 2 2)
    ∧ decodeSlot false 0xC81227B1 = (0, .spst 0 9 4 0x1E 3) := by
  decide +kernel

/-- Words that the spec writes out beside an assembly line of the later chapters. -/
theorem test_spec_words_system :
    decodeSlot false 0xCC0A18B0 = (0, .ld 0 5 3 2 3) ∧ decodeSlot false 0xCC001A03 = (0, .pref 0 3 8)
    ∧ decodeSlot false 0xDC080000 = (0, .hwait 0 4 0) ∧ decodeSlot false 0xDC065163 = (0, .hset 0 3 10 11)
    ∧ decodeSlot false 0xDC0A002B = (0, .uien 0 5 1) ∧ decodeSlot false 0xE800A000 = (0, .mxp 0 0 20)
    ∧ decodeSlot false 0xE80A1001 = (0, .mxpr 0 5 2) ∧ decodeSlot false 0xE820D003 = (0, .mxrt 0 16 26)
    ∧ decodeSlot false 0xE83C1004 = (0, .mxstat 0 30 2) ∧ decodeSlot false 0xE4122003 = (0, .mxcall 0 9 4 3)
    ∧ decodeSlot false 0xEC0C4800 = (0, .shand 0 6 9) ∧ decodeSlot false 0xEC0A1801 = (0, .sown 0 5 3)
    ∧ decodeSlot false 0xEC120002 = (0, .genr 0 9) ∧ decodeSlot false 0xEC0020A3 = (0, .tenend 0 4 5)
    ∧ decodeSlot false 0xEC0C1804 = (0, .genprobe 0 6 3 0) ∧ decodeSlot false 0xEC020005 = (0, .tidx 0 1)
    ∧ decodeSlot false 0xEC120006 = (0, .tnext 0 9) ∧ decodeSlot false 0xEC005167 = (0, .suspend 0 10 11)
    ∧ decodeSlot false 0xEC000008 = (0, .endTask 0) ∧ decodeSlot false 0xEC0A1809 = (0, .linkq 0 5 3) := by
  decide +kernel

/-- R19-R27, R36: the bundle of the division example, a lone header, and a bundle with two results for one register. -/
theorem test_bundles :
    decodeBundle false false 0x2C121000 0x3407FFFF 0 0
      = .ok ⟨.none, [⟨.cmpi 0 1 1 2 0, 0⟩, ⟨.movi 0 3 0x1FFFF, 0⟩, ⟨.nop, 0⟩, ⟨.nop, 0⟩]⟩
    ∧ decodeBundle false false 0x04060840 0x04060840 0 0 = .illegal 9 1
    ∧ decodeBundle false false 0xFC000000 0xFC000000 0 0 = .illegal 4 1 := by
  decide +kernel

/-- A word of the opcode table, and a word that is none. -/
theorem test_table_words :
    decodeTableWord 32 0x04060840 = some (.add 0 3 1 2) ∧ decodeTableWord 32 0xF0000000 ≠ none
    ∧ decodeTableWord 32 0x04000013 = none ∧ decodeTableWord 0 0 = none := by
  decide +kernel

/-- Lines and their words, from the tables under R42 and R43 (spec 02). -/
theorem test_assembled_lines :
    assembleLine [{ i := .addi 0 1 0 0, imm := 100000 }] = some [0xFC000030#32, 0x180206A0#32, 0#32, 0#32]
    ∧ assembleLine [{ i := .addi 0 1 0 0, imm := -5 }] = some [0x180207FB#32, 0#32, 0#32, 0#32]
    ∧ assembleLine [{ i := .vadd 0 3 1 2 0, mode := 1 }] = some [0xFD000001#32, 0x60030208#32, 0#32, 0#32]
    ∧ assembleLine [{ i := .br 0 0, imm := -3 }] = some [0#32, 0#32, 0#32, 0x440FFFFD#32]
    ∧ assembleLine [{ i := .br 0 0 }, { i := .nop }] = none := by
  decide +kernel

/-- The Igpor line under R443 (spec 19) and its words. -/
theorem test_assembled_igpor_line :
    assembleIgpor [({ i := .add 0 36 6 2 }, 0x50), ({ i := .vadd 1 72 2 5 0 }, 0x52)]
      = some [0xFE005250#32, 0x04483040#32, 0x60C80414#32, 0#32] := by
  decide +kernel

/-- The Igpor words of fdot (spec 19, "Forter dot"). -/
def fdotText : List (List W32) :=
  [[0xFE000000, 0xB8010400, 0xB8020401, 0x9403000F], [0xFE000000, 0x98040C03], [0xFE000000, 0x84450613],
   [0xFE000000, 0x7C060A04, 0x7C070A08], [0xFE000000, 0x5C080C1F], [0xFE000000, 0xB8060500, 0xB8070501],
   [0xFE000000, 0xB8080502, 0xEC000008]]
/-- The schedule of fdot under a budget of 16. -/
def fdotSchedule : Option Sched :=
  ((List.range 7).foldlM (fun (r : Reading) k => r.bundle k (fun j => (fdotText.getD k []).getD j 0)) {}).bind
    (fun r => Sched.run ⟨16, latencyByte⟩ 64 {} r.groups)
/-- R449-R452: the 25 bundles of the translated text of fdot and its two spilled rows, as spec 19 lists them. -/
theorem test_fdot_translated :
    fdotSchedule.map (fun s => (s.out.reverse.map (·.1), s.vspill, s.sspill, s.pspill, s.short)) = some (
      [[0xB8000400#32, 0xB8010401, 0x9402000F, 0x98030C03], [0, 0, 0, 0], [0x8444040F, 0, 0, 0], [0, 0, 0, 0],
       [0x7C020800, 0x7C030804, 0, 0], [0, 0, 0, 0], [0xA0000403, 0xA0010403, 0, 0], [0xA0040603, 0xA0050603, 0, 0],
       [0x90060483, 0x90070483, 0, 0], [0x90080683, 0x90090683, 0, 0], [0xA00A0C03, 0xA00B0E03, 0, 0],
       [0xA00C1003, 0xA00D1203, 0, 0], [0x680E0010, 0x680F0214, 0, 0], [0, 0, 0, 0], [0x6C0E1430, 0x6C0F1634, 0, 0],
       [0, 0, 0, 0], [0, 0, 0, 0], [0, 0, 0, 0], [0x9C021C00, 0x9C031E00, 0xB8020180, 0xB8030181],
       [0xB8000080, 0xB8010081, 0, 0], [0, 0, 0, 0], [0, 0, 0, 0], [0, 0, 0, 0], [0xB8000500, 0xB8010501, 0, 0],
       [0xA400040C, 0xB8020502, 0xEC000008, 0]], 2, 0, 0, false) := by
  decide +kernel

/-- R448: the bundle of fdot that holds VDOT needs a budget of 16 rows, and a bundle with VLDS is an excluded form. -/
theorem test_bundle_status :
    bundleStatus 16 7 4 (fun j => [0xFE000000#32, 0x5C080C1F].getD j 0) = 0
    ∧ bundleStatus 15 7 4 (fun j => [0xFE000000#32, 0x5C080C1F].getD j 0) = 3
    ∧ bundleStatus 16 7 4 (fun j => [0xFE000000#32, 0x440FFFFB, 0].getD j 0) = 1
    ∧ bundleStatus 16 7 4 (fun j => [0xFE000000#32, encodeSlot (.vlds 0 1 1 0)].getD j 0) = 2 := by
  decide +kernel

/-- R41, R43: expressions, a literal of a format, and data. -/
theorem test_expressions :
    Expr.eval (fun _ => none) (.bin .div (.lit 0x8000000000000000#64) (.lit (-1))) = some 0x8000000000000000#64
    ∧ Expr.eval (fun _ => none) (.bin .shr (.neg (.lit 8)) (.lit 1)) = some (-4)
    ∧ Expr.eval (fun _ => none) (.bin .div (.lit 1) (.lit 0)) = none
    ∧ literalCode fmtF16 false 1 1 = some 0x3C00 ∧ literalCode fmtF16 false 65505 1 = none
    ∧ emitItem 2 (-1) = some [0xFF#8, 0xFF#8] ∧ emitItem 1 0x100 = none := by
  decide +kernel

/-- Terms that keep their limits. -/
theorem test_wf_accepts :
    (Instr.add 0 3 1 2).wf = true ∧ (Instr.cmp 0 1 2 3 9).wf = true ∧ (Instr.csrr 0 1 0x018).wf = true
    ∧ (Instr.vrotl 0 1 2 63 2).wf = true ∧ (Instr.vld 0 0x21 3 0).wf = true ∧ (Instr.mma 1 2 3 4 5 6 1 0 0 0).wf = true
    ∧ (Instr.calls 65536 32).wf = true ∧ (Instr.handover 1 0 7 63 63 0 0).wf = true ∧ (Instr.landing 511).wf = true := by
  decide +kernel

/-- R33, R34, R36: slot operations with a reserved operation, condition, TYPE or control register (subcode 0x02). -/
theorem test_wf_refuses_reserved :
    (Instr.cmp 0 1 2 3 10).wf = false ∧ (Instr.cmpi 0 6 1 2 0).wf = false ∧ (Instr.cmpiu 0 4 1 2 0).wf = false
    ∧ (Instr.csrr 0 1 0x005).wf = false ∧ (Instr.csrw 0 1 0x3FF).wf = false ∧ (Instr.vcvt 0 1 2 1 1).wf = false
    ∧ (Instr.vexp2 0 1 2 1).wf = false ∧ (Instr.vlog2 0 1 2 1).wf = false ∧ (Instr.vrcp 0 1 2 1).wf = false
    ∧ (Instr.vrsq 0 1 2 1).wf = false ∧ (Instr.vsin 0 1 2 1).wf = false ∧ (Instr.vtanh 0 1 2 1).wf = false
    ∧ (Instr.vunpk 0 1 2 9 0 0).wf = false ∧ (Instr.vunpk 0 1 2 0 0 1).wf = false ∧ (Instr.vpack 0 1 2 9 0 0).wf = false
    ∧ (Instr.vbscl 0 1 2 3 1).wf = false ∧ (Instr.vlds 0 0x05 1 0).wf = false ∧ (Instr.vsts 0 0x05 1 0).wf = false
    ∧ (Instr.cqry 0 1 2 6).wf = false ∧ (Instr.genprobe 0 1 2 2).wf = false ∧ (Instr.vdot 0 1 2 3 1).wf = false
    ∧ (Instr.vcvth 0 1 2 2 2).wf = false ∧ (Instr.vcvth 0 1 2 0 1).wf = false := by
  decide +kernel

/-- R147, R149, R153, R216, R268: slot operations with a lane, a part, a count or a level beyond its limit (subcode 0x03), and
a native row transfer of a column, which Igpor alone has. -/
theorem test_wf_refuses_limits :
    (Instr.vrotl 0 1 2 32 0).wf = false ∧ (Instr.vxt 0 1 2 32 1).wf = false ∧ (Instr.vins 0 1 2 32 0).wf = false
    ∧ (Instr.vunpk 0 1 2 2 5 0).wf = false ∧ (Instr.vpack 0 1 2 2 2 2).wf = false ∧ (Instr.mxrt 0 32 1).wf = false
    ∧ (Instr.clvl 0 7 0 0).wf = false ∧ (Instr.clvl 0 6 0 1).wf = false
    ∧ (Instr.vld 0 0x21 3 0).badCode = 2 ∧ (Instr.vst 0 0x41 3 0).badCode = 2 := by
  decide +kernel

/-- R251, R364, R339: micro-ops and packets with a field that must be zero or is beyond its limit. -/
theorem test_wf_refuses_fields :
    (Instr.zero 0 1).wf = false ∧ (Instr.mma 1 2 3 4 5 6 0 0 0 0).wf = false ∧ (Instr.mma 1 2 3 0 5 6 0 0 1 0).wf = false
    ∧ (Instr.mma 1 2 3 0 5 6 0 0 0 1).wf = false ∧ (Instr.drain 1 2 0 0).wf = false ∧ (Instr.adv 1 2 0 0).wf = false
    ∧ (Instr.adv 1 2 1 1).wf = false ∧ (Instr.waitmem 3 0 0 0).wf = false ∧ (Instr.signal 0x800 0 0).wf = false
    ∧ (Instr.calls 0 0).wf = false ∧ (Instr.calls 65537 0).wf = false ∧ (Instr.handover 0 0 8 0 0 0 0).wf = false
    ∧ (Instr.handover 1 0 0 64 0 0 0).wf = false ∧ (Instr.handover 1 0 0 0 64 0 0).wf = false := by
  decide +kernel

/-- R5, R14, R17, R341: events of a core, a die, a stack, a queue, a link, a tenancy or a slot that does not exist. -/
theorem test_wf_refuses_places :
    (Instr.callStart 512).wf = false ∧ (Instr.statusPost 512 0).wf = false ∧ (Instr.landing 512).wf = false
    ∧ (Instr.resultArrive 512 0).wf = false ∧ (Instr.trapEntry 512).wf = false ∧ (Instr.userLevelInterrupt 512).wf = false
    ∧ (Instr.sbDrain 512 0).wf = false ∧ (Instr.waitaReread 512).wf = false ∧ (Instr.copyLineTransfer 512 0 0).wf = false
    ∧ (Instr.remotePost 512 0).wf = false ∧ (Instr.preloadStart 512 0).wf = false ∧ (Instr.taskStart 512).wf = false
    ∧ (Instr.brickReady 8 0).wf = false ∧ (Instr.brickResume 512).wf = false ∧ (Instr.taskComplete 512).wf = false
    ∧ (Instr.chunkMark 0 16).wf = false ∧ (Instr.chunkMark 8 0).wf = false ∧ (Instr.chunkClaim 512).wf = false
    ∧ (Instr.launchComplete 8 0).wf = false ∧ (Instr.tailRead 0 128).wf = false ∧ (Instr.handoverSwitch 8).wf = false
    ∧ (Instr.ownerMirrorUpdate 8 0).wf = false ∧ (Instr.tenendSwitch 0 17).wf = false ∧ (Instr.tenendRecord 4096).wf = false
    ∧ (Instr.softRequest 512).wf = false ∧ (Instr.hardRequest 512).wf = false ∧ (Instr.killRequest 512).wf = false
    ∧ (Instr.graceExpiry 512).wf = false ∧ (Instr.contextSave 512).wf = false ∧ (Instr.killExpiry 512).wf = false
    ∧ (Instr.contextRestore 512).wf = false ∧ (Instr.functionLevelReset 512).wf = false ∧ (Instr.flrDrainEnd 512).wf = false
    ∧ (Instr.cpReset 8).wf = false ∧ (Instr.ioFunctionRelease 32).wf = false ∧ (Instr.tenancyOpen 4096).wf = false
    ∧ (Instr.invalidationComplete 8 0).wf = false ∧ (Instr.linkEnable 24).wf = false ∧ (Instr.retrain 24).wf = false
    ∧ (Instr.linkDown 24).wf = false ∧ (Instr.downNotice 8 true).wf = false ∧ (Instr.linkMirrorUpdate 0 24).wf = false
    ∧ (Instr.waitmemReread 8 0).wf = false ∧ (Instr.followerLaunch 0 16).wf = false
    ∧ (Instr.throttleLevelChange 0 4 0).wf = false ∧ (Instr.slotTableTakeEffect 8).wf = false := by
  decide +kernel

/-- R45, R46, R59, R36: bundles that the bundle checks refuse: a slot of class BR outside S3, three slots of class SA, a
header outside S0, and a mode byte for a slot that takes none. -/
theorem test_bundle_checks :
    decodeBundle false false 0x48000005 0 0 0 = .illegal 8 0
    ∧ decodeBundle false false 0x04060840 0x04080840 0x040A0840 0 = .illegal 8 2
    ∧ decodeBundle false false 0 0xFC000000 0 0 = .illegal 4 1
    ∧ decodeBundle false false 0xFE000000 0x04060840 0 0 = .illegal 5 0
    ∧ decodeBundle false false 0xFF000000 0x04060840 0 0 = .illegal 6 0
    ∧ decodeBundle false false 0xFD000001 0x04060840 0 0 = .illegal 7 1 := by
  decide +kernel

/-- Core 0 of a live tenancy, its registers changed by f. -/
def base (f : Machine.Core → Machine.Core) : State := (State.reset.withFetchWord 32 0).updCore 0 f
/-- Scalar registers written under the tenancy's generation. -/
def regs (l : List (Nat × W64)) (k : Machine.Core) : Machine.Core :=
  l.foldl (fun k e => k.setScalar 2#16 false e.1 e.2) k
/-- The state after a slot of an issued bundle, and the state after one step on a placed word. -/
def after (i : Instr) (f : Machine.Core → Machine.Core) : State :=
  match exec i ((base f).atSlot 0 0 .none 0 .commit) with
  | .next t => t
  | _ => State.reset
def ran (w : Nat) (f : Machine.Core → Machine.Core) : State :=
  match step ((State.reset.withFetchWord 32 w).updCore 0 f) with
  | .next t => t
  | _ => State.reset
/-- The landing queue of core 0: virtual cycles to go, destination, and the low 64 bits of the value. -/
def queued (t : State) : List (Nat × Nat × Nat) := (t.core 0).lq.map (fun e => (e.remv, e.dest, e.value.toNat % 2 ^ 64))

/-- R71: a sum wraps modulo 2^64; R72: a shift by 64 is a shift by 0; MIN is signed and MINU unsigned. -/
theorem test_scalar_results :
    queued (after (.add 0 3 1 2) (regs [(1, 0xFFFFFFFFFFFFFFFF), (2, 2)])) = [(1, 3, 1)]
    ∧ queued (after (.shl 0 3 1 2) (regs [(1, 5), (2, 64)])) = [(1, 3, 5)]
    ∧ queued (after (.min 0 3 1 2) (regs [(1, 0xFFFFFFFFFFFFFFFF), (2, 2)])) = [(1, 3, 0xFFFFFFFFFFFFFFFF)]
    ∧ queued (after (.minu 0 3 1 2) (regs [(1, 0xFFFFFFFFFFFFFFFF), (2, 2)])) = [(1, 3, 2)]
    ∧ queued (after (.clz 0 3 1) (regs [(1, 0)])) = [(1, 3, 64)]
    ∧ queued (after (.popc 0 3 1) (regs [(1, 0xF0F)])) = [(1, 3, 8)] := by
  decide +kernel

/-- R73: the example of the spec: BFX of 0xABCD gives 0xBC and BFI of 0x5A into 0xABCD gives 0xA5AD. -/
theorem test_bit_fields :
    queued (after (.bfx 0 7 8 9) (regs [(8, 0xABCD), (9, 0x704)])) = [(1, 7, 0xBC)]
    ∧ queued (after (.bfi 0 7 8 9) (regs [(7, 0xABCD), (8, 0x5A), (9, 0x704)])) = [(1, 7, 0xA5AD)] := by
  decide +kernel

/-- R75: the outcomes of the spec's table for -9 / 2, 9 / -2 and -2^63 / -1, and their remainders, after 12 cycles. -/
theorem test_divisions :
    queued (after (.div 0 3 1 2) (regs [(1, -9), (2, 2)])) = [(12, 3, 0xFFFFFFFFFFFFFFFC)]
    ∧ queued (after (.rem 0 4 1 2) (regs [(1, -9), (2, 2)])) = [(12, 4, 0xFFFFFFFFFFFFFFFF)]
    ∧ queued (after (.div 0 3 1 2) (regs [(1, 9), (2, -2)])) = [(12, 3, 0xFFFFFFFFFFFFFFFC)]
    ∧ queued (after (.rem 0 4 1 2) (regs [(1, 9), (2, -2)])) = [(12, 4, 1)]
    ∧ queued (after (.div 0 3 1 2) (regs [(1, 0x8000000000000000), (2, -1)])) = [(12, 3, 0x8000000000000000)]
    ∧ queued (after (.rem 0 4 1 2) (regs [(1, 0x8000000000000000), (2, -1)])) = [(12, 4, 0)] := by
  decide +kernel

/-- R74: the high half of -1 times 2, signed and unsigned. -/
theorem test_products :
    queued (after (.mulh 0 3 1 2) (regs [(1, -1), (2, 2)])) = [(3, 3, 0xFFFFFFFFFFFFFFFF)]
    ∧ queued (after (.mulhu 0 3 1 2) (regs [(1, -1), (2, 2)])) = [(3, 3, 1)]
    ∧ queued (after (.mul 0 3 1 2) (regs [(1, -1), (2, 2)])) = [(3, 3, 0xFFFFFFFFFFFFFFFE)] := by
  decide +kernel

/-- R76, R78, R79, R81: immediates are sign-extended, MOVHI's is not, and CMPI.LTU compares with the extended one. -/
theorem test_immediates :
    queued (after (.addi 0 1 0 0x7FB) id) = [(1, 1, 0xFFFFFFFFFFFFFFFB)]
    ∧ queued (after (.movi 0 3 0x1FFFF) id) = [(1, 3, 0xFFFFFFFFFFFFFFFF)]
    ∧ queued (after (.movhi 0 3 0x1FFFF) (regs [(3, 1)])) = [(1, 3, 0x3FFFF)]
    ∧ queued (after (.cmpiu 0 0 2 5 0x7FF) (regs [(5, 7)])) = [(1, 2, 1)]
    ∧ queued (after (.cmpiu 0 0 2 5 0x7FF) (regs [(5, -1)])) = [(1, 2, 0)] := by
  decide +kernel

/-- R21, R70: a slot under a predicate with a stale hallmark does nothing; R67: s0 reads as zero. -/
theorem test_guards :
    queued (after (.add 1 3 1 2) (regs [(1, 1), (2, 2)])) = []
    ∧ queued (after (.add 1 3 1 2) (fun k => (regs [(1, 1), (2, 2)] k).setPred 2#16 false 1 true)) = [(1, 3, 3)]
    ∧ queued (after (.add 0 3 0 2) (regs [(0, 9), (2, 2)])) = [(1, 3, 2)] := by
  decide +kernel

/-- R83: PGET reads p0 as true and the others as they are. -/
theorem test_pget :
    queued (after (.pget 0 10) (fun k => k.setPred 2#16 false 3 true)) = [(1, 10, 9)] := by
  decide +kernel

/-- R90, R91: BR to five bundles on goes to 0x50 from 0; a jump to an address with a low bit set is control trap 0x01. -/
theorem test_branches :
    (after (.br 0 5) id).cur.redirect = some 0x50
    ∧ ((after (.brl 0 0xFFFFF) id).cur.redirect, queued (after (.brl 0 0xFFFFF) id)) = (some 0xFFFFFFFFFFF0, [(1, 63, 16)])
    ∧ (after (.jr 0 63) (regs [(63, 0x120)])).cur.redirect = some 0x120 := by
  decide +kernel

/-- R92: a loop of count 1 ends; one of count 2 goes on with its counter at 1 from the next virtual cycle. -/
theorem test_loops :
    (after (.loop 0 0 0xFFFE) (fun k => k.csrWrite 0x18 1)).cur.redirect = none
    ∧ (after (.loop 0 0 0xFFFE) (fun k => k.csrWrite 0x18 2)).cur.redirect = some 0xFFFFFFFFFFE0
    ∧ ((after (.loop 0 0 0xFFFE) (fun k => k.csrWrite 0x18 2)).core 0).nextVc = [.csr 0x18 1] := by
  decide +kernel

/-- One step on a placed word: MOVI s3, 5 has landed once its bundle's virtual cycle has passed, and the pc and VCYC have
moved on; BR moves the pc by its offset. -/
theorem test_step_runs :
    (((ran 0x34060005 id).core 0).scalar 2#16 3, ((ran 0x34060005 id).core 0).pc, ((ran 0x34060005 id).core 0).csr.vcyc)
      = (5, 16, 1)
    ∧ queued (ran 0x34060005 id) = []
    ∧ ((ran 0x44000005 id).core 0).pc = 0x50 := by
  decide +kernel

/-- R36, R103: an illegal word traps, and with PTVEC zero the core stops, its pc at the bundle. -/
theorem test_step_illegal :
    (((ran 0x5C000000 id).core 0).stopped, ((ran 0x5C000000 id).core 0).pc) = (true, 0)
    ∧ (((ran 0x00000001 id).core 0).stopped, ((ran 0x00000001 id).core 0).csr.vcyc) = (true, 0) := by
  decide +kernel

/-- R376, R378: TIDX reads the index and the node of the task. -/
theorem test_tidx :
    queued (after (.tidx 0 1) (fun k => { k with task := k.task.map (fun t => { t with index := 7, node := 3 }) }))
      = [(1, 1, 0x300000007)] := by
  decide +kernel

/-- R140: 1.5 + 2.25 in every f32 lane is 3.75, and an i32 sum wraps. -/
theorem test_vector_sums :
    let s := after (.vadd 0 5 1 2 0) (fun k => (k.writeRow 2#16 1 allUnits (BitVec.ofNat 1024 0x3FC00000)).writeRow 2#16 2 allUnits
      (BitVec.ofNat 1024 0x40100000))
    (s.core 0).lq.map (fun e => (e.remv, e.dest, e.value.toNat % 2 ^ 32)) = [(2, 5, 0x40700000)] := by
  decide +kernel

/-- R142, R143: VXOR of a row with itself, and a shift by the low five bits. -/
theorem test_vector_bits :
    let f := fun (k : Machine.Core) => (k.writeRow 2#16 1 allUnits (BitVec.ofNat 1024 0x80000001)).writeRow 2#16 2 allUnits
      (BitVec.ofNat 1024 0x21)
    (((after (.vxor 0 5 1 1) f).core 0).lq.map (fun e => e.value.toNat)) = [0]
    ∧ (((after (.vsar 0 5 1 2) f).core 0).lq.map (fun e => e.value.toNat)) = [0xC0000000] := by
  decide +kernel

/-- R182: a load of a line with another hallmark is zero; R184: the store waits for the next virtual cycle. -/
theorem test_scratchpad :
    queued (after (.spld 0 5 2 0 3) (fun k => (regs [(2, 0)] k).writeSpm 3#16 0 0 8 0xAB)) = [(4, 5, 0)]
    ∧ queued (after (.spld 0 5 2 0 3) (fun k => (regs [(2, 0)] k).writeSpm 2#16 0 0 8 0xAB)) = [(4, 5, 0xAB)]
    ∧ ((after (.spst 0 5 2 0 3) (regs [(2, 0), (5, 9)])).core 0).spm = [] := by
  decide +kernel

/-- R190, R191: HSET writes FMT and GEO of a FREE handle, and HEXP makes it FILLING with its expectation. -/
theorem test_handles :
    (((after (.hexp 0 3 10 11) (regs [(10, 256), (11, 1)])).core 0).handle 2#16 3).st = .filling
    ∧ (((after (.hexp 0 3 10 11) (regs [(10, 256), (11, 1)])).core 0).handle 2#16 3).exp = 256 := by
  decide +kernel

/-- R349: GENR reads the generation of the core's tenancy, and its number above it. -/
theorem test_genr :
    queued (after (.genr 0 9) id) = [(1, 9, 0x20002)] := by
  decide +kernel

/-- R239: MXP writes a parameter register and MXPR reads one. -/
theorem test_mx_parameters :
    queued (after (.mxpr 0 5 2) id) = [(1, 5, 0)] := by
  decide +kernel

/-- R309: ST enters the store buffer of the core and changes no byte of memory at its issue. -/
theorem test_store_issues :
    (after (.st 0 11 2 0 3) (regs [(2, 64), (11, 5)])).mem = (base id).mem
    ∧ ((after (.st 0 11 2 0 3) (regs [(2, 64), (11, 5)])).core 0).accs.map (fun a => (a.size, a.done)) = [(8, false)] := by
  decide +kernel

/-- R95: WAIT goes on with no load counted, and holds with two where one is allowed. -/
theorem test_wait :
    ((after (.wait 0 1 31 31 31) id).cur.verdict = .go) ∧ (after (.wait 0 1 31 31 31) id).k.pc = 0 := by
  decide +kernel

/-! ### Witnesses: states and operands that meet the statements' hypotheses -/

/-- Core 0 with a slot at hand: alone, or of a bundle that issues. -/
def alone (f : Machine.Core → Machine.Core) : State := (base f).atSlot 0 0 .none 0 .whole
def issued (f : Machine.Core → Machine.Core) : State := (base f).atSlot 0 0 .none 0 .commit
/-- The same at platform level. -/
def plat (f : Machine.Core → Machine.Core) : State := alone (fun k => f { k with lvl := true })

/-- ScalarOperationResults, ShiftAndBitFieldResults, ImmediateResults: a slot executes alone and in a bundle, with one, two
or three operands, to a register and to s0, also under a header of kind 00; the operands at the bounds of their clauses. -/
theorem witness_executes :
    (alone id).Executes 0 [1, 2] (some 3) false ∧ (issued id).Executes 0 [1, 2] (some 0) false
    ∧ (alone id).Executes 0 [63] (some 63) false ∧ (alone id).Executes 0 [] (some 3) false
    ∧ (alone id).Executes 0 [1, 2, 3] (some 3) false ∧ (alone id).Executes 0 [1, 2] none false
    ∧ ((base id).atSlot 0 1 .imm 0x80 .whole).Executes 0 [1] (some 3) false
    ∧ ((alone (regs [(1, 1)])).reg 1 = 1 ∧ (alone (regs [(2, 64)])).reg 2 = 64 ∧ (alone id).reg 1 = 0) := by
  unfold State.Executes; decide +kernel

/-- ProductsQuotientsAndDivisionTraps: a divisor that is not zero and one that is, under a true and under a false guard. -/
theorem witness_ProductsQuotientsAndDivisionTraps :
    ((alone (regs [(2, -1)])).Executes 0 [1, 2] (some 3) false ∧ (alone (regs [(2, -1)])).reg 2 ≠ 0)
    ∧ ((alone id).cur.mode = .whole ∧ (alone id).guard 0 = true ∧ (alone id).operandVerdict [1, 2] (some 3) false = .go
      ∧ (alone id).reg 2 = 0)
    ∧ (alone id).guard 1 = false := by
  unfold State.Executes; decide +kernel

/-- ComparisonAndPredicateResults: conditions at both ends of the signed and the unsigned ones. -/
theorem witness_ComparisonAndPredicateResults :
    (alone id).Executes 0 [1, 2] none false ∧ (alone id).Executes 0 [1] none false ∧ (alone id).Executes 0 [] none false
    ∧ (0#5).toNat < 6 ∧ (5#5).toNat < 6 ∧ (6 ≤ (6#5).toNat ∧ (9#5).toNat < 10) ∧ (5#3).toNat < 6 ∧ (3#3).toNat < 4 := by
  unfold State.Executes; decide +kernel

/-- DuplicateChecks: equal and different registers, and rows that agree, or that differ first in unit 31. -/
theorem witness_DuplicateChecks :
    ((alone id).Executes 0 [1, 2] none false ∧ (alone id).reg 1 = (alone id).reg 2)
    ∧ ((alone (regs [(1, 1)])).operandVerdict [1, 2] none false = .go ∧ (alone (regs [(1, 1)])).reg 1 ≠ (alone (regs [(1, 1)])).reg 2)
    ∧ (alone id).vecVerdict [(alone id).vA 1, (alone id).vB 2] [] = .go
    ∧ (∀ u < 32, unitOf ((alone id).vec 1) u = unitOf ((alone id).vec 2) u)
    ∧ (let s := alone (fun k => k.writeRow 2#16 1 allUnits (1#1024 <<< 992))
      s.vecVerdict [s.vA 1, s.vB 2] [] = .go ∧ (∀ u < 31, unitOf (s.vec 1) u = unitOf (s.vec 2) u)
      ∧ unitOf (s.vec 1) 31 ≠ unitOf (s.vec 2) 31) := by
  unfold State.Executes; decide +kernel

/-- SuppressedSlotsDoNothing: a slot operation with a false guard. -/
theorem witness_SuppressedSlotsDoNothing :
    (alone id).cur.mode ≠ .probe ∧ (Instr.trap 1 5).major < 64 ∧ (alone id).guard (Instr.trap 1 5).guard = false := by
  decide +kernel

/-- ControlRegistersReadAndWrite: a user-level register at user level, a platform one at platform level, and a platform one
at user level. -/
theorem witness_ControlRegistersReadAndWrite :
    ((0x3FF#11).toNat < 0x400 ∧ (alone id).Executes 0 [] (some 3) false)
    ∧ ((plat id).k.lvl = true ∧ (plat id).Executes 0 [] (some 3) false ∧ (plat id).Executes 0 [1] none false)
    ∧ (0x400 ≤ (0x400#11).toNat ∧ (alone id).k.lvl = false ∧ (alone id).guard 0 = true
      ∧ (alone id).operandVerdict [] (some 3) false = .go ∧ (alone id).operandVerdict [1] none false = .go) := by
  unfold State.Executes; decide +kernel

/-- BranchesRedirect: targets at the ends of the address space, and targets with a low or a high bit set. -/
theorem witness_BranchesRedirect :
    ((alone id).Executes 0 [] none false ∧ (alone id).Executes 0 [] (some 63) false)
    ∧ ((0x0#64).toNat < 0x1000000000000 ∧ (0x0#64).toNat % 16 = 0)
    ∧ ((0xFFFFFFFFFFF0#64).toNat < 0x1000000000000 ∧ (0xFFFFFFFFFFF0#64).toNat % 16 = 0)
    ∧ ¬ (0x8#64).toNat % 16 = 0 ∧ ¬ (0x1000000000000#64).toNat < 0x1000000000000
    ∧ (alone (regs [(5, 0x8)])).reg 5 = 0x8 ∧ (alone (regs [(5, 0x8)])).operandVerdict [5] (some 63) false = .go := by
  unfold State.Executes; decide +kernel

/-- LoopsAndWaits: counts within their limits and one above. -/
theorem witness_LoopsAndWaits :
    (alone id).Executes 0 [] none false
    ∧ ((alone (fun k => { k with nld := 1 })).k.nld.toNat ≤ (1#5).toNat ∧ (31#5 = 31 ∧ (alone id).k.nst.toNat ≤ (0#5).toNat))
    ∧ ((0#5 ≠ 31) ∧ ¬ (alone (fun k => { k with nld := 1 })).k.nld.toNat ≤ (0#5).toNat
      ∧ (alone (fun k => { k with nld := 1 })).guard 0 = true) := by
  unfold State.Executes; decide +kernel

/-- An area of core 0 in die-local memory, and a trap vector. -/
def withArea (k : Machine.Core) : Machine.Core := (k.csrWrite 0x406 0x10000).csrWrite 0x401 0x2000

/-- TrapsEnterOrStopTheCore: a trap at user level with and without a pending result, and the three cases of a double trap. -/
theorem witness_TrapsEnterOrStopTheCore :
    let s := alone withArea
    let q : Pending := { id := 0, reg := 5, gen := 2#16, shadow := false, value := none, counted := true }
    (s.guard 0 = true ∧ (s.core 0).lvl = false ∧ (∀ q ∈ (s.core 0).pend, q.failed = true) ∧ s.areaWaits 0 = false ∧ (s.core 0).csr.ptvec ≠ 0
      ∧ s.areaOk 0 = true ∧ (s.core 0).ctxArea % 2 ^ 16 = 0 ∧ Memory.wf s.mem = true
      ∧ (s.core 0).csr.ptvec.toNat + 0x40 * 63 < 2 ^ 48)
    ∧ (∃ r ∈ ((alone (fun k => { k with pend := [q] })).core 0).pend, r.failed = false)
    ∧ ((plat id).core 0).lvl = true ∧ ((alone id).core 0).csr.ptvec = 0
    ∧ (alone (fun k => k.csrWrite 0x406 0xFFFFFFFFFFFF0000)).areaOk 0 = false := by
  decide +kernel

/-- TrapsEnterOrStopTheCore: a vector that is no address, and a task whose launch a machine check fails. -/
theorem witness_traps :
    let s := alone (fun k => (withArea k).csrWrite 0x401 0x1000000000000)
    ((s.core 0).lvl = false ∧ (s.core 0).csr.ptvec ≠ 0 ∧ s.areaOk 0 = true ∧ 2 ^ 48 ≤ (s.core 0).csr.ptvec.toNat + 0x40 * 1)
    ∧ (s.die 0).frLog = 0 := by
  decide +kernel

/-- ReturnsFromPlatformLevel: user level; platform level in a current and in a stale context. -/
theorem witness_ReturnsFromPlatformLevel :
    let s := plat withArea
    ((alone id).k.lvl = false ∧ (alone id).cur.mode = .whole ∧ (alone id).guard 0 = true)
    ∧ (s.k.lvl = true ∧ s.guard 0 = true ∧ s.k.pend = [] ∧ s.areaOk 0 = true ∧ s.badRun s.k.ctxArea corePartBytes = false
      ∧ s.areaWaits 0 = false ∧ s.staleContext 0 = false ∧ lqPartOk (s.read platformGen s.k.ctxArea corePartBytes) = true)
    ∧ lqPartOk (2 ^ (8 * 0x800 + 7)) = false ∧ (plat (fun k => withArea { k with ctxGen := 3#16 })).staleContext 0 = true := by
  decide +kernel

/-- UserLevelInterruptsEnterAndReturn: the highest handle pending, and a return inside and outside a handler. -/
theorem witness_UserLevelInterruptsEnterAndReturn :
    let s := alone (fun k => { k with uiPend := 1#64 <<< 63, csr := { k.csr with uivec := 0x100 } })
    ((s.core 0).uiReady = true ∧ (s.core 0).uiPend.getLsbD 63 = true ∧ (∀ i < 63, (s.core 0).uiPend.getLsbD i = false))
    ∧ ((alone (fun k => { k with ui := true })).k.ui = true ∧ (alone (fun k => { k with ui := true })).k.pend = []
      ∧ (alone (fun k => { k with ui := true })).guard 0 = true ∧ (alone id).k.ui = false) := by
  decide +kernel

/-- ResultsLandAndArrive: one due entry, and a pending result that is known. -/
theorem witness_ResultsLandAndArrive :
    (((((issued id).putScalar 0 3 5).core 0).lq.filter (fun e => decide (e.remv = 0))).map
      (fun e => (e.kind, e.dest, e.gen, e.shadow, e.value.setWidth 64)) = [(.scalar, 3, (issued id).coreGen 0, false, 5#64)])
    ∧ (let q : Pending := { id := 0, reg := 5, gen := 2#16, shadow := false, value := some 7#64, counted := true }
       let s := base (fun k => { k with pend := [q] })
       (s.core 0).pend[0]? = some q ∧ q.failed = false ∧ s.resultOf 0 q = some 7#64 ∧ q.gen = s.coreGen 0
       ∧ q.shadow = (s.core 0).inShadow q.reg 56) := by
  decide +kernel

/-- The vector statements (VectorArithmeticAndBitResults, VectorSelectionsAndMoves, VectorReductionsAndConversions,
SpecialFunctions, PackedElementResults, VirtualVectorResults, SetResults): slots with each shape of operands execute, to
rows, columns and themselves, alone and in a bundle; the limits of the lane, rotation and part numbers. -/
theorem witness_vector_operands :
    let s := alone id
    let t := issued id
    (s.Clear 0 [] none false (s.vecVerdict [s.vA 1, s.vB 2] [s.vD 5])
      ∧ s.Clear 0 [] none false (s.vecVerdict [s.vA 1, s.vB 2, s.vD 0x25] [s.vD 0x25])
      ∧ s.Clear 0 [] none false (s.vecVerdict [s.vA 0x41] [s.vD 0x5F]) ∧ s.Clear 0 [] none false (s.vecVerdict [] [s.vD 31])
      ∧ s.Clear 0 [] none false (s.vecVerdict [s.vA 1, s.vB 2] [s.vRow 31]))
    ∧ (s.Clear 0 [7] none false (s.vecVerdict [] [s.vD 5]) ∧ s.Clear 0 [] (some 7) false (s.vecVerdict [s.vD 5] [])
      ∧ s.Clear 0 [7] none false (s.vecVerdict [s.vD 5] [s.vD 5]))
    ∧ (t.Clear 0 [] none false (t.vecVerdict [t.vA 1, t.vD 5] [t.vD 5]) ∧ t.Clear 0 [] none false (t.vecVerdict [t.vA 5] [t.vD 5]))
    ∧ ((31#7).toNat < lanesOf 0 ∧ (63#7).toNat < lanesOf 2 ∧ (31#6).toNat < lanesOf 1 ∧ (63#6).toNat < lanesOf 3)
    ∧ ((7 + 1) * partSize 4 0 ≤ 128 ∧ (0 + 1) * partSize 2 2 ≤ 128)
    ∧ ((narrowElem 2).isSome = true ∧ (narrowElem 8).isSome = false ∧ typeWidth 2 = 16 ∧ typeWidth 0 = 32) := by
  unfold State.Clear State.Executes; decide +kernel

/-- SpecialFunctions: numbers of either sign and either kind of exponent. -/
theorem witness_SpecialFunctions : 0 < (1 : Nat) ∧ (0 : Int) ≤ 0 ∧ ¬ (0 : Int) ≤ -1 := by decide

/-- SetResults: the null ring, lanes that hold the empty set, one position and the whole line, and arcs at their bounds. -/
theorem witness_SetResults :
    let s := alone (fun k => k.writeRow 2#16 1 allUnits 0xFFFF0001)
    let g := s.k.ring s.gen 0
    g.null = true ∧ g.n = 16 ∧ laneNat 16 (s.vec 1) 0 = 1 ∧ laneNat 16 (s.vec 1) 1 = 2 ^ 16 - 1 ∧ laneNat 16 (s.vec 1) 2 = 0
    ∧ (15 < g.n ∧ 0 < 1 ∧ 16 ≤ g.n) := by
  decide +kernel

/-- ScratchpadReadsAndWrites: transfers at both ends of the scratchpad, and a store that ends its line. -/
theorem witness_ScratchpadReadsAndWrites :
    let s := alone id
    (s.Clear 0 [7] none false ((s.spmVerdict 0 false).also (s.vecVerdict [] [s.vD 5]))
      ∧ s.Clear 0 [7] none false ((s.spmVerdict 4095 true).also (s.vecVerdict [s.vD 5] []))
      ∧ s.Clear 0 [7] (some 3) false (s.spmVerdict 4095 false) ∧ s.Clear 0 [7, 3] none false (s.spmVerdict 0 true))
    ∧ (120 % 128 + 8 ≤ 128 ∧ 8 ≤ 8) ∧ (2#16 = s.coreGen 0 ∧ 3#16 ≠ s.coreGen 0) := by
  unfold State.Clear State.Executes; decide +kernel

/-- ScratchpadReadsAndWrites: memory that holds the header of a ring of 16 positions is an image that RINGLD reads. -/
theorem witness_ringImage :
    (match (alone (fun k => { k with ringRead := some { ea := 0x100, n := 202, v := 0x65000000010 } })).ringImage 0x100 with
      | .data _ => true
      | .stop _ => false) = true
    ∧ (((alone id).write 2#16 0x100 8 0x65000000010).ringStep 0x100).k.ringRead = some { ea := 0x100, n := 1, v := 0x65000000010 } := by
  decide +kernel

/-- GlobalAccessesEnterProgramOrder: an aligned load, store and atomic at both ends of a mapped page, a fence and PREF. -/
theorem witness_GlobalAccessesEnterProgramOrder :
    let s := alone id
    (s.Clear 0 [2] (some 3) true (s.accessVerdict 0 8 .read) ∧ s.Clear 0 [2] (some 3) true (s.accessVerdict 0xFFF8 8 .read)
      ∧ s.Clear 0 [2, 3] none false (s.accessVerdict 0xFFFF 1 .write)
      ∧ s.Clear 0 [2, 4] (some 3) true (s.accessVerdict 0xFFF8 8 .both) ∧ s.Clear 0 [2, 4, 3] (some 3) true (s.accessVerdict 0 8 .both))
    ∧ s.Executes 0 [] none false ∧ s.Executes 0 [2] none false ∧ s.inFlight 0 < 2048 := by
  unfold State.Clear State.Executes; decide +kernel

/-- The target of the mapped page's address 0, for core 0. -/
def place (s : State) (a : W64) (n : Nat) (p : Perm) : Target := s.targetNow a n p

/-- AddressWaits: a word that satisfies a WAITA.ne, one that does not satisfy a WAITA.eq, and a held WAITA's re-read. -/
theorem witness_AddressWaits :
    let s := alone (regs [(4, 1)])
    let t := place s 0 8 .read
    (s.guard 0 = true ∧ s.badAt t.dla = false ∧ s.wayLost s.d t = false ∧ s.Executes 0 [2, 4] (some 3) false
      ∧ (match s.translateCore 0 0 8 .read with
        | .ok u => decide (u = t)
        | .error _ => false) = true)
    ∧ (s.waitaValue false 0 1 0).isSome = true ∧ s.waitaValue true 0 1 0 = none
    ∧ ((alone (fun k => { k with waita := [(0, 0, 1, false, 0)] })).k.waitaHit = []
      ∧ (s.waitaRead 0 t 0).map (·.1) = some 0) := by
  unfold State.Executes; decide +kernel

/-- AddressWaits: the word of a WAITA at a home with an uncorrectable error, at one that no way reaches, and one that waits. -/
theorem witness_waitaNear :
    let s := alone id
    let t := place s 0 8 .read
    ({ s with badGranules := [(0, true)] }.waitaNear 0 t 0 = .bad)
    ∧ (((s.updLink 0 (fun x => { x with st := 2 })).updLink 7 (fun x => { x with st := 2 })).waitaNear 0 { t with die := 7 } 0 = .lost)
    ∧ (s.updStack 0 (fun x => { x with epoch := 9 })).waitaNear 0 t 0 = .wait := by
  decide +kernel

/-- A core with one access in program order. -/
def with1 (a : Acc) : State := base (fun k => { k with accs := [a], l0 := [(0, { gen := 2#16 })], nextId := 9 })
def anAcc (k : AccKind) (st : Bool) : Acc :=
  { id := 0, kind := k, tgt := place (base id) 0 8 (if k = .store then .write else .read), gen := 2#16, size := 8, strong := st, pid := 1 }

/-- AccessesAreServed: a load that may go to its die and to L0, one with an older store of its own, and an atomic. -/
theorem witness_AccessesAreServed :
    (let a := anAcc .load false
     let s := with1 a
     (s.core 0).acc 0 = some (a, []) ∧ a.done = false ∧ s.mayGo 0 [] a = true ∧ sbSource [] a.tgt a.size = .none
     ∧ (Sparse.get {} (a.tgt.dla / 128) (s.core 0).l0) ≠ {} ∧ (Sparse.get {} (a.tgt.dla / 128) (s.core 0).l0).gen = a.tgt.gen
     ∧ s.wayLost 0 a.tgt = false ∧ s.violates a.tgt = false ∧ s.badAt a.tgt.dla = false ∧ (s.serveDie 0 a.tgt a.size).isSome = true
     ∧ (s.die 0).opSource a.tgt a.size = .none ∧ s.readTurn a.tgt a.gen (coreReader 0 a.id) = true)
    ∧ (let a := { anAcc .load false with id := 1 }
       let st := { anAcc .store false with data := 7 }
       let s := base (fun k => { k with accs := [st, a] })
       (s.core 0).acc 1 = some (a, [st]) ∧ s.mayGo 0 [st] a = true ∧ sbSource [st] a.tgt a.size = .all 7 0)
    ∧ (let a := anAcc (.amo 7) true
       let s := with1 a
       s.mayGo 0 [] a = true ∧ s.readTurn a.tgt a.gen (coreReader 0 a.id) = true ∧ s.homeOpen a.tgt = true ∧ s.wayOpen 0 a.tgt = true ∧ s.violates a.tgt = false
       ∧ s.writeLive a.gen a.tgt = true) := by
  decide +kernel

/-- A die whose ordering point holds one write of generation 2 to the mapped page. -/
def oneWrite (die : Nat) : OpEntry :=
  { wid := 5, core := 0, gen := 2#16, tgt := { place (base id) 0 8 .write with die := die }, size := 8, data := 7, scope := 0 }
def withWrite (die : Nat) : State := (base id).updDie 0 (fun x => { x with op := [oneWrite die] })

/-- WritesTravelToTheirHomes: a store that leaves the store buffer, a write for its own die and for another, one on a link,
and one at the head of its port. -/
theorem witness_WritesTravelToTheirHomes :
    (let a := anAcc .store false
     let s := with1 a
     (s.core 0).acc 0 = some (a, []) ∧ a.done = false ∧ s.mayGo 0 [] a = true ∧ s.isCurrent 0 a.gen = true)
    ∧ (((withWrite 0).die 0).op[0]? = some (oneWrite 0) ∧ (oneWrite 0).sent = false ∧ (withWrite 0).isCurrent 0 2#16 = true
      ∧ (oneWrite 0).tgt.die = 0 ∧ (oneWrite 7).tgt.die ≠ 0 ∧ (withWrite 7).route 0 7 = some false)
    ∧ (let s := { withWrite 1 with links := [(0, [(0, 5, 1)])] }
       Sparse.get [] 0 s.links = (0, 5, 1) :: [] ∧ (s.link 0).st = 0 ∧ (s.die 0).entry 5 = some (oneWrite 1))
    ∧ (let e := oneWrite 0
       let s := { withWrite 0 with ports := [(portKey 0 2#16, [(0, 5)])] }
       Sparse.get [] (portKey 0 2#16) s.ports = (0, 5) :: [] ∧ (s.die 0).entry 5 = some e ∧ s.wayLost 0 e.tgt = false
       ∧ s.homeOpen e.tgt = true ∧ s.wayOpen 0 e.tgt = true ∧ s.violates e.tgt = false ∧ s.writeLive e.gen e.tgt = true
       ∧ s.portTurn 0 (s.owner (dlaStack e.tgt.dla)) 2#16 = true ∧ e.thr = none) := by
  decide +kernel

/-- MemoryReadsBackWrites: bytes on both sides of a granule's end, of a current generation, and a byte of CXL memory. -/
theorem witness_MemoryReadsBackWrites :
    Memory.wf (base id).mem = true ∧ ((2#16 ≠ nullGen) ∧ (base id).isCurrent (homeDie 127) 2#16 = true
      ∧ (base id).isCurrent (homeDie 128) 2#16 = true) ∧ dlaCxl 0 = false := by
  decide +kernel

/-- The base state with page tables of tenancy 2: two levels of each stage, each with one leaf of 1 GiB at 0. -/
def paged : State :=
  let s := (base id).updDie 0 (fun d => { d with recs := Sparse.put none 2 (some { s1root := 0x100000, s2root := 0x200000 }) d.recs })
  (((s.write platformGen 0x200000 8 0x300001).write platformGen 0x300000 8 0xF).write 2#16 0x100000 8 0x110001).write 2#16
    0x110000 8 0x5F

/-- CachesFillAndEvict: a page that L0 may hold, caches with room, and an invalidation with no access in flight. -/
theorem witness_CachesFillAndEvict :
    let s := alone id
    let t := place s 0 0 .read
    ((match s.translateCore 0 0 0 .read with
        | .ok u => decide (u = t)
        | .error _ => false) = true ∧ t.cp = 0 ∧ s.homeOpen t = true ∧ s.wayOpen 0 t = true ∧ s.badAt t.dla = false
      ∧ (s.core 0).hintBars 0 = false ∧ (s.core 0).l0.length < 256
      ∧ ((alone (fun k => { k with prefs := [(2#16, 0, 2)] })).core 0).hintBars 0 = true)
    ∧ ((s.core 0).ten = some 2 ∧ (s.core 0).tlb.length < 256 ∧ (s.die 0).etlb.length < 4096 ∧ (s.die 0).s2c.length < 8192)
    ∧ (let w : Inval := { id := 3, cores := [] }
       ((s.updDie 0 (fun x => { x with invals := [w] })).die 0).invals.find? (fun j => j.id == 3) = some w)
    ∧ ((paged.tlbFill 0 2 0x3FFFFFFF).isSome = true ∧ (paged.s2Fill 0 2 0x3FFFFFFF).isSome = true) := by
  decide +kernel

/-- Handle h of core 0 in a state, with some of its fields. -/
def handleIn (h : Nat) (st : HState) (exp cnt : Nat) (k : Machine.Core) : Machine.Core :=
  k.setHandle 2#16 h { st := st, exp := exp, cnt := cnt }

/-- A call of core 0 that runs. -/
def aCall : Call :=
  { id := 0, start := 128, len := 4, snap := [], params := [0, 0, 8, 0, 0, 0, 0, 0], hout := 2, hin := 1, gen := 2#16, started := true
    pc := 128, inputs := [1] }
def calling (c : Call) (f : Machine.Core → Machine.Core) : State := alone (fun k => { f k with calls := [c] })

/-- HandleOperationsAndTraps: each state of the last handle, and counts at their bounds. -/
theorem witness_HandleOperationsAndTraps :
    let st := fun x => ((alone (handleIn 63 x 5 5)).k.handle 2#16 63).st
    (st .free = .free ∧ st .filling = .filling ∧ st .full = .full ∧ st .draining = .draining ∧ st .error = .error)
    ∧ ((alone id).Executes 0 [1, 2] none false ∧ (alone id).Executes 0 [] none false ∧ (alone id).Executes 0 [] (some 3) true)
    ∧ ((alone (regs [(1, 0xFFFFF)])).reg 1 = 0xFFFFF ∧ (alone (regs [(1, 0x100000)])).reg 1 = 0x100000
      ∧ fmtGeoOk 1 0 = true ∧ fmtGeoOk 0x3F 0 = false ∧ (alone (handleIn 63 .filling 5 5)).k.callHolds 63 = false
      ∧ (calling { aCall with hin := 63, inputs := [63] } (handleIn 63 .full 5 5)).k.callHolds 63 = true)
    ∧ ((alone id).guard 0 = true ∧ (alone id).operandVerdict [1, 2] none false = .go) := by
  unfold State.Executes; decide +kernel

/-- InterruptsAndBanks: banks all HELD, one PRELOADING and one RELEASED, and a mask that names the last bank. -/
theorem witness_InterruptsAndBanks :
    let b := fun (x : BankState) => alone (fun k => (regs [(7, 0x8000)] { k with banks := Sparse.put .released 15 x k.banks }))
    (∀ x ∈ [BankState.held, .preloading, .released, .releasing], (b x).Executes 0 [7] none false ∧ ((b x).reg 7).getLsbD 15 = true
      ∧ (∀ i < 15, ((b x).reg 7).getLsbD i = false) ∧ Sparse.get BankState.released 15 (b x).k.banks = x) := by
  unfold State.Executes; decide +kernel

/-- LegacyBarriers: a barrier that waits for an arrival, one whose epoch is over, and quotas of zero. -/
theorem witness_LegacyBarriers :
    let s := alone (fun k => (regs [(7, 0x00010001)] (k.updBarrier 7 (fun y => { y with quota := 2, arrv := 1, epoch := 1, wep := 0 }))))
    (s.Executes 0 [7] none false ∧ (s.k.barrier 7).arrv ≠ (s.k.barrier 7).quota ∧ (s.reg 7).setWidth 16 ≠ (0 : BitVec 16)
      ∧ (s.reg 7).setWidth 24 ≠ (0 : BitVec 24) ∧ (s.k.barrier 7).epoch ≠ (s.k.barrier 7).wep)
    ∧ ((alone id).k.barrier 7).epoch = ((alone id).k.barrier 7).wep ∧ ((alone id).k.barrier 7).arrv = ((alone id).k.barrier 7).quota
    ∧ ((alone id).reg 7).setWidth 16 = (0 : BitVec 16) := by
  unfold State.Executes; decide +kernel

/-- CopyInstructions: a copy between lines of the own scratchpad that its checks let go, one onto itself that they stop,
and the bounds of CLVL. -/
theorem witness_CopyInstructions :
    let box := fun (dst : W64) => alone (fun k => regs [(1, dst), (2, 0x2000000000000000 + 0x8000)]
      { k with levels := Sparse.put {} 0 { count := 128 } k.levels, banks := (List.range 16).foldl (fun m b => Sparse.put .released b .held m) k.banks })
    let d := fun (s : State) => ({ dst := s.reg 1, src := s.reg 2, cctl := s.k.cctl, x := false, levels := s.k.levels
                                   scope := s.scope, hint := s.hint } : CopyDesc)
    let ok := box 0x2000000000000000
    let bad := box (0x2000000000000000 + 0x8000)
    (ok.Executes 0 [1, 2] none false ∧ ok.k.copyCheck ok.gen 0 (d ok) 63 = 0 ∧ (d ok).bytes = 128 ∧ (d ok).ckind = 0
      ∧ ok.k.regions.length + ((d ok).regions 0 ok.k.nextId).length ≤ 32 ∧ ok.k.queueUse < 64)
    ∧ (bad.guard 0 = true ∧ bad.operandVerdict [1, 2] none false = .go ∧ bad.k.copyCheck bad.gen 0 (d bad) 63 = 0x13)
    ∧ ((5#6 ≠ 6) ∧ (0xFFFFF#64).toNat < 0x100000 ∧ (0x54#64).toNat / 0x10000 % 0x10000 = 0 ∧ (0x54#64).toNat % 4 = 0
      ∧ (0x54#64).toNat / 8 % 4 ≠ 3)
    ∧ ok.Executes 0 [1] (some 3) true := by
  unfold State.Executes; decide +kernel

/-- A core with a routine of two words, END and a stale one, an entry that names it, a write region of 32 rows, and a full input. -/
def engine (k : Machine.Core) : Machine.Core :=
  { handleIn 1 .full 0 0 k with
    uwords := [(128, ⟨0x9000000000000000, 2#16⟩)]
    uents := [(16, ⟨0x10080, 2#16⟩)]
    mparams := [(4, ⟨0x8000001F00000000, 2#16⟩)] }

/-- MatrixInstructions: a call that its checks let go and one that they stop, words and entries at their bounds. -/
theorem witness_MatrixInstructions :
    let s := alone engine
    (s.Executes 0 [7] none false ∧ s.Executes 0 [] (some 3) false ∧ s.Executes 0 [] (some 3) true ∧ s.Executes 0 [1, 2] none false)
    ∧ (s.k.callCheck s.gen 2 1 16 = 0 ∧ s.k.calls.length < 8 ∧ (s.k.routine s.gen 16).isSome = true
      ∧ (match s.k.routine s.gen 16 with
        | some e => (s.k.callRegions e (s.k.snapshot s.gen)).isSome
        | none => false) = true ∧ s.k.regions.length ≤ 28)
    ∧ s.k.callCheck s.gen 2 1 17 ≠ 0
    ∧ (128 ≤ (0x7F80#64).toNat % 256 ∧ (0x7F80#64).toNat % 256 + ((0x7F80#64).toNat / 256 % 256 + 1) ≤ 256 ∧ s.k.calls = []
      ∧ Sparse.get BankState.released 0 s.k.banks = .held ∧ s.k.lineWait 0 false = false)
    ∧ (16 ≤ (31#6).toNat ∧ (0xFF80#64).toNat < 0x100000 ∧ 128 ≤ (0x7F80#64).toNat % 256
      ∧ (0x7F80#64).toNat % 256 + (0x7F80#64).toNat / 256 % 256 ≤ 255) := by
  unfold State.Executes; decide +kernel

/-- Core 0 of a task with some fields. -/
def tasked (f : Task → Task) (k : Machine.Core) : Machine.Core := { k with task := k.task.map f }

/-- SystemInstructions: each operation where it runs, at user level or at platform level, and where it traps. -/
theorem witness_SystemInstructions :
    let s := alone (regs [(7, 8)])
    let t := (alone id).updStack 0 (fun x => { x with rv := true, rten := 2 })
    (s.Executes 0 [7] (some 3) false ∧ s.Executes 0 [7] none false ∧ s.Executes 0 [] (some 3) false
      ∧ s.Executes 0 [7] (some 3) true ∧ s.Executes 0 [7, 8] none false ∧ s.Executes 0 [] (some 3) true)
    ∧ (touches 0 0 = true ∧ t.owner 0 = 0 ∧ (t.stack 0).hand = none ∧ (t.stack 0).rv = true ∧ (t.stack 0).rten.toNat = 2
      ∧ t.k.ten = some 2 ∧ t.fencedFor 2 0 0 = false ∧ t.k.lvl = false)
    ∧ ((plat id).k.lvl = true ∧ (plat id).recordAddrOk 0x1000 = true ∧ ((plat id).tenancy 2).opened = true
      ∧ ((plat id).tenancy 2).gen = some 2#16 ∧ ((plat id).tenancy 2).ending = none ∧ (plat id).genState 2#16 = .live
      ∧ (plat id).guard 0 = true ∧ (plat id).operandVerdict [] (some 3) true = .go)
    ∧ (s.accessVerdict 0 0 .read = .go ∧ s.k.task.isSome = true ∧ (Sparse.get none 2 (s.die 0).recs).isSome = true
      ∧ (s.die 0).replays = [] ∧ s.claimSource 0 = none) := by
  unfold State.Executes; decide +kernel

/-- SystemInstructions: the refusals, each where it is the only one, and a TENEND that is queued, that gets a number and that gets
none. -/
theorem witness_refusals :
    let s := alone id
    let u := (alone id).updStack 0 (fun x => { x with rv := true, rten := 2 })
    (s.guard 0 = true ∧ s.operandVerdict [7] (some 3) false = .go ∧ s.operandVerdict [7] none false = .go
      ∧ s.operandVerdict [7] (some 3) true = .go ∧ s.operandVerdict [7, 8] none false = .go ∧ s.k.ten = some 2)
    ∧ ((0xFF07#64).toNat < 2 ^ 16 ∧ (0x8007#64).getLsbD 14 = false ∧ (0x8707#64).extractLsb' 3 5 = 0 ∧ ¬ (0x4000#64).getLsbD 14 = false)
    ∧ (touches 0 3 = false ∧ touches 0 0 = true ∧ (s.stack 0).rv = false ∧ u.fencedFor 2 0 0 = false
      ∧ (u.updStack 0 (fun x => { x with up := true })).owner 0 ≠ 0)
    ∧ ((24 ≤ (24#64).toNat) ∧ (8 ≤ (8#64).toNat) ∧ 4096 ≤ (4096#64).toNat ∧ 2 ^ 13 ≤ (0x2000#64).toNat ∧ s.recordAddrOk 1 = false
      ∧ (s.tenancy 3).opened = false ∧ (1#64).toNat % 8 ≠ 0)
    ∧ ((match s.translateCore 0 0x1000000000000 8 .read with
        | .ok _ => 0
        | .error f => f) = 1 ∧ (1 ≠ walkWait ∧ 1 ≠ walkError))
    ∧ (((plat id).updTen 2 (fun x => { x with gen := none })).tenancy 2).gen = none
    ∧ (plat id).newFree.isSome = true ∧ ({ plat id with deferred := [7] }).newFree = none := by
  decide +kernel

/-- A launch of tenancy 2 in slot 0 of die 0, of one node. -/
def aNode : Node :=
  { image := 0x100, nidx := 8, chunk := 4, narg := 0, pred := 0, privb := 0, privs := 0, mapoff := 0, cores := 1, args := [] }
def aLaunch (home : Nat) : Launch :=
  { id := 3, ten := 2, gen := 2#16, lrec := 0x200, queue := 8, packet := 0, home := home, live := 1, nodes := [aNode], mapa := 0x400
    donea := 0, donev := 0, next := [0] }
def launched (l : Launch) (f : Machine.Core → Machine.Core) : State :=
  (alone f).updDie 0 (fun d => { d with launches := [(0, some l)] })

/-- SystemInstructions: the claims of a further index, from a chunk in hand and from a launch of the core's own die. -/
theorem witness_claims :
    (let s := launched (aLaunch 0) (fun k => tasked (fun t => { t with slot := 0, lid := 3, node := 0, index := 1 })
        { k with chunks := [⟨0, 3, 0, 0, [1, 2]⟩] })
     s.claimSource 0 = some (.held 0) ∧ (s.k.chunks[0]?).map (·.left) = some [1, 2])
    ∧ (let s := launched (aLaunch 0) (tasked (fun t => { t with slot := 0, lid := 3, node := 0, index := 1 }))
       s.claimSource 0 = some (.chunk 0 0 0) ∧ (s.die 0).launch 0 = some (aLaunch 0) ∧ (aLaunch 0).home = s.d
       ∧ s.chunkHeld (aLaunch 0) 0 0 = false ∧ (aLaunch 0).indices 0 0 = [0, 1, 2, 3]) := by
  decide +kernel

/-- MicroOpsAndCalls: a running call, with a loop open and an output that fills; one not yet started with its input full; an
awaited entry that is final. -/
theorem witness_MicroOpsAndCalls :
    let f := fun (k : Machine.Core) => handleIn 2 .filling 8192 0 (k.setHandle 2#16 1 { st := .full, fmt := 1 })
    let s := calling aCall f
    (s.k.calls = [aCall] ∧ aCall.started = true ∧ s.k.latchUpsets = [])
    ∧ (mmaFormat (s.k.handle 2#16 1).fmt.toNat = true ∧ sliceWidth 1 1 ≠ 0 ∧ (1 ∈ aCall.inputs) ∧ offBlock 0 8 = false
      ∧ (8#64).toNat % 0x100000 ≠ 0)
    ∧ ((drainFmt 0).isSome = true ∧ (drainFmt 4).isSome = true ∧ aCall.checkFails = false ∧ (s.k.handle 2#16 2).st = .filling
      ∧ (s.k.handle 2#16 2).cnt + 128 * (32 / 1) ≤ (s.k.handle 2#16 2).exp)
    ∧ ({ aCall with loops := [(128, 2)] } : Call).loops = (128, 2) :: []
    ∧ ((s.k.handle 2#16 1).st = .full ∧ (s.k.handle 2#16 2).st ≠ .full ∧ aCall.loops = [] ∧ 5 ≤ (5#3).toNat
      ∧ aCall.mayRow 0 = false ∧ (3#6).toNat ∉ aCall.inputs)
    ∧ (let u := calling { aCall with started := false } f
       u.k.engineClear 0 0 = true ∧ (u.die 0).throttled 0 = false ∧ (∀ h ∈ aCall.inputs, (u.k.handle 2#16 h).st ≠ .filling) ∧ 0 ∉ u.k.blocked ∧ 0 ∉ u.k.owedOps ∧ u.k.forkHeld aCall.forkAt = false)
    ∧ (let e : StatusEntry := { val := 0, awaited := true, final := some 0x8000 }
       let u := alone (fun k => { k with status := [(2, e)] })
       (Sparse.get {} 2 u.k.status).awaited = true ∧ (Sparse.get {} 2 u.k.status).final = some 0x8000)
    ∧ (let u := calling aCall (fun k => handleIn 2 .full 8192 8192 { k with status := [(2, { val := 0, awaited := true, final := none })] })
       (u.k.handle 2#16 2).st = .full ∧ (Sparse.get {} 2 u.k.status).final = none ∧ u.k.calls = [aCall]) := by
  decide +kernel

/-- MicroOpsAndCalls: a counted block of the routine has its ENDL. -/
theorem witness_matchEndl :
    (alone (fun k => { k with uwords := [(129, ⟨0x7000000000000000, 2#16⟩)] })).k.matchEndl 2#16 3 129 0 = some 129 := by
  decide +kernel

/-- Queue 8 of die 0, of tenancy 2, live, with some of its fields. -/
def queued8 (f : Queue → Queue) : State :=
  let s := (paged.updDie 0 (fun d => { d with released := true })).updQueue 0 8 (fun q =>
    f { q with valid := true, ten := 2, ring := 0x1000, begun := true, taila := 0x40, heada := 0x48 })
  { s with cur := { s.cur with die := 0, queue := 8 } }

/-- PacketsAndQueues: a live queue with nothing open, with a loop, a block and a sub-stream open, its operands readable and
its stores possible, with nothing in flight. -/
theorem witness_PacketsAndQueues :
    let s := queued8 id
    let x := s.queue 0 8
    (s.queueLive 0 8 = true ∧ x.wait = .no ∧ x.skip = none ∧ x.owner 8 = some 2 ∧ s.inFlightOf 0 8 = 0 ∧ x.loops.length < 4
      ∧ (∀ e ∈ launchDies 0 0, ∃ n < 16, (s.die e).launch n = none))
    ∧ (s.operandRead 0 8 0 4).toOption.isSome = true ∧ (s.operandRead 0 8 0x40 8).toOption = some 0 ∧ (s.die 0).replays = []
    ∧ ((queued8 (fun q => { q with loops := [⟨0, 1, 2⟩], blocks := [⟨0, 0, 0⟩] })).queue 0 8).loops = ⟨0, 1, 2⟩ :: []
    ∧ ((queued8 (fun q => { q with subs := [⟨0x2000, 2, 0⟩] })).queue 0 8).subs = ⟨0x2000, 2, 0⟩ :: []
    ∧ ((s.cpStore 0 (some 2) 0 8 5 3).toOption.isSome = true ∧ s.cpDrained 0 (s.queueGen 0 8) = true
      ∧ s.outbound (s.queueGen 0 8) = false)
    ∧ (let moved := (s.updQueue 0 8 (fun y => y.goto (y.place + 1))).updQueue 0 8 (fun y => { y with head := x.pos + 1 })
       (match moved.translateCp 0 (x.owner 8) x.heada .write with
         | .ok g => !moved.wayLost 0 g && moved.homeOpen g && moved.wayOpen 0 g && s.isCurrent (homeDie g.dla) g.gen
         | .error _ => false) = true ∧ x.head ≠ x.pos + 1)
    ∧ ((s.updStack 0 (fun y => { y with rv := true, rten := 2 })).handCheck 0 (some 2) 0 = none)
    ∧ ((s.tenancy 2).opened = true ∧ s.recordAddrOk 0x1000 = true ∧ (7 < 8))
    ∧ (x.begun = true ∧ x.quiet = false ∧ (0 - x.head).toNat ≤ 2 ^ x.size)
    ∧ ((queued8 (fun q => { q with wait := .mem 0 0 0 0 })).queue 0 8).wait = .mem 0 0 0 0 ∧ waitHolds 0 0 0 0 = true := by
  decide +kernel

/-- Core 0 idle, its next task fixed, with the launch it is of. -/
def aTask : Task := { index := 1, node := 0, slot := 0, lid := 3, token := 0 }
def idle (f : Machine.Core → Machine.Core) : State :=
  (paged.updCore 0 (fun k => f { k with task := none, phase := 0, nextTask := some aTask })).updDie 0 (fun d =>
    { d with launches := [(0, some (aLaunch 0))], released := true })

/-- TasksStartAndComplete: an idle core with a fresh and with a resumed task, a brick whose word has changed, tasks that have
ended and suspended, a follower's claim and its reading of the record. -/
theorem witness_TasksStartAndComplete :
    let s := idle id
    let b : Brick := { ten := 2, gen := 2#16, serial := 0, task := aTask, wait := 0x40, cmp := 1, ready := false }
    (s.coreIdle 0 = true ∧ s.launchAt 0 0 3 = some (aLaunch 0) ∧ (aLaunch 0).nodes[0]? = some aNode ∧ (s.die 0).replays = []
      ∧ (s.core 0).own = none ∧ (s.core 0).nextTask = some aTask ∧ aTask.brick = none ∧ (s.core 0).staging = []
      ∧ (s.imageRun 0 2 2 0x100 0).toOption.isSome = true)
    ∧ ((idle (fun k => { k with own := some { aTask with brick := some ([], 0) } })).core 0).own
        = some { aTask with brick := some ([], 0) }
    ∧ (let u := s.updDie 0 (fun d => { d with bricks := [b] })
       (u.die 0).bricks[0]? = some b ∧ u.tenReady 2 = true ∧ (u.cpRead 0 (some 2) 0x40 8).toOption = some 0 ∧ BitVec.ofNat 64 0 ≠ b.cmp)
    ∧ (let u := base (fun k => { k with task := some { aTask with ending := .suspended 0 0 } })
       u.taskDrained 0 = true ∧ (base (fun k => { k with task := some { aTask with ending := .ended } })).taskDrained 0 = true
       ∧ (base (fun k => { k with task := some { aTask with ending := .abandoned } })).taskDrained 0 = true
       ∧ (u.updDie 0 (fun d => { d with launches := [(0, some (aLaunch 0))] })).launchStands 0 aTask = true
       ∧ (u.core 0).phase ≠ 2 ∧ (u.core 0).ten = some 2 ∧ (u.die 0).bricks = [] ∧ Sparse.get 4096 2 (u.die 0).quota = 4096)
    ∧ (let l := aLaunch 1
       let u := ((idle (fun k => { k with nextTask := none })).updDie 0 (fun d => { d with launches := [(0, some l)] })).updDie 1
         (fun d => { d with released := true })
       u.pick 0 = some (.chunk 0 0 0) ∧ u.chunkHeld l 0 0 = false ∧ (u.die 0).launch 0 = some l ∧ l.home ≠ 0 ∧ u.reaches 0 1 = true)
    ∧ ((s.cpWords 0 (some 2) 0x200 32).toOption.isSome = true ∧ ({ aLaunch 1 with joined := false } : Launch).joined = false) := by
  decide +kernel

/-- LaunchesEndAndSplit: a chunk to mark whose map can be reached, a launch that is done and one that has failed, a split of
two members, one of which is the home, and a group that has been decided. -/
theorem witness_LaunchesEndAndSplit :
    let l := { aLaunch 0 with finished := [(0, 0)] }
    let s := paged.updDie 0 (fun d => { d with launches := [(0, some l)], released := true })
    let done := { aLaunch 0 with marked := [(0, 0), (0, 1)] }
    ((s.die 0).launch 0 = some l ∧ l.finished = (0, 0) :: [] ∧ (match s.translateCp 0 (some 2) 0x400 .both with
        | .ok g => !s.badAt g.dla && !s.wayLost 0 g && s.homeOpen g && s.wayOpen 0 g && decide ((s.die 0).opSource g 8 = .none)
            && s.isCurrent (homeDie g.dla) g.gen
        | .error _ => false) = true)
    ∧ (done.failed = false ∧ done.nodeDone 0 = true ∧ done.home = 0 ∧ ({ done with failed := true } : Launch).failed = true
      ∧ l.fenced = false ∧ (s.homeWrite 0 (some 2) 0x220 8 1).toOption.isSome = true ∧ s.outbound 2#16 = false)
    ∧ (let t := base id
       (t.homeWrite 0 (some 2) 0x1000000000000 8 1).toOption.isSome = false)
    ∧ (let m := { aLaunch 0 with live := 0b11 }
       let down := fun (x : Link) => { x with st := 2 }
       let u := ((s.updDie 0 (fun d => { d with launches := [(0, some m)] })).updLink 0 down).updLink 7 down
       (u.dies.flatMap (fun x => x.2.launches.filterMap (fun y => y.2))).find? (fun x => x.id == 3) = some m
       ∧ m.failed = false ∧ m.deciding = none ∧ 0 ∈ membersOf m.live ∧ u.groupOf m.live 0 ≠ membersOf m.live
       ∧ u.survivors m m.live = some [0] ∧ u.fencedOut m 0 = false)
    ∧ ((s.homeWrite 0 (some 2) 0x220 8 0).toOption.isSome = true ∧ (s.die 0).replays = []) := by
  decide +kernel

/-- LaunchesEndAndSplit: the words of a record that can be written, and one that faults. -/
theorem witness_lands :
    let s := paged.updDie 0 (fun d => { d with launches := [(0, some (aLaunch 0))], released := true })
    let at_ := fun (n : Nat) => ({ dla := n, gen := 2, die := 0, epoch := 0, psize := 2 } : Target)
    ((s.translateCp 0 (some 2) 0x220 .write).toOption = some (at_ 0x220) ∧ (s.translateCp 0 (some 2) 0x26C .write).toOption = some (at_ 0x26C)
      ∧ (s.translateCp 0 (some 2) 0x400 .write).toOption = some (at_ 0x400))
    ∧ (∀ n ∈ [0x220, 0x26C, 0x400], s.wayLost 0 (at_ n) = false ∧ s.homeOpen (at_ n) = true ∧ s.wayOpen 0 (at_ n) = true
      ∧ s.isCurrent (homeDie n) 2 = true)
    ∧ s.translateCp 0 (some 2) 0x1000000000000 .write = .error 1 := by
  refine ⟨by decide +kernel, by decide +kernel, by rfl⟩

/-- StacksChangeHands: a drained hand-over that notifies a core of the receiving die whose handle fills. -/
theorem witness_StacksChangeHands :
    let h : HandOver := { core := 0, handle := 5, cpl := true, gen := 2#16, ten := some 2, queue := none }
    let s := ((base (handleIn 5 .filling 2 1)).updStack 7 (fun x => { x with hand := some h }))
    (7 < 8 ∧ (s.stack 7).hand = some h ∧ s.drainedOf 7 = true
      ∧ (∀ e ∈ s.cores, e.2.accs = [] ∧ e.2.copies = [] ∧ e.2.ringRead = none)
      ∧ (∀ e ∈ s.dies, e.2.op = [] ∧ e.2.cpHeld = [] ∧ e.2.frWait = []) ∧ s.isCurrent 0 2#16 = true ∧ (s.core 0).ten = some 2
      ∧ (s.core 0).task ≠ none ∧ (s.core 0).phase = 1 ∧ ((s.core 0).handle 2#16 5).st = .filling
      ∧ ((s.core 0).handle 2#16 5).cnt + 1 = ((s.core 0).handle 2#16 5).exp) := by
  decide +kernel

/-- GenerationsComeAndGo: a number free for a tenancy not yet open, a TENEND under way, one that all dies have passed, and a
tenancy that waits for a number. -/
theorem witness_GenerationsComeAndGo :
    let e : TenEnd := { close := true, erec := 0x1000, oldGen := 3#16, oldSerial := 0, newGen := none }
    let all := { e with switched := List.range 17 }
    let s := { base id with io := { (base id).io with released := true } }
    let with_ := fun (x : TenEnd) => { s with tenancies := Sparse.upd {} 5 (fun t => { t with ending := some x }) s.tenancies }
    ((s.tenancy 5).opened = false ∧ (s.tenancy 5).ending = none ∧ (s.tenancy 5).queued = [] ∧ 5 ∉ s.deferred ∧ s.grantAll.deferred = []
      ∧ s.grantAll.nextFree.isSome = true ∧ s.io.released = true)
    ∧ (((with_ e).tenancy 5).ending = some e ∧ 16 ∉ e.switched)
    ∧ (all.switched.length = 17 ∧ (with_ all).drainedGen 3#16 = true ∧ (with_ all).allStopped 5 = true ∧ all.queue = none ∧ ((with_ all).tenancy 5).queued = [])
    ∧ (let w := s.gate 8 0x1000
       (match s.translateDla w 0x1000 with
         | .ok g => !s.wayLost w g && s.homeOpen g && s.wayOpen w g
         | .error _ => false) = true)
    ∧ (({ s with deferred := [5] }).deferred = 5 :: [] ∧ ({ s with deferred := [5] }).recordHeld 5 = false
      ∧ s.nextFree.isSome = true) := by
  decide +kernel

/-- PreemptionRequests: a running task in PHASE 1 with no request, and timers that have run out. -/
theorem witness_PreemptionRequests :
    let k := (base id).core 0
    let up := { (base id).updDie 0 (fun d => { d with released := true }) with io := { released := true } }
    let u := base (fun k => { k with phase := 2, req := 2, grace := some 0, kill := some 0 })
    (k.phase = 1 ∧ k.req = 0 ∧ k.flr = none ∧ k.stopped = false ∧ (k.task.map (·.ending)) = some .no)
    ∧ up.reachesDie 0 = true
    ∧ ((u.core 0).grace = some 0 ∧ 0 ≤ ((u.die 0).lcyc).toNat ∧ (u.core 0).kill = some 0 ∧ (u.core 0).req < 3 ∧ 1 < 2) := by
  decide +kernel

/-- Core 0 with a valid area and no task, whose area holds a saved context of its tenancy. -/
def savedCore (ser : Nat) : State :=
  let s := (base (fun k => withArea { k with task := none, phase := 0 })).updDie 0 (fun d =>
    { d with saved := [⟨2, 0, aTask⟩], launches := [(0, some (aLaunch 0))], released := true })
  let s := { s with io := { s.io with released := true } }
  ((s.write platformGen 0x10020 8 ser).write platformGen 0x10030 8 4).write platformGen 0x10038 8 aTask.word

/-- ContextsAreSavedAndReset: a halted core in PHASE 3 and in PHASE 4, with and without a valid area; cores that may be reset,
that drain or have waited long enough; a frozen command processor; the ends of the throttle levels. -/
theorem witness_ContextsAreSavedAndReset :
    let h := fun (n : Nat) => base (fun k => withArea { k with phase := n })
    (((h 3).core 0).phase = 3 ∧ (h 3).halted 0 = true)
    ∧ (((h 4).core 0).phase = 4 ∧ (h 4).saveFails 0 = false ∧ (h 4).areaWaits 0 = false ∧ ((h 4).core 0).ten = some 2 ∧ ((h 4).core 0).task.isSome = true
      ∧ (base (fun k => { k.csrWrite 0x406 0xFFFFFFFFFFFF0000 with phase := 4 })).saveFails 0 = true)
    ∧ ((h 0).core 0).flr = none ∧ ((h 5).core 0).phase = 5
    ∧ ((base (fun k => { k with flr := some 0 })).flrDrained 0 = true)
    ∧ (((base id).updDie 0 (fun d => { d with cpFrozen := true })).die 0).cpFrozen = true
    ∧ (base (fun k => withArea { k with task := none, phase := 0, preloads := [(0, 1)] })).areaWaits 0 = false := by
  decide +kernel

/-- ContextsAreSavedAndReset: an area that names a saved context of the core's tenancy, and one of another incarnation. -/
theorem witness_restore :
    let s := savedCore ((base id).incarnation 2 2#16)
    let k := s.core 0
    let v := s.read platformGen k.csr.ctxptr.toNat 0x118000
    (k.phase = 0 ∧ k.flr = none ∧ k.task = none ∧ k.stopped = false ∧ k.preloads = [] ∧ s.reachesDie 0 = true ∧ k.ten = some 2 ∧ s.areaOk 0 = true
      ∧ s.areaWaits 0 = false ∧ s.tenReady 2 = true ∧ s.genOn 0 2 ≠ 0)
    ∧ (field v 0x20 8 = s.incarnation 2 (s.genOn 0 2) ∧ field v 0x30 8 = 4 ∧ s.savedTask 0 2 (field v 0x38 8) = some ⟨2, 0, aTask⟩)
    ∧ s.incarnation 2 (s.genOn 0 2) ≠ 0 := by
  decide +kernel

/-- The same area has no bad granule, and its reserved bytes are zero. -/
theorem witness_restore_clean :
    let s := savedCore ((base id).incarnation 2 2#16)
    s.badRun 0x10000 0x118000 = false ∧ areaClean (s.read platformGen 0x10000 0x118000) = true := by
  decide +kernel

/-- LinksCarryFlits: an idle link with a credit, one with a NAK that waits for its replay, a flit on the wire that is good and
expected and one that is damaged, an acknowledgement, and links that retrain and are down with a notice due. -/
theorem witness_LinksCarryFlits :
    let f : Flit := { cls := 1, av := true, seq := 0, ack := 0 }
    let up := fun (g : FlitDir → FlitDir) => (base id).updLink 0 (fun x => { x with dir0 := g x.dir0 })
    (((up (fun d => { d with credQ := 1 })).link 0).st = 0 ∧ (((up (fun d => { d with credQ := 1 })).link 0).dir true).sent = 0
      ∧ 0 < (((up (fun d => { d with credQ := 1 })).link 0).dir true).credQ ∧ (240#8).toNat ≤ 240)
    ∧ (((up (fun d => { d with nakIn := true })).link 0).dir true).nakIn = true
    ∧ ((((up (fun d => { d with wire := [f] })).link 0).dir true).wire = f :: [] ∧ f.cls = 1 ∧ f.vc.toNat < 2
      ∧ f.seq = (((up id).link 0).dir true).expect ∧ (((up id).link 0).dir true).unacked < 32
      ∧ (((up id).link 0).dir true).resync = false ∧ (base id).older [] = false
      ∧ (((up id).link 0).dir true).naking = false)
    ∧ (let s := (base id).updLink 0 (fun x => { x with dir1 := { x.dir1 with buf := [(0, 9, 3)], next := 1, sent := 1 } })
       (f.ack - (((s.link 0).dir false)).first).toNat + 1 ≤ ((s.link 0).dir false).buf.length)
    ∧ (let s := (base id).updLink 0 (fun x => { x with dir0 := { x.dir0 with buf := [(0, 9, 3)], next := 1, sent := 0 } })
       (s.link 0).dir0.buf[0]? = some (0, 9, 3) ∧ (s.link 0).dir1.nakDue = false)
    ∧ (((base id).updLink 0 (fun x => { x with st := 1 })).link 0).st = 1
    ∧ ((((base id).updLink 0 (fun x => { x with st := 2, note0 := true })).link 0).note0 = true) := by
  decide +kernel

/-- LinksCarryFlits: a flit that is intact and one that is damaged. -/
theorem witness_flits : (({ cls := 1 } : Flit).sealed false).intact = true ∧ (({ cls := 1 } : Flit).sealed true).intact = false :=
  ⟨Flit.sealed_intact _, Flit.sealed_damaged _⟩

/-- R411: the CRC-32 of IEEE 802.3 of the digits 1 to 9 is 0xCBF43926, the check value published with that polynomial. -/
theorem test_crc32 : crc32 [0x31, 0x32, 0x33, 0x34, 0x35, 0x36, 0x37, 0x38, 0x39] = 0xCBF43926 := by decide +kernel

/-- R428: AES-256 of the example of FIPS 197 (appendix C.3), and the GCM tag of no data under the zero key and nonce (test case 13
of the GCM specification). -/
theorem test_aes :
    aes256 (List.range 32) ((List.range 16).map (17 * ·)) =
      [0x8E, 0xA2, 0xB7, 0xCA, 0x51, 0x67, 0x45, 0xBF, 0xEA, 0xFC, 0x49, 0x90, 0x4B, 0x49, 0x60, 0x89]
    ∧ gcmTagBytes (List.replicate 32 0) (List.replicate 12 0) [] =
      [0x53, 0x0F, 0x8A, 0xFB, 0xC7, 0x45, 0x36, 0xB9, 0xA9, 0x63, 0xB4, 0xF1, 0xC4, 0xCB, 0x73, 0x8B] := by
  decide +kernel

/-- R432, R51, R53: the bytes of ADD, MUL, LD, NOP and an unassigned major in the latency table. -/
theorem test_latency_bytes :
    latencyByte 1 0 = 1 ∧ latencyByte 2 0 = 3 ∧ latencyByte 0x33 0 = 0x80 ∧ latencyByte 0 0 = 0 ∧ latencyByte 0x3D 0 = 0 := by
  decide +kernel

/-- R439: an Igpor task's argument, its s62, and a register that the launch does not set. -/
theorem test_igpor_entry :
    let k := ((base id).core 0).igporEntry 2#16 [(200, 7)] 0x40
    k.igpor = true ∧ k.scalar 2#16 200 = 7 ∧ k.scalar 2#16 62 = 0x40 ∧ k.scalar 2#16 9 = 0 := by
  decide +kernel

/-- PlatformWritesTakeEffect: descriptors that are refused and not, records kept and dropped, slice counts at both ends, slot
entries with and without a reserved bit, the write pointer's turn, flows, and cores that take a tenancy and that do not. -/
theorem witness_PlatformWritesTakeEffect :
    let s := { (base id).updDie 0 (fun d => { d with released := true }) with io := { released := true } }
    let w : Nat := 0x10000 + 4 * 2 ^ 64 + 2 ^ 72 + 2 * 2 ^ 80
    (field w 9 1 % 2 = 1 ∧ s.refusesQueue 0 8 w = false ∧ s.refusesQueue 0 127 (w + 1) = true ∧ field (w + 1) 0 8 % (32 * 2 ^ 4) ≠ 0
      ∧ 2 ≤ field (w + 2 ^ 73) 9 1 ∧ field 0 9 1 % 2 = 0)
    ∧ (s.holdsOn 0 5 = false ∧ s.holdsOn 0 2 = true ∧ refusesRecord (0x10000 + 0x20000 * 2 ^ 64) = false)
    ∧ ((0x0FFF#16).toNat / 2 ^ 12 % 8 = 0 ∧ (0x1000#16).toNat / 2 ^ 12 % 8 ≠ 0)
    ∧ (let u := s.updDie 0 (fun d => { d with lcyc := 256, slotAt := 3, slotNew := [(1, some 5)] })
       (u.die 0).lcyc.toNat % 256 = 0 ∧ (u.die 0).slotAt < (u.die 0).lcyc.toNat ∧ (u.die 0).slotNew = [(1, some 5)])
    ∧ (let y : Nat := 15 + 7 * 2 ^ 8 + 127 * 2 ^ 16 + 2 ^ 24 + 4095 * 2 ^ 32
       field y 0 1 < 16 ∧ field y 1 1 < 8 ∧ 8 ≤ field y 2 1 ∧ field y 2 1 < 128 ∧ field y 3 1 < 2 ∧ field y 4 2 < 4096 ∧ field y 6 2 = 0)
    ∧ (s.reachesDie 0 = true ∧ (base id).reachesDie 0 = false) ∧ ((base (fun k => { k with withheld := true })).core 0).withheld = true
    ∧ Sparse.get false 1 s.trust.withheld = false ∧ ((s.core 1).withheld = false ∧ (s.core 1).phase = 0 ∧ (s.core 1).task = none ∧ (s.core 1).stopped = false
      ∧ s.hasRecord 0 2 = true) := by
  decide +kernel

/-- PlatformWritesTakeEffect: no page of the base state's tenancy maps the slices of stack 0. -/
theorem witness_slices :
    ∀ e ∈ (base id).dies, ∀ r ∈ e.2.recs, r.2 = none ∨ ∃ y, r.2 = some y
      ∧ (base id).tableMaps (sliceDla 0 16) (sliceDla 0 24) 4 0 y.s2root.toNat = false := by
  intro e he r hr
  have hd : (base id).dies = [(0, (base id).die 0)] := by decide +kernel
  have hr' : ((base id).die 0).recs = [(2, some {})] := by decide +kernel
  rw [hd] at he
  obtain rfl := List.mem_singleton.1 he
  rw [hr'] at hr
  obtain rfl := List.mem_singleton.1 hr
  exact Or.inr ⟨{}, rfl, by decide +kernel⟩

/-- RequestsFromOutside: the application cores' access to the first byte of die 0, an entry that is valid and one that is
not, and a flow with a frame that is next and one that is not. -/
theorem witness_RequestsFromOutside :
    let s := { paged with io := { paged.io with
      released := true, ingress := [(0, ⟨0, 0, true, 2⟩)], flows := [(1, { ports := 1, die := 0, queue := 8, valid := true, ten := 2, last := 4 })] } }
    let e : IngressEntry := Sparse.get {} 0 s.io.ingress
    (s.takesIo 0 0 = true ∧ s.takesIo 0 1 = true ∧ s.takesIo 0 2 = true
      ∧ (match s.translateDla 0 0 with
        | .ok t => !s.wayLost 0 t && s.ioGo 0 t && !s.violates t
        | .error _ => false) = true)
    ∧ (e.valid = true ∧ (Sparse.get ({} : IngressEntry) (65536 * 8 + 255) s.io.ingress).valid = false ∧ (s.link 23).st = 0
      ∧ (match s.ingressTarget e 0 8 true with
        | .ok t => !s.wayLost 0 t && !s.violates t && s.ioGo 0 t && s.isCurrent (homeDie t.dla) t.gen
        | .error _ => false) = true)
    ∧ ((Sparse.get ({} : Machine.Flow) 1 s.io.flows).last.toNat < (5#64).toNat
      ∧ (Sparse.get ({} : Machine.Flow) 1 s.io.flows).ports.getLsbD 0 = true
      ∧ s.io.released = true ∧ reqWhole ⟨15, .load⟩ 7 8 = true ∧ reqWhole ⟨0, .amo .add⟩ 8 4 = true
      ∧ Sparse.get 0 0 s.io.cmdPort = 0 ∧ (4#64).toNat ≤ (Sparse.get ({} : Machine.Flow) 1 s.io.flows).last.toNat)
    ∧ (match (queued8 id).acceptFrame { die := 0, queue := 8, ten := 2 } 1 5 [0] with
        | .ok _ => true
        | .error _ => false) = true := by
  decide +kernel

/-- TheModuleBoots: a trust die that is up, before the I/O die, a base die and a compute die. -/
theorem witness_TheModuleBoots :
    ∀ n ∈ [0, 1, 8, 9, 16], let s := { base id with trust := { (base id).trust with up := true, next := n } }
      s.trust.up = true ∧ s.trust.dead = false ∧ s.trust.next < 17 := by
  decide +kernel

/-- TheModuleBoots: a responder that has measured every die. -/
theorem witness_responder :
    let s := { base id with trust := { (base id).trust with up := true, next := 17 }, io := { released := true } }
    s.trust.up = true ∧ s.io.released = true ∧ s.trust.next = 17 := by
  decide +kernel

/-- A copy of one line from the scratchpad of core 0 to a place. -/
def aCopy (dst : W64) : Copy :=
  { id := 0, seq := 1, desc := { dst := dst, src := 0x2000000000008000, levels := [(0, { count := 128 })] }, obj := .handle 3, gen := 2#16
    bytes := 128 }
def copying (x : Copy) (f : Machine.Core → Machine.Core) : State := base (fun k => f { k with copies := [x] })

/-- CopiesMovePostAndPreload: a piece whose turn it is, from a good line, a line that fails and a mapped page, to each kind of
place; a post that is due; a preload whose bank is RELEASED. -/
theorem witness_CopiesMovePostAndPreload :
    let x := aCopy 0x2000000000000000
    let p : Piece := ⟨0, 128, 0, 0, 0⟩
    let s := copying x id
    ((s.core 0).copy 0 = some x ∧ x.desc.pieces.find? (fun q => q.idx == 0) = some p ∧ s.copyGo 0 x = true
      ∧ x.moved.contains 0 = false ∧ CopyDesc.mustWait x x.desc.pieces p = false ∧ s.fetchPiece 0 x p = .data 0 [] [] ∧ x.pageFmt = none
      ∧ s.copyRoom 0 x 0 = true ∧ s.engineTurn 0 x = true ∧ x.held = [])
    ∧ (x.desc.dstLoc 0 p = .spm 0 ∧ (aCopy 0x4000000000000000).desc.dstLoc 0 p = .acc 0 ∧ (aCopy 0).desc.dstLoc 0 p = .va 0
      ∧ (aCopy 0x6000000000000000).desc.dstLoc 1 p = .rspm 0 0)
    ∧ (s.heldBy 0 2#16 = true ∧ (s.core 0).phase < 3 ∧ s.heldBy 1 2#16 = false)
    ∧ (let u := s.updCore 0 (fun k => { k with spm := [(256, { hm := 2#16, bad := true })] })
       u.fetchPiece 0 x p = .bad ∧ ({ x with retried := [0] } : Copy).retried.contains 0 = true)
    ∧ (let z := { x with desc := { x.desc with src := 0 } }
       let u := { (paged.updCore 0 (fun k => { k with copies := [z] })) with ports := [(portKey 0 2#16, [(0, 5)])] }
       (match u.fetchPiece 0 z p with
        | .port a _ => a == 0
        | _ => false) = true)
    ∧ (let y := { x with obj := .remote 0 5, posted := false }
       (copying y id).copyGo 0 { y with posted := true } = true)
    ∧ (let r : Staged := { desc := x.desc, handle := 3, banks := 1 }
       let u := base (fun k => { k with staging := [r], banks := [] })
       (u.core 0).staging[0]? = some r ∧ r.op = none ∧ (u.core 0).queueUse < 64 ∧ Sparse.get BankState.released 0 (u.core 0).banks = .released
       ∧ r.banks ≠ 0 ∧ ({ (u.core 0) with task := none } : Machine.Core).running = false) := by
  decide +kernel

/-- SlotEncodingRoundTrip, MicroWordAndPacketRoundTrip: operations at the limits of their fields, of either kind of code. -/
theorem witness_encodings :
    ((Instr.add 7 63 63 63).major < 64 ∧ (Instr.add 7 63 63 63).badCode = 0)
    ∧ ((Instr.vdot 7 127 127 127 3).major = 0x17 ∧ (Instr.vdot 7 127 127 127 3).badCodeIgpor = 0)
    ∧ decodeSlot false 0x07FFFFE0 = (0, .add 7 63 63 63)
    ∧ ((Instr.adv 7 7 1 0).microOk = true ∧ encodeMicro (.adv 7 7 1 0) ≠ 0 ∧ decodeMicro 0x57F0000000000000 = some (.adv 7 7 1 0))
    ∧ ((Instr.calls 65536 0).packetOk = true ∧ encodePacket (.calls 65536 0) ≠ 0) := by
  decide +kernel

/-- IllegalEncodingsRefused: words of each kind. -/
theorem witness_IllegalEncodingsRefused :
    ((0x5C000000#32).extractLsb' 26 6).toNat = 0x17 ∧ ((0xFBFFFFFF#32).extractLsb' 26 6).toNat = 0x3E
    ∧ (((1#32).extractLsb' 26 6).toNat = 0 ∧ 1#32 ≠ 0) ∧ isHeader 0xFC000000 = true
    ∧ ((0xFEFFFFFF#32).extractLsb' 24 2 = 2 ∧ (0xFFFFFFFF#32).extractLsb' 24 2 = 3)
    ∧ classOfMajor (Instr.br 0 5).major = .br ∧ decodeSlot false 0x44000005 = (0, .br 0 5) ∧ 63#6 ≠ 0 := by
  decide +kernel

/-- StepRunsTheDecoded: a bundle that step fetches, a micro-word, a packet and an event. -/
theorem witness_StepRunsTheDecoded :
    let s := (State.reset.withFetchWord 32 0x34060005).begin 0
    let b : Bundle := ⟨.none, [⟨.movi 0 3 5, 0⟩, ⟨.nop, 0⟩, ⟨.nop, 0⟩, ⟨.nop, 0⟩]⟩
    let t := place s 0 16 .fetch
    (s.agenda = [] ∧ s.turn 0 = .run ∧ (s.core 0).stopping = none ∧ s.codeMiss 0 = none ∧ (s.core 0).uiReady = false ∧ s.badAt t.dla = false ∧ s.wayLost 0 t = false
      ∧ (match s.translateCore 0 ((s.core 0).pc.setWidth 64) 16 .fetch with
        | .ok u => decide (u = t)
        | .error _ => false) = true
      ∧ (let v := s.read t.gen t.dla 16
         decodeBundle (s.core 0).igpor (s.core 0).ui (wordAt v 0) (wordAt v 1) (wordAt v 2) (wordAt v 3) = .ok b)
      ∧ evaluate (s.probeSlots 0 b.kind 0 b.slots) = .issue ∧ s.crowded 0 b = false)
    ∧ (let u := { calling aCall engine with agenda := [.engine 0] }
       (u.die 0).throttled (quadrantOf 0) = false ∧ (u.core 0).calls = [aCall] ∧ aCall.pc < aCall.start + aCall.len
       ∧ decodeMicro ((u.core 0).microWord aCall.gen aCall.pc) = some .mxEnd)
    ∧ (isEvent (.landing 0) = true ∧ (Instr.landing 511).wf = true) := by
  decide +kernel

/-- StepRunsTheDecoded: a queue whose next packet is a FENCE. -/
theorem witness_nextPacket :
    let s := (queued8 (fun q => { q with tail := 1 })).write 2#16 0x1000 32 0x20B
    (match s.nextPacket 0 8 with
      | .packet w _ => decide (w = 0x20B)
      | _ => false) = true ∧ decodePacket 0x20B = .ok (.fencePacket 2) := by
  decide +kernel

/-- StepKeepsMemoryCanonical: memory with a byte in it is in its canonical form, before and after a step. -/
theorem witness_StepKeepsMemoryCanonical :
    Memory.wf (State.reset.withFetchWord 32 0x34060005).mem = true ∧ Memory.wf (ran 0x34060005 id).mem = true
    ∧ (State.reset.withFetchWord 32 0x34060005).mem ≠ [] := by
  decide +kernel

/-- ResultsLandAfterTheirLatency: an empty landing queue. -/
theorem witness_ResultsLandAfterTheirLatency :
    (issued id).k.quick = false ∧ (issued id).k.lq = [] ∧ 1 ≤ 12 ∧ 63 ≠ 0 := by
  decide +kernel

/-- HallmarksGuardReads: places with the hallmark and with another one. -/
theorem witness_HallmarksGuardReads :
    let k := (base (fun k => (regs [(5, 9)] k).setPred 2#16 false 7 true)).core 0
    ((k.cell 5).hm = 2#16 ∧ (k.cell 5).hm ≠ 3#16 ∧ (k.pcell 7).hm ≠ 3#16 ∧ k.ui = false)
    ∧ ((Sparse.get {} 9 k.rows).hm ≠ 2#16 ∧ (Sparse.get {} 9 k.handles).hm ≠ 2#16) := by
  decide +kernel

/-- OperationsLeaveTheRest: an operation of each kind, part of a bundle, that answers a next state. -/
theorem witness_OperationsLeaveTheRest :
    (issued id).cur.mode = .commit ∧ (Instr.add 0 3 1 2).major = 0x01 ∧ (Instr.st 0 3 1 0 3).major = 0x34
    ∧ (match exec (.add 0 3 1 2) (issued id) with
      | .next _ => true
      | _ => false) = true := by
  decide +kernel

end Sys2Proof.Tests
end

section
/-! PROOFS. NOP, and the words and bundles that the decoder refuses (spec 02 R20-R36, R45, R59). -/

namespace Sys2Proof.Machine

/-! ### Words -/

/-- NOP is the word 0, in either kind of code (R22). -/
theorem decodeSlot_zero (ig : Bool) : decodeSlot ig 0 = (0, .nop) := by
  cases ig <;> rfl

/-- The majors that only Igpor code has earn subcode 1 in native code (R32, R35). -/
theorem decodeSlot_igporMajor {w : W32} (hm : (w.extractLsb' 26 6).toNat = 0x17 ∨ (w.extractLsb' 26 6).toNat = 0x3C
    ∨ (w.extractLsb' 26 6).toNat = 0x3D ∨ (w.extractLsb' 26 6).toNat = 0x3E) : decodeSlot false w = (1, .nop) := by
  rcases hm with hm | hm | hm | hm <;> simp [decodeSlot, decodeMajor, hm]

/-- Major 0 holds NOP alone: its other words earn subcode 3 (R22, R35). -/
theorem decodeSlot_major00 {w : W32} (hm : (w.extractLsb' 26 6).toNat = 0) (hw : w ≠ 0) :
    decodeSlot false w = (3, .nop) := by
  simp [decodeSlot, decodeMajor, hm, show w ≠ 0#32 from hw]

/-- A header read as a slot operation earns subcode 4 in either kind of code (R35). -/
theorem decodeSlot_header {w : W32} (hw : isHeader w = true) (ig : Bool) : decodeSlot ig w = (4, .nop) := by
  have hm : w.extractLsb' 26 6 = 0x3F#6 := by simpa [isHeader] using hw
  simp [decodeSlot, decodeMajor, hm]

theorem not_isHeader_of_decodes {w : W32} {ig : Bool} {i : Instr} (hd : decodeSlot ig w = (0, i)) :
    isHeader w = false := by
  by_contra hw
  simp [decodeSlot_header (Bool.eq_true_of_not_eq_false hw)] at hd

/-! ### Headers -/

theorem headerOf_of_not_isHeader {w : W32} (hw : isHeader w = false) : headerOf w = (.none, fun _ => 0#8) := by
  simp [headerOf, hw]

/-- Kind 10 (R23, R27). -/
theorem headerOf_kind10 {w : W32} (hw : isHeader w = true) (hk : w.extractLsb' 24 2 = 2) :
    (headerOf w).1 = .portable := by
  simp [headerOf, hw, hk]

/-- Kind 11, which the model reads as no kind at all (R23, R27). -/
theorem headerOf_kind11 {w : W32} (hw : isHeader w = true) (hk : w.extractLsb' 24 2 = 3) : (headerOf w).1 = .none := by
  simp [headerOf, hw, hk]

/-! ### One slot on its own (R35) -/

/-- A header in S1, S2 or S3 earns subcode 4. -/
theorem slotCheck_header_later {w : W32} (hw : isHeader w = true) {n : Nat} (hn : n ≠ 0) (ig h : Bool) (k : HdrKind)
    (x : Byte) : slotCheck ig h k x n w = (4, .nop) := by
  simp [slotCheck, hw, hn]

/-- A header of kind 10 in native code earns subcode 5. -/
theorem slotCheck_kind10 {w : W32} (hw : isHeader w = true) (h : Bool) (x : Byte) :
    slotCheck false h .portable x 0 w = (5, .nop) := by
  simp [slotCheck, hw]

/-- A header of kind 11 earns subcode 6 in either kind of code. -/
theorem slotCheck_kind11 {w : W32} (hw : isHeader w = true) (ig h : Bool) (x : Byte) :
    slotCheck ig h .none x 0 w = (6, .nop) := by
  cases ig <;> simp [slotCheck, hw]

/-- A word that a native bundle without a header takes as operation i, in whichever slot it stands. -/
def PlainSlot (handler : Bool) (w : W32) (i : Instr) : Prop :=
  isHeader w = false ∧ ∀ n, slotCheck false handler .none 0#8 n w = (0, i)

/-- A word that decodes, of a major that the stream at hand may hold (R108), passes every check of its slot. -/
theorem plainSlot_of_decodes {h : Bool} {w : W32} {i : Instr} (hd : decodeSlot false w = (0, i))
    (hm : h = true → handlerMajor (w.extractLsb' 26 6).toNat = true) : PlainSlot h w i := by
  have hw := not_isHeader_of_decodes hd
  refine ⟨hw, fun n => ?_⟩
  cases h <;> simp_all [slotCheck, lowest, Instr.badExt]

theorem plainSlot_nop (h : Bool) : PlainSlot h 0 .nop :=
  plainSlot_of_decodes (decodeSlot_zero false) fun _ => rfl

/-! ### The first pass of R36 -/

/-- A bundle whose first word is at fault on its own traps at slot 0. -/
theorem decodeBundle_bad_S0 {ig h : Bool} {w0 : W32} {c : Nat}
    (h0 : slotCheck ig h (headerOf w0).1 0#8 0 w0 = (c, .nop)) (hc : c ≠ 0) (w1 w2 w3 : W32) :
    decodeBundle ig h w0 w1 w2 w3 = .illegal c 0 := by
  simp [decodeBundle, firstBad, h0, hc]

section Plain

variable {h : Bool} {w0 w1 w2 w3 : W32} {i0 i1 i2 i3 : Instr}

/-- A header in S1 is at fault there. -/
theorem decodeBundle_header_S1 (h0 : PlainSlot h w0 i0) (hw : isHeader w1 = true) :
    decodeBundle false h w0 w1 w2 w3 = .illegal 4 1 := by
  simp [decodeBundle, headerOf_of_not_isHeader h0.1, h0.2, slotCheck_header_later hw, firstBad]

/-- A header in S2 is at fault there. -/
theorem decodeBundle_header_S2 (h0 : PlainSlot h w0 i0) (h1 : PlainSlot h w1 i1) (hw : isHeader w2 = true) :
    decodeBundle false h w0 w1 w2 w3 = .illegal 4 2 := by
  simp [decodeBundle, headerOf_of_not_isHeader h0.1, h0.2, h1.2, slotCheck_header_later hw, firstBad]

/-- A header in S3 is at fault there. -/
theorem decodeBundle_header_S3 (h0 : PlainSlot h w0 i0) (h1 : PlainSlot h w1 i1) (h2 : PlainSlot h w2 i2)
    (hw : isHeader w3 = true) : decodeBundle false h w0 w1 w2 w3 = .illegal 4 3 := by
  simp [decodeBundle, headerOf_of_not_isHeader h0.1, h0.2, h1.2, h2.2, slotCheck_header_later hw, firstBad]

/-- A bundle of plain words that the second pass stops. -/
theorem decodeBundle_plain_illegal {c n : Nat} (h0 : PlainSlot h w0 i0) (h1 : PlainSlot h w1 i1)
    (h2 : PlainSlot h w2 i2) (h3 : PlainSlot h w3 i3)
    (hp : pairCheck .none 0 [] [⟨i0, 0⟩, ⟨i1, 0⟩, ⟨i2, 0⟩, ⟨i3, 0⟩] = some (c, n)) :
    decodeBundle false h w0 w1 w2 w3 = .illegal c n := by
  simp_all [decodeBundle, headerOf_of_not_isHeader h0.1, h0.2, h1.2, h2.2, h3.2, firstBad]

/-- A bundle of plain words that the second pass lets through. -/
theorem decodeBundle_plain_ok (h0 : PlainSlot h w0 i0) (h1 : PlainSlot h w1 i1) (h2 : PlainSlot h w2 i2)
    (h3 : PlainSlot h w3 i3) (hp : pairCheck .none 0 [] [⟨i0, 0⟩, ⟨i1, 0⟩, ⟨i2, 0⟩, ⟨i3, 0⟩] = none) :
    decodeBundle false h w0 w1 w2 w3 = .ok ⟨.none, [⟨i0, 0⟩, ⟨i1, 0⟩, ⟨i2, 0⟩, ⟨i3, 0⟩]⟩ := by
  simp_all [decodeBundle, headerOf_of_not_isHeader h0.1, h0.2, h1.2, h2.2, h3.2, firstBad]

end Plain

/-! ### The second pass of R36 -/

theorem classOfMajor_nop : classOfMajor Instr.nop.major = .none := rfl

theorem classOfMajor_add (p : BitVec 3) (d a b : BitVec 6) : classOfMajor (Instr.add p d a b).major = .sa := rfl

theorem classOfMajor_sub (p : BitVec 3) (d a b : BitVec 6) : classOfMajor (Instr.sub p d a b).major = .sa := rfl

/-- NOP takes no unit and writes nothing, so the pass goes on after it (R22). -/
theorem pairCheck_nop {k : HdrKind} {n : Nat} {before : List Slot} (hb : before.length < 4) (x : Byte) (t : List Slot) :
    pairCheck k n before (⟨.nop, x⟩ :: t) = pairCheck k (n + 1) (before ++ [⟨.nop, x⟩]) t := by
  have hl : ¬ (classOfMajor Instr.nop.major).limit
      ≤ (before.filter fun b => decide (classOfMajor b.i.major = classOfMajor Instr.nop.major)).length :=
    Nat.not_le.2 (Nat.lt_of_le_of_lt (List.length_filter_le ..) hb)
  simp only [pairCheck, decide_eq_false hl]
  simp [classOfMajor_nop, Instr.writes]

/-- A branch-class operation outside S3 earns subcode 8 at its slot (R45). -/
theorem pairCheck_branch {k : HdrKind} {n : Nat} {i : Instr} (hi : classOfMajor i.major = .br) (hn : n ≠ 3)
    (before t : List Slot) (x : Byte) : pairCheck k n before (⟨i, x⟩ :: t) = some (8, n) := by
  simp [pairCheck, hi, hn]

/-- A branch-class operation in S3 after three NOPs is let through (R45). -/
theorem pairCheck_branch_S3 {k : HdrKind} {i : Instr} (hi : classOfMajor i.major = .br) (x : Byte) :
    pairCheck k 3 [⟨.nop, 0⟩, ⟨.nop, 0⟩, ⟨.nop, 0⟩] [⟨i, x⟩] = none := by
  simp [pairCheck, hi, classOfMajor_nop, UnitClass.limit, Instr.writes]

/-- A SUB with the destination of the ADD before it earns subcode 9 (R59). -/
theorem pairCheck_add_sub_clash {d : BitVec 6} (hd : d ≠ 0) (p q : BitVec 3) (a b e f : BitVec 6) (t : List Slot) :
    pairCheck .none 0 [] (⟨.add p d a b, 0⟩ :: ⟨.sub q d e f, 0⟩ :: t) = some (9, 1) := by
  have hn : d.toNat ≠ 0 := fun h0 => hd (BitVec.eq_of_toNat_eq h0)
  simp [pairCheck, classOfMajor_add, classOfMajor_sub, hn, UnitClass.limit, Instr.writes, extD, Place.clash]

/-- Writes to s0 are discarded and never clash (R59). -/
theorem pairCheck_add_sub_s0 (p q : BitVec 3) (a b e f : BitVec 6) (t : List Slot) :
    pairCheck .none 0 [] (⟨.add p 0 a b, 0⟩ :: ⟨.sub q 0 e f, 0⟩ :: t)
      = pairCheck .none 2 [⟨.add p 0 a b, 0⟩, ⟨.sub q 0 e f, 0⟩] t := by
  simp [pairCheck, classOfMajor_add, classOfMajor_sub, UnitClass.limit, Instr.writes, extD, Place.clash]

/-! ### The words of ADD and SUB (R20, R28) -/

/-- w is the word of operation n of major 0x01, with guard p, destination d and sources a and b. -/
structure IsMajor01Word (n : Nat) (p : BitVec 3) (d a b : BitVec 6) (w : W32) : Prop where
  major : w.extractLsb' 26 6 = 1#6
  op : (w.extractLsb' 0 5).toNat = n
  guard : w.extractLsb' 23 3 = p
  dest : w.extractLsb' 17 6 = d
  srcA : w.extractLsb' 11 6 = a
  srcB : w.extractLsb' 5 6 = b

theorem isMajor01Word_ofNat {n m : Nat} (hn : n < 32) (p : BitVec 3) (d a b : BitVec 6)
    (hm : m = 2 ^ 26 + p.toNat * 2 ^ 23 + d.toNat * 2 ^ 17 + a.toNat * 2 ^ 11 + b.toNat * 2 ^ 5 + n) :
    IsMajor01Word n p d a b (BitVec.ofNat 32 m) := by
  constructor <;>
    simp only [← BitVec.toNat_inj, BitVec.extractLsb'_toNat, Nat.shiftRight_eq_div_pow, BitVec.toNat_ofNat] <;>
    omega

theorem isMajor01Word_add (p : BitVec 3) (d a b : BitVec 6) : IsMajor01Word 0 p d a b (encodeSlot (.add p d a b)) := by
  have hw : encodeNat (.add p d a b)
      = 0x04000000 + p.toNat * 8388608 + d.toNat * 131072 + a.toNat * 2048 + b.toNat * 32 := rfl
  exact isMajor01Word_ofNat (by decide) p d a b (by omega)

theorem isMajor01Word_sub (p : BitVec 3) (d a b : BitVec 6) : IsMajor01Word 1 p d a b (encodeSlot (.sub p d a b)) := by
  have hw : encodeNat (.sub p d a b)
      = 0x04000001 + p.toNat * 8388608 + d.toNat * 131072 + a.toNat * 2048 + b.toNat * 32 := rfl
  exact isMajor01Word_ofNat (by decide) p d a b (by omega)

section

variable {n : Nat} {p : BitVec 3} {d a b : BitVec 6} {w : W32}

theorem IsMajor01Word.decodeSlot_add (h : IsMajor01Word 0 p d a b w) : decodeSlot false w = (0, .add p d a b) := by
  simp [decodeSlot, decodeMajor, decodeMajor01, slotIf, Instr.badCode, h.major, h.op, h.guard, h.dest, h.srcA, h.srcB]

theorem IsMajor01Word.decodeSlot_sub (h : IsMajor01Word 1 p d a b w) : decodeSlot false w = (0, .sub p d a b) := by
  simp [decodeSlot, decodeMajor, decodeMajor01, slotIf, Instr.badCode, h.major, h.op, h.guard, h.dest, h.srcA, h.srcB]

/-- Major 0x01 may stand in a handler too (R108). -/
theorem IsMajor01Word.handlerMajor_eq_true (h : IsMajor01Word n p d a b w) :
    handlerMajor (w.extractLsb' 26 6).toNat = true := by
  rw [h.major]
  rfl

end

theorem plainSlot_add (h : Bool) (p : BitVec 3) (d a b : BitVec 6) :
    PlainSlot h (encodeSlot (.add p d a b)) (.add p d a b) :=
  have hw := isMajor01Word_add p d a b
  plainSlot_of_decodes hw.decodeSlot_add fun _ => hw.handlerMajor_eq_true

theorem plainSlot_sub (h : Bool) (p : BitVec 3) (d a b : BitVec 6) :
    PlainSlot h (encodeSlot (.sub p d a b)) (.sub p d a b) :=
  have hw := isMajor01Word_sub p d a b
  plainSlot_of_decodes hw.decodeSlot_sub fun _ => hw.handlerMajor_eq_true

/-! ### The bundles of the statement -/

/-- A header of a kind that its code does not have traps at S0 (R27, R36). -/
theorem decodeBundle_header_kind {h : Bool} {w : W32} (hw : isHeader w = true) (a b c : W32) :
    (w.extractLsb' 24 2 = 2 → decodeBundle false h w a b c = .illegal 5 0)
    ∧ (w.extractLsb' 24 2 = 3 → ∀ ig, decodeBundle ig h w a b c = .illegal 6 0) := by
  constructor
  · intro hk
    exact decodeBundle_bad_S0 (headerOf_kind10 hw hk ▸ slotCheck_kind10 hw h _) (by decide) a b c
  · intro hk ig
    exact decodeBundle_bad_S0 (headerOf_kind11 hw hk ▸ slotCheck_kind11 hw ig h _) (by decide) a b c

/-- A branch-class operation among NOPs: S3 alone takes it (R45). -/
theorem decodeBundle_branch {w : W32} {i : Instr} (hd : decodeSlot false w = (0, i)) (hi : classOfMajor i.major = .br) :
    decodeBundle false false w 0 0 0 = .illegal 8 0 ∧ decodeBundle false false 0 w 0 0 = .illegal 8 1
    ∧ decodeBundle false false 0 0 w 0 = .illegal 8 2
    ∧ decodeBundle false false 0 0 0 w = .ok ⟨.none, [⟨.nop, 0⟩, ⟨.nop, 0⟩, ⟨.nop, 0⟩, ⟨i, 0⟩]⟩ := by
  have hz := plainSlot_nop false
  have hw : PlainSlot false w i := plainSlot_of_decodes hd fun h => absurd h (by decide)
  refine ⟨decodeBundle_plain_illegal hw hz hz hz ?_, decodeBundle_plain_illegal hz hw hz hz ?_,
    decodeBundle_plain_illegal hz hz hw hz ?_, decodeBundle_plain_ok hz hz hz hw ?_⟩
  · exact pairCheck_branch hi (by decide) _ _ _
  · rw [pairCheck_nop (by decide)]
    exact pairCheck_branch hi (by decide) _ _ _
  · rw [pairCheck_nop (by decide), pairCheck_nop (by decide)]
    exact pairCheck_branch hi (by decide) _ _ _
  · rw [pairCheck_nop (by decide), pairCheck_nop (by decide), pairCheck_nop (by decide)]
    exact pairCheck_branch_S3 hi _

/-- An ADD and a SUB of one destination: a fault of the SUB's slot, unless the destination is s0 (R59). -/
theorem decodeBundle_add_sub (p q : BitVec 3) (d a b e f : BitVec 6) (h : Bool) :
    (d ≠ 0 → decodeBundle false h (encodeSlot (.add p d a b)) (encodeSlot (.sub q d e f)) 0 0 = .illegal 9 1)
    ∧ decodeBundle false h (encodeSlot (.add p 0 a b)) (encodeSlot (.sub q 0 e f)) 0 0 =
      .ok ⟨.none, [⟨.add p 0 a b, 0⟩, ⟨.sub q 0 e f, 0⟩, ⟨.nop, 0⟩, ⟨.nop, 0⟩]⟩ := by
  have hz := plainSlot_nop h
  constructor
  · intro hd
    exact decodeBundle_plain_illegal (plainSlot_add h p d a b) (plainSlot_sub h q d e f) hz hz
      (pairCheck_add_sub_clash hd ..)
  · refine decodeBundle_plain_ok (plainSlot_add h p 0 a b) (plainSlot_sub h q 0 e f) hz hz ?_
    rw [pairCheck_add_sub_s0, pairCheck_nop (by simp), pairCheck_nop (by simp)]
    rfl

/-! ### The effect of NOP (R22) -/

/-- NOP leaves a state as it is, but for the verdict that the evaluation of a bundle has it note (R100). -/
theorem exec_nop_eq_next_iff (s : State) : exec .nop s = .next s ↔ (s.cur.mode = .probe → s.cur.verdict = .go) := by
  rw [exec_nop, execNop]
  split
  case isTrue hm =>
    constructor
    · intro h _
      exact (congrArg (fun t => t.cur.verdict) (Host.Outcome.next.inj h)).symm
    · intro h
      simp [ok, ← h hm]
  case isFalse hm => simp [ok, hm]

/-- Wherever a step runs NOP, the slot at hand has noted nothing yet, and NOP leaves the state as it is. -/
theorem exec_nop_atSlot (s : State) (c n : Nat) (k : HdrKind) (x : Byte) (m : ExecMode) :
    exec .nop (s.atSlot c n k x m) = .next (s.atSlot c n k x m) :=
  (exec_nop_eq_next_iff _).2 fun _ => rfl

/-! ### The statement -/

/-- Everything that the statement says of words and bundles holds; what is left of it is that NOP has no effect on any
state at all. -/
theorem illegalEncodingsRefused_iff : Obligations.IllegalEncodingsRefused ↔ ∀ s, exec .nop s = .next s := by
  constructor
  · rintro ⟨⟨-, -, -, hnop⟩, -⟩
    exact hnop
  · intro hnop
    refine ⟨⟨decodeSlot_zero false, decodeSlot_zero true, classOfMajor_nop, hnop⟩,
      fun w => ⟨fun hm => ⟨.nop, decodeSlot_igporMajor hm⟩, fun hm hw => ⟨.nop, decodeSlot_major00 hm hw⟩⟩,
      fun h w a b hw => ?_, fun h w a b c hw => ?_, fun w i hd hi => decodeBundle_branch hd hi, decodeBundle_add_sub⟩
    · have hz := plainSlot_nop h
      exact ⟨decodeBundle_header_S1 hz hw, decodeBundle_header_S2 hz hz hw, decodeBundle_header_S3 hz hz hz hw⟩
    · obtain ⟨h10, h11⟩ := decodeBundle_header_kind (h := h) hw a b c
      exact ⟨h10, fun hk => ⟨h11 hk false, h11 hk true⟩⟩

/-- Refutes O52: NOP in the evaluation of a bundle (R100) notes the verdict go, so it changes a state whose noted verdict
is a wait. The statement lacks the hypothesis s.cur.mode ≠ .probe that SuppressedSlotsDoNothing has; no step runs NOP on
such a state (exec_nop_atSlot), and the other clauses hold (illegalEncodingsRefused_iff). -/
theorem not_illegalEncodingsRefused : ¬ Obligations.IllegalEncodingsRefused := by
  intro h
  have hnop := illegalEncodingsRefused_iff.1 h { State.reset with cur := { mode := .probe, verdict := .wait } }
  have hgo : Verdict.wait = .go := (exec_nop_eq_next_iff _).1 hnop rfl
  exact absurd hgo (by decide)

end Sys2Proof.Machine
end

section
/-! PROOFS. Shifts, leading zeros and bit fields (spec 04 R72, R73, R77). -/

namespace Sys2Proof.Machine

/-! ### Leading zeros (R72) -/

/-- The highest one of a value is at the position of its binary logarithm. -/
theorem log2_toNat_of_highest {x : W64} {h : Nat} (hone : x.getLsbD h = true)
    (hzero : ∀ i, h < i → x.getLsbD i = false) : Nat.log2 x.toNat = h := by
  have hlo : 2 ^ h ≤ x.toNat := Nat.ge_two_pow_of_testBit (by rwa [BitVec.testBit_toNat])
  have hhi : x.toNat < 2 ^ (h + 1) :=
    Nat.lt_pow_two_of_testBit _ fun i hi => by rw [BitVec.testBit_toNat]; exact hzero i hi
  have hne : x.toNat ≠ 0 := (Nat.lt_of_lt_of_le (Nat.two_pow_pos h) hlo).ne'
  exact (Nat.log2_eq_iff hne).2 ⟨hlo, hhi⟩

theorem clz64_zero : clz64 0 = 64 := rfl

/-- CLZ counts the bits above the highest one. -/
theorem clz64_of_highest {x : W64} {h : Nat} (hone : x.getLsbD h = true)
    (hzero : ∀ i, h < i → x.getLsbD i = false) : clz64 x = BitVec.ofNat 64 (63 - h) := by
  have hne : x ≠ 0 := by
    rintro rfl
    simp at hone
  rw [clz64, if_neg hne, log2_toNat_of_highest hone hzero]

/-! ### Bit fields (R73) -/

/-- A field never reaches past bit 63: its length is cut there. -/
theorem fieldPos_add_fieldLen_le (b : W64) : fieldPos b + fieldLen b ≤ 64 := by
  have hpos : fieldPos b < 64 := Nat.mod_lt _ (by decide)
  have hlen : fieldLen b ≤ 64 - fieldPos b := Nat.min_le_right ..
  omega

/-- The mask of a descriptor covers the bits of its field. -/
theorem getLsbD_fieldMask (b : W64) (i : Nat) :
    (fieldMask b).getLsbD i = decide (fieldPos b ≤ i ∧ i < fieldPos b + fieldLen b) := by
  have hend := fieldPos_add_fieldLen_le b
  rw [fieldMask, BitVec.getLsbD_ofNat, Nat.testBit_mul_two_pow, Nat.testBit_two_pow_sub_one, Bool.eq_iff_iff]
  simp only [Bool.and_eq_true, decide_eq_true_eq]
  omega

/-- BFX brings bit POS + i of the source to bit i inside the field, and leaves zeros above it. -/
theorem getLsbD_bitFieldExtract (a b : W64) (i : Nat) :
    (bitFieldExtract a b).getLsbD i = (decide (i < fieldLen b) && a.getLsbD (fieldPos b + i)) := by
  have hin : (fieldMask b).getLsbD (fieldPos b + i) = decide (i < fieldLen b) := by
    rw [getLsbD_fieldMask, decide_eq_decide]
    omega
  rw [bitFieldExtract, BitVec.getLsbD_ushiftRight, BitVec.getLsbD_and, hin, Bool.and_comm]

/-- BFI brings bit i - POS of the source to bit i inside the field, and keeps the destination's bits outside it. -/
theorem getLsbD_bitFieldInsert (d a b : W64) {i : Nat} (hi : i < 64) :
    (bitFieldInsert d a b).getLsbD i =
      if fieldPos b ≤ i ∧ i < fieldPos b + fieldLen b then a.getLsbD (i - fieldPos b) else d.getLsbD i := by
  rw [bitFieldInsert, BitVec.getLsbD_or, BitVec.getLsbD_and, BitVec.getLsbD_and, BitVec.getLsbD_not,
    BitVec.getLsbD_shiftLeft, getLsbD_fieldMask]
  split
  case isTrue hin => simp [hin, hi]
  case isFalse hout => simp [hout, hi]

/-- BFI reads its destination as a third source. -/
theorem execBfi_executes {s : State} {p : BitVec 3} {d a b : BitVec 6}
    (h : s.Executes p [s.rA a, s.rB b, s.rD d] (some (s.rD d)) false) :
    execBfi p d a b s
      = .next (s.putScalar 1 (s.rD d) (bitFieldInsert (s.reg (s.rD d)) (s.reg (s.rA a)) (s.reg (s.rB b)))) :=
  slotMeaning_executes h rfl

/-- An operation on a register and an immediate queues its function of the register. -/
theorem aluImm_executes {s : State} {p : BitVec 3} {d a : BitVec 6} {f : W64 → W64}
    (h : s.Executes p [s.rA a] (some (s.rD d)) false) :
    aluImm f p d a s = .next (s.putScalar 1 (s.rD d) (f (s.reg (s.rA a)))) :=
  aluOp1_executes h

/-! ### The statement -/

/-- Settles O2: each operation queues its function of the operands (aluOp_executes, aluOp1_executes), and the functions of
CLZ, BFX and BFI are said bit by bit above. -/
theorem shiftAndBitFieldResults : Obligations.ShiftAndBitFieldResults := by
  refine ⟨fun s p d a b n => ⟨fun h => ?byRegister, fun h => ?byConstant⟩,
    fun s p d a b => ⟨fun h => ?extract, fun h => ?insert⟩⟩
  case byRegister =>
    intro x m puts
    have hshl : exec (.shl p d a b) s = puts (x <<< m) := (exec_shl ..).trans (aluOp_executes h)
    have hshr : exec (.shr p d a b) s = puts (x >>> m) := (exec_shr ..).trans (aluOp_executes h)
    have hsar : exec (.sar p d a b) s = puts (x.sshiftRight m) := (exec_sar ..).trans (aluOp_executes h)
    refine ⟨hshl, hshr, hsar, fun hm => ?_⟩
    rw [hshl, hshr, hsar, hm]
    simp
  case byConstant =>
    intro x puts
    have hclz : exec (.clz p d a) s = puts (clz64 x) := (exec_clz ..).trans (aluOp1_executes h)
    have hshli : exec (.shli p d a n) s = puts (x <<< n.toNat) := (exec_shli ..).trans (aluImm_executes h)
    have hshri : exec (.shri p d a n) s = puts (x >>> n.toNat) := (exec_shri ..).trans (aluImm_executes h)
    have hsari : exec (.sari p d a n) s = puts (x.sshiftRight n.toNat) := (exec_sari ..).trans (aluImm_executes h)
    refine ⟨hshli, hshri, hsari, fun hx => ?_, fun i _ hone hzero => ?_⟩
    · rw [hclz, hx, clz64_zero]
    · rw [hclz, clz64_of_highest hone hzero]
  case extract => exact ⟨_, (exec_bfx ..).trans (aluOp_executes h), fun i _ => getLsbD_bitFieldExtract _ _ i⟩
  case insert => exact ⟨_, (exec_bfi ..).trans (execBfi_executes h), fun i hi => getLsbD_bitFieldInsert _ _ _ hi⟩

end Sys2Proof.Machine
end

section
/-! PROOFS. What a read under a hallmark gives, before and after a write (spec 04 R67-R70, spec 07 R134, spec 09 R182,
R186). -/

namespace Sys2Proof.Machine

section Reads
variable {k : Core} {g h : Hm} {m n : Nat} {v : W64} {x : Bool} {img : Image}

/-! ### Scalar registers (R67, R68) -/

@[simp] theorem Core.scalar_zero : k.scalar g 0 = 0 := rfl

/-- A write to s0 is discarded. -/
@[simp] theorem Core.setScalar_zero {sh : Bool} : k.setScalar g sh 0 v = k := rfl

/-- A register reads as it stands under its own hallmark. -/
theorem Core.scalar_own (hn : n ≠ 0) (hh : (k.cell n).hm = g) : k.scalar g n = (k.cell n).val := by
  simp [Core.scalar, hn, hh]

/-- A register reads as zero under another hallmark. -/
theorem Core.scalar_stale (hh : (k.cell n).hm ≠ g) : k.scalar g n = 0 := by
  simp [Core.scalar, hh]

/-- A write outside a handler replaces the register's cell and tags it. -/
theorem Core.cell_setScalar_same (hu : k.ui = false) (hn : n ≠ 0) : (k.setScalar g false n v).cell n = ⟨v, g⟩ := by
  simp [Core.setScalar, Core.cell, hn, hu]

/-- A write to a register leaves the cells of the others alone. -/
theorem Core.cell_setScalar_other {sh : Bool} (hm : m ≠ n) : (k.setScalar g sh n v).cell m = k.cell m := by
  unfold Core.setScalar
  split
  · rfl
  · split <;> simp only [Core.cell, Sparse.get_put_other hm]

/-- A register that has been written reads as zero under every other hallmark than the writer's. -/
theorem Core.scalar_setScalar_stale (hu : k.ui = false) (hn : n ≠ 0) (hh : h ≠ g) :
    (k.setScalar g false n v).scalar h n = 0 :=
  Core.scalar_stale (by rw [Core.cell_setScalar_same hu hn]; exact hh.symm)

/-- A write outside a handler reads back under its own hallmark. -/
theorem Core.scalar_setScalar_own (hu : k.ui = false) (hn : n ≠ 0) : (k.setScalar g false n v).scalar g n = v := by
  have hc := Core.cell_setScalar_same (g := g) (v := v) hu hn
  rw [Core.scalar_own hn (by rw [hc]), hc]

/-- A write to a register leaves the reads of the others alone, whoever reads. -/
theorem Core.scalar_setScalar_ne {sh : Bool} (hm : m ≠ n) : (k.setScalar g sh n v).scalar h m = k.scalar h m := by
  simp only [Core.scalar, Core.cell_setScalar_other hm]

/-! ### Predicates (R70) -/

@[simp] theorem Core.pred_zero : k.pred g 0 = true := rfl

/-- A write to p0 is discarded. -/
@[simp] theorem Core.setPred_zero {sh : Bool} : k.setPred g sh 0 x = k := rfl

/-- A predicate other than p0 reads as false under another hallmark. -/
theorem Core.pred_stale (hn : n ≠ 0) (hh : (k.pcell n).hm ≠ g) : k.pred g n = false := by
  simp [Core.pred, hn, hh]

/-- A write outside a handler reads back under its own hallmark. -/
theorem Core.pred_setPred_own (hu : k.ui = false) (hn : n ≠ 0) : (k.setPred g false n x).pred g n = x := by
  simp [Core.setPred, Core.pred, Core.pcell, hn, hu]

/-! ### Rows and scratchpad lines (R134, R182) -/

@[simp] theorem Line.read_own {d : Image} {bad : Bool} : Line.read ⟨d, g, bad⟩ g = d := if_pos rfl

theorem Line.read_stale {l : Line} (hh : l.hm ≠ g) : l.read g = 0 := if_neg hh

/-- The mask of all units covers every bit of an image. -/
theorem unitMask_allUnits : unitMask allUnits = BitVec.allOnes 1024 := by decide +kernel

@[simp] theorem mergeUnits_allUnits {old : Image} : mergeUnits allUnits img old = img := by
  simp only [mergeUnits, unitMask_allUnits, BitVec.and_allOnes, BitVec.not_allOnes, BitVec.and_zero, BitVec.or_zero]

/-- The mask of 128 bytes from byte 0 on covers every bit of an image. -/
theorem lineMask_eq_allOnes : BitVec.ofNat 1024 ((2 ^ (8 * 128) - 1) * 2 ^ (8 * 0)) = BitVec.allOnes 1024 := by
  decide +kernel

@[simp] theorem mergeBytes_line {old : Image} : mergeBytes 0 128 img old = img := by
  rw [mergeBytes, lineMask_eq_allOnes, BitVec.and_allOnes, BitVec.not_allOnes, BitVec.and_zero, BitVec.or_zero,
    Nat.mul_zero, BitVec.shiftLeft_zero]

/-- A write of a whole row replaces the row, tags it and makes it good again. -/
theorem Core.rows_writeRow_same : Sparse.get {} n (k.writeRow g n allUnits img).rows = ⟨img, g, false⟩ := by
  simp [Core.writeRow, Line.write]

/-- A write of a row leaves the reads of the others alone, whoever reads. -/
theorem Core.row_writeRow_ne {u : W32} (hm : m ≠ n) : (k.writeRow g n u img).row h m = k.row h m := by
  simp only [Core.row, Core.writeRow, Sparse.get_upd_other hm]

/-- A write of a whole line replaces the line, tags it and makes it good again. -/
theorem Core.spm_writeSpm_same : Sparse.get {} n (k.writeSpm g n 0 128 img).spm = ⟨img, g, false⟩ := by
  simp [Core.writeSpm]

/-- A write of a line leaves the others alone. -/
theorem Core.spm_writeSpm_other {lo len : Nat} (hm : m ≠ n) :
    Sparse.get {} m (k.writeSpm g n lo len img).spm = Sparse.get {} m k.spm := by
  simp only [Core.writeSpm, Sparse.get_upd_other hm]

/-! ### Handles (R186) -/

/-- A handle reads as FREE with every field zero under another hallmark. -/
theorem Core.handle_stale (hh : (Sparse.get {} n k.handles).hm ≠ g) : k.handle g n = { hm := g } :=
  if_neg hh

end Reads

/-! ### The statement -/

/-- Settles O58: the hallmark decides every read, and a write of a whole place leaves its value under the writer's
hallmark there and no other place changed. -/
theorem hallmarksGuardReads : Obligations.HallmarksGuardReads := by
  intro k g n v x img line
  refine ⟨Core.scalar_zero, ?s0, Core.pred_zero, ?p0, Core.scalar_stale, Core.scalar_own, Core.pred_stale,
    Line.read_stale, Line.read_stale, ?lineOwn, ?lineStale, ?lineOther, ?handle, ?written, ?rowOwn,
    fun m hm h => Core.row_writeRow_ne hm⟩
  case s0 => rw [Core.setScalar_zero, Core.scalar_zero]
  case p0 => rw [Core.setPred_zero, Core.pred_zero]
  case lineOwn =>
    show (Sparse.get {} n (k.writeSpm g n 0 128 img).spm).read g = img
    rw [Core.spm_writeSpm_same, Line.read_own]
  case lineStale =>
    intro h hh
    exact Line.read_stale (by rw [Core.spm_writeSpm_same]; exact hh.symm)
  case lineOther =>
    intro m hm h
    exact congrArg (Line.read · h) (Core.spm_writeSpm_other hm)
  case handle =>
    intro hh
    rw [Core.handle_stale hh]
    exact ⟨rfl, rfl, rfl⟩
  case written =>
    intro hu hn
    exact ⟨Core.scalar_setScalar_own hu hn, Core.pred_setPred_own hu hn, fun h hh => Core.scalar_setScalar_stale hu hn hh,
      fun m hm h => Core.scalar_setScalar_ne hm⟩
  case rowOwn => rw [Core.row, Core.rows_writeRow_same, Line.read_own]

end Sys2Proof.Machine
end

section
/-! PROOFS. Reads and writes of the control and status registers (spec 03 R50, spec 04 R84-R86). -/

namespace Sys2Proof.Machine

/-! ### The privilege of an index (R85) -/

theorem csrVerdict_allowed {s : State} {c : BitVec 11} (h : c.toNat < 0x400 ∨ s.k.lvl = true) :
    csrVerdict c s = .go := by
  refine if_neg fun ht => ?_
  obtain ⟨hc, hl⟩ : 0x400 ≤ c.toNat ∧ s.k.lvl = false := by simpa using ht
  rcases h with h | h
  · omega
  · simp [hl] at h

theorem csrVerdict_refused {s : State} {c : BitVec 11} (hc : 0x400 ≤ c.toNat) (hl : s.k.lvl = false) :
    csrVerdict c s = .trap 4 1 0 0 0 :=
  if_pos (by simp [hc, hl])

section Reads
variable {s : State} {c idx : Nat} {v : W64}

/-! ### What a read depends on -/

/-- The latency table does not depend on the cores. -/
theorem State.latEntry_updCore (s : State) (c : Nat) (f : Core → Core) : (s.updCore c f).latEntry c = s.latEntry c := rfl

/-- A change that leaves a core as it is leaves what the core reads. -/
theorem State.csrRead_updCore_of_eq {f : Core → Core} (hf : f (s.core c) = s.core c) :
    (s.updCore c f).csrRead c idx = s.csrRead c idx := by
  simp only [State.csrRead, State.core_updCore_same, hf, State.die_updCore, State.latEntry_updCore]

/-- A register that reads as a function r of its core reads, after a write, as r of the core that the write leaves. -/
theorem State.csrRead_csrWrite (r : Core → W64) (hr : ∀ s : State, s.csrRead c idx = r (s.core c)) :
    (s.applyDelayed c (.csr idx v)).csrRead c idx = r ((s.core c).csrWrite idx v) := by
  rw [hr, State.applyDelayed, State.core_updCore_same]

/-- A register of n bits reads as the n low bits of the value that it was given. -/
theorem setWidth_setWidth_eq_and (n : Nat) : (v.setWidth n).setWidth 64 = v &&& BitVec.ofNat 64 (2 ^ n - 1) := by
  refine BitVec.eq_of_getLsbD_eq fun i hi => ?_
  rw [BitVec.getLsbD_setWidth, BitVec.getLsbD_setWidth, BitVec.getLsbD_and, BitVec.getLsbD_ofNat,
    Nat.testBit_two_pow_sub_one]
  simp only [hi, decide_true, Bool.true_and, Bool.and_comm]

/-! ### The read-write registers (R50, R84, R86) -/

/-- A write clears the bits of STAT where its value has a 0, and sets none. -/
theorem State.csrRead_csrWrite_stat : (s.applyDelayed c (.csr 0x000 v)).csrRead c 0x000 = s.csrRead c 0x000 &&& v :=
  calc (s.applyDelayed c (.csr 0x000 v)).csrRead c 0x000
      = ((s.core c).csr.stat &&& v) &&& statBits := State.csrRead_csrWrite (fun k => k.csr.stat &&& statBits) fun _ => rfl
    _ = ((s.core c).csr.stat &&& statBits) &&& v := by rw [BitVec.and_assoc, BitVec.and_comm v, BitVec.and_assoc]

theorem State.csrRead_csrWrite_vwb : (s.applyDelayed c (.csr 0x010 v)).csrRead c 0x010 = v &&& 0xFFF :=
  (State.csrRead_csrWrite (fun k => k.csr.vwb.setWidth 64) fun _ => rfl).trans (setWidth_setWidth_eq_and 12)

theorem State.csrRead_csrWrite_vrot : (s.applyDelayed c (.csr 0x011 v)).csrRead c 0x011 = v &&& 0x1F :=
  (State.csrRead_csrWrite (fun k => k.csr.vrot.setWidth 64) fun _ => rfl).trans (setWidth_setWidth_eq_and 5)

theorem State.csrRead_loopCount {i : Nat} (hi : i < 4) :
    s.csrRead c (0x018 + i) = (Sparse.get 0 i (s.core c).csr.lp).setWidth 64 := by
  interval_cases i <;> rfl

theorem Core.lp_csrWrite (k : Core) {i : Nat} (hi : i < 4) :
    (k.csrWrite (0x018 + i) v).csr.lp = Sparse.put 0 i (v.setWidth 32) k.csr.lp := by
  interval_cases i <;> rfl

/-- The four loop counts hold 32 bits each. -/
theorem State.csrRead_csrWrite_loopCount (h : 0x018 ≤ idx ∧ idx ≤ 0x01B) :
    (s.applyDelayed c (.csr idx v)).csrRead c idx = v &&& 0xFFFFFFFF := by
  obtain ⟨i, rfl⟩ := Nat.exists_eq_add_of_le h.1
  have hi : i < 4 := by omega
  calc (s.applyDelayed c (.csr (0x018 + i) v)).csrRead c (0x018 + i)
      = (Sparse.get 0 i ((s.core c).csrWrite (0x018 + i) v).csr.lp).setWidth 64 :=
        State.csrRead_csrWrite (fun k => (Sparse.get 0 i k.csr.lp).setWidth 64) fun _ => State.csrRead_loopCount hi
    _ = (v.setWidth 32).setWidth 64 := by rw [Core.lp_csrWrite _ hi, Sparse.get_put_same]
    _ = v &&& 0xFFFFFFFF := setWidth_setWidth_eq_and 32

theorem State.csrRead_csrWrite_rndseed : (s.applyDelayed c (.csr 0x020 v)).csrRead c 0x020 = v :=
  State.csrRead_csrWrite (fun k => k.csr.rndseed) fun _ => rfl

theorem State.csrRead_csrWrite_fmtst : (s.applyDelayed c (.csr 0x021 v)).csrRead c 0x021 = v &&& 0x3F :=
  (State.csrRead_csrWrite (fun k => k.csr.fmtst.setWidth 64) fun _ => rfl).trans (setWidth_setWidth_eq_and 6)

/-- UIVEC clears its low bits on a write and again on a read. -/
theorem State.csrRead_csrWrite_uivec : (s.applyDelayed c (.csr 0x030 v)).csrRead c 0x030 = v &&& ~~~0xF :=
  calc (s.applyDelayed c (.csr 0x030 v)).csrRead c 0x030
      = (v &&& ~~~0xF) &&& ~~~0xF := State.csrRead_csrWrite (fun k => k.csr.uivec &&& ~~~15#64) fun _ => rfl
    _ = v &&& ~~~0xF := by rw [BitVec.and_assoc, BitVec.and_self]

theorem State.csrRead_csrWrite_ptvec : (s.applyDelayed c (.csr 0x401 v)).csrRead c 0x401 = v &&& ~~~0xFFF :=
  State.csrRead_csrWrite (fun k => k.csr.ptvec) fun _ => rfl

theorem State.csrRead_csrWrite_pepc : (s.applyDelayed c (.csr 0x402 v)).csrRead c 0x402 = v &&& ~~~0xF :=
  State.csrRead_csrWrite (fun k => k.csr.pepc) fun _ => rfl

theorem State.csrRead_csrWrite_gracet : (s.applyDelayed c (.csr 0x404 v)).csrRead c 0x404 = v &&& 0xFFFFFFFF :=
  State.csrRead_csrWrite (fun k => k.csr.gracet) fun _ => rfl

theorem State.csrRead_csrWrite_killt : (s.applyDelayed c (.csr 0x405 v)).csrRead c 0x405 = v &&& 0xFFFFFFFF :=
  State.csrRead_csrWrite (fun k => k.csr.killt) fun _ => rfl

theorem State.csrRead_csrWrite_ctxptr : (s.applyDelayed c (.csr 0x406 v)).csrRead c 0x406 = v &&& ~~~0xFFFF :=
  State.csrRead_csrWrite (fun k => k.csr.ctxptr) fun _ => rfl

/-! ### The other registers (R86) -/

/-- The registers that a CSRW changes. -/
def writableCsrs : List Nat :=
  [0x000, 0x010, 0x011, 0x018, 0x019, 0x01A, 0x01B, 0x020, 0x021, 0x030, 0x401, 0x402, 0x404, 0x405, 0x406]

/-- A write to any other index changes nothing of the core. -/
theorem Core.csrWrite_readOnly (k : Core) (h : idx ∉ writableCsrs) : k.csrWrite idx v = k := by
  unfold Core.csrWrite
  split
  case h_16 => rfl
  all_goals exact absurd (by decide) h

theorem State.csrRead_csrWrite_readOnly (h : idx ∉ writableCsrs) :
    (s.applyDelayed c (.csr idx v)).csrRead c idx = s.csrRead c idx :=
  State.csrRead_updCore_of_eq (Core.csrWrite_readOnly _ h)

end Reads

/-! ### The statement -/

/-- Settles O8: the index decides the verdict of CSRR and CSRW, and each register reads back as its kind says. -/
theorem controlRegistersReadAndWrite : Obligations.ControlRegistersReadAndWrite := by
  refine ⟨fun s p d a c => ⟨fun hc => ⟨fun h => ?read, fun h => ?write⟩, fun hc hl hg hm => ⟨fun ho => ?readTrap,
    fun ho => ?writeTrap⟩⟩, fun s c idx v => ?readBack⟩
  case read => exact (exec_csrr ..).trans (slotMeaning_executes h (csrVerdict_allowed hc))
  case write => exact (exec_csrw ..).trans (slotMeaning_executes h (csrVerdict_allowed hc))
  case readTrap => exact (exec_csrr ..).trans (slotMeaning_trap hg hm ho (csrVerdict_refused hc hl))
  case writeTrap => exact (exec_csrw ..).trans (slotMeaning_trap hg hm ho (csrVerdict_refused hc hl))
  case readBack =>
    split_ifs with stat vwb vrot loopCount rndseed fmtst bundleAddress ptvec timer ctxptr
    · subst stat; exact State.csrRead_csrWrite_stat
    · subst vwb; exact State.csrRead_csrWrite_vwb
    · subst vrot; exact State.csrRead_csrWrite_vrot
    · exact State.csrRead_csrWrite_loopCount loopCount
    · subst rndseed; exact State.csrRead_csrWrite_rndseed
    · subst fmtst; exact State.csrRead_csrWrite_fmtst
    · rcases bundleAddress with rfl | rfl
      · exact State.csrRead_csrWrite_uivec
      · exact State.csrRead_csrWrite_pepc
    · subst ptvec; exact State.csrRead_csrWrite_ptvec
    · rcases timer with rfl | rfl
      · exact State.csrRead_csrWrite_gracet
      · exact State.csrRead_csrWrite_killt
    · subst ctxptr; exact State.csrRead_csrWrite_ctxptr
    · refine State.csrRead_csrWrite_readOnly ?_
      simp only [writableCsrs, List.mem_cons, List.not_mem_nil, or_false]
      omega

end Sys2Proof.Machine
end

section
/-! PROOFS. Memory stays canonical (spec 09 R181, spec 15 R347), and the machine always goes on (spec 00, spec 17). -/

namespace Sys2Proof.Machine

theorem exec_keepsMemoryCanonical {i : Instr} {s t : State} (hs : s.MemoryCanonical) (h : exec i s = .next t) :
    t.MemoryCanonical :=
  (exec_wf i hs).next h

theorem step_keepsMemoryCanonical {s t : State} (hs : s.MemoryCanonical) (h : step s = .next t) : t.MemoryCanonical :=
  (State.next_wf hs).next h

/-- Settles O56: the canonical form is an invariant of exec, of the step that takes the agenda's next choice, and of the
placing of a word. -/
theorem stepKeepsMemoryCanonical : Obligations.StepKeepsMemoryCanonical :=
  ⟨fun _ _ _ hs h => exec_keepsMemoryCanonical hs h, fun _ _ hs h => step_keepsMemoryCanonical hs h,
    fun _ _ _ hs => State.withFetchWord_wf hs⟩

end Sys2Proof.Machine
end

section
/-! PROOFS. Register-to-register and immediate operations (spec 04 R71, R76, R78, R79). -/

namespace Sys2Proof.Machine

/-- The population count adds one for each one bit (R71). -/
theorem onesBelow_eq_length (x : W64) (n : Nat) :
    onesBelow x n = ((List.range n).filter fun i => x.getLsbD i).length := by
  induction n with
  | zero => rfl
  | succ n ih =>
    rw [onesBelow, ih, List.range_succ, List.filter_append, List.length_append]
    cases hx : x.getLsbD n <;> simp [hx]

theorem popc64_eq_length (x : W64) :
    popc64 x = BitVec.ofNat 64 ((List.range 64).filter fun i => x.getLsbD i).length := by
  rw [popc64, onesBelow_eq_length]

/-- Settles O1: each operation queues its function of the operands (aluOp_executes, aluOp1_executes); the signed order of
MIN and MAX is that of the integers and the unsigned one that of the naturals. -/
theorem scalarOperationResults : Obligations.ScalarOperationResults := by
  refine fun s p d a b => ⟨fun h => ?two, fun h => ?one⟩
  case two =>
    intro x y puts
    have alu : ∀ f : W64 → W64 → W64, aluOp Config.latALU f p d a b s = puts (f x y) := fun f => aluOp_executes h
    refine ⟨(exec_add ..).trans (alu _), (exec_sub ..).trans (alu _), (exec_and ..).trans (alu _),
      (exec_or ..).trans (alu _), (exec_xor ..).trans (alu _), (exec_andn ..).trans (alu _), (exec_orn ..).trans (alu _),
      ?min, ?max, ?minu, ?maxu⟩
    case min => exact (exec_min ..).trans ((alu _).trans (by simp only [BitVec.slt_iff_toInt_lt]))
    case max => exact (exec_max ..).trans ((alu _).trans (by simp only [BitVec.slt_iff_toInt_lt]))
    case minu => exact (exec_minu ..).trans ((alu _).trans (by simp only [BitVec.ult_iff_toNat_lt]))
    case maxu => exact (exec_maxu ..).trans ((alu _).trans (by simp only [BitVec.ult_iff_toNat_lt]))
  case one => rw [← popc64_eq_length]; exact (exec_popc ..).trans (aluOp1_executes h)

/-- A signed immediate is sign-extended from its own width, or from the header's eight bits above it (R25, R31). -/
theorem State.imm_eq (s : State) {w : Nat} (i : BitVec w) :
    s.imm i = if s.cur.kind = .imm then (s.cur.x ++ i).signExtend 64 else i.signExtend 64 := by
  cases hk : s.cur.kind <;> simp [State.imm, immS, hk, BitVec.signExtend]

/-- Settles O4: each operation queues its function of the register and the immediate that State.imm_eq names. -/
theorem immediateResults : Obligations.ImmediateResults := by
  refine fun s p d a i j => ⟨fun h => ?register, fun h => ?movi, fun h => ?movhi⟩
  case register =>
    intro x y puts
    have imm : ∀ f : W64 → W64, aluImm f p d a s = puts (f x) := fun f => aluImm_executes h
    have hy : s.imm i = y := s.imm_eq i
    rw [← hy]
    exact ⟨(exec_addi ..).trans (imm _), (exec_andi ..).trans (imm _), (exec_ori ..).trans (imm _),
      (exec_xori ..).trans (imm _)⟩
  case movi =>
    rw [← State.imm_eq]
    exact (exec_movi ..).trans (slotMeaning_executes h rfl)
  case movhi =>
    refine (exec_movhi ..).trans ((slotMeaning_executes h rfl).trans ?_)
    cases s.cur.kind <;> rfl

end Sys2Proof.Machine
end

section
/-! PROOFS. Products, quotients, comparisons and predicates (spec 04 R74, R75, R80-R83). -/

namespace Sys2Proof.Machine

/-! ### Products and quotients (R74, R75) -/

theorem mul_eq_ofNat (x y : W64) : x * y = BitVec.ofNat 64 (x.toNat * y.toNat) := by
  rw [← BitVec.toNat_inj, BitVec.toNat_mul, BitVec.toNat_ofNat]

/-- The signed quotient truncates toward zero, and wraps for -2^63 by -1 (R75). -/
theorem sdiv_eq_ofInt (x y : W64) : x.sdiv y = BitVec.ofInt 64 (x.toInt.tdiv y.toInt) := by
  rw [← BitVec.toInt_inj, BitVec.toInt_sdiv, BitVec.toInt_ofInt]

theorem udiv_eq_ofNat (x y : W64) : x.udiv y = BitVec.ofNat 64 (x.toNat / y.toNat) := by
  rw [← BitVec.toNat_inj, BitVec.toNat_ofNat, Nat.mod_eq_of_lt (Nat.lt_of_le_of_lt (Nat.div_le_self ..) x.isLt)]
  exact BitVec.toNat_udiv

/-- The signed remainder has the sign of the dividend (R75). -/
theorem srem_eq_ofInt (x y : W64) : x.srem y = BitVec.ofInt 64 (x.toInt.tmod y.toInt) := by
  rw [← BitVec.toInt_srem, BitVec.ofInt_toInt]

theorem umod_eq_ofNat (x y : W64) : x.umod y = BitVec.ofNat 64 (x.toNat % y.toNat) := by
  rw [← BitVec.toNat_inj, BitVec.toNat_ofNat, Nat.mod_eq_of_lt (Nat.lt_of_le_of_lt (Nat.mod_le ..) x.isLt)]
  exact BitVec.toNat_umod

/-- A division whose guard is false does nothing (R21). -/
theorem divOp_false {s : State} {p : BitVec 3} {f : W64 → W64 → W64} {d a b : BitVec 6} (hg : s.guard p = false)
    (hm : s.cur.mode = .whole) : divOp f p d a b s = .next s :=
  slotMeaning_false hg (by simp [hm])

/-- Settles O3: each operation queues its function of the operands (aluOp_executes, divOp_executes), said above in integers;
the four divisions trap alike (divOp_traps) and do nothing alike (divOp_false). -/
theorem productsQuotientsAndDivisionTraps : Obligations.ProductsQuotientsAndDivisionTraps := by
  refine ⟨fun s p d a b h => ?results, fun s p d a b i hi hm => ?traps⟩
  case results =>
    intro x y puts
    have alu : ∀ f : W64 → W64 → W64, aluOp Config.latMUL f p d a b s = puts 3 (f x y) := fun f => aluOp_executes h
    have div : y ≠ 0 → ∀ f : W64 → W64 → W64, divOp f p d a b s = puts 12 (f x y) := fun hy f => divOp_executes h hy
    refine ⟨?_, (exec_mulh ..).trans (alu _), (exec_mulhu ..).trans (alu _), fun hy => ⟨?_, ?_, ?_, ?_⟩⟩
    · rw [← mul_eq_ofNat]; exact (exec_mul ..).trans (alu _)
    · rw [← sdiv_eq_ofInt]; exact (exec_div ..).trans (div hy _)
    · rw [← udiv_eq_ofNat]; exact (exec_divu ..).trans (div hy _)
    · rw [← srem_eq_ofInt]; exact (exec_rem ..).trans (div hy _)
    · rw [← umod_eq_ofNat]; exact (exec_remu ..).trans (div hy _)
  case traps =>
    have hdiv : ∃ f, exec i s = divOp f p d a b s := by
      simp only [List.mem_cons, List.not_mem_nil, or_false] at hi
      rcases hi with rfl | rfl | rfl | rfl
      · exact ⟨_, exec_div ..⟩
      · exact ⟨_, exec_divu ..⟩
      · exact ⟨_, exec_rem ..⟩
      · exact ⟨_, exec_remu ..⟩
    obtain ⟨f, hf⟩ := hdiv
    rw [hf]
    exact ⟨fun hg ho hb => divOp_traps hg hm ho hb, fun hg => divOp_false hg hm⟩

/-! ### Conditions (R34, R80, R81) -/

/-- The six signed conditions, EQ to GE. -/
theorem condHolds_signed (m : Nat) (x y : W64) : m < 6 → condHolds m x y =
    match m with
    | 0 => decide (x = y)
    | 1 => decide (x ≠ y)
    | 2 => decide (x.toInt < y.toInt)
    | 3 => decide (x.toInt ≤ y.toInt)
    | 4 => decide (y.toInt < x.toInt)
    | _ => decide (y.toInt ≤ x.toInt) := by
  intro hm
  interval_cases m
  · exact Bool.eq_iff_iff.2 (by simp [condHolds])
  · exact Bool.eq_iff_iff.2 (by simp [condHolds])
  all_goals rfl

/-- The four unsigned conditions, LTU to GEU. -/
theorem condHolds_unsigned (m : Nat) (x y : W64) : m < 4 → condHolds (6 + m) x y =
    match m with
    | 0 => decide (x.toNat < y.toNat)
    | 1 => decide (x.toNat ≤ y.toNat)
    | 2 => decide (y.toNat < x.toNat)
    | _ => decide (y.toNat ≤ x.toNat) := by
  intro hm
  interval_cases m <;> rfl

/-! ### The predicates as bits (R83) -/

theorem State.predBits_lt (s : State) (n : Nat) : s.predBits n < 2 ^ n := by
  induction n with
  | zero => simp [State.predBits]
  | succ n ih => rw [State.predBits, Nat.pow_succ]; split <;> omega

/-- Bit i is predicate i, for i below n. -/
theorem State.testBit_predBits (s : State) (n i : Nat) : (s.predBits n).testBit i = (decide (i < n) && s.prd i) := by
  induction n with
  | zero => simp [State.predBits]
  | succ n ih =>
    have hlt := s.predBits_lt n
    rcases Nat.lt_trichotomy i n with hi | rfl | hi
    · have hrest : (s.predBits (n + 1)).testBit i = (s.predBits n).testBit i := by
        rw [State.predBits]
        split
        · rw [Nat.add_comm, Nat.testBit_two_pow_add_gt hi]
        · rfl
      rw [hrest, ih]
      simp [hi, Nat.lt_succ_of_lt hi]
    · cases hp : s.prd i
      · simp [State.predBits, hp, Nat.testBit_lt_two_pow hlt]
      · simp [State.predBits, hp, Nat.add_comm _ (2 ^ i), Nat.testBit_two_pow_add_eq, Nat.testBit_lt_two_pow hlt]
    · have hbig : s.predBits (n + 1) < 2 ^ i := (s.predBits_lt _).trans_le (Nat.pow_le_pow_right (by decide) hi)
      simp [Nat.testBit_lt_two_pow hbig, Nat.not_lt.2 (Nat.succ_le_of_lt hi)]

/-! ### The statement -/

/-- Settles O5: each operation queues its function of the operands; the conditions are said in integers and naturals
(condHolds_signed, condHolds_unsigned), and PGET's word bit by bit (testBit_predBits). -/
theorem comparisonAndPredicateResults : Obligations.ComparisonAndPredicateResults := by
  refine ⟨fun s p c d3 n d a b m i => ?comparisons, fun s p d3 a3 b3 d a => ?predicates⟩
  case comparisons =>
    intro x y z puts signed unsigned
    have hz : s.imm i = z := s.imm_eq i
    refine ⟨fun h => ?cmp, fun h => ?cmpi, fun h => (exec_sel ..).trans (slotMeaning_executes h rfl)⟩
    case cmp =>
      have hcmp : exec (.cmp p d3 a b m) s = puts (condHolds m.toNat x y) :=
        (exec_cmp ..).trans (slotMeaning_executes h rfl)
      refine ⟨fun hm => hcmp.trans (congrArg puts (condHolds_signed _ x y hm)), fun h6 h10 => hcmp.trans ?_⟩
      obtain ⟨k, hk⟩ := Nat.exists_eq_add_of_le h6
      rw [hk, Nat.add_sub_cancel_left]
      exact congrArg puts (condHolds_unsigned k x y (by omega))
    case cmpi =>
      rw [← hz]
      have hcmpi : exec (.cmpi p c d3 a i) s = puts (condHolds c.toNat x (s.imm i)) :=
        (exec_cmpi ..).trans (slotMeaning_executes h rfl)
      have hcmpiu : exec (.cmpiu p c d3 a i) s = puts (condHolds (6 + c.toNat) x (s.imm i)) :=
        (exec_cmpiu ..).trans (slotMeaning_executes h rfl)
      exact ⟨fun hc => hcmpi.trans (congrArg puts (condHolds_signed _ x _ hc)), 
        fun hc => hcmpiu.trans (congrArg puts (condHolds_unsigned _ x _ hc))⟩
  case predicates =>
    refine ⟨fun h => ?ops, fun h => ⟨_, (exec_pget ..).trans (slotMeaning_executes h rfl), fun i hi => ?_⟩,
      fun h => (exec_pset ..).trans (slotMeaning_executes h rfl)⟩
    case ops =>
      intro x y
      exact ⟨(exec_pand ..).trans (predOp_executes h), (exec_por ..).trans (predOp_executes h),
        (exec_pxor ..).trans (predOp_executes h)⟩
    rw [BitVec.getLsbD_ofNat, s.testBit_predBits]
    simp [hi]

end Sys2Proof.Machine
end

section
/-! PROOFS. Every slot operation is one slotMeaning: suppressed slots (spec 02 R21, R22). -/

namespace Sys2Proof.Machine

/-- The outcome is the slotMeaning of a slot with guard p, for some operands, checks and effect. -/
def IsSlotMeaning (p : BitVec 3) (s : State) (o : Out) : Prop :=
  ∃ reads dest var v e, o = slotMeaning p reads dest var v e s

theorem isSlotMeaning (p : BitVec 3) (s : State) (reads : List Nat) (dest : Option Nat) (var : Bool)
    (v : State → Verdict) (e : State → State) : IsSlotMeaning p s (slotMeaning p reads dest var v e s) :=
  ⟨_, _, _, _, _, rfl⟩

/-- Every slot operation but NOP goes through slotMeaning, under its own guard. -/
theorem exec_isSlotMeaning {i : Instr} (hi : i.major < 64) (hn : i ≠ .nop) (s : State) :
    IsSlotMeaning i.guard s (exec i s) := by
  cases i with
  | nop => exact absurd rfl hn
  | add => rw [exec_add, execAdd, aluOp]; exact isSlotMeaning ..
  | sub => rw [exec_sub, execSub, aluOp]; exact isSlotMeaning ..
  | and => rw [exec_and, execAnd, aluOp]; exact isSlotMeaning ..
  | or => rw [exec_or, execOr, aluOp]; exact isSlotMeaning ..
  | xor => rw [exec_xor, execXor, aluOp]; exact isSlotMeaning ..
  | andn => rw [exec_andn, execAndn, aluOp]; exact isSlotMeaning ..
  | orn => rw [exec_orn, execOrn, aluOp]; exact isSlotMeaning ..
  | shl => rw [exec_shl, execShl, aluOp]; exact isSlotMeaning ..
  | shr => rw [exec_shr, execShr, aluOp]; exact isSlotMeaning ..
  | sar => rw [exec_sar, execSar, aluOp]; exact isSlotMeaning ..
  | min => rw [exec_min, execMin, aluOp]; exact isSlotMeaning ..
  | max => rw [exec_max, execMax, aluOp]; exact isSlotMeaning ..
  | minu => rw [exec_minu, execMinu, aluOp]; exact isSlotMeaning ..
  | maxu => rw [exec_maxu, execMaxu, aluOp]; exact isSlotMeaning ..
  | clz => rw [exec_clz, execClz, aluOp1]; exact isSlotMeaning ..
  | popc => rw [exec_popc, execPopc, aluOp1]; exact isSlotMeaning ..
  | bfx => rw [exec_bfx, execBfx, aluOp]; exact isSlotMeaning ..
  | bfi => rw [exec_bfi, execBfi]; exact isSlotMeaning ..
  | cmpt => rw [exec_cmpt, execCmpt]; exact isSlotMeaning ..
  | mul => rw [exec_mul, execMul, aluOp]; exact isSlotMeaning ..
  | mulh => rw [exec_mulh, execMulh, aluOp]; exact isSlotMeaning ..
  | mulhu => rw [exec_mulhu, execMulhu, aluOp]; exact isSlotMeaning ..
  | div => rw [exec_div, execDiv, divOp]; exact isSlotMeaning ..
  | divu => rw [exec_divu, execDivu, divOp]; exact isSlotMeaning ..
  | rem => rw [exec_rem, execRem, divOp]; exact isSlotMeaning ..
  | remu => rw [exec_remu, execRemu, divOp]; exact isSlotMeaning ..
  | cmp => rw [exec_cmp, execCmp]; exact isSlotMeaning ..
  | sel => rw [exec_sel, execSel]; exact isSlotMeaning ..
  | pand => rw [exec_pand, execPand, predOp]; exact isSlotMeaning ..
  | por => rw [exec_por, execPor, predOp]; exact isSlotMeaning ..
  | pxor => rw [exec_pxor, execPxor, predOp]; exact isSlotMeaning ..
  | pget => rw [exec_pget, execPget]; exact isSlotMeaning ..
  | pset => rw [exec_pset, execPset]; exact isSlotMeaning ..
  | addi => rw [exec_addi, execAddi, aluImm, aluOp1]; exact isSlotMeaning ..
  | andi => rw [exec_andi, execAndi, aluImm, aluOp1]; exact isSlotMeaning ..
  | ori => rw [exec_ori, execOri, aluImm, aluOp1]; exact isSlotMeaning ..
  | xori => rw [exec_xori, execXori, aluImm, aluOp1]; exact isSlotMeaning ..
  | shli => rw [exec_shli, execShli, aluImm, aluOp1]; exact isSlotMeaning ..
  | shri => rw [exec_shri, execShri, aluImm, aluOp1]; exact isSlotMeaning ..
  | sari => rw [exec_sari, execSari, aluImm, aluOp1]; exact isSlotMeaning ..
  | cmpi => rw [exec_cmpi, execCmpi]; exact isSlotMeaning ..
  | cmpiu => rw [exec_cmpiu, execCmpiu]; exact isSlotMeaning ..
  | movi => rw [exec_movi, execMovi]; exact isSlotMeaning ..
  | movhi => rw [exec_movhi, execMovhi]; exact isSlotMeaning ..
  | csrr => rw [exec_csrr, execCsrr]; exact isSlotMeaning ..
  | csrw => rw [exec_csrw, execCsrw]; exact isSlotMeaning ..
  | br => rw [exec_br, execBr]; exact isSlotMeaning ..
  | brl => rw [exec_brl, execBrl]; exact isSlotMeaning ..
  | loop => rw [exec_loop, execLoop]; exact isSlotMeaning ..
  | loopr => rw [exec_loopr, execLoopr]; exact isSlotMeaning ..
  | jr => rw [exec_jr, execJr]; exact isSlotMeaning ..
  | jrl => rw [exec_jrl, execJrl]; exact isSlotMeaning ..
  | trap => rw [exec_trap, execTrap]; exact isSlotMeaning ..
  | eret => rw [exec_eret, execEret]; exact isSlotMeaning ..
  | uiret => rw [exec_uiret, execUiret]; exact isSlotMeaning ..
  | wait => rw [exec_wait, execWait]; exact isSlotMeaning ..
  | vadd => rw [exec_vadd, execVadd, arithOp, vecRound]; exact isSlotMeaning ..
  | vsub => rw [exec_vsub, execVsub, arithOp, vecRound]; exact isSlotMeaning ..
  | vmul => rw [exec_vmul, execVmul, arithOp, vecRound]; exact isSlotMeaning ..
  | vfma => rw [exec_vfma, execVfma, arithOp, vecRound]; exact isSlotMeaning ..
  | vfms => rw [exec_vfms, execVfms, arithOp, vecRound]; exact isSlotMeaning ..
  | vmax => rw [exec_vmax, execVmax, maxOp, vecOp]; exact isSlotMeaning ..
  | vmin => rw [exec_vmin, execVmin, maxOp, vecOp]; exact isSlotMeaning ..
  | vand => rw [exec_vand, execVand, bitOp, vecOp]; exact isSlotMeaning ..
  | vor => rw [exec_vor, execVor, bitOp, vecOp]; exact isSlotMeaning ..
  | vxor => rw [exec_vxor, execVxor, bitOp, vecOp]; exact isSlotMeaning ..
  | vshl => rw [exec_vshl, execVshl, shiftOp, vecOp]; exact isSlotMeaning ..
  | vshr => rw [exec_vshr, execVshr, shiftOp, vecOp]; exact isSlotMeaning ..
  | vsar => rw [exec_vsar, execVsar, shiftOp, vecOp]; exact isSlotMeaning ..
  | vcmp => rw [exec_vcmp, execVcmp, vecOp]; exact isSlotMeaning ..
  | vsel => rw [exec_vsel, execVsel, vecOp]; exact isSlotMeaning ..
  | vshf => rw [exec_vshf, execVshf, vecOp]; exact isSlotMeaning ..
  | vrotl => rw [exec_vrotl, execVrotl, vecOp]; exact isSlotMeaning ..
  | vmov => rw [exec_vmov, execVmov, unOp, vecOp]; exact isSlotMeaning ..
  | vabs => rw [exec_vabs, execVabs, unOp, vecOp]; exact isSlotMeaning ..
  | vneg => rw [exec_vneg, execVneg, unOp, vecOp]; exact isSlotMeaning ..
  | viota => rw [exec_viota, execViota, vecOp]; exact isSlotMeaning ..
  | vclr => rw [exec_vclr, execVclr, vecOp]; exact isSlotMeaning ..
  | vbc => rw [exec_vbc, execVbc, vecOp]; exact isSlotMeaning ..
  | vxt => rw [exec_vxt, execVxt]; exact isSlotMeaning ..
  | vins => rw [exec_vins, execVins]; exact isSlotMeaning ..
  | vredSum => rw [exec_vredSum, execVredSum, redOp, vecRound]; exact isSlotMeaning ..
  | vredMax => rw [exec_vredMax, execVredMax, redOp, vecRound]; exact isSlotMeaning ..
  | vredMin => rw [exec_vredMin, execVredMin, redOp, vecRound]; exact isSlotMeaning ..
  | vcvt => rw [exec_vcvt, execVcvt, vecRound]; exact isSlotMeaning ..
  | cmptv => rw [exec_cmptv, execCmptv]; exact isSlotMeaning ..
  | vexp2 => rw [exec_vexp2, execVexp2, sfOp, vecRound]; exact isSlotMeaning ..
  | vlog2 => rw [exec_vlog2, execVlog2, sfOp, vecRound]; exact isSlotMeaning ..
  | vrcp => rw [exec_vrcp, execVrcp, sfOp, vecRound]; exact isSlotMeaning ..
  | vrsq => rw [exec_vrsq, execVrsq, sfOp, vecRound]; exact isSlotMeaning ..
  | vsin => rw [exec_vsin, execVsin, sfOp, vecRound]; exact isSlotMeaning ..
  | vtanh => rw [exec_vtanh, execVtanh, sfOp, vecRound]; exact isSlotMeaning ..
  | vunpk => rw [exec_vunpk, execVunpk, vecOp]; exact isSlotMeaning ..
  | vpack => rw [exec_vpack, execVpack, vecRound]; exact isSlotMeaning ..
  | vbscl => rw [exec_vbscl, execVbscl, vecRound]; exact isSlotMeaning ..
  | vld => rw [exec_vld, execVld, vloadOp]; exact isSlotMeaning ..
  | vst => rw [exec_vst, execVst, vstoreOp]; exact isSlotMeaning ..
  | vlds => rw [exec_vlds, execVlds, vloadOp]; exact isSlotMeaning ..
  | vsts => rw [exec_vsts, execVsts, vstoreOp]; exact isSlotMeaning ..
  | sadd => rw [exec_sadd, execSadd, setOp3, vecOp]; exact isSlotMeaning ..
  | ssub => rw [exec_ssub, execSsub, setOp3, vecOp]; exact isSlotMeaning ..
  | smul => rw [exec_smul, execSmul, setOp3, vecOp]; exact isSlotMeaning ..
  | sdiv => rw [exec_sdiv, execSdiv, setOp3, vecOp]; exact isSlotMeaning ..
  | suni => rw [exec_suni, execSuni, setOp3, vecOp]; exact isSlotMeaning ..
  | sint => rw [exec_sint, execSint, setOp3, vecOp]; exact isSlotMeaning ..
  | scmp => rw [exec_scmp, execScmp, setOp3, vecOp]; exact isSlotMeaning ..
  | sneg => rw [exec_sneg, execSneg, setOp2, vecOp]; exact isSlotMeaning ..
  | sfrom => rw [exec_sfrom, execSfrom, setOp2, vecOp]; exact isSlotMeaning ..
  | sbnd => rw [exec_sbnd, execSbnd, setOp2, vecOp]; exact isSlotMeaning ..
  | sarc => rw [exec_sarc, execSarc, setOp2, vecOp]; exact isSlotMeaning ..
  | smsk => rw [exec_smsk, execSmsk, setOp2, vecOp]; exact isSlotMeaning ..
  | sred => rw [exec_sred, execSred, setOp2, vecOp]; exact isSlotMeaning ..
  | spld => rw [exec_spld, execSpld]; exact isSlotMeaning ..
  | spst => rw [exec_spst, execSpst]; exact isSlotMeaning ..
  | ld => rw [exec_ld, execLd, loadOp]; exact isSlotMeaning ..
  | lds => rw [exec_lds, execLds, loadOp]; exact isSlotMeaning ..
  | lda => rw [exec_lda, execLda, loadOp]; exact isSlotMeaning ..
  | pref => rw [exec_pref, execPref]; exact isSlotMeaning ..
  | st => rw [exec_st, execSt, storeOp]; exact isSlotMeaning ..
  | sts => rw [exec_sts, execSts, storeOp]; exact isSlotMeaning ..
  | strl => rw [exec_strl, execStrl, storeOp]; exact isSlotMeaning ..
  | amoAdd => rw [exec_amoAdd, execAmoAdd, atomicOp]; exact isSlotMeaning ..
  | amoAnd => rw [exec_amoAnd, execAmoAnd, atomicOp]; exact isSlotMeaning ..
  | amoOr => rw [exec_amoOr, execAmoOr, atomicOp]; exact isSlotMeaning ..
  | amoXor => rw [exec_amoXor, execAmoXor, atomicOp]; exact isSlotMeaning ..
  | amoMin => rw [exec_amoMin, execAmoMin, atomicOp]; exact isSlotMeaning ..
  | amoMax => rw [exec_amoMax, execAmoMax, atomicOp]; exact isSlotMeaning ..
  | amoSwap => rw [exec_amoSwap, execAmoSwap, atomicOp]; exact isSlotMeaning ..
  | cas => rw [exec_cas, execCas, atomicOp]; exact isSlotMeaning ..
  | fence => rw [exec_fence, execFence, fenceOp]; exact isSlotMeaning ..
  | fenceAll => rw [exec_fenceAll, execFenceAll, fenceOp]; exact isSlotMeaning ..
  | waitaNe => rw [exec_waitaNe, execWaitaNe, waitaOp]; exact isSlotMeaning ..
  | waitaEq => rw [exec_waitaEq, execWaitaEq, waitaOp]; exact isSlotMeaning ..
  | hwait => rw [exec_hwait, execHwait]; exact isSlotMeaning ..
  | hstat => rw [exec_hstat, execHstat]; exact isSlotMeaning ..
  | hrel => rw [exec_hrel, execHrel]; exact isSlotMeaning ..
  | hset => rw [exec_hset, execHset]; exact isSlotMeaning ..
  | hexp => rw [exec_hexp, execHexp]; exact isSlotMeaning ..
  | hswap => rw [exec_hswap, execHswap]; exact isSlotMeaning ..
  | bkrel => rw [exec_bkrel, execBkrel]; exact isSlotMeaning ..
  | bkwait => rw [exec_bkwait, execBkwait]; exact isSlotMeaning ..
  | barv => rw [exec_barv, execBarv]; exact isSlotMeaning ..
  | barvInit => rw [exec_barvInit, execBarvInit]; exact isSlotMeaning ..
  | bart => rw [exec_bart, execBart]; exact isSlotMeaning ..
  | barw => rw [exec_barw, execBarw]; exact isSlotMeaning ..
  | uien => rw [exec_uien, execUien]; exact isSlotMeaning ..
  | clvl => rw [exec_clvl, execClvl]; exact isSlotMeaning ..
  | cgo => rw [exec_cgo, execCgo, copyIssue]; exact isSlotMeaning ..
  | cgox => rw [exec_cgox, execCgox, copyIssue]; exact isSlotMeaning ..
  | cqry => rw [exec_cqry, execCqry]; exact isSlotMeaning ..
  | mxcall => rw [exec_mxcall, execMxcall]; exact isSlotMeaning ..
  | mxp => rw [exec_mxp, execMxp]; exact isSlotMeaning ..
  | mxpr => rw [exec_mxpr, execMxpr]; exact isSlotMeaning ..
  | mxldu => rw [exec_mxldu, execMxldu]; exact isSlotMeaning ..
  | mxrt => rw [exec_mxrt, execMxrt]; exact isSlotMeaning ..
  | mxstat => rw [exec_mxstat, execMxstat]; exact isSlotMeaning ..
  | shand => rw [exec_shand, execShand]; exact isSlotMeaning ..
  | sown => rw [exec_sown, execSown]; exact isSlotMeaning ..
  | genr => rw [exec_genr, execGenr]; exact isSlotMeaning ..
  | tenend => rw [exec_tenend, execTenend]; exact isSlotMeaning ..
  | genprobe => rw [exec_genprobe, execGenprobe]; exact isSlotMeaning ..
  | tidx => rw [exec_tidx, execTidx]; exact isSlotMeaning ..
  | tnext => rw [exec_tnext, execTnext]; exact isSlotMeaning ..
  | suspend => rw [exec_suspend, execSuspend]; exact isSlotMeaning ..
  | endTask => rw [exec_endTask, execEndTask]; exact isSlotMeaning ..
  | linkq => rw [exec_linkq, execLinkq]; exact isSlotMeaning ..
  | ringld => rw [exec_ringld, execRingld]; exact isSlotMeaning ..
  | vdot => rw [exec_vdot, execVdot, vecOp]; exact isSlotMeaning ..
  | vabd => rw [exec_vabd, execVabd, vecOp]; exact isSlotMeaning ..
  | vclmp => rw [exec_vclmp, execVclmp, vecOp]; exact isSlotMeaning ..
  | vcvth => rw [exec_vcvth, execVcvth, vecOp]; exact isSlotMeaning ..
  | vscl => rw [exec_vscl, execVscl, vecOp]; exact isSlotMeaning ..
  | _ => exact absurd hi (Nat.lt_irrefl 64)

/-- Settles O7: NOP has no effect of its own, and every other slot operation is a slotMeaning under its guard. -/
theorem suppressedSlotsDoNothing : Obligations.SuppressedSlotsDoNothing := by
  intro s hm
  have hnop : exec .nop s = .next s := (exec_nop_eq_next_iff s).2 fun h => absurd h hm
  refine ⟨hnop, fun i hi hg => ?_⟩
  by_cases hn : i = .nop
  · rw [hn, hnop]
  · obtain ⟨reads, dest, var, v, e, hx⟩ := exec_isSlotMeaning hi hn s
    rw [hx, slotMeaning_false hg hm]

end Sys2Proof.Machine
end

section
/-! PROOFS. Duplicate checks (spec 03 R64, R65). -/

namespace Sys2Proof.Machine

section Images
variable {x y : Image}

/-- Images that agree in every unit have no first difference. -/
theorem firstDiff_eq_none (h : ∀ u < 32, unitOf x u = unitOf y u) : firstDiff x y = none := by
  simpa [firstDiff] using h

/-- The first difference is at the unit before which all agree (R65). -/
theorem firstDiff_eq_some {u : Nat} (hu : u < 32) (hlow : ∀ j < u, unitOf x j = unitOf y j)
    (hne : unitOf x u ≠ unitOf y u) : firstDiff x y = some u := by
  simp only [firstDiff, List.find?_range_eq_some, List.mem_range, bne_iff_ne]
  exact ⟨hne, hu, fun j hj => by simp [hlow j hj]⟩

/-- The low 16-bit lane of a unit is its low half. -/
theorem laneNat_16_even (x : Image) {u : Nat} : laneNat 16 x (2 * u) = (unitOf x u).toNat % 65536 := by
  rw [laneNat, unitOf, BitVec.extractLsb'_toNat, Nat.shiftRight_eq_div_pow, show 16 * (2 * u) = 32 * u by omega,
    show (65536 : Nat) = 2 ^ 16 from rfl, Nat.mod_mod_of_dvd _ (Nat.pow_dvd_pow 2 (by omega))]

end Images

section Slots
variable {s : State} {p : BitVec 3} {va vb : BitVec 7} {t : BitVec 2}

/-- What CMPTV's check finds where its rows do not wait. -/
theorem execCmptv_check (s : State) (p : BitVec 3) (va vb : BitVec 7) (t : BitVec 2)
    (hv : s.vecVerdict [s.vA va, s.vB vb] [] = .go) : ∃ v : State → Verdict,
    execCmptv p va vb t s = slotMeaning p [] none false v id s ∧
    v s = match firstDiff (s.vec (s.vA va)) (s.vec (s.vB vb)) with
      | none => .go
      | some u => .trap 3 2 0 (if t.toNat < 2 then u
          else if laneNat 16 (s.vec (s.vA va)) (2 * u) ≠ laneNat 16 (s.vec (s.vB vb)) (2 * u) then 2 * u
          else 2 * u + 1) 0 := by
  refine ⟨_, rfl, ?_⟩
  simp only [hv] <;> rfl

/-- CMPTV of equal operands goes on. -/
theorem execCmptv_equal (h : s.Executes p [] none false) (hv : s.vecVerdict [s.vA va, s.vB vb] [] = .go)
    (he : ∀ u < 32, unitOf (s.vec (s.vA va)) u = unitOf (s.vec (s.vB vb)) u) : execCmptv p va vb t s = .next s := by
  obtain ⟨v, hx, hc⟩ := execCmptv_check s p va vb t hv
  rw [firstDiff_eq_none he] at hc
  exact hx.trans (slotMeaning_executes h hc)

/-- CMPTV of operands that differ traps with the lane of the first unit that does. -/
theorem execCmptv_differ (hg : s.guard p = true) (hm : s.cur.mode = .whole)
    (hv : s.vecVerdict [s.vA va, s.vB vb] [] = .go) {u : Nat}
    (hd : firstDiff (s.vec (s.vA va)) (s.vec (s.vB vb)) = some u) :
    execCmptv p va vb t s = .next (s.takeTrap ⟨3, 2, s.cur.slot, 0,
      if t.toNat < 2 then u
      else if laneNat 16 (s.vec (s.vA va)) (2 * u) ≠ laneNat 16 (s.vec (s.vB vb)) (2 * u) then 2 * u
      else 2 * u + 1, 0⟩) := by
  obtain ⟨v, hx, hc⟩ := execCmptv_check s p va vb t hv
  rw [hd] at hc
  exact hx.trans (slotMeaning_trap hg hm rfl hc)

end Slots

/-- Settles O6: the first difference decides CMPTV's verdict (execCmptv_equal, execCmptv_differ), and equality CMPT's. -/
theorem duplicateChecks : Obligations.DuplicateChecks := by
  refine fun s p a b va vb t => ⟨fun h he => ?equal, fun hg hm ho hne => ?differ,
    fun h hv he => (exec_cmptv ..).trans (execCmptv_equal h hv he), fun hg hm hv u hu hlow hne => ?vector⟩
  case equal => exact (exec_cmpt ..).trans (slotMeaning_executes h (by simp [trapIf, he]))
  case differ => exact (exec_cmpt ..).trans (slotMeaning_trap hg hm ho (by simp [trapIf, trapV, hne]))
  case vector =>
    have hd := firstDiff_eq_some hu hlow hne
    rw [exec_cmptv, execCmptv_differ hg hm hv hd, laneNat_16_even, laneNat_16_even, ite_not]

end Sys2Proof.Machine
end

section
/-! PROOFS. Branches, jumps, loops and WAIT (spec 05 R90-R95). -/

namespace Sys2Proof.Machine

theorem immS_eq (k : HdrKind) (x : Byte) {w : Nat} (i : BitVec w) :
    immS k x i = if k = .imm then (x ++ i).toInt else i.toInt := by
  cases k <;> rfl

/-- A bundle address is no trap (R91). -/
theorem jumpVerdict_ok {x : W64} (hx : x.toNat < 2 ^ 48) (ha : x.toNat % 16 = 0) : jumpVerdict x = .go := by
  rw [jumpVerdict, if_neg (Nat.not_le.2 hx), if_neg (not_not.2 ha)]

/-- Any other target is one, 0x02 before 0x01 (R91). -/
theorem jumpVerdict_trap {x : W64} (hx : ¬ (x.toNat < 2 ^ 48 ∧ x.toNat % 16 = 0)) :
    jumpVerdict x = .trap 5 (if 2 ^ 48 ≤ x.toNat then 2 else 1) 0 0 x := by
  unfold jumpVerdict
  by_cases hb : 2 ^ 48 ≤ x.toNat
  · simp only [hb, if_true]
  · have ha : x.toNat % 16 ≠ 0 := fun h => hx ⟨Nat.lt_of_not_le hb, h⟩
    simp only [hb, if_false, ha, ne_eq, not_false_eq_true, if_true]

/-- Settles O9: branches jump by their offset, jumps to their register, and the verdict of a target that is no bundle
address is a trap (jumpVerdict_trap). -/
theorem branchesRedirect : Obligations.BranchesRedirect := by
  intro s p d a o off target link x
  have hoff : immS s.cur.kind s.cur.x o = off := immS_eq ..
  have htarget : s.bundleAt (immS s.cur.kind s.cur.x o) = target := by rw [hoff]; rfl
  refine ⟨fun h => ?br, fun h => ?brl, fun hx ha => ⟨fun h => ?jr, fun h => ?jrl⟩, fun hg hm hx => ?traps⟩
  case br => rw [← htarget]; exact (exec_br ..).trans (slotMeaning_executes h rfl)
  case brl => rw [← htarget]; exact (exec_brl ..).trans (slotMeaning_executes h rfl)
  case jr => exact (exec_jr ..).trans (slotMeaning_executes h (jumpVerdict_ok hx ha))
  case jrl => exact (exec_jrl ..).trans (slotMeaning_executes h (jumpVerdict_ok hx ha))
  case traps =>
    intro t
    exact ⟨fun ho => (exec_jr ..).trans (slotMeaning_trap hg hm ho (jumpVerdict_trap hx)),
      fun ho => (exec_jrl ..).trans (slotMeaning_trap hg hm ho (jumpVerdict_trap hx))⟩

/-! ### Loops (R92) -/

/-- The count after a loop instruction, down to 0 and no further. -/
theorem loopCount_setWidth (c : W32) : (if c = 0 then c else c - 1).setWidth 64 = BitVec.ofNat 64 (c.toNat - 1) := by
  split
  case isTrue hc => rw [hc]; rfl
  case isFalse hc => bv_omega

/-- The count has run out where it was 0 or 1. -/
theorem loopCount_eq_zero_iff (c : W32) : (if c = 0 then c else c - 1) = 0 ↔ ¬ 2 ≤ c.toNat := by
  split
  case isTrue hc => simp [hc]
  case isFalse hc => bv_omega

theorem vrot_setWidth (v r : BitVec 5) : (v + r).setWidth 64 = BitVec.ofNat 64 ((v.toNat + r.toNat) % 32) := by
  bv_omega

/-- The writes that a loop instruction leaves for the next virtual cycle: its count, and the rotation of LOOPR. -/
def State.loopWrites (s : State) (l : BitVec 2) (rot : Option (BitVec 5)) : List Delayed :=
  .csr (0x18 + l.toNat) (BitVec.ofNat 64 ((Sparse.get 0 l.toNat s.k.csr.lp).toNat - 1)) :: match rot with
    | none => []
    | some r => [.csr 0x011 (BitVec.ofNat 64 ((s.k.csr.vrot.toNat + r.toNat) % 32))]

/-- A loop instruction notes its writes, and jumps where the count has not run out. -/
theorem State.loopStep_eq (s : State) (l : BitVec 2) (rot : Option (BitVec 5)) (o : BitVec 16) :
    let s1 := s.updK fun k => { k with nextVc := k.nextVc ++ s.loopWrites l rot }
    s.loopStep l rot o = if 2 ≤ (Sparse.get 0 l.toNat s.k.csr.lp).toNat
      then s1.jump (s.k.pc + BitVec.ofInt 48 (16 * o.toInt)) else s1 := by
  cases rot <;>
  · simp only [State.loopStep, State.loopWrites, loopCount_setWidth, vrot_setWidth, loopCount_eq_zero_iff, ite_not]
    rfl

/-! ### WAIT (R95) -/

theorem withinLimit_iff (n : BitVec 12) (f : BitVec 5) : withinLimit n f = true ↔ (f ≠ 31 → n.toNat ≤ f.toNat) := by
  simp only [withinLimit, Bool.or_eq_true, beq_iff_eq, decide_eq_true_eq]
  tauto

/-- A slot that waits for nothing but its own condition is held for a local cycle (R55). -/
theorem slotMeaning_hold {p : BitVec 3} {v : State → Verdict} {e : State → State} {s : State} {reads : List Nat}
    {dest : Option Nat} {var : Bool} (hg : s.guard p = true) (hm : s.cur.mode = .whole)
    (ho : s.operandVerdict reads dest var = .go) (hv : v s = .wait) :
    slotMeaning p reads dest var v e s = .next (s.tick s.d) := by
  simp [slotMeaning, hg, hm, ho, hv, ok, State.hold]

/-- Settles O10: LOOP and LOOPR are one step with and without a rotation (loopStep_eq), and WAIT's verdict is that of its four
limits (withinLimit_iff). -/
theorem loopsAndWaits : Obligations.LoopsAndWaits := by
  refine ⟨fun s p l r o h => ?loops, fun s p nl ns nc nt => ?waits⟩
  case loops =>
    intro c count rot target go
    have hloop : exec (.loop p l o) s = .next (s.loopStep l none o) :=
      (exec_loop ..).trans (slotMeaning_executes h rfl)
    have hloopr : exec (.loopr p l r o) s = .next (s.loopStep l (some r) o) :=
      (exec_loopr ..).trans (slotMeaning_executes h rfl)
    rw [hloop, hloopr, State.loopStep_eq, State.loopStep_eq]
    exact ⟨rfl, rfl⟩
  case waits =>
    intro within
    let limits := withinLimit s.k.nld nl && withinLimit s.k.nst ns && withinLimit s.k.ncp nc && withinLimit s.k.ntl nt
    have hlimits : limits = true ↔ within := by
      simp only [limits, within, Bool.and_eq_true, withinLimit_iff, and_assoc]
    exact ⟨fun hw h => (exec_wait ..).trans (slotMeaning_executes h (if_pos (hlimits.2 hw))),
      fun hw hg hm => (exec_wait ..).trans (slotMeaning_hold hg hm rfl (if_neg (mt hlimits.1 hw)))⟩

end Sys2Proof.Machine
end

section
/-! PROOFS. The words that the spec writes out, and what module reset leaves. -/

namespace Sys2Proof.Machine

/-- Settles O51: each word is evaluated by the decoder. -/
theorem specWordsDecode : Obligations.SpecWordsDecode := by
  unfold Obligations.SpecWordsDecode
  decide +kernel

theorem State.core_reset (c : Nat) : State.reset.core c = {} := rfl

theorem State.die_reset (d : Nat) : State.reset.die d = {} := rfl

theorem State.stack_reset (k : Nat) : State.reset.stack k = {} := rfl

theorem State.link_reset (l : Nat) : State.reset.link l = {} := rfl

/-- Each die owns the stack of its number at reset, under epoch 0 (R319). -/
theorem State.ownerReg_reset {k : Nat} (hk : k < 8) :
    State.reset.owner k = k ∧ State.reset.ownerReg k = BitVec.ofNat 64 (k * 2 ^ 8 + k) := by
  interval_cases k <;> decide +kernel

/-- Registers and rows of a core that nothing has written read as zero under every generation. -/
theorem Core.scalar_default (g : Hm) (n : Nat) : Core.scalar {} g n = 0 := by
  simp [Core.scalar, Core.cell]

theorem Core.row_default (g : Hm) (n : Nat) : Core.row {} g n = 0 :=
  ite_self 0

/-- Settles O53: every table is empty at reset, so each entry reads as its default. -/
theorem resetLeaves : Obligations.ResetLeaves := by
  refine ⟨rfl, rfl, rfl, rfl, fun c => ?core, fun k hk => ?stack, fun d q => ⟨rfl, rfl⟩, fun l => ⟨rfl, rfl, rfl⟩,
    fun g => ?genState⟩
  case core =>
    rw [State.core_reset]
    exact ⟨rfl, rfl, rfl, rfl, rfl, rfl, rfl, rfl, rfl, rfl, rfl, rfl, rfl, rfl, Core.scalar_default,
      fun g r _ => Core.row_default g r⟩
  case stack =>
    obtain ⟨howner, hreg⟩ := State.ownerReg_reset hk
    exact ⟨howner, rfl, rfl, rfl, rfl, hreg⟩
  case genState => rfl

end Sys2Proof.Machine
end

section
/-! PROOFS. No instruction and no step ends the machine (spec 00, spec 17). -/

namespace Sys2Proof.Machine

/-- The outcome is a next state. -/
def Goes (o : Out) : Prop := ∃ t, o = .next t

theorem goes_ok (s : State) : Goes (ok s) := ⟨s, rfl⟩

theorem IsSlotMeaning.goes {p : BitVec 3} {s : State} {o : Out} (h : IsSlotMeaning p s o) : Goes o := by
  obtain ⟨reads, dest, var, v, e, rfl⟩ := h
  exact slotMeaning_goes

/-- A micro-op acts on the running call, or on nothing. -/
theorem microMeaning_goes (f : State → Call → State) (s : State) : Goes (microMeaning f s) := by
  unfold microMeaning
  split
  · split
    · exact goes_ok _
    · exact goes_ok _
  · exact goes_ok _

/-- A packet acts on its queue, or waits. -/
theorem packetMeaning_goes (ordered : Bool) (f : State → Nat → Nat → Queue → State) (s : State) :
    Goes (packetMeaning ordered f s) := by
  unfold packetMeaning
  dsimp only
  split
  · exact goes_ok _
  · exact goes_ok _

/-! ### The service of an access (spec 13) -/

theorem State.serveLoad_goes (s : State) (core idx src : Nat) (a : Acc) (older : List Acc) :
    Goes (s.serveLoad core idx src a older) := by
  unfold State.serveLoad
  repeat' first | exact goes_ok _ | dsimp only | split

theorem State.serveAmo_goes (s : State) (core idx : Nat) (a : Acc) (op : Nat) : Goes (s.serveAmo core idx a op) := by
  unfold State.serveAmo
  repeat' first | exact goes_ok _ | dsimp only | split

theorem State.serveProbe_goes (s : State) (core idx : Nat) (a : Acc) : Goes (s.serveProbe core idx a) := by
  unfold State.serveProbe
  repeat' first | exact goes_ok _ | dsimp only | split

/-! ### Events -/

theorem execCallStart_goes (core : Nat) (s : State) : Goes (execCallStart core s) := by
  unfold execCallStart
  repeat' first | exact goes_ok _ | dsimp only | split

theorem execStatusPost_goes (core h : Nat) (s : State) : Goes (execStatusPost core h s) := by
  unfold execStatusPost
  repeat' first | exact goes_ok _ | dsimp only | split

theorem execResultArrive_goes (core idx : Nat) (s : State) : Goes (execResultArrive core idx s) := by
  unfold execResultArrive
  repeat' first | exact goes_ok _ | dsimp only | split

theorem execTrapEntry_goes (core : Nat) (s : State) : Goes (execTrapEntry core s) := by
  unfold execTrapEntry
  repeat' first | exact goes_ok _ | dsimp only | split

theorem execUserLevelInterrupt_goes (core : Nat) (s : State) : Goes (execUserLevelInterrupt core s) := by
  unfold execUserLevelInterrupt
  repeat' first | exact goes_ok _ | dsimp only | split

theorem execWalkComplete_goes (kind agent ten : Nat) (va : W64) (s : State) :
    Goes (execWalkComplete kind agent ten va s) := by
  unfold execWalkComplete
  repeat' first | exact goes_ok _ | dsimp only | split

theorem execSbDrain_goes (core idx : Nat) (s : State) : Goes (execSbDrain core idx s) := by
  unfold execSbDrain
  repeat' first | exact goes_ok _ | dsimp only | split

theorem execSend_goes (die idx : Nat) (s : State) : Goes (execSend die idx s) := by
  unfold execSend
  repeat' first | exact goes_ok _ | dsimp only | split

theorem execHop_goes (link : Nat) (up : Bool) (s : State) : Goes (execHop link up s) := by
  unfold execHop
  repeat' first | exact goes_ok _ | dsimp only | split

theorem execApply_goes (port : Nat) (gen : Hm) (s : State) : Goes (execApply port gen s) := by
  unfold execApply
  repeat' first | exact goes_ok _ | dsimp only | split

theorem execServe_goes (core idx src : Nat) (s : State) : Goes (execServe core idx src s) := by
  unfold execServe
  split
  case h_1 => exact goes_ok _
  case h_2 =>
    split
    case isTrue => exact goes_ok _
    case isFalse =>
      split
      case h_1 => exact State.serveLoad_goes ..
      case h_2 => split; exacts [goes_ok _, State.serveAmo_goes ..]
      case h_3 => split; exacts [goes_ok _, State.serveProbe_goes ..]
      case h_4 => exact goes_ok _

theorem execFill_goes (core : Nat) (va : W64) (s : State) : Goes (execFill core va s) := by
  unfold execFill
  repeat' first | exact goes_ok _ | dsimp only | split

theorem execWaitaReread_goes (core : Nat) (s : State) : Goes (execWaitaReread core s) := by
  unfold execWaitaReread
  repeat' first | exact goes_ok _ | dsimp only | split

theorem execCopyLineTransfer_goes (core op idx : Nat) (s : State) : Goes (execCopyLineTransfer core op idx s) := by
  unfold execCopyLineTransfer
  repeat' first | exact goes_ok _ | dsimp only | split

theorem execRemotePost_goes (core op : Nat) (s : State) : Goes (execRemotePost core op s) := by
  unfold execRemotePost
  repeat' first | exact goes_ok _ | dsimp only | split

theorem execPreloadStart_goes (core i : Nat) (s : State) : Goes (execPreloadStart core i s) := by
  unfold execPreloadStart
  repeat' first | exact goes_ok _ | dsimp only | split

theorem execTaskStart_goes (core : Nat) (s : State) : Goes (execTaskStart core s) := by
  unfold execTaskStart
  repeat' first | exact goes_ok _ | dsimp only | split

theorem execBrickReady_goes (die idx : Nat) (s : State) : Goes (execBrickReady die idx s) := by
  unfold execBrickReady
  repeat' first | exact goes_ok _ | dsimp only | split

theorem execBrickResume_goes (core : Nat) (s : State) : Goes (execBrickResume core s) := by
  unfold execBrickResume
  repeat' first | exact goes_ok _ | dsimp only | split

theorem execTaskComplete_goes (core : Nat) (s : State) : Goes (execTaskComplete core s) := by
  unfold execTaskComplete
  repeat' first | exact goes_ok _ | dsimp only | split

theorem execChunkMark_goes (die slot : Nat) (s : State) : Goes (execChunkMark die slot s) := by
  unfold execChunkMark
  repeat' first | exact goes_ok _ | dsimp only | split

theorem execChunkClaim_goes (core : Nat) (s : State) : Goes (execChunkClaim core s) := by
  unfold execChunkClaim
  repeat' first | exact goes_ok _ | dsimp only | split

theorem execLaunchComplete_goes (die slot : Nat) (s : State) : Goes (execLaunchComplete die slot s) := by
  unfold execLaunchComplete
  repeat' first | exact goes_ok _ | dsimp only | split

theorem execQuorumDecision_goes (launch : Nat) (s : State) : Goes (execQuorumDecision launch s) := by
  unfold execQuorumDecision
  repeat' first | exact goes_ok _ | dsimp only | split

theorem execReconfiguration_goes (launch : Nat) (s : State) : Goes (execReconfiguration launch s) := by
  unfold execReconfiguration
  repeat' first | exact goes_ok _ | dsimp only | split

theorem execTailRead_goes (die queue : Nat) (s : State) : Goes (execTailRead die queue s) := by
  unfold execTailRead
  repeat' first | exact goes_ok _ | dsimp only | split

theorem execHandoverSwitch_goes (stack : Nat) (s : State) : Goes (execHandoverSwitch stack s) := by
  unfold execHandoverSwitch
  repeat' first | exact goes_ok _ | dsimp only | split

theorem execTenendSwitch_goes (ten die : Nat) (s : State) : Goes (execTenendSwitch ten die s) := by
  unfold execTenendSwitch
  repeat' first | exact goes_ok _ | dsimp only | split

theorem execTenendRecord_goes (ten : Nat) (s : State) : Goes (execTenendRecord ten s) := by
  unfold execTenendRecord
  repeat' first | exact goes_ok _ | dsimp only | split

theorem execGenerationGrant_goes (s : State) : Goes (execGenerationGrant s) := by
  unfold execGenerationGrant
  repeat' first | exact goes_ok _ | dsimp only | split

theorem execAssayRewrite_goes (kind agent ten index : Nat) (s : State) :
    Goes (execAssayRewrite kind agent ten index s) := by
  unfold execAssayRewrite
  repeat' first | exact goes_ok _ | dsimp only | split

theorem execAssayPassComplete_goes (s : State) : Goes (execAssayPassComplete s) := by
  unfold execAssayPassComplete
  exact goes_ok _

theorem execContextSave_goes (core : Nat) (s : State) : Goes (execContextSave core s) := by
  unfold execContextSave
  repeat' first | exact goes_ok _ | dsimp only | split

theorem execFlrDrainEnd_goes (core : Nat) (s : State) : Goes (execFlrDrainEnd core s) := by
  unfold execFlrDrainEnd
  repeat' first | exact goes_ok _ | dsimp only | split

theorem execCpReset_goes (die : Nat) (s : State) : Goes (execCpReset die s) := by
  unfold execCpReset
  repeat' first | exact goes_ok _ | dsimp only | split

theorem execIoFunctionRelease_goes (fn : Nat) (s : State) : Goes (execIoFunctionRelease fn s) := by
  unfold execIoFunctionRelease
  repeat' first | exact goes_ok _ | dsimp only | split

theorem execThrottleLevelChange_goes (die quadrant level : Nat) (s : State) :
    Goes (execThrottleLevelChange die quadrant level s) := by
  unfold execThrottleLevelChange
  repeat' first | exact goes_ok _ | dsimp only | split

theorem execSlotTableTakeEffect_goes (die : Nat) (s : State) : Goes (execSlotTableTakeEffect die s) := by
  unfold execSlotTableTakeEffect
  repeat' first | exact goes_ok _ | dsimp only | split

theorem execQueueDescriptorWrite_goes (die queue : Nat) (desc : BitVec 512) (s : State) :
    Goes (execQueueDescriptorWrite die queue desc s) := by
  unfold execQueueDescriptorWrite
  repeat' first | exact goes_ok _ | dsimp only | split

theorem execTranslationRecordWrite_goes (die ten : Nat) (remove : Bool) (rec_ : BitVec 512) (s : State) :
    Goes (execTranslationRecordWrite die ten remove rec_ s) := by
  unfold execTranslationRecordWrite
  repeat' first | exact goes_ok _ | dsimp only | split

theorem execCacheSlicesChange_goes (stack n : Nat) (s : State) : Goes (execCacheSlicesChange stack n s) := by
  unfold execCacheSlicesChange
  repeat' first | exact goes_ok _ | dsimp only | split

theorem execTenancyOpen_goes (ten : Nat) (s : State) : Goes (execTenancyOpen ten s) := by
  unfold execTenancyOpen
  repeat' first | exact goes_ok _ | dsimp only | split

theorem execFlowRegister_goes (flow : Nat) (entry : W64) (key : BitVec 256) (s : State) :
    Goes (execFlowRegister flow entry key s) := by
  unfold execFlowRegister
  repeat' first | exact goes_ok _ | dsimp only | split

theorem execInvalidationRequest_goes (die kind ten : Nat) (a : W64) (id : Nat) (s : State) :
    Goes (execInvalidationRequest die kind ten a id s) := by
  unfold execInvalidationRequest
  repeat' first | exact goes_ok _ | dsimp only | split

theorem execInvalidationComplete_goes (die id : Nat) (s : State) : Goes (execInvalidationComplete die id s) := by
  unfold execInvalidationComplete
  repeat' first | exact goes_ok _ | dsimp only | split

theorem execFlitTransmit_goes (link : Nat) (up : Bool) (cls vc : BitVec 2) (plen crq crs : Byte) (bad : Bool) (s : State) :
    Goes (execFlitTransmit link up cls vc plen crq crs bad s) := by
  unfold execFlitTransmit
  repeat' first | exact goes_ok _ | dsimp only | split

theorem execFlitReceive_goes (link : Nat) (up : Bool) (s : State) : Goes (execFlitReceive link up s) := by
  unfold execFlitReceive
  repeat' first | exact goes_ok _ | dsimp only | split

theorem execNakReplay_goes (link : Nat) (up : Bool) (s : State) : Goes (execNakReplay link up s) := by
  unfold execNakReplay
  repeat' first | exact goes_ok _ | dsimp only | split

theorem execRetrainComplete_goes (link width : Nat) (s : State) : Goes (execRetrainComplete link width s) := by
  unfold execRetrainComplete
  repeat' first | exact goes_ok _ | dsimp only | split

theorem execLinkDown_goes (link : Nat) (s : State) : Goes (execLinkDown link s) := by
  unfold execLinkDown
  repeat' first | exact goes_ok _ | dsimp only | split

theorem execDownNotice_goes (link : Nat) (up : Bool) (s : State) : Goes (execDownNotice link up s) := by
  unfold execDownNotice
  repeat' first | exact goes_ok _ | dsimp only | split

theorem execCommandFrame_goes (port udp : Nat) (flow npkt : BitVec 16) (zero : BitVec 32) (fseq : W64) (pkts : List (BitVec 256)) (tag : BitVec 128) (s : State) :
    Goes (execCommandFrame port udp flow npkt zero fseq pkts tag s) := by
  unfold execCommandFrame
  repeat' first | exact goes_ok _ | dsimp only | split

theorem execHostRequest_goes (g off size : Nat) (write : Bool) (data : BitVec 512) (s : State) :
    Goes (execHostRequest g off size write data s) := by
  unfold execHostRequest
  repeat' first | exact goes_ok _ | dsimp only | split

theorem execEmpinRequest_goes (link g off size : Nat) (write : Bool) (data : BitVec 512) (s : State) :
    Goes (execEmpinRequest link g off size write data s) := by
  unfold execEmpinRequest
  repeat' first | exact goes_ok _ | dsimp only | split

theorem execModuleReset_goes (record : List Byte) (s : State) : Goes (execModuleReset record s) := by
  unfold execModuleReset
  exact goes_ok _

theorem execDieRelease_goes (image sig : List Byte) (applied : Bool) (s : State) :
    Goes (execDieRelease image sig applied s) := by
  unfold execDieRelease
  repeat' first | exact goes_ok _ | dsimp only | split

theorem execGetMeasurements_goes (index : Nat) (s : State) : Goes (execGetMeasurements index s) := by
  unfold execGetMeasurements
  exact goes_ok _

theorem execApplicationCoreAccess_goes (pa : W64) (size : Nat) (req : AppReq) (data : W64) (s : State) :
    Goes (execApplicationCoreAccess pa size req data s) := by
  unfold execApplicationCoreAccess
  repeat' first | exact goes_ok _ | dsimp only | split

theorem execWaitmemReread_goes (die queue : Nat) (s : State) : Goes (execWaitmemReread die queue s) := by
  unfold execWaitmemReread
  repeat' first | exact goes_ok _ | dsimp only | split

theorem execTlbReplacement_goes (kind agent idx : Nat) (s : State) : Goes (execTlbReplacement kind agent idx s) := by
  unfold execTlbReplacement
  repeat' first | exact goes_ok _ | dsimp only | split

theorem execFollowerLaunch_goes (die slot : Nat) (s : State) : Goes (execFollowerLaunch die slot s) := by
  unfold execFollowerLaunch
  repeat' first | exact goes_ok _ | dsimp only | split

/-! ### Every instruction -/

/-- Every micro-op, packet and event goes on: each branch of its meaning is a next state. -/
theorem exec_goes_of_row {i : Instr} (hi : ¬ i.major < 64) (s : State) : Goes (exec i s) := by
  cases i with
  | zero => rw [exec_zero, execZero]; exact microMeaning_goes ..
  | mma => rw [exec_mma, execMma]; exact microMeaning_goes ..
  | unf => rw [exec_unf, execUnf]; exact microMeaning_goes ..
  | drain => rw [exec_drain, execDrain]; exact microMeaning_goes ..
  | adv => rw [exec_adv, execAdv]; exact microMeaning_goes ..
  | mxLoop => rw [exec_mxLoop, execMxLoop]; exact microMeaning_goes ..
  | endl => rw [exec_endl, execEndl]; exact microMeaning_goes ..
  | waith => rw [exec_waith, execWaith]; exact microMeaning_goes ..
  | mxEnd => rw [exec_mxEnd, execMxEnd]; exact microMeaning_goes ..
  | reservedMicroOp => rw [exec_reservedMicroOp, execReservedMicroOp]; exact microMeaning_goes ..
  | launch => rw [exec_launch, execLaunch]; exact packetMeaning_goes ..
  | launchi => rw [exec_launchi, execLaunchi]; exact packetMeaning_goes ..
  | loopPacket => rw [exec_loopPacket, execLoopPacket]; exact packetMeaning_goes ..
  | endloop => rw [exec_endloop, execEndloop]; exact packetMeaning_goes ..
  | ifeq => rw [exec_ifeq, execIfeq, condition]; exact packetMeaning_goes ..
  | ifne => rw [exec_ifne, execIfne, condition]; exact packetMeaning_goes ..
  | endif => rw [exec_endif, execEndif]; exact packetMeaning_goes ..
  | waitmem => rw [exec_waitmem, execWaitmem]; exact packetMeaning_goes ..
  | writemem => rw [exec_writemem, execWritemem]; exact packetMeaning_goes ..
  | signal => rw [exec_signal, execSignal]; exact packetMeaning_goes ..
  | fencePacket => rw [exec_fencePacket, execFencePacket]; exact packetMeaning_goes ..
  | handover => rw [exec_handover, execHandover]; exact packetMeaning_goes ..
  | calls => rw [exec_calls, execCalls]; exact packetMeaning_goes ..
  | rets => rw [exec_rets, execRets]; exact packetMeaning_goes ..
  | tenendPacket => rw [exec_tenendPacket, execTenendPacket]; exact packetMeaning_goes ..
  | landing => exact ⟨_, exec_landing ..⟩
  | evict => exact ⟨_, exec_evict ..⟩
  | ownerMirrorUpdate => exact ⟨_, exec_ownerMirrorUpdate ..⟩
  | softRequest => exact ⟨_, exec_softRequest ..⟩
  | hardRequest => exact ⟨_, exec_hardRequest ..⟩
  | killRequest => exact ⟨_, exec_killRequest ..⟩
  | graceExpiry => exact ⟨_, exec_graceExpiry ..⟩
  | killExpiry => exact ⟨_, exec_killExpiry ..⟩
  | contextRestore => exact ⟨_, exec_contextRestore ..⟩
  | functionLevelReset => exact ⟨_, exec_functionLevelReset ..⟩
  | slotTableWrite => exact ⟨_, exec_slotTableWrite ..⟩
  | ownerRightWrite => exact ⟨_, exec_ownerRightWrite ..⟩
  | hdmMapWrite => exact ⟨_, exec_hdmMapWrite ..⟩
  | linkEnable => exact ⟨_, exec_linkEnable ..⟩
  | platformRegisterWrite => exact ⟨_, exec_platformRegisterWrite ..⟩
  | retrain => exact ⟨_, exec_retrain ..⟩
  | getVersion => exact ⟨_, exec_getVersion ..⟩
  | getCapabilities => exact ⟨_, exec_getCapabilities ..⟩
  | negotiateAlgorithms => exact ⟨_, exec_negotiateAlgorithms ..⟩
  | getDigests => exact ⟨_, exec_getDigests ..⟩
  | getCertificate => exact ⟨_, exec_getCertificate ..⟩
  | challenge => exact ⟨_, exec_challenge ..⟩
  | unsupportedRequest => exact ⟨_, exec_unsupportedRequest ..⟩
  | linkMirrorUpdate => exact ⟨_, exec_linkMirrorUpdate ..⟩
  | callStart => exact exec_callStart .. ▸ execCallStart_goes ..
  | statusPost => exact exec_statusPost .. ▸ execStatusPost_goes ..
  | resultArrive => exact exec_resultArrive .. ▸ execResultArrive_goes ..
  | trapEntry => exact exec_trapEntry .. ▸ execTrapEntry_goes ..
  | userLevelInterrupt => exact exec_userLevelInterrupt .. ▸ execUserLevelInterrupt_goes ..
  | walkComplete => exact exec_walkComplete .. ▸ execWalkComplete_goes ..
  | sbDrain => exact exec_sbDrain .. ▸ execSbDrain_goes ..
  | send => exact exec_send .. ▸ execSend_goes ..
  | hop => exact exec_hop .. ▸ execHop_goes ..
  | apply => exact exec_apply .. ▸ execApply_goes ..
  | serve => exact exec_serve .. ▸ execServe_goes ..
  | fill => exact exec_fill .. ▸ execFill_goes ..
  | waitaReread => exact exec_waitaReread .. ▸ execWaitaReread_goes ..
  | copyLineTransfer => exact exec_copyLineTransfer .. ▸ execCopyLineTransfer_goes ..
  | remotePost => exact exec_remotePost .. ▸ execRemotePost_goes ..
  | preloadStart => exact exec_preloadStart .. ▸ execPreloadStart_goes ..
  | taskStart => exact exec_taskStart .. ▸ execTaskStart_goes ..
  | brickReady => exact exec_brickReady .. ▸ execBrickReady_goes ..
  | brickResume => exact exec_brickResume .. ▸ execBrickResume_goes ..
  | taskComplete => exact exec_taskComplete .. ▸ execTaskComplete_goes ..
  | chunkMark => exact exec_chunkMark .. ▸ execChunkMark_goes ..
  | chunkClaim => exact exec_chunkClaim .. ▸ execChunkClaim_goes ..
  | launchComplete => exact exec_launchComplete .. ▸ execLaunchComplete_goes ..
  | quorumDecision => exact exec_quorumDecision .. ▸ execQuorumDecision_goes ..
  | reconfiguration => exact exec_reconfiguration .. ▸ execReconfiguration_goes ..
  | tailRead => exact exec_tailRead .. ▸ execTailRead_goes ..
  | handoverSwitch => exact exec_handoverSwitch .. ▸ execHandoverSwitch_goes ..
  | tenendSwitch => exact exec_tenendSwitch .. ▸ execTenendSwitch_goes ..
  | tenendRecord => exact exec_tenendRecord .. ▸ execTenendRecord_goes ..
  | generationGrant => exact exec_generationGrant .. ▸ execGenerationGrant_goes ..
  | assayRewrite => exact exec_assayRewrite .. ▸ execAssayRewrite_goes ..
  | assayPassComplete => exact exec_assayPassComplete .. ▸ execAssayPassComplete_goes ..
  | contextSave => exact exec_contextSave .. ▸ execContextSave_goes ..
  | flrDrainEnd => exact exec_flrDrainEnd .. ▸ execFlrDrainEnd_goes ..
  | cpReset => exact exec_cpReset .. ▸ execCpReset_goes ..
  | ioFunctionRelease => exact exec_ioFunctionRelease .. ▸ execIoFunctionRelease_goes ..
  | throttleLevelChange => exact exec_throttleLevelChange .. ▸ execThrottleLevelChange_goes ..
  | slotTableTakeEffect => exact exec_slotTableTakeEffect .. ▸ execSlotTableTakeEffect_goes ..
  | queueDescriptorWrite => exact exec_queueDescriptorWrite .. ▸ execQueueDescriptorWrite_goes ..
  | translationRecordWrite => exact exec_translationRecordWrite .. ▸ execTranslationRecordWrite_goes ..
  | cacheSlicesChange => exact exec_cacheSlicesChange .. ▸ execCacheSlicesChange_goes ..
  | tenancyOpen => exact exec_tenancyOpen .. ▸ execTenancyOpen_goes ..
  | flowRegister => exact exec_flowRegister .. ▸ execFlowRegister_goes ..
  | invalidationRequest => exact exec_invalidationRequest .. ▸ execInvalidationRequest_goes ..
  | invalidationComplete => exact exec_invalidationComplete .. ▸ execInvalidationComplete_goes ..
  | flitTransmit => exact exec_flitTransmit .. ▸ execFlitTransmit_goes ..
  | flitReceive => exact exec_flitReceive .. ▸ execFlitReceive_goes ..
  | nakReplay => exact exec_nakReplay .. ▸ execNakReplay_goes ..
  | retrainComplete => exact exec_retrainComplete .. ▸ execRetrainComplete_goes ..
  | linkDown => exact exec_linkDown .. ▸ execLinkDown_goes ..
  | downNotice => exact exec_downNotice .. ▸ execDownNotice_goes ..
  | commandFrame => exact exec_commandFrame .. ▸ execCommandFrame_goes ..
  | hostRequest => exact exec_hostRequest .. ▸ execHostRequest_goes ..
  | empinRequest => exact exec_empinRequest .. ▸ execEmpinRequest_goes ..
  | moduleReset => exact exec_moduleReset .. ▸ execModuleReset_goes ..
  | dieRelease => exact exec_dieRelease .. ▸ execDieRelease_goes ..
  | getMeasurements => exact exec_getMeasurements .. ▸ execGetMeasurements_goes ..
  | applicationCoreAccess => exact exec_applicationCoreAccess .. ▸ execApplicationCoreAccess_goes ..
  | waitmemReread => exact exec_waitmemReread .. ▸ execWaitmemReread_goes ..
  | tlbReplacement => exact exec_tlbReplacement .. ▸ execTlbReplacement_goes ..
  | followerLaunch => exact exec_followerLaunch .. ▸ execFollowerLaunch_goes ..
  | _ => exact absurd (Nat.le_of_ble_eq_true rfl) hi

theorem exec_goes (i : Instr) (s : State) : Goes (exec i s) := by
  by_cases hi : i.major < 64
  · by_cases hn : i = .nop
    · rw [hn, exec_nop, execNop]
      split
      · exact goes_ok _
      · exact goes_ok _
    · exact (exec_isSlotMeaning hi hn s).goes
  · exact exec_goes_of_row hi s

/-! ### Every step -/

/-- The slots of a bundle take effect one after another, and each goes on. -/
theorem commitSlots_goes (c : Nat) (k : HdrKind) (xs : List Slot) :
    ∀ (n : Nat) (s : State), Goes (commitSlots c k n xs s) := by
  induction xs with
  | nil => exact fun _ s => goes_ok s
  | cons x xs ih =>
    intro n s
    obtain ⟨t, ht⟩ := exec_goes x.i (s.atSlot c n k x.x .commit)
    rw [commitSlots, ht]
    exact ih (n + 1) t

theorem State.issueBundle_goes (s : State) (c : Nat) (b : Bundle) : Goes (s.issueBundle c b) := by
  unfold State.issueBundle
  dsimp only
  split
  case h_1 => exact goes_ok _
  case h_2 hx => exact absurd (commitSlots_goes ..) fun ⟨t, ht⟩ => hx t ht

theorem State.runBundle_goes (s : State) (c : Nat) : Goes (s.runBundle c) := by
  unfold State.runBundle
  repeat' first | exact goes_ok _ | exact State.issueBundle_goes .. | dsimp only | split

theorem State.act_goes (s : State) (c : Nat) : Goes (s.act c) := by
  unfold State.act
  repeat' first | exact goes_ok _ | exact State.runBundle_goes .. | dsimp only | split

theorem State.engineStep_goes (s : State) (c : Nat) : Goes (s.engineStep c) := by
  unfold State.engineStep
  repeat' first | exact goes_ok _ | exact microMeaning_goes .. | exact exec_goes .. | dsimp only | split

theorem State.packetStep_goes (s : State) (d q : Nat) : Goes (s.packetStep d q) := by
  unfold State.packetStep
  repeat' first | exact goes_ok _ | exact exec_goes .. | split

theorem State.eventStep_goes (s : State) (i : Instr) : Goes (s.eventStep i) := by
  unfold State.eventStep
  split
  · exact exec_goes ..
  · exact goes_ok _

theorem step_goes (s : State) : Goes (step s) := by
  unfold step State.next
  split
  · exact State.act_goes ..
  · dsimp only
    split
    case h_1 => split; exacts [State.act_goes .., goes_ok _]
    case h_2 => exact State.eventStep_goes ..
    case h_3 => split; exacts [State.engineStep_goes .., goes_ok _]
    case h_4 => split; exacts [State.packetStep_goes .., goes_ok _]
    case h_5 => exact goes_ok _

/-- Settles O55: every branch of every meaning and of every agent's step is a next state (exec_goes, step_goes). -/
theorem everyStepGoesOn : Obligations.EveryStepGoesOn :=
  ⟨exec_goes, step_goes⟩

end Sys2Proof.Machine
end

section
/-! PROOFS. Landing of results and arrival of pending ones (spec 03 R52-R62). -/

namespace Sys2Proof.Machine

/-! ### What a landing changes -/

section Land
variable (k : Core) (g : Hm)

theorem Core.writeElems_rows (vwb : BitVec 12) (vrot : BitVec 5) (v : Nat) (m : W32) (img : Image) (n : Nat) :
    ∃ r, k.writeElems g vwb vrot v m img n = { k with rows := r } := by
  induction n with
  | zero => exact ⟨_, rfl⟩
  | succ n ih =>
    obtain ⟨r, hr⟩ := ih
    rw [Core.writeElems, hr]
    split
    · exact ⟨_, rfl⟩
    · exact ⟨_, rfl⟩

/-- A vector written changes rows alone (R138). -/
theorem Core.writeVec_rows (vwb : BitVec 12) (vrot : BitVec 5) (v : Nat) (m : W32) (img : Image) :
    ∃ r, k.writeVec g vwb vrot v m img = { k with rows := r } := by
  unfold Core.writeVec
  split
  · split
    · exact ⟨_, rfl⟩
    · exact ⟨_, rfl⟩
  · exact k.writeElems_rows ..

/-- A scalar written changes the two register banks alone. -/
theorem Core.setScalar_banks (sh : Bool) (n : Nat) (v : W64) :
    ∃ r w, k.setScalar g sh n v = { k with sregs := r, shadow := w } := by
  unfold Core.setScalar
  split
  · exact ⟨_, _, rfl⟩
  · split
    · exact ⟨_, _, rfl⟩
    · exact ⟨_, _, rfl⟩

/-- A predicate written changes the two predicate banks alone. -/
theorem Core.setPred_banks (sh : Bool) (n : Nat) (v : Bool) :
    ∃ r w, k.setPred g sh n v = { k with preds := r, spreds := w } := by
  unfold Core.setPred
  split
  · exact ⟨_, _, rfl⟩
  · split
    · exact ⟨_, _, rfl⟩
    · exact ⟨_, _, rfl⟩

/-- Everything a landing can change: the registers, predicates, rows and vectors, and the control registers, where its flags
gather (R52, R130). -/
theorem Core.land_changes (e : LqEntry) : ∃ r w p q x y c, k.land e =
    { k with sregs := r, shadow := w, preds := p, spreds := q, rows := x, pvecs := y, csr := c } := by
  unfold Core.land
  cases e.kind with
  | scalar =>
    obtain ⟨r, w, h⟩ := k.setScalar_banks e.gen e.shadow e.dest (e.value.setWidth 64)
    simp only [h]
    exact ⟨_, _, _, _, _, _, _, rfl⟩
  | pred =>
    obtain ⟨r, w, h⟩ := k.setPred_banks e.gen e.shadow e.dest (e.value.getLsbD 0)
    simp only [h]
    exact ⟨_, _, _, _, _, _, _, rfl⟩
  | vector =>
    obtain ⟨r, h⟩ := k.writeVec_rows e.gen e.vwb e.vrot e.dest e.lmask e.value
    simp only [h]
    exact ⟨_, _, _, _, _, _, _, rfl⟩
  | pvec => exact ⟨_, _, _, _, _, _, _, rfl⟩

/-- A landing that names no register n leaves its cell alone. -/
theorem Core.sregs_land_other {e : LqEntry} {n : Nat} (h : e.kind ≠ .scalar ∨ e.dest ≠ n) :
    Sparse.get {} n (k.land e).sregs = Sparse.get {} n k.sregs := by
  unfold Core.land
  cases hk : e.kind with
  | scalar =>
    have hd : n ≠ e.dest := Ne.symm (h.resolve_left (not_not.2 hk))
    show Sparse.get {} n (k.setScalar _ _ _ _).sregs = _
    unfold Core.setScalar
    split
    · rfl
    · split
      · rfl
      · exact Sparse.get_put_other hd
  | pred =>
    obtain ⟨r, w, h⟩ := k.setPred_banks e.gen e.shadow e.dest (e.value.getLsbD 0)
    simp only [h]
  | vector =>
    obtain ⟨r, h⟩ := k.writeVec_rows e.gen e.vwb e.vrot e.dest e.lmask e.value
    simp only [h]
  | pvec => rfl

/-- A scalar that lands outside the shadow bank stands in its register, under the generation that queued it. -/
theorem Core.sregs_land_same {e : LqEntry} (hk : e.kind = .scalar) (hn : e.dest ≠ 0) (hs : e.shadow = false) :
    Sparse.get {} e.dest (k.land e).sregs = ⟨e.value.setWidth 64, e.gen⟩ := by
  simp [Core.land, hk, Core.setScalar, hn, hs]

end Land

/-! ### Cores alike in what a read of register n depends on -/

/-- The cores agree in the cell of register n, in its bank, in what selects the generation that reads it, and in the landing
queue. -/
structure Core.Alike (n : Nat) (k k' : Core) : Prop where
  cell : Sparse.get {} n k'.sregs = Sparse.get {} n k.sregs
  ui : k'.ui = k.ui
  lvl : k'.lvl = k.lvl
  ten : k'.ten = k.ten
  stopping : k'.stopping = k.stopping
  ctxGen : k'.ctxGen = k.ctxGen
  lq : k'.lq = k.lq

/-- The states agree in what core c's reads of register n depend on. -/
structure State.Alike (c n : Nat) (s t : State) : Prop where
  cur : t.cur = s.cur
  gens : t.gens = s.gens
  core : (s.core c).Alike n (t.core c)

section Alike
variable {c n : Nat} {s t u : State} {k k' k'' : Core}

theorem Core.Alike.refl (k : Core) : k.Alike n k := ⟨rfl, rfl, rfl, rfl, rfl, rfl, rfl⟩

theorem Core.Alike.trans (h : k.Alike n k') (h' : k'.Alike n k'') : k.Alike n k'' :=
  ⟨h'.cell.trans h.cell, h'.ui.trans h.ui, h'.lvl.trans h.lvl, h'.ten.trans h.ten, h'.stopping.trans h.stopping,
    h'.ctxGen.trans h.ctxGen, h'.lq.trans h.lq⟩

theorem State.Alike.refl (s : State) : State.Alike c n s s := ⟨rfl, rfl, .refl _⟩

theorem State.Alike.trans (h : State.Alike c n s t) (h' : State.Alike c n t u) : State.Alike c n s u :=
  ⟨h'.cur.trans h.cur, h'.gens.trans h.gens, h.core.trans h'.core⟩

/-- A change of the core alone is as alike as the cores are. -/
theorem State.Alike.updCore {f : Core → Core} (h : (s.core c).Alike n (f (s.core c))) :
    State.Alike c n s (s.updCore c f) :=
  ⟨rfl, rfl, by rw [State.core_updCore_same]; exact h⟩

theorem State.Alike.discard (s : State) (g : Hm) : State.Alike c n s (s.discard g) := ⟨rfl, rfl, .refl _⟩

/-- The generation of a core depends on these fields alone (R68, R96, R354). -/
theorem State.coreGen_eq_of_fields (hg : t.gens = s.gens) (hl : (t.core c).lvl = (s.core c).lvl)
    (ht : (t.core c).ten = (s.core c).ten) (hs : (t.core c).stopping = (s.core c).stopping)
    (hc : (t.core c).ctxGen = (s.core c).ctxGen) : t.coreGen c = s.coreGen c := by
  simp only [State.coreGen, hl, ht, hs, hc, State.genOn, hg]

theorem State.Alike.coreGen (h : State.Alike c n s t) : t.coreGen c = s.coreGen c :=
  State.coreGen_eq_of_fields h.gens h.core.lvl h.core.ten h.core.stopping h.core.ctxGen

end Alike

/-! ### Delayed writes and landings keep alike what they do not name -/

section Keep
variable {c n : Nat}

/-- A CSRW changes control registers alone. -/
theorem Core.csrWrite_csr (k : Core) (i : Nat) (v : W64) : ∃ x, k.csrWrite i v = { k with csr := x } := by
  unfold Core.csrWrite
  dsimp only
  split <;> exact ⟨_, rfl⟩

theorem State.applyDelayed_alike (s : State) (d : Delayed) : State.Alike c n s (s.applyDelayed c d) := by
  cases d with
  | csr i v =>
    obtain ⟨x, hx⟩ := (s.core c).csrWrite_csr i v
    have h : (s.core c).Alike n ((s.core c).csrWrite i v) := by rw [hx]; exact ⟨rfl, rfl, rfl, rfl, rfl, rfl, rfl⟩
    exact State.Alike.updCore (f := fun k => k.csrWrite i v) h
  | spm a m v g =>
    rw [State.applyDelayed]
    split
    · exact .updCore ⟨rfl, rfl, rfl, rfl, rfl, rfl, rfl⟩
    · exact .discard ..
  | line l img g =>
    rw [State.applyDelayed]
    split
    · exact .updCore ⟨rfl, rfl, rfl, rfl, rfl, rfl, rfl⟩
    · exact .discard ..
  | ring r img g =>
    rw [State.applyDelayed]
    split
    · exact .updCore ⟨rfl, rfl, rfl, rfl, rfl, rfl, rfl⟩
    · exact .discard ..

theorem State.applyAllDelayed_alike (ds : List Delayed) :
    ∀ s : State, State.Alike c n s (s.applyAllDelayed c ds) := by
  induction ds with
  | nil => exact fun s => .refl s
  | cons d ds ih => exact fun s => (s.applyDelayed_alike d).trans (ih _)

theorem State.applyNext_alike (s : State) : State.Alike c n s (s.applyNext c) :=
  (State.Alike.updCore (f := fun k => { k with nextVc := [], stoch := false, csr := { k.csr with rndseed := _ } })
    ⟨rfl, rfl, rfl, rfl, rfl, rfl, rfl⟩).trans (State.applyAllDelayed_alike ..)

/-- A landing leaves everything but its own place as it was. -/
theorem Core.land_alike (k : Core) {e : LqEntry} (h : e.kind ≠ .scalar ∨ e.dest ≠ n) : k.Alike n (k.land e) := by
  have hcell := k.sregs_land_other h
  obtain ⟨r, w, p, q, x, y, z, hk⟩ := k.land_changes e
  rw [hk] at hcell ⊢
  exact ⟨hcell, rfl, rfl, rfl, rfl, rfl, rfl⟩

theorem State.landEntry_alike (s : State) {e : LqEntry} (h : e.kind ≠ .scalar ∨ e.dest ≠ n) :
    State.Alike c n s (s.landEntry c e) := by
  unfold State.landEntry
  split
  · exact .updCore (Core.land_alike _ h)
  · exact .discard ..

theorem State.landAll_alike {es : List LqEntry} :
    ∀ s : State, (∀ e ∈ es, e.kind ≠ .scalar ∨ e.dest ≠ n) → State.Alike c n s (s.landAll c es) := by
  induction es with
  | nil => exact fun s _ => .refl s
  | cons e es ih =>
    intro s h
    exact (s.landEntry_alike (h e (List.mem_cons_self ..))).trans (ih _ fun x hx => h x (List.mem_cons_of_mem _ hx))

/-- Landings leave the landing queue itself, the bank and the generation alone. -/
theorem State.landAll_queue (es : List LqEntry) :
    ∀ s : State, (((s.landAll c es).core c).lq = (s.core c).lq ∧ ((s.landAll c es).core c).ui = (s.core c).ui)
      ∧ (s.landAll c es).cur = s.cur ∧ (s.landAll c es).coreGen c = s.coreGen c := by
  induction es with
  | nil => exact fun s => ⟨⟨rfl, rfl⟩, rfl, rfl⟩
  | cons e es ih =>
    intro s
    -- a register that the landing does not name: it leaves alike what that register's reads depend on
    have h : State.Alike c (e.dest + 1) s (s.landEntry c e) := s.landEntry_alike (.inr (Nat.succ_ne_self _).symm)
    obtain ⟨⟨hlq, hui⟩, hcur, hgen⟩ := ih (s.landEntry c e)
    exact ⟨⟨hlq.trans h.core.lq, hui.trans h.core.ui⟩, hcur.trans h.cur, hgen.trans h.coreGen⟩

end Keep

/-! ### The value that a landing leaves -/

section Value
variable {s : State} {c n : Nat} {e : LqEntry}

/-- What a register outside a handler reads, by its cell. -/
theorem Core.scalar_eq_of_cell {k : Core} (hu : k.ui = false) (hn : n ≠ 0) (g : Hm) :
    k.scalar g n = if (Sparse.get {} n k.sregs).hm = g then (Sparse.get {} n k.sregs).val else 0 := by
  simp [Core.scalar, Core.cell, hn, hu]

/-- A scalar that lands under the current generation is in its register's cell (R52). -/
theorem State.cell_landEntry (hk : e.kind = .scalar) (hn : e.dest ≠ 0) (hs : e.shadow = false)
    (hg : e.gen = s.coreGen c) :
    Sparse.get {} e.dest ((s.landEntry c e).core c).sregs = ⟨e.value.setWidth 64, s.coreGen c⟩ := by
  rw [State.landEntry, if_pos hg, State.core_updCore_same, Core.sregs_land_same _ hk hn hs, hg]

/-- Due entries of which one names register n leave its value there. -/
theorem State.cell_landAll {es : List LqEntry} (hn : n ≠ 0) {v : W64} :
    ∀ s : State, es.filter (fun e => decide (e.kind = .scalar ∧ e.dest = n)) = [e] → e.gen = s.coreGen c →
      e.shadow = false → e.value.setWidth 64 = v →
      Sparse.get {} n ((s.landAll c es).core c).sregs = ⟨v, s.coreGen c⟩ := by
  induction es with
  | nil => exact fun s h => absurd h (by simp)
  | cons x xs ih =>
    intro s h hg hs hv
    rw [List.filter_cons] at h
    split at h
    case isTrue hx =>
      obtain ⟨rfl, hxs⟩ := List.cons.inj h
      obtain ⟨hk, rfl⟩ := of_decide_eq_true hx
      have hrest : ∀ y ∈ xs, y.kind ≠ .scalar ∨ y.dest ≠ x.dest := by
        intro y hy
        exact not_and_or.1 (of_decide_eq_false (Bool.eq_false_of_not_eq_true (List.filter_eq_nil_iff.1 hxs y hy)))
      rw [State.landAll, (State.landAll_alike _ hrest).core.cell, State.cell_landEntry hk hn hs hg, hv]
    case isFalse hx =>
      have hx' : x.kind ≠ .scalar ∨ x.dest ≠ n :=
        not_and_or.1 (of_decide_eq_false (Bool.eq_false_of_not_eq_true hx))
      have ha : State.Alike c n s (s.landEntry c x) := s.landEntry_alike hx'
      rw [State.landAll, ih _ h (hg.trans ha.coreGen.symm) hs hv, ha.coreGen]

end Value

/-! ### R52, R53, R62 -/

/-- The landing event leaves the entries that are not due. -/
theorem State.lq_landDue (s : State) (c : Nat) :
    ((s.landDue c).core c).lq = (s.core c).lq.filter (fun e => decide (e.remv ≠ 0)) := by
  unfold State.landDue
  rw [(State.landAll_queue _ _).1.1, State.core_setCore_same]

/-- The core that is left when its due entries leave the queue is alike but for the queue. -/
theorem State.coreGen_setCore_lq (s : State) (c : Nat) (l : List LqEntry) :
    (s.setCore c { s.core c with lq := l }).coreGen c = s.coreGen c := by
  refine State.coreGen_eq_of_fields rfl ?_ ?_ ?_ ?_ <;> rw [State.core_setCore_same]

/-- A register reads what its one due entry brings. -/
theorem State.scalar_landDue {s : State} {c n : Nat} {e : LqEntry} {v : W64} (hn : n ≠ 0) (hu : (s.core c).ui = false)
    (he : ((s.core c).lq.filter fun e => decide (e.remv = 0)).filter
      (fun e => decide (e.kind = .scalar ∧ e.dest = n)) = [e])
    (hg : e.gen = s.coreGen c) (hs : e.shadow = false) (hv : e.value.setWidth 64 = v) :
    ((s.landDue c).core c).scalar (s.coreGen c) n = v := by
  have hgen := s.coreGen_setCore_lq c ((s.core c).lq.filter fun e => decide (e.remv ≠ 0))
  have hui : ((s.landDue c).core c).ui = false := by
    unfold State.landDue
    rw [(State.landAll_queue _ _).1.2, State.core_setCore_same, hu]
  have hcell : Sparse.get {} n ((s.landDue c).core c).sregs = ⟨v, s.coreGen c⟩ := by
    unfold State.landDue
    rw [State.cell_landAll hn _ he (by rw [hg]; exact hgen.symm) hs hv]
    exact congrArg _ hgen
  rw [Core.scalar_eq_of_cell hui hn, hcell]
  exact if_pos rfl

/-- The core once a pending result has arrived: it is pending no more and leaves the loads counter. -/
def Core.clearPending (k : Core) (q : Pending) : Core :=
  { k with
    pend := k.pend.filter (fun p => decide (p.id ≠ q.id))
    nld := if q.counted then k.nld - 1 else k.nld }

section Arrive
variable {s : State} {c : Nat} {q : Pending} {v : W64}

theorem State.arrive_eq (s : State) (c : Nat) (q : Pending) (v : W64) : s.arrive c q v =
    if q.gen = s.coreGen c
      then (s.updCore c fun k => k.clearPending q).updCore c fun k => k.setScalar q.gen q.shadow q.reg v
      else (s.updCore c fun k => k.clearPending q).discard q.gen := rfl

/-- A result of the current generation is written to its register (R53). -/
theorem State.core_arrive_current (hg : q.gen = s.coreGen c) :
    (s.arrive c q v).core c = ((s.core c).clearPending q).setScalar q.gen q.shadow q.reg v := by
  rw [State.arrive_eq, if_pos hg, State.core_updCore_same, State.core_updCore_same]

/-- A result of another generation is discarded and counted (R62). -/
theorem State.arrive_stale (hg : q.gen ≠ s.coreGen c) :
    s.arrive c q v = (s.updCore c fun k => k.clearPending q).discard q.gen := by
  rw [State.arrive_eq, if_neg hg]

/-- Either way the result is pending no more. -/
theorem State.pend_arrive (s : State) (c : Nat) (q : Pending) (v : W64) :
    ((s.arrive c q v).core c).pend = ((s.core c).clearPending q).pend
      ∧ ((s.arrive c q v).core c).nld = ((s.core c).clearPending q).nld := by
  by_cases hg : q.gen = s.coreGen c
  · obtain ⟨_, _, h⟩ := Core.setScalar_banks ((s.core c).clearPending q) q.gen q.shadow q.reg v
    rw [State.core_arrive_current hg, h]
    exact ⟨rfl, rfl⟩
  · have hcore : (s.arrive c q v).core c = (s.core c).clearPending q := by
      rw [State.arrive_stale hg]
      exact State.core_updCore_same s c fun k => k.clearPending q
    rw [hcore]
    exact ⟨rfl, rfl⟩

end Arrive

/-- Settles O14: due entries leave the queue and land (lq_landDue, scalar_landDue); an arrival clears the pending bit and
writes the register, or is discarded (pend_arrive, core_arrive_current, arrive_stale). -/
theorem resultsLandAndArrive : Obligations.ResultsLandAndArrive := by
  refine ⟨fun s c => ⟨_, exec_landing .., s.lq_landDue c, ?landing⟩, fun s c i q v hq hf hv => ⟨s.arrive c q v, ?arrives,
    ?pending, ?counted, ?current, ?stale⟩⟩
  case landing =>
    rintro n v hn hu ⟨e, he, hk, hd, hg, hs, hv⟩
    refine State.scalar_landDue hn hu ?_ hg hs hv
    rw [he]
    simp [hk, hd]
  case arrives =>
    rw [exec_resultArrive, execResultArrive, hq]
    simp only [hf, hv]
    rfl
  case pending =>
    intro r hr
    rw [(s.pend_arrive c q v).1, Core.clearPending, List.mem_filter] at hr
    exact ⟨hr.1, of_decide_eq_true hr.2⟩
  case counted =>
    intro hc
    rw [(s.pend_arrive c q v).2]
    exact if_pos hc
  case current =>
    intro hg hr hs
    rw [State.core_arrive_current hg, hs, ← hg]
    exact Core.scalar_setScalar_same _ _ _ _ hr
  case stale =>
    intro hg
    rw [State.arrive_stale hg]
    rfl

end Sys2Proof.Machine
end

section
/-! PROOFS. A result is seen exactly when its latency has passed (spec 03 R52, R58). -/

namespace Sys2Proof.Machine

/-- The entry with a virtual cycle less to pass. -/
def LqEntry.tick (e : LqEntry) : LqEntry := { e with remv := e.remv - 1 }

/-- The entries of core c's landing queue that name scalar register n. -/
def State.named (s : State) (c n : Nat) : List LqEntry :=
  (s.core c).lq.filter fun e => decide (e.kind = .scalar ∧ e.dest = n)

/-- Core c once its delayed writes have taken effect and every entry has come a virtual cycle nearer. -/
def State.ripened (s : State) (c : Nat) : State :=
  (s.applyNext c).updCore c fun k =>
    { k with csr := { k.csr with vcyc := k.csr.vcyc + 1 }, lq := k.lq.map fun e => { e with remv := e.remv - 1 } }

theorem State.advanceVc_eq (s : State) (c : Nat) : s.advanceVc c = (s.ripened c).landDue c := rfl

section Cycle
variable {s : State} {c n : Nat} {e : LqEntry} {v : W64}

/-! ### One virtual cycle -/

theorem State.lq_ripened (s : State) (c : Nat) : ((s.ripened c).core c).lq = (s.core c).lq.map LqEntry.tick := by
  rw [State.ripened, State.core_updCore_same]
  exact congrArg _ (s.applyNext_alike (n := 0)).core.lq

/-- Before its landings a virtual cycle leaves the registers, their bank and their generation alone. -/
theorem State.ripened_keeps (s : State) (c n : Nat) :
    (s.ripened c).cur = s.cur ∧ (s.ripened c).coreGen c = s.coreGen c ∧ ((s.ripened c).core c).ui = (s.core c).ui
      ∧ Sparse.get {} n ((s.ripened c).core c).sregs = Sparse.get {} n (s.core c).sregs := by
  have h : State.Alike c n s (s.applyNext c) := s.applyNext_alike
  have hgen : (s.ripened c).coreGen c = (s.applyNext c).coreGen c := by
    refine State.coreGen_eq_of_fields rfl ?_ ?_ ?_ ?_ <;> rw [State.ripened, State.core_updCore_same]
  refine ⟨h.cur, hgen.trans h.coreGen, ?_, ?_⟩ <;> rw [State.ripened, State.core_updCore_same]
  · exact h.core.ui
  · exact h.core.cell

/-- A virtual cycle leaves the bank and the generation of the core that it passes on alone. -/
theorem State.advanceVc_keeps (s : State) (c : Nat) : (s.advanceVc c).cur = s.cur
    ∧ (s.advanceVc c).coreGen c = s.coreGen c ∧ ((s.advanceVc c).core c).ui = (s.core c).ui := by
  obtain ⟨hcur, hgen, hui, -⟩ := s.ripened_keeps c 0
  obtain ⟨⟨-, hu⟩, hc, hg⟩ := State.landAll_queue (c := c)
    (((s.ripened c).core c).lq.filter fun e => decide (e.remv = 0))
    ((s.ripened c).setCore c { (s.ripened c).core c with
      lq := ((s.ripened c).core c).lq.filter fun e => decide (e.remv ≠ 0) })
  refine ⟨hc.trans hcur, hg.trans ((State.coreGen_setCore_lq ..).trans hgen), hu.trans ?_⟩
  rw [State.core_setCore_same]
  exact hui

/-- The ripened entries that name register n are those that named it before. -/
theorem State.named_ripened (s : State) (c n : Nat) (p : LqEntry → Bool) :
    (((s.ripened c).core c).lq.filter p).filter (fun e => decide (e.kind = .scalar ∧ e.dest = n))
      = ((s.named c n).map LqEntry.tick).filter p := by
  rw [State.lq_ripened, State.named, List.filter_filter, List.filter_map, List.filter_map, List.filter_filter]
  exact congrArg _ (List.filter_congr fun e _ => Bool.and_comm ..)

/-- After a virtual cycle, the entries that are not due are left. -/
theorem State.named_advanceVc (s : State) (c n : Nat) :
    (s.advanceVc c).named c n = ((s.named c n).map LqEntry.tick).filter fun e => decide (e.remv ≠ 0) := by
  rw [← State.named_ripened, State.named, State.advanceVc_eq, State.lq_landDue]

/-- Where no entry that names register n is due, its cell stands. -/
theorem State.cell_advanceVc_none
    (h : ((s.named c n).map LqEntry.tick).filter (fun e => decide (e.remv = 0)) = []) :
    Sparse.get {} n ((s.advanceVc c).core c).sregs = Sparse.get {} n (s.core c).sregs := by
  rw [← State.named_ripened] at h
  have hfree : ∀ e ∈ ((s.ripened c).core c).lq.filter (fun e => decide (e.remv = 0)), e.kind ≠ .scalar ∨ e.dest ≠ n :=
    fun e he => not_and_or.1 (of_decide_eq_false (Bool.eq_false_of_not_eq_true (List.filter_eq_nil_iff.1 h e he)))
  rw [State.advanceVc_eq, State.landDue, (State.landAll_alike _ hfree).core.cell, State.core_setCore_same]
  exact (s.ripened_keeps c n).2.2.2

/-- Where one is due, the cell holds its value. -/
theorem State.cell_advanceVc_one (hn : n ≠ 0)
    (h : ((s.named c n).map LqEntry.tick).filter (fun e => decide (e.remv = 0)) = [e])
    (hg : e.gen = s.coreGen c) (hs : e.shadow = false) (hv : e.value.setWidth 64 = v) :
    Sparse.get {} n ((s.advanceVc c).core c).sregs = ⟨v, s.coreGen c⟩ := by
  rw [← State.named_ripened] at h
  have hgen := (s.ripened_keeps c n).2.1
  have hgen' := (s.ripened c).coreGen_setCore_lq c (((s.ripened c).core c).lq.filter fun e => decide (e.remv ≠ 0))
  rw [State.advanceVc_eq, State.landDue, State.cell_landAll hn _ h (by rw [hg, ← hgen]; exact hgen'.symm) hs hv]
  exact congrArg _ (hgen'.trans hgen)

/-! ### A number of virtual cycles -/

/-- The core's registers as they stand while a result with m cycles to pass waits for register n, or once it has landed
(m = 0). -/
structure State.AwaitsAfter (s : State) (c n m : Nat) (e : LqEntry) (v : W64) (u : State) : Prop where
  cur : u.cur = s.cur
  gen : u.coreGen c = s.coreGen c
  ui : (u.core c).ui = (s.core c).ui
  named : u.named c n = if m = 0 then [] else [{ e with remv := m }]
  cell : Sparse.get {} n (u.core c).sregs = if m = 0 then ⟨v, s.coreGen c⟩ else Sparse.get {} n (s.core c).sregs

/-- A virtual cycle brings the result a cycle nearer; with the last one it lands. -/
theorem State.AwaitsAfter.advanceVc {u : State} {m : Nat} (h : s.AwaitsAfter c n m e v u) (hn : n ≠ 0)
    (hg : e.gen = s.coreGen c) (hs : e.shadow = false) (hv : e.value.setWidth 64 = v) :
    s.AwaitsAfter c n (m - 1) e v (u.advanceVc c) := by
  obtain ⟨hcur, hgen, hui⟩ := u.advanceVc_keeps c
  refine ⟨hcur.trans h.cur, hgen.trans h.gen, hui.trans h.ui, ?named, ?cell⟩
  case named =>
    rw [State.named_advanceVc, h.named]
    rcases m with _ | _ | m <;> simp [LqEntry.tick]
  case cell =>
    rcases m with _ | _ | m
    · rw [State.cell_advanceVc_none (by simp [h.named]), h.cell]
    · rw [State.cell_advanceVc_one (e := { e with remv := 0 }) hn (by simp [h.named, LqEntry.tick])
        (hg.trans h.gen.symm) hs hv, h.gen]
      rfl
    · rw [State.cell_advanceVc_none (by simp [h.named, LqEntry.tick]), h.cell]
      simp

theorem State.AwaitsAfter.iterate (hn : n ≠ 0) (hg : e.gen = s.coreGen c) (hs : e.shadow = false)
    (hv : e.value.setWidth 64 = v) (hc : s.cur.core = c) {lat : Nat} (h : s.AwaitsAfter c n lat e v s) (j : Nat) :
    s.AwaitsAfter c n (lat - j) e v ((fun u => u.advanceVc u.cur.core)^[j] s) := by
  induction j with
  | zero => exact h
  | succ j ih =>
    have hcore : ((fun u => u.advanceVc u.cur.core)^[j] s).cur.core = c := by rw [ih.cur, hc]
    have hnext := ih.advanceVc hn hg hs hv
    rw [Function.iterate_succ_apply', hcore]
    exact Nat.sub_sub lat j 1 ▸ hnext

end Cycle

/-! ### The statement -/

/-- The entry that putScalar queues outside a handler and outside Igpor code. -/
def State.scalarEntry (s : State) (lat n : Nat) (v : W64) : LqEntry :=
  ⟨s.gen, 0, s.k.csr.vwb, s.k.csr.vrot, s.seqNow, lat, .scalar, n, v.setWidth 1024, 0, false⟩

theorem State.putScalar_eq {s : State} {lat n : Nat} {v : W64} (hn : n ≠ 0) (hq : s.k.quick = false) :
    s.putScalar lat n v = s.updK fun k => { k with lq := k.lq ++ [s.scalarEntry lat n v] } := by
  have hui : s.k.ui = false := (Bool.or_eq_false_iff.1 hq).1
  rw [State.putScalar, if_neg hn]
  have hcore : (s.core s.cur.core).quick = false := hq
  simp only [State.queueResult, State.updK, State.updCore, hq, hcore, Core.inShadow, hui, Bool.false_and, State.scalarEntry,
    Bool.false_eq_true, if_false]
  rfl

/-- Settles O57: the entry waits, a cycle nearer with each virtual cycle, and lands with the last (AwaitsAfter.iterate). -/
theorem resultsLandAfterTheirLatency : Obligations.ResultsLandAfterTheirLatency := by
  intro s lat n v hlat hn hq hfree j
  rw [State.putScalar_eq hn hq]
  let t := s.updK fun k => { k with lq := k.lq ++ [s.scalarEntry lat n v] }
  have hui : s.k.ui = false := (Bool.or_eq_false_iff.1 hq).1
  have hcore : t.core s.cur.core = { s.k with lq := s.k.lq ++ [s.scalarEntry lat n v] } := State.core_updCore_same ..
  have hgen : t.coreGen s.cur.core = s.gen := by
    refine State.coreGen_eq_of_fields rfl ?_ ?_ ?_ ?_ <;> rw [hcore] <;> rfl
  have hnamed : t.named s.cur.core n = [s.scalarEntry lat n v] := by
    have hold : s.k.lq.filter (fun e => decide (e.kind = .scalar ∧ e.dest = n)) = [] :=
      List.filter_eq_nil_iff.2 fun e he h => by
        obtain ⟨hk, hd⟩ := of_decide_eq_true h
        exact (hfree e he).elim (· hk) (· hd)
    rw [State.named, hcore, List.filter_append, hold]
    simp [State.scalarEntry]
  have hstart : t.AwaitsAfter s.cur.core n lat (s.scalarEntry lat n v) v t :=
    ⟨rfl, rfl, rfl, by rw [hnamed, if_neg (by omega)]; rfl, by rw [if_neg (by omega)]⟩
  have hend : t.AwaitsAfter s.cur.core n (lat - j) (s.scalarEntry lat n v) v ((fun u => u.advanceVc u.cur.core)^[j] t) :=
    hstart.iterate hn hgen.symm rfl (by simp [State.scalarEntry]) rfl j
  have hcell : Sparse.get {} n (t.core s.cur.core).sregs = Sparse.get {} n s.k.sregs := by rw [hcore]
  have hu : (((fun u => u.advanceVc u.cur.core)^[j] t).core s.cur.core).ui = false := by rw [hend.ui, hcore, hui]
  have hread := Core.scalar_eq_of_cell hu hn s.gen
  rw [hend.cell, hgen, hcell] at hread
  have hreg : ((fun u => u.advanceVc u.cur.core)^[j] t).reg n
      = (((fun u => u.advanceVc u.cur.core)^[j] t).core s.cur.core).scalar s.gen n := by
    have hc : ((fun u => u.advanceVc u.cur.core)^[j] t).cur.core = s.cur.core := by rw [hend.cur]; rfl
    rw [State.reg, State.gen, State.k, hc, hend.gen, hgen]
  rw [hreg, hread]
  by_cases hj : lat ≤ j
  · rw [if_pos hj, if_pos (Nat.sub_eq_zero_of_le hj)]
    exact if_pos rfl
  · rw [if_neg hj, if_neg (show ¬ lat - j = 0 by omega)]
    exact (Core.scalar_eq_of_cell hui hn s.gen).symm

end Sys2Proof.Machine
end

section
/-! PROOFS. Traps, returns and user-level interrupts (spec 05 R98-R109). -/

namespace Sys2Proof.Machine

/-! ### Memory whose key is gone (spec 20 R460) -/

section Write
variable (s : State) (g : Hm)

theorem State.trust_writeAt (a n v : Nat) : (s.writeAt g a n v).trust = s.trust := by
  unfold State.writeAt
  dsimp only
  split
  · rfl
  · split
    · rfl
    · rfl

theorem State.trust_writeBytes (fuel : Nat) :
    ∀ (s : State) (a n v : Nat), (s.writeBytes g a fuel n v).trust = s.trust := by
  induction fuel with
  | zero => exact fun _ _ _ _ => rfl
  | succ fuel ih =>
    intro s a n v
    unfold State.writeBytes
    dsimp only
    split
    · rfl
    · rw [ih, State.trust_writeAt]

/-- A write of memory leaves the key store alone. -/
theorem State.trust_write (a n v : Nat) : (s.write g a n v).trust = s.trust := State.trust_writeBytes g _ s a n v

/-- Eight bytes of G7 memory read as 0 under a generation whose key no base die holds (R460). -/
theorem State.read_word_of_noKey {a : Nat} (hk : dlaKind a = 0) (ha : a % 128 = 0)
    (hg : Sparse.get none g.toNat s.trust.keys = none) : s.read g a 8 = 0 := by
  have hone : granules a 8 = 1 := by simp [granules, ha]
  have hat : s.readAt g a 8 = 0 := by simp [State.readAt, dlaCxl, State.hasKey, hk, hg]
  rw [State.read, hone, State.readBytes, ha]
  simp [hat, State.readBytes]

end Write

/-! ### The counterexample to O11 -/

/-- Core 0 at user level, its vector and its save area set, in a module whose base dies hold no key. -/
def noKeyState : State :=
  { State.reset with
    cores := [(0, { csr := { ptvec := 0x1000, ctxptr := 0x10000 } })]
    stackTab := [(0, { present := true })]
    trust := { keys := [] } }

/-- TRAP 0 of slot 0. -/
def plainTrap : TrapInfo := ⟨6, 0, 0, 0, 0, 0⟩

theorem noKeyState_areaOk : noKeyState.areaOk 0 = true := by decide +kernel

/-- A trap whose area can be written, at user level, of a class other than a machine check's, leaves the key store alone. -/
theorem State.trust_enterTrap {s : State} {c : Nat} {t : TrapInfo} (hl : (s.core c).lvl = false)
    (hv : (s.core c).csr.ptvec ≠ 0) (ha : s.areaOk c = true) (ht : t.cls ≠ 8)
    (hlow : (s.core c).csr.ptvec.toNat + 0x40 * t.cls < 2 ^ 48) : (s.enterTrap c t).trust = s.trust := by
  have henter : ((s.core c).lvl || decide ((s.core c).csr.ptvec = 0) || !s.areaOk c) = false := by
    rw [hl, decide_eq_false hv, ha]
    rfl
  have hlow' : ¬ 2 ^ 48 ≤ (s.core c).csr.ptvec.toNat + 0x40 * t.cls := Nat.not_le.2 hlow
  unfold State.enterTrap
  simp only [henter, ht, hlow', Bool.false_eq_true, if_false]
  exact State.trust_write ..

/-- Refutes O11: the clause of the trap record reads it back from memory under the platform generation without asking that the
base dies hold that generation's key (R460). Where they hold none, G7 memory reads as 0, and PCAUSE of TRAP is not 0. -/
theorem not_trapsEnterOrStopTheCore : ¬ Obligations.TrapsEnterOrStopTheCore := by
  rintro ⟨⟨-, h⟩, -⟩
  obtain ⟨-, -, hsave⟩ := h noKeyState 0 plainTrap rfl
  have hrecord := hsave (by decide) noKeyState_areaOk (by decide) rfl (by decide) (by decide) (by decide) (by decide)
    (by decide) (by decide)
  obtain ⟨-, -, -, -, -, -, -, -, hread, -⟩ := hrecord
  obtain ⟨hcause, -⟩ := hread (.inl (by decide))
  have hkeys : (noKeyState.enterTrap 0 plainTrap).trust = { keys := [] } :=
    State.trust_enterTrap rfl (by decide) noKeyState_areaOk (by decide) (by decide)
  have hzero : (noKeyState.enterTrap 0 plainTrap).read platformGen (noKeyState.core 0).ctxArea 8 = 0 :=
    State.read_word_of_noKey _ _ (by decide) (by decide) (by rw [hkeys]; rfl)
  rw [hzero] at hcause
  exact absurd hcause (by decide)

end Sys2Proof.Machine
end

section
/-! PROOFS. User-level interrupts and the return from platform level (spec 05 R102, R106-R109). -/

namespace Sys2Proof.Machine

/-! ### User-level interrupts -/

theorem lowestBit_eq {m : W64} {h : Nat} (hh : h < 64) (hm : m.getLsbD h = true) (hlow : ∀ i < h, m.getLsbD i = false) :
    lowestBit m = h := by
  have hfind : (List.range 64).find? (fun i => m.getLsbD i) = some h :=
    List.find?_range_eq_some.2 ⟨hm, List.mem_range.2 hh, fun j hj => by simp [hlow j hj]⟩
  rw [lowestBit, hfind]
  rfl

/-- Taking back bit h leaves the others. -/
theorem getLsbD_clearBit (m : W64) {h : Nat} (hh : h < 64) (i : Nat) :
    (m &&& ~~~(1#64 <<< h)).getLsbD i = (m.getLsbD i && decide (i ≠ h)) := by
  by_cases hi : i < 64
  · rcases Nat.lt_trichotomy i h with h1 | h1 | h1
    · simp [hi, h1, Nat.ne_of_lt h1]
    · simp [h1, hh]
    · simp [hi, Nat.not_lt.2 h1.le, Nat.ne_of_gt h1, Nat.sub_ne_zero_of_lt h1]
  · simp [BitVec.getLsbD_of_ge m i (Nat.not_lt.1 hi)]

/-- The handler is entered (R107). -/
theorem execUserLevelInterrupt_ready {s : State} {c : Nat} (h : (s.core c).uiReady = true) :
    exec (.userLevelInterrupt c) s = .next (s.updCore c fun k => k.enterUi (s.coreGen c)) :=
  (exec_userLevelInterrupt ..).trans (if_pos h)

/-- A slot without operands that stands alone executes under its guard. -/
theorem State.Executes.noOperands {s : State} {p : BitVec 3} (hg : s.guard p = true) (hm : s.cur.mode = .whole) :
    s.Executes p [] none false := ⟨hg, .inr ⟨hm, rfl⟩⟩

/-- Settles O13: what entry and return write, and the lowest bit found by its search. -/
theorem userLevelInterruptsEnterAndReturn : Obligations.UserLevelInterruptsEnterAndReturn := by
  refine ⟨fun s c h hready hh hset hlow => ?enter, fun s p hg hm => ⟨fun hui hpend => ?leave, fun hui => ?trap⟩⟩
  case enter =>
    refine ⟨_, execUserLevelInterrupt_ready hready, ?_⟩
    rw [State.core_updCore_same]
    simp only [Core.enterUi, lowestBit_eq hh hset hlow]
    refine ⟨trivial, rfl, ?_, getLsbD_clearBit _ hh, trivial, trivial⟩
    split <;> simp [Nat.mul_comm]
  case leave =>
    have hany : s.k.pend.any (·.shadow) = false := by simpa using hpend
    exact (exec_uiret ..).trans (slotMeaning_executes (.noOperands hg hm) (by simp [hui, hany]))
  case trap =>
    exact (exec_uiret ..).trans (slotMeaning_trap hg hm rfl (by simp only [hui]; rfl))

/-! ### What a fault report changes (R406, R407) -/

/-- Only memory, the interrupts sent and the record rings of the dies may differ. -/
structure State.Reports (s t : State) : Prop where
  rest : t = { s with
    mem := t.mem, hallmarks := t.hallmarks, badGranules := t.badGranules, cxlWrites := t.cxlWrites, dies := t.dies
    io := { s.io with interrupts := t.io.interrupts } }
  die : ∀ d, t.die d = { s.die d with
    frTail := (t.die d).frTail, frSerial := (t.die d).frSerial, frLost := (t.die d).frLost, frWait := (t.die d).frWait }

section Reports
variable {s t u : State}

theorem State.Reports.refl (s : State) : s.Reports s := ⟨rfl, fun _ => rfl⟩

theorem State.Reports.trans (h : s.Reports t) (h' : t.Reports u) : s.Reports u := by
  refine ⟨?_, fun d => ?_⟩
  · obtain ⟨hr, -⟩ := h
    rw [hr] at h'
    exact h'.rest
  · have hd := h.die d
    have hd' := h'.die d
    rw [hd] at hd'
    exact hd'

theorem State.Reports.cores (h : s.Reports t) : t.cores = s.cores := by rw [h.rest]
theorem State.Reports.cur (h : s.Reports t) : t.cur = s.cur := by rw [h.rest]

theorem State.Reports.foldl {α : Type} {f : State → α → State} (hf : ∀ (s : State) (a : α), s.Reports (f s a)) (l : List α) :
    ∀ s : State, s.Reports (l.foldl f s) := by
  induction l with
  | nil => exact fun s => .refl s
  | cons a l ih => exact fun s => (hf s a).trans (ih _)

/-- A change of a die's record ring. -/
theorem State.Reports.updDie {d : Nat} {f : Die → Die} (hf : ∀ x, f x = { x with
    frTail := (f x).frTail, frSerial := (f x).frSerial, frLost := (f x).frLost, frWait := (f x).frWait }) :
    s.Reports (s.updDie d f) := by
  refine ⟨rfl, fun e => ?_⟩
  rw [State.die_updDie]
  split
  · next h => subst h; exact hf _
  · rfl

theorem State.writeAt_reports (s : State) (g : Hm) (a n v : Nat) : s.Reports (s.writeAt g a n v) := by
  unfold State.writeAt
  dsimp only
  split
  · exact ⟨rfl, fun _ => rfl⟩
  · split
    · exact ⟨rfl, fun _ => rfl⟩
    · exact ⟨rfl, fun _ => rfl⟩

theorem State.writeBytes_reports (g : Hm) (fuel : Nat) : ∀ (s : State) (a n v : Nat), s.Reports (s.writeBytes g a fuel n v) := by
  induction fuel with
  | zero => exact fun s _ _ _ => .refl s
  | succ fuel ih =>
    intro s a n v
    unfold State.writeBytes
    dsimp only
    split
    · exact .refl s
    · exact (s.writeAt_reports g a _ _).trans (ih ..)

theorem State.write_reports (s : State) (g : Hm) (a n v : Nat) : s.Reports (s.write g a n v) := State.writeBytes_reports ..

theorem State.interrupt_reports (s : State) (d e : Nat) : s.Reports (s.interrupt d e) := by
  unfold State.interrupt
  dsimp only
  split
  · exact .refl s
  · exact ⟨rfl, fun _ => rfl⟩

theorem State.dlaWrite_reports {d a n v : Nat} (h : s.dlaWrite d a n v = .ok t) : s.Reports t := by
  unfold State.dlaWrite at h
  split at h
  · cases h
  · split at h
    · cases h
    · split at h
      · cases h
      · cases h
        exact s.write_reports ..

theorem State.putRecord_reports (s : State) (d l : Nat) (f : FaultInfo) : s.Reports (s.putRecord d l f) := by
  unfold State.putRecord
  dsimp only
  split
  · next h => exact (State.dlaWrite_reports h).trans ((State.Reports.updDie fun _ => rfl).trans (State.interrupt_reports ..))
  · exact .updDie fun _ => rfl

theorem State.addRecord_reports (s : State) (d l : Nat) (f : FaultInfo) : s.Reports (s.addRecord d l f) := by
  unfold State.addRecord
  split
  · exact s.putRecord_reports d l f
  · exact .updDie fun _ => rfl

theorem State.record_reports (s : State) (d l : Nat) (f : FaultInfo) : s.Reports (s.record d l f) := by
  unfold State.record
  dsimp only
  split
  · exact (State.Reports.updDie fun _ => rfl).trans ((State.putRecord_reports ..).trans (State.addRecord_reports ..))
  · exact s.addRecord_reports d l f

theorem State.flushReports_reports (s : State) (d : Nat) : s.Reports (s.flushReports d) := by
  unfold State.flushReports
  split
  · exact .refl s
  · exact (State.Reports.updDie fun _ => rfl).trans (.foldl (fun s _ => s.record_reports ..) _ _)

/-- A fault report changes what reports change. -/
theorem State.report_reports (s : State) (d : Nat) (f : FaultInfo) : s.Reports (s.report d f) := by
  unfold State.report
  dsimp only
  split
  · exact .updDie fun _ => rfl
  · exact (s.flushReports_reports d).trans (State.record_reports ..)

theorem State.reportTask_reports (s : State) (c : Nat) (f : FaultInfo) : s.Reports (s.reportTask c f) := by
  unfold State.reportTask
  split
  · exact s.report_reports ..
  · exact .foldl (fun s _ => s.report_reports ..) _ _

/-- The failure of a core's launch changes dies alone. -/
theorem State.failTask_cores (s : State) (c : Nat) : (s.failTask c).cores = s.cores ∧ (s.failTask c).cur = s.cur := by
  unfold State.failTask
  split
  · exact ⟨rfl, rfl⟩
  · split
    · split
      · exact ⟨rfl, rfl⟩
      · exact ⟨rfl, rfl⟩
    · exact ⟨rfl, rfl⟩

end Reports

/-! ### The return from platform level (R102) -/

/-- Core c, with other control registers, scratchpad and ring slots, and with nothing or the same delayed. -/
structure Core.Written (k k' : Core) : Prop where
  core : k' = { k with csr := k'.csr, spm := k'.spm, rings := k'.rings, nextVc := k'.nextVc, stoch := k'.stoch }

section Written
variable {k k' k'' : Core} (s : State) (c : Nat)

theorem Core.Written.refl (k : Core) : k.Written k := ⟨rfl⟩

theorem Core.Written.trans (h : k.Written k') (h' : k'.Written k'') : k.Written k'' := by
  obtain ⟨h⟩ := h
  rw [h] at h'
  exact ⟨h'.core⟩

theorem State.applyDelayed_written (d : Delayed) : (s.core c).Written ((s.applyDelayed c d).core c) := by
  cases d with
  | csr i v =>
    obtain ⟨x, hx⟩ := (s.core c).csrWrite_csr i v
    rw [State.applyDelayed, State.core_updCore_same, hx]
    exact ⟨rfl⟩
  | spm a m v g =>
    rw [State.applyDelayed]
    split
    · rw [State.core_updCore_same]
      exact ⟨rfl⟩
    · exact .refl _
  | line l img g =>
    rw [State.applyDelayed]
    split
    · rw [State.core_updCore_same]
      exact ⟨rfl⟩
    · exact .refl _
  | ring r img g =>
    rw [State.applyDelayed]
    split
    · rw [State.core_updCore_same]
      exact ⟨rfl⟩
    · exact .refl _

theorem State.applyAllDelayed_written (ds : List Delayed) :
    ∀ s : State, (s.core c).Written ((s.applyAllDelayed c ds).core c) := by
  induction ds with
  | nil => exact fun _ => .refl _
  | cons d ds ih => exact fun s => (s.applyDelayed_written c d).trans (ih _)

/-- The delayed writes of a core change its control registers, scratchpad and ring slots. -/
theorem State.applyNext_written : (s.core c).Written ((s.applyNext c).core c) := by
  unfold State.applyNext
  refine .trans ?_ (State.applyAllDelayed_written ..)
  rw [State.core_setCore_same]
  exact ⟨rfl⟩

end Written

section Restore
variable {α : Type} [DecidableEq α] {z : α}

/-- A map built by writing f at b, …, b+n-1 in turn holds f there. -/
theorem Sparse.get_foldl_put_range (f : Nat → α) (b n j : Nat) : Sparse.get z j
    ((List.range n).foldl (fun m i => Sparse.put z (i + b) (f i) m) []) = if b ≤ j ∧ j < b + n then f (j - b) else z := by
  induction n with
  | zero =>
    have h : ¬ (b ≤ j ∧ j < b + 0) := by omega
    rw [if_neg h]
    rfl
  | succ n ih =>
    rw [List.range_succ, List.foldl_append, List.foldl_cons, List.foldl_nil, Sparse.get_put, ih]
    by_cases hj : j = n + b
    · have h : b ≤ j ∧ j < b + (n + 1) := by omega
      have hb : j - b = n := by omega
      rw [if_pos hj, if_pos h, hb]
    · have h : (b ≤ j ∧ j < b + n) ↔ (b ≤ j ∧ j < b + (n + 1)) := by omega
      simp only [hj, if_false, h]

/-- The value and the hallmark that a save holds for register n, both zero where stale (R398). -/
def savedReg (g : Hm) (v n : Nat) : HReg :=
  ⟨if field v (0x282 + 2 * n) 2 = 0 then 0 else BitVec.ofNat 64 (field v (0x40 + 8 * n) 8),
    if field v (0x282 + 2 * n) 2 = 0 then nullGen else g⟩

theorem Core.sregs_restoreRegs (k : Core) (g : Hm) (v n : Nat) (h0 : 0 < n) (hn : n < 56) :
    Sparse.get {} n (k.restoreRegs g v).sregs = savedReg g v n := by
  have hr : 1 ≤ n ∧ n < 1 + 63 := ⟨h0, by omega⟩
  have hb : n - 1 + 1 = n := Nat.sub_add_cancel h0
  have h := Sparse.get_foldl_put_range (z := ({} : HReg)) (fun i => savedReg g v (i + 1)) 1 63 n
  rw [if_pos hr, hb] at h
  exact h

/-- Below the shadowed registers the main bank is read. -/
theorem Core.scalar_main (k : Core) (g : Hm) {n : Nat} (h0 : 0 < n) (hn : n < 56) :
    k.scalar g n = if (Sparse.get {} n k.sregs).hm = g then (Sparse.get {} n k.sregs).val else 0 := by
  simp [Core.scalar, Core.cell, Nat.ne_of_gt h0, Nat.not_le.2 hn]

theorem savedReg_reads (g : Hm) (v n : Nat) : (if (savedReg g v n).hm = g then (savedReg g v n).val else 0)
    = if field v (0x282 + 2 * n) 2 = 0 then 0 else BitVec.ofNat 64 (field v (0x40 + 8 * n) 8) := by
  unfold savedReg
  split
  · simp
  · simp

theorem lqInsert_length (y : W64) (e : LqEntry) (l : List LqEntry) : (lqInsert y e l).length = l.length + 1 := by
  induction l with
  | nil => rfl
  | cons x l ih =>
    rw [lqInsert]
    split
    · rfl
    · rw [List.length_cons, ih, List.length_cons]

theorem lqSorted_length (y : W64) (l : List LqEntry) : (lqSorted y l).length = l.length := by
  have h : ∀ (l q : List LqEntry), (l.foldl (fun q e => lqInsert y e q) q).length = q.length + l.length := by
    intro l
    induction l with
    | nil => exact fun _ => rfl
    | cons e l ih => intro q; rw [List.foldl_cons, ih, lqInsert_length, List.length_cons]; omega
  exact (h l []).trans (Nat.zero_add _)

/-- A restored landing queue has at most its 48 records' entries (R61). -/
theorem lqOfPart_length (g : Hm) (flags : List Flags) (v : Nat) : (lqOfPart g flags v).length ≤ 48 := by
  rw [lqOfPart, lqSorted_length]
  refine (List.length_filterMap_le ..).trans_eq ?_
  rw [List.length_zipIdx, lqRecords, List.length_map, List.length_range]

end Restore

section Eret
variable {s : State} {c : Nat}

theorem State.core_reportFail (s : State) (c : Nat) (f : FaultInfo) :
    ((s.reportTask c f).failTask c).cores = s.cores ∧ ((s.reportTask c f).failTask c).cur = s.cur := by
  obtain ⟨hcores, hcur⟩ := (s.reportTask c f).failTask_cores c
  exact ⟨hcores.trans (s.reportTask_reports c f).cores, hcur.trans (s.reportTask_reports c f).cur⟩

/-- A context that is stale or refused leaves the core idle (R102). -/
theorem State.returnFromTrap_idle
    (h : s.staleContext c = true ∨ lqPartOk (s.read platformGen (s.core c).ctxArea corePartBytes) = false) :
    (s.returnFromTrap c).cur = s.cur ∧ ∃ k, (s.returnFromTrap c).core c = Core.idle k := by
  unfold State.returnFromTrap
  dsimp only
  split
  · exact ⟨rfl, _, State.core_updCore_same ..⟩
  · next hs =>
    have hbad := h.resolve_left hs
    rw [hbad]
    exact ⟨(s.core_reportFail c _).2, _, State.core_updCore_same ..⟩

/-- A current context is restored over what the delayed writes have left (R102). -/
theorem State.returnFromTrap_restored (hs : s.staleContext c = false)
    (hok : lqPartOk (s.read platformGen (s.core c).ctxArea corePartBytes) = true) :
    (s.returnFromTrap c).cur = s.cur ∧ ∃ k flags, (s.core c).Written k ∧ (s.returnFromTrap c).core c
      = { k.restoreCore k.ctxGen flags (s.read platformGen (s.core c).ctxArea corePartBytes) with
          lvl := false, uia := false, hq := [], nextVc := [], pc := asPc (s.core c).csr.pepc
          late := k.lateHeld, lateHeld := none } := by
  unfold State.returnFromTrap
  simp only [hs, hok, Bool.not_true, Bool.false_eq_true, if_false]
  exact ⟨(s.applyNext_alike (n := 0)).cur, _, _, s.applyNext_written c, State.core_updCore_same ..⟩

/-- Settles O12: the two outcomes of the return (State.returnFromTrap_idle, State.returnFromTrap_restored), read field by field. -/
theorem returnsFromPlatformLevel : Obligations.ReturnsFromPlatformLevel := by
  refine fun s p hm hg => ⟨fun hl => ?user, fun hl hpend hok hwaits hbad => ?plat⟩
  case user => exact (exec_eret ..).trans (slotMeaning_trap hg hm rfl (by simp [hl, trapV]))
  case plat =>
    refine ⟨_, (exec_eret ..).trans (slotMeaning_executes (.noOperands hg hm)
      (by simp [hl, hpend, hok, hwaits, hbad])), fun h => ?idle, fun hs hq => ?back⟩
    case idle =>
      obtain ⟨hcur, k, hk⟩ := State.returnFromTrap_idle h
      rw [State.k_jump, State.k, hcur, hk]
      exact ⟨rfl, rfl, rfl⟩
    case back =>
      obtain ⟨hcur, k, flags, ⟨hw⟩, hk⟩ := State.returnFromTrap_restored hs hq
      have hgen : s.k.ctxGen = k.ctxGen := by rw [hw]; rfl
      have hhan : k.handles = s.k.handles := by rw [hw]; rfl
      rw [State.k_jump, State.k, hcur, hk]
      refine ⟨rfl, rfl, rfl, ?_, rfl, rfl, rfl, lqOfPart_length .., hhan, fun n hn h0 => ?_⟩
      · rw [State.jump, State.k, hcur, hk]; rfl
      · rw [hgen, Core.scalar_main _ _ h0 hn]
        exact (congrArg (fun r : HReg => if r.hm = k.ctxGen then r.val else 0) (k.sregs_restoreRegs _ _ n h0 hn)).trans
          (savedReg_reads ..)

end Eret

end Sys2Proof.Machine
end

section
/-! PROOFS. What the operations leave unchanged (spec 03 R52, R58 and the rules of each family). -/

namespace Sys2Proof.Machine

/-! ### Operations that queue a result and no more -/

/-- The landing queues may differ, and the note that a slot rounded stochastically. -/
def State.AtMostQueues (s t : State) : Prop :=
  ∃ u, s.OnlyQueues u ∧ (t = u ∨ t = u.updK (fun k => { k with stoch := true }))

/-- Whatever state the outcome answers differs so. -/
def QueuesAtMost (s : State) (o : Out) : Prop := ∀ t, o = .next t → s.AtMostQueues t

section Queue
variable {s u : State} {p : BitVec 3} {reads : List Nat} {dest : Option Nat} {var : Bool} {v : State → Verdict}
  {e : State → State}

theorem State.OnlyQueues.atMost (h : s.OnlyQueues u) : s.AtMostQueues u := ⟨u, h, .inl rfl⟩

theorem State.OnlyQueues.atMost_noteStoch (h : s.OnlyQueues u) : s.AtMostQueues u.noteStoch := by
  unfold State.noteStoch
  split
  · exact ⟨u, h, .inr rfl⟩
  · exact h.atMost

/-- A slot of an issued bundle changes what its effect changes, or nothing. -/
theorem slotMeaning_queues (hm : s.cur.mode = .commit) (he : s.AtMostQueues (e s)) :
    QueuesAtMost s (slotMeaning p reads dest var v e s) := by
  intro t ht
  cases hg : s.guard p with
  | false =>
    rw [slotMeaning_false hg (by rw [hm]; decide)] at ht
    cases ht
    exact s.onlyQueues_refl.atMost
  | true =>
    rw [slotMeaning_commit hg hm] at ht
    cases ht
    exact he

theorem slotMeaning_putScalar_queues {lat n : State → Nat} {x : State → W64} (hm : s.cur.mode = .commit) :
    QueuesAtMost s (slotMeaning p reads dest var v (fun s => s.putScalar (lat s) (n s) (x s)) s) :=
  slotMeaning_queues hm (s.putScalar_onlyQueues ..).atMost

theorem slotMeaning_putPred_queues {n : State → Nat} {x : State → Bool} (hm : s.cur.mode = .commit) :
    QueuesAtMost s (slotMeaning p reads dest var v (fun s => s.putPred (n s) (x s)) s) :=
  slotMeaning_queues hm (s.putPred_onlyQueues ..).atMost

theorem aluOp_queues {lat : Nat} {f : W64 → W64 → W64} {d a b : BitVec 6} (hm : s.cur.mode = .commit) :
    QueuesAtMost s (aluOp lat f p d a b s) := slotMeaning_putScalar_queues hm

theorem aluOp1_queues {f : W64 → W64} {d a : BitVec 6} (hm : s.cur.mode = .commit) :
    QueuesAtMost s (aluOp1 f p d a s) := slotMeaning_putScalar_queues hm

theorem divOp_queues {f : W64 → W64 → W64} {d a b : BitVec 6} (hm : s.cur.mode = .commit) :
    QueuesAtMost s (divOp f p d a b s) := slotMeaning_putScalar_queues hm

theorem predOp_queues {f : Bool → Bool → Bool} {d a b : BitVec 3} (hm : s.cur.mode = .commit) :
    QueuesAtMost s (predOp f p d a b s) := slotMeaning_putPred_queues hm

theorem vecOp_queues {lat : Nat} {src : State → List Nat} {dst : State → Nat} {f : State → Image × Flags}
    (hm : s.cur.mode = .commit) : QueuesAtMost s (vecOp lat p reads src dst f s) :=
  slotMeaning_queues hm (s.putVec_onlyQueues ..).atMost

theorem vecRound_queues {lat : Nat} {src : State → List Nat} {dst : State → Nat} {mask : State → W32}
    {f : State → Image × Flags} (hm : s.cur.mode = .commit) : QueuesAtMost s (vecRound lat p src dst mask f s) :=
  slotMeaning_queues hm (s.putVec_onlyQueues ..).atMost_noteStoch

/-- Is it a major of the register, predicate, vector and set operations? -/
def resultMajor (m : Nat) : Bool :=
  (Nat.ble 1 m && Nat.ble m 0x0F) || (Nat.ble 0x17 m && Nat.ble m 0x28) || (Nat.ble 0x2A m && Nat.ble m 0x2D)
    || (Nat.ble 0x2F m && Nat.ble m 0x31) || (Nat.ble 0x3C m && Nat.ble m 0x3E)
/-- Is it one of the global accesses, fences and address waits? -/
def accessMajor (m : Nat) : Bool := Nat.ble 0x33 m && Nat.ble m 0x36

/-- They queue a result and no more. -/
theorem exec_queuesAtMost {i : Instr} (hi : resultMajor i.major = true) (hc : ∀ p a b, i ≠ .cmpt p a b)
    (hm : s.cur.mode = .commit) : QueuesAtMost s (exec i s) := by
  cases i with
  | add => rw [exec_add, execAdd]; exact aluOp_queues hm
  | sub => rw [exec_sub, execSub]; exact aluOp_queues hm
  | and => rw [exec_and, execAnd]; exact aluOp_queues hm
  | or => rw [exec_or, execOr]; exact aluOp_queues hm
  | xor => rw [exec_xor, execXor]; exact aluOp_queues hm
  | andn => rw [exec_andn, execAndn]; exact aluOp_queues hm
  | orn => rw [exec_orn, execOrn]; exact aluOp_queues hm
  | shl => rw [exec_shl, execShl]; exact aluOp_queues hm
  | shr => rw [exec_shr, execShr]; exact aluOp_queues hm
  | sar => rw [exec_sar, execSar]; exact aluOp_queues hm
  | min => rw [exec_min, execMin]; exact aluOp_queues hm
  | max => rw [exec_max, execMax]; exact aluOp_queues hm
  | minu => rw [exec_minu, execMinu]; exact aluOp_queues hm
  | maxu => rw [exec_maxu, execMaxu]; exact aluOp_queues hm
  | clz => rw [exec_clz, execClz]; exact aluOp1_queues hm
  | popc => rw [exec_popc, execPopc]; exact aluOp1_queues hm
  | bfx => rw [exec_bfx, execBfx]; exact aluOp_queues hm
  | bfi => rw [exec_bfi, execBfi]; exact slotMeaning_putScalar_queues hm
  | cmpt p a b => exact absurd rfl (hc p a b)
  | mul => rw [exec_mul, execMul]; exact aluOp_queues hm
  | mulh => rw [exec_mulh, execMulh]; exact aluOp_queues hm
  | mulhu => rw [exec_mulhu, execMulhu]; exact aluOp_queues hm
  | div => rw [exec_div, execDiv]; exact divOp_queues hm
  | divu => rw [exec_divu, execDivu]; exact divOp_queues hm
  | rem => rw [exec_rem, execRem]; exact divOp_queues hm
  | remu => rw [exec_remu, execRemu]; exact divOp_queues hm
  | cmp => rw [exec_cmp, execCmp]; exact slotMeaning_putPred_queues hm
  | sel => rw [exec_sel, execSel]; exact slotMeaning_putScalar_queues hm
  | pand => rw [exec_pand, execPand]; exact predOp_queues hm
  | por => rw [exec_por, execPor]; exact predOp_queues hm
  | pxor => rw [exec_pxor, execPxor]; exact predOp_queues hm
  | pget => rw [exec_pget, execPget]; exact slotMeaning_putScalar_queues hm
  | pset => rw [exec_pset, execPset]; exact slotMeaning_putPred_queues hm
  | addi => rw [exec_addi, execAddi, aluImm]; exact aluOp1_queues hm
  | andi => rw [exec_andi, execAndi, aluImm]; exact aluOp1_queues hm
  | ori => rw [exec_ori, execOri, aluImm]; exact aluOp1_queues hm
  | xori => rw [exec_xori, execXori, aluImm]; exact aluOp1_queues hm
  | shli => rw [exec_shli, execShli, aluImm]; exact aluOp1_queues hm
  | shri => rw [exec_shri, execShri, aluImm]; exact aluOp1_queues hm
  | sari => rw [exec_sari, execSari, aluImm]; exact aluOp1_queues hm
  | cmpi => rw [exec_cmpi, execCmpi]; exact slotMeaning_putPred_queues hm
  | cmpiu => rw [exec_cmpiu, execCmpiu]; exact slotMeaning_putPred_queues hm
  | movi => rw [exec_movi, execMovi]; exact slotMeaning_putScalar_queues hm
  | movhi => rw [exec_movhi, execMovhi]; exact slotMeaning_putScalar_queues hm
  | csrr => rw [exec_csrr, execCsrr]; exact slotMeaning_putScalar_queues hm
  | vadd => rw [exec_vadd, execVadd, arithOp]; exact vecRound_queues hm
  | vsub => rw [exec_vsub, execVsub, arithOp]; exact vecRound_queues hm
  | vmul => rw [exec_vmul, execVmul, arithOp]; exact vecRound_queues hm
  | vfma => rw [exec_vfma, execVfma, arithOp]; exact vecRound_queues hm
  | vfms => rw [exec_vfms, execVfms, arithOp]; exact vecRound_queues hm
  | vmax => rw [exec_vmax, execVmax, maxOp]; exact vecOp_queues hm
  | vmin => rw [exec_vmin, execVmin, maxOp]; exact vecOp_queues hm
  | vand => rw [exec_vand, execVand, bitOp]; exact vecOp_queues hm
  | vor => rw [exec_vor, execVor, bitOp]; exact vecOp_queues hm
  | vxor => rw [exec_vxor, execVxor, bitOp]; exact vecOp_queues hm
  | vshl => rw [exec_vshl, execVshl, shiftOp]; exact vecOp_queues hm
  | vshr => rw [exec_vshr, execVshr, shiftOp]; exact vecOp_queues hm
  | vsar => rw [exec_vsar, execVsar, shiftOp]; exact vecOp_queues hm
  | vcmp => rw [exec_vcmp, execVcmp]; exact vecOp_queues hm
  | vsel => rw [exec_vsel, execVsel]; exact vecOp_queues hm
  | vshf => rw [exec_vshf, execVshf]; exact vecOp_queues hm
  | vrotl => rw [exec_vrotl, execVrotl]; exact vecOp_queues hm
  | vmov => rw [exec_vmov, execVmov, unOp]; exact vecOp_queues hm
  | vabs => rw [exec_vabs, execVabs, unOp]; exact vecOp_queues hm
  | vneg => rw [exec_vneg, execVneg, unOp]; exact vecOp_queues hm
  | viota => rw [exec_viota, execViota]; exact vecOp_queues hm
  | vclr => rw [exec_vclr, execVclr]; exact vecOp_queues hm
  | vbc => rw [exec_vbc, execVbc]; exact vecOp_queues hm
  | vxt => rw [exec_vxt, execVxt]; exact slotMeaning_putScalar_queues hm
  | vins => rw [exec_vins, execVins]; exact slotMeaning_queues hm (s.putVec_onlyQueues ..).atMost
  | vredSum => rw [exec_vredSum, execVredSum, redOp]; exact vecRound_queues hm
  | vredMax => rw [exec_vredMax, execVredMax, redOp]; exact vecRound_queues hm
  | vredMin => rw [exec_vredMin, execVredMin, redOp]; exact vecRound_queues hm
  | vcvt => rw [exec_vcvt, execVcvt]; exact vecRound_queues hm
  | vexp2 => rw [exec_vexp2, execVexp2, sfOp]; exact vecRound_queues hm
  | vlog2 => rw [exec_vlog2, execVlog2, sfOp]; exact vecRound_queues hm
  | vrcp => rw [exec_vrcp, execVrcp, sfOp]; exact vecRound_queues hm
  | vrsq => rw [exec_vrsq, execVrsq, sfOp]; exact vecRound_queues hm
  | vsin => rw [exec_vsin, execVsin, sfOp]; exact vecRound_queues hm
  | vtanh => rw [exec_vtanh, execVtanh, sfOp]; exact vecRound_queues hm
  | vunpk => rw [exec_vunpk, execVunpk]; exact vecOp_queues hm
  | vpack => rw [exec_vpack, execVpack]; exact vecRound_queues hm
  | vbscl => rw [exec_vbscl, execVbscl]; exact vecRound_queues hm
  | sadd => rw [exec_sadd, execSadd, setOp3]; exact vecOp_queues hm
  | ssub => rw [exec_ssub, execSsub, setOp3]; exact vecOp_queues hm
  | smul => rw [exec_smul, execSmul, setOp3]; exact vecOp_queues hm
  | sdiv => rw [exec_sdiv, execSdiv, setOp3]; exact vecOp_queues hm
  | suni => rw [exec_suni, execSuni, setOp3]; exact vecOp_queues hm
  | sint => rw [exec_sint, execSint, setOp3]; exact vecOp_queues hm
  | scmp => rw [exec_scmp, execScmp, setOp3]; exact vecOp_queues hm
  | sneg => rw [exec_sneg, execSneg, setOp2]; exact vecOp_queues hm
  | sfrom => rw [exec_sfrom, execSfrom, setOp2]; exact vecOp_queues hm
  | sbnd => rw [exec_sbnd, execSbnd, setOp2]; exact vecOp_queues hm
  | sarc => rw [exec_sarc, execSarc, setOp2]; exact vecOp_queues hm
  | smsk => rw [exec_smsk, execSmsk, setOp2]; exact vecOp_queues hm
  | sred => rw [exec_sred, execSred, setOp2]; exact vecOp_queues hm
  | vdot => rw [exec_vdot, execVdot]; exact vecOp_queues hm
  | vabd => rw [exec_vabd, execVabd]; exact vecOp_queues hm
  | vclmp => rw [exec_vclmp, execVclmp]; exact vecOp_queues hm
  | vcvth => rw [exec_vcvth, execVcvth]; exact vecOp_queues hm
  | vscl => rw [exec_vscl, execVscl]; exact vecOp_queues hm
  | _ => exact absurd hi Bool.false_ne_true

end Queue

/-! ### Global accesses, fences and address waits at their issue -/

/-- The architectural registers and objects of a core are as they were. -/
structure Core.SameArch (k k' : Core) : Prop where
  sregs : k'.sregs = k.sregs
  shadow : k'.shadow = k.shadow
  preds : k'.preds = k.preds
  csr : k'.csr = k.csr
  rows : k'.rows = k.rows
  spm : k'.spm = k.spm
  handles : k'.handles = k.handles
  mparams : k'.mparams = k.mparams
  barriers : k'.barriers = k.barriers
  pc : k'.pc = k.pc
  lvl : k'.lvl = k.lvl

/-- So are those of the core at hand, memory and every other core. -/
structure State.KeepsArch (s t : State) : Prop where
  cur : t.cur = s.cur
  mem : t.mem = s.mem
  hallmarks : t.hallmarks = s.hallmarks
  k : s.k.SameArch t.k
  others : ∀ c, c ≠ s.cur.core → t.core c = s.core c

section Arch
variable {s t u : State} {k k' k'' : Core} {p : BitVec 3} {reads : List Nat} {dest : Option Nat} {var : Bool}
  {v : State → Verdict} {e : State → State}

theorem Core.SameArch.trans (h : k.SameArch k') (h' : k'.SameArch k'') : k.SameArch k'' :=
  ⟨h'.sregs.trans h.sregs, h'.shadow.trans h.shadow, h'.preds.trans h.preds, h'.csr.trans h.csr, h'.rows.trans h.rows,
    h'.spm.trans h.spm, h'.handles.trans h.handles, h'.mparams.trans h.mparams, h'.barriers.trans h.barriers,
    h'.pc.trans h.pc, h'.lvl.trans h.lvl⟩

theorem Core.SameArch.refl (k : Core) : k.SameArch k := ⟨rfl, rfl, rfl, rfl, rfl, rfl, rfl, rfl, rfl, rfl, rfl⟩

/-- A change outside the cores and memory. -/
theorem State.KeepsArch.of_cores (hcur : t.cur = s.cur) (hmem : t.mem = s.mem) (hhm : t.hallmarks = s.hallmarks)
    (hcores : t.cores = s.cores) : s.KeepsArch t := by
  have hcore : ∀ c, t.core c = s.core c := fun c => by rw [State.core, hcores, State.core]
  have hk : t.k = s.k := by unfold State.k; rw [hcur, hcore]
  exact ⟨hcur, hmem, hhm, hk ▸ .refl _, fun c _ => hcore c⟩

theorem State.KeepsArch.refl (s : State) : s.KeepsArch s := .of_cores rfl rfl rfl rfl

theorem State.KeepsArch.trans (h : s.KeepsArch t) (h' : t.KeepsArch u) : s.KeepsArch u :=
  ⟨h'.cur.trans h.cur, h'.mem.trans h.mem, h'.hallmarks.trans h.hallmarks, h.k.trans h'.k,
    fun c hc => (h'.others c (by rw [h.cur]; exact hc)).trans (h.others c hc)⟩

theorem State.KeepsArch.setCore (h : s.k.SameArch k) : s.KeepsArch (s.setCore s.cur.core k) := by
  refine ⟨rfl, rfl, rfl, ?_, fun c hc => ?_⟩
  · have hk : (s.setCore s.cur.core k).k = k := State.core_setCore_same ..
    rw [hk]
    exact h
  · rw [State.core_setCore, if_neg hc]

theorem State.KeepsArch.updK {f : Core → Core} (h : s.k.SameArch (f s.k)) : s.KeepsArch (s.updK f) := .setCore h

theorem State.countHint_keepsArch (s : State) (d : Nat) (t : Option Nat) (cp hint : Nat) :
    s.KeepsArch (s.countHint d t cp hint) := by
  unfold State.countHint
  split
  · exact .refl s
  · split
    · exact .refl s
    · exact .of_cores rfl rfl rfl rfl

theorem State.putAcc_keepsArch (s : State) (a : Acc) : s.KeepsArch (s.putAcc a) :=
  (State.KeepsArch.updK ⟨rfl, rfl, rfl, rfl, rfl, rfl, rfl, rfl, rfl, rfl, rfl⟩).trans
    ((State.countHint_keepsArch ..).trans (.of_cores rfl rfl rfl rfl))

theorem State.awaitReg_keepsArch (s : State) (n : Nat) (counted : Bool) : s.KeepsArch (s.awaitReg n counted) :=
  (State.KeepsArch.updK ⟨rfl, rfl, rfl, rfl, rfl, rfl, rfl, rfl, rfl, rfl, rfl⟩).trans
    (.updK ⟨rfl, rfl, rfl, rfl, rfl, rfl, rfl, rfl, rfl, rfl, rfl⟩)

theorem State.settle_keepsArch (s : State) : s.KeepsArch (s.settle s.cur.core) := by
  unfold State.settle
  dsimp only
  split
  · exact .refl s
  · exact .setCore ⟨rfl, rfl, rfl, rfl, rfl, rfl, rfl, rfl, rfl, rfl, rfl⟩

theorem State.KeepsArch.settle (h : s.KeepsArch t) : s.KeepsArch (t.settle s.cur.core) := by
  have h' := t.settle_keepsArch
  rw [h.cur] at h'
  exact h.trans h'

theorem State.OnlyQueues.keepsArch (h : s.OnlyQueues t) : s.KeepsArch t := by
  obtain rfl | ⟨lq, hq, rfl⟩ := h
  · exact .refl _
  · exact .updK ⟨rfl, rfl, rfl, rfl, rfl, rfl, rfl, rfl, rfl, rfl, rfl⟩

theorem State.afterRead_keepsArch (s : State) (t : Target) (g : Hm) (ws : List Nat) : s.KeepsArch (s.afterRead t g ws) := by
  unfold State.afterRead State.rotate
  split
  · split
    · split
      · exact .refl s
      · exact .of_cores rfl rfl rfl rfl
    · exact .refl s
  · exact .refl s

theorem Core.l0Store_sameArch (k : Core) (t : Target) (n w : Nat) (x : W64) : k.SameArch (k.l0Store t n w x) := by
  unfold Core.l0Store
  dsimp only
  split
  · exact .refl k
  · exact ⟨rfl, rfl, rfl, rfl, rfl, rfl, rfl, rfl, rfl, rfl, rfl⟩

/-- A store takes its place in L0 and is counted. -/
theorem State.countStore_keepsArch (s : State) (t : Target) (n w : Nat) (x : W64) :
    s.KeepsArch (s.updK fun k => { (k.l0Store t n w x) with nst := k.nst + 1 }) := by
  refine .updK ?_
  obtain ⟨h1, h2, h3, h4, h5, h6, h7, h8, h9, h10, h11⟩ := Core.l0Store_sameArch s.k t n w x
  exact ⟨h1, h2, h3, h4, h5, h6, h7, h8, h9, h10, h11⟩

/-- Whatever state the outcome answers keeps them. -/
def OutKeepsArch (s : State) (o : Out) : Prop := ∀ t, o = .next t → s.KeepsArch t

theorem slotMeaning_keepsArch (hm : s.cur.mode = .commit) (he : s.KeepsArch (e s)) :
    OutKeepsArch s (slotMeaning p reads dest var v e s) := by
  intro t ht
  cases hg : s.guard p with
  | false =>
    rw [slotMeaning_false hg (by rw [hm]; decide)] at ht
    cases ht
    exact .refl s
  | true =>
    rw [slotMeaning_commit hg hm] at ht
    cases ht
    exact he

theorem loadOp_keepsArch {strong acq : Bool} {scope : Nat} {d a : BitVec 6} {o : BitVec 5} {z : BitVec 2}
    (hm : s.cur.mode = .commit) : OutKeepsArch s (loadOp strong acq scope p d a o z s) := by
  unfold loadOp
  exact slotMeaning_keepsArch hm ((s.putAcc_keepsArch _).trans (State.awaitReg_keepsArch ..))

theorem atomicOp_keepsArch {op : Nat} {d a b : BitVec 6} {c : BitVec 2} (hm : s.cur.mode = .commit) :
    OutKeepsArch s (atomicOp op p d a b c s) := by
  unfold atomicOp
  exact slotMeaning_keepsArch hm ((s.putAcc_keepsArch _).trans (State.awaitReg_keepsArch ..))

theorem storeOp_keepsArch {strong rel : Bool} {scope : Nat} {d a : BitVec 6} {o : BitVec 5} {z : BitVec 2}
    (hm : s.cur.mode = .commit) : OutKeepsArch s (storeOp strong rel scope p d a o z s) := by
  unfold storeOp
  refine slotMeaning_keepsArch hm ?_
  dsimp only
  exact State.KeepsArch.settle ((s.putAcc_keepsArch _).trans (State.countStore_keepsArch ..))

theorem execPref_keepsArch {a : BitVec 6} {o : BitVec 5} (hm : s.cur.mode = .commit) :
    OutKeepsArch s (execPref p a o s) := by
  unfold execPref
  refine slotMeaning_keepsArch hm ?_
  dsimp only
  split
  · exact .refl s
  · split
    · exact .refl s
    · split
      · exact .updK ⟨rfl, rfl, rfl, rfl, rfl, rfl, rfl, rfl, rfl, rfl, rfl⟩
      · refine State.KeepsArch.trans ?_ (State.countHint_keepsArch ..)
        exact .updK ⟨rfl, rfl, rfl, rfl, rfl, rfl, rfl, rfl, rfl, rfl, rfl⟩

theorem fenceOp_keepsArch {all : Bool} {c : BitVec 2} (hm : s.cur.mode = .commit) : OutKeepsArch s (fenceOp all p c s) := by
  unfold fenceOp
  exact slotMeaning_keepsArch hm (s.putAcc_keepsArch _).settle

theorem waitaOp_keepsArch {eq : Bool} {d a b : BitVec 6} {c : BitVec 2} (hm : s.cur.mode = .commit) :
    OutKeepsArch s (waitaOp eq p d a b c s) := by
  unfold waitaOp
  refine slotMeaning_keepsArch hm ?_
  dsimp only
  split
  · exact .refl s
  · refine State.KeepsArch.settle ?_
    refine ((s.putScalar_onlyQueues ..).keepsArch.trans ((State.afterRead_keepsArch ..).trans
      (State.putAcc_keepsArch ..))).trans (.updK ?_)
    exact ⟨rfl, rfl, rfl, rfl, rfl, rfl, rfl, rfl, rfl, rfl, rfl⟩

/-- The global accesses, fences and address waits keep the architectural state at their issue. -/
theorem exec_keepsArch {i : Instr} (hi : accessMajor i.major = true) (hm : s.cur.mode = .commit) :
    OutKeepsArch s (exec i s) := by
  cases i with
  | ld => rw [exec_ld, execLd]; exact loadOp_keepsArch hm
  | lds => rw [exec_lds, execLds]; exact loadOp_keepsArch hm
  | lda => rw [exec_lda, execLda]; exact loadOp_keepsArch hm
  | pref => rw [exec_pref]; exact execPref_keepsArch hm
  | st => rw [exec_st, execSt]; exact storeOp_keepsArch hm
  | sts => rw [exec_sts, execSts]; exact storeOp_keepsArch hm
  | strl => rw [exec_strl, execStrl]; exact storeOp_keepsArch hm
  | amoAdd => rw [exec_amoAdd, execAmoAdd]; exact atomicOp_keepsArch hm
  | amoAnd => rw [exec_amoAnd, execAmoAnd]; exact atomicOp_keepsArch hm
  | amoOr => rw [exec_amoOr, execAmoOr]; exact atomicOp_keepsArch hm
  | amoXor => rw [exec_amoXor, execAmoXor]; exact atomicOp_keepsArch hm
  | amoMin => rw [exec_amoMin, execAmoMin]; exact atomicOp_keepsArch hm
  | amoMax => rw [exec_amoMax, execAmoMax]; exact atomicOp_keepsArch hm
  | amoSwap => rw [exec_amoSwap, execAmoSwap]; exact atomicOp_keepsArch hm
  | cas => rw [exec_cas, execCas]; exact atomicOp_keepsArch hm
  | fence => rw [exec_fence, execFence]; exact fenceOp_keepsArch hm
  | fenceAll => rw [exec_fenceAll, execFenceAll]; exact fenceOp_keepsArch hm
  | waitaNe => rw [exec_waitaNe, execWaitaNe]; exact waitaOp_keepsArch hm
  | waitaEq => rw [exec_waitaEq, execWaitaEq]; exact waitaOp_keepsArch hm
  | _ => exact absurd hi Bool.false_ne_true

end Arch

/-- Settles O59: exec_queuesAtMost and exec_keepsArch, said of every operation of their majors. -/
theorem operationsLeaveTheRest : Obligations.OperationsLeaveTheRest := by
  intro i s t hm ht
  refine ⟨fun hi hc => exec_queuesAtMost ?result hc hm t ht, fun hi => ?_⟩
  case result =>
    refine (List.all_eq_true (p := resultMajor)).1 ?_ _ hi
    decide
  have haccess : ∀ m ∈ [0x33, 0x34, 0x35, 0x36], accessMajor m = true := by decide
  have h := exec_keepsArch (haccess _ hi) hm t ht
  exact ⟨h.mem, h.hallmarks, h.k.sregs, h.k.shadow, h.k.preds, h.k.csr, h.k.rows, h.k.spm, h.k.handles, h.k.mparams, h.k.barriers,
    h.k.pc, h.k.lvl, h.others⟩

end Sys2Proof.Machine
end

section
/-! PROOFS. A step runs what it decodes (spec 02, 03, 11, 16). -/

namespace Sys2Proof.Machine

section Fetch
variable {s : State} {c : Nat} {b : Bundle} {t : Target}

/-- The bundle at the pc, where its fetch and its words earn no trap (R88, R100). -/
theorem State.fetchBundle_ok (ht : s.translateCore c ((s.core c).pc.setWidth 64) 16 .fetch = .ok t) (hb : s.badAt t.dla = false)
    (hw : s.wayLost (dieOf c) t = false)
    (hd : decodeBundle (s.core c).igpor (s.core c).ui (wordAt (s.read t.gen t.dla 16) 0) (wordAt (s.read t.gen t.dla 16) 1)
      (wordAt (s.read t.gen t.dla 16) 2) (wordAt (s.read t.gen t.dla 16) 3) = .ok b) : s.fetchBundle c = .ok b := by
  unfold State.fetchBundle
  simp only [ht, hb, hw, hd, Bool.and_false, Bool.false_eq_true, if_false]

/-- A bundle that the evaluation lets go is issued (R100). -/
theorem State.runBundle_issues (hm : s.codeMiss c = none) (hf : s.fetchBundle c = .ok b)
    (he : evaluate (s.probeSlots c b.kind 0 b.slots) = .issue) (hc : s.crowded c b = false) :
    s.runBundle c = s.issueBundle c b := by
  unfold State.runBundle
  simp only [hm, hf, he, hc, Bool.and_false, Bool.false_eq_true, if_false]

/-- A running core with no interrupt to take and no switch to follow runs its bundle. -/
theorem State.act_runs (hs : (s.core c).stopping = none) (ht : s.turn c = .run) (hu : (s.core c).uiReady = false) :
    s.act c = s.runBundle c := by
  unfold State.act
  simp only [hs, ht, hu, Option.any_none, Bool.false_eq_true, if_false]

/-- With a core listed, or nothing, that core or core 0 issues. -/
theorem step_issues {rest : List Choice} (hc : c < 512)
    (h : s.agenda = .issue c :: rest ∨ (s.agenda = [] ∧ rest = [] ∧ c = 0)) :
    step s = { s with agenda := rest }.issue c := by
  obtain h | ⟨h, rfl, rfl⟩ := h
  · show s.next = _
    unfold State.next
    simp only [h, hc, if_true]
  · show s.next = _
    unfold State.next
    simp only [h]
    rw [← h]

end Fetch

/-- Four slots, of which the last three are NOP, take effect as the first does. -/
theorem commitSlots_single {i : Instr} {c : Nat} {s u : State} (h : exec i (s.atSlot c 0 .none 0 .commit) = .next u) :
    commitSlots c .none 0 [⟨i, 0⟩, ⟨.nop, 0⟩, ⟨.nop, 0⟩, ⟨.nop, 0⟩] s = .next (u.atSlot c 3 .none 0 .commit) := by
  rw [commitSlots]
  simp only [h]
  rfl

/-- The state in which the slots of a bundle take effect: the values that satisfy its WAITAs are fixed (R58). -/
def State.issueStart (s : State) (c : Nat) (b : Bundle) : State :=
  { s.updCore c (fun k => { k with waitaHit := s.waitaHits c (s.waitas c b.kind 0 b.slots) }) with
    cur := { s.cur with redirect := none, cut := none } }

/-- What follows the slots of a bundle: SHAND's cut, the marks of a split, and the bundle's end. -/
def State.issueEnd (s : State) (c : Nat) (split : Bool) (was : Core) : State :=
  (if split then s.endCut.updCore c Core.markSplit else s.endCut).endBundle c was

/-- A function applied once, and once more for each of two conditions. -/
theorem iterate_twice_more {α : Type} (f : α → α) (x : α) (p q : Bool) :
    (if q then f (if p then f (f x) else f x) else (if p then f (f x) else f x))
      = f^[1 + (if p then 1 else 0) + (if q then 1 else 0)] x := by
  cases p <;> cases q <;> rfl

/-- A bundle whose slots take effect issues, in a local cycle, another where it is split, and another for a bank conflict. -/
theorem State.issueBundle_next {s t : State} {c : Nat} {b : Bundle} (hstop : (s.core c).stopping = none)
    (ht : commitSlots c b.kind 0 b.slots (s.issueStart c b) = .next t) :
    s.issueBundle c b = .next ((fun v => v.spend c)^[1 + (if needsSplit (s.core c).ismap b then 1 else 0)
      + (if bankConflict (s.linesUsed c b.kind 0 b.slots) then 1 else 0)]
        (t.issueEnd c (needsSplit (s.core c).ismap b) (s.core c))) := by
  rw [← iterate_twice_more]
  unfold State.issueBundle
  unfold State.issueStart at ht
  simp only [ht, hstop, Option.isSome_none, Bool.false_eq_true, if_false]
  rfl

section Step
variable {s : State} {c : Nat} {rest : List Choice}

/-- The engine's next micro-word runs as what it decodes to (R251). -/
theorem State.engineStep_runs {x : Call} {l : List Call} {i : Instr}
    (hthr : (s.die (dieOf c)).throttled (quadrantOf c) = false) (hcalls : (s.core c).calls = x :: l)
    (hpc : x.pc < x.start + x.len) (hdec : decodeMicro ((s.core c).microWord x.gen x.pc) = some i) :
    s.engineStep c = exec i { s with cur := { s.cur with core := c } } := by
  unfold State.engineStep
  simp only [hthr, hcalls, Nat.not_le.2 hpc, hdec, Bool.false_eq_true, if_false]

/-- A queue's next packet runs as what it decodes to (R364). -/
theorem State.packetStep_runs {d q : Nat} {w : BitVec 256} {t : State} {i : Instr} (hnext : s.nextPacket d q = .packet w t)
    (hdec : decodePacket w = .ok i) : s.packetStep d q = exec i { t with cur := { t.cur with die := d, queue := q } } := by
  unfold State.packetStep
  simp only [hnext, hdec]

theorem step_engine (hc : c < 512) (h : s.agenda = .engine c :: rest) :
    step s = State.engineStep { s with agenda := rest } c := by
  show s.next = _
  unfold State.next
  simp only [h, hc, if_true]

theorem step_packet {d q : Nat} (hd : d < 8) (hq : q < 128) (h : s.agenda = .packet d q :: rest) :
    step s = State.packetStep { s with agenda := rest } d q := by
  show s.next = _
  unfold State.next
  simp only [h, hd, hq, decide_true, Bool.and_self, if_true]

theorem step_event {i : Instr} (h : s.agenda = .event i :: rest) (hev : isEvent i = true) (hwf : i.wf = true) :
    step s = exec i { s with agenda := rest } := by
  show s.next = _
  unfold State.next
  simp only [h, State.eventStep, hev, hwf, Bool.and_self, if_true]

end Step

/-- Settles O54: each kind of choice is followed to what it runs. -/
theorem stepRunsTheDecoded : Obligations.StepRunsTheDecoded := by
  intro s c rest hc
  refine ⟨?issue, ?bundle, ?engine, ?packet, ?event⟩
  case issue =>
    intro b t hag hturn hui hstop hmiss htr hbad hway hdec heval hcrowd
    rw [step_issues hc hag, State.issue, State.act_runs hstop hturn hui]
    exact State.runBundle_issues hmiss (State.fetchBundle_ok htr hbad hway hdec) heval hcrowd
  case bundle =>
    intro i u b hits s0 split end_ spent hstop hu
    exact State.issueBundle_next (b := b) hstop (commitSlots_single hu)
  case engine =>
    intro x l i hag hthr hcalls hpc hdec
    rw [step_engine hc hag]
    exact State.engineStep_runs hthr hcalls hpc hdec
  case packet =>
    intro d q w i t hd hq hag hnext hdec
    rw [step_packet hd hq hag]
    exact State.packetStep_runs hnext hdec
  case event => exact fun i hag hev hwf => step_event hag hev hwf

end Sys2Proof.Machine
end

section
/-! PROOFS. The words of the slot operations (spec 02 R19, R20, R33): where the fields of each stand, and the round trip. -/

namespace Sys2Proof

/-! ### Words as fields -/

/-- A field of a slot word: its lowest bit, its width and its value. -/
structure BitField where
  lo : Nat
  n : Nat
  v : BitVec n

/-- The word holds every field. -/
def Fields (w : W32) : List BitField → Prop
  | [] => True
  | f :: t => w.extractLsb' f.lo f.n = f.v ∧ Fields w t

/-- The word that the fields make up, as a number. -/
def fieldSum : List BitField → Nat
  | [] => 0
  | f :: t => f.v.toNat * 2 ^ f.lo + fieldSum t

/-- The fields fill bits lo to 31, lowest first. -/
def tiles : Nat → List BitField → Bool
  | lo, [] => Nat.beq lo 32
  | lo, f :: t => Nat.beq f.lo lo && tiles (lo + f.n) t

/-- Fields from bit lo on make up a multiple of 2^lo. -/
theorem fieldSum_eq_mul {L : List BitField} : ∀ {lo : Nat}, tiles lo L = true →
    ∃ q, fieldSum L = q * 2 ^ lo ∧ (lo ≤ 32 → q < 2 ^ (32 - lo)) ∧ lo ≤ 32 := by
  induction L with
  | nil =>
    intro lo h
    have hlo : lo = 32 := Nat.eq_of_beq_eq_true h
    exact ⟨0, by simp [fieldSum], by simp [hlo], hlo.le⟩
  | cons f t ih =>
    intro lo h
    obtain ⟨hf, ht⟩ := Bool.and_eq_true_iff.1 h
    have hf' : f.lo = lo := Nat.eq_of_beq_eq_true hf
    obtain ⟨q, hq, hlt, hle⟩ := ih ht
    have hpow : 2 ^ (32 - lo) = 2 ^ f.n * 2 ^ (32 - (lo + f.n)) := by
      rw [← pow_add]; congr 1; omega
    refine ⟨f.v.toNat + q * 2 ^ f.n, ?_, fun _ => ?_, by omega⟩
    · rw [fieldSum, hq, hf', pow_add]; ring
    · rw [hpow]
      calc f.v.toNat + q * 2 ^ f.n < 2 ^ f.n + q * 2 ^ f.n := by have := f.v.isLt; omega
        _ = 2 ^ f.n * (q + 1) := by ring
        _ ≤ 2 ^ f.n * 2 ^ (32 - (lo + f.n)) := Nat.mul_le_mul_left _ (hlt hle)

/-- A number whose bits from lo on are the fields' makes up a word that holds them. -/
theorem fields_of_sum {L : List BitField} : ∀ {lo n : Nat}, tiles lo L = true → n / 2 ^ lo * 2 ^ lo = fieldSum L →
    Fields (BitVec.ofNat 32 n) L := by
  induction L with
  | nil => exact fun _ _ => trivial
  | cons f t ih =>
    intro lo n h hn
    obtain ⟨hf, ht⟩ := Bool.and_eq_true_iff.1 h
    have hf' : f.lo = lo := Nat.eq_of_beq_eq_true hf
    obtain ⟨q, hq, -, hle⟩ := fieldSum_eq_mul ht
    have hdiv : n / 2 ^ lo = f.v.toNat + q * 2 ^ f.n := by
      refine Nat.eq_of_mul_eq_mul_right (Nat.two_pow_pos lo) ?_
      rw [hn, fieldSum, hq, hf', pow_add]; ring
    have hlow : n / 2 ^ lo % 2 ^ f.n = f.v.toNat := by
      rw [hdiv, Nat.add_mul_mod_self_right, Nat.mod_eq_of_lt f.v.isLt]
    have hhigh : n / 2 ^ (lo + f.n) = q := by
      rw [pow_add, ← Nat.div_div_eq_div_mul, hdiv, Nat.add_mul_div_right _ _ (Nat.two_pow_pos _),
        Nat.div_eq_of_lt f.v.isLt, Nat.zero_add]
    refine ⟨BitVec.eq_of_toNat_eq ?_, ih ht (by rw [hhigh, hq])⟩
    rw [BitVec.extractLsb'_toNat, BitVec.toNat_ofNat, Nat.shiftRight_eq_div_pow, hf', ← hlow]
    refine Nat.eq_of_testBit_eq fun i => ?_
    simp only [Nat.testBit_mod_two_pow, Nat.testBit_div_two_pow]
    by_cases hi : i < f.n
    · have h32 : i + lo < 32 := by omega
      simp [hi, h32]
    · simp [hi]

/-- A word that holds fields from bit lo on has them as its bits from there on. -/
theorem sum_of_fields {L : List BitField} {w : W32} : ∀ {lo : Nat}, tiles lo L = true → Fields w L →
    w.toNat / 2 ^ lo * 2 ^ lo = fieldSum L := by
  induction L with
  | nil =>
    intro lo h _
    have hlo : lo = 32 := Nat.eq_of_beq_eq_true h
    rw [hlo, Nat.div_eq_of_lt w.isLt]; rfl
  | cons f t ih =>
    intro lo h hw
    obtain ⟨hf, ht⟩ := Bool.and_eq_true_iff.1 h
    have hf' : f.lo = lo := Nat.eq_of_beq_eq_true hf
    obtain ⟨hv, hw⟩ := hw
    have hv' : w.toNat / 2 ^ lo % 2 ^ f.n = f.v.toNat := by
      rw [← hv, BitVec.extractLsb'_toNat, Nat.shiftRight_eq_div_pow, hf']
    rw [fieldSum, ← ih ht hw, ← hv', hf', pow_add, ← Nat.div_div_eq_div_mul]
    have hsplit := Nat.mod_add_div (w.toNat / 2 ^ lo) (2 ^ f.n)
    calc w.toNat / 2 ^ lo * 2 ^ lo
        = (w.toNat / 2 ^ lo % 2 ^ f.n + 2 ^ f.n * (w.toNat / 2 ^ lo / 2 ^ f.n)) * 2 ^ lo := by rw [hsplit]
      _ = _ := by ring

/-! ### The fields of each operation -/

/-- The fields of a slot operation's word, lowest first (R20, R28, R33). -/
def layout : Instr → List BitField
  | .nop => [⟨0, 32, 0#32⟩]
  | .add p d a b => [⟨0, 5, 0#5⟩, ⟨5, 6, b⟩, ⟨11, 6, a⟩, ⟨17, 6, d⟩, ⟨23, 3, p⟩, ⟨26, 6, 0x01#6⟩]
  | .sub p d a b => [⟨0, 5, 1#5⟩, ⟨5, 6, b⟩, ⟨11, 6, a⟩, ⟨17, 6, d⟩, ⟨23, 3, p⟩, ⟨26, 6, 0x01#6⟩]
  | .and p d a b => [⟨0, 5, 2#5⟩, ⟨5, 6, b⟩, ⟨11, 6, a⟩, ⟨17, 6, d⟩, ⟨23, 3, p⟩, ⟨26, 6, 0x01#6⟩]
  | .or p d a b => [⟨0, 5, 3#5⟩, ⟨5, 6, b⟩, ⟨11, 6, a⟩, ⟨17, 6, d⟩, ⟨23, 3, p⟩, ⟨26, 6, 0x01#6⟩]
  | .xor p d a b => [⟨0, 5, 4#5⟩, ⟨5, 6, b⟩, ⟨11, 6, a⟩, ⟨17, 6, d⟩, ⟨23, 3, p⟩, ⟨26, 6, 0x01#6⟩]
  | .andn p d a b => [⟨0, 5, 5#5⟩, ⟨5, 6, b⟩, ⟨11, 6, a⟩, ⟨17, 6, d⟩, ⟨23, 3, p⟩, ⟨26, 6, 0x01#6⟩]
  | .orn p d a b => [⟨0, 5, 6#5⟩, ⟨5, 6, b⟩, ⟨11, 6, a⟩, ⟨17, 6, d⟩, ⟨23, 3, p⟩, ⟨26, 6, 0x01#6⟩]
  | .shl p d a b => [⟨0, 5, 7#5⟩, ⟨5, 6, b⟩, ⟨11, 6, a⟩, ⟨17, 6, d⟩, ⟨23, 3, p⟩, ⟨26, 6, 0x01#6⟩]
  | .shr p d a b => [⟨0, 5, 8#5⟩, ⟨5, 6, b⟩, ⟨11, 6, a⟩, ⟨17, 6, d⟩, ⟨23, 3, p⟩, ⟨26, 6, 0x01#6⟩]
  | .sar p d a b => [⟨0, 5, 9#5⟩, ⟨5, 6, b⟩, ⟨11, 6, a⟩, ⟨17, 6, d⟩, ⟨23, 3, p⟩, ⟨26, 6, 0x01#6⟩]
  | .min p d a b => [⟨0, 5, 10#5⟩, ⟨5, 6, b⟩, ⟨11, 6, a⟩, ⟨17, 6, d⟩, ⟨23, 3, p⟩, ⟨26, 6, 0x01#6⟩]
  | .max p d a b => [⟨0, 5, 11#5⟩, ⟨5, 6, b⟩, ⟨11, 6, a⟩, ⟨17, 6, d⟩, ⟨23, 3, p⟩, ⟨26, 6, 0x01#6⟩]
  | .minu p d a b => [⟨0, 5, 12#5⟩, ⟨5, 6, b⟩, ⟨11, 6, a⟩, ⟨17, 6, d⟩, ⟨23, 3, p⟩, ⟨26, 6, 0x01#6⟩]
  | .maxu p d a b => [⟨0, 5, 13#5⟩, ⟨5, 6, b⟩, ⟨11, 6, a⟩, ⟨17, 6, d⟩, ⟨23, 3, p⟩, ⟨26, 6, 0x01#6⟩]
  | .clz p d a => [⟨0, 5, 14#5⟩, ⟨5, 6, 0#6⟩, ⟨11, 6, a⟩, ⟨17, 6, d⟩, ⟨23, 3, p⟩, ⟨26, 6, 0x01#6⟩]
  | .popc p d a => [⟨0, 5, 15#5⟩, ⟨5, 6, 0#6⟩, ⟨11, 6, a⟩, ⟨17, 6, d⟩, ⟨23, 3, p⟩, ⟨26, 6, 0x01#6⟩]
  | .bfx p d a b => [⟨0, 5, 16#5⟩, ⟨5, 6, b⟩, ⟨11, 6, a⟩, ⟨17, 6, d⟩, ⟨23, 3, p⟩, ⟨26, 6, 0x01#6⟩]
  | .bfi p d a b => [⟨0, 5, 17#5⟩, ⟨5, 6, b⟩, ⟨11, 6, a⟩, ⟨17, 6, d⟩, ⟨23, 3, p⟩, ⟨26, 6, 0x01#6⟩]
  | .cmpt p a b => [⟨0, 5, 18#5⟩, ⟨5, 6, b⟩, ⟨11, 6, a⟩, ⟨17, 6, 0#6⟩, ⟨23, 3, p⟩, ⟨26, 6, 0x01#6⟩]
  | .mul p d a b => [⟨0, 5, 0#5⟩, ⟨5, 6, b⟩, ⟨11, 6, a⟩, ⟨17, 6, d⟩, ⟨23, 3, p⟩, ⟨26, 6, 0x02#6⟩]
  | .mulh p d a b => [⟨0, 5, 1#5⟩, ⟨5, 6, b⟩, ⟨11, 6, a⟩, ⟨17, 6, d⟩, ⟨23, 3, p⟩, ⟨26, 6, 0x02#6⟩]
  | .mulhu p d a b => [⟨0, 5, 2#5⟩, ⟨5, 6, b⟩, ⟨11, 6, a⟩, ⟨17, 6, d⟩, ⟨23, 3, p⟩, ⟨26, 6, 0x02#6⟩]
  | .div p d a b => [⟨0, 5, 3#5⟩, ⟨5, 6, b⟩, ⟨11, 6, a⟩, ⟨17, 6, d⟩, ⟨23, 3, p⟩, ⟨26, 6, 0x02#6⟩]
  | .divu p d a b => [⟨0, 5, 4#5⟩, ⟨5, 6, b⟩, ⟨11, 6, a⟩, ⟨17, 6, d⟩, ⟨23, 3, p⟩, ⟨26, 6, 0x02#6⟩]
  | .rem p d a b => [⟨0, 5, 5#5⟩, ⟨5, 6, b⟩, ⟨11, 6, a⟩, ⟨17, 6, d⟩, ⟨23, 3, p⟩, ⟨26, 6, 0x02#6⟩]
  | .remu p d a b => [⟨0, 5, 6#5⟩, ⟨5, 6, b⟩, ⟨11, 6, a⟩, ⟨17, 6, d⟩, ⟨23, 3, p⟩, ⟨26, 6, 0x02#6⟩]
  | .cmp p d a b c => [⟨0, 5, c⟩, ⟨5, 6, b⟩, ⟨11, 6, a⟩, ⟨17, 3, d⟩, ⟨20, 3, 0#3⟩, ⟨23, 3, p⟩, ⟨26, 6, 0x03#6⟩]
  | .sel p d a b n => [⟨0, 3, n⟩, ⟨3, 2, 0#2⟩, ⟨5, 6, b⟩, ⟨11, 6, a⟩, ⟨17, 6, d⟩, ⟨23, 3, p⟩, ⟨26, 6, 0x04#6⟩]
  | .pand p d a b => [⟨0, 5, 0#5⟩, ⟨5, 3, b⟩, ⟨8, 3, 0#3⟩, ⟨11, 3, a⟩, ⟨14, 3, 0#3⟩, ⟨17, 3, d⟩, ⟨20, 3, 0#3⟩, ⟨23, 3, p⟩, ⟨26, 6, 0x05#6⟩]
  | .por p d a b => [⟨0, 5, 1#5⟩, ⟨5, 3, b⟩, ⟨8, 3, 0#3⟩, ⟨11, 3, a⟩, ⟨14, 3, 0#3⟩, ⟨17, 3, d⟩, ⟨20, 3, 0#3⟩, ⟨23, 3, p⟩, ⟨26, 6, 0x05#6⟩]
  | .pxor p d a b => [⟨0, 5, 2#5⟩, ⟨5, 3, b⟩, ⟨8, 3, 0#3⟩, ⟨11, 3, a⟩, ⟨14, 3, 0#3⟩, ⟨17, 3, d⟩, ⟨20, 3, 0#3⟩, ⟨23, 3, p⟩, ⟨26, 6, 0x05#6⟩]
  | .pget p d => [⟨0, 5, 3#5⟩, ⟨5, 12, 0#12⟩, ⟨17, 6, d⟩, ⟨23, 3, p⟩, ⟨26, 6, 0x05#6⟩]
  | .pset p d a => [⟨0, 5, 4#5⟩, ⟨5, 6, 0#6⟩, ⟨11, 6, a⟩, ⟨17, 3, d⟩, ⟨20, 3, 0#3⟩, ⟨23, 3, p⟩, ⟨26, 6, 0x05#6⟩]
  | .addi p d a i => [⟨0, 11, i⟩, ⟨11, 6, a⟩, ⟨17, 6, d⟩, ⟨23, 3, p⟩, ⟨26, 6, 0x06#6⟩]
  | .andi p d a i => [⟨0, 11, i⟩, ⟨11, 6, a⟩, ⟨17, 6, d⟩, ⟨23, 3, p⟩, ⟨26, 6, 0x07#6⟩]
  | .ori p d a i => [⟨0, 11, i⟩, ⟨11, 6, a⟩, ⟨17, 6, d⟩, ⟨23, 3, p⟩, ⟨26, 6, 0x08#6⟩]
  | .xori p d a i => [⟨0, 11, i⟩, ⟨11, 6, a⟩, ⟨17, 6, d⟩, ⟨23, 3, p⟩, ⟨26, 6, 0x09#6⟩]
  | .shli p d a n => [⟨0, 6, n⟩, ⟨6, 2, 0#2⟩, ⟨8, 3, 0#3⟩, ⟨11, 6, a⟩, ⟨17, 6, d⟩, ⟨23, 3, p⟩, ⟨26, 6, 0x0A#6⟩]
  | .shri p d a n => [⟨0, 6, n⟩, ⟨6, 2, 1#2⟩, ⟨8, 3, 0#3⟩, ⟨11, 6, a⟩, ⟨17, 6, d⟩, ⟨23, 3, p⟩, ⟨26, 6, 0x0A#6⟩]
  | .sari p d a n => [⟨0, 6, n⟩, ⟨6, 2, 2#2⟩, ⟨8, 3, 0#3⟩, ⟨11, 6, a⟩, ⟨17, 6, d⟩, ⟨23, 3, p⟩, ⟨26, 6, 0x0A#6⟩]
  | .cmpi p c d a i => [⟨0, 11, i⟩, ⟨11, 6, a⟩, ⟨17, 3, d⟩, ⟨20, 3, c⟩, ⟨23, 3, p⟩, ⟨26, 6, 0x0B#6⟩]
  | .cmpiu p c d a i => [⟨0, 11, i⟩, ⟨11, 6, a⟩, ⟨17, 3, d⟩, ⟨20, 3, c⟩, ⟨23, 3, p⟩, ⟨26, 6, 0x0C#6⟩]
  | .movi p d i => [⟨0, 17, i⟩, ⟨17, 6, d⟩, ⟨23, 3, p⟩, ⟨26, 6, 0x0D#6⟩]
  | .movhi p d i => [⟨0, 17, i⟩, ⟨17, 6, d⟩, ⟨23, 3, p⟩, ⟨26, 6, 0x0E#6⟩]
  | .csrr p d c => [⟨0, 11, c⟩, ⟨11, 6, 0#6⟩, ⟨17, 6, d⟩, ⟨23, 3, p⟩, ⟨26, 6, 0x0F#6⟩]
  | .csrw p a c => [⟨0, 11, c⟩, ⟨11, 6, a⟩, ⟨17, 6, 0#6⟩, ⟨23, 3, p⟩, ⟨26, 6, 0x10#6⟩]
  | .br p o => [⟨0, 20, o⟩, ⟨20, 3, 0#3⟩, ⟨23, 3, p⟩, ⟨26, 6, 0x11#6⟩]
  | .brl p o => [⟨0, 20, o⟩, ⟨20, 3, 0#3⟩, ⟨23, 3, p⟩, ⟨26, 6, 0x12#6⟩]
  | .loop p l o => [⟨0, 16, o⟩, ⟨16, 5, 0#5⟩, ⟨21, 2, l⟩, ⟨23, 3, p⟩, ⟨26, 6, 0x13#6⟩]
  | .loopr p l k o => [⟨0, 16, o⟩, ⟨16, 5, k⟩, ⟨21, 2, l⟩, ⟨23, 3, p⟩, ⟨26, 6, 0x14#6⟩]
  | .jr p a => [⟨0, 5, 0#5⟩, ⟨5, 6, 0#6⟩, ⟨11, 6, a⟩, ⟨17, 6, 0#6⟩, ⟨23, 3, p⟩, ⟨26, 6, 0x15#6⟩]
  | .jrl p d a => [⟨0, 5, 1#5⟩, ⟨5, 6, 0#6⟩, ⟨11, 6, a⟩, ⟨17, 6, d⟩, ⟨23, 3, p⟩, ⟨26, 6, 0x15#6⟩]
  | .trap p c => [⟨0, 5, 2#5⟩, ⟨5, 12, c⟩, ⟨17, 6, 0#6⟩, ⟨23, 3, p⟩, ⟨26, 6, 0x15#6⟩]
  | .eret p => [⟨0, 5, 3#5⟩, ⟨5, 18, 0#18⟩, ⟨23, 3, p⟩, ⟨26, 6, 0x15#6⟩]
  | .uiret p => [⟨0, 5, 4#5⟩, ⟨5, 18, 0#18⟩, ⟨23, 3, p⟩, ⟨26, 6, 0x15#6⟩]
  | .wait p l s c t => [⟨0, 5, t⟩, ⟨5, 5, c⟩, ⟨10, 5, s⟩, ⟨15, 5, l⟩, ⟨20, 3, 0#3⟩, ⟨23, 3, p⟩, ⟨26, 6, 0x16#6⟩]
  | .vdot p d a b t => [⟨0, 2, t⟩, ⟨2, 7, b⟩, ⟨9, 7, a⟩, ⟨16, 7, d⟩, ⟨23, 3, p⟩, ⟨26, 6, 0x17#6⟩]
  | .vadd p d a b t => [⟨0, 2, t⟩, ⟨2, 7, b⟩, ⟨9, 7, a⟩, ⟨16, 7, d⟩, ⟨23, 3, p⟩, ⟨26, 6, 0x18#6⟩]
  | .vsub p d a b t => [⟨0, 2, t⟩, ⟨2, 7, b⟩, ⟨9, 7, a⟩, ⟨16, 7, d⟩, ⟨23, 3, p⟩, ⟨26, 6, 0x19#6⟩]
  | .vmul p d a b t => [⟨0, 2, t⟩, ⟨2, 7, b⟩, ⟨9, 7, a⟩, ⟨16, 7, d⟩, ⟨23, 3, p⟩, ⟨26, 6, 0x1A#6⟩]
  | .vfma p d a b t => [⟨0, 2, t⟩, ⟨2, 7, b⟩, ⟨9, 7, a⟩, ⟨16, 7, d⟩, ⟨23, 3, p⟩, ⟨26, 6, 0x1B#6⟩]
  | .vfms p d a b t => [⟨0, 2, t⟩, ⟨2, 7, b⟩, ⟨9, 7, a⟩, ⟨16, 7, d⟩, ⟨23, 3, p⟩, ⟨26, 6, 0x1C#6⟩]
  | .vmax p d a b t => [⟨0, 2, t⟩, ⟨2, 7, b⟩, ⟨9, 7, a⟩, ⟨16, 7, d⟩, ⟨23, 3, p⟩, ⟨26, 6, 0x1D#6⟩]
  | .vmin p d a b t => [⟨0, 2, t⟩, ⟨2, 7, b⟩, ⟨9, 7, a⟩, ⟨16, 7, d⟩, ⟨23, 3, p⟩, ⟨26, 6, 0x1E#6⟩]
  | .vand p d a b => [⟨0, 2, 0#2⟩, ⟨2, 7, b⟩, ⟨9, 7, a⟩, ⟨16, 7, d⟩, ⟨23, 3, p⟩, ⟨26, 6, 0x1F#6⟩]
  | .vor p d a b => [⟨0, 2, 1#2⟩, ⟨2, 7, b⟩, ⟨9, 7, a⟩, ⟨16, 7, d⟩, ⟨23, 3, p⟩, ⟨26, 6, 0x1F#6⟩]
  | .vxor p d a b => [⟨0, 2, 2#2⟩, ⟨2, 7, b⟩, ⟨9, 7, a⟩, ⟨16, 7, d⟩, ⟨23, 3, p⟩, ⟨26, 6, 0x1F#6⟩]
  | .vshl p d a b => [⟨0, 2, 0#2⟩, ⟨2, 7, b⟩, ⟨9, 7, a⟩, ⟨16, 7, d⟩, ⟨23, 3, p⟩, ⟨26, 6, 0x20#6⟩]
  | .vshr p d a b => [⟨0, 2, 1#2⟩, ⟨2, 7, b⟩, ⟨9, 7, a⟩, ⟨16, 7, d⟩, ⟨23, 3, p⟩, ⟨26, 6, 0x20#6⟩]
  | .vsar p d a b => [⟨0, 2, 2#2⟩, ⟨2, 7, b⟩, ⟨9, 7, a⟩, ⟨16, 7, d⟩, ⟨23, 3, p⟩, ⟨26, 6, 0x20#6⟩]
  | .vcmp p c d a b t => [⟨0, 2, t⟩, ⟨2, 7, b⟩, ⟨9, 7, a⟩, ⟨16, 5, d⟩, ⟨21, 2, c⟩, ⟨23, 3, p⟩, ⟨26, 6, 0x21#6⟩]
  | .vsel p d a b t => [⟨0, 2, t⟩, ⟨2, 7, b⟩, ⟨9, 7, a⟩, ⟨16, 7, d⟩, ⟨23, 3, p⟩, ⟨26, 6, 0x22#6⟩]
  | .vshf p d a b t => [⟨0, 2, t⟩, ⟨2, 7, b⟩, ⟨9, 7, a⟩, ⟨16, 7, d⟩, ⟨23, 3, p⟩, ⟨26, 6, 0x23#6⟩]
  | .vrotl p d a n t => [⟨0, 2, t⟩, ⟨2, 7, n⟩, ⟨9, 7, a⟩, ⟨16, 7, d⟩, ⟨23, 3, p⟩, ⟨26, 6, 0x24#6⟩]
  | .vmov p d a t => [⟨0, 2, t⟩, ⟨2, 7, 0#7⟩, ⟨9, 7, a⟩, ⟨16, 7, d⟩, ⟨23, 3, p⟩, ⟨26, 6, 0x25#6⟩]
  | .vabs p d a t => [⟨0, 2, t⟩, ⟨2, 7, 1#7⟩, ⟨9, 7, a⟩, ⟨16, 7, d⟩, ⟨23, 3, p⟩, ⟨26, 6, 0x25#6⟩]
  | .vneg p d a t => [⟨0, 2, t⟩, ⟨2, 7, 2#7⟩, ⟨9, 7, a⟩, ⟨16, 7, d⟩, ⟨23, 3, p⟩, ⟨26, 6, 0x25#6⟩]
  | .viota p d t => [⟨0, 2, t⟩, ⟨2, 7, 3#7⟩, ⟨9, 7, 0#7⟩, ⟨16, 7, d⟩, ⟨23, 3, p⟩, ⟨26, 6, 0x25#6⟩]
  | .vclr p d => [⟨0, 2, 0#2⟩, ⟨2, 7, 4#7⟩, ⟨9, 7, 0#7⟩, ⟨16, 7, d⟩, ⟨23, 3, p⟩, ⟨26, 6, 0x25#6⟩]
  | .vbc p d s t => [⟨0, 2, t⟩, ⟨2, 6, 0#6⟩, ⟨8, 2, 0#2⟩, ⟨10, 6, s⟩, ⟨16, 7, d⟩, ⟨23, 3, p⟩, ⟨26, 6, 0x26#6⟩]
  | .vxt p v d l t => [⟨0, 2, t⟩, ⟨2, 6, l⟩, ⟨8, 2, 1#2⟩, ⟨10, 6, d⟩, ⟨16, 7, v⟩, ⟨23, 3, p⟩, ⟨26, 6, 0x26#6⟩]
  | .vins p v s l t => [⟨0, 2, t⟩, ⟨2, 6, l⟩, ⟨8, 2, 2#2⟩, ⟨10, 6, s⟩, ⟨16, 7, v⟩, ⟨23, 3, p⟩, ⟨26, 6, 0x26#6⟩]
  | .vredSum p d a t => [⟨0, 2, t⟩, ⟨2, 7, 0#7⟩, ⟨9, 7, a⟩, ⟨16, 7, d⟩, ⟨23, 3, p⟩, ⟨26, 6, 0x27#6⟩]
  | .vredMax p d a t => [⟨0, 2, t⟩, ⟨2, 7, 1#7⟩, ⟨9, 7, a⟩, ⟨16, 7, d⟩, ⟨23, 3, p⟩, ⟨26, 6, 0x27#6⟩]
  | .vredMin p d a t => [⟨0, 2, t⟩, ⟨2, 7, 2#7⟩, ⟨9, 7, a⟩, ⟨16, 7, d⟩, ⟨23, 3, p⟩, ⟨26, 6, 0x27#6⟩]
  | .vcvt p d a e t => [⟨0, 2, t⟩, ⟨2, 2, e⟩, ⟨4, 5, 0#5⟩, ⟨9, 7, a⟩, ⟨16, 7, d⟩, ⟨23, 3, p⟩, ⟨26, 6, 0x28#6⟩]
  | .cmptv p a b t => [⟨0, 2, t⟩, ⟨2, 7, b⟩, ⟨9, 7, a⟩, ⟨16, 7, 0#7⟩, ⟨23, 3, p⟩, ⟨26, 6, 0x29#6⟩]
  | .vexp2 p d a t => [⟨0, 2, t⟩, ⟨2, 7, 0#7⟩, ⟨9, 7, a⟩, ⟨16, 7, d⟩, ⟨23, 3, p⟩, ⟨26, 6, 0x2A#6⟩]
  | .vlog2 p d a t => [⟨0, 2, t⟩, ⟨2, 7, 1#7⟩, ⟨9, 7, a⟩, ⟨16, 7, d⟩, ⟨23, 3, p⟩, ⟨26, 6, 0x2A#6⟩]
  | .vrcp p d a t => [⟨0, 2, t⟩, ⟨2, 7, 2#7⟩, ⟨9, 7, a⟩, ⟨16, 7, d⟩, ⟨23, 3, p⟩, ⟨26, 6, 0x2A#6⟩]
  | .vrsq p d a t => [⟨0, 2, t⟩, ⟨2, 7, 3#7⟩, ⟨9, 7, a⟩, ⟨16, 7, d⟩, ⟨23, 3, p⟩, ⟨26, 6, 0x2A#6⟩]
  | .vsin p d a t => [⟨0, 2, t⟩, ⟨2, 7, 4#7⟩, ⟨9, 7, a⟩, ⟨16, 7, d⟩, ⟨23, 3, p⟩, ⟨26, 6, 0x2A#6⟩]
  | .vtanh p d a t => [⟨0, 2, t⟩, ⟨2, 7, 5#7⟩, ⟨9, 7, a⟩, ⟨16, 7, d⟩, ⟨23, 3, p⟩, ⟨26, 6, 0x2A#6⟩]
  | .vunpk p d a f k t => [⟨0, 2, t⟩, ⟨2, 3, k⟩, ⟨5, 4, f⟩, ⟨9, 7, a⟩, ⟨16, 7, d⟩, ⟨23, 3, p⟩, ⟨26, 6, 0x2B#6⟩]
  | .vpack p d a f k t => [⟨0, 2, t⟩, ⟨2, 3, k⟩, ⟨5, 4, f⟩, ⟨9, 7, a⟩, ⟨16, 7, d⟩, ⟨23, 3, p⟩, ⟨26, 6, 0x2C#6⟩]
  | .vbscl p d a b t => [⟨0, 2, t⟩, ⟨2, 7, b⟩, ⟨9, 7, a⟩, ⟨16, 7, d⟩, ⟨23, 3, p⟩, ⟨26, 6, 0x2D#6⟩]
  | .vld p v a o => [⟨0, 8, o⟩, ⟨8, 2, 0#2⟩, ⟨10, 6, a⟩, ⟨16, 7, v⟩, ⟨23, 3, p⟩, ⟨26, 6, 0x2E#6⟩]
  | .vst p v a o => [⟨0, 8, o⟩, ⟨8, 2, 1#2⟩, ⟨10, 6, a⟩, ⟨16, 7, v⟩, ⟨23, 3, p⟩, ⟨26, 6, 0x2E#6⟩]
  | .vlds p v a o => [⟨0, 8, o⟩, ⟨8, 2, 2#2⟩, ⟨10, 6, a⟩, ⟨16, 7, v⟩, ⟨23, 3, p⟩, ⟨26, 6, 0x2E#6⟩]
  | .vsts p v a o => [⟨0, 8, o⟩, ⟨8, 2, 3#2⟩, ⟨10, 6, a⟩, ⟨16, 7, v⟩, ⟨23, 3, p⟩, ⟨26, 6, 0x2E#6⟩]
  | .sadd p d a b r => [⟨0, 2, r⟩, ⟨2, 7, b⟩, ⟨9, 7, a⟩, ⟨16, 5, d⟩, ⟨21, 2, 0#2⟩, ⟨23, 3, p⟩, ⟨26, 6, 0x2F#6⟩]
  | .ssub p d a b r => [⟨0, 2, r⟩, ⟨2, 7, b⟩, ⟨9, 7, a⟩, ⟨16, 5, d⟩, ⟨21, 2, 1#2⟩, ⟨23, 3, p⟩, ⟨26, 6, 0x2F#6⟩]
  | .smul p d a b r => [⟨0, 2, r⟩, ⟨2, 7, b⟩, ⟨9, 7, a⟩, ⟨16, 5, d⟩, ⟨21, 2, 2#2⟩, ⟨23, 3, p⟩, ⟨26, 6, 0x2F#6⟩]
  | .sdiv p d a b r => [⟨0, 2, r⟩, ⟨2, 7, b⟩, ⟨9, 7, a⟩, ⟨16, 5, d⟩, ⟨21, 2, 3#2⟩, ⟨23, 3, p⟩, ⟨26, 6, 0x2F#6⟩]
  | .suni p d a b r => [⟨0, 2, r⟩, ⟨2, 7, b⟩, ⟨9, 7, a⟩, ⟨16, 5, d⟩, ⟨21, 2, 0#2⟩, ⟨23, 3, p⟩, ⟨26, 6, 0x30#6⟩]
  | .sint p d a b r => [⟨0, 2, r⟩, ⟨2, 7, b⟩, ⟨9, 7, a⟩, ⟨16, 5, d⟩, ⟨21, 2, 1#2⟩, ⟨23, 3, p⟩, ⟨26, 6, 0x30#6⟩]
  | .scmp p d a b r => [⟨0, 2, r⟩, ⟨2, 7, b⟩, ⟨9, 7, a⟩, ⟨16, 5, d⟩, ⟨21, 2, 2#2⟩, ⟨23, 3, p⟩, ⟨26, 6, 0x30#6⟩]
  | .sneg p d a r => [⟨0, 2, r⟩, ⟨2, 7, 0#7⟩, ⟨9, 7, a⟩, ⟨16, 7, d⟩, ⟨23, 3, p⟩, ⟨26, 6, 0x31#6⟩]
  | .sfrom p d a r => [⟨0, 2, r⟩, ⟨2, 7, 1#7⟩, ⟨9, 7, a⟩, ⟨16, 7, d⟩, ⟨23, 3, p⟩, ⟨26, 6, 0x31#6⟩]
  | .sbnd p d a r => [⟨0, 2, r⟩, ⟨2, 7, 2#7⟩, ⟨9, 7, a⟩, ⟨16, 7, d⟩, ⟨23, 3, p⟩, ⟨26, 6, 0x31#6⟩]
  | .sarc p d a r => [⟨0, 2, r⟩, ⟨2, 7, 3#7⟩, ⟨9, 7, a⟩, ⟨16, 7, d⟩, ⟨23, 3, p⟩, ⟨26, 6, 0x31#6⟩]
  | .smsk p d a r => [⟨0, 2, r⟩, ⟨2, 7, 4#7⟩, ⟨9, 7, a⟩, ⟨16, 7, d⟩, ⟨23, 3, p⟩, ⟨26, 6, 0x31#6⟩]
  | .sred p d a r => [⟨0, 2, r⟩, ⟨2, 7, 5#7⟩, ⟨9, 7, a⟩, ⟨16, 7, d⟩, ⟨23, 3, p⟩, ⟨26, 6, 0x31#6⟩]
  | .spld p d a o z => [⟨0, 2, 0#2⟩, ⟨2, 2, 0#2⟩, ⟨4, 2, z⟩, ⟨6, 5, o⟩, ⟨11, 6, a⟩, ⟨17, 6, d⟩, ⟨23, 3, p⟩, ⟨26, 6, 0x32#6⟩]
  | .spst p d a o z => [⟨0, 2, 1#2⟩, ⟨2, 2, 0#2⟩, ⟨4, 2, z⟩, ⟨6, 5, o⟩, ⟨11, 6, a⟩, ⟨17, 6, d⟩, ⟨23, 3, p⟩, ⟨26, 6, 0x32#6⟩]
  | .ld p d a o z => [⟨0, 2, 0#2⟩, ⟨2, 2, 0#2⟩, ⟨4, 2, z⟩, ⟨6, 5, o⟩, ⟨11, 6, a⟩, ⟨17, 6, d⟩, ⟨23, 3, p⟩, ⟨26, 6, 0x33#6⟩]
  | .lds p d a o z c => [⟨0, 2, 1#2⟩, ⟨2, 2, c⟩, ⟨4, 2, z⟩, ⟨6, 5, o⟩, ⟨11, 6, a⟩, ⟨17, 6, d⟩, ⟨23, 3, p⟩, ⟨26, 6, 0x33#6⟩]
  | .lda p d a o z c => [⟨0, 2, 2#2⟩, ⟨2, 2, c⟩, ⟨4, 2, z⟩, ⟨6, 5, o⟩, ⟨11, 6, a⟩, ⟨17, 6, d⟩, ⟨23, 3, p⟩, ⟨26, 6, 0x33#6⟩]
  | .pref p a o => [⟨0, 2, 3#2⟩, ⟨2, 4, 0#4⟩, ⟨6, 5, o⟩, ⟨11, 6, a⟩, ⟨17, 6, 0#6⟩, ⟨23, 3, p⟩, ⟨26, 6, 0x33#6⟩]
  | .st p d a o z => [⟨0, 2, 0#2⟩, ⟨2, 2, 0#2⟩, ⟨4, 2, z⟩, ⟨6, 5, o⟩, ⟨11, 6, a⟩, ⟨17, 6, d⟩, ⟨23, 3, p⟩, ⟨26, 6, 0x34#6⟩]
  | .sts p d a o z c => [⟨0, 2, 1#2⟩, ⟨2, 2, c⟩, ⟨4, 2, z⟩, ⟨6, 5, o⟩, ⟨11, 6, a⟩, ⟨17, 6, d⟩, ⟨23, 3, p⟩, ⟨26, 6, 0x34#6⟩]
  | .strl p d a o z c => [⟨0, 2, 2#2⟩, ⟨2, 2, c⟩, ⟨4, 2, z⟩, ⟨6, 5, o⟩, ⟨11, 6, a⟩, ⟨17, 6, d⟩, ⟨23, 3, p⟩, ⟨26, 6, 0x34#6⟩]
  | .amoAdd p d a b c => [⟨0, 2, c⟩, ⟨2, 3, 0#3⟩, ⟨5, 6, b⟩, ⟨11, 6, a⟩, ⟨17, 6, d⟩, ⟨23, 3, p⟩, ⟨26, 6, 0x35#6⟩]
  | .amoAnd p d a b c => [⟨0, 2, c⟩, ⟨2, 3, 1#3⟩, ⟨5, 6, b⟩, ⟨11, 6, a⟩, ⟨17, 6, d⟩, ⟨23, 3, p⟩, ⟨26, 6, 0x35#6⟩]
  | .amoOr p d a b c => [⟨0, 2, c⟩, ⟨2, 3, 2#3⟩, ⟨5, 6, b⟩, ⟨11, 6, a⟩, ⟨17, 6, d⟩, ⟨23, 3, p⟩, ⟨26, 6, 0x35#6⟩]
  | .amoXor p d a b c => [⟨0, 2, c⟩, ⟨2, 3, 3#3⟩, ⟨5, 6, b⟩, ⟨11, 6, a⟩, ⟨17, 6, d⟩, ⟨23, 3, p⟩, ⟨26, 6, 0x35#6⟩]
  | .amoMin p d a b c => [⟨0, 2, c⟩, ⟨2, 3, 4#3⟩, ⟨5, 6, b⟩, ⟨11, 6, a⟩, ⟨17, 6, d⟩, ⟨23, 3, p⟩, ⟨26, 6, 0x35#6⟩]
  | .amoMax p d a b c => [⟨0, 2, c⟩, ⟨2, 3, 5#3⟩, ⟨5, 6, b⟩, ⟨11, 6, a⟩, ⟨17, 6, d⟩, ⟨23, 3, p⟩, ⟨26, 6, 0x35#6⟩]
  | .amoSwap p d a b c => [⟨0, 2, c⟩, ⟨2, 3, 6#3⟩, ⟨5, 6, b⟩, ⟨11, 6, a⟩, ⟨17, 6, d⟩, ⟨23, 3, p⟩, ⟨26, 6, 0x35#6⟩]
  | .cas p d a b c => [⟨0, 2, c⟩, ⟨2, 3, 7#3⟩, ⟨5, 6, b⟩, ⟨11, 6, a⟩, ⟨17, 6, d⟩, ⟨23, 3, p⟩, ⟨26, 6, 0x35#6⟩]
  | .fence p c => [⟨0, 2, c⟩, ⟨2, 3, 0#3⟩, ⟨5, 18, 0#18⟩, ⟨23, 3, p⟩, ⟨26, 6, 0x36#6⟩]
  | .fenceAll p c => [⟨0, 2, c⟩, ⟨2, 3, 1#3⟩, ⟨5, 18, 0#18⟩, ⟨23, 3, p⟩, ⟨26, 6, 0x36#6⟩]
  | .waitaNe p d a b c => [⟨0, 2, c⟩, ⟨2, 3, 2#3⟩, ⟨5, 6, b⟩, ⟨11, 6, a⟩, ⟨17, 6, d⟩, ⟨23, 3, p⟩, ⟨26, 6, 0x36#6⟩]
  | .waitaEq p d a b c => [⟨0, 2, c⟩, ⟨2, 3, 3#3⟩, ⟨5, 6, b⟩, ⟨11, 6, a⟩, ⟨17, 6, d⟩, ⟨23, 3, p⟩, ⟨26, 6, 0x36#6⟩]
  | .hwait p h t => [⟨0, 5, 0#5⟩, ⟨5, 1, t⟩, ⟨6, 11, 0#11⟩, ⟨17, 6, h⟩, ⟨23, 3, p⟩, ⟨26, 6, 0x37#6⟩]
  | .hstat p d h => [⟨0, 5, 1#5⟩, ⟨5, 6, 0#6⟩, ⟨11, 6, h⟩, ⟨17, 6, d⟩, ⟨23, 3, p⟩, ⟨26, 6, 0x37#6⟩]
  | .hrel p h => [⟨0, 5, 2#5⟩, ⟨5, 12, 0#12⟩, ⟨17, 6, h⟩, ⟨23, 3, p⟩, ⟨26, 6, 0x37#6⟩]
  | .hset p h a b => [⟨0, 5, 3#5⟩, ⟨5, 6, b⟩, ⟨11, 6, a⟩, ⟨17, 6, h⟩, ⟨23, 3, p⟩, ⟨26, 6, 0x37#6⟩]
  | .hexp p h a b => [⟨0, 5, 4#5⟩, ⟨5, 6, b⟩, ⟨11, 6, a⟩, ⟨17, 6, h⟩, ⟨23, 3, p⟩, ⟨26, 6, 0x37#6⟩]
  | .hswap p h => [⟨0, 5, 5#5⟩, ⟨5, 12, 0#12⟩, ⟨17, 6, h⟩, ⟨23, 3, p⟩, ⟨26, 6, 0x37#6⟩]
  | .bkrel p a => [⟨0, 5, 6#5⟩, ⟨5, 6, 0#6⟩, ⟨11, 6, a⟩, ⟨17, 6, 0#6⟩, ⟨23, 3, p⟩, ⟨26, 6, 0x37#6⟩]
  | .bkwait p a => [⟨0, 5, 7#5⟩, ⟨5, 6, 0#6⟩, ⟨11, 6, a⟩, ⟨17, 6, 0#6⟩, ⟨23, 3, p⟩, ⟨26, 6, 0x37#6⟩]
  | .barvInit p n a => [⟨0, 5, 8#5⟩, ⟨5, 6, 1#6⟩, ⟨11, 6, a⟩, ⟨17, 3, n⟩, ⟨20, 3, 0#3⟩, ⟨23, 3, p⟩, ⟨26, 6, 0x37#6⟩]
  | .barv p n a => [⟨0, 5, 8#5⟩, ⟨5, 6, 0#6⟩, ⟨11, 6, a⟩, ⟨17, 3, n⟩, ⟨20, 3, 0#3⟩, ⟨23, 3, p⟩, ⟨26, 6, 0x37#6⟩]
  | .bart p n a => [⟨0, 5, 9#5⟩, ⟨5, 6, 0#6⟩, ⟨11, 6, a⟩, ⟨17, 3, n⟩, ⟨20, 3, 0#3⟩, ⟨23, 3, p⟩, ⟨26, 6, 0x37#6⟩]
  | .barw p n => [⟨0, 5, 10#5⟩, ⟨5, 12, 0#12⟩, ⟨17, 3, n⟩, ⟨20, 3, 0#3⟩, ⟨23, 3, p⟩, ⟨26, 6, 0x37#6⟩]
  | .uien p h e => [⟨0, 5, 11#5⟩, ⟨5, 1, e⟩, ⟨6, 11, 0#11⟩, ⟨17, 6, h⟩, ⟨23, 3, p⟩, ⟨26, 6, 0x37#6⟩]
  | .clvl p n a b => [⟨0, 5, 0#5⟩, ⟨5, 6, b⟩, ⟨11, 6, a⟩, ⟨17, 6, n⟩, ⟨23, 3, p⟩, ⟨26, 6, 0x38#6⟩]
  | .cgo p h d s => [⟨0, 5, 1#5⟩, ⟨5, 6, s⟩, ⟨11, 6, d⟩, ⟨17, 6, h⟩, ⟨23, 3, p⟩, ⟨26, 6, 0x38#6⟩]
  | .cgox p h d s => [⟨0, 5, 2#5⟩, ⟨5, 6, s⟩, ⟨11, 6, d⟩, ⟨17, 6, h⟩, ⟨23, 3, p⟩, ⟨26, 6, 0x38#6⟩]
  | .cqry p d a q => [⟨0, 5, 3#5⟩, ⟨5, 6, q⟩, ⟨11, 6, a⟩, ⟨17, 6, d⟩, ⟨23, 3, p⟩, ⟨26, 6, 0x38#6⟩]
  | .mxcall p h i r => [⟨0, 5, r⟩, ⟨5, 6, 0#6⟩, ⟨11, 6, i⟩, ⟨17, 6, h⟩, ⟨23, 3, p⟩, ⟨26, 6, 0x39#6⟩]
  | .mxp p m a => [⟨0, 5, 0#5⟩, ⟨5, 6, 0#6⟩, ⟨11, 6, a⟩, ⟨17, 3, m⟩, ⟨20, 3, 0#3⟩, ⟨23, 3, p⟩, ⟨26, 6, 0x3A#6⟩]
  | .mxpr p d m => [⟨0, 5, 1#5⟩, ⟨5, 6, 0#6⟩, ⟨11, 3, m⟩, ⟨14, 3, 0#3⟩, ⟨17, 6, d⟩, ⟨23, 3, p⟩, ⟨26, 6, 0x3A#6⟩]
  | .mxldu p a b => [⟨0, 5, 2#5⟩, ⟨5, 6, b⟩, ⟨11, 6, a⟩, ⟨17, 6, 0#6⟩, ⟨23, 3, p⟩, ⟨26, 6, 0x3A#6⟩]
  | .mxrt p n a => [⟨0, 5, 3#5⟩, ⟨5, 6, 0#6⟩, ⟨11, 6, a⟩, ⟨17, 6, n⟩, ⟨23, 3, p⟩, ⟨26, 6, 0x3A#6⟩]
  | .mxstat p d h => [⟨0, 5, 4#5⟩, ⟨5, 6, 0#6⟩, ⟨11, 6, h⟩, ⟨17, 6, d⟩, ⟨23, 3, p⟩, ⟨26, 6, 0x3A#6⟩]
  | .shand p h a => [⟨0, 5, 0#5⟩, ⟨5, 6, 0#6⟩, ⟨11, 6, a⟩, ⟨17, 6, h⟩, ⟨23, 3, p⟩, ⟨26, 6, 0x3B#6⟩]
  | .sown p d a => [⟨0, 5, 1#5⟩, ⟨5, 6, 0#6⟩, ⟨11, 6, a⟩, ⟨17, 6, d⟩, ⟨23, 3, p⟩, ⟨26, 6, 0x3B#6⟩]
  | .genr p d => [⟨0, 5, 2#5⟩, ⟨5, 12, 0#12⟩, ⟨17, 6, d⟩, ⟨23, 3, p⟩, ⟨26, 6, 0x3B#6⟩]
  | .tenend p a b => [⟨0, 5, 3#5⟩, ⟨5, 6, b⟩, ⟨11, 6, a⟩, ⟨17, 6, 0#6⟩, ⟨23, 3, p⟩, ⟨26, 6, 0x3B#6⟩]
  | .genprobe p d a q => [⟨0, 5, 4#5⟩, ⟨5, 6, q⟩, ⟨11, 6, a⟩, ⟨17, 6, d⟩, ⟨23, 3, p⟩, ⟨26, 6, 0x3B#6⟩]
  | .tidx p d => [⟨0, 5, 5#5⟩, ⟨5, 12, 0#12⟩, ⟨17, 6, d⟩, ⟨23, 3, p⟩, ⟨26, 6, 0x3B#6⟩]
  | .tnext p d => [⟨0, 5, 6#5⟩, ⟨5, 12, 0#12⟩, ⟨17, 6, d⟩, ⟨23, 3, p⟩, ⟨26, 6, 0x3B#6⟩]
  | .suspend p a b => [⟨0, 5, 7#5⟩, ⟨5, 6, b⟩, ⟨11, 6, a⟩, ⟨17, 6, 0#6⟩, ⟨23, 3, p⟩, ⟨26, 6, 0x3B#6⟩]
  | .endTask p => [⟨0, 5, 8#5⟩, ⟨5, 18, 0#18⟩, ⟨23, 3, p⟩, ⟨26, 6, 0x3B#6⟩]
  | .linkq p d a => [⟨0, 5, 9#5⟩, ⟨5, 6, 0#6⟩, ⟨11, 6, a⟩, ⟨17, 6, d⟩, ⟨23, 3, p⟩, ⟨26, 6, 0x3B#6⟩]
  | .ringld p r a => [⟨0, 5, 10#5⟩, ⟨5, 6, 0#6⟩, ⟨11, 6, a⟩, ⟨17, 2, r⟩, ⟨19, 4, 0#4⟩, ⟨23, 3, p⟩, ⟨26, 6, 0x3B#6⟩]
  | .vabd p d a b t => [⟨0, 2, t⟩, ⟨2, 7, b⟩, ⟨9, 7, a⟩, ⟨16, 5, d⟩, ⟨21, 2, 0#2⟩, ⟨23, 3, p⟩, ⟨26, 6, 0x3C#6⟩]
  | .vclmp p d a b t => [⟨0, 2, t⟩, ⟨2, 7, b⟩, ⟨9, 7, a⟩, ⟨16, 5, d⟩, ⟨21, 2, 1#2⟩, ⟨23, 3, p⟩, ⟨26, 6, 0x3C#6⟩]
  | .vcvth p d a e t => [⟨0, 2, t⟩, ⟨2, 2, e⟩, ⟨4, 5, 0#5⟩, ⟨9, 7, a⟩, ⟨16, 7, d⟩, ⟨23, 3, p⟩, ⟨26, 6, 0x3D#6⟩]
  | .vscl p d s t => [⟨0, 2, t⟩, ⟨2, 6, 0#6⟩, ⟨8, 2, 0#2⟩, ⟨10, 6, s⟩, ⟨16, 7, d⟩, ⟨23, 3, p⟩, ⟨26, 6, 0x3E#6⟩]
  | _ => []

/-- The fields of a slot operation fill its word. -/
theorem tiles_layout {i : Instr} (hi : i.major < 63) : tiles 0 (layout i) = true := by
  have h : (!Nat.blt i.major 63 || tiles 0 (layout i)) = true := by cases i <;> rfl
  have hb : Nat.blt i.major 63 = true := Nat.blt_eq.mpr hi
  rwa [hb] at h

theorem encodeNat_eq_00 {i : Instr} (hm : (Nat.ble 0x00 i.major && Nat.ble i.major 0x05) = true) :
    encodeNat i = fieldSum (layout i) := by
  cases i with
  | nop => rfl
  | add p d a b =>
    show 0x04000000 + p.toNat * 8388608 + d.toNat * 131072 + a.toNat * 2048 + b.toNat * 32 = 0 * 2 ^ 0 + (b.toNat * 2 ^ 5 + (a.toNat * 2 ^ 11 + (d.toNat * 2 ^ 17 + (p.toNat * 2 ^ 23 + (0x01 * 2 ^ 26 + 0)))))
    omega
  | sub p d a b =>
    show 0x04000001 + p.toNat * 8388608 + d.toNat * 131072 + a.toNat * 2048 + b.toNat * 32 = 1 * 2 ^ 0 + (b.toNat * 2 ^ 5 + (a.toNat * 2 ^ 11 + (d.toNat * 2 ^ 17 + (p.toNat * 2 ^ 23 + (0x01 * 2 ^ 26 + 0)))))
    omega
  | and p d a b =>
    show 0x04000002 + p.toNat * 8388608 + d.toNat * 131072 + a.toNat * 2048 + b.toNat * 32 = 2 * 2 ^ 0 + (b.toNat * 2 ^ 5 + (a.toNat * 2 ^ 11 + (d.toNat * 2 ^ 17 + (p.toNat * 2 ^ 23 + (0x01 * 2 ^ 26 + 0)))))
    omega
  | or p d a b =>
    show 0x04000003 + p.toNat * 8388608 + d.toNat * 131072 + a.toNat * 2048 + b.toNat * 32 = 3 * 2 ^ 0 + (b.toNat * 2 ^ 5 + (a.toNat * 2 ^ 11 + (d.toNat * 2 ^ 17 + (p.toNat * 2 ^ 23 + (0x01 * 2 ^ 26 + 0)))))
    omega
  | xor p d a b =>
    show 0x04000004 + p.toNat * 8388608 + d.toNat * 131072 + a.toNat * 2048 + b.toNat * 32 = 4 * 2 ^ 0 + (b.toNat * 2 ^ 5 + (a.toNat * 2 ^ 11 + (d.toNat * 2 ^ 17 + (p.toNat * 2 ^ 23 + (0x01 * 2 ^ 26 + 0)))))
    omega
  | andn p d a b =>
    show 0x04000005 + p.toNat * 8388608 + d.toNat * 131072 + a.toNat * 2048 + b.toNat * 32 = 5 * 2 ^ 0 + (b.toNat * 2 ^ 5 + (a.toNat * 2 ^ 11 + (d.toNat * 2 ^ 17 + (p.toNat * 2 ^ 23 + (0x01 * 2 ^ 26 + 0)))))
    omega
  | orn p d a b =>
    show 0x04000006 + p.toNat * 8388608 + d.toNat * 131072 + a.toNat * 2048 + b.toNat * 32 = 6 * 2 ^ 0 + (b.toNat * 2 ^ 5 + (a.toNat * 2 ^ 11 + (d.toNat * 2 ^ 17 + (p.toNat * 2 ^ 23 + (0x01 * 2 ^ 26 + 0)))))
    omega
  | shl p d a b =>
    show 0x04000007 + p.toNat * 8388608 + d.toNat * 131072 + a.toNat * 2048 + b.toNat * 32 = 7 * 2 ^ 0 + (b.toNat * 2 ^ 5 + (a.toNat * 2 ^ 11 + (d.toNat * 2 ^ 17 + (p.toNat * 2 ^ 23 + (0x01 * 2 ^ 26 + 0)))))
    omega
  | shr p d a b =>
    show 0x04000008 + p.toNat * 8388608 + d.toNat * 131072 + a.toNat * 2048 + b.toNat * 32 = 8 * 2 ^ 0 + (b.toNat * 2 ^ 5 + (a.toNat * 2 ^ 11 + (d.toNat * 2 ^ 17 + (p.toNat * 2 ^ 23 + (0x01 * 2 ^ 26 + 0)))))
    omega
  | sar p d a b =>
    show 0x04000009 + p.toNat * 8388608 + d.toNat * 131072 + a.toNat * 2048 + b.toNat * 32 = 9 * 2 ^ 0 + (b.toNat * 2 ^ 5 + (a.toNat * 2 ^ 11 + (d.toNat * 2 ^ 17 + (p.toNat * 2 ^ 23 + (0x01 * 2 ^ 26 + 0)))))
    omega
  | min p d a b =>
    show 0x0400000A + p.toNat * 8388608 + d.toNat * 131072 + a.toNat * 2048 + b.toNat * 32 = 10 * 2 ^ 0 + (b.toNat * 2 ^ 5 + (a.toNat * 2 ^ 11 + (d.toNat * 2 ^ 17 + (p.toNat * 2 ^ 23 + (0x01 * 2 ^ 26 + 0)))))
    omega
  | max p d a b =>
    show 0x0400000B + p.toNat * 8388608 + d.toNat * 131072 + a.toNat * 2048 + b.toNat * 32 = 11 * 2 ^ 0 + (b.toNat * 2 ^ 5 + (a.toNat * 2 ^ 11 + (d.toNat * 2 ^ 17 + (p.toNat * 2 ^ 23 + (0x01 * 2 ^ 26 + 0)))))
    omega
  | minu p d a b =>
    show 0x0400000C + p.toNat * 8388608 + d.toNat * 131072 + a.toNat * 2048 + b.toNat * 32 = 12 * 2 ^ 0 + (b.toNat * 2 ^ 5 + (a.toNat * 2 ^ 11 + (d.toNat * 2 ^ 17 + (p.toNat * 2 ^ 23 + (0x01 * 2 ^ 26 + 0)))))
    omega
  | maxu p d a b =>
    show 0x0400000D + p.toNat * 8388608 + d.toNat * 131072 + a.toNat * 2048 + b.toNat * 32 = 13 * 2 ^ 0 + (b.toNat * 2 ^ 5 + (a.toNat * 2 ^ 11 + (d.toNat * 2 ^ 17 + (p.toNat * 2 ^ 23 + (0x01 * 2 ^ 26 + 0)))))
    omega
  | clz p d a =>
    show 0x0400000E + p.toNat * 8388608 + d.toNat * 131072 + a.toNat * 2048 = 14 * 2 ^ 0 + (0 * 2 ^ 5 + (a.toNat * 2 ^ 11 + (d.toNat * 2 ^ 17 + (p.toNat * 2 ^ 23 + (0x01 * 2 ^ 26 + 0)))))
    omega
  | popc p d a =>
    show 0x0400000F + p.toNat * 8388608 + d.toNat * 131072 + a.toNat * 2048 = 15 * 2 ^ 0 + (0 * 2 ^ 5 + (a.toNat * 2 ^ 11 + (d.toNat * 2 ^ 17 + (p.toNat * 2 ^ 23 + (0x01 * 2 ^ 26 + 0)))))
    omega
  | bfx p d a b =>
    show 0x04000010 + p.toNat * 8388608 + d.toNat * 131072 + a.toNat * 2048 + b.toNat * 32 = 16 * 2 ^ 0 + (b.toNat * 2 ^ 5 + (a.toNat * 2 ^ 11 + (d.toNat * 2 ^ 17 + (p.toNat * 2 ^ 23 + (0x01 * 2 ^ 26 + 0)))))
    omega
  | bfi p d a b =>
    show 0x04000011 + p.toNat * 8388608 + d.toNat * 131072 + a.toNat * 2048 + b.toNat * 32 = 17 * 2 ^ 0 + (b.toNat * 2 ^ 5 + (a.toNat * 2 ^ 11 + (d.toNat * 2 ^ 17 + (p.toNat * 2 ^ 23 + (0x01 * 2 ^ 26 + 0)))))
    omega
  | cmpt p a b =>
    show 0x04000012 + p.toNat * 8388608 + a.toNat * 2048 + b.toNat * 32 = 18 * 2 ^ 0 + (b.toNat * 2 ^ 5 + (a.toNat * 2 ^ 11 + (0 * 2 ^ 17 + (p.toNat * 2 ^ 23 + (0x01 * 2 ^ 26 + 0)))))
    omega
  | mul p d a b =>
    show 0x08000000 + p.toNat * 8388608 + d.toNat * 131072 + a.toNat * 2048 + b.toNat * 32 = 0 * 2 ^ 0 + (b.toNat * 2 ^ 5 + (a.toNat * 2 ^ 11 + (d.toNat * 2 ^ 17 + (p.toNat * 2 ^ 23 + (0x02 * 2 ^ 26 + 0)))))
    omega
  | mulh p d a b =>
    show 0x08000001 + p.toNat * 8388608 + d.toNat * 131072 + a.toNat * 2048 + b.toNat * 32 = 1 * 2 ^ 0 + (b.toNat * 2 ^ 5 + (a.toNat * 2 ^ 11 + (d.toNat * 2 ^ 17 + (p.toNat * 2 ^ 23 + (0x02 * 2 ^ 26 + 0)))))
    omega
  | mulhu p d a b =>
    show 0x08000002 + p.toNat * 8388608 + d.toNat * 131072 + a.toNat * 2048 + b.toNat * 32 = 2 * 2 ^ 0 + (b.toNat * 2 ^ 5 + (a.toNat * 2 ^ 11 + (d.toNat * 2 ^ 17 + (p.toNat * 2 ^ 23 + (0x02 * 2 ^ 26 + 0)))))
    omega
  | div p d a b =>
    show 0x08000003 + p.toNat * 8388608 + d.toNat * 131072 + a.toNat * 2048 + b.toNat * 32 = 3 * 2 ^ 0 + (b.toNat * 2 ^ 5 + (a.toNat * 2 ^ 11 + (d.toNat * 2 ^ 17 + (p.toNat * 2 ^ 23 + (0x02 * 2 ^ 26 + 0)))))
    omega
  | divu p d a b =>
    show 0x08000004 + p.toNat * 8388608 + d.toNat * 131072 + a.toNat * 2048 + b.toNat * 32 = 4 * 2 ^ 0 + (b.toNat * 2 ^ 5 + (a.toNat * 2 ^ 11 + (d.toNat * 2 ^ 17 + (p.toNat * 2 ^ 23 + (0x02 * 2 ^ 26 + 0)))))
    omega
  | rem p d a b =>
    show 0x08000005 + p.toNat * 8388608 + d.toNat * 131072 + a.toNat * 2048 + b.toNat * 32 = 5 * 2 ^ 0 + (b.toNat * 2 ^ 5 + (a.toNat * 2 ^ 11 + (d.toNat * 2 ^ 17 + (p.toNat * 2 ^ 23 + (0x02 * 2 ^ 26 + 0)))))
    omega
  | remu p d a b =>
    show 0x08000006 + p.toNat * 8388608 + d.toNat * 131072 + a.toNat * 2048 + b.toNat * 32 = 6 * 2 ^ 0 + (b.toNat * 2 ^ 5 + (a.toNat * 2 ^ 11 + (d.toNat * 2 ^ 17 + (p.toNat * 2 ^ 23 + (0x02 * 2 ^ 26 + 0)))))
    omega
  | cmp p d a b c =>
    show 0x0C000000 + p.toNat * 8388608 + d.toNat * 131072 + a.toNat * 2048 + b.toNat * 32 + c.toNat = c.toNat * 2 ^ 0 + (b.toNat * 2 ^ 5 + (a.toNat * 2 ^ 11 + (d.toNat * 2 ^ 17 + (0 * 2 ^ 20 + (p.toNat * 2 ^ 23 + (0x03 * 2 ^ 26 + 0))))))
    omega
  | sel p d a b n =>
    show 0x10000000 + p.toNat * 8388608 + d.toNat * 131072 + a.toNat * 2048 + b.toNat * 32 + n.toNat = n.toNat * 2 ^ 0 + (0 * 2 ^ 3 + (b.toNat * 2 ^ 5 + (a.toNat * 2 ^ 11 + (d.toNat * 2 ^ 17 + (p.toNat * 2 ^ 23 + (0x04 * 2 ^ 26 + 0))))))
    omega
  | pand p d a b =>
    show 0x14000000 + p.toNat * 8388608 + d.toNat * 131072 + a.toNat * 2048 + b.toNat * 32 = 0 * 2 ^ 0 + (b.toNat * 2 ^ 5 + (0 * 2 ^ 8 + (a.toNat * 2 ^ 11 + (0 * 2 ^ 14 + (d.toNat * 2 ^ 17 + (0 * 2 ^ 20 + (p.toNat * 2 ^ 23 + (0x05 * 2 ^ 26 + 0))))))))
    omega
  | por p d a b =>
    show 0x14000001 + p.toNat * 8388608 + d.toNat * 131072 + a.toNat * 2048 + b.toNat * 32 = 1 * 2 ^ 0 + (b.toNat * 2 ^ 5 + (0 * 2 ^ 8 + (a.toNat * 2 ^ 11 + (0 * 2 ^ 14 + (d.toNat * 2 ^ 17 + (0 * 2 ^ 20 + (p.toNat * 2 ^ 23 + (0x05 * 2 ^ 26 + 0))))))))
    omega
  | pxor p d a b =>
    show 0x14000002 + p.toNat * 8388608 + d.toNat * 131072 + a.toNat * 2048 + b.toNat * 32 = 2 * 2 ^ 0 + (b.toNat * 2 ^ 5 + (0 * 2 ^ 8 + (a.toNat * 2 ^ 11 + (0 * 2 ^ 14 + (d.toNat * 2 ^ 17 + (0 * 2 ^ 20 + (p.toNat * 2 ^ 23 + (0x05 * 2 ^ 26 + 0))))))))
    omega
  | pget p d =>
    show 0x14000003 + p.toNat * 8388608 + d.toNat * 131072 = 3 * 2 ^ 0 + (0 * 2 ^ 5 + (d.toNat * 2 ^ 17 + (p.toNat * 2 ^ 23 + (0x05 * 2 ^ 26 + 0))))
    omega
  | pset p d a =>
    show 0x14000004 + p.toNat * 8388608 + d.toNat * 131072 + a.toNat * 2048 = 4 * 2 ^ 0 + (0 * 2 ^ 5 + (a.toNat * 2 ^ 11 + (d.toNat * 2 ^ 17 + (0 * 2 ^ 20 + (p.toNat * 2 ^ 23 + (0x05 * 2 ^ 26 + 0))))))
    omega
  | _ => exact absurd hm Bool.false_ne_true

theorem decodeMajor_layout_00 {i : Instr} {w : W32} {ig : Bool} (hm : (Nat.ble 0x00 i.major && Nat.ble i.major 0x05) = true)
    (hig : i.major = 0x17 ∨ 0x3C ≤ i.major → ig = true) (h : Fields w (layout i)) : decodeMajor ig w = .op i := by
  cases i with
  | nop =>
    obtain ⟨h0, -⟩ := h
    have hw : w = 0#32 := (BitVec.extractLsb'_eq_self.symm.trans h0)
    rw [hw]; rfl
  | add =>
    obtain ⟨h0, h5, h11, h17, h23, h26, -⟩ := h
    unfold decodeMajor decodeMajor01
    rw [h26]; dsimp only; rw [h0, h5, h11, h17, h23]; rfl
  | sub =>
    obtain ⟨h0, h5, h11, h17, h23, h26, -⟩ := h
    unfold decodeMajor decodeMajor01
    rw [h26]; dsimp only; rw [h0, h5, h11, h17, h23]; rfl
  | and =>
    obtain ⟨h0, h5, h11, h17, h23, h26, -⟩ := h
    unfold decodeMajor decodeMajor01
    rw [h26]; dsimp only; rw [h0, h5, h11, h17, h23]; rfl
  | or =>
    obtain ⟨h0, h5, h11, h17, h23, h26, -⟩ := h
    unfold decodeMajor decodeMajor01
    rw [h26]; dsimp only; rw [h0, h5, h11, h17, h23]; rfl
  | xor =>
    obtain ⟨h0, h5, h11, h17, h23, h26, -⟩ := h
    unfold decodeMajor decodeMajor01
    rw [h26]; dsimp only; rw [h0, h5, h11, h17, h23]; rfl
  | andn =>
    obtain ⟨h0, h5, h11, h17, h23, h26, -⟩ := h
    unfold decodeMajor decodeMajor01
    rw [h26]; dsimp only; rw [h0, h5, h11, h17, h23]; rfl
  | orn =>
    obtain ⟨h0, h5, h11, h17, h23, h26, -⟩ := h
    unfold decodeMajor decodeMajor01
    rw [h26]; dsimp only; rw [h0, h5, h11, h17, h23]; rfl
  | shl =>
    obtain ⟨h0, h5, h11, h17, h23, h26, -⟩ := h
    unfold decodeMajor decodeMajor01
    rw [h26]; dsimp only; rw [h0, h5, h11, h17, h23]; rfl
  | shr =>
    obtain ⟨h0, h5, h11, h17, h23, h26, -⟩ := h
    unfold decodeMajor decodeMajor01
    rw [h26]; dsimp only; rw [h0, h5, h11, h17, h23]; rfl
  | sar =>
    obtain ⟨h0, h5, h11, h17, h23, h26, -⟩ := h
    unfold decodeMajor decodeMajor01
    rw [h26]; dsimp only; rw [h0, h5, h11, h17, h23]; rfl
  | min =>
    obtain ⟨h0, h5, h11, h17, h23, h26, -⟩ := h
    unfold decodeMajor decodeMajor01
    rw [h26]; dsimp only; rw [h0, h5, h11, h17, h23]; rfl
  | max =>
    obtain ⟨h0, h5, h11, h17, h23, h26, -⟩ := h
    unfold decodeMajor decodeMajor01
    rw [h26]; dsimp only; rw [h0, h5, h11, h17, h23]; rfl
  | minu =>
    obtain ⟨h0, h5, h11, h17, h23, h26, -⟩ := h
    unfold decodeMajor decodeMajor01
    rw [h26]; dsimp only; rw [h0, h5, h11, h17, h23]; rfl
  | maxu =>
    obtain ⟨h0, h5, h11, h17, h23, h26, -⟩ := h
    unfold decodeMajor decodeMajor01
    rw [h26]; dsimp only; rw [h0, h5, h11, h17, h23]; rfl
  | clz =>
    obtain ⟨h0, h5, h11, h17, h23, h26, -⟩ := h
    unfold decodeMajor decodeMajor01
    rw [h26]; dsimp only; rw [h0, h5, h11, h17, h23]; rfl
  | popc =>
    obtain ⟨h0, h5, h11, h17, h23, h26, -⟩ := h
    unfold decodeMajor decodeMajor01
    rw [h26]; dsimp only; rw [h0, h5, h11, h17, h23]; rfl
  | bfx =>
    obtain ⟨h0, h5, h11, h17, h23, h26, -⟩ := h
    unfold decodeMajor decodeMajor01
    rw [h26]; dsimp only; rw [h0, h5, h11, h17, h23]; rfl
  | bfi =>
    obtain ⟨h0, h5, h11, h17, h23, h26, -⟩ := h
    unfold decodeMajor decodeMajor01
    rw [h26]; dsimp only; rw [h0, h5, h11, h17, h23]; rfl
  | cmpt =>
    obtain ⟨h0, h5, h11, h17, h23, h26, -⟩ := h
    unfold decodeMajor decodeMajor01
    rw [h26]; dsimp only; rw [h0, h5, h11, h17, h23]; rfl
  | mul =>
    obtain ⟨h0, h5, h11, h17, h23, h26, -⟩ := h
    unfold decodeMajor decodeMajor02
    rw [h26]; dsimp only; rw [h0, h5, h11, h17, h23]; rfl
  | mulh =>
    obtain ⟨h0, h5, h11, h17, h23, h26, -⟩ := h
    unfold decodeMajor decodeMajor02
    rw [h26]; dsimp only; rw [h0, h5, h11, h17, h23]; rfl
  | mulhu =>
    obtain ⟨h0, h5, h11, h17, h23, h26, -⟩ := h
    unfold decodeMajor decodeMajor02
    rw [h26]; dsimp only; rw [h0, h5, h11, h17, h23]; rfl
  | div =>
    obtain ⟨h0, h5, h11, h17, h23, h26, -⟩ := h
    unfold decodeMajor decodeMajor02
    rw [h26]; dsimp only; rw [h0, h5, h11, h17, h23]; rfl
  | divu =>
    obtain ⟨h0, h5, h11, h17, h23, h26, -⟩ := h
    unfold decodeMajor decodeMajor02
    rw [h26]; dsimp only; rw [h0, h5, h11, h17, h23]; rfl
  | rem =>
    obtain ⟨h0, h5, h11, h17, h23, h26, -⟩ := h
    unfold decodeMajor decodeMajor02
    rw [h26]; dsimp only; rw [h0, h5, h11, h17, h23]; rfl
  | remu =>
    obtain ⟨h0, h5, h11, h17, h23, h26, -⟩ := h
    unfold decodeMajor decodeMajor02
    rw [h26]; dsimp only; rw [h0, h5, h11, h17, h23]; rfl
  | cmp =>
    obtain ⟨h0, h5, h11, h17, h20, h23, h26, -⟩ := h
    unfold decodeMajor decodeMajor03
    rw [h26]; dsimp only; rw [h0, h5, h11, h17, h20, h23]; rfl
  | sel =>
    obtain ⟨h0, h3, h5, h11, h17, h23, h26, -⟩ := h
    unfold decodeMajor decodeMajor04
    rw [h26]; dsimp only; rw [h0, h3, h5, h11, h17, h23]; rfl
  | pand =>
    obtain ⟨h0, h5, h8, h11, h14, h17, h20, h23, h26, -⟩ := h
    unfold decodeMajor decodeMajor05
    rw [h26]; dsimp only; rw [h0, h5, h8, h11, h14, h17, h20, h23]; rfl
  | por =>
    obtain ⟨h0, h5, h8, h11, h14, h17, h20, h23, h26, -⟩ := h
    unfold decodeMajor decodeMajor05
    rw [h26]; dsimp only; rw [h0, h5, h8, h11, h14, h17, h20, h23]; rfl
  | pxor =>
    obtain ⟨h0, h5, h8, h11, h14, h17, h20, h23, h26, -⟩ := h
    unfold decodeMajor decodeMajor05
    rw [h26]; dsimp only; rw [h0, h5, h8, h11, h14, h17, h20, h23]; rfl
  | pget =>
    obtain ⟨h0, h5, h17, h23, h26, -⟩ := h
    unfold decodeMajor decodeMajor05
    rw [h26]; dsimp only; rw [h0, h5, h17, h23]; rfl
  | pset =>
    obtain ⟨h0, h5, h11, h17, h20, h23, h26, -⟩ := h
    unfold decodeMajor decodeMajor05
    rw [h26]; dsimp only; rw [h0, h5, h11, h17, h20, h23]; rfl
  | _ => exact absurd hm Bool.false_ne_true

theorem encodeNat_eq_06 {i : Instr} (hm : (Nat.ble 0x06 i.major && Nat.ble i.major 0x17) = true) :
    encodeNat i = fieldSum (layout i) := by
  cases i with
  | addi p d a i =>
    show 0x18000000 + p.toNat * 8388608 + d.toNat * 131072 + a.toNat * 2048 + i.toNat = i.toNat * 2 ^ 0 + (a.toNat * 2 ^ 11 + (d.toNat * 2 ^ 17 + (p.toNat * 2 ^ 23 + (0x06 * 2 ^ 26 + 0))))
    omega
  | andi p d a i =>
    show 0x1C000000 + p.toNat * 8388608 + d.toNat * 131072 + a.toNat * 2048 + i.toNat = i.toNat * 2 ^ 0 + (a.toNat * 2 ^ 11 + (d.toNat * 2 ^ 17 + (p.toNat * 2 ^ 23 + (0x07 * 2 ^ 26 + 0))))
    omega
  | ori p d a i =>
    show 0x20000000 + p.toNat * 8388608 + d.toNat * 131072 + a.toNat * 2048 + i.toNat = i.toNat * 2 ^ 0 + (a.toNat * 2 ^ 11 + (d.toNat * 2 ^ 17 + (p.toNat * 2 ^ 23 + (0x08 * 2 ^ 26 + 0))))
    omega
  | xori p d a i =>
    show 0x24000000 + p.toNat * 8388608 + d.toNat * 131072 + a.toNat * 2048 + i.toNat = i.toNat * 2 ^ 0 + (a.toNat * 2 ^ 11 + (d.toNat * 2 ^ 17 + (p.toNat * 2 ^ 23 + (0x09 * 2 ^ 26 + 0))))
    omega
  | shli p d a n =>
    show 0x28000000 + p.toNat * 8388608 + d.toNat * 131072 + a.toNat * 2048 + n.toNat = n.toNat * 2 ^ 0 + (0 * 2 ^ 6 + (0 * 2 ^ 8 + (a.toNat * 2 ^ 11 + (d.toNat * 2 ^ 17 + (p.toNat * 2 ^ 23 + (0x0A * 2 ^ 26 + 0))))))
    omega
  | shri p d a n =>
    show 0x28000040 + p.toNat * 8388608 + d.toNat * 131072 + a.toNat * 2048 + n.toNat = n.toNat * 2 ^ 0 + (1 * 2 ^ 6 + (0 * 2 ^ 8 + (a.toNat * 2 ^ 11 + (d.toNat * 2 ^ 17 + (p.toNat * 2 ^ 23 + (0x0A * 2 ^ 26 + 0))))))
    omega
  | sari p d a n =>
    show 0x28000080 + p.toNat * 8388608 + d.toNat * 131072 + a.toNat * 2048 + n.toNat = n.toNat * 2 ^ 0 + (2 * 2 ^ 6 + (0 * 2 ^ 8 + (a.toNat * 2 ^ 11 + (d.toNat * 2 ^ 17 + (p.toNat * 2 ^ 23 + (0x0A * 2 ^ 26 + 0))))))
    omega
  | cmpi p c d a i =>
    show 0x2C000000 + p.toNat * 8388608 + c.toNat * 1048576 + d.toNat * 131072 + a.toNat * 2048 + i.toNat = i.toNat * 2 ^ 0 + (a.toNat * 2 ^ 11 + (d.toNat * 2 ^ 17 + (c.toNat * 2 ^ 20 + (p.toNat * 2 ^ 23 + (0x0B * 2 ^ 26 + 0)))))
    omega
  | cmpiu p c d a i =>
    show 0x30000000 + p.toNat * 8388608 + c.toNat * 1048576 + d.toNat * 131072 + a.toNat * 2048 + i.toNat = i.toNat * 2 ^ 0 + (a.toNat * 2 ^ 11 + (d.toNat * 2 ^ 17 + (c.toNat * 2 ^ 20 + (p.toNat * 2 ^ 23 + (0x0C * 2 ^ 26 + 0)))))
    omega
  | movi p d i =>
    show 0x34000000 + p.toNat * 8388608 + d.toNat * 131072 + i.toNat = i.toNat * 2 ^ 0 + (d.toNat * 2 ^ 17 + (p.toNat * 2 ^ 23 + (0x0D * 2 ^ 26 + 0)))
    omega
  | movhi p d i =>
    show 0x38000000 + p.toNat * 8388608 + d.toNat * 131072 + i.toNat = i.toNat * 2 ^ 0 + (d.toNat * 2 ^ 17 + (p.toNat * 2 ^ 23 + (0x0E * 2 ^ 26 + 0)))
    omega
  | csrr p d c =>
    show 0x3C000000 + p.toNat * 8388608 + d.toNat * 131072 + c.toNat = c.toNat * 2 ^ 0 + (0 * 2 ^ 11 + (d.toNat * 2 ^ 17 + (p.toNat * 2 ^ 23 + (0x0F * 2 ^ 26 + 0))))
    omega
  | csrw p a c =>
    show 0x40000000 + p.toNat * 8388608 + a.toNat * 2048 + c.toNat = c.toNat * 2 ^ 0 + (a.toNat * 2 ^ 11 + (0 * 2 ^ 17 + (p.toNat * 2 ^ 23 + (0x10 * 2 ^ 26 + 0))))
    omega
  | br p o =>
    show 0x44000000 + p.toNat * 8388608 + o.toNat = o.toNat * 2 ^ 0 + (0 * 2 ^ 20 + (p.toNat * 2 ^ 23 + (0x11 * 2 ^ 26 + 0)))
    omega
  | brl p o =>
    show 0x48000000 + p.toNat * 8388608 + o.toNat = o.toNat * 2 ^ 0 + (0 * 2 ^ 20 + (p.toNat * 2 ^ 23 + (0x12 * 2 ^ 26 + 0)))
    omega
  | loop p l o =>
    show 0x4C000000 + p.toNat * 8388608 + l.toNat * 2097152 + o.toNat = o.toNat * 2 ^ 0 + (0 * 2 ^ 16 + (l.toNat * 2 ^ 21 + (p.toNat * 2 ^ 23 + (0x13 * 2 ^ 26 + 0))))
    omega
  | loopr p l k o =>
    show 0x50000000 + p.toNat * 8388608 + l.toNat * 2097152 + k.toNat * 65536 + o.toNat = o.toNat * 2 ^ 0 + (k.toNat * 2 ^ 16 + (l.toNat * 2 ^ 21 + (p.toNat * 2 ^ 23 + (0x14 * 2 ^ 26 + 0))))
    omega
  | jr p a =>
    show 0x54000000 + p.toNat * 8388608 + a.toNat * 2048 = 0 * 2 ^ 0 + (0 * 2 ^ 5 + (a.toNat * 2 ^ 11 + (0 * 2 ^ 17 + (p.toNat * 2 ^ 23 + (0x15 * 2 ^ 26 + 0)))))
    omega
  | jrl p d a =>
    show 0x54000001 + p.toNat * 8388608 + d.toNat * 131072 + a.toNat * 2048 = 1 * 2 ^ 0 + (0 * 2 ^ 5 + (a.toNat * 2 ^ 11 + (d.toNat * 2 ^ 17 + (p.toNat * 2 ^ 23 + (0x15 * 2 ^ 26 + 0)))))
    omega
  | trap p c =>
    show 0x54000002 + p.toNat * 8388608 + c.toNat * 32 = 2 * 2 ^ 0 + (c.toNat * 2 ^ 5 + (0 * 2 ^ 17 + (p.toNat * 2 ^ 23 + (0x15 * 2 ^ 26 + 0))))
    omega
  | eret p =>
    show 0x54000003 + p.toNat * 8388608 = 3 * 2 ^ 0 + (0 * 2 ^ 5 + (p.toNat * 2 ^ 23 + (0x15 * 2 ^ 26 + 0)))
    omega
  | uiret p =>
    show 0x54000004 + p.toNat * 8388608 = 4 * 2 ^ 0 + (0 * 2 ^ 5 + (p.toNat * 2 ^ 23 + (0x15 * 2 ^ 26 + 0)))
    omega
  | wait p l s c t =>
    show 0x58000000 + p.toNat * 8388608 + l.toNat * 32768 + s.toNat * 1024 + c.toNat * 32 + t.toNat = t.toNat * 2 ^ 0 + (c.toNat * 2 ^ 5 + (s.toNat * 2 ^ 10 + (l.toNat * 2 ^ 15 + (0 * 2 ^ 20 + (p.toNat * 2 ^ 23 + (0x16 * 2 ^ 26 + 0))))))
    omega
  | vdot p d a b t =>
    show 0x5C000000 + p.toNat * 8388608 + d.toNat * 65536 + a.toNat * 512 + b.toNat * 4 + t.toNat = t.toNat * 2 ^ 0 + (b.toNat * 2 ^ 2 + (a.toNat * 2 ^ 9 + (d.toNat * 2 ^ 16 + (p.toNat * 2 ^ 23 + (0x17 * 2 ^ 26 + 0)))))
    omega
  | _ => exact absurd hm Bool.false_ne_true

theorem decodeMajor_layout_06 {i : Instr} {w : W32} {ig : Bool} (hm : (Nat.ble 0x06 i.major && Nat.ble i.major 0x17) = true)
    (hig : i.major = 0x17 ∨ 0x3C ≤ i.major → ig = true) (h : Fields w (layout i)) : decodeMajor ig w = .op i := by
  cases i with
  | addi =>
    obtain ⟨h0, h11, h17, h23, h26, -⟩ := h
    unfold decodeMajor decodeMajor06
    rw [h26]; dsimp only; rw [h0, h11, h17, h23]; rfl
  | andi =>
    obtain ⟨h0, h11, h17, h23, h26, -⟩ := h
    unfold decodeMajor decodeMajor07
    rw [h26]; dsimp only; rw [h0, h11, h17, h23]; rfl
  | ori =>
    obtain ⟨h0, h11, h17, h23, h26, -⟩ := h
    unfold decodeMajor decodeMajor08
    rw [h26]; dsimp only; rw [h0, h11, h17, h23]; rfl
  | xori =>
    obtain ⟨h0, h11, h17, h23, h26, -⟩ := h
    unfold decodeMajor decodeMajor09
    rw [h26]; dsimp only; rw [h0, h11, h17, h23]; rfl
  | shli =>
    obtain ⟨h0, h6, h8, h11, h17, h23, h26, -⟩ := h
    unfold decodeMajor decodeMajor0A
    rw [h26]; dsimp only; rw [h0, h6, h8, h11, h17, h23]; rfl
  | shri =>
    obtain ⟨h0, h6, h8, h11, h17, h23, h26, -⟩ := h
    unfold decodeMajor decodeMajor0A
    rw [h26]; dsimp only; rw [h0, h6, h8, h11, h17, h23]; rfl
  | sari =>
    obtain ⟨h0, h6, h8, h11, h17, h23, h26, -⟩ := h
    unfold decodeMajor decodeMajor0A
    rw [h26]; dsimp only; rw [h0, h6, h8, h11, h17, h23]; rfl
  | cmpi =>
    obtain ⟨h0, h11, h17, h20, h23, h26, -⟩ := h
    unfold decodeMajor decodeMajor0B
    rw [h26]; dsimp only; rw [h0, h11, h17, h20, h23]; rfl
  | cmpiu =>
    obtain ⟨h0, h11, h17, h20, h23, h26, -⟩ := h
    unfold decodeMajor decodeMajor0C
    rw [h26]; dsimp only; rw [h0, h11, h17, h20, h23]; rfl
  | movi =>
    obtain ⟨h0, h17, h23, h26, -⟩ := h
    unfold decodeMajor decodeMajor0D
    rw [h26]; dsimp only; rw [h0, h17, h23]; rfl
  | movhi =>
    obtain ⟨h0, h17, h23, h26, -⟩ := h
    unfold decodeMajor decodeMajor0E
    rw [h26]; dsimp only; rw [h0, h17, h23]; rfl
  | csrr =>
    obtain ⟨h0, h11, h17, h23, h26, -⟩ := h
    unfold decodeMajor decodeMajor0F
    rw [h26]; dsimp only; rw [h0, h11, h17, h23]; rfl
  | csrw =>
    obtain ⟨h0, h11, h17, h23, h26, -⟩ := h
    unfold decodeMajor decodeMajor10
    rw [h26]; dsimp only; rw [h0, h11, h17, h23]; rfl
  | br =>
    obtain ⟨h0, h20, h23, h26, -⟩ := h
    unfold decodeMajor decodeMajor11
    rw [h26]; dsimp only; rw [h0, h20, h23]; rfl
  | brl =>
    obtain ⟨h0, h20, h23, h26, -⟩ := h
    unfold decodeMajor decodeMajor12
    rw [h26]; dsimp only; rw [h0, h20, h23]; rfl
  | loop =>
    obtain ⟨h0, h16, h21, h23, h26, -⟩ := h
    unfold decodeMajor decodeMajor13
    rw [h26]; dsimp only; rw [h0, h16, h21, h23]; rfl
  | loopr =>
    obtain ⟨h0, h16, h21, h23, h26, -⟩ := h
    unfold decodeMajor decodeMajor14
    rw [h26]; dsimp only; rw [h0, h16, h21, h23]; rfl
  | jr =>
    obtain ⟨h0, h5, h11, h17, h23, h26, -⟩ := h
    unfold decodeMajor decodeMajor15
    rw [h26]; dsimp only; rw [h0, h5, h11, h17, h23]; rfl
  | jrl =>
    obtain ⟨h0, h5, h11, h17, h23, h26, -⟩ := h
    unfold decodeMajor decodeMajor15
    rw [h26]; dsimp only; rw [h0, h5, h11, h17, h23]; rfl
  | trap =>
    obtain ⟨h0, h5, h17, h23, h26, -⟩ := h
    unfold decodeMajor decodeMajor15
    rw [h26]; dsimp only; rw [h0, h5, h17, h23]; rfl
  | eret =>
    obtain ⟨h0, h5, h23, h26, -⟩ := h
    unfold decodeMajor decodeMajor15
    rw [h26]; dsimp only; rw [h0, h5, h23]; rfl
  | uiret =>
    obtain ⟨h0, h5, h23, h26, -⟩ := h
    unfold decodeMajor decodeMajor15
    rw [h26]; dsimp only; rw [h0, h5, h23]; rfl
  | wait =>
    obtain ⟨h0, h5, h10, h15, h20, h23, h26, -⟩ := h
    unfold decodeMajor decodeMajor16
    rw [h26]; dsimp only; rw [h0, h5, h10, h15, h20, h23]; rfl
  | vdot =>
    obtain ⟨h0, h2, h9, h16, h23, h26, -⟩ := h
    obtain rfl : ig = true := hig (.inl rfl)
    unfold decodeMajor decodeMajor17
    rw [h26]; dsimp only; rw [h0, h2, h9, h16, h23]; rfl
  | _ => exact absurd hm Bool.false_ne_true

theorem encodeNat_eq_18 {i : Instr} (hm : (Nat.ble 0x18 i.major && Nat.ble i.major 0x26) = true) :
    encodeNat i = fieldSum (layout i) := by
  cases i with
  | vadd p d a b t =>
    show 0x60000000 + p.toNat * 8388608 + d.toNat * 65536 + a.toNat * 512 + b.toNat * 4 + t.toNat = t.toNat * 2 ^ 0 + (b.toNat * 2 ^ 2 + (a.toNat * 2 ^ 9 + (d.toNat * 2 ^ 16 + (p.toNat * 2 ^ 23 + (0x18 * 2 ^ 26 + 0)))))
    omega
  | vsub p d a b t =>
    show 0x64000000 + p.toNat * 8388608 + d.toNat * 65536 + a.toNat * 512 + b.toNat * 4 + t.toNat = t.toNat * 2 ^ 0 + (b.toNat * 2 ^ 2 + (a.toNat * 2 ^ 9 + (d.toNat * 2 ^ 16 + (p.toNat * 2 ^ 23 + (0x19 * 2 ^ 26 + 0)))))
    omega
  | vmul p d a b t =>
    show 0x68000000 + p.toNat * 8388608 + d.toNat * 65536 + a.toNat * 512 + b.toNat * 4 + t.toNat = t.toNat * 2 ^ 0 + (b.toNat * 2 ^ 2 + (a.toNat * 2 ^ 9 + (d.toNat * 2 ^ 16 + (p.toNat * 2 ^ 23 + (0x1A * 2 ^ 26 + 0)))))
    omega
  | vfma p d a b t =>
    show 0x6C000000 + p.toNat * 8388608 + d.toNat * 65536 + a.toNat * 512 + b.toNat * 4 + t.toNat = t.toNat * 2 ^ 0 + (b.toNat * 2 ^ 2 + (a.toNat * 2 ^ 9 + (d.toNat * 2 ^ 16 + (p.toNat * 2 ^ 23 + (0x1B * 2 ^ 26 + 0)))))
    omega
  | vfms p d a b t =>
    show 0x70000000 + p.toNat * 8388608 + d.toNat * 65536 + a.toNat * 512 + b.toNat * 4 + t.toNat = t.toNat * 2 ^ 0 + (b.toNat * 2 ^ 2 + (a.toNat * 2 ^ 9 + (d.toNat * 2 ^ 16 + (p.toNat * 2 ^ 23 + (0x1C * 2 ^ 26 + 0)))))
    omega
  | vmax p d a b t =>
    show 0x74000000 + p.toNat * 8388608 + d.toNat * 65536 + a.toNat * 512 + b.toNat * 4 + t.toNat = t.toNat * 2 ^ 0 + (b.toNat * 2 ^ 2 + (a.toNat * 2 ^ 9 + (d.toNat * 2 ^ 16 + (p.toNat * 2 ^ 23 + (0x1D * 2 ^ 26 + 0)))))
    omega
  | vmin p d a b t =>
    show 0x78000000 + p.toNat * 8388608 + d.toNat * 65536 + a.toNat * 512 + b.toNat * 4 + t.toNat = t.toNat * 2 ^ 0 + (b.toNat * 2 ^ 2 + (a.toNat * 2 ^ 9 + (d.toNat * 2 ^ 16 + (p.toNat * 2 ^ 23 + (0x1E * 2 ^ 26 + 0)))))
    omega
  | vand p d a b =>
    show 0x7C000000 + p.toNat * 8388608 + d.toNat * 65536 + a.toNat * 512 + b.toNat * 4 = 0 * 2 ^ 0 + (b.toNat * 2 ^ 2 + (a.toNat * 2 ^ 9 + (d.toNat * 2 ^ 16 + (p.toNat * 2 ^ 23 + (0x1F * 2 ^ 26 + 0)))))
    omega
  | vor p d a b =>
    show 0x7C000001 + p.toNat * 8388608 + d.toNat * 65536 + a.toNat * 512 + b.toNat * 4 = 1 * 2 ^ 0 + (b.toNat * 2 ^ 2 + (a.toNat * 2 ^ 9 + (d.toNat * 2 ^ 16 + (p.toNat * 2 ^ 23 + (0x1F * 2 ^ 26 + 0)))))
    omega
  | vxor p d a b =>
    show 0x7C000002 + p.toNat * 8388608 + d.toNat * 65536 + a.toNat * 512 + b.toNat * 4 = 2 * 2 ^ 0 + (b.toNat * 2 ^ 2 + (a.toNat * 2 ^ 9 + (d.toNat * 2 ^ 16 + (p.toNat * 2 ^ 23 + (0x1F * 2 ^ 26 + 0)))))
    omega
  | vshl p d a b =>
    show 0x80000000 + p.toNat * 8388608 + d.toNat * 65536 + a.toNat * 512 + b.toNat * 4 = 0 * 2 ^ 0 + (b.toNat * 2 ^ 2 + (a.toNat * 2 ^ 9 + (d.toNat * 2 ^ 16 + (p.toNat * 2 ^ 23 + (0x20 * 2 ^ 26 + 0)))))
    omega
  | vshr p d a b =>
    show 0x80000001 + p.toNat * 8388608 + d.toNat * 65536 + a.toNat * 512 + b.toNat * 4 = 1 * 2 ^ 0 + (b.toNat * 2 ^ 2 + (a.toNat * 2 ^ 9 + (d.toNat * 2 ^ 16 + (p.toNat * 2 ^ 23 + (0x20 * 2 ^ 26 + 0)))))
    omega
  | vsar p d a b =>
    show 0x80000002 + p.toNat * 8388608 + d.toNat * 65536 + a.toNat * 512 + b.toNat * 4 = 2 * 2 ^ 0 + (b.toNat * 2 ^ 2 + (a.toNat * 2 ^ 9 + (d.toNat * 2 ^ 16 + (p.toNat * 2 ^ 23 + (0x20 * 2 ^ 26 + 0)))))
    omega
  | vcmp p c d a b t =>
    show 0x84000000 + p.toNat * 8388608 + c.toNat * 2097152 + d.toNat * 65536 + a.toNat * 512 + b.toNat * 4 + t.toNat = t.toNat * 2 ^ 0 + (b.toNat * 2 ^ 2 + (a.toNat * 2 ^ 9 + (d.toNat * 2 ^ 16 + (c.toNat * 2 ^ 21 + (p.toNat * 2 ^ 23 + (0x21 * 2 ^ 26 + 0))))))
    omega
  | vsel p d a b t =>
    show 0x88000000 + p.toNat * 8388608 + d.toNat * 65536 + a.toNat * 512 + b.toNat * 4 + t.toNat = t.toNat * 2 ^ 0 + (b.toNat * 2 ^ 2 + (a.toNat * 2 ^ 9 + (d.toNat * 2 ^ 16 + (p.toNat * 2 ^ 23 + (0x22 * 2 ^ 26 + 0)))))
    omega
  | vshf p d a b t =>
    show 0x8C000000 + p.toNat * 8388608 + d.toNat * 65536 + a.toNat * 512 + b.toNat * 4 + t.toNat = t.toNat * 2 ^ 0 + (b.toNat * 2 ^ 2 + (a.toNat * 2 ^ 9 + (d.toNat * 2 ^ 16 + (p.toNat * 2 ^ 23 + (0x23 * 2 ^ 26 + 0)))))
    omega
  | vrotl p d a n t =>
    show 0x90000000 + p.toNat * 8388608 + d.toNat * 65536 + a.toNat * 512 + n.toNat * 4 + t.toNat = t.toNat * 2 ^ 0 + (n.toNat * 2 ^ 2 + (a.toNat * 2 ^ 9 + (d.toNat * 2 ^ 16 + (p.toNat * 2 ^ 23 + (0x24 * 2 ^ 26 + 0)))))
    omega
  | vmov p d a t =>
    show 0x94000000 + p.toNat * 8388608 + d.toNat * 65536 + a.toNat * 512 + t.toNat = t.toNat * 2 ^ 0 + (0 * 2 ^ 2 + (a.toNat * 2 ^ 9 + (d.toNat * 2 ^ 16 + (p.toNat * 2 ^ 23 + (0x25 * 2 ^ 26 + 0)))))
    omega
  | vabs p d a t =>
    show 0x94000004 + p.toNat * 8388608 + d.toNat * 65536 + a.toNat * 512 + t.toNat = t.toNat * 2 ^ 0 + (1 * 2 ^ 2 + (a.toNat * 2 ^ 9 + (d.toNat * 2 ^ 16 + (p.toNat * 2 ^ 23 + (0x25 * 2 ^ 26 + 0)))))
    omega
  | vneg p d a t =>
    show 0x94000008 + p.toNat * 8388608 + d.toNat * 65536 + a.toNat * 512 + t.toNat = t.toNat * 2 ^ 0 + (2 * 2 ^ 2 + (a.toNat * 2 ^ 9 + (d.toNat * 2 ^ 16 + (p.toNat * 2 ^ 23 + (0x25 * 2 ^ 26 + 0)))))
    omega
  | viota p d t =>
    show 0x9400000C + p.toNat * 8388608 + d.toNat * 65536 + t.toNat = t.toNat * 2 ^ 0 + (3 * 2 ^ 2 + (0 * 2 ^ 9 + (d.toNat * 2 ^ 16 + (p.toNat * 2 ^ 23 + (0x25 * 2 ^ 26 + 0)))))
    omega
  | vclr p d =>
    show 0x94000010 + p.toNat * 8388608 + d.toNat * 65536 = 0 * 2 ^ 0 + (4 * 2 ^ 2 + (0 * 2 ^ 9 + (d.toNat * 2 ^ 16 + (p.toNat * 2 ^ 23 + (0x25 * 2 ^ 26 + 0)))))
    omega
  | vbc p d s t =>
    show 0x98000000 + p.toNat * 8388608 + d.toNat * 65536 + s.toNat * 1024 + t.toNat = t.toNat * 2 ^ 0 + (0 * 2 ^ 2 + (0 * 2 ^ 8 + (s.toNat * 2 ^ 10 + (d.toNat * 2 ^ 16 + (p.toNat * 2 ^ 23 + (0x26 * 2 ^ 26 + 0))))))
    omega
  | vxt p v d l t =>
    show 0x98000100 + p.toNat * 8388608 + v.toNat * 65536 + d.toNat * 1024 + l.toNat * 4 + t.toNat = t.toNat * 2 ^ 0 + (l.toNat * 2 ^ 2 + (1 * 2 ^ 8 + (d.toNat * 2 ^ 10 + (v.toNat * 2 ^ 16 + (p.toNat * 2 ^ 23 + (0x26 * 2 ^ 26 + 0))))))
    omega
  | vins p v s l t =>
    show 0x98000200 + p.toNat * 8388608 + v.toNat * 65536 + s.toNat * 1024 + l.toNat * 4 + t.toNat = t.toNat * 2 ^ 0 + (l.toNat * 2 ^ 2 + (2 * 2 ^ 8 + (s.toNat * 2 ^ 10 + (v.toNat * 2 ^ 16 + (p.toNat * 2 ^ 23 + (0x26 * 2 ^ 26 + 0))))))
    omega
  | _ => exact absurd hm Bool.false_ne_true

theorem decodeMajor_layout_18 {i : Instr} {w : W32} {ig : Bool} (hm : (Nat.ble 0x18 i.major && Nat.ble i.major 0x26) = true)
    (hig : i.major = 0x17 ∨ 0x3C ≤ i.major → ig = true) (h : Fields w (layout i)) : decodeMajor ig w = .op i := by
  cases i with
  | vadd =>
    obtain ⟨h0, h2, h9, h16, h23, h26, -⟩ := h
    unfold decodeMajor decodeMajor18
    rw [h26]; dsimp only; rw [h0, h2, h9, h16, h23]; rfl
  | vsub =>
    obtain ⟨h0, h2, h9, h16, h23, h26, -⟩ := h
    unfold decodeMajor decodeMajor19
    rw [h26]; dsimp only; rw [h0, h2, h9, h16, h23]; rfl
  | vmul =>
    obtain ⟨h0, h2, h9, h16, h23, h26, -⟩ := h
    unfold decodeMajor decodeMajor1A
    rw [h26]; dsimp only; rw [h0, h2, h9, h16, h23]; rfl
  | vfma =>
    obtain ⟨h0, h2, h9, h16, h23, h26, -⟩ := h
    unfold decodeMajor decodeMajor1B
    rw [h26]; dsimp only; rw [h0, h2, h9, h16, h23]; rfl
  | vfms =>
    obtain ⟨h0, h2, h9, h16, h23, h26, -⟩ := h
    unfold decodeMajor decodeMajor1C
    rw [h26]; dsimp only; rw [h0, h2, h9, h16, h23]; rfl
  | vmax =>
    obtain ⟨h0, h2, h9, h16, h23, h26, -⟩ := h
    unfold decodeMajor decodeMajor1D
    rw [h26]; dsimp only; rw [h0, h2, h9, h16, h23]; rfl
  | vmin =>
    obtain ⟨h0, h2, h9, h16, h23, h26, -⟩ := h
    unfold decodeMajor decodeMajor1E
    rw [h26]; dsimp only; rw [h0, h2, h9, h16, h23]; rfl
  | vand =>
    obtain ⟨h0, h2, h9, h16, h23, h26, -⟩ := h
    unfold decodeMajor decodeMajor1F
    rw [h26]; dsimp only; rw [h0, h2, h9, h16, h23]; rfl
  | vor =>
    obtain ⟨h0, h2, h9, h16, h23, h26, -⟩ := h
    unfold decodeMajor decodeMajor1F
    rw [h26]; dsimp only; rw [h0, h2, h9, h16, h23]; rfl
  | vxor =>
    obtain ⟨h0, h2, h9, h16, h23, h26, -⟩ := h
    unfold decodeMajor decodeMajor1F
    rw [h26]; dsimp only; rw [h0, h2, h9, h16, h23]; rfl
  | vshl =>
    obtain ⟨h0, h2, h9, h16, h23, h26, -⟩ := h
    unfold decodeMajor decodeMajor20
    rw [h26]; dsimp only; rw [h0, h2, h9, h16, h23]; rfl
  | vshr =>
    obtain ⟨h0, h2, h9, h16, h23, h26, -⟩ := h
    unfold decodeMajor decodeMajor20
    rw [h26]; dsimp only; rw [h0, h2, h9, h16, h23]; rfl
  | vsar =>
    obtain ⟨h0, h2, h9, h16, h23, h26, -⟩ := h
    unfold decodeMajor decodeMajor20
    rw [h26]; dsimp only; rw [h0, h2, h9, h16, h23]; rfl
  | vcmp =>
    obtain ⟨h0, h2, h9, h16, h21, h23, h26, -⟩ := h
    unfold decodeMajor decodeMajor21
    rw [h26]; dsimp only; rw [h0, h2, h9, h16, h21, h23]; rfl
  | vsel =>
    obtain ⟨h0, h2, h9, h16, h23, h26, -⟩ := h
    unfold decodeMajor decodeMajor22
    rw [h26]; dsimp only; rw [h0, h2, h9, h16, h23]; rfl
  | vshf =>
    obtain ⟨h0, h2, h9, h16, h23, h26, -⟩ := h
    unfold decodeMajor decodeMajor23
    rw [h26]; dsimp only; rw [h0, h2, h9, h16, h23]; rfl
  | vrotl =>
    obtain ⟨h0, h2, h9, h16, h23, h26, -⟩ := h
    unfold decodeMajor decodeMajor24
    rw [h26]; dsimp only; rw [h0, h2, h9, h16, h23]; rfl
  | vmov =>
    obtain ⟨h0, h2, h9, h16, h23, h26, -⟩ := h
    unfold decodeMajor decodeMajor25
    rw [h26]; dsimp only; rw [h0, h2, h9, h16, h23]; rfl
  | vabs =>
    obtain ⟨h0, h2, h9, h16, h23, h26, -⟩ := h
    unfold decodeMajor decodeMajor25
    rw [h26]; dsimp only; rw [h0, h2, h9, h16, h23]; rfl
  | vneg =>
    obtain ⟨h0, h2, h9, h16, h23, h26, -⟩ := h
    unfold decodeMajor decodeMajor25
    rw [h26]; dsimp only; rw [h0, h2, h9, h16, h23]; rfl
  | viota =>
    obtain ⟨h0, h2, h9, h16, h23, h26, -⟩ := h
    unfold decodeMajor decodeMajor25
    rw [h26]; dsimp only; rw [h0, h2, h9, h16, h23]; rfl
  | vclr =>
    obtain ⟨h0, h2, h9, h16, h23, h26, -⟩ := h
    unfold decodeMajor decodeMajor25
    rw [h26]; dsimp only; rw [h0, h2, h9, h16, h23]; rfl
  | vbc =>
    obtain ⟨h0, h2, h8, h10, h16, h23, h26, -⟩ := h
    unfold decodeMajor decodeMajor26
    rw [h26]; dsimp only; rw [h0, h2, h8, h10, h16, h23]; rfl
  | vxt =>
    obtain ⟨h0, h2, h8, h10, h16, h23, h26, -⟩ := h
    unfold decodeMajor decodeMajor26
    rw [h26]; dsimp only; rw [h0, h2, h8, h10, h16, h23]; rfl
  | vins =>
    obtain ⟨h0, h2, h8, h10, h16, h23, h26, -⟩ := h
    unfold decodeMajor decodeMajor26
    rw [h26]; dsimp only; rw [h0, h2, h8, h10, h16, h23]; rfl
  | _ => exact absurd hm Bool.false_ne_true

theorem encodeNat_eq_27 {i : Instr} (hm : (Nat.ble 0x27 i.major && Nat.ble i.major 0x31) = true) :
    encodeNat i = fieldSum (layout i) := by
  cases i with
  | vredSum p d a t =>
    show 0x9C000000 + p.toNat * 8388608 + d.toNat * 65536 + a.toNat * 512 + t.toNat = t.toNat * 2 ^ 0 + (0 * 2 ^ 2 + (a.toNat * 2 ^ 9 + (d.toNat * 2 ^ 16 + (p.toNat * 2 ^ 23 + (0x27 * 2 ^ 26 + 0)))))
    omega
  | vredMax p d a t =>
    show 0x9C000004 + p.toNat * 8388608 + d.toNat * 65536 + a.toNat * 512 + t.toNat = t.toNat * 2 ^ 0 + (1 * 2 ^ 2 + (a.toNat * 2 ^ 9 + (d.toNat * 2 ^ 16 + (p.toNat * 2 ^ 23 + (0x27 * 2 ^ 26 + 0)))))
    omega
  | vredMin p d a t =>
    show 0x9C000008 + p.toNat * 8388608 + d.toNat * 65536 + a.toNat * 512 + t.toNat = t.toNat * 2 ^ 0 + (2 * 2 ^ 2 + (a.toNat * 2 ^ 9 + (d.toNat * 2 ^ 16 + (p.toNat * 2 ^ 23 + (0x27 * 2 ^ 26 + 0)))))
    omega
  | vcvt p d a e t =>
    show 0xA0000000 + p.toNat * 8388608 + d.toNat * 65536 + a.toNat * 512 + e.toNat * 4 + t.toNat = t.toNat * 2 ^ 0 + (e.toNat * 2 ^ 2 + (0 * 2 ^ 4 + (a.toNat * 2 ^ 9 + (d.toNat * 2 ^ 16 + (p.toNat * 2 ^ 23 + (0x28 * 2 ^ 26 + 0))))))
    omega
  | cmptv p a b t =>
    show 0xA4000000 + p.toNat * 8388608 + a.toNat * 512 + b.toNat * 4 + t.toNat = t.toNat * 2 ^ 0 + (b.toNat * 2 ^ 2 + (a.toNat * 2 ^ 9 + (0 * 2 ^ 16 + (p.toNat * 2 ^ 23 + (0x29 * 2 ^ 26 + 0)))))
    omega
  | vexp2 p d a t =>
    show 0xA8000000 + p.toNat * 8388608 + d.toNat * 65536 + a.toNat * 512 + t.toNat = t.toNat * 2 ^ 0 + (0 * 2 ^ 2 + (a.toNat * 2 ^ 9 + (d.toNat * 2 ^ 16 + (p.toNat * 2 ^ 23 + (0x2A * 2 ^ 26 + 0)))))
    omega
  | vlog2 p d a t =>
    show 0xA8000004 + p.toNat * 8388608 + d.toNat * 65536 + a.toNat * 512 + t.toNat = t.toNat * 2 ^ 0 + (1 * 2 ^ 2 + (a.toNat * 2 ^ 9 + (d.toNat * 2 ^ 16 + (p.toNat * 2 ^ 23 + (0x2A * 2 ^ 26 + 0)))))
    omega
  | vrcp p d a t =>
    show 0xA8000008 + p.toNat * 8388608 + d.toNat * 65536 + a.toNat * 512 + t.toNat = t.toNat * 2 ^ 0 + (2 * 2 ^ 2 + (a.toNat * 2 ^ 9 + (d.toNat * 2 ^ 16 + (p.toNat * 2 ^ 23 + (0x2A * 2 ^ 26 + 0)))))
    omega
  | vrsq p d a t =>
    show 0xA800000C + p.toNat * 8388608 + d.toNat * 65536 + a.toNat * 512 + t.toNat = t.toNat * 2 ^ 0 + (3 * 2 ^ 2 + (a.toNat * 2 ^ 9 + (d.toNat * 2 ^ 16 + (p.toNat * 2 ^ 23 + (0x2A * 2 ^ 26 + 0)))))
    omega
  | vsin p d a t =>
    show 0xA8000010 + p.toNat * 8388608 + d.toNat * 65536 + a.toNat * 512 + t.toNat = t.toNat * 2 ^ 0 + (4 * 2 ^ 2 + (a.toNat * 2 ^ 9 + (d.toNat * 2 ^ 16 + (p.toNat * 2 ^ 23 + (0x2A * 2 ^ 26 + 0)))))
    omega
  | vtanh p d a t =>
    show 0xA8000014 + p.toNat * 8388608 + d.toNat * 65536 + a.toNat * 512 + t.toNat = t.toNat * 2 ^ 0 + (5 * 2 ^ 2 + (a.toNat * 2 ^ 9 + (d.toNat * 2 ^ 16 + (p.toNat * 2 ^ 23 + (0x2A * 2 ^ 26 + 0)))))
    omega
  | vunpk p d a f k t =>
    show 0xAC000000 + p.toNat * 8388608 + d.toNat * 65536 + a.toNat * 512 + f.toNat * 32 + k.toNat * 4 + t.toNat = t.toNat * 2 ^ 0 + (k.toNat * 2 ^ 2 + (f.toNat * 2 ^ 5 + (a.toNat * 2 ^ 9 + (d.toNat * 2 ^ 16 + (p.toNat * 2 ^ 23 + (0x2B * 2 ^ 26 + 0))))))
    omega
  | vpack p d a f k t =>
    show 0xB0000000 + p.toNat * 8388608 + d.toNat * 65536 + a.toNat * 512 + f.toNat * 32 + k.toNat * 4 + t.toNat = t.toNat * 2 ^ 0 + (k.toNat * 2 ^ 2 + (f.toNat * 2 ^ 5 + (a.toNat * 2 ^ 9 + (d.toNat * 2 ^ 16 + (p.toNat * 2 ^ 23 + (0x2C * 2 ^ 26 + 0))))))
    omega
  | vbscl p d a b t =>
    show 0xB4000000 + p.toNat * 8388608 + d.toNat * 65536 + a.toNat * 512 + b.toNat * 4 + t.toNat = t.toNat * 2 ^ 0 + (b.toNat * 2 ^ 2 + (a.toNat * 2 ^ 9 + (d.toNat * 2 ^ 16 + (p.toNat * 2 ^ 23 + (0x2D * 2 ^ 26 + 0)))))
    omega
  | vld p v a o =>
    show 0xB8000000 + p.toNat * 8388608 + v.toNat * 65536 + a.toNat * 1024 + o.toNat = o.toNat * 2 ^ 0 + (0 * 2 ^ 8 + (a.toNat * 2 ^ 10 + (v.toNat * 2 ^ 16 + (p.toNat * 2 ^ 23 + (0x2E * 2 ^ 26 + 0)))))
    omega
  | vst p v a o =>
    show 0xB8000100 + p.toNat * 8388608 + v.toNat * 65536 + a.toNat * 1024 + o.toNat = o.toNat * 2 ^ 0 + (1 * 2 ^ 8 + (a.toNat * 2 ^ 10 + (v.toNat * 2 ^ 16 + (p.toNat * 2 ^ 23 + (0x2E * 2 ^ 26 + 0)))))
    omega
  | vlds p v a o =>
    show 0xB8000200 + p.toNat * 8388608 + v.toNat * 65536 + a.toNat * 1024 + o.toNat = o.toNat * 2 ^ 0 + (2 * 2 ^ 8 + (a.toNat * 2 ^ 10 + (v.toNat * 2 ^ 16 + (p.toNat * 2 ^ 23 + (0x2E * 2 ^ 26 + 0)))))
    omega
  | vsts p v a o =>
    show 0xB8000300 + p.toNat * 8388608 + v.toNat * 65536 + a.toNat * 1024 + o.toNat = o.toNat * 2 ^ 0 + (3 * 2 ^ 8 + (a.toNat * 2 ^ 10 + (v.toNat * 2 ^ 16 + (p.toNat * 2 ^ 23 + (0x2E * 2 ^ 26 + 0)))))
    omega
  | sadd p d a b r =>
    show 0xBC000000 + p.toNat * 8388608 + d.toNat * 65536 + a.toNat * 512 + b.toNat * 4 + r.toNat = r.toNat * 2 ^ 0 + (b.toNat * 2 ^ 2 + (a.toNat * 2 ^ 9 + (d.toNat * 2 ^ 16 + (0 * 2 ^ 21 + (p.toNat * 2 ^ 23 + (0x2F * 2 ^ 26 + 0))))))
    omega
  | ssub p d a b r =>
    show 0xBC200000 + p.toNat * 8388608 + d.toNat * 65536 + a.toNat * 512 + b.toNat * 4 + r.toNat = r.toNat * 2 ^ 0 + (b.toNat * 2 ^ 2 + (a.toNat * 2 ^ 9 + (d.toNat * 2 ^ 16 + (1 * 2 ^ 21 + (p.toNat * 2 ^ 23 + (0x2F * 2 ^ 26 + 0))))))
    omega
  | smul p d a b r =>
    show 0xBC400000 + p.toNat * 8388608 + d.toNat * 65536 + a.toNat * 512 + b.toNat * 4 + r.toNat = r.toNat * 2 ^ 0 + (b.toNat * 2 ^ 2 + (a.toNat * 2 ^ 9 + (d.toNat * 2 ^ 16 + (2 * 2 ^ 21 + (p.toNat * 2 ^ 23 + (0x2F * 2 ^ 26 + 0))))))
    omega
  | sdiv p d a b r =>
    show 0xBC600000 + p.toNat * 8388608 + d.toNat * 65536 + a.toNat * 512 + b.toNat * 4 + r.toNat = r.toNat * 2 ^ 0 + (b.toNat * 2 ^ 2 + (a.toNat * 2 ^ 9 + (d.toNat * 2 ^ 16 + (3 * 2 ^ 21 + (p.toNat * 2 ^ 23 + (0x2F * 2 ^ 26 + 0))))))
    omega
  | suni p d a b r =>
    show 0xC0000000 + p.toNat * 8388608 + d.toNat * 65536 + a.toNat * 512 + b.toNat * 4 + r.toNat = r.toNat * 2 ^ 0 + (b.toNat * 2 ^ 2 + (a.toNat * 2 ^ 9 + (d.toNat * 2 ^ 16 + (0 * 2 ^ 21 + (p.toNat * 2 ^ 23 + (0x30 * 2 ^ 26 + 0))))))
    omega
  | sint p d a b r =>
    show 0xC0200000 + p.toNat * 8388608 + d.toNat * 65536 + a.toNat * 512 + b.toNat * 4 + r.toNat = r.toNat * 2 ^ 0 + (b.toNat * 2 ^ 2 + (a.toNat * 2 ^ 9 + (d.toNat * 2 ^ 16 + (1 * 2 ^ 21 + (p.toNat * 2 ^ 23 + (0x30 * 2 ^ 26 + 0))))))
    omega
  | scmp p d a b r =>
    show 0xC0400000 + p.toNat * 8388608 + d.toNat * 65536 + a.toNat * 512 + b.toNat * 4 + r.toNat = r.toNat * 2 ^ 0 + (b.toNat * 2 ^ 2 + (a.toNat * 2 ^ 9 + (d.toNat * 2 ^ 16 + (2 * 2 ^ 21 + (p.toNat * 2 ^ 23 + (0x30 * 2 ^ 26 + 0))))))
    omega
  | sneg p d a r =>
    show 0xC4000000 + p.toNat * 8388608 + d.toNat * 65536 + a.toNat * 512 + r.toNat = r.toNat * 2 ^ 0 + (0 * 2 ^ 2 + (a.toNat * 2 ^ 9 + (d.toNat * 2 ^ 16 + (p.toNat * 2 ^ 23 + (0x31 * 2 ^ 26 + 0)))))
    omega
  | sfrom p d a r =>
    show 0xC4000004 + p.toNat * 8388608 + d.toNat * 65536 + a.toNat * 512 + r.toNat = r.toNat * 2 ^ 0 + (1 * 2 ^ 2 + (a.toNat * 2 ^ 9 + (d.toNat * 2 ^ 16 + (p.toNat * 2 ^ 23 + (0x31 * 2 ^ 26 + 0)))))
    omega
  | sbnd p d a r =>
    show 0xC4000008 + p.toNat * 8388608 + d.toNat * 65536 + a.toNat * 512 + r.toNat = r.toNat * 2 ^ 0 + (2 * 2 ^ 2 + (a.toNat * 2 ^ 9 + (d.toNat * 2 ^ 16 + (p.toNat * 2 ^ 23 + (0x31 * 2 ^ 26 + 0)))))
    omega
  | sarc p d a r =>
    show 0xC400000C + p.toNat * 8388608 + d.toNat * 65536 + a.toNat * 512 + r.toNat = r.toNat * 2 ^ 0 + (3 * 2 ^ 2 + (a.toNat * 2 ^ 9 + (d.toNat * 2 ^ 16 + (p.toNat * 2 ^ 23 + (0x31 * 2 ^ 26 + 0)))))
    omega
  | smsk p d a r =>
    show 0xC4000010 + p.toNat * 8388608 + d.toNat * 65536 + a.toNat * 512 + r.toNat = r.toNat * 2 ^ 0 + (4 * 2 ^ 2 + (a.toNat * 2 ^ 9 + (d.toNat * 2 ^ 16 + (p.toNat * 2 ^ 23 + (0x31 * 2 ^ 26 + 0)))))
    omega
  | sred p d a r =>
    show 0xC4000014 + p.toNat * 8388608 + d.toNat * 65536 + a.toNat * 512 + r.toNat = r.toNat * 2 ^ 0 + (5 * 2 ^ 2 + (a.toNat * 2 ^ 9 + (d.toNat * 2 ^ 16 + (p.toNat * 2 ^ 23 + (0x31 * 2 ^ 26 + 0)))))
    omega
  | _ => exact absurd hm Bool.false_ne_true

theorem decodeMajor_layout_27 {i : Instr} {w : W32} {ig : Bool} (hm : (Nat.ble 0x27 i.major && Nat.ble i.major 0x31) = true)
    (hig : i.major = 0x17 ∨ 0x3C ≤ i.major → ig = true) (h : Fields w (layout i)) : decodeMajor ig w = .op i := by
  cases i with
  | vredSum =>
    obtain ⟨h0, h2, h9, h16, h23, h26, -⟩ := h
    unfold decodeMajor decodeMajor27
    rw [h26]; dsimp only; rw [h0, h2, h9, h16, h23]; rfl
  | vredMax =>
    obtain ⟨h0, h2, h9, h16, h23, h26, -⟩ := h
    unfold decodeMajor decodeMajor27
    rw [h26]; dsimp only; rw [h0, h2, h9, h16, h23]; rfl
  | vredMin =>
    obtain ⟨h0, h2, h9, h16, h23, h26, -⟩ := h
    unfold decodeMajor decodeMajor27
    rw [h26]; dsimp only; rw [h0, h2, h9, h16, h23]; rfl
  | vcvt =>
    obtain ⟨h0, h2, h4, h9, h16, h23, h26, -⟩ := h
    unfold decodeMajor decodeMajor28
    rw [h26]; dsimp only; rw [h0, h2, h4, h9, h16, h23]; rfl
  | cmptv =>
    obtain ⟨h0, h2, h9, h16, h23, h26, -⟩ := h
    unfold decodeMajor decodeMajor29
    rw [h26]; dsimp only; rw [h0, h2, h9, h16, h23]; rfl
  | vexp2 =>
    obtain ⟨h0, h2, h9, h16, h23, h26, -⟩ := h
    unfold decodeMajor decodeMajor2A
    rw [h26]; dsimp only; rw [h0, h2, h9, h16, h23]; rfl
  | vlog2 =>
    obtain ⟨h0, h2, h9, h16, h23, h26, -⟩ := h
    unfold decodeMajor decodeMajor2A
    rw [h26]; dsimp only; rw [h0, h2, h9, h16, h23]; rfl
  | vrcp =>
    obtain ⟨h0, h2, h9, h16, h23, h26, -⟩ := h
    unfold decodeMajor decodeMajor2A
    rw [h26]; dsimp only; rw [h0, h2, h9, h16, h23]; rfl
  | vrsq =>
    obtain ⟨h0, h2, h9, h16, h23, h26, -⟩ := h
    unfold decodeMajor decodeMajor2A
    rw [h26]; dsimp only; rw [h0, h2, h9, h16, h23]; rfl
  | vsin =>
    obtain ⟨h0, h2, h9, h16, h23, h26, -⟩ := h
    unfold decodeMajor decodeMajor2A
    rw [h26]; dsimp only; rw [h0, h2, h9, h16, h23]; rfl
  | vtanh =>
    obtain ⟨h0, h2, h9, h16, h23, h26, -⟩ := h
    unfold decodeMajor decodeMajor2A
    rw [h26]; dsimp only; rw [h0, h2, h9, h16, h23]; rfl
  | vunpk =>
    obtain ⟨h0, h2, h5, h9, h16, h23, h26, -⟩ := h
    unfold decodeMajor decodeMajor2B
    rw [h26]; dsimp only; rw [h0, h2, h5, h9, h16, h23]; rfl
  | vpack =>
    obtain ⟨h0, h2, h5, h9, h16, h23, h26, -⟩ := h
    unfold decodeMajor decodeMajor2C
    rw [h26]; dsimp only; rw [h0, h2, h5, h9, h16, h23]; rfl
  | vbscl =>
    obtain ⟨h0, h2, h9, h16, h23, h26, -⟩ := h
    unfold decodeMajor decodeMajor2D
    rw [h26]; dsimp only; rw [h0, h2, h9, h16, h23]; rfl
  | vld =>
    obtain ⟨h0, h8, h10, h16, h23, h26, -⟩ := h
    unfold decodeMajor decodeMajor2E
    rw [h26]; dsimp only; rw [h0, h8, h10, h16, h23]; rfl
  | vst =>
    obtain ⟨h0, h8, h10, h16, h23, h26, -⟩ := h
    unfold decodeMajor decodeMajor2E
    rw [h26]; dsimp only; rw [h0, h8, h10, h16, h23]; rfl
  | vlds =>
    obtain ⟨h0, h8, h10, h16, h23, h26, -⟩ := h
    unfold decodeMajor decodeMajor2E
    rw [h26]; dsimp only; rw [h0, h8, h10, h16, h23]; rfl
  | vsts =>
    obtain ⟨h0, h8, h10, h16, h23, h26, -⟩ := h
    unfold decodeMajor decodeMajor2E
    rw [h26]; dsimp only; rw [h0, h8, h10, h16, h23]; rfl
  | sadd =>
    obtain ⟨h0, h2, h9, h16, h21, h23, h26, -⟩ := h
    unfold decodeMajor decodeMajor2F
    rw [h26]; dsimp only; rw [h0, h2, h9, h16, h21, h23]; rfl
  | ssub =>
    obtain ⟨h0, h2, h9, h16, h21, h23, h26, -⟩ := h
    unfold decodeMajor decodeMajor2F
    rw [h26]; dsimp only; rw [h0, h2, h9, h16, h21, h23]; rfl
  | smul =>
    obtain ⟨h0, h2, h9, h16, h21, h23, h26, -⟩ := h
    unfold decodeMajor decodeMajor2F
    rw [h26]; dsimp only; rw [h0, h2, h9, h16, h21, h23]; rfl
  | sdiv =>
    obtain ⟨h0, h2, h9, h16, h21, h23, h26, -⟩ := h
    unfold decodeMajor decodeMajor2F
    rw [h26]; dsimp only; rw [h0, h2, h9, h16, h21, h23]; rfl
  | suni =>
    obtain ⟨h0, h2, h9, h16, h21, h23, h26, -⟩ := h
    unfold decodeMajor decodeMajor30
    rw [h26]; dsimp only; rw [h0, h2, h9, h16, h21, h23]; rfl
  | sint =>
    obtain ⟨h0, h2, h9, h16, h21, h23, h26, -⟩ := h
    unfold decodeMajor decodeMajor30
    rw [h26]; dsimp only; rw [h0, h2, h9, h16, h21, h23]; rfl
  | scmp =>
    obtain ⟨h0, h2, h9, h16, h21, h23, h26, -⟩ := h
    unfold decodeMajor decodeMajor30
    rw [h26]; dsimp only; rw [h0, h2, h9, h16, h21, h23]; rfl
  | sneg =>
    obtain ⟨h0, h2, h9, h16, h23, h26, -⟩ := h
    unfold decodeMajor decodeMajor31
    rw [h26]; dsimp only; rw [h0, h2, h9, h16, h23]; rfl
  | sfrom =>
    obtain ⟨h0, h2, h9, h16, h23, h26, -⟩ := h
    unfold decodeMajor decodeMajor31
    rw [h26]; dsimp only; rw [h0, h2, h9, h16, h23]; rfl
  | sbnd =>
    obtain ⟨h0, h2, h9, h16, h23, h26, -⟩ := h
    unfold decodeMajor decodeMajor31
    rw [h26]; dsimp only; rw [h0, h2, h9, h16, h23]; rfl
  | sarc =>
    obtain ⟨h0, h2, h9, h16, h23, h26, -⟩ := h
    unfold decodeMajor decodeMajor31
    rw [h26]; dsimp only; rw [h0, h2, h9, h16, h23]; rfl
  | smsk =>
    obtain ⟨h0, h2, h9, h16, h23, h26, -⟩ := h
    unfold decodeMajor decodeMajor31
    rw [h26]; dsimp only; rw [h0, h2, h9, h16, h23]; rfl
  | sred =>
    obtain ⟨h0, h2, h9, h16, h23, h26, -⟩ := h
    unfold decodeMajor decodeMajor31
    rw [h26]; dsimp only; rw [h0, h2, h9, h16, h23]; rfl
  | _ => exact absurd hm Bool.false_ne_true

theorem encodeNat_eq_32 {i : Instr} (hm : (Nat.ble 0x32 i.major && Nat.ble i.major 0x37) = true) :
    encodeNat i = fieldSum (layout i) := by
  cases i with
  | spld p d a o z =>
    show 0xC8000000 + p.toNat * 8388608 + d.toNat * 131072 + a.toNat * 2048 + o.toNat * 64 + z.toNat * 16 = 0 * 2 ^ 0 + (0 * 2 ^ 2 + (z.toNat * 2 ^ 4 + (o.toNat * 2 ^ 6 + (a.toNat * 2 ^ 11 + (d.toNat * 2 ^ 17 + (p.toNat * 2 ^ 23 + (0x32 * 2 ^ 26 + 0)))))))
    omega
  | spst p d a o z =>
    show 0xC8000001 + p.toNat * 8388608 + d.toNat * 131072 + a.toNat * 2048 + o.toNat * 64 + z.toNat * 16 = 1 * 2 ^ 0 + (0 * 2 ^ 2 + (z.toNat * 2 ^ 4 + (o.toNat * 2 ^ 6 + (a.toNat * 2 ^ 11 + (d.toNat * 2 ^ 17 + (p.toNat * 2 ^ 23 + (0x32 * 2 ^ 26 + 0)))))))
    omega
  | ld p d a o z =>
    show 0xCC000000 + p.toNat * 8388608 + d.toNat * 131072 + a.toNat * 2048 + o.toNat * 64 + z.toNat * 16 = 0 * 2 ^ 0 + (0 * 2 ^ 2 + (z.toNat * 2 ^ 4 + (o.toNat * 2 ^ 6 + (a.toNat * 2 ^ 11 + (d.toNat * 2 ^ 17 + (p.toNat * 2 ^ 23 + (0x33 * 2 ^ 26 + 0)))))))
    omega
  | lds p d a o z c =>
    show 0xCC000001 + p.toNat * 8388608 + d.toNat * 131072 + a.toNat * 2048 + o.toNat * 64 + z.toNat * 16 + c.toNat * 4 = 1 * 2 ^ 0 + (c.toNat * 2 ^ 2 + (z.toNat * 2 ^ 4 + (o.toNat * 2 ^ 6 + (a.toNat * 2 ^ 11 + (d.toNat * 2 ^ 17 + (p.toNat * 2 ^ 23 + (0x33 * 2 ^ 26 + 0)))))))
    omega
  | lda p d a o z c =>
    show 0xCC000002 + p.toNat * 8388608 + d.toNat * 131072 + a.toNat * 2048 + o.toNat * 64 + z.toNat * 16 + c.toNat * 4 = 2 * 2 ^ 0 + (c.toNat * 2 ^ 2 + (z.toNat * 2 ^ 4 + (o.toNat * 2 ^ 6 + (a.toNat * 2 ^ 11 + (d.toNat * 2 ^ 17 + (p.toNat * 2 ^ 23 + (0x33 * 2 ^ 26 + 0)))))))
    omega
  | pref p a o =>
    show 0xCC000003 + p.toNat * 8388608 + a.toNat * 2048 + o.toNat * 64 = 3 * 2 ^ 0 + (0 * 2 ^ 2 + (o.toNat * 2 ^ 6 + (a.toNat * 2 ^ 11 + (0 * 2 ^ 17 + (p.toNat * 2 ^ 23 + (0x33 * 2 ^ 26 + 0))))))
    omega
  | st p d a o z =>
    show 0xD0000000 + p.toNat * 8388608 + d.toNat * 131072 + a.toNat * 2048 + o.toNat * 64 + z.toNat * 16 = 0 * 2 ^ 0 + (0 * 2 ^ 2 + (z.toNat * 2 ^ 4 + (o.toNat * 2 ^ 6 + (a.toNat * 2 ^ 11 + (d.toNat * 2 ^ 17 + (p.toNat * 2 ^ 23 + (0x34 * 2 ^ 26 + 0)))))))
    omega
  | sts p d a o z c =>
    show 0xD0000001 + p.toNat * 8388608 + d.toNat * 131072 + a.toNat * 2048 + o.toNat * 64 + z.toNat * 16 + c.toNat * 4 = 1 * 2 ^ 0 + (c.toNat * 2 ^ 2 + (z.toNat * 2 ^ 4 + (o.toNat * 2 ^ 6 + (a.toNat * 2 ^ 11 + (d.toNat * 2 ^ 17 + (p.toNat * 2 ^ 23 + (0x34 * 2 ^ 26 + 0)))))))
    omega
  | strl p d a o z c =>
    show 0xD0000002 + p.toNat * 8388608 + d.toNat * 131072 + a.toNat * 2048 + o.toNat * 64 + z.toNat * 16 + c.toNat * 4 = 2 * 2 ^ 0 + (c.toNat * 2 ^ 2 + (z.toNat * 2 ^ 4 + (o.toNat * 2 ^ 6 + (a.toNat * 2 ^ 11 + (d.toNat * 2 ^ 17 + (p.toNat * 2 ^ 23 + (0x34 * 2 ^ 26 + 0)))))))
    omega
  | amoAdd p d a b c =>
    show 0xD4000000 + p.toNat * 8388608 + d.toNat * 131072 + a.toNat * 2048 + b.toNat * 32 + c.toNat = c.toNat * 2 ^ 0 + (0 * 2 ^ 2 + (b.toNat * 2 ^ 5 + (a.toNat * 2 ^ 11 + (d.toNat * 2 ^ 17 + (p.toNat * 2 ^ 23 + (0x35 * 2 ^ 26 + 0))))))
    omega
  | amoAnd p d a b c =>
    show 0xD4000004 + p.toNat * 8388608 + d.toNat * 131072 + a.toNat * 2048 + b.toNat * 32 + c.toNat = c.toNat * 2 ^ 0 + (1 * 2 ^ 2 + (b.toNat * 2 ^ 5 + (a.toNat * 2 ^ 11 + (d.toNat * 2 ^ 17 + (p.toNat * 2 ^ 23 + (0x35 * 2 ^ 26 + 0))))))
    omega
  | amoOr p d a b c =>
    show 0xD4000008 + p.toNat * 8388608 + d.toNat * 131072 + a.toNat * 2048 + b.toNat * 32 + c.toNat = c.toNat * 2 ^ 0 + (2 * 2 ^ 2 + (b.toNat * 2 ^ 5 + (a.toNat * 2 ^ 11 + (d.toNat * 2 ^ 17 + (p.toNat * 2 ^ 23 + (0x35 * 2 ^ 26 + 0))))))
    omega
  | amoXor p d a b c =>
    show 0xD400000C + p.toNat * 8388608 + d.toNat * 131072 + a.toNat * 2048 + b.toNat * 32 + c.toNat = c.toNat * 2 ^ 0 + (3 * 2 ^ 2 + (b.toNat * 2 ^ 5 + (a.toNat * 2 ^ 11 + (d.toNat * 2 ^ 17 + (p.toNat * 2 ^ 23 + (0x35 * 2 ^ 26 + 0))))))
    omega
  | amoMin p d a b c =>
    show 0xD4000010 + p.toNat * 8388608 + d.toNat * 131072 + a.toNat * 2048 + b.toNat * 32 + c.toNat = c.toNat * 2 ^ 0 + (4 * 2 ^ 2 + (b.toNat * 2 ^ 5 + (a.toNat * 2 ^ 11 + (d.toNat * 2 ^ 17 + (p.toNat * 2 ^ 23 + (0x35 * 2 ^ 26 + 0))))))
    omega
  | amoMax p d a b c =>
    show 0xD4000014 + p.toNat * 8388608 + d.toNat * 131072 + a.toNat * 2048 + b.toNat * 32 + c.toNat = c.toNat * 2 ^ 0 + (5 * 2 ^ 2 + (b.toNat * 2 ^ 5 + (a.toNat * 2 ^ 11 + (d.toNat * 2 ^ 17 + (p.toNat * 2 ^ 23 + (0x35 * 2 ^ 26 + 0))))))
    omega
  | amoSwap p d a b c =>
    show 0xD4000018 + p.toNat * 8388608 + d.toNat * 131072 + a.toNat * 2048 + b.toNat * 32 + c.toNat = c.toNat * 2 ^ 0 + (6 * 2 ^ 2 + (b.toNat * 2 ^ 5 + (a.toNat * 2 ^ 11 + (d.toNat * 2 ^ 17 + (p.toNat * 2 ^ 23 + (0x35 * 2 ^ 26 + 0))))))
    omega
  | cas p d a b c =>
    show 0xD400001C + p.toNat * 8388608 + d.toNat * 131072 + a.toNat * 2048 + b.toNat * 32 + c.toNat = c.toNat * 2 ^ 0 + (7 * 2 ^ 2 + (b.toNat * 2 ^ 5 + (a.toNat * 2 ^ 11 + (d.toNat * 2 ^ 17 + (p.toNat * 2 ^ 23 + (0x35 * 2 ^ 26 + 0))))))
    omega
  | fence p c =>
    show 0xD8000000 + p.toNat * 8388608 + c.toNat = c.toNat * 2 ^ 0 + (0 * 2 ^ 2 + (0 * 2 ^ 5 + (p.toNat * 2 ^ 23 + (0x36 * 2 ^ 26 + 0))))
    omega
  | fenceAll p c =>
    show 0xD8000004 + p.toNat * 8388608 + c.toNat = c.toNat * 2 ^ 0 + (1 * 2 ^ 2 + (0 * 2 ^ 5 + (p.toNat * 2 ^ 23 + (0x36 * 2 ^ 26 + 0))))
    omega
  | waitaNe p d a b c =>
    show 0xD8000008 + p.toNat * 8388608 + d.toNat * 131072 + a.toNat * 2048 + b.toNat * 32 + c.toNat = c.toNat * 2 ^ 0 + (2 * 2 ^ 2 + (b.toNat * 2 ^ 5 + (a.toNat * 2 ^ 11 + (d.toNat * 2 ^ 17 + (p.toNat * 2 ^ 23 + (0x36 * 2 ^ 26 + 0))))))
    omega
  | waitaEq p d a b c =>
    show 0xD800000C + p.toNat * 8388608 + d.toNat * 131072 + a.toNat * 2048 + b.toNat * 32 + c.toNat = c.toNat * 2 ^ 0 + (3 * 2 ^ 2 + (b.toNat * 2 ^ 5 + (a.toNat * 2 ^ 11 + (d.toNat * 2 ^ 17 + (p.toNat * 2 ^ 23 + (0x36 * 2 ^ 26 + 0))))))
    omega
  | hwait p h t =>
    show 0xDC000000 + p.toNat * 8388608 + h.toNat * 131072 + t.toNat * 32 = 0 * 2 ^ 0 + (t.toNat * 2 ^ 5 + (0 * 2 ^ 6 + (h.toNat * 2 ^ 17 + (p.toNat * 2 ^ 23 + (0x37 * 2 ^ 26 + 0)))))
    omega
  | hstat p d h =>
    show 0xDC000001 + p.toNat * 8388608 + d.toNat * 131072 + h.toNat * 2048 = 1 * 2 ^ 0 + (0 * 2 ^ 5 + (h.toNat * 2 ^ 11 + (d.toNat * 2 ^ 17 + (p.toNat * 2 ^ 23 + (0x37 * 2 ^ 26 + 0)))))
    omega
  | hrel p h =>
    show 0xDC000002 + p.toNat * 8388608 + h.toNat * 131072 = 2 * 2 ^ 0 + (0 * 2 ^ 5 + (h.toNat * 2 ^ 17 + (p.toNat * 2 ^ 23 + (0x37 * 2 ^ 26 + 0))))
    omega
  | hset p h a b =>
    show 0xDC000003 + p.toNat * 8388608 + h.toNat * 131072 + a.toNat * 2048 + b.toNat * 32 = 3 * 2 ^ 0 + (b.toNat * 2 ^ 5 + (a.toNat * 2 ^ 11 + (h.toNat * 2 ^ 17 + (p.toNat * 2 ^ 23 + (0x37 * 2 ^ 26 + 0)))))
    omega
  | hexp p h a b =>
    show 0xDC000004 + p.toNat * 8388608 + h.toNat * 131072 + a.toNat * 2048 + b.toNat * 32 = 4 * 2 ^ 0 + (b.toNat * 2 ^ 5 + (a.toNat * 2 ^ 11 + (h.toNat * 2 ^ 17 + (p.toNat * 2 ^ 23 + (0x37 * 2 ^ 26 + 0)))))
    omega
  | hswap p h =>
    show 0xDC000005 + p.toNat * 8388608 + h.toNat * 131072 = 5 * 2 ^ 0 + (0 * 2 ^ 5 + (h.toNat * 2 ^ 17 + (p.toNat * 2 ^ 23 + (0x37 * 2 ^ 26 + 0))))
    omega
  | bkrel p a =>
    show 0xDC000006 + p.toNat * 8388608 + a.toNat * 2048 = 6 * 2 ^ 0 + (0 * 2 ^ 5 + (a.toNat * 2 ^ 11 + (0 * 2 ^ 17 + (p.toNat * 2 ^ 23 + (0x37 * 2 ^ 26 + 0)))))
    omega
  | bkwait p a =>
    show 0xDC000007 + p.toNat * 8388608 + a.toNat * 2048 = 7 * 2 ^ 0 + (0 * 2 ^ 5 + (a.toNat * 2 ^ 11 + (0 * 2 ^ 17 + (p.toNat * 2 ^ 23 + (0x37 * 2 ^ 26 + 0)))))
    omega
  | barvInit p n a =>
    show 0xDC000028 + p.toNat * 8388608 + n.toNat * 131072 + a.toNat * 2048 = 8 * 2 ^ 0 + (1 * 2 ^ 5 + (a.toNat * 2 ^ 11 + (n.toNat * 2 ^ 17 + (0 * 2 ^ 20 + (p.toNat * 2 ^ 23 + (0x37 * 2 ^ 26 + 0))))))
    omega
  | barv p n a =>
    show 0xDC000008 + p.toNat * 8388608 + n.toNat * 131072 + a.toNat * 2048 = 8 * 2 ^ 0 + (0 * 2 ^ 5 + (a.toNat * 2 ^ 11 + (n.toNat * 2 ^ 17 + (0 * 2 ^ 20 + (p.toNat * 2 ^ 23 + (0x37 * 2 ^ 26 + 0))))))
    omega
  | bart p n a =>
    show 0xDC000009 + p.toNat * 8388608 + n.toNat * 131072 + a.toNat * 2048 = 9 * 2 ^ 0 + (0 * 2 ^ 5 + (a.toNat * 2 ^ 11 + (n.toNat * 2 ^ 17 + (0 * 2 ^ 20 + (p.toNat * 2 ^ 23 + (0x37 * 2 ^ 26 + 0))))))
    omega
  | barw p n =>
    show 0xDC00000A + p.toNat * 8388608 + n.toNat * 131072 = 10 * 2 ^ 0 + (0 * 2 ^ 5 + (n.toNat * 2 ^ 17 + (0 * 2 ^ 20 + (p.toNat * 2 ^ 23 + (0x37 * 2 ^ 26 + 0)))))
    omega
  | uien p h e =>
    show 0xDC00000B + p.toNat * 8388608 + h.toNat * 131072 + e.toNat * 32 = 11 * 2 ^ 0 + (e.toNat * 2 ^ 5 + (0 * 2 ^ 6 + (h.toNat * 2 ^ 17 + (p.toNat * 2 ^ 23 + (0x37 * 2 ^ 26 + 0)))))
    omega
  | _ => exact absurd hm Bool.false_ne_true

theorem decodeMajor_layout_32 {i : Instr} {w : W32} {ig : Bool} (hm : (Nat.ble 0x32 i.major && Nat.ble i.major 0x37) = true)
    (hig : i.major = 0x17 ∨ 0x3C ≤ i.major → ig = true) (h : Fields w (layout i)) : decodeMajor ig w = .op i := by
  cases i with
  | spld =>
    obtain ⟨h0, h2, h4, h6, h11, h17, h23, h26, -⟩ := h
    unfold decodeMajor decodeMajor32
    rw [h26]; dsimp only; rw [h0, h2, h4, h6, h11, h17, h23]; rfl
  | spst =>
    obtain ⟨h0, h2, h4, h6, h11, h17, h23, h26, -⟩ := h
    unfold decodeMajor decodeMajor32
    rw [h26]; dsimp only; rw [h0, h2, h4, h6, h11, h17, h23]; rfl
  | ld =>
    obtain ⟨h0, h2, h4, h6, h11, h17, h23, h26, -⟩ := h
    unfold decodeMajor decodeMajor33
    rw [h26]; dsimp only; rw [h0, h2, h4, h6, h11, h17, h23]; rfl
  | lds =>
    obtain ⟨h0, h2, h4, h6, h11, h17, h23, h26, -⟩ := h
    unfold decodeMajor decodeMajor33
    rw [h26]; dsimp only; rw [h0, h2, h4, h6, h11, h17, h23]; rfl
  | lda =>
    obtain ⟨h0, h2, h4, h6, h11, h17, h23, h26, -⟩ := h
    unfold decodeMajor decodeMajor33
    rw [h26]; dsimp only; rw [h0, h2, h4, h6, h11, h17, h23]; rfl
  | pref =>
    obtain ⟨h0, h2, h6, h11, h17, h23, h26, -⟩ := h
    unfold decodeMajor decodeMajor33
    rw [h26]; dsimp only; rw [h0, h2, h6, h11, h17, h23]; rfl
  | st =>
    obtain ⟨h0, h2, h4, h6, h11, h17, h23, h26, -⟩ := h
    unfold decodeMajor decodeMajor34
    rw [h26]; dsimp only; rw [h0, h2, h4, h6, h11, h17, h23]; rfl
  | sts =>
    obtain ⟨h0, h2, h4, h6, h11, h17, h23, h26, -⟩ := h
    unfold decodeMajor decodeMajor34
    rw [h26]; dsimp only; rw [h0, h2, h4, h6, h11, h17, h23]; rfl
  | strl =>
    obtain ⟨h0, h2, h4, h6, h11, h17, h23, h26, -⟩ := h
    unfold decodeMajor decodeMajor34
    rw [h26]; dsimp only; rw [h0, h2, h4, h6, h11, h17, h23]; rfl
  | amoAdd =>
    obtain ⟨h0, h2, h5, h11, h17, h23, h26, -⟩ := h
    unfold decodeMajor decodeMajor35
    rw [h26]; dsimp only; rw [h0, h2, h5, h11, h17, h23]; rfl
  | amoAnd =>
    obtain ⟨h0, h2, h5, h11, h17, h23, h26, -⟩ := h
    unfold decodeMajor decodeMajor35
    rw [h26]; dsimp only; rw [h0, h2, h5, h11, h17, h23]; rfl
  | amoOr =>
    obtain ⟨h0, h2, h5, h11, h17, h23, h26, -⟩ := h
    unfold decodeMajor decodeMajor35
    rw [h26]; dsimp only; rw [h0, h2, h5, h11, h17, h23]; rfl
  | amoXor =>
    obtain ⟨h0, h2, h5, h11, h17, h23, h26, -⟩ := h
    unfold decodeMajor decodeMajor35
    rw [h26]; dsimp only; rw [h0, h2, h5, h11, h17, h23]; rfl
  | amoMin =>
    obtain ⟨h0, h2, h5, h11, h17, h23, h26, -⟩ := h
    unfold decodeMajor decodeMajor35
    rw [h26]; dsimp only; rw [h0, h2, h5, h11, h17, h23]; rfl
  | amoMax =>
    obtain ⟨h0, h2, h5, h11, h17, h23, h26, -⟩ := h
    unfold decodeMajor decodeMajor35
    rw [h26]; dsimp only; rw [h0, h2, h5, h11, h17, h23]; rfl
  | amoSwap =>
    obtain ⟨h0, h2, h5, h11, h17, h23, h26, -⟩ := h
    unfold decodeMajor decodeMajor35
    rw [h26]; dsimp only; rw [h0, h2, h5, h11, h17, h23]; rfl
  | cas =>
    obtain ⟨h0, h2, h5, h11, h17, h23, h26, -⟩ := h
    unfold decodeMajor decodeMajor35
    rw [h26]; dsimp only; rw [h0, h2, h5, h11, h17, h23]; rfl
  | fence =>
    obtain ⟨h0, h2, h5, h23, h26, -⟩ := h
    unfold decodeMajor decodeMajor36
    rw [h26]; dsimp only; rw [h0, h2, h5, h23]; rfl
  | fenceAll =>
    obtain ⟨h0, h2, h5, h23, h26, -⟩ := h
    unfold decodeMajor decodeMajor36
    rw [h26]; dsimp only; rw [h0, h2, h5, h23]; rfl
  | waitaNe =>
    obtain ⟨h0, h2, h5, h11, h17, h23, h26, -⟩ := h
    unfold decodeMajor decodeMajor36
    rw [h26]; dsimp only; rw [h0, h2, h5, h11, h17, h23]; rfl
  | waitaEq =>
    obtain ⟨h0, h2, h5, h11, h17, h23, h26, -⟩ := h
    unfold decodeMajor decodeMajor36
    rw [h26]; dsimp only; rw [h0, h2, h5, h11, h17, h23]; rfl
  | hwait =>
    obtain ⟨h0, h5, h6, h17, h23, h26, -⟩ := h
    unfold decodeMajor decodeMajor37
    rw [h26]; dsimp only; rw [h0, h5, h6, h17, h23]; rfl
  | hstat =>
    obtain ⟨h0, h5, h11, h17, h23, h26, -⟩ := h
    unfold decodeMajor decodeMajor37
    rw [h26]; dsimp only; rw [h0, h5, h11, h17, h23]; rfl
  | hrel =>
    obtain ⟨h0, h5, h17, h23, h26, -⟩ := h
    unfold decodeMajor decodeMajor37
    rw [h26]; dsimp only; rw [h0, h5, h17, h23]; rfl
  | hset =>
    obtain ⟨h0, h5, h11, h17, h23, h26, -⟩ := h
    unfold decodeMajor decodeMajor37
    rw [h26]; dsimp only; rw [h0, h5, h11, h17, h23]; rfl
  | hexp =>
    obtain ⟨h0, h5, h11, h17, h23, h26, -⟩ := h
    unfold decodeMajor decodeMajor37
    rw [h26]; dsimp only; rw [h0, h5, h11, h17, h23]; rfl
  | hswap =>
    obtain ⟨h0, h5, h17, h23, h26, -⟩ := h
    unfold decodeMajor decodeMajor37
    rw [h26]; dsimp only; rw [h0, h5, h17, h23]; rfl
  | bkrel =>
    obtain ⟨h0, h5, h11, h17, h23, h26, -⟩ := h
    unfold decodeMajor decodeMajor37
    rw [h26]; dsimp only; rw [h0, h5, h11, h17, h23]; rfl
  | bkwait =>
    obtain ⟨h0, h5, h11, h17, h23, h26, -⟩ := h
    unfold decodeMajor decodeMajor37
    rw [h26]; dsimp only; rw [h0, h5, h11, h17, h23]; rfl
  | barvInit =>
    obtain ⟨h0, h5, h11, h17, h20, h23, h26, -⟩ := h
    unfold decodeMajor decodeMajor37
    rw [h26]; dsimp only; rw [h0, h5, h11, h17, h20, h23]; rfl
  | barv =>
    obtain ⟨h0, h5, h11, h17, h20, h23, h26, -⟩ := h
    unfold decodeMajor decodeMajor37
    rw [h26]; dsimp only; rw [h0, h5, h11, h17, h20, h23]; rfl
  | bart =>
    obtain ⟨h0, h5, h11, h17, h20, h23, h26, -⟩ := h
    unfold decodeMajor decodeMajor37
    rw [h26]; dsimp only; rw [h0, h5, h11, h17, h20, h23]; rfl
  | barw =>
    obtain ⟨h0, h5, h17, h20, h23, h26, -⟩ := h
    unfold decodeMajor decodeMajor37
    rw [h26]; dsimp only; rw [h0, h5, h17, h20, h23]; rfl
  | uien =>
    obtain ⟨h0, h5, h6, h17, h23, h26, -⟩ := h
    unfold decodeMajor decodeMajor37
    rw [h26]; dsimp only; rw [h0, h5, h6, h17, h23]; rfl
  | _ => exact absurd hm Bool.false_ne_true

theorem encodeNat_eq_38 {i : Instr} (hm : (Nat.ble 0x38 i.major && Nat.ble i.major 0x3E) = true) :
    encodeNat i = fieldSum (layout i) := by
  cases i with
  | clvl p n a b =>
    show 0xE0000000 + p.toNat * 8388608 + n.toNat * 131072 + a.toNat * 2048 + b.toNat * 32 = 0 * 2 ^ 0 + (b.toNat * 2 ^ 5 + (a.toNat * 2 ^ 11 + (n.toNat * 2 ^ 17 + (p.toNat * 2 ^ 23 + (0x38 * 2 ^ 26 + 0)))))
    omega
  | cgo p h d s =>
    show 0xE0000001 + p.toNat * 8388608 + h.toNat * 131072 + d.toNat * 2048 + s.toNat * 32 = 1 * 2 ^ 0 + (s.toNat * 2 ^ 5 + (d.toNat * 2 ^ 11 + (h.toNat * 2 ^ 17 + (p.toNat * 2 ^ 23 + (0x38 * 2 ^ 26 + 0)))))
    omega
  | cgox p h d s =>
    show 0xE0000002 + p.toNat * 8388608 + h.toNat * 131072 + d.toNat * 2048 + s.toNat * 32 = 2 * 2 ^ 0 + (s.toNat * 2 ^ 5 + (d.toNat * 2 ^ 11 + (h.toNat * 2 ^ 17 + (p.toNat * 2 ^ 23 + (0x38 * 2 ^ 26 + 0)))))
    omega
  | cqry p d a q =>
    show 0xE0000003 + p.toNat * 8388608 + d.toNat * 131072 + a.toNat * 2048 + q.toNat * 32 = 3 * 2 ^ 0 + (q.toNat * 2 ^ 5 + (a.toNat * 2 ^ 11 + (d.toNat * 2 ^ 17 + (p.toNat * 2 ^ 23 + (0x38 * 2 ^ 26 + 0)))))
    omega
  | mxcall p h i r =>
    show 0xE4000000 + p.toNat * 8388608 + h.toNat * 131072 + i.toNat * 2048 + r.toNat = r.toNat * 2 ^ 0 + (0 * 2 ^ 5 + (i.toNat * 2 ^ 11 + (h.toNat * 2 ^ 17 + (p.toNat * 2 ^ 23 + (0x39 * 2 ^ 26 + 0)))))
    omega
  | mxp p m a =>
    show 0xE8000000 + p.toNat * 8388608 + m.toNat * 131072 + a.toNat * 2048 = 0 * 2 ^ 0 + (0 * 2 ^ 5 + (a.toNat * 2 ^ 11 + (m.toNat * 2 ^ 17 + (0 * 2 ^ 20 + (p.toNat * 2 ^ 23 + (0x3A * 2 ^ 26 + 0))))))
    omega
  | mxpr p d m =>
    show 0xE8000001 + p.toNat * 8388608 + d.toNat * 131072 + m.toNat * 2048 = 1 * 2 ^ 0 + (0 * 2 ^ 5 + (m.toNat * 2 ^ 11 + (0 * 2 ^ 14 + (d.toNat * 2 ^ 17 + (p.toNat * 2 ^ 23 + (0x3A * 2 ^ 26 + 0))))))
    omega
  | mxldu p a b =>
    show 0xE8000002 + p.toNat * 8388608 + a.toNat * 2048 + b.toNat * 32 = 2 * 2 ^ 0 + (b.toNat * 2 ^ 5 + (a.toNat * 2 ^ 11 + (0 * 2 ^ 17 + (p.toNat * 2 ^ 23 + (0x3A * 2 ^ 26 + 0)))))
    omega
  | mxrt p n a =>
    show 0xE8000003 + p.toNat * 8388608 + n.toNat * 131072 + a.toNat * 2048 = 3 * 2 ^ 0 + (0 * 2 ^ 5 + (a.toNat * 2 ^ 11 + (n.toNat * 2 ^ 17 + (p.toNat * 2 ^ 23 + (0x3A * 2 ^ 26 + 0)))))
    omega
  | mxstat p d h =>
    show 0xE8000004 + p.toNat * 8388608 + d.toNat * 131072 + h.toNat * 2048 = 4 * 2 ^ 0 + (0 * 2 ^ 5 + (h.toNat * 2 ^ 11 + (d.toNat * 2 ^ 17 + (p.toNat * 2 ^ 23 + (0x3A * 2 ^ 26 + 0)))))
    omega
  | shand p h a =>
    show 0xEC000000 + p.toNat * 8388608 + h.toNat * 131072 + a.toNat * 2048 = 0 * 2 ^ 0 + (0 * 2 ^ 5 + (a.toNat * 2 ^ 11 + (h.toNat * 2 ^ 17 + (p.toNat * 2 ^ 23 + (0x3B * 2 ^ 26 + 0)))))
    omega
  | sown p d a =>
    show 0xEC000001 + p.toNat * 8388608 + d.toNat * 131072 + a.toNat * 2048 = 1 * 2 ^ 0 + (0 * 2 ^ 5 + (a.toNat * 2 ^ 11 + (d.toNat * 2 ^ 17 + (p.toNat * 2 ^ 23 + (0x3B * 2 ^ 26 + 0)))))
    omega
  | genr p d =>
    show 0xEC000002 + p.toNat * 8388608 + d.toNat * 131072 = 2 * 2 ^ 0 + (0 * 2 ^ 5 + (d.toNat * 2 ^ 17 + (p.toNat * 2 ^ 23 + (0x3B * 2 ^ 26 + 0))))
    omega
  | tenend p a b =>
    show 0xEC000003 + p.toNat * 8388608 + a.toNat * 2048 + b.toNat * 32 = 3 * 2 ^ 0 + (b.toNat * 2 ^ 5 + (a.toNat * 2 ^ 11 + (0 * 2 ^ 17 + (p.toNat * 2 ^ 23 + (0x3B * 2 ^ 26 + 0)))))
    omega
  | genprobe p d a q =>
    show 0xEC000004 + p.toNat * 8388608 + d.toNat * 131072 + a.toNat * 2048 + q.toNat * 32 = 4 * 2 ^ 0 + (q.toNat * 2 ^ 5 + (a.toNat * 2 ^ 11 + (d.toNat * 2 ^ 17 + (p.toNat * 2 ^ 23 + (0x3B * 2 ^ 26 + 0)))))
    omega
  | tidx p d =>
    show 0xEC000005 + p.toNat * 8388608 + d.toNat * 131072 = 5 * 2 ^ 0 + (0 * 2 ^ 5 + (d.toNat * 2 ^ 17 + (p.toNat * 2 ^ 23 + (0x3B * 2 ^ 26 + 0))))
    omega
  | tnext p d =>
    show 0xEC000006 + p.toNat * 8388608 + d.toNat * 131072 = 6 * 2 ^ 0 + (0 * 2 ^ 5 + (d.toNat * 2 ^ 17 + (p.toNat * 2 ^ 23 + (0x3B * 2 ^ 26 + 0))))
    omega
  | suspend p a b =>
    show 0xEC000007 + p.toNat * 8388608 + a.toNat * 2048 + b.toNat * 32 = 7 * 2 ^ 0 + (b.toNat * 2 ^ 5 + (a.toNat * 2 ^ 11 + (0 * 2 ^ 17 + (p.toNat * 2 ^ 23 + (0x3B * 2 ^ 26 + 0)))))
    omega
  | endTask p =>
    show 0xEC000008 + p.toNat * 8388608 = 8 * 2 ^ 0 + (0 * 2 ^ 5 + (p.toNat * 2 ^ 23 + (0x3B * 2 ^ 26 + 0)))
    omega
  | linkq p d a =>
    show 0xEC000009 + p.toNat * 8388608 + d.toNat * 131072 + a.toNat * 2048 = 9 * 2 ^ 0 + (0 * 2 ^ 5 + (a.toNat * 2 ^ 11 + (d.toNat * 2 ^ 17 + (p.toNat * 2 ^ 23 + (0x3B * 2 ^ 26 + 0)))))
    omega
  | ringld p r a =>
    show 0xEC00000A + p.toNat * 8388608 + r.toNat * 131072 + a.toNat * 2048 = 10 * 2 ^ 0 + (0 * 2 ^ 5 + (a.toNat * 2 ^ 11 + (r.toNat * 2 ^ 17 + (0 * 2 ^ 19 + (p.toNat * 2 ^ 23 + (0x3B * 2 ^ 26 + 0))))))
    omega
  | vabd p d a b t =>
    show 0xF0000000 + p.toNat * 8388608 + d.toNat * 65536 + a.toNat * 512 + b.toNat * 4 + t.toNat = t.toNat * 2 ^ 0 + (b.toNat * 2 ^ 2 + (a.toNat * 2 ^ 9 + (d.toNat * 2 ^ 16 + (0 * 2 ^ 21 + (p.toNat * 2 ^ 23 + (0x3C * 2 ^ 26 + 0))))))
    omega
  | vclmp p d a b t =>
    show 0xF0200000 + p.toNat * 8388608 + d.toNat * 65536 + a.toNat * 512 + b.toNat * 4 + t.toNat = t.toNat * 2 ^ 0 + (b.toNat * 2 ^ 2 + (a.toNat * 2 ^ 9 + (d.toNat * 2 ^ 16 + (1 * 2 ^ 21 + (p.toNat * 2 ^ 23 + (0x3C * 2 ^ 26 + 0))))))
    omega
  | vcvth p d a e t =>
    show 0xF4000000 + p.toNat * 8388608 + d.toNat * 65536 + a.toNat * 512 + e.toNat * 4 + t.toNat = t.toNat * 2 ^ 0 + (e.toNat * 2 ^ 2 + (0 * 2 ^ 4 + (a.toNat * 2 ^ 9 + (d.toNat * 2 ^ 16 + (p.toNat * 2 ^ 23 + (0x3D * 2 ^ 26 + 0))))))
    omega
  | vscl p d s t =>
    show 0xF8000000 + p.toNat * 8388608 + d.toNat * 65536 + s.toNat * 1024 + t.toNat = t.toNat * 2 ^ 0 + (0 * 2 ^ 2 + (0 * 2 ^ 8 + (s.toNat * 2 ^ 10 + (d.toNat * 2 ^ 16 + (p.toNat * 2 ^ 23 + (0x3E * 2 ^ 26 + 0))))))
    omega
  | _ => exact absurd hm Bool.false_ne_true

theorem decodeMajor_layout_38 {i : Instr} {w : W32} {ig : Bool} (hm : (Nat.ble 0x38 i.major && Nat.ble i.major 0x3E) = true)
    (hig : i.major = 0x17 ∨ 0x3C ≤ i.major → ig = true) (h : Fields w (layout i)) : decodeMajor ig w = .op i := by
  cases i with
  | clvl =>
    obtain ⟨h0, h5, h11, h17, h23, h26, -⟩ := h
    unfold decodeMajor decodeMajor38
    rw [h26]; dsimp only; rw [h0, h5, h11, h17, h23]; rfl
  | cgo =>
    obtain ⟨h0, h5, h11, h17, h23, h26, -⟩ := h
    unfold decodeMajor decodeMajor38
    rw [h26]; dsimp only; rw [h0, h5, h11, h17, h23]; rfl
  | cgox =>
    obtain ⟨h0, h5, h11, h17, h23, h26, -⟩ := h
    unfold decodeMajor decodeMajor38
    rw [h26]; dsimp only; rw [h0, h5, h11, h17, h23]; rfl
  | cqry =>
    obtain ⟨h0, h5, h11, h17, h23, h26, -⟩ := h
    unfold decodeMajor decodeMajor38
    rw [h26]; dsimp only; rw [h0, h5, h11, h17, h23]; rfl
  | mxcall =>
    obtain ⟨h0, h5, h11, h17, h23, h26, -⟩ := h
    unfold decodeMajor decodeMajor39
    rw [h26]; dsimp only; rw [h0, h5, h11, h17, h23]; rfl
  | mxp =>
    obtain ⟨h0, h5, h11, h17, h20, h23, h26, -⟩ := h
    unfold decodeMajor decodeMajor3A
    rw [h26]; dsimp only; rw [h0, h5, h11, h17, h20, h23]; rfl
  | mxpr =>
    obtain ⟨h0, h5, h11, h14, h17, h23, h26, -⟩ := h
    unfold decodeMajor decodeMajor3A
    rw [h26]; dsimp only; rw [h0, h5, h11, h14, h17, h23]; rfl
  | mxldu =>
    obtain ⟨h0, h5, h11, h17, h23, h26, -⟩ := h
    unfold decodeMajor decodeMajor3A
    rw [h26]; dsimp only; rw [h0, h5, h11, h17, h23]; rfl
  | mxrt =>
    obtain ⟨h0, h5, h11, h17, h23, h26, -⟩ := h
    unfold decodeMajor decodeMajor3A
    rw [h26]; dsimp only; rw [h0, h5, h11, h17, h23]; rfl
  | mxstat =>
    obtain ⟨h0, h5, h11, h17, h23, h26, -⟩ := h
    unfold decodeMajor decodeMajor3A
    rw [h26]; dsimp only; rw [h0, h5, h11, h17, h23]; rfl
  | shand =>
    obtain ⟨h0, h5, h11, h17, h23, h26, -⟩ := h
    unfold decodeMajor decodeMajor3B
    rw [h26]; dsimp only; rw [h0, h5, h11, h17, h23]; rfl
  | sown =>
    obtain ⟨h0, h5, h11, h17, h23, h26, -⟩ := h
    unfold decodeMajor decodeMajor3B
    rw [h26]; dsimp only; rw [h0, h5, h11, h17, h23]; rfl
  | genr =>
    obtain ⟨h0, h5, h17, h23, h26, -⟩ := h
    unfold decodeMajor decodeMajor3B
    rw [h26]; dsimp only; rw [h0, h5, h17, h23]; rfl
  | tenend =>
    obtain ⟨h0, h5, h11, h17, h23, h26, -⟩ := h
    unfold decodeMajor decodeMajor3B
    rw [h26]; dsimp only; rw [h0, h5, h11, h17, h23]; rfl
  | genprobe =>
    obtain ⟨h0, h5, h11, h17, h23, h26, -⟩ := h
    unfold decodeMajor decodeMajor3B
    rw [h26]; dsimp only; rw [h0, h5, h11, h17, h23]; rfl
  | tidx =>
    obtain ⟨h0, h5, h17, h23, h26, -⟩ := h
    unfold decodeMajor decodeMajor3B
    rw [h26]; dsimp only; rw [h0, h5, h17, h23]; rfl
  | tnext =>
    obtain ⟨h0, h5, h17, h23, h26, -⟩ := h
    unfold decodeMajor decodeMajor3B
    rw [h26]; dsimp only; rw [h0, h5, h17, h23]; rfl
  | suspend =>
    obtain ⟨h0, h5, h11, h17, h23, h26, -⟩ := h
    unfold decodeMajor decodeMajor3B
    rw [h26]; dsimp only; rw [h0, h5, h11, h17, h23]; rfl
  | endTask =>
    obtain ⟨h0, h5, h23, h26, -⟩ := h
    unfold decodeMajor decodeMajor3B
    rw [h26]; dsimp only; rw [h0, h5, h23]; rfl
  | linkq =>
    obtain ⟨h0, h5, h11, h17, h23, h26, -⟩ := h
    unfold decodeMajor decodeMajor3B
    rw [h26]; dsimp only; rw [h0, h5, h11, h17, h23]; rfl
  | ringld =>
    obtain ⟨h0, h5, h11, h17, h19, h23, h26, -⟩ := h
    unfold decodeMajor decodeMajor3B
    rw [h26]; dsimp only; rw [h0, h5, h11, h17, h19, h23]; rfl
  | vabd =>
    obtain ⟨h0, h2, h9, h16, h21, h23, h26, -⟩ := h
    obtain rfl : ig = true := hig (.inr (Nat.le_of_ble_eq_true rfl))
    unfold decodeMajor decodeMajor3C
    rw [h26]; dsimp only; rw [h0, h2, h9, h16, h21, h23]; rfl
  | vclmp =>
    obtain ⟨h0, h2, h9, h16, h21, h23, h26, -⟩ := h
    obtain rfl : ig = true := hig (.inr (Nat.le_of_ble_eq_true rfl))
    unfold decodeMajor decodeMajor3C
    rw [h26]; dsimp only; rw [h0, h2, h9, h16, h21, h23]; rfl
  | vcvth =>
    obtain ⟨h0, h2, h4, h9, h16, h23, h26, -⟩ := h
    obtain rfl : ig = true := hig (.inr (Nat.le_of_ble_eq_true rfl))
    unfold decodeMajor decodeMajor3D
    rw [h26]; dsimp only; rw [h0, h2, h4, h9, h16, h23]; rfl
  | vscl =>
    obtain ⟨h0, h2, h8, h10, h16, h23, h26, -⟩ := h
    obtain rfl : ig = true := hig (.inr (Nat.le_of_ble_eq_true rfl))
    unfold decodeMajor decodeMajor3E
    rw [h26]; dsimp only; rw [h0, h2, h8, h10, h16, h23]; rfl
  | _ => exact absurd hm Bool.false_ne_true


/-- The ranges of majors into which the operations are cut below. -/
theorem major_ranges {m : Nat} (h : m < 63) : (Nat.ble 0x00 m && Nat.ble m 0x05) = true ∨ (Nat.ble 0x06 m && Nat.ble m 0x17) = true
    ∨ (Nat.ble 0x18 m && Nat.ble m 0x26) = true ∨ (Nat.ble 0x27 m && Nat.ble m 0x31) = true
    ∨ (Nat.ble 0x32 m && Nat.ble m 0x37) = true ∨ (Nat.ble 0x38 m && Nat.ble m 0x3E) = true := by
  simp only [Bool.and_eq_true, Nat.ble_eq]
  omega

/-- The word of a slot operation is that of its fields. -/
theorem encodeNat_eq_fieldSum {i : Instr} (hi : i.major < 63) : encodeNat i = fieldSum (layout i) := by
  obtain h | h | h | h | h | h := major_ranges hi
  · exact encodeNat_eq_00 h
  · exact encodeNat_eq_06 h
  · exact encodeNat_eq_18 h
  · exact encodeNat_eq_27 h
  · exact encodeNat_eq_32 h
  · exact encodeNat_eq_38 h

/-- A word that holds the fields of an operation decodes to it. -/
theorem decodeMajor_of_fields {i : Instr} {w : W32} {ig : Bool} (hi : i.major < 63)
    (hig : i.major = 0x17 ∨ 0x3C ≤ i.major → ig = true) (h : Fields w (layout i)) : decodeMajor ig w = .op i := by
  obtain hm | hm | hm | hm | hm | hm := major_ranges hi
  · exact decodeMajor_layout_00 hm hig h
  · exact decodeMajor_layout_06 hm hig h
  · exact decodeMajor_layout_18 hm hig h
  · exact decodeMajor_layout_27 hm hig h
  · exact decodeMajor_layout_32 hm hig h
  · exact decodeMajor_layout_38 hm hig h

/-! ### A word that decodes holds the fields of its operation -/

section Decoded
variable {w : W32} {i : Instr}

/-- A decoded operation is a slot operation whose fields the word holds; a refused word has a subcode. -/
def Reads (w : W32) : SlotDecode → Prop
  | .op i => Nat.blt i.major 63 = true ∧ Fields w (layout i)
  | .loose _ => True
  | .illegal n => n ≠ 0

theorem reads_slotIf {ok : Bool} (hm : Nat.blt i.major 63 = true) (hf : ok = true → Fields w (layout i)) :
    Reads w (slotIf ok i) := by
  cases ok with
  | false => trivial
  | true => exact ⟨hm, hf rfl⟩

theorem field_eq {n k : Nat} {x : BitVec n} (h : x.toNat = k) : x = BitVec.ofNat n k := by
  rw [← h, BitVec.ofNat_toNat, BitVec.setWidth_eq]

theorem last_of_2_bits {x : BitVec 2} (h0 : ¬ x.toNat = 0) (h1 : ¬ x.toNat = 1) (h2 : ¬ x.toNat = 2) :
    x = 3#2 := by
  have hlt := x.isLt
  have h3 : x.toNat = 3 := by omega
  exact field_eq h3

theorem last_of_3_bits {x : BitVec 3} (h0 : ¬ x.toNat = 0) (h1 : ¬ x.toNat = 1) (h2 : ¬ x.toNat = 2)
    (h3 : ¬ x.toNat = 3) (h4 : ¬ x.toNat = 4) (h5 : ¬ x.toNat = 5) (h6 : ¬ x.toNat = 6) :
    x = 7#3 := by
  have hlt := x.isLt
  have h7 : x.toNat = 7 := by omega
  exact field_eq h7

theorem both {p q : Prop} [Decidable p] [Decidable q] (h : (decide p && decide q) = true) : p ∧ q :=
  (Bool.and_eq_true_iff.1 h).imp of_decide_eq_true of_decide_eq_true

theorem all_three {p q r : Prop} [Decidable p] [Decidable q] [Decidable r]
    (h : (decide p && decide q && decide r) = true) : p ∧ q ∧ r :=
  have ⟨hpq, hr⟩ := Bool.and_eq_true_iff.1 h
  have ⟨hp, hq⟩ := both hpq
  ⟨hp, hq, of_decide_eq_true hr⟩

theorem reads_decodeMajor01 (hm : w.extractLsb' 26 6 = 0x01#6) : Reads w (decodeMajor01 w) := by
  unfold decodeMajor01
  split
  · next hop => exact reads_slotIf rfl (fun _ => ⟨field_eq hop, rfl, rfl, rfl, rfl, hm, trivial⟩)
  · next hop => exact reads_slotIf rfl (fun _ => ⟨field_eq hop, rfl, rfl, rfl, rfl, hm, trivial⟩)
  · next hop => exact reads_slotIf rfl (fun _ => ⟨field_eq hop, rfl, rfl, rfl, rfl, hm, trivial⟩)
  · next hop => exact reads_slotIf rfl (fun _ => ⟨field_eq hop, rfl, rfl, rfl, rfl, hm, trivial⟩)
  · next hop => exact reads_slotIf rfl (fun _ => ⟨field_eq hop, rfl, rfl, rfl, rfl, hm, trivial⟩)
  · next hop => exact reads_slotIf rfl (fun _ => ⟨field_eq hop, rfl, rfl, rfl, rfl, hm, trivial⟩)
  · next hop => exact reads_slotIf rfl (fun _ => ⟨field_eq hop, rfl, rfl, rfl, rfl, hm, trivial⟩)
  · next hop => exact reads_slotIf rfl (fun _ => ⟨field_eq hop, rfl, rfl, rfl, rfl, hm, trivial⟩)
  · next hop => exact reads_slotIf rfl (fun _ => ⟨field_eq hop, rfl, rfl, rfl, rfl, hm, trivial⟩)
  · next hop => exact reads_slotIf rfl (fun _ => ⟨field_eq hop, rfl, rfl, rfl, rfl, hm, trivial⟩)
  · next hop => exact reads_slotIf rfl (fun _ => ⟨field_eq hop, rfl, rfl, rfl, rfl, hm, trivial⟩)
  · next hop => exact reads_slotIf rfl (fun _ => ⟨field_eq hop, rfl, rfl, rfl, rfl, hm, trivial⟩)
  · next hop => exact reads_slotIf rfl (fun _ => ⟨field_eq hop, rfl, rfl, rfl, rfl, hm, trivial⟩)
  · next hop => exact reads_slotIf rfl (fun _ => ⟨field_eq hop, rfl, rfl, rfl, rfl, hm, trivial⟩)
  · next hop => exact reads_slotIf rfl (fun hz => ⟨field_eq hop, of_decide_eq_true hz, rfl, rfl, rfl, hm, trivial⟩)
  · next hop => exact reads_slotIf rfl (fun hz => ⟨field_eq hop, of_decide_eq_true hz, rfl, rfl, rfl, hm, trivial⟩)
  · next hop => exact reads_slotIf rfl (fun _ => ⟨field_eq hop, rfl, rfl, rfl, rfl, hm, trivial⟩)
  · next hop => exact reads_slotIf rfl (fun _ => ⟨field_eq hop, rfl, rfl, rfl, rfl, hm, trivial⟩)
  · next hop => exact reads_slotIf rfl (fun hz => ⟨field_eq hop, rfl, rfl, of_decide_eq_true hz, rfl, hm, trivial⟩)
  · exact Nat.noConfusion

theorem reads_decodeMajor02 (hm : w.extractLsb' 26 6 = 0x02#6) : Reads w (decodeMajor02 w) := by
  unfold decodeMajor02
  split
  · next hop => exact reads_slotIf rfl (fun _ => ⟨field_eq hop, rfl, rfl, rfl, rfl, hm, trivial⟩)
  · next hop => exact reads_slotIf rfl (fun _ => ⟨field_eq hop, rfl, rfl, rfl, rfl, hm, trivial⟩)
  · next hop => exact reads_slotIf rfl (fun _ => ⟨field_eq hop, rfl, rfl, rfl, rfl, hm, trivial⟩)
  · next hop => exact reads_slotIf rfl (fun _ => ⟨field_eq hop, rfl, rfl, rfl, rfl, hm, trivial⟩)
  · next hop => exact reads_slotIf rfl (fun _ => ⟨field_eq hop, rfl, rfl, rfl, rfl, hm, trivial⟩)
  · next hop => exact reads_slotIf rfl (fun _ => ⟨field_eq hop, rfl, rfl, rfl, rfl, hm, trivial⟩)
  · next hop => exact reads_slotIf rfl (fun _ => ⟨field_eq hop, rfl, rfl, rfl, rfl, hm, trivial⟩)
  · exact Nat.noConfusion

theorem reads_decodeMajor03 (hm : w.extractLsb' 26 6 = 0x03#6) : Reads w (decodeMajor03 w) := by
  unfold decodeMajor03
  exact reads_slotIf rfl (fun hz => ⟨rfl, rfl, rfl, rfl, of_decide_eq_true hz, rfl, hm, trivial⟩)

theorem reads_decodeMajor04 (hm : w.extractLsb' 26 6 = 0x04#6) : Reads w (decodeMajor04 w) := by
  unfold decodeMajor04
  exact reads_slotIf rfl (fun hz => ⟨rfl, of_decide_eq_true hz, rfl, rfl, rfl, rfl, hm, trivial⟩)

theorem reads_decodeMajor05 (hm : w.extractLsb' 26 6 = 0x05#6) : Reads w (decodeMajor05 w) := by
  unfold decodeMajor05
  split
  · next hop => exact reads_slotIf rfl (fun hz => have ⟨z0, z1, z2⟩ := all_three hz; ⟨field_eq hop, rfl, z0, rfl, z1, rfl, z2, rfl, hm, trivial⟩)
  · next hop => exact reads_slotIf rfl (fun hz => have ⟨z0, z1, z2⟩ := all_three hz; ⟨field_eq hop, rfl, z0, rfl, z1, rfl, z2, rfl, hm, trivial⟩)
  · next hop => exact reads_slotIf rfl (fun hz => have ⟨z0, z1, z2⟩ := all_three hz; ⟨field_eq hop, rfl, z0, rfl, z1, rfl, z2, rfl, hm, trivial⟩)
  · next hop => exact reads_slotIf rfl (fun hz => ⟨field_eq hop, of_decide_eq_true hz, rfl, rfl, hm, trivial⟩)
  · next hop => exact reads_slotIf rfl (fun hz => have ⟨z0, z1⟩ := both hz; ⟨field_eq hop, z0, rfl, rfl, z1, rfl, hm, trivial⟩)
  · exact Nat.noConfusion

theorem reads_decodeMajor06 (hm : w.extractLsb' 26 6 = 0x06#6) : Reads w (decodeMajor06 w) := by
  unfold decodeMajor06
  exact reads_slotIf rfl (fun _ => ⟨rfl, rfl, rfl, rfl, hm, trivial⟩)

theorem reads_decodeMajor07 (hm : w.extractLsb' 26 6 = 0x07#6) : Reads w (decodeMajor07 w) := by
  unfold decodeMajor07
  exact reads_slotIf rfl (fun _ => ⟨rfl, rfl, rfl, rfl, hm, trivial⟩)

theorem reads_decodeMajor08 (hm : w.extractLsb' 26 6 = 0x08#6) : Reads w (decodeMajor08 w) := by
  unfold decodeMajor08
  exact reads_slotIf rfl (fun _ => ⟨rfl, rfl, rfl, rfl, hm, trivial⟩)

theorem reads_decodeMajor09 (hm : w.extractLsb' 26 6 = 0x09#6) : Reads w (decodeMajor09 w) := by
  unfold decodeMajor09
  exact reads_slotIf rfl (fun _ => ⟨rfl, rfl, rfl, rfl, hm, trivial⟩)

theorem reads_decodeMajor0A (hm : w.extractLsb' 26 6 = 0x0A#6) : Reads w (decodeMajor0A w) := by
  unfold decodeMajor0A
  split
  · next hop => exact reads_slotIf rfl (fun hz => ⟨rfl, field_eq hop, of_decide_eq_true hz, rfl, rfl, rfl, hm, trivial⟩)
  · next hop => exact reads_slotIf rfl (fun hz => ⟨rfl, field_eq hop, of_decide_eq_true hz, rfl, rfl, rfl, hm, trivial⟩)
  · next hop => exact reads_slotIf rfl (fun hz => ⟨rfl, field_eq hop, of_decide_eq_true hz, rfl, rfl, rfl, hm, trivial⟩)
  · exact Nat.noConfusion

theorem reads_decodeMajor0B (hm : w.extractLsb' 26 6 = 0x0B#6) : Reads w (decodeMajor0B w) := by
  unfold decodeMajor0B
  exact reads_slotIf rfl (fun _ => ⟨rfl, rfl, rfl, rfl, rfl, hm, trivial⟩)

theorem reads_decodeMajor0C (hm : w.extractLsb' 26 6 = 0x0C#6) : Reads w (decodeMajor0C w) := by
  unfold decodeMajor0C
  exact reads_slotIf rfl (fun _ => ⟨rfl, rfl, rfl, rfl, rfl, hm, trivial⟩)

theorem reads_decodeMajor0D (hm : w.extractLsb' 26 6 = 0x0D#6) : Reads w (decodeMajor0D w) := by
  unfold decodeMajor0D
  exact reads_slotIf rfl (fun _ => ⟨rfl, rfl, rfl, hm, trivial⟩)

theorem reads_decodeMajor0E (hm : w.extractLsb' 26 6 = 0x0E#6) : Reads w (decodeMajor0E w) := by
  unfold decodeMajor0E
  exact reads_slotIf rfl (fun _ => ⟨rfl, rfl, rfl, hm, trivial⟩)

theorem reads_decodeMajor0F (hm : w.extractLsb' 26 6 = 0x0F#6) : Reads w (decodeMajor0F w) := by
  unfold decodeMajor0F
  exact reads_slotIf rfl (fun hz => ⟨rfl, of_decide_eq_true hz, rfl, rfl, hm, trivial⟩)

theorem reads_decodeMajor10 (hm : w.extractLsb' 26 6 = 0x10#6) : Reads w (decodeMajor10 w) := by
  unfold decodeMajor10
  exact reads_slotIf rfl (fun hz => ⟨rfl, rfl, of_decide_eq_true hz, rfl, hm, trivial⟩)

theorem reads_decodeMajor11 (hm : w.extractLsb' 26 6 = 0x11#6) : Reads w (decodeMajor11 w) := by
  unfold decodeMajor11
  exact reads_slotIf rfl (fun hz => ⟨rfl, of_decide_eq_true hz, rfl, hm, trivial⟩)

theorem reads_decodeMajor12 (hm : w.extractLsb' 26 6 = 0x12#6) : Reads w (decodeMajor12 w) := by
  unfold decodeMajor12
  exact reads_slotIf rfl (fun hz => ⟨rfl, of_decide_eq_true hz, rfl, hm, trivial⟩)

theorem reads_decodeMajor13 (hm : w.extractLsb' 26 6 = 0x13#6) : Reads w (decodeMajor13 w) := by
  unfold decodeMajor13
  exact reads_slotIf rfl (fun hz => ⟨rfl, of_decide_eq_true hz, rfl, rfl, hm, trivial⟩)

theorem reads_decodeMajor14 (hm : w.extractLsb' 26 6 = 0x14#6) : Reads w (decodeMajor14 w) := by
  unfold decodeMajor14
  exact reads_slotIf rfl (fun _ => ⟨rfl, rfl, rfl, rfl, hm, trivial⟩)

theorem reads_decodeMajor15 (hm : w.extractLsb' 26 6 = 0x15#6) : Reads w (decodeMajor15 w) := by
  unfold decodeMajor15
  split
  · next hop => exact reads_slotIf rfl (fun hz => have ⟨z0, z1⟩ := both hz; ⟨field_eq hop, z0, rfl, z1, rfl, hm, trivial⟩)
  · next hop => exact reads_slotIf rfl (fun hz => ⟨field_eq hop, of_decide_eq_true hz, rfl, rfl, rfl, hm, trivial⟩)
  · next hop => exact reads_slotIf rfl (fun hz => ⟨field_eq hop, rfl, of_decide_eq_true hz, rfl, hm, trivial⟩)
  · next hop => exact reads_slotIf rfl (fun hz => ⟨field_eq hop, of_decide_eq_true hz, rfl, hm, trivial⟩)
  · next hop => exact reads_slotIf rfl (fun hz => ⟨field_eq hop, of_decide_eq_true hz, rfl, hm, trivial⟩)
  · exact Nat.noConfusion

theorem reads_decodeMajor16 (hm : w.extractLsb' 26 6 = 0x16#6) : Reads w (decodeMajor16 w) := by
  unfold decodeMajor16
  exact reads_slotIf rfl (fun hz => ⟨rfl, rfl, rfl, rfl, of_decide_eq_true hz, rfl, hm, trivial⟩)

theorem reads_decodeMajor17 (hm : w.extractLsb' 26 6 = 0x17#6) : Reads w (decodeMajor17 w) := by
  unfold decodeMajor17
  exact reads_slotIf rfl (fun _ => ⟨rfl, rfl, rfl, rfl, rfl, hm, trivial⟩)

theorem reads_decodeMajor18 (hm : w.extractLsb' 26 6 = 0x18#6) : Reads w (decodeMajor18 w) := by
  unfold decodeMajor18
  exact reads_slotIf rfl (fun _ => ⟨rfl, rfl, rfl, rfl, rfl, hm, trivial⟩)

theorem reads_decodeMajor19 (hm : w.extractLsb' 26 6 = 0x19#6) : Reads w (decodeMajor19 w) := by
  unfold decodeMajor19
  exact reads_slotIf rfl (fun _ => ⟨rfl, rfl, rfl, rfl, rfl, hm, trivial⟩)

theorem reads_decodeMajor1A (hm : w.extractLsb' 26 6 = 0x1A#6) : Reads w (decodeMajor1A w) := by
  unfold decodeMajor1A
  exact reads_slotIf rfl (fun _ => ⟨rfl, rfl, rfl, rfl, rfl, hm, trivial⟩)

theorem reads_decodeMajor1B (hm : w.extractLsb' 26 6 = 0x1B#6) : Reads w (decodeMajor1B w) := by
  unfold decodeMajor1B
  exact reads_slotIf rfl (fun _ => ⟨rfl, rfl, rfl, rfl, rfl, hm, trivial⟩)

theorem reads_decodeMajor1C (hm : w.extractLsb' 26 6 = 0x1C#6) : Reads w (decodeMajor1C w) := by
  unfold decodeMajor1C
  exact reads_slotIf rfl (fun _ => ⟨rfl, rfl, rfl, rfl, rfl, hm, trivial⟩)

theorem reads_decodeMajor1D (hm : w.extractLsb' 26 6 = 0x1D#6) : Reads w (decodeMajor1D w) := by
  unfold decodeMajor1D
  exact reads_slotIf rfl (fun _ => ⟨rfl, rfl, rfl, rfl, rfl, hm, trivial⟩)

theorem reads_decodeMajor1E (hm : w.extractLsb' 26 6 = 0x1E#6) : Reads w (decodeMajor1E w) := by
  unfold decodeMajor1E
  exact reads_slotIf rfl (fun _ => ⟨rfl, rfl, rfl, rfl, rfl, hm, trivial⟩)

theorem reads_decodeMajor1F (hm : w.extractLsb' 26 6 = 0x1F#6) : Reads w (decodeMajor1F w) := by
  unfold decodeMajor1F
  split
  · next hop => exact reads_slotIf rfl (fun _ => ⟨field_eq hop, rfl, rfl, rfl, rfl, hm, trivial⟩)
  · next hop => exact reads_slotIf rfl (fun _ => ⟨field_eq hop, rfl, rfl, rfl, rfl, hm, trivial⟩)
  · next hop => exact reads_slotIf rfl (fun _ => ⟨field_eq hop, rfl, rfl, rfl, rfl, hm, trivial⟩)
  · exact Nat.noConfusion

theorem reads_decodeMajor20 (hm : w.extractLsb' 26 6 = 0x20#6) : Reads w (decodeMajor20 w) := by
  unfold decodeMajor20
  split
  · next hop => exact reads_slotIf rfl (fun _ => ⟨field_eq hop, rfl, rfl, rfl, rfl, hm, trivial⟩)
  · next hop => exact reads_slotIf rfl (fun _ => ⟨field_eq hop, rfl, rfl, rfl, rfl, hm, trivial⟩)
  · next hop => exact reads_slotIf rfl (fun _ => ⟨field_eq hop, rfl, rfl, rfl, rfl, hm, trivial⟩)
  · exact Nat.noConfusion

theorem reads_decodeMajor21 (hm : w.extractLsb' 26 6 = 0x21#6) : Reads w (decodeMajor21 w) := by
  unfold decodeMajor21
  exact reads_slotIf rfl (fun _ => ⟨rfl, rfl, rfl, rfl, rfl, rfl, hm, trivial⟩)

theorem reads_decodeMajor22 (hm : w.extractLsb' 26 6 = 0x22#6) : Reads w (decodeMajor22 w) := by
  unfold decodeMajor22
  exact reads_slotIf rfl (fun _ => ⟨rfl, rfl, rfl, rfl, rfl, hm, trivial⟩)

theorem reads_decodeMajor23 (hm : w.extractLsb' 26 6 = 0x23#6) : Reads w (decodeMajor23 w) := by
  unfold decodeMajor23
  exact reads_slotIf rfl (fun _ => ⟨rfl, rfl, rfl, rfl, rfl, hm, trivial⟩)

theorem reads_decodeMajor24 (hm : w.extractLsb' 26 6 = 0x24#6) : Reads w (decodeMajor24 w) := by
  unfold decodeMajor24
  exact reads_slotIf rfl (fun _ => ⟨rfl, rfl, rfl, rfl, rfl, hm, trivial⟩)

theorem reads_decodeMajor25 (hm : w.extractLsb' 26 6 = 0x25#6) : Reads w (decodeMajor25 w) := by
  unfold decodeMajor25
  split
  · next hop => exact reads_slotIf rfl (fun _ => ⟨rfl, field_eq hop, rfl, rfl, rfl, hm, trivial⟩)
  · next hop => exact reads_slotIf rfl (fun _ => ⟨rfl, field_eq hop, rfl, rfl, rfl, hm, trivial⟩)
  · next hop => exact reads_slotIf rfl (fun _ => ⟨rfl, field_eq hop, rfl, rfl, rfl, hm, trivial⟩)
  · next hop => exact reads_slotIf rfl (fun hz => ⟨rfl, field_eq hop, of_decide_eq_true hz, rfl, rfl, hm, trivial⟩)
  · next hop => exact reads_slotIf rfl (fun hz => have ⟨z0, z1⟩ := both hz; ⟨z0, field_eq hop, z1, rfl, rfl, hm, trivial⟩)
  · exact Nat.noConfusion

theorem reads_decodeMajor26 (hm : w.extractLsb' 26 6 = 0x26#6) : Reads w (decodeMajor26 w) := by
  unfold decodeMajor26
  split
  · next hop => exact reads_slotIf rfl (fun hz => ⟨rfl, of_decide_eq_true hz, field_eq hop, rfl, rfl, rfl, hm, trivial⟩)
  · next hop => exact reads_slotIf rfl (fun _ => ⟨rfl, rfl, field_eq hop, rfl, rfl, rfl, hm, trivial⟩)
  · next hop => exact reads_slotIf rfl (fun _ => ⟨rfl, rfl, field_eq hop, rfl, rfl, rfl, hm, trivial⟩)
  · exact Nat.noConfusion

theorem reads_decodeMajor27 (hm : w.extractLsb' 26 6 = 0x27#6) : Reads w (decodeMajor27 w) := by
  unfold decodeMajor27
  split
  · next hop => exact reads_slotIf rfl (fun _ => ⟨rfl, field_eq hop, rfl, rfl, rfl, hm, trivial⟩)
  · next hop => exact reads_slotIf rfl (fun _ => ⟨rfl, field_eq hop, rfl, rfl, rfl, hm, trivial⟩)
  · next hop => exact reads_slotIf rfl (fun _ => ⟨rfl, field_eq hop, rfl, rfl, rfl, hm, trivial⟩)
  · exact Nat.noConfusion

theorem reads_decodeMajor28 (hm : w.extractLsb' 26 6 = 0x28#6) : Reads w (decodeMajor28 w) := by
  unfold decodeMajor28
  exact reads_slotIf rfl (fun hz => ⟨rfl, rfl, of_decide_eq_true hz, rfl, rfl, rfl, hm, trivial⟩)

theorem reads_decodeMajor29 (hm : w.extractLsb' 26 6 = 0x29#6) : Reads w (decodeMajor29 w) := by
  unfold decodeMajor29
  exact reads_slotIf rfl (fun hz => ⟨rfl, rfl, rfl, of_decide_eq_true hz, rfl, hm, trivial⟩)

theorem reads_decodeMajor2A (hm : w.extractLsb' 26 6 = 0x2A#6) : Reads w (decodeMajor2A w) := by
  unfold decodeMajor2A
  split
  · next hop => exact reads_slotIf rfl (fun _ => ⟨rfl, field_eq hop, rfl, rfl, rfl, hm, trivial⟩)
  · next hop => exact reads_slotIf rfl (fun _ => ⟨rfl, field_eq hop, rfl, rfl, rfl, hm, trivial⟩)
  · next hop => exact reads_slotIf rfl (fun _ => ⟨rfl, field_eq hop, rfl, rfl, rfl, hm, trivial⟩)
  · next hop => exact reads_slotIf rfl (fun _ => ⟨rfl, field_eq hop, rfl, rfl, rfl, hm, trivial⟩)
  · next hop => exact reads_slotIf rfl (fun _ => ⟨rfl, field_eq hop, rfl, rfl, rfl, hm, trivial⟩)
  · next hop => exact reads_slotIf rfl (fun _ => ⟨rfl, field_eq hop, rfl, rfl, rfl, hm, trivial⟩)
  · exact Nat.noConfusion

theorem reads_decodeMajor2B (hm : w.extractLsb' 26 6 = 0x2B#6) : Reads w (decodeMajor2B w) := by
  unfold decodeMajor2B
  exact reads_slotIf rfl (fun _ => ⟨rfl, rfl, rfl, rfl, rfl, rfl, hm, trivial⟩)

theorem reads_decodeMajor2C (hm : w.extractLsb' 26 6 = 0x2C#6) : Reads w (decodeMajor2C w) := by
  unfold decodeMajor2C
  exact reads_slotIf rfl (fun _ => ⟨rfl, rfl, rfl, rfl, rfl, rfl, hm, trivial⟩)

theorem reads_decodeMajor2D (hm : w.extractLsb' 26 6 = 0x2D#6) : Reads w (decodeMajor2D w) := by
  unfold decodeMajor2D
  exact reads_slotIf rfl (fun _ => ⟨rfl, rfl, rfl, rfl, rfl, hm, trivial⟩)

theorem reads_decodeMajor2E (hm : w.extractLsb' 26 6 = 0x2E#6) : Reads w (decodeMajor2E w) := by
  unfold decodeMajor2E
  split
  · next hop => exact reads_slotIf rfl (fun _ => ⟨rfl, field_eq hop, rfl, rfl, rfl, hm, trivial⟩)
  · next hop => exact reads_slotIf rfl (fun _ => ⟨rfl, field_eq hop, rfl, rfl, rfl, hm, trivial⟩)
  · next hop => exact reads_slotIf rfl (fun _ => ⟨rfl, field_eq hop, rfl, rfl, rfl, hm, trivial⟩)
  · next h0 h1 h2 => exact reads_slotIf rfl (fun _ => ⟨rfl, (last_of_2_bits h0 h1 h2), rfl, rfl, rfl, hm, trivial⟩)

theorem reads_decodeMajor2F (hm : w.extractLsb' 26 6 = 0x2F#6) : Reads w (decodeMajor2F w) := by
  unfold decodeMajor2F
  split
  · next hop => exact reads_slotIf rfl (fun _ => ⟨rfl, rfl, rfl, rfl, field_eq hop, rfl, hm, trivial⟩)
  · next hop => exact reads_slotIf rfl (fun _ => ⟨rfl, rfl, rfl, rfl, field_eq hop, rfl, hm, trivial⟩)
  · next hop => exact reads_slotIf rfl (fun _ => ⟨rfl, rfl, rfl, rfl, field_eq hop, rfl, hm, trivial⟩)
  · next h0 h1 h2 => exact reads_slotIf rfl (fun _ => ⟨rfl, rfl, rfl, rfl, (last_of_2_bits h0 h1 h2), rfl, hm, trivial⟩)

theorem reads_decodeMajor30 (hm : w.extractLsb' 26 6 = 0x30#6) : Reads w (decodeMajor30 w) := by
  unfold decodeMajor30
  split
  · next hop => exact reads_slotIf rfl (fun _ => ⟨rfl, rfl, rfl, rfl, field_eq hop, rfl, hm, trivial⟩)
  · next hop => exact reads_slotIf rfl (fun _ => ⟨rfl, rfl, rfl, rfl, field_eq hop, rfl, hm, trivial⟩)
  · next hop => exact reads_slotIf rfl (fun _ => ⟨rfl, rfl, rfl, rfl, field_eq hop, rfl, hm, trivial⟩)
  · exact Nat.noConfusion

theorem reads_decodeMajor31 (hm : w.extractLsb' 26 6 = 0x31#6) : Reads w (decodeMajor31 w) := by
  unfold decodeMajor31
  split
  · next hop => exact reads_slotIf rfl (fun _ => ⟨rfl, field_eq hop, rfl, rfl, rfl, hm, trivial⟩)
  · next hop => exact reads_slotIf rfl (fun _ => ⟨rfl, field_eq hop, rfl, rfl, rfl, hm, trivial⟩)
  · next hop => exact reads_slotIf rfl (fun _ => ⟨rfl, field_eq hop, rfl, rfl, rfl, hm, trivial⟩)
  · next hop => exact reads_slotIf rfl (fun _ => ⟨rfl, field_eq hop, rfl, rfl, rfl, hm, trivial⟩)
  · next hop => exact reads_slotIf rfl (fun _ => ⟨rfl, field_eq hop, rfl, rfl, rfl, hm, trivial⟩)
  · next hop => exact reads_slotIf rfl (fun _ => ⟨rfl, field_eq hop, rfl, rfl, rfl, hm, trivial⟩)
  · exact Nat.noConfusion

theorem reads_decodeMajor32 (hm : w.extractLsb' 26 6 = 0x32#6) : Reads w (decodeMajor32 w) := by
  unfold decodeMajor32
  split
  · next hop => exact reads_slotIf rfl (fun hz => ⟨field_eq hop, of_decide_eq_true hz, rfl, rfl, rfl, rfl, rfl, hm, trivial⟩)
  · next hop => exact reads_slotIf rfl (fun hz => ⟨field_eq hop, of_decide_eq_true hz, rfl, rfl, rfl, rfl, rfl, hm, trivial⟩)
  · exact Nat.noConfusion

theorem reads_decodeMajor33 (hm : w.extractLsb' 26 6 = 0x33#6) : Reads w (decodeMajor33 w) := by
  unfold decodeMajor33
  split
  · next hop => exact reads_slotIf rfl (fun hz => ⟨field_eq hop, of_decide_eq_true hz, rfl, rfl, rfl, rfl, rfl, hm, trivial⟩)
  · next hop => exact reads_slotIf rfl (fun _ => ⟨field_eq hop, rfl, rfl, rfl, rfl, rfl, rfl, hm, trivial⟩)
  · next hop => exact reads_slotIf rfl (fun _ => ⟨field_eq hop, rfl, rfl, rfl, rfl, rfl, rfl, hm, trivial⟩)
  · next h0 h1 h2 => exact reads_slotIf rfl (fun hz => have ⟨z0, z1⟩ := both hz; ⟨(last_of_2_bits h0 h1 h2), z0, rfl, rfl, z1, rfl, hm, trivial⟩)

theorem reads_decodeMajor34 (hm : w.extractLsb' 26 6 = 0x34#6) : Reads w (decodeMajor34 w) := by
  unfold decodeMajor34
  split
  · next hop => exact reads_slotIf rfl (fun hz => ⟨field_eq hop, of_decide_eq_true hz, rfl, rfl, rfl, rfl, rfl, hm, trivial⟩)
  · next hop => exact reads_slotIf rfl (fun _ => ⟨field_eq hop, rfl, rfl, rfl, rfl, rfl, rfl, hm, trivial⟩)
  · next hop => exact reads_slotIf rfl (fun _ => ⟨field_eq hop, rfl, rfl, rfl, rfl, rfl, rfl, hm, trivial⟩)
  · exact Nat.noConfusion

theorem reads_decodeMajor35 (hm : w.extractLsb' 26 6 = 0x35#6) : Reads w (decodeMajor35 w) := by
  unfold decodeMajor35
  split
  · next hop => exact reads_slotIf rfl (fun _ => ⟨rfl, field_eq hop, rfl, rfl, rfl, rfl, hm, trivial⟩)
  · next hop => exact reads_slotIf rfl (fun _ => ⟨rfl, field_eq hop, rfl, rfl, rfl, rfl, hm, trivial⟩)
  · next hop => exact reads_slotIf rfl (fun _ => ⟨rfl, field_eq hop, rfl, rfl, rfl, rfl, hm, trivial⟩)
  · next hop => exact reads_slotIf rfl (fun _ => ⟨rfl, field_eq hop, rfl, rfl, rfl, rfl, hm, trivial⟩)
  · next hop => exact reads_slotIf rfl (fun _ => ⟨rfl, field_eq hop, rfl, rfl, rfl, rfl, hm, trivial⟩)
  · next hop => exact reads_slotIf rfl (fun _ => ⟨rfl, field_eq hop, rfl, rfl, rfl, rfl, hm, trivial⟩)
  · next hop => exact reads_slotIf rfl (fun _ => ⟨rfl, field_eq hop, rfl, rfl, rfl, rfl, hm, trivial⟩)
  · next h0 h1 h2 h3 h4 h5 h6 => exact reads_slotIf rfl (fun _ => ⟨rfl, (last_of_3_bits h0 h1 h2 h3 h4 h5 h6), rfl, rfl, rfl, rfl, hm, trivial⟩)

theorem reads_decodeMajor36 (hm : w.extractLsb' 26 6 = 0x36#6) : Reads w (decodeMajor36 w) := by
  unfold decodeMajor36
  split
  · next hop => exact reads_slotIf rfl (fun hz => ⟨rfl, field_eq hop, of_decide_eq_true hz, rfl, hm, trivial⟩)
  · next hop => exact reads_slotIf rfl (fun hz => ⟨rfl, field_eq hop, of_decide_eq_true hz, rfl, hm, trivial⟩)
  · next hop => exact reads_slotIf rfl (fun _ => ⟨rfl, field_eq hop, rfl, rfl, rfl, rfl, hm, trivial⟩)
  · next hop => exact reads_slotIf rfl (fun _ => ⟨rfl, field_eq hop, rfl, rfl, rfl, rfl, hm, trivial⟩)
  · exact Nat.noConfusion

theorem reads_decodeMajor37 (hm : w.extractLsb' 26 6 = 0x37#6) : Reads w (decodeMajor37 w) := by
  unfold decodeMajor37
  split
  · next hop => exact reads_slotIf rfl (fun hz => ⟨field_eq hop, rfl, of_decide_eq_true hz, rfl, rfl, hm, trivial⟩)
  · next hop => exact reads_slotIf rfl (fun hz => ⟨field_eq hop, of_decide_eq_true hz, rfl, rfl, rfl, hm, trivial⟩)
  · next hop => exact reads_slotIf rfl (fun hz => ⟨field_eq hop, of_decide_eq_true hz, rfl, rfl, hm, trivial⟩)
  · next hop => exact reads_slotIf rfl (fun _ => ⟨field_eq hop, rfl, rfl, rfl, rfl, hm, trivial⟩)
  · next hop => exact reads_slotIf rfl (fun _ => ⟨field_eq hop, rfl, rfl, rfl, rfl, hm, trivial⟩)
  · next hop => exact reads_slotIf rfl (fun hz => ⟨field_eq hop, of_decide_eq_true hz, rfl, rfl, hm, trivial⟩)
  · next hop => exact reads_slotIf rfl (fun hz => have ⟨z0, z1⟩ := both hz; ⟨field_eq hop, z0, rfl, z1, rfl, hm, trivial⟩)
  · next hop => exact reads_slotIf rfl (fun hz => have ⟨z0, z1⟩ := both hz; ⟨field_eq hop, z0, rfl, z1, rfl, hm, trivial⟩)
  · next hop =>
    split
    · exact reads_slotIf rfl (fun hz => have ⟨z0, z1⟩ := both hz; ⟨field_eq hop, z0, rfl, rfl, z1, rfl, hm, trivial⟩)
    · exact reads_slotIf rfl (fun hz => have ⟨z0, z1⟩ := both hz; ⟨field_eq hop, z0, rfl, rfl, z1, rfl, hm, trivial⟩)
  · next hop => exact reads_slotIf rfl (fun hz => have ⟨z0, z1⟩ := both hz; ⟨field_eq hop, z0, rfl, rfl, z1, rfl, hm, trivial⟩)
  · next hop => exact reads_slotIf rfl (fun hz => have ⟨z0, z1⟩ := both hz; ⟨field_eq hop, z0, rfl, z1, rfl, hm, trivial⟩)
  · next hop => exact reads_slotIf rfl (fun hz => ⟨field_eq hop, rfl, of_decide_eq_true hz, rfl, rfl, hm, trivial⟩)
  · exact Nat.noConfusion

theorem reads_decodeMajor38 (hm : w.extractLsb' 26 6 = 0x38#6) : Reads w (decodeMajor38 w) := by
  unfold decodeMajor38
  split
  · next hop => exact reads_slotIf rfl (fun _ => ⟨field_eq hop, rfl, rfl, rfl, rfl, hm, trivial⟩)
  · next hop => exact reads_slotIf rfl (fun _ => ⟨field_eq hop, rfl, rfl, rfl, rfl, hm, trivial⟩)
  · next hop => exact reads_slotIf rfl (fun _ => ⟨field_eq hop, rfl, rfl, rfl, rfl, hm, trivial⟩)
  · next hop => exact reads_slotIf rfl (fun _ => ⟨field_eq hop, rfl, rfl, rfl, rfl, hm, trivial⟩)
  · exact Nat.noConfusion

theorem reads_decodeMajor39 (hm : w.extractLsb' 26 6 = 0x39#6) : Reads w (decodeMajor39 w) := by
  unfold decodeMajor39
  exact reads_slotIf rfl (fun hz => ⟨rfl, of_decide_eq_true hz, rfl, rfl, rfl, hm, trivial⟩)

theorem reads_decodeMajor3A (hm : w.extractLsb' 26 6 = 0x3A#6) : Reads w (decodeMajor3A w) := by
  unfold decodeMajor3A
  split
  · next hop => exact reads_slotIf rfl (fun hz => have ⟨z0, z1⟩ := both hz; ⟨field_eq hop, z0, rfl, rfl, z1, rfl, hm, trivial⟩)
  · next hop => exact reads_slotIf rfl (fun hz => have ⟨z0, z1⟩ := both hz; ⟨field_eq hop, z0, rfl, z1, rfl, rfl, hm, trivial⟩)
  · next hop => exact reads_slotIf rfl (fun hz => ⟨field_eq hop, rfl, rfl, of_decide_eq_true hz, rfl, hm, trivial⟩)
  · next hop => exact reads_slotIf rfl (fun hz => ⟨field_eq hop, of_decide_eq_true hz, rfl, rfl, rfl, hm, trivial⟩)
  · next hop => exact reads_slotIf rfl (fun hz => ⟨field_eq hop, of_decide_eq_true hz, rfl, rfl, rfl, hm, trivial⟩)
  · exact Nat.noConfusion

theorem reads_decodeMajor3B (hm : w.extractLsb' 26 6 = 0x3B#6) : Reads w (decodeMajor3B w) := by
  unfold decodeMajor3B
  split
  · next hop => exact reads_slotIf rfl (fun hz => ⟨field_eq hop, of_decide_eq_true hz, rfl, rfl, rfl, hm, trivial⟩)
  · next hop => exact reads_slotIf rfl (fun hz => ⟨field_eq hop, of_decide_eq_true hz, rfl, rfl, rfl, hm, trivial⟩)
  · next hop => exact reads_slotIf rfl (fun hz => ⟨field_eq hop, of_decide_eq_true hz, rfl, rfl, hm, trivial⟩)
  · next hop => exact reads_slotIf rfl (fun hz => ⟨field_eq hop, rfl, rfl, of_decide_eq_true hz, rfl, hm, trivial⟩)
  · next hop => exact reads_slotIf rfl (fun _ => ⟨field_eq hop, rfl, rfl, rfl, rfl, hm, trivial⟩)
  · next hop => exact reads_slotIf rfl (fun hz => ⟨field_eq hop, of_decide_eq_true hz, rfl, rfl, hm, trivial⟩)
  · next hop => exact reads_slotIf rfl (fun hz => ⟨field_eq hop, of_decide_eq_true hz, rfl, rfl, hm, trivial⟩)
  · next hop => exact reads_slotIf rfl (fun hz => ⟨field_eq hop, rfl, rfl, of_decide_eq_true hz, rfl, hm, trivial⟩)
  · next hop => exact reads_slotIf rfl (fun hz => ⟨field_eq hop, of_decide_eq_true hz, rfl, hm, trivial⟩)
  · next hop => exact reads_slotIf rfl (fun hz => ⟨field_eq hop, of_decide_eq_true hz, rfl, rfl, rfl, hm, trivial⟩)
  · next hop => exact reads_slotIf rfl (fun hz => have ⟨z0, z1⟩ := both hz; ⟨field_eq hop, z0, rfl, rfl, z1, rfl, hm, trivial⟩)
  · exact Nat.noConfusion

theorem reads_decodeMajor3C (hm : w.extractLsb' 26 6 = 0x3C#6) : Reads w (decodeMajor3C w) := by
  unfold decodeMajor3C
  split
  · next hop => exact reads_slotIf rfl (fun _ => ⟨rfl, rfl, rfl, rfl, field_eq hop, rfl, hm, trivial⟩)
  · next hop => exact reads_slotIf rfl (fun _ => ⟨rfl, rfl, rfl, rfl, field_eq hop, rfl, hm, trivial⟩)
  · exact Nat.noConfusion

theorem reads_decodeMajor3D (hm : w.extractLsb' 26 6 = 0x3D#6) : Reads w (decodeMajor3D w) := by
  unfold decodeMajor3D
  exact reads_slotIf rfl (fun hz => ⟨rfl, rfl, of_decide_eq_true hz, rfl, rfl, rfl, hm, trivial⟩)

theorem reads_decodeMajor3E (hm : w.extractLsb' 26 6 = 0x3E#6) : Reads w (decodeMajor3E w) := by
  unfold decodeMajor3E
  split
  · next hop => exact reads_slotIf rfl (fun hz => ⟨rfl, of_decide_eq_true hz, field_eq hop, rfl, rfl, rfl, hm, trivial⟩)
  · exact Nat.noConfusion


/-- What a word decodes to, read off its fields. -/
theorem reads_decodeMajor (ig : Bool) : Reads w (decodeMajor ig w) := by
  unfold decodeMajor
  split
  · split
    · next hw => exact ⟨rfl, by rw [hw]; rfl, trivial⟩
    · exact Nat.noConfusion
  · next hm => exact reads_decodeMajor01 (field_eq hm)
  · next hm => exact reads_decodeMajor02 (field_eq hm)
  · next hm => exact reads_decodeMajor03 (field_eq hm)
  · next hm => exact reads_decodeMajor04 (field_eq hm)
  · next hm => exact reads_decodeMajor05 (field_eq hm)
  · next hm => exact reads_decodeMajor06 (field_eq hm)
  · next hm => exact reads_decodeMajor07 (field_eq hm)
  · next hm => exact reads_decodeMajor08 (field_eq hm)
  · next hm => exact reads_decodeMajor09 (field_eq hm)
  · next hm => exact reads_decodeMajor0A (field_eq hm)
  · next hm => exact reads_decodeMajor0B (field_eq hm)
  · next hm => exact reads_decodeMajor0C (field_eq hm)
  · next hm => exact reads_decodeMajor0D (field_eq hm)
  · next hm => exact reads_decodeMajor0E (field_eq hm)
  · next hm => exact reads_decodeMajor0F (field_eq hm)
  · next hm => exact reads_decodeMajor10 (field_eq hm)
  · next hm => exact reads_decodeMajor11 (field_eq hm)
  · next hm => exact reads_decodeMajor12 (field_eq hm)
  · next hm => exact reads_decodeMajor13 (field_eq hm)
  · next hm => exact reads_decodeMajor14 (field_eq hm)
  · next hm => exact reads_decodeMajor15 (field_eq hm)
  · next hm => exact reads_decodeMajor16 (field_eq hm)
  · next hm =>
    split
    · exact reads_decodeMajor17 (field_eq hm)
    · exact Nat.noConfusion
  · next hm => exact reads_decodeMajor18 (field_eq hm)
  · next hm => exact reads_decodeMajor19 (field_eq hm)
  · next hm => exact reads_decodeMajor1A (field_eq hm)
  · next hm => exact reads_decodeMajor1B (field_eq hm)
  · next hm => exact reads_decodeMajor1C (field_eq hm)
  · next hm => exact reads_decodeMajor1D (field_eq hm)
  · next hm => exact reads_decodeMajor1E (field_eq hm)
  · next hm => exact reads_decodeMajor1F (field_eq hm)
  · next hm => exact reads_decodeMajor20 (field_eq hm)
  · next hm => exact reads_decodeMajor21 (field_eq hm)
  · next hm => exact reads_decodeMajor22 (field_eq hm)
  · next hm => exact reads_decodeMajor23 (field_eq hm)
  · next hm => exact reads_decodeMajor24 (field_eq hm)
  · next hm => exact reads_decodeMajor25 (field_eq hm)
  · next hm => exact reads_decodeMajor26 (field_eq hm)
  · next hm => exact reads_decodeMajor27 (field_eq hm)
  · next hm => exact reads_decodeMajor28 (field_eq hm)
  · next hm => exact reads_decodeMajor29 (field_eq hm)
  · next hm => exact reads_decodeMajor2A (field_eq hm)
  · next hm => exact reads_decodeMajor2B (field_eq hm)
  · next hm => exact reads_decodeMajor2C (field_eq hm)
  · next hm => exact reads_decodeMajor2D (field_eq hm)
  · next hm => exact reads_decodeMajor2E (field_eq hm)
  · next hm => exact reads_decodeMajor2F (field_eq hm)
  · next hm => exact reads_decodeMajor30 (field_eq hm)
  · next hm => exact reads_decodeMajor31 (field_eq hm)
  · next hm => exact reads_decodeMajor32 (field_eq hm)
  · next hm => exact reads_decodeMajor33 (field_eq hm)
  · next hm => exact reads_decodeMajor34 (field_eq hm)
  · next hm => exact reads_decodeMajor35 (field_eq hm)
  · next hm => exact reads_decodeMajor36 (field_eq hm)
  · next hm => exact reads_decodeMajor37 (field_eq hm)
  · next hm => exact reads_decodeMajor38 (field_eq hm)
  · next hm => exact reads_decodeMajor39 (field_eq hm)
  · next hm => exact reads_decodeMajor3A (field_eq hm)
  · next hm => exact reads_decodeMajor3B (field_eq hm)
  · next hm =>
    split
    · exact reads_decodeMajor3C (field_eq hm)
    · exact Nat.noConfusion
  · next hm =>
    split
    · exact reads_decodeMajor3D (field_eq hm)
    · exact Nat.noConfusion
  · next hm =>
    split
    · exact reads_decodeMajor3E (field_eq hm)
    · exact Nat.noConfusion
  · exact Nat.noConfusion

end Decoded

/-! ### The statement -/

/-- A word whose subcode is 0 decodes to an operation that keeps its operands' limits (R35). -/
theorem decodeSlot_eq_zero {w : W32} {ig : Bool} {i : Instr} :
    decodeSlot ig w = (0, i) ↔ decodeMajor ig w = .op i ∧ (if ig then i.badCodeIgpor else i.badCode) = 0 := by
  have hreads := reads_decodeMajor (w := w) ig
  unfold decodeSlot
  cases hd : decodeMajor ig w with
  | op j =>
    simp only [Prod.mk.injEq, SlotDecode.op.injEq]
    constructor
    · rintro ⟨hc, rfl⟩; exact ⟨rfl, hc⟩
    · rintro ⟨rfl, hc⟩; exact ⟨hc, rfl⟩
  | loose j =>
    simp only [Prod.mk.injEq, reduceCtorEq, false_and, iff_false, not_and]
    have hne : ∀ n : Nat, (if n = 2 then 2 else 3) ≠ 0 := fun n => by split <;> exact Nat.noConfusion
    exact fun h0 => absurd h0 (hne _)
  | illegal n =>
    rw [hd] at hreads
    simp only [Prod.mk.injEq, reduceCtorEq, false_and, iff_false, not_and]
    exact fun hn => absurd hn hreads

/-- No slot operation has major 0x3F, which is a header's. -/
theorem major_lt_63 {i : Instr} (h : i.major < 64) : i.major < 63 := by
  have hb : (!Nat.blt i.major 64 || Nat.blt i.major 63) = true := by cases i <;> rfl
  rw [Nat.blt_eq.mpr h] at hb
  exact Nat.blt_eq.mp hb

/-- Settles O49: a slot operation's word holds the fields of its layout, which fill it, and they decide what it decodes to. -/
theorem slotEncodingRoundTrip : Obligations.SlotEncodingRoundTrip := by
  refine ⟨fun i ig hi hig hbad => ?encode, fun w ig i h => ?decode⟩
  case encode =>
    have hm := major_lt_63 hi
    have hfields : Fields (encodeSlot i) (layout i) :=
      fields_of_sum (tiles_layout hm) (by rw [pow_zero, Nat.div_one, Nat.mul_one, encodeNat_eq_fieldSum hm])
    exact decodeSlot_eq_zero.2 ⟨decodeMajor_of_fields hm hig hfields, hbad⟩
  case decode =>
    obtain ⟨hop, -⟩ := decodeSlot_eq_zero.1 h
    have hreads := reads_decodeMajor (w := w) ig
    rw [hop] at hreads
    obtain ⟨hb, hfields⟩ := hreads
    have hm : i.major < 63 := Nat.blt_eq.mp hb
    have hsum := sum_of_fields (tiles_layout hm) hfields
    rw [pow_zero, Nat.div_one, Nat.mul_one] at hsum
    rw [encodeSlot, encodeNat_eq_fieldSum hm, ← hsum, BitVec.ofNat_toNat, BitVec.setWidth_eq]

end Sys2Proof
end

section
/-! PROOFS. Micro-words and packets (spec 11 R251, spec 16 R364): where the fields of each stand, and the round trip. -/

namespace Sys2Proof

/-! ### Words of any width as fields -/

section Wide
variable {W : Nat}

/-- The word holds every field. -/
def HasFields (w : BitVec W) : List BitField → Prop
  | [] => True
  | f :: t => w.extractLsb' f.lo f.n = f.v ∧ HasFields w t

/-- The fields, each at its place. -/
def orFields (W : Nat) : List BitField → BitVec W
  | [] => 0#W
  | f :: t => orFields W t ||| f.v.setWidth W <<< f.lo

/-- The fields fill bits lo to W-1, lowest first. -/
def fills (W : Nat) : Nat → List BitField → Bool
  | lo, [] => Nat.beq lo W
  | lo, f :: t => Nat.beq f.lo lo && fills W (lo + f.n) t

theorem le_of_fills {L : List BitField} : ∀ {lo : Nat}, fills W lo L = true → lo ≤ W := by
  induction L with
  | nil => exact fun h => (Nat.eq_of_beq_eq_true h).le
  | cons f t ih =>
    intro lo h
    exact (Nat.le_add_right ..).trans (ih (Bool.and_eq_true_iff.1 h).2)

/-- Below the first field no bit is set. -/
theorem orFields_below {L : List BitField} : ∀ {lo : Nat}, fills W lo L = true → ∀ i < lo,
    (orFields W L).getLsbD i = false := by
  induction L with
  | nil => exact fun _ _ _ => BitVec.getLsbD_zero
  | cons f t ih =>
    intro lo h i hi
    obtain ⟨hf, ht⟩ := Bool.and_eq_true_iff.1 h
    have hlo : f.lo = lo := Nat.eq_of_beq_eq_true hf
    have htail := ih ht i (Nat.lt_add_right _ hi)
    simp [orFields, htail, hlo, hi]

/-- The bits of the first field. -/
theorem orFields_head {f : BitField} {t : List BitField} {lo : Nat} (h : fills W lo (f :: t) = true) {i : Nat} (hi : i < f.n) :
    (orFields W (f :: t)).getLsbD (lo + i) = f.v.getLsbD i := by
  obtain ⟨hf, ht⟩ := Bool.and_eq_true_iff.1 h
  have hlo : f.lo = lo := Nat.eq_of_beq_eq_true hf
  have htail := orFields_below ht (lo + i) (Nat.add_lt_add_left hi _)
  have hle : lo + f.n ≤ W := le_of_fills ht
  have h1 : lo + i < W := by omega
  have h2 : i < W := by omega
  rw [orFields, BitVec.getLsbD_or, htail, Bool.false_or, BitVec.getLsbD_shiftLeft, BitVec.getLsbD_setWidth]
  simp [hlo, h1, h2]

/-- Above the first field stand the others. -/
theorem orFields_above {f : BitField} {t : List BitField} {lo : Nat} (h : fills W lo (f :: t) = true) {i : Nat}
    (hi : lo + f.n ≤ i) : (orFields W (f :: t)).getLsbD i = (orFields W t).getLsbD i := by
  obtain ⟨hf, -⟩ := Bool.and_eq_true_iff.1 h
  have hlo : f.lo = lo := Nat.eq_of_beq_eq_true hf
  have hge : f.v.getLsbD (i - lo) = false := BitVec.getLsbD_of_ge _ _ (by omega)
  simp [orFields, hlo, hge]

/-- A word whose bits from lo on are the fields' holds them. -/
theorem hasFields_of_bits {L : List BitField} {w : BitVec W} : ∀ {lo : Nat}, fills W lo L = true →
    (∀ i, lo ≤ i → w.getLsbD i = (orFields W L).getLsbD i) → HasFields w L := by
  induction L with
  | nil => exact fun _ _ => trivial
  | cons f t ih =>
    intro lo h hw
    obtain ⟨hf, ht⟩ := Bool.and_eq_true_iff.1 h
    have hlo : f.lo = lo := Nat.eq_of_beq_eq_true hf
    refine ⟨BitVec.eq_of_getLsbD_eq fun i hi => ?_, ih ht fun i hi => ?_⟩
    · rw [BitVec.getLsbD_extractLsb', hlo, hw _ (Nat.le_add_right ..), orFields_head h hi]
      simp [hi]
    · rw [hw i (by omega), orFields_above h hi]

/-- The bits from lo on of a word that holds fields which fill it from there on. -/
theorem bits_of_hasFields {L : List BitField} {w : BitVec W} : ∀ {lo : Nat}, fills W lo L = true → HasFields w L →
    ∀ i, lo ≤ i → w.getLsbD i = (orFields W L).getLsbD i := by
  induction L with
  | nil =>
    intro lo h _ i hi
    have hlo : lo = W := Nat.eq_of_beq_eq_true h
    rw [BitVec.getLsbD_of_ge _ _ (hlo ▸ hi), orFields, BitVec.getLsbD_zero]
  | cons f t ih =>
    intro lo h hw i hi
    obtain ⟨hf, ht⟩ := Bool.and_eq_true_iff.1 h
    have hlo : f.lo = lo := Nat.eq_of_beq_eq_true hf
    obtain ⟨hv, hw⟩ := hw
    by_cases hin : i < lo + f.n
    · obtain ⟨j, rfl⟩ := Nat.exists_eq_add_of_le hi
      have hj : j < f.n := by omega
      rw [orFields_head h hj, ← hv, BitVec.getLsbD_extractLsb', hlo]
      simp [hj]
    · rw [orFields_above h (Nat.not_lt.1 hin), ih ht hw i (Nat.not_lt.1 hin)]

theorem hasFields_orFields {L : List BitField} (h : fills W 0 L = true) : HasFields (orFields W L) L :=
  hasFields_of_bits h fun _ _ => rfl

theorem eq_orFields {L : List BitField} {w : BitVec W} (h : fills W 0 L = true) (hw : HasFields w L) : w = orFields W L :=
  BitVec.eq_of_getLsbD_eq fun i _ => bits_of_hasFields h hw i (Nat.zero_le _)

end Wide

/-! ### Micro-words -/

/-- The fields of a micro-op's word, lowest first (R251). -/
def microLayout : Instr → List BitField
  | .zero ld rp => [⟨0, 56, 0#56⟩, ⟨56, 3, rp⟩, ⟨59, 1, ld⟩, ⟨60, 4, 1#4⟩]
  | .mma ap bp kp mp ah bh sp ua ain bin => [⟨0, 31, 0#31⟩, ⟨31, 1, bin⟩, ⟨32, 1, ain⟩, ⟨33, 1, ua⟩, ⟨34, 1, sp⟩, ⟨35, 6, bh⟩,
      ⟨41, 6, ah⟩, ⟨47, 3, mp⟩, ⟨50, 3, kp⟩, ⟨53, 3, bp⟩, ⟨56, 3, ap⟩, ⟨59, 1, 0#1⟩, ⟨60, 4, 2#4⟩]
  | .unf tp gp => [⟨0, 53, 0#53⟩, ⟨53, 3, gp⟩, ⟨56, 3, tp⟩, ⟨59, 1, 0#1⟩, ⟨60, 4, 3#4⟩]
  | .drain rp scp sc df => [⟨0, 49, 0#49⟩, ⟨49, 3, df⟩, ⟨52, 1, sc⟩, ⟨53, 3, scp⟩, ⟨56, 3, rp⟩, ⟨59, 1, 0#1⟩, ⟨60, 4, 4#4⟩]
  | .adv pd sp ps st => [⟨0, 32, st⟩, ⟨32, 20, 0#20⟩, ⟨52, 1, ps⟩, ⟨53, 3, sp⟩, ⟨56, 3, pd⟩, ⟨59, 1, 0#1⟩, ⟨60, 4, 5#4⟩]
  | .mxLoop cp => [⟨0, 56, 0#56⟩, ⟨56, 3, cp⟩, ⟨59, 1, 0#1⟩, ⟨60, 4, 6#4⟩]
  | .endl => [⟨0, 60, 0#60⟩, ⟨60, 4, 7#4⟩]
  | .waith h => [⟨0, 53, 0#53⟩, ⟨53, 6, h⟩, ⟨59, 1, 0#1⟩, ⟨60, 4, 8#4⟩]
  | .mxEnd => [⟨0, 60, 0#60⟩, ⟨60, 4, 9#4⟩]
  | _ => []

theorem orFields_zero {W lo n : Nat} {t : List BitField} : orFields W (⟨lo, n, 0#n⟩ :: t) = orFields W t := by
  rw [orFields, BitVec.setWidth_zero, BitVec.zero_shiftLeft, BitVec.or_zero]

theorem orFields_nil {W : Nat} : orFields W [] = 0#W := rfl

theorem orFields_at {lo n : Nat} {v : BitVec n} {t : List BitField} :
    orFields 64 (⟨lo, n, v⟩ :: t) = orFields 64 t ||| at_ lo v := rfl

theorem encodeMicro_zero (rp : BitVec 3) (ld : BitVec 1) : encodeMicro (.zero ld rp) = orFields 64 (microLayout (.zero ld rp)) := by
  show at_ 60 1#4 ||| at_ 59 ld ||| at_ 56 rp = orFields 64 [⟨0, 56, 0#56⟩, ⟨56, 3, rp⟩, ⟨59, 1, ld⟩, ⟨60, 4, 1#4⟩]
  rw [orFields_zero, orFields_at, orFields_at, orFields_at, orFields_nil, BitVec.zero_or]

theorem encodeMicro_mma (bin : BitVec 1) (ain : BitVec 1) (ua : BitVec 1) (sp : BitVec 1) (bh : BitVec 6) (ah : BitVec 6) (mp : BitVec 3) (kp : BitVec 3) (bp : BitVec 3) (ap : BitVec 3) : encodeMicro (.mma ap bp kp mp ah bh sp ua ain bin) = orFields 64 (microLayout (.mma ap bp kp mp ah bh sp ua ain bin)) := by
  show at_ 60 2#4 ||| at_ 56 ap ||| at_ 53 bp ||| at_ 50 kp ||| at_ 47 mp ||| at_ 41 ah ||| at_ 35 bh ||| at_ 34 sp ||| at_ 33 ua ||| at_ 32 ain ||| at_ 31 bin = orFields 64 [⟨0, 31, 0#31⟩, ⟨31, 1, bin⟩, ⟨32, 1, ain⟩, ⟨33, 1, ua⟩, ⟨34, 1, sp⟩, ⟨35, 6, bh⟩, ⟨41, 6, ah⟩, ⟨47, 3, mp⟩, ⟨50, 3, kp⟩, ⟨53, 3, bp⟩, ⟨56, 3, ap⟩, ⟨59, 1, 0#1⟩, ⟨60, 4, 2#4⟩]
  rw [orFields_zero, orFields_at, orFields_at, orFields_at, orFields_at, orFields_at, orFields_at, orFields_at, orFields_at, orFields_at, orFields_at, orFields_zero, orFields_at, orFields_nil, BitVec.zero_or]

theorem encodeMicro_unf (gp : BitVec 3) (tp : BitVec 3) : encodeMicro (.unf tp gp) = orFields 64 (microLayout (.unf tp gp)) := by
  show at_ 60 3#4 ||| at_ 56 tp ||| at_ 53 gp = orFields 64 [⟨0, 53, 0#53⟩, ⟨53, 3, gp⟩, ⟨56, 3, tp⟩, ⟨59, 1, 0#1⟩, ⟨60, 4, 3#4⟩]
  rw [orFields_zero, orFields_at, orFields_at, orFields_zero, orFields_at, orFields_nil, BitVec.zero_or]

theorem encodeMicro_drain (df : BitVec 3) (sc : BitVec 1) (scp : BitVec 3) (rp : BitVec 3) : encodeMicro (.drain rp scp sc df) = orFields 64 (microLayout (.drain rp scp sc df)) := by
  show at_ 60 4#4 ||| at_ 56 rp ||| at_ 53 scp ||| at_ 52 sc ||| at_ 49 df = orFields 64 [⟨0, 49, 0#49⟩, ⟨49, 3, df⟩, ⟨52, 1, sc⟩, ⟨53, 3, scp⟩, ⟨56, 3, rp⟩, ⟨59, 1, 0#1⟩, ⟨60, 4, 4#4⟩]
  rw [orFields_zero, orFields_at, orFields_at, orFields_at, orFields_at, orFields_zero, orFields_at, orFields_nil, BitVec.zero_or]

theorem encodeMicro_adv (st : BitVec 32) (ps : BitVec 1) (sp : BitVec 3) (pd : BitVec 3) : encodeMicro (.adv pd sp ps st) = orFields 64 (microLayout (.adv pd sp ps st)) := by
  show at_ 60 5#4 ||| at_ 56 pd ||| at_ 53 sp ||| at_ 52 ps ||| at_ 0 st = orFields 64 [⟨0, 32, st⟩, ⟨32, 20, 0#20⟩, ⟨52, 1, ps⟩, ⟨53, 3, sp⟩, ⟨56, 3, pd⟩, ⟨59, 1, 0#1⟩, ⟨60, 4, 5#4⟩]
  rw [orFields_at, orFields_zero, orFields_at, orFields_at, orFields_at, orFields_zero, orFields_at, orFields_nil, BitVec.zero_or]

theorem encodeMicro_mxLoop (cp : BitVec 3) : encodeMicro (.mxLoop cp) = orFields 64 (microLayout (.mxLoop cp)) := by
  show at_ 60 6#4 ||| at_ 56 cp = orFields 64 [⟨0, 56, 0#56⟩, ⟨56, 3, cp⟩, ⟨59, 1, 0#1⟩, ⟨60, 4, 6#4⟩]
  rw [orFields_zero, orFields_at, orFields_zero, orFields_at, orFields_nil, BitVec.zero_or]

theorem encodeMicro_endl : encodeMicro (.endl) = orFields 64 (microLayout (.endl)) := by
  show at_ 60 7#4 = orFields 64 [⟨0, 60, 0#60⟩, ⟨60, 4, 7#4⟩]
  rw [orFields_zero, orFields_at, orFields_nil, BitVec.zero_or]

theorem encodeMicro_waith (h : BitVec 6) : encodeMicro (.waith h) = orFields 64 (microLayout (.waith h)) := by
  show at_ 60 8#4 ||| at_ 53 h = orFields 64 [⟨0, 53, 0#53⟩, ⟨53, 6, h⟩, ⟨59, 1, 0#1⟩, ⟨60, 4, 8#4⟩]
  rw [orFields_zero, orFields_at, orFields_zero, orFields_at, orFields_nil, BitVec.zero_or]

theorem encodeMicro_mxEnd : encodeMicro (.mxEnd) = orFields 64 (microLayout (.mxEnd)) := by
  show at_ 60 9#4 = orFields 64 [⟨0, 60, 0#60⟩, ⟨60, 4, 9#4⟩]
  rw [orFields_zero, orFields_at, orFields_nil, BitVec.zero_or]

/-- The micro-word of a micro-op is that of its fields, which fill it. -/
theorem encodeMicro_eq_orFields {i : Instr} :
    (encodeMicro i = orFields 64 (microLayout i) ∧ fills 64 0 (microLayout i) = true)
      ∨ (encodeMicro i = 0 ∧ fills 64 0 (microLayout i) = false) := by
  cases i with
  | zero => exact .inl ⟨encodeMicro_zero .., rfl⟩
  | mma => exact .inl ⟨encodeMicro_mma .., rfl⟩
  | unf => exact .inl ⟨encodeMicro_unf .., rfl⟩
  | drain => exact .inl ⟨encodeMicro_drain .., rfl⟩
  | adv => exact .inl ⟨encodeMicro_adv .., rfl⟩
  | mxLoop => exact .inl ⟨encodeMicro_mxLoop .., rfl⟩
  | endl => exact .inl ⟨encodeMicro_endl .., rfl⟩
  | waith => exact .inl ⟨encodeMicro_waith .., rfl⟩
  | mxEnd => exact .inl ⟨encodeMicro_mxEnd .., rfl⟩
  | _ => exact .inr ⟨rfl, rfl⟩

/-- A micro-word that holds the fields of a micro-op decodes to it. -/
theorem decodeMicro_of_fields {i : Instr} {w : W64} (hi : encodeMicro i ≠ 0) (hok : i.microOk = true)
    (h : HasFields w (microLayout i)) : decodeMicro w = some i := by
  cases i with
  | zero ld rp =>
    obtain ⟨h0, h56, h59, h60, -⟩ := h
    have hkeep : (ld == 1 || rp == 0) = true := hok
    unfold decodeMicro mf
    rw [h60, h59, h56, h0]
    simp_all
  | mma ap bp kp mp ah bh sp ua ain bin =>
    obtain ⟨h0, h31, h32, h33, h34, h35, h41, h47, h50, h53, h56, h59, h60, -⟩ := h
    have hkeep : ((sp == 1 || mp == 0) && (ain == 0 || ah == 0) && (bin == 0 || bh == 0)) = true := hok
    unfold decodeMicro mf
    rw [h60, h59, h56, h53, h50, h47, h41, h35, h34, h33, h32, h31, h0]
    simp_all
  | unf tp gp =>
    obtain ⟨h0, h53, h56, h59, h60, -⟩ := h
    unfold decodeMicro mf
    rw [h60, h59, h56, h53, h0]
    simp_all
  | drain rp scp sc df =>
    obtain ⟨h0, h49, h52, h53, h56, h59, h60, -⟩ := h
    have hkeep : (sc == 1 || scp == 0) = true := hok
    unfold decodeMicro mf
    rw [h60, h59, h56, h53, h52, h49, h0]
    simp_all
  | adv pd sp ps st =>
    obtain ⟨h0, h32, h52, h53, h56, h59, h60, -⟩ := h
    have hkeep : ((ps == 1 || sp == 0) && (ps == 0 || st == 0)) = true := hok
    unfold decodeMicro mf
    rw [h60, h59, h56, h53, h52, h32, h0]
    simp_all
  | mxLoop cp =>
    obtain ⟨h0, h56, h59, h60, -⟩ := h
    unfold decodeMicro mf
    rw [h60, h59, h56, h0]
    simp_all
  | endl =>
    obtain ⟨h0, h60, -⟩ := h
    unfold decodeMicro mf
    rw [h60, h0]
    simp_all
  | waith h =>
    obtain ⟨h0, h53, h59, h60, -⟩ := h
    unfold decodeMicro mf
    rw [h60, h59, h53, h0]
    simp_all
  | mxEnd =>
    obtain ⟨h0, h60, -⟩ := h
    unfold decodeMicro mf
    rw [h60, h0]
    simp_all
  | _ => exact absurd rfl hi

/-- A micro-word that decodes holds the fields of its micro-op. -/
theorem fields_of_decodeMicro {i : Instr} {w : W64} (h : decodeMicro w = some i) :
    HasFields w (microLayout i) ∧ i.microOk = true ∧ fills 64 0 (microLayout i) = true := by
  unfold decodeMicro at h
  dsimp only at h
  split at h
  · next hop =>
    split at h
    · next hc =>
      cases h
      obtain ⟨h0, hok⟩ := Bool.and_eq_true_iff.1 hc
      exact ⟨⟨of_decide_eq_true h0, rfl, rfl, field_eq hop, trivial⟩, hok, rfl⟩
    · cases h
  · next hop =>
    split at h
    · next hc =>
      cases h
      obtain ⟨hc, hb⟩ := Bool.and_eq_true_iff.1 hc
      obtain ⟨hc, ha⟩ := Bool.and_eq_true_iff.1 hc
      obtain ⟨hc, hs⟩ := Bool.and_eq_true_iff.1 hc
      obtain ⟨h59, h0⟩ := both hc
      exact ⟨⟨h0, rfl, rfl, rfl, rfl, rfl, rfl, rfl, rfl, rfl, rfl, h59, field_eq hop, trivial⟩,
        Bool.and_eq_true_iff.2 ⟨Bool.and_eq_true_iff.2 ⟨hs, ha⟩, hb⟩, rfl⟩
    · cases h
  · next hop =>
    split at h
    · next hc =>
      cases h
      obtain ⟨h59, h0⟩ := both hc
      exact ⟨⟨h0, rfl, rfl, h59, field_eq hop, trivial⟩, rfl, rfl⟩
    · cases h
  · next hop =>
    split at h
    · next hc =>
      cases h
      obtain ⟨hc, hok⟩ := Bool.and_eq_true_iff.1 hc
      obtain ⟨h59, h0⟩ := both hc
      exact ⟨⟨h0, rfl, rfl, rfl, rfl, h59, field_eq hop, trivial⟩, hok, rfl⟩
    · cases h
  · next hop =>
    split at h
    · next hc =>
      cases h
      obtain ⟨hc, hp⟩ := Bool.and_eq_true_iff.1 hc
      obtain ⟨hc, hs⟩ := Bool.and_eq_true_iff.1 hc
      obtain ⟨h59, h32⟩ := both hc
      exact ⟨⟨rfl, h32, rfl, rfl, rfl, h59, field_eq hop, trivial⟩, Bool.and_eq_true_iff.2 ⟨hs, hp⟩, rfl⟩
    · cases h
  · next hop =>
    split at h
    · next hc =>
      cases h
      obtain ⟨h59, h0⟩ := both hc
      exact ⟨⟨h0, rfl, h59, field_eq hop, trivial⟩, rfl, rfl⟩
    · cases h
  · next hop =>
    split at h
    · next h0 =>
      cases h
      exact ⟨⟨h0, field_eq hop, trivial⟩, rfl, rfl⟩
    · cases h
  · next hop =>
    split at h
    · next hc =>
      cases h
      obtain ⟨h59, h0⟩ := both hc
      exact ⟨⟨h0, rfl, h59, field_eq hop, trivial⟩, rfl, rfl⟩
    · cases h
  · next hop =>
    split at h
    · next h0 =>
      cases h
      exact ⟨⟨h0, field_eq hop, trivial⟩, rfl, rfl⟩
    · cases h
  · cases h

/-! ### Packets -/

/-- The fields of a packet, lowest first (R364). -/
def packetLayout : Instr → List BitField
  | .launch m l => [⟨0, 8, 0x01#8⟩, ⟨8, 8, 0#8⟩, ⟨16, 8, m⟩, ⟨24, 40, 0#40⟩, ⟨64, 64, l⟩, ⟨128, 128, 0#128⟩]
  | .launchi m l i => [⟨0, 8, 0x02#8⟩, ⟨8, 8, 0#8⟩, ⟨16, 8, m⟩, ⟨24, 40, 0#40⟩, ⟨64, 64, l⟩, ⟨128, 64, i⟩, ⟨192, 64, 0#64⟩]
  | .loopPacket ind n => [⟨0, 8, 0x03#8⟩, ⟨8, 1, ind⟩, ⟨9, 7, 0#7⟩, ⟨16, 48, 0#48⟩, ⟨64, 64, n⟩, ⟨128, 128, 0#128⟩]
  | .endloop => [⟨0, 8, 0x04#8⟩, ⟨8, 248, 0#248⟩]
  | .ifeq a v m => [⟨0, 8, 0x05#8⟩, ⟨8, 56, 0#56⟩, ⟨64, 64, a⟩, ⟨128, 64, v⟩, ⟨192, 64, m⟩]
  | .ifne a v m => [⟨0, 8, 0x06#8⟩, ⟨8, 56, 0#56⟩, ⟨64, 64, a⟩, ⟨128, 64, v⟩, ⟨192, 64, m⟩]
  | .endif => [⟨0, 8, 0x07#8⟩, ⟨8, 248, 0#248⟩]
  | .waitmem op a v m => [⟨0, 8, 0x08#8⟩, ⟨8, 2, op⟩, ⟨10, 6, 0#6⟩, ⟨16, 48, 0#48⟩, ⟨64, 64, a⟩, ⟨128, 64, v⟩, ⟨192, 64, m⟩]
  | .writemem z sc a v => [⟨0, 8, 0x09#8⟩, ⟨8, 1, z⟩, ⟨9, 1, 0#1⟩, ⟨10, 2, sc⟩, ⟨12, 4, 0#4⟩, ⟨16, 48, 0#48⟩, ⟨64, 64, a⟩, ⟨128, 64, v⟩, ⟨192, 64, 0#64⟩]
  | .signal x a v => [⟨0, 8, 0x0A#8⟩, ⟨8, 8, 0#8⟩, ⟨16, 16, x⟩, ⟨32, 32, 0#32⟩, ⟨64, 64, a⟩, ⟨128, 64, v⟩, ⟨192, 64, 0#64⟩]
  | .fencePacket sc => [⟨0, 8, 0x0B#8⟩, ⟨8, 2, sc⟩, ⟨10, 6, 0#6⟩, ⟨16, 240, 0#240⟩]
  | .handover cpl sig k c h a v => [⟨0, 8, 0x0C#8⟩, ⟨8, 1, cpl⟩, ⟨9, 1, sig⟩, ⟨10, 6, 0#6⟩, ⟨16, 8, k⟩, ⟨24, 8, c⟩, ⟨32, 8, h⟩, ⟨40, 24, 0#24⟩, ⟨64, 64, a⟩, ⟨128, 64, v⟩, ⟨192, 64, 0#64⟩]
  | .calls n a => [⟨0, 8, 0x0D#8⟩, ⟨8, 8, 0#8⟩, ⟨16, 16, 0#16⟩, ⟨32, 32, n⟩, ⟨64, 64, a⟩, ⟨128, 128, 0#128⟩]
  | .rets => [⟨0, 8, 0x0E#8⟩, ⟨8, 248, 0#248⟩]
  | .tenendPacket cl t a => [⟨0, 8, 0x0F#8⟩, ⟨8, 1, cl⟩, ⟨9, 7, 0#7⟩, ⟨16, 12, t⟩, ⟨28, 4, 0#4⟩, ⟨32, 32, 0#32⟩, ⟨64, 64, a⟩, ⟨128, 128, 0#128⟩]
  | _ => []

theorem orFields_pAt {lo n : Nat} {v : BitVec n} {t : List BitField} :
    orFields 256 (⟨lo, n, v⟩ :: t) = orFields 256 t ||| pAt lo v := rfl

section Reverse
variable {W : Nat} (a b c d e f g h : BitVec W)

theorem or_reverse_2 : a ||| b = b ||| a := by ac_rfl
theorem or_reverse_3 : a ||| b ||| c = c ||| b ||| a := by ac_rfl
theorem or_reverse_4 : a ||| b ||| c ||| d = d ||| c ||| b ||| a := by ac_rfl
theorem or_reverse_5 : a ||| b ||| c ||| d ||| e = e ||| d ||| c ||| b ||| a := by ac_rfl
theorem or_reverse_8 : a ||| b ||| c ||| d ||| e ||| f ||| g ||| h = h ||| g ||| f ||| e ||| d ||| c ||| b ||| a := by ac_rfl

end Reverse

theorem encodePacket_launch (m : BitVec 8) (l : BitVec 64) : encodePacket (.launch m l) = orFields 256 (packetLayout (.launch m l)) := by
  show pAt 0 0x01#8 ||| pAt 16 m ||| pAt 64 l = orFields 256 [⟨0, 8, 0x01#8⟩, ⟨8, 8, 0#8⟩, ⟨16, 8, m⟩, ⟨24, 40, 0#40⟩, ⟨64, 64, l⟩, ⟨128, 128, 0#128⟩]
  rw [orFields_pAt, orFields_zero, orFields_pAt, orFields_zero, orFields_pAt, orFields_zero, orFields_nil, BitVec.zero_or, or_reverse_3]

theorem encodePacket_launchi (m : BitVec 8) (l : BitVec 64) (i : BitVec 64) : encodePacket (.launchi m l i) = orFields 256 (packetLayout (.launchi m l i)) := by
  show pAt 0 0x02#8 ||| pAt 16 m ||| pAt 64 l ||| pAt 128 i = orFields 256 [⟨0, 8, 0x02#8⟩, ⟨8, 8, 0#8⟩, ⟨16, 8, m⟩, ⟨24, 40, 0#40⟩, ⟨64, 64, l⟩, ⟨128, 64, i⟩, ⟨192, 64, 0#64⟩]
  rw [orFields_pAt, orFields_zero, orFields_pAt, orFields_zero, orFields_pAt, orFields_pAt, orFields_zero, orFields_nil, BitVec.zero_or, or_reverse_4]

theorem encodePacket_loopPacket (ind : BitVec 1) (n : BitVec 64) : encodePacket (.loopPacket ind n) = orFields 256 (packetLayout (.loopPacket ind n)) := by
  show pAt 0 0x03#8 ||| pAt 8 ind ||| pAt 64 n = orFields 256 [⟨0, 8, 0x03#8⟩, ⟨8, 1, ind⟩, ⟨9, 7, 0#7⟩, ⟨16, 48, 0#48⟩, ⟨64, 64, n⟩, ⟨128, 128, 0#128⟩]
  rw [orFields_pAt, orFields_pAt, orFields_zero, orFields_zero, orFields_pAt, orFields_zero, orFields_nil, BitVec.zero_or, or_reverse_3]

theorem encodePacket_endloop : encodePacket (.endloop) = orFields 256 (packetLayout (.endloop)) := by
  show pAt 0 0x04#8 = orFields 256 [⟨0, 8, 0x04#8⟩, ⟨8, 248, 0#248⟩]
  rw [orFields_pAt, orFields_zero, orFields_nil, BitVec.zero_or]

theorem encodePacket_ifeq (a : BitVec 64) (v : BitVec 64) (m : BitVec 64) : encodePacket (.ifeq a v m) = orFields 256 (packetLayout (.ifeq a v m)) := by
  show pAt 0 0x05#8 ||| pAt 64 a ||| pAt 128 v ||| pAt 192 m = orFields 256 [⟨0, 8, 0x05#8⟩, ⟨8, 56, 0#56⟩, ⟨64, 64, a⟩, ⟨128, 64, v⟩, ⟨192, 64, m⟩]
  rw [orFields_pAt, orFields_zero, orFields_pAt, orFields_pAt, orFields_pAt, orFields_nil, BitVec.zero_or, or_reverse_4]

theorem encodePacket_ifne (a : BitVec 64) (v : BitVec 64) (m : BitVec 64) : encodePacket (.ifne a v m) = orFields 256 (packetLayout (.ifne a v m)) := by
  show pAt 0 0x06#8 ||| pAt 64 a ||| pAt 128 v ||| pAt 192 m = orFields 256 [⟨0, 8, 0x06#8⟩, ⟨8, 56, 0#56⟩, ⟨64, 64, a⟩, ⟨128, 64, v⟩, ⟨192, 64, m⟩]
  rw [orFields_pAt, orFields_zero, orFields_pAt, orFields_pAt, orFields_pAt, orFields_nil, BitVec.zero_or, or_reverse_4]

theorem encodePacket_endif : encodePacket (.endif) = orFields 256 (packetLayout (.endif)) := by
  show pAt 0 0x07#8 = orFields 256 [⟨0, 8, 0x07#8⟩, ⟨8, 248, 0#248⟩]
  rw [orFields_pAt, orFields_zero, orFields_nil, BitVec.zero_or]

theorem encodePacket_waitmem (op : BitVec 2) (a : BitVec 64) (v : BitVec 64) (m : BitVec 64) : encodePacket (.waitmem op a v m) = orFields 256 (packetLayout (.waitmem op a v m)) := by
  show pAt 0 0x08#8 ||| pAt 8 op ||| pAt 64 a ||| pAt 128 v ||| pAt 192 m = orFields 256 [⟨0, 8, 0x08#8⟩, ⟨8, 2, op⟩, ⟨10, 6, 0#6⟩, ⟨16, 48, 0#48⟩, ⟨64, 64, a⟩, ⟨128, 64, v⟩, ⟨192, 64, m⟩]
  rw [orFields_pAt, orFields_pAt, orFields_zero, orFields_zero, orFields_pAt, orFields_pAt, orFields_pAt, orFields_nil, BitVec.zero_or, or_reverse_5]

theorem encodePacket_writemem (z : BitVec 1) (sc : BitVec 2) (a : BitVec 64) (v : BitVec 64) : encodePacket (.writemem z sc a v) = orFields 256 (packetLayout (.writemem z sc a v)) := by
  show pAt 0 0x09#8 ||| pAt 8 z ||| pAt 10 sc ||| pAt 64 a ||| pAt 128 v = orFields 256 [⟨0, 8, 0x09#8⟩, ⟨8, 1, z⟩, ⟨9, 1, 0#1⟩, ⟨10, 2, sc⟩, ⟨12, 4, 0#4⟩, ⟨16, 48, 0#48⟩, ⟨64, 64, a⟩, ⟨128, 64, v⟩, ⟨192, 64, 0#64⟩]
  rw [orFields_pAt, orFields_pAt, orFields_zero, orFields_pAt, orFields_zero, orFields_zero, orFields_pAt, orFields_pAt, orFields_zero, orFields_nil, BitVec.zero_or, or_reverse_5]

theorem encodePacket_signal (x : BitVec 16) (a : BitVec 64) (v : BitVec 64) : encodePacket (.signal x a v) = orFields 256 (packetLayout (.signal x a v)) := by
  show pAt 0 0x0A#8 ||| pAt 16 x ||| pAt 64 a ||| pAt 128 v = orFields 256 [⟨0, 8, 0x0A#8⟩, ⟨8, 8, 0#8⟩, ⟨16, 16, x⟩, ⟨32, 32, 0#32⟩, ⟨64, 64, a⟩, ⟨128, 64, v⟩, ⟨192, 64, 0#64⟩]
  rw [orFields_pAt, orFields_zero, orFields_pAt, orFields_zero, orFields_pAt, orFields_pAt, orFields_zero, orFields_nil, BitVec.zero_or, or_reverse_4]

theorem encodePacket_fencePacket (sc : BitVec 2) : encodePacket (.fencePacket sc) = orFields 256 (packetLayout (.fencePacket sc)) := by
  show pAt 0 0x0B#8 ||| pAt 8 sc = orFields 256 [⟨0, 8, 0x0B#8⟩, ⟨8, 2, sc⟩, ⟨10, 6, 0#6⟩, ⟨16, 240, 0#240⟩]
  rw [orFields_pAt, orFields_pAt, orFields_zero, orFields_zero, orFields_nil, BitVec.zero_or, or_reverse_2]

theorem encodePacket_handover (cpl : BitVec 1) (sig : BitVec 1) (k : BitVec 8) (c : BitVec 8) (h : BitVec 8) (a : BitVec 64) (v : BitVec 64) : encodePacket (.handover cpl sig k c h a v) = orFields 256 (packetLayout (.handover cpl sig k c h a v)) := by
  show pAt 0 0x0C#8 ||| pAt 8 cpl ||| pAt 9 sig ||| pAt 16 k ||| pAt 24 c ||| pAt 32 h ||| pAt 64 a ||| pAt 128 v = orFields 256 [⟨0, 8, 0x0C#8⟩, ⟨8, 1, cpl⟩, ⟨9, 1, sig⟩, ⟨10, 6, 0#6⟩, ⟨16, 8, k⟩, ⟨24, 8, c⟩, ⟨32, 8, h⟩, ⟨40, 24, 0#24⟩, ⟨64, 64, a⟩, ⟨128, 64, v⟩, ⟨192, 64, 0#64⟩]
  rw [orFields_pAt, orFields_pAt, orFields_pAt, orFields_zero, orFields_pAt, orFields_pAt, orFields_pAt, orFields_zero, orFields_pAt, orFields_pAt, orFields_zero, orFields_nil, BitVec.zero_or, or_reverse_8]

theorem encodePacket_calls (n : BitVec 32) (a : BitVec 64) : encodePacket (.calls n a) = orFields 256 (packetLayout (.calls n a)) := by
  show pAt 0 0x0D#8 ||| pAt 32 n ||| pAt 64 a = orFields 256 [⟨0, 8, 0x0D#8⟩, ⟨8, 8, 0#8⟩, ⟨16, 16, 0#16⟩, ⟨32, 32, n⟩, ⟨64, 64, a⟩, ⟨128, 128, 0#128⟩]
  rw [orFields_pAt, orFields_zero, orFields_zero, orFields_pAt, orFields_pAt, orFields_zero, orFields_nil, BitVec.zero_or, or_reverse_3]

theorem encodePacket_rets : encodePacket (.rets) = orFields 256 (packetLayout (.rets)) := by
  show pAt 0 0x0E#8 = orFields 256 [⟨0, 8, 0x0E#8⟩, ⟨8, 248, 0#248⟩]
  rw [orFields_pAt, orFields_zero, orFields_nil, BitVec.zero_or]

theorem encodePacket_tenendPacket (cl : BitVec 1) (t : BitVec 12) (a : BitVec 64) : encodePacket (.tenendPacket cl t a) = orFields 256 (packetLayout (.tenendPacket cl t a)) := by
  show pAt 0 0x0F#8 ||| pAt 8 cl ||| pAt 16 t ||| pAt 64 a = orFields 256 [⟨0, 8, 0x0F#8⟩, ⟨8, 1, cl⟩, ⟨9, 7, 0#7⟩, ⟨16, 12, t⟩, ⟨28, 4, 0#4⟩, ⟨32, 32, 0#32⟩, ⟨64, 64, a⟩, ⟨128, 128, 0#128⟩]
  rw [orFields_pAt, orFields_pAt, orFields_zero, orFields_pAt, orFields_zero, orFields_zero, orFields_pAt, orFields_zero, orFields_nil, BitVec.zero_or, or_reverse_4]

/-- The 32 bytes of a packet are those of its fields, which fill them. -/
theorem encodePacket_eq_orFields {i : Instr} :
    (encodePacket i = orFields 256 (packetLayout i) ∧ fills 256 0 (packetLayout i) = true)
      ∨ (encodePacket i = 0 ∧ fills 256 0 (packetLayout i) = false) := by
  cases i with
  | launch => exact .inl ⟨encodePacket_launch .., rfl⟩
  | launchi => exact .inl ⟨encodePacket_launchi .., rfl⟩
  | loopPacket => exact .inl ⟨encodePacket_loopPacket .., rfl⟩
  | endloop => exact .inl ⟨encodePacket_endloop .., rfl⟩
  | ifeq => exact .inl ⟨encodePacket_ifeq .., rfl⟩
  | ifne => exact .inl ⟨encodePacket_ifne .., rfl⟩
  | endif => exact .inl ⟨encodePacket_endif .., rfl⟩
  | waitmem => exact .inl ⟨encodePacket_waitmem .., rfl⟩
  | writemem => exact .inl ⟨encodePacket_writemem .., rfl⟩
  | signal => exact .inl ⟨encodePacket_signal .., rfl⟩
  | fencePacket => exact .inl ⟨encodePacket_fencePacket .., rfl⟩
  | handover => exact .inl ⟨encodePacket_handover .., rfl⟩
  | calls => exact .inl ⟨encodePacket_calls .., rfl⟩
  | rets => exact .inl ⟨encodePacket_rets .., rfl⟩
  | tenendPacket => exact .inl ⟨encodePacket_tenendPacket .., rfl⟩
  | _ => exact .inr ⟨rfl, rfl⟩

/-- Bytes that hold the fields of a packet decode to it. -/
theorem decodePacket_of_fields {i : Instr} {w : BitVec 256} (hi : encodePacket i ≠ 0) (hok : i.packetOk = true)
    (h : HasFields w (packetLayout i)) : decodePacket w = .ok i := by
  cases i with
  | launch m l =>
    obtain ⟨h0, h8, h16, h24, h64, h128, -⟩ := h
    unfold decodePacket pf pz
    simp only [h0, h8, h16, h24, h64, h128]
    simp [hok]
  | launchi m l i =>
    obtain ⟨h0, h8, h16, h24, h64, h128, h192, -⟩ := h
    unfold decodePacket pf pz
    simp only [h0, h8, h16, h24, h64, h128, h192]
    simp [hok]
  | loopPacket ind n =>
    obtain ⟨h0, h8, h9, h16, h64, h128, -⟩ := h
    unfold decodePacket pf pz
    simp only [h0, h8, h9, h16, h64, h128]
    simp [hok]
  | endloop =>
    obtain ⟨h0, h8, -⟩ := h
    unfold decodePacket pf pz
    simp only [h0, h8]
    simp [hok]
  | ifeq a v m =>
    obtain ⟨h0, h8, h64, h128, h192, -⟩ := h
    unfold decodePacket pf pz
    simp only [h0, h8, h64, h128, h192]
    simp [hok]
  | ifne a v m =>
    obtain ⟨h0, h8, h64, h128, h192, -⟩ := h
    unfold decodePacket pf pz
    simp only [h0, h8, h64, h128, h192]
    simp [hok]
  | endif =>
    obtain ⟨h0, h8, -⟩ := h
    unfold decodePacket pf pz
    simp only [h0, h8]
    simp [hok]
  | waitmem op a v m =>
    obtain ⟨h0, h8, h10, h16, h64, h128, h192, -⟩ := h
    unfold decodePacket pf pz
    simp only [h0, h8, h10, h16, h64, h128, h192]
    simp [hok]
  | writemem z sc a v =>
    obtain ⟨h0, h8, h9, h10, h12, h16, h64, h128, h192, -⟩ := h
    unfold decodePacket pf pz
    simp only [h0, h8, h9, h10, h12, h16, h64, h128, h192]
    simp [hok]
  | signal x a v =>
    obtain ⟨h0, h8, h16, h32, h64, h128, h192, -⟩ := h
    unfold decodePacket pf pz
    simp only [h0, h8, h16, h32, h64, h128, h192]
    simp [hok]
  | fencePacket sc =>
    obtain ⟨h0, h8, h10, h16, -⟩ := h
    unfold decodePacket pf pz
    simp only [h0, h8, h10, h16]
    simp [hok]
  | handover cpl sig k c h a v =>
    obtain ⟨h0, h8, h9, h10, h16, h24, h32, h40, h64, h128, h192, -⟩ := h
    unfold decodePacket pf pz
    simp only [h0, h8, h9, h10, h16, h24, h32, h40, h64, h128, h192]
    simp [hok]
  | calls n a =>
    obtain ⟨h0, h8, h16, h32, h64, h128, -⟩ := h
    unfold decodePacket pf pz
    simp only [h0, h8, h16, h32, h64, h128]
    simp [hok]
  | rets =>
    obtain ⟨h0, h8, -⟩ := h
    unfold decodePacket pf pz
    simp only [h0, h8]
    simp [hok]
  | tenendPacket cl t a =>
    obtain ⟨h0, h8, h9, h16, h28, h32, h64, h128, -⟩ := h
    unfold decodePacket pf pz
    simp only [h0, h8, h9, h16, h28, h32, h64, h128]
    simp [hok]
  | _ => exact absurd rfl hi

theorem keep_ok {ok : Bool} {i j : Instr} (h : (if ok && j.packetOk then Except.ok j else .error 2) = (.ok i : Except Nat Instr)) :
    ok = true ∧ j.packetOk = true ∧ j = i := by
  split at h
  · next hk =>
    obtain ⟨hz, hj⟩ := Bool.and_eq_true_iff.1 hk
    cases h
    exact ⟨hz, hj, rfl⟩
  · cases h

/-- Bytes that decode hold the fields of their packet. -/
theorem fields_of_decodePacket {i : Instr} {w : BitVec 256} (h : decodePacket w = .ok i) :
    HasFields w (packetLayout i) ∧ i.packetOk = true ∧ fills 256 0 (packetLayout i) = true := by
  unfold decodePacket at h
  dsimp only at h
  split at h
  · next hop =>
    obtain ⟨hz, hk, rfl⟩ := keep_ok h
    obtain ⟨hz, z2⟩ := Bool.and_eq_true_iff.1 hz
    obtain ⟨z0, z1⟩ := Bool.and_eq_true_iff.1 hz
    exact ⟨⟨field_eq hop, eq_of_beq z0, rfl, eq_of_beq z1, rfl, eq_of_beq z2, trivial⟩, hk, rfl⟩
  · next hop =>
    obtain ⟨hz, hk, rfl⟩ := keep_ok h
    obtain ⟨hz, z2⟩ := Bool.and_eq_true_iff.1 hz
    obtain ⟨z0, z1⟩ := Bool.and_eq_true_iff.1 hz
    exact ⟨⟨field_eq hop, eq_of_beq z0, rfl, eq_of_beq z1, rfl, rfl, eq_of_beq z2, trivial⟩, hk, rfl⟩
  · next hop =>
    obtain ⟨hz, hk, rfl⟩ := keep_ok h
    obtain ⟨hz, z2⟩ := Bool.and_eq_true_iff.1 hz
    obtain ⟨z0, z1⟩ := Bool.and_eq_true_iff.1 hz
    exact ⟨⟨field_eq hop, rfl, eq_of_beq z0, eq_of_beq z1, rfl, eq_of_beq z2, trivial⟩, hk, rfl⟩
  · next hop =>
    obtain ⟨z0, hk, rfl⟩ := keep_ok h
    exact ⟨⟨field_eq hop, eq_of_beq z0, trivial⟩, hk, rfl⟩
  · next hop =>
    obtain ⟨z0, hk, rfl⟩ := keep_ok h
    exact ⟨⟨field_eq hop, eq_of_beq z0, rfl, rfl, rfl, trivial⟩, hk, rfl⟩
  · next hop =>
    obtain ⟨z0, hk, rfl⟩ := keep_ok h
    exact ⟨⟨field_eq hop, eq_of_beq z0, rfl, rfl, rfl, trivial⟩, hk, rfl⟩
  · next hop =>
    obtain ⟨z0, hk, rfl⟩ := keep_ok h
    exact ⟨⟨field_eq hop, eq_of_beq z0, trivial⟩, hk, rfl⟩
  · next hop =>
    obtain ⟨hz, hk, rfl⟩ := keep_ok h
    obtain ⟨z0, z1⟩ := Bool.and_eq_true_iff.1 hz
    exact ⟨⟨field_eq hop, rfl, eq_of_beq z0, eq_of_beq z1, rfl, rfl, rfl, trivial⟩, hk, rfl⟩
  · next hop =>
    obtain ⟨hz, hk, rfl⟩ := keep_ok h
    obtain ⟨hz, z3⟩ := Bool.and_eq_true_iff.1 hz
    obtain ⟨hz, z2⟩ := Bool.and_eq_true_iff.1 hz
    obtain ⟨z0, z1⟩ := Bool.and_eq_true_iff.1 hz
    exact ⟨⟨field_eq hop, rfl, eq_of_beq z0, rfl, eq_of_beq z1, eq_of_beq z2, rfl, rfl, eq_of_beq z3, trivial⟩, hk, rfl⟩
  · next hop =>
    obtain ⟨hz, hk, rfl⟩ := keep_ok h
    obtain ⟨hz, z2⟩ := Bool.and_eq_true_iff.1 hz
    obtain ⟨z0, z1⟩ := Bool.and_eq_true_iff.1 hz
    exact ⟨⟨field_eq hop, eq_of_beq z0, rfl, eq_of_beq z1, rfl, rfl, eq_of_beq z2, trivial⟩, hk, rfl⟩
  · next hop =>
    obtain ⟨hz, hk, rfl⟩ := keep_ok h
    obtain ⟨z0, z1⟩ := Bool.and_eq_true_iff.1 hz
    exact ⟨⟨field_eq hop, rfl, eq_of_beq z0, eq_of_beq z1, trivial⟩, hk, rfl⟩
  · next hop =>
    obtain ⟨hz, hk, rfl⟩ := keep_ok h
    obtain ⟨hz, z2⟩ := Bool.and_eq_true_iff.1 hz
    obtain ⟨z0, z1⟩ := Bool.and_eq_true_iff.1 hz
    exact ⟨⟨field_eq hop, rfl, rfl, eq_of_beq z0, rfl, rfl, rfl, eq_of_beq z1, rfl, rfl, eq_of_beq z2, trivial⟩, hk, rfl⟩
  · next hop =>
    obtain ⟨hz, hk, rfl⟩ := keep_ok h
    obtain ⟨hz, z2⟩ := Bool.and_eq_true_iff.1 hz
    obtain ⟨z0, z1⟩ := Bool.and_eq_true_iff.1 hz
    exact ⟨⟨field_eq hop, eq_of_beq z0, eq_of_beq z1, rfl, rfl, eq_of_beq z2, trivial⟩, hk, rfl⟩
  · next hop =>
    obtain ⟨z0, hk, rfl⟩ := keep_ok h
    exact ⟨⟨field_eq hop, eq_of_beq z0, trivial⟩, hk, rfl⟩
  · next hop =>
    obtain ⟨hz, hk, rfl⟩ := keep_ok h
    obtain ⟨hz, z3⟩ := Bool.and_eq_true_iff.1 hz
    obtain ⟨hz, z2⟩ := Bool.and_eq_true_iff.1 hz
    obtain ⟨z0, z1⟩ := Bool.and_eq_true_iff.1 hz
    exact ⟨⟨field_eq hop, rfl, eq_of_beq z0, rfl, eq_of_beq z1, eq_of_beq z2, rfl, eq_of_beq z3, trivial⟩, hk, rfl⟩
  · cases h

/-! ### The statement -/

/-- Settles O50: micro-ops and packets are their fields, which fill their words and decide what they decode to. -/
theorem microWordAndPacketRoundTrip : Obligations.MicroWordAndPacketRoundTrip := by
  refine ⟨fun i hok hne => ?_, fun w i h => ?_, fun i hok hne => ?_, fun w i h => ?_⟩
  · obtain ⟨henc, hfill⟩ := encodeMicro_eq_orFields.resolve_right fun h => hne h.1
    exact decodeMicro_of_fields hne hok (henc ▸ hasFields_orFields hfill)
  · obtain ⟨hfields, -, hfill⟩ := fields_of_decodeMicro h
    obtain ⟨henc, -⟩ := encodeMicro_eq_orFields.resolve_right fun h => Bool.false_ne_true (h.2 ▸ hfill)
    exact henc.trans (eq_orFields hfill hfields).symm
  · obtain ⟨henc, hfill⟩ := encodePacket_eq_orFields.resolve_right fun h => hne h.1
    exact decodePacket_of_fields hne hok (henc ▸ hasFields_orFields hfill)
  · obtain ⟨hfields, -, hfill⟩ := fields_of_decodePacket h
    obtain ⟨henc, -⟩ := encodePacket_eq_orFields.resolve_right fun h => Bool.false_ne_true (h.2 ▸ hfill)
    exact henc.trans (eq_orFields hfill hfields).symm

end Sys2Proof
end

section
/-! PROOFS. Vector arithmetic, extremes, bitwise operations and shifts (spec 07 R140-R143). -/

namespace Sys2Proof.Machine

/-! ### Facts about lanes -/

theorem Num.isNan_iff {n : Num} : n.isNan = true ↔ n = .nan := by
  cases n <;> simp [Num.isNan]

/-- INV is raised where a result is NaN and no operand is (R127). -/
theorem invFlag_eq (ops : List Num) (r : Num) : invFlag ops r = if r = .nan ∧ .nan ∉ ops then flagINV else 0 := by
  have hany : ops.any Num.isNan = true ↔ .nan ∈ ops := by simp [Num.isNan_iff]
  have hcond : (r.isNan && !ops.any Num.isNan) = true ↔ r = .nan ∧ .nan ∉ ops := by
    rw [Bool.and_eq_true, Num.isNan_iff, Bool.not_eq_true', ← Bool.not_eq_true, hany]
  unfold invFlag
  split
  · next h => rw [if_pos (hcond.1 h)]
  · next h => rw [if_neg (fun h' => h (hcond.2 h'))]; rfl

/-- The signed value of a 32-bit lane. -/
theorem decodeInt_eq_toInt {m : Nat} (hm : m < 2 ^ 32) : decodeInt 32 true m = (BitVec.ofNat 32 m).toInt := by
  rw [decodeInt, BitVec.toInt_eq_toNat_cond, BitVec.toNat_ofNat, Nat.mod_eq_of_lt hm]
  simp only [Bool.true_and, decide_eq_true_eq, Nat.add_one_sub_one]
  split <;> split <;> omega

theorem laneNat_lt (w : Nat) (img : Image) (j : Nat) : laneNat w img j < 2 ^ w := Nat.mod_lt _ (Nat.two_pow_pos w)

/-- Lanes that raise no flag raise none together. -/
theorem lanesFlags_zero {f : Nat → Nat × Flags} {n : Nat} (h : ∀ j, (f j).2 = 0) : lanesFlags f n = 0 := by
  induction n with
  | zero => rfl
  | succ n ih =>
    have hn := h n
    simp only [lanesFlags, List.range_succ, List.foldl_append, List.foldl] at ih ⊢
    rw [ih, hn]
    rfl

/-- The TYPE whose lanes are the 32-bit units. -/
theorem typeWidth_one : typeWidth 1 = 32 ∧ lanesOf 1 = 32 := ⟨rfl, rfl⟩

theorem imageOf_eq_packLanes {w : Nat} (f : Nat → BitVec w) (n : Nat) :
    imageOf f n = (packLanes w (fun j => ((f j).toNat, 0#6)) n).1 := by
  induction n with
  | zero => rfl
  | succ n ih =>
    rw [imageOf, packLanes, ih, Nat.mod_eq_of_lt (f n).isLt]

/-- An image of lanes holds them. -/
theorem lanesImage_holds {w n : Nat} (f : Nat → BitVec w) (h : w * n ≤ 1024) :
    HoldsLanes (lanesImage n f) w n (fun j => ((f j).toNat, 0)) := by
  rw [lanesImage, imageOf_eq_packLanes]
  exact packLanes_holds h

section Slots
variable {s : State} {p : BitVec 3} {d a b : BitVec 7} {t : BitVec 2}

/-! ### Arithmetic (R140) -/

/-- The flags of a floating-point lane, said of its operands and its exact value. -/
theorem arithLane_float {f : FloatFmt} (ht : typeFmt t = some f) (r : Rounding) (fi : Nat → Nat → Nat → Int)
    (fn : Num → Num → Num → Num) (fused : Bool) (x y c : Nat) :
    arithLane t r fi fn fused x y c
      = let v := fn (f.decode x) (f.decode y) (f.decode c)
        ((f.encode r false v).1, (f.encode r false v).2 ||| (if v = .nan ∧ .nan ∉ [f.decode x, f.decode y]
          ++ (if fused then [f.decode c] else []) then flagINV else 0)) := by
  simp only [arithLane, ht, invFlag_eq]
  cases fused <;> rfl

theorem arithLane_int (ht : typeFmt t = none) (r : Rounding) (fi : Nat → Nat → Nat → Int)
    (fn : Num → Num → Num → Num) (fused : Bool) (x y c : Nat) :
    arithLane t r fi fn fused x y c = ((fi x y c % 2 ^ 32).toNat, 0) := by
  simp only [arithLane, ht]
  rfl

theorem arithOp_lanes {i : Instr} {lat : Nat} {fi : Nat → Nat → Nat → Int} {fn : Bool → Num → Num → Num → Num} {fused : Bool}
    (hi : exec i s = arithOp lat fi fn fused p d a b t s)
    (h : s.Clear p [] none false (s.vecVerdict ([s.vA a, s.vB b] ++ if fused then [s.vD d] else []) [s.vD d])) :
    s.RoundsLanes i lat (s.vD d) t fun j => arithLane t (s.rounding j) fi (fn s.rd) fused
      (laneNat (typeWidth t) (s.vec (s.vA a)) j) (laneNat (typeWidth t) (s.vec (s.vB b)) j)
      (laneNat (typeWidth t) (s.vec (s.vD d)) j) :=
  vecRound_lanes hi h

/-! ### Extremes, bits and shifts (R141-R143) -/

theorem maxOp_lanes {i : Instr} {big : Bool} (hi : exec i s = maxOp big p d a b t s)
    (h : s.Clear p [] none false (s.vecVerdict [s.vA a, s.vB b] [s.vD d])) :
    s.QueuesLanes i 2 (s.vD d) t fun j =>
      (maxLane big t (laneNat (typeWidth t) (s.vec (s.vA a)) j) (laneNat (typeWidth t) (s.vec (s.vB b)) j), 0) :=
  vecOp_lanes hi h

theorem bitOp_image {i : Instr} {f : Image → Image → Image} (hi : exec i s = bitOp f p d a b s)
    (h : s.Clear p [] none false (s.vecVerdict [s.vA a, s.vB b] [s.vD d])) :
    exec i s = .next (s.putVec 2 (s.vD d) allUnits (f (s.vec (s.vA a)) (s.vec (s.vB b))) 0) :=
  hi.trans (vecOp_executes h.1 h.2)

theorem shiftOp_lanes {i : Instr} {f : W32 → Nat → W32} (hi : exec i s = shiftOp f p d a b s)
    (h : s.Clear p [] none false (s.vecVerdict [s.vA a, s.vB b] [s.vD d])) :
    s.QueuesLanes i 2 (s.vD d) 1 fun j =>
      ((f (unitOf (s.vec (s.vA a)) j) ((unitOf (s.vec (s.vB b)) j).toNat % 32)).toNat, 0) := by
  refine ⟨_, ?_, lanesImage_holds (n := 32) _ (by decide)⟩
  rw [hi, lanesFlags_zero fun _ => rfl]
  exact vecOp_executes h.1 h.2

/-- The greater or lesser of two i32 lanes, by their order. -/
theorem maxLane_int (ht : typeFmt t = none) (big : Bool) {x y : Nat} (hx : x < 2 ^ 32) (hy : y < 2 ^ 32) :
    maxLane big t x y = if decide ((BitVec.ofNat 32 x).toInt < (BitVec.ofNat 32 y).toInt) = big then y else x := by
  simp only [maxLane, ht, decodeInt_eq_toInt hx, decodeInt_eq_toInt hy]
  cases big <;> cases decide ((BitVec.ofNat 32 x).toInt < (BitVec.ofNat 32 y).toInt) <;> rfl

theorem maxLane_float {f : FloatFmt} (ht : typeFmt t = some f) (big : Bool) (x y : Nat) :
    maxLane big t x y = if f.decode x = .nan ∨ f.decode y = .nan then f.nanCode
      else if big then (if (f.decode x).cmp true (f.decode y) < 0 then y else x)
      else (if (f.decode y).cmp true (f.decode x) < 0 then y else x) := by
  simp only [maxLane, ht, Bool.or_eq_true, Num.isNan_iff]

/-- i32 lanes have 32 bits. -/
theorem typeWidth_of_int (ht : typeFmt t = none) : typeWidth t = 32 := by
  revert ht; revert t; decide

end Slots

/-- Settles O15: each family's lanes (arithOp_lanes, maxOp_lanes, shiftOp_lanes), said in the statement's terms. -/
theorem vectorArithmeticAndBitResults : Obligations.VectorArithmeticAndBitResults := by
  refine ⟨fun s p d a b t => ?arith, fun s p d a b t h => ?bits⟩
  case arith =>
    intro x y c lane
    have hlane : ∀ (fi : Nat → Nat → Nat → Int) (wrap : Int → Int → Int → Int) (fn : Num → Num → Num → Num) (fused : Bool),
        (∀ x y c : Nat, fi x y c = wrap x y c) →
        ∀ j, arithLane t (s.rounding j) fi fn fused (x j) (y j) (c j) = lane wrap fn fused j := by
      intro fi wrap fn fused hfi j
      simp only [lane]
      split
      · next ht => rw [arithLane_int ht, hfi]
      · next f ht => rw [arithLane_float ht]
    have hcongr : ∀ {i : Instr} {lat : Nat} {f g : Nat → Nat × Flags}, s.RoundsLanes i lat (s.vD d) t f →
        (∀ j, f j = g j) → s.RoundsLanes i lat (s.vD d) t g :=
      fun h hfg => h.congr fun j _ => by rw [hfg j]; exact ⟨rfl, rfl⟩
    refine ⟨fun h => ⟨?_, ?_, ?_⟩, fun h => ⟨?_, ?_⟩⟩
    · exact hcongr (arithOp_lanes (fused := false) (exec_vadd ..) h) (hlane _ (fun x y _ => x + y) _ _ fun _ _ _ => rfl)
    · exact hcongr (arithOp_lanes (fused := false) (exec_vsub ..) h) (hlane _ (fun x y _ => x - y) _ _ fun _ _ _ => rfl)
    · exact hcongr (arithOp_lanes (fused := false) (exec_vmul ..) h) (hlane _ (fun x y _ => x * y) _ _ fun _ _ _ => rfl)
    · exact hcongr (arithOp_lanes (fused := true) (exec_vfma ..) h) (hlane _ (fun x y c => x * y + c) _ _ fun _ _ _ => rfl)
    · exact hcongr (arithOp_lanes (fused := true) (exec_vfms ..) h) (hlane _ (fun x y c => c - x * y) _ _ fun _ _ _ => rfl)
  case bits =>
    intro u v x y below pick word
    have hpick : ∀ (big : Bool) (j : Nat), (maxLane big t (x j) (y j), (0 : Flags)) = pick big j := by
      intro big j
      cases ht : typeFmt t with
      | none =>
        have hw := typeWidth_of_int ht
        simp only [pick, below, ht]
        rw [maxLane_int ht big (hw ▸ laneNat_lt ..) (hw ▸ laneNat_lt ..)]
      | some f =>
        simp only [pick, below, ht, decide_eq_true_eq]
        rw [maxLane_float ht]
    have hcongr : ∀ {i : Instr} {f g : Nat → Nat × Flags}, s.QueuesLanes i 2 (s.vD d) t f →
        (∀ j, f j = g j) → s.QueuesLanes i 2 (s.vD d) t g :=
      fun h hfg => h.congr fun j _ => by rw [hfg j]; exact ⟨rfl, rfl⟩
    exact ⟨hcongr (maxOp_lanes (exec_vmax ..) h) (hpick true), hcongr (maxOp_lanes (exec_vmin ..) h) (hpick false),
      bitOp_image (exec_vand ..) h, bitOp_image (exec_vor ..) h, bitOp_image (exec_vxor ..) h,
      shiftOp_lanes (exec_vshl ..) h, shiftOp_lanes (exec_vshr ..) h, shiftOp_lanes (exec_vsar ..) h⟩

end Sys2Proof.Machine
end

section
/-! PROOFS. Vector comparisons, selections, permutations and moves (spec 07 R144-R149). -/

namespace Sys2Proof.Machine

section Slots
variable {s : State} {p : BitVec 3} {d a b n : BitVec 7} {t : BitVec 2}

/-- R144's comparison by the exact values of the lanes. -/
theorem cmpLane_eq (c : BitVec 2) (t : BitVec 2) (x y : Nat) :
    cmpLane c.toNat t x y =
      if typeDecode t x = .nan ∨ typeDecode t y = .nan then decide (c = 1)
      else match c.toNat with
        | 0 => decide ((typeDecode t x).cmp false (typeDecode t y) = 0)
        | 1 => decide ((typeDecode t x).cmp false (typeDecode t y) ≠ 0)
        | 2 => decide ((typeDecode t x).cmp false (typeDecode t y) < 0)
        | _ => decide ((typeDecode t x).cmp false (typeDecode t y) ≤ 0) := by
  have hc : decide (c.toNat = 1) = decide (c = 1) := by revert c; decide
  simp only [cmpLane, Bool.or_eq_true, Num.isNan_iff, hc] <;> rfl

/-- The lane that VROTL takes for lane j + n is lane j. -/
theorem rotated_lane {l j n : Nat} (hj : j < l) (hn : n < l) : ((j + n) % l + l - n % l) % l = j := by
  rw [Nat.mod_eq_of_lt hn]
  rcases Nat.lt_or_ge (j + n) l with h | h
  · rw [Nat.mod_eq_of_lt h, show j + n + l - n = j + l by omega, Nat.add_mod_right, Nat.mod_eq_of_lt hj]
  · rw [Nat.mod_eq_sub_mod h, Nat.mod_eq_of_lt (by omega : j + n - l < l), show j + n - l + l - n = j by omega,
      Nat.mod_eq_of_lt hj]

/-! ### Unary forms -/

theorem unOp_lanes {i : Instr} {f : Nat → Nat} (hi : exec i s = unOp f p d a t s)
    (h : s.Clear p [] none false (s.vecVerdict [s.vA a] [s.vD d])) :
    s.QueuesLanes i 2 (s.vD d) t fun j => (f (laneNat (typeWidth t) (s.vec (s.vA a)) j), 0) :=
  vecOp_lanes hi h

/-- A lane is its sign above its exponent and mantissa. -/
theorem typeWidth_float {f : FloatFmt} (ht : typeFmt t = some f) :
    f.eb + f.mb = typeWidth t - 1 ∧ f.width = typeWidth t := by
  revert ht; revert f; revert t; decide

theorem absLane_int (ht : typeFmt t = none) {x : Nat} (hx : x < 2 ^ 32) : absLane t x = (BitVec.ofNat 32 x).toInt.natAbs := by
  rw [← decodeInt_eq_toInt hx, decodeInt]
  simp only [absLane, ht, Nat.mod_eq_of_lt hx, Bool.true_and, decide_eq_true_eq, Nat.add_one_sub_one]
  split <;> omega

theorem absLane_float {f : FloatFmt} (ht : typeFmt t = some f) (x : Nat) :
    absLane t x = if f.decode x = .nan then f.nanCode else x % 2 ^ (typeWidth t - 1) := by
  simp only [absLane, ht, Num.isNan_iff, (typeWidth_float ht).1]

theorem negLane_int (ht : typeFmt t = none) (x : Nat) : negLane t x = (2 ^ 32 - x) % 2 ^ typeWidth t := by
  simp only [negLane, ht, typeWidth_of_int ht]

theorem negLane_float {f : FloatFmt} (ht : typeFmt t = some f) (x : Nat) :
    negLane t x = if f.decode x = .nan then f.nanCode else (x + 2 ^ (typeWidth t - 1)) % 2 ^ typeWidth t := by
  simp only [negLane, ht, Num.isNan_iff, (typeWidth_float ht).1, (typeWidth_float ht).2]

/-! ### Scalars and lanes -/

theorem vxt_executes {r l : BitVec 6} (h : s.Clear p [] (some (s.rA r)) false (s.vecVerdict [s.vD d] [])) :
    exec (.vxt p d r l t) s = .next (s.putScalar 2 (s.rA r)
      (if t = 1 then (BitVec.ofNat 32 (laneNat (typeWidth t) (s.vec (s.vD d)) l.toNat)).signExtend 64
        else BitVec.ofNat 64 (laneNat (typeWidth t) (s.vec (s.vD d)) l.toNat))) := by
  rw [exec_vxt, execVxt]
  exact slotMeaning_executes h.1 h.2

/-- VINS writes the one unit that holds the lane, of an image whose other lanes are as they were. -/
theorem vins_executes {r l : BitVec 6} (h : s.Clear p [s.rA r] none false (s.vecVerdict [s.vD d] [s.vD d])) :
    ∃ img, exec (.vins p d r l t) s
        = .next (s.putVec 2 (s.vD d) (1 <<< (l.toNat * typeWidth t / 32)) img 0)
      ∧ HoldsLanes img (typeWidth t) (lanesOf t) (fun j =>
          (if j = l.toNat then (s.reg (s.rA r)).toNat else laneNat (typeWidth t) (s.vec (s.vD d)) j, 0)) := by
  refine ⟨_, ?_, typeLanes_holds t _⟩
  rw [exec_vins, execVins]
  exact slotMeaning_executes h.1 h.2

end Slots

/-- Settles O16: each slot's lanes are those of its family (vecOp_lanes, unOp_lanes), said in the statement's terms. -/
theorem vectorSelectionsAndMoves : Obligations.VectorSelectionsAndMoves := by
  refine ⟨fun s p c r d a b n t => ?select, fun s p d a r l t => ?move⟩
  case select =>
    refine ⟨fun h => ?_, fun h => ?_, fun h => ?_, fun h hn => ?_⟩
    · exact (vecOp_lanes (exec_vcmp ..) h).congr fun j _ => by rw [cmpLane_eq]; exact ⟨rfl, rfl⟩
    · exact (vecOp_lanes (exec_vsel ..) h).congr fun j _ => by rw [ite_not]; exact ⟨rfl, rfl⟩
    · exact vecOp_lanes (exec_vshf ..) h
    · exact ⟨_, vecOp_lanes (exec_vrotl ..) h, fun j hj => by rw [rotated_lane hj hn]; rfl⟩
  case move =>
    refine ⟨fun h => ⟨?_, ?_, ?_⟩, fun h => ⟨?_, ?_⟩, fun h => ?_, fun h => ?_, fun h _ => ?_⟩
    · exact unOp_lanes (exec_vmov ..) h
    · refine (unOp_lanes (exec_vabs ..) h).congr fun j _ => ⟨congrArg (· % 2 ^ typeWidth t) ?_, rfl⟩
      cases ht : typeFmt t with
      | none => exact absLane_int ht (typeWidth_of_int ht ▸ laneNat_lt ..)
      | some f => exact absLane_float ht _
    · refine (unOp_lanes (exec_vneg ..) h).congr fun j _ => ⟨?_, rfl⟩
      cases ht : typeFmt t with
      | none => simp only [negLane_int ht, Nat.mod_mod]
      | some f =>
        simp only [negLane_float ht]
        split
        · rfl
        · exact Nat.mod_mod ..
    · exact vecOp_lanes (exec_viota ..) h
    · exact (exec_vclr ..).trans (vecOp_executes h.1 h.2)
    · exact vecOp_lanes (exec_vbc ..) h
    · exact vxt_executes h
    · exact vins_executes h

end Sys2Proof.Machine
end

section
/-! PROOFS. Vector reductions and conversions (spec 07 R150, R151). -/

namespace Sys2Proof.Machine

/-! ### The order of exact values -/

/-- The rational value of a finite number, 0 for the others. -/
def Num.value : Num → ℚ
  | .fin neg m e _ => (if neg then -1 else 1) * (m * (2 : ℚ) ^ e)
  | _ => 0

/-- The place of a value among the infinities, the numbers and the signed zeros (R141). -/
def Num.key : Num → ℤ ×ₗ ℚ ×ₗ ℤ
  | .nan => toLex (0, toLex (0, 0))
  | .inf neg => toLex (if neg then -1 else 1, toLex (0, 0))
  | .fin neg m e st => toLex (0, toLex (Num.value (.fin neg m e st), if m = 0 ∧ neg = true then -1 else 0))

/-- A mantissa brought down to a lesser exponent has the same value. -/
theorem scaled_value (m : Nat) {e q : Int} (h : q ≤ e) : ((m * 2 ^ (e - q).toNat : Nat) : ℚ) * 2 ^ q = m * (2 : ℚ) ^ e := by
  have he : (2 : ℚ) ^ e = 2 ^ (e - q).toNat * 2 ^ q := by
    rw [← zpow_natCast, ← zpow_add₀ (by norm_num)]
    congr 1
    omega
  rw [he]
  push_cast
  ring

/-- The scaled difference that a comparison of finite numbers takes. -/
def Num.gap (x : Bool) (m : Nat) (e : Int) (y : Bool) (n : Nat) (f : Int) : Int :=
  let q := if e < f then e else f
  (if x then -((m * 2 ^ (e - q).toNat : Nat) : Int) else (m * 2 ^ (e - q).toNat : Nat))
    - (if y then -((n * 2 ^ (f - q).toNat : Nat) : Int) else (n * 2 ^ (f - q).toNat : Nat))

theorem Num.gap_value (x : Bool) (m : Nat) (e : Int) (y : Bool) (n : Nat) (f : Int) (st st' : Bool) :
    (Num.gap x m e y n f : ℚ) * 2 ^ (if e < f then e else f)
      = Num.value (.fin x m e st) - Num.value (.fin y n f st') := by
  have hm := scaled_value m (show (if e < f then e else f) ≤ e by split <;> omega)
  have hn := scaled_value n (show (if e < f then e else f) ≤ f by split <;> omega)
  simp only [Num.gap, Num.value, ← hm, ← hn]
  generalize (m * 2 ^ (e - (if e < f then e else f)).toNat) = u, (n * 2 ^ (f - (if e < f then e else f)).toNat) = v
  generalize (2 : ℚ) ^ (if e < f then e else f) = c
  cases x <;> cases y <;> simp <;> ring

theorem Num.gap_sign (x : Bool) (m : Nat) (e : Int) (y : Bool) (n : Nat) (f : Int) (st st' : Bool) :
    (Num.gap x m e y n f < 0 ↔ Num.value (.fin x m e st) < Num.value (.fin y n f st'))
    ∧ (0 < Num.gap x m e y n f ↔ Num.value (.fin y n f st') < Num.value (.fin x m e st)) := by
  have hv := Num.gap_value x m e y n f st st'
  have hp : (0 : ℚ) < 2 ^ (if e < f then e else f) := by positivity
  generalize (2 : ℚ) ^ (if e < f then e else f) = c at hv hp
  constructor
  · rw [← sub_neg (a := Num.value _), ← hv, mul_neg_iff]
    simp [hp, hp.not_gt]
  · rw [← sub_pos (a := Num.value _), ← hv, mul_pos_iff_of_pos_right hp, Int.cast_pos]


theorem Num.cmp_fin (x : Bool) (m : Nat) (e : Int) (st : Bool) (y : Bool) (n : Nat) (f : Int) (st' : Bool) :
    Num.cmp true (.fin x m e st) (.fin y n f st') = if Num.gap x m e y n f = 0
      then (if m = 0 ∧ x ≠ y then (if x then -1 else 1) else 0) else Num.gap x m e y n f := by
  simp only [Num.cmp, Bool.true_and, Bool.and_eq_true, decide_eq_true_eq]
  rfl

theorem Num.value_eq_zero {x : Bool} {m : Nat} {e : Int} {st : Bool} : Num.value (.fin x m e st) = 0 ↔ m = 0 := by
  have : (2 : ℚ) ^ e ≠ 0 := by positivity
  cases x <;> simp [Num.value, this]

/-- R141's comparison is the order of the places. -/
theorem Num.cmp_key {a b : Num} (ha : a ≠ .nan) (hb : b ≠ .nan) :
    (a.cmp true b < 0 ↔ a.key < b.key) ∧ (0 < a.cmp true b ↔ b.key < a.key) := by
  match a, b with
  | .inf x, .inf y => cases x <;> cases y <;> simp [Num.cmp, Num.key, Prod.Lex.toLex_lt_toLex]
  | .inf x, .fin y n f st' => cases x <;> simp [Num.cmp, Num.key, Prod.Lex.toLex_lt_toLex]
  | .fin x m e st, .inf y => cases y <;> simp [Num.cmp, Num.key, Prod.Lex.toLex_lt_toLex]
  | .fin x m e st, .fin y n f st' =>
    obtain ⟨hlt, hgt⟩ := Num.gap_sign x m e y n f st st'
    have hz : ∀ {x y : ℚ}, ¬ x < y → ¬ y < x → x = y := fun h h' => le_antisymm (not_lt.1 h') (not_lt.1 h)
    simp only [Num.cmp_fin, Num.key, Prod.Lex.toLex_lt_toLex, lt_irrefl, false_or, true_and]
    by_cases h0 : Num.gap x m e y n f = 0
    · have hv : Num.value (.fin x m e st) = Num.value (.fin y n f st') :=
        hz (fun h => absurd (hlt.2 h) (by omega)) fun h => absurd (hgt.2 h) (by omega)
      have hmn : m = 0 ↔ n = 0 := by rw [← Num.value_eq_zero (e := e) (st := st), hv, Num.value_eq_zero]
      rw [if_pos h0, hv]
      by_cases hm : m = 0
      · cases x <;> cases y <;> simp [hm, hmn.1 hm]
      · simp [hm, mt hmn.2 hm]
    · rw [if_neg h0, hlt, hgt]
      have hv : Num.value (.fin x m e st) ≠ Num.value (.fin y n f st') := fun h =>
        h0 (le_antisymm (not_lt.1 fun h' => (hgt.1 h').ne' h) (not_lt.1 fun h' => (hlt.1 h').ne h))
      simp [hv, Ne.symm hv]


/-! ### Reductions (R150) -/

section Slots
variable {s : State} {p : BitVec 3} {d a : BitVec 7} {e t : BitVec 2}

/-- One value in every lane raises its flags. -/
theorem lanesFlags_const (x : Nat × Flags) {n : Nat} (hn : 0 < n) : lanesFlags (fun _ => x) n = x.2 := by
  induction n with
  | zero => omega
  | succ n ih =>
    rcases Nat.eq_zero_or_pos n with rfl | h
    · exact BitVec.zero_or
    · have := ih h
      simp only [lanesFlags, List.range_succ, List.foldl_append, List.foldl] at this ⊢
      rw [this, BitVec.or_self]

theorem lanesOf_pos (t : BitVec 2) : 0 < lanesOf t := by revert t; decide

theorem redOp_lanes {i : Instr} {f : State → List Nat → Nat × Flags} (hi : exec i s = redOp p d a t f s)
    (h : s.Clear p [] none false (s.vecVerdict [s.vA a] [s.vD d])) :
    s.RoundsLanes i 4 (s.vD d) t fun _ =>
      f s ((List.range (lanesOf t)).map (laneNat (typeWidth t) (s.vec (s.vA a)))) := by
  refine ⟨_, ?_, typeLanes_holds t fun _ => ((f s _).1, 0)⟩
  rw [hi, lanesFlags_const _ (lanesOf_pos t)]
  exact vecRound_executes h.1 h.2

/-- A lane's value has no NaN where its TYPE is i32. -/
theorem typeDecode_int (ht : typeFmt t = none) (x : Nat) : typeDecode t x = Num.ofInt (decodeInt 32 true x) := by
  simp only [typeDecode, ht]

theorem typeDecode_float {f : FloatFmt} (ht : typeFmt t = some f) (x : Nat) : typeDecode t x = f.decode x := by
  simp only [typeDecode, ht]

theorem typeDecode_nanCode {f : FloatFmt} (ht : typeFmt t = some f) : f.decode f.nanCode = .nan := by
  revert ht; revert f; revert t; decide

/-- Integers keep their order. -/
theorem Num.key_ofInt (v w : Int) : (Num.ofInt v).key < (Num.ofInt w).key ↔ v < w := by
  have hval : ∀ v : Int, Num.value (Num.ofInt v) = v := by
    intro v
    rcases lt_or_ge v 0 with h | h
    · have : ((v.natAbs : Int) : ℚ) = -v := by rw [Int.ofNat_natAbs_of_nonpos h.le, Int.cast_neg]
      simp only [Num.ofInt, Num.value, h, decide_true, if_true, zpow_zero, mul_one, ← Int.cast_natCast (R := ℚ), this]
      ring
    · have : ((v.natAbs : Int) : ℚ) = v := by rw [Int.natAbs_of_nonneg h]
      simp only [Num.ofInt, Num.value, decide_eq_false (not_lt.2 h), zpow_zero, mul_one, ← Int.cast_natCast (R := ℚ), this]
      simp
  have hkey : ∀ v : Int, (Num.ofInt v).key = toLex (0, toLex ((v : ℚ), 0)) := by
    intro v
    rw [← hval v]
    simp only [Num.ofInt, Num.key, Int.natAbs_eq_zero, decide_eq_true_eq]
    rw [if_neg (by omega)]
  rw [hkey, hkey, Prod.Lex.toLex_lt_toLex, Prod.Lex.toLex_lt_toLex]
  simp

/-- The order in which a reduction looks for its extreme. -/
def beyond (big : Bool) (t : BitVec 2) (x y : Nat) : Prop :=
  if big then (typeDecode t x).key ≤ (typeDecode t y).key else (typeDecode t y).key ≤ (typeDecode t x).key

theorem beyond_refl (big : Bool) (t : BitVec 2) (x : Nat) : beyond big t x x := by cases big <;> exact le_refl _

theorem beyond_trans {big : Bool} {t : BitVec 2} {x y z : Nat} (h : beyond big t x y) (h' : beyond big t y z) : beyond big t x z := by
  cases big
  · exact le_trans h' h
  · exact le_trans h h'

/-- The extreme of two lanes is one of them, and beyond both. -/
theorem maxLane_beyond {big : Bool} {x y : Nat} (hx : typeDecode t x ≠ .nan) (hy : typeDecode t y ≠ .nan) :
    (maxLane big t x y = x ∨ maxLane big t x y = y) ∧ beyond big t x (maxLane big t x y) ∧ beyond big t y (maxLane big t x y) := by
  have hlt : (maxLane big t x y = x ∧ beyond big t y x) ∨ (maxLane big t x y = y ∧ beyond big t x y) := by
    cases ht : typeFmt t with
    | none =>
      have hk := Num.key_ofInt (decodeInt 32 true x) (decodeInt 32 true y)
      simp only [maxLane, ht, beyond, typeDecode_int ht]
      by_cases h : decodeInt 32 true x < decodeInt 32 true y
      · cases big
        · exact .inl ⟨by simp [h], (hk.2 h).le⟩
        · exact .inr ⟨by simp [h], (hk.2 h).le⟩
      · cases big
        · exact .inr ⟨by simp [h], not_lt.1 (mt hk.1 h)⟩
        · exact .inl ⟨by simp [h], not_lt.1 (mt hk.1 h)⟩
    | some f =>
      rw [typeDecode_float ht] at hx hy
      rw [maxLane_float ht, if_neg (by simp [hx, hy])]
      simp only [beyond, typeDecode_float ht, (Num.cmp_key hx hy).1, (Num.cmp_key hy hx).1]
      cases big
      · by_cases h : (f.decode y).key < (f.decode x).key
        · exact .inr ⟨by simp [h], h.le⟩
        · exact .inl ⟨by simp [h], not_lt.1 h⟩
      · by_cases h : (f.decode x).key < (f.decode y).key
        · exact .inr ⟨by simp [h], h.le⟩
        · exact .inl ⟨by simp [h], not_lt.1 h⟩
  rcases hlt with ⟨he, hb⟩ | ⟨he, hb⟩
  · rw [he]; exact ⟨.inl rfl, beyond_refl .., hb⟩
  · rw [he]; exact ⟨.inr rfl, hb, beyond_refl ..⟩

/-- A fold over lanes without NaN gives one of them, beyond them all. -/
theorem foldl_maxLane {big : Bool} (xs : List Nat) (x : Nat) (h : ∀ y ∈ x :: xs, typeDecode t y ≠ .nan) :
    xs.foldl (maxLane big t) x ∈ x :: xs ∧ ∀ y ∈ x :: xs, beyond big t y (xs.foldl (maxLane big t) x) := by
  induction xs generalizing x with
  | nil => exact ⟨List.mem_singleton_self x, fun y hy => List.mem_singleton.1 hy ▸ beyond_refl ..⟩
  | cons z zs ih =>
    obtain ⟨hm, hx, hz⟩ := maxLane_beyond (big := big) (h x (by simp)) (h z (by simp))
    have hn : ∀ y ∈ maxLane big t x z :: zs, typeDecode t y ≠ .nan := by
      intro y hy
      rcases List.mem_cons.1 hy with rfl | hy
      · rcases hm with hm | hm <;> rw [hm]
        · exact h x (by simp)
        · exact h z (by simp)
      · exact h y (by simp [hy])
    obtain ⟨hmem, hall⟩ := ih _ hn
    have htop := hall _ (List.mem_cons_self ..)
    refine ⟨?_, fun y hy => ?_⟩
    · rcases List.mem_cons.1 hmem with hmem | hmem
      · rw [List.foldl, hmem]
        rcases hm with hm | hm <;> simp [hm]
      · exact List.mem_cons_of_mem _ (List.mem_cons_of_mem _ hmem)
    · rcases List.mem_cons.1 hy with rfl | hy
      · exact beyond_trans hx htop
      · rcases List.mem_cons.1 hy with rfl | hy
        · exact beyond_trans hz htop
        · exact hall y (List.mem_cons_of_mem _ hy)

/-- A NaN among the lanes gives the canonical NaN. -/
theorem foldl_maxLane_nan {big : Bool} {f : FloatFmt} (ht : typeFmt t = some f) (xs : List Nat) (x : Nat)
    (h : x = f.nanCode ∨ ∃ y ∈ xs, f.decode y = .nan) : xs.foldl (maxLane big t) x = f.nanCode := by
  have hstep : ∀ x z, f.decode x = .nan ∨ f.decode z = .nan → maxLane big t x z = f.nanCode :=
    fun x z h => by rw [maxLane_float ht, if_pos h]
  induction xs generalizing x with
  | nil => simpa using h
  | cons z zs ih =>
    refine ih _ ?_
    rcases h with rfl | ⟨y, hy, hn⟩
    · exact .inl (hstep _ _ (.inl (typeDecode_nanCode ht)))
    · rcases List.mem_cons.1 hy with rfl | hy
      · exact .inl (hstep _ _ (.inr hn))
      · exact .inr ⟨y, hy, hn⟩

/-- R150's extreme: canonical NaN where some lane is NaN, else the lane beyond all. -/
theorem foldMax_spec (big : Bool) (t : BitVec 2) {xs : List Nat} (hne : xs ≠ []) :
    ((∃ x ∈ xs, typeDecode t x = .nan) → ∃ f, typeFmt t = some f ∧ foldMax big t xs = f.nanCode)
    ∧ ((∀ x ∈ xs, typeDecode t x ≠ .nan) → foldMax big t xs ∈ xs ∧ ∀ x ∈ xs, beyond big t x (foldMax big t xs)) := by
  obtain ⟨x, r, rfl⟩ := List.exists_cons_of_ne_nil hne
  constructor
  · rintro ⟨y, hy, hn⟩
    cases ht : typeFmt t with
    | none => rw [typeDecode_int ht] at hn; exact absurd hn (by simp [Num.ofInt])
    | some f =>
      rw [typeDecode_float ht] at hn
      refine ⟨f, rfl, foldl_maxLane_nan ht _ _ ?_⟩
      rcases List.mem_cons.1 hy with rfl | hy
      · exact .inl (by rw [maxLane_float ht, if_pos (.inl hn)])
      · exact .inr ⟨y, hy, hn⟩
  · intro h
    have hx := (maxLane_beyond (big := big) (h x (by simp)) (h x (by simp))).1
    rw [or_self] at hx
    rw [foldMax, hx]
    exact foldl_maxLane r x h

/-- R150's sum: exact, then rounded once under lane 0's word, or wrapped. -/
theorem vredSum_lanes (h : s.Clear p [] none false (s.vecVerdict [s.vA a] [s.vD d])) :
    let xs := (List.range (lanesOf t)).map (laneNat (typeWidth t) (s.vec (s.vA a)))
    s.RoundsLanes (.vredSum p d a t) 4 (s.vD d) t fun _ => match typeFmt t with
      | none => (xs.sum % 2 ^ 32, 0)
      | some f =>
        let v := Num.sum s.rd (xs.map f.decode)
        let e := f.encode (s.rounding 0) false v
        (e.1, e.2 ||| (if v = .nan ∧ .nan ∉ xs.map f.decode then flagINV else 0)) := by
  intro xs
  refine (redOp_lanes (exec_vredSum ..) h).congr fun j _ => ?_
  cases ht : typeFmt t with
  | none => rw [List.sum_eq_foldl]; exact ⟨rfl, rfl⟩
  | some f => simp only [← invFlag_eq]; exact ⟨rfl, rfl⟩

theorem vredMax_lanes (h : s.Clear p [] none false (s.vecVerdict [s.vA a] [s.vD d])) :
    s.RoundsLanes (.vredMax p d a t) 4 (s.vD d) t fun _ =>
      (foldMax true t ((List.range (lanesOf t)).map (laneNat (typeWidth t) (s.vec (s.vA a)))), 0) :=
  redOp_lanes (f := fun _ xs => (foldMax true t xs, 0)) (exec_vredMax ..) h

theorem vredMin_lanes (h : s.Clear p [] none false (s.vecVerdict [s.vA a] [s.vD d])) :
    s.RoundsLanes (.vredMin p d a t) 4 (s.vD d) t fun _ =>
      (foldMax false t ((List.range (lanesOf t)).map (laneNat (typeWidth t) (s.vec (s.vA a)))), 0) :=
  redOp_lanes (f := fun _ xs => (foldMax false t xs, 0)) (exec_vredMin ..) h

/-- The greatest lane is not below any. -/
theorem foldMax_true_ge {xs : List Nat} (hne : xs ≠ []) (hx : ∀ x ∈ xs, typeDecode t x ≠ .nan) :
    foldMax true t xs ∈ xs ∧ ∀ x ∈ xs, (typeDecode t (foldMax true t xs)).cmp true (typeDecode t x) ≥ 0 := by
  obtain ⟨hmem, hall⟩ := (foldMax_spec true t hne).2 hx
  exact ⟨hmem, fun x hm => not_lt.1 (mt (Num.cmp_key (hx _ hmem) (hx x hm)).1.1 (not_lt.2 (hall x hm)))⟩

/-- The least lane is not above any. -/
theorem foldMax_false_le {xs : List Nat} (hne : xs ≠ []) (hx : ∀ x ∈ xs, typeDecode t x ≠ .nan) :
    foldMax false t xs ∈ xs ∧ ∀ x ∈ xs, (typeDecode t (foldMax false t xs)).cmp true (typeDecode t x) ≤ 0 := by
  obtain ⟨hmem, hall⟩ := (foldMax_spec false t hne).2 hx
  exact ⟨hmem, fun x hm => not_lt.1 (mt (Num.cmp_key (hx _ hmem) (hx x hm)).2.1 (not_lt.2 (hall x hm)))⟩

/-! ### Conversion (R151) -/

/-- The image and flags of a vector slot that rounds. -/
theorem vecRound_image {i : Instr} {lat : Nat} {src : State → List Nat} {dst : State → Nat} {mask : State → W32}
    {f : State → Image × Flags} (hi : exec i s = vecRound lat p src dst mask f s)
    (h : s.Clear p [] none false (s.vecVerdict (src s) [dst s])) :
    exec i s = .next (s.putVec lat (dst s) (mask s) (f s).1 (f s).2).noteStoch :=
  hi.trans (vecRound_executes h.1 h.2)

theorem vcvt_executes (h : s.Clear p [] none false (s.vecVerdict [s.vA a] [s.vD d])) :
    let n := if typeWidth e = typeWidth t then lanesOf t else 32
    let conv := fun j => typeEncode e (s.rounding j) s.sat (typeDecode t (laneNat (typeWidth t) (s.vec (s.vA a)) j))
    ∃ img, exec (.vcvt p d a e t) s = .next (s.putVec 2 (s.vD d) allUnits img (lanesFlags conv n)).noteStoch
      ∧ HoldsLanes img (typeWidth e) n conv ∧ img.toNat < 2 ^ (typeWidth e * n) := by
  intro n conv
  have hfit : typeWidth e * n ≤ 1024 := by revert e t; decide
  refine ⟨BitVec.ofNat 1024 (packLanes (typeWidth e) conv n).1, ?_, packLanes_holds hfit, ?_⟩
  · have hc : cvtImage s (s.vec (s.vA a)) 0 e t = (BitVec.ofNat 1024 (packLanes (typeWidth e) conv n).1, lanesFlags conv n) := by
      have hn : (if typeWidth t = typeWidth e then lanesOf t else 32) = n := by simp only [n, eq_comm]
      rw [← packLanes_flags (typeWidth e), ← hn]
      rfl
    refine (vecRound_image (exec_vcvt ..) h).trans ?_
    rw [hc]
    rfl
  · exact (BitVec.toNat_ofNat .. ▸ Nat.mod_le _ _).trans_lt (packLanes_lt ..)

end Slots

/-- Settles O17: the reductions by redOp_lanes and foldMax_spec, the conversion by vcvt_executes. -/
theorem vectorReductionsAndConversions : Obligations.VectorReductionsAndConversions := by
  intro s p d a e t h u xs sum n conv
  have hne : xs ≠ [] := by
    simp only [xs, ne_eq, List.map_eq_nil_iff, List.range_eq_nil]
    exact (lanesOf_pos t).ne'
  exact ⟨vredSum_lanes h, ⟨_, vredMax_lanes h, (foldMax_spec true t hne).1, foldMax_true_ge hne⟩,
    ⟨_, vredMin_lanes h, (foldMax_spec false t hne).1, foldMax_false_le hne⟩, vcvt_executes h⟩

end Sys2Proof.Machine
end

section
/-! PROOFS. The special functions (spec 07 R152). -/

namespace Sys2Proof.Machine

section Slots
variable {s : State} {p : BitVec 3} {d a : BitVec 7} {t : BitVec 2}

/-- A special-function slot rounds its function's value once, with INV where the function made the NaN. -/
theorem sfOp_lanes {i : Instr} {g : Num → Num} (hi : exec i s = sfOp g p d a t s)
    (h : s.Clear p [] none false (s.vecVerdict [s.vA a] [s.vD d])) :
    s.RoundsLanes i 8 (s.vD d) t fun j =>
      let x := typeDecode t (laneNat (typeWidth t) (s.vec (s.vA a)) j)
      let e := typeEncode t (s.rounding j) false (g x)
      (e.1, e.2 ||| (if g x = .nan ∧ x ≠ .nan then flagINV else 0)) := by
  refine (vecRound_lanes hi h).congr fun j _ => ⟨rfl, ?_⟩
  simp only [invFlag_eq, List.mem_singleton, eq_comm (a := Num.nan), ne_eq]

end Slots

/-! ### The reciprocal -/

/-- 1 / x, enclosed between two neighbouring multiples of a power of two. -/
theorem spRcp_encloses (neg : Bool) (e : Int) {m : Nat} (hm : 0 < m) :
    ∃ (r k : Nat) (st : Bool), spRcp (.fin neg m e false) = .fin neg r (-(k : Int) - e) st
      ∧ r * m ≤ 2 ^ k ∧ 2 ^ k < (r + 1) * m ∧ (st = true ↔ r * m ≠ 2 ^ k) := by
  refine ⟨2 ^ (200 + bitLen m) / m, 200 + bitLen m, decide (2 ^ (200 + bitLen m) % m ≠ 0), ?_, Nat.div_mul_le_self .., ?_, ?_⟩
  · rw [spRcp, if_neg hm.ne']
    push_cast
    rfl
  · rw [Nat.mul_comm]
    exact Nat.lt_mul_div_succ _ hm
  · have hdiv := Nat.div_add_mod' (2 ^ (200 + bitLen m)) m
    rw [decide_eq_true_eq]
    omega

/-! ### The square root -/

/-- The bits taken from n down give the greatest root not above x. -/
theorem isqrtBits_encloses {x : Nat} (n : Nat) {r : Nat} (hr : r * r ≤ x) (hx : x < (r + 2 ^ n) * (r + 2 ^ n)) :
    isqrtBits x n r * isqrtBits x n r ≤ x ∧ x < (isqrtBits x n r + 1) * (isqrtBits x n r + 1) := by
  induction n generalizing r with
  | zero => exact ⟨hr, hx⟩
  | succ n ih =>
    rw [isqrtBits]
    split
    · next h => exact ih h (by rwa [Nat.add_assoc, ← Nat.two_mul, ← Nat.pow_succ'])
    · next h => exact ih hr (Nat.not_le.1 h)

/-- 1 / √x, enclosed between two neighbouring multiples of a power of two. -/
theorem spRsq_encloses (e : Int) {m : Nat} (hm : 0 < m) :
    ∃ (r : Nat) (st : Bool), spRsq (.fin false m e false) = .fin false r (-200 - e / 2) st
      ∧ let n : Nat := if e % 2 = 0 then m else 2 * m
        r * r * n ≤ 2 ^ 400 ∧ 2 ^ 400 < (r + 1) * (r + 1) * n ∧ (st = true ↔ r * r * n ≠ 2 ^ 400) := by
  have hn : 0 < (if e % 2 = 0 then m else 2 * m) := by split <;> omega
  have hvalue : spRsq (.fin false m e false)
      = .fin false (isqrtBits (2 ^ 400 / if e % 2 = 0 then m else 2 * m) 201 0) (-200 - e / 2)
        (decide (isqrtBits (2 ^ 400 / if e % 2 = 0 then m else 2 * m) 201 0
          * isqrtBits (2 ^ 400 / if e % 2 = 0 then m else 2 * m) 201 0 * (if e % 2 = 0 then m else 2 * m) ≠ 2 ^ 400)) := by
    have he : (e - 1) / 2 = e / 2 ∨ e % 2 = 0 := by omega
    by_cases h : e % 2 = 0
    · simp [spRsq, hm.ne', h]
    · simp [spRsq, hm.ne', h, he.resolve_right h]
  generalize (if e % 2 = 0 then m else 2 * m) = n at hn hvalue
  have hroot : 2 ^ 400 / n < (0 + 2 ^ 201) * (0 + 2 ^ 201) :=
    calc 2 ^ 400 / n ≤ 2 ^ 400 := Nat.div_le_self ..
      _ < 2 ^ 402 := Nat.pow_lt_pow_right (by norm_num) (by norm_num)
      _ = (0 + 2 ^ 201) * (0 + 2 ^ 201) := by rw [Nat.zero_add, ← Nat.pow_add]
  obtain ⟨hle, hlt⟩ := isqrtBits_encloses 201 (Nat.zero_le _) hroot
  refine ⟨_, _, hvalue, ?_, ?_, decide_eq_true_iff⟩
  · exact (Nat.le_div_iff_mul_le hn).1 hle
  · exact (Nat.div_lt_iff_lt_mul hn).1 hlt

/-- Settles O18: the lanes by sfOp_lanes; the results of R152's table by its functions' definitions, and the enclosures by
spRcp_encloses and spRsq_encloses. -/
theorem specialFunctions : Obligations.SpecialFunctions := by
  refine ⟨fun s p d a t h => ?lanes, rfl, rfl, rfl, rfl, rfl, rfl, rfl, rfl, rfl, rfl, rfl, rfl, fun neg e => ?results⟩
  case lanes =>
    exact ⟨sfOp_lanes (exec_vexp2 ..) h, sfOp_lanes (exec_vlog2 ..) h, sfOp_lanes (exec_vrcp ..) h, sfOp_lanes (exec_vrsq ..) h,
      sfOp_lanes (exec_vsin ..) h, sfOp_lanes (exec_vtanh ..) h⟩
  case results =>
    refine ⟨rfl, rfl, rfl, rfl, rfl, rfl, rfl, rfl, rfl, rfl, fun m hm =>
      ⟨?_, ?_, fun he => ?_, spRcp_encloses neg e hm, spRsq_encloses e hm⟩⟩
    · rw [spLog2, if_neg hm.ne', if_pos rfl]
    · rw [spRsq, if_neg hm.ne', if_pos rfl]
    · rw [spSin, if_neg hm.ne', if_pos he]

end Sys2Proof.Machine
end

section
/-! PROOFS. Packing, unpacking and block scaling (spec 07 R153-R156). -/

namespace Sys2Proof.Machine

section Slots
variable {s : State} {p : BitVec 3} {d a b : BitVec 7} {f : BitVec 4} {k : BitVec 3} {t : BitVec 2}

/-- The image and flags of a vector slot that writes a whole image. -/
theorem vecOp_image {i : Instr} {lat : Nat} {reads : List Nat} {src : State → List Nat} {dst : State → Nat}
    {g : State → Image × Flags} (hi : exec i s = vecOp lat p reads src dst g s)
    (h : s.Clear p reads none false (s.vecVerdict (src s) [dst s])) :
    exec i s = .next (s.putVec lat (dst s) allUnits (g s).1 (g s).2) :=
  hi.trans (vecOp_executes h.1 h.2)

/-- Bits taken in two steps. -/
theorem div_pow_div_pow (u m n : Nat) : u / 2 ^ m / 2 ^ n = u / 2 ^ (m + n) := by
  rw [Nat.div_div_eq_div_mul, Nat.pow_add]

/-! ### VUNPK (R154) -/

theorem vunpk_image (h : s.Clear p [] none false (s.vecVerdict [s.vA a] [s.vD d])) :
    exec (.vunpk p d a f k t) s = .next (s.putVec 3 (s.vD d) allUnits (unpackImage (s.vec (s.vA a)) f k t).1
      (unpackImage (s.vec (s.vA a)) f k t).2) :=
  vecOp_image (exec_vunpk ..) h

theorem unpackImage_elem (u : Image) {el : Elem} (hf : narrowElem f.toNat = some el) :
    unpackImage u f k t = typeLanes t fun j => typeEncode t rne false
      (el.decode (u.toNat / 2 ^ (8 * (k.toNat * partSize f t) + el.width * j) % 2 ^ el.width)) := by
  simp only [unpackImage, hf, elemBit, div_pow_div_pow]

theorem unpackImage_q4x (u : Image) (hf : narrowElem f.toNat = none) :
    HoldsLanes (unpackImage u f k t).1 (typeWidth t) (lanesOf t) fun j => typeEncode t rne false
      ((q4xBlock (u.toNat / 2 ^ (8 * (k.toNat * partSize f t) + 160 * (j / 32)))).1.getD (j % 32) .zero) := by
  have hl : lanesOf t ≤ 64 := by revert t; decide
  simp only [unpackImage, hf]
  refine (typeLanes_holds t _).congr fun j hj => ?_
  rcases Nat.lt_or_ge j 32 with h | h
  · simp only [h, if_true, Nat.div_eq_of_lt h, Nat.mul_zero, Nat.add_zero]
  · rw [if_neg (by omega), show j / 32 = 1 by omega, div_pow_div_pow]

/-! ### VPACK (R155) -/

/-- Whole parts of 4-byte units. -/
theorem partSize_units (f : BitVec 4) (t : BitVec 2) : 4 * (partSize f t / 4) = partSize f t := by
  revert f t; decide

/-- A part holds its elements. -/
theorem partSize_elem {el : Elem} (hf : narrowElem f.toNat = some el) : el.width * lanesOf t = 8 * partSize f t := by
  revert hf; revert el; revert f t; decide

/-- A part of a format without elements holds a block for each 32 lanes. -/
theorem partSize_q4x (hf : narrowElem f.toNat = none) : 160 * (lanesOf t / 32) ≤ 8 * partSize f t := by
  revert hf; revert f t; decide

/-- The mask of n units from unit n k on. -/
theorem testBit_units (n k i : Nat) : ((2 ^ n - 1) * 2 ^ (n * k)).testBit i = decide (n * k ≤ i ∧ i < n * (k + 1)) := by
  rw [Nat.mul_comm, Nat.testBit_two_pow_mul, Nat.testBit_two_pow_sub_one, Nat.mul_succ, ← Bool.decide_and]
  exact decide_eq_decide.2 (by omega)

theorem packMask_bit {i : Nat} (h : i < 32) :
    (BitVec.ofNat 32 ((2 ^ (partSize f t / 4) - 1) * 2 ^ (partSize f t / 4 * k.toNat))).getLsbD i
      = decide (k.toNat * partSize f t ≤ 4 * i ∧ 4 * i < (k.toNat + 1) * partSize f t) := by
  obtain ⟨n, hn⟩ : ∃ n, partSize f t = 4 * n := ⟨_, (partSize_units f t).symm⟩
  rw [BitVec.getLsbD_ofNat, testBit_units, decide_eq_true h, Bool.true_and, hn, Nat.mul_div_cancel_left _ (by norm_num),
    show k.toNat * (4 * n) = 4 * (n * k.toNat) by ring, show (k.toNat + 1) * (4 * n) = 4 * (n * (k.toNat + 1)) by ring]
  exact decide_eq_decide.2 (by omega)

/-- Bits placed from a base on, taken again. -/
theorem placed_bits {v base n : Nat} (hv : v < 2 ^ n) (hn : base + n ≤ 1024) (q : Nat) :
    (BitVec.ofNat 1024 (v * 2 ^ base)).toNat / 2 ^ (base + q) = v / 2 ^ q := by
  have hlt : v * 2 ^ base < 2 ^ 1024 :=
    calc v * 2 ^ base < 2 ^ n * 2 ^ base := Nat.mul_lt_mul_of_pos_right hv (Nat.two_pow_pos base)
      _ = 2 ^ (base + n) := by rw [← Nat.pow_add, Nat.add_comm]
      _ ≤ 2 ^ 1024 := Nat.pow_le_pow_right Nat.two_pos hn
  rw [BitVec.toNat_ofNat, Nat.mod_eq_of_lt hlt, ← div_pow_div_pow, Nat.mul_div_cancel _ (Nat.two_pow_pos base)]

theorem packPart_elem (u : Image) {el : Elem} (hf : narrowElem f.toNat = some el) :
    (packPart s u f t).1 = (packLanes el.width
      (fun j => packLane f (s.rounding j) s.sat (typeDecode t (laneNat (typeWidth t) u j))) (lanesOf t)).1 := by
  simp only [packPart, hf]

/-- R155's block of 32 codes: an inline scale of 1 and the codes above it. -/
def q4xPacked (lane : Nat → Nat × Flags) : Nat := 0x3F800000 + (packLanes 4 lane 32).1 * 2 ^ 32

theorem q4xPacked_lt (lane : Nat → Nat × Flags) : q4xPacked lane < 2 ^ 160 := by
  have h := packLanes_lt 4 lane 32
  rw [show 4 * 32 = 128 from rfl] at h
  unfold q4xPacked
  omega

theorem q4xPacked_scale (lane : Nat → Nat × Flags) : q4xPacked lane % 2 ^ 32 = 0x3F800000 := by
  unfold q4xPacked
  omega

theorem q4xPacked_code (lane : Nat → Nat × Flags) {i : Nat} (hi : i < 32) :
    q4xPacked lane / 2 ^ (32 + 4 * i) % 16 = (lane i).1 % 16 := by
  have h32 : q4xPacked lane / 2 ^ 32 = (packLanes 4 lane 32).1 := by unfold q4xPacked; omega
  rw [← div_pow_div_pow, h32]
  exact packLanes_lane hi

theorem lanesOf_cases (t : BitVec 2) : lanesOf t = 32 ∨ lanesOf t = 64 := by revert t; decide

theorem packPart_q4x (u : Image) (hf : narrowElem f.toNat = none) :
    let lane := fun j => q4xCode (s.rounding j) (typeDecode t (laneNat (typeWidth t) u j))
    (packPart s u f t).1 < 2 ^ (160 * (lanesOf t / 32)) ∧ ∀ q < lanesOf t / 32,
      (packPart s u f t).1 / 2 ^ (160 * q) % 2 ^ 160 = q4xPacked fun j => lane (j + 32 * q) := by
  intro lane
  have hlane : ∀ j, packLane f (s.rounding j) s.sat (typeDecode t (laneNat (typeWidth t) u j)) = lane j := by
    intro j; simp only [packLane, hf]; rfl
  have h0 := q4xPacked_lt lane
  have h1 := q4xPacked_lt fun j => lane (j + 32)
  rcases lanesOf_cases t with hl | hl
  · have hv : (packPart s u f t).1 = q4xPacked lane := by
      simp only [packPart, hf, hl, hlane]; rfl
    rw [hv, hl]
    refine ⟨h0, fun q hq => ?_⟩
    obtain rfl : q = 0 := by omega
    rw [Nat.mul_zero, Nat.pow_zero, Nat.div_one]
    exact Nat.mod_eq_of_lt h0
  · have hv : (packPart s u f t).1 = q4xPacked lane + q4xPacked (fun j => lane (j + 32)) * 2 ^ 160 := by
      simp only [packPart, hf, hl, hlane]; rfl
    rw [hv, hl]
    generalize hb : q4xPacked (fun j => lane (j + 32)) = b at h1
    refine ⟨by omega, fun q hq => ?_⟩
    obtain rfl | rfl : q = 0 ∨ q = 1 := by omega
    · rw [Nat.mul_zero, Nat.pow_zero, Nat.div_one, Nat.add_mul_mod_self_right]
      exact Nat.mod_eq_of_lt h0
    · rw [Nat.mul_one, Nat.add_mul_div_right _ _ (Nat.two_pow_pos 160), Nat.div_eq_of_lt h0, Nat.zero_add]
      exact (Nat.mod_eq_of_lt h1).trans hb.symm

/-- Bits of the low n bits. -/
theorem div_mod_of_low {v n m c : Nat} (h : m + c ≤ n) : v % 2 ^ n / 2 ^ m % 2 ^ c = v / 2 ^ m % 2 ^ c := by
  obtain ⟨r, rfl⟩ := Nat.exists_eq_add_of_le h
  rw [show m + c + r = m + (c + r) by omega, Nat.pow_add, Nat.mod_mul_right_div_self, Nat.pow_add, Nat.mod_mul_right_mod]

/-- What lane j of R155's blocks leaves in the part. -/
theorem packPart_q4x_lane (u : Image) (hf : narrowElem f.toNat = none) {j : Nat} (hj : j < lanesOf t) :
    (packPart s u f t).1 / 2 ^ (160 * (j / 32)) % 2 ^ 32 = 0x3F800000
    ∧ (packPart s u f t).1 / 2 ^ (160 * (j / 32) + (32 + 4 * (j % 32))) % 2 ^ 4
      = (q4xCode (s.rounding j) (typeDecode t (laneNat (typeWidth t) u j))).1 % 16 := by
  have hq : j / 32 < lanesOf t / 32 := by rcases lanesOf_cases t with hl | hl <;> rw [hl] at hj ⊢ <;> omega
  have hb := (packPart_q4x (s := s) (t := t) u hf).2 _ hq
  rw [← div_pow_div_pow _ (160 * (j / 32)) (32 + 4 * (j % 32))]
  generalize (packPart s u f t).1 / 2 ^ (160 * (j / 32)) = v at hb ⊢
  constructor
  · rw [← Nat.mod_mod_of_dvd v (show 2 ^ 32 ∣ 2 ^ 160 by norm_num), hb]
    exact q4xPacked_scale _
  · rw [← div_mod_of_low (n := 160) (by omega), hb]
    refine (q4xPacked_code _ (Nat.mod_lt _ (by norm_num))).trans ?_
    rw [Nat.mod_add_div]

theorem vpack_executes (h : s.Clear p [] none false (s.vecVerdict [s.vA a, s.vD d] [s.vD d])) :
    exec (.vpack p d a f k t) s = .next (s.putVec 3 (s.vD d)
      (BitVec.ofNat 32 ((2 ^ (partSize f t / 4) - 1) * 2 ^ (partSize f t / 4 * k.toNat)))
      (BitVec.ofNat 1024 ((packPart s (s.vec (s.vA a)) f t).1 * 2 ^ (8 * (k.toNat * partSize f t))))
      (packPart s (s.vec (s.vA a)) f t).2).noteStoch :=
  vecRound_image (exec_vpack ..) h

/-! ### VBSCL (R156) -/

theorem vbscl_lanes (h : s.Clear p [] none false (s.vecVerdict [s.vA a, s.vB b] [s.vD d])) :
    s.RoundsLanes (.vbscl p d a b t) 3 (s.vD d) t fun j =>
      let scale := fmtF32.decode (unitOf (s.vec (s.vB b)) (j * typeWidth t / 32)).toNat
      let x := typeDecode t (laneNat (typeWidth t) (s.vec (s.vA a)) j)
      let e := typeEncode t (s.rounding j) false (x.mul scale)
      (e.1, e.2 ||| (if x.mul scale = .nan ∧ x ≠ .nan ∧ scale ≠ .nan then flagINV else 0)
        ||| (if scaleBad scale then flagSCLB else 0)) := by
  refine (vecRound_lanes (exec_vbscl ..) h).congr fun j _ => ⟨rfl, ?_⟩
  simp only [invFlag_eq, List.mem_cons, List.not_mem_nil, or_false, not_or, eq_comm (a := Num.nan), ne_eq]
  rfl

end Slots

/-- Settles O19: unpackImage and packPart, by whether the narrow format has elements (R153). -/
theorem packedElementResults : Obligations.PackedElementResults := by
  intro s p d a b f k t w u base scale
  have hfit : (k.toNat + 1) * partSize f t ≤ 128 → base + 8 * partSize f t ≤ 1024 := by
    simp only [base, Nat.succ_mul]
    omega
  refine ⟨fun h => ⟨fun el hf => ?_, fun hf => ⟨_, _, vunpk_image h, unpackImage_q4x u hf⟩⟩,
    fun h hk => ⟨_, _, _, vpack_executes h, fun i hi => packMask_bit hi, fun el hf j hj => ?_, fun hf j hj => ?_⟩,
    vbscl_lanes⟩
  · refine ⟨_, (vunpk_image h).trans ?_, typeLanes_holds t _⟩
    rw [unpackImage_elem u hf, typeLanes_flags]
  · have hp := partSize_elem (t := t) hf
    have hlt := packLanes_lt el.width (fun j => packLane f (s.rounding j) s.sat (typeDecode t (laneNat (typeWidth t) u j))) (lanesOf t)
    rw [hp] at hlt
    rw [packPart_elem u hf, placed_bits hlt (hfit hk)]
    exact packLanes_lane hj
  · have hlt := (packPart_q4x (s := s) (t := t) u hf).1.trans_le (Nat.pow_le_pow_right Nat.two_pos (partSize_q4x hf))
    rw [Nat.add_assoc, Nat.add_assoc, placed_bits hlt (hfit hk), placed_bits hlt (hfit hk)]
    exact packPart_q4x_lane u hf hj

end Sys2Proof.Machine
end

section
/-! PROOFS. Scratchpad transfers and the taking effect of their writes (spec 09 R181-R184, spec 07 R157, spec 08 R169). -/

namespace Sys2Proof.Machine

/-! ### Bytes of a line -/

theorem mergeBytes_getLsbD (lo n : Nat) (v old : Image) {b : Nat} (hb : b < 1024) :
    (mergeBytes lo n v old).getLsbD b = if 8 * lo ≤ b ∧ b < 8 * (lo + n) then v.getLsbD (b - 8 * lo) else old.getLsbD b := by
  have hmask : (BitVec.ofNat 1024 ((2 ^ (8 * n) - 1) * 2 ^ (8 * lo))).getLsbD b = decide (8 * lo ≤ b ∧ b < 8 * (lo + n)) := by
    rw [BitVec.getLsbD_ofNat, decide_eq_true hb, Bool.true_and, Nat.mul_comm, Nat.testBit_two_pow_mul,
      Nat.testBit_two_pow_sub_one, ← Bool.decide_and]
    exact decide_eq_decide.2 (by omega)
  simp only [mergeBytes, BitVec.getLsbD_or, BitVec.getLsbD_and, BitVec.getLsbD_not, BitVec.getLsbD_shiftLeft, hmask, hb,
    decide_true, Bool.true_and]
  by_cases h : 8 * lo ≤ b ∧ b < 8 * (lo + n)
  · simp [h]
  · simp [h]

/-- Byte i of a line into which bytes lo to lo + n - 1 were merged. -/
theorem mergeBytes_byte {lo n i : Nat} (v : W64) (old : Image) (hn : n ≤ 8) (hi : i < 128) :
    (mergeBytes lo n (v.setWidth 1024) old).extractLsb' (8 * i) 8
      = if lo ≤ i ∧ i < lo + n then v.extractLsb' (8 * (i - lo)) 8 else old.extractLsb' (8 * i) 8 := by
  ext j hj
  rw [BitVec.getElem_extractLsb', mergeBytes_getLsbD _ _ _ _ (by omega)]
  by_cases h : lo ≤ i ∧ i < lo + n
  · rw [if_pos h, if_pos (by omega), BitVec.getElem_extractLsb', BitVec.getLsbD_setWidth,
      show 8 * i + j - 8 * lo = 8 * (i - lo) + j by omega, decide_eq_true (by omega), Bool.true_and]
  · rw [if_neg h, if_neg (by omega), BitVec.getElem_extractLsb']

/-! ### Deferred writes -/

section Deferred
variable (s : State) (c : Nat) (g : Hm)

theorem State.applyDelayed_stale (d : Delayed) (hd : (∃ a n v, d = .spm a n v g) ∨ (∃ l i, d = .line l i g) ∨ ∃ r i, d = .ring r i g)
    (hg : g ≠ s.coreGen c) : s.applyDelayed c d = { s with discards := Sparse.upd 0 g.toNat (· + 1) s.discards } := by
  rcases hd with ⟨a, n, v, rfl⟩ | ⟨l, i, rfl⟩ | ⟨r, i, rfl⟩ <;> exact if_neg hg

variable {s c g}

theorem State.applyDelayed_spm (hg : g = s.coreGen c) (a n : Nat) (v : W64) :
    s.applyDelayed c (.spm a n v g) = s.updCore c fun k => k.writeSpm g (a / 128) (a % 128) n (v.setWidth 1024) := if_pos hg

theorem State.applyDelayed_line (hg : g = s.coreGen c) (l : Nat) (img : Image) :
    s.applyDelayed c (.line l img g) = s.updCore c fun k => k.writeSpm g l 0 128 img := if_pos hg

theorem State.applyDelayed_ring (hg : g = s.coreGen c) (r : Nat) (img : BitVec 98944) :
    s.applyDelayed c (.ring r img g) = s.updCore c fun k => { k with rings := Sparse.put {} r ⟨img, g⟩ k.rings } := if_pos hg

/-- A line of the scratchpad after a write of one. -/
theorem Core.get_writeSpm (k : Core) (l lo n : Nat) (v : Image) (j : Nat) :
    Sparse.get {} j (k.writeSpm g l lo n v).spm = if j = l
      then ⟨mergeBytes lo n v ((Sparse.get {} l k.spm).read g), g, (Sparse.get {} l k.spm).bad && decide (n ≠ 128)⟩
      else Sparse.get {} j k.spm := by
  rw [Core.writeSpm]
  dsimp only
  split
  · next h => rw [h, Sparse.get_upd_same]
  · next h => rw [Sparse.get_upd_other h]

end Deferred

/-! ### Transfers -/

section Slots
variable {s : State} {p : BitVec 3} {v : BitVec 7} {d a : BitVec 6} {o : BitVec 8} {o' : BitVec 5} {z r : BitVec 2}

theorem Verdict.also_eq_go {x y : Verdict} : x.also y = .go ↔ x = .go ∧ y = .go := by
  cases x <;> cases y <;> simp [Verdict.also]

/-- R157's line: modulo 512 KiB, rounded down. -/
theorem State.vmemLine_eq (s : State) (a : BitVec 6) (o : BitVec 8) : s.vmemLine a o =
    (s.reg (s.rA a) + BitVec.ofInt 64 (128 * if s.cur.kind = .imm then (s.cur.x ++ o).toInt else o.toInt)).toNat % 2 ^ 19 / 128 := by
  rw [State.vmemLine, immS_eq]

/-- R184's address: modulo 512 KiB, rounded down to the element's size. -/
theorem State.spmAddr_eq (s : State) (a : BitVec 6) (o : BitVec 5) (z : BitVec 2) : s.spmAddr a o z =
    (s.reg (s.rA a) + BitVec.ofInt 64 ((2 ^ z.toNat : Nat) * if s.cur.kind = .imm then (s.cur.x ++ o).toInt else o.toInt)).toNat
      % 2 ^ 19 / 2 ^ z.toNat * 2 ^ z.toNat := by
  rw [State.spmAddr, immS_eq]
  exact (Nat.div_mul_self_eq_mod_sub_self ..).symm

theorem spld_executes (h : s.Clear p [s.rA a] (some (s.rD d)) false (s.spmVerdict (s.spmAddr a o' z / 128) false)) :
    exec (.spld p d a o' z) s = .next (s.putScalar 4 (s.rD d) (BitVec.ofNat 64
      (((Sparse.get {} (s.spmAddr a o' z / 128) s.k.spm).read s.gen).toNat / 2 ^ (8 * (s.spmAddr a o' z % 128))
        % 2 ^ (8 * 2 ^ z.toNat)))) := by
  rw [exec_spld, execSpld]
  exact slotMeaning_executes h.1 h.2

theorem spst_executes (h : s.Clear p [s.rA a, s.rD d] none false (s.spmVerdict (s.spmAddr a o' z / 128) true)) :
    exec (.spst p d a o' z) s = .next (s.updK fun k => { k with nextVc :=
      k.nextVc ++ [.spm (s.spmAddr a o' z) (2 ^ z.toNat) (s.reg (s.rD d)) s.gen] }) := by
  rw [exec_spst, execSpst]
  exact slotMeaning_executes h.1 h.2

theorem ringld_executes {img : Nat} (hi : s.ringImage (s.reg (s.rA a)) = .data img) (h : s.Executes p [s.rA a] none false) :
    exec (.ringld p r a) s = .next (s.updK fun k => { k with
      ringRead := none, nextVc := k.nextVc ++ [.ring r.toNat (BitVec.ofNat 98944 img) s.gen] }) := by
  rw [exec_ringld, execRingld, slotMeaning_executes h (by rw [hi])]
  simp only [hi]

end Slots

/-- Settles O20: the transfers by the rule of each slot, the deferred writes by State.applyDelayed_spm, _line and _ring. -/
theorem scratchpadReadsAndWrites : Obligations.ScratchpadReadsAndWrites := by
  refine ⟨fun s p v d a o8 o5 z r => ?transfers, fun s c addr n v g hfit hn => ?spm, fun s c l img g => ?line, fun s c r img g => ?ring⟩
  case transfers =>
    intro off off' n line addr held defer
    have hline : s.vmemLine a o8 = line := s.vmemLine_eq a o8
    have haddr : s.spmAddr a o5 z = addr := s.spmAddr_eq a o5 z
    rw [← hline, ← haddr]
    refine ⟨fun ⟨h, hv⟩ => ?_, fun ⟨h, hv⟩ => ?_, spld_executes, spst_executes, fun img => ringld_executes⟩
    · obtain ⟨hl, hr⟩ := Verdict.also_eq_go.1 hv
      exact ⟨(exec_vld ..).trans (vloadOp_executes h hl hr), (exec_vlds ..).trans (vloadOp_executes h hl hr)⟩
    · obtain ⟨hl, hr⟩ := Verdict.also_eq_go.1 hv
      exact ⟨(exec_vst ..).trans (vstoreOp_executes h hl hr), (exec_vsts ..).trans (vstoreOp_executes h hl hr)⟩
  case spm =>
    refine ⟨fun hg l i hi => ?_, s.applyDelayed_stale c g _ (.inl ⟨addr, n, v, rfl⟩)⟩
    dsimp only
    rw [State.applyDelayed_spm hg, State.core_updCore_same, Core.get_writeSpm]
    by_cases hl : l = addr / 128
    · subst hl
      rw [if_pos rfl, Line.read, if_pos rfl, mergeBytes_byte v _ hn hi]
      simp only [true_and]
    · rw [if_neg hl, if_neg (fun h => hl h.1)]
  case line =>
    refine ⟨fun hg j => ?_, s.applyDelayed_stale c g _ (.inr (.inl ⟨l, img, rfl⟩))⟩
    rw [State.applyDelayed_line hg, State.core_updCore_same, Core.get_writeSpm, mergeBytes_line, decide_eq_false (by simp),
      Bool.and_false]
  case ring =>
    refine ⟨fun hg j => ?_, s.applyDelayed_stale c g _ (.inr (.inr ⟨r, img, rfl⟩))⟩
    rw [State.applyDelayed_ring hg, State.core_updCore_same, Sparse.get_put]

end Sys2Proof.Machine
end

section
/-! PROOFS. The operations of Igpor alone (spec 19 R444). -/

namespace Sys2Proof.Machine

section Slots
variable {s : State} {p : BitVec 3} {r : BitVec 5} {d a b : BitVec 7} {n : BitVec 6} {e t : BitVec 2}

/-- One code in every f32 unit. -/
theorem typeLanes_units (m : Nat) : HoldsLanes (typeLanes 0#2 fun _ => (m, 0#6)).1 32 32 fun _ => (m, 0) := typeLanes_holds 0#2 _

theorem vdot_executes (h : s.Clear p [] none false (s.vecVerdict [s.vA a, s.vB b] [s.vD d])) :
    exec (.vdot p d a b t) s = .next (s.putVec 1 (s.vD d) allUnits
      (typeLanes 0#2 fun _ => ((dotValue t (s.vec (s.vA a)) (s.vec (s.vB b))).1, 0#6)).1
      (dotValue t (s.vec (s.vA a)) (s.vec (s.vB b))).2) :=
  vecOp_image (exec_vdot ..) h

/-- R444's dot product: products, their sums in pairs and the sum of those, each rounded to f32. -/
theorem dotValue_eq (t : BitVec 2) (u v : Image) : (dotValue t u v).1 =
    let x := laneNat (typeWidth t) u
    let y := laneNat (typeWidth t) v
    let f32 := fun (n : Num) => (fmtF32.encode rne false n).1
    (f32 (Num.sum false ((List.range 32).map fun j => fmtF32.decode
      (f32 (((typeDecode t (x (j + 32))).mul (typeDecode t (y (j + 32)))).add false
        (fmtF32.decode (f32 ((typeDecode t (x j)).mul (typeDecode t (y j)))))))))) := by
  rw [dotValue, List.map_map]
  rfl

/-- The rounded difference or product of two lanes. -/
theorem arithLane_value (fi : Nat → Nat → Nat → Int) (fn : Num → Num → Num → Num) (x y : Nat) :
    (arithLane t rne fi fn false x y 0).1 = match typeFmt t with
      | none => (fi x y 0 % 2 ^ 32).toNat
      | some f => (f.encode rne false (fn (f.decode x) (f.decode y) (f.decode 0))).1 := by
  unfold arithLane
  cases typeFmt t <;> rfl

theorem vabd_executes (h : s.Clear p [] none false (s.vecVerdict [s.vA a, s.vB b] [s.vRow r])) :
    ∃ img fl, exec (.vabd p r a b t) s = .next (s.putVec 1 (s.vRow r) allUnits img fl)
      ∧ HoldsLanes img (typeWidth t) (lanesOf t) fun j =>
        (absLane t (arithLane t rne (fun x y _ => (x : Int) - y) (fun x y _ => x.add false y.neg) false
          (laneNat (typeWidth t) (s.vec (s.vA a)) j) (laneNat (typeWidth t) (s.vec (s.vB b)) j) 0).1, 0) :=
  ⟨_, _, vecOp_image (exec_vabd ..) h, (typeLanes_holds t _).congr fun _ _ => rfl⟩

theorem vclmp_lanes (h : s.Clear p [] none false (s.vecVerdict [s.vA a, s.vB b] [s.vRow r])) :
    s.QueuesLanes (.vclmp p r a b t) 1 (s.vRow r) t fun j =>
      (maxLane false t (maxLane true t (laneNat (typeWidth t) (s.vec (s.vRow r)) j)
        (laneNat (typeWidth t) (s.vec (s.vA a)) j)) (laneNat (typeWidth t) (s.vec (s.vB b)) j), 0) :=
  vecOp_lanes (exec_vclmp ..) h

/-- VCVTH converts the upper lanes. -/
theorem vcvth_lanes (h : s.Clear p [] none false (s.vecVerdict [s.vA a] [s.vD d])) (ht : typeWidth t = 16) (he : typeWidth e = 32) :
    s.QueuesLanes (.vcvth p d a e t) 1 (s.vD d) e fun j =>
      typeEncode e (s.rounding (j + 32)) s.sat (typeDecode t (laneNat (typeWidth t) (s.vec (s.vA a)) (j + 32))) := by
  have hc : cvtImage s (s.vec (s.vA a)) 32 e t = typeLanes e fun j =>
      typeEncode e (s.rounding (j + 32)) s.sat (typeDecode t (laneNat (typeWidth t) (s.vec (s.vA a)) (j + 32))) := by
    have hl : lanesOf e = 32 := by revert he; revert e; decide
    simp only [cvtImage, typeLanes, ht, he, hl]
    rfl
  refine ⟨_, (vecOp_image (exec_vcvth ..) h).trans ?_, typeLanes_holds e _⟩
  rw [hc, typeLanes_flags]
  rfl

theorem vscl_executes (h : s.Clear p [s.rA n] none false (s.vecVerdict [s.vD d] [s.vD d])) :
    ∃ img fl, exec (.vscl p d n t) s = .next (s.putVec 1 (s.vD d) allUnits img fl)
      ∧ HoldsLanes img (typeWidth t) (lanesOf t) fun j =>
        ((arithLane t rne (fun x y _ => (x : Int) * y) (fun x y _ => x.mul y) false
          (laneNat (typeWidth t) (s.vec (s.vD d)) j) ((s.reg (s.rA n)).toNat % 2 ^ typeWidth t) 0).1, 0) :=
  ⟨_, _, vecOp_image (exec_vscl ..) h, (typeLanes_holds t _).congr fun _ _ => rfl⟩

end Slots

/-- Settles O21: each operation's lanes, said by the value of its template (dotValue_eq, arithLane_value). -/
theorem virtualVectorResults : Obligations.VirtualVectorResults := by
  intro s p r d a b n e t w x y f32 num q bigger smaller
  refine ⟨fun h => ⟨_, _, vdot_executes h, ?_⟩, fun h => ⟨?_, vclmp_lanes h⟩, vcvth_lanes, fun h => ?_⟩
  · rw [dotValue_eq]
    exact typeLanes_units _
  · obtain ⟨img, fl, hx, hl⟩ := vabd_executes (t := t) h
    refine ⟨img, fl, hx, hl.congr fun j _ => ?_⟩
    rw [arithLane_value] <;> rfl
  · obtain ⟨img, fl, hx, hl⟩ := vscl_executes (t := t) h
    refine ⟨img, fl, hx, hl.congr fun j _ => ?_⟩
    rw [arithLane_value]
    rfl

end Sys2Proof.Machine
end

section
/-! PROOFS. Set operations lane by lane (spec 08 R164, R172-R175, R180). -/

namespace Sys2Proof.Machine

/-! ### Bits of a mask -/

theorem hasBit_eq_testBit (m i : Nat) : hasBit m i = m.testBit i := by
  rw [hasBit, Nat.testBit_eq_decide_div_mod_eq]

/-- A bit added where there was none. -/
theorem testBit_add_two_pow {r p : Nat} (h : r.testBit p = false) (q : Nat) :
    (r + 2 ^ p).testBit q = (r.testBit q || decide (p = q)) := by
  have hp : p ∉ r.bitIndices.toFinset := by simp [h]
  have hsum : r + 2 ^ p = ∑ i ∈ insert p r.bitIndices.toFinset, 2 ^ i := by
    rw [Finset.sum_insert hp, Finset.sum_toFinset_bitIndices_two_pow, Nat.add_comm]
  have hiff : (r + 2 ^ p).testBit q = true ↔ q = p ∨ r.testBit q = true := by
    rw [← Nat.mem_bitIndices, ← List.mem_toFinset, hsum, Finset.toFinset_bitIndices_sum_two_pow, Finset.mem_insert,
      List.mem_toFinset, Nat.mem_bitIndices]
  rw [Bool.eq_iff_iff, hiff, Bool.or_eq_true, decide_eq_true_eq, or_comm, eq_comm (a := p)]

/-- The sum of the powers of two at the places of the marked elements of a list, all different, has a bit at each of them. -/
theorem testBit_foldl_two_pow {l : List Nat} (b : Nat → Bool) (f : Nat → Nat) (hf : (l.map f).Nodup) {r : Nat}
    (hr : ∀ k ∈ l, r.testBit (f k) = false) (q : Nat) :
    (l.foldl (fun r k => if b k then r + 2 ^ f k else r) r).testBit q = true ↔
      r.testBit q = true ∨ ∃ k ∈ l, b k = true ∧ f k = q := by
  induction l generalizing r with
  | nil => simp
  | cons k l ih =>
    obtain ⟨hk, hl⟩ := List.nodup_cons.1 hf
    have hne : ∀ k' ∈ l, f k ≠ f k' := fun k' hk' he => hk (he ▸ List.mem_map_of_mem hk')
    rw [List.foldl]
    by_cases hb : b k = true
    · have hbit := testBit_add_two_pow (hr k (List.mem_cons_self ..))
      rw [if_pos hb, ih hl fun k' hk' => by rw [hbit, hr k' (List.mem_cons_of_mem _ hk'), decide_eq_false (hne k' hk')]; rfl, hbit]
      simp [hb, or_assoc]
    · rw [if_neg hb, ih hl fun k' hk' => hr k' (List.mem_cons_of_mem _ hk')]
      simp [hb]

/-- The bits of a union over a list. -/
theorem testBit_foldl_lor (l : List Nat) (b : Nat → Bool) (f : Nat → Nat) (r q : Nat) :
    (l.foldl (fun acc k => if b k then Nat.lor acc (f k) else acc) r).testBit q = true ↔
      r.testBit q = true ∨ ∃ k ∈ l, b k = true ∧ (f k).testBit q = true := by
  induction l generalizing r with
  | nil => simp
  | cons k l ih =>
    rw [List.foldl, ih]
    by_cases hb : b k = true
    · simp [hb, Nat.testBit_or, or_assoc]
    · simp [hb]

/-! ### Rings -/

theorem Ring.n_cases (g : Ring) : g.n = 16 ∨ g.n = 32 := by
  unfold Ring.n
  split
  · exact .inl rfl
  · split
    · exact .inr rfl
    · exact .inl rfl

theorem Ring.n_of_null {g : Ring} (h : g.null = true) : g.n = 16 := by rw [Ring.n, if_pos h]

/-- Every entry under the null ring is the whole line. -/
theorem Ring.entry_of_null {g : Ring} (h : g.null = true) (tb i k : Nat) : g.entry tb i k = 0xFFFF := by
  exact if_pos h

theorem Ring.lanes_fit (g : Ring) : g.n * (1024 / g.n) = 1024 := by
  rcases g.n_cases with h | h <;> rw [h]

/-- R172's union, bit by bit. -/
theorem hasBit_tableUnion (g : Ring) (tb a b q : Nat) :
    hasBit (tableUnion g tb a b) q = true ↔ ∃ i < g.n, ∃ k < g.n, hasBit a i ∧ hasBit b k ∧ hasBit (g.entry tb i k) q := by
  have hrow : ∀ (l : List Nat) (r : Nat), (l.foldl (fun acc i => if hasBit a i then
      (List.range g.n).foldl (fun acc k => if hasBit b k then Nat.lor acc (g.entry tb i k) else acc) acc else acc) r).testBit q = true
      ↔ r.testBit q = true ∨ ∃ i ∈ l, hasBit a i = true ∧ ∃ k < g.n, hasBit b k = true ∧ (g.entry tb i k).testBit q = true := by
    intro l
    induction l with
    | nil => simp
    | cons i l ih =>
      intro r
      rw [List.foldl, ih]
      by_cases hb : hasBit a i = true
      · rw [if_pos hb, testBit_foldl_lor]
        simp [hb, or_assoc]
      · simp [hb]
  rw [hasBit_eq_testBit, tableUnion, hrow]
  simp only [Nat.zero_testBit, Bool.false_eq_true, false_or, List.mem_range, hasBit_eq_testBit]
  constructor
  · rintro ⟨i, hi, ha, k, hk, hb, he⟩
    exact ⟨i, hi, k, hk, ha, hb, he⟩
  · rintro ⟨i, hi, k, hk, ha, hb, he⟩
    exact ⟨i, hi, ha, k, hk, hb, he⟩

/-- The opposite position is its own opposite. -/
theorem opposite_opposite {n q : Nat} (hq : q < n) : (n - (n - q) % n) % n = q := by
  rcases Nat.eq_zero_or_pos q with rfl | h
  · rw [Nat.sub_zero, Nat.mod_self, Nat.sub_zero, Nat.mod_self]
  · rw [Nat.mod_eq_of_lt (by omega : n - q < n), Nat.mod_eq_of_lt (by omega), Nat.sub_sub_self hq.le]

/-- R175's negation, bit by bit. -/
theorem hasBit_negMask {n q : Nat} (m : Nat) (hq : q < n) : hasBit (negMask n m) q = hasBit m ((n - q) % n) := by
  have hn : 0 < n := by omega
  have hnd : ((List.range n).map fun k => (n - k) % n).Nodup := by
    refine (List.nodup_map_iff_inj_on List.nodup_range).2 fun x hx y hy hxy => ?_
    rw [← opposite_opposite (List.mem_range.1 hx), ← opposite_opposite (List.mem_range.1 hy)]
    exact congrArg (fun v => (n - v) % n) hxy
  rw [Bool.eq_iff_iff, hasBit_eq_testBit, negMask, testBit_foldl_two_pow _ _ hnd (by simp)]
  simp only [Nat.zero_testBit, Bool.false_eq_true, false_or, List.mem_range]
  constructor
  · rintro ⟨k, hk, hb, rfl⟩
    rwa [opposite_opposite hk]
  · intro h
    exact ⟨(n - q) % n, Nat.mod_lt _ hn, h, opposite_opposite hq⟩

/-! ### Set slots -/

section Slots
variable {s : State} {p : BitVec 3} {d : BitVec 5} {e a b : BitVec 7} {r : BitVec 2}

theorem maskLanes_holds (g : Ring) (f : Nat → Nat) : HoldsLanes (maskLanes g.n f) g.n (1024 / g.n) fun j => (f j, 0) :=
  packLanes_holds g.lanes_fit.le

/-- A bit of a lane of masks. -/
theorem hasBit_maskLanes (g : Ring) (f : Nat → Nat) {j q : Nat} (hj : j < 1024 / g.n) (hq : q < g.n) :
    hasBit (laneNat g.n (maskLanes g.n f) j) q = hasBit (f j) q := by
  rw [maskLanes_holds g f j hj, hasBit_eq_testBit, hasBit_eq_testBit, Nat.testBit_mod_two_pow, decide_eq_true hq, Bool.true_and]

/-- A two-operand set slot queues its masks. -/
theorem setOp3_masks {i : Instr} {f : Ring → Nat → Nat → Nat} (hi : exec i s = setOp3 f p d a b r s)
    (h : s.Clear p [] none false (s.vecVerdict [s.vA a, s.vB b] [s.vRow d])) {has : Nat → Nat → Prop}
    (hf : ∀ j < 1024 / (s.k.ring s.gen r.toNat).n, ∀ q < (s.k.ring s.gen r.toNat).n,
      hasBit (f (s.k.ring s.gen r.toNat) (laneNat (s.k.ring s.gen r.toNat).n (s.vec (s.vA a)) j)
        (laneNat (s.k.ring s.gen r.toNat).n (s.vec (s.vB b)) j)) q = true ↔ has j q) :
    ∃ img, exec i s = .next (s.putVec 2 (s.vRow d) allUnits img 0)
      ∧ ∀ j < 1024 / (s.k.ring s.gen r.toNat).n, ∀ q < (s.k.ring s.gen r.toNat).n,
        (hasBit (laneNat (s.k.ring s.gen r.toNat).n img j) q ↔ has j q) :=
  ⟨_, vecOp_image hi h, fun j hj q hq => by rw [← hf j hj q hq]; exact iff_of_eq (congrArg (· = true) (hasBit_maskLanes _ _ hj hq))⟩

/-- The image and flags of a one-operand set slot. -/
theorem setOp2_image {i : Instr} {lat : Nat} {f : Ring → Image → Image × Flags} (hi : exec i s = setOp2 lat f p e a r s)
    (h : s.Clear p [] none false (s.vecVerdict [s.vA a] [s.vD e])) :
    exec i s = .next (s.putVec lat (s.vD e) allUnits (f (s.k.ring s.gen r.toNat) (s.vec (s.vA a))).1
      (f (s.k.ring s.gen r.toNat) (s.vec (s.vA a))).2) :=
  vecOp_image hi h

theorem sneg_masks (h : s.Clear p [] none false (s.vecVerdict [s.vA a] [s.vD e])) :
    ∃ img, exec (.sneg p e a r) s = .next (s.putVec 2 (s.vD e) allUnits img 0)
      ∧ ∀ j < 1024 / (s.k.ring s.gen r.toNat).n, ∀ q < (s.k.ring s.gen r.toNat).n,
        (hasBit (laneNat (s.k.ring s.gen r.toNat).n img j) q ↔
          hasBit (laneNat (s.k.ring s.gen r.toNat).n (s.vec (s.vA a)) j)
            (((s.k.ring s.gen r.toNat).n - q) % (s.k.ring s.gen r.toNat).n)) :=
  ⟨_, setOp2_image (f := fun g x => (maskLanes g.n fun j => negMask g.n (laneNat g.n x j), 0)) (exec_sneg ..) h, fun j hj q hq => by rw [hasBit_maskLanes _ _ hj hq, hasBit_negMask _ hq]⟩

/-- Two sets share a position where their masks meet. -/
theorem land_ne_zero {n m m' : Nat} (hm : m < 2 ^ n) : Nat.land m m' ≠ 0 ↔ ∃ i < n, hasBit m i ∧ hasBit m' i := by
  constructor
  · intro h
    obtain ⟨i, hi⟩ := Nat.exists_testBit_of_ne_zero h
    have hand : (m.testBit i && m'.testBit i) = true := by rw [← Nat.testBit_and]; exact hi
    obtain ⟨hx, hy⟩ := Bool.and_eq_true_iff.1 hand
    have hlt : i < n := by
      by_contra hge
      rw [Nat.testBit_lt_two_pow (hm.trans_le (Nat.pow_le_pow_right Nat.two_pos (not_lt.1 hge)))] at hx
      exact absurd hx Bool.false_ne_true
    exact ⟨i, hlt, by rw [hasBit_eq_testBit, hx], by rw [hasBit_eq_testBit, hy]⟩
  · rintro ⟨i, -, hx, hy⟩ h0
    rw [hasBit_eq_testBit] at hx hy
    have hand : (m &&& m').testBit i = true := by rw [Nat.testBit_and, hx, hy]; rfl
    rw [show m &&& m' = 0 from h0, Nat.zero_testBit] at hand
    exact absurd hand Bool.false_ne_true

/-- R174's comparison: the whole line or nothing. -/
theorem hasBit_line {n q : Nat} (c : Prop) [Decidable c] (hq : q < n) : hasBit (if c then 2 ^ n - 1 else 0) q = true ↔ c := by
  rw [hasBit_eq_testBit]
  split
  · next h => simp [Nat.testBit_two_pow_sub_one, hq, h]
  · next h => simp [h]

end Slots

/-- The lane-by-lane set operations (R172-R175), position by position. -/
theorem setOperations (s : State) (p : BitVec 3) (d : BitVec 5) (a b : BitVec 7) (r : BitVec 2)
    (h : s.Clear p [] none false (s.vecVerdict [s.vA a, s.vB b] [s.vRow d])) :
    let g := s.k.ring s.gen r.toNat
    let x := laneNat g.n (s.vec (s.vA a))
    let y := laneNat g.n (s.vec (s.vB b))
    let union := fun (tb : Nat) (m n : Nat) (q : Nat) =>
      ∃ i < g.n, ∃ k < g.n, hasBit m i ∧ hasBit n k ∧ hasBit (g.entry tb i k) q
    let writes := fun (i : Instr) (dst : Nat) (has : Nat → Nat → Prop) =>
      ∃ img, exec i s = .next (s.putVec 2 dst allUnits img 0)
        ∧ ∀ j < 1024 / g.n, ∀ q < g.n, (hasBit (laneNat g.n img j) q ↔ has j q)
    writes (.sadd p d a b r) (s.vRow d) (fun j => union 0 (x j) (y j))
    ∧ writes (.ssub p d a b r) (s.vRow d) (fun j q =>
      ∃ i < g.n, ∃ k < g.n, hasBit (x j) i ∧ hasBit (y j) k ∧ hasBit (g.entry 0 i ((g.n - k) % g.n)) q)
    ∧ writes (.smul p d a b r) (s.vRow d) (fun j => union 1 (x j) (y j))
    ∧ writes (.sdiv p d a b r) (s.vRow d) (fun j => union 2 (x j) (y j))
    ∧ writes (.suni p d a b r) (s.vRow d) (fun j q => hasBit (x j) q ∨ hasBit (y j) q)
    ∧ writes (.sint p d a b r) (s.vRow d) (fun j q => hasBit (x j) q ∧ hasBit (y j) q)
    ∧ writes (.scmp p d a b r) (s.vRow d) (fun j _ => ∃ i < g.n, hasBit (x j) i ∧ hasBit (y j) i) := by
  intro g x y union writes
  refine ⟨setOp3_masks (exec_sadd ..) h fun j _ q _ => hasBit_tableUnion .., setOp3_masks (exec_ssub ..) h fun j _ q _ => ?sub,
    setOp3_masks (exec_smul ..) h fun j _ q _ => hasBit_tableUnion .., setOp3_masks (exec_sdiv ..) h fun j _ q _ => hasBit_tableUnion ..,
    setOp3_masks (exec_suni ..) h fun j _ q _ => ?uni, setOp3_masks (exec_sint ..) h fun j _ q _ => ?int,
    setOp3_masks (exec_scmp ..) h fun j _ q hq => ?cmp⟩
  case sub =>
    rw [hasBit_tableUnion]
    constructor
    · rintro ⟨i, hi, k, hk, hx, hy, he⟩
      have hn : 0 < g.n := Nat.zero_lt_of_lt hk
      rw [hasBit_negMask _ hk] at hy
      exact ⟨i, hi, (g.n - k) % g.n, Nat.mod_lt _ hn, hx, hy, by rwa [opposite_opposite hk]⟩
    · rintro ⟨i, hi, k, hk, hx, hy, he⟩
      have hn : 0 < g.n := Nat.zero_lt_of_lt hk
      exact ⟨i, hi, (g.n - k) % g.n, Nat.mod_lt _ hn, hx, by rwa [hasBit_negMask _ (Nat.mod_lt _ hn), opposite_opposite hk], he⟩
  case uni => simp only [hasBit_eq_testBit, x, y]; exact Nat.testBit_or .. ▸ Bool.or_eq_true_iff
  case int => simp only [hasBit_eq_testBit, x, y]; exact Nat.testBit_and .. ▸ Bool.and_eq_true_iff
  case cmp => exact (hasBit_line _ hq).trans (land_ne_zero (laneNat_lt ..))

end Sys2Proof.Machine
end

section
/-! PROOFS. Conversions between f32 and sets (spec 08 R162, R176, R177). -/

namespace Sys2Proof.Machine

/-! ### The order of values without the signs of zeros -/

/-- The place of a value among the infinities and the numbers (R144). -/
def Num.place : Num → ℤ ×ₗ ℚ
  | .nan => toLex (0, 0)
  | .inf neg => toLex (if neg then -1 else 1, 0)
  | .fin neg m e st => toLex (0, Num.value (.fin neg m e st))

/-- R144's comparison is the order of the places. -/
theorem Num.cmp_place {a b : Num} (ha : a ≠ .nan) (hb : b ≠ .nan) :
    (a.cmp false b < 0 ↔ a.place < b.place) ∧ (0 < a.cmp false b ↔ b.place < a.place) := by
  match a, b with
  | .inf x, .inf y => cases x <;> cases y <;> simp [Num.cmp, Num.place, Prod.Lex.toLex_lt_toLex]
  | .inf x, .fin y n f st' => cases x <;> simp [Num.cmp, Num.place, Prod.Lex.toLex_lt_toLex]
  | .fin x m e st, .inf y => cases y <;> simp [Num.cmp, Num.place, Prod.Lex.toLex_lt_toLex]
  | .fin x m e st, .fin y n f st' =>
    have hcmp : Num.cmp false (.fin x m e st) (.fin y n f st') = Num.gap x m e y n f := by
      have : Num.cmp false (.fin x m e st) (.fin y n f st')
          = if Num.gap x m e y n f = 0 then 0 else Num.gap x m e y n f := by
        simp only [Num.cmp, Bool.false_and, Bool.false_eq_true, if_false]
        rfl
      rw [this]
      split
      · next h => exact h.symm
      · rfl
    obtain ⟨hlt, hgt⟩ := Num.gap_sign x m e y n f st st'
    simp only [hcmp, hlt, hgt, Num.place, Prod.Lex.toLex_lt_toLex, lt_irrefl, false_or, true_and]

/-- A fold that keeps the element of the lesser key gives one of the elements, with the least key. -/
theorem foldl_least {α β : Type} [LinearOrder β] {op : α → α → α} {key : α → β} {P : α → Prop}
    (hop : ∀ a b, P a → P b → op a b = if key b < key a then b else a) (l : List α) (a : α) (h : ∀ x ∈ a :: l, P x) :
    l.foldl op a ∈ a :: l ∧ ∀ x ∈ a :: l, key (l.foldl op a) ≤ key x := by
  induction l generalizing a with
  | nil => exact ⟨List.mem_singleton_self a, fun x hx => (congrArg key (List.mem_singleton.1 hx)).ge⟩
  | cons b l ih =>
    have hpa := h a (by simp)
    have hpb := h b (by simp)
    rw [List.foldl, hop a b hpa hpb]
    split
    · next hlt =>
      obtain ⟨hmem, hle⟩ := ih b fun x hx => h x (List.mem_cons_of_mem _ hx)
      refine ⟨List.mem_cons_of_mem _ hmem, fun x hx => ?_⟩
      rcases List.mem_cons.1 hx with rfl | hx
      · exact (hle b (by simp)).trans hlt.le
      · exact hle x hx
    · next hge =>
      obtain ⟨hmem, hle⟩ := ih a fun x hx => h x (by
        rcases List.mem_cons.1 hx with rfl | hx <;> simp [*])
      refine ⟨?_, fun x hx => ?_⟩
      · rcases List.mem_cons.1 hmem with hm | hm <;> simp [hm]
      · rcases List.mem_cons.1 hx with rfl | hx
        · exact hle x (by simp)
        · rcases List.mem_cons.1 hx with rfl | hx
          · exact (hle a (by simp)).trans (not_lt.1 hge)
          · exact hle x (List.mem_cons_of_mem _ hx)

/-- Lanes that raise one flag, or none. -/
theorem lanesFlags_one {f : Nat → Nat × Flags} {x : Flags} (n : Nat) (hf : ∀ j < n, (f j).2 = 0 ∨ (f j).2 = x) :
    ((∀ j < n, (f j).2 = 0) ∧ lanesFlags f n = 0) ∨ ((∃ j < n, (f j).2 = x) ∧ lanesFlags f n = x) := by
  induction n with
  | zero => exact .inl ⟨fun j hj => absurd hj (Nat.not_lt_zero j), rfl⟩
  | succ n ih =>
    have hstep : lanesFlags f (n + 1) = lanesFlags f n ||| (f n).2 := by
      simp only [lanesFlags, List.range_succ, List.foldl_append, List.foldl]
    rw [hstep]
    rcases ih (fun j hj => hf j (by omega)) with ⟨hz, he⟩ | ⟨⟨j, hj, hx⟩, he⟩
    · rcases hf n (by omega) with hn | hn
      · refine .inl ⟨fun j hj => ?_, by rw [he, hn]; rfl⟩
        rcases Nat.lt_succ_iff_lt_or_eq.1 hj with h | rfl
        · exact hz j h
        · exact hn
      · exact .inr ⟨⟨n, by omega, hn⟩, by rw [he, hn]; exact BitVec.zero_or⟩
    · refine .inr ⟨⟨j, by omega, hx⟩, ?_⟩
      rcases hf n (by omega) with hn | hn
      · rw [he, hn]; exact BitVec.or_zero
      · rw [he, hn, BitVec.or_self]

/-! ### The position of a value (R176) -/

theorem findPos_bounds (g : Ring) (x : Num) (k i : Nat) (hi : 0 < i) (hk : i + k = g.n / 4) :
    0 < findPos g x k i ∧ findPos g x k i < g.n / 2 := by
  induction k generalizing i with
  | zero => rw [findPos]; rcases g.n_cases with h | h <;> rw [h] <;> omega
  | succ k ih =>
    have hn : g.n / 2 = 2 * (g.n / 4) := by rcases g.n_cases with h | h <;> rw [h]
    have hnext := ih (i + 1) (by omega) (by omega)
    rw [findPos]
    split_ifs
    · exact hnext
    · omega
    · omega
    · exact hnext

/-- What makes a position that of x: at an even one its value is x, at an odd one x lies between the values around it. -/
def AtPosition (g : Ring) (x : Num) (q : Nat) : Prop :=
  (q % 2 = 0 → x.cmp false (fmtF32.decode (g.val (q / 2))) = 0)
  ∧ (q % 2 = 1 → (q = 1 ∨ 0 < x.cmp false (fmtF32.decode (g.val (q / 2))))
    ∧ (q + 1 = g.n / 2 ∨ x.cmp false (fmtF32.decode (g.val ((q + 1) / 2))) < 0))

theorem findPos_at {g : Ring} (hv : ∀ i, 0 < i → i < g.n / 4 → fmtF32.decode (g.val i) ≠ .nan) (x : Num) (k i : Nat) (hi : 0 < i)
    (hk : i + k = g.n / 4) (hprev : i = 1 ∨ 0 < x.cmp false (fmtF32.decode (g.val (i - 1)))) :
    AtPosition g x (findPos g x k i) := by
  have hn : g.n / 2 = 2 * (g.n / 4) := by rcases g.n_cases with h | h <;> rw [h]
  have hodd : ∀ j, 0 < j → (j = 1 ∨ 0 < x.cmp false (fmtF32.decode (g.val (j - 1)))) →
      (2 * j = g.n / 2 ∨ x.cmp false (fmtF32.decode (g.val j)) < 0) → AtPosition g x (2 * j - 1) := by
    intro j hj hp hnext
    refine ⟨fun h => by omega, fun _ => ⟨?_, ?_⟩⟩
    · rw [show (2 * j - 1) / 2 = j - 1 by omega]
      exact hp.imp (fun h => by omega) id
    · rw [show (2 * j - 1 + 1) / 2 = j by omega]
      exact hnext.imp (fun h => by omega) id
  induction k generalizing i with
  | zero =>
    rw [findPos, show g.n / 2 - 1 = 2 * i - 1 by omega]
    exact hodd i hi hprev (.inl (by omega))
  | succ k ih =>
    have hnn := hv i hi (by omega)
    rw [findPos]
    rw [if_neg (by rw [Num.isNan_iff]; exact hnn)]
    split_ifs with h0 hlt
    · exact ⟨fun _ => by rwa [Nat.mul_div_cancel_left _ Nat.two_pos], fun h => by omega⟩
    · exact hodd i hi hprev (.inr hlt)
    · exact ih (i + 1) (by omega) (by omega) (.inr (by rw [Nat.add_sub_cancel]; omega))

/-! ### SFROM -/

theorem fromMask_fin {g : Ring} (hg : g.null = false) {c : Nat} {neg : Bool} {m : Nat} {e : Int} {st : Bool}
    (hc : fmtF32.decode c = .fin neg m e st) : fromMask g c = if m = 0 then 1
      else 2 ^ (if neg then g.n - findPos g (.fin false m e false) (g.n / 4 - 1) 1 else findPos g (.fin false m e false) (g.n / 4 - 1) 1) := by
  simp only [fromMask, hg, hc, Bool.false_eq_true, if_false]

theorem fromMask_inf {g : Ring} (hg : g.null = false) {c : Nat} {neg : Bool}
    (hc : fmtF32.decode c = .inf neg) : fromMask g c = 2 ^ (g.n / 2) := by
  simp only [fromMask, hg, hc, Bool.false_eq_true, if_false]

theorem fromMask_whole {g : Ring} {c : Nat} (h : g.null = true ∨ fmtF32.decode c = .nan) : fromMask g c = 2 ^ g.n - 1 := by
  unfold fromMask
  by_cases hg : g.null = true
  · simp [hg]
  · simp [h.resolve_left hg, hg]

theorem fromMask_lt (g : Ring) (c : Nat) : fromMask g c < 2 ^ g.n := by
  have hn := g.n_cases
  have hpos := Nat.two_pow_pos g.n
  by_cases hw : g.null = true ∨ fmtF32.decode c = .nan
  · rw [fromMask_whole hw]; omega
  · obtain ⟨hg, hc⟩ := not_or.1 hw
    rw [Bool.not_eq_true] at hg
    cases hd : fmtF32.decode c with
    | nan => exact absurd hd hc
    | inf neg => rw [fromMask_inf hg hd]; exact Nat.pow_lt_pow_right (by norm_num) (by omega)
    | fin neg m e st =>
      have hb := findPos_bounds g (.fin false m e false) (g.n / 4 - 1) 1 (by omega) (by omega)
      rw [fromMask_fin hg hd]
      split
      · exact Nat.one_lt_two_pow (by omega)
      · exact Nat.pow_lt_pow_right (by norm_num) (by split <;> omega)

theorem evenPoint_iff {n m : Nat} : evenPoint n m = true ↔ ∃ i < n / 2, m = 2 ^ (2 * i) := by
  simp [evenPoint]

section Slots
variable {s : State} {p : BitVec 3} {d a : BitVec 7} {r : BitVec 2}

/-- Lane j of SFROM: the mask of source j, with NXT where it is no single even position. -/
def sfromLane (g : Ring) (u : Image) (j : Nat) : Nat × Flags :=
  (fromMask g (unitOf u j).toNat, if evenPoint g.n (fromMask g (unitOf u j).toNat) then 0 else flagNXT)

theorem sfrom_executes (h : s.Clear p [] none false (s.vecVerdict [s.vA a] [s.vD d])) :
    let g := s.k.ring s.gen r.toNat
    exec (.sfrom p d a r) s = .next (s.putVec 2 (s.vD d) allUnits
      (BitVec.ofNat 1024 (packLanes g.n (sfromLane g (s.vec (s.vA a))) 32).1) (lanesFlags (sfromLane g (s.vec (s.vA a))) 32)) := by
  intro g
  rw [← packLanes_flags g.n]
  exact setOp2_image (f := fun g x => (BitVec.ofNat 1024 (packLanes g.n (sfromLane g x) 32).1, (packLanes g.n (sfromLane g x) 32).2))
    (exec_sfrom ..) h

/-- SFROM's flags: NXT where some lane is no single even position (R176). -/
theorem sfrom_flags {g : Ring} {u img : Image} (hl : ∀ j < 32, laneNat g.n img j = fromMask g (unitOf u j).toNat) :
    (lanesFlags (sfromLane g u) 32 = 0 ∧ ∀ j < 32, ∃ i < g.n / 2, laneNat g.n img j = 2 ^ (2 * i))
    ∨ lanesFlags (sfromLane g u) 32 = flagNXT ∧ ∃ j < 32, ∀ i < g.n / 2, laneNat g.n img j ≠ 2 ^ (2 * i) := by
  have hflag : ∀ j, (sfromLane g u j).2 = if evenPoint g.n (fromMask g (unitOf u j).toNat) then 0 else flagNXT := fun _ => rfl
  have hone : ∀ j < 32, (sfromLane g u j).2 = 0 ∨ (sfromLane g u j).2 = flagNXT := by
    intro j _
    rw [hflag]
    split
    · exact .inl rfl
    · exact .inr rfl
  have hnz : flagNXT ≠ 0 := by decide
  rcases lanesFlags_one 32 hone with ⟨hz, he⟩ | ⟨⟨j, hj, hx⟩, he⟩
  · refine .inl ⟨he, fun j hj => ?_⟩
    have h0 := hz j hj
    rw [hflag] at h0
    rw [hl j hj, ← evenPoint_iff]
    by_contra hne
    exact hnz (by rwa [if_neg hne] at h0)
  · refine .inr ⟨he, j, hj, fun i hi he' => ?_⟩
    rw [hflag, if_pos (evenPoint_iff.2 ⟨i, hi, (hl j hj) ▸ he'⟩)] at hx
    exact hnz hx.symm

end Slots
end Sys2Proof.Machine
end

section
/-! PROOFS. What SFROM and SBND write, lane by lane (spec 08 R162, R176, R177). -/

namespace Sys2Proof.Machine

/-- The cases of an f32's mask (R176). -/
theorem fromMask_cases (g : Ring) (c : Nat) :
    (g.null = true ∨ fmtF32.decode c = .nan → fromMask g c = 2 ^ g.n - 1)
    ∧ (g.null = false → ∀ neg, fmtF32.decode c = .inf neg → fromMask g c = 2 ^ (g.n / 2))
    ∧ (g.null = false → ∀ neg e st, fmtF32.decode c = .fin neg 0 e st → fromMask g c = 1)
    ∧ (g.null = false → (∀ i, 0 < i → i < g.n / 4 → fmtF32.decode (g.val i) ≠ .nan) →
      ∀ neg w e st, fmtF32.decode c = .fin neg w e st → w ≠ 0 →
      ∃ q, 0 < q ∧ q < g.n / 2 ∧ fromMask g c = 2 ^ (if neg then g.n - q else q) ∧ AtPosition g (.fin false w e false) q) := by
  have hn := g.n_cases
  refine ⟨fromMask_whole, fun hg neg hc => fromMask_inf hg hc, fun hg neg e st hc => ?_, fun hg hv neg w e st hc hw => ?_⟩
  · rw [fromMask_fin hg hc, if_pos rfl]
  · obtain ⟨hpos, hlt⟩ := findPos_bounds g (.fin false w e false) (g.n / 4 - 1) 1 (by omega) (by omega)
    exact ⟨_, hpos, hlt, by rw [fromMask_fin hg hc, if_neg hw], findPos_at hv _ _ 1 (by omega) (by omega) (.inl rfl)⟩

/-! ### Codes of bounds (R162) -/

/-- A code of a finite f32. -/
def F32Finite (c : Nat) : Prop := c < 2 ^ 32 ∧ c / 2 ^ 23 % 2 ^ 8 ≠ 255

theorem F32Finite.decode {c : Nat} (h : F32Finite c) : ∃ neg m e, fmtF32.decode c = .fin neg m e false := by
  have he : ¬ (c / 2 ^ fmtF32.mb % 2 ^ fmtF32.eb = 2 ^ fmtF32.eb - 1) := h.2
  unfold FloatFmt.decode
  dsimp only
  rw [decide_eq_false he, Bool.and_false, show decide (fmtF32.kind = .nanOnly) = false from rfl]
  simp only [Bool.false_eq_true, if_false, Bool.false_and]
  split
  · exact ⟨_, _, _, rfl⟩
  · exact ⟨_, _, _, rfl⟩

theorem F32Finite.of_decode {c : Nat} (hc : c < 2 ^ 32) {neg : Bool} {m : Nat} {e : Int} {st : Bool}
    (h : fmtF32.decode c = .fin neg m e st) : F32Finite c := by
  refine ⟨hc, fun he => ?_⟩
  have he' : c / 2 ^ fmtF32.mb % 2 ^ fmtF32.eb = 2 ^ fmtF32.eb - 1 := he
  unfold FloatFmt.decode at h
  dsimp only at h
  rw [decide_eq_true he', show decide (fmtF32.kind = .ieee) = true from rfl, Bool.and_self, if_pos rfl] at h
  split at h <;> exact absurd h (by simp)

theorem F32Finite.zero : F32Finite 0 := ⟨by norm_num, by norm_num⟩

theorem F32Finite.posCode {c : Nat} (h : F32Finite c) : F32Finite (posCode c) := by
  unfold Machine.posCode
  split
  · exact .zero
  · exact h

theorem F32Finite.negCode {c : Nat} (h : F32Finite c) : F32Finite (negCode c) := by
  obtain ⟨hc, he⟩ := h
  unfold Machine.negCode
  split
  · exact .zero
  · exact ⟨Nat.mod_lt _ (by norm_num), by omega⟩

theorem Ring.val_lt (g : Ring) (i : Nat) : g.val i < 2 ^ 32 := Nat.mod_lt _ (by norm_num)

section Hulls
variable {g : Ring} (hv : ∀ i, 0 < i → i < g.n / 4 → F32Finite (g.val i))
include hv

theorem pointCode_finite {q : Nat} (he : q % 2 = 0) (hq : q ≤ g.n) (hm : q ≠ g.n / 2) : F32Finite (pointCode g q) := by
  have hn := g.n_cases
  unfold pointCode
  dsimp only
  split_ifs with h0 hlt
  · exact .zero
  · have hpos : q ≠ 0 := fun h => h0 (by rw [h, Nat.zero_mod])
    exact (hv _ (by omega) (by omega)).posCode
  · have hne : q ≠ g.n := fun h => h0 (by rw [h, Nat.mod_self])
    exact (hv _ (by omega) (by omega)).negCode

/-- A hull's lower bound is finite or -infinity, its upper one finite or +infinity. -/
theorem hull_bounds {q : Nat} (hq : q < g.n) :
    (F32Finite (hull g q).1 ∨ (hull g q).1 = 0xFF800000) ∧ (F32Finite (hull g q).2 ∨ (hull g q).2 = 0x7F800000) := by
  have hn := g.n_cases
  unfold hull
  dsimp only
  split_ifs with h1 h2 h3 h4
  · exact ⟨.inr rfl, .inr rfl⟩
  · exact ⟨.inl (pointCode_finite hv h2 hq.le h1), .inl (pointCode_finite hv h2 hq.le h1)⟩
  · exact ⟨.inl (pointCode_finite hv (by omega) (by omega) (by omega)), .inr rfl⟩
  · exact ⟨.inr rfl, .inl (pointCode_finite hv (by omega) (by omega) (by omega))⟩
  · exact ⟨.inl (pointCode_finite hv (by omega) (by omega) (by omega)), .inl (pointCode_finite hv (by omega) (by omega) (by omega))⟩

end Hulls

/-! ### The least and the greatest bound (R177) -/

/-- The place of the value of a code. -/
def codePlace (c : Nat) : ℤ ×ₗ ℚ := (fmtF32.decode c).place
/-- A code that is no NaN. -/
def NoNan (c : Nat) : Prop := c < 2 ^ 32 ∧ fmtF32.decode c ≠ .nan

theorem decode_negInf : fmtF32.decode 0xFF800000 = .inf true := by decide
theorem decode_posInf : fmtF32.decode 0x7F800000 = .inf false := by decide

theorem F32Finite.noNan {c : Nat} (h : F32Finite c) : NoNan c := by
  obtain ⟨neg, m, e, hd⟩ := h.decode
  exact ⟨h.1, by rw [hd]; exact Num.noConfusion⟩

theorem noNan_lower {c : Nat} (h : F32Finite c ∨ c = 0xFF800000) : NoNan c ∧ codePlace c < codePlace 0x7F800000 := by
  rcases h with h | rfl
  · obtain ⟨neg, m, e, hd⟩ := h.decode
    exact ⟨h.noNan, by simp [codePlace, hd, decode_posInf, Num.place, Prod.Lex.toLex_lt_toLex]⟩
  · exact ⟨⟨by norm_num, by rw [decode_negInf]; exact Num.noConfusion⟩,
      by simp [codePlace, decode_negInf, decode_posInf, Num.place, Prod.Lex.toLex_lt_toLex]⟩

theorem noNan_upper {c : Nat} (h : F32Finite c ∨ c = 0x7F800000) : NoNan c ∧ codePlace 0xFF800000 < codePlace c := by
  rcases h with h | rfl
  · obtain ⟨neg, m, e, hd⟩ := h.decode
    exact ⟨h.noNan, by simp [codePlace, hd, decode_negInf, Num.place, Prod.Lex.toLex_lt_toLex]⟩
  · exact ⟨⟨by norm_num, by rw [decode_posInf]; exact Num.noConfusion⟩,
      by simp [codePlace, decode_negInf, decode_posInf, Num.place, Prod.Lex.toLex_lt_toLex]⟩

theorem minCode_eq {a b : Nat} (ha : NoNan a) (hb : NoNan b) : minCode a b = if codePlace b < codePlace a then b else a := by
  rw [minCode]
  exact if_congr (Num.cmp_place hb.2 ha.2).1 rfl rfl

theorem maxCode_eq {a b : Nat} (ha : NoNan a) (hb : NoNan b) :
    maxCode a b = if OrderDual.toDual (codePlace b) < OrderDual.toDual (codePlace a) then b else a := by
  rw [maxCode]
  exact if_congr (Num.cmp_place ha.2 hb.2).1 rfl rfl

theorem any_nan {bs : List Nat} (h : ∀ b ∈ bs, NoNan b) : bs.any (fun b => (fmtF32.decode b).isNan) = false := by
  simp only [List.any_eq_false, Num.isNan_iff]
  exact fun b hb => (h b hb).2

/-- The least of lower bounds is one of them. -/
theorem boundOf_lower {bs : List Nat} (hne : bs ≠ []) (h : ∀ b ∈ bs, F32Finite b ∨ b = 0xFF800000) :
    boundOf false bs ∈ bs ∧ ∀ b ∈ bs, codePlace (boundOf false bs) ≤ codePlace b := by
  have hn : ∀ b ∈ bs, NoNan b := fun b hb => (noNan_lower (h b hb)).1
  have hinf : NoNan 0x7F800000 := (noNan_upper (.inr rfl)).1
  obtain ⟨hmem, hle⟩ := foldl_least (op := minCode) (key := codePlace) (P := NoNan) (fun _ _ => minCode_eq) bs 0x7F800000
    fun x hx => (List.mem_cons.1 hx).elim (fun e => e ▸ hinf) (hn x)
  rw [boundOf, any_nan hn, if_neg Bool.false_ne_true, if_neg Bool.false_ne_true]
  obtain ⟨b, hb⟩ := List.exists_mem_of_ne_nil bs hne
  have hlt := (hle b (List.mem_cons_of_mem _ hb)).trans_lt (noNan_lower (h b hb)).2
  refine ⟨(List.mem_cons.1 hmem).resolve_left fun e => ?_, fun b hb => hle b (List.mem_cons_of_mem _ hb)⟩
  rw [e] at hlt
  exact lt_irrefl _ hlt

/-- The greatest of upper bounds is one of them. -/
theorem boundOf_upper {bs : List Nat} (hne : bs ≠ []) (h : ∀ b ∈ bs, F32Finite b ∨ b = 0x7F800000) :
    boundOf true bs ∈ bs ∧ ∀ b ∈ bs, codePlace b ≤ codePlace (boundOf true bs) := by
  have hn : ∀ b ∈ bs, NoNan b := fun b hb => (noNan_upper (h b hb)).1
  have hinf : NoNan 0xFF800000 := (noNan_lower (.inr rfl)).1
  obtain ⟨hmem, hle⟩ := foldl_least (op := maxCode) (key := fun c => OrderDual.toDual (codePlace c)) (P := NoNan)
    (fun _ _ => maxCode_eq) bs 0xFF800000 fun x hx => (List.mem_cons.1 hx).elim (fun e => e ▸ hinf) (hn x)
  rw [boundOf, any_nan hn, if_neg Bool.false_ne_true, if_pos rfl]
  obtain ⟨b, hb⟩ := List.exists_mem_of_ne_nil bs hne
  have hlt := (noNan_upper (h b hb)).2.trans_le (OrderDual.toDual_le_toDual.1 (hle b (List.mem_cons_of_mem _ hb)))
  refine ⟨(List.mem_cons.1 hmem).resolve_left fun e => ?_,
    fun b hb => OrderDual.toDual_le_toDual.1 (hle b (List.mem_cons_of_mem _ hb))⟩
  rw [e] at hlt
  exact lt_irrefl _ hlt

/-- R177's bounds of a set that is not empty, under a ring of finite values. -/
theorem bounds_spec {g : Ring} (hg : g.null = false) (hv : ∀ i, 0 < i → i < g.n / 4 → F32Finite (g.val i)) {m : Nat}
    (hm : m ≠ 0) (hlt : m < 2 ^ g.n) :
    (∃ q < g.n, hasBit m q ∧ (bounds g m).1 = (hull g q).1) ∧ (∃ q < g.n, hasBit m q ∧ (bounds g m).2 = (hull g q).2)
    ∧ ∀ q < g.n, hasBit m q → (fmtF32.decode (bounds g m).1).cmp false (fmtF32.decode (hull g q).1) ≤ 0
      ∧ 0 ≤ (fmtF32.decode (bounds g m).2).cmp false (fmtF32.decode (hull g q).2) := by
  have hb : bounds g m = (boundOf false ((((List.range g.n).filter (hasBit m)).map (hull g)).map Prod.fst),
      boundOf true ((((List.range g.n).filter (hasBit m)).map (hull g)).map Prod.snd)) := by
    rw [bounds, if_neg hm, hg, if_neg Bool.false_ne_true]
  rw [hb]
  simp only [List.map_map]
  have hmem : ∀ q, q ∈ (List.range g.n).filter (hasBit m) ↔ q < g.n ∧ hasBit m q = true := by simp
  have hne : (List.range g.n).filter (hasBit m) ≠ [] := by
    obtain ⟨q, hq, hbit, -⟩ := (land_ne_zero (m' := m) hlt).1 (by rwa [show Nat.land m m = m &&& m from rfl, Nat.and_self])
    exact List.ne_nil_of_mem ((hmem q).2 ⟨hq, hbit⟩)
  generalize (List.range g.n).filter (hasBit m) = l at hmem hne
  have hlo := boundOf_lower (bs := l.map (Prod.fst ∘ hull g)) (by simpa using hne) fun b hb => by
    obtain ⟨q, hq, rfl⟩ := List.mem_map.1 hb
    exact (hull_bounds hv ((hmem q).1 hq).1).1
  have hhi := boundOf_upper (bs := l.map (Prod.snd ∘ hull g)) (by simpa using hne) fun b hb => by
    obtain ⟨q, hq, rfl⟩ := List.mem_map.1 hb
    exact (hull_bounds hv ((hmem q).1 hq).1).2
  obtain ⟨ql, hql, hel⟩ := List.mem_map.1 hlo.1
  obtain ⟨qh, hqh, heh⟩ := List.mem_map.1 hhi.1
  obtain ⟨hqln, hqlb⟩ := (hmem ql).1 hql
  obtain ⟨hqhn, hqhb⟩ := (hmem qh).1 hqh
  refine ⟨⟨ql, hqln, hqlb, hel.symm⟩, ⟨qh, hqhn, hqhb, heh.symm⟩, fun q hq hbit => ?_⟩
  have hmq := (hmem q).2 ⟨hq, hbit⟩
  obtain ⟨hnl, hnh⟩ := hull_bounds hv hq
  have hl := (noNan_lower (hull_bounds hv hqln).1).1
  have hh := (noNan_upper (hull_bounds hv hqhn).2).1
  rw [← hel, ← heh]
  rw [← hel] at hlo
  rw [← heh] at hhi
  constructor
  · exact not_lt.1 (mt (Num.cmp_place hl.2 (noNan_lower hnl).1.2).2.1 (not_lt.2 (hlo.2 _ (List.mem_map_of_mem hmq))))
  · exact not_lt.1 (mt (Num.cmp_place hh.2 (noNan_upper hnh).1.2).1.1 (not_lt.2 (hhi.2 _ (List.mem_map_of_mem hmq))))

end Sys2Proof.Machine
end

section
/-! PROOFS. Arcs of positions (spec 08 R166, R178, R179). -/

namespace Sys2Proof.Machine

/-- The steps from position st on to position q, cyclically. -/
def stepsTo (n st q : Nat) : Nat := (q + n - st) % n
/-- The positions of a mask lie in the arc. -/
def Covers (n m st len : Nat) : Prop := ∀ q < n, hasBit m q → stepsTo n st q < len

section Steps
variable {n st q i : Nat}

theorem stepsTo_lt (hst : st < n) : stepsTo n st q < n := Nat.mod_lt _ (by omega)

/-- Going those steps from st on arrives. -/
theorem add_stepsTo (hst : st < n) (hq : q < n) : (st + stepsTo n st q) % n = q := by
  unfold stepsTo
  rcases Nat.lt_or_ge q st with h | h
  · rw [Nat.mod_eq_of_lt (by omega : q + n - st < n), show st + (q + n - st) = q + n by omega, Nat.add_mod_right, Nat.mod_eq_of_lt hq]
  · rw [show q + n - st = (q - st) + n by omega, Nat.add_mod_right, Nat.mod_eq_of_lt (by omega : q - st < n),
      Nat.add_sub_cancel' h, Nat.mod_eq_of_lt hq]

theorem stepsTo_add (hst : st < n) (hi : i < n) : stepsTo n st ((st + i) % n) = i := by
  unfold stepsTo
  rcases Nat.lt_or_ge (st + i) n with h | h
  · rw [Nat.mod_eq_of_lt h, show st + i + n - st = i + n by omega, Nat.add_mod_right, Nat.mod_eq_of_lt hi]
  · rw [Nat.mod_eq_sub_mod h, Nat.mod_eq_of_lt (by omega : st + i - n < n), show st + i - n + n - st = i by omega,
      Nat.mod_eq_of_lt hi]

end Steps

/-! ### Gaps -/

theorem gapFrom_spec (n m q k : Nat) : gapFrom n m q k ≤ k ∧ (∀ i < gapFrom n m q k, hasBit m ((q + i) % n) = false)
    ∧ (gapFrom n m q k < k → hasBit m ((q + gapFrom n m q k) % n) = true) := by
  induction k generalizing q with
  | zero => exact ⟨le_refl _, fun i hi => absurd hi (Nat.not_lt_zero i), fun h => absurd h (lt_irrefl _)⟩
  | succ k ih =>
    rw [gapFrom]
    split
    · next h => exact ⟨Nat.zero_le _, fun i hi => absurd hi (Nat.not_lt_zero i), fun _ => h⟩
    · next h =>
      obtain ⟨hle, habs, hend⟩ := ih (q + 1)
      refine ⟨by omega, fun i hi => ?_, fun hlt => ?_⟩
      · cases i with
        | zero => exact eq_false_of_ne_true h
        | succ i =>
          have := habs i (by omega)
          rwa [show q + 1 + i = q + (i + 1) by omega] at this
      · have := hend (by omega)
        rwa [show q + 1 + gapFrom n m (q + 1) k = q + (1 + gapFrom n m (q + 1) k) by omega] at this

/-- A gap of which the end is known. -/
theorem gapFrom_eq {n m q k c : Nat} (hc : c < k) (habs : ∀ i < c, hasBit m ((q + i) % n) = false)
    (hend : hasBit m ((q + c) % n) = true) : gapFrom n m q k = c := by
  obtain ⟨-, habs', hend'⟩ := gapFrom_spec n m q k
  rcases Nat.lt_trichotomy (gapFrom n m q k) c with h | h | h
  · rw [habs _ h] at hend'
    exact absurd (hend' (h.trans hc)) Bool.false_ne_true
  · exact h
  · rw [habs' _ h] at hend
    exact absurd hend Bool.false_ne_true

/-- The longest gap that ends before position st. -/
def gapBefore (n m st : Nat) : Nat :=
  ((List.range n).map (fun q => if (q + gapFrom n m q n) % n = st then gapFrom n m q n else 0)).foldl max 0

theorem foldl_max_spec (l : List Nat) (a : Nat) : (l.foldl max a ∈ a :: l) ∧ ∀ x ∈ a :: l, x ≤ l.foldl max a := by
  have h := foldl_least (op := max) (key := fun x : Nat => OrderDual.toDual x) (P := fun _ => True)
    (fun a b _ _ => by
      rcases Nat.lt_or_ge a b with hlt | hge
      · rw [Nat.max_eq_right hlt.le, if_pos (OrderDual.toDual_lt_toDual.2 hlt)]
      · rw [Nat.max_eq_left hge, if_neg (fun h' => absurd (OrderDual.toDual_lt_toDual.1 h') (not_lt.2 hge))]) l a (fun _ _ => trivial)
  exact ⟨h.1, fun x hx => OrderDual.toDual_le_toDual.1 (h.2 x hx)⟩

section Gaps
variable {n m st : Nat} (hst : st < n) (hbit : hasBit m st = true)
include hst hbit

omit hst hbit in
/-- The positions of the gap before st hold nothing. -/
theorem gapBefore_absent {i : Nat} (hi : 0 < i) (hle : i ≤ gapBefore n m st) : hasBit m ((st + n - i) % n) = false := by
  have hmem := (foldl_max_spec ((List.range n).map fun q => if (q + gapFrom n m q n) % n = st then gapFrom n m q n else 0) 0).1
  change gapBefore n m st ∈ _ at hmem
  rcases List.mem_cons.1 hmem with h0 | hmem
  · omega
  · obtain ⟨q, hq, he⟩ := List.mem_map.1 hmem
    rw [List.mem_range] at hq
    by_cases hend : (q + gapFrom n m q n) % n = st
    · rw [if_pos hend] at he
      obtain ⟨hgn, habs, -⟩ := gapFrom_spec n m q n
      have hpos := habs (gapFrom n m q n - i) (by omega)
      rw [← hend, he]
      generalize gapBefore n m st = c at *
      rw [he] at hpos hgn
      have hi' : (q + c) % n + n - i = (q + c) % n + (n - i) := by omega
      rw [hi', Nat.mod_add_mod, show q + c + (n - i) = q + (c - i) + n by omega, Nat.add_mod_right]
      exact hpos
    · rw [if_neg hend] at he
      omega

/-- The gap before st is the longest run of absent positions there. -/
theorem le_gapBefore {c : Nat} (hc : c < n) (habs : ∀ i, 0 < i → i ≤ c → hasBit m ((st + n - i) % n) = false) :
    c ≤ gapBefore n m st := by
  have hn : 0 < n := by omega
  have hgap : gapFrom n m ((st + n - c) % n) n = c := by
    refine gapFrom_eq hc (fun i hi => ?_) ?_
    · rw [Nat.mod_add_mod, show st + n - c + i = st + n - (c - i) by omega]
      exact habs (c - i) (by omega) (by omega)
    · rw [Nat.mod_add_mod, show st + n - c + c = st + n by omega, Nat.add_mod_right, Nat.mod_eq_of_lt hst]
      exact hbit
  have hend : ((st + n - c) % n + c) % n = st := by
    rw [Nat.mod_add_mod, show st + n - c + c = st + n by omega, Nat.add_mod_right, Nat.mod_eq_of_lt hst]
  refine (foldl_max_spec _ 0).2 c (List.mem_cons_of_mem _ (List.mem_map.2 ⟨(st + n - c) % n, List.mem_range.2 (Nat.mod_lt _ hn), ?_⟩))
  rw [hgap, if_pos hend]

theorem gapBefore_lt : gapBefore n m st < n := by
  by_contra h
  have := gapBefore_absent (n := n) (m := m) (st := st) (i := n) (by omega) (not_lt.1 h)
  rw [Nat.add_sub_cancel, Nat.mod_eq_of_lt hst, hbit] at this
  exact absurd this (by simp)

omit hbit in
/-- The arc from st to the gap before it covers the mask. -/
theorem covers_gapBefore : Covers n m st (n - gapBefore n m st) := by
  intro q hq hb
  by_contra h
  have hs := stepsTo_lt (q := q) hst
  have := gapBefore_absent (n := n) (m := m) (st := st) (i := n - stepsTo n st q) (by omega) (by omega)
  rw [show st + n - (n - stepsTo n st q) = st + stepsTo n st q by omega, add_stepsTo hst hq, hb] at this
  exact absurd this (by simp)

end Gaps

/-! ### The shortest arc (R178) -/

/-- A position of the mask after an absent one. -/
def startsArc (n m st : Nat) : Bool := hasBit m st && !hasBit m ((st + n - 1) % n)

theorem startsArc_iff {n m st : Nat} : startsArc n m st = true ↔ hasBit m st = true ∧ hasBit m ((st + n - 1) % n) = false := by
  simp [startsArc]

/-- An arc that covers the mask is no shorter than the one of some start, and starts there where it is as short. -/
theorem exists_start_of_covers {n m st len : Nat} (hst : st < n) (hne : ∃ q < n, hasBit m q = true)
    (habs : ∃ q < n, hasBit m q = false) (hcov : Covers n m st len) :
    ∃ st' < n, startsArc n m st' = true ∧ (n - gapBefore n m st' < len ∨ n - gapBefore n m st' = len ∧ st' = st) := by
  classical
  obtain ⟨q, hq, hb⟩ := hne
  have hn : 0 < n := by omega
  -- the arc may be taken from an absent position's successor, so that it is shorter than the ring
  obtain ⟨st0, len0, hst0, hlt0, hcov0, hle0⟩ : ∃ st0 len0, st0 < n ∧ len0 < n ∧ Covers n m st0 len0
      ∧ (len0 < len ∨ len0 = len ∧ st0 = st) := by
    rcases Nat.lt_or_ge len n with h | h
    · exact ⟨st, len, hst, h, hcov, .inr ⟨rfl, rfl⟩⟩
    · obtain ⟨a, ha, hab⟩ := habs
      have hs : (a + 1) % n < n := Nat.mod_lt _ hn
      refine ⟨(a + 1) % n, n - 1, hs, by omega, fun p hp hbp => ?_, .inl (by omega)⟩
      have hlt := stepsTo_lt (q := p) hs
      by_contra hge
      have he := add_stepsTo hs hp
      rw [show stepsTo n ((a + 1) % n) p = n - 1 by omega, Nat.mod_add_mod, show a + 1 + (n - 1) = a + n by omega,
        Nat.add_mod_right, Nat.mod_eq_of_lt ha] at he
      rw [← he, hab] at hbp
      exact absurd hbp Bool.false_ne_true
  have hbefore : ∀ i, 0 < i → i ≤ n - len0 → hasBit m ((st0 + n - i) % n) = false := by
    intro i hi hile
    by_contra hbit
    rw [Bool.not_eq_false] at hbit
    have := hcov0 _ (Nat.mod_lt _ hn) hbit
    rw [show st0 + n - i = st0 + (n - i) by omega, stepsTo_add hst0 (by omega)] at this
    omega
  have hex : ∃ j, hasBit m ((st0 + j) % n) = true := ⟨stepsTo n st0 q, by rw [add_stepsTo hst0 hq, hb]⟩
  have hj := Nat.find_spec hex
  have hmin := fun k (hk : k < Nat.find hex) => Nat.find_min hex hk
  generalize Nat.find hex = j at hj hmin
  have hjn : j < n := by
    by_contra h
    refine hmin (stepsTo n st0 q) ((stepsTo_lt hst0).trans_le (not_lt.1 h)) ?_
    rw [add_stepsTo hst0 hq, hb]
  have hjlen : j < len0 := by
    have := hcov0 _ (Nat.mod_lt _ hn) hj
    rwa [stepsTo_add hst0 hjn] at this
  have hrun : ∀ i, 0 < i → i ≤ n - len0 + j → hasBit m (((st0 + j) % n + n - i) % n) = false := by
    intro i hi hile
    rw [show (st0 + j) % n + n - i = (st0 + j) % n + (n - i) by omega, Nat.mod_add_mod]
    rcases Nat.lt_or_ge j i with h | h
    · rw [show st0 + j + (n - i) = st0 + n - (i - j) by omega]
      exact hbefore (i - j) (by omega) (by omega)
    · rw [show st0 + j + (n - i) = st0 + (j - i) + n by omega, Nat.add_mod_right]
      exact eq_false_of_ne_true (hmin (j - i) (by omega))
  have hs' : (st0 + j) % n < n := Nat.mod_lt _ hn
  have hgap := le_gapBefore hs' hj (c := n - len0 + j) (by omega) hrun
  refine ⟨(st0 + j) % n, hs', startsArc_iff.2 ⟨hj, hrun 1 (by omega) (by omega)⟩, ?_⟩
  rcases Nat.eq_zero_or_pos j with rfl | hjp
  · rw [Nat.add_zero, Nat.add_zero, Nat.mod_eq_of_lt hst0] at hgap
    rw [Nat.add_zero, Nat.mod_eq_of_lt hst0]
    omega
  · omega

/-- A step of R178's search: a start whose arc is shorter than the best so far replaces it. -/
def keepShorter (starts : Nat → Bool) (length : Nat → Nat) (best : Nat × Nat) (st : Nat) : Nat × Nat :=
  if starts st then (if best.2 = 0 || length st < best.2 then (st, length st) else best) else best

section Search
variable {starts : Nat → Bool} {length : Nat → Nat} {best : Nat × Nat} {st : Nat}

theorem keepShorter_skip (hs : ¬ starts st = true) : keepShorter starts length best st = best := if_neg hs

theorem keepShorter_take (hs : starts st = true) (h : best.2 = 0 ∨ length st < best.2) :
    keepShorter starts length best st = (st, length st) := by
  simp [keepShorter, hs, h]

theorem keepShorter_keep (hs : starts st = true) (hp : 0 < best.2) (h : ¬ length st < best.2) :
    keepShorter starts length best st = best := by
  simp [keepShorter, hs, hp.ne', h]

/-- R178's search keeps the first of the shortest arcs. -/
theorem foldl_keepShorter (n : Nat) (hpos : ∀ st < n, starts st = true → 0 < length st) :
    ((∀ st < n, starts st = false) ∧ (List.range n).foldl (keepShorter starts length) (0, 0) = (0, 0))
    ∨ ∃ st < n, starts st = true ∧ (List.range n).foldl (keepShorter starts length) (0, 0) = (st, length st)
      ∧ ∀ st' < n, starts st' = true → length st < length st' ∨ length st = length st' ∧ st ≤ st' := by
  induction n with
  | zero => exact .inl ⟨fun st hst => absurd hst (Nat.not_lt_zero st), rfl⟩
  | succ n ih =>
    rw [List.range_succ, List.foldl_append, List.foldl, List.foldl]
    by_cases hs : starts n = true
    · rcases ih fun st hst => hpos st (by omega) with ⟨hno, he⟩ | ⟨st, hst, hss, he, hmin⟩
      · rw [he, keepShorter_take hs (.inl rfl)]
        refine .inr ⟨n, by omega, hs, rfl, fun st' hst' hs' => ?_⟩
        rcases Nat.lt_succ_iff_lt_or_eq.1 hst' with h | rfl
        · rw [hno st' h] at hs'; exact absurd hs' Bool.false_ne_true
        · exact .inr ⟨rfl, le_refl _⟩
      · rw [he]
        by_cases hlt : length n < length st
        · rw [keepShorter_take hs (.inr hlt)]
          refine .inr ⟨n, by omega, hs, rfl, fun st' hst' hs' => ?_⟩
          rcases Nat.lt_succ_iff_lt_or_eq.1 hst' with h | rfl
          · rcases hmin st' h hs' with h' | ⟨h', -⟩ <;> exact .inl (by omega)
          · exact .inr ⟨rfl, le_refl _⟩
        · rw [keepShorter_keep hs (hpos st (by omega) hss) hlt]
          refine .inr ⟨st, by omega, hss, rfl, fun st' hst' hs' => ?_⟩
          rcases Nat.lt_succ_iff_lt_or_eq.1 hst' with h | rfl
          · exact hmin st' h hs'
          · omega
    · rw [keepShorter_skip hs]
      rcases ih fun st hst => hpos st (by omega) with ⟨hno, he⟩ | ⟨st, hst, hss, he, hmin⟩
      · refine .inl ⟨fun st hst => ?_, he⟩
        rcases Nat.lt_succ_iff_lt_or_eq.1 hst with h | rfl
        · exact hno st h
        · exact eq_false_of_ne_true hs
      · refine .inr ⟨st, by omega, hss, he, fun st' hst' hs' => ?_⟩
        rcases Nat.lt_succ_iff_lt_or_eq.1 hst' with h | rfl
        · exact hmin st' h hs'
        · exact absurd hs' hs

end Search

theorem bestArc_eq (n m : Nat) :
    bestArc n m = (List.range n).foldl (keepShorter (startsArc n m) fun st => n - gapBefore n m st) (0, 0) := rfl

/-- R178: the arc covers the mask, no covering arc is shorter, and none as short starts lower. -/
theorem bestArc_spec {n m : Nat} (hne : ∃ q < n, hasBit m q = true) (habs : ∃ q < n, hasBit m q = false) :
    (bestArc n m).1 < n ∧ 0 < (bestArc n m).2 ∧ (bestArc n m).2 ≤ n ∧ Covers n m (bestArc n m).1 (bestArc n m).2
    ∧ ∀ st len, st < n → Covers n m st len → (bestArc n m).2 < len ∨ (bestArc n m).2 = len ∧ (bestArc n m).1 ≤ st := by
  have hpos : ∀ st < n, startsArc n m st = true → 0 < n - gapBefore n m st := fun st hst hs =>
    Nat.sub_pos_of_lt (gapBefore_lt hst (startsArc_iff.1 hs).1)
  rw [bestArc_eq]
  rcases foldl_keepShorter n hpos with ⟨hno, -⟩ | ⟨st, hst, hs, he, hmin⟩
  · obtain ⟨q, hq, hb⟩ := hne
    obtain ⟨st, hst, hs, -⟩ := exists_start_of_covers (len := n) hq ⟨q, hq, hb⟩ habs fun p _ _ => stepsTo_lt hq
    rw [hno st hst] at hs
    exact absurd hs Bool.false_ne_true
  · rw [he]
    refine ⟨hst, hpos st hst hs, Nat.sub_le .., covers_gapBefore hst, fun st' len hst' hcov => ?_⟩
    obtain ⟨st0, hst0, hs0, hle⟩ := exists_start_of_covers hst' hne habs hcov
    have := hmin st0 hst0 hs0
    dsimp only
    omega

/-- A covering arc with an absent position has more places than the mask has positions. -/
theorem maskCount_lt {n m st len : Nat} (hst : st < n) (hcov : Covers n m st len)
    (hgap : ∃ q < n, stepsTo n st q < len ∧ hasBit m q = false) : maskCount n m < len := by
  obtain ⟨q, hq, hlt, hq0⟩ := hgap
  have hmem : ∀ p, p ∈ (Finset.range n).filter (fun p => hasBit m p = true) ↔ p < n ∧ hasBit m p = true := by simp
  have hcount : maskCount n m = ((Finset.range n).filter (fun p => hasBit m p = true)).card := by
    rw [maskCount, ← List.toFinset_card_of_nodup (List.nodup_range.filter _)]
    congr 1
    ext p
    simp
  have hinj : Set.InjOn (stepsTo n st) ((Finset.range n).filter (fun p => hasBit m p = true)) := fun a ha b hb he => by
    rw [← add_stepsTo hst ((hmem a).1 ha).1, ← add_stepsTo hst ((hmem b).1 hb).1, he]
  rw [hcount, ← Finset.card_image_of_injOn hinj, ← Finset.card_range len]
  refine Finset.card_lt_card ((Finset.ssubset_iff_of_subset fun x hx => ?_).2 ⟨stepsTo n st q, Finset.mem_range.2 hlt, fun hx => ?_⟩)
  · obtain ⟨p, hp, rfl⟩ := Finset.mem_image.1 hx
    obtain ⟨hpn, hb⟩ := (hmem p).1 hp
    exact Finset.mem_range.2 (hcov p hpn hb)
  · obtain ⟨p, hp, he⟩ := Finset.mem_image.1 hx
    obtain ⟨hpn, hb⟩ := (hmem p).1 hp
    have : p = q := by rw [← add_stepsTo hst hpn, he, add_stepsTo hst hq]
    rw [this, hq0] at hb
    exact absurd hb Bool.false_ne_true

/-! ### Codes of arcs (R166) -/

/-- The canonical code of an arc. -/
def arcEnc (n st len : Nat) : Nat := if n = 16 then st * 16 + (len - 1) else st * 2048 + (len - 1) * 64

theorem arcEnc_lt {n st len : Nat} (hn : n = 16 ∨ n = 32) (hst : st < n) (hlen : len ≤ n) : arcEnc n st len < 2 ^ (n / 2) := by
  unfold arcEnc
  rcases hn with rfl | rfl
  · rw [if_pos rfl]; omega
  · rw [if_neg (by norm_num)]; omega

theorem arcCode_none (n : Nat) : arcCode n 0 = (arcEnc n (n - 1) n, 0) := rfl

theorem arcCode_whole {n : Nat} (hn : 0 < n) : arcCode n (2 ^ n - 1) = (arcEnc n 0 n, 0) := by
  have h := Nat.one_lt_two_pow hn.ne'
  rw [arcCode, if_neg (by omega), if_pos rfl]
  rfl

theorem arcCode_some {n m : Nat} (h0 : m ≠ 0) (h1 : m ≠ 2 ^ n - 1) : arcCode n m
    = (arcEnc n (bestArc n m).1 (bestArc n m).2, if maskCount n m < (bestArc n m).2 then flagNXT else 0) := by
  rw [arcCode, if_neg h0, if_neg h1]
  rfl

/-- The mask of an arc's code (R166), bit by bit. -/
theorem hasBit_arcMask {n c st len q : Nat} (hst : st < n) (hle : len ≤ n)
    (hs : (if n = 16 then c / 16 % 16 else c / 2048 % 32) = st) (hl : (if n = 16 then c % 16 else c / 64 % 32) + 1 = len) (hq : q < n) :
    hasBit (arcMask n c) q = true ↔ if len = n then st ≠ n - 1 else stepsTo n st q < len := by
  unfold arcMask
  dsimp only
  rw [hs, hl]
  by_cases hn : len = n
  · rw [if_pos hn, if_pos hn, hasBit_eq_testBit]
    split
    · next h => simp [h]
    · next h => simp [Nat.testBit_two_pow_sub_one, hq, h]
  · have hnd : ((List.range len).map fun i => (st + i) % n).Nodup := by
      refine (List.nodup_map_iff_inj_on List.nodup_range).2 fun x hx y hy hxy => ?_
      have hx' := List.mem_range.1 hx
      have hy' := List.mem_range.1 hy
      rw [← stepsTo_add hst (show x < n by omega), ← stepsTo_add hst (show y < n by omega)]
      exact congrArg (stepsTo n st) hxy
    have hbits := testBit_foldl_two_pow (fun _ => true) (fun i => (st + i) % n) hnd (r := 0) (by simp) q
    simp only [if_true, Nat.zero_testBit, Bool.false_eq_true, false_or, List.mem_range, true_and] at hbits
    rw [if_neg hn, if_neg hn, hasBit_eq_testBit, hbits]
    constructor
    · rintro ⟨i, hi, rfl⟩
      rwa [stepsTo_add hst (by omega)]
    · intro h
      exact ⟨_, h, add_stepsTo hst hq⟩

end Sys2Proof.Machine
end

section
/-! PROOFS. The set operations as the statement of spec 08 has them (R164-R180). -/

namespace Sys2Proof.Machine

section Slots
variable {s : State} {p : BitVec 3} {d a : BitVec 7} {r : BitVec 2}

/-! ### SFROM and SBND -/

theorem sfrom_spec (h : s.Clear p [] none false (s.vecVerdict [s.vA a] [s.vD d])) :
    let g := s.k.ring s.gen r.toNat
    let u := s.vec (s.vA a)
    ∃ img fl, exec (.sfrom p d a r) s = .next (s.putVec 2 (s.vD d) allUnits img fl) ∧ img.toNat < 2 ^ (32 * g.n)
      ∧ ((fl = 0 ∧ ∀ j < 32, ∃ i < g.n / 2, laneNat g.n img j = 2 ^ (2 * i))
        ∨ fl = flagNXT ∧ ∃ j < 32, ∀ i < g.n / 2, laneNat g.n img j ≠ 2 ^ (2 * i))
      ∧ ∀ j < 32, laneNat g.n img j = fromMask g (unitOf u j).toNat := by
  intro g u
  have hfit : g.n * 32 ≤ 1024 := by have := g.n_cases; omega
  have hl : ∀ j < 32, laneNat g.n (BitVec.ofNat 1024 (packLanes g.n (sfromLane g u) 32).1) j = fromMask g (unitOf u j).toNat :=
    fun j hj => (packLanes_holds hfit j hj).trans (Nat.mod_eq_of_lt (fromMask_lt ..))
  refine ⟨_, _, sfrom_executes h, ?_, sfrom_flags hl, hl⟩
  rw [BitVec.toNat_ofNat, Nat.mul_comm 32]
  exact (Nat.mod_le ..).trans_lt (packLanes_lt ..)

theorem sbnd_spec (h : s.Clear p [] none false (s.vecVerdict [s.vA a] [s.vD d])) :
    let g := s.k.ring s.gen r.toNat
    let u := s.vec (s.vA a)
    ∃ img, exec (.sbnd p d a r) s = .next (s.putVec 2 (s.vD d) allUnits img 0)
      ∧ ∀ j < 16, laneNat 32 img (2 * j) = (bounds g (laneNat g.n u j)).1 % 2 ^ 32
        ∧ laneNat 32 img (2 * j + 1) = (bounds g (laneNat g.n u j)).2 % 2 ^ 32 := by
  intro g u
  refine ⟨_, setOp2_image (f := fun g x => ((typeLanes 0#2 (fun q =>
      (if q % 2 = 0 then (bounds g (laneNat g.n x (q / 2))).1 else (bounds g (laneNat g.n x (q / 2))).2, 0#6))).1, 0#6))
      (exec_sbnd ..) h, fun j hj => ?_⟩
  have hl := typeLanes_holds 0#2 fun q =>
    (if q % 2 = 0 then (bounds g (laneNat g.n u (q / 2))).1 else (bounds g (laneNat g.n u (q / 2))).2, 0#6)
  have hlo := hl (2 * j) (show 2 * j < 32 by omega)
  have hhi := hl (2 * j + 1) (show 2 * j + 1 < 32 by omega)
  dsimp only at hlo hhi
  rw [show (2 * j) / 2 = j by omega, if_pos (by omega)] at hlo
  rw [show (2 * j + 1) / 2 = j by omega, if_neg (by omega)] at hhi
  exact ⟨hlo, hhi⟩

/-- R177's bounds, whole. -/
theorem bounds_cases {g : Ring} {u img : Image} {j : Nat}
    (hlo : laneNat 32 img (2 * j) = (bounds g (laneNat g.n u j)).1 % 2 ^ 32)
    (hhi : laneNat 32 img (2 * j + 1) = (bounds g (laneNat g.n u j)).2 % 2 ^ 32) :
    let m := laneNat g.n u j
    let lo := laneNat 32 img (2 * j)
    let hi := laneNat 32 img (2 * j + 1)
    let f := fmtF32.decode
    (m = 0 → lo = 0x7FC00000 ∧ hi = 0x7FC00000)
    ∧ (m ≠ 0 → g.null = true → lo = 0xFF800000 ∧ hi = 0x7F800000)
    ∧ (m ≠ 0 → g.null = false → (∀ i, 0 < i → i < g.n / 4 → ∃ w e, w ≠ 0 ∧ f (g.val i) = .fin false w e false) →
      (∃ q < g.n, hasBit m q ∧ lo = (hull g q).1) ∧ (∃ q < g.n, hasBit m q ∧ hi = (hull g q).2)
      ∧ ∀ q < g.n, hasBit m q → (f lo).cmp false (f (hull g q).1) ≤ 0 ∧ 0 ≤ (f hi).cmp false (f (hull g q).2)) := by
  intro m lo hi f
  refine ⟨fun h0 => ?_, fun h0 hg => ?_, fun h0 hg hval => ?_⟩
  · simp only [lo, hi, hlo, hhi]
    rw [show laneNat g.n u j = 0 from h0, bounds, if_pos rfl]
    exact ⟨rfl, rfl⟩
  · simp only [lo, hi, hlo, hhi]
    rw [bounds, if_neg h0, if_pos hg]
    exact ⟨rfl, rfl⟩
  · have hv : ∀ i, 0 < i → i < g.n / 4 → F32Finite (g.val i) := fun i hi hlt => by
      obtain ⟨w, e, -, hd⟩ := hval i hi hlt
      exact .of_decode (g.val_lt i) hd
    have hspec := bounds_spec hg hv h0 (laneNat_lt ..)
    obtain ⟨⟨ql, hql, -, hel⟩, ⟨qh, hqh, -, heh⟩, -⟩ := id hspec
    have hl : lo = (bounds g m).1 := hlo.trans (Nat.mod_eq_of_lt (hel ▸ (noNan_lower (hull_bounds hv hql).1).1.1))
    have hh : hi = (bounds g m).2 := hhi.trans (Nat.mod_eq_of_lt (heh ▸ (noNan_upper (hull_bounds hv hqh).2).1.1))
    rw [hl, hh]
    exact hspec

/-! ### SARC, SMSK and SRED -/

theorem sarc_executes (h : s.Clear p [] none false (s.vecVerdict [s.vA a] [s.vD d])) :
    let g := s.k.ring s.gen r.toNat
    let lane := fun j => arcCode g.n (laneNat g.n (s.vec (s.vA a)) j)
    exec (.sarc p d a r) s = .next (s.putVec 2 (s.vD d) allUnits
      (BitVec.ofNat 1024 (packLanes (g.n / 2) lane (1024 / g.n)).1) (lanesFlags lane (1024 / g.n))) := by
  intro g lane
  rw [← packLanes_flags (g.n / 2)]
  exact setOp2_image (f := fun g x => (BitVec.ofNat 1024 (packLanes (g.n / 2) (fun j => arcCode g.n (laneNat g.n x j)) (1024 / g.n)).1,
    (packLanes (g.n / 2) (fun j => arcCode g.n (laneNat g.n x j)) (1024 / g.n)).2)) (exec_sarc ..) h

theorem arc_lanes_fit (g : Ring) : g.n / 2 * (1024 / g.n) = 512 := by rcases g.n_cases with h | h <;> rw [h]

/-- An arc's code raises NXT or nothing. -/
theorem arcCode_flags (n m : Nat) : (arcCode n m).2 = 0 ∨ (arcCode n m).2 = flagNXT := by
  unfold arcCode
  dsimp only
  split_ifs <;> simp

/-- A mask that is neither empty nor whole has a position and lacks one. -/
theorem mask_mixed {n m : Nat} (h0 : m ≠ 0) (h1 : m ≠ 2 ^ n - 1) (hlt : m < 2 ^ n) :
    (∃ q < n, hasBit m q = true) ∧ ∃ q < n, hasBit m q = false := by
  constructor
  · obtain ⟨q, hq, hb, -⟩ := (land_ne_zero (m' := m) hlt).1 (by rwa [show Nat.land m m = m &&& m from rfl, Nat.and_self])
    exact ⟨q, hq, hb⟩
  · by_contra hno
    push Not at hno
    refine h1 (Nat.eq_of_testBit_eq fun q => ?_)
    rw [Nat.testBit_two_pow_sub_one]
    rcases Nat.lt_or_ge q n with h | h
    · have := hno q h
      rw [decide_eq_true h, ← hasBit_eq_testBit]
      simpa using this
    · rw [decide_eq_false (not_lt.2 h), Nat.testBit_lt_two_pow (hlt.trans_le (Nat.pow_le_pow_right Nat.two_pos h))]

theorem sarc_spec (h : s.Clear p [] none false (s.vecVerdict [s.vA a] [s.vD d])) :
    let g := s.k.ring s.gen r.toNat
    let n := g.n
    let x := laneNat n (s.vec (s.vA a))
    ∃ img fl, exec (.sarc p d a r) s = .next (s.putVec 2 (s.vD d) allUnits img fl) ∧ img.toNat < 2 ^ 512
      ∧ ∀ j < 1024 / n, let c := laneNat (n / 2) img j
        (x j = 0 → c = arcEnc n (n - 1) n) ∧ (x j = 2 ^ n - 1 → c = arcEnc n 0 n)
        ∧ (x j ≠ 0 → x j ≠ 2 ^ n - 1 → ∃ st len, st < n ∧ 0 < len ∧ len ≤ n ∧ c = arcEnc n st len ∧ Covers n (x j) st len
          ∧ (∀ st' len', st' < n → 0 < len' → Covers n (x j) st' len' → len < len' ∨ len = len' ∧ st ≤ st')
          ∧ ((∃ q < n, stepsTo n st q < len ∧ hasBit (x j) q = false) → fl = flagNXT)) := by
  intro g n x
  have hn : n = 16 ∨ n = 32 := g.n_cases
  have hn0 : 0 < n := by omega
  refine ⟨_, _, sarc_executes h, ?_, fun j hj => ?_⟩
  · rw [BitVec.toNat_ofNat, ← arc_lanes_fit g]
    exact (Nat.mod_le ..).trans_lt (packLanes_lt ..)
  · have hc : laneNat (n / 2) (BitVec.ofNat 1024 (packLanes (n / 2) (fun j => arcCode n (x j)) (1024 / n)).1) j
        = (arcCode n (x j)).1 % 2 ^ (n / 2) := packLanes_holds ((arc_lanes_fit g).trans_le (by norm_num)) j hj
    refine ⟨fun hx => ?_, fun hx => ?_, fun h0 h1 => ?_⟩
    · rw [hc, hx, arcCode_none, Nat.mod_eq_of_lt (arcEnc_lt hn (by omega) le_rfl)]
    · rw [hc, hx, arcCode_whole hn0, Nat.mod_eq_of_lt (arcEnc_lt hn hn0 le_rfl)]
    · obtain ⟨hne, habs⟩ := mask_mixed h0 h1 (laneNat_lt ..)
      obtain ⟨hst, hpos, hle, hcov, hmin⟩ := bestArc_spec hne habs
      refine ⟨_, _, hst, hpos, hle, ?_, hcov, fun st len hst' _ => hmin st len hst', fun hgap => ?_⟩
      · rw [hc, arcCode_some h0 h1, Nat.mod_eq_of_lt (arcEnc_lt hn hst hle)]
      · have hx : (arcCode n (x j)).2 = flagNXT := by rw [arcCode_some h0 h1, if_pos (maskCount_lt hst hcov hgap)]
        rcases lanesFlags_one (1024 / n) (fun j _ => arcCode_flags n (x j)) with ⟨hz, -⟩ | ⟨-, he⟩
        · exact absurd (hx.symm.trans (hz j hj)) (by decide)
        · exact he

/-- The fields of a lane that holds an arc's code. -/
theorem arcEnc_fields {n st len j : Nat} {u : Image} (hn : n = 16 ∨ n = 32) (hst : st < n) (hpos : 0 < len) (hle : len ≤ n)
    (hc : (if n = 16 then laneNat 8 u j else laneNat 16 u j / 64 * 64) = arcEnc n st len) :
    (if n = 16 then laneNat (n / 2) u j / 16 % 16 else laneNat (n / 2) u j / 2048 % 32) = st
    ∧ (if n = 16 then laneNat (n / 2) u j % 16 else laneNat (n / 2) u j / 64 % 32) + 1 = len := by
  unfold arcEnc at hc
  rcases hn with rfl | rfl
  · simp only [if_true, show 16 / 2 = 8 from rfl] at hc ⊢
    omega
  · simp only [show ¬ 32 = 16 by norm_num, if_false, show 32 / 2 = 16 from rfl] at hc ⊢
    omega

theorem smsk_spec (h : s.Clear p [] none false (s.vecVerdict [s.vA a] [s.vD d])) :
    let g := s.k.ring s.gen r.toNat
    let n := g.n
    let u := s.vec (s.vA a)
    ∃ img, exec (.smsk p d a r) s = .next (s.putVec 2 (s.vD d) allUnits img 0)
      ∧ ∀ j < 1024 / n, ∀ st len, st < n → 0 < len → len ≤ n →
        (if n = 16 then laneNat 8 u j else laneNat 16 u j / 64 * 64) = arcEnc n st len →
        ∀ q < n, (hasBit (laneNat n img j) q ↔ if len = n then st ≠ n - 1 else stepsTo n st q < len) := by
  intro g n u
  refine ⟨_, setOp2_image (f := fun g x => (maskLanes g.n (fun j => arcMask g.n (laneNat (g.n / 2) x j)), 0#6)) (exec_smsk ..) h,
    fun j hj st len hst hpos hle hc q hq => ?_⟩
  rw [hasBit_maskLanes _ _ hj hq]
  obtain ⟨hs, hl⟩ := arcEnc_fields g.n_cases hst hpos hle hc
  exact hasBit_arcMask hst hle hs hl hq

theorem sred_spec (h : s.Clear p [] none false (s.vecVerdict [s.vA a] [s.vD d])) :
    let g := s.k.ring s.gen r.toNat
    ∃ img, exec (.sred p d a r) s = .next (s.putVec 4 (s.vD d) allUnits img 0)
      ∧ HoldsLanes img g.n (1024 / g.n) fun _ =>
        (setSum g ((List.range (1024 / g.n)).map (laneNat g.n (s.vec (s.vA a)))), 0) :=
  ⟨_, setOp2_image (f := fun g x => (maskLanes g.n (fun _ => setSum g ((List.range (1024 / g.n)).map (laneNat g.n x))), 0#6))
    (exec_sred ..) h, maskLanes_holds _ _⟩

end Slots

/-- Settles O22: the lane-by-lane operations by setOperations and sneg_masks, SFROM and SBND by fromMask_cases and bounds_spec,
the arcs and the sum by sarc_spec, smsk_spec and sred_spec. -/
theorem setResults : Obligations.SetResults := by
  refine ⟨fun s p d e a b r => ?lanes, fun s p d a r h => ?values, fun s p d a r h => ?arcs⟩
  case lanes =>
    intro g x y union writes
    exact ⟨fun hg => ⟨g.n_of_null hg, g.entry_of_null hg⟩, setOperations s p d a b r, sneg_masks⟩
  case values =>
    intro g n u code value
    constructor
    · obtain ⟨img, fl, hx, hlt, hfl, hm⟩ := sfrom_spec (r := r) h
      refine ⟨img, fl, hx, hlt, hfl, fun j hj => ?_⟩
      rw [hm j hj]
      exact fromMask_cases g _
    · obtain ⟨img, hx, hb⟩ := sbnd_spec (r := r) h
      refine ⟨img, hx, fun j hj => ?_⟩
      obtain ⟨hlo, hhi⟩ := hb j hj
      exact bounds_cases hlo hhi
  case arcs =>
    intro g n l u x code covers gap
    refine ⟨sarc_spec h, smsk_spec h, ?_⟩
    obtain ⟨img, hx, hl⟩ := sred_spec (r := r) h
    exact ⟨img, hx, hl.congr fun _ _ => rfl⟩

end Sys2Proof.Machine
end

section
/-! PROOFS. Global accesses, fences, PREF and waits on an address at their issue (spec 13 R307-R313). -/

namespace Sys2Proof.Machine

section Slots
variable {s : State} {p : BitVec 3} {a b d : BitVec 6} {o : BitVec 5} {c : BitVec 2}

/-- R307's address: the sum, or all ones past 2^64. -/
theorem State.globalAddr_eq (s : State) (a : BitVec 6) (o : BitVec 5) (n : Nat) :
    let off : Int := if s.cur.kind = .imm then (s.cur.x ++ o).toInt else o.toInt
    let x := s.reg (s.rA a)
    s.globalAddr a o n = if 2 ^ 64 ≤ (x.toNat : Int) + n * off then BitVec.allOnes 64 else x + BitVec.ofInt 64 (n * off) := by
  intro off x
  rw [State.globalAddr, immS_eq]
  change (if (2 : Int) ^ 64 ≤ (x.toNat : Int) + n * off then _ else BitVec.ofInt 64 ((x.toNat : Int) + n * off)) = _
  rw [BitVec.ofInt_add, BitVec.ofInt_natCast, BitVec.ofNat_toNat, BitVec.setWidth_eq]

theorem pref_executes (h : s.Executes p [s.rA a] none false) (hl : s.inFlight s.cur.core < 2048) :
    exec (.pref p a o) s = .next (match s.translateCore s.cur.core (s.globalAddr a o 1) 0 .read with
      | .error _ => s
      | .ok t =>
        let u := s.updK (fun k => { k with prefs := k.prefs ++ [(t.gen, t.dla / 128, s.hint)] })
        if t.ord = 0 then s else if s.k.lvl then u else u.countHint s.d s.k.ten t.cp s.hint) := by
  rw [exec_pref, execPref]
  exact slotMeaning_executes h (if_neg (not_le.2 hl))

/-! ### WAITA -/

/-- The verdict of a WAITA whose address translates. -/
def State.waitaVerdict (s : State) (eq : Bool) (ea v : W64) (t : Target) (sc : Nat) : Verdict :=
  if 2048 ≤ s.inFlight s.cur.core then .wait
  else if (s.waitaValue eq ea v sc).isSome then .go
  else match s.waitaNear s.cur.core t sc with
    | .bad => .trap 8 0 0 0 ea
    | .lost => .trap 7 8 0 0 ea
    | _ => .wait

/-- What a WAITA that is satisfied leaves. -/
def State.waitaTakes (s : State) (d : BitVec 6) (ea : W64) (t : Target) (sc : Nat) (w : W64) (ws : List Nat) : State :=
  (((((s.putScalar 1 (s.rD d) w).afterRead t s.gen ws).putAcc
    { id := 0, kind := .load, tgt := t, va := ea, size := 8, strong := true, acq := true, scope := sc, done := true, reads := ws }).updK
      fun k => { k with l0 := if acqScope t sc = 0 then k.l0 else [] }).settle s.cur.core)

theorem acqScope_eq_zero {t : Target} {sc : Nat} : acqScope t sc = 0 ↔ sc = 0 ∧ t.ord ≠ 0 := by
  unfold acqScope
  split
  · next h => simp [h]
  · next h => simp [h]

/-- The effect of a WAITA: that of the word which satisfies it, where there is one. -/
def State.waitaEffect (eq : Bool) (d a b : BitVec 6) (c : BitVec 2) (s : State) : State :=
  match s.waitaValue eq (s.reg (s.rA a)) (s.reg (s.rB b)) c.toNat with
  | none => s
  | some r => s.waitaTakes d (s.reg (s.rA a)) (s.targetNow (s.reg (s.rA a)) 8 .read) c.toNat r.1 r.2

/-- A WAITA as a slot with a verdict and an effect. -/
theorem waitaOp_eq (eq : Bool) (s : State) : ∃ v, waitaOp eq p d a b c s
      = slotMeaning p [s.rA a, s.rB b] (some (s.rD d)) false v (State.waitaEffect eq d a b c) s
    ∧ ∀ t, s.translateCore s.cur.core (s.reg (s.rA a)) 8 .read = .ok t →
      v s = s.waitaVerdict eq (s.reg (s.rA a)) (s.reg (s.rB b)) t c.toNat := by
  refine ⟨_, rfl, fun t ht => ?_⟩
  simp only [ht, State.waitaVerdict]
  cases s.waitaValue eq (s.reg (s.rA a)) (s.reg (s.rB b)) c.toNat with
  | some r => rfl
  | none => cases s.waitaNear s.cur.core t c.toNat <;> rfl

section Wait
variable {eq : Bool} {t : Target} (ht : s.translateCore s.cur.core (s.reg (s.rA a)) 8 .read = .ok t)
include ht

/-- A word that satisfies the wait is taken. -/
theorem waitaOp_takes {w : W64} {ws : List Nat} (hw : s.waitaValue eq (s.reg (s.rA a)) (s.reg (s.rB b)) c.toNat = some (w, ws))
    (h : s.Executes p [s.rA a, s.rB b] (some (s.rD d)) false) (hl : s.inFlight s.cur.core < 2048) :
    waitaOp eq p d a b c s = .next (s.waitaTakes d (s.reg (s.rA a)) t c.toNat w ws) := by
  obtain ⟨v, he, hv⟩ := waitaOp_eq (p := p) (d := d) (a := a) (b := b) (c := c) eq s
  have hgo : v s = .go := by
    rw [hv t ht, State.waitaVerdict, if_neg (not_le.2 hl), hw]
    rfl
  rw [he, slotMeaning_executes h hgo]
  simp only [State.waitaEffect, hw, State.targetNow, ht]

/-- What stands in the way of the others holds them or traps. -/
theorem waitaOp_stays (hg : s.guard p = true) (hm : s.cur.mode = .whole)
    (ho : s.operandVerdict [s.rA a, s.rB b] (some (s.rD d)) false = .go)
    (hn : s.waitaValue eq (s.reg (s.rA a)) (s.reg (s.rB b)) c.toNat = none) :
    let near := s.waitaNear s.cur.core t c.toNat
    (2048 ≤ s.inFlight s.cur.core ∨ near ≠ .bad ∧ near ≠ .lost → waitaOp eq p d a b c s = .next s.hold)
    ∧ (s.inFlight s.cur.core < 2048 →
      (near = .bad → waitaOp eq p d a b c s = .next (s.takeTrap ⟨8, 0, s.cur.slot, 0, 0, s.reg (s.rA a)⟩))
      ∧ (near = .lost → waitaOp eq p d a b c s = .next (s.takeTrap ⟨7, 8, s.cur.slot, 0, 0, s.reg (s.rA a)⟩))) := by
  intro near
  obtain ⟨v, he, hv⟩ := waitaOp_eq (p := p) (d := d) (a := a) (b := b) (c := c) eq s
  have hverdict : v s = if 2048 ≤ s.inFlight s.cur.core then .wait
      else match near with
        | .bad => .trap 8 0 0 0 (s.reg (s.rA a))
        | .lost => .trap 7 8 0 0 (s.reg (s.rA a))
        | _ => .wait := by
    rw [hv t ht, State.waitaVerdict, hn]
    rfl
  rw [he]
  refine ⟨fun h => ?_, fun hl => ⟨fun hb => ?_, fun hb => ?_⟩⟩
  · refine slotMeaning_hold hg hm ho ?_
    rw [hverdict]
    rcases h with h | ⟨hbad, hlost⟩
    · exact if_pos h
    · split
      · rfl
      · clear_value near
        cases near with
        | bad => exact absurd rfl hbad
        | lost => exact absurd rfl hlost
        | data _ _ => rfl
        | wait => rfl
  · exact slotMeaning_trap hg hm ho (by rw [hverdict, if_neg (not_le.2 hl), hb])
  · exact slotMeaning_trap hg hm ho (by rw [hverdict, if_neg (not_le.2 hl), hb])

end Wait

@[simp] theorem State.afterRead_cur (s : State) (t : Target) (g : Hm) (ws : List Nat) : (s.afterRead t g ws).cur = s.cur := by
  unfold State.afterRead State.rotate
  split
  · split
    · split <;> rfl
    · rfl
  · rfl

@[simp] theorem State.afterRead_core (s : State) (t : Target) (g : Hm) (ws : List Nat) (c : Nat) :
    (s.afterRead t g ws).core c = s.core c := by
  unfold State.afterRead State.rotate
  split
  · split
    · split <;> rfl
    · rfl
  · rfl

/-- Changes of a core that agree on it are one. -/
theorem State.updCore_congr {s : State} {c : Nat} {f g : Core → Core} (h : f (s.core c) = g (s.core c)) :
    s.updCore c f = s.updCore c g := congrArg (s.setCore c) h

/-- The word of the one held WAITA, read again and found. -/
theorem waitaReread_finds {n : Nat} {ea u : W64} {eq : Bool} {sc : Nat} {t : Target} {w : W64} {ws : List Nat}
    (ht : s.translateCore s.cur.core ea 8 .read = .ok t) (hk : s.k.waita = [(n, ea, u, eq, sc)]) (hh : s.k.waitaHit = [])
    (hr : s.waitaRead s.cur.core t sc = some (w, ws)) (hw : w = u ↔ eq = true) :
    exec (.waitaReread s.cur.core) s = .next ((s.afterRead t s.gen ws).updK fun k =>
      { k with waitaHit := [(n, w, ws)], l0 := if acqScope t sc = 0 then k.l0 else [] }) := by
  have hholds : waitaHolds eq w u = true := by
    unfold waitaHolds
    rw [beq_iff_eq, Bool.eq_iff_iff, beq_iff_eq]
    exact hw
  have hk' : (s.core s.cur.core).waita = [(n, ea, u, eq, sc)] := hk
  have hh' : (s.core s.cur.core).waitaHit = [] := hh
  rw [exec_waitaReread, execWaitaReread]
  simp only [hk', hh', List.all_nil, List.find?_cons, ht, hr, hholds, if_true]
  refine congrArg Host.Outcome.next ?_
  rw [State.updK, State.afterRead_cur]
  refine State.updCore_congr ?_
  rw [State.afterRead_core, hh', List.nil_append]

end Slots

/-- Settles O23: each access by the rule of its family, at the address of State.globalAddr_eq. -/
theorem globalAccessesEnterProgramOrder : Obligations.GlobalAccessesEnterProgramOrder := by
  intro s p d a b o z c n off x address ea load store atomic fence
  have haddr : ∀ n : Nat, s.globalAddr a o n = address n := s.globalAddr_eq a o
  have hea : s.globalAddr a o (2 ^ z.toNat) = ea := haddr _
  refine ⟨fun h => ?_, fun h => ?_, fun h => ?_, fun h => ?_, fun h => ?_, fun h hl => ?_⟩
  · have hv : s.accessVerdict (s.globalAddr a o (2 ^ z.toNat)) (2 ^ z.toNat) .read = .go := hea ▸ h.2
    have hop : ∀ strong acq sc, loadOp strong acq sc p d a o z s = .next (load strong acq sc) := fun strong acq sc => by
      rw [loadOp_executes h.1 hv, hea]
    exact ⟨(exec_ld ..).trans (hop _ _ _), (exec_lds ..).trans (hop _ _ _), (exec_lda ..).trans (hop _ _ _)⟩
  · have hv : s.accessVerdict (s.globalAddr a o (2 ^ z.toNat)) (2 ^ z.toNat) .write = .go := hea ▸ h.2
    have hop : ∀ strong rel sc, storeOp strong rel sc p d a o z s = .next (store strong rel sc) := fun strong rel sc => by
      rw [storeOp_executes h.1 hv, hea]
    exact ⟨(exec_st ..).trans (hop _ _ _), (exec_sts ..).trans (hop _ _ _), (exec_strl ..).trans (hop _ _ _)⟩
  · have hop : ∀ op, op ≠ 7 → atomicOp op p d a b c s = .next (atomic op) := fun op hne =>
      atomicOp_executes (by rw [if_neg hne]; exact h.1) h.2
    exact ⟨(exec_amoAdd ..).trans (hop 0 (by decide)), (exec_amoAnd ..).trans (hop 1 (by decide)),
      (exec_amoOr ..).trans (hop 2 (by decide)), (exec_amoXor ..).trans (hop 3 (by decide)),
      (exec_amoMin ..).trans (hop 4 (by decide)), (exec_amoMax ..).trans (hop 5 (by decide)),
      (exec_amoSwap ..).trans (hop 6 (by decide))⟩
  · exact (exec_cas ..).trans (atomicOp_executes h.1 h.2)
  · exact ⟨(exec_fence ..).trans (fenceOp_executes h), (exec_fenceAll ..).trans (fenceOp_executes h)⟩
  · rw [pref_executes h hl, haddr]
    cases s.translateCore s.cur.core (address 1) 0 .read <;> rfl

/-- Settles O24: a WAITA takes its word (waitaOp_takes), stays (waitaOp_stays) or reads it again (waitaReread_finds). -/
theorem addressWaits : Obligations.AddressWaits := by
  intro s p d a b c t ea near hg ht
  have hscope : ∀ {k : Core}, (if acqScope t c.toNat = 0 then k.l0 else []) = if c = 0 ∧ t.ord ≠ 0 then k.l0 else [] := by
    intro k
    have hc : c.toNat = 0 ↔ c = 0 := by rw [← BitVec.toNat_inj]; rfl
    simp only [acqScope_eq_zero, hc]
  refine ⟨fun eq => ?_, fun n eq u sc w ws hk hh hr hw => ?_⟩
  · intro i
    have hi : exec i s = waitaOp eq p d a b c s := by
      cases eq
      · exact exec_waitaNe ..
      · exact exec_waitaEq ..
    rw [hi]
    refine ⟨fun w ws hv h hl => ?_, fun hn hm ho => waitaOp_stays ht hg hm ho hn⟩
    rw [waitaOp_takes ht hv h hl]
    simp only [State.waitaTakes, hscope]
    rfl
  · rw [waitaReread_finds ht hk hh hr hw]
    simp only [acqScope_eq_zero]

end Sys2Proof.Machine
end

section
/-! PROOFS. Service of loads and atomics (spec 13 R291-R311). -/

namespace Sys2Proof.Machine

section Serve
variable {s : State} {c i : Nat} {a : Acc} {older : List Acc}

/-- An access that may go is served by its kind. -/
theorem serve_eq (ha : (s.core c).acc i = some (a, older)) (hd : a.done = false) (hg : s.mayGo c older a = true) (src : Nat) :
    exec (.serve c i src) s = match a.kind with
      | .load => s.serveLoad c i src a older
      | .amo op => if src ≠ 2 then ok s else s.serveAmo c i a op
      | .probe => if src ≠ 2 then ok s else s.serveProbe c i a
      | _ => ok s := by
  rw [exec_serve, execServe, ha]
  simp only [hd, hg, Bool.not_true, Bool.or_self, Bool.false_eq_true, if_false] <;> rfl

theorem serveLoad_sb {v w : Nat} (hs : sbSource older a.tgt a.size = .all v w) :
    s.serveLoad c i 0 a older = .next (s.takeNear c i a v [w]) := by
  simp only [State.serveLoad, hs]
  rfl

/-- A weak load takes its line's copy in L0, where no store of its core touches its bytes. -/
theorem serveLoad_l0 (hw : a.strong = false) (hs : sbSource older a.tgt a.size = .none)
    (hy : ∀ y ∈ (s.core c).accs.drop (i + 1), y.kind = .store → meets y.tgt.dla y.size a.tgt.dla a.size = false)
    (hl : Sparse.get {} (a.tgt.dla / 128) (s.core c).l0 ≠ {}) (hg : (Sparse.get {} (a.tgt.dla / 128) (s.core c).l0).gen = a.tgt.gen) :
    ∃ ws, s.serveLoad c i 1 a older = .next (s.takeNear c i a
      (sliceOf (Sparse.get {} (a.tgt.dla / 128) (s.core c).l0).data.toNat (a.tgt.dla % 128) a.size) ws) := by
  have hyoung : ((s.core c).accs.drop (i + 1)).any (fun y => y.kind == .store && meets y.tgt.dla y.size a.tgt.dla a.size) = false := by
    simp only [List.any_eq_false, Bool.and_eq_true, beq_iff_eq, not_and, Bool.not_eq_true]
    exact hy
  refine ⟨((Sparse.get {} (a.tgt.dla / 128) (s.core c).l0).writes.filter
    fun w => meets w.2.1 w.2.2 (a.tgt.dla % 128) a.size).map (·.1), ?_⟩
  simp only [State.serveLoad, hs, hw, hyoung, decide_eq_false hl, hg, ne_eq, not_true, decide_false, bne_self_eq_false,
    Bool.false_and, Bool.or_self, Bool.false_eq_true, if_false]
  rfl

/-- The state in which a read has been served: at the home, its port's rotation has gone on. -/
def State.servedAt (s : State) (c : Nat) (a : Acc) : State :=
  if (s.die (dieOf c)).opSource a.tgt a.size = .none then s.servedRead a.tgt a.gen (coreReader c a.id) else s

theorem serveLoad_die (hs : sbSource older a.tgt a.size = .none) (hw : s.wayLost (dieOf c) a.tgt = false)
    (hv : s.violates a.tgt = false) (hb : s.badAt a.tgt.dla = false)
    (ht : (s.die (dieOf c)).opSource a.tgt a.size = .none → s.readTurn a.tgt a.gen (coreReader c a.id) = true) {v : Nat} {ws : List Nat}
    (hr : s.serveDie (dieOf c) a.tgt a.size = some (v, ws)) :
    s.serveLoad c i 2 a older = .next ((s.servedAt c a).takeNear c i a v ws) := by
  by_cases hh : (s.die (dieOf c)).opSource a.tgt a.size = .none
  · simp only [State.serveLoad, hs, hw, hv, hb, hh, ht hh, hr, State.servedAt, decide_true, bne_self_eq_false, Bool.not_true, Bool.and_false,
      Bool.false_and, Bool.false_eq_true, if_false, if_true]
    rfl
  · simp only [State.serveLoad, hs, hh, hr, State.servedAt, decide_false, bne_self_eq_false, Bool.false_and, Bool.false_eq_true, if_false]
    rfl

/-- What an atomic that is served leaves. -/
def State.tookAmo (s : State) (c i : Nat) (a : Acc) (old : W64) : State :=
  (s.updCore c (fun k => { k with l0 := Sparse.put {} (a.tgt.dla / 128) {} k.l0 })).take c i a old []

theorem serveAmo_eq {op : Nat} (hw : s.wayLost (dieOf c) a.tgt = false) (hh : s.homeOpen a.tgt = true)
    (ho : s.wayOpen (dieOf c) a.tgt = true) (ht : s.readTurn a.tgt a.gen (coreReader c a.id) = true) (hv : s.violates a.tgt = false)
    (hb : s.badAt a.tgt.dla = false) (hl : s.writeLive a.gen a.tgt = true) :
    let p := s.servedRead a.tgt a.gen (coreReader c a.id)
    let old : W64 := BitVec.ofNat 64 (s.read a.tgt.gen a.tgt.dla 8)
    s.serveAmo c i a op = .next ((match amoWrite op old a with
      | none => p
      | some new => p.write a.tgt.gen a.tgt.dla 8 new.toNat).tookAmo c i a old) := by
  simp only [State.serveAmo, hw, hh, ho, ht, hv, hb, hl, Bool.not_true, Bool.or_self, Bool.false_eq_true, if_false]
  cases amoWrite op (BitVec.ofNat 64 (s.read a.tgt.gen a.tgt.dla 8)) a <;> rfl

/-- R310's combination by signed values. -/
theorem amoF_eq (op : Nat) (old b : W64) : amoF op old b = match op with
    | 0 => old + b
    | 1 => old &&& b
    | 2 => old ||| b
    | 3 => old ^^^ b
    | 4 => if b.toInt < old.toInt then b else old
    | 5 => if old.toInt < b.toInt then b else old
    | _ => b := by
  match op with
  | 0 | 1 | 2 | 3 => rfl
  | 4 => simp only [amoF, BitVec.slt_iff_toInt_lt]
  | 5 => simp only [amoF, BitVec.slt_iff_toInt_lt]
  | n + 6 => rfl

end Serve

/-- Settles O25: a load from each source (serveLoad_sb, _l0, _die), an atomic by serveAmo_eq. -/
theorem accessesAreServed : Obligations.AccessesAreServed := by
  intro s c i a older ha hd hg live served
  have hserve := serve_eq ha hd hg
  refine ⟨fun hk => ⟨fun v w hs => ?_, fun hw hs hy => ?_, fun hs hw hv hb ht v ws hr => ?_⟩,
    fun op hk hw hh ho ht hv hb => ?_⟩
  · rw [hserve, hk]
    exact serveLoad_sb hs
  · intro l hl hgen
    obtain ⟨ws, he⟩ := serveLoad_l0 hw hs hy hl hgen
    refine ⟨ws, ?_⟩
    rw [hserve, hk]
    exact he
  · rw [hserve, hk]
    exact serveLoad_die hs hw hv hb ht hr
  · intro p old put
    have hamo : s.writeLive a.gen a.tgt = true → exec (.serve c i 2) s = .next ((match amoWrite op old a with
        | none => p
        | some new => p.write a.tgt.gen a.tgt.dla 8 new.toNat).tookAmo c i a old) := fun hl => by
      rw [hserve, hk]
      exact serveAmo_eq hw hh ho ht hv hb hl
    refine ⟨fun hop hne hl => ?_, fun hop hl => ?_⟩
    · rw [hamo hl, amoWrite, if_pos hop, if_neg hne]
      rfl
    · rw [hamo hl, amoWrite]
      by_cases h7 : op = 7
      · subst h7
        rw [if_pos rfl, if_pos (hop.resolve_left (by omega))]
        rfl
      · rw [if_neg h7, amoF_eq]
        rfl

end Sys2Proof.Machine
end

section
/-! PROOFS. The way of a write to its home (spec 13 R291, R292, R306). -/

namespace Sys2Proof.Machine

/-! ### What a write of memory reads and changes -/

/-- The part of the state that a write of memory reads and changes is the same. -/
structure State.SameMemory (s t : State) : Prop where
  mem : s.mem = t.mem
  hallmarks : s.hallmarks = t.hallmarks
  badGranules : s.badGranules = t.badGranules
  cxlWrites : s.cxlWrites = t.cxlWrites

theorem State.SameMemory.writeAt {s t : State} (h : s.SameMemory t) (g : Hm) (a n v : Nat) :
    (s.writeAt g a n v).SameMemory (t.writeAt g a n v) := by
  obtain ⟨hm, hh, hb, hc⟩ := h
  unfold State.writeAt
  dsimp only
  rw [hm, hh, hb, hc]
  split
  · exact ⟨rfl, rfl, rfl, rfl⟩
  · split
    · exact ⟨rfl, rfl, rfl, rfl⟩
    · exact ⟨rfl, rfl, rfl, rfl⟩

theorem State.SameMemory.writeBytes (g : Hm) (fuel : Nat) : ∀ {s t : State}, s.SameMemory t → ∀ (a n v : Nat),
    (s.writeBytes g a fuel n v).SameMemory (t.writeBytes g a fuel n v) := by
  induction fuel with
  | zero => exact fun h _ _ _ => h
  | succ fuel ih =>
    intro s t h a n v
    rw [State.writeBytes, State.writeBytes]
    split
    · exact h
    · exact ih (h.writeAt ..) _ _ _

theorem State.SameMemory.write {s t : State} (h : s.SameMemory t) (g : Hm) (a n v : Nat) :
    (s.write g a n v).SameMemory (t.write g a n v) := h.writeBytes g _ _ _ _

/-- A write changes memory, its hallmarks, its errors and the count of CXL writes. -/
theorem State.writeAt_eq (s : State) (g : Hm) (a n v : Nat) : ∃ m h b w,
    s.writeAt g a n v = { s with mem := m, hallmarks := h, badGranules := b, cxlWrites := w } := by
  unfold State.writeAt
  dsimp only
  split
  · exact ⟨_, s.hallmarks, s.badGranules, _, rfl⟩
  · split
    · exact ⟨_, s.hallmarks, _, s.cxlWrites, rfl⟩
    · exact ⟨_, _, _, s.cxlWrites, rfl⟩

theorem State.writeBytes_eq (g : Hm) (fuel : Nat) : ∀ (s : State) (a n v : Nat), ∃ m h b w,
    s.writeBytes g a fuel n v = { s with mem := m, hallmarks := h, badGranules := b, cxlWrites := w } := by
  induction fuel with
  | zero => exact fun s _ _ _ => ⟨s.mem, s.hallmarks, s.badGranules, s.cxlWrites, rfl⟩
  | succ fuel ih =>
    intro s a n v
    rw [State.writeBytes]
    split
    · exact ⟨s.mem, s.hallmarks, s.badGranules, s.cxlWrites, rfl⟩
    · obtain ⟨m, h, b, w, he⟩ := s.writeAt_eq g a (min n (128 - a % 128)) (v % 2 ^ (8 * min n (128 - a % 128)))
      obtain ⟨m', h', b', w', he'⟩ := ih (s.writeAt g a (min n (128 - a % 128)) (v % 2 ^ (8 * min n (128 - a % 128))))
        (a + min n (128 - a % 128)) (n - min n (128 - a % 128)) (v / 2 ^ (8 * min n (128 - a % 128)))
      refine ⟨m', h', b', w', ?_⟩
      rw [he', he]

theorem State.write_eq (s : State) (g : Hm) (a n v : Nat) : ∃ m h b w,
    s.write g a n v = { s with mem := m, hallmarks := h, badGranules := b, cxlWrites := w } := State.writeBytes_eq ..

/-! ### What settling and a rotation change -/

theorem State.settle_eq (s : State) (c : Nat) : ∃ cs, s.settle c = { s with cores := cs } := by
  unfold State.settle
  dsimp only
  split
  · exact ⟨s.cores, rfl⟩
  · exact ⟨_, rfl⟩

theorem State.foldl_settle_eq (cs : List Nat) : ∀ s : State, ∃ ks, cs.foldl State.settle s = { s with cores := ks } := by
  induction cs with
  | nil => exact fun s => ⟨s.cores, rfl⟩
  | cons c cs ih =>
    intro s
    obtain ⟨ks, he⟩ := s.settle_eq c
    obtain ⟨ks', he'⟩ := ih (s.settle c)
    exact ⟨ks', by rw [List.foldl, he', he]⟩

theorem State.settleDie_eq (s : State) (d : Nat) : ∃ ks, s.settleDie d = { s with cores := ks } := State.foldl_settle_eq ..

theorem State.rotate_eq (s : State) (d key : Nat) (g : Hm) : ∃ r, s.rotate d key g = { s with rot := r } := by
  unfold State.rotate
  split
  · split
    · exact ⟨s.rot, rfl⟩
    · exact ⟨_, rfl⟩
  · exact ⟨s.rot, rfl⟩

/-! ### Drain and send -/

theorem sbDrain_current {s : State} {c i : Nat} {a : Acc} {older : List Acc} (ha : (s.core c).acc i = some (a, older))
    (hk : a.kind = .store) (hd : a.done = false) (hg : s.mayGo c older a = true) (hcur : s.isCurrent (dieOf c) a.gen = true) :
    exec (.sbDrain c i) s = .next (((s.updCore c (fun k => k.setAcc i { a with done := true })).updDie (dieOf c) (fun x =>
      { x with op := x.op ++ [{ wid := a.id, core := c, gen := a.gen, tgt := a.tgt, size := a.size
                                data := a.data.setWidth 1024, scope := a.scope, va := a.va }] })).settle c) := by
  rw [exec_sbDrain, execSbDrain, ha]
  simp only [hk, hd, hg, hcur, beq_self_eq_true, Bool.not_false, Bool.and_self, if_true]
  rfl

section Send
variable {s : State} {d i : Nat} {e : OpEntry} (he : (s.die d).op[i]? = some e) (hs : e.sent = false)
  (hfirst : ∀ q ∈ (s.die d).op.take i, q.sent = true ∨ q.gen ≠ e.gen ∨ sameHome q.tgt e.tgt = false)
  (hcur : s.isCurrent d e.gen = true)
include he hs hfirst hcur

/-- The write marked as sent in a direction. -/
def State.markSent (s : State) (d i : Nat) (e : OpEntry) (dir : Nat) : State :=
  s.updDie d (fun x => { x with op := x.op.set i { e with sent := true, dir := dir } })

/-- A write that goes first is on its way where no other of its home is on another route. -/
theorem send_first : exec (.send d i) s =
    let moved := fun (dir : Nat) => (s.die d).op.any
      (fun q => q.sent && sameHome q.tgt e.tgt && (q.tgt.die != e.tgt.die || q.dir != dir))
    if e.tgt.die = d then
      (if moved 0 || s.outWaits e.tgt then .next s else .next ((s.markSent d i e 0).toPort e.tgt e.gen d e.wid))
    else match s.route d e.tgt.die with
      | none => .next (s.lostWrite d e)
      | some up => if moved (if up then 1 else 2) then .next s
        else .next { (s.markSent d i e (if up then 1 else 2)) with
          links := Sparse.upd [] (linkKey d up) (fun q => q ++ [(d, e.wid, e.tgt.die)]) s.links } := by
  have hf : ((s.die d).op.take i).any (fun q => !q.sent && q.gen == e.gen && sameHome q.tgt e.tgt) = false := by
    rw [List.any_eq_false]
    intro q hq
    rcases hfirst q hq with h | h | h <;> simp [h]
  rw [exec_send, execSend]
  simp only [he, hs, hf, hcur, Bool.or_self, Bool.false_eq_true, if_false, Bool.not_true]
  rfl

omit he hs hfirst hcur in
theorem not_moved {dir : Nat} (h : ∀ q ∈ (s.die d).op, q.sent = false ∨ sameHome q.tgt e.tgt = false
    ∨ q.tgt.die = e.tgt.die ∧ q.dir = dir) :
    (s.die d).op.any (fun q => q.sent && sameHome q.tgt e.tgt && (q.tgt.die != e.tgt.die || q.dir != dir)) = false := by
  rw [List.any_eq_false]
  intro q hq
  rcases h q hq with h | h | ⟨h, h'⟩
  · simp [h]
  · simp [h]
  · simp [h, h']

end Send

/-! ### Hop and apply -/

theorem hop_head {s : State} {l d w dest : Nat} {up : Bool} {t : List (Nat × Nat × Nat)} {e : OpEntry}
    (hq : Sparse.get [] (2 * l + (if up then 0 else 1)) s.links = (d, w, dest) :: t) (hst : (s.link l).st = 0)
    (he : (s.die d).entry w = some e) (hgot : 144 ≤ ((s.link l).dir up).got) :
    let here := if up then (l + 1) % 8 else l
    let s1 := { s with links := Sparse.put [] (2 * l + (if up then 0 else 1)) t s.links }.updLink l (fun x =>
      x.updDir up (fun y => { y with got := y.got - 144 }))
    exec (.hop l up) s = .next (if s.isCurrent here e.gen = false then s1.dropStale d e
      else if here = dest then (if s.outWaits e.tgt then s else s1.toPort e.tgt e.gen d w)
      else if s.linkClosed here up = true ∧ s.older [(d, w, dest)] = true then s else s1.toLink here up d w dest) := by
  intro here s1
  rw [exec_hop, execHop, if_neg (not_not.2 hst)]
  refine congrArg Host.Outcome.next ?_
  rw [State.hop, hq]
  dsimp only
  rw [if_neg (show ¬ ((s.link l).dir up).got < messageBytes from not_lt.2 hgot), he]
  exact if_congr (by rw [Bool.not_eq_true']) rfl (ite_congr rfl (fun _ => rfl) fun _ => if_congr (Bool.and_eq_true ..).to_iff rfl rfl)

/-- The head of a port queue is applied at its home. -/
theorem apply_head {s : State} {port d w : Nat} {g : Hm} {q : List (Nat × Nat)} {e : OpEntry}
    (hq : Sparse.get [] (portKey port g) s.ports = (d, w) :: q) (hd : d < 8) (he : (s.die d).entry w = some e)
    (hlost : s.wayLost e.tgt.die e.tgt = false) (hopen : s.homeOpen e.tgt = true) (hway : s.wayOpen e.tgt.die e.tgt = true)
    (hv : s.violates e.tgt = false) (hlive : s.writeLive e.gen e.tgt = true)
    (hturn : s.portTurn port (if dlaCxl e.tgt.dla then e.tgt.die else s.owner (dlaStack e.tgt.dla)) g = true) (hthr : e.thr = none) :
    exec (.apply port g) s = .next ((((({ s with ports := Sparse.put [] (portKey port g) q s.ports }.rotate
      (if dlaCxl e.tgt.dla then e.tgt.die else s.owner (dlaStack e.tgt.dla)) port g).updDie d
        (fun x => { x with op := x.op.filter (fun q => q.wid != w) })).write e.tgt.gen e.tgt.dla e.size e.data.toNat)).settleDie d) := by
  have hcount : ∀ t : State, t.countWrite e = t := fun t => by simp only [State.countWrite, hthr]
  rw [exec_apply, execApply, hq]
  dsimp only
  rw [if_neg (by rw [decide_eq_false (show ¬ 1024 ≤ d by omega)]; exact Bool.false_ne_true), he]
  dsimp only
  rw [if_neg (by rw [hopen]; exact Bool.false_ne_true), if_neg (by rw [hlost]; exact Bool.false_ne_true),
    if_neg (by rw [hopen, hway, hturn]; exact Bool.false_ne_true), if_neg (by rw [hv]; exact Bool.false_ne_true), if_pos hlive,
    hcount, ite_self]
  rfl

/-- Settles O26: drain, send, hop and apply, each where it goes on. -/
theorem writesTravelToTheirHomes : Obligations.WritesTravelToTheirHomes := by
  refine ⟨fun s c i a older ha hk hd hg hcur => sbDrain_current ha hk hd hg hcur, fun s d i e he hs hfirst hcur => ?send,
    fun s l d w dest up t e => ?hop, fun s port d w g q e hq hd he hlost hopen hway hv hlive hturn hthr => ?apply⟩
  case send =>
    intro mark alone
    refine ⟨fun hdie hal hout => ?_, fun hdie up hr hal => ?_⟩
    · rw [send_first he hs hfirst hcur]
      simp only [if_pos hdie, not_moved hal, hout, Bool.or_self, Bool.false_eq_true, if_false]
      rfl
    · rw [send_first he hs hfirst hcur]
      simp only [if_neg hdie, hr, not_moved hal, Bool.false_eq_true, if_false]
      rfl
  case hop =>
    intro key here hq hst he hgot s1
    have hhop := hop_head hq hst he hgot
    refine ⟨fun hcur => ?_, fun hcur => ?_⟩
    · rw [hhop]
      rw [if_neg (by rw [Bool.not_eq_false]; exact hcur)]
    · rw [hhop]
      rw [if_pos hcur]
  case apply =>
    refine ⟨_, apply_head hq hd he hlost hopen hway hv hlive hturn hthr, ?_⟩
    generalize (if dlaCxl e.tgt.dla then e.tgt.die else s.owner (dlaStack e.tgt.dla)) = owner
    obtain ⟨r, hr⟩ := State.rotate_eq { s with ports := Sparse.put [] (portKey port g) q s.ports } owner port g
    rw [hr]
    generalize ht : State.updDie _ d _ = u
    have hsame : u.SameMemory s := by rw [← ht]; exact ⟨rfl, rfl, rfl, rfl⟩
    have hwrite := hsame.write e.tgt.gen e.tgt.dla e.size e.data.toNat
    obtain ⟨m, h, b, x, hw⟩ := u.write_eq e.tgt.gen e.tgt.dla e.size e.data.toNat
    obtain ⟨ks, hset⟩ := (u.write e.tgt.gen e.tgt.dla e.size e.data.toNat).settleDie_eq d
    rw [hset]
    refine ⟨hwrite.mem, hwrite.hallmarks, fun y hy => ?_, ?_⟩
    · rw [hw, ← ht] at hy
      have hop : y ∈ (s.die d).op.filter (fun q => q.wid != w) := by
        have := State.die_updDie_same { s with ports := Sparse.put [] (portKey port g) q s.ports, rot := r } d
          (fun x => { x with op := x.op.filter (fun q => q.wid != w) })
        exact (congrArg (fun z : Die => y ∈ z.op) this).mp hy
      exact bne_iff_ne.1 (List.mem_filter.1 hop).2
    · rw [hw, ← ht]
      exact Sparse.get_put_same

end Sys2Proof.Machine
end

section
/-! PROOFS. Memory reads back what is written (spec 15 R343-R348, spec 09 R182). -/

namespace Sys2Proof.Machine

/-! ### Runs of a sparse table -/

section Runs
variable {α : Type} {d e : α}

theorem Sparse.get_append (j : Nat) : ∀ l r : Sparse α, Sparse.get d j (l ++ r) = Sparse.get (Sparse.get d j r) j l
  | [], _ => rfl
  | (i, v) :: l, r => by
    rw [List.cons_append, Sparse.get, Sparse.get, Sparse.get_append j l r]

variable [DecidableEq α]

/-- Keys below all those listed hold the default. -/
theorem Sparse.get_of_lt {lo j : Nat} (hj : j < lo) : ∀ {m : Sparse α}, Sparse.wfFrom d lo m = true → Sparse.get e j m = e
  | [], _ => rfl
  | (i, v) :: t, h => by
    simp only [Sparse.wfFrom, Bool.and_eq_true, decide_eq_true_eq] at h
    obtain ⟨⟨hi, -⟩, ht⟩ := h
    rw [Sparse.get, if_neg (by omega), Sparse.get_of_lt (by omega) ht]

theorem Sparse.get_takeWhile (k j : Nat) : ∀ {lo : Nat} {m : Sparse α}, Sparse.wfFrom d lo m = true →
    Sparse.get e j (m.takeWhile fun x => decide (x.1 < k)) = if j < k then Sparse.get e j m else e
  | _, [], _ => by simp [Sparse.get]
  | lo, (i, v) :: t, h => by
    simp only [Sparse.wfFrom, Bool.and_eq_true, decide_eq_true_eq] at h
    obtain ⟨-, ht⟩ := h
    rw [List.takeWhile_cons]
    by_cases hi : i < k
    · rw [decide_eq_true hi, if_pos rfl, Sparse.get, Sparse.get, Sparse.get_takeWhile k j ht]
      by_cases hij : i = j
      · simp [hij, show j < k from hij ▸ hi]
      · simp [hij]
    · rw [decide_eq_false hi, if_neg Bool.false_ne_true, Sparse.get, Sparse.get]
      split
      · rw [if_neg (by omega), Sparse.get_of_lt (by omega) ht]
      · rfl

theorem Sparse.get_dropWhile (k j : Nat) : ∀ {lo : Nat} {m : Sparse α}, Sparse.wfFrom d lo m = true →
    Sparse.get e j (m.dropWhile fun x => decide (x.1 < k)) = if k ≤ j then Sparse.get e j m else e
  | _, [], _ => by simp [Sparse.get]
  | lo, (i, v) :: t, h => by
    have h' := h
    simp only [Sparse.wfFrom, Bool.and_eq_true, decide_eq_true_eq] at h
    obtain ⟨-, ht⟩ := h
    rw [List.dropWhile_cons]
    by_cases hi : i < k
    · rw [decide_eq_true hi, if_pos rfl, Sparse.get_dropWhile k j ht, Sparse.get]
      by_cases hij : i = j
      · simp [show ¬ k ≤ j by omega]
      · simp [hij]
    · rw [decide_eq_false hi, if_neg Bool.false_ne_true]
      split
      · rfl
      · rw [Sparse.get, if_neg (by omega), Sparse.get_of_lt (by omega) ht]

theorem Sparse.get_ofRun (j : Nat) : ∀ (k : Nat) (vs : List α),
    Sparse.get d j (Sparse.ofRun d k vs) = if k ≤ j then vs.getD (j - k) d else d
  | k, [] => by simp [Sparse.ofRun]
  | k, v :: t => by
    have ih := Sparse.get_ofRun j (k + 1) t
    have hget : Sparse.get d j (Sparse.ofRun d k (v :: t)) = if k = j then v else Sparse.get d j (Sparse.ofRun d (k + 1) t) := by
      rw [Sparse.ofRun]
      split
      · next hv =>
        split
        · next hk => rw [ih, if_neg (by omega), hv]
        · rfl
      · rfl
    rw [hget, ih]
    by_cases hk : k = j
    · subst hk
      simp
    · rw [if_neg hk]
      by_cases hlt : k ≤ j
      · obtain ⟨i, hi⟩ : ∃ i, j - k = i + 1 := ⟨j - k - 1, by omega⟩
        rw [if_pos hlt, if_pos (by omega), hi, List.getD_cons_succ, show j - (k + 1) = i by omega]
      · rw [if_neg hlt, if_neg (by omega)]

/-- What a read gives after a write of a run. -/
theorem Sparse.get_putRun {m : Sparse α} (h : Sparse.wf d m = true) (k : Nat) (vs : List α) (j : Nat) :
    Sparse.get d j (Sparse.putRun d k vs m) = if k ≤ j ∧ j < k + vs.length then vs.getD (j - k) d else Sparse.get d j m := by
  rw [Sparse.putRun, Sparse.get_append, Sparse.get_append, Sparse.get_dropWhile _ _ h, Sparse.get_takeWhile _ _ h]
  rcases Nat.lt_or_ge j k with hlt | hge
  · rw [if_pos hlt, if_neg (by omega : ¬ (k + vs.length ≤ j)), if_neg (by omega : ¬ (k ≤ j ∧ j < k + vs.length)), Sparse.get_ofRun,
      if_neg (not_le.2 hlt)]
  · rw [if_neg (not_lt.2 hge)]
    rcases Nat.lt_or_ge j (k + vs.length) with hin | hout
    · rw [if_neg (not_le.2 hin), if_pos ⟨hge, hin⟩, Sparse.get_ofRun, if_pos hge]
    · rw [if_pos hout, if_neg (by omega : ¬ (k ≤ j ∧ j < k + vs.length))]
      generalize Sparse.get d j m = e
      induction vs generalizing k with
      | nil => rfl
      | cons v t ih =>
        rw [List.length_cons] at hout
        rw [Sparse.ofRun]
        split
        · exact ih (k + 1) (by omega) (by omega)
        · rw [Sparse.get, if_neg (by omega)]
          exact ih (k + 1) (by omega) (by omega)

theorem Sparse.getRun_one {m : Sparse α} (h : Sparse.wf d m = true) (k : Nat) : Sparse.getRun d k 1 m = [Sparse.get d k m] := by
  have hd := Sparse.get_dropWhile (e := d) k k h
  rw [if_pos le_rfl] at hd
  have hwf : Sparse.wfFrom d k (m.dropWhile fun x => decide (x.1 < k)) = true := Sparse.dropWhile_wfFrom h
  rw [Sparse.getRun, ← hd]
  generalize (m.dropWhile fun x => decide (x.1 < k)) = l at hwf
  cases l with
  | nil => rfl
  | cons x t =>
    obtain ⟨i, v⟩ := x
    simp only [Sparse.wfFrom, Bool.and_eq_true, decide_eq_true_eq] at hwf
    obtain ⟨⟨hi, -⟩, ht⟩ := hwf
    dsimp only
    rw [Sparse.get]
    split
    · rfl
    · rw [Sparse.get_of_lt (by omega) ht]
      rfl

end Runs

/-! ### Bytes of a value -/

theorem bytesOf_length (n : Nat) : ∀ v, (bytesOf v n).length = n := by
  induction n with
  | zero => exact fun _ => rfl
  | succ n ih => exact fun v => congrArg Nat.succ (ih _)

theorem bytesOf_getD (n : Nat) : ∀ (v : Nat) {i : Nat}, i < n → ((bytesOf v n).getD i 0).toNat = v / 2 ^ (8 * i) % 256 := by
  induction n with
  | zero => exact fun _ _ h => absurd h (Nat.not_lt_zero _)
  | succ n ih =>
    intro v i hi
    rw [bytesOf]
    cases i with
    | zero => rw [List.getD_cons_zero, BitVec.toNat_ofNat, Nat.mul_zero, Nat.pow_zero, Nat.div_one]
    | succ i =>
      rw [List.getD_cons_succ, ih _ (by omega), show (256 : Nat) = 2 ^ 8 by norm_num, div_pow_div_pow,
        show 8 + 8 * i = 8 * (i + 1) by omega]

/-- A byte of a value put at an offset. -/
theorem shifted_byte (v : Nat) {m off j : Nat} : v % 2 ^ (8 * m) * 2 ^ (8 * off) / 2 ^ (8 * j) % 256
    = if off ≤ j ∧ j < off + m then v / 2 ^ (8 * (j - off)) % 256 else 0 := by
  rcases Nat.lt_or_ge j off with h | h
  · rw [if_neg (by omega), show 8 * off = 8 * j + (8 + 8 * (off - j - 1)) by omega, Nat.pow_add, Nat.pow_add,
      show ∀ a b c d : Nat, a * (b * (c * d)) = b * (c * (a * d)) by intros; ring, Nat.mul_div_cancel_left _ (by positivity),
      show (2 : Nat) ^ 8 = 256 by norm_num, Nat.mul_mod_right]
  · obtain ⟨i, rfl⟩ := Nat.exists_eq_add_of_le h
    rw [Nat.mul_add, Nat.pow_add, Nat.mul_comm, Nat.mul_div_mul_left _ _ (by positivity), Nat.add_sub_cancel_left]
    rcases Nat.lt_or_ge i m with him | him
    · rw [if_pos (by omega), show (256 : Nat) = 2 ^ 8 by norm_num]
      exact div_mod_of_low (by omega)
    · rw [if_neg (by omega), Nat.div_eq_of_lt ((Nat.mod_lt _ (by positivity)).trans_le (Nat.pow_le_pow_right Nat.two_pos (by omega))),
        Nat.zero_mod]

/-! ### One byte of memory -/

/-- A byte at an address, as the memory list has it. -/
def State.byteAt (s : State) (b : Nat) : Nat := (Sparse.get (0#8) b s.mem).toNat
/-- Does a reader of generation g see what a granule of its own holds (R343, R348, R460)? -/
def State.sees (s : State) (g : Hm) (b : Nat) : Bool := s.isCurrent (homeDie b) g && g != nullGen && s.hasKey b g

section Bytes
variable {s : State} (hs : Memory.wf s.mem = true) {g h : Hm} {a b m : Nat}
include hs

/-- A read of one byte. -/
theorem State.read_byte : s.read h b 1 = if dlaCxl b = true ∨ Sparse.get nullGen (b / 128) s.hallmarks = h ∧ s.sees h b = true
    then s.byteAt b else 0 := by
  have hone : granules b 1 = 1 := by unfold granules; omega
  have hmin : min 1 (128 - b % 128) = 1 := by omega
  rw [State.read, hone, State.readBytes, hmin, if_neg (by norm_num)]
  simp only [State.readBytes, Nat.mul_zero, Nat.add_zero, State.readAt, State.sees, Bool.or_eq_true, Bool.and_eq_true, beq_iff_eq,
    and_assoc, rawBytes, Sparse.getRun_one hs, List.foldr]
  rfl

end Bytes

theorem dlaCxl_granule {a b : Nat} (h : b / 128 = a / 128) : dlaCxl b = dlaCxl a := by
  unfold dlaCxl dlaKind
  rw [show b / 2 ^ 45 = a / 2 ^ 45 by omega]

section Piece
variable {s : State} {g h : Hm} {a b m v : Nat}

theorem State.writeAt_sees : (s.writeAt g a m v).sees h b = s.sees h b := by
  unfold State.writeAt
  dsimp only
  split
  · rfl
  · split <;> rfl

/-- The hallmark of a granule after a write of a piece of one. -/
theorem State.writeAt_hallmark : Sparse.get nullGen (b / 128) (s.writeAt g a m v).hallmarks
    = if b / 128 = a / 128 ∧ dlaCxl a = false then g else Sparse.get nullGen (b / 128) s.hallmarks := by
  unfold State.writeAt
  dsimp only
  by_cases hc : dlaCxl a = true
  · simp [hc]
  · rw [if_neg hc]
    rw [Bool.not_eq_true] at hc
    by_cases hg : Sparse.get nullGen (a / 128) s.hallmarks = g
    · rw [if_pos hg]
      by_cases he : b / 128 = a / 128 ∧ dlaCxl a = false
      · rw [if_pos he, he.1]
        exact hg
      · rw [if_neg he]
    · rw [if_neg hg]
      dsimp only
      rw [Sparse.get_put]
      simp [hc]

/-- A byte after a write of a piece of a granule: the new byte, zero in a granule that is retagged, or as it was. -/
theorem State.writeAt_byte (hs : Memory.wf s.mem = true) (hm : m ≤ 128 - a % 128) : (s.writeAt g a m v).byteAt b
    = if a ≤ b ∧ b < a + m then v / 2 ^ (8 * (b - a)) % 256
      else if b / 128 = a / 128 ∧ dlaCxl a = false ∧ Sparse.get nullGen (a / 128) s.hallmarks ≠ g then 0 else s.byteAt b := by
  have hkeep : (Sparse.get (0#8) b (Sparse.putRun (0#8) a (bytesOf v m) s.mem)).toNat
      = if a ≤ b ∧ b < a + m then v / 2 ^ (8 * (b - a)) % 256 else s.byteAt b := by
    rw [Sparse.get_putRun hs, bytesOf_length]
    split
    · next hb => exact bytesOf_getD _ _ (by omega)
    · rfl
  unfold State.writeAt
  dsimp only
  by_cases hc : dlaCxl a = true
  · rw [if_pos hc]
    refine hkeep.trans ?_
    simp [hc]
  · rw [if_neg hc]
    rw [Bool.not_eq_true] at hc
    by_cases hg : Sparse.get nullGen (a / 128) s.hallmarks = g
    · rw [if_pos hg]
      refine hkeep.trans ?_
      simp [hg]
    · rw [if_neg hg]
      have hput := Sparse.get_putRun hs (a / 128 * 128) (bytesOf (v % 2 ^ (8 * m) * 2 ^ (8 * (a - a / 128 * 128))) 128) b
      rw [bytesOf_length] at hput
      change (Sparse.get (0#8) b (Sparse.putRun (0#8) (a / 128 * 128) _ s.mem)).toNat = _
      rw [hput]
      have hgran : b / 128 = a / 128 ↔ a / 128 * 128 ≤ b ∧ b < a / 128 * 128 + 128 := by omega
      by_cases hb : b / 128 = a / 128
      · rw [if_pos (hgran.1 hb)]
        refine (bytesOf_getD _ _ (by omega)).trans ?_
        rw [shifted_byte]
        by_cases hin : a ≤ b ∧ b < a + m
        · rw [if_pos (by omega), if_pos hin, show b - a / 128 * 128 - (a - a / 128 * 128) = b - a by omega]
        · rw [if_neg (by omega), if_neg hin, if_pos ⟨hb, hc, hg⟩]
      · rw [if_neg (mt hgran.2 hb), if_neg (by omega), if_neg (fun h => hb h.1)]
        rfl

/-- A piece of a granule, read under the generation that wrote it. -/
theorem State.writeAt_read_in (hs : Memory.wf s.mem = true) (hm : m ≤ 128 - a % 128) (hb : a ≤ b ∧ b < a + m)
    (hv : dlaCxl b = true ∨ s.sees g b = true) : (s.writeAt g a m v).read g b 1 = v / 2 ^ (8 * (b - a)) % 256 := by
  have hgran : b / 128 = a / 128 := by omega
  rw [State.read_byte (State.writeAt_wf _ _ _ _ hs), State.writeAt_sees, State.writeAt_hallmark, State.writeAt_byte hs hm, if_pos hb]
  rw [if_pos]
  rcases hv with hv | hv
  · exact .inl hv
  · by_cases hc : dlaCxl a = true
    · exact .inl ((dlaCxl_granule hgran).trans hc)
    · exact .inr ⟨if_pos ⟨hgran, by rwa [Bool.not_eq_true] at hc⟩, hv⟩

/-- Every other byte, read under that generation. -/
theorem State.writeAt_read_out (hs : Memory.wf s.mem = true) (hm : m ≤ 128 - a % 128) (hb : b < a ∨ a + m ≤ b) :
    (s.writeAt g a m v).read g b 1 = s.read g b 1 := by
  rw [State.read_byte (State.writeAt_wf _ _ _ _ hs), State.read_byte hs, State.writeAt_sees, State.writeAt_hallmark,
    State.writeAt_byte hs hm, if_neg (by omega : ¬ (a ≤ b ∧ b < a + m))]
  by_cases hgran : b / 128 = a / 128
  · have hcb := dlaCxl_granule hgran
    by_cases hc : dlaCxl a = true
    · simp [hc, hcb]
    · rw [Bool.not_eq_true] at hc
      by_cases hg : Sparse.get nullGen (a / 128) s.hallmarks = g
      · simp [hgran, hc, hg]
      · simp [hgran, hc, hcb, hg]
  · simp [hgran]

/-- Every other byte, read under another generation. -/
theorem State.writeAt_read_other (hs : Memory.wf s.mem = true) (hm : m ≤ 128 - a % 128) (hb : b < a ∨ a + m ≤ b) (hh : h ≠ g) :
    (s.writeAt g a m v).read h b 1 = if b / 128 = a / 128 ∧ dlaCxl b = false then 0 else s.read h b 1 := by
  rw [State.read_byte (State.writeAt_wf _ _ _ _ hs), State.read_byte hs, State.writeAt_sees, State.writeAt_hallmark,
    State.writeAt_byte hs hm, if_neg (by omega : ¬ (a ≤ b ∧ b < a + m))]
  by_cases hgran : b / 128 = a / 128
  · have hcb := dlaCxl_granule hgran
    by_cases hc : dlaCxl a = true
    · simp [hc, hcb]
    · rw [Bool.not_eq_true] at hc
      simp [hgran, hc, hcb, Ne.symm hh]
  · simp [hgran]

end Piece

/-! ### A whole write -/

section Whole
variable {g h : Hm}

theorem State.writeBytes_sees (fuel : Nat) {b : Nat} : ∀ (s : State) (a n v : Nat), (s.writeBytes g a fuel n v).sees h b = s.sees h b := by
  induction fuel with
  | zero => exact fun _ _ _ _ => rfl
  | succ fuel ih =>
    intro s a n v
    rw [State.writeBytes]
    split
    · rfl
    · rw [ih, State.writeAt_sees]

/-- The bytes outside a write read to its generation as before. -/
theorem State.writeBytes_read_out (fuel : Nat) {b : Nat} : ∀ (s : State) (a n v : Nat), Memory.wf s.mem = true → (b < a ∨ a + n ≤ b) →
    (s.writeBytes g a fuel n v).read g b 1 = s.read g b 1 := by
  induction fuel with
  | zero => exact fun _ _ _ _ _ _ => rfl
  | succ fuel ih =>
    intro s a n v hs hb
    rw [State.writeBytes]
    split
    · rfl
    · rw [ih _ _ _ _ (State.writeAt_wf _ _ _ _ hs) (by omega), State.writeAt_read_out hs (by omega) (by omega)]

/-- The granules of a write that is not over when its first granule is. -/
theorem granules_rest {a n : Nat} (h : 128 - a % 128 < n) : granules a n = granules (a + (128 - a % 128)) (n - (128 - a % 128)) + 1 := by
  unfold granules
  omega

theorem State.writeBytes_read_in (fuel : Nat) {i : Nat} : ∀ (s : State) (a n v : Nat), Memory.wf s.mem = true → granules a n ≤ fuel →
    i < n → (dlaCxl (a + i) = true ∨ s.sees g (a + i) = true) →
    (s.writeBytes g a fuel n v).read g (a + i) 1 = v / 2 ^ (8 * i) % 256 := by
  induction fuel generalizing i with
  | zero =>
    intro s a n v _ hf hi _
    unfold granules at hf
    omega
  | succ fuel ih =>
    intro s a n v hs hf hi hv
    rw [State.writeBytes, if_neg (by omega)]
    generalize hm : min n (128 - a % 128) = m
    have hs' := State.writeAt_wf g a m (v % 2 ^ (8 * m)) hs
    rcases Nat.lt_or_ge i m with him | him
    · rw [State.writeBytes_read_out _ _ _ _ _ hs' (by omega), State.writeAt_read_in hs (by omega) (by omega) hv,
        Nat.add_sub_cancel_left, show (256 : Nat) = 2 ^ 8 by norm_num, div_mod_of_low (by omega)]
    · have hfit : granules (a + m) (n - m) ≤ fuel := by
        have hr := granules_rest (a := a) (n := n) (by omega)
        rw [show 128 - a % 128 = m by omega] at hr
        omega
      have hrec := ih (i := i - m) _ (a + m) (n - m) (v / 2 ^ (8 * m)) hs' hfit (by omega)
        (by rw [State.writeAt_sees, show a + m + (i - m) = a + i by omega]; exact hv)
      rw [show a + m + (i - m) = a + i by omega, div_pow_div_pow, show 8 * m + 8 * (i - m) = 8 * i by omega] at hrec
      exact hrec

theorem State.writeBytes_read_other (hh : h ≠ g) (fuel : Nat) {b : Nat} : ∀ (s : State) (a n v : Nat), Memory.wf s.mem = true →
    (n ≠ 0 → granules a n ≤ fuel) → (b < a ∨ a + n ≤ b) → (s.writeBytes g a fuel n v).read h b 1
      = if 0 < n ∧ a / 128 ≤ b / 128 ∧ b / 128 ≤ (a + n - 1) / 128 ∧ dlaCxl b = false then 0 else s.read h b 1 := by
  induction fuel with
  | zero =>
    intro s a n v _ hf hb
    unfold granules at hf
    rw [State.writeBytes, if_neg (by omega)]
  | succ fuel ih =>
    intro s a n v hs hf hb
    rw [State.writeBytes]
    by_cases hn : n = 0
    · rw [if_pos hn, if_neg (by omega)]
    rw [if_neg hn]
    generalize hm : min n (128 - a % 128) = m
    have hs' := State.writeAt_wf g a m (v % 2 ^ (8 * m)) hs
    have hfit : n - m ≠ 0 → granules (a + m) (n - m) ≤ fuel := fun hrest => by
      have hr := granules_rest (a := a) (n := n) (by omega)
      rw [show 128 - a % 128 = m by omega] at hr
      have := hf hn
      omega
    rw [ih _ _ _ _ hs' hfit (by omega), State.writeAt_read_other hs (by omega) (by omega) hh]
    by_cases hc : dlaCxl b = false
    · simp only [hc, and_true]
      by_cases hgran : b / 128 = a / 128
      · rw [if_pos hgran, ite_self, if_pos (by omega)]
      · rw [if_neg hgran]
        exact if_congr (by omega) rfl rfl
    · simp [hc]

end Whole

/-- Settles O27: what a write of granule pieces leaves of each byte (State.writeBytes_read_in, _out, _other). -/
theorem memoryReadsBackWrites : Obligations.MemoryReadsBackWrites := by
  intro s g a n v hs t
  refine ⟨fun hv i hi => State.writeBytes_read_in _ s a n v hs le_rfl hi ?_, fun b hb =>
    ⟨State.writeBytes_read_out _ s a n v hs hb, fun h hh => State.writeBytes_read_other hh _ s a n v hs (fun _ => le_rfl) hb⟩⟩
  rcases hv i hi with h | ⟨hnull, hcur, hkey⟩
  · exact .inl h
  · exact .inr (by rw [State.sees, hcur, hkey, Bool.and_true, Bool.true_and, bne_iff_ne]; exact hnull)

end Sys2Proof.Machine
end

section
/-! PROOFS. L0 and the translation caches (spec 12 R280-R288, spec 13 R291). -/

namespace Sys2Proof.Machine

section Fill
variable {s : State} {c : Nat} {va : W64} {t : Target}

/-- A line that enters an L0 with room for it. -/
theorem Core.fillL0_room {k : Core} {n : Nat} (h : k.l0.length < 256 ∨ n ∈ k.l0.map Prod.fst) (l : L0Line) :
    k.fillL0 n l = { k with l0 := Sparse.put {} n l k.l0 } := by
  unfold Core.fillL0
  rw [if_pos]
  rcases h with h | h
  · rw [show l0Lines = 256 from rfl, decide_eq_true h, Bool.true_or]
  · rw [List.contains_iff_mem.2 h, Bool.or_true]

/-- A fill at its turn ends the PREFs of its line, and copies the line where nothing bars it (R280, R281, R291). -/
theorem fill_turn (ht : s.translateCore c va 0 .read = .ok t) (ho : s.homeOpen t = true) (hw : s.wayOpen (dieOf c) t = true)
    (hb : s.badAt t.dla = false) (hf : s.portFree t (s.coreGen c) = true) :
    let s1 := (s.afterRead t (s.coreGen c) []).updCore c fun k =>
      { k with prefs := k.prefs.filter (fun p => p.1 != t.gen || p.2.1 != t.dla / 128) }
    exec (.fill c va) s = .next (if t.cp ≠ 0 ∨ (s.core c).hintBars (t.dla / 128) = true then s1
      else s1.updCore c fun k => k.fillL0 (t.dla / 128)
        { gen := t.gen, data := s.lineAt (dieOf c) t, writes := (s.die (dieOf c)).lineWrites t }) := by
  intro s1
  rw [exec_fill, execFill, ht]
  dsimp only
  rw [if_neg (by rw [ho, hw, hb, hf]; exact Bool.false_ne_true)]
  have hcond : ((decide (t.cp ≠ 0)) || (s.core c).hintBars (t.dla / 128)) = true
      ↔ t.cp ≠ 0 ∨ (s.core c).hintBars (t.dla / 128) = true := by rw [Bool.or_eq_true, decide_eq_true_eq]
  by_cases h : t.cp ≠ 0 ∨ (s.core c).hintBars (t.dla / 128) = true
  · rw [if_pos (hcond.2 h), if_pos h]
    rfl
  · rw [if_neg (mt hcond.1 h), if_neg h]
    rfl

end Fill

/-- An invalidation whose accesses are all performed is complete (R288). -/
theorem invalidationComplete_performed {s : State} {d id : Nat} {w : Inval}
    (hw : (s.die d).invals.find? (fun j => j.id == id) = some w)
    (hc : ∀ q ∈ w.cores, ∀ x ∈ (s.core q.1).accs, x.id ≠ q.2) (hd : ∀ q ∈ w.writes, (s.die q.1).inOp q.2 = false)
    (hb : ∀ q ∈ w.beats, ∀ x ∈ (s.core q.1).copies, x.id = q.2.1 → x.ended = false → ∀ h ∈ x.held, h.1 ≠ q.2.2) :
    exec (.invalidationComplete d id) s = .next (s.updDie d (fun x => { x with invals := x.invals.filter (fun j => j.id != id) })) := by
  have hcores : w.cores.any (fun p => (s.core p.1).accs.any (fun a => a.id == p.2)) = false := by
    simp only [List.any_eq_false, Bool.not_eq_true, beq_eq_false_iff_ne]
    exact hc
  have hwrites : w.writes.any (fun p => (s.die p.1).inOp p.2) = false := by
    simp only [List.any_eq_false, Bool.not_eq_true]
    exact hd
  have hbeats : w.beats.any (fun p => (s.core p.1).copies.any
      (fun x => x.id == p.2.1 && !x.ended && x.held.any (fun h => h.1 == p.2.2))) = false := by
    simp only [List.any_eq_false, Bool.and_eq_true, beq_iff_eq, Bool.not_eq_true', List.any_eq_true, not_and, not_exists, and_imp]
    exact hb
  rw [exec_invalidationComplete, execInvalidationComplete, hw]
  dsimp only
  rw [if_neg (by rw [hcores, hwrites, hbeats]; exact Bool.false_ne_true)]
  rfl

/-- Settles O28: fills by fill_turn, the walks and replacements by their events, an invalidation's end by
invalidationComplete_performed. -/
theorem cachesFillAndEvict : Obligations.CachesFillAndEvict := by
  intro s c
  refine ⟨fun va t ht ho hw hb hf => ?fill, fun l => exec_evict .., fun ten va e hten hfill hroom u => ?tlb,
    fun ten va e hfill hroom => ?etlb, fun ten va e hfill hroom => ?s2c, fun i => ⟨exec_tlbReplacement .., exec_tlbReplacement ..,
      exec_tlbReplacement .., fun kind ten a id hr => ?request, fun id w => invalidationComplete_performed⟩⟩
  case fill =>
    intro turned n l ends
    refine ⟨fun h => ?_, fun hcp hbars hroom => ?_⟩
    · rw [fill_turn ht ho hw hb hf, if_pos h]
    · rw [fill_turn ht ho hw hb hf, if_neg (by rw [not_or, not_not, Bool.not_eq_true]; exact ⟨hcp, hbars⟩)]
      refine congrArg Host.Outcome.next (State.updCore_congr (Core.fillL0_room ?_ _))
      rw [State.core_updCore_same, State.afterRead_core]
      exact hroom
  case tlb =>
    rw [exec_walkComplete, execWalkComplete]
    rw [hten]
    dsimp only
    rw [Nat.mod_mod_of_dvd _ (by norm_num : 2 ^ 48 ∣ 2 ^ 52), hfill]
    exact if_neg (not_le.2 hroom)
  case etlb =>
    rw [exec_walkComplete, execWalkComplete]
    rw [Nat.mod_mod_of_dvd _ (by norm_num : 2 ^ 48 ∣ 2 ^ 52), hfill]
    exact if_neg (not_le.2 hroom)
  case s2c =>
    refine (exec_walkComplete ..).trans ?_
    simp only [execWalkComplete, hfill]
    exact if_neg (not_le.2 hroom)
  case request =>
    rw [exec_invalidationRequest, execInvalidationRequest, if_neg (by rw [hr]; exact Bool.false_ne_true)]
    rfl

end Sys2Proof.Machine
end

section
/-! PROOFS. Buffer handles, interrupt enables and banks (spec 05 R105, spec 09 R185-R193, R198-R201). -/

namespace Sys2Proof.Machine

/-- A change of the core at hand that keeps what its generation depends on keeps the generation (R68). -/
theorem State.gen_updK {s : State} {f : Core → Core} (hl : (f s.k).lvl = s.k.lvl) (ht : (f s.k).ten = s.k.ten)
    (hs : (f s.k).stopping = s.k.stopping) (hc : (f s.k).ctxGen = s.k.ctxGen) : (s.updK f).gen = s.gen := by
  have hk : (s.updK f).core s.cur.core = f s.k := s.k_updK f
  exact State.coreGen_eq_of_fields rfl ((congrArg Core.lvl hk).trans hl) ((congrArg Core.ten hk).trans ht)
    ((congrArg Core.stopping hk).trans hs) ((congrArg Core.ctxGen hk).trans hc)

/-- A handle bears the hallmark it is read under (R186). -/
theorem Core.handle_hm (k : Core) (g : Hm) (h : Nat) : (k.handle g h).hm = g := by
  unfold Core.handle
  dsimp only
  split
  · assumption
  · rfl

/-- Written as it reads, a handle reads as before. -/
theorem Core.handle_tagged (k : Core) (g : Hm) (h : Nat) : { k.handle g h with hm := g } = k.handle g h := by
  have := k.handle_hm g h
  generalize k.handle g h = x at this
  subst this
  rfl

/-- Instruction i leaves y, tagged, in handle h, and memory, registers and every other handle as they were. -/
def State.LeavesHandle (s : State) (i : Instr) (h : Nat) (y : Handle) : Prop :=
  ∃ t, exec i s = .next t ∧ t.gen = s.gen ∧ t.mem = s.mem ∧ t.k.sregs = s.k.sregs
    ∧ t.k.handle s.gen h = { y with hm := s.gen } ∧ ∀ m, m ≠ h → t.k.handle s.gen m = s.k.handle s.gen m

theorem State.leavesHandle_of_set {s : State} {i : Instr} {h : Nat} {y : Handle}
    (hx : exec i s = .next (s.updK (fun k => k.setHandle s.gen h y))) : s.LeavesHandle i h y := by
  obtain ⟨a, u, cs, st, e⟩ := s.k.setHandle_cases s.gen h y
  have hk := s.k_updK (fun k => k.setHandle s.gen h y)
  refine ⟨_, hx, State.gen_updK ?_ ?_ ?_ ?_, rfl, ?_, ?_, fun m hm => ?_⟩
  · rw [e]
  · rw [e]
  · rw [e]
  · rw [e]
  · rw [hk, e]
  · rw [hk, Core.handle_setHandle, if_pos rfl]
  · rw [hk, Core.handle_setHandle, if_neg hm]

theorem State.leavesHandle_of_same {s : State} {i : Instr} {h : Nat} (hx : exec i s = .next s) :
    s.LeavesHandle i h (s.k.handle s.gen h) :=
  ⟨s, hx, rfl, rfl, rfl, (s.k.handle_tagged s.gen h).symm, fun _ _ => rfl⟩

/-! ### What each handle operation does in each state (R189-R193) -/

section Handles
variable {s : State} {p : BitVec 3} {h a b d : BitVec 6}

theorem hset_free (hx : s.Executes p [s.rA a, s.rB b] none false) (hst : (s.k.handle s.gen h.toNat).st = .free)
    (hn : s.hCount a ≤ 0xFFFFF) (hf : fmtGeoOk (s.hFmt b) (s.hGeo b) = true) :
    s.LeavesHandle (.hset p h a b) h.toNat { s.k.handle s.gen h.toNat with
      exp := s.hCount a, cnt := s.hCount a, fmt := BitVec.ofNat 6 (s.hFmt b), geo := BitVec.ofNat 3 (s.hGeo b)
      refetch := false, desc := none, st := .full } := by
  refine State.leavesHandle_of_set ((exec_hset ..).trans (slotMeaning_executes hx ?_))
  simp [trapIf, hst, hf, not_lt.2 hn]

theorem hexp_free (hx : s.Executes p [s.rA a, s.rB b] none false) (hst : (s.k.handle s.gen h.toNat).st = .free)
    (hn : s.hCount a ≤ 0xFFFFF) (hf : fmtGeoOk (s.hFmt b) (s.hGeo b) = true) :
    s.LeavesHandle (.hexp p h a b) h.toNat (if s.hCount a = 0 then s.k.handle s.gen h.toNat else
      { s.k.handle s.gen h.toNat with
        exp := s.hCount a, cnt := 0, fmt := BitVec.ofNat 6 (s.hFmt b), geo := BitVec.ofNat 3 (s.hGeo b)
        refetch := false, desc := none, st := .filling }) := by
  have he := (exec_hexp p h a b s).trans (slotMeaning_executes hx (by simp [trapIf, hst, hf, not_lt.2 hn]))
  dsimp only at he
  rw [hst] at he
  dsimp only at he
  by_cases h0 : s.hCount a = 0
  · rw [if_pos h0] at he ⊢
    exact State.leavesHandle_of_same he
  · rw [if_neg h0] at he ⊢
    exact State.leavesHandle_of_set he

theorem hexp_filling (hx : s.Executes p [s.rA a, s.rB b] none false) (hst : (s.k.handle s.gen h.toNat).st = .filling)
    (hn : s.hCount a ≤ 0xFFFFF) (he : (s.k.handle s.gen h.toNat).exp + s.hCount a ≤ 0xFFFFF) :
    s.LeavesHandle (.hexp p h a b) h.toNat { s.k.handle s.gen h.toNat with
      exp := (s.k.handle s.gen h.toNat).exp + s.hCount a, refetch := false, desc := none
      st := if (s.k.handle s.gen h.toNat).cnt = (s.k.handle s.gen h.toNat).exp + s.hCount a then .full else .filling } := by
  have he := (exec_hexp p h a b s).trans (slotMeaning_executes hx (by simp [trapIf, hst, not_lt.2 hn, not_lt.2 he]))
  dsimp only at he
  rw [hst] at he
  exact State.leavesHandle_of_set he

theorem hrel_free (hx : s.Executes p [] none false) (hst : (s.k.handle s.gen h.toNat).st = .free) :
    s.LeavesHandle (.hrel p h) h.toNat (s.k.handle s.gen h.toNat) := by
  refine State.leavesHandle_of_same ((exec_hrel ..).trans ((slotMeaning_executes hx ?_).trans (congrArg _ (if_pos hst))))
  rw [hst]

theorem hrel_over (hx : s.Executes p [] none false)
    (hst : (s.k.handle s.gen h.toNat).st = .full ∨ (s.k.handle s.gen h.toNat).st = .error) :
    s.LeavesHandle (.hrel p h) h.toNat { phase := (s.k.handle s.gen h.toNat).phase } := by
  have hne : (s.k.handle s.gen h.toNat).st ≠ .free := by rcases hst with e | e <;> simp [e]
  refine State.leavesHandle_of_set ((exec_hrel ..).trans ((slotMeaning_executes hx ?_).trans (congrArg _ (if_neg hne))))
  rcases hst with e | e <;> simp [e]

theorem hswap_over (hx : s.Executes p [] none false)
    (hst : (s.k.handle s.gen h.toNat).st = .full ∨ (s.k.handle s.gen h.toNat).st = .draining)
    (hc : s.k.callHolds h.toNat = false) :
    s.LeavesHandle (.hswap p h) h.toNat { phase := !(s.k.handle s.gen h.toNat).phase } := by
  refine State.leavesHandle_of_set ((exec_hswap ..).trans (slotMeaning_executes hx ?_))
  rcases hst with e | e <;> simp [e, hc]

theorem hwait_goes {w : BitVec 1} (hx : s.Executes p [] none false)
    (hst : (s.k.handle s.gen h.toNat).st = .full ∨ (s.k.handle s.gen h.toNat).st = .draining
      ∨ (s.k.handle s.gen h.toNat).st = .error ∧ w = 1) :
    exec (.hwait p h w) s = .next (s.join (fun t => t.obj == .handle h.toNat)) := by
  refine (exec_hwait ..).trans (slotMeaning_executes hx ?_)
  rcases hst with e | e | ⟨e, hw⟩
  · simp [e]
  · simp [e]
  · simp [e, hw]

/-- HSTAT leaves its destination pending, with the record as it stands at issue; a FULL handle is joined (R190). -/
theorem hstat_pending (hx : s.Executes p [] (some (s.rD d)) true) : ∃ t, exec (.hstat p d h) s = .next t ∧ t.mem = s.mem
    ∧ t.k.handles = s.k.handles ∧ t.k.sregs = s.k.sregs ∧ t.k.pend = s.k.pend ++
      [⟨s.k.nextId, s.k.inShadow (s.rD d) 56, s.rD d, s.gen, some (s.k.handleRecord s.gen h.toNat), false, none, false⟩] := by
  refine ⟨_, (exec_hstat ..).trans (slotMeaning_executes hx rfl), ?_⟩
  by_cases hf : (s.k.handle s.gen h.toNat).st = .full
  · simp only [hf, if_true, State.joinHandle, State.join, State.setPending, State.k_updK, State.updK_mem, and_self]
  · simp only [hf, if_false, State.setPending, State.k_updK, State.updK_mem, and_self]

end Handles

/-- Settles O29: each operation by its lemma above, in the states that allow it; the traps and holds by slotMeaning_trap and
slotMeaning_hold. -/
theorem handleOperationsAndTraps : Obligations.HandleOperationsAndTraps := by
  refine ⟨fun s p h a b d w => ⟨fun hx hn => ⟨fun hst hf => ⟨hset_free hx hst hn hf, hexp_free hx hst hn hf⟩,
    fun hst he => hexp_filling hx hst hn he⟩, fun hx => ⟨hrel_free hx, hrel_over hx, hswap_over hx, hwait_goes hx⟩, hstat_pending⟩,
    fun s p h a b hg hm => ?_⟩
  intro st n bad traps
  refine ⟨fun e => ?hrel, fun e => ?hswap, fun e hc => ?hswapWaits, fun e => ?hwaitFree, fun e => ?hwaitError,
    fun e => ?hwaitFilling, fun ho => ⟨fun e => ?hset, fun e hb => ?free, fun e => ?hexp, fun e hb => ?filling⟩⟩
  case hrel =>
    refine (exec_hrel ..).trans (slotMeaning_trap hg hm rfl ?_)
    rcases e with e | e <;> simp only [show (s.k.handle s.gen h.toNat).st = _ from e, trapV]
  case hswap =>
    refine (exec_hswap ..).trans (slotMeaning_trap hg hm rfl ?_)
    rcases e with e | e | ⟨e, hc⟩
    · simp only [show (s.k.handle s.gen h.toNat).st = _ from e, trapV]
    · simp only [show (s.k.handle s.gen h.toNat).st = _ from e, trapV]
    · simp only [show (s.k.handle s.gen h.toNat).st = _ from e, hc, trapV, Bool.false_eq_true, if_false]
  case hswapWaits =>
    refine (exec_hswap ..).trans (slotMeaning_hold hg hm rfl ?_)
    rcases e with e | e <;> simp only [show (s.k.handle s.gen h.toNat).st = _ from e, hc, if_true]
  case hwaitFree =>
    constructor <;> refine (exec_hwait ..).trans (slotMeaning_trap hg hm rfl ?_) <;>
      simp only [show (s.k.handle s.gen h.toNat).st = _ from e, trapV]
  case hwaitError =>
    refine (exec_hwait ..).trans (slotMeaning_trap hg hm rfl ?_)
    simp [show (s.k.handle s.gen h.toNat).st = _ from e, trapV]
  case hwaitFilling =>
    constructor <;> refine (exec_hwait ..).trans (slotMeaning_hold hg hm rfl ?_) <;>
      simp only [show (s.k.handle s.gen h.toNat).st = _ from e]
  case hset =>
    refine (exec_hset ..).trans (slotMeaning_trap hg hm ho ?_)
    simp [show (s.k.handle s.gen h.toNat).st ≠ _ from e, trapIf, trapV]
  case free =>
    have hbad : (!fmtGeoOk (s.hFmt b) (s.hGeo b) || decide (0xFFFFF < s.hCount a)) = true := by
      rcases hb with hf | hn
      · rw [show fmtGeoOk (s.hFmt b) (s.hGeo b) = false from hf]
        rfl
      · rw [show decide (0xFFFFF < s.hCount a) = true from decide_eq_true hn, Bool.or_true]
    constructor
    · refine (exec_hset ..).trans (slotMeaning_trap hg hm ho ?_)
      simp only [show (s.k.handle s.gen h.toNat).st = _ from e, trapIf, hbad]
      rfl
    · refine (exec_hexp ..).trans (slotMeaning_trap hg hm ho ?_)
      simp only [show (s.k.handle s.gen h.toNat).st = _ from e, trapIf, hbad]
      rfl
  case hexp =>
    refine (exec_hexp ..).trans (slotMeaning_trap hg hm ho ?_)
    rcases e with e | e | e <;> simp only [show (s.k.handle s.gen h.toNat).st = _ from e, trapV]
  case filling =>
    have hbad : (decide (0xFFFFF < s.hCount a) || decide (0xFFFFF < (s.k.handle s.gen h.toNat).exp + s.hCount a)) = true := by
      rw [Bool.or_eq_true, decide_eq_true_eq, decide_eq_true_eq]
      exact hb
    refine (exec_hexp ..).trans (slotMeaning_trap hg hm ho ?_)
    simp only [show (s.k.handle s.gen h.toNat).st = _ from e, trapIf, hbad]
    rfl

end Sys2Proof.Machine
end

section
/-! PROOFS. Interrupt enables, banks and legacy barriers (spec 05 R105, spec 09 R198-R205). -/

namespace Sys2Proof.Machine

section Banks
variable {s : State} {p : BitVec 3} {h a : BitVec 6}

/-- Handle h's bit in a word of 64. -/
theorem getLsbD_handleBit (h : BitVec 6) (m : Nat) : (1#64 <<< h.toNat).getLsbD m = decide (m = h.toNat) := by
  have hh := h.isLt
  rw [BitVec.getLsbD_shiftLeft]
  by_cases hm : m = h.toNat
  · subst hm; simp; omega
  · rw [decide_eq_false hm, BitVec.getLsbD_one]
    simp; omega

theorem getLsbD_or_handleBit (x : W64) (h : BitVec 6) (m : Nat) :
    (x ||| 1#64 <<< h.toNat).getLsbD m = (x.getLsbD m || decide (m = h.toNat)) := by
  rw [BitVec.getLsbD_or, getLsbD_handleBit]

theorem getLsbD_andNot_handleBit (x : W64) (h : BitVec 6) (m : Nat) :
    (x &&& ~~~(1#64 <<< h.toNat)).getLsbD m = (x.getLsbD m && decide (m ≠ h.toNat)) := by
  rw [BitVec.getLsbD_and, BitVec.getLsbD_not, getLsbD_handleBit]
  by_cases hm : m < 64
  · simp [hm]
  · rw [BitVec.getLsbD_of_ge _ _ (by omega)]; simp

theorem and_handleBit_eq_zero (x : W64) (h : BitVec 6) : x &&& 1#64 <<< h.toNat = 0#64 ↔ x.getLsbD h.toNat = false := by
  have hh := h.isLt
  constructor
  · intro e
    have hb : (x &&& 1#64 <<< h.toNat).getLsbD h.toNat = (0#64).getLsbD h.toNat := by rw [e]
    rwa [BitVec.getLsbD_and, getLsbD_handleBit, decide_eq_true rfl, Bool.and_true, BitVec.getLsbD_zero] at hb
  · intro e
    refine BitVec.eq_of_getLsbD_eq fun i hi => ?_
    rw [BitVec.getLsbD_and, getLsbD_handleBit]
    by_cases hm : i = h.toNat
    · subst hm; simp [e]
    · simp [hm]

/-- UIEN writes the arming and the pending interrupts of its handle; the handle's record is tagged (R105). -/
theorem exec_uien_eq {e : BitVec 1} (hx : s.Executes p [] none false) :
    let st := (s.k.handle s.gen h.toNat).st
    exec (.uien p h e) s = .next (s.updK fun k => { k with
      handles := Sparse.put {} h.toNat (s.k.handle s.gen h.toNat) k.handles
      armed := if e = 1#1 then (if st = .full ∨ st = .error then k.armed else k.armed ||| 1#64 <<< h.toNat)
        else k.armed &&& ~~~(1#64 <<< h.toNat)
      uiPend := if e = 1#1 then (if (st = .full ∨ st = .error) ∧ k.armed &&& 1#64 <<< h.toNat = 0#64
          then k.uiPend ||| 1#64 <<< h.toNat else k.uiPend)
        else k.uiPend &&& ~~~(1#64 <<< h.toNat) }) := by
  intro st
  refine (exec_uien ..).trans ((slotMeaning_executes hx rfl).trans ?_)
  refine congrArg Host.Outcome.next (congrArg s.updK (funext fun k => ?_))
  by_cases he : e = 1#1
  · by_cases hf : (s.k.handle s.gen h.toNat).st = .full ∨ (s.k.handle s.gen h.toNat).st = .error
    · by_cases ha : k.armed &&& 1#64 <<< h.toNat = 0#64 <;> simp [he, hf, ha, st]
    · simp [he, hf, st]
  · simp [he]

/-- UIEN 1 arms a handle, or raises its interrupt where it is FULL or in ERROR and was not armed (R105). -/
theorem uien_arms (hx : s.Executes p [] none false) : ∃ t, exec (.uien p h 1) s = .next t ∧ t.mem = s.mem
    ∧ (∀ m, t.k.armed.getLsbD m = (s.k.armed.getLsbD m || decide (m = h.toNat ∧ (s.k.handle s.gen h.toNat).st ≠ .full
        ∧ (s.k.handle s.gen h.toNat).st ≠ .error)))
    ∧ (∀ m, t.k.uiPend.getLsbD m = (s.k.uiPend.getLsbD m || decide (m = h.toNat ∧ ((s.k.handle s.gen h.toNat).st = .full
        ∨ (s.k.handle s.gen h.toNat).st = .error) ∧ s.k.armed.getLsbD m = false))) := by
  refine ⟨_, exec_uien_eq hx, rfl, fun m => ?_, fun m => ?_⟩
  · rw [State.k_updK]
    dsimp only
    by_cases hf : (s.k.handle s.gen h.toNat).st = .full ∨ (s.k.handle s.gen h.toNat).st = .error
    · rw [if_pos (show (1 : BitVec 1) = 1#1 from rfl), if_pos hf, decide_eq_false (by tauto), Bool.or_false]
    · rw [if_pos (show (1 : BitVec 1) = 1#1 from rfl), if_neg hf, getLsbD_or_handleBit]
      congr 1
      exact decide_eq_decide.2 (by tauto)
  · rw [State.k_updK]
    dsimp only
    rw [if_pos (show (1 : BitVec 1) = 1#1 from rfl)]
    by_cases hf : ((s.k.handle s.gen h.toNat).st = .full ∨ (s.k.handle s.gen h.toNat).st = .error)
        ∧ s.k.armed &&& 1#64 <<< h.toNat = 0#64
    · rw [if_pos hf, getLsbD_or_handleBit]
      congr 1
      have ha := (and_handleBit_eq_zero _ _).1 hf.2
      refine decide_eq_decide.2 ⟨fun hm => ⟨hm, hf.1, by rw [hm]; exact ha⟩, And.left⟩
    · rw [if_neg hf, decide_eq_false, Bool.or_false]
      rintro ⟨hm, hs, ha⟩
      exact hf ⟨hs, (and_handleBit_eq_zero _ _).2 (hm ▸ ha)⟩

/-- UIEN 0 takes the arming and a pending interrupt back (R105). -/
theorem uien_disarms (hx : s.Executes p [] none false) : ∃ t, exec (.uien p h 0) s = .next t ∧ t.mem = s.mem
    ∧ (∀ m, t.k.armed.getLsbD m = (s.k.armed.getLsbD m && decide (m ≠ h.toNat)))
    ∧ (∀ m, t.k.uiPend.getLsbD m = (s.k.uiPend.getLsbD m && decide (m ≠ h.toNat))) := by
  refine ⟨_, exec_uien_eq hx, rfl, fun m => ?_, fun m => ?_⟩ <;> rw [State.k_updK] <;> exact getLsbD_andNot_handleBit _ _ _

/-! ### Banks -/

theorem Core.bankBusy_releaseBank (k : Core) (b c : Nat) : (k.releaseBank b).bankBusy c = k.bankBusy c := by
  unfold Core.releaseBank
  split <;> rfl

theorem Core.bank_releaseBank (k : Core) (b c : Nat) : Sparse.get BankState.released c (k.releaseBank b).banks =
    if c = b ∧ Sparse.get BankState.released c k.banks = .held then (if k.bankBusy c = true then .releasing else .released)
    else Sparse.get BankState.released c k.banks := by
  unfold Core.releaseBank
  by_cases hh : Sparse.get BankState.released b k.banks = .held
  · rw [if_pos hh, Sparse.get_put]
    by_cases hc : c = b
    · subst hc
      simp only [hh, and_self, if_true]
    · simp only [hc, false_and, if_false]
  · rw [if_neg hh]
    refine (if_neg ?_).symm
    rintro ⟨rfl, e⟩
    exact hh e

theorem Core.spm_releaseBank (k : Core) (b : Nat) : (k.releaseBank b).spm = k.spm := by
  unfold Core.releaseBank
  split <;> rfl

/-- BKREL's release of the banks below n that its mask names. -/
def Core.releasedBelow (k : Core) (m : BitVec 16) (n : Nat) : Core :=
  (List.range n).foldl (fun k b => if m.getLsbD b then k.releaseBank b else k) k

theorem Core.releasedBelow_succ (k : Core) (m : BitVec 16) (n : Nat) : k.releasedBelow m (n + 1) =
    if m.getLsbD n then (k.releasedBelow m n).releaseBank n else k.releasedBelow m n := by
  unfold Core.releasedBelow
  rw [List.range_succ, List.foldl_append, List.foldl_cons, List.foldl_nil]

theorem Core.spm_releasedBelow (k : Core) (m : BitVec 16) : ∀ n, (k.releasedBelow m n).spm = k.spm
  | 0 => rfl
  | n + 1 => by
    rw [k.releasedBelow_succ]
    split
    · rw [Core.spm_releaseBank, k.spm_releasedBelow]
    · exact k.spm_releasedBelow m n

theorem Core.bankBusy_releasedBelow (k : Core) (m : BitVec 16) (c : Nat) : ∀ n, (k.releasedBelow m n).bankBusy c = k.bankBusy c
  | 0 => rfl
  | n + 1 => by
    rw [k.releasedBelow_succ]
    split
    · rw [Core.bankBusy_releaseBank, k.bankBusy_releasedBelow]
    · exact k.bankBusy_releasedBelow m c n

/-- The HELD banks that the mask names are released, at once or once no region touches them; others stand (R199). -/
theorem Core.bank_releasedBelow (k : Core) (m : BitVec 16) (c : Nat) : ∀ n,
    Sparse.get BankState.released c (k.releasedBelow m n).banks =
      if c < n ∧ m.getLsbD c = true ∧ Sparse.get BankState.released c k.banks = .held
      then (if k.bankBusy c = true then .releasing else .released) else Sparse.get BankState.released c k.banks
  | 0 => (if_neg (fun e => absurd e.1 (Nat.not_lt_zero c))).symm
  | n + 1 => by
    rw [k.releasedBelow_succ]
    have ih := k.bank_releasedBelow m c n
    by_cases hm : m.getLsbD n = true
    · rw [if_pos hm, Core.bank_releaseBank, Core.bankBusy_releasedBelow]
      rcases lt_trichotomy c n with h | h | h
      · rw [if_neg (fun e => h.ne e.1), ih]
        simp only [h, Nat.lt_succ_of_lt h]
      · subst h
        have ih' := ih.trans (if_neg (fun e => absurd e.1 (lt_irrefl c)))
        rw [ih']
        simp only [Nat.lt_succ_self, true_and, hm]
      · rw [if_neg (fun e => h.ne' e.1), ih, if_neg (fun e => absurd e.1 h.not_gt), if_neg (fun e => by omega)]
    · rw [if_neg hm, ih]
      refine if_congr (and_congr_left fun e => ⟨fun h => h.trans (Nat.lt_succ_self n), fun h => ?_⟩) rfl rfl
      exact lt_of_le_of_ne (Nat.lt_succ_iff.1 h) (fun hc => hm (hc ▸ e.1))

theorem bkrel_releases (hx : s.Executes p [s.rA a] none false) :
    exec (.bkrel p a) s = .next (s.updK (fun k => k.releasedBelow ((s.reg (s.rA a)).setWidth 16) 16)) :=
  (exec_bkrel ..).trans (slotMeaning_executes hx rfl)

/-- A state is among those of the banks that a mask names. -/
theorem mem_namedBanks {u : W64} {k : Core} {x : BankState} :
    (((List.range 16).filter (fun b => u.getLsbD b)).map (fun b => Sparse.get BankState.released b k.banks)).contains x = true
      ↔ ∃ b < 16, u.getLsbD b = true ∧ Sparse.get BankState.released b k.banks = x := by
  rw [List.contains_iff_mem, List.mem_map]
  simp only [List.mem_filter, List.mem_range, and_assoc]

end Banks

/-- Settles O30: UIEN by exec_uien_eq, BKREL by bank_releasedBelow, BKWAIT's verdict by the states its mask names
(mem_namedBanks). -/
theorem interruptsAndBanks : Obligations.InterruptsAndBanks := by
  intro s p h a st bank named
  refine ⟨fun hx => ⟨uien_arms hx, uien_disarms hx⟩, fun hx => ⟨_, bkrel_releases hx, rfl, ?_, fun b => ?_⟩, fun hx hb => ?_,
    fun hg hm ho => ⟨fun hb => ?_, fun hb hp => ?_⟩⟩
  · rw [State.k_updK, Core.spm_releasedBelow]
  · rw [State.k_updK, Core.bank_releasedBelow]
    refine if_congr (and_congr_right fun hlt => and_congr_left fun _ => ?_) rfl rfl
    rw [BitVec.getLsbD_setWidth, decide_eq_true hlt, Bool.true_and]
  · refine (exec_bkwait ..).trans (slotMeaning_executes hx ?_)
    dsimp only
    rw [if_neg, if_neg]
    · rw [mem_namedBanks]
      rintro ⟨b, hlt, hn, e⟩
      exact absurd ((hb b hlt hn).symm.trans e) (by decide)
    · rw [Bool.or_eq_true, mem_namedBanks, mem_namedBanks]
      rintro (⟨b, hlt, hn, e⟩ | ⟨b, hlt, hn, e⟩) <;> exact absurd ((hb b hlt hn).symm.trans e) (by decide)
  · refine (exec_bkwait ..).trans (slotMeaning_trap hg hm ho ?_)
    obtain ⟨b, hlt, hn, e⟩ := hb
    dsimp only
    rw [if_pos]
    · rfl
    · rw [Bool.or_eq_true, mem_namedBanks, mem_namedBanks]
      exact e.imp (fun e => ⟨b, hlt, hn, e⟩) (fun e => ⟨b, hlt, hn, e⟩)
  · refine (exec_bkwait ..).trans (slotMeaning_hold hg hm ho ?_)
    dsimp only
    rw [if_neg, if_pos (mem_namedBanks.2 hp)]
    rw [Bool.or_eq_true, mem_namedBanks, mem_namedBanks]
    rintro (⟨b, hlt, hn, e⟩ | ⟨b, hlt, hn, e⟩) <;>
      exact (hb b hlt hn).elim (fun f => absurd (f.symm.trans e) (by decide)) (fun f => absurd (f.symm.trans e) (by decide))

end Sys2Proof.Machine
end

section
/-! PROOFS. Legacy barriers (spec 09 R204, R205). -/

namespace Sys2Proof.Machine

/-! ### A local cycle and the barriers of a die's cores -/

theorem State.core_mapCores (s : State) (f : Nat → Core → Core) (c : Nat) (hf : f c {} = {}) :
    ({ s with cores := Sparse.mapVals {} f s.cores } : State).core c = f c (s.core c) :=
  Sparse.get_mapVals hf s.cores

/-- What a change of a core's other fields leaves of its barriers. -/
theorem Core.barrier_of_eq {k k' : Core} (h : k'.barriers = k.barriers) (n : Nat) : k'.barrier n = k.barrier n := by
  unfold Core.barrier
  rw [h]

theorem State.barriers_catchUp (s : State) (d c : Nat) : ((s.catchUp d).core c).barriers = (s.core c).barriers := by
  unfold State.catchUp
  rw [State.core_mapCores]
  · split <;> rfl
  · split <;> rfl

theorem State.barriers_countFrozen (s : State) (d c : Nat) : ((s.countFrozen d).core c).barriers = (s.core c).barriers := by
  unfold State.countFrozen
  rw [State.core_updDie, State.core_mapCores]
  · dsimp only
    split <;> rfl
  · dsimp only
    split
    · next h => simp at h
    · rfl

/-- A local cycle changes barriers by the evaluation at its end alone (R205). -/
theorem State.barriers_tick (s : State) (d c : Nat) : ((s.tick d).core c).barriers = ((s.closeEpochs d).core c).barriers := by
  unfold State.tick
  rw [State.barriers_catchUp, State.core_updDie]
  split
  · rfl
  · rw [State.barriers_countFrozen]
    rfl

theorem Core.barrier_settleBarriers (k : Core) (n : Nat) : k.settleBarriers.barrier n = (k.barrier n).settle :=
  Sparse.get_mapVals rfl k.barriers

/-- A listed value is met among the entries of its list. -/
theorem Sparse.mem_of_get {α : Type} {d : α} {k : Nat} : ∀ {m : Sparse α}, Sparse.get d k m ≠ d → (k, Sparse.get d k m) ∈ m
  | [], h => absurd rfl h
  | (i, v) :: t, h => by
    unfold Sparse.get at h ⊢
    by_cases hi : i = k
    · rw [if_pos hi] at h ⊢
      rw [hi]
      exact List.mem_cons_self
    · rw [if_neg hi] at h ⊢
      exact List.mem_cons_of_mem _ (Sparse.mem_of_get h)

/-- At the end of a local cycle of its die a core's changed barriers are evaluated, the others stand (R205). -/
theorem State.barrier_closeEpochs (s : State) (c n : Nat) :
    ((s.closeEpochs (dieOf c)).core c).barrier n = ((s.core c).barrier n).settle := by
  unfold State.closeEpochs
  split
  · rw [State.core_mapCores]
    · rw [if_pos (beq_self_eq_true _)]
      exact Core.barrier_settleBarriers _ n
    · rw [if_pos (beq_self_eq_true _)]
      rfl
  · next h =>
    by_cases hm : ((s.core c).barrier n).moved = true
    · refine absurd (List.any_eq_true.2 ⟨(c, s.core c), Sparse.mem_of_get fun e => ?_, ?_⟩) h
      · rw [show s.core c = {} from e] at hm
        exact Bool.false_ne_true hm
      · rw [beq_self_eq_true, Bool.true_and, List.any_eq_true]
        exact ⟨(n, (s.core c).barrier n), Sparse.mem_of_get fun e => absurd (congrArg Barrier.moved e) (by
          rw [show (Sparse.get {} n (s.core c).barriers).moved = true from hm]; decide), hm⟩
    · exact (if_neg hm).symm

theorem State.barrier_tick (s : State) (c n : Nat) :
    ((s.tick (dieOf c)).core c).barrier n = ((s.core c).barrier n).settle :=
  (Core.barrier_of_eq (s.barriers_tick _ c) n).trans (s.barrier_closeEpochs c n)

/-- The evaluation closes the epoch where arrivals and bytes are complete (R205). -/
theorem Barrier.settle_eq (b : Barrier) : b.settle = if b.moved then
    { (if b.arrv = b.quota ∧ b.got = b.want then { b with epoch := b.epoch + 1, arrv := 0, want := 0, got := 0 } else b) with
      moved := false } else b := by
  simp only [Barrier.settle, Barrier.evaluate, Bool.and_eq_true, decide_eq_true_eq]

/-! ### BARV, BART and BARW -/

/-- Instruction i leaves y in barrier n, and memory, registers, handles and every other barrier as they were. -/
def State.LeavesBarrier (s : State) (i : Instr) (n : Nat) (y : Barrier) : Prop :=
  ∃ t, exec i s = .next t ∧ t.mem = s.mem ∧ t.k.sregs = s.k.sregs ∧ t.k.handles = s.k.handles ∧ t.k.barrier n = y
    ∧ ∀ m, m ≠ n → t.k.barrier m = s.k.barrier m

theorem State.leavesBarrier_of_upd {s : State} {i : Instr} {n : Nat} {f : Barrier → Barrier}
    (hx : exec i s = .next (s.updK (fun k => k.updBarrier n f))) :
    s.LeavesBarrier i n { f (s.k.barrier n) with moved := (s.k.barrier n).moved ||
      !((f (s.k.barrier n)).arrv = (s.k.barrier n).arrv && (f (s.k.barrier n)).want = (s.k.barrier n).want
        && (f (s.k.barrier n)).got = (s.k.barrier n).got) } := by
  have hk := s.k_updK (fun k => k.updBarrier n f)
  refine ⟨_, hx, rfl, (congrArg Core.sregs hk :), (congrArg Core.handles hk :), ?_, fun m hm => ?_⟩
  · rw [hk, Core.barrier_updBarrier, if_pos rfl]
  · rw [hk, Core.barrier_updBarrier, if_neg hm]

section Barriers
variable {s : State} {p n : BitVec 3} {a : BitVec 6}

theorem barv_arrives (hx : s.Executes p [s.rA a] none false) (h : (s.k.barrier n.toNat).arrv ≠ (s.k.barrier n.toNat).quota) :
    s.LeavesBarrier (.barv p n a) n.toNat { s.k.barrier n.toNat with
      arrv := (s.k.barrier n.toNat).arrv + 1, wep := (s.k.barrier n.toNat).epoch
      want := (s.k.barrier n.toNat).want + (s.reg (s.rA a)).setWidth 24, moved := true } := by
  have hl := State.leavesBarrier_of_upd ((exec_barv p n a s).trans (slotMeaning_executes hx (by simp [trapIf, h])))
  have hm : (s.k.barrier n.toNat).arrv + 1 ≠ (s.k.barrier n.toNat).arrv := by
    generalize (s.k.barrier n.toNat).arrv = x
    bv_omega
  simpa [hm] using hl

theorem barvInit_sets (hx : s.Executes p [s.rA a] none false) (h : (s.reg (s.rA a)).setWidth 16 ≠ (0 : BitVec 16)) :
    s.LeavesBarrier (.barvInit p n a) n.toNat { s.k.barrier n.toNat with
      quota := (s.reg (s.rA a)).setWidth 16, arrv := 0, want := 0, got := 0, wep := (s.k.barrier n.toNat).epoch
      moved := (s.k.barrier n.toNat).moved || decide ((s.k.barrier n.toNat).arrv ≠ 0 ∨ (s.k.barrier n.toNat).want ≠ 0
        ∨ (s.k.barrier n.toNat).got ≠ 0) } := by
  have hl := State.leavesBarrier_of_upd ((exec_barvInit p n a s).trans (slotMeaning_executes hx
    (if_neg fun e => h (of_decide_eq_true e))))
  convert hl using 3
  simp only [Bool.not_and, Bool.decide_or, ne_eq, decide_not, eq_comm (a := (0 : BitVec 16)), eq_comm (a := (0 : BitVec 24)),
    Bool.or_assoc]

theorem bart_posts (hx : s.Executes p [s.rA a] none false) :
    s.LeavesBarrier (.bart p n a) n.toNat { s.k.barrier n.toNat with
      want := (s.k.barrier n.toNat).want + (s.reg (s.rA a)).setWidth 24
      moved := (s.k.barrier n.toNat).moved || decide ((s.reg (s.rA a)).setWidth 24 ≠ (0 : BitVec 24)) } := by
  have hl := State.leavesBarrier_of_upd ((exec_bart p n a s).trans (slotMeaning_executes hx rfl))
  convert hl using 3
  have he : ∀ x y : BitVec 24, x + y = x ↔ y = 0 := fun x y => by bv_omega
  simp [he]

end Barriers

/-- Settles O31: each operation by leavesBarrier_of_upd, the end of a local cycle by barrier_tick. -/
theorem legacyBarriers : Obligations.LegacyBarriers := by
  intro s p n a x v closed becomes
  refine ⟨fun hx => ⟨barv_arrives hx, barvInit_sets hx, bart_posts hx⟩, fun c => ?_, fun hx he => ?_,
    fun hg hm => ⟨fun he => ?_, fun ho => ⟨fun he => ?_, fun hv => ?_⟩⟩⟩
  · exact (s.barrier_tick c n.toNat).trans (Barrier.settle_eq _)
  · exact (exec_barw ..).trans (slotMeaning_executes hx (if_pos he))
  · exact (exec_barw ..).trans (slotMeaning_hold hg hm rfl (if_neg (not_not.2 he)))
  · refine (exec_barv ..).trans (slotMeaning_trap hg hm ho ?_)
    rw [decide_eq_true he]
    rfl
  · refine (exec_barvInit ..).trans (slotMeaning_trap hg hm ho ?_)
    exact if_pos (decide_eq_true hv)

end Sys2Proof.Machine
end

section
/-! PROOFS. Copy instructions at their issue (spec 10 R216-R230). -/

namespace Sys2Proof.Machine

section Copies
variable {s : State} {p : BitVec 3} {n h a b d q : BitVec 6}

/-- The upper half of a register, as CLVL takes a destination stride (R216). -/
theorem ushiftRight_setWidth_eq_extract (v : W64) : (v >>> 32).setWidth 32 = v.extractLsb' 32 32 := by
  refine BitVec.eq_of_toNat_eq ?_
  rw [BitVec.toNat_setWidth, BitVec.toNat_ushiftRight, BitVec.extractLsb'_toNat]

theorem clvl_level (hx : s.Executes p [s.rA a, s.rB b] none false) (hn : n ≠ 6) (hu : (s.reg (s.rA a)).toNat < 2 ^ 20) :
    exec (.clvl p n a b) s = .next (s.updK (fun k => { k with
      levels := Sparse.put {} n.toNat ⟨(s.reg (s.rA a)).setWidth 20, (s.reg (s.rB b)).setWidth 32,
        (s.reg (s.rB b) >>> 32).setWidth 32⟩ k.levels })) := by
  refine (exec_clvl ..).trans ((slotMeaning_executes hx ?_).trans (congrArg Host.Outcome.next (congrArg s.updK (funext fun k => ?_))))
  · dsimp only
    rw [if_neg (show n ≠ 6#6 from hn), trapIf, if_neg (by simpa using hu)]
  · rw [if_neg (show n ≠ 6#6 from hn), ushiftRight_setWidth_eq_extract]

theorem clvl_control (hx : s.Executes p [s.rA a, s.rB b] none false)
    (h1 : (s.reg (s.rA a)).toNat / 2 ^ 16 % 2 ^ 16 = 0) (h2 : (s.reg (s.rA a)).toNat % 4 = 0)
    (h3 : (s.reg (s.rA a)).toNat / 8 % 4 ≠ 3) :
    exec (.clvl p 6 a b) s = .next (s.updK (fun k => { k with cctl := s.reg (s.rA a) })) := by
  refine (exec_clvl ..).trans (slotMeaning_executes hx ?_)
  dsimp only
  rw [if_pos (show (6 : BitVec 6) = 6#6 from rfl), trapIf, if_neg]
  simp only [BitVec.extractLsb'_toNat, Nat.shiftRight_eq_div_pow, Bool.or_eq_true, decide_eq_true_eq, not_or, not_not]
  exact ⟨⟨h1, by simpa using h2⟩, h3⟩

/-- CGO or CGOX. -/
def copyInstr (x : Bool) (p : BitVec 3) (h a b : BitVec 6) : Instr := if x then .cgox p h a b else .cgo p h a b

theorem exec_copyInstr (x : Bool) : exec (copyInstr x p h a b) s = copyIssue x p h a b s := by
  cases x <;> rfl

/-- The copy that an issue puts into the queue (R220). -/
def State.issuedCopy (s : State) (d : CopyDesc) (h : Nat) : Copy :=
  { forkAt := s.nextWid, id := s.k.nextId, seq := s.k.copySeq + 1, desc := d, gen := s.gen, bytes := d.bytes
    obj := match d.ckind with
      | 0 => .handle h
      | 1 => .barrier h
      | _ => .remote (((d.pieces.map (d.dstLoc s.cur.core)).findSome? Loc.otherCore).getD 0) h
    posted := !(d.ckind == 2 && d.post) }

/-- The record that an issue leaves in the handle that its copy completes (R220). -/
def State.expecting (s : State) (d : CopyDesc) (h : Nat) : Handle :=
  let was := s.k.handle s.gen h
  let f := s.copyFmt s.cur.core s.gen d (was.fmt.toNat, was.geo.toNat)
  { was with exp := d.bytes, cnt := 0, fmt := BitVec.ofNat 6 f.1, geo := BitVec.ofNat 3 f.2, refetch := true
             st := .filling, desc := some d, rolled := false }

/-- The core at hand with the handle of an issued copy written. -/
def State.withExpectation (s : State) (d : CopyDesc) (h : Nat) : Core :=
  if d.ckind = 0 then s.k.setHandle s.gen h (s.expecting d h) else s.k

theorem copyIssue_goes {x : Bool} (hx : s.Executes p [s.rA a, s.rB b] none false)
    (hs : s.k.copyCheck s.gen s.cur.core (s.copyDesc x a b) h.toNat = 0)
    (hr : s.k.regions.length + ((s.copyDesc x a b).regions s.cur.core s.k.nextId).length ≤ 32) (hq : s.k.queueUse < 64) :
    exec (copyInstr x p h a b) s = .next (s.updK fun _ =>
      let k := s.withExpectation (s.copyDesc x a b) h.toNat
      { k with nextId := k.nextId + 1, copySeq := k.copySeq + 1
               copies := k.copies ++ [s.issuedCopy (s.copyDesc x a b) h.toNat], ncp := k.ncp + 1
               regions := k.regions ++ (s.copyDesc x a b).regions s.cur.core s.k.nextId, engineOp := some k.nextId }) := by
  refine (exec_copyInstr x).trans ((slotMeaning_executes hx ?_).trans rfl)
  dsimp only
  rw [hs, Core.regionVerdict, if_pos hr]
  simp [Nat.not_le.2 hq]

theorem copyIssue_traps {x : Bool} (hg : s.guard p = true) (hm : s.cur.mode = .whole)
    (ho : s.operandVerdict [s.rA a, s.rB b] none false = .go)
    (hs : s.k.copyCheck s.gen s.cur.core (s.copyDesc x a b) h.toNat ≠ 0)
    (hr : s.k.regions.length + ((s.copyDesc x a b).regions s.cur.core s.k.nextId).length ≤ 32) :
    exec (copyInstr x p h a b) s = .next (s.takeTrap
      ⟨9, s.k.copyCheck s.gen s.cur.core (s.copyDesc x a b) h.toNat, s.cur.slot, 0, 0, 0⟩) := by
  refine (exec_copyInstr x).trans (slotMeaning_trap hg hm ho ?_)
  dsimp only
  split
  · rfl
  · have hv : s.k.regionVerdict s.gen ((s.copyDesc x a b).regions s.cur.core s.k.nextId) = .go := if_pos hr
    simp only [hv, trapV]

theorem withExpectation_cases (d : CopyDesc) : ∃ hs ar ui cs st, s.withExpectation d h.toNat =
    { s.k with handles := hs, armed := ar, uiPend := ui, calls := cs, status := st } := by
  unfold State.withExpectation
  split
  · obtain ⟨ar, ui, cs, st, e⟩ := s.k.setHandle_cases s.gen h.toNat (s.expecting d h.toNat)
    exact ⟨_, _, _, _, _, e⟩
  · exact ⟨_, _, _, _, _, rfl⟩

/-- CQRY leaves its destination pending, for the value that its query is served (R230). -/
theorem cqry_pending (hx : s.Executes p [s.rA a] (some (s.rD d)) true) : ∃ t, exec (.cqry p d a q) s = .next t
    ∧ t.mem = s.mem ∧ t.k.sregs = s.k.sregs ∧ t.k.pend = s.k.pend ++ [⟨s.k.nextId, s.k.inShadow (s.rD d) 56, s.rD d, s.gen,
      none, false, some (.copy q.toNat (s.reg (s.rA a))), false⟩] := by
  refine ⟨_, (exec_cqry ..).trans (slotMeaning_executes hx rfl), rfl, ?_, ?_⟩ <;> rw [State.k_updK]

end Copies

/-- Settles O32: CLVL by its two cases, CGO and CGOX by copyIssue_goes and copyIssue_traps. -/
theorem copyInstructions : Obligations.CopyInstructions := by
  intro s p n h a b d q x u v desc rs i sub
  refine ⟨fun hx => ⟨clvl_level hx, clvl_control hx, fun hs hr hq => ?_⟩, copyIssue_traps, cqry_pending⟩
  obtain ⟨hds, ar, ui, cs, st, e⟩ := withExpectation_cases (s := s) (h := h) desc
  refine ⟨_, s.issuedCopy desc h.toNat, copyIssue_goes hx hs hr hq, rfl, ?_⟩
  rw [State.k_updK]
  have hobj : desc.ckind = 0 → (s.withExpectation desc h.toNat).handle s.gen h.toNat
      = { s.expecting desc h.toNat with hm := s.gen } := fun hc => by
    rw [State.withExpectation, if_pos hc, Core.handle_setHandle, if_pos rfl]
  refine ⟨?_, ?_, rfl, ?_, rfl, rfl, rfl, rfl, ?_, ?_, fun hc => ⟨?_, ?_, ?_, ?_⟩, fun hc => ⟨?_, ?_⟩⟩
  · exact (congrArg Core.sregs e :)
  · exact (congrArg (fun k : Core => k.copies ++ _) e :)
  · exact (congrArg (fun k : Core => k.copySeq + 1) e :)
  · exact (congrArg (fun k : Core => k.ncp + 1) e :)
  · exact (congrArg (fun k : Core => k.regions ++ _) e :)
  · simp only [State.issuedCopy, hc]
  · exact congrArg Handle.st (hobj hc)
  · exact congrArg Handle.exp (hobj hc)
  · exact congrArg Handle.cnt (hobj hc)
  · simp only [State.issuedCopy, hc]
  · exact (congrArg Core.handles (if_neg (show desc.ckind ≠ 0 by rw [hc]; exact one_ne_zero)) :)

end Sys2Proof.Machine
end

section
/-! PROOFS. Matrix instructions at their issue (spec 11 R239-R248, R267, R268). -/

namespace Sys2Proof.Machine

section Matrix
variable {s : State} {p m : BitVec 3} {d a b h i n : BitVec 6} {r : BitVec 5}

/-- A parameter register reads what MXP writes to it; the others stand (R241). -/
theorem mxp_writes (hx : s.Executes p [s.rA a] none false) : ∃ t, exec (.mxp p m a) s = .next t ∧ t.mem = s.mem
    ∧ t.k.sregs = s.k.sregs ∧ t.k.param s.gen m.toNat = s.reg (s.rA a)
    ∧ ∀ j, j ≠ m.toNat → t.k.param s.gen j = s.k.param s.gen j := by
  refine ⟨_, (exec_mxp ..).trans (slotMeaning_executes hx rfl), rfl, ?_, ?_, fun j hj => ?_⟩
  · rw [State.k_updK]
  · rw [State.k_updK]
    unfold Core.param
    rw [Sparse.get_put_same]
    exact if_pos rfl
  · rw [State.k_updK]
    unfold Core.param
    rw [Sparse.get_put_other hj]

/-! ### MXLDU and MXRT -/

/-- Words put from first on, one by one. -/
theorem get_foldl_put {α : Type} [DecidableEq α] {z : α} (f : Nat → α) (first : Nat) (w : Sparse α) (j : Nat) : ∀ c,
    Sparse.get z j ((List.range c).foldl (fun x i => Sparse.put z (first + i) (f i) x) w)
      = if first ≤ j ∧ j < first + c then f (j - first) else Sparse.get z j w
  | 0 => (if_neg (by omega)).symm
  | c + 1 => by
    rw [List.range_succ, List.foldl_append, List.foldl_cons, List.foldl_nil, Sparse.get_put, get_foldl_put f first w j c]
    by_cases hj : j = first + c
    · subst hj
      rw [if_pos rfl, if_pos (by omega), Nat.add_sub_cancel_left]
    · rw [if_neg hj]
      exact if_congr (by omega) rfl rfl

/-- MXLDU fills user words from scratchpad while the engine is idle (R245). -/
theorem mxldu_fills (hx : s.Executes p [s.rA a, s.rB b] none false) (hf : 128 ≤ ldFirst (s.reg (s.rB b)))
    (hc : ldFirst (s.reg (s.rB b)) + ldCount (s.reg (s.rB b)) ≤ 256) (hu : (s.reg (s.rA a)).toNat % 8 = 0)
    (hv : (s.reg (s.rB b)).toNat < 2 ^ 16) (hidle : s.k.calls = [])
    (hl : ∀ j < ldCount (s.reg (s.rB b)), let l := ((s.reg (s.rA a)).toNat + 8 * j) % 2 ^ 19 / 128
      Sparse.get BankState.released (l / 256) s.k.banks = .held ∧ s.k.lineWait l false = false) :
    exec (.mxldu p a b) s = .next (s.updK (fun k => { k with
      uwords := (List.range (ldCount (s.reg (s.rB b)))).foldl (fun m i => Sparse.put {} (ldFirst (s.reg (s.rB b)) + i)
        ⟨BitVec.ofNat 64 (k.spmBytes s.gen ((s.reg (s.rA a)).toNat + 8 * i) 8), s.gen⟩ m) k.uwords })) := by
  refine (exec_mxldu ..).trans (slotMeaning_executes hx ?_)
  have hst : ∀ x : BankState, x ≠ .held → (((List.range (ldCount (s.reg (s.rB b)))).map
      (fun i => ((s.reg (s.rA a)).toNat + 8 * i) % 2 ^ 19 / 128)).map
      (fun l => Sparse.get BankState.released (l / 256) s.k.banks)).contains x = false := by
    intro x hne
    rw [← Bool.not_eq_true, List.contains_iff_mem, List.map_map, List.mem_map]
    rintro ⟨j, hj, e⟩
    exact hne (e.symm.trans (hl j (List.mem_range.1 hj)).1)
  have hw : ((List.range (ldCount (s.reg (s.rB b)))).map (fun i => ((s.reg (s.rA a)).toNat + 8 * i) % 2 ^ 19 / 128)).any
      (fun l => s.k.lineWait l false) = false := by
    rw [← Bool.not_eq_true, List.any_map, List.any_eq_true]
    rintro ⟨j, hj, e⟩
    exact Bool.false_ne_true ((hl j (List.mem_range.1 hj)).2.symm.trans e)
  dsimp only
  rw [hst .released (by decide), hst .releasing (by decide), hst .preloading (by decide), hw, hidle,
    decide_eq_false (not_lt.2 hf), decide_eq_false (not_not.2 hu), decide_eq_false (not_le.2 hv), decide_eq_false (not_lt.2 hc)]
  rfl

theorem mxrt_fills (hx : s.Executes p [s.rA a] none false) (hn : 16 ≤ n.toNat) (hu : (s.reg (s.rA a)).toNat < 2 ^ 20)
    (hs : 128 ≤ (s.reg (s.rA a)).toNat % 256)
    (hl : (s.reg (s.rA a)).toNat % 256 + (s.reg (s.rA a)).toNat / 256 % 256 ≤ 255) (hidle : s.k.calls = []) :
    exec (.mxrt p n a) s = .next (s.updK (fun k => { k with uents := Sparse.put {} n.toNat ⟨s.reg (s.rA a), s.gen⟩ k.uents })) := by
  refine (exec_mxrt ..).trans (slotMeaning_executes hx ?_)
  dsimp only
  rw [hidle, decide_eq_false (not_lt.2 hn), decide_eq_false (not_le.2 hu), decide_eq_false (not_lt.2 hl),
    decide_eq_false (not_lt.2 hs)]
  rfl

/-! ### MXCALL -/

/-- The core once the entry of an earlier call of handle h is posted, where it stands ready (R267). -/
def Core.postEarlier (k : Core) (h : Nat) : Core :=
  match k.statusReady h with
  | some v => k.postStatus h v
  | none => k

theorem Core.postEarlier_cases (k : Core) (h : Nat) : ∃ st pd, k.postEarlier h = { k with status := st, pend := pd } := by
  unfold Core.postEarlier
  split <;> exact ⟨_, _, rfl⟩

/-- The call that MXCALL puts into the queue for the routine of entry ent (R240, R248). -/
def State.issuedCall (s : State) (k : Core) (ent : W64) (rs : List Region) (h i : Nat) : Call :=
  { id := k.nextId, regs := rs, start := ent.toNat % 256, len := ent.toNat / 256 % 256 + 1, snap := k.snapshot s.gen
    params := k.snapshot s.gen, hout := h, hin := i, gen := s.gen, scope := s.scope, pc := ent.toNat % 256
    forkAt := s.nextWid }

/-- The bytes that a call with regions rs drains (R248). -/
def drainedBytes (rs : List Region) : Nat := 128 * ((rs.filter (fun q => q.acc && q.write)).map Region.rows).foldl (· + ·) 0

/-- The core at hand once MXCALL has put a call of entry ent with regions rs into the queue. -/
def State.withCall (s : State) (ent : W64) (rs : List Region) (h i : Nat) : Core :=
  let k1 := s.k.postEarlier h
  let k := k1.setHandle s.gen h { k1.handle s.gen h with
    exp := drainedBytes rs, cnt := 0, refetch := false, desc := none, st := .filling }
  { k with nextId := k.nextId + 1, regions := k.regions ++ rs, calls := k.calls ++ [s.issuedCall k1 ent rs h i], ntl := k.ntl + 1
           engineOp := some k.nextId
           status := Sparse.upd {} h (fun e => { e with awaited := true, final := none }) k.status }

theorem Core.setHandle_filling (k : Core) (g : Hm) (h : Nat) (x : Handle) (hx : x.st = .filling) :
    k.setHandle g h x = { k with handles := Sparse.put {} h { x with hm := g } k.handles } := by
  unfold Core.setHandle
  simp [hx]

/-- MXCALL changes no register, and of the queue, the counter and the scoreboard what its call adds (R248). -/
theorem State.withCall_cases (s : State) (ent : W64) (rs : List Region) (h i : Nat) : ∃ st pd, s.withCall ent rs h i =
    { s.k with
      pend := pd, nextId := s.k.nextId + 1, regions := s.k.regions ++ rs, calls := s.k.calls ++ [s.issuedCall s.k ent rs h i]
      ntl := s.k.ntl + 1, engineOp := some s.k.nextId
      handles := Sparse.put {} h { s.k.handle s.gen h with
        exp := drainedBytes rs, cnt := 0, refetch := false, desc := none, st := .filling, hm := s.gen } s.k.handles
      status := Sparse.upd {} h (fun e => { e with awaited := true, final := none }) st } := by
  obtain ⟨st, pd, e⟩ := s.k.postEarlier_cases h
  refine ⟨st, pd, ?_⟩
  unfold State.withCall
  rw [e]
  dsimp only
  rw [Core.setHandle_filling _ _ _ _ rfl]
  rfl

theorem mxcall_goes (hx : s.Executes p [] none false) (hs : s.k.callCheck s.gen h.toNat i.toNat r.toNat = 0)
    (hq : s.k.calls.length < 8) {ent : W64} {rs : List Region} (he : s.k.routine s.gen r.toNat = some ent)
    (hrs : s.k.callRegions ent (s.k.snapshot s.gen) = some rs) (hr : s.k.regions.length + rs.length ≤ 32) :
    exec (.mxcall p h i r) s = .next (s.updK fun _ => s.withCall ent rs h.toNat i.toNat) := by
  obtain ⟨st, pd, e⟩ := s.k.postEarlier_cases h.toNat
  have hent : ((s.k.postEarlier h.toNat).routine s.gen r.toNat).getD 0 = ent := by
    rw [e]
    exact (congrArg (Option.getD · 0) he :)
  have hregs : ((s.k.postEarlier h.toNat).callRegions ent ((s.k.postEarlier h.toNat).snapshot s.gen)).getD [] = rs := by
    rw [e]
    exact (congrArg (Option.getD · []) hrs :)
  have hc : s.withCall ent rs h.toNat i.toNat = s.withCall (((s.k.postEarlier h.toNat).routine s.gen r.toNat).getD 0)
      (((s.k.postEarlier h.toNat).callRegions (((s.k.postEarlier h.toNat).routine s.gen r.toNat).getD 0)
        ((s.k.postEarlier h.toNat).snapshot s.gen)).getD []) h.toNat i.toNat := by
    rw [hent, hregs]
  refine (exec_mxcall ..).trans ((slotMeaning_executes hx ?_).trans (congrArg Host.Outcome.next ?_))
  · dsimp only
    rw [hs, he]
    dsimp only
    rw [hrs, Option.getD_some, Core.regionVerdict, if_pos hr]
    simp [Nat.not_le.2 hq]
  · rw [hc]
    rfl

/-- The pending result of MXSTAT: the entry's word, or a query where the entry is awaited (R268). -/
def State.statusResult (s : State) (n h : Nat) : Pending :=
  let e : StatusEntry := Sparse.get {} h s.k.status
  ⟨s.k.nextId, s.k.inShadow n 56, n, s.gen, if e.awaited then none else some e.val, false,
    if e.awaited then some (.status h) else none, false⟩

theorem mxstat_pending (hx : s.Executes p [] (some (s.rD d)) true) : exec (.mxstat p d h) s = .next (s.updK fun k => { k with
    nextId := k.nextId + 1, pend := k.pend ++ [s.statusResult (s.rD d) h.toNat] }) :=
  (exec_mxstat ..).trans (slotMeaning_executes hx rfl)

/-- At most four regions are declared, so a table with room for four has room for a call (R247). -/
theorem callRegions_length_le {k : Core} {ent : W64} {ps : List W64} {rs : List Region} (h : k.callRegions ent ps = some rs) :
    rs.length ≤ 4 := by
  unfold Core.callRegions at h
  dsimp only at h
  split at h
  · rw [← Option.some.inj h, List.length_map, descriptorsOf, List.length_map]
    exact (List.length_filter_le ..).trans (by rw [List.length_range])
  · exact absurd h nofun

theorem mxcall_traps (hg : s.guard p = true) (hm : s.cur.mode = .whole)
    (hs : s.k.callCheck s.gen h.toNat i.toNat r.toNat ≠ 0) (hr : s.k.regions.length ≤ 28) :
    exec (.mxcall p h i r) s = .next
      (s.takeTrap ⟨9, s.k.callCheck s.gen h.toNat i.toNat r.toNat, s.cur.slot, 0, 0, 0⟩) := by
  refine (exec_mxcall ..).trans (slotMeaning_trap hg hm rfl ?_)
  dsimp only
  split
  · rfl
  · have hv : ∀ rs : List Region, rs.length ≤ 4 → s.k.regionVerdict s.gen rs = .go := fun rs hl => if_pos (by omega)
    rw [hv]
    · simp only [trapV]
    · split
      · exact Nat.zero_le _
      · next ent _ =>
        cases hc : s.k.callRegions ent (s.k.snapshot s.gen) with
        | none => exact Nat.zero_le _
        | some l => exact callRegions_length_le hc

end Matrix

/-- Settles O33: each instruction by its lemma above. -/
theorem matrixInstructions : Obligations.MatrixInstructions := by
  intro s p m d a b h i n r u v first count
  refine ⟨mxp_writes, fun hx => (exec_mxpr ..).trans (slotMeaning_executes hx rfl), fun hx hf hc hu hv hidle hl => ?ldu, mxrt_fills,
    fun hx hs hq ent rs he hrs hr => ?call, mxcall_traps, fun hx => ?stat⟩
  case ldu =>
    refine ⟨_, mxldu_fills hx hf hc hu hv hidle fun j hj => hl _ (by omega) ⟨j, hj, rfl⟩, rfl, ?_⟩
    rw [State.k_updK]
    exact ⟨rfl, rfl, fun j => get_foldl_put _ _ _ _ _⟩
  case call =>
    obtain ⟨st, pd, e⟩ := s.withCall_cases ent rs h.toNat i.toNat
    refine ⟨_, s.issuedCall s.k ent rs h.toNat i.toNat, mxcall_goes hx hs hq he hrs hr, rfl, ?_⟩
    rw [State.k_updK, e]
    refine ⟨rfl, rfl, rfl, rfl, rfl, rfl, rfl, rfl, rfl, rfl, ?_, ?_, ?_⟩
    · unfold Core.handle
      rw [Sparse.get_put_same]
      exact congrArg Handle.st (if_pos rfl)
    · unfold Core.handle
      rw [Sparse.get_put_same]
      refine (congrArg Handle.exp (if_pos rfl)).trans ?_
      rw [drainedBytes, List.sum_eq_foldl]
    · rw [Sparse.get_upd_same]
  case stat =>
    refine ⟨_, s.statusResult (s.rD d) h.toNat, mxstat_pending hx, rfl, ?_⟩
    rw [State.k_updK]
    refine ⟨rfl, rfl, rfl, ?_⟩
    dsimp only [State.statusResult]
    split <;> exact ⟨rfl, rfl⟩

end Sys2Proof.Machine
end

section
/-! PROOFS. System operations: stacks, generations and links (spec 14 R321-R328, spec 15 R349-R354, spec 18 R419). -/

namespace Sys2Proof.Machine

section System
variable {s : State} {p : BitVec 3} {h a b d : BitVec 6}

theorem sown_queues (hx : s.Executes p [s.rA a] (some (s.rD d)) false) (hu : (s.reg (s.rA a)).toNat < 8) :
    exec (.sown p d a) s = .next (s.putScalar 1 (s.rD d) (s.ownerMirror s.d (s.reg (s.rA a)).toNat)) := by
  refine (exec_sown ..).trans (slotMeaning_executes hx ?_)
  rw [decide_eq_false (not_le.2 hu)]
  rfl

/-! ### SHAND (R326-R328) -/

/-- What SHAND asks for. -/
def State.shandOver (s : State) (u : W64) (h : BitVec 6) : HandOver :=
  { core := (u.extractLsb' 8 6).toNat, handle := h.toNat, cpl := u.getLsbD 15, gen := s.gen, ten := s.k.actor }

/-- Is SHAND's operand well formed? -/
def shandShaped (u : W64) : Prop := u.toNat < 2 ^ 16 ∧ u.getLsbD 14 = false ∧ u.extractLsb' 3 5 = 0

theorem extract_high_eq_zero (u : W64) (n : Nat) (m : Nat) (h : n + m = 64) : u.extractLsb' n m = 0 ↔ u.toNat < 2 ^ n := by
  have hz : (0 : BitVec m).toNat = 0 := (BitVec.toNat_ofNat 0 m).trans (Nat.zero_mod _)
  have hlt : u.toNat / 2 ^ n < 2 ^ m := by
    rw [Nat.div_lt_iff_lt_mul (Nat.two_pow_pos n), ← pow_add, Nat.add_comm m n, h]
    exact u.isLt
  rw [← BitVec.toNat_inj, BitVec.extractLsb'_toNat, Nat.shiftRight_eq_div_pow, Nat.mod_eq_of_lt hlt, hz,
    Nat.div_eq_zero_iff_lt (Nat.two_pow_pos n)]

theorem shandShaped_iff (u : W64) :
    (u.extractLsb' 16 48 != 0 || u.getLsbD 14 || u.extractLsb' 3 5 != 0) = false ↔ shandShaped u := by
  have h16 := extract_high_eq_zero u 16 48 rfl
  rw [shandShaped, ← h16, Bool.or_eq_false_iff, Bool.or_eq_false_iff, bne_eq_false_iff_eq, bne_eq_false_iff_eq, and_assoc]

/-- Is tenancy's right to stack k wanting: the stack is not its own, or the die is fenced (R326, R390)? -/
def State.barred (s : State) (k : Nat) : Prop := ∃ t, s.k.lvl = false ∧ s.k.ten = some t
  ∧ ((s.stack k).rv = false ∨ (s.stack k).rten.toNat ≠ t ∨ s.fencedFor t s.d k = true)

theorem handCheck_eq (s : State) (k : Nat) [Decidable (s.barred k)] : s.handCheck s.d s.k.actor k =
    if touches s.d k = false then some 0x02 else if s.barred k then some 0x03
    else if s.owner k ≠ s.d ∨ (s.stack k).hand ≠ none then some 0x04 else none := by
  have hb : (match s.k.actor with
      | none => false
      | some t => !(s.stack k).rv || (s.stack k).rten.toNat != t || s.fencedFor t s.d k) = true ↔ s.barred k := by
    unfold Core.actor State.barred
    cases s.k.lvl <;> cases s.k.ten <;> simp [or_assoc]
  unfold State.handCheck
  dsimp only
  refine if_congr (by cases touches s.d k <;> simp) rfl (if_congr hb rfl (if_congr ?_ rfl rfl))
  rw [Bool.or_eq_true, bne_iff_ne, Option.isSome_iff_ne_none]

/-- SHAND makes the cut, or has its bundle's end make it (R328). -/
theorem shand_cuts (hx : s.Executes p [s.rA a] none false) (hu : shandShaped (s.reg (s.rA a)))
    (hc : s.handCheck s.d s.k.actor ((s.reg (s.rA a)).toNat % 8) = none) :
    exec (.shand p h a) s = .next (if s.cur.mode = .commit then
        { s with cur := { s.cur with cut := some ((s.reg (s.rA a)).toNat % 8, s.shandOver (s.reg (s.rA a)) h) } }
      else s.cut ((s.reg (s.rA a)).toNat % 8) (s.shandOver (s.reg (s.rA a)) h)) := by
  refine (exec_shand ..).trans (slotMeaning_executes hx ?_)
  dsimp only
  rw [if_neg (by rw [(shandShaped_iff _).2 hu]; exact Bool.false_ne_true), hc]

/-- The cut of stack k for hand-over w: of the stacks, k alone has it; memory and cores stand. -/
theorem cut_spec (s : State) (k : Nat) (w : HandOver) : (s.cut k w).mem = s.mem ∧ (s.cut k w).cores = s.cores
    ∧ ((s.cut k w).stack k).hand = some w ∧ (s.cut k w).owner k = s.owner k ∧ ∀ j, j ≠ k → (s.cut k w).stack j = s.stack j := by
  have hk : (s.cut k w).stack k = { s.stack k with hand := some w } := State.stack_updStack_same ..
  refine ⟨rfl, rfl, congrArg Stack.hand hk, ?_, fun j hj => ?_⟩
  · unfold State.owner
    rw [hk]
  · exact (State.stack_updStack ..).trans (if_neg hj)

theorem shand_trap_shape (hg : s.guard p = true) (hm : s.cur.mode = .whole) (ho : s.operandVerdict [s.rA a] none false = .go)
    (hu : ¬ shandShaped (s.reg (s.rA a))) : exec (.shand p h a) s = .next (s.takeTrap ⟨0x0A, 0x01, s.cur.slot, 0, 0, 0⟩) := by
  refine (exec_shand ..).trans (slotMeaning_trap hg hm ho ?_)
  dsimp only
  rw [if_pos (by rw [← Bool.not_eq_false]; exact mt (shandShaped_iff _).1 hu)]
  rfl

theorem shand_trap_check (hg : s.guard p = true) (hm : s.cur.mode = .whole) (ho : s.operandVerdict [s.rA a] none false = .go)
    (hu : shandShaped (s.reg (s.rA a))) {c : Nat} (hc : s.handCheck s.d s.k.actor ((s.reg (s.rA a)).toNat % 8) = some c) :
    exec (.shand p h a) s = .next (s.takeTrap ⟨0x0A, c, s.cur.slot, 0, 0, 0⟩) := by
  refine (exec_shand ..).trans (slotMeaning_trap hg hm ho ?_)
  dsimp only
  rw [if_neg (by rw [(shandShaped_iff _).2 hu]; exact Bool.false_ne_true), hc]
  rfl

/-! ### GENR, GENPROBE and LINKQ -/

/-- Instruction i leaves register d pending, with value x or query y. -/
def State.Awaits (s : State) (i : Instr) (d : BitVec 6) (x : Option W64) (y : Option Query) : Prop :=
  ∃ t, exec i s = .next t ∧ t.mem = s.mem ∧ t.k.sregs = s.k.sregs
    ∧ t.k.pend = s.k.pend ++ [⟨s.k.nextId, s.k.inShadow (s.rD d) 56, s.rD d, s.gen, x, false, y, false⟩]

theorem State.awaits_of_pending {i : Instr} {x : Option W64}
    (hx : exec i s = .next ((s.setPending s.k.nextId (s.rD d) x false).updK (fun k => { k with nextId := k.nextId + 1 }))) :
    s.Awaits i d x none := by
  refine ⟨_, hx, rfl, ?_, ?_⟩ <;> rw [State.k_updK] <;> unfold State.setPending <;> rw [State.k_updK]

/-- The word of GENPROBE for an import entry (R350, R351). -/
def State.probeWord (s : State) (r : Option W64) : W64 :=
  let e := r.getD 0
  let valid := r.isSome && importOk e
  let unreach := r.isSome && !s.reaches s.d (importDie e)
  let cur := valid && s.isCurrent (importDie e) (importGen e) && importGen e != platformGen
  (if valid then 1 else 0) + (if cur then 2 else 0) + (if unreach then 4 else 0)

theorem genprobe_entry (hx : s.Executes p [s.rA a] (some (s.rD d)) true) (hl : s.k.lvl = false)
    (hu : (s.reg (s.rA a)).toNat < 4096) {r : Option W64} (hr : s.importSlot (s.reg (s.rA a)).toNat = .ok r) :
    s.Awaits (.genprobe p d a 1) d (some (s.probeWord r)) none := by
  refine State.awaits_of_pending ((exec_genprobe ..).trans ((slotMeaning_executes hx ?_).trans (congrArg Host.Outcome.next ?_)))
  · dsimp only
    rw [if_neg (by rw [hl]; exact Bool.false_ne_true), if_neg (by decide), if_neg (not_le.2 hu), hr]
  · dsimp only
    rw [if_neg (by decide), hr]
    rfl

/-- The three bits of GENPROBE's word. -/
theorem probeWord_bits (s : State) (e : W64) : (s.probeWord (some e)).toNat < 8 ∧ (s.probeWord (some e)).getLsbD 0 = importOk e
    ∧ (s.probeWord (some e)).getLsbD 1 = (importOk e && s.isCurrent (importDie e) (importGen e) && importGen e != platformGen)
    ∧ (s.probeWord (some e)).getLsbD 2 = !s.reaches s.d (importDie e) := by
  have bits : ∀ x y z : Bool, ((if x then 1 else 0) + (if y then 2 else 0) + (if z then 4 else 0) : W64).toNat < 8
      ∧ ((if x then 1 else 0) + (if y then 2 else 0) + (if z then 4 else 0) : W64).getLsbD 0 = x
      ∧ ((if x then 1 else 0) + (if y then 2 else 0) + (if z then 4 else 0) : W64).getLsbD 1 = y
      ∧ ((if x then 1 else 0) + (if y then 2 else 0) + (if z then 4 else 0) : W64).getLsbD 2 = z := by decide
  exact bits _ _ _

theorem linkq_pending (hx : s.Executes p [s.rA a] (some (s.rD d)) true) (hu : (s.reg (s.rA a)).toNat < 24) :
    s.Awaits (.linkq p d a) d none (some (.link (s.reg (s.rA a)).toNat)) := by
  refine ⟨_, (exec_linkq ..).trans (slotMeaning_executes hx ?_), rfl, ?_, ?_⟩
  · rw [decide_eq_false (not_le.2 hu)]
    rfl
  · rw [State.k_updK]
  · rw [State.k_updK]

end System

end Sys2Proof.Machine
end

section
/-! PROOFS. The acceptance of a TENEND (spec 15 R345, R346, R352-R354). -/

namespace Sys2Proof.Machine

section Tenend
variable {s s' : State}

/-- The allocator's next number depends on the states of the numbers and its cursor alone (R345). -/
theorem State.freeFrom_congr (h : s'.genStates = s.genStates) : ∀ fuel n, s'.freeFrom fuel n = s.freeFrom fuel n
  | 0, _ => rfl
  | fuel + 1, n => by
    unfold State.freeFrom
    rw [h, State.freeFrom_congr h fuel]

theorem State.newFree_congr (hg : s'.genStates = s.genStates) (hl : s'.lastGen = s.lastGen) (hd : s'.deferred = s.deferred) :
    s'.newFree = s.newFree := by
  unfold State.newFree State.nextFree
  rw [hd, hl, State.freeFrom_congr hg]

/-- The number handed out next is FREE (R345). -/
theorem State.freeFrom_free : ∀ fuel n m, s.freeFrom fuel n = some m → Sparse.get GenState.free m s.genStates = .free
  | 0, _, _, h => absurd h nofun
  | fuel + 1, n, m, h => by
    unfold State.freeFrom at h
    split at h
    · next hf => exact Option.some.inj h ▸ hf
    · exact State.freeFrom_free fuel _ m h

theorem State.newFree_free {n : Nat} (h : s.newFree = some n) : Sparse.get GenState.free n s.genStates = .free := by
  unfold State.newFree at h
  split at h
  · exact State.freeFrom_free _ _ _ h
  · exact absurd h nofun

/-- The state as the allocator leaves it when a TENEND of a tenancy with generation g starts: g ends, and a new number is handed
out, or the tenancy waits for one (R345, R346, R352). -/
def State.endingNumbers (s : State) (t : Nat) (g : Hm) (close : Bool) (stamp : Nat) : State :=
  let s1 := s.setGenState g .ending
  let s1 := { s1 with discards := Sparse.put 0 g.toNat 0 s1.discards }
  match (if close then none else s.newFree : Option Nat) with
  | some n => s1.handOut n
  | none => if close then s1 else s1.defer t stamp

theorem endingNumbers_some {t n : Nat} {g : Hm} {stamp : Nat} (h : s.newFree = some n) : s.endingNumbers t g false stamp =
    State.handOut { s.setGenState g .ending with discards := Sparse.put 0 g.toNat 0 s.discards } n := by
  unfold State.endingNumbers
  simp only [Bool.false_eq_true, if_false, h]
  rfl

theorem endingNumbers_none {t : Nat} {g : Hm} {stamp : Nat} (h : s.newFree = none) : s.endingNumbers t g false stamp =
    State.defer { s.setGenState g .ending with discards := Sparse.put 0 g.toNat 0 s.discards } t stamp := by
  unfold State.endingNumbers
  simp only [Bool.false_eq_true, if_false, h]
  rfl

/-- The three cases of the numbers, by CLOSE and the allocator. -/
theorem endingNumbers_cases (s : State) (t : Nat) (g : Hm) (close : Bool) (stamp : Nat) {P : State → Prop}
    (hc : close = true → P { s.setGenState g .ending with discards := Sparse.put 0 g.toNat 0 s.discards })
    (hs : ∀ n, close = false → s.newFree = some n →
      P (State.handOut { s.setGenState g .ending with discards := Sparse.put 0 g.toNat 0 s.discards } n))
    (hn : close = false → s.newFree = none →
      P (State.defer { s.setGenState g .ending with discards := Sparse.put 0 g.toNat 0 s.discards } t stamp)) :
    P (s.endingNumbers t g close stamp) := by
  cases close with
  | true => exact hc rfl
  | false =>
    cases h : s.newFree with
    | some n => rw [endingNumbers_some h]; exact hs n rfl h
    | none => rw [endingNumbers_none h]; exact hn rfl h

/-- The generation that ends is ENDING: the number handed out in its place is another (R344). -/
theorem genState_endingNumbers {t : Nat} {g : Hm} {close : Bool} {stamp : Nat} (hl : s.genState g = .live) :
    (s.endingNumbers t g close stamp).genState g = .ending := by
  have hput : Sparse.get GenState.free g.toNat (Sparse.put .free g.toNat .ending s.genStates) = .ending := Sparse.get_put_same
  refine endingNumbers_cases s t g close stamp (P := fun u => u.genState g = .ending) (fun _ => hput) (fun n _ hn => ?_)
    (fun _ _ => hput)
  have hne : g.toNat ≠ n := by
    rintro rfl
    exact absurd (hl.symm.trans (State.newFree_free hn)) (by decide)
  show Sparse.get GenState.free g.toNat (Sparse.put .free n .live (Sparse.put .free g.toNat .ending s.genStates)) = .ending
  rw [Sparse.get_put_other hne, hput]

theorem endingNumbers_frame (t : Nat) (g : Hm) (close : Bool) (stamp : Nat) :
    (s.endingNumbers t g close stamp).mem = s.mem ∧ (s.endingNumbers t g close stamp).cores = s.cores
      ∧ (s.endingNumbers t g close stamp).tenancies = s.tenancies :=
  endingNumbers_cases s t g close stamp (P := fun u => u.mem = s.mem ∧ u.cores = s.cores ∧ u.tenancies = s.tenancies)
    (fun _ => ⟨rfl, rfl, rfl⟩) (fun _ _ _ => ⟨rfl, rfl, rfl⟩) (fun _ _ => ⟨rfl, rfl, rfl⟩)

/-- The ending that a started TENEND puts into its tenancy (R352). -/
def State.startedEnding (s : State) (t : Nat) (g : Hm) (close : Bool) (erec : W64) (queue : Option Nat) (stamp : Nat) : TenEnd :=
  { close := close, erec := erec, oldGen := g, oldSerial := (s.tenancy t).serial
    newGen := (if close then none else s.newFree).map (BitVec.ofNat 16)
    newSerial := (s.endingNumbers t g close stamp).lastSerial, queue := queue, stamp := stamp }

theorem startTenend_eq {t : Nat} {g : Hm} {close : Bool} {erec : W64} {queue : Option Nat} {stamp : Nat}
    (hg : (s.tenancy t).gen = some g) : ∃ sr df, s.startTenend t close erec queue stamp =
      (s.endingNumbers t g close stamp).updTen t (fun x => { x with
        ending := some (s.startedEnding t g close erec queue stamp), gen := (if close then none else s.newFree).map (BitVec.ofNat 16)
        serial := sr, deferred := df, stamp := stamp }) := by
  have h : (s.tenancy t).gen.getD nullGen = g := by rw [hg]; rfl
  unfold State.startTenend
  simp only [h]
  exact ⟨_, _, rfl⟩

/-- A TENEND that starts changes of memory and cores nothing, and the tenancy stays as it was opened or closed. -/
theorem startTenend_frame {t : Nat} {g : Hm} {close : Bool} {erec : W64} {queue : Option Nat} {stamp : Nat}
    (hg : (s.tenancy t).gen = some g) : (s.startTenend t close erec queue stamp).mem = s.mem
      ∧ (s.startTenend t close erec queue stamp).cores = s.cores
      ∧ ((s.startTenend t close erec queue stamp).tenancy t).opened = (s.tenancy t).opened := by
  obtain ⟨sr, df, hu⟩ := startTenend_eq (close := close) (erec := erec) (queue := queue) (stamp := stamp) hg
  obtain ⟨hm, hc, ht⟩ := endingNumbers_frame (s := s) t g close stamp
  rw [hu, State.tenancy_updTen_same]
  refine ⟨hm, hc, ?_⟩
  unfold State.tenancy
  rw [ht]

/-- What a TENEND that starts for a tenancy with a LIVE generation leaves (R352-R354). -/
theorem startTenend_spec {t : Nat} {g : Hm} {close : Bool} {erec : W64} {queue : Option Nat} {stamp : Nat}
    (hg : (s.tenancy t).gen = some g) (hl : s.genState g = .live) :
    let u := s.startTenend t close erec queue stamp
    ∃ e, (u.tenancy t).ending = some e ∧ e.oldGen = g ∧ e.erec = erec ∧ e.close = close ∧ u.genState g = .ending
      ∧ (e.close = true → e.newGen = none ∧ (u.tenancy t).gen = none)
      ∧ (∀ n, e.close = false → s.newFree = some n →
        e.newGen = some (BitVec.ofNat 16 n) ∧ (u.tenancy t).gen = e.newGen ∧ e.newSerial = s.lastSerial + 1)
      ∧ (e.close = false → s.newFree = none → e.newGen = none ∧ (u.tenancy t).gen = none ∧ t ∈ u.deferred) := by
  intro u
  obtain ⟨sr, df, hu⟩ := startTenend_eq (close := close) (erec := erec) (queue := queue) (stamp := stamp) hg
  have hu : u = _ := hu
  rw [hu, State.tenancy_updTen_same]
  refine ⟨s.startedEnding t g close erec queue stamp, rfl, rfl, rfl, rfl, genState_endingNumbers hl, ?_, ?_, ?_⟩
  · rintro (rfl : close = true)
    exact ⟨rfl, rfl⟩
  · rintro n (rfl : close = false) hn
    refine ⟨congrArg (Option.map (BitVec.ofNat 16)) hn, rfl, ?_⟩
    exact congrArg State.lastSerial (endingNumbers_some hn)
  · rintro (rfl : close = false) hn
    refine ⟨congrArg (Option.map (BitVec.ofNat 16)) hn, congrArg (Option.map (BitVec.ofNat 16)) hn, ?_⟩
    show t ∈ (s.endingNumbers t g false stamp).deferred
    rw [endingNumbers_none hn]
    exact List.mem_append_right _ List.mem_cons_self

/-- The state in which the allocator judges an accepted TENEND: the numbers owed are given, the tenancy is opened or closed
anew, and the TENEND has its place in the order. -/
def State.accepting (s : State) (t : Nat) (close : Bool) : State :=
  { s.grantAll.updTen t (fun x => { x with opened := !close }) with nextWid := s.grantAll.nextWid + 1 }

theorem accepting_tenancy (t : Nat) (close : Bool) :
    (s.accepting t close).tenancy t = { s.grantAll.tenancy t with opened := !close } :=
  (State.tenancy_updTen_same s.grantAll t (fun x => { x with opened := !close }) :)

/-- An accepted TENEND waits behind the one that runs, or for a generation (R354). -/
theorem acceptTenend_waits {t : Nat} {close : Bool} {erec : W64} {queue : Option Nat}
    (h : (s.grantAll.tenancy t).ending ≠ none ∨ (s.grantAll.tenancy t).gen = none ∨ (s.grantAll.tenancy t).queued ≠ []) :
    s.acceptTenend t close erec queue = (s.accepting t close).updTen t (fun x => { x with
      queued := x.queued ++ [(close, erec, queue, s.grantAll.nextWid)] }) := by
  refine if_pos ?_
  simpa [Option.isSome_iff_ne_none, or_assoc] using h

theorem acceptTenend_starts {t : Nat} {close : Bool} {erec : W64} {queue : Option Nat}
    (h : ¬ ((s.grantAll.tenancy t).ending ≠ none ∨ (s.grantAll.tenancy t).gen = none ∨ (s.grantAll.tenancy t).queued ≠ [])) :
    s.acceptTenend t close erec queue = (s.accepting t close).startTenend t close erec queue s.grantAll.nextWid := by
  refine if_neg fun hc => h ?_
  simpa [Option.isSome_iff_ne_none, or_assoc] using hc

/-- TENEND's operands are good (R352). -/
def State.tenendGood (s : State) (u v : W64) : Prop :=
  u.toNat < 2 ^ 13 ∧ (s.tenancy (u.toNat % 4096)).opened = true ∧ s.recordAddrOk v = true

theorem tenendGood_iff (s : State) (u v : W64) :
    (u.extractLsb' 13 51 != 0 || !(s.tenancy (u.toNat % 4096)).opened || !s.recordAddrOk v) = false ↔ s.tenendGood u v := by
  have h13 := extract_high_eq_zero u 13 51 rfl
  rw [State.tenendGood, ← h13, Bool.or_eq_false_iff, Bool.or_eq_false_iff, bne_eq_false_iff_eq, Bool.not_eq_false', Bool.not_eq_false',
    and_assoc]

section Slot
variable {p : BitVec 3} {a b : BitVec 6}

theorem tenend_accepts (hx : s.Executes p [s.rA a, s.rB b] none false) (hl : s.k.lvl = true)
    (hgood : s.tenendGood (s.reg (s.rA a)) (s.reg (s.rB b))) :
    exec (.tenend p a b) s = .next (s.acceptTenend ((s.reg (s.rA a)).toNat % 4096) ((s.reg (s.rA a)).getLsbD 12)
      (s.reg (s.rB b)) none) := by
  refine (exec_tenend ..).trans (slotMeaning_executes hx ?_)
  dsimp only
  rw [hl, (tenendGood_iff ..).2 hgood]
  rfl

theorem tenend_trap_level (hg : s.guard p = true) (hm : s.cur.mode = .whole)
    (ho : s.operandVerdict [s.rA a, s.rB b] none false = .go) (hl : s.k.lvl = false) :
    exec (.tenend p a b) s = .next (s.takeTrap ⟨0x0A, 0x10, s.cur.slot, 0, 0, 0⟩) := by
  refine (exec_tenend ..).trans (slotMeaning_trap hg hm ho ?_)
  dsimp only
  rw [hl]
  rfl

theorem tenend_trap_operands (hg : s.guard p = true) (hm : s.cur.mode = .whole)
    (ho : s.operandVerdict [s.rA a, s.rB b] none false = .go) (hl : s.k.lvl = true)
    (hbad : ¬ s.tenendGood (s.reg (s.rA a)) (s.reg (s.rB b))) :
    exec (.tenend p a b) s = .next (s.takeTrap ⟨0x0A, 0x12, s.cur.slot, 0, 0, 0⟩) := by
  refine (exec_tenend ..).trans (slotMeaning_trap hg hm ho ?_)
  dsimp only
  rw [hl, Bool.eq_true_of_not_eq_false (mt (tenendGood_iff ..).1 hbad)]
  rfl

end Slot

end Tenend

end Sys2Proof.Machine
end

section
/-! PROOFS. Task operations (spec 16 R376-R379), and the system operations together. -/

namespace Sys2Proof.Machine

section Tasks
variable {s : State} {p : BitVec 3} {a b d : BitVec 6} {x : Task}

theorem taskVerdict_user {rest : State → Verdict} (h : s.k.lvl = false) : taskVerdict rest s = rest s :=
  if_neg (by rw [h]; exact Bool.false_ne_true)

theorem taskVerdict_platform {rest : State → Verdict} (h : s.k.lvl = true) : taskVerdict rest s = .trap 0x0A 0x21 0 0 0 :=
  if_pos h

theorem tidx_index (hx : s.Executes p [] (some (s.rD d)) false) (hl : s.k.lvl = false) (ht : s.k.task = some x) :
    exec (.tidx p d) s = .next (s.putScalar 1 (s.rD d) (BitVec.ofNat 64 (x.index % 2 ^ 32 + x.node % 64 * 2 ^ 32))) := by
  refine (exec_tidx ..).trans ((slotMeaning_executes hx (taskVerdict_user hl)).trans ?_)
  rw [ht]
  rfl

/-- Without a log of its die a claim's decisions stand as made (R409, R410). -/
theorem claimDecision_unlogged {c : Nat} (h : ∀ t, Sparse.get none t (s.die (dieOf c)).replays = none) :
    s.claimTaken c = s.claimSource c ∧ s.claimDecision c = .go (s.claimFrom c (s.claimSource c)).2 := by
  have ht : s.claimTaken c = s.claimSource c := by
    unfold State.claimTaken
    cases (s.core c).ten with
    | none => rfl
    | some t =>
      have hr : s.replaying (dieOf c) t = none := by
        unfold State.replaying
        rw [h t]
      simp only [hr]
  refine ⟨ht, ?_⟩
  unfold State.claimDecision State.claimNext State.logging
  rw [ht]
  cases (s.core c).ten with
  | none => rfl
  | some t => simp only [h t]

/-- The state that a claim from source src leaves, its result pending for register n (R377). -/
def State.claimed (s : State) (n : Nat) (src : Option Source1) : State :=
  ((s.claimFrom s.cur.core src).2.setPending s.k.nextId n (some (s.claimFrom s.cur.core src).1) false).updK
    (fun k => { k with nextId := k.nextId + 1 })

theorem tnext_claims (hx : s.Executes p [] (some (s.rD d)) true) (hl : s.k.lvl = false)
    (hr : ∀ t, Sparse.get none t (s.die s.d).replays = none) {src : Option Source1} (hs : s.claimSource s.cur.core = src)
    (hh : s.claimHeld s.cur.core src = false) : exec (.tnext p d) s = .next (s.claimed (s.rD d) src) := by
  obtain ⟨ht, hd⟩ := claimDecision_unlogged (s := s) (c := s.cur.core) hr
  rw [hs] at ht hd
  refine (exec_tnext ..).trans ((slotMeaning_executes hx ((taskVerdict_user hl).trans ?_)).trans ?_)
  · rw [if_neg (by rw [State.claimWaits, ht, hh]; exact Bool.false_ne_true), hd]
  · rw [hd, State.claimNext, ht]
    rfl

/-- The pending result of a claim of value v, with s1 what taking from its source leaves. -/
def State.claimResult (s : State) (n : Nat) (v : W64) (s1 : State) : Pending :=
  ⟨s.k.nextId, s1.k.inShadow n 56, n, s1.gen, some v, false, none, false⟩

/-- What a claim leaves: its pending result, and what taking from its source leaves. -/
theorem claimed_spec {n : Nat} {src : Option Source1} {v : W64} {s1 : State} (h : s.claimFrom s.cur.core src = (v, s1)) : (s.claimed n src).mem = s1.mem ∧ (s.claimed n src).k = { s1.k with
      nextId := s1.k.nextId + 1
      pend := s1.k.pend ++ [s.claimResult n v s1] } := by
  unfold State.claimed
  rw [h]
  refine ⟨rfl, ?_⟩
  rw [State.k_updK]
  unfold State.setPending
  dsimp only
  rw [State.k_updK]
  rfl

/-- A claim from a chunk that the core holds takes its next index (R377). -/
theorem claimFrom_held {i : Nat} {c : Held} {j : Nat} {rest : List Nat} (hc : s.k.chunks[i]? = some c)
    (hleft : c.left = j :: rest) (ht : s.k.task = some x) : ∃ s1, s.claimFrom s.cur.core (some (.held i)) = (BitVec.ofNat 64 j, s1)
      ∧ s1.cur = s.cur ∧ s1.mem = s.mem ∧ s1.k = { s.k with
        chunks := if rest = [] then s.k.chunks.eraseIdx i else s.k.chunks.set i { c with left := rest }
        task := some { x with holds := x.holds ++ [(c.chunk, j)] } } := by
  have hc' : (s.core s.cur.core).chunks[i]? = some c := hc
  unfold State.claimFrom
  simp only [hc', hleft]
  refine ⟨_, rfl, rfl, rfl, ?_⟩
  show (State.holdIndex _ s.cur.core c.chunk j).core s.cur.core = _
  unfold State.holdIndex
  rw [State.core_updCore_same, State.core_updCore_same]
  have ht' : (s.core s.cur.core).task = some x := ht
  simp only [ht', Option.map_some, List.isEmpty_iff]
  rfl

theorem homeWrite_frame {t : State} {d : Nat} {ten : Option Nat} {a n v : Nat} (h : s.homeWrite d ten a n v = .ok t) :
    t.cores = s.cores ∧ t.cur = s.cur := by
  unfold State.homeWrite at h
  split at h
  · exact absurd h nofun
  · next g _ =>
    split at h
    · exact absurd h nofun
    · split at h
      · exact absurd h nofun
      · rw [← Except.ok.inj h]
        split
        · obtain ⟨m, hm, b, w, e⟩ := s.write_eq g.gen g.dla n v
          rw [e]
          exact ⟨rfl, rfl⟩
        · exact ⟨rfl, rfl⟩

theorem chunkFault_frame (s : State) (d slot : Nat) (l : Launch) (j k f a : Nat) :
    (s.chunkFault d slot l j k f a).cores = s.cores ∧ (s.chunkFault d slot l j k f a).cur = s.cur := by
  unfold State.chunkFault State.failLaunch
  have hr := State.Reports.foldl (f := fun s i => s.report d { (s.recordFault d slot l f a) with index := i, node := j })
    (fun s i => s.report_reports d _) (match l.nodes[j]? with | some n => n.indices k | none => []) s
  exact ⟨hr.cores, hr.cur⟩

/-- The giving out of a chunk changes no core and does not move the machine's attention. -/
theorem openChunk_frame (s : State) (d slot : Nat) (l : Launch) (j k : Nat) :
    (s.openChunk d slot l j k).cores = s.cores ∧ (s.openChunk d slot l j k).cur = s.cur := by
  unfold State.openChunk State.updLaunch
  dsimp only [State.updDie]
  split
  · exact ⟨rfl, rfl⟩
  · split
    · next h => exact (homeWrite_frame h :)
    · exact chunkFault_frame ..

/-- A claim of a new chunk takes its first index; the rest stay with the core (R377). -/
theorem claimFrom_chunk {slot j n i : Nat} {l : Launch} {rest : List Nat} (hlaunch : (s.die s.d).launch slot = some l)
    (hi : l.indices j n = i :: rest) (ht : s.k.task = some x) : ∃ s1 cs, s.claimFrom s.cur.core (some (.chunk slot j n))
      = (BitVec.ofNat 64 i, s1) ∧ s1.cur = s.cur
      ∧ s1.k = { s.k with chunks := cs, task := some { x with holds := x.holds ++ [(n, i)] } } := by
  have hl' : (s.die (dieOf s.cur.core)).launch slot = some l := hlaunch
  obtain ⟨hcores, hcur⟩ := openChunk_frame s (dieOf s.cur.core) slot l j n
  have hk : (s.openChunk (dieOf s.cur.core) slot l j n).core s.cur.core = s.k := by
    unfold State.core
    rw [hcores]
    rfl
  let s1 := (s.openChunk (dieOf s.cur.core) slot l j n).updCore s.cur.core fun x => { x with
    chunks := (if rest.isEmpty then [] else [⟨slot, l.id, j, n, rest⟩]) ++ x.chunks }
  refine ⟨s1.holdIndex s.cur.core n i, (if rest.isEmpty then [] else [⟨slot, l.id, j, n, rest⟩]) ++ s.k.chunks, ?_, hcur, ?_⟩
  · unfold State.claimFrom
    simp only [hl', hi]
    rfl
  · show (s1.holdIndex s.cur.core n i).core (s.openChunk (dieOf s.cur.core) slot l j n).cur.core = _
    rw [hcur]
    unfold State.holdIndex
    rw [State.core_updCore_same, State.core_updCore_same, hk]
    simp only [ht, Option.map_some]

/-- The end of a run, of a core with a task (R378, R379). -/
theorem endRun_eq (ht : s.k.task = some x) (e : Ending) : s.endRun e = s.updK (fun k => { (k.releaseBanks 0xFFFF) with
    task := some { x with ending := e } }) := by
  have ht' : (s.core s.cur.core).task = some x := ht
  unfold State.endRun State.updK
  refine State.updCore_congr ?_
  dsimp only
  rw [ht']
  rfl

theorem suspend_ends (hx : s.Executes p [s.rA a, s.rB b] none false) (hl : s.k.lvl = false) (ht : s.k.task = some x)
    (hu : s.reg (s.rA a) = 0 ∨ (s.reg (s.rA a)).toNat % 8 = 0 ∧ ∃ t, s.translateCore s.cur.core (s.reg (s.rA a)) 8 .read = .ok t) :
    exec (.suspend p a b) s = .next (s.updK (fun k => { (k.releaseBanks 0xFFFF) with
      task := some { x with ending := .suspended (s.reg (s.rA a)) (s.reg (s.rB b)) } })) := by
  refine (exec_suspend ..).trans ((slotMeaning_executes hx ((taskVerdict_user hl).trans ?_)).trans
    (congrArg Host.Outcome.next (endRun_eq ht _)))
  dsimp only
  rcases hu with h0 | ⟨h8, t, h⟩
  · exact if_pos h0
  · by_cases h0 : s.reg (s.rA a) = 0
    · exact if_pos h0
    · rw [if_neg h0, if_neg (not_not.2 h8), h]

/-- The task operations trap at platform level (R375). -/
theorem task_traps (hg : s.guard p = true) (hm : s.cur.mode = .whole) (hl : s.k.lvl = true) :
    let trap := Host.Outcome.next (s.takeTrap ⟨0x0A, 0x21, s.cur.slot, 0, 0, 0⟩)
    (s.operandVerdict [] (some (s.rD d)) false = .go → exec (.tidx p d) s = trap)
    ∧ (s.operandVerdict [] (some (s.rD d)) true = .go → exec (.tnext p d) s = trap)
    ∧ (s.operandVerdict [s.rA a, s.rB b] none false = .go → exec (.suspend p a b) s = trap)
    ∧ (exec (.endTask p) s = trap) :=
  ⟨fun ho => (exec_tidx ..).trans (slotMeaning_trap hg hm ho (taskVerdict_platform hl)),
    fun ho => (exec_tnext ..).trans (slotMeaning_trap hg hm ho (taskVerdict_platform hl)),
    fun ho => (exec_suspend ..).trans (slotMeaning_trap hg hm ho (taskVerdict_platform hl)),
    (exec_endTask ..).trans (slotMeaning_trap hg hm rfl (taskVerdict_platform hl))⟩

theorem suspend_trap_address (hg : s.guard p = true) (hm : s.cur.mode = .whole)
    (ho : s.operandVerdict [s.rA a, s.rB b] none false = .go) (hl : s.k.lvl = false) (hu : (s.reg (s.rA a)).toNat % 8 ≠ 0) :
    exec (.suspend p a b) s = .next (s.takeTrap ⟨0x0A, 0x20, s.cur.slot, 0, 0, 0⟩) := by
  refine (exec_suspend ..).trans (slotMeaning_trap hg hm ho ((taskVerdict_user hl).trans ?_))
  have h0 : s.reg (s.rA a) ≠ 0 := fun e => hu (by rw [e]; rfl)
  exact (if_neg h0).trans (if_pos hu)

/-- A fault of a translation that is no wait and no uncorrectable error takes the access trap (R99, R287). -/
theorem faultV_eq {f : Nat} {u : W64} (hw : f ≠ walkWait) (he : f ≠ walkError) : faultV f u = .trap 7 f 0 0 u :=
  (if_neg hw).trans (if_neg he)

theorem suspend_faults (hg : s.guard p = true) (hm : s.cur.mode = .whole)
    (ho : s.operandVerdict [s.rA a, s.rB b] none false = .go) (hl : s.k.lvl = false) (h0 : s.reg (s.rA a) ≠ 0)
    (hu : (s.reg (s.rA a)).toNat % 8 = 0) {f : Nat} (hf : s.translateCore s.cur.core (s.reg (s.rA a)) 8 .read = .error f)
    (hw : f ≠ walkWait) (he : f ≠ walkError) :
    exec (.suspend p a b) s = .next (s.takeTrap ⟨7, f, s.cur.slot, 0, 0, s.reg (s.rA a)⟩) := by
  refine (exec_suspend ..).trans (slotMeaning_trap hg hm ho ((taskVerdict_user hl).trans ?_))
  dsimp only
  rw [if_neg h0, if_neg (not_not.2 hu), hf]
  exact faultV_eq hw he

theorem genprobe_faults (hg : s.guard p = true) (hm : s.cur.mode = .whole)
    (ho : s.operandVerdict [s.rA a] (some (s.rD d)) true = .go) (hl : s.k.lvl = false) (hu : (s.reg (s.rA a)).toNat < 4096)
    {f : Nat} (hf : s.importSlot (s.reg (s.rA a)).toNat = .error f) (hw : f ≠ walkWait) (he : f ≠ walkError) :
    exec (.genprobe p d a 1) s = .next (s.takeTrap ⟨7, f, s.cur.slot, 0, 0, s.reg (s.rA a)⟩) := by
  refine (exec_genprobe ..).trans (slotMeaning_trap hg hm ho ?_)
  dsimp only
  rw [if_neg (by rw [hl]; exact Bool.false_ne_true), if_neg (by decide), if_neg (not_le.2 hu), hf]
  exact faultV_eq hw he

end Tasks

/-- Settles O34: each operation by its lemma above; SHAND by handCheck_eq and cut_spec, TENEND by startTenend_spec, TNEXT by
claimFrom_held and claimFrom_chunk. -/
theorem systemInstructions : Obligations.SystemInstructions := by
  intro s p h a b d u v k awaits
  refine ⟨sown_queues, fun hx h16 h14 h3 htouch hown hhand hten hcut => ?shand, fun hx => ⟨fun hl => ?genrPlatform, fun t hl ht => ?genrUser⟩,
    fun hx hl hv => ?probe, fun hx hl hu => ⟨fun hs => ?none, fun e hs => ?entry⟩, linkq_pending,
    fun hx hl hu hv => ?tenend, fun hg hm => ?traps, fun x ht => ⟨fun hl => ⟨fun hx => ?tidx,
      fun hx hr => ⟨fun hs => ?tnextNone, fun i c j rest hs hc hleft => ?tnextHeld, fun slot j n l i rest hs hlaunch hhome hheld hi => ?tnextChunk⟩,
      fun hx hu => suspend_ends hx hl ht hu, fun hx => ?endTask⟩, fun hl hg hm => task_traps hg hm hl⟩⟩
  case shand =>
    have hc : s.handCheck s.d s.k.actor k = none := by
      classical
      rw [handCheck_eq, if_neg (by rw [htouch]; decide), if_neg, if_neg]
      · rintro (e | e)
        · exact e hown
        · exact e hhand
      · rintro ⟨t, hl, ht, e⟩
        obtain ⟨hrv, hrten, hf⟩ := hten t hl ht
        rcases e with e | e | e
        · exact Bool.false_ne_true (e.symm.trans hrv)
        · exact e hrten
        · exact Bool.false_ne_true (hf.symm.trans e)
    obtain ⟨hmem, hcores, hh, ho, hst⟩ := cut_spec s k (s.shandOver u h)
    refine ⟨_, s.shandOver u h, shand_cuts hx ⟨h16, h14, h3⟩ hc, ?_⟩
    by_cases hmode : s.cur.mode = .commit
    · rw [if_pos hmode, if_pos hmode]
      exact ⟨rfl, hmem, hcores, hh, rfl, rfl, rfl, rfl, rfl, ho.trans hown, hst⟩
    · have he : (s.cut k (s.shandOver u h)).endCut = s.cut k (s.shandOver u h) := by
        unfold State.endCut
        rw [show (s.cut k (s.shandOver u h)).cur.cut = none from hcut]
      rw [if_neg hmode, if_neg hmode, show s.cut (u.toNat % 8) _ = s.cut k (s.shandOver u h) from rfl, he]
      exact ⟨rfl, hmem, hcores, hh, rfl, rfl, rfl, rfl, rfl, ho.trans hown, hst⟩
  case genrPlatform =>
    refine (exec_genr ..).trans ((slotMeaning_executes hx rfl).trans ?_)
    dsimp only
    rw [if_pos hl]
    rfl
  case genrUser =>
    refine (exec_genr ..).trans ((slotMeaning_executes hx rfl).trans ?_)
    dsimp only
    rw [if_neg (by rw [hl]; exact Bool.false_ne_true), ht]
    rfl
  case probe =>
    refine (exec_genprobe ..).trans ((slotMeaning_executes hx ?_).trans ?_)
    · dsimp only
      rw [if_neg (by rw [hl]; exact Bool.false_ne_true), if_pos (show (0 : BitVec 6) = 0#6 from rfl)]
      exact hv
    · dsimp only
      rw [if_pos (show (0 : BitVec 6) = 0#6 from rfl)]
  case none => exact genprobe_entry hx hl hu hs
  case entry => exact ⟨_, genprobe_entry hx hl hu hs, probeWord_bits s e⟩
  case tenend =>
    intro m s0 x ho
    refine ⟨_, tenend_accepts hx hl ⟨hu, ho, hv⟩, ?_⟩
    have hten := accepting_tenancy (s := s) m (u.getLsbD 12)
    by_cases hw : x.ending ≠ none ∨ x.gen = none ∨ x.queued ≠ []
    · rw [acceptTenend_waits hw, State.tenancy_updTen_same]
      refine ⟨rfl, rfl, congrArg Tenancy.opened hten, fun _ => ⟨(congrArg Tenancy.ending hten :), (congrArg Tenancy.gen hten :), ?_⟩, ?_⟩
      · exact (congrArg (fun y : Tenancy => y.queued ++ [(u.getLsbD 12, v, none, s0.nextWid)]) hten :)
      · intro g hg he hq
        exact absurd hw (by rw [hg, he, hq]; simp)
    · rw [acceptTenend_starts hw]
      obtain ⟨g, hg⟩ := Option.ne_none_iff_exists'.1 (fun e => hw (.inr (.inl e)) : x.gen ≠ none)
      have hg' : ((s.accepting m (u.getLsbD 12)).tenancy m).gen = some g := (congrArg Tenancy.gen hten).trans hg
      obtain ⟨hm, hc, hopen⟩ := startTenend_frame (close := u.getLsbD 12) (erec := v) (queue := none) (stamp := s0.nextWid) hg'
      refine ⟨hm, hc, hopen.trans (congrArg Tenancy.opened hten), fun h => absurd h hw, fun g1 hg1 _ _ hlive => ?_⟩
      have hg1' : ((s.accepting m (u.getLsbD 12)).tenancy m).gen = some g1 := (congrArg Tenancy.gen hten).trans hg1
      have hfree : (s.accepting m (u.getLsbD 12)).newFree = s0.newFree := State.newFree_congr rfl rfl rfl
      have := startTenend_spec (close := u.getLsbD 12) (erec := v) (queue := none) (stamp := s0.nextWid) hg1' hlive
      rw [hfree] at this
      exact this
  case traps =>
    classical
    have hcheck := handCheck_eq s k
    refine ⟨fun ho hu => ?sown, fun ho => ⟨shand_trap_shape hg hm ho, fun hs ht => ?_, fun hs ht hb => ?_, fun hs ht hb hown => ?_⟩,
      fun ho => ⟨fun hu => ?linkq, fun hl => ⟨?level0, ?level1⟩, fun hl hu => ?range, fun hl hu f hf => genprobe_faults hg hm ho hl hu hf⟩,
      fun ho => ⟨tenend_trap_level hg hm ho, fun hl hbad => ?tenend, suspend_trap_address hg hm ho,
        fun hl h0 h8 f hf => suspend_faults hg hm ho hl h0 h8 hf⟩⟩
    case sown =>
      refine (exec_sown ..).trans (slotMeaning_trap hg hm ho ?_)
      rw [decide_eq_true hu]
      rfl
    · exact shand_trap_check hg hm ho hs (hcheck.trans (if_pos ht))
    · exact shand_trap_check hg hm ho hs (hcheck.trans ((if_neg (by rw [ht]; decide)).trans (if_pos hb)))
    · exact shand_trap_check hg hm ho hs
        (hcheck.trans ((if_neg (by rw [ht]; decide)).trans ((if_neg hb).trans (if_pos hown))))
    case linkq =>
      refine (exec_linkq ..).trans (slotMeaning_trap hg hm ho ?_)
      rw [decide_eq_true hu]
      rfl
    case level0 =>
      exact (exec_genprobe ..).trans (slotMeaning_trap hg hm ho (if_pos hl))
    case level1 =>
      exact (exec_genprobe ..).trans (slotMeaning_trap hg hm ho (if_pos hl))
    case range =>
      refine (exec_genprobe ..).trans (slotMeaning_trap hg hm ho ?_)
      dsimp only
      rw [if_neg (by rw [hl]; exact Bool.false_ne_true), if_neg (by decide), if_pos hu]
      rfl
    case tenend =>
      refine tenend_trap_operands hg hm ho hl fun ⟨h13, hopen, hrec⟩ => ?_
      rcases hbad with e | e | e
      · exact absurd h13 (not_lt.2 e)
      · exact Bool.false_ne_true (e.symm.trans hopen)
      · exact Bool.false_ne_true (e.symm.trans hrec)
  case tidx =>
    refine ⟨_, tidx_index hx hl ht, ?_, ?_⟩ <;> rw [BitVec.toNat_ofNat] <;> omega
  case tnextNone =>
    obtain ⟨hmem, hk⟩ := claimed_spec (s := s) (n := s.rD d) (src := none) rfl
    exact ⟨_, tnext_claims hx hl hr hs rfl, hmem, (congrArg Core.sregs hk :), (congrArg Core.pend hk :)⟩
  case tnextHeld =>
    obtain ⟨s1, h1, hcur, hmem1, hk1⟩ := claimFrom_held hc hleft ht
    obtain ⟨hmem, hk⟩ := claimed_spec (n := s.rD d) h1
    refine ⟨_, s.claimResult (s.rD d) (BitVec.ofNat 64 j) s1, tnext_claims hx hl hr hs rfl, hmem.trans hmem1, ?_⟩
    rw [hk, hk1]
    exact ⟨rfl, rfl, rfl, rfl, rfl⟩
  case tnextChunk =>
    obtain ⟨s1, cs, h1, hcur, hk1⟩ := claimFrom_chunk hlaunch hi ht
    obtain ⟨hmem, hk⟩ := claimed_spec (n := s.rD d) h1
    have hwait : s.claimHeld s.cur.core (some (.chunk slot j n)) = false := by
      have hreach : s.reaches (dieOf s.cur.core) l.home = true := by
        rw [hhome]
        exact Bool.or_eq_true_iff.2 (.inl (beq_self_eq_true _))
      unfold State.claimHeld
      dsimp only
      rw [show (s.die (dieOf s.cur.core)).launch slot = some l from hlaunch]
      dsimp only
      rw [hreach, hheld, Bool.not_true, Bool.or_self]
    refine ⟨_, s.claimResult (s.rD d) (BitVec.ofNat 64 i) s1, tnext_claims hx hl hr hs hwait, ?_⟩
    rw [hk, hk1]
    exact ⟨rfl, rfl, rfl, rfl, rfl⟩
  case endTask => exact (exec_endTask ..).trans ((slotMeaning_executes hx (taskVerdict_user hl)).trans
    (congrArg Host.Outcome.next (endRun_eq ht .ended)))

end Sys2Proof.Machine
end

section
/-! PROOFS. What the settling of copies, the release of regions and the end of a call change of a core (spec 09 R187, R196,
R229, spec 11 R261-R267). -/

namespace Sys2Proof.Machine

/-- The cores differ at most in copies and what their settling touches: their counter and threads, regions, banks and
preloads. -/
def Core.SameButCopies (k k' : Core) : Prop := k' = { k with
  copies := k'.copies, ncp := k'.ncp, threads := k'.threads, regions := k'.regions, banks := k'.banks
  staging := k'.staging, preloads := k'.preloads }

section Settle
variable {k k' k'' : Core}

theorem Core.SameButCopies.with_ (k : Core) (cs : List Copy) (n : BitVec 12) (ts : List Thread) (rs : List Region) (b : Sparse BankState)
    (st : List Staged) (pl : List (Nat × BitVec 16)) : k.SameButCopies { k with
      copies := cs, ncp := n, threads := ts, regions := rs, banks := b, staging := st, preloads := pl } := rfl

theorem Core.SameButCopies.refl (k : Core) : k.SameButCopies k := rfl

theorem Core.SameButCopies.trans (h : k.SameButCopies k') (h' : k'.SameButCopies k'') : k.SameButCopies k'' :=
  Eq.trans h' (congrArg (fun x : Core => { x with
    copies := k''.copies, ncp := k''.ncp, threads := k''.threads, regions := k''.regions, banks := k''.banks
    staging := k''.staging, preloads := k''.preloads }) h)

theorem Core.SameButCopies.foldl {α : Type} {f : Core → α → Core} (hf : ∀ (k : Core) a, k.SameButCopies (f k a)) :
    ∀ (l : List α) (k : Core), k.SameButCopies (l.foldl f k)
  | [], k => .refl k
  | a :: l, k => (hf k a).trans (Core.SameButCopies.foldl hf l (f k a))

theorem Core.settleBanks_same (k : Core) : k.SameButCopies k.settleBanks :=
  .foldl (fun k b => by
    split
    · exact .with_ k k.copies k.ncp k.threads k.regions _ k.staging k.preloads
    · exact .refl k) _ k

theorem Core.releaseRegions_same (k : Core) (f : Region → Bool) : k.SameButCopies (k.releaseRegions f) :=
  (Core.SameButCopies.with_ k k.copies k.ncp k.threads (k.regions.filter (fun g => !f g)) k.banks k.staging k.preloads).trans
    (Core.settleBanks_same _)

theorem Core.settlePreloads_same (k : Core) : k.SameButCopies k.settlePreloads := by
  unfold Core.settlePreloads
  dsimp only
  generalize (List.range 16).foldl _ k.banks = b
  exact .with_ k k.copies k.ncp k.threads k.regions b k.staging k.preloads

theorem Core.preloadDone_same (k : Core) (op : Nat) : k.SameButCopies (k.preloadDone op) :=
  (Core.SameButCopies.with_ k k.copies k.ncp k.threads k.regions k.banks
    (k.staging.filter (fun r => !(r.orphan && r.op == some op))) (k.preloads.filter (fun p => p.1 != op))).trans
      (Core.settlePreloads_same _)

theorem Core.updCopy_same (k : Core) (id : Nat) (f : Copy → Copy) : k.SameButCopies (k.updCopy id f) :=
  .with_ k _ k.ncp k.threads k.regions k.banks k.staging k.preloads

theorem Core.leaveCounter_same (k : Core) (x : Copy) : k.SameButCopies (k.leaveCounter x) := by
  refine (k.updCopy_same x.id (fun y => { y with left := true })).trans ((Core.preloadDone_same _ x.id).trans ?_)
  unfold Core.leaveCounter
  generalize (k.updCopy x.id (fun y => { y with left := true })).preloadDone x.id = k'
  dsimp only
  split
  · exact .refl k'
  · exact .with_ k' k'.copies _ _ k'.regions k'.banks k'.staging k'.preloads

theorem Core.dropCopy_same (k : Core) (x : Copy) : k.SameButCopies (k.dropCopy x) := by
  refine (Core.releaseRegions_same k (fun r => r.op == x.id)).trans ?_
  unfold Core.dropCopy
  generalize k.releaseRegions (fun r => r.op == x.id) = k'
  exact .with_ k' _ k'.ncp k'.threads k'.regions k'.banks k'.staging k'.preloads

theorem Core.settleCopy_same (k : Core) (id : Nat) : k.SameButCopies (k.settleCopy id) := by
  unfold Core.settleCopy
  split
  · exact .refl k
  · next x _ =>
    dsimp only
    have h1 : k.SameButCopies (if ((x.left || k.mayLeave x) && !x.left) = true then k.leaveCounter x else k) := by
      split
      · exact k.leaveCounter_same x
      · exact .refl k
    split
    · exact h1
    · split
      · exact h1.trans (Core.dropCopy_same _ x)
      · exact h1.trans (Core.releaseRegions_same ..)

theorem Core.settleCopies_same (k : Core) : k.SameButCopies k.settleCopies :=
  .foldl (fun k (x : Copy) => k.settleCopy_same x.id) k.copies k

end Settle

/-- A call but for the mark that its output has been noted. -/
def Call.unmarked (c : Call) : Call := { c with noted := false }

section Calls
variable (k : Core) (g : Hm) (h : Nat) (x : Handle)

/-- Of the calls, the noting of an output changes marks alone. -/
theorem Core.calls_noteStatus : (k.noteStatus g h).calls.map Call.unmarked = k.calls.map Call.unmarked := by
  unfold Core.noteStatus
  split
  · rfl
  · rw [List.map_map]
    refine List.map_congr_left fun y _ => ?_
    dsimp only [Function.comp]
    split <;> rfl

theorem Core.calls_setHandle : (k.setHandle g h x).calls.map Call.unmarked = k.calls.map Call.unmarked := by
  unfold Core.setHandle
  dsimp only
  split
  · rfl
  · split
    · exact Core.calls_noteStatus ..
    · exact Core.calls_noteStatus ..

/-- The first call that fills the handle and is not yet noted stands ready in the status file (R267). -/
theorem Core.status_noteStatus {c : Call} (hf : k.calls.find? (fun c => c.hout == h && c.gen == g && !c.noted) = some c) :
    (k.noteStatus g h).status =
      Sparse.upd {} h (fun e => if e.awaited then { e with final := some (c.statusWord 0) } else e) k.status := by
  unfold Core.noteStatus
  rw [hf]

end Calls

end Sys2Proof.Machine
end

section
/-! PROOFS. The end of a matrix call (spec 11 R261, R265, R267). -/

namespace Sys2Proof.Machine

section Fields
variable {k k' : Core} (h : k.SameButCopies k')
include h

theorem Core.SameButCopies.sregs : k'.sregs = k.sregs := (congrArg Core.sregs h :)
theorem Core.SameButCopies.rows : k'.rows = k.rows := (congrArg Core.rows h :)
theorem Core.SameButCopies.ntl : k'.ntl = k.ntl := (congrArg Core.ntl h :)
theorem Core.SameButCopies.calls : k'.calls = k.calls := (congrArg Core.calls h :)
theorem Core.SameButCopies.handles : k'.handles = k.handles := (congrArg Core.handles h :)
theorem Core.SameButCopies.status : k'.status = k.status := (congrArg Core.status h :)

theorem Core.SameButCopies.handle (g : Hm) (n : Nat) : k'.handle g n = k.handle g n := by
  unfold Core.handle
  rw [h.handles]

end Fields

section Ends
variable (k : Core) (c : Call) (f : Nat) (g : Hm) (h : Nat)

/-- What a write of a handle changes, once its copies are settled. -/
theorem Core.setHandle_settled (x : Handle) : let k' := (k.setHandle g h x).settleCopies
    k'.sregs = k.sregs ∧ k'.rows = k.rows ∧ k'.ntl = k.ntl ∧ k'.calls.map Call.unmarked = k.calls.map Call.unmarked
      ∧ ∀ m, k'.handle g m = if m = h then { x with hm := g } else k.handle g m := by
  intro k'
  have hs : (k.setHandle g h x).SameButCopies k' := Core.settleCopies_same _
  obtain ⟨_, _, _, _, e⟩ := k.setHandle_cases g h x
  refine ⟨hs.sregs.trans (Core.sregs_setHandle ..), hs.rows.trans (by rw [e]), hs.ntl.trans (by rw [e]), ?_, fun m => ?_⟩
  · rw [hs.calls, Core.calls_setHandle]
  · rw [hs.handle, Core.handle_setHandle]

/-- A handle that fails is in ERROR; its first fault code is kept (R187). -/
theorem Core.failHandle_spec (b : Byte) : let k' := k.failHandle g h b
    k'.sregs = k.sregs ∧ k'.rows = k.rows ∧ k'.ntl = k.ntl ∧ k'.calls.map Call.unmarked = k.calls.map Call.unmarked
      ∧ (k'.handle g h).st = .error
      ∧ (k'.handle g h).fcode = if (k.handle g h).st = .error then (k.handle g h).fcode else b := by
  unfold Core.failHandle
  by_cases he : (k.handle g h).st = .error
  · rw [if_pos he, if_pos he]
    exact ⟨rfl, rfl, rfl, rfl, he, rfl⟩
  · rw [if_neg he, if_neg he]
    obtain ⟨h1, h2, h3, h4, h5⟩ := k.setHandle_settled g h { k.handle g h with st := .error, fcode := b }
    refine ⟨h1, h2, h3, h4, ?_, ?_⟩ <;> rw [h5, if_pos rfl]

/-- The status file once call c has ended with code f, or with 0: the word of an entry that is awaited stands ready (R267). -/
def endedStatus (c : Call) (f : Nat) (st : Sparse StatusEntry) : Sparse StatusEntry :=
  Sparse.upd {} c.hout (fun e => if (e.awaited && !c.noted) || f ≠ 0 then { e with final := some (c.statusWord f) } else e) st

/-- The core once its head call c has left the queue, its counter and its regions (R261). -/
def Core.leaveCall (k : Core) (c : Call) (f : Nat) : Core :=
  let k1 := k.releaseRegions (fun r => r.op == c.id)
  Core.callDone { k1 with calls := k.calls.drop 1, ntl := k.ntl - 1, status := endedStatus c f k1.status } c

/-- The core once its head call c has ended with code f, or with 0. -/
def Core.endedCall (k : Core) (c : Call) (f : Nat) : Core :=
  (if f = 0 then k else k.failHandle c.gen c.hout (BitVec.ofNat 8 f)).leaveCall c f

theorem State.endCall_eq (s : State) (c : Call) (f : Nat) : s.endCall c f = if f = 0 then s.updK (fun k => k.endedCall c f)
    else (s.updK (fun k => k.endedCall c f)).report s.d (s.coreFault s.cur.core { kind := 0x04, cause := f, data :=
      ((s.updK (fun k => k.endedCall c f)).k.handleRecord c.gen c.hout).toNat }) := by
  unfold State.endCall Core.endedCall Core.leaveCall endedStatus
  dsimp only

theorem Core.callDone_threads : ∃ ts, k.callDone c = { k with threads := ts } := by
  unfold Core.callDone
  split
  · exact ⟨_, rfl⟩
  · exact ⟨_, rfl⟩

/-- Of the regions, a settling of banks changes none. -/
theorem Core.regions_settleBanks : k.settleBanks.regions = k.regions := by
  unfold Core.settleBanks
  refine List.foldlRecOn (motive := fun x : Core => x.regions = k.regions) (List.range 16) _ rfl fun x hx b _ => ?_
  split
  · exact hx
  · exact hx

theorem Core.regions_releaseRegions (p : Region → Bool) : (k.releaseRegions p).regions = k.regions.filter (fun r => !p r) :=
  Core.regions_settleBanks _

/-- What leaves with the head call: its place, its count and its regions; its status word stands ready. -/
theorem Core.leaveCall_spec : let k' := k.leaveCall c f
    k'.sregs = k.sregs ∧ k'.rows = k.rows ∧ k'.ntl = k.ntl - 1 ∧ k'.calls = k.calls.drop 1 ∧ k'.handles = k.handles
      ∧ (∀ r ∈ k'.regions, r.op ≠ c.id) ∧ k'.status = endedStatus c f k.status := by
  unfold Core.leaveCall
  have hr := Core.releaseRegions_same k (fun r => r.op == c.id)
  have hregs := Core.regions_releaseRegions k (fun r => r.op == c.id)
  generalize k.releaseRegions (fun r => r.op == c.id) = k1 at hr hregs
  obtain ⟨ts, e⟩ := Core.callDone_threads { k1 with
    calls := k.calls.drop 1, ntl := k.ntl - 1, status := endedStatus c f k1.status } c
  dsimp only
  rw [e]
  refine ⟨hr.sregs, hr.rows, rfl, rfl, hr.handles, fun r hm => ?_,
    congrArg (endedStatus c f) hr.status⟩
  have hm : r ∈ k1.regions := hm
  rw [hregs, List.mem_filter] at hm
  simpa using hm.2

/-! ### The status word (R267) -/

theorem statusWord_toNat : (c.statusWord f).toNat = c.drains % 2 ^ 16 * 2 ^ 48 + f % 256 * 2 ^ 40 + 2 ^ 15
    + (if f = 0 then c.bits else c.bits ||| bitERR).toNat := by
  have hb := (if f = 0 then c.bits else c.bits ||| bitERR).isLt
  unfold Call.statusWord
  rw [BitVec.toNat_ofNat]
  omega

/-- The fields of the status word: DRAINs, fault code, the bit that it is valid, and the status bits. -/
theorem statusWord_fields : (c.statusWord f).toNat / 2 ^ 40 % 256 = f % 256 ∧ (c.statusWord f).getLsbD 15 = true
    ∧ (c.statusWord f).toNat / 2 ^ 48 = c.drains % 2 ^ 16
    ∧ (c.statusWord f).setWidth 8 = if f = 0 then c.bits else c.bits ||| bitERR := by
  have hw := statusWord_toNat c f
  have hb := (if f = 0 then c.bits else c.bits ||| bitERR).isLt
  refine ⟨by omega, ?_, by omega, ?_⟩
  · rw [BitVec.getLsbD, Nat.testBit_eq_decide_div_mod_eq, decide_eq_true_eq, hw]
    omega
  · refine BitVec.eq_of_toNat_eq ?_
    rw [BitVec.toNat_setWidth, hw]
    omega

theorem statusWord_error (hf : f ≠ 0) : (c.statusWord f).getLsbD 0 = true := by
  have hs := (statusWord_fields c f).2.2.2
  rw [if_neg hf] at hs
  have : ((c.statusWord f).setWidth 8).getLsbD 0 = true := by
    rw [hs, BitVec.getLsbD_or]
    exact Bool.or_eq_true_iff.2 (.inr rfl)
  rwa [BitVec.getLsbD_setWidth, decide_eq_true (by norm_num : 0 < 8), Bool.true_and] at this

end Ends

end Sys2Proof.Machine
end

section
/-! PROOFS. The micro-ops of a matrix call (spec 11 R251-R261). -/

namespace Sys2Proof.Machine

/-- Head call c of state s has left in t: of the queue, the counter and the scoreboard what was its own; registers and rows
stand. -/
def State.CallLeft (s : State) (c : Call) (l : List Call) (t : State) : Prop :=
  t.k.calls.map Call.unmarked = l.map Call.unmarked ∧ t.k.ntl = s.k.ntl - 1 ∧ (∀ r ∈ t.k.regions, r.op ≠ c.id)
    ∧ t.k.sregs = s.k.sregs ∧ t.k.rows = s.k.rows

/-- Instruction i ends head call c with fault code f. -/
def State.EndsCall (s : State) (c : Call) (l : List Call) (i : Instr) (f : Nat) : Prop :=
  ∃ t, exec i s = .next t ∧ s.CallLeft c l t ∧ (t.k.handle c.gen c.hout).st = .error
    ∧ (t.k.handle c.gen c.hout).fcode = (if (s.k.handle c.gen c.hout).st = .error then (s.k.handle c.gen c.hout).fcode
        else BitVec.ofNat 8 f)
    ∧ (∃ v : W64, (Sparse.get {} c.hout t.k.status).final = some v ∧ v.toNat / 2 ^ 40 % 256 = f ∧ v.getLsbD 15 = true
      ∧ v.getLsbD 0 = true ∧ v.toNat / 2 ^ 48 = c.drains % 2 ^ 16)

section Micro
variable {s : State} {c : Call} {l : List Call}

/-- The core at hand is not touched by a report. -/
theorem State.Reports.k {t : State} (h : s.Reports t) : t.k = s.k := by
  unfold State.k State.core
  rw [h.cores, h.cur]

theorem State.k_endCall (s : State) (c : Call) (f : Nat) : (s.endCall c f).k = s.k.endedCall c f := by
  rw [State.endCall_eq]
  split
  · exact s.k_updK _
  · exact (State.report_reports ..).k.trans (s.k_updK _)

theorem List.map_unmarked_tail {ks : List Call} (h : ks.map Call.unmarked = (c :: l).map Call.unmarked) :
    (ks.drop 1).map Call.unmarked = l.map Call.unmarked := by
  rw [List.map_drop, h]
  rfl

/-- An end with a fault code (R265). -/
theorem endsCall_of (hk : s.k.calls = c :: l) {i : Instr} {f : Nat} (hf : f ≠ 0) (hlt : f < 256)
    (hx : exec i s = .next (s.endCall c f)) : s.EndsCall c l i f := by
  obtain ⟨hs, hr, hn, hc, hst, hfc⟩ := s.k.failHandle_spec c.gen c.hout (BitVec.ofNat 8 f)
  have hend : s.k.endedCall c f = (s.k.failHandle c.gen c.hout (BitVec.ofNat 8 f)).leaveCall c f := by
    unfold Core.endedCall
    rw [if_neg hf]
  generalize s.k.failHandle c.gen c.hout (BitVec.ofNat 8 f) = k1 at *
  obtain ⟨hs', hr', hn', hc', hh', hrg', hst'⟩ := k1.leaveCall_spec c f
  have hhandle : (k1.leaveCall c f).handle c.gen c.hout = k1.handle c.gen c.hout := by
    unfold Core.handle
    rw [hh']
  obtain ⟨h40, h15, h48, -⟩ := statusWord_fields c f
  refine ⟨_, hx, ?_, ?_⟩
  · unfold State.CallLeft
    rw [State.k_endCall, hend]
    refine ⟨?_, by rw [hn', hn], hrg', hs'.trans hs, hr'.trans hr⟩
    rw [hc']
    exact List.map_unmarked_tail (hc.trans (congrArg (List.map Call.unmarked) hk))
  · rw [State.k_endCall, hend, hhandle]
    refine ⟨hst, hfc, c.statusWord f, ?_, h40.trans (Nat.mod_eq_of_lt hlt), h15, statusWord_error c f hf, h48⟩
    rw [hst', endedStatus, Sparse.get_upd_same, if_pos (by rw [decide_eq_true hf, Bool.or_true])]

/-- END of a call whose output is whole (R261). -/
theorem mxEnd_full (hk : s.k.calls = c :: l) (hs : c.started = true) (hfull : (s.k.handle c.gen c.hout).st = .full) :
    ∃ t, exec .mxEnd s = .next t ∧ t.mem = s.mem ∧ s.CallLeft c l t ∧ t.k.calls = l ∧ t.k.handles = s.k.handles
      ∧ (c.noted = true → ∀ h, Sparse.get {} h t.k.status = (Sparse.get {} h s.k.status : StatusEntry))
      ∧ (c.noted = false → (Sparse.get {} c.hout s.k.status).awaited = true → ∃ v : W64,
        (Sparse.get {} c.hout t.k.status).final = some v ∧ v.toNat / 2 ^ 40 % 256 = 0 ∧ v.getLsbD 15 = true
        ∧ v.setWidth 8 = c.bits ∧ v.toNat / 2 ^ 48 = c.drains % 2 ^ 16) := by
  have hx : exec .mxEnd s = .next (s.endCall c 0) := by
    refine (exec_mxEnd ..).trans ((microMeaning_runs hk hs).trans ?_)
    rw [if_pos hfull]
  obtain ⟨hs', hr', hn', hc', hh', hrg', hst'⟩ := s.k.leaveCall_spec c 0
  have hend : (s.endCall c 0).k = s.k.leaveCall c 0 := by
    rw [State.k_endCall, Core.endedCall, if_pos rfl]
  have hmem : (s.endCall c 0).mem = s.mem := by
    rw [State.endCall_eq, if_pos rfl, State.updK_mem]
  have hcalls : (s.k.leaveCall c 0).calls = l := hc'.trans (by rw [hk]; rfl)
  refine ⟨_, hx, hmem, ?_⟩
  unfold State.CallLeft
  rw [hend]
  refine ⟨⟨by rw [hcalls], hn', hrg', hs', hr'⟩, hcalls, hh', fun hnoted h => ?_, fun hnoted hw => ?_⟩
  · rw [hst', endedStatus, Sparse.upd, Sparse.get_put, hnoted]
    split
    · next e => simp [e]
    · rfl
  · obtain ⟨h40, h15, h48, h8⟩ := statusWord_fields c 0
    refine ⟨c.statusWord 0, ?_, h40, h15, h8, h48⟩
    rw [hst', endedStatus, Sparse.get_upd_same, if_pos (by rw [hw, hnoted]; rfl)]

/-- Instruction i leaves the core at hand with c' for its head call, and changes nothing else. -/
def State.CallGoes (s : State) (l : List Call) (i : Instr) (c' : Call) : Prop :=
  exec i s = .next (s.updK (fun k => { k with calls := c' :: l }))

theorem State.setCall_eq (hk : s.k.calls = c :: l) (c' : Call) : s.setCall c' = s.updK (fun k => { k with calls := c' :: l }) := by
  unfold State.setCall State.updK
  refine State.updCore_congr ?_
  rw [show (s.core s.cur.core).calls = c :: l from hk]
  rfl

theorem callGoes_of {i : Instr} {f : State → Call → State} {c' : Call} (hi : exec i s = microMeaning f s) (hk : s.k.calls = c :: l)
    (hs : c.started = true) (hf : f s c = s.setCall c') : s.CallGoes l i c' :=
  hi.trans ((microMeaning_runs hk hs).trans (congrArg Host.Outcome.next (hf.trans (State.setCall_eq hk c'))))

/-! ### ZERO, UNF and control -/

theorem zero_clears (hk : s.k.calls = c :: l) (hs : c.started = true) (rp : BitVec 3) :
    s.CallGoes l (.zero 0 rp) { c with tile := [], refs := [], slices := 0, pc := c.pc + 1 } :=
  callGoes_of (exec_zero ..) hk hs (if_pos rfl)

theorem unf_sets (hk : s.k.calls = c :: l) (hs : c.started = true) {tp gp : BitVec 3} (ht : (c.params.getD tp.toNat 0).toNat < 2 ^ 55)
    (hw : (c.params.getD gp.toNat 0).toNat < 2 ^ 36) :
    s.CallGoes l (.unf tp gp) { c with unf := some (c.params.getD tp.toNat 0, c.params.getD gp.toNat 0), pc := c.pc + 1 } := by
  refine callGoes_of (exec_unf ..) hk hs (if_neg ?_)
  have h1 := (extract_high_eq_zero (c.params.getD tp.toNat 0) 55 9 rfl).2 ht
  have h2 := (extract_high_eq_zero (c.params.getD gp.toNat 0) 36 28 rfl).2 hw
  unfold Call.param
  rw [h1, h2]
  decide

theorem adv_advances (hk : s.k.calls = c :: l) (hs : c.started = true) (pd sp : BitVec 3) (ps : BitVec 1) (stride : BitVec 32) :
    s.CallGoes l (.adv pd sp ps stride) { c with pc := c.pc + 1, params := c.params.set pd.toNat (c.params.getD pd.toNat 0
      + (if ps = 1 then ((c.params.getD sp.toNat 0).setWidth 32).signExtend 64 else stride.signExtend 64)) } :=
  callGoes_of (exec_adv ..) hk hs rfl

theorem mxLoop_goes (hk : s.k.calls = c :: l) (hs : c.started = true) {cp : BitVec 3} {e : Nat}
    (he : s.k.matchEndl c.gen (c.start + c.len - (c.pc + 1)) (c.pc + 1) 0 = some e) :
    let n := (c.params.getD cp.toNat 0).toNat % 2 ^ 20
    (n = 0 → s.CallGoes l (.mxLoop cp) { c with pc := e + 1 })
    ∧ (n ≠ 0 → c.loops.length < 4 →
      s.CallGoes l (.mxLoop cp) { c with loops := (c.pc + 1, n) :: c.loops, pc := c.pc + 1 }) := by
  intro n
  refine ⟨fun h0 => callGoes_of (exec_mxLoop ..) hk hs ?_, fun h0 hl => callGoes_of (exec_mxLoop ..) hk hs ?_⟩
  · dsimp only
    rw [he]
    exact if_pos h0
  · dsimp only
    rw [he]
    exact (if_neg h0).trans (if_neg (not_le.2 hl))

theorem endl_goes (hk : s.k.calls = c :: l) (hs : c.started = true) {w n : Nat} {r : List (Nat × Nat)} (hl : c.loops = (w, n) :: r) :
    (1 < n → s.CallGoes l .endl { c with loops := (w, n - 1) :: r, pc := w })
    ∧ (n ≤ 1 → s.CallGoes l .endl { c with loops := r, pc := c.pc + 1 }) := by
  refine ⟨fun hn => callGoes_of (exec_endl ..) hk hs ?_, fun hn => callGoes_of (exec_endl ..) hk hs ?_⟩
  · rw [hl]
    exact if_pos hn
  · rw [hl]
    exact if_neg (not_lt.2 hn)

/-- A write of a handle that leaves it neither FULL nor in ERROR changes its record alone. -/
theorem Core.setHandle_quiet (k : Core) (g : Hm) (h : Nat) (x : Handle) (hf : x.st ≠ .full) (he : x.st ≠ .error) :
    k.setHandle g h x = { k with handles := Sparse.put {} h { x with hm := g } k.handles } := by
  unfold Core.setHandle
  simp [hf, he]

/-- WAITH of a handle that is FULL or DRAINING takes it for an input (R260). -/
theorem waith_takes (hk : s.k.calls = c :: l) (hs : c.started = true) {h : BitVec 6}
    (hst : (s.k.handle c.gen h.toNat).st = .full ∨ (s.k.handle c.gen h.toNat).st = .draining) :
    ∃ t c', exec (.waith h) s = .next t ∧ t.mem = s.mem ∧ t.k.calls = c' :: l ∧ c'.pc = c.pc + 1 ∧ h.toNat ∈ c'.inputs
      ∧ (∀ j ∈ c.inputs, j ∈ c'.inputs)
      ∧ t.k.handle c.gen h.toNat = { s.k.handle c.gen h.toNat with st := .draining, hm := c.gen }
      ∧ ∀ j, j ≠ h.toNat → t.k.handle c.gen j = s.k.handle c.gen j := by
  let y : Handle := { s.k.handle c.gen h.toNat with st := .draining }
  let s1 := s.updK (fun k => k.setHandle c.gen h.toNat y)
  let c1 : Call := { c with inputs := if c.inputs.contains h.toNat then c.inputs else c.inputs ++ [h.toNat] }
  have hk1 : s1.k = { s.k with handles := Sparse.put {} h.toNat { y with hm := c.gen } s.k.handles } := by
    rw [State.k_updK, Core.setHandle_quiet _ _ _ _ (show HState.draining ≠ .full by decide) (show HState.draining ≠ .error by decide)]
  have hx : exec (.waith h) s = .next (s1.nextWord c1) := by
    refine (exec_waith ..).trans ((microMeaning_runs hk hs).trans ?_)
    rcases hst with e | e <;> simp only [e] <;> rfl
  have hcalls : s1.k.calls = c :: l := by rw [hk1, hk]
  have hnext : s1.nextWord c1 = s1.updK (fun k => { k with calls := { c1 with pc := c1.pc + 1 } :: l }) :=
    State.setCall_eq hcalls _
  refine ⟨_, { c1 with pc := c1.pc + 1 }, hx, ?_, ?_, rfl, ?_, fun j hj => ?_, ?_, fun j hj => ?_⟩
  · rw [hnext, State.updK_mem, State.updK_mem]
  · rw [hnext, State.k_updK]
  · show h.toNat ∈ (if c.inputs.contains h.toNat then c.inputs else c.inputs ++ [h.toNat])
    split
    · next hc => exact List.contains_iff_mem.1 hc
    · exact List.mem_append_right _ List.mem_cons_self
  · show j ∈ (if c.inputs.contains h.toNat then c.inputs else c.inputs ++ [h.toNat])
    split
    · exact hj
    · exact List.mem_append_left _ hj
  · rw [hnext, State.k_updK, hk1]
    unfold Core.handle
    rw [Sparse.get_put_same]
    exact if_pos rfl
  · rw [hnext, State.k_updK, hk1]
    unfold Core.handle
    rw [Sparse.get_put_other hj]

theorem waith_waits (hk : s.k.calls = c :: l) (hs : c.started = true) {h : BitVec 6}
    (hst : (s.k.handle c.gen h.toNat).st = .free ∨ (s.k.handle c.gen h.toNat).st = .filling) : exec (.waith h) s = .next s := by
  refine (exec_waith ..).trans ((microMeaning_runs hk hs).trans ?_)
  rcases hst with e | e <;> simp only [e]

end Micro

end Sys2Proof.Machine
end

section
/-! PROOFS. ZERO of rows, MMA and DRAIN (spec 11 R252-R257, R131). -/

namespace Sys2Proof.Machine

/-- Words put one by one at their own numbers. -/
theorem get_foldl_put_own {α : Type} [DecidableEq α] {z : α} (f : Nat → α) (n j : Nat) (hj : j < n) :
    Sparse.get z j ((List.range n).foldl (fun t e => Sparse.put z e (f e) t) []) = f j := by
  have h := get_foldl_put (z := z) f 0 [] j n
  simp only [Nat.zero_add, Nat.zero_le, true_and, Nat.sub_zero] at h
  rw [h, if_pos hj]

theorem tile_place {i j : Nat} (hi : i < 32) (hj : j < 32) : 32 * i + j < 1024 ∧ (32 * i + j) / 32 = i ∧ (32 * i + j) % 32 = j := by
  omega

section Micro
variable {s : State} {c : Call} {l : List Call}

theorem loadTile_get (k : Core) (g : Hm) (rb : Nat) {i j : Nat} (hi : i < 32) (hj : j < 32) :
    Sparse.get 0 (32 * i + j) (k.loadTile g rb) = (unitOf (k.row g ((rb + i) % 4096)) j).toNat := by
  obtain ⟨hlt, hd, hm⟩ := tile_place hi hj
  unfold Core.loadTile
  rw [get_foldl_put_own (fun n => (unitOf (k.row g ((rb + n / 32) % 4096)) (n % 32)).toNat) 1024 _ hlt, hd, hm]

/-- ZERO with LD loads the tile from 32 rows (R252). -/
theorem zero_loads (hk : s.k.calls = c :: l) (hs : c.started = true) (rp : BitVec 3)
    (hr : ∀ i < 32, c.mayRow (((c.params.getD rp.toNat 0).toNat % 4096 + i) % 4096) = true
      ∧ (Sparse.get {} (((c.params.getD rp.toNat 0).toNat % 4096 + i) % 4096) s.k.rows).bad = false) :
    let t := s.k.loadTile c.gen ((c.params.getD rp.toNat 0).toNat % 4096)
    s.CallGoes l (.zero 1 rp) { c with tile := t, refs := tileRefs t, slices := 0, pc := c.pc + 1 } := by
  refine callGoes_of (exec_zero ..) hk hs ?_
  beta_reduce
  rw [if_neg (show ¬ (1 : BitVec 1) = 0#1 by decide)]
  extract_lets rb rows
  have hmem : ∀ r ∈ rows, c.mayRow r = true ∧ (Sparse.get {} r s.k.rows).bad = false := by
    intro r hm
    obtain ⟨i, hi, rfl⟩ := List.mem_map.1 hm
    exact hr i (List.mem_range.1 hi)
  have hrb : (c.params.getD rp.toNat 0).toNat % 4096 = rb := rfl
  rw [hrb]
  clear_value rows rb
  have hall : rows.all c.mayRow = true := List.all_eq_true.2 fun r hm => (hmem r hm).1
  have hbad : rows.find? (fun r => (Sparse.get {} r s.k.rows).bad && (Sparse.get {} r s.k.rows).hm == c.gen) = none := by
    rw [List.find?_eq_none]
    intro r hm
    rw [(hmem r hm).2]
    exact Bool.false_ne_true
  rw [hall, hbad]
  refine (if_neg (by decide)).trans ?_
  dsimp only [State.nextWord]

/-! ### MMA -/

/-- The tile of an MMA done (R131). -/
theorem runMma_get (k : Core) (c : Call) (m : MmaPlan) {i j : Nat} (hi : i < 32) (hj : j < 32) :
    Sparse.get 0 (32 * i + j) (k.runMma c m).tile = accumulate m.slice ((m.n + m.slice - 1) / m.slice)
      (products (k.rowA c.gen m i) (k.rowB c.gen m j)) (Sparse.get 0 (32 * i + j) c.tile) := by
  obtain ⟨hlt, hd, hm⟩ := tile_place hi hj
  unfold Core.runMma
  dsimp only
  rw [get_foldl_put_own (fun e => accumulate m.slice ((m.n + m.slice - 1) / m.slice)
    (products (((List.range 32).map (k.rowA c.gen m)).getD (e / 32) []) (((List.range 32).map (k.rowB c.gen m)).getD (e % 32) []))
    (Sparse.get 0 e c.tile)) 1024 _ hlt, hd, hm]
  congr 2
  · rw [List.getD_eq_getElem _ _ (by simpa using hi)]; simp
  · rw [List.getD_eq_getElem _ _ (by simpa using hj)]; simp

/-- The settings of an MMA, from its parameters and the handles of its operands (R251-R256). -/
def State.mmaPlan (s : State) (c : Call) (ap bp kp mp : BitVec 3) (ha hb : Nat) (sp ua : BitVec 1) (u : Option (Unfold × Nat)) : MmaPlan :=
  let xa := s.k.handle c.gen ha
  let xb := s.k.handle c.gen hb
  { a := if ua = 1 then ⟨(u.map (·.1.base)).getD 0, 0, xa.fmt.toNat, 0⟩ else operandOf (c.params.getD ap.toNat 0) xa
    b := operandOf (c.params.getD bp.toNat 0) xb, n := (c.params.getD kp.toNat 0).toNat % 2 ^ 20
    slice := sliceWidth xa.fmt.toNat xb.fmt.toNat
    mta := if sp = 1 then some { operandOf (c.params.getD mp.toNat 0) {} with fmt := 0 } else none
    unf := if ua = 1 then u else none }

section Mma
variable {ap bp kp mp : BitVec 3} {ah bh : BitVec 6} {sp ua ain bin : BitVec 1}

/-- Where no check stops it, MMA runs its plan (R253-R256). -/
theorem mma_runs (hk : s.k.calls = c :: l) (hs : c.started = true) {ha hb n w : Nat} {u : Option (Unfold × Nat)}
    (hha : ha = if ain = 1 then c.hin else ah.toNat) (hhb : hb = if bin = 1 then c.hin else bh.toNat)
    (hn : n = (c.params.getD kp.toNat 0).toNat % 2 ^ 20)
    (hw : w = sliceWidth (s.k.handle c.gen ha).fmt.toNat (s.k.handle c.gen hb).fmt.toNat)
    (hu : u = c.unf.map (fun t => (unfoldOf t.1 t.2, (c.params.getD ap.toNat 0).toNat % 2 ^ 24)))
    (hia : ha ∈ c.inputs) (hib : hb ∈ c.inputs) (hfa : mmaFormat (s.k.handle c.gen ha).fmt.toNat = true)
    (hfb : mmaFormat (s.k.handle c.gen hb).fmt.toNat = true) (hw0 : w ≠ 0) (hn0 : n ≠ 0)
    (hoff : offBlock (s.k.handle c.gen hb).geo.toNat (if sp = 1 then n / 2 else n) = false) (hsp : sp = 1 → n % 4 = 0)
    (hoffa : ua ≠ 1 → offBlock (s.k.handle c.gen ha).geo.toNat n = false)
    (hua : ua = 1 → (s.k.handle c.gen ha).geo = 0 ∧ ∃ v, u = some v ∧ n ≤ v.1.r * v.1.s * v.1.c)
    (hlines : ∀ y ∈ (s.mmaPlan c ap bp kp mp ha hb sp ua u).lines, c.mayRead y = true ∧ (Sparse.get {} y s.k.spm).bad = false)
    (hmeta : ∀ o, (s.mmaPlan c ap bp kp mp ha hb sp ua u).mta = some o → ∀ j < 32, ∀ e < n / 4, let b := s.k.metaByte c.gen o j e
      b / 16 = b % 16 ∧ b % 4 < b / 4 % 4)
    (hlatch : ∀ y ∈ (s.mmaPlan c ap bp kp mp ha hb sp ua u).latched, y % 2 ^ 19 ∉ s.k.latchUpsets) :
    s.CallGoes l (.mma ap bp kp mp ah bh sp ua ain bin) (s.k.runMma c (s.mmaPlan c ap bp kp mp ha hb sp ua u)) := by
  subst hha hhb hn hw hu
  refine callGoes_of (exec_mma ..) hk hs ?_
  beta_reduce
  extract_lets g ha' hb' xa xb w' n' nb u' pa a mt plan lines mbytes
  have hplan : plan = s.mmaPlan c ap bp kp mp ha' hb' sp ua (c.unf.map (fun t => (unfoldOf t.1 t.2, pa.toNat % 2 ^ 24))) := by
    unfold State.mmaPlan
    simp only [plan, a, u', Option.map_map]
    rfl
  have h1 : c.inputs.contains ha' = true := List.contains_iff_mem.2 hia
  have h2 : c.inputs.contains hb' = true := List.contains_iff_mem.2 hib
  have h3 : mmaFormat xa.fmt.toNat = true := hfa
  have h4 : mmaFormat xb.fmt.toNat = true := hfb
  rw [if_neg (show ¬ (!c.inputs.contains ha' || !c.inputs.contains hb' || !mmaFormat xa.fmt.toNat || !mmaFormat xb.fmt.toNat) = true
    by rw [h1, h2, h3, h4]; decide), if_neg (show ¬ w' = 0 from hw0)]
  have h5 : (ua = 1#1 → xa.geo = 0 ∧ ∃ v, u' = some v ∧ n' ≤ v.r * v.s * v.c) := by
    intro e
    obtain ⟨hgeo, v, hv, hle⟩ := hua e
    obtain ⟨t, ht, rfl⟩ := Option.map_eq_some_iff.1 hv
    exact ⟨hgeo, _, congrArg (Option.map _) ht, hle⟩
  have h7 : (decide (ua = 1#1) && (u'.isNone || decide (xa.geo ≠ 0))) = false := by
    by_cases e : ua = 1#1
    · obtain ⟨hgeo, v, hv, -⟩ := h5 e
      rw [hv, hgeo]
      simp
    · rw [decide_eq_false e, Bool.false_and]
  have h8 : (decide (n' = 0) || decide (sp = 1#1) && decide (n' % 4 ≠ 0)) = false := by
    rw [decide_eq_false (show ¬ n' = 0 from hn0), Bool.false_or]
    by_cases e : sp = 1#1
    · rw [decide_eq_false (show ¬ n' % 4 ≠ 0 from not_not.2 (hsp e)), Bool.and_false]
    · rw [decide_eq_false e, Bool.false_and]
  have h9 : (decide (ua = 0#1) && offBlock xa.geo.toNat n') = false := by
    by_cases e : ua = 0#1
    · rw [show offBlock xa.geo.toNat n' = false from hoffa (by rw [e]; decide), Bool.and_false]
    · rw [decide_eq_false e, Bool.false_and]
  have h10 : offBlock xb.geo.toNat nb = false := hoff
  have h11 : lines.all c.mayRead = true := List.all_eq_true.2 fun y hy => (hlines y (hplan ▸ hy)).1
  have h12 : lines.find? (fun y => (Sparse.get {} y s.k.spm).bad && (Sparse.get {} y s.k.spm).hm == g) = none := by
    rw [List.find?_eq_none]
    intro y hy
    rw [(hlines y (hplan ▸ hy)).2]
    exact Bool.false_ne_true
  have h13 : s.k.latchFails plan = false := by
    unfold Core.latchFails
    rw [Bool.and_eq_false_iff]
    refine .inr (List.any_eq_false.2 fun y hy => ?_)
    rw [List.contains_iff_mem]
    exact hlatch y (hplan ▸ hy)
  have hm : ∀ b ∈ mbytes, b / 16 = b % 16 ∧ b % 4 < b / 4 % 4 := by
    intro b hb
    simp only [mbytes] at hb
    split at hb
    · exact absurd hb List.not_mem_nil
    · next o ho =>
      obtain ⟨j, hj, hb⟩ := List.mem_flatMap.1 hb
      obtain ⟨e, he, rfl⟩ := List.mem_map.1 hb
      exact hmeta o (hplan ▸ ho) j (List.mem_range.1 hj) e (List.mem_range.1 he)
  have h14 : (mbytes.any fun b => b / 16 != b % 16) = false :=
    List.any_eq_false.2 fun b hb => by rw [(hm b hb).1]; simp
  have h15 : (mbytes.any fun b => decide (b / 4 % 4 ≤ b % 4)) = false :=
    List.any_eq_false.2 fun b hb => by rw [decide_eq_false (not_le.2 (hm b hb).2)]; exact Bool.false_ne_true
  rw [if_neg, h7, if_neg Bool.false_ne_true, h11, h12, h13]
  · dsimp only
    rw [if_neg (by decide), h14, h15, Bool.or_self, if_neg Bool.false_ne_true, if_neg Bool.false_ne_true, hplan]
    rfl
  · rw [h8, h10, h9, Bool.false_or, Bool.false_or, Bool.false_or]
    by_cases e : ua = 1#1
    · obtain ⟨-, v, hv, hle⟩ := h5 e
      simp only [hv, not_lt.2 hle, decide_false, Bool.and_false]
      exact Bool.false_ne_true
    · rw [decide_eq_false e, Bool.false_and]
      exact Bool.false_ne_true

end Mma

end Micro

end Sys2Proof.Machine
end

section
/-! PROOFS. DRAIN (spec 11 R257). -/

namespace Sys2Proof.Machine

/-- The core with the first n output rows of a DRAIN written from row rb on. -/
def Core.drainRows (k : Core) (g : Hm) (rb : Nat) (img : Nat → Image) (n : Nat) : Core :=
  (List.range n).foldl (fun k q => k.writeRow g ((rb + q) % 4096) allUnits (img q)) k

theorem Core.drainRows_succ (k : Core) (g : Hm) (rb : Nat) (img : Nat → Image) (n : Nat) :
    k.drainRows g rb img (n + 1) = (k.drainRows g rb img n).writeRow g ((rb + n) % 4096) allUnits (img n) := by
  unfold Core.drainRows
  rw [List.range_succ, List.foldl_append, List.foldl_cons, List.foldl_nil]

theorem Core.drainRows_rows (k : Core) (g : Hm) (rb : Nat) (img : Nat → Image) :
    ∀ n, ∃ rs, k.drainRows g rb img n = { k with rows := rs }
  | 0 => ⟨k.rows, rfl⟩
  | n + 1 => by
    obtain ⟨rs, e⟩ := k.drainRows_rows g rb img n
    rw [k.drainRows_succ, e]
    exact ⟨_, rfl⟩

/-- Each row written holds its image; no other row is touched. -/
theorem Core.row_drainRows (k : Core) (g : Hm) (rb : Nat) (img : Nat → Image) : ∀ n, n ≤ 4096 →
    (∀ q < n, (k.drainRows g rb img n).row g ((rb + q) % 4096) = img q)
      ∧ ∀ r, (∀ q < n, r ≠ (rb + q) % 4096) → Sparse.get {} r (k.drainRows g rb img n).rows = Sparse.get {} r k.rows
  | 0, _ => ⟨fun q hq => absurd hq (Nat.not_lt_zero q), fun _ _ => rfl⟩
  | n + 1, h => by
    obtain ⟨h1, h2⟩ := k.row_drainRows g rb img n (by omega)
    rw [k.drainRows_succ]
    refine ⟨fun q hq => ?_, fun r hr => ?_⟩
    · by_cases e : q = n
      · subst e
        unfold Core.row
        rw [Core.rows_writeRow_same]
        exact if_pos rfl
      · rw [Core.row_writeRow_ne (by omega)]
        exact h1 q (by omega)
    · unfold Core.writeRow
      rw [Sparse.get_upd_other (hr n (Nat.lt_succ_self n))]
      exact h2 r fun q hq => hr q (by omega)

/-- A drain format fills a row: per tile rows of 32 lanes share one. -/
theorem drainFmt_fills {df : Nat} {f : FloatFmt} {per : Nat} (h : drainFmt df = some (f, per)) :
    f.width * (32 * per) = 1024 ∧ (per = 1 ∨ per = 2 ∨ per = 4) ∧ df < 5 := by
  unfold drainFmt at h
  split at h <;> cases h <;> decide

/-- Lane by lane, an output row holds its tile rows converted (R257). -/
theorem drainImage_lane {f : FloatFmt} {per : Nat} (hw : f.width * (32 * per) = 1024) (hp : per = 1 ∨ per = 2 ∨ per = 4)
    (x : Option Num) (t : Sparse Nat) {i j : Nat} (hj : j < 32) :
    laneNat f.width (drainImage f per x t (i / per)) (32 * (i % per) + j) = (drainElem f x (tileAt t i j)).1 % 2 ^ f.width := by
  have hlane : 32 * (i % per) + j < 32 * per := by
    have := Nat.mod_lt i (show 0 < per by omega)
    rcases hp with rfl | rfl | rfl <;> omega
  have hplace : per * (i / per) + (32 * (i % per) + j) / 32 = i ∧ (32 * (i % per) + j) % 32 = j := by
    rcases hp with rfl | rfl | rfl <;> omega
  have hl := lanesImage_holds (fun l => BitVec.ofNat f.width (drainElem f x (tileAt t (per * (i / per) + l / 32) (l % 32))).1)
    hw.le _ hlane
  unfold drainImage
  rw [hl]
  dsimp only
  rw [hplace.1, hplace.2, BitVec.toNat_ofNat, Nat.mod_mod]

/-- Bytes counted on a FILLING handle within its expectation: FULL at the expectation (R187). -/
theorem Core.countBytes_filling (k : Core) (g : Hm) (h n : Nat) (hst : (k.handle g h).st = .filling) (hn : n ≠ 0)
    (hle : (k.handle g h).cnt + n ≤ (k.handle g h).exp) : let k' := k.countBytes g h n
    k'.sregs = k.sregs ∧ k'.rows = k.rows ∧ k'.calls.map Call.unmarked = k.calls.map Call.unmarked
      ∧ k'.handle g h = { k.handle g h with
        cnt := (k.handle g h).cnt + n, st := if (k.handle g h).cnt + n = (k.handle g h).exp then .full else .filling, hm := g }
      ∧ ((k.handle g h).cnt + n = (k.handle g h).exp →
        k' = (k.setHandle g h { k.handle g h with cnt := (k.handle g h).exp, st := .full }).settleCopies) := by
  unfold Core.countBytes
  rw [if_neg hn]
  simp only [hst, if_neg (not_lt.2 hle)]
  by_cases he : (k.handle g h).cnt + n = (k.handle g h).exp
  · rw [if_pos he, if_pos he]
    obtain ⟨h1, h2, -, h4, h5⟩ := k.setHandle_settled g h { k.handle g h with cnt := (k.handle g h).exp, st := .full }
    refine ⟨h1, h2, h4, ?_, fun _ => rfl⟩
    rw [h5, if_pos rfl, he]
  · rw [if_neg he, if_neg he]
    obtain ⟨_, _, _, _, e⟩ := k.setHandle_cases g h { k.handle g h with cnt := (k.handle g h).cnt + n, st := .filling }
    refine ⟨Core.sregs_setHandle .., ?_, Core.calls_setHandle .., ?_, fun e => absurd e he⟩
    · rw [e]
    · rw [Core.handle_setHandle, if_pos rfl]

/-- A handle that enters FULL has the status word of its first call not yet noted stand ready (R267). -/
theorem Core.status_setHandle_full {k : Core} {g : Hm} {h : Nat} {x : Handle} {c : Call} (hx : x.st = .full)
    (hwas : (k.handle g h).st ≠ .full) (hc : k.calls.find? (fun c => c.hout == h && c.gen == g && !c.noted) = some c) :
    (k.setHandle g h x).status =
      Sparse.upd {} h (fun e => if e.awaited then { e with final := some (c.statusWord 0) } else e) k.status := by
  unfold Core.setHandle
  simp only [hx, hwas, decide_true, Bool.true_or, Bool.not_true, Bool.false_or, decide_false, Bool.false_eq_true, if_false]
  split
  · exact Core.status_noteStatus _ g h hc
  · exact Core.status_noteStatus _ g h hc

/-- The core once a DRAIN of call c, which goes on as c', has written its n rows: format and bytes noted on the output, the
regions given up with the last row to be drained (R257, R196). -/
def Core.drainDone (k : Core) (c c' : Call) (n df : Nat) : Core :=
  let h := k.handle c.gen c.hout
  let k := if h.st = .error then k
    else (k.setHandle c.gen c.hout { h with fmt := BitVec.ofNat 6 (df + 1), geo := 0 }).countBytes c.gen c.hout (128 * n)
  let k := if c'.wholly then k.releaseRegions (fun r => r.op == c.id) else k
  if (k.handle c.gen c.hout).st = .full then k.callDone c else k

/-- The output of a DRAIN while it is FILLING and within its expectation. -/
theorem Core.drainDone_spec (k : Core) (c c' : Call) (n df : Nat) (hn : n ≠ 0) (hst : (k.handle c.gen c.hout).st = .filling)
    (hle : (k.handle c.gen c.hout).cnt + 128 * n ≤ (k.handle c.gen c.hout).exp) : let k' := k.drainDone c c' n df
    let x := k.handle c.gen c.hout
    k'.sregs = k.sregs ∧ k'.rows = k.rows ∧ k'.calls.map Call.unmarked = k.calls.map Call.unmarked
      ∧ k'.handle c.gen c.hout = { x with
        cnt := x.cnt + 128 * n, fmt := BitVec.ofNat 6 (df + 1), geo := 0
        st := if x.cnt + 128 * n = x.exp then .full else .filling, hm := c.gen }
      ∧ (c'.wholly = true → ∀ r ∈ k'.regions, r.op ≠ c.id)
      ∧ (x.cnt + 128 * n = x.exp → ∀ y, k.calls.find? (fun y => y.hout == c.hout && y.gen == c.gen && !y.noted) = some y →
        k'.status = Sparse.upd {} c.hout (fun e => if e.awaited then { e with final := some (y.statusWord 0) } else e) k.status) := by
  intro k' x
  let y : Handle := { x with fmt := BitVec.ofNat 6 (df + 1), geo := 0 }
  let k1 := k.setHandle c.gen c.hout y
  have hy : y.st = .filling := hst
  have hk1 : k1 = { k with handles := Sparse.put {} c.hout { y with hm := c.gen } k.handles } :=
    Core.setHandle_quiet _ _ _ _ (by rw [hy]; decide) (by rw [hy]; decide)
  have hh1 : k1.handle c.gen c.hout = { y with hm := c.gen } := by
    show (k.setHandle c.gen c.hout y).handle c.gen c.hout = _
    rw [Core.handle_setHandle, if_pos rfl]
  let k2 := k1.countBytes c.gen c.hout (128 * n)
  obtain ⟨h1, h2, h3, h4, h5⟩ := k1.countBytes_filling c.gen c.hout (128 * n) (by rw [hh1]; exact hst) (by omega)
    (by rw [hh1]; exact hle)
  let k3 := if c'.wholly then k2.releaseRegions (fun r => r.op == c.id) else k2
  have hk3 : k2.SameButCopies k3 := by
    show k2.SameButCopies (if c'.wholly then k2.releaseRegions (fun r => r.op == c.id) else k2)
    split
    · exact Core.releaseRegions_same ..
    · exact .refl k2
  have hk' : k' = if (k3.handle c.gen c.hout).st = .full then k3.callDone c else k3 := by
    show k.drainDone c c' n df = _
    unfold Core.drainDone
    dsimp only
    rw [if_neg (show ¬ (k.handle c.gen c.hout).st = .error by rw [hst]; decide)]
  have hs : k3.SameButCopies k' := by
    rw [hk']
    split
    · obtain ⟨ts, e⟩ := k3.callDone_threads c
      rw [e]
      exact .with_ k3 k3.copies k3.ncp ts k3.regions k3.banks k3.staging k3.preloads
    · exact .refl k3
  have hregs : k'.regions = k3.regions := by
    rw [hk']
    split
    · obtain ⟨ts, e⟩ := k3.callDone_threads c
      rw [e]
    · rfl
  have h23 := hk3.trans hs
  refine ⟨h23.sregs.trans (h1.trans (by rw [hk1])), h23.rows.trans (h2.trans (by rw [hk1])), ?_, ?_, fun hw r hr => ?_, fun he y' hy' => ?_⟩
  · rw [h23.calls, h3, hk1]
  · rw [h23.handle, h4, hh1]
  · rw [hregs, show k3 = k2.releaseRegions (fun r => r.op == c.id) from if_pos hw, Core.regions_releaseRegions, List.mem_filter] at hr
    simpa using hr.2
  · have hfull := h5 (by rw [hh1]; exact he)
    have hcalls : k1.calls = k.calls := by rw [hk1]
    have hstat : k1.status = k.status := by rw [hk1]
    rw [h23.status, show k2 = _ from hfull, (Core.settleCopies_same _).status, Core.status_setHandle_full rfl ?_ (hcalls ▸ hy'), hstat]
    rw [hh1, show ({ y with hm := c.gen } : Handle).st = .filling from hy]
    decide

end Sys2Proof.Machine
end

section
/-! PROOFS. Micro-ops of a matrix call: DRAIN, the faults, the start and the post of the status (spec 11 R250-R267). -/

namespace Sys2Proof.Machine

section Micro
variable {s : State} {c : Call} {l : List Call}

/-- The call as a DRAIN of these rows leaves it, at its next micro-word. -/
def Call.drainedBy (c : Call) (rows : List Nat) (f : FloatFmt) (x : Option Num) : Call :=
  { c with drained := c.drained ++ rows, bits := c.bits ||| drainBits f x c.tile, drains := c.drains + 1, pc := c.pc + 1 }

/-- A queue equal but for the marks has a head equal but for its mark. -/
theorem List.cons_of_map_unmarked {q : List Call} (h : q.map Call.unmarked = (c :: l).map Call.unmarked) :
    ∃ c' l', q = c' :: l' ∧ c'.unmarked = c.unmarked ∧ l'.map Call.unmarked = l.map Call.unmarked := by
  cases q with
  | nil => cases h
  | cons c' l' => exact ⟨c', l', rfl, (List.cons.inj h).1, (List.cons.inj h).2⟩

section Drain
variable {rp scp : BitVec 3} {sc : BitVec 1} {df : BitVec 3} {f : FloatFmt} {per : Nat}

/-- Where no check stops it, DRAIN writes its rows and counts them on the output (R257). -/
theorem drain_runs (hk : s.k.calls = c :: l) (hs : c.started = true) {rb : Nat} {x : Option Num}
    (hrb : rb = (c.params.getD rp.toNat 0).toNat % 4096)
    (hx : x = if sc = 1 then some (fmtF32.decode ((c.params.getD scp.toNat 0).toNat % 2 ^ 32)) else none)
    (hf : drainFmt df.toNat = some (f, per))
    (hr : ∀ q < 32 / per, c.mayWrite ((rb + q) % 4096) = true ∧ (rb + q) % 4096 ∉ c.drained) (hc : c.checkFails = false) :
    let c2 := c.drainedBy ((List.range (32 / per)).map (fun q => (rb + q) % 4096)) f x
    exec (.drain rp scp sc df) s = .next ((s.updK (fun k => { k with calls := c2 :: l })).updK (fun k =>
      (k.drainRows c.gen rb (drainImage f per x c.tile) (32 / per)).drainDone c c2 (32 / per) df.toNat)) := by
  subst hrb hx
  refine (exec_drain ..).trans ((microMeaning_runs hk hs).trans (congrArg Host.Outcome.next ?_))
  rw [hf]
  dsimp only
  have hall : ((List.range (32 / per)).map (fun q => (rowBase (c.param rp) + q) % 4096)).all c.mayWrite = true :=
    List.all_eq_true.2 fun r hm => by
      obtain ⟨q, hq, rfl⟩ := List.mem_map.1 hm
      exact (hr q (List.mem_range.1 hq)).1
  have hany : ((List.range (32 / per)).map (fun q => (rowBase (c.param rp) + q) % 4096)).any c.drained.contains = false :=
    List.any_eq_false.2 fun r hm => by
      obtain ⟨q, hq, rfl⟩ := List.mem_map.1 hm
      rw [List.contains_iff_mem]
      exact (hr q (List.mem_range.1 hq)).2
  rw [hall, hany, hc]
  refine (if_neg (by decide)).trans ((if_neg (by decide)).trans ((if_neg (by decide)).trans ?_))
  unfold State.nextWord
  rw [State.setCall_eq hk]
  rfl

/-- DRAIN (R257, R264, R267). -/
theorem drain_drains (hk : s.k.calls = c :: l) (hs : c.started = true) (hf : drainFmt df.toNat = some (f, per))
    (hr : ∀ q < 32 / per, c.mayWrite (((c.params.getD rp.toNat 0).toNat % 4096 + q) % 4096) = true
      ∧ ((c.params.getD rp.toNat 0).toNat % 4096 + q) % 4096 ∉ c.drained) (hc : c.checkFails = false)
    (hst : (s.k.handle c.gen c.hout).st = .filling)
    (hle : (s.k.handle c.gen c.hout).cnt + 128 * (32 / per) ≤ (s.k.handle c.gen c.hout).exp) :
    let row := fun q => ((c.params.getD rp.toNat 0).toNat % 4096 + q) % 4096
    let x := if sc = 1 then some (fmtF32.decode ((c.params.getD scp.toNat 0).toNat % 2 ^ 32)) else none
    let h := s.k.handle c.gen c.hout
    ∃ t c' l', exec (.drain rp scp sc df) s = .next t ∧ t.mem = s.mem ∧ t.k.sregs = s.k.sregs ∧ t.k.calls = c' :: l'
      ∧ l'.map Call.unmarked = l.map Call.unmarked ∧ c'.pc = c.pc + 1 ∧ c'.tile = c.tile ∧ c'.drains = c.drains + 1
      ∧ c'.drained = c.drained ++ (List.range (32 / per)).map row ∧ (c'.wholly = true → ∀ r ∈ t.k.regions, r.op ≠ c.id)
      ∧ (h.cnt + 128 * (32 / per) = h.exp → c.noted = false → (Sparse.get {} c.hout s.k.status).awaited = true → ∃ v : W64,
        (Sparse.get {} c.hout t.k.status).final = some v ∧ v.toNat / 2 ^ 40 % 256 = 0 ∧ v.getLsbD 15 = true
        ∧ v.setWidth 8 = c'.bits ∧ v.toNat / 2 ^ 48 = (c.drains + 1) % 2 ^ 16)
      ∧ (∀ i < 32, ∀ j < 32, laneNat f.width (t.k.row c.gen (row (i / per))) (32 * (i % per) + j) =
          (drainElem f x (tileAt c.tile i j)).1 % 2 ^ f.width)
      ∧ (∀ r, (∀ q < 32 / per, r ≠ row q) → Sparse.get {} r t.k.rows = Sparse.get {} r s.k.rows)
      ∧ (t.k.handle c.gen c.hout).cnt = h.cnt + 128 * (32 / per)
      ∧ (t.k.handle c.gen c.hout).fmt.toNat = df.toNat + 1 ∧ (t.k.handle c.gen c.hout).geo = 0
      ∧ ((t.k.handle c.gen c.hout).st = .full ↔ h.cnt + 128 * (32 / per) = h.exp) := by
  intro row x h
  obtain ⟨hwidth, hper, hdf⟩ := drainFmt_fills hf
  have hn0 : 32 / per ≠ 0 ∧ 32 / per ≤ 32 ∧ per * (32 / per) = 32 := by rcases hper with rfl | rfl | rfl <;> decide
  have hx := drain_runs (sc := sc) (scp := scp) hk hs rfl (show x = _ from rfl) hf hr hc
  dsimp only at hx
  have hrow : ∀ q, ((c.params.getD rp.toNat 0).toNat % 4096 + q) % 4096 = row q := fun _ => rfl
  let rb := (c.params.getD rp.toNat 0).toNat % 4096
  let c2 := c.drainedBy ((List.range (32 / per)).map row) f x
  let k0 : Core := { s.k with calls := c2 :: l }
  let k1 := k0.drainRows c.gen rb (drainImage f per x c.tile) (32 / per)
  obtain ⟨rs, hk1⟩ := k0.drainRows_rows c.gen rb (drainImage f per x c.tile) (32 / per)
  obtain ⟨hin, hout⟩ := k0.row_drainRows c.gen rb (drainImage f per x c.tile) (32 / per) (by omega)
  have hk1 : k1 = { k0 with rows := rs } := hk1
  have hh : k1.handle c.gen c.hout = h := by
    rw [hk1]
    rfl
  obtain ⟨e1, e2, e3, e4, e5, e6⟩ := k1.drainDone_spec c c2 (32 / per) df.toNat hn0.1 (by rw [hh]; exact hst) (by rw [hh]; exact hle)
  have hcalls : k1.calls = c2 :: l := by rw [hk1]
  have hstat : k1.status = s.k.status := by rw [hk1]
  have hsregs : k1.sregs = s.k.sregs := by rw [hk1]
  rw [hcalls] at e3
  obtain ⟨c', l', hq, hc', hl'⟩ := List.cons_of_map_unmarked e3
  have hbits : c'.bits = c2.bits := (congrArg Call.bits hc' :)
  have hdrained : c'.drained = c2.drained := (congrArg Call.drained hc' :)
  have hwholly : c'.wholly = c2.wholly := by
    have hregs : c'.regs = c2.regs := (congrArg Call.regs hc' :)
    unfold Call.wholly
    rw [hregs, hdrained]
  rw [hh] at e4 e6
  refine ⟨_, c', l', hx, rfl, ?_⟩
  rw [State.k_updK, State.k_updK]
  refine ⟨e1.trans hsregs, hq, hl', (congrArg Call.pc hc' :), (congrArg Call.tile hc' :), (congrArg Call.drains hc' :), hdrained,
    fun hw => e5 (hwholly ▸ hw), fun hfull hnoted hawaited => ?_, fun i hi j hj => ?_, fun r hr => ?_, ?_⟩
  · have hfirst : k1.calls.find? (fun y => y.hout == c.hout && y.gen == c.gen && !y.noted) = some c2 := by
      rw [hcalls]
      refine List.find?_cons_of_pos ?_
      show (c.hout == c.hout && c.gen == c.gen && !c.noted) = true
      rw [hnoted, beq_self_eq_true, beq_self_eq_true]
      rfl
    obtain ⟨h40, h15, h48, h8⟩ := statusWord_fields c2 0
    refine ⟨c2.statusWord 0, ?_, h40, h15, h8.trans hbits.symm, h48⟩
    refine (congrArg (fun m => (Sparse.get {} c.hout m).final) (e6 hfull c2 hfirst)).trans ?_
    rw [Sparse.get_upd_same, hstat, if_pos hawaited]
  · have hq : i / per < 32 / per := by rcases hper with rfl | rfl | rfl <;> omega
    have hrows : (k1.drainDone c c2 (32 / per) df.toNat).row c.gen (row (i / per)) = drainImage f per x c.tile (i / per) := by
      refine Eq.trans ?_ (hin (i / per) hq)
      unfold Core.row
      rw [e2]
    exact (congrArg (fun w => laneNat f.width w (32 * (i % per) + j)) hrows).trans (drainImage_lane hwidth hper x c.tile hj)
  · exact (congrArg (Sparse.get {} r) e2).trans (hout r hr)
  · have e4 : (k1.drainDone c c2 (32 / per) df.toNat).handle c.gen c.hout = _ := e4
    refine ⟨(congrArg Handle.cnt e4 :), (congrArg (fun y : Handle => y.fmt.toNat) e4).trans ?_, (congrArg Handle.geo e4 :), ?_⟩
    · rw [BitVec.toNat_ofNat]
      omega
    · rw [show (Core.handle _ c.gen c.hout).st = _ from congrArg Handle.st e4]
      dsimp only
      split
      · next e => exact ⟨fun _ => e, fun _ => rfl⟩
      · next e => exact ⟨fun h => HState.noConfusion h, fun h => absurd h e⟩

end Drain

/-! ### Ends with a fault code (R265) -/

theorem endsCall_micro (hk : s.k.calls = c :: l) (hs : c.started = true) {i : Instr} {g : State → Call → State} {f : Nat}
    (hi : exec i s = microMeaning g s) (hg : g s c = s.endCall c f) (hf : f ≠ 0) (hlt : f < 256) : s.EndsCall c l i f :=
  endsCall_of hk hf hlt (hi.trans ((microMeaning_runs hk hs).trans (congrArg Host.Outcome.next hg)))

theorem mxEnd_short (hk : s.k.calls = c :: l) (hs : c.started = true) (h : (s.k.handle c.gen c.hout).st ≠ .full) :
    s.EndsCall c l .mxEnd 0x4B :=
  endsCall_micro hk hs (exec_mxEnd ..) (by rw [if_neg h]) (by decide) (by decide)

theorem endl_unopened (hk : s.k.calls = c :: l) (hs : c.started = true) (h : c.loops = []) : s.EndsCall c l .endl 0x42 :=
  endsCall_micro hk hs (exec_endl ..) (by rw [h]) (by decide) (by decide)

theorem drain_reserved (hk : s.k.calls = c :: l) (hs : c.started = true) (rp scp : BitVec 3) (sc : BitVec 1) {df : BitVec 3}
    (h : 5 ≤ df.toNat) : s.EndsCall c l (.drain rp scp sc df) 0x4C := by
  have hf : drainFmt df.toNat = none := by
    obtain ⟨n, hn⟩ := Nat.exists_eq_add_of_le' h
    rw [hn]
    rfl
  exact endsCall_micro hk hs (exec_drain ..) (by rw [hf]) (by decide) (by decide)

theorem zero_outside (hk : s.k.calls = c :: l) (hs : c.started = true) {rp : BitVec 3} {i : Nat} (hi : i < 32)
    (h : c.mayRow (((c.params.getD rp.toNat 0).toNat % 4096 + i) % 4096) = false) : s.EndsCall c l (.zero 1 rp) 0x43 := by
  refine endsCall_micro hk hs (exec_zero ..) ?_ (by decide) (by decide)
  beta_reduce
  rw [if_neg (show ¬ (1 : BitVec 1) = 0#1 by decide)]
  refine if_pos ?_
  rw [Bool.not_eq_true', List.all_eq_false]
  exact ⟨_, List.mem_map.2 ⟨i, List.mem_range.2 hi, rfl⟩, by rw [← Bool.not_eq_true] at h; exact h⟩

theorem mma_input (hk : s.k.calls = c :: l) (hs : c.started = true) (ap bp kp mp : BitVec 3) {ah : BitVec 6} (bh : BitVec 6)
    (sp ua : BitVec 1) (h : ah.toNat ∉ c.inputs) : s.EndsCall c l (.mma ap bp kp mp ah bh sp ua 0 0) 0x44 := by
  refine endsCall_micro hk hs (exec_mma ..) ?_ (by decide) (by decide)
  beta_reduce
  extract_lets g ha hb xa xb
  have hc : c.inputs.contains ha = false := by
    rw [← Bool.not_eq_true, List.contains_iff_mem]
    exact h
  clear_value ha hb
  rw [hc]
  exact if_pos rfl

theorem waith_error (hk : s.k.calls = c :: l) (hs : c.started = true) {h : BitVec 6}
    (he : (s.k.handle c.gen h.toNat).st = .error) : s.EndsCall c l (.waith h) 0x40 := by
  refine endsCall_micro hk hs (exec_waith ..) ?_ (by decide) (by decide)
  simp only [he]

/-! ### Start and status post (R250, R267) -/

theorem callStart_error (hk : s.k.calls = c :: l) (hs : c.started = false) (hth : (s.die s.d).throttled (quadrantOf s.cur.core) = false)
    (he : (s.k.handle c.gen c.hin).st = .error) : s.EndsCall c l (.callStart s.cur.core) 0x40 := by
  refine endsCall_of hk (by decide) (by decide) ((exec_callStart ..).trans ?_)
  unfold execCallStart
  dsimp only
  rw [hk]
  dsimp only
  rw [hs, hth, Bool.or_self, if_neg Bool.false_ne_true]
  simp only [he]
  rfl

/-- The head call starts: its input is DRAINING, and an input of it (R250). -/
theorem callStart_starts (hk : s.k.calls = c :: l) (hs : c.started = false) (hth : (s.die s.d).throttled (quadrantOf s.cur.core) = false)
    (hst : (s.k.handle c.gen c.hin).st = .full ∨ (s.k.handle c.gen c.hin).st = .draining) (hb : c.id ∉ s.k.blocked)
    (ho : c.id ∉ s.k.owedOps) (hin : ∀ h ∈ c.inputs, (s.k.handle c.gen h).st ≠ .filling)
    (hclear : s.k.engineClear s.cur.core c.id = true) (hfork : s.k.forkHeld c.forkAt = false) :
    ∃ t, exec (.callStart s.cur.core) s = .next t ∧ t.mem = s.mem
      ∧ t.k.calls = { c with started := true, inputs := if c.inputs = [] then [c.hin] else c.inputs } :: l
      ∧ (t.k.handle c.gen c.hin).st = .draining ∧ ∀ j, j ≠ c.hin → t.k.handle c.gen j = s.k.handle c.gen j := by
  let s1 := s.joinHandle c.hin
  let c1 : Call := { c with started := true, inputs := if c.inputs.isEmpty then [c.hin] else c.inputs }
  let s2 := s1.updK (fun k => k.setHandle c.gen c.hin { (k.handle c.gen c.hin) with st := .draining })
  have hwait : (s.k.blocked.contains c.id || s.k.owedOps.contains c.id || !s.k.engineClear s.cur.core c.id || s.k.forkHeld c.forkAt
      || c.inputs.any (fun h => (s.k.handle c.gen h).st == .filling)) = false := by
    have h1 : s.k.blocked.contains c.id = false := by rwa [← Bool.not_eq_true, List.contains_iff_mem]
    have h2 : s.k.owedOps.contains c.id = false := by rwa [← Bool.not_eq_true, List.contains_iff_mem]
    have h3 : c.inputs.any (fun h => (s.k.handle c.gen h).st == .filling) = false :=
      List.any_eq_false.2 fun h hm => by
        rw [beq_iff_eq]
        exact hin h hm
    rw [h1, h2, h3, hclear, hfork]
    rfl
  have hx : exec (.callStart s.cur.core) s = .next (s2.setCall c1) := by
    refine (exec_callStart ..).trans ?_
    unfold execCallStart
    dsimp only
    rw [hk]
    dsimp only
    rw [hs, hth, Bool.or_self, if_neg Bool.false_ne_true]
    rcases hst with e | e <;> simp only [e] <;> exact if_neg (Bool.eq_false_iff.1 hwait)
  have hjoin : s1.k.handles = s.k.handles ∧ s1.k.calls = s.k.calls ∧ s1.mem = s.mem := by
    show (s.joinHandle c.hin).k.handles = _ ∧ (s.joinHandle c.hin).k.calls = _ ∧ _
    unfold State.joinHandle State.join
    rw [State.k_updK]
    exact ⟨rfl, rfl, rfl⟩
  obtain ⟨hh, hc, hm⟩ := hjoin
  have hk2 : s2.k = { s1.k with handles := Sparse.put {} c.hin { s1.k.handle c.gen c.hin with st := .draining, hm := c.gen } s1.k.handles } := by
    rw [State.k_updK, Core.setHandle_quiet _ _ _ _ (show HState.draining ≠ .full by decide) (show HState.draining ≠ .error by decide)]
  have hset : s2.setCall c1 = s2.updK (fun k => { k with calls := c1 :: l }) :=
    State.setCall_eq ((congrArg Core.calls hk2).trans (hc.trans hk)) c1
  refine ⟨_, hx, ?_, ?_, ?_, fun j hj => ?_⟩
  · rw [hset, State.updK_mem, State.updK_mem, hm]
  · rw [hset, State.k_updK]
    simp only [c1, List.isEmpty_iff]
  · rw [hset, State.k_updK, hk2]
    unfold Core.handle
    rw [Sparse.get_put_same]
    exact if_pos rfl ▸ rfl
  · rw [hset, State.k_updK, hk2]
    unfold Core.handle
    rw [Sparse.get_put_other hj, hh]

theorem statusPost_posts {h : Nat} {v : W64} (hv : (Sparse.get {} h s.k.status : StatusEntry).final = some v) :
    exec (.statusPost s.cur.core h) s = .next (s.updK (fun k => k.postStatus h v)) := by
  refine (exec_statusPost ..).trans ?_
  unfold execStatusPost
  rw [show (s.core s.cur.core).statusReady h = some v from hv]
  rfl

end Micro

/-- Settles O35: each micro-op by its lemma above; an end by endsCall_micro. -/
theorem microOpsAndCalls : Obligations.MicroOpsAndCalls := by
  refine ⟨fun s c l hk hs => ?_, fun s c l hk => ?_⟩
  · intro g goes plain
    refine ⟨zero_clears hk hs, ?zero, ?mma, ?unf, ?drain, adv_advances hk hs, ?loop, fun w n r hl => endl_goes hk hs hl, ?waith⟩
    case zero =>
      intro rp row hr
      refine ⟨_, zero_loads hk hs rp hr, rfl, rfl, rfl, fun i hi j hj => ?_⟩
      dsimp only
      exact loadTile_get s.k c.gen ((c.params.getD rp.toNat 0).toNat % 4096) hi hj
    case mma =>
      intro ap bp kp mp ah bh sp ua ain bin u ha hb xa xb n pa w m hu hia hib hfa hfb hw hn hoff hsp hoffa hua hlines hmeta hlatch
      exact ⟨_, mma_runs hk hs rfl rfl rfl rfl hu hia hib hfa hfb hw hn hoff hsp hoffa hua hlines hmeta hlatch, rfl, rfl,
        fun i hi j hj => runMma_get s.k c m hi hj⟩
    case unf =>
      intro tp gp t w ht hw
      exact unf_sets hk hs ht hw
    case drain =>
      intro rp scp sc df f per row x h hf hr hc hst hle
      exact drain_drains hk hs hf hr hc hst hle
    case loop =>
      intro cp e n he
      exact mxLoop_goes hk hs he
    case waith =>
      intro h x
      exact ⟨waith_takes hk hs, waith_waits hk hs⟩
  · intro out plain leaves ends
    refine ⟨fun hs => ⟨mxEnd_full hk hs, mxEnd_short hk hs, ?_, endl_unopened hk hs, fun rp scp sc df => drain_reserved hk hs rp scp sc,
      fun rp ⟨i, hi, hr⟩ => zero_outside hk hs hi hr, fun ap bp kp mp ah bh sp ua => mma_input hk hs ap bp kp mp bh sp ua,
      fun h => waith_error hk hs⟩,
      fun hs hth => ⟨callStart_starts hk hs hth, callStart_error hk hs hth⟩, fun h v hv => statusPost_posts hv⟩
    exact endsCall_micro hk hs (exec_reservedMicroOp ..) rfl (by decide) (by decide)

end Sys2Proof.Machine
end

section
/-! PROOFS. What the requests held at a stack leave alone when they go on (spec 14 R336): cached translations and the stacks'
owners; no L0 line is added. -/

namespace Sys2Proof.Machine

/-- The core keeps its translations, and L0 holds no line more. -/
structure Core.KeepsCaches (k k' : Core) : Prop where
  tlb : k'.tlb = k.tlb
  l0 : ∀ n, Sparse.get {} n k.l0 = {} → Sparse.get {} n k'.l0 = {}

/-- The state keeps the stacks, and every cache keeps its translations; no L0 holds a line more. -/
structure State.KeepsCaches (s t : State) : Prop where
  stackTab : t.stackTab = s.stackTab
  core : ∀ m, (s.core m).KeepsCaches (t.core m)
  etlb : ∀ d, (t.die d).etlb = (s.die d).etlb
  s2c : ∀ d, (t.die d).s2c = (s.die d).s2c

section Cores
variable {k k' k'' : Core}

theorem Core.KeepsCaches.refl (k : Core) : k.KeepsCaches k := ⟨rfl, fun _ h => h⟩

theorem Core.KeepsCaches.trans (h : k.KeepsCaches k') (h' : k'.KeepsCaches k'') : k.KeepsCaches k'' :=
  ⟨h'.tlb.trans h.tlb, fun n hn => h'.l0 n (h.l0 n hn)⟩

theorem Core.KeepsCaches.of_eq (ht : k'.tlb = k.tlb) (hl : k'.l0 = k.l0) : k.KeepsCaches k' := ⟨ht, fun _ hn => hl ▸ hn⟩

theorem Core.SameButCopies.keepsCaches (h : k.SameButCopies k') : k.KeepsCaches k' :=
  .of_eq (congrArg Core.tlb h :) (congrArg Core.l0 h :)

theorem Core.setHandle_keepsCaches (k : Core) (g : Hm) (n : Nat) (x : Handle) : k.KeepsCaches (k.setHandle g n x) := by
  obtain ⟨_, _, _, _, e⟩ := k.setHandle_cases g n x
  rw [e]
  exact .of_eq rfl rfl

theorem Core.failHandle_keepsCaches (k : Core) (g : Hm) (n : Nat) (f : Byte) : k.KeepsCaches (k.failHandle g n f) := by
  unfold Core.failHandle
  dsimp only
  split
  · exact .refl k
  · exact (k.setHandle_keepsCaches ..).trans (Core.settleCopies_same _).keepsCaches

theorem Core.lateFault_keepsCaches (k : Core) (g : Hm) (f : Nat × Nat × W64) : k.KeepsCaches (k.lateFault g f) := by
  unfold Core.lateFault
  split
  · exact .of_eq rfl rfl
  · exact .of_eq rfl rfl

theorem Core.failHeld_keepsCaches (k : Core) (a : Acc) (f : Nat) : k.KeepsCaches (k.failHeld a f) := by
  unfold Core.failHeld
  extract_lets mark k1
  refine .trans ⟨show k1.tlb = k.tlb from rfl, fun n hn => ?_⟩ (k1.lateFault_keepsCaches a.gen (heldFault f a.va))
  show Sparse.get {} n (if a.kind == .store then Sparse.put {} (a.tgt.dla / 128) {} k.l0 else k.l0) = {}
  split
  · rw [Sparse.get_put]
    split
    · rfl
    · exact hn
  · exact hn

end Cores

section States
variable {s t u : State}

theorem State.KeepsCaches.refl (s : State) : s.KeepsCaches s := ⟨rfl, fun m => .refl (s.core m), fun _ => rfl, fun _ => rfl⟩

theorem State.KeepsCaches.trans (h : s.KeepsCaches t) (h' : t.KeepsCaches u) : s.KeepsCaches u :=
  ⟨h'.stackTab.trans h.stackTab, fun m => (h.core m).trans (h'.core m), fun d => (h'.etlb d).trans (h.etlb d),
    fun d => (h'.s2c d).trans (h.s2c d)⟩

theorem State.KeepsCaches.foldl {α : Type} {f : State → α → State} (hf : ∀ (s : State) a, s.KeepsCaches (f s a)) :
    ∀ (l : List α) (s : State), s.KeepsCaches (l.foldl f s)
  | [], s => .refl s
  | a :: l, s => (hf s a).trans (State.KeepsCaches.foldl hf l (f s a))

theorem State.KeepsCaches.updCore {f : Core → Core} (hf : ∀ k : Core, k.KeepsCaches (f k)) (s : State) (c : Nat) :
    s.KeepsCaches (s.updCore c f) := by
  refine ⟨rfl, fun m => ?_, fun _ => rfl, fun _ => rfl⟩
  rw [State.core_updCore]
  split
  · next h => exact h ▸ hf _
  · exact .refl _

/-- A change of other fields of a core. -/
theorem State.KeepsCaches.updOther {f : Core → Core} (s : State) (c : Nat) (ht : ∀ k : Core, (f k).tlb = k.tlb := by intro _; rfl)
    (hl : ∀ k : Core, (f k).l0 = k.l0 := by intro _; rfl) : s.KeepsCaches (s.updCore c f) :=
  .updCore (fun k => .of_eq (ht k) (hl k)) s c

/-- A change of other fields of a die. -/
theorem State.KeepsCaches.updDie {f : Die → Die} (s : State) (d : Nat) (he : ∀ x : Die, (f x).etlb = x.etlb := by intro _; rfl)
    (hs : ∀ x : Die, (f x).s2c = x.s2c := by intro _; rfl) : s.KeepsCaches (s.updDie d f) := by
  refine ⟨rfl, fun m => .refl _, fun e => ?_, fun e => ?_⟩ <;> rw [State.die_updDie] <;> split
  · next h => exact h ▸ he _
  · rfl
  · next h => exact h ▸ hs _
  · rfl

theorem State.Reports.keepsCaches (h : s.Reports t) : s.KeepsCaches t := by
  refine ⟨by rw [h.rest], fun m => ?_, fun d => by rw [h.die d], fun d => by rw [h.die d]⟩
  unfold State.core
  rw [h.cores]
  exact .refl _

theorem State.settle_keepsCaches (s : State) (c : Nat) : s.KeepsCaches (s.settle c) := by
  unfold State.settle
  dsimp only
  split
  · exact .refl s
  · refine ⟨rfl, fun m => ?_, fun _ => rfl, fun _ => rfl⟩
    rw [State.core_setCore]
    split
    · next h =>
      subst h
      refine ⟨rfl, fun n hn => ?_⟩
      dsimp only
      split
      · rfl
      · exact hn
    · exact .refl _

theorem State.settleDie_keepsCaches (s : State) (d : Nat) : s.KeepsCaches (s.settleDie d) := .foldl State.settle_keepsCaches _ s

theorem State.heldReport_keepsCaches (s : State) (d c cause addr : Nat) : s.KeepsCaches (s.heldReport d c cause addr) :=
  (State.report_reports ..).keepsCaches

theorem State.cpHeldReport_keepsCaches (s : State) (d : Nat) (n : Option Nat) (g : Hm) (cause addr : Nat) :
    s.KeepsCaches (s.cpHeldReport d n g cause addr) := (State.report_reports ..).keepsCaches

theorem State.copyFault_keepsCaches (s : State) (c : Nat) (x : Copy) (f addr : Nat) : s.KeepsCaches (s.copyFault c x f addr) := by
  unfold State.copyFault
  extract_lets g rest s0 s1 data s2 s3
  have h0 : s.KeepsCaches s0 := .updCore (fun k =>
    ((k.updCopy_same x.id _).trans (Core.releaseRegions_same ..)).keepsCaches) s c
  have h1 : s0.KeepsCaches s1 := by
    refine .updCore (fun k => ?_) s0 c
    split
    · exact k.failHandle_keepsCaches ..
    · exact .of_eq rfl rfl
    · exact .refl k
    · exact .of_eq rfl rfl
  have h2 : s1.KeepsCaches s2 := by
    show s1.KeepsCaches (match x.obj with
      | .remote c2 h => if s.accepts c2 g then s1.updCore c2 (fun k => k.failHandle g h (BitVec.ofNat 8 f)) else s1
      | _ => s1)
    split
    · split
      · exact .updCore (fun k => k.failHandle_keepsCaches ..) s1 _
      · exact .refl s1
    · exact .refl s1
  have h3 : s2.KeepsCaches s3 := (State.report_reports ..).keepsCaches
  clear_value s3
  refine (((h0.trans h1).trans h2).trans h3).trans (.updCore (fun k => ?_) s3 c)
  refine .trans (.of_eq ?_ ?_) (Core.settleCopy_same _ x.id).keepsCaches <;> rfl

theorem State.lostBytes_keepsCaches (s : State) (e : OpEntry) (f : Nat) : s.KeepsCaches (s.lostBytes e f) := by
  unfold State.lostBytes
  extract_lets c s1
  split
  · next x _ => exact (State.KeepsCaches.updCore (fun k => (k.updCopy_same x.id _).keepsCaches) s c).trans (State.copyFault_keepsCaches ..)
  · have h1 : s.KeepsCaches s1 := (State.report_reports ..).keepsCaches
    split
    · exact h1
    · exact h1.trans (.updOther s1 c)

theorem State.lostPacketWrite_keepsCaches (s : State) (d w : Nat) : s.KeepsCaches (s.lostPacketWrite d w) :=
  .foldl (fun s q => by
    unfold State.waitFault State.stopStream
    exact (State.KeepsCaches.updDie s d).trans (State.report_reports ..).keepsCaches) _ s

/-! ### The forward queue (R336) -/

theorem State.forwardAccs_keepsCaches (s : State) (k c : Nat) : s.KeepsCaches (s.forwardAccs k c) := by
  refine .foldl (fun s a => ?_) _ s
  split
  · exact .refl s
  · split
    · exact .refl s
    · exact .updOther s c
    · exact (State.KeepsCaches.updCore (fun k => k.failHeld_keepsCaches ..) s c).trans (State.heldReport_keepsCaches ..)

theorem State.forwardCopies_keepsCaches (s : State) (k c : Nat) : s.KeepsCaches (s.forwardCopies k c) := by
  refine .foldl (fun s x => .foldl (fun s h => ?_) _ s) _ s
  split
  · exact .refl s
  · exact .updCore (fun k => (k.updCopy_same x.id _).keepsCaches) s c
  · split
    · exact .refl s
    · split
      · exact .refl s
      · exact (State.copyFault_keepsCaches ..).trans (State.heldReport_keepsCaches ..)

theorem State.forwardRing_keepsCaches (s : State) (k c : Nat) : s.KeepsCaches (s.forwardRing k c) := by
  unfold State.forwardRing
  split
  · exact .refl s
  · split
    · exact .refl s
    · exact .updOther s c
    · exact (State.KeepsCaches.updOther s c).trans (State.heldReport_keepsCaches ..)

theorem State.forwardWrites_keepsCaches (s : State) (k d : Nat) : s.KeepsCaches (s.forwardWrites k d) := by
  refine .foldl (fun s e => ?_) _ s
  split
  · exact .refl s
  · exact .updDie s d
  · next f _ =>
    extract_lets s1 s2 cause
    have h1 : s.KeepsCaches s1 := .updDie s d
    have h2 : s1.KeepsCaches s2 := by
      show s1.KeepsCaches (match e.thr with
        | some _ => s1.lostBytes e (copyCode true f)
        | none => if e.core < 512 then s1.updCore e.core (fun x => x.lateFault e.gen (heldFault f e.va)) else s1.lostPacketWrite d e.wid)
      split
      · exact s1.lostBytes_keepsCaches ..
      · split
        · exact .updCore (fun k => k.lateFault_keepsCaches ..) s1 _
        · exact s1.lostPacketWrite_keepsCaches ..
    have h := (h1.trans h2).trans (s2.settleDie_keepsCaches d)
    split
    · exact h.trans (State.heldReport_keepsCaches ..)
    · exact h.trans (State.cpHeldReport_keepsCaches ..)

theorem State.forwardReads_keepsCaches (s : State) (k d : Nat) : s.KeepsCaches (s.forwardReads k d) := by
  refine .foldl (fun s h => ?_) _ s
  dsimp only
  split
  · exact .refl s
  · exact .updDie s d
  · exact (State.KeepsCaches.updDie s d).trans (State.cpHeldReport_keepsCaches ..)

theorem State.forward_keepsCaches (s : State) (k : Nat) : s.KeepsCaches (s.forward k) := by
  refine .trans (.foldl (fun s c => ?_) _ s) (.trans (.foldl (fun s d => ?_) _ _) (.foldl State.settle_keepsCaches _ _))
  · exact ((s.forwardAccs_keepsCaches k c).trans (State.forwardCopies_keepsCaches ..)).trans (State.forwardRing_keepsCaches ..)
  · exact (s.forwardWrites_keepsCaches k d).trans (State.forwardReads_keepsCaches ..)

end States

end Sys2Proof.Machine
end

section
/-! PROOFS. Hand-over of a stack (spec 14 R320, R328, R331, R332). -/

namespace Sys2Proof.Machine

/-! ### Changes of every core and of every die -/

/-- A change of every listed value: an unlisted key reads the default, before and after. -/
theorem Sparse.get_mapVals_or {α : Type} [DecidableEq α] {d : α} {f : Nat → α → α} {k : Nat} : ∀ m : Sparse α,
    Sparse.get d k (Sparse.mapVals d f m) = f k (Sparse.get d k m)
      ∨ Sparse.get d k (Sparse.mapVals d f m) = d ∧ Sparse.get d k m = d
  | [] => .inr ⟨rfl, rfl⟩
  | (i, u) :: t => by
    unfold Sparse.mapVals
    by_cases h : i = k
    · subst h
      refine .inl ?_
      rw [show Sparse.get d i ((i, u) :: t) = u from if_pos rfl]
      split
      · next hv => exact (Sparse.get_filter_same _).trans hv.symm
      · exact if_pos rfl
    · rw [show Sparse.get d k ((i, u) :: t) = Sparse.get d k t from if_neg h]
      split
      · rw [Sparse.get_filter_ne (Ne.symm h)]
        exact Sparse.get_mapVals_or t
      · rw [show ∀ x, Sparse.get d k ((i, x) :: Sparse.mapVals d f t) = Sparse.get d k (Sparse.mapVals d f t) from fun _ => if_neg h]
        exact Sparse.get_mapVals_or t

theorem List.foldl_fixed {α β : Type} {f : β → α → β} {b : β} : ∀ {l : List α}, (∀ a ∈ l, f b a = b) → l.foldl f b = b
  | [], _ => rfl
  | a :: l, h => by
    rw [List.foldl_cons, h a List.mem_cons_self]
    exact List.foldl_fixed fun x hx => h x (List.mem_cons_of_mem _ hx)

section Switch
variable (s : State) (k : Nat)

/-- A hand-over drops from L0 the lines of the stack at a die's cores (R328, R333). -/
theorem dropL0_core (d m : Nat) : ∃ ll, (s.dropL0 d k).core m = { s.core m with l0 := ll } ∧ (∀ e ∈ ll, e ∈ (s.core m).l0)
    ∧ (dieOf m = d → ∀ e ∈ ll, dlaCxl (128 * e.1) = true ∨ dlaStack (128 * e.1) ≠ k) := by
  have e := s.core_mapCores (fun c x => if dieOf c == d then
    { x with l0 := x.l0.filter (fun e => dlaCxl (128 * e.1) || dlaStack (128 * e.1) != k) } else x) m (by split <;> rfl)
  by_cases hd : dieOf m = d
  · refine ⟨_, e.trans (if_pos (beq_iff_eq.2 hd)), fun e he => (List.mem_filter.1 he).1, fun _ e he => ?_⟩
    simpa using (List.mem_filter.1 he).2
  · exact ⟨(s.core m).l0, e.trans (if_neg (mt beq_iff_eq.1 hd)), fun _ he => he, fun h => absurd h hd⟩

theorem dropTranslations_core (d m : Nat) : ∃ tl, (s.dropTranslations d 2 0 k).core m = { s.core m with tlb := tl }
    ∧ (dieOf m = d → ∀ x ∈ tl, x.onStack k = false) := by
  have e := s.core_mapCores (fun c x => if dieOf c == d then { x with tlb := x.tlb.filter (fun e => !e.onStack k) } else x) m
    (by split <;> rfl)
  by_cases hd : dieOf m = d
  · refine ⟨_, e.trans (if_pos (beq_iff_eq.2 hd)), fun _ x hx => ?_⟩
    simpa using (List.mem_filter.1 hx).2
  · exact ⟨(s.core m).tlb, e.trans (if_neg (mt beq_iff_eq.1 hd)), fun h => absurd h hd⟩

theorem switched_stack : (s.switched k).stack k = { s.stack k with up := !(s.stack k).up, epoch := (s.stack k).epoch + 1, hand := none } :=
  Sparse.get_upd_same (f := fun x : Stack => { x with up := !x.up, epoch := x.epoch + 1, hand := none })

theorem switched_stack_ne {j : Nat} (hj : j ≠ k) : (s.switched k).stack j = s.stack j :=
  Sparse.get_upd_other (f := fun x : Stack => { x with up := !x.up, epoch := x.epoch + 1, hand := none }) hj

theorem upperDie_ne_lowerDie (_hk : k < 8) : upperDie k ≠ lowerDie k := by
  show (k + 1) % 8 ≠ k
  omega

/-- The other die of the stack owns it (R328). -/
theorem switched_owner (hk : k < 8) : (s.switched k).owner k = s.receiver k := by
  have hne := upperDie_ne_lowerDie k hk
  unfold State.receiver State.owner
  rw [switched_stack]
  cases (s.stack k).up
  · simp
  · simp [hne]

/-- What a core holds after the switch: no L0 line of the stack on either die, no translation on the giving one. -/
theorem switched_core (m : Nat) : ∃ tl ll, (s.switched k).core m = { s.core m with tlb := tl, l0 := ll }
    ∧ (dieOf m = s.owner k → ∀ x ∈ tl, x.onStack k = false)
    ∧ (dieOf m = s.owner k ∨ dieOf m = s.receiver k → ∀ e ∈ ll, dlaCxl (128 * e.1) = true ∨ dlaStack (128 * e.1) ≠ k) := by
  obtain ⟨tl, h1, ht⟩ := dropTranslations_core s k (s.owner k) m
  obtain ⟨l1, h2, -, hl1⟩ := dropL0_core (s.dropTranslations (s.owner k) 2 0 k) k (s.owner k) m
  obtain ⟨l2, h3, hsub, hl2⟩ := dropL0_core ((s.dropTranslations (s.owner k) 2 0 k).dropL0 (s.owner k) k) k (s.receiver k) m
  refine ⟨tl, l2, ?_, ht, ?_⟩
  · rw [h2, h1] at h3
    exact h3
  · rintro (hg | hr)
    · rw [h2] at hsub
      exact fun e he => hl1 hg e (hsub e he)
    · exact hl2 hr

/-- What a die holds after the switch: no translation of the stack on the giving one, no request more on any. -/
theorem switched_die (d : Nat) : let x := (s.switched k).die d
    x.op = (s.die d).op ∧ x.cpHeld = (s.die d).cpHeld ∧ x.frWait = (s.die d).frWait
      ∧ (d = s.owner k → (∀ y ∈ x.etlb, y.onStack k = false) ∧ ∀ y ∈ x.s2c, dlaCxl y.dla = true ∨ dlaStack y.dla ≠ k) := by
  let s1 := s.updDie (s.owner k) (fun x => { x with
    etlb := x.etlb.filter (fun e => !e.onStack k), s2c := x.s2c.filter (fun e => !(!dlaCxl e.dla && dlaStack e.dla == k)) })
  have h1 : (s1.die d).op = (s.die d).op ∧ (s1.die d).cpHeld = (s.die d).cpHeld ∧ (s1.die d).frWait = (s.die d).frWait
      ∧ (d = s.owner k → (∀ y ∈ (s1.die d).etlb, y.onStack k = false)
        ∧ ∀ y ∈ (s1.die d).s2c, dlaCxl y.dla = true ∨ dlaStack y.dla ≠ k) := by
    rw [State.die_updDie]
    split
    · next hd =>
      subst hd
      refine ⟨rfl, rfl, rfl, fun _ => ⟨fun y hy => ?_, fun y hy => ?_⟩⟩
      · simpa using (List.mem_filter.1 hy).2
      · have := (List.mem_filter.1 hy).2
        cases hc : dlaCxl y.dla <;> simp_all
    · next hd => exact ⟨rfl, rfl, rfl, fun h => absurd h hd⟩
  have hmap : (s.switched k).die d = { s1.die d with latEpoch := (s1.die d).latEpoch + 1 }
      ∨ (s.switched k).die d = {} ∧ s1.die d = {} := Sparse.get_mapVals_or s1.dies
  rcases hmap with e | ⟨e, e1⟩
  · rw [e]
    exact h1
  · rw [e]
    rw [e1] at h1
    exact h1

/-! ### Nothing held -/

/-- No request is held at stack k, and no fault record waits. -/
def State.NothingHeld (s : State) (k : Nat) : Prop :=
  (∀ m, (∀ a ∈ (s.core m).accs, a.tgt.heldFor k = false) ∧ (∀ x ∈ (s.core m).copies, ∀ q ∈ x.held, q.2.2.2.heldFor k = false)
    ∧ ∀ r x, (s.core m).ringRead = some r → r.held = some x → x.heldFor k = false)
  ∧ ∀ d, (∀ e ∈ (s.die d).op, e.tgt.heldFor k = false) ∧ (∀ q ∈ (s.die d).cpHeld, q.tgt.heldFor k = false) ∧ (s.die d).frWait = []

variable {s k}

theorem switched_nothingHeld (h : s.NothingHeld k) : (s.switched k).NothingHeld k := by
  obtain ⟨hc, hd⟩ := h
  refine ⟨fun m => ?_, fun d => ?_⟩
  · obtain ⟨_, _, e, -⟩ := switched_core s k m
    rw [e]
    exact hc m
  · obtain ⟨h1, h2, h3, -⟩ := switched_die s k d
    rw [h1, h2, h3]
    exact hd d

theorem taken_none {t : Target} (h : t.heldFor k = false) : s.taken k t = none := by
  unfold State.taken
  rw [h]
  rfl

/-- With nothing held, the hand-over forwards nothing: accesses settle (R336). -/
theorem forward_nothingHeld (h : s.NothingHeld k) : s.forward k = (s.cores.map Prod.fst).foldl State.settle s := by
  obtain ⟨hc, hd⟩ := h
  have hcore : ∀ c, ((s.forwardAccs k c).forwardCopies k c).forwardRing k c = s := by
    intro c
    obtain ⟨ha, hx, hr⟩ := hc c
    have h1 : s.forwardAccs k c = s := List.foldl_fixed fun a hm => by
      rw [taken_none (ha a hm)]
      exact ite_self _
    have h2 : s.forwardCopies k c = s := List.foldl_fixed fun x hm => List.foldl_fixed fun q hq => by
      rw [taken_none (hx x hm q hq)]
    have h3 : s.forwardRing k c = s := by
      unfold State.forwardRing
      split
      · rfl
      · next r hr' =>
        cases hh : r.held with
        | none => rfl
        | some t => rw [Option.bind_some, taken_none (hr r t hr' hh)]
    rw [h1, h2, h3]
  have hdie : ∀ d, (s.forwardWrites k d).forwardReads k d = s := by
    intro d
    obtain ⟨ho, hq, -⟩ := hd d
    have h1 : s.forwardWrites k d = s := List.foldl_fixed fun e hm => by rw [taken_none (ho e hm)]
    have h2 : s.forwardReads k d = s := List.foldl_fixed fun q hm => by
      rw [taken_none (hq q hm)]
    rw [h1, h2]
  have hcores : ∀ l : List Nat, l.foldl (fun s c => ((s.forwardAccs k c).forwardCopies k c).forwardRing k c) s = s :=
    fun l => List.foldl_fixed fun c _ => hcore c
  have hdies : ∀ l : List Nat, l.foldl (fun s d => (s.forwardWrites k d).forwardReads k d) s = s :=
    fun l => List.foldl_fixed fun d _ => hdie d
  unfold State.forward
  dsimp only
  rw [hcores, hdies]

theorem flushAll_none (h : ∀ d, (s.die d).frWait = []) : s.flushAll = s :=
  List.foldl_fixed fun d _ => by
    unfold State.flushReports
    rw [h d]
    exact if_pos rfl

/-- Of a core, a settling changes the accesses in flight, their count and L0. -/
theorem settle_core (s : State) (c m : Nat) : ∃ as n ll, (s.settle c).core m = { s.core m with accs := as, nst := n, l0 := ll } := by
  unfold State.settle
  dsimp only
  split
  · exact ⟨(s.core m).accs, (s.core m).nst, (s.core m).l0, rfl⟩
  · rw [State.core_setCore]
    split
    · next h =>
      subst h
      exact ⟨_, _, _, rfl⟩
    · exact ⟨(s.core m).accs, (s.core m).nst, (s.core m).l0, rfl⟩

theorem foldl_settle_core (m : Nat) : ∀ (l : List Nat) (s : State),
    ∃ as n ll, (l.foldl State.settle s).core m = { s.core m with accs := as, nst := n, l0 := ll }
  | [], s => ⟨(s.core m).accs, (s.core m).nst, (s.core m).l0, rfl⟩
  | c :: l, s => by
    obtain ⟨_, _, _, e⟩ := settle_core s c m
    obtain ⟨as, n, ll, e'⟩ := foldl_settle_core m l (s.settle c)
    rw [e] at e'
    exact ⟨as, n, ll, e'⟩

/-- With nothing held, the switch changes cores' caches and accesses, dies' caches, and the stack. -/
theorem switched_rest (h : s.NothingHeld k) : ∃ ks, ((s.switched k).forward k).flushAll = { s.switched k with cores := ks }
    ∧ ∀ m, ∃ tl ll as n, ({ s.switched k with cores := ks } : State).core m = { s.core m with tlb := tl, l0 := ll, accs := as, nst := n } := by
  have h' := switched_nothingHeld h
  obtain ⟨ks, e⟩ := State.foldl_settle_eq ((s.switched k).cores.map Prod.fst) (s.switched k)
  refine ⟨ks, ?_, fun m => ?_⟩
  · rw [forward_nothingHeld h', e]
    exact flushAll_none fun d => (h'.2 d).2.2
  · rw [← e]
    obtain ⟨tl, _, e1, -⟩ := switched_core s k m
    obtain ⟨as, n, ll, e2⟩ := foldl_settle_core m ((s.switched k).cores.map Prod.fst) (s.switched k)
    rw [e1] at e2
    exact ⟨tl, ll, as, n, e2⟩

/-! ### The completion (R332) -/

theorem Core.countBytes_keepsCaches (k : Core) (g : Hm) (h n : Nat) : k.KeepsCaches (k.countBytes g h n) := by
  have hs : ∀ x, k.KeepsCaches (k.setHandle g h x).settleCopies := fun x =>
    (k.setHandle_keepsCaches g h x).trans (Core.settleCopies_same _).keepsCaches
  unfold Core.countBytes
  dsimp only
  split
  · exact .refl k
  · split
    · exact .refl k
    · split
      · exact hs _
      · split
        · exact hs _
        · exact k.setHandle_keepsCaches ..
    · exact hs _

theorem handComplete_keepsCaches (s : State) (d : Nat) (h : HandOver) : s.KeepsCaches (s.handComplete d h) := by
  unfold State.handComplete
  extract_lets c k
  split
  · exact (State.report_reports ..).keepsCaches
  · split
    · exact ⟨rfl, fun m => .refl _, fun _ => rfl, fun _ => rfl⟩
    · split
      · refine .updCore (fun k => ?_) s c
        have h := k.countBytes_keepsCaches h.gen h.handle 1
        exact ⟨h.tlb, h.l0⟩
      · exact (State.report_reports ..).keepsCaches

/-- One byte counted on a handle (R187). -/
theorem Core.countBytes_one (k : Core) (g : Hm) (h : Nat) : let x := k.handle g h
    let y := (k.countBytes g h 1).handle g h
    (x.st = .filling → x.cnt + 1 < x.exp → y = { x with cnt := x.cnt + 1, hm := g })
      ∧ (x.st = .filling → x.cnt + 1 = x.exp → y = { x with cnt := x.exp, st := .full, hm := g })
      ∧ (x.st = .free → y.st = .error ∧ y.fcode = 2) := by
  intro x y
  refine ⟨fun hst hlt => ?_, fun hst he => ?_, fun hst => ?_⟩
  · obtain ⟨-, -, -, e, -⟩ := k.countBytes_filling g h 1 hst one_ne_zero hlt.le
    refine e.trans ?_
    rw [if_neg (show ¬ (k.handle g h).cnt + 1 = (k.handle g h).exp from hlt.ne), ← show (k.handle g h).st = .filling from hst]
  · obtain ⟨-, -, -, e, -⟩ := k.countBytes_filling g h 1 hst one_ne_zero he.le
    refine e.trans ?_
    rw [if_pos (show (k.handle g h).cnt + 1 = (k.handle g h).exp from he),
      show (k.handle g h).cnt + 1 = (k.handle g h).exp from he]
  · have e : k.countBytes g h 1 = (k.setHandle g h { x with st := .error, fcode := 0x02 }).settleCopies := by
      unfold Core.countBytes
      rw [if_neg one_ne_zero]
      simp only [show (k.handle g h).st = .free from hst]
      rfl
    have h5 := (k.setHandle_settled g h { x with st := .error, fcode := 0x02 }).2.2.2.2 h
    rw [if_pos rfl] at h5
    have hy : y = _ := (congrArg (fun k' : Core => k'.handle g h) e).trans h5
    rw [hy]
    exact ⟨rfl, rfl⟩

/-- The switch of a drained hand-over, with the completion where it is asked for. -/
def State.handedOver (s : State) (k : Nat) (h : HandOver) : State :=
  let t := ((s.switched k).forward k).flushAll
  if h.cpl then t.handComplete (s.receiver k) h else t

theorem handoverSwitch_switches {h : HandOver} (hh : (s.stack k).hand = some h) (hd : s.drainedOf k = true) :
    exec (.handoverSwitch k) s = .next (s.handedOver k h) := by
  refine (exec_handoverSwitch ..).trans ?_
  unfold execHandoverSwitch State.handedOver
  rw [hh, hd]
  rfl

theorem flushAll_reports (s : State) : s.Reports s.flushAll := .foldl (fun s d => s.flushReports_reports d) _ s

theorem handedOver_keepsCaches (h : HandOver) : (s.switched k).KeepsCaches (s.handedOver k h) := by
  have h1 := (State.forward_keepsCaches (s.switched k) k).trans (flushAll_reports _).keepsCaches
  unfold State.handedOver
  dsimp only
  split
  · exact h1.trans (handComplete_keepsCaches ..)
  · exact h1

theorem onStack_away {x : TlbEntry} (h : x.onStack k = false) {a : Nat} (ha : x.dla = some a) : dlaCxl a = true ∨ dlaStack a ≠ k := by
  unfold TlbEntry.onStack at h
  rw [ha] at h
  cases hc : dlaCxl a
  · simpa [hc] using h
  · exact .inl rfl

/-- The completion counts one on the handle that a running context of the tenancy names (R332). -/
theorem handedOver_counts {h : HandOver} (hn : s.NothingHeld k) (hcpl : h.cpl = true) {n : Nat} (hten : h.ten = some n)
    (hcur : s.isCurrent (s.receiver k) h.gen = true) (hct : (s.core (64 * s.receiver k + h.core)).ten = some n)
    (htask : (s.core (64 * s.receiver k + h.core)).task ≠ none)
    (hph : (s.core (64 * s.receiver k + h.core)).phase = 1 ∨ (s.core (64 * s.receiver k + h.core)).phase = 2) :
    ∃ k', ((s.handedOver k h).core (64 * s.receiver k + h.core)).handles = (Core.countBytes k' h.gen h.handle 1).handles
      ∧ k'.handles = (s.core (64 * s.receiver k + h.core)).handles := by
  obtain ⟨ks, e, hks⟩ := switched_rest hn
  obtain ⟨tl, ll, as, m, hk⟩ := hks (64 * s.receiver k + h.core)
  let t : State := { s.switched k with cores := ks }
  have hk : t.core (64 * s.receiver k + h.core) = _ := hk
  have hph' : ((t.core (64 * s.receiver k + h.core)).phase == 1 || (t.core (64 * s.receiver k + h.core)).phase == 2) = true := by
    rw [hk]
    simpa using hph
  have hct' : (t.core (64 * s.receiver k + h.core)).ten = some n := by rw [hk, ← hct]
  have htask' : (t.core (64 * s.receiver k + h.core)).task.isSome = true := by
    rw [hk]
    exact Option.isSome_iff_ne_none.2 htask
  have hcur' : t.isCurrent (s.receiver k) h.gen = true := by
    rw [← hcur]
    unfold State.isCurrent
    rfl
  have e : ((s.switched k).forward k).flushAll = t := e
  clear_value t
  have hgo : t.handComplete (s.receiver k) h = t.updCore (64 * s.receiver k + h.core) (fun k =>
      let k1 := k.countBytes h.gen h.handle 1
      { k1 with threads := k1.threads ++ [⟨0, false, .handle h.handle, 2, true⟩] }) := by
    unfold State.handComplete
    rw [hten]
    dsimp only
    rw [hcur', show Config.coresPerDie = 64 from rfl, hct', htask', hph', decide_eq_true rfl]
    rfl
  refine ⟨t.core (64 * s.receiver k + h.core), ?_, by rw [hk]⟩
  unfold State.handedOver
  dsimp only
  rw [e, if_pos hcpl, hgo, State.core_updCore_same]

end Switch

/-- Settles O39: the switch is State.switched, and what follows it keeps the caches as it leaves them
(handedOver_keepsCaches); with nothing held, it keeps memory, registers and handles (switched_rest). -/
theorem stacksChangeHands : Obligations.StacksChangeHands := by
  intro s k h hk hh hd g r c nothingHeld away
  have hkeep := handedOver_keepsCaches (s := s) (k := k) h
  have hstack : ∀ j, (s.handedOver k h).stack j = (s.switched k).stack j := fun j => by
    unfold State.stack
    rw [hkeep.stackTab]
  have hself := (hstack k).trans (switched_stack s k)
  have hr : r = s.receiver k := rfl
  refine ⟨_, handoverSwitch_switches hh hd, ?_, ?_, ?_, ?_, ?_, ?_, ?_, ?_, ?_, ?_, ?_, ?_, ?mirror⟩
  · rw [hr, ← switched_owner s k hk]
    unfold State.owner
    rw [hstack]
  · rw [hself]
  · rw [hself]
  · rw [hself]
  · rw [hself]
  · exact fun j hj => (hstack j).trans (switched_stack_ne s k hj)
  · intro m hm n hcxl hst
    refine (hkeep.core m).l0 n ?_
    obtain ⟨tl, ll, e, -, hl⟩ := switched_core s k m
    rw [e]
    by_contra hne
    rcases hl hm _ (Sparse.mem_of_get hne) with hc | hs
    · exact absurd hc (Bool.eq_false_iff.1 hcxl)
    · exact hs hst
  · intro m hm x hx a ha
    obtain ⟨tl, ll, e, ht, -⟩ := switched_core s k m
    rw [(hkeep.core m).tlb, e] at hx
    exact onStack_away (ht hm x hx) ha
  · intro x hx a ha
    rw [hkeep.etlb] at hx
    exact onStack_away (((switched_die s k g).2.2.2 rfl).1 x hx) ha
  · intro x hx
    rw [hkeep.s2c] at hx
    exact ((switched_die s k g).2.2.2 rfl).2 x hx
  · intro hn hcpl
    obtain ⟨ks, e, hks⟩ := switched_rest (show s.NothingHeld k from hn)
    have ht : s.handedOver k h = { s.switched k with cores := ks } := by
      unfold State.handedOver
      dsimp only
      rw [e, hcpl]
      rfl
    rw [ht]
    refine ⟨rfl, fun m => ?_⟩
    obtain ⟨tl, ll, as, n, hc⟩ := hks m
    rw [hc]
    exact ⟨rfl, rfl⟩
  · intro n hn hcpl hten hcur hct htask hph x y
    obtain ⟨k', e, e'⟩ := handedOver_counts (show s.NothingHeld k from hn) hcpl hten hcur hct htask hph
    have hx : x = k'.handle h.gen h.handle := by
      show (s.core (64 * s.receiver k + h.core)).handle h.gen h.handle = _
      unfold Core.handle
      rw [e']
    have hy : y = (k'.countBytes h.gen h.handle 1).handle h.gen h.handle := by
      show ((s.handedOver k h).core (64 * s.receiver k + h.core)).handle h.gen h.handle = _
      unfold Core.handle
      rw [e]
    rw [hx, hy]
    exact k'.countBytes_one h.gen h.handle
  case mirror =>
    intro d
    refine ⟨_, exec_ownerMirrorUpdate d k s, rfl, rfl, ?_, fun e j hne => ?_⟩
    · unfold State.ownerMirror
      rw [State.die_updDie_same]
      split
      · rfl
      · rw [Sparse.get_put_same]
    · unfold State.ownerMirror
      rw [State.die_updDie]
      by_cases he : e = d
      · subst he
        have hj : j ≠ k := hne.resolve_left (not_not.2 rfl)
        rw [if_pos rfl, Sparse.get_put_other hj]
        rfl
      · rw [if_neg he]
        rfl

end Sys2Proof.Machine
end

section
/-! PROOFS. Mortar links (spec 18 R411-R419). -/

namespace Sys2Proof.Machine

/-! ### Flits and directions -/

section Dirs
variable (x : Link) (up : Bool) (f : FlitDir → FlitDir)

@[simp] theorem Link.dir_updDir_same : (x.updDir up f).dir up = f (x.dir up) := by cases up <;> rfl
@[simp] theorem Link.dir_updDir_back : (x.updDir up f).dir (!up) = x.dir (!up) := by cases up <;> rfl
@[simp] theorem Link.dir_updDir_not : (x.updDir (!up) f).dir up = x.dir up := by cases up <;> rfl
@[simp] theorem Link.st_updDir : (x.updDir up f).st = x.st := by cases up <;> rfl

/-- What a retrain leaves of a direction of an up link (R415). -/
theorem Link.dir_retrain (h : x.st = 0) : x.retrain.dir up = (x.dir up).stop := by
  unfold Link.retrain
  rw [if_pos h]
  cases up <;> rfl

theorem Link.st_retrain (h : x.st = 0) : x.retrain.st = 1 := by
  unfold Link.retrain
  rw [if_pos h]

end Dirs

theorem Flit.intact_sealed (f : Flit) (bad : Bool) : (f.sealed bad).intact = !bad := by
  cases bad
  · exact f.sealed_intact
  · exact f.sealed_damaged

/-! ### Transmission (R411, R413, R414) -/

/-- The flit that an end sends in a direction: what it says, with the answer of its receiver and the credits it returns. -/
def State.flitOf (s : State) (n : Nat) (up : Bool) (f : Flit) (rq rs : Byte) (bad : Bool) : Flit :=
  ({ ((s.link n).dir (!up)).answer f with crq := rq, crs := rs } : Flit).sealed bad

section Transmit
variable {s : State} {n : Nat} {up : Bool} {vc : BitVec 2} {len rq rs : Byte} {bad : Bool} {f : Flit} {y : FlitDir}

/-- A payload flit goes onto the wire; the eighth NAK in a row has the link retrain. -/
theorem flitTransmit_sends (hst : (s.link n).st = 0)
    (hp : ((s.link n).dir up).payload vc len (Config.flitPayload s.free) = some (f, y)) :
    let x := s.link n
    let g := s.flitOf n up f rq rs bad
    ∃ t, exec (.flitTransmit n up 1 vc len rq rs bad) s = .next t
      ∧ ((t.link n).dir up).next = y.next ∧ ((t.link n).dir up).buf = y.buf ∧ ((t.link n).dir up).sent = y.sent
      ∧ ((t.link n).dir up).credQ = y.credQ ∧ ((t.link n).dir up).credS = y.credS
      ∧ ((t.link n).dir (!up)).nakDue = false ∧ ((t.link n).dir (!up)).unacked = 0 ∧ (∀ m, m ≠ n → t.link m = s.link m)
      ∧ (if (x.dir (!up)).nakDue = true ∧ 8 ≤ (x.dir (!up)).nakRun then (t.link n).st = 1 ∧ ((t.link n).dir up).wire = []
        else (t.link n).st = 0 ∧ ((t.link n).dir up).wire = (x.dir up).wire ++ [g]) := by
  intro x g
  let x3 : Link := { ((x.updDir up (fun _ => { y with wire := (x.dir up).wire ++ [g] })).updDir (!up)
    (fun y => { y with nakDue := false, unacked := 0 })) with naks := if (x.dir (!up)).nakDue then x.naks + 1 else x.naks }
  let x4 := if (x.dir (!up)).nakDue && decide (8 ≤ (x.dir (!up)).nakRun) then x3.retrain else x3
  have hx : exec (.flitTransmit n up 1 vc len rq rs bad) s = .next (({ s with free := s.free + 1 } : State).updLink n (fun _ => x4)) := by
    refine (exec_flitTransmit ..).trans ?_
    unfold execFlitTransmit
    dsimp only
    rw [if_pos rfl, hp]
    dsimp only
    rw [if_neg (not_not.2 hst)]
    rfl
  have h3 : x3.st = 0 := by
    show ((x.updDir up _).updDir (!up) _).st = 0
    rw [Link.st_updDir, Link.st_updDir]
    exact hst
  have hup : x3.dir up = { y with wire := (x.dir up).wire ++ [g] } := by
    show ((x.updDir up _).updDir (!up) _).dir up = _
    rw [Link.dir_updDir_not, Link.dir_updDir_same]
  have hback : x3.dir (!up) = { x.dir (!up) with nakDue := false, unacked := 0 } := by
    show ((x.updDir up _).updDir (!up) _).dir (!up) = _
    rw [Link.dir_updDir_same, Link.dir_updDir_back]
  have hother : ∀ m, m ≠ n → (({ s with free := s.free + 1 } : State).updLink n (fun _ => x4)).link m = s.link m := by
    intro m hm
    rw [State.link_updLink, if_neg hm]
    rfl
  refine ⟨_, hx, ?_⟩
  rw [State.link_updLink_same]
  by_cases hn : (x.dir (!up)).nakDue = true ∧ 8 ≤ (x.dir (!up)).nakRun
  · have h4 : x4 = x3.retrain := if_pos (by rw [hn.1, decide_eq_true hn.2]; rfl)
    rw [if_pos hn, h4, x3.dir_retrain up h3, x3.dir_retrain (!up) h3, x3.st_retrain h3, hup, hback]
    rw [h4] at hother
    exact ⟨rfl, rfl, rfl, rfl, rfl, rfl, rfl, hother, rfl, rfl⟩
  · have h4 : x4 = x3 := if_neg (by simpa using hn)
    rw [if_neg hn, h4, hup, hback]
    rw [h4] at hother
    exact ⟨rfl, rfl, rfl, rfl, rfl, rfl, rfl, hother, h3, rfl⟩

/-- A new flit, while the transmitter holds fewer than 4,095 and a credit. -/
theorem payload_new {x : FlitDir} {pay : BitVec 1920} (hsent : x.sent = x.buf.length) (hbuf : x.buf.length < 4095) (hlen : len.toNat ≤ 240)
    (hvc : vc.toNat < 2) (hcred : 0 < (if vc = 0 then x.credQ else x.credS)) (hres : x.resync = false) (hnak : x.nakIn = false) :
    x.payload vc len pay = some ({ seq := x.next, cls := 1, vc := vc, plen := len, pay := pay },
      { x with next := x.next + 1, buf := x.buf ++ [(vc, len, pay)], sent := x.sent + 1
               credQ := if vc = 0 then x.credQ - 1 else x.credQ, credS := if vc = 0 then x.credS else x.credS - 1 }) := by
  unfold FlitDir.payload
  rw [hres, hnak, List.getElem?_eq_none hsent.ge]
  refine (if_neg (by decide)).trans (if_neg ?_)
  simp only [Bool.or_eq_true, decide_eq_true_eq]
  omega

/-- A kept flit goes again as it was kept. -/
theorem payload_again {x : FlitDir} {pay : BitVec 1920} {k : BitVec 2 × Byte × BitVec 1920} (hk : x.buf[x.sent]? = some k)
    (hres : x.resync = false) (hnak : x.nakIn = false) :
    x.payload vc len pay = some ({ seq := x.first + BitVec.ofNat 12 x.sent, cls := 1, vc := k.1, plen := k.2.1, pay := k.2.2 },
      { x with sent := x.sent + 1 }) := by
  unfold FlitDir.payload
  rw [hres, hnak, hk]
  rfl

theorem flitTransmit_waits (h : ((s.link n).dir up).resync = true ∨ ((s.link n).dir up).nakIn = true) :
    exec (.flitTransmit n up 1 vc len rq rs bad) s = .next s := by
  have hp : ((s.link n).dir up).payload vc len (Config.flitPayload s.free) = none := if_pos (Bool.or_eq_true_iff.2 h)
  refine (exec_flitTransmit ..).trans ?_
  unfold execFlitTransmit
  dsimp only
  rw [if_pos rfl, hp]
  rfl

end Transmit

/-! ### Reception (R413) -/

theorem FlitDir.takes_iff (x : FlitDir) (f : Flit) :
    x.takes f = true ↔ f.intact = true ∧ f.cls = 1 ∧ f.vc.toNat < 2 ∧ f.seq = x.expect := by
  unfold FlitDir.takes
  simp [and_assoc]

section Receive
variable (x : FlitDir) (f : Flit)

/-- A flit that the receiver takes. -/
theorem FlitDir.receive_taken (h : f.intact = true ∧ f.cls = 1 ∧ f.vc.toNat < 2 ∧ f.seq = x.expect) : x.receive f = { x with
    expect := x.expect + 1, accepted := x.accepted + 1, naking := false, nakRun := 0, unacked := x.unacked + 1
    got := if f.vc = 0 then x.got + f.plen.toNat else x.got } := by
  obtain ⟨hi, hc, hv, hs⟩ := h
  unfold FlitDir.receive
  simp only [hi, hc, hs, not_le.2 hv]
  simp

/-- Of any other flit the receiver keeps nothing; it may ask for a replay. -/
theorem FlitDir.receive_not (h : ¬ (f.intact = true ∧ f.cls = 1 ∧ f.vc.toNat < 2 ∧ f.seq = x.expect)) :
    x.receive f = x ∨ x.receive f = x.sendNak := by
  unfold FlitDir.receive
  dsimp only
  split
  · split
    · exact .inr rfl
    · exact .inl rfl
  · split
    · exact .inl rfl
    · split
      · next hi hc hs =>
        exfalso
        simp at hi hc
        exact h ⟨hi, hc.1, Nat.lt_succ_of_le hc.2, hs⟩
      · split
        · exact .inl rfl
        · split
          · exact .inl rfl
          · exact .inr rfl

theorem FlitDir.receive_damaged (h : f.intact = false) (hn : x.naking = false) : x.receive f = x.sendNak := by
  unfold FlitDir.receive
  rw [h, hn]
  rfl

theorem FlitDir.wire_receive : (x.receive f).wire = x.wire := by
  by_cases h : f.intact = true ∧ f.cls = 1 ∧ f.vc.toNat < 2 ∧ f.seq = x.expect
  · rw [x.receive_taken f h]
  · rcases x.receive_not f h with e | e <;> rw [e] <;> rfl

/-- The control flit after a retrain has the transmitter replay the rest (R415). -/
theorem FlitDir.learn_control (hc : f.cls = 2) (hr : x.resync = true) : (x.learn f).resync = false ∧ (x.learn f).sent = 0 := by
  unfold FlitDir.learn
  dsimp only
  rw [hr, hc]
  exact ⟨rfl, rfl⟩

/-- An acknowledgement frees the flits that it covers (R414). -/
theorem FlitDir.learn_ack (ha : f.av = true) (hk : (f.ack - x.first).toNat + 1 ≤ x.buf.length) :
    (x.learn f).buf = x.buf.drop ((f.ack - x.first).toNat + 1) := by
  unfold FlitDir.learn
  dsimp only
  rw [ha, decide_eq_true hk]
  split
  · rfl
  · rfl

end Receive

section Receive
variable {s : State} {n : Nat} {up : Bool} {f : Flit} {rest : List Flit}

theorem flitReceive_waits (hw : ((s.link n).dir up).wire = f :: rest) (ht : ((s.link n).dir up).takes f = true)
    (hu : 32 ≤ ((s.link n).dir up).unacked) : exec (.flitReceive n up) s = .next s := by
  refine (exec_flitReceive ..).trans ?_
  unfold execFlitReceive
  dsimp only
  rw [hw]
  exact if_pos (by rw [ht, decide_eq_true hu]; rfl)

/-- The oldest flit arrives: its direction receives it, and the other learns from an intact one. -/
theorem flitReceive_arrives (hw : ((s.link n).dir up).wire = f :: rest)
    (hu : ((s.link n).dir up).takes f = true → ((s.link n).dir up).unacked < 32) :
    ∃ t, exec (.flitReceive n up) s = .next t
      ∧ (t.link n).dir up = ({ (s.link n).dir up with wire := rest } : FlitDir).receive f
      ∧ (t.link n).dir (!up) = if f.intact = false ∨ f.cls = 3 then (s.link n).dir (!up) else ((s.link n).dir (!up)).learn f := by
  have hgo : ¬ (((s.link n).dir up).takes f && decide (32 ≤ ((s.link n).dir up).unacked)) = true := by
    simp only [Bool.and_eq_true, decide_eq_true_eq, not_and, not_le]
    exact hu
  have hx : exec (.flitReceive n up) s = .next (s.updLink n (fun x =>
      let x1 := x.updDir up (fun y => ({ y with wire := rest } : FlitDir).receive f)
      if !f.intact || f.cls = 3 then x1 else x1.updDir (!up) (fun y => y.learn f))) := by
    refine (exec_flitReceive ..).trans ?_
    unfold execFlitReceive
    dsimp only
    rw [hw]
    exact if_neg hgo
  refine ⟨_, hx, ?_⟩
  · rw [State.link_updLink_same]
    by_cases h : f.intact = false ∨ f.cls = 3
    · rw [if_pos (by simpa using h), if_pos h, Link.dir_updDir_same, Link.dir_updDir_back]
      exact ⟨rfl, rfl⟩
    · rw [if_neg (by simpa using h), if_neg h, Link.dir_updDir_not, Link.dir_updDir_same, Link.dir_updDir_same, Link.dir_updDir_back]
      exact ⟨rfl, rfl⟩

end Receive

/-! ### Retraining and a down link (R415-R417) -/

section Down
variable {s : State} {n : Nat}

theorem State.Reports.linkTab {t : State} (h : s.Reports t) : t.linkTab = s.linkTab := by rw [h.rest]
theorem State.Reports.links {t : State} (h : s.Reports t) : t.links = s.links := by rw [h.rest]

theorem State.Reports.link {t : State} (h : s.Reports t) (m : Nat) : t.link m = s.link m := by
  unfold State.link
  rw [h.linkTab]

theorem retrainComplete_resumes (hst : (s.link n).st = 1) {w : Nat} (h1 : 1 ≤ w) (h3 : w ≤ 3) :
    ∃ t, exec (.retrainComplete n w) s = .next t ∧ t.link n = { s.link n with
      st := 0, width := w, retr := (s.link n).retr + 1
      dir0 := { (s.link n).dir0 with wire := [(s.link n).dir1.resume], unacked := 0 }
      dir1 := { (s.link n).dir1 with wire := [(s.link n).dir0.resume], unacked := 0 } } := by
  refine ⟨_, (exec_retrainComplete ..).trans (if_neg ?_), ?_⟩
  · simp only [Bool.or_eq_true, decide_eq_true_eq, hst]
    omega
  · rw [(flushAll_reports _).link, State.link_updLink_same]

theorem resume_spec (x : FlitDir) : x.resume.cls = 2 ∧ x.resume.intact = true ∧ x.resume.ack = x.expect - 1
    ∧ (x.resume.av = true ↔ 0 < x.accepted) ∧ x.resume.nak = false :=
  ⟨rfl, Flit.sealed_intact _, rfl, decide_eq_true_iff, rfl⟩

theorem State.foldl_interrupt_reports (l : List Nat) (e : Nat) : s.Reports (l.foldl (fun s d => s.interrupt d e) s) :=
  .foldl (fun s d => s.interrupt_reports d e) l s

theorem State.newLatencies_dies (s : State) : ∃ ds, s.newLatencies = { s with dies := ds } := by
  unfold State.newLatencies
  refine List.foldlRecOn (motive := fun t : State => ∃ ds, t = { s with dies := ds }) (List.range Config.dies) _ ⟨s.dies, rfl⟩ ?_
  rintro t ⟨ds, rfl⟩ d -
  exact ⟨_, rfl⟩

/-- A link that is declared down (R416, R417). -/
theorem linkDown_downs (hst : (s.link n).st = 1) : let s1 := if n < 8 then s.handOn n else s
    ∃ t, exec (.linkDown n) s = .next t ∧ (t.link n).st = 2 ∧ (t.link n).width = 0
      ∧ (t.link n).note0 = decide (n < 8) ∧ (t.link n).note1 = decide (n < 8) ∧ t.links = s1.links ∧ t.cores = s1.cores := by
  intro s1
  let s2 := s1.updLink n (fun x => { x with
    st := 2, width := 0, dir0 := {}, dir1 := {}, note0 := decide (n < 8), note1 := decide (n < 8) })
  let s3 := if n < 8 then s2.newLatencies.noteLoss else s2
  have hx : exec (.linkDown n) s = .next ((linkEnds n).foldl (fun s d => s.interrupt d 3) s3.flushAll) := by
    refine (exec_linkDown ..).trans ((if_neg (by simp [hst])).trans ?_)
    simp only [decide_eq_true_eq]
    rfl
  have h3 : ∃ ds, s3 = { s2 with dies := ds } := by
    show ∃ ds, (if n < 8 then s2.newLatencies.noteLoss else s2) = _
    split
    · obtain ⟨ds, e⟩ := s2.newLatencies_dies
      rw [e]
      exact ⟨_, rfl⟩
    · exact ⟨s2.dies, rfl⟩
  have hr := (flushAll_reports s3).trans (State.foldl_interrupt_reports (linkEnds n) 3)
  obtain ⟨ds, e⟩ := h3
  have hlink : s3.link n = { s1.link n with
      st := 2, width := 0, dir0 := {}, dir1 := {}, note0 := decide (n < 8), note1 := decide (n < 8) } := by
    rw [e]
    exact s1.link_updLink_same n (fun x => { x with
      st := 2, width := 0, dir0 := {}, dir1 := {}, note0 := decide (n < 8), note1 := decide (n < 8) })
  refine ⟨_, hx, ?_⟩
  rw [hr.link, hlink, hr.links, hr.cores, e]
  exact ⟨rfl, rfl, rfl, rfl, rfl, rfl⟩

theorem enableLink_enables (hst : (s.link n).st = 2) :
    ((s.enableLink n).link n).st = 1 ∧ ((s.enableLink n).link n).retr = (s.link n).retr ∧ (s.enableLink n).cores = s.cores := by
  let s1 := s.updLink n (fun x => { x with st := 1, note0 := false, note1 := false })
  have h1 : s1.link n = { s.link n with st := 1, note0 := false, note1 := false } := s.link_updLink_same n _
  have e : s.enableLink n = if n < 8 then s1.newLatencies else s1 := if_neg (not_not.2 hst)
  rw [e]
  split
  · obtain ⟨ds, e'⟩ := s1.newLatencies_dies
    rw [e', show ({ s1 with dies := ds } : State).link n = s1.link n from rfl, h1]
    exact ⟨rfl, rfl, rfl⟩
  · rw [h1]
    exact ⟨rfl, rfl, rfl⟩

end Down

/-- Settles O44: each operation of a link by its lemma above. -/
theorem linksCarryFlits : Obligations.LinksCarryFlits := by
  intro s n up x out inn
  refine ⟨fun hst => ⟨?new, fun h vc len rq rs bad => flitTransmit_waits h, ?again, fun hn => ?replay, ?retrain⟩, ?receive,
    fun hst => ⟨fun w h1 h3 => ?complete, linkDown_downs hst⟩, fun hst => ⟨?notice, ?enable⟩, fun d => rfl⟩
  case new =>
    intro vc len rq rs bad hsent hbuf hlen hvc hcred hres hnak
    obtain ⟨t, hx, h1, h2, -, h4, h5, h6, h7, h8, h9⟩ := flitTransmit_sends (rq := rq) (rs := rs) (bad := bad) hst
      (payload_new (pay := Config.flitPayload s.free) hsent hbuf hlen hvc hcred hres hnak)
    refine ⟨t, s.flitOf n up { seq := out.next, cls := 1, vc := vc, plen := len, pay := Config.flitPayload s.free } rq rs bad,
      hx, rfl, rfl, rfl, rfl, rfl, rfl, rfl, Flit.intact_sealed _ _, h1, h2, ?_, h6, h7, h8, h9⟩
    rw [h4, h5]
    split
    · next h =>
      rw [if_pos h] at hcred
      exact Nat.sub_add_cancel hcred
    · next h =>
      rw [if_neg h] at hcred
      exact Nat.sub_add_cancel hcred
  case again =>
    intro k vc len rq rs bad hk hres hnak hdue
    obtain ⟨t, hx, -, h2, h3, -, -, -, -, -, h9⟩ := flitTransmit_sends (rq := rq) (rs := rs) (bad := bad) hst
      (payload_again (vc := vc) (len := len) (pay := Config.flitPayload s.free) hk hres hnak)
    rw [if_neg (fun h => absurd (hdue.symm.trans h.1) (by decide))] at h9
    exact ⟨t, s.flitOf n up { seq := out.first + BitVec.ofNat 12 out.sent, cls := 1, vc := k.1, plen := k.2.1, pay := k.2.2 } rq rs bad,
      hx, h9.2, rfl, rfl, h2, h3⟩
  case replay =>
    refine ⟨_, (exec_nakReplay ..).trans (if_neg ?_), ?_⟩
    · rw [show ((s.link n).dir up).nakIn = true from hn, decide_eq_false (not_not.2 hst)]
      decide
    · rw [State.link_updLink_same, Link.dir_updDir_same, Link.dir_updDir_back]
      exact ⟨rfl, rfl, rfl, rfl⟩
  case retrain =>
    refine ⟨_, exec_retrain n s, ?_⟩
    rw [State.link_updLink_same, Link.st_retrain _ hst]
    exact ⟨rfl, Link.dir_retrain _ true hst, Link.dir_retrain _ false hst⟩
  case receive =>
    intro f rest hw taken
    have htakes : out.takes f = true ↔ taken := out.takes_iff f
    refine ⟨fun ht hu => flitReceive_waits hw (htakes.2 ht) hu, fun hu => ?_⟩
    obtain ⟨t, hx, hup, hback⟩ := flitReceive_arrives hw (fun h => hu (htakes.1 h))
    let y : FlitDir := { out with wire := rest }
    have hy : ((s.link n).dir up) = out := rfl
    rw [hy] at hup
    refine ⟨t, hx, ?_, fun ht => ?_, fun ht => ?_, fun hi hn => ?_, fun hi hc hr => ?_, fun hi hc k ha hk hle => ?_⟩
    · rw [hup]
      exact y.wire_receive f
    · rw [hup, y.receive_taken f ht]
      exact ⟨rfl, rfl, rfl, rfl, rfl⟩
    · rw [hup]
      rcases y.receive_not f ht with e | e <;> rw [e] <;> exact ⟨rfl, rfl, rfl⟩
    · rw [hup, y.receive_damaged f hi hn, hback, if_pos (.inl hi)]
      exact ⟨rfl, rfl⟩
    · rw [hback, if_neg (by rw [hi, hc]; decide)]
      exact FlitDir.learn_control _ f hc hr
    · subst hk
      rw [hback, if_neg (by rw [hi]; simpa using hc)]
      exact FlitDir.learn_ack _ f ha hle
  case complete =>
    obtain ⟨t, hx, hl⟩ := retrainComplete_resumes hst h1 h3
    refine ⟨t, hx, ?_⟩
    rw [hl]
    cases up
    · exact ⟨rfl, rfl, rfl, rfl, rfl, rfl, _, rfl, resume_spec x.dir0⟩
    · exact ⟨rfl, rfl, rfl, rfl, rfl, rfl, _, rfl, resume_spec x.dir1⟩
  case notice =>
    intro hn here ho s1
    refine (exec_downNotice ..).trans ((if_neg ?_).trans (if_neg ?_))
    · rw [show (if up then (s.link n).note0 else (s.link n).note1) = true from hn, decide_eq_false (not_not.2 hst)]
      decide
    · rw [show s.older (Sparse.get [] (linkKey (if up then n else (n + 1) % 8) up) s.links) = false from ho]
      decide
  case enable =>
    refine ⟨s.enableLink n, fun hr => (exec_linkEnable ..).trans ?_, enableLink_enables hst⟩
    unfold execLinkEnable State.reachesDie
    rw [hr]
    rfl

end Sys2Proof.Machine
end

section
/-! PROOFS. Requests of pre-emption and their timers (spec 17 R392-R397). -/

namespace Sys2Proof.Machine

section Preempt
variable {s : State} {c : Nat}

theorem softRequest_starts (hp : (s.core c).phase = 1) (hr : (s.core c).req = 0) (hf : (s.core c).flr = none)
    (hs : (s.core c).stopped = false) : s.softRequest c = s.updCore c (fun k => { k with
      grace := some ((s.die (dieOf c)).lcyc.toNat + k.csr.gracet.toNat), kill := some ((s.die (dieOf c)).lcyc.toNat + k.csr.killt.toNat)
      req := 1, phase := 2 }) := by
  have ht : (s.core c).takesReq 1 = true := by
    unfold Core.takesReq
    rw [hp, hr, hf, hs]
    rfl
  unfold State.softRequest State.request
  rw [if_pos ht]
  refine State.updCore_congr ?_
  rw [if_pos hr, if_pos hr, if_pos hp]

/-- A core that a double trap has stopped takes no request. -/
theorem takesReq_stopped (hs : (s.core c).stopped = true) (r : Nat) : (s.core c).takesReq r = false := by
  unfold Core.takesReq
  rw [hs]
  exact Bool.and_false _

theorem stopped_requests (hs : (s.core c).stopped = true) : s.softRequest c = s ∧ s.hardRequest c = s ∧ s.killRequest c = s
    ∧ s.halt c = s ∧ s.killNow c = s := by
  have ht := takesReq_stopped hs
  refine ⟨if_neg (by rw [ht]; decide), if_neg (by rw [ht]; decide), if_neg (by rw [ht]; decide), if_neg ?_, if_neg ?_⟩ <;>
    rw [hs, Bool.not_true, Bool.and_false] <;> decide

/-- A request reaches the core while it is running, in the save or the handler, and a weaker one is in force. -/
theorem takesReq_runs {r : Nat} (h1 : 1 ≤ (s.core c).phase) (h4 : (s.core c).phase ≤ 4) (hr : (s.core c).req < r)
    (hf : (s.core c).flr = none) (hs : (s.core c).stopped = false) : (s.core c).takesReq r = true := by
  unfold Core.takesReq
  rw [decide_eq_true h1, decide_eq_true h4, decide_eq_true hr, hf, hs]
  rfl

/-- What a request leaves as it was. -/
theorem request_core (r : Nat) : ∃ g n, s.request c r = s.updCore c (fun k => { k with
      grace := g, kill := n, req := r, phase := if k.phase = 1 then 2 else k.phase }) :=
  ⟨if (s.core c).req = 0 then some ((s.die (dieOf c)).lcyc.toNat + (s.core c).csr.gracet.toNat) else (s.core c).grace,
    if (s.core c).req = 0 then some ((s.die (dieOf c)).lcyc.toNat + (s.core c).csr.killt.toNat) else (s.core c).kill, rfl⟩

theorem ending_running {x : Task} (hx : (s.core c).task = some x) (he : x.ending = .no) : (s.core c).ending = false := by
  unfold Core.ending
  rw [hx]
  exact (congrArg (· == Ending.ended) he).trans rfl

/-- The core halts at its next issue boundary (R395). -/
theorem halt_halts {x : Task} (hp : (s.core c).phase = 1 ∨ (s.core c).phase = 2) (hx : (s.core c).task = some x) (he : x.ending = .no)
    (hs : (s.core c).stopped = false) : s.halt c = s.updCore c (fun k => { k with phase := 3 }) := by
  refine if_pos ?_
  rw [ending_running hx he, hx, hs]
  simpa using hp

/-! ### Kill (R397) -/

/-- A launch that fails has failed wherever it stands. -/
theorem failLaunch_fails (i d n : Nat) {y : Launch} (hy : ((s.failLaunch i).die d).launch n = some y) (hi : y.id = i) : y.failed = true := by
  let mark := fun (l : Option Launch) => l.map (fun l => if l.id = i then { l with failed := true } else l)
  have hmap : (s.failLaunch i).die d = { s.die d with launches := Sparse.mapVals none (fun _ l => mark l) (s.die d).launches }
      ∨ (s.failLaunch i).die d = {} ∧ s.die d = {} := Sparse.get_mapVals_or s.dies
  rcases hmap with e | ⟨e, -⟩
  · rw [e] at hy
    have hget : mark ((s.die d).launch n) = some y :=
      (Sparse.get_mapVals (d := none) (f := fun _ l => mark l) rfl (s.die d).launches).symm.trans hy
    obtain ⟨l, -, hl⟩ := Option.map_eq_some_iff.1 hget
    subst hl
    by_cases h : l.id = i
    · rw [if_pos h]
    · rw [if_neg h] at hi
      exact absurd hi h
  · rw [e] at hy
    cases hy

theorem failTask_cores : (s.failTask c).cores = s.cores := by
  unfold State.failTask State.failLaunch
  repeat' split
  all_goals rfl

/-- The launch of the core's task has failed wherever it stands. -/
theorem failTask_fails {x : Task} {l : Launch} (hx : (s.core c).task = some x) (hl : (s.die (dieOf c)).launch x.slot = some l)
    (hid : l.id = x.lid) {d n : Nat} {y : Launch} (hy : ((s.failTask c).die d).launch n = some y) (hi : y.id = l.id) : y.failed = true := by
  have e : s.failTask c = s.failLaunch l.id := by
    unfold State.failTask
    rw [hx]
    dsimp only
    rw [hl]
    exact if_pos hid
  rw [e] at hy
  exact failLaunch_fails l.id d n hy hi

theorem setPhase_reports (ph : Nat) : (s.updCore c (fun k => { k with phase := ph })).Reports (s.setPhase c ph) := by
  unfold State.setPhase
  dsimp only
  split
  · exact State.interrupt_reports ..
  · exact .refl _

/-- What goes back with a core's next task and its chunks leaves the launches as they are. -/
theorem handBack_launch (d n : Nat) : ((s.handBack c).die d).launch n = (s.die d).launch n := by
  unfold State.handBack
  extract_lets dd k rel back
  rw [State.die_updCore, State.die_updDie]
  split
  · next h =>
    rw [h]
    rfl
  · rfl

theorem handBack_core : ∃ k : Core, (s.handBack c).core c = { k with nextTask := none, own := none, chunks := [] } := by
  unfold State.handBack
  extract_lets d k rel back
  exact ⟨_, State.core_updCore_same ..⟩

theorem handBack_core_ne {j : Nat} (hj : j ≠ c) : (s.handBack c).core j = s.core j := by
  unfold State.handBack
  extract_lets d k rel back
  rw [State.core_updCore, if_neg hj]
  rfl

theorem handBack_lcyc (d : Nat) : ((s.handBack c).die d).lcyc = (s.die d).lcyc := by
  unfold State.handBack
  extract_lets dd k rel back
  rw [State.die_updCore, State.die_updDie]
  split
  · next h =>
    rw [h]
  · rfl

theorem reportTask_failTask_lcyc (f : FaultInfo) (d : Nat) : (((s.reportTask c f).failTask c).die d).lcyc = (s.die d).lcyc := by
  have h1 : ((s.reportTask c f).die d).lcyc = (s.die d).lcyc := by rw [(State.reportTask_reports ..).die d]
  rw [← h1]
  generalize s.reportTask c f = s1
  have hfail : ∀ i, ((s1.failLaunch i).die d).lcyc = (s1.die d).lcyc := by
    intro i
    let mark := fun (l : Option Launch) => l.map (fun l => if l.id = i then { l with failed := true } else l)
    have hmap : (s1.failLaunch i).die d = { s1.die d with launches := Sparse.mapVals none (fun _ l => mark l) (s1.die d).launches }
      ∨ (s1.failLaunch i).die d = {} ∧ s1.die d = {} := Sparse.get_mapVals_or s1.dies
    rcases hmap with e | ⟨e, e'⟩
    · rw [e]
    · rw [e, e']
  unfold State.failTask
  split
  · rfl
  · split
    · split
      · exact hfail _
      · rfl
    · rfl

/-- The state once the task of a killed context is reported and failed, and what it held has gone back. -/
def State.killed (s : State) (c : Nat) : State := (((s.reportTask c { kind := 0x02 }).failTask c).handBack c)

/-- The reset that follows: no task, PHASE 6, and at once PHASE 7 (R397). -/
def State.resets (u : State) (c : Nat) : State :=
  ((u.updCore c (fun k => { k with task := none, own := none })).setPhase c 6).beginFlr c

theorem killContext_eq {x : Task} (hx : (s.core c).task = some x) :
    s.killContext c = (s.killed c).resets c := by
  unfold State.killContext
  rw [hx, if_pos Option.isSome_some]
  rfl

theorem resets_launch (u : State) (d n : Nat) : ((u.resets c).die d).launch n = (u.die d).launch n := by
  have hp := (setPhase_reports (s := u.updCore c (fun k => { k with task := none, own := none })) (c := c) 6).die d
  unfold State.resets State.beginFlr
  rw [State.die_updCore, hp]
  rfl

theorem resets_core (u : State) : (u.resets c).core c = { u.core c with
    task := none, own := none, phase := 7, stopping := none, flr := some (u.die (dieOf c)).lcyc.toNat, trapping := none, late := none
    lateHeld := none, grace := none, kill := none } ∧ ∀ j, j ≠ c → (u.resets c).core j = u.core j := by
  let u1 := u.updCore c (fun k => { k with task := none, own := none })
  have hp := setPhase_reports (s := u1) (c := c) 6
  have hl : ((u1.setPhase c 6).die (dieOf c)).lcyc = (u.die (dieOf c)).lcyc := by
    rw [hp.die]
    rfl
  have hcore : ∀ j, (u1.setPhase c 6).core j = (u1.updCore c (fun k => { k with phase := 6 })).core j := by
    intro j
    unfold State.core
    rw [hp.cores]
  unfold State.resets State.beginFlr
  refine ⟨?_, fun j hj => ?_⟩
  · rw [State.core_updCore_same, hl, hcore, State.core_updCore_same, State.core_updCore_same]
  · rw [State.core_updCore, if_neg hj, hcore, State.core_updCore, if_neg hj, State.core_updCore, if_neg hj]

/-- What a kill leaves of the dies' launches is what the report and the failure of the task leave. -/
theorem killContext_launch {x : Task} (hx : (s.core c).task = some x) (d n : Nat) :
    ((s.killContext c).die d).launch n = (((s.reportTask c { kind := 0x02 }).failTask c).die d).launch n := by
  rw [killContext_eq hx]
  exact (resets_launch (s.killed c) d n).trans (handBack_launch d n)

theorem killContext_core {x : Task} (hx : (s.core c).task = some x) : let t := s.killContext c
    (t.core c).phase = 7 ∧ (t.core c).flr = some (s.die (dieOf c)).lcyc.toNat ∧ (t.core c).task = none ∧ (t.core c).trapping = none
      ∧ (t.core c).kill = none ∧ (t.core c).chunks = [] ∧ ∀ j, j ≠ c → t.core j = s.core j := by
  have hl : ((s.killed c).die (dieOf c)).lcyc = (s.die (dieOf c)).lcyc := (handBack_lcyc _).trans (reportTask_failTask_lcyc ..)
  obtain ⟨k, hk⟩ := handBack_core (s := (s.reportTask c { kind := 0x02 }).failTask c) (c := c)
  have hk : (s.killed c).core c = { k with nextTask := none, own := none, chunks := [] } := hk
  have hother : ∀ j, j ≠ c → (s.killed c).core j = s.core j := by
    intro j hj
    refine (handBack_core_ne hj).trans ?_
    unfold State.core
    rw [failTask_cores, (State.reportTask_reports ..).cores]
  rw [killContext_eq hx]
  obtain ⟨h, h'⟩ := resets_core (c := c) (s.killed c)
  dsimp only
  rw [h, hl, hk]
  exact ⟨rfl, rfl, rfl, rfl, rfl, rfl, fun j hj => (h' j hj).trans (hother j hj)⟩

/-- The kill timer of a context that runs has expired: the context is killed (R397). -/
theorem killNow_kills {x : Task} (h1 : 1 ≤ (s.core c).phase) (h4 : (s.core c).phase ≤ 4) (hx : (s.core c).task = some x)
    (he : x.ending = .no) (hs : (s.core c).stopped = false) : s.killNow c = s.killContext c := by
  refine if_pos ?_
  rw [ending_running hx he, hs, decide_eq_true h1, decide_eq_true h4]
  rfl

/-- What a kill leaves, as O42 states it. -/
theorem killContext_kills {x : Task} (hx : (s.core c).task = some x) : let t := s.killContext c
    ((t.core c).phase = 7 ∧ (t.core c).flr = some (s.die (dieOf c)).lcyc.toNat ∧ (t.core c).task = none ∧ (t.core c).trapping = none
      ∧ (t.core c).kill = none ∧ (t.core c).chunks = [] ∧ ∀ j, j ≠ c → t.core j = s.core j)
    ∧ ∀ y l, (s.core c).task = some y → (s.die (dieOf c)).launch y.slot = some l → l.id = y.lid →
      ∀ d n z, (t.die d).launch n = some z → z.id = l.id → z.failed = true := by
  refine ⟨killContext_core hx, fun y l hy hl hid d n z hz hi => ?_⟩
  rw [killContext_launch hx] at hz
  have hr := State.reportTask_reports s c { kind := 0x02 }
  refine failTask_fails (s := s.reportTask c { kind := 0x02 }) (c := c) (x := y) (l := l) ?_ ?_ hid hz hi
  · unfold State.core
    rw [hr.cores]
    exact hy
  · unfold Die.launch
    rw [hr.die]
    exact hl

end Preempt

/-- Settles O42: a request is taken as takesReq_runs says; a halt is halt_halts, a kill killContext_kills. -/
theorem preemptionRequests : Obligations.PreemptionRequests := by
  intro s c k now kills halts out
  have hgo : ∀ {i : Instr} {t : State}, exec i s = .next (if s.reachesDie (dieOf c) then t else s) → out → exec i s = .next t :=
    fun hx ho => hx.trans (congrArg Host.Outcome.next (if_pos ho))
  refine ⟨fun hp hr hf hs ho => ?soft, fun hs => ?stopped, fun hf hs x hx he =>
    ⟨fun hp => ⟨fun hr ho => ?hard, fun n hn hle => ?grace⟩, fun h1 h4 => ⟨fun hr ho => ?kill, fun n hn hle => ?timer⟩⟩⟩
  case soft => exact (hgo (exec_softRequest ..) ho).trans (congrArg Host.Outcome.next (softRequest_starts hp hr hf hs))
  case stopped =>
    obtain ⟨h1, h2, h3, h4, h5⟩ := stopped_requests (s := s) hs
    have hsame : ∀ {b : Bool} {t : State}, t = s → (if b then t else s) = s := fun e => by rw [e]; exact ite_self _
    simp only [List.mem_cons, List.not_mem_nil, or_false]
    rintro i (rfl | rfl | rfl | rfl | rfl)
    · exact (exec_softRequest ..).trans (congrArg Host.Outcome.next (hsame h1))
    · exact (exec_hardRequest ..).trans (congrArg Host.Outcome.next (hsame h2))
    · exact (exec_killRequest ..).trans (congrArg Host.Outcome.next (hsame h3))
    · exact (exec_graceExpiry ..).trans (congrArg Host.Outcome.next (hsame h4))
    · exact (exec_killExpiry ..).trans (congrArg Host.Outcome.next (hsame h5))
  case hard =>
    obtain ⟨g, n, e⟩ := request_core (s := s) (c := c) 2
    let s1 := s.request c 2
    have hk1 : s1.core c = { k with grace := g, kill := n, req := 2, phase := if k.phase = 1 then 2 else k.phase } := by
      show (s.request c 2).core c = _
      rw [e, State.core_updCore_same]
    have hph : (s1.core c).phase = 1 ∨ (s1.core c).phase = 2 := by
      rw [hk1]
      refine .inr ?_
      dsimp only
      split
      · rfl
      · next h => exact hp.resolve_left h
    have hx1 : s.hardRequest c = s1.updCore c (fun k => { k with phase := 3 }) :=
      (if_pos (takesReq_runs (by rcases hp with e | e <;> rw [e] <;> decide) (by rcases hp with e | e <;> rw [e] <;> decide) hr hf hs)).trans
        (halt_halts hph (x := x) (by rw [hk1]; exact hx) he (by rw [hk1]; exact hs))
    refine ⟨_, (hgo (exec_hardRequest ..) ho).trans (congrArg Host.Outcome.next hx1), ?_⟩
    rw [State.core_updCore_same, hk1]
    exact ⟨rfl, rfl, rfl, rfl, rfl, rfl⟩
  case grace =>
    have hexp : s.expired c (s.core c).grace = true := by
      rw [show (s.core c).grace = some n from hn]
      exact decide_eq_true hle
    refine ⟨_, (exec_graceExpiry ..).trans (congrArg Host.Outcome.next ((if_pos hexp).trans (halt_halts hp hx he hs))), ?_⟩
    rw [State.core_updCore_same]
    exact ⟨rfl, rfl, rfl, rfl, rfl, rfl⟩
  case kill =>
    obtain ⟨g, n, e⟩ := request_core (s := s) (c := c) 3
    let s1 := s.request c 3
    have hk1 : s1.core c = { k with grace := g, kill := n, req := 3, phase := if k.phase = 1 then 2 else k.phase } := by
      show (s.request c 3).core c = _
      rw [e, State.core_updCore_same]
    have hother : ∀ j, j ≠ c → s1.core j = s.core j := by
      intro j hj
      show (s.request c 3).core j = _
      rw [e, State.core_updCore, if_neg hj]
    have hph : (s1.core c).phase = if k.phase = 1 then 2 else k.phase := by rw [hk1]
    have hx1 : (s1.core c).task = some x := by rw [hk1]; exact hx
    have hkill : s.killRequest c = s1.killContext c :=
      (if_pos (takesReq_runs h1 h4 hr hf hs)).trans
        (killNow_kills (by rw [hph]; split <;> omega) (by rw [hph]; split <;> omega) hx1 he (by rw [hk1]; exact hs))
    obtain ⟨⟨p1, p2, p3, p4, p5, p6, p7⟩, hfail⟩ := killContext_kills hx1
    refine ⟨_, (hgo (exec_killRequest ..) ho).trans (congrArg Host.Outcome.next hkill), p1, p2, p3, p4, p5, p6,
      fun j hj => (p7 j hj).trans (hother j hj), fun y l hy => hfail y l ?_⟩
    rw [hk1]
    exact hy
  case timer =>
    have hexp : s.expired c (s.core c).kill = true := by
      rw [show (s.core c).kill = some n from hn]
      exact decide_eq_true hle
    obtain ⟨⟨p1, p2, p3, p4, p5, p6, p7⟩, hfail⟩ := killContext_kills hx
    exact ⟨_, (exec_killExpiry ..).trans (congrArg Host.Outcome.next ((if_pos hexp).trans (killNow_kills h1 h4 hx he hs))),
      p1, p2, p3, p4, p5, p6, p7, hfail⟩

end Sys2Proof.Machine
end

section
/-! PROOFS. Entry, suspension and completion of tasks (spec 16 R374-R386). -/

namespace Sys2Proof.Machine

/-! ### A read of the command processor or distributor that has been made (R234, R336) -/

/-- Only what the dies hold of reads, and the rotations, may differ. -/
structure State.Turns (s t : State) : Prop where
  rest : t = { s with dies := t.dies, rot := t.rot }
  die : ∀ e, t.die e = { s.die e with cpHeld := (t.die e).cpHeld }

section Turns
variable {s t u : State}

theorem State.Turns.refl (s : State) : s.Turns s := ⟨rfl, fun _ => rfl⟩

theorem State.Turns.trans (h : s.Turns t) (h' : t.Turns u) : s.Turns u := by
  refine ⟨?_, fun e => ?_⟩
  · have hr := h'.rest
    rw [h.rest] at hr
    exact hr
  · have hd := h'.die e
    rw [h.die e] at hd
    exact hd

theorem State.Turns.foldl {α : Type} {f : State → α → State} (hf : ∀ (s : State) (a : α), s.Turns (f s a)) :
    ∀ (l : List α) (s : State), s.Turns (l.foldl f s)
  | [], s => .refl s
  | a :: l, s => (hf s a).trans (State.Turns.foldl hf l (f s a))

theorem State.cpDrop_turns (s : State) (d : Nat) (n : Option Nat) (a : Nat) : s.Turns (s.cpDrop d n a) := by
  refine ⟨rfl, fun e => ?_⟩
  unfold State.cpDrop
  rw [State.die_updDie]
  split
  · next h => rw [h]
  · rfl

theorem State.rotate_turns (s : State) (d key : Nat) (g : Hm) : s.Turns (s.rotate d key g) := by
  obtain ⟨r, e⟩ := s.rotate_eq d key g
  rw [e]
  exact ⟨rfl, fun _ => rfl⟩

theorem State.cpTurn_turns (s : State) (d : Nat) (n : Option Nat) (a : Nat) : s.Turns (s.cpTurn d n a) := by
  unfold State.cpTurn
  split
  · exact s.cpDrop_turns d n a
  · split
    · exact (s.cpDrop_turns d n a).trans (State.rotate_turns ..)
    · exact s.cpDrop_turns d n a

theorem State.cpTurns_turns (s : State) (d : Nat) (n : Option Nat) (a m : Nat) : s.Turns (s.cpTurns d n a m) :=
  .foldl (fun s _ => s.cpTurn_turns ..) _ s

theorem State.Turns.core (h : s.Turns t) (c : Nat) : t.core c = s.core c := by rw [h.rest]; rfl
theorem State.Turns.replays (h : s.Turns t) (e : Nat) : (t.die e).replays = (s.die e).replays := by rw [h.die e]

end Turns

/-! ### The next task (R373) -/

/-- Only the next task of the core, its staging and its chunks may differ. -/
def Core.Fixes (k k' : Core) : Prop := k' = { k with nextTask := k'.nextTask, staging := k'.staging, chunks := k'.chunks }

section Fix
variable {s : State} {c : Nat}

theorem Core.Fixes.refl (k : Core) : k.Fixes k := rfl

theorem Core.Fixes.trans {k k' k'' : Core} (h : k.Fixes k') (h' : k'.Fixes k'') : k.Fixes k'' := by
  unfold Core.Fixes at h h'
  rw [h] at h'
  exact h'

theorem takeIndex_fixes {h : Held} {x : Task} {t : State} (he : s.takeIndex c h = some (x, t)) : (s.core c).Fixes (t.core c) := by
  unfold State.takeIndex at he
  split at he
  · cases he
  · cases he
    rw [State.core_updCore_same]
    exact rfl

/-- Taking a source for a core changes of it the chunks it holds. -/
theorem takeSource_fixes {src : Source1} {x : Task} {t : State} {rs : List Rec} (he : s.takeSource c src = some (x, t, rs)) :
    (s.core c).Fixes (t.core c) := by
  unfold State.takeSource at he
  cases src with
  | brick i =>
    dsimp only at he
    split at he
    · cases he
    · cases he
      exact .refl _
  | held i =>
    dsimp only at he
    split at he
    · cases he
    · split at he
      · cases he
      · next r hr =>
        cases he
        have h1 : (s.core c).Fixes ((s.updCore c (fun k => { k with chunks := k.chunks.eraseIdx i })).core c) := by
          rw [State.core_updCore_same]
          exact rfl
        exact h1.trans (takeIndex_fixes (x := r.1) hr)
  | freed i =>
    dsimp only at he
    split at he
    · cases he
    · split at he
      · cases he
      · next r hr =>
        cases he
        have h1 := takeIndex_fixes (x := r.1) hr
        exact h1
  | chunk slot j k =>
    dsimp only at he
    split at he
    · cases he
    · next l _ =>
      split at he
      · cases he
      · split at he
        · cases he
        · next r hr =>
          cases he
          have h1 : (s.openChunk (dieOf c) slot l j k).core c = s.core c := by
            unfold State.core
            rw [(openChunk_frame ..).1]
          exact h1 ▸ takeIndex_fixes (x := r.1) hr

theorem loggedToken_core (d n : Nat) : (s.loggedToken d n).core c = s.core c := by
  unfold State.loggedToken
  split
  · rfl
  · split <;> rfl

theorem fixFrom_fixes {n : Nat} {src : Source1} {t : State} {rs : List Rec} (he : s.fixFrom c n src = some (t, rs)) :
    (s.core c).Fixes (t.core c) := by
  unfold State.fixFrom at he
  extract_lets d s0 at he
  have h0 : s0.core c = s.core c := by
    show (match src with
      | .brick _ => s
      | _ => s.loggedToken d n).core c = s.core c
    split
    · rfl
    · exact loggedToken_core d n
  split at he
  · cases he
  · next x s1 rs' hs =>
    cases he
    rw [State.core_updCore_same]
    exact (h0 ▸ takeSource_fixes hs).trans rfl

/-- Where no replay or capture is on, the first of several choices is made. -/
theorem choose_unlogged {d n : Nat} (h : ∀ m, Sparse.get none m (s.die d).replays = none) (x : State × List Rec)
    (cs : List (Option (State × List Rec))) : s.choose d n (some x :: cs) = .go x.1 := by
  unfold State.choose State.replaying
  rw [h n]
  dsimp only
  unfold State.logging
  rw [h n]

/-- With no choice that can be made first, it waits. -/
theorem choose_waits {d n : Nat} (h : ∀ m, Sparse.get none m (s.die d).replays = none) {cs : List (Option (State × List Rec))}
    (hc : ∀ x l, cs ≠ some x :: l) : s.choose d n cs = .wait := by
  unfold State.choose State.replaying
  rw [h n]
  dsimp only
  split
  · next x l => exact absurd rfl (hc x l)
  · rfl

theorem fixNext_fixes (h : ∀ m, Sparse.get none m (s.die (dieOf c)).replays = none) : (s.core c).Fixes ((s.after (s.fixNext c)).core c) := by
  unfold State.fixNext
  split
  · exact .refl _
  · next n _ =>
    cases hs : s.sources c with
    | nil =>
      have hw : s.choose (dieOf c) n [] = .wait := choose_waits h fun x l e => nomatch e
      rw [List.map_nil, hw]
      exact .refl _
    | cons src l =>
      rw [List.map_cons]
      cases hf : s.fixFrom c n src with
      | none =>
        have hw : s.choose (dieOf c) n (none :: l.map (s.fixFrom c n)) = .wait := choose_waits h fun x l e => nomatch (List.cons.inj e).1
        rw [hw]
        exact .refl _
      | some x =>
        rw [choose_unlogged h]
        have h1 := fixFrom_fixes (t := x.1) (rs := x.2) hf
        exact h1

end Fix

/-! ### Task entry (R374, R381) -/

section Enter
variable (k : Core) (g : Hm) (t : Task) (n : Node)

theorem Core.putSpdata_spm (m v : Nat) : ∃ sp, k.putSpdata g m v = { k with spm := sp } := by
  unfold Core.putSpdata
  refine List.foldlRecOn (motive := fun x : Core => ∃ sp, x = { k with spm := sp }) _ _ ⟨k.spm, rfl⟩ ?_
  rintro x ⟨sp, rfl⟩ i -
  exact ⟨_, rfl⟩

/-- Words put at distinct keys, in a list's order, are found there. -/
theorem get_foldl_put_zipIdx {α β : Type} [DecidableEq β] {z : β} (key : α → Nat) (val : α → Nat → β) : ∀ (l : List α) (i : Nat) (m : Sparse β),
    (∀ r, (∀ a ∈ l, key a ≠ r) → Sparse.get z r ((l.zipIdx i).foldl (fun m p => Sparse.put z (key p.1) (val p.1 p.2) m) m) = Sparse.get z r m)
    ∧ (allDistinct (l.map key) = true → ∀ p a, l[p]? = some a →
      Sparse.get z (key a) ((l.zipIdx i).foldl (fun m p => Sparse.put z (key p.1) (val p.1 p.2) m) m) = val a (i + p))
  | [], i, m => ⟨fun _ _ => rfl, fun _ p a h => by cases h⟩
  | b :: l, i, m => by
    obtain ⟨h1, h2⟩ := get_foldl_put_zipIdx key val l (i + 1) (Sparse.put z (key b) (val b i) m)
    rw [List.zipIdx_cons, List.foldl_cons]
    refine ⟨fun r hr => ?_, fun hd p a hp => ?_⟩
    · rw [h1 r fun a ha => hr a (List.mem_cons_of_mem _ ha), Sparse.get_put_other (hr b List.mem_cons_self).symm]
    · rw [List.map_cons, allDistinct, Bool.and_eq_true, Bool.not_eq_true'] at hd
      cases p with
      | zero =>
        cases hp
        rw [h1, Sparse.get_put_same, Nat.add_zero]
        intro a' ha' e
        have : (l.map key).contains (key b) = true := List.contains_iff_mem.2 (List.mem_map.2 ⟨a', ha', e⟩)
        rw [hd.1] at this
        cases this
      | succ p =>
        rw [h2 hd.2 p a hp, Nat.add_right_comm]
        rfl

/-- s62 holds the address of the memory that is the task's own. -/
theorem entryRegs_private : Sparse.get {} 62 (entryRegs g t n) = ⟨n.privb + BitVec.ofNat 64 (t.index * n.privs), g⟩ := by
  unfold entryRegs
  extract_lets m0 m1
  have h1 : Sparse.get {} 62 m1 = ⟨n.privb + BitVec.ofNat 64 (t.index * n.privs), g⟩ := Sparse.get_put_same
  split
  · exact h1
  · next b _ =>
    rw [← h1]
    refine List.foldlRecOn (motive := fun m => Sparse.get {} 62 m = Sparse.get {} 62 m1) (List.range 6) _ rfl fun m hm i hi => ?_
    have := List.mem_range.1 hi
    rw [Sparse.get_put_other (by omega), hm]

/-- A fresh task's parameters are in their registers. -/
theorem entryRegs_param (hb : t.brick = none) {p r : Nat} {y : Bool} {v : W64} (hp : n.img.params[p]? = some (r, y, v))
    (hd : allDistinct (n.img.params.map (·.1)) = true) (hr : r ≠ 62) :
    Sparse.get {} r (entryRegs g t n) = ⟨if p < n.narg then n.args.getD p 0 else v, g⟩ := by
  unfold entryRegs
  rw [hb]
  dsimp only
  rw [Sparse.get_put_other hr]
  have h := (get_foldl_put_zipIdx (z := ({} : HReg)) (fun p : Nat × Bool × W64 => p.1)
    (fun p i => ⟨if i < n.narg then n.args.getD i 0 else p.2.2, g⟩) n.img.params 0 []).2 hd p (r, y, v) hp
  rw [Nat.zero_add] at h
  exact h

/-- A resumed task has s1-s6 of its brick. -/
theorem entryRegs_brick {b : List W64 × W64} (hb : t.brick = some b) {i : Nat} (hi : i < 6) :
    Sparse.get {} (i + 1) (entryRegs g t n) = ⟨b.1.getD i 0, g⟩ := by
  unfold entryRegs
  rw [hb]
  dsimp only
  generalize Sparse.put ({} : HReg) 62 _ _ = m1
  have h : ∀ m ≤ 6, i < m → Sparse.get {} (i + 1) ((List.range m).foldl (fun m i => Sparse.put {} (i + 1) (⟨b.1.getD i 0, g⟩ : HReg) m) m1)
      = ⟨b.1.getD i 0, g⟩ := by
    intro m
    induction m with
    | zero => exact fun _ h => absurd h (Nat.not_lt_zero i)
    | succ m ih =>
      intro hm hlt
      rw [List.range_succ, List.foldl_append, List.foldl_cons, List.foldl_nil, Sparse.get_put]
      split
      · next e => rw [show i = m by omega]
      · next e => exact ih (by omega) (by omega)
  exact h 6 le_rfl hi

/-- What the entry of a task leaves of its core. -/
def Core.Entered (k : Core) (g : Hm) (t : Task) (n : Node) : Prop :=
  k.phase = 1 ∧ k.lvl = false ∧ k.ctxGen = g ∧ k.preds = [] ∧ k.lq = [] ∧ k.pend = [] ∧ k.csr.vcyc = 0
    ∧ k.csr.rndseed = BitVec.ofNat 64 t.index ∧ k.task = some { t with ending := .no, brick := none }
    ∧ k.sregs = entryRegs g t n ∧ Sparse.get {} 62 (entryRegs g t n) = ⟨n.privb + BitVec.ofNat 64 (t.index * n.privs), g⟩
    ∧ (match t.brick with
      | none => k.csr.stat = 0
        ∧ k.pc = BitVec.ofNat 48 (n.image.toNat + n.img.texto + n.img.entry)
        ∧ ∀ (p r : Nat) (y : Bool) (v : W64), n.img.params[p]? = some (r, y, v) → allDistinct (n.img.params.map (·.1)) = true →
          r ≠ 62 → Sparse.get {} r k.sregs = ⟨if p < n.narg then n.args.getD p 0 else v, g⟩
      | some b => k.csr.stat = b.2 &&& 3 ∧ k.pc = b.2.setWidth 48 &&& ~~~15
        ∧ ∀ i < 6, Sparse.get {} (i + 1) k.sregs = ⟨b.1.getD i 0, g⟩)

theorem Core.enterTask_entered : (k.enterTask g t n).Entered g t n := by
  refine ⟨rfl, rfl, rfl, rfl, rfl, rfl, rfl, rfl, rfl, rfl, entryRegs_private g t n, ?_⟩
  unfold Core.enterTask
  cases hb : t.brick with
  | none => exact ⟨rfl, rfl, fun p r y v hp hd hr => entryRegs_param g t n hb hp hd hr⟩
  | some b => exact ⟨rfl, rfl, fun i hi => entryRegs_brick g t n hb hi⟩

variable {k g t n}

theorem Core.Fixes.entered {k' : Core} (h : k.Fixes k') (he : k.Entered g t n) : k'.Entered g t n := by
  unfold Core.Fixes at h
  rw [h]
  exact he

end Enter

section Tasks
variable {s : State} {c : Nat} {t : Task} {l : Launch} {n : Node}

theorem nodeOfTask_some {d : Nat} (hl : s.launchAt d t.slot t.lid = some l) (hn : l.nodes[t.node]? = some n) :
    s.nodeOfTask d t = some n := by
  unfold State.nodeOfTask
  rw [hl]
  exact hn

/-- A fresh task enters its core (R374). -/
theorem taskStart_enters (hi : s.coreIdle c = true) (hl : s.launchAt (dieOf c) t.slot t.lid = some l) (hn : l.nodes[t.node]? = some n)
    (hr : ∀ x, Sparse.get none x (s.die (dieOf c)).replays = none) (ho : (s.core c).own = none) (ht : (s.core c).nextTask = some t)
    (hb : t.brick = none) (hst : ∀ r ∈ (s.core c).staging, r.op ≠ none) {v : Nat}
    (hv : s.imageRun (dieOf c) l.ten (n.img.spdn / 64 + 2) (n.image.toNat + n.img.spdo) n.img.spdn = .ok v) :
    ∃ u, exec (.taskStart c) s = .next u ∧ (u.core c).Entered (s.genOn (dieOf c) l.ten) t n := by
  let g := s.genOn (dieOf c) l.ten
  let s0 := s.cpTurns (dieOf c) (some l.ten) (n.image.toNat + n.img.spdo) n.img.spdn
  let s1 := (s0.updCore c (fun k => (k.enterTask g t n).putSpdata g n.img.spdn v)).interrupt (dieOf c) 0
  have hturn : s.Turns s0 := s.cpTurns_turns ..
  have hrep : (s0.updCore c (fun k => (k.enterTask g t n).putSpdata g n.img.spdn v)).Reports s1 := State.interrupt_reports ..
  have hx : exec (.taskStart c) s = .next (s1.after (s1.fixNext c)) := by
    refine (exec_taskStart ..).trans ?_
    have hst' : (s.core c).staging.any (fun r => r.op.isNone) = false :=
      List.any_eq_false.2 fun r hm => by rw [Option.isNone_iff_eq_none]; exact hst r hm
    have henter : s.enter c t l n = some s1 := by
      unfold State.enter
      rw [hb]
      dsimp only
      rw [if_neg (by decide), hv]
    unfold execTaskStart
    dsimp only
    rw [hi, ho, ht]
    dsimp only
    rw [if_neg (by decide), hb, if_neg (by decide), hl, nodeOfTask_some hl hn]
    dsimp only
    rw [hst', henter]
    rfl
  have hs1 : ∀ m, Sparse.get none m (s1.die (dieOf c)).replays = none := by
    intro m
    rw [hrep.die, State.die_updCore, hturn.die]
    exact hr m
  have hcore : s1.core c = ((s0.core c).enterTask g t n).putSpdata g n.img.spdn v := by
    unfold State.core
    rw [hrep.cores]
    exact State.core_updCore_same ..
  obtain ⟨sp, e⟩ := ((s0.core c).enterTask g t n).putSpdata_spm g n.img.spdn v
  refine ⟨_, hx, (fixNext_fixes hs1).entered ?_⟩
  rw [hcore, e]
  exact (s0.core c).enterTask_entered g t n

/-- A brick is resumed on its core (R381). -/
theorem brickResume_enters (hi : s.coreIdle c = true) (hl : s.launchAt (dieOf c) t.slot t.lid = some l) (hn : l.nodes[t.node]? = some n)
    (hr : ∀ x, Sparse.get none x (s.die (dieOf c)).replays = none)
    (ht : (s.core c).own = some t ∨ (s.core c).own = none ∧ (s.core c).nextTask = some t) (hb : t.brick ≠ none) :
    ∃ u, exec (.brickResume c) s = .next u ∧ (u.core c).Entered (s.genOn (dieOf c) l.ten) t n := by
  let g := s.genOn (dieOf c) l.ten
  let s0 := (s.updCore c (fun k => k.enterTask g t n)).interrupt (dieOf c) 0
  let next := if (s.core c).own.isSome then (s.core c).nextTask else none
  let s1 := s0.updCore c (fun k => { k with nextTask := next })
  have hrep : (s.updCore c (fun k => k.enterTask g t n)).Reports s0 := State.interrupt_reports ..
  have htask : (if (s.core c).own.isSome then (s.core c).own else (s.core c).nextTask) = some t := by
    rcases ht with e | ⟨e, e'⟩
    · rw [e]
      rfl
    · rw [e, e']
      rfl
  have henter : s.enter c t l n = some s0 := by
    unfold State.enter
    rw [Option.isSome_iff_ne_none.2 hb]
    rfl
  have hx : exec (.brickResume c) s = .next (if next.isSome then s1 else s1.after (s1.fixNext c)) := by
    refine (exec_brickResume ..).trans ?_
    unfold execBrickResume
    dsimp only
    rw [hi, htask]
    dsimp only
    rw [if_neg (by decide), if_neg (by rw [Option.isNone_iff_eq_none]; exact hb), hl, nodeOfTask_some hl hn]
    dsimp only
    rw [henter]
    dsimp only
    unfold State.logging
    rw [hr l.ten]
    rfl
  have hs1 : ∀ m, Sparse.get none m (s1.die (dieOf c)).replays = none := by
    intro m
    show Sparse.get none m (s0.die (dieOf c)).replays = none
    rw [hrep.die, State.die_updCore]
    exact hr m
  have hcore : s1.core c = { (s.core c).enterTask g t n with nextTask := next } := by
    refine (State.core_updCore_same ..).trans ?_
    unfold State.core
    rw [hrep.cores]
    exact congrArg (fun k : Core => { k with nextTask := next }) (State.core_updCore_same ..)
  have hent : (s1.core c).Entered g t n := by
    rw [hcore]
    exact (s.core c).enterTask_entered g t n
  refine ⟨_, hx, ?_⟩
  split
  · exact hent
  · exact (fixNext_fixes hs1).entered hent

/-! ### The end of a task (R378, R379, R383) -/

/-- A task that has ended and drained leaves its core. -/
theorem taskComplete_leaves (ht : (s.core c).task = some t) (he : t.ending ≠ .no) (hd : s.taskDrained c = true) (hp : (s.core c).phase ≠ 2) :
    exec (.taskComplete c) s = .next (s.taskLeaves c t) := by
  refine (exec_taskComplete ..).trans ?_
  unfold execTaskComplete
  rw [ht]
  dsimp only
  rw [if_neg (by rw [hd, decide_eq_false he]; decide), if_neg hp]
  rfl

/-- One that suspended leaves a brick under its tenancy's current incarnation. -/
theorem leaveBrick_leaves {a b : W64} {m : Nat} (hten : (s.core c).ten = some m) (hbr : (s.die (dieOf c)).bricks.length < 4096)
    (hst : s.launchStands (dieOf c) t = true)
    (hq : ((s.die (dieOf c)).bricks.filter (fun y => y.ten == m)).length < Sparse.get 4096 m (s.die (dieOf c)).quota) :
    s.leaveBrick c t a b = (s.updCore c Core.rest).updDie (dieOf c) (fun x => { x with bricks := x.bricks ++
      [s.brickFor (dieOf c) m { t with brick := some (s.brickOf c), ending := .no } a b (a == 0)] }) := by
  unfold State.leaveBrick
  dsimp only
  rw [hst, hten, Option.getD_some, decide_eq_false (not_le.2 hq), decide_eq_false (not_le.2 hbr)]
  rfl

end Tasks

/-- Settles O37: entry by enterTask_entered, what follows it changing the next task alone; the end of a task by
taskComplete_leaves. -/
theorem tasksStartAndComplete : Obligations.TasksStartAndComplete := by
  intro s c k d
  refine ⟨fun t l n hi hl hn hr => ⟨fun ho ht hb hst v hv => ?start, fun ht hb => ?resume⟩, fun e i b v hb hrd hten hv hne => ?ready,
    fun t ht hd hp => ⟨fun he => ?ended, fun he => ?abandoned, fun a b n he hten hbr hst hq => ?suspended⟩,
    fun t slot j n l hten hpick hl hhome hheld hreach hr => ?claim, fun e slot l v hl hj hv => ?follower⟩
  case start => exact taskStart_enters hi hl hn hr ho ht hb hst hv
  case resume => exact brickResume_enters hi hl hn hr ht hb
  case ready =>
    refine (exec_brickReady ..).trans ?_
    unfold execBrickReady
    rw [hb]
    dsimp only
    rw [if_neg (by rw [hrd, hten]; decide), hv]
    exact if_neg hne
  case ended =>
    refine (taskComplete_leaves ht (by rw [he]; decide) hd hp).trans (congrArg Host.Outcome.next ?_)
    unfold State.taskLeaves
    rw [he]
  case abandoned =>
    refine (taskComplete_leaves ht (by rw [he]; decide) hd hp).trans (congrArg Host.Outcome.next ?_)
    unfold State.taskLeaves
    rw [he]
  case suspended =>
    refine (taskComplete_leaves ht (by rw [he]; exact nofun) hd hp).trans (congrArg Host.Outcome.next ?_)
    unfold State.taskLeaves
    rw [he]
    exact leaveBrick_leaves hten hbr hst hq
  case claim =>
    refine (exec_chunkClaim ..).trans ?_
    unfold execChunkClaim
    rw [show (s.core c).ten = some t from hten]
    dsimp only
    obtain ⟨rest, hs⟩ : ∃ rest, s.sources c = .chunk slot j n :: rest := by
      unfold State.pick at hpick
      cases hs : s.sources c with
      | nil =>
        rw [hs] at hpick
        cases hpick
      | cons x rest =>
        rw [hs] at hpick
        cases hpick
        exact ⟨rest, rfl⟩
    have hclaim : s.claimChunk c (.chunk slot j n) = some ((s.openChunk d slot l j n).updCore c (fun x => { x with
        chunks := ⟨slot, l.id, j, n, l.indices j n⟩ :: x.chunks }), [{ kind := 5, slot := slot, node := j, index := n },
          { kind := 1, core := c % 64, slot := slot, node := j, index := n }]) := by
      unfold State.claimChunk
      dsimp only
      rw [show (s.die (dieOf c)).launch slot = some l from hl]
      dsimp only
      rw [if_neg (by rw [hheld, decide_eq_false hhome, show s.reaches (dieOf c) l.home = true from hreach]; decide)]
    rw [hs, List.map_cons, hclaim, choose_unlogged hr]
    rfl
  case follower =>
    refine (exec_followerLaunch ..).trans ?_
    unfold execFollowerLaunch
    rw [hl]
    dsimp only
    rw [hj, hv]
    rfl

end Sys2Proof.Machine
end

section
/-! PROOFS. Packets of a command queue, and how a queue moves on (spec 16 R361-R367, spec 14 R339, spec 15 R353). -/

namespace Sys2Proof.Machine

section Start
variable {s : State}

/-- A packet that may start is carried out; an ordered one, once no launch of its queue is in flight (R363). -/
theorem packetMeaning_starts {ordered : Bool} {f : State → Nat → Nat → Queue → State}
    (hl : s.queueLive s.cur.die s.cur.queue = true) (hw : (s.queue s.cur.die s.cur.queue).wait = .no)
    (hs : (s.queue s.cur.die s.cur.queue).skip = none) (ho : ordered = true → s.inFlightOf s.cur.die s.cur.queue = 0) :
    packetMeaning ordered f s = .next (f s s.cur.die s.cur.queue (s.queue s.cur.die s.cur.queue)) := by
  refine if_neg ?_
  rw [hl, hw, hs]
  cases ordered with
  | false =>
    rw [Bool.false_and]
    decide
  | true =>
    rw [ho rfl]
    decide

end Start

section Queues
variable {s : State} {d q : Nat}

theorem State.Turns.queue {t : State} (h : s.Turns t) (d q : Nat) : t.queue d q = s.queue d q := by
  unfold State.queue
  rw [h.die d]

/-- The queue at hand is the one that a change of it reads. -/
theorem updQueue_congr {f g : Queue → Queue} (h : f (s.queue d q) = g (s.queue d q)) : s.updQueue d q f = s.updQueue d q g := by
  unfold State.updQueue State.updDie
  refine congrArg (fun y : Die => { s with dies := Sparse.put {} d y s.dies }) ?_
  exact congrArg (fun y : Queue => { s.die d with queues := Sparse.put {} q y (s.die d).queues }) h

theorem consume_congr {f g : Queue → Queue} (h : ∀ y, f y = g y) : s.consume d q f = s.consume d q g := by
  rw [funext h]

/-- A packet's read that can be made is made, and the packet goes on with its word (R365). -/
theorem reading_ok {a w : W64} {n : Nat} (h : s.operandRead d q a n = .ok w) (f : State → W64 → State) :
    s.reading d q a n f = f (s.cpTurn d ((s.queue d q).owner q) a.toNat) w := by
  unfold State.reading
  rw [h]

section Unlogged
variable (hr : ∀ t, Sparse.get none t (s.die d).replays = none)
include hr

theorem queueDecision_unlogged (r : Rec) (t : State) : s.queueDecision d q r t = t := by
  unfold State.queueDecision State.logging
  split
  · rfl
  · next m _ =>
    rw [hr m]
    rfl

theorem loggedResult_unlogged (b : Bool) : s.loggedResult d q b = b := by
  unfold State.loggedResult State.replaying
  split
  · rfl
  · next m _ =>
    rw [hr m]
    rfl

theorem loggedTail_unlogged (n : W64) : s.loggedTail d q n = some n := by
  unfold State.loggedTail State.replaying
  dsimp only
  split
  · rfl
  · next m _ =>
    rw [hr m]

end Unlogged

/-! ### Launches -/

theorem freeSlots {ds : List Nat} (h : ∀ e ∈ ds, ∃ n < 16, (s.die e).launch n = none) :
    ds.any (fun e => (s.die e).freeSlot.isNone) = false := by
  refine List.any_eq_false.2 fun e he => ?_
  obtain ⟨n, hn, hl⟩ := h e he
  unfold Die.freeSlot
  rw [Option.isNone_iff_eq_none, List.find?_eq_none]
  intro hall
  exact hall n (List.mem_range.2 hn) (by rw [hl]; rfl)

theorem launchPacket_launches {x : Queue} {m : Byte} {r : W64} {inda : Option W64} {t : Nat} {l : Launch} (ho : x.owner q = some t)
    (hf : s.inFlightOf d q < 16) (hfree : ∀ e ∈ launchDies m d, ∃ n < 16, (s.die e).launch n = none)
    (hl : s.launchOf d q t m r inda = .ok l) : s.launchPacket d q x m r inda =
      ((s.cpTurns d (some t) r.toNat (64 + 192 * l.nodes.length)).startLaunch (launchDies m d) { l with packet := x.pos.toNat }).consume
        d q id := by
  unfold State.launchPacket
  rw [ho]
  dsimp only
  rw [if_neg (not_le.2 hf), hl]
  dsimp only
  rw [freeSlots hfree]
  exact if_neg Bool.false_ne_true

/-! ### The head word (R362) -/

section Head
variable {g : Target}

/-- The queue past its packet, outside loops and sub-streams. -/
theorem queue_goto (hsubs : (s.queue d q).subs = []) :
    (s.updQueue d q (fun y => y.goto (y.place + 1))).queue d q = { s.queue d q with pos := (s.queue d q).pos + 1 } := by
  have hq : (s.updQueue d q (fun y => y.goto (y.place + 1))).queue d q = (s.queue d q).goto ((s.queue d q).place + 1) := by
    unfold State.queue State.updQueue
    rw [State.die_updDie_same]
    exact Sparse.get_upd_same (d := ({} : Queue)) (f := fun y => y.goto (y.place + 1))
  have hplace : (s.queue d q).place = (s.queue d q).pos.toNat := by
    unfold Queue.place
    rw [hsubs]
  have hgoto : ∀ n, (s.queue d q).goto n = { s.queue d q with pos := BitVec.ofNat 64 n } := by
    intro n
    unfold Queue.goto
    split
    · rfl
    · next h => rw [hsubs] at h; cases h
  have hpos : BitVec.ofNat 64 ((s.queue d q).pos.toNat + 1) = (s.queue d q).pos + 1 := by
    apply BitVec.eq_of_toNat_eq
    rw [BitVec.toNat_ofNat, BitVec.toNat_add]
    rfl
  rw [hq, hplace, hgoto, hpos]

theorem cpDrained_updQueue (f : Queue → Queue) (h : Hm) : (s.updQueue d q f).cpDrained d h = s.cpDrained d h := by
  unfold State.cpDrained State.updQueue
  rw [State.die_updDie_same]

/-- What the head word does as a packet outside loops is consumed. -/
theorem consume_head (hsubs : (s.queue d q).subs = []) (hloops : (s.queue d q).loops = []) :
    let s1 := s.updQueue d q (fun y => y.goto (y.place + 1))
    let x := s.queue d q
    s.consume d q id = if x.pos + 1 = x.head || !s.cpDrained d (s.queueGen d q) then s1
      else match (s1.updQueue d q (fun y => { y with head := x.pos + 1 })).homeWrite d (x.owner q) x.heada.toNat 8 (x.pos + 1).toNat with
        | .ok s2 => s2
        | .error f => if f = 0 || x.fault.getLsbD 8 then s1 else s1.streamFault d q 5 := by
  intro s1 x
  have hq : s1.queue d q = { x with pos := x.pos + 1 } := queue_goto hsubs
  have hnow : (s1.queue d q).headNow = x.pos + 1 := by
    rw [hq]
    unfold Queue.headNow
    rw [show ({ x with pos := x.pos + 1 } : Queue).loops = [] from hloops]
    rfl
  have hgen : s1.queueGen d q = s.queueGen d q := by
    unfold State.queueGen
    rw [hq]
    rfl
  have hdr : s1.cpDrained d (s.queueGen d q) = s.cpDrained d (s.queueGen d q) := cpDrained_updQueue ..
  show s1.putHead d q = _
  unfold State.putHead
  dsimp only
  rw [hnow, hgen, hdr, hq]
  rfl

end Head

theorem cpStore_stores {t : Option Nat} {a : W64} {n v sc : Nat} {g : Target} (h : s.translateCp d t a .write = .ok g) :
    ∃ u, s.cpStore d t a n v sc = .ok u ∧ u.mem = s.mem ∧ u.cores = s.cores ∧ (u.die d).op = (s.die d).op ++
      [{ wid := s.nextWid, core := 512 + d, gen := s.cpGen d t, tgt := g, size := n, data := BitVec.ofNat 1024 v, scope := sc }] := by
  unfold State.cpStore
  rw [h]
  refine ⟨_, rfl, rfl, rfl, ?_⟩
  unfold State.die
  exact congrArg Die.op (Sparse.get_put_same ..)

/-- A queue reads its tail word again (R362). -/
theorem tailRead_reads (hl : s.queueLive d q = true) (hb : (s.queue d q).begun = true) (hquiet : (s.queue d q).quiet = false)
    (hr : ∀ t, Sparse.get none t (s.die d).replays = none) {n : W64} (hn : s.operandRead d q (s.queue d q).taila 8 = .ok n)
    (hle : (n - (s.queue d q).head).toNat ≤ 2 ^ (s.queue d q).size) : exec (.tailRead d q) s = .next
      ((s.cpTurn d ((s.queue d q).owner q) (s.queue d q).taila.toNat).updQueue d q (fun y => { y with tail := n, quiet := false })) := by
  have hturn := s.cpTurn_turns d ((s.queue d q).owner q) (s.queue d q).taila.toNat
  have hr' : ∀ t, Sparse.get none t ((s.cpTurn d ((s.queue d q).owner q) (s.queue d q).taila.toNat).die d).replays = none := by
    rw [hturn.replays]
    exact hr
  have hheard : s.tailHeard d q (s.queue d q) = true := by
    unfold State.tailHeard
    rw [hquiet]
    rfl
  refine (exec_tailRead ..).trans ?_
  unfold execTailRead
  dsimp only
  rw [hl, hb, hheard, if_neg (by decide), reading_ok hn]
  rw [if_neg (not_lt.2 hle), loggedTail_unlogged hr']
  dsimp only
  rw [queueDecision_unlogged hr', ite_self]
  rfl

/-- A waiting WAITMEM ends once its word satisfies it (R364). -/
theorem waitmemReread_ends {op : Nat} {a v m w : W64} (hw : (s.queue d q).wait = .mem op a v m) (hl : s.queueLive d q = true)
    (hread : s.operandRead d q a 8 = .ok w) (hr : ∀ t, Sparse.get none t (s.die d).replays = none) (hh : waitHolds op w v m = true) :
    exec (.waitmemReread d q) s = .next
      ((s.cpTurn d ((s.queue d q).owner q) a.toNat).updQueue d q (fun y => { y with wait := .no })) := by
  have hr' : ∀ t, Sparse.get none t ((s.cpTurn d ((s.queue d q).owner q) a.toNat).die d).replays = none := by
    rw [(s.cpTurn_turns d ((s.queue d q).owner q) a.toNat).replays]
    exact hr
  refine (exec_waitmemReread ..).trans ?_
  unfold execWaitmemReread
  rw [hw]
  dsimp only
  rw [hl, if_neg (by decide), reading_ok hread]
  rw [hh, if_pos rfl, queueDecision_unlogged hr']
  rfl

end Queues

/-! ### Packets (R362-R366, R339, R353) -/

section Packets
variable {s : State} (hl : s.queueLive s.cur.die s.cur.queue = true) (hw : (s.queue s.cur.die s.cur.queue).wait = .no)
  (hs : (s.queue s.cur.die s.cur.queue).skip = none)
include hl hw hs

/-- A packet that waits for nothing. -/
theorem packet_runs {i : Instr} {f : State → Nat → Nat → Queue → State} {t : State} (hi : exec i s = packetMeaning false f s)
    (hf : f s s.cur.die s.cur.queue (s.queue s.cur.die s.cur.queue) = t) : exec i s = .next t :=
  hi.trans ((packetMeaning_starts (ordered := false) hl hw hs fun h => Bool.noConfusion h).trans (congrArg Host.Outcome.next hf))

/-- An ordered packet. -/
theorem packet_orders {i : Instr} {f : State → Nat → Nat → Queue → State} {t : State} (ho : s.inFlightOf s.cur.die s.cur.queue = 0)
    (hi : exec i s = packetMeaning true f s) (hf : f s s.cur.die s.cur.queue (s.queue s.cur.die s.cur.queue) = t) :
    exec i s = .next t :=
  hi.trans ((packetMeaning_starts hl hw hs fun _ => ho).trans (congrArg Host.Outcome.next hf))

/-- LOOP opens a loop, or skips to its end (R364). -/
theorem loopPacket_loops (hn : (s.queue s.cur.die s.cur.queue).loops.length < 4) (c : W64) :
    let x := s.queue s.cur.die s.cur.queue
    let goes := fun (u : State) (v : W64) => u.consume s.cur.die s.cur.queue (fun y =>
      if v.toNat % 2 ^ 32 = 0 then { y with skip := some (true, 0) }
      else { y with loops := ⟨x.subs.length, x.place + 1, v.toNat % 2 ^ 32⟩ :: y.loops })
    exec (.loopPacket 0 c) s = .next (goes s c)
    ∧ ∀ v, s.operandRead s.cur.die s.cur.queue c 4 = .ok v →
      exec (.loopPacket 1 c) s = .next (goes (s.cpTurn s.cur.die (x.owner s.cur.queue) c.toNat) v) := by
  intro x goes
  have hgo : ∀ (u : State) (v : W64), (if v.toNat % 2 ^ 32 = 0 then u.consume s.cur.die s.cur.queue (fun x => { x with skip := some (true, 0) })
      else u.consume s.cur.die s.cur.queue (fun y => { y with loops := ⟨x.subs.length, x.place + 1, v.toNat % 2 ^ 32⟩ :: y.loops }))
      = goes u v := by
    intro u v
    split
    · next h => exact consume_congr fun y => (if_pos h).symm
    · next h => exact consume_congr fun y => (if_neg h).symm
  refine ⟨packet_runs hl hw hs (exec_loopPacket ..) ?_, fun v hv => packet_runs hl hw hs (exec_loopPacket ..) ?_⟩
  · dsimp only
    rw [if_neg (not_le.2 hn), if_neg (by decide)]
    exact hgo s c
  · dsimp only
    rw [if_neg (not_le.2 hn), if_pos (show (1 : BitVec 1) = 1#1 from rfl), reading_ok hv]
    exact hgo _ v

/-- IFEQ and IFNE open a block, or skip to its end (R366). -/
theorem condition_decides {i : Instr} {eq : Bool} {a v m w : W64} (hi : exec i s = condition eq a v m s)
    (ho : s.inFlightOf s.cur.die s.cur.queue = 0) (hread : s.operandRead s.cur.die s.cur.queue a 8 = .ok w)
    (hr : ∀ t, Sparse.get none t (s.die s.cur.die).replays = none) (hn : (s.queue s.cur.die s.cur.queue).blocks.length < 8) :
    let x := s.queue s.cur.die s.cur.queue
    exec i s = .next ((s.cpTurn s.cur.die (x.owner s.cur.queue) a.toNat).consume s.cur.die s.cur.queue (fun y =>
      if ((w &&& m == v) == eq) = true then { y with blocks := ⟨x.subs.length, 0, 0⟩ :: y.blocks }
      else { y with skip := some (false, 0) })) := by
  intro x
  have hr' : ∀ t, Sparse.get none t ((s.cpTurn s.cur.die (x.owner s.cur.queue) a.toNat).die s.cur.die).replays = none := by
    rw [(s.cpTurn_turns s.cur.die (x.owner s.cur.queue) a.toNat).replays]
    exact hr
  refine packet_orders hl hw hs ho (hi.trans (by unfold condition; rfl)) ?_
  rw [if_neg (not_le.2 hn), reading_ok hread]
  dsimp only
  rw [loggedResult_unlogged hr', queueDecision_unlogged hr']

/-- WAITMEM goes on, or waits (R364). -/
theorem waitmem_waits {op : BitVec 2} {a v m w : W64} (ho : s.inFlightOf s.cur.die s.cur.queue = 0)
    (hread : s.operandRead s.cur.die s.cur.queue a 8 = .ok w) (hr : ∀ t, Sparse.get none t (s.die s.cur.die).replays = none) :
    exec (.waitmem op a v m) s = .next ((s.cpTurn s.cur.die ((s.queue s.cur.die s.cur.queue).owner s.cur.queue) a.toNat).consume
      s.cur.die s.cur.queue (fun y => if waitHolds op.toNat w v m = true then y else { y with wait := .mem op.toNat a v m })) := by
  have hr' : ∀ t, Sparse.get none t ((s.cpTurn s.cur.die ((s.queue s.cur.die s.cur.queue).owner s.cur.queue) a.toNat).die
      s.cur.die).replays = none := by
    rw [(s.cpTurn_turns s.cur.die ((s.queue s.cur.die s.cur.queue).owner s.cur.queue) a.toNat).replays]
    exact hr
  refine packet_orders hl hw hs ho (exec_waitmem ..) ?_
  rw [reading_ok hread]
  split
  · rw [queueDecision_unlogged hr']
    exact consume_congr fun y => rfl
  · exact consume_congr fun y => rfl

end Packets

/-- WAITMEM's comparison by its OP. -/
theorem waitHolds_iff (op : BitVec 2) (w v m : W64) : waitHolds op.toNat w v m = true ↔
    (op = 0 ∧ w &&& m = v) ∨ (op = 1 ∧ w &&& m ≠ v) ∨ (2 ≤ op.toNat ∧ v.toNat ≤ (w &&& m).toNat) := by
  have h4 := op.isLt
  have h0 : op = 0 ↔ op.toNat = 0 := ⟨fun h => by rw [h]; rfl, fun h => BitVec.eq_of_toNat_eq h⟩
  have h1 : op = 1 ↔ op.toNat = 1 := ⟨fun h => by rw [h]; rfl, fun h => BitVec.eq_of_toNat_eq h⟩
  rw [h0, h1]
  generalize op.toNat = n at *
  match n, h4 with
  | 0, _ => simp [waitHolds]
  | 1, _ => simp [waitHolds]
  | 2, _ => simp [waitHolds]
  | 3, _ => simp [waitHolds]

/-- Settles O36: a packet that may start runs its meaning (packet_runs, packet_orders); the rest by the lemmas above. -/
theorem packetsAndQueues : Obligations.PacketsAndQueues := by
  refine ⟨fun s => ?packets, fun s d q => ?queues⟩
  case packets =>
    intro d q x does read readDoes hl hw hs
    have run := @packet_runs s hl hw hs
    have order := @packet_orders s hl hw hs
    refine ⟨fun m r t l ho hf hfree => ⟨fun hlo => run (exec_launch ..) (launchPacket_launches ho hf hfree hlo),
        fun a h0 hlo => order h0 (exec_launchi ..) (launchPacket_launches ho hf hfree hlo)⟩,
      fun hn c => loopPacket_loops hl hw hs hn c, fun b t hb hd => ⟨fun hle => run (exec_endloop ..) ?_, fun hlt => run (exec_endloop ..) ?_⟩,
      fun b t hb hd => run (exec_endif ..) ?_, fun n a ha hn => run (exec_calls ..) ?_,
      fun b t hb hloops hblocks => run (exec_rets ..) ?_, fun h0 => ⟨fun a v m w hread hr => ⟨fun hn => ?ifs, fun op => ?waitmem⟩,
        ?write, fun c a v u ha hdr hout hu => order h0 (exec_signal ..) ?_, fun sc => order h0 (exec_fencePacket ..) rfl,
        ?hand, fun close n a hq hop hrec => order h0 (exec_tenendPacket ..) ?_⟩⟩
    case ifs =>
      refine ⟨?_, ?_⟩
      · refine (condition_decides hl hw hs (exec_ifeq ..) h0 hread hr hn).trans (congrArg Host.Outcome.next (consume_congr fun y => ?_))
        refine if_congr ?_ rfl rfl
        rw [beq_true]
      · refine (condition_decides hl hw hs (exec_ifne ..) h0 hread hr hn).trans (congrArg Host.Outcome.next (consume_congr fun y => ?_))
        refine if_congr ?_ rfl rfl
        rw [beq_false]
        rfl
    case waitmem =>
      refine (waitmem_waits hl hw hs h0 hread hr).trans (congrArg Host.Outcome.next (consume_congr fun y => ?_))
      exact if_congr (waitHolds_iff op w v m) rfl rfl
    case write =>
      intro z sc a v u n ha hu
      refine order h0 (exec_writemem ..) ?_
      dsimp only
      rw [if_neg (show ¬ a.toNat % (if z = 1#1 then 8 else 4) ≠ 0 from not_not.2 ha)]
      unfold State.packetWrite
      rw [show s.cpStore s.cur.die ((s.queue s.cur.die s.cur.queue).owner s.cur.queue) a (if z = 1#1 then 8 else 4)
          (v.toNat % 2 ^ (8 * if z = 1#1 then 8 else 4)) sc.toNat = .ok u from hu]
    case hand =>
      intro cpl sig k c h a v hc w
      refine order h0 (exec_handover ..) ?_
      dsimp only
      rw [hc]
      rfl
    · rw [hb]
      dsimp only
      rw [if_neg (not_not.2 hd), if_neg (not_lt.2 hle)]
    · rw [hb]
      dsimp only
      rw [if_neg (not_not.2 hd), if_pos hlt]
    · rw [hb]
      exact if_neg (not_not.2 hd)
    · rw [if_neg (not_not.2 ha), if_neg (not_le.2 hn)]
    · have hl1 : x.loops.any (fun y => y.depth == x.subs.length) = false :=
        List.any_eq_false.2 fun y hy => by rw [beq_iff_eq]; exact hloops y hy
      have hb1 : x.blocks.any (fun y => y.depth == x.subs.length) = false :=
        List.any_eq_false.2 fun y hy => by rw [beq_iff_eq]; exact hblocks y hy
      have hempty : x.subs.isEmpty = false := by rw [hb]; rfl
      refine (if_neg (by rw [hempty]; decide)).trans ?_
      unfold State.endSub
      dsimp only
      rw [hs, hl1, hb1]
      refine (if_neg (by decide)).trans (updQueue_congr ?_)
      rw [show (s.queue s.cur.die s.cur.queue).subs = b :: t from hb]
      rfl
    · rw [if_neg (not_not.2 ha), hdr, hout, if_neg (by decide)]
      unfold State.packetWrite
      rw [hu]
    · rw [if_neg (not_le.2 hq), hop, hrec]
      rfl
  case queues =>
    intro x read
    refine ⟨fun hl hb hquiet hr n hn hle => tailRead_reads hl hb hquiet hr hn hle,
      fun op a v m w hw hl hread hr hh => waitmemReread_ends hw hl hread hr hh, ?head, fun t a n v sc g ht => ?store⟩
    case head =>
      intro moved g hsubs hloops hne ht hlost hhome hway hcur
      rw [consume_head hsubs hloops]
      refine ⟨fun hdr => (if_neg ?_).trans ?_, fun hdr => if_pos ?_⟩
      · rw [hdr, decide_eq_false (show ¬ x.pos + 1 = x.head from fun h => hne h.symm)]
        decide
      · have hwrite : moved.homeWrite d (x.owner q) x.heada.toNat 8 (x.pos + 1).toNat = .ok (moved.write g.gen g.dla 8 (x.pos + 1).toNat) := by
          unfold State.homeWrite
          rw [BitVec.ofNat_toNat, BitVec.setWidth_eq, ht]
          dsimp only
          rw [hlost, if_neg Bool.false_ne_true, hhome, hway, if_neg (by decide), if_pos (show moved.isCurrent (homeDie g.dla) g.gen = true from hcur)]
        show (match moved.homeWrite d (x.owner q) x.heada.toNat 8 (x.pos + 1).toNat with
          | .ok s2 => s2
          | .error f => _) = _
        rw [hwrite]
      · rw [hdr, Bool.not_false, Bool.or_true]
    case store =>
      obtain ⟨u, h1, h2, h3, h4⟩ := cpStore_stores (n := n) (v := v) (sc := sc) ht
      exact ⟨u, h1, h2, h3, h4⟩

end Sys2Proof.Machine
end

section
/-! PROOFS. Writes of the platform's interface (spec 18 R422). -/

namespace Sys2Proof.Machine

variable {s : State} {d : Nat}

/-- The I/O die has left reset where any die has (R454). -/
theorem reachesDie_io (h : s.reachesDie d = true) : s.reachesDie 8 = true := by
  unfold State.reachesDie at *
  rw [Bool.and_eq_true] at h
  rw [h.1]
  rfl

/-- A die held in reset takes no write of a control of its own. -/
theorem writeReg_held {r : PlatformReg} {v : W64} (h : s.reachesDie (regDie r) = false) : s.writeReg r v = s := by
  unfold State.writeReg
  rw [h]
  exact if_neg Bool.false_ne_true

theorem writeReg_taken {r : PlatformReg} (v : W64) (h : s.reachesDie (regDie r) = true) :
    exec (.platformRegisterWrite r v) s = .next (s.setReg r v) := by
  refine (exec_platformRegisterWrite ..).trans (congrArg Host.Outcome.next ?_)
  unfold State.writeReg
  rw [h]
  exact if_pos rfl

theorem field_lt (v b n : Nat) : field v b n < 2 ^ (8 * n) := Nat.mod_lt _ (Nat.two_pow_pos _)

theorem field_word_toNat (v b : Nat) : (BitVec.ofNat 64 (field v b 8)).toNat = field v b 8 := by
  rw [BitVec.toNat_ofNat]
  exact Nat.mod_eq_of_lt (field_lt v b 8)

/-! ### Queue descriptors and translation records -/

section Descriptors
variable {q t : Nat} {w : BitVec 512} (hup : s.reachesDie d = true)
include hup

theorem queueDescriptor_taken (hq : q < 128) (h : field w.toNat 9 1 % 2 = 0 ∨ s.refusesQueue d q w.toNat = false) :
    exec (.queueDescriptorWrite d q w) s = .next (s.updQueue d q (fun _ =>
      { ring := BitVec.ofNat 64 (field w.toNat 0 8), size := field w.toNat 8 1, valid := decide (field w.toNat 9 1 % 2 = 1)
        ten := field w.toNat 10 2 % 4096, taila := BitVec.ofNat 64 (field w.toNat 16 8)
        heada := BitVec.ofNat 64 (field w.toNat 24 8) })) := by
  refine (exec_queueDescriptorWrite ..).trans ?_
  unfold execQueueDescriptorWrite
  dsimp only
  have hno : (decide (field w.toNat 9 1 % 2 = 1) && s.refusesQueue d q w.toNat) = false := by
    rcases h with h | h
    · rw [h]
      rfl
    · rw [h, Bool.and_false]
  rw [hup, hno, decide_eq_false (not_le.2 hq)]
  rfl

omit hup in
theorem queueDescriptor_refused (hv : field w.toNat 9 1 % 2 = 1) (h : s.refusesQueue d q w.toNat = true) :
    exec (.queueDescriptorWrite d q w) s = .next s := by
  refine (exec_queueDescriptorWrite ..).trans ?_
  unfold execQueueDescriptorWrite
  dsimp only
  rw [h, decide_eq_true hv]
  exact if_pos (Bool.or_true _)

theorem record_removed (ht : t < 4096) (h : s.holdsOn d t = false) : exec (.translationRecordWrite d t true w) s =
    .next (s.updDie d (fun x => { x with recs := Sparse.put none t none x.recs })) := by
  refine (exec_translationRecordWrite ..).trans ?_
  unfold execTranslationRecordWrite
  dsimp only
  rw [hup, h, decide_eq_false (not_le.2 ht)]
  rfl

omit hup in
theorem record_kept (h : s.holdsOn d t = true) : exec (.translationRecordWrite d t true w) s = .next s := by
  refine (exec_translationRecordWrite ..).trans ?_
  unfold execTranslationRecordWrite
  dsimp only
  rw [h, if_pos rfl, if_pos rfl]
  exact ite_self _

/-- The record that the platform's 64 bytes describe, with HCONF as it stood (R276). -/
def recordOf (old : Option TransRec) (v : Nat) : TransRec :=
  { s1root := BitVec.ofNat 64 (field v 0 8), s2root := BitVec.ofNat 64 (field v 8 8), impt := BitVec.ofNat 64 (field v 16 8)
    expt := BitVec.ofNat 64 (field v 24 8), hconf := (old.map (·.hconf)).getD 0 }

theorem record_written (ht : t < 4096) (h : refusesRecord w.toNat = false) : exec (.translationRecordWrite d t false w) s =
    .next (s.updDie d (fun x => { x with
      recs := Sparse.put none t (some (recordOf (Sparse.get none t (s.die d).recs) w.toNat)) x.recs })) := by
  refine (exec_translationRecordWrite ..).trans ?_
  unfold execTranslationRecordWrite
  dsimp only
  rw [hup, h, decide_eq_false (not_le.2 ht)]
  unfold recordOf
  cases Sparse.get none t (s.die d).recs with
  | none => rfl
  | some r => rfl

end Descriptors

/-! ### Stacks and slot tables -/

/-- A key outside a filter's range reads as the default. -/
theorem Sparse.get_filter_out {α : Type} {e : α} {p : Nat → Bool} {k : Nat} (hk : p k = false) (m : Sparse α) :
    Sparse.get e k (m.filter (fun x => p x.1)) = e := by
  by_contra h
  have hmem := List.mem_filter.1 (Sparse.mem_of_get h)
  rw [hk] at hmem
  exact Bool.false_ne_true hmem.2

theorem setSlot_taken {i : Nat} {e : BitVec 16} (hi : i < 256) (h : e.toNat / 2 ^ 12 % 8 = 0) : s.setSlot d i e =
    s.updDie d (fun x => { x with slotNew := Sparse.put none i (some e) x.slotNew, slotAt := x.lcyc.toNat }) := by
  have h3 : e.extractLsb' 12 3 = 0#3 := BitVec.eq_of_toNat_eq (by rw [BitVec.extractLsb'_toNat, Nat.shiftRight_eq_div_pow]; exact h)
  unfold State.setSlot
  rw [decide_eq_false (not_le.2 hi), h3]
  rfl

theorem setSlot_refused {i : Nat} {e : BitVec 16} (h : e.toNat / 2 ^ 12 % 8 ≠ 0) : s.setSlot d i e = s := by
  have h3 : e.extractLsb' 12 3 ≠ 0 := by
    intro h0
    apply h
    have hn := congrArg BitVec.toNat h0
    rwa [BitVec.extractLsb'_toNat, Nat.shiftRight_eq_div_pow] at hn
  unfold State.setSlot
  rw [decide_eq_true h3, Bool.or_true]
  exact if_pos rfl

theorem slices_change {q n : Nat} (hup : s.reachesDie 8 = true) (hq : q < 8) (hn : n ≤ 8)
    (hfree : ∀ e ∈ s.dies, ∀ r ∈ e.2.recs, ∀ y, r.2 = some y → s.tableMaps (sliceDla q (24 - max n (s.stack q).mscn))
      (sliceDla q (24 - min n (s.stack q).mscn)) 4 0 y.s2root.toNat = false) :
    exec (.cacheSlicesChange q n) s = .next (({ s with hallmarks := s.hallmarks.filter (fun e =>
      decide (e.1 < sliceDla q (24 - max n (s.stack q).mscn) / 128)
        || decide (sliceDla q (24 - min n (s.stack q).mscn) / 128 ≤ e.1)) }.updStack q (fun x => { x with mscn := n })).newLatencies) := by
  refine (exec_cacheSlicesChange ..).trans ?_
  unfold execCacheSlicesChange
  extract_lets old lo hi mapped hs
  have hm : mapped = false := by
    refine List.any_eq_false.2 fun e he => ?_
    rw [Bool.not_eq_true]
    refine List.any_eq_false.2 fun r hr => ?_
    rw [Bool.not_eq_true]
    cases h : r.2 with
    | none => rfl
    | some y => exact hfree e he r hr y h
  rw [hm, hup, decide_eq_false (not_lt.2 hn), decide_eq_false (not_le.2 hq)]
  rfl

/-! ### The other controls -/

/-- PRECTL's requests (R392). -/
theorem writePrectl_small {c n : Nat} (hn : n < 16) : s.writePrectl c (BitVec.ofNat 64 n) =
    if n = 1 then s.softRequest c else if n = 2 then s.hardRequest c else if n = 3 then s.killRequest c
    else if n = 4 then s.restoreContext c else if n = 8 then s.resetCore c else s := by
  unfold State.writePrectl
  interval_cases n <;> rfl

/-- A word that is no request of PRECTL, and asks for no PHASE, changes nothing (R392). -/
theorem writePrectl_none {c : Nat} {y : W64} (hy : y ∉ [1#64, 2#64, 3#64, 4#64, 8#64]) (hp : y.extractLsb' 12 4 = 0#4) :
    s.writePrectl c y = s := by
  by_cases hsmall : y.toNat < 16
  · have hnot : ∀ n ∈ [1, 2, 3, 4, 8], y.toNat ≠ n := by
      intro n hn h
      refine hy (List.mem_map.2 ⟨n, hn, ?_⟩ : y ∈ [1, 2, 3, 4, 8].map (BitVec.ofNat 64))
      rw [← h, BitVec.ofNat_toNat, BitVec.setWidth_eq]
    have he := writePrectl_small (s := s) (c := c) hsmall
    rw [BitVec.ofNat_toNat, BitVec.setWidth_eq, if_neg (hnot 1 (by decide)), if_neg (hnot 2 (by decide)),
      if_neg (hnot 3 (by decide)), if_neg (hnot 4 (by decide)), if_neg (hnot 8 (by decide))] at he
    exact he
  · have hres : y.extractLsb' 16 48 ≠ 0 ∨ y.extractLsb' 4 8 ≠ 0 := by
      by_contra h
      obtain ⟨h16, h4⟩ := not_or.1 h
      have e16 := congrArg BitVec.toNat (show y.extractLsb' 16 48 = 0#48 from not_not.1 h16)
      have e4 := congrArg BitVec.toNat (show y.extractLsb' 4 8 = 0#8 from not_not.1 h4)
      have e12 := congrArg BitVec.toNat hp
      rw [BitVec.extractLsb'_toNat, Nat.shiftRight_eq_div_pow] at e16 e4 e12
      have := y.isLt
      simp only [BitVec.toNat_ofNat] at e16 e4 e12
      omega
    unfold State.writePrectl
    refine if_pos ?_
    rcases hres with h | h <;> rw [decide_eq_true h] <;> simp only [Bool.true_or, Bool.or_true]

/-- The platform allots an idle core (R16, R276, R395). -/
theorem allot_allots {c t : Nat} (hw : (s.core c).withheld = false) (hm : Sparse.get false c s.trust.withheld = false)
    (hp : (s.core c).phase = 0) (ht : (s.core c).task = none) (hf : (s.core c).flr = none) (hs : (s.core c).stopped = false)
    (hr : s.hasRecord (dieOf c) t = true) :
    s.allot c (some t) = (s.handBack c).updCore c (fun k => { k with ten := some t, phase := 0, parked := false }) := by
  unfold State.allot
  dsimp only
  rw [hw, hm, hp, ht, hf, hs, hr]
  rfl

/-- The end of a fence leaves it, and what it refused, on no die. -/
theorem endFence_ends (d t : Nat) (v : W64) : (t ∉ ((s.setReg (.endFence d t) v).die d).fences)
    ∧ ∀ e, (t, d) ∉ ((s.setReg (.endFence d t) v).die e).refused := by
  have hdie : ∀ e, ((s.setReg (.endFence d t) v).die e).fences = (if e = d then (s.die e).fences.filter (· != t) else (s.die e).fences)
      ∧ ((s.setReg (.endFence d t) v).die e).refused = (s.die e).refused.filter (· != (t, d)) := by
    intro e
    have hmap : (s.setReg (.endFence d t) v).die e = { s.die e with
          fences := if e = d then (s.die e).fences.filter (· != t) else (s.die e).fences
          refused := (s.die e).refused.filter (· != (t, d)) }
        ∨ (s.setReg (.endFence d t) v).die e = {} ∧ s.die e = {} := Sparse.get_mapVals_or s.dies
    rcases hmap with h | ⟨h, h0⟩
    · rw [h]
      exact ⟨rfl, rfl⟩
    · rw [h, h0]
      exact ⟨(ite_self _).symm, rfl⟩
  refine ⟨fun h => ?_, fun e h => ?_⟩
  · rw [(hdie d).1, if_pos rfl] at h
    simpa using (List.mem_filter.1 h).2
  · rw [(hdie e).2] at h
    simpa using (List.mem_filter.1 h).2

/-- What a flow entry's fields say (R428). -/
def flowOf (v : Nat) (key : BitVec 256) : Flow :=
  { ports := BitVec.ofNat 8 (field v 0 1), die := field v 1 1, queue := field v 2 1, valid := decide (field v 3 1 = 1)
    ten := field v 4 2, key := if field v 3 1 = 1 then key else 0 }

theorem flow_registered {f : Nat} {e : W64} {key : BitVec 256} (hup : s.reachesDie 8 = true) (hf : f < 4096)
    (hp : field e.toNat 0 1 < 16) (hd : field e.toNat 1 1 < 8) (hq : 8 ≤ field e.toNat 2 1) (hq' : field e.toNat 2 1 < 128)
    (hv : field e.toNat 3 1 < 2) (ht : field e.toNat 4 2 < 4096) (hr : field e.toNat 6 2 = 0) :
    exec (.flowRegister f e key) s =
      .next { s with io := { s.io with flows := Sparse.put {} f (flowOf e.toNat key) s.io.flows } } := by
  refine (exec_flowRegister ..).trans ?_
  unfold execFlowRegister
  dsimp only
  rw [hup, decide_eq_false (not_le.2 hf), Nat.div_eq_of_lt hp, decide_eq_false (not_le.2 hd), decide_eq_false (not_lt.2 hq),
    decide_eq_false (not_le.2 hq'), decide_eq_false (not_le.2 hv), decide_eq_false (not_le.2 ht), hr]
  rfl

/-- What a map entry's fields say (R426). -/
def ingressOf (e : W64) : IngressEntry :=
  { gpa := e.extractLsb' 40 24, die := (e.extractLsb' 24 3).toNat, valid := e.getLsbD 12, ten := (e.extractLsb' 0 12).toNat }

theorem map_written {m g : Nat} {e : W64} (hup : s.reachesDie 8 = true) (hm : m ≤ 8) (hg : g < 256) :
    exec (.hdmMapWrite m g e) s =
      .next { s with io := { s.io with ingress := Sparse.put {} (65536 * m + g) (ingressOf e) s.io.ingress } } := by
  refine (exec_hdmMapWrite ..).trans ?_
  unfold execHdmMapWrite State.setMap
  dsimp only
  rw [hup, decide_eq_false (not_le.2 hg), decide_eq_false (not_lt.2 hm)]
  rfl

/-- A descriptor with a field out of its range is refused (R361, R276). -/
theorem refusesQueue_of {q v : Nat} (h : field v 8 1 < 4 ∨ 16 < field v 8 1 ∨ field v 0 8 % (32 * 2 ^ field v 8 1) ≠ 0
    ∨ field v 16 8 % 8 ≠ 0 ∨ field v 24 8 % 8 ≠ 0 ∨ 2 ≤ field v 9 1 ∨ field v 12 4 ≠ 0 ∨ field v 40 24 ≠ 0
    ∨ 8 ≤ q ∧ s.hasRecord d (field v 10 2 % 4096) = false) : s.refusesQueue d q v = true := by
  unfold State.refusesQueue
  dsimp only
  simp only [Bool.or_eq_true, decide_eq_true_eq, bne_iff_ne]
  rcases h with h | h | h | h | h | h | h | h | ⟨h, hr⟩
  · simp only [h, true_or]
  · simp only [h, true_or, or_true]
  · simp only [h, not_false_eq_true, ne_eq, true_or, or_true]
  · simp only [h, not_false_eq_true, ne_eq, true_or, or_true]
  · simp only [h, not_false_eq_true, ne_eq, true_or, or_true]
  · have h2 : field v 9 1 / 2 ≠ 0 := by omega
    simp only [h2, not_false_eq_true, ne_eq, true_or, or_true]
  · simp only [h, not_false_eq_true, ne_eq, true_or, or_true]
  · simp only [h, not_false_eq_true, ne_eq, true_or, or_true]
  · rw [if_neg (not_lt.2 h), hr]
    exact .inr rfl

theorem word_low (n : Nat) : (BitVec.ofNat 64 (n % 2 ^ 48)).toNat = n % 2 ^ 48 := by
  rw [BitVec.toNat_ofNat]
  exact Nat.mod_eq_of_lt (lt_of_lt_of_le (Nat.mod_lt _ (Nat.two_pow_pos 48)) (Nat.pow_le_pow_right (by decide) (by decide)))

/-- Settles O45: each event or control by the lemma about it; a die held in reset by writeReg_held and its like. -/
theorem platformWritesTakeEffect : Obligations.PlatformWritesTakeEffect := by
  refine fun s d q t w => ?main
  case main =>
    intro v desc
    refine ⟨?held, fun hup => ?up⟩
    case held =>
      intro hheld
      have h1 : (!s.reachesDie d) = true := by rw [hheld]; rfl
      have hne : ¬ s.reachesDie d = true := by rw [hheld]; exact Bool.false_ne_true
      rw [List.forall_mem_cons, List.forall_mem_cons, List.forall_mem_cons, List.forall_mem_cons, List.forall_mem_cons]
      refine ⟨?_, ?_, ?_, ?_, ?_, List.forall_mem_nil _⟩
      · refine (exec_queueDescriptorWrite ..).trans (if_pos ?_)
        rw [h1]
        rfl
      · refine (exec_translationRecordWrite ..).trans (if_pos ?_)
        rw [h1]
        rfl
      · refine (exec_translationRecordWrite ..).trans (if_pos ?_)
        rw [h1]
        rfl
      · exact (exec_slotTableWrite ..).trans (congrArg Host.Outcome.next (if_neg hne))
      · exact (exec_platformRegisterWrite ..).trans (congrArg Host.Outcome.next (writeReg_held hheld))
    case up =>
      have hio := reachesDie_io hup
      refine ⟨fun hq => ⟨fun h => queueDescriptor_taken hup hq h, fun hv h => queueDescriptor_refused hv (refusesQueue_of h)⟩,
        fun ht => ⟨fun h => record_removed hup ht h, fun h => record_kept h, fun h => ⟨_, record_written hup ht h,
          field_word_toNat .., field_word_toNat .., field_word_toNat .., field_word_toNat .., ?hconf⟩⟩,
        ?right, ?slices, ?slot, ?force, ?flow, ?map, ?regs⟩
      case hconf =>
        intro o ho
        rw [ho]
        rfl
      case right =>
        intro rv rt
        exact (exec_ownerRightWrite ..).trans (congrArg Host.Outcome.next (if_pos hio))
      case slices =>
        intro n hq hn lo hi hfree
        refine ⟨_, slices_change hio hq hn hfree, ?_⟩
        obtain ⟨ds, e⟩ := State.newLatencies_dies (({ s with hallmarks := s.hallmarks.filter (fun e =>
          decide (e.1 < lo / 128) || decide (hi / 128 ≤ e.1)) } : State).updStack q (fun x => { x with mscn := n }))
        rw [show State.newLatencies _ = _ from e]
        refine ⟨?_, rfl, rfl, fun g h1 h2 => Sparse.get_filter_out (p := fun g => decide (g < lo / 128) || decide (hi / 128 ≤ g)) ?_ _⟩
        · exact congrArg Stack.mscn (Sparse.get_put_same ..)
        · rw [decide_eq_false (not_lt.2 h1), decide_eq_false (not_le.2 h2)]
          rfl
      case slot =>
        intro i e hi
        refine ⟨fun h => (exec_slotTableWrite ..).trans (congrArg Host.Outcome.next ((if_pos hup).trans (setSlot_taken hi h))),
          fun h => (exec_slotTableWrite ..).trans (congrArg Host.Outcome.next ((if_pos hup).trans (setSlot_refused h)))⟩
      case force =>
        intro hmod hlt
        have hx : exec (.slotTableTakeEffect d) s = .next (s.updDie d Die.slotsInForce) := by
          refine (exec_slotTableTakeEffect ..).trans ?_
          unfold execSlotTableTakeEffect
          dsimp only
          rw [hmod, decide_eq_false (not_le.2 hlt)]
          rfl
        refine ⟨_, hx, rfl, ?_⟩
        rw [State.die_updDie_same]
        refine ⟨rfl, fun h => ?_, fun i e h j => ?_⟩
        · unfold Die.slotsInForce
          rw [h]
          rfl
        · unfold Die.slotsInForce
          rw [h]
          exact Sparse.get_put
      case flow =>
        intro f e key y hf h0 h1 h2 h3 h4 h5 h6
        refine ⟨_, flow_registered hio hf h0 h1 h2 h3 h4 h5 h6, rfl, ?_⟩
        dsimp only
        rw [Sparse.get_put_same]
        refine ⟨?_, rfl, rfl, rfl, rfl, rfl, fun hv => if_pos (of_decide_eq_true hv)⟩
        exact (BitVec.toNat_ofNat ..).trans (Nat.mod_eq_of_lt (field_lt y 0 1))
      case map =>
        intro m g e hm hg
        exact ⟨_, map_written hio hm hg, rfl, fun j => Sparse.get_put⟩
      case regs =>
        intro y writes
        refine ⟨fun i => ⟨?_, ?_, ?_, ?_, rfl, rfl, ?_, rfl, fun r hr => ?_, rfl, rfl, rfl⟩, writeReg_taken y hup, writeReg_taken y hup,
          fun h => ⟨writeReg_taken y hio, writeReg_taken y hio⟩, word_low _, word_low _, fun c hc => ?withheld, fun c => ?prectl,
          fun c hc h1 h2 h3 h4 h5 h6 h7 h8 => ?allot, _, writeReg_taken y hup, endFence_ends d t y⟩
        · exact (writeReg_taken y hio).trans (congrArg Host.Outcome.next (if_pos hio).symm)
        · exact (writeReg_taken y hup).trans (congrArg Host.Outcome.next (if_pos hup).symm)
        · exact (writeReg_taken y hio).trans (congrArg Host.Outcome.next (if_pos hio).symm)
        · exact (writeReg_taken y hio).trans (congrArg Host.Outcome.next (if_pos hio).symm)
        · exact BitVec.toNat_setWidth_of_le (by decide)
        · unfold State.readReg
          dsimp only
          rw [hr]
          rfl
        case withheld =>
          have hset : s.setReg (.coreTenancy c) y = s := by
            refine if_pos ?_
            rcases hc with h | h <;> rw [h] <;> simp only [Bool.true_or, Bool.or_true]
          refine (exec_platformRegisterWrite ..).trans (congrArg Host.Outcome.next ?_)
          unfold State.writeReg
          rw [hset]
          exact ite_self _
        case prectl =>
          have asks : ∀ {n : Nat} {f : State → State}, y = BitVec.ofNat 64 n → s.writePrectl c (BitVec.ofNat 64 n) = f s →
              exec (.platformRegisterWrite (.prectl c) y) s = .next (if s.reachesDie (dieOf c) then f s else s) := by
            intro n f hy hf
            refine (exec_platformRegisterWrite ..).trans (congrArg Host.Outcome.next ?_)
            rw [← hf, ← hy]
            rfl
          refine ⟨fun h => ?_, fun h => ?_, fun h => ?_, fun h => ?_, fun h => ?_, fun h hp => ?_⟩
          · exact (asks (f := (·.softRequest c)) h (writePrectl_small (by decide))).trans (exec_softRequest ..).symm
          · exact (asks (f := (·.hardRequest c)) h (writePrectl_small (by decide))).trans (exec_hardRequest ..).symm
          · exact (asks (f := (·.killRequest c)) h (writePrectl_small (by decide))).trans (exec_killRequest ..).symm
          · exact (asks (f := (·.restoreContext c)) h (writePrectl_small (by decide))).trans (exec_contextRestore ..).symm
          · exact (asks (f := (·.resetCore c)) h (writePrectl_small (by decide))).trans (exec_functionLevelReset ..).symm
          · refine (exec_platformRegisterWrite ..).trans (congrArg Host.Outcome.next ?_)
            refine (if_congr Iff.rfl (writePrectl_none h hp) rfl).trans (ite_self _)
        case allot =>
          have hset : s.setReg (.coreTenancy c) y = (s.handBack c).updCore c (fun k => { k with ten := some y.toNat, phase := 0, parked := false }) := by
            unfold State.setReg
            dsimp only
            rw [if_pos h7]
            exact allot_allots h1 h2 h3 h4 h5 h6 h8
          refine ⟨_, (writeReg_taken y hc).trans (congrArg Host.Outcome.next hset), ?_⟩
          obtain ⟨k, hk⟩ := handBack_core (s := s) (c := c)
          rw [State.core_updCore_same, hk]
          refine ⟨rfl, rfl, rfl, fun j hj => ?_⟩
          rw [State.core_updCore, if_neg hj, handBack_core_ne hj]

end Sys2Proof.Machine
end

section
/-! PROOFS. Requests of the application cores, the host and Empin, and command frames (spec 18 R421-R429). -/

namespace Sys2Proof.Machine

variable {s : State}

/-! ### A request at its home -/

section Home
variable {g : Hm} {a n : Nat} (v : Nat)

theorem perform_load (h : s.badRun a n = false) : s.perform g a n .load v = (s, s.read g a n, false) := by
  unfold State.perform
  dsimp only
  rw [h]
  rfl

theorem perform_store (h : s.isCurrent (homeDie a) g = true) :
    s.perform g a n .store v = (s.write g a n (v % 2 ^ (8 * n)), 0, false) := by
  unfold State.perform
  dsimp only
  rw [h]
  rfl

theorem perform_amo {o : RvAmo} (hb : s.badRun a n = false) (h : s.isCurrent (homeDie a) g = true) :
    s.perform g a n (.amo o) v = (s.write g a n (rvResult o n (s.read g a n) v % 2 ^ (8 * n)), s.read g a n, false) := by
  unfold State.perform
  dsimp only
  rw [hb, h]
  rfl

end Home

theorem isCurrent_platform (e : Nat) : s.isCurrent e platformGen = true := by
  unfold State.isCurrent
  rw [beq_self_eq_true]
  rfl

/-- A function of an I/O link that takes requests has its link up, and the I/O die released. -/
theorem takesIo_up {d f : Nat} (h : s.takesIo d f = true) : s.io.released = true ∧ s.ioDown d = false := by
  unfold State.takesIo at h
  rw [Bool.and_eq_true, Bool.and_eq_true, Bool.and_eq_true] at h
  obtain ⟨⟨⟨hr, -⟩, -⟩, hl⟩ := h
  refine ⟨hr, ?_⟩
  unfold State.ioDown
  rw [eq_of_beq hl]
  rfl

/-- What the answer of an application core's request and its turn leave. -/
theorem answered_frame (u : State) (m : Nat) (r : AppReply) (d p : Nat) (g : Hm) :
    let x := (u.answerApp m r).rotate d p g
    x.mem = u.mem ∧ x.hallmarks = u.hallmarks ∧ x.cores = u.cores ∧ x.io.apps = Sparse.put {} m r u.io.apps := by
  intro x
  obtain ⟨rr, e⟩ := (u.answerApp m r).rotate_eq d p g
  rw [show x = _ from e]
  exact ⟨rfl, rfl, rfl, rfl⟩

theorem answeredIo_frame (u : State) (v : Nat) (b : Bool) (d p : Nat) (g : Hm) :
    let x := (u.answerIo v b).rotate d p g
    x.mem = u.mem ∧ x.hallmarks = u.hallmarks ∧ x.cores = u.cores ∧ x.io.reply = BitVec.ofNat 512 v ∧ x.io.poisoned = b := by
  intro x
  obtain ⟨rr, e⟩ := (u.answerIo v b).rotate_eq d p g
  rw [show x = _ from e]
  exact ⟨rfl, rfl, rfl, rfl, rfl⟩

theorem write_io (s : State) (g : Hm) (a n v : Nat) : (s.write g a n v).io = s.io ∧ (s.write g a n v).cores = s.cores := by
  obtain ⟨m, h, b, w, e⟩ := s.write_eq g a n v
  rw [e]
  exact ⟨rfl, rfl⟩

/-! ### Application cores (R421) -/

/-- The region and the offset of a physical address of an application core. -/
theorem physical_split {r a : Nat} (hr : r < 256) (ha : a < 2 ^ 48) :
    (BitVec.ofNat 64 (r * 2 ^ 48 + a)).toNat / 2 ^ 48 % 256 = r ∧ (BitVec.ofNat 64 (r * 2 ^ 48 + a)).toNat % 2 ^ 48 = a
      ∧ (BitVec.ofNat 64 (r * 2 ^ 48 + a)).toNat = r * 2 ^ 48 + a := by
  have h : (BitVec.ofNat 64 (r * 2 ^ 48 + a)).toNat = r * 2 ^ 48 + a := by
    rw [BitVec.toNat_ofNat]
    exact Nat.mod_eq_of_lt (by omega)
  rw [h]
  exact ⟨by omega, by omega, rfl⟩

section Access
variable {m a n : Nat} {v pa : W64} {o : AppOp}

theorem reqWhole_plain (h1 : 1 ≤ n) (h8 : n ≤ 8) (ho : o = .load ∨ o = .store) : reqWhole ⟨m, o⟩ pa n = true := by
  have hwhole : (decide (1 ≤ n) && decide (n ≤ 8)) = true := by rw [decide_eq_true h1, decide_eq_true h8]; rfl
  rcases ho with rfl | rfl <;> exact hwhole

/-- An access of the platform interface, where the layout places a control. -/
theorem control_access (hr : pa.toNat / 2 ^ 48 % 256 = 8) (hlow : pa.toNat % 2 ^ 48 = a) (h1 : 1 ≤ n) (h8 : n ≤ 8)
    (hio : s.io.released = true) {r : PlatformReg} (hlay : Config.platformLayout a = some r) (hp : r.placed = true) :
    exec (.applicationCoreAccess pa n ⟨m, .store⟩ v) s = .next (s.writeReg r v)
    ∧ exec (.applicationCoreAccess pa n ⟨m, .load⟩ v) s =
      .next (s.answerApp m { data := BitVec.ofNat 64 ((s.readReg r).toNat % 2 ^ (8 * n)) }) := by
  refine ⟨(exec_applicationCoreAccess ..).trans ?_, (exec_applicationCoreAccess ..).trans ?_⟩
  · unfold execApplicationCoreAccess
    dsimp only
    rw [reqWhole_plain h1 h8 (.inr rfl), hr, hlow, hio, if_pos (rfl : 8 = 8), hlay]
    dsimp only
    rw [hp]
    rfl
  · unfold execApplicationCoreAccess
    dsimp only
    rw [reqWhole_plain h1 h8 (.inl rfl), hr, hlow, hio, if_pos (rfl : 8 = 8), hlay]
    dsimp only
    rw [hp]
    rfl

/-- An access at a die-local address, at its turn. -/
theorem local_access {d : Nat} {t : Target} (hd : d < 8) (hr : pa.toNat / 2 ^ 48 % 256 = d) (hlow : pa.toNat % 2 ^ 48 = a)
    (hwhole : reqWhole ⟨m, o⟩ pa n = true) (htakes : s.takesIo d 0 = true)
    (ht : s.translateDla d a = .ok t) (hlost : s.wayLost d t = false) (hgo : s.ioGo d t = true) (hv : s.violates t = false) :
    exec (.applicationCoreAccess pa n ⟨m, o⟩ v) s =
      .next (((s.perform platformGen t.dla n o v.toNat).1.answerApp m
        { data := BitVec.ofNat 64 (s.perform platformGen t.dla n o v.toNat).2.1
          poisoned := (s.perform platformGen t.dla n o v.toNat).2.2 }).rotate t.die (portOf t) t.gen) := by
  obtain ⟨hio, hup⟩ := takesIo_up htakes
  refine (exec_applicationCoreAccess ..).trans ?_
  unfold execApplicationCoreAccess
  dsimp only
  rw [hwhole, hio, hr, hlow, hup, htakes, ht, if_pos hd]
  dsimp only
  rw [hlost, hgo, hv]
  rfl

end Access

/-! ### The CXL host and Empin (R426, R427) -/

section Ingress
variable {f key off n : Nat} {w : Bool} {v : Nat} (h1 : 1 ≤ n) (h64 : n ≤ 64)
include h1 h64

/-- A request through an entry that is not valid is counted, and a read returns poison. -/
theorem ingress_refused (he : (Sparse.get ({} : IngressEntry) key s.io.ingress).valid = false) :
    s.ingress f key off n w v = { s.answerIo 0 (!w) with io := { (s.answerIo 0 (!w)).io with hdmErrors := s.io.hdmErrors + 1 } } := by
  unfold State.ingress
  dsimp only
  rw [he, if_neg (show ¬ (decide (n = 0) || decide (64 < n)) = true by
    rw [decide_eq_false (show n ≠ 0 by omega), decide_eq_false (not_lt.2 h64)]
    decide)]
  rfl

/-- A request through a valid entry, at its turn. -/
theorem ingress_served {e : IngressEntry} (hkey : Sparse.get {} key s.io.ingress = e) {t : Target} (he : e.valid = true)
    (htakes : s.takesIo e.die f = true) (ht : s.ingressTarget e off n w = .ok t) (hlost : s.wayLost e.die t = false)
    (hgo : s.ioGo e.die t = true) (hv : s.violates t = false) :
    s.ingress f key off n w v = (((s.perform t.gen t.dla n (if w then .store else .load) v).1.answerIo
      (s.perform t.gen t.dla n (if w then .store else .load) v).2.1
      (s.perform t.gen t.dla n (if w then .store else .load) v).2.2).rotate t.die (portOf t) t.gen) := by
  obtain ⟨-, hup⟩ := takesIo_up htakes
  unfold State.ingress
  dsimp only
  rw [hkey, he, hup, htakes, ht, if_neg (show ¬ (decide (n = 0) || decide (64 < n)) = true by
    rw [decide_eq_false (show n ≠ 0 by omega), decide_eq_false (not_lt.2 h64)]
    decide)]
  dsimp only
  rw [hlost, hgo, hv]
  rfl

end Ingress

/-- A request of the host (map 0), or over Empin link m - 1 (map m). -/
theorem outside_request {m g off n : Nat} {w : Bool} {v : BitVec 512} (hm : m ≤ 8) (hg : g < 256)
    (hl : m ≠ 0 → (s.link (15 + m)).st = 0) :
    exec (if m = 0 then Instr.hostRequest g off n w v else .empinRequest (m - 1) g off n w v) s =
      .next (s.ingress (if m = 0 then 2 else 3) (65536 * m + g) off n w v.toNat) := by
  by_cases h : m = 0
  · rw [if_pos h, if_pos h, h, Nat.mul_zero, Nat.zero_add]
    exact (exec_hostRequest ..).trans (if_neg (not_le.2 hg))
  · rw [if_neg h, if_neg h]
    refine (exec_empinRequest ..).trans ?_
    unfold execEmpinRequest
    rw [show 16 + (m - 1) = 15 + m by omega, show m - 1 + 1 = m by omega, hl h, decide_eq_false (show ¬ 8 ≤ m - 1 by omega),
      decide_eq_false (not_le.2 hg)]
    rfl

/-! ### Command frames (R428, R429) -/

theorem homeWrite_io {t : State} {d : Nat} {ten : Option Nat} {a n v : Nat} (h : s.homeWrite d ten a n v = .ok t) : t.io = s.io := by
  unfold State.homeWrite at h
  split at h
  · exact absurd h nofun
  · next g _ =>
    split at h
    · exact absurd h nofun
    · split at h
      · exact absurd h nofun
      · rw [← Except.ok.inj h]
        split
        · exact (write_io ..).1
        · rfl

theorem putPackets_io {d : Nat} {x : Queue} {ps : List (BitVec 256)} : ∀ {s u : State} {n : Nat},
    s.putPackets d x n ps = .ok u → u.io = s.io := by
  induction ps with
  | nil => intro s u n h; rw [← Except.ok.inj h]
  | cons p rest ih =>
    intro s u n h
    unfold State.putPackets at h
    split at h
    · exact absurd h nofun
    · next s1 h1 => exact (ih h).trans (homeWrite_io h1)

/-- A frame that is accepted becomes its flow's last one, and is counted. -/
theorem acceptFrame_flow {f : Flow} {n : Nat} {fs : W64} {ps : List (BitVec 256)} {u : State}
    (h : s.acceptFrame f n fs ps = .ok u) : Sparse.get {} n u.io.flows =
      { Sparse.get ({} : Flow) n s.io.flows with last := fs, acc := (Sparse.get ({} : Flow) n s.io.flows).acc + 1 } := by
  unfold State.acceptFrame at h
  dsimp only at h
  split at h
  · exact absurd h nofun
  · split at h
    · exact absurd h nofun
    · split at h
      · exact absurd h nofun
      · split at h
        · exact absurd h nofun
        · next s1 h1 =>
          split at h
          · exact absurd h nofun
          · next s2 h2 =>
            rw [← Except.ok.inj h]
            have hio := (homeWrite_io h2).trans (putPackets_io h1)
            unfold State.updFlow Sparse.upd
            dsimp only
            rw [Sparse.get_put_same, hio]

section Frames
variable {port udp : Nat} {flow npkt : BitVec 16} {z : BitVec 32} {fs : W64} {ps : List (BitVec 256)} {tag : BitVec 128}
  (hio : s.io.released = true)
include hio

theorem frame_passed (h : udp ≠ Sparse.get 0 port s.io.cmdPort) : exec (.commandFrame port udp flow npkt z fs ps tag) s =
    .next { s with io := { s.io with received := s.io.received + 1 } } := by
  refine (exec_commandFrame ..).trans ?_
  unfold execCommandFrame
  dsimp only
  rw [hio, decide_eq_true h]
  rfl

variable {f : Flow} (hport : udp = Sparse.get 0 port s.io.cmdPort) (hn : flow.toNat < 4096)
  (hf : Sparse.get {} flow.toNat s.io.flows = f) (hvalid : f.valid = true)
include hport hn hf hvalid

theorem frame_dropped (h : fs.toNat ≤ f.last.toNat ∨ f.ports.getLsbD port = false ∨ npkt.toNat ≠ ps.length
      ∨ ¬ tag = gcmTag f.key (BitVec.ofNat 96 (flow.toNat + fs.toNat * 2 ^ 32)) (frameBytes flow npkt z fs ps)) :
    exec (.commandFrame port udp flow npkt z fs ps tag) s = .next (s.updFlow flow.toNat (fun f => { f with drop := f.drop + 1 })) := by
  refine (exec_commandFrame ..).trans ?_
  unfold execCommandFrame
  dsimp only
  rw [hf, hio, hvalid, decide_eq_false (not_not.2 hport), decide_eq_false (not_le.2 hn)]
  refine (if_neg (by decide)).trans ((if_neg (by decide)).trans (if_pos ?_))
  rw [Bool.or_eq_true, Bool.not_eq_true']
  left
  rcases h with h | h | h | h
  · rw [decide_eq_false (not_lt.2 h), Bool.and_false]
  · rw [h]
    simp only [Bool.false_and]
  · rw [beq_eq_false_iff_ne.2 h]
    simp only [Bool.and_false, Bool.false_and]
  · rw [show (tag == gcmTag f.key (frameNonce flow fs) (frameBytes flow npkt z fs ps)) = false from beq_eq_false_iff_ne.2 h]
    simp only [Bool.and_false, Bool.false_and]

theorem frame_accepted (htakes : s.takesIo f.die 1 = true) (hlast : f.last.toNat < fs.toNat) (hp : f.ports.getLsbD port = true)
    (hv : (s.queue f.die f.queue).valid = true) (hfault : (s.queue f.die f.queue).fault.getLsbD 8 = false)
    (hten : (s.queue f.die f.queue).ten = f.ten) (hz : z = 0) (hlen : npkt.toNat = ps.length) (h1 : 1 ≤ ps.length)
    (h32 : ps.length ≤ 32)
    (hs : tag = gcmTag f.key (BitVec.ofNat 96 (flow.toNat + fs.toNat * 2 ^ 32)) (frameBytes flow npkt z fs ps))
    {u : State} (hu : s.acceptFrame f flow.toNat fs ps = .ok u) :
    exec (.commandFrame port udp flow npkt z fs ps tag) s = .next u := by
  have hseal : (tag == gcmTag f.key (frameNonce flow fs) (frameBytes flow npkt z fs ps)) = true := beq_iff_eq.2 hs
  refine (exec_commandFrame ..).trans ?_
  unfold execCommandFrame
  dsimp only
  rw [hf, hio, hvalid, decide_eq_false (not_not.2 hport), decide_eq_false (not_le.2 hn), hu, (takesIo_up htakes).2, htakes, hp, hv,
    hfault, hseal, decide_eq_true hlast, decide_eq_true h1, decide_eq_true h32, beq_iff_eq.2 hten, beq_iff_eq.2 hz, beq_iff_eq.2 hlen]
  rfl

end Frames

theorem flow_updFlow (n : Nat) (g : Flow → Flow) :
    Sparse.get {} n (s.updFlow n g).io.flows = g (Sparse.get {} n s.io.flows) := Sparse.get_put_same

/-- Settles O46: an access is performed at its home by local_access and ingress_served, a frame by frame_passed and its like. -/
theorem requestsFromOutside : Obligations.RequestsFromOutside := by
  refine fun s => ?main
  case main =>
    intro answers gives stores
    have given : ∀ {m : Nat} {i : Instr} {v : Nat} {d p : Nat} {g : Hm}, exec i s =
        .next ((s.answerApp m { data := BitVec.ofNat 64 v }).rotate d p g) → gives m i v := by
      intro m i v d p g h
      obtain ⟨h1, -, h2, h3⟩ := answered_frame s m { data := BitVec.ofNat 64 v } d p g
      exact ⟨_, h, h1, h2, fun j => (congrArg (Sparse.get {} j) h3).trans Sparse.get_put⟩
    refine ⟨fun m a n v r ha h1 h8 hio hlay hp => ?control, fun m d a n v t hd ha h1 h8 htakes ht hlost hgo hv => ?loc,
      fun m g off n v w hm hg h1 h64 hl => ?ingress, fun port udp flow npkt z fs ps tag => ?frame⟩
    case control =>
      intro i
      obtain ⟨hr, hlow, -⟩ := physical_split (by decide : 8 < 256) ha
      obtain ⟨hstore, hload⟩ := control_access (m := m) (v := v) hr hlow h1 h8 hio hlay hp
      exact ⟨hstore.trans (exec_platformRegisterWrite ..).symm, _, hload, rfl, rfl, fun j => Sparse.get_put⟩
    case loc =>
      intro i
      obtain ⟨hr, hlow, hpa⟩ := physical_split (show d < 256 by omega) ha
      refine ⟨fun hb => ?_, ?_, fun o hn hal hb => ?_⟩
      · have hx := local_access (v := v) hd hr hlow (reqWhole_plain (m := m) h1 h8 (.inl rfl)) htakes ht hlost hgo hv
        rw [perform_load _ hb] at hx
        exact given hx
      · have hx := local_access (v := v) hd hr hlow (reqWhole_plain (m := m) h1 h8 (.inr rfl)) htakes ht hlost hgo hv
        rw [perform_store _ (isCurrent_platform _)] at hx
        obtain ⟨e1, e2, e3, -⟩ := answered_frame (s.write platformGen t.dla n (v.toNat % 2 ^ (8 * n))) m { data := BitVec.ofNat 64 0 }
          t.die (portOf t) t.gen
        exact ⟨_, hx, e3.trans (write_io ..).2, e1, e2⟩
      · have hwhole : reqWhole ⟨m, .amo o⟩ (BitVec.ofNat 64 (d * 2 ^ 48 + a)) n = true := by
          unfold reqWhole
          dsimp only
          rw [hpa]
          rcases hn with rfl | rfl
          · exact Bool.and_eq_true_iff.2 ⟨rfl, beq_iff_eq.2 (by omega)⟩
          · exact Bool.and_eq_true_iff.2 ⟨rfl, beq_iff_eq.2 (by omega)⟩
        have hx := local_access (v := v) hd hr hlow hwhole htakes ht hlost hgo hv
        rw [perform_amo _ hb (isCurrent_platform _)] at hx
        obtain ⟨e1, -, -, e4⟩ := answered_frame (s.write platformGen t.dla n (rvResult o n (s.read platformGen t.dla n) v.toNat
          % 2 ^ (8 * n))) m { data := BitVec.ofNat 64 (s.read platformGen t.dla n) } t.die (portOf t) t.gen
        exact ⟨_, hx, e1, (congrArg (Sparse.get {} m) e4).trans Sparse.get_put_same⟩
    case ingress =>
      intro i f e
      have run : ∀ w, exec (i w) s = .next (s.ingress f (65536 * m + g) off n w v.toNat) := fun w => outside_request hm hg hl
      refine ⟨fun he => ⟨_, (run w).trans (congrArg Host.Outcome.next (ingress_refused h1 h64 he)), rfl, rfl, rfl, rfl⟩,
        fun t he htakes ht hlost hgo hv => ⟨fun hw hb => ?_, fun hw hcur => ?_⟩⟩
      · have hx := (run w).trans (congrArg Host.Outcome.next (ingress_served h1 h64 rfl he htakes ht hlost hgo hv))
        rw [hw] at hx
        rw [show (if false = true then AppOp.store else .load) = .load from rfl, perform_load _ hb] at hx
        obtain ⟨e1, -, e3, e4, e5⟩ := answeredIo_frame s (s.read t.gen t.dla n) false t.die (portOf t) t.gen
        refine ⟨_, hx, e1, e3, ?_, e5⟩
        rw [e4]
        exact BitVec.toNat_ofNat ..
      · have hx := (run w).trans (congrArg Host.Outcome.next (ingress_served h1 h64 rfl he htakes ht hlost hgo hv))
        rw [hw] at hx
        rw [show (if true = true then AppOp.store else .load) = .store from rfl, perform_store _ hcur] at hx
        obtain ⟨e1, e2, e3, -, -⟩ := answeredIo_frame (s.write t.gen t.dla n (v.toNat % 2 ^ (8 * n))) 0 false t.die (portOf t) t.gen
        exact ⟨_, hx, e3.trans (write_io ..).2, e1, e2⟩
    case frame =>
      intro f x i hio
      refine ⟨fun h => ⟨_, frame_passed hio h, rfl, rfl, rfl, rfl⟩, fun hport hn hvalid => ?_⟩
      intro sealed
      refine ⟨fun h => ⟨_, frame_dropped hio hport hn rfl hvalid h, rfl, rfl, ?_, ?_⟩,
        fun htakes hlast hp hv hfault hten hz hlen h1 h32 hs u hu =>
          ⟨frame_accepted hio hport hn rfl hvalid htakes hlast hp hv hfault hten hz hlen h1 h32 hs hu, ?_, ?_⟩⟩
      · exact (congrArg Flow.drop (flow_updFlow ..) :)
      · exact (congrArg Flow.last (flow_updFlow ..) :)
      · exact congrArg Flow.last (acceptFrame_flow hu)
      · exact congrArg Flow.acc (acceptFrame_flow hu)

end Sys2Proof.Machine
end

section
/-! PROOFS. Module reset, the release of the dies, and the responder (spec 20). -/

namespace Sys2Proof.Machine

variable {s : State}

/-- A field of n bytes of a record is less than 2^(8 n). -/
theorem recField_lt (bs : List Byte) (o n : Nat) : recField bs o n < 2 ^ (8 * n) := by
  unfold recField
  have h : ∀ l : List Byte, l.foldr (fun b v => b.toNat + 256 * v) 0 < 2 ^ (8 * l.length) := by
    intro l
    induction l with
    | nil => exact Nat.one_pos
    | cons b l ih =>
      have hb := b.isLt
      rw [List.foldr_cons, List.length_cons, Nat.mul_add, Nat.pow_add]
      omega
  exact lt_of_lt_of_le (h _) (Nat.pow_le_pow_right (by decide) (Nat.mul_le_mul_left 8 (List.length_take_le ..)))

/-- A module reset leaves the trust die up exactly where it takes over the record (R454). -/
theorem moduleReset_trust (key : BitVec 512) (r : List Byte) (good : Bool) :
    let t := if good = true then trustOf key r else {}
    t.next = 0 ∧ (t.up = true ↔ good = true) ∧ (t.up = true → t.svn.toNat = recField r 8 8 ∧ t.recDigest = shake256 64 r) := by
  cases good with
  | false => exact ⟨rfl, Iff.rfl, fun h => absurd h Bool.false_ne_true⟩
  | true =>
    refine ⟨rfl, ⟨fun _ => rfl, fun _ => rfl⟩, fun _ => ⟨?_, rfl⟩⟩
    exact (BitVec.toNat_ofNat ..).trans (Nat.mod_eq_of_lt (recField_lt r 8 8))

/-! ### The release of the dies (R6, R455) -/

/-- Core n of a die takes its map from the record. -/
def State.bootCore (k : Nat) (good : Bool) (s : State) (n : Nat) : State :=
  s.updCore (Config.coresPerDie * k + n) (fun x => { x with
    ismap := Sparse.get 0x1FFF (Config.coresPerDie * k + n) s.trust.ismap
    withheld := !good || Sparse.get false (Config.coresPerDie * k + n) s.trust.withheld })

theorem bootCores_eq (k : Nat) (good : Bool) : s.bootCores k good = (List.range 64).foldl (State.bootCore k good) s := rfl

theorem bootCore_core (k : Nat) (good : Bool) (m n : Nat) :
    (n = m → ((s.bootCore k good m).core (64 * k + n)).ismap = Sparse.get 0x1FFF (64 * k + n) s.trust.ismap
      ∧ ((s.bootCore k good m).core (64 * k + n)).withheld = (!good || Sparse.get false (64 * k + n) s.trust.withheld))
    ∧ (n ≠ m → (s.bootCore k good m).core (64 * k + n) = s.core (64 * k + n)) := by
  have hd : Config.coresPerDie = 64 := rfl
  unfold State.bootCore
  rw [hd]
  refine ⟨fun h => ?_, fun h => ?_⟩
  · rw [h, State.core_updCore_same]
    exact ⟨rfl, rfl⟩
  · rw [State.core_updCore, if_neg (fun e => h (Nat.add_left_cancel e))]

/-- The boot of the first cores of a die gives each its map, and changes nothing but cores. -/
theorem bootFold_spec (k : Nat) (good : Bool) (m : Nat) : (∃ cs, (List.range m).foldl (State.bootCore k good) s = { s with cores := cs })
    ∧ ∀ n < m, (((List.range m).foldl (State.bootCore k good) s).core (64 * k + n)).ismap = Sparse.get 0x1FFF (64 * k + n) s.trust.ismap
      ∧ (((List.range m).foldl (State.bootCore k good) s).core (64 * k + n)).withheld =
        (!good || Sparse.get false (64 * k + n) s.trust.withheld) := by
  induction m with
  | zero => exact ⟨⟨s.cores, rfl⟩, fun n h => absurd h (Nat.not_lt_zero n)⟩
  | succ m ih =>
    obtain ⟨⟨cs, hcs⟩, hlow⟩ := ih
    rw [List.range_succ, List.foldl_append]
    rw [hcs] at hlow ⊢
    refine ⟨⟨_, rfl⟩, fun n hn => ?_⟩
    have hstep := bootCore_core (s := { s with cores := cs }) k good m n
    by_cases h : n = m
    · exact hstep.1 h
    · have e : (List.foldl (State.bootCore k good) { s with cores := cs } [m]).core (64 * k + n) = _ := hstep.2 h
      rw [e]
      exact hlow n (by omega)

theorem mirrorOwner_spec (k : Nat) (s : State) : (∃ ds, s.mirrorOwner k = { s with dies := ds })
    ∧ ∀ e, ((s.mirrorOwner k).die e).released = (s.die e).released := by
  unfold State.mirrorOwner
  generalize List.range Config.dies = l
  induction l generalizing s with
  | nil => exact ⟨⟨s.dies, rfl⟩, fun _ => rfl⟩
  | cons d l ih =>
    rw [List.foldl_cons]
    obtain ⟨⟨ds, hds⟩, hrel⟩ := ih (s.updDie d (fun x => { x with ownMir := Sparse.put none k (some (s.ownerReg k)) x.ownMir }))
    refine ⟨⟨ds, hds⟩, fun e => (hrel e).trans ?_⟩
    rw [State.die_updDie]
    split
    · next h => rw [h]
    · rfl

/-- The settling of the stacks changes no core, nor what is released. -/
theorem settleStacks_spec (k : Nat) (s : State) : (s.settleStacks k).cores = s.cores ∧ (s.settleStacks k).mem = s.mem
    ∧ (s.settleStacks k).trust = s.trust ∧ ∀ e, ((s.settleStacks k).die e).released = (s.die e).released := by
  unfold State.settleStacks
  split
  · exact ⟨rfl, rfl, rfl, fun _ => rfl⟩
  · generalize hu : List.foldl _ s [k, (k + 7) % 8] = u
    have h1 : u.cores = s.cores ∧ u.mem = s.mem ∧ u.trust = s.trust ∧ u.dies = s.dies := by
      rw [← hu]
      exact ⟨rfl, rfl, rfl, rfl⟩
    obtain ⟨hc, hm, ht, hd⟩ := h1
    obtain ⟨⟨ds, e⟩, hrel⟩ := mirrorOwner_spec k u
    rw [e] at hrel ⊢
    refine ⟨hc, hm, ht, fun x => (hrel x).trans ?_⟩
    unfold State.die
    rw [hd]

section Release
variable {img sig : List Byte} {applied : Bool}

/-- The trust die has measured the next die. -/
def State.measured (s : State) (img : List Byte) (good : Bool) : State :=
  { s with trust := { s.trust with
      next := s.trust.next + 1
      meas := if good then Sparse.put [] s.trust.next (shake256 64 (List.replicate 64 0 ++ shake256 64 img)) s.trust.meas else s.trust.meas
      dead := decide (s.trust.next = 0) && !good } }

/-- What the release of a die leaves, by which of the seventeen it is. -/
def State.released (s : State) (img : List Byte) (good : Bool) : State :=
  if s.trust.next = 0 then { s.measured img good with io := { s.io with released := good } }
  else if s.trust.next < 9 then (s.measured img good).updStack (s.trust.next - 1) (fun x => { x with present := good })
  else ((((s.measured img good).updDie (s.trust.next - 9) (fun x => { x with released := good, lcyc := 0 })).bootCores
    (s.trust.next - 9) good).settleStacks (s.trust.next - 9))

theorem dieRelease_eq (hup : s.trust.up = true) (hdead : s.trust.dead = false) (hn : s.trust.next < 17) :
    exec (.dieRelease img sig applied) s = .next (s.released img (!img.isEmpty && Config.slhVerify img sig && applied)) := by
  refine (exec_dieRelease ..).trans ?_
  unfold execDieRelease State.released State.measured
  dsimp only
  rw [hup, hdead, decide_eq_false (not_le.2 hn)]
  refine (if_neg (by decide)).trans ?_
  generalize (!img.isEmpty && Config.slhVerify img sig && applied) = good
  generalize shake256 64 (List.replicate 64 0 ++ shake256 64 img) = m
  by_cases h0 : s.trust.next = 0
  · rw [if_pos h0, if_pos h0]
    rfl
  · rw [if_neg h0, if_neg h0]
    by_cases h9 : s.trust.next < 9
    · rw [if_pos h9, if_pos h9]
      rfl
    · rw [if_neg h9, if_neg h9]
      rfl

/-- A compute die is released, its cores with their maps. -/
theorem released_compute {good : Bool} (h9 : 9 ≤ s.trust.next) : (s.released img good).mem = s.mem
    ∧ (s.released img good).trust = (s.measured img good).trust ∧ ((s.released img good).die (s.trust.next - 9)).released = good
    ∧ ∀ n < 64, let c := 64 * (s.trust.next - 9) + n
      ((s.released img good).core c).ismap = Sparse.get 0x1FFF c s.trust.ismap
      ∧ ((s.released img good).core c).withheld = (!good || Sparse.get false c s.trust.withheld) := by
  unfold State.released
  rw [if_neg (show s.trust.next ≠ 0 by omega), if_neg (not_lt.2 h9)]
  generalize hk : s.trust.next - 9 = k
  have hdie := congrArg Die.released (State.die_updDie_same (s.measured img good) k (fun x => { x with released := good, lcyc := 0 }))
  have hsame : ((s.measured img good).updDie k (fun x => { x with released := good, lcyc := 0 })).mem = s.mem
      ∧ ((s.measured img good).updDie k (fun x => { x with released := good, lcyc := 0 })).trust = (s.measured img good).trust := ⟨rfl, rfl⟩
  have hrec : (s.measured img good).trust.ismap = s.trust.ismap ∧ (s.measured img good).trust.withheld = s.trust.withheld := ⟨rfl, rfl⟩
  generalize (s.measured img good).updDie k (fun x => { x with released := good, lcyc := 0 }) = u at hdie hsame ⊢
  obtain ⟨hmem0, htrust0⟩ := hsame
  obtain ⟨hcores, hmem, htrust, hrel⟩ := settleStacks_spec k (u.bootCores k good)
  obtain ⟨⟨cs, hcs⟩, hboot⟩ := bootFold_spec (s := u) k good 64
  rw [← bootCores_eq] at hcs hboot
  rw [htrust0, hrec.1, hrec.2] at hboot
  refine ⟨?_, ?_, ?_, fun n hn => ?_⟩
  · rw [hmem, hcs]
    exact hmem0
  · rw [htrust, hcs]
    exact htrust0
  · rw [hrel, hcs]
    exact hdie
  · have hc : ((u.bootCores k good).settleStacks k).core (64 * k + n) = (u.bootCores k good).core (64 * k + n) := by
      unfold State.core
      rw [hcores]
    intro c
    rw [hc]
    exact hboot n hn

/-- What each release leaves. -/
theorem released_leaves {good : Bool} : let u := s.released img good
    u.trust.next = s.trust.next + 1 ∧ u.mem = s.mem
      ∧ (good = true → Sparse.get [] s.trust.next u.trust.meas = shake256 64 (List.replicate 64 0 ++ shake256 64 img))
      ∧ (s.trust.next = 0 → u.io.released = good ∧ u.trust.dead = !good)
      ∧ (1 ≤ s.trust.next → s.trust.next ≤ 8 → (u.stack (s.trust.next - 1)).present = good ∧ u.dies = s.dies)
      ∧ (9 ≤ s.trust.next → (u.die (s.trust.next - 9)).released = good ∧ ∀ n < 64, let c := 64 * (s.trust.next - 9) + n
          (u.core c).ismap = Sparse.get 0x1FFF c s.trust.ismap
          ∧ (u.core c).withheld = (!good || Sparse.get false c s.trust.withheld)) := by
  have hmeas : good = true → Sparse.get [] s.trust.next (s.measured img good).trust.meas =
      shake256 64 (List.replicate 64 0 ++ shake256 64 img) := fun h => by
    unfold State.measured
    rw [h]
    dsimp only
    rw [if_pos rfl, Sparse.get_put_same]
  by_cases h0 : s.trust.next = 0
  · have hu : s.released img good = { s.measured img good with io := { s.io with released := good } } := if_pos h0
    rw [hu]
    refine ⟨rfl, rfl, hmeas, fun _ => ⟨rfl, ?_⟩, fun h => absurd h (by omega), fun h => absurd h (by omega)⟩
    unfold State.measured
    rw [h0]
    rfl
  · by_cases h9 : s.trust.next < 9
    · have hu : s.released img good = (s.measured img good).updStack (s.trust.next - 1) (fun x => { x with present := good }) :=
        (if_neg h0).trans (if_pos h9)
      rw [hu]
      exact ⟨rfl, rfl, hmeas, fun h => absurd h h0, fun _ _ => ⟨congrArg Stack.present (Sparse.get_put_same ..), rfl⟩,
        fun h => absurd h (by omega)⟩
    · obtain ⟨hmem, htrust, hrel, hcores⟩ := released_compute (s := s) (img := img) (good := good) (not_lt.1 h9)
      intro u
      refine ⟨?_, hmem, fun h => ?_, fun h => absurd h h0, fun _ h => absurd h (by omega), fun _ => ⟨hrel, hcores⟩⟩
      · rw [htrust]
        rfl
      · rw [htrust]
        exact hmeas h

end Release

/-! ### The responder (R461, R462) -/

theorem respond_answers (hup : s.trust.up = true) (hio : s.io.released = true) (hn : s.trust.next = 17) (a : Spdm) :
    s.respond a = { s with trust := { s.trust with answer := a } } := by
  unfold State.respond
  rw [hup, hio, hn]
  rfl

theorem blocks_one {i : Nat} (h : i ≠ 0xFF) {b : List Byte} (hb : s.block i = some b) :
    s.blocks (if i = 0xFF then (List.range 20).map (· + 1) else [i]) = [(i, b)] := by
  rw [if_neg h]
  unfold State.blocks
  rw [List.filterMap_cons, hb]
  rfl

/-- Settles O47: reset by moduleReset_trust, release by the state that dieRelease_eq gives, the responder by respond_answers. -/
theorem theModuleBoots : Obligations.TheModuleBoots := by
  refine fun s => ?main
  case main =>
    intro next tells
    refine ⟨fun r => ?reset, fun img sig applied hup hdead hn => ?release, fun hup hio hn => ?responder⟩
    case reset =>
      obtain ⟨hnext, hiff, hfields⟩ := moduleReset_trust (Config.drawKey (s.free + 1)) r
        (recordLaid r && Config.slhVerify (r.take (recField r 24 4)) (r.drop (recField r 24 4)))
      refine ⟨_, exec_moduleReset .., rfl, rfl, rfl, rfl, rfl, rfl, hnext, hiff.trans ?_, hfields⟩
      rw [Bool.and_eq_true]
    case release =>
      intro good
      refine ⟨_, dieRelease_eq hup hdead hn, ?_⟩
      exact released_leaves
    case responder =>
      have answers : ∀ {i : Instr} {a : Spdm}, exec i s = .next (s.respond a) → tells i a := fun h =>
        h.trans (congrArg Host.Outcome.next (respond_answers hup hio hn _))
      have block : ∀ {i : Nat} {b : List Byte}, i ≠ 0xFF → s.block i = some b → tells (.getMeasurements i) (.measurements [(i, b)]) :=
        fun hi hb => answers ((exec_getMeasurements ..).trans (congrArg (fun l => Host.Outcome.next (s.respond (.measurements l))) (blocks_one hi hb)))
      refine ⟨answers (exec_getVersion s), answers (exec_getCapabilities s), answers (exec_negotiateAlgorithms s), answers (exec_getDigests s),
        fun o n => answers (exec_getCertificate o n s), fun t => answers (exec_challenge t s), block (by decide) rfl, fun i h2 h18 => ?_,
        block (by decide) rfl, answers (exec_unsupportedRequest s)⟩
      refine block (by omega) ?_
      unfold State.block
      rw [if_neg (by omega), if_pos ⟨h2, h18⟩]

end Sys2Proof.Machine
end

section
/-! PROOFS. Line transfers, remote posts and preloads (spec 10 R209-R234, spec 09 R200). -/

namespace Sys2Proof.Machine

variable {s : State} {c op : Nat} {x : Copy}

/-! ### What the end of a piece leaves -/

theorem State.dies_updCore (s : State) (c : Nat) (f : Core → Core) : (s.updCore c f).dies = s.dies := rfl

theorem countCopy_dies (n : Nat) : (s.countCopy c x n).dies = s.dies := by
  unfold State.countCopy
  dsimp only
  rw [State.dies_updCore]
  split
  · exact State.dies_updCore ..
  · exact State.dies_updCore ..
  · split
    · exact State.dies_updCore ..
    · rfl
  · exact State.dies_updCore ..

theorem movedPiece_dies (p : Piece) (now : Bool) : (s.movedPiece c x p now).dies = s.dies := by
  unfold State.movedPiece
  extract_lets left s1
  have h1 : s1.dies = s.dies := State.dies_updCore s c _
  clear_value s1
  split
  · split
    · exact (countCopy_dies _).trans h1
    · exact h1
  · exact h1

theorem countHint_op (d : Nat) (t : Option Nat) (cp hint e : Nat) : ((s.countHint d t cp hint).die e).op = (s.die e).op := by
  unfold State.countHint
  split
  · rfl
  · split
    · rfl
    · rw [State.die_updDie]
      split
      · next h =>
        rw [h]
        split <;> rfl
      · rfl

/-! ### A line transfer whose turn it is (R218) -/

/-- The hold of a piece that waits with its translation made. -/
def State.holdPiece (s : State) (core op idx : Nat) (src : Bool) (va : Nat) (t : Target) : State :=
  s.updCore core (fun k => k.updCopy op (fun y => { y with held := y.held ++ [(idx, src, va, t)] }))

/-- The entry of a copy's write (R291). -/
def State.enteringCopy (s : State) (c : Nat) (x : Copy) (t : Target) (n v : Nat) : OpEntry :=
  { wid := s.nextWid, core := c, thr := some x.id, seq := x.seq, gen := x.gen, tgt := t, size := n, data := BitVec.ofNat 1024 v
    scope := if t.ord = 0 then max 2 x.desc.scope else x.desc.scope }

/-- A write to a page that waits for nothing enters the die's ordering point (R291, R303). -/
theorem putGlobal_enters {idx a v n : Nat} {t : Target} (ht : s.translateCopy c x.gen a .write = .ok t) (hf : t.fwd = none)
    (hheld : x.held = []) (haccs : (s.core c).accs = []) : ∃ u now o, s.putGlobal c x idx a n v = .done u now
      ∧ (u.die (dieOf c)).op = (s.die (dieOf c)).op ++ [o] ∧ o.core = c ∧ o.thr = some x.id ∧ o.gen = x.gen ∧ o.tgt = t
      ∧ o.size = n ∧ o.data = BitVec.ofNat 1024 v := by
  have ht' : s.copyTarget c x idx a .write = .ok t := by
    unfold State.copyTarget
    rw [hheld]
    exact ht
  have hfork : (s.core c).forkedAfter x = [] := by
    unfold Core.forkedAfter
    rw [haccs]
    rfl
  have hbeat : s.beatWaits c x t = false := by
    unfold State.beatWaits
    rw [hfork, List.any_nil, Bool.and_false]
  unfold State.putGlobal
  rw [ht']
  dsimp only
  rw [hf, hfork, hbeat, if_neg (by decide), if_neg (by rw [List.any_nil, Bool.and_false]; decide)]
  refine ⟨_, _, s.enteringCopy c x t n v, rfl, ?_, rfl, rfl, rfl, rfl, rfl, rfl⟩
  refine (countHint_op ..).trans ?_
  rw [State.die_updCore]
  exact congrArg Die.op (State.die_updDie_same ..)

section Piece
variable {idx : Nat} {p : Piece} (hx : (s.core c).copy op = some x)
  (hp : x.desc.pieces.find? (fun q => q.idx == idx) = some p) (hgo : s.copyGo c x = true) (hnew : x.moved.contains idx = false)
  (hmust : CopyDesc.mustWait x x.desc.pieces p = false) (hroom : s.copyRoom c x idx = true) (hturn : s.engineTurn c x = true)
include hx hp hgo hnew hmust hroom hturn

/-- A transfer whose turn it is reads its piece. -/
theorem transfer_reads : exec (.copyLineTransfer c op idx) s =
    let hold := fun (src : Bool) (va : Nat) (t : Target) =>
      if x.held.any (fun h => h.1 == idx && h.2.1 == src && h.2.2.1 == va) then s else s.holdPiece c op idx src va t
    match s.fetchPiece c x p with
    | .wait => ok s
    | .port va t => ok ((hold true va t).queueRead t x.gen (copyReader c x.id))
    | .held va t => ok (hold true va t)
    | .fault f a => ok (s.copyFault c x f a)
    | .viol t => ok (((s.servedRead t x.gen (copyReader c x.id)).violation t x.gen c true).copyFault c x 0x25 t.dla)
    | .bad =>
      if x.retried.contains idx then ok (s.copyFault c x 0x03 0)
      else ok (s.updCore c (fun k => k.updCopy op (fun y => { y with retried := y.retried ++ [idx] })))
    | .data v pages homes =>
      let as_ := (match x.pageFmt with | some t => [t] | none => []) ++ pages.map (fun t => t.attrs x.desc.x)
      if as_.any (fun a => some a != as_.head?) then ok (s.copyFault c x 0x23 0)
      else
        let s1 := match x.pageFmt, as_.head? with
          | none, some t => s.recordPages c x t
          | _, _ => s
        let s2 := s1.served c x pages homes
        match s2.putPiece c x idx (x.desc.dstLoc c p) p.n v with
        | .wait => ok s
        | .held va t => ok (hold false va t)
        | .fault f a => ok (s2.copyFault c x f a)
        | .done s3 now => ok ((s3.movedPiece c x p now).rotate (dieOf c) (24 + dieOf c) x.gen) := by
  refine (exec_copyLineTransfer ..).trans ?_
  unfold execCopyLineTransfer
  rw [hx]
  dsimp only
  rw [hp]
  dsimp only
  rw [hgo, hnew, hmust, hroom, hturn]
  refine (if_neg (by decide)).trans ?_
  rfl

/-- What a transfer does with bytes that no page gives. -/
theorem transfer_data {v : Nat} (hf : s.fetchPiece c x p = .data v [] []) (hpage : x.pageFmt = none) :
    (∀ u now, s.putPiece c x idx (x.desc.dstLoc c p) p.n v = .done u now → exec (.copyLineTransfer c op idx) s =
        .next ((u.movedPiece c x p now).rotate (dieOf c) (24 + dieOf c) x.gen))
    ∧ ∀ f a, s.putPiece c x idx (x.desc.dstLoc c p) p.n v = .fault f a → exec (.copyLineTransfer c op idx) s =
        .next (s.copyFault c x f a) := by
  have h := transfer_reads hx hp hgo hnew hmust hroom hturn
  rw [hf] at h
  dsimp only at h
  rw [hpage] at h
  have hserved : s.served c x [] [] = s := by
    unfold State.served beats
    cases x.desc.x <;> rfl
  rw [List.map_nil, List.append_nil] at h
  dsimp only [List.head?_nil] at h
  replace h := h.trans (if_neg Bool.false_ne_true)
  rw [hserved] at h
  refine ⟨fun u now hu => ?_, fun f a hu => ?_⟩
  · rw [hu] at h
    exact h
  · rw [hu] at h
    exact h

/-- What a transfer does with a page whose attributes differ (R222, R223). -/
theorem transfer_disagrees {v : Nat} {t : Target} {ts hs : List Target} (hf : s.fetchPiece c x p = .data v (t :: ts) hs)
    (hpage : x.pageFmt ≠ none) (hne : x.pageFmt ≠ some (t.attrs x.desc.x)) :
    exec (.copyLineTransfer c op idx) s = .next (s.copyFault c x 0x23 0) := by
  obtain ⟨a, ha⟩ := Option.ne_none_iff_exists'.1 hpage
  have h := transfer_reads hx hp hgo hnew hmust hroom hturn
  rw [hf] at h
  dsimp only at h
  rw [ha] at h hne
  refine h.trans (if_pos ?_)
  have hd : (some (t.attrs x.desc.x) != some a) = true := bne_iff_ne.2 (fun e => hne e.symm)
  show ((some a != some a) || ((some (t.attrs x.desc.x) != some a) || _)) = true
  rw [hd, Bool.true_or, Bool.or_true]

end Piece

/-! ### Remote posts (R227) -/

/-- A post message by the state of the remote handle. -/
theorem remotePost_posts {e h : Nat} (hx : (s.core c).copy op = some x) (hobj : x.obj = .remote e h) (hposted : x.posted = false)
    (hgo : s.copyGo c { x with posted := true } = true) :
    (s.heldBy e x.gen = false → exec (.remotePost c op) s = .next (s.copyFault c x 0x27 0))
    ∧ (s.heldBy e x.gen = true → (s.core e).phase < 3 → exec (.remotePost c op) s = .next (
      let y := (s.core e).handle x.gen h
      let s1 := s.updCore c (fun k => k.updCopy op (fun z => { z with posted := true }))
      let f := s.postFmt c x
      match y.st with
      | .error => s1
      | .free => s1.updCore e (fun k => k.setHandle x.gen h { y with
          exp := x.bytes, cnt := 0, fmt := BitVec.ofNat 6 f.1, geo := BitVec.ofNat 3 f.2, refetch := false,
          desc := none, st := .filling })
      | .filling =>
        if 0xFFFFF < y.exp + x.bytes then (s1.updCore e (fun k => k.failHandle x.gen h 0x20)).copyFault c x 0x20 0
        else s1.updCore e (fun k => k.setHandle x.gen h { y with exp := y.exp + x.bytes })
      | _ => (s1.updCore e (fun k => k.failHandle x.gen h 0x20)).copyFault c x 0x20 0)) := by
  have hmsg : ∀ {o : Out}, execRemotePost c op s = o → exec (.remotePost c op) s = o := fun h => (exec_remotePost ..).trans h
  rw [hobj] at hgo
  refine ⟨fun hn => hmsg ?_, fun hh hph => hmsg ?_⟩
  all_goals
    unfold execRemotePost
    rw [hx]
    dsimp only
    rw [hobj]
    dsimp only
    rw [hposted, hgo]
  · rw [hn]
    rfl
  · rw [hh, show (s.core e).refuses = false from decide_eq_false (not_le.2 hph)]
    refine (if_neg (by decide)).trans ((if_neg (by decide)).trans ((if_neg (by decide)).trans ?_))
    cases ((s.core e).handle x.gen h).st with
    | filling => exact (apply_ite Host.Outcome.next ..).symm
    | _ => rfl

/-! ### Preloads (R200) -/

/-- The banks that a preload names. -/
def bankList (m : BitVec 16) : List Nat := (List.range 16).filter (fun b => m.getLsbD b)

theorem mem_bankList {m : BitVec 16} {b : Nat} : b ∈ bankList m ↔ b < 16 ∧ m.getLsbD b = true := by
  unfold bankList
  rw [List.mem_filter, List.mem_range]

theorem bankList_empty {m : BitVec 16} (h : (bankList m).isEmpty = true) : m = 0 := by
  refine BitVec.eq_of_getLsbD_eq fun b hb => ?_
  have hn : ¬ m.getLsbD b = true := fun hm => by
    have := mem_bankList.2 ⟨hb, hm⟩
    rw [List.isEmpty_iff.1 h] at this
    exact List.not_mem_nil this
  rw [Bool.not_eq_true] at hn
  rw [hn]
  exact (BitVec.getLsbD_zero ..).symm

/-- Putting one value at each of some keys. -/
theorem get_foldl_put_list {α : Type} [DecidableEq α] {z v : α} (j : Nat) : ∀ (l : List Nat) (m : Sparse α),
    Sparse.get z j (l.foldl (fun m b => Sparse.put z b v m) m) = if j ∈ l then v else Sparse.get z j m
  | [], m => (if_neg List.not_mem_nil).symm
  | b :: l, m => by
    rw [List.foldl_cons, get_foldl_put_list j l, Sparse.get_put]
    by_cases h : j ∈ l
    · rw [if_pos h, if_pos (List.mem_cons_of_mem _ h)]
    · rw [if_neg h]
      exact if_congr ⟨fun e => List.mem_cons.2 (.inl e), fun e => (List.mem_cons.1 e).resolve_right h⟩ rfl rfl

section Preload
variable {i : Nat} {r : Staged}

/-- The copy of a preload that starts. -/
def State.preloadCopy (s : State) (c : Nat) (r : Staged) : Copy :=
  { id := (s.core c).nextId, seq := (s.core c).copySeq + 1, desc := r.desc, obj := .staging (s.core c).nextId
    gen := (match (s.core c).ten with
      | some t => s.genOn (dieOf c) t
      | none => nullGen), bytes := r.desc.bytes, forkAt := s.nextWid }

/-- The staging record of a preload that starts counts its bytes. -/
def State.preloadHandle (s : State) (c : Nat) (r : Staged) : Handle :=
  let g := (s.preloadCopy c r).gen
  let f := s.copyFmt c g r.desc (0, 0)
  { exp := r.desc.bytes, fmt := BitVec.ofNat 6 f.1, geo := BitVec.ofNat 3 f.2, refetch := true, st := .filling, hm := g
    desc := some r.desc }

theorem preload_starts (hr : (s.core c).staging[i]? = some r) (hop : r.op = none) (hq : (s.core c).queueUse < 64)
    (hrun : r.banks = 0 → (s.core c).running = false)
    (hfree : ∀ b, r.banks.getLsbD b = true → Sparse.get BankState.released b (s.core c).banks = .released) :
    exec (.preloadStart c i) s = .next (s.updCore c (fun k => { k with
      nextId := k.nextId + 1, copySeq := k.copySeq + 1, copies := k.copies ++ [s.preloadCopy c r]
      preloads := k.preloads ++ [((s.preloadCopy c r).id, r.banks)]
      banks := (bankList r.banks).foldl (fun m b => Sparse.put .released b .preloading m) k.banks
      staging := k.staging.set i { r with held := s.preloadHandle c r, op := some k.nextId } })) := by
  refine (exec_preloadStart ..).trans ?_
  unfold execPreloadStart
  extract_lets k
  rw [show k.staging[i]? = some r from hr]
  dsimp only
  refine (if_neg ?_).trans rfl
  have hall : ∀ free : Nat → Bool, (∀ b ∈ bankList r.banks, free b = true) → (bankList r.banks).all free = true :=
    fun free h => List.all_eq_true.2 h
  have hidle : ((bankList r.banks).isEmpty && k.running) = false := by
    cases he : (bankList r.banks).isEmpty with
    | false => rfl
    | true => exact hrun (bankList_empty he)
  rw [show k.running = (s.core c).running from rfl] at hidle
  rw [hop, decide_eq_false (show ¬ 64 ≤ k.queueUse from not_le.2 hq), Bool.or_false]
  change ¬ (((false || !(bankList r.banks).all _) || ((bankList r.banks).isEmpty && (s.core c).running)) = true)
  rw [hidle, hall]
  · decide
  · intro b hb
    refine (Bool.or_eq_true _ _).mpr (.inl ?_)
    exact beq_iff_eq.2 (hfree b (mem_bankList.1 hb).2)

end Preload

/-- Settles O48: a transfer by transfer_reads, a post by its handle's state, a preload by preload_starts. -/
theorem copiesMovePostAndPreload : Obligations.CopiesMovePostAndPreload := by
  refine ⟨fun s c op x hx => ⟨fun idx p hp hgo hnew hmust hroom hturn => ?transfer, fun e n hobj hposted hgo => ?post⟩,
    fun s c i r => ?preload⟩
  case transfer =>
    intro run
    have reads := transfer_reads hx hp hgo hnew hmust hroom hturn
    refine ⟨fun v hf hpage => ?data, fun f a hf => ?_, fun a t hf hheld => ?_, fun a t hf hheld => ?_,
      fun v t ts hs hf hpage hne => transfer_disagrees hx hp hgo hnew hmust hroom hturn hf hpage hne, fun hf => ⟨fun hr => ?_, fun hr => ?_⟩⟩
    case data =>
      intro img moves far
      obtain ⟨put, fault⟩ := transfer_data hx hp hgo hnew hmust hroom hturn hf hpage
      have refuses : ∀ {e : Nat}, (s.core e).phase < 3 → (s.core e).refuses = false := fun h => decide_eq_false (not_le.2 h)
      refine ⟨fun a ha => put _ _ ?_, fun a ha => put _ _ ?_, fun e a ha hfar => put _ _ ?_, fun e a ha hfar => put _ _ ?_,
        fun r hr htask hph hpend => put _ _ ?_, fun a t ha ht hfwd hheld haccs => ?va, fun hh => fault _ _ ?_,
        fun e a ha hn => fault _ _ ?_, fun e a ha hh hph => fault _ _ ?_⟩
      case va =>
        obtain ⟨u, now, o, hput, hop, ho⟩ := putGlobal_enters (idx := idx) (v := v) (n := p.n) ht hfwd hheld haccs
        refine ⟨_, put u now (by rw [ha]; exact hput), o, ?_, ho⟩
        obtain ⟨rr, er⟩ := (u.movedPiece c x p now).rotate_eq (dieOf c) (24 + dieOf c) x.gen
        rw [er]
        show ((Sparse.get {} (dieOf c) (u.movedPiece c x p now).dies).op) = _
        rw [movedPiece_dies]
        exact hop
      · rw [ha]
        rfl
      · rw [ha]
        rfl
      · rw [ha]
        unfold State.putPiece
        dsimp only
        rw [hfar.1, refuses hfar.2]
        rfl
      · rw [ha]
        unfold State.putPiece
        dsimp only
        rw [hfar.1, refuses hfar.2]
        rfl
      · rw [hr]
        show s.putReg c x.gen r v = _
        have hany : (s.core c).pend.any (fun q => decide (q.reg = r) && !q.shadow) = false := by
          refine List.any_eq_false.2 fun q hq => ?_
          rw [Bool.and_eq_true, decide_eq_true_eq]
          rintro ⟨h1, h2⟩
          rw [hpend q hq h1] at h2
          exact Bool.false_ne_true h2
        unfold State.putReg
        dsimp only
        rw [Option.isNone_eq_false_iff.2 (Option.isSome_iff_ne_none.2 htask), beq_eq_false_iff_ne.2 hph, hany]
        rfl
      · rw [hh]
        rfl
      · rw [ha]
        unfold State.putPiece
        dsimp only
        rw [hn]
        rfl
      · rw [ha]
        unfold State.putPiece Core.refuses
        dsimp only
        rw [hh, decide_eq_true hph]
        rfl
    · rw [hf] at reads
      exact reads
    · rw [hf] at reads
      dsimp only at reads
      rw [hheld] at reads
      exact reads
    · rw [hf] at reads
      dsimp only at reads
      rw [hheld] at reads
      exact reads
    · rw [hf] at reads
      exact reads.trans (if_pos hr)
    · rw [hf] at reads
      exact reads.trans (if_neg (by rw [hr]; exact Bool.false_ne_true))
  case post =>
    intro run y sent failed f
    have posts := remotePost_posts hx hobj hposted hgo
    refine ⟨fun hn => posts.1 hn, fun hh hph => ?_⟩
    have hy := posts.2 hh hph
    dsimp only at hy
    refine ⟨fun h => ?_, fun h => ?_, fun h => ?_, fun h => ?_⟩
    · rw [show ((s.core e).handle x.gen n).st = .free from h] at hy
      exact hy
    · have hst : ((s.core e).handle x.gen n).st = .filling := h
      split at hy
      · next h' => exact absurd (h'.symm.trans hst) (by decide)
      · next h' => exact absurd (h'.symm.trans hst) (by decide)
      · exact hy
      · next h' => exact absurd hst h'
    · rcases h with h | h
      · rw [show ((s.core e).handle x.gen n).st = .full from h] at hy
        exact hy
      · rw [show ((s.core e).handle x.gen n).st = .draining from h] at hy
        exact hy
    · rw [show ((s.core e).handle x.gen n).st = .error from h] at hy
      exact hy
  case preload =>
    intro k hr hop hq hrun hfree
    refine ⟨_, preload_starts hr hop hq hrun hfree, ?_⟩
    rw [State.core_updCore_same]
    refine ⟨fun b hb => ?_, ⟨s.preloadCopy c r, rfl, rfl, rfl, rfl, rfl⟩,
      ⟨{ r with held := s.preloadHandle c r, op := some k.nextId }, rfl, rfl, rfl, rfl, rfl, rfl⟩, rfl, rfl, rfl, fun e he => ?_⟩
    · refine (get_foldl_put_list ..).trans (if_congr ?_ rfl rfl)
      exact mem_bankList.trans (and_iff_right hb)
    · rw [State.core_updCore, if_neg he]

end Sys2Proof.Machine
end

section
/-! PROOFS. The allocator of generations and its grants (spec 15 R341-R346). -/

namespace Sys2Proof.Machine

variable {s u : State} {t : Nat}

/-! ### Generations of the dies -/

theorem genOn_setGenOn (s : State) (d t : Nat) (g : Hm) (x y : Nat) :
    (s.setGenOn d t g).genOn x y = if x = d ∧ y = t then g else s.genOn x y := by
  unfold State.setGenOn State.genOn Sparse.upd
  dsimp only
  rw [Sparse.get_put]
  by_cases hx : x = d
  · rw [if_pos hx, Sparse.get_put, hx]
    exact if_congr (and_iff_right rfl).symm rfl rfl
  · rw [if_neg hx, if_neg (fun h => hx h.1)]

/-- A generation made current on some dies. -/
theorem genOn_setGens (t : Nat) (g : Hm) (x y : Nat) : ∀ (l : List Nat) (s : State),
    (l.foldl (fun s d => s.setGenOn d t g) s).genOn x y = if x ∈ l ∧ y = t then g else s.genOn x y
  | [], s => (if_neg (fun h => List.not_mem_nil h.1)).symm
  | d :: l, s => by
    rw [List.foldl_cons, genOn_setGens t g x y l, genOn_setGenOn, ← ite_or]
    refine if_congr ?_ rfl rfl
    rw [List.mem_cons, or_and_right, or_comm]

theorem setGens_eq (t : Nat) (g : Hm) : ∀ (l : List Nat) (s : State), ∃ m, l.foldl (fun s d => s.setGenOn d t g) s = { s with gens := m }
  | [], s => ⟨s.gens, rfl⟩
  | d :: l, s => (setGens_eq t g l (s.setGenOn d t g)).imp fun _ h => h

theorem setGenAll_eq (s : State) (t : Nat) (g : Hm) : ∃ m, s.setGenAll t g = { s with gens := m } := setGens_eq ..

theorem genOn_setGenAll {d : Nat} (hd : d < 17) (s : State) (t : Nat) (g : Hm) : (s.setGenAll t g).genOn d t = g :=
  (genOn_setGens t g d t (List.range 17) s).trans (if_pos ⟨List.mem_range.2 hd, rfl⟩)

theorem tenancy_updTen (s : State) (t : Nat) (f : Tenancy → Tenancy) (x : Nat) :
    (s.updTen t f).tenancy x = if x = t then f (s.tenancy t) else s.tenancy x := Sparse.get_put

/-! ### Grants (R346) -/

theorem dlaWrite_eq {d a n v : Nat} (h : s.dlaWrite d a n v = .ok u) : ∃ m hm b w,
    u = { s with mem := m, hallmarks := hm, badGranules := b, cxlWrites := w } := by
  unfold State.dlaWrite at h
  split at h
  · exact absurd h nofun
  · split at h
    · exact absurd h nofun
    · split at h
      · exact absurd h nofun
      · rw [← Except.ok.inj h]
        exact State.write_eq ..

/-- What the grants of the allocator leave: cores and dies, queued TENENDs, no TENEND that runs anew, and every number in use. -/
structure State.Granted (s u : State) : Prop where
  cores : u.cores = s.cores
  dies : u.dies = s.dies
  queued : ∀ x, (u.tenancy x).queued = (s.tenancy x).queued
  ending : ∀ x, (s.tenancy x).ending = none → (u.tenancy x).ending = none
  states : ∀ n, Sparse.get GenState.free n s.genStates ≠ .free →
    Sparse.get GenState.free n u.genStates = Sparse.get GenState.free n s.genStates

theorem State.Granted.refl (s : State) : s.Granted s := ⟨rfl, rfl, fun _ => rfl, fun _ h => h, fun _ _ => rfl⟩

theorem State.Granted.trans {s u w : State} (h : s.Granted u) (h' : u.Granted w) : s.Granted w := by
  obtain ⟨c1, d1, q1, e1, g1⟩ := h
  obtain ⟨c2, d2, q2, e2, g2⟩ := h'
  refine ⟨c2.trans c1, d2.trans d1, fun x => (q2 x).trans (q1 x), fun x hx => e2 x (e1 x hx), fun n hn => ?_⟩
  have h1 := g1 n hn
  exact (g2 n (by rw [h1]; exact hn)).trans h1

/-- What a tenancy is once it has been given a number. -/
def Tenancy.given (x : Tenancy) (g : Hm) (serial : Nat) : Tenancy :=
  { x with gen := some g, serial := serial, deferred := none
           ending := x.ending.map (fun e => { e with newGen := some g, newSerial := serial }) }

/-- The state in which tenancy t has number n. -/
def State.gave (s : State) (t n : Nat) : State :=
  (s.handOut n).updTen t (fun x => x.given (BitVec.ofNat 16 n) (s.lastSerial + 1))

theorem gave_tenancy (s : State) (t n : Nat) :
    (s.gave t n).tenancy t = (s.tenancy t).given (BitVec.ofNat 16 n) (s.lastSerial + 1) :=
  (tenancy_updTen (s.handOut n) t (fun x => x.given (BitVec.ofNat 16 n) (s.lastSerial + 1)) t).trans (if_pos rfl)

theorem gave_granted {n : Nat} (hn : Sparse.get GenState.free n s.genStates = .free) : s.Granted (s.gave t n) := by
  refine ⟨rfl, rfl, fun x => ?_, fun x hx => ?_, fun m hm => ?_⟩
  · unfold State.gave
    rw [tenancy_updTen]
    split
    · next h => rw [h]; rfl
    · rfl
  · unfold State.gave
    rw [tenancy_updTen]
    split
    · next h =>
      rw [h] at hx
      show Option.map _ (s.tenancy t).ending = none
      rw [hx]
      rfl
    · exact hx
  · show Sparse.get GenState.free m (Sparse.put .free n .live s.genStates) = _
    rw [Sparse.get_put, if_neg (by rintro rfl; exact hm hn)]

/-- A grant, in the state of the given number, makes it current and completes the record that waits for it. -/
theorem grant_eq (s : State) (t n : Nat) : ∃ gs m h b w,
    s.grant t n = { s.gave t n with gens := gs, mem := m, hallmarks := h, badGranules := b, cxlWrites := w }
      ∧ ((s.tenancy t).ending = none → ∀ d < 17, Sparse.get nullGen t (Sparse.get [] d gs) = BitVec.ofNat 16 n) := by
  have hgave : ∀ s1 : State, s1 = s.gave t n → ∃ gs m h b w, (match (s.tenancy t).ending with
      | some e => e.switched.foldl (fun s d => s.setGenOn d t (BitVec.ofNat 16 n)) s1
      | none =>
        let s2 := s1.setGenAll t (BitVec.ofNat 16 n)
        match (s.tenancy t).deferred with
        | none => s2
        | some a =>
          let fl := s2.read platformGen (a.toNat + 16) 4
          let at_ := s2.gate 8 a.toNat
          match s2.dlaWrite at_ (a.toNat + 8) 8 (incarnationOf (some (BitVec.ofNat 16 n)) (s.lastSerial + 1)) with
          | .error _ => s2
          | .ok s3 => (s3.dlaWrite at_ (a.toNat + 16) 4 (if fl / 2 ^ 17 % 2 = 1 then fl - 2 ^ 17 else fl)).toOption.getD s3) =
        { s1 with gens := gs, mem := m, hallmarks := h, badGranules := b, cxlWrites := w }
      ∧ ((s.tenancy t).ending = none → ∀ d < 17, Sparse.get nullGen t (Sparse.get [] d gs) = BitVec.ofNat 16 n) := by
    intro s1 _
    cases (s.tenancy t).ending with
    | some e =>
      obtain ⟨gs, hgs⟩ := setGens_eq t (BitVec.ofNat 16 n) e.switched s1
      exact ⟨gs, s1.mem, s1.hallmarks, s1.badGranules, s1.cxlWrites, hgs, nofun⟩
    | none =>
      obtain ⟨gs, hgs⟩ := setGenAll_eq s1 t (BitVec.ofNat 16 n)
      have hcur : ∀ d < 17, Sparse.get nullGen t (Sparse.get [] d gs) = BitVec.ofNat 16 n := fun d hd => by
        have h := genOn_setGenAll hd s1 t (BitVec.ofNat 16 n)
        rw [hgs] at h
        exact h
      dsimp only
      rw [hgs]
      cases (s.tenancy t).deferred with
      | none => exact ⟨gs, s1.mem, s1.hallmarks, s1.badGranules, s1.cxlWrites, rfl, fun _ => hcur⟩
      | some a =>
        dsimp only
        split
        · exact ⟨gs, s1.mem, s1.hallmarks, s1.badGranules, s1.cxlWrites, rfl, fun _ => hcur⟩
        · next s3 h3 =>
          obtain ⟨m, h, b, w, e3⟩ := dlaWrite_eq h3
          generalize hr : s3.dlaWrite _ _ _ _ = r
          cases r with
          | error f => exact ⟨gs, m, h, b, w, e3, fun _ => hcur⟩
          | ok s4 =>
            obtain ⟨m4, h4, b4, w4, e4⟩ := dlaWrite_eq hr
            rw [e3] at e4
            exact ⟨gs, m4, h4, b4, w4, e4, fun _ => hcur⟩
  exact hgave (s.gave t n) rfl

theorem grant_granted {n : Nat} (hn : Sparse.get GenState.free n s.genStates = .free) : s.Granted (s.grant t n) := by
  obtain ⟨gs, m, h, b, w, e, -⟩ := grant_eq s t n
  obtain ⟨hc, hd, hq, he, hg⟩ := gave_granted (t := t) hn
  rw [e]
  exact ⟨hc, hd, hq, he, hg⟩

theorem grants_granted : ∀ (l : List Nat) (s : State), s.Granted (s.grants l)
  | [], s => .refl s
  | t :: rest, s => by
    unfold State.grants
    split
    · exact .refl s
    · split
      · exact .refl s
      · next n hn =>
        have h0 : s.Granted { s with deferred := rest } := ⟨rfl, rfl, fun _ => rfl, fun _ h => h, fun _ _ => rfl⟩
        exact (h0.trans (grant_granted (s := { s with deferred := rest }) (State.freeFrom_free (s := s) _ _ _ hn))).trans (grants_granted rest _)

theorem grantAll_granted (s : State) : s.Granted s.grantAll := grants_granted ..

/-- Where no tenancy waits for a number, none is given. -/
theorem grantAll_none (h : s.deferred = []) : s.grantAll = s := by
  unfold State.grantAll
  rw [h]
  rfl

/-- A TENEND that is not queued does not start. -/
theorem nextTenend_none (h : (s.tenancy t).queued = []) : s.nextTenend t = s := by
  unfold State.nextTenend
  dsimp only
  rw [h]

/-! ### The opening of a tenancy (R341) -/

/-- The state in which tenancy t is opened with number n. -/
def State.openedWith (s : State) (t n : Nat) : State :=
  ((s.handOut n).updTen t (fun x => { x with opened := true, gen := some (BitVec.ofNat 16 n), serial := s.lastSerial + 1 })).setGenAll
    t (BitVec.ofNat 16 n)

theorem tenancyOpen_opens {n : Nat} (ht : t < 4096) (hio : s.io.released = true) (hopen : (s.tenancy t).opened = false)
    (hend : (s.tenancy t).ending = none) (hq : (s.tenancy t).queued = []) (hdef : t ∉ s.deferred)
    (hnone : s.grantAll.deferred = []) (hn : s.grantAll.nextFree = some n) :
    exec (.tenancyOpen t) s = .next (s.grantAll.openedWith t n) := by
  have hcont : s.deferred.contains t = false := by
    rw [← Bool.not_eq_true, List.contains_iff_mem]
    exact hdef
  have hnew : s.grantAll.newFree = some n := by
    unfold State.newFree
    rw [hnone]
    exact hn
  refine (exec_tenancyOpen ..).trans ?_
  unfold execTenancyOpen
  dsimp only
  rw [hio, hopen, hend, hq, hcont, decide_eq_false (not_le.2 ht), hnew]
  rfl

theorem handOut_key (s : State) (n : Nat) :
    Sparse.get none n (s.handOut n).trust.keys = some ⟨s.lastSerial + 1, Config.drawKey (s.free + 1)⟩ := by
  unfold State.handOut
  dsimp only
  rw [Sparse.get_put_same]

theorem handOut_live (s : State) (n : Nat) : Sparse.get GenState.free n (s.handOut n).genStates = .live := by
  unfold State.handOut
  dsimp only
  rw [Sparse.get_put_same]

/-- What the opening leaves. -/
theorem openedWith_leaves (s : State) (t n : Nat) : let u := s.openedWith t n
    u.mem = s.mem ∧ u.cores = s.cores ∧ (u.tenancy t).opened = true ∧ (u.tenancy t).gen = some (BitVec.ofNat 16 n)
      ∧ (u.tenancy t).serial = s.lastSerial + 1 ∧ u.lastSerial = s.lastSerial + 1 ∧ Sparse.get GenState.free n u.genStates = .live
      ∧ (∃ key, Sparse.get none n u.trust.keys = some ⟨s.lastSerial + 1, key⟩)
      ∧ (∀ d < 17, u.genOn d t = BitVec.ofNat 16 n) ∧ ∀ x, x ≠ t → u.tenancy x = s.tenancy x := by
  have hcur := fun d (hd : d < 17) => genOn_setGenAll hd ((s.handOut n).updTen t (fun x =>
    { x with opened := true, gen := some (BitVec.ofNat 16 n), serial := s.lastSerial + 1 })) t (BitVec.ofNat 16 n)
  unfold State.openedWith
  obtain ⟨gs, e⟩ := setGenAll_eq ((s.handOut n).updTen t (fun x =>
    { x with opened := true, gen := some (BitVec.ofNat 16 n), serial := s.lastSerial + 1 })) t (BitVec.ofNat 16 n)
  rw [e] at hcur ⊢
  have hten := tenancy_updTen (s.handOut n) t (fun x => { x with opened := true, gen := some (BitVec.ofNat 16 n), serial := s.lastSerial + 1 })
  have hsame := (hten t).trans (if_pos rfl)
  refine ⟨rfl, rfl, congrArg Tenancy.opened hsame, congrArg Tenancy.gen hsame, congrArg Tenancy.serial hsame, rfl,
    handOut_live s n, ⟨Config.drawKey (s.free + 1), handOut_key s n⟩, hcur, fun x hx => (hten x).trans (if_neg hx)⟩

/-- A number that becomes free goes to the tenancy that has waited longest for one (R346, R352). -/
theorem generationGrant_grants {rest : List Nat} {n : Nat} (hdef : s.deferred = t :: rest) (hend : (s.tenancy t).ending = none)
    (hq : (s.tenancy t).queued = []) (hheld : s.recordHeld t = false) (hn : s.nextFree = some n) :
    ∃ u, exec .generationGrant s = .next u ∧ u.deferred = rest ∧ (u.tenancy t).gen = some (BitVec.ofNat 16 n)
      ∧ (u.tenancy t).serial = s.lastSerial + 1 ∧ u.cores = s.cores ∧ ∀ d < 17, u.genOn d t = BitVec.ofNat 16 n := by
  have hx : exec .generationGrant s = .next ((({ s with deferred := rest } : State).grant t n).nextTenend t) := by
    refine (exec_generationGrant ..).trans ?_
    unfold execGenerationGrant
    rw [hdef]
    dsimp only
    rw [hn]
    dsimp only
    rw [hheld]
    rfl
  have hfree : Sparse.get GenState.free n ({ s with deferred := rest } : State).genStates = .free := State.freeFrom_free (s := s) _ _ _ hn
  have hgr := grant_granted (s := { s with deferred := rest }) (t := t) hfree
  rw [nextTenend_none ((hgr.queued t).trans hq)] at hx
  obtain ⟨gs, m, h, b, w, e, hcur⟩ := grant_eq { s with deferred := rest } t n
  have hten : ((State.grant { s with deferred := rest } t n).tenancy t) = (s.tenancy t).given (BitVec.ofNat 16 n) (s.lastSerial + 1) := by
    rw [e]
    exact gave_tenancy { s with deferred := rest } t n
  refine ⟨_, hx, ?_, ?_, ?_, hgr.cores, fun d hd => ?_⟩
  · rw [e]
    rfl
  · rw [hten]
    rfl
  · rw [hten]
    rfl
  · rw [e]
    exact hcur hend d hd

end Sys2Proof.Machine
end

section
/-! PROOFS. The switch of a TENEND on a die (spec 15 R354, R355). -/

namespace Sys2Proof.Machine

variable {s u : State} {t d : Nat} {e : TenEnd}

/-! ### A core at the switch -/

/-- A core of the tenancy holds nothing of the old generation, and stops at once or within its die's 64 lc. -/
theorem afterSwitch_leaves (k : Core) (g : Hm) (now : Nat) : (∀ y ∈ (k.afterSwitch g now).copies, y.gen ≠ g)
    ∧ (∀ y ∈ (k.afterSwitch g now).calls, y.gen ≠ g) ∧ (∀ y ∈ (k.afterSwitch g now).accs, y.gen ≠ g)
    ∧ ((k.afterSwitch g now).task = none ∨ (k.afterSwitch g now).stopping = some now) := by
  have hcopies : ∀ y ∈ k.copies.filter (fun x => x.gen != g), y.gen ≠ g := fun y hy => bne_iff_ne.1 (List.mem_filter.1 hy).2
  have hcalls : ∀ y ∈ k.calls.filter (fun x => x.gen != g), y.gen ≠ g := fun y hy => bne_iff_ne.1 (List.mem_filter.1 hy).2
  have haccs : ∀ y ∈ k.accs.filter (fun x => x.gen != g), y.gen ≠ g := fun y hy => bne_iff_ne.1 (List.mem_filter.1 hy).2
  unfold Core.afterSwitch
  dsimp only
  split
  · exact ⟨hcopies, hcalls, haccs, .inl rfl⟩
  · split
    · exact ⟨hcopies, hcalls, fun y hy => absurd hy List.not_mem_nil, .inl rfl⟩
    · exact ⟨hcopies, hcalls, haccs, .inr rfl⟩

/-- A core that stops is idle, with nothing in flight. -/
theorem stop_leaves (k : Core) : k.stop.task = none ∧ k.stop.stopping = none ∧ k.stop.accs = [] ∧ k.stop.copies = [] :=
  ⟨rfl, rfl, rfl, rfl⟩

/-! ### What the switch of a die changes -/

/-- What the switch of die d for tenancy t, whose TENEND is e, leaves. -/
def State.SwitchLeaves (s u : State) (t d : Nat) (e : TenEnd) : Prop :=
  u.mem = s.mem ∧ u.genOn d t = e.newGen.getD 0 ∧ (∀ x, x ≠ d → u.genOn x t = s.genOn x t)
    ∧ (∃ e', (u.tenancy t).ending = some e' ∧ e'.switched = d :: e.switched ∧ e'.oldGen = e.oldGen ∧ e'.erec = e.erec)
    ∧ (d < 8 → (∀ b ∈ (u.die d).bricks, b.ten ≠ t) ∧ (∀ y ∈ (u.die d).op, y.gen = e.oldGen → y.sent = true)
      ∧ (∀ n l, (u.die d).launch n = some l → l.ten ≠ t)
      ∧ ∀ c, dieOf c = d → (s.core c).ten = some t → (∀ y ∈ (u.core c).copies, y.gen ≠ e.oldGen)
        ∧ (∀ y ∈ (u.core c).calls, y.gen ≠ e.oldGen) ∧ (∀ y ∈ (u.core c).accs, y.gen ≠ e.oldGen)
        ∧ ((u.core c).task = none ∨ (u.core c).stopping = some (s.die d).lcyc.toNat))
    ∧ (d = 16 → ∀ f, (Sparse.get {} f s.io.flows).ten = t → (Sparse.get {} f u.io.flows).valid = false)
    ∧ (∀ c, dieOf c ≠ d ∨ (s.core c).ten ≠ some t → u.core c = s.core c)

/-- The state after changes of a tenancy, a die and the cores, with generation g current on the die. -/
def State.changed (s : State) (d t : Nat) (F : Tenancy → Tenancy) (G : Die → Die) (C : Nat → Core → Core) (g : Hm) : State :=
  ({ (s.updTen t F).updDie d G with cores := Sparse.mapVals {} C s.cores } : State).setGenOn d t g

section Changed
variable {F : Tenancy → Tenancy} {G : Die → Die} {C : Nat → Core → Core} {g : Hm}

theorem changed_frame : (s.changed d t F G C g).mem = s.mem ∧ (s.changed d t F G C g).io = s.io
    ∧ (s.changed d t F G C g).tenancy t = F (s.tenancy t) ∧ (s.changed d t F G C g).die d = G (s.die d) :=
  ⟨rfl, rfl, Sparse.get_put_same, Sparse.get_put_same⟩

theorem changed_genOn (x y : Nat) : (s.changed d t F G C g).genOn x y = if x = d ∧ y = t then g else s.genOn x y := genOn_setGenOn ..

theorem changed_core {c : Nat} (hC : C c {} = {}) : (s.changed d t F G C g).core c = C c (s.core c) := Sparse.get_mapVals hC s.cores

end Changed

/-- What the switch makes of a core. -/
def switchCore (d t : Nat) (g : Hm) (now c : Nat) (k : Core) : Core :=
  if dieOf c == d && k.ten == some t then k.afterSwitch g now else k

theorem switchCore_default (d t : Nat) (g : Hm) (now c : Nat) : switchCore d t g now c {} = {} :=
  if_neg (by rw [Bool.and_eq_true]; exact fun h => absurd h.2 Bool.false_ne_true)

/-- The switch of a compute die. -/
theorem switchCompute_changed (s : State) (d t : Nat) (e : TenEnd) : ∃ F G, s.switchCompute d t e =
      s.changed d t F G (switchCore d t e.oldGen (s.die d).lcyc.toNat) (e.newGen.getD nullGen)
    ∧ (∀ y, ∃ e', (F y).ending = some e' ∧ e'.switched = d :: e.switched ∧ e'.oldGen = e.oldGen ∧ e'.erec = e.erec)
    ∧ ∀ x : Die, (G x).bricks = x.bricks.filter (fun b => b.ten != t) ∧ (G x).op = x.op.filter (fun w => w.gen != e.oldGen || w.sent)
      ∧ ∀ n l, (G x).launch n = some l → l.ten ≠ t := by
  unfold State.switchCompute
  extract_lets g x mine sum qs dropped writes s1 s2 f
  refine ⟨_, _, rfl, fun y => ⟨_, rfl, rfl, rfl, rfl⟩, fun x => ⟨rfl, rfl, fun n l h => ?_⟩⟩
  unfold Die.launch at h
  dsimp only at h
  rw [Sparse.get_mapVals rfl] at h
  split at h
  · split at h
    · exact absurd h nofun
    · next hne =>
      rw [← Option.some.inj h]
      exact hne
  · exact absurd h nofun

/-- A compute die holds nothing of the old generation once it has switched (R355). -/
theorem switchCompute_leaves (hd : d < 8) : s.SwitchLeaves (s.switchCompute d t e) t d e := by
  obtain ⟨F, G, hu, hF, hG⟩ := switchCompute_changed s d t e
  rw [hu]
  obtain ⟨hmem, -, hten, hdie⟩ := changed_frame (s := s) (d := d) (t := t) (F := F) (G := G)
    (C := switchCore d t e.oldGen (s.die d).lcyc.toNat) (g := e.newGen.getD nullGen)
  obtain ⟨hbricks, hop, hlaunch⟩ := hG (s.die d)
  have hcore : ∀ c, (s.changed d t F G (switchCore d t e.oldGen (s.die d).lcyc.toNat) (e.newGen.getD nullGen)).core c =
      switchCore d t e.oldGen (s.die d).lcyc.toNat c (s.core c) := fun c => changed_core (switchCore_default ..)
  refine ⟨hmem, ?_, fun x hx => ?_, ?_, fun _ => ⟨?_, ?_, ?_, fun c hc ht => ?_⟩, fun h16 => absurd h16 (by omega), fun c hc => ?_⟩
  · rw [changed_genOn, if_pos ⟨rfl, rfl⟩]
    rfl
  · rw [changed_genOn, if_neg (fun h => hx h.1)]
  · rw [hten]
    exact hF _
  · rw [hdie, hbricks]
    exact fun b hb => bne_iff_ne.1 (List.mem_filter.1 hb).2
  · rw [hdie, hop]
    intro y hy hg
    have h := (List.mem_filter.1 hy).2
    rw [hg, bne_self_eq_false, Bool.false_or] at h
    exact h
  · rw [hdie]
    exact hlaunch
  · rw [hcore, switchCore, if_pos (by rw [hc, ht, beq_self_eq_true, beq_self_eq_true]; rfl)]
    exact afterSwitch_leaves ..
  · rw [hcore, switchCore, if_neg]
    rw [Bool.and_eq_true, beq_iff_eq, beq_iff_eq]
    exact fun h => hc.elim (fun h1 => h1 h.1) (fun h2 => h2 h.2)

/-- A base die, or the I/O die with its flows, switches (R354). -/
def State.switchOther (s : State) (d t : Nat) (e : TenEnd) : State :=
  let s0 := (s.updTen t (fun x => { x with ending := some { e with switched := d :: e.switched } })).setGenOn d t (e.newGen.getD nullGen)
  if d = 16 then s0.switchIo t else s0

theorem switchOther_leaves (hd : ¬ d < 8) : s.SwitchLeaves (s.switchOther d t e) t d e := by
  have hgen : ∀ x, ((s.updTen t (fun x => { x with ending := some { e with switched := d :: e.switched } })).setGenOn d t
      (e.newGen.getD nullGen)).genOn x t = if x = d ∧ t = t then e.newGen.getD nullGen else s.genOn x t := fun x => genOn_setGenOn ..
  have hten := (tenancy_updTen s t (fun x => { x with ending := some { e with switched := d :: e.switched } }) t).trans (if_pos rfl)
  unfold State.switchOther
  dsimp only
  split
  · refine ⟨rfl, (hgen d).trans (if_pos ⟨rfl, rfl⟩), fun x hx => (hgen x).trans (if_neg fun h => hx h.1),
      ⟨_, (congrArg Tenancy.ending hten :), rfl, rfl, rfl⟩, fun h => absurd h hd, fun _ f hf => ?_, fun c _ => rfl⟩
    have hmap : Sparse.get {} f (Sparse.mapVals {} (fun _ f => if f.ten = t then { f with valid := false } else f) s.io.flows) = _
        ∨ _ := Sparse.get_mapVals_or s.io.flows
    show (Sparse.get {} f (Sparse.mapVals {} (fun _ f => if f.ten = t then { f with valid := false } else f) s.io.flows)).valid = false
    rcases hmap with h | ⟨h, -⟩
    · rw [h, if_pos hf]
    · rw [h]
  · exact ⟨rfl, (hgen d).trans (if_pos ⟨rfl, rfl⟩), fun x hx => (hgen x).trans (if_neg fun h => hx h.1),
      ⟨_, (congrArg Tenancy.ending hten :), rfl, rfl, rfl⟩, fun h => absurd h hd, fun h => absurd h (by assumption), fun c _ => rfl⟩

/-- The erasure of a key changes nothing else. -/
theorem SwitchLeaves_dropKey {g : Hm} (h : s.SwitchLeaves u t d e) : s.SwitchLeaves (u.dropKey g) t d e := h

/-- A die that has not yet switched does (R354). -/
theorem tenendSwitch_switches (he : (s.tenancy t).ending = some e) (hd : d < 17) (hnew : d ∉ e.switched) :
    ∃ u, exec (.tenendSwitch t d) s = .next u ∧ s.SwitchLeaves u t d e := by
  have hleaves : s.SwitchLeaves (if d < 8 then s.switchCompute d t e else s.switchOther d t e) t d e := by
    split
    · next h => exact switchCompute_leaves h
    · next h => exact switchOther_leaves h
  have hcont : ¬ e.switched.contains d = true := fun h => hnew (List.contains_iff_mem.1 h)
  have hx : exec (.tenendSwitch t d) s = .next (if e.switched.length = 16
      then (if d < 8 then s.switchCompute d t e else s.switchOther d t e).dropKey e.oldGen
      else if d < 8 then s.switchCompute d t e else s.switchOther d t e) := by
    refine (exec_tenendSwitch ..).trans ?_
    unfold execTenendSwitch
    rw [he]
    dsimp only
    rw [if_neg (not_le.2 hd), if_neg hcont]
    rfl
  refine ⟨_, hx, ?_⟩
  split
  · exact SwitchLeaves_dropKey hleaves
  · exact hleaves

/-- On a compute die that has switched, the cores of the tenancy that still run stop (R354). -/
theorem tenendSwitch_stops (he : (s.tenancy t).ending = some e) (hd : d < 17) (hin : d ∈ e.switched) :
    ∃ u, exec (.tenendSwitch t d) s = .next u ∧ u.mem = s.mem ∧ u.gens = s.gens
      ∧ ∀ c, if dieOf c = d ∧ (s.core c).ten = some t ∧ (s.core c).stopping ≠ none then
          (u.core c).task = none ∧ (u.core c).stopping = none ∧ (u.core c).accs = [] ∧ (u.core c).copies = []
        else u.core c = s.core c := by
  have hx : exec (.tenendSwitch t d) s = .next (s.stopCores d t) := by
    refine (exec_tenendSwitch ..).trans ?_
    unfold execTenendSwitch
    rw [he]
    dsimp only
    rw [if_neg (not_le.2 hd), if_pos (List.contains_iff_mem.2 hin)]
    rfl
  refine ⟨_, hx, rfl, rfl, fun c => ?_⟩
  have hcore : (s.stopCores d t).core c = if dieOf c == d && (s.core c).ten == some t && (s.core c).stopping.isSome then
      (s.core c).stop else s.core c := State.core_mapCores s _ c (if_neg (by
    rw [Bool.and_eq_true]
    exact fun h => absurd h.2 Bool.false_ne_true))
  have hiff : (dieOf c == d && (s.core c).ten == some t && (s.core c).stopping.isSome) = true ↔
      dieOf c = d ∧ (s.core c).ten = some t ∧ (s.core c).stopping ≠ none := by
    rw [Bool.and_eq_true, Bool.and_eq_true, beq_iff_eq, beq_iff_eq, Option.isSome_iff_ne_none, and_assoc]
  split
  · next h =>
    rw [hcore, if_pos (hiff.2 h)]
    exact stop_leaves _
  · next h => rw [hcore, if_neg (fun h' => h (hiff.1 h'))]

end Sys2Proof.Machine
end

section
/-! PROOFS. The drain and the end record of a TENEND (spec 15 R354, R357). -/

namespace Sys2Proof.Machine

variable {s : State} {t : Nat} {e : TenEnd}

/-! ### The translations of a generation are dropped (R354, step 5) -/

theorem dropTagged_core (g : Hm) (c : Nat) : (s.dropTagged g).core c =
    { s.core c with tlb := (s.core c).tlb.filter (fun y => y.gen != g) } := Sparse.get_mapVals rfl s.cores

theorem dropTagged_die (g : Hm) (d : Nat) : (s.dropTagged g).die d = { s.die d with
    etlb := (s.die d).etlb.filter (fun y => y.gen != g), s2c := (s.die d).s2c.filter (fun y => y.gen != g) } :=
  Sparse.get_mapVals rfl s.dies

/-- The sum of a count over a table's values. -/
def Sparse.total {α : Type} (w : α → Nat) (m : Sparse α) : Nat := (m.map (fun e => w e.2)).sum

theorem Sparse.foldl_total {α : Type} (w : α → Nat) : ∀ (m : Sparse α) (a : Nat), m.foldl (fun n e => n + w e.2) a = a + Sparse.total w m
  | [], a => rfl
  | (i, v) :: m, a => by
    rw [List.foldl_cons, Sparse.foldl_total w m]
    unfold Sparse.total
    rw [List.map_cons, List.sum_cons, Nat.add_assoc]

/-- A sum is no greater once each value has been changed to one that counts no more. -/
theorem Sparse.total_mapVals_le {α : Type} [DecidableEq α] {z : α} {f : Nat → α → α} {w : α → Nat} (hw : ∀ k v, w (f k v) ≤ w v) :
    ∀ m : Sparse α, Sparse.total w (Sparse.mapVals z f m) ≤ Sparse.total w m
  | [] => le_rfl
  | (i, v) :: m => by
    have ih := Sparse.total_mapVals_le (z := z) hw m
    have hcons : ∀ (k : Nat) (x : α) (l : Sparse α), Sparse.total w ((k, x) :: l) = w x + Sparse.total w l := fun k x l => List.sum_cons
    unfold Sparse.mapVals
    rw [hcons]
    split
    · have hsub : Sparse.total w ((Sparse.mapVals z f m).filter (fun e => decide (e.1 ≠ i))) ≤ Sparse.total w (Sparse.mapVals z f m) :=
        (List.filter_sublist.map _).sum_le_sum (fun _ _ => Nat.zero_le _)
      exact (hsub.trans ih).trans (Nat.le_add_left _ _)
    · exact (hcons _ _ _).trans_le (Nat.add_le_add (hw i v) ih)

/-- The forward queue of a stack holds no more requests than before. -/
theorem dropTagged_forwarded (g : Hm) (k : Nat) : (s.dropTagged g).forwarded k ≤ s.forwarded k := by
  unfold State.forwarded
  rw [Sparse.foldl_total (fun x : Core => (x.waiting.filter ((s.dropTagged g).inForward k)).length),
    Sparse.foldl_total (fun x : Die => (x.waiting.filter ((s.dropTagged g).inForward k)).length),
    Sparse.foldl_total (fun x : Core => (x.waiting.filter (s.inForward k)).length),
    Sparse.foldl_total (fun x : Die => (x.waiting.filter (s.inForward k)).length)]
  have hc := Sparse.total_mapVals_le (z := {}) (f := fun _ (x : Core) => { x with tlb := x.tlb.filter (fun y => y.gen != g) })
    (w := fun x : Core => (x.waiting.filter (s.inForward k)).length) (fun _ _ => le_rfl) s.cores
  have hd := Sparse.total_mapVals_le (z := {}) (f := fun _ (x : Die) => { x with
    etlb := x.etlb.filter (fun y => y.gen != g), s2c := x.s2c.filter (fun y => y.gen != g) })
    (w := fun x : Die => (x.waiting.filter (s.inForward k)).length) (fun _ _ => le_rfl) s.dies
  exact Nat.add_le_add (Nat.add_le_add le_rfl hc) (Nat.add_le_add le_rfl hd)

/-- An address that translates still does, with its way as it was. -/
theorem dropTagged_translateDla {g : Hm} {w a : Nat} {x : Target} (h : s.translateDla w a = .ok x) :
    (s.dropTagged g).translateDla w a = .ok x := by
  have hreach : ∀ n, (s.dropTagged g).reaches w n = s.reaches w n := by
    intro n
    unfold State.reaches
    rw [dropTagged_die]
    rfl
  unfold State.translateDla at h ⊢
  rw [show (s.dropTagged g).dlaOk a = s.dlaOk a from rfl]
  split
  · next h1 =>
    rw [if_pos h1] at h
    exact absurd h nofun
  · next h1 =>
    rw [if_neg h1] at h
    split
    · next h2 =>
      rw [if_pos h2] at h
      exact h
    · next h2 =>
      rw [if_neg h2] at h
      dsimp only at h ⊢
      rw [hreach]
      split at h
      · exact absurd h nofun
      · next h3 =>
        split at h
        · exact absurd h nofun
        · next h4 =>
          have hfull : ¬ (s.dropTagged g).forwardFull (dlaStack a) = true := by
            intro hf
            apply h4
            unfold State.forwardFull at hf ⊢
            rw [Bool.and_eq_true, decide_eq_true_eq] at hf ⊢
            exact ⟨hf.1, hf.2.trans (dropTagged_forwarded g _)⟩
          exact (if_neg h3).trans ((if_neg hfull).trans h)

/-! ### The end record (R357) -/

section Write
variable {w a n v : Nat} {x : Target} (ht : s.translateDla w a = .ok x) (hlost : s.wayLost w x = false)
  (hhome : s.homeOpen x = true) (hway : s.wayOpen w x = true)
include ht hlost hhome hway

theorem dlaWrite_made : s.dlaWrite w a n v = .ok (s.write platformGen a n v) := by
  unfold State.dlaWrite
  rw [ht]
  dsimp only
  rw [hlost, hhome, hway]
  rfl

theorem dlaHeld_open : s.dlaHeld w a = false := by
  unfold State.dlaHeld
  rw [dlaWrite_made ht hlost hhome hway]

theorem dlaWrite_dropTagged (g : Hm) : (s.dropTagged g).dlaWrite w a n v = .ok ((s.dropTagged g).write platformGen a n v) :=
  dlaWrite_made (dropTagged_translateDla ht) hlost hhome hway

end Write

/-- The state in which the end record of tenancy t's TENEND e has been written and its number is out of use. -/
def State.recorded (s : State) (t : Nat) (e : TenEnd) : State :=
  let s0 := s.dropTagged e.oldGen
  let n := Sparse.get 0 e.oldGen.toNat s.discards + s.strandedOn e.oldGen
  let s1 := s0.write platformGen e.erec.toNat 64 (e.record t n)
  let s2 := { (s1.setGenState e.oldGen (.quarantined 3)).updTen t (fun x => { x with ending := none }) with
    serials := Sparse.put 0 e.oldGen.toNat e.oldSerial s1.serials }
  (if e.close then s2.dropDebt t else s2).interrupt 8 4

theorem tenendRecord_records {g : Target} (he : (s.tenancy t).ending = some e) (hall : e.switched.length = 17)
    (hdr : s.drainedGen e.oldGen = true) (hst : s.allStopped t = true) (hq : e.queue = none)
    (ht : s.translateDla (s.gate 8 e.erec.toNat) e.erec.toNat = .ok g) (hlost : s.wayLost (s.gate 8 e.erec.toNat) g = false)
    (hhome : s.homeOpen g = true) (hway : s.wayOpen (s.gate 8 e.erec.toNat) g = true) :
    exec (.tenendRecord t) s = .next ((s.recorded t e).grantAll.nextTenend t) := by
  refine (exec_tenendRecord ..).trans ?_
  unfold execTenendRecord
  rw [he]
  dsimp only
  rw [hall, hdr, hst, dlaHeld_open ht hlost hhome hway, dlaWrite_dropTagged ht hlost hhome hway, hq]
  rfl

theorem interrupt_eq (s : State) (d n : Nat) : ∃ l, s.interrupt d n = { s with io := { s.io with interrupts := l } } := by
  unfold State.interrupt
  dsimp only
  split
  · exact ⟨s.io.interrupts, rfl⟩
  · exact ⟨_, rfl⟩

theorem setGenState_get (s : State) (g : Hm) (x : GenState) :
    Sparse.get GenState.free g.toNat (s.setGenState g x).genStates = x := by
  unfold State.setGenState
  dsimp only
  rw [Sparse.get_put_same]

/-- The end of a TENEND whose number is out of use: its tenancy has none, the number is QUARANTINED, and memory, cores and the
translations stand. -/
theorem closed_frame (s1 : State) (t : Nat) (e : TenEnd) (sr : Sparse Nat) (close : Bool) :
    let s2 : State := { (s1.setGenState e.oldGen (.quarantined 3)).updTen t (fun x => { x with ending := none }) with serials := sr }
    let v := (if close then s2.dropDebt t else s2).interrupt 8 4
    v.tenancy t = { s1.tenancy t with ending := none } ∧ Sparse.get GenState.free e.oldGen.toNat v.genStates = .quarantined 3
      ∧ v.deferred = s1.deferred ∧ v.mem = s1.mem ∧ v.cores = s1.cores
      ∧ ∀ d, (v.die d).etlb = (s1.die d).etlb ∧ (v.die d).s2c = (s1.die d).s2c := by
  intro s2 v
  have hten : s2.tenancy t = { s1.tenancy t with ending := none } :=
    (tenancy_updTen (s1.setGenState e.oldGen (.quarantined 3)) t (fun x => { x with ending := none }) t).trans (if_pos rfl)
  have hstate : Sparse.get GenState.free e.oldGen.toNat s2.genStates = .quarantined 3 :=
    setGenState_get s1 e.oldGen (.quarantined 3)
  have hrest : s2.deferred = s1.deferred ∧ s2.mem = s1.mem ∧ s2.cores = s1.cores ∧ s2.dies = s1.dies := ⟨rfl, rfl, rfl, rfl⟩
  obtain ⟨hdef, hmem, hcores, hdies⟩ := hrest
  obtain ⟨l, hl⟩ := interrupt_eq (if close then s2.dropDebt t else s2) 8 4
  rw [show v = _ from hl]
  clear_value s2
  cases close with
  | false =>
    refine ⟨hten, hstate, hdef, hmem, hcores, fun d => ?_⟩
    show (s2.die d).etlb = _ ∧ (s2.die d).s2c = _
    unfold State.die
    rw [hdies]
    exact ⟨rfl, rfl⟩
  | true =>
    refine ⟨hten, hstate, hdef, hmem, hcores, fun d => ?_⟩
    have hd : (s2.dropDebt t).die d = { s2.die d with debt := Sparse.put 0 t 0 (s2.die d).debt } ∨ _ := Sparse.get_mapVals_or s2.dies
    have hs : s2.die d = s1.die d := by
      unfold State.die
      rw [hdies]
    show ((s2.dropDebt t).die d).etlb = _ ∧ ((s2.dropDebt t).die d).s2c = _
    rw [← hs]
    rcases hd with h | ⟨h, h0⟩
    · rw [h]
      exact ⟨rfl, rfl⟩
    · have h0' : s2.die d = {} := h0
      have h' : (s2.dropDebt t).die d = {} := h
      rw [h', h0']
      exact ⟨rfl, rfl⟩

/-- What the record leaves before the grants. -/
theorem recorded_leaves (s : State) (t : Nat) (e : TenEnd) : let v := s.recorded t e
    (v.tenancy t).ending = none ∧ (v.tenancy t).queued = (s.tenancy t).queued
      ∧ Sparse.get GenState.free e.oldGen.toNat v.genStates = .quarantined 3 ∧ v.deferred = s.deferred
      ∧ v.mem = (s.write platformGen e.erec.toNat 64 (e.record t (Sparse.get 0 e.oldGen.toNat s.discards + s.strandedOn e.oldGen))).mem
      ∧ (∀ c, v.core c = { s.core c with tlb := (s.core c).tlb.filter (fun y => y.gen != e.oldGen) })
      ∧ ∀ d, (v.die d).etlb = (s.die d).etlb.filter (fun y => y.gen != e.oldGen)
        ∧ (v.die d).s2c = (s.die d).s2c.filter (fun y => y.gen != e.oldGen) := by
  intro v
  have hv : v =
      let s1 := (s.dropTagged e.oldGen).write platformGen e.erec.toNat 64
          (e.record t (Sparse.get 0 e.oldGen.toNat s.discards + s.strandedOn e.oldGen))
      let s2 := { (s1.setGenState e.oldGen (.quarantined 3)).updTen t (fun x => { x with ending := none }) with
        serials := Sparse.put 0 e.oldGen.toNat e.oldSerial s1.serials }
      (if e.close then s2.dropDebt t else s2).interrupt 8 4 := rfl
  have hmem := (State.SameMemory.write (s := s.dropTagged e.oldGen) (t := s) ⟨rfl, rfl, rfl, rfl⟩ platformGen e.erec.toNat 64
    (e.record t (Sparse.get 0 e.oldGen.toNat s.discards + s.strandedOn e.oldGen))).mem
  have hframe : ∃ m hm b w, (s.dropTagged e.oldGen).write platformGen e.erec.toNat 64
    (e.record t (Sparse.get 0 e.oldGen.toNat s.discards + s.strandedOn e.oldGen)) =
      { s.dropTagged e.oldGen with mem := m, hallmarks := hm, badGranules := b, cxlWrites := w } := State.write_eq ..
  generalize (s.dropTagged e.oldGen).write platformGen e.erec.toNat 64
    (e.record t (Sparse.get 0 e.oldGen.toNat s.discards + s.strandedOn e.oldGen)) = s1 at hv hmem hframe
  clear_value v
  obtain ⟨m, hm, b, w, hw⟩ := hframe
  have hten : s1.tenancy t = s.tenancy t := by rw [hw]; rfl
  have hdef : s1.deferred = s.deferred := by rw [hw]; rfl
  have hcore : ∀ c, s1.core c = (s.dropTagged e.oldGen).core c := fun c => by rw [hw]; rfl
  have hdie : ∀ d, s1.die d = (s.dropTagged e.oldGen).die d := fun d => by rw [hw]; rfl
  obtain ⟨h1, h2, h3, h4, h5, h6⟩ := closed_frame s1 t e (Sparse.put 0 e.oldGen.toNat e.oldSerial s1.serials) e.close
  rw [← show v = _ from hv] at h1 h2 h3 h4 h5 h6
  refine ⟨?_, ?_, h2, h3.trans hdef, h4.trans hmem, fun c => ?_, fun d => ?_⟩
  · rw [h1]
  · rw [h1, hten]
  · rw [← dropTagged_core, ← hcore]
    unfold State.core
    rw [h5]
  · rw [(h6 d).1, (h6 d).2, hdie, dropTagged_die]
    exact ⟨rfl, rfl⟩

/-- Settles O40: the opening and the grants by the allocator's rules, the switch by what it leaves on its die, the record by
recorded_leaves and the grants that follow it. -/
theorem generationsComeAndGo : Obligations.GenerationsComeAndGo := by
  refine fun s t => ⟨fun ht hio hopen hend hq hdef => ?opening, fun e he => ⟨fun d hd hnew => tenendSwitch_switches he hd hnew,
    fun d hd hin => tenendSwitch_stops he hd hin, fun hall hdr hst hqueue hq => ?record⟩,
    fun rest n hdef hend hq hheld hn => generationGrant_grants hdef hend hq hheld hn⟩
  case opening =>
    intro s0
    refine ⟨fun h => grantAll_none h, fun n hnone hn => ⟨_, tenancyOpen_opens ht hio hopen hend hq hdef hnone hn, ?_⟩⟩
    obtain ⟨h1, h2, h3, h4, h5, h6, h7, h8, h9, h10⟩ := openedWith_leaves s.grantAll t n
    exact ⟨h1, h2.trans (grantAll_granted s).cores, h3, h4, h5, h6, h7, h8, h9, h10⟩
  case record =>
    intro w g ht hlost hhome hway
    obtain ⟨hend, hqueued, hstate, hdef, hmem, hcore, hdie⟩ := recorded_leaves s t e
    have hgr := grantAll_granted (s.recorded t e)
    have hx := tenendRecord_records he hall hdr hst hqueue ht hlost hhome hway
    rw [nextTenend_none ((hgr.queued t).trans (hqueued.trans hq))] at hx
    have hcore' : ∀ c, (s.recorded t e).grantAll.core c = { s.core c with tlb := (s.core c).tlb.filter (fun y => y.gen != e.oldGen) } :=
      fun c => by
        rw [← hcore c]
        unfold State.core
        rw [hgr.cores]
    have hdie' : ∀ d, (s.recorded t e).grantAll.die d = (s.recorded t e).die d := fun d => by
      unfold State.die
      rw [hgr.dies]
    refine ⟨_, hx, hgr.ending t hend, ?_, fun h => ?_, fun c => ?_, fun d => ?_⟩
    · refine (hgr.states e.oldGen.toNat ?_).trans hstate
      rw [hstate]
      decide
    · rw [grantAll_none (hdef.trans h)]
      exact hmem
    · rw [hcore']
      exact ⟨rfl, fun y hy => bne_iff_ne.1 (List.mem_filter.1 hy).2⟩
    · rw [hdie', (hdie d).1, (hdie d).2]
      exact ⟨fun y hy => bne_iff_ne.1 (List.mem_filter.1 hy).2, fun y hy => bne_iff_ne.1 (List.mem_filter.1 hy).2⟩

end Sys2Proof.Machine
end

section
/-! PROOFS. Context save, restore and reset (spec 17 R395-R403). -/

namespace Sys2Proof.Machine

/-! ### The counterexample to O43 -/

/-- A task that has issued SUSPEND: a hard request halts it in PHASE 3 (State.halt), and its context is saved so. -/
def suspendedTask : Task := { index := 1, node := 0, slot := 0, lid := 3, token := 0, ending := .suspended 0 0 }

/-- The launch of that task. -/
def suspendedLaunch : Launch :=
  { id := 3, ten := 2, gen := 2#16, lrec := 0x200, queue := 8, packet := 0, home := 0, live := 1, nodes := [], mapa := 0x400
    donea := 0, donev := 0, next := [] }

/-- Core 0 of tenancy 2, idle, with an area in die-local memory of stack 0; its die holds the saved context of the task that has
suspended. -/
def suspendedBase : State :=
  { State.reset with
    cores := [(0, { ten := some 2, csr := { ctxptr := 0x10000 } })]
    dies := [(0, { released := true, launches := [(0, some suspendedLaunch)], saved := [⟨2, 0, suspendedTask⟩] })]
    stackTab := [(0, { present := true })]
    tenancies := [(2, { opened := true, gen := some 2#16 })], gens := [(0, [(2, 2#16)])]
    io := { released := true }, trust := { keys := [(1, some ⟨0, 0⟩)] } }

/-- The area names the incarnation of the tenancy, a whole save (CFLAGS 4) and the task's word. -/
def suspendedState : State :=
  ((suspendedBase.write platformGen 0x10020 8 (suspendedBase.incarnation 2 2#16)).write platformGen 0x10030 8 4).write platformGen 0x10038 8
    suspendedTask.word

/-- The task that a restore gives core 0. -/
def restoredTask : Out → Option Task
  | .next t => (t.core 0).task
  | _ => none

theorem suspendedState_restored : restoredTask (execContextRestore 0 suspendedState) = some suspendedTask := by
  decide +kernel

/-- Refutes O43: the clause of the restore gives the core the saved task as one that has not ended, whatever the saved context
says; the model gives it the saved task itself (State.restoreContext), here one that has suspended. -/
theorem not_contextsAreSavedAndReset : ¬ Obligations.ContextsAreSavedAndReset := by
  intro h
  obtain ⟨-, -, hrestore, -⟩ := h suspendedState 0
  have hwait : suspendedState.areaWaits 0 = false := by decide +kernel
  have hready : (suspendedState.core 0).phase = 0 ∧ (suspendedState.core 0).flr = none ∧ (suspendedState.core 0).task = none
    ∧ (suspendedState.core 0).stopped = false ∧ (suspendedState.core 0).preloads = [] ∧ suspendedState.reachesDie 0 = true
    ∧ (suspendedState.core 0).ten = some 2 ∧ suspendedState.areaOk 0 = true ∧ suspendedState.tenReady 2 = true ∧ suspendedState.genOn 0 2 ≠ 0 := by
    decide +kernel
  obtain ⟨hphase, hflr, htask, hstop, hpre, hout, hten, harea, htready, hgen⟩ := hready
  have hbad : suspendedState.badRun (suspendedState.core 0).csr.ctxptr.toNat 0x118000 = false := by decide +kernel
  have hinc : field (suspendedState.read platformGen (suspendedState.core 0).csr.ctxptr.toNat 0x118000) 0x20 8 =
    suspendedState.incarnation 2 (suspendedState.genOn 0 2) := by decide +kernel
  have hclean : areaClean (suspendedState.read platformGen (suspendedState.core 0).csr.ctxptr.toNat 0x118000) = true := by decide +kernel
  have hflags : field (suspendedState.read platformGen (suspendedState.core 0).csr.ctxptr.toNat 0x118000) 0x30 8 = 4 := by decide +kernel
  have hsaved : suspendedState.savedTask 0 2 (field (suspendedState.read platformGen (suspendedState.core 0).csr.ctxptr.toNat 0x118000) 0x38 8) =
    some ⟨2, 0, suspendedTask⟩ := by decide +kernel
  obtain ⟨t, ht, hmade⟩ := hrestore hout hphase hflr htask hstop hpre hwait 2 ⟨2, 0, suspendedTask⟩ hten harea hbad htready hgen hinc hclean
    hflags hsaved
  obtain ⟨-, -, -, -, -, -, hgot, -⟩ := hmade
  have hx := congrArg restoredTask ((exec_contextRestore ..).symm.trans ht)
  rw [suspendedState_restored] at hx
  exact absurd (hx.trans hgot) (by decide)

end Sys2Proof.Machine
end

section
/-! PROOFS. The end of a launch and its split (spec 16 R370-R372, R387-R391). -/

namespace Sys2Proof.Machine

section LaunchTables
variable {s t : State}

/-! ### The launch tables that a step leaves -/

/-- Every die's launch table is as it was. -/
def State.SameLaunches (s t : State) : Prop := ∀ e n, (t.die e).launch n = (s.die e).launch n

theorem State.SameLaunches.refl (s : State) : s.SameLaunches s := fun _ _ => rfl

theorem State.SameLaunches.trans {u : State} (h : s.SameLaunches t) (h' : t.SameLaunches u) : s.SameLaunches u :=
  fun e n => (h' e n).trans (h e n)

theorem State.SameLaunches.foldl {α : Type} {f : State → α → State} (hf : ∀ (s : State) (a : α), s.SameLaunches (f s a)) (l : List α) :
    ∀ s : State, s.SameLaunches (l.foldl f s) := by
  induction l with
  | nil => exact .refl
  | cons a l ih => exact fun s => (hf s a).trans (ih _)

theorem State.Reports.sameLaunches (h : s.Reports t) : s.SameLaunches t := by
  intro e n
  rw [h.die e]
  rfl

theorem State.updCore_sameLaunches (s : State) (c : Nat) (f : Core → Core) : s.SameLaunches (s.updCore c f) := fun _ _ => rfl

theorem State.updDie_sameLaunches {d : Nat} {f : Die → Die} (hf : ∀ x, (f x).launches = x.launches) : s.SameLaunches (s.updDie d f) := by
  intro e n
  rw [State.die_updDie]
  split
  · next h =>
    subst h
    exact congrArg (Sparse.get none n) (hf _)
  · rfl

theorem State.reportIndices_reports (s : State) (d kind n inc : Nat) (x : Task) : s.Reports (s.reportIndices d kind n inc x) :=
  State.Reports.foldl (f := fun s i => s.report d { kind := kind, ten := n, inc := inc, index := i, node := x.node, slot := x.slot
                                                    seq := x.token }) (fun s _ => s.report_reports d _) _ s

theorem State.dropFixed_sameLaunches (s : State) (c kind : Nat) (p : Task → Bool) : s.SameLaunches (s.dropFixed c kind p) := by
  unfold State.dropFixed
  dsimp only
  exact ((State.Reports.foldl (fun s x => s.reportIndices_reports (dieOf c) kind _ _ x) _ s).sameLaunches).trans
    (State.updCore_sameLaunches _ _ _)

theorem State.dropWork_sameLaunches (s : State) (d kind id : Nat) : s.SameLaunches (s.dropWork d kind id) := by
  unfold State.dropWork
  dsimp only
  have hcores := State.SameLaunches.foldl (f := fun (s : State) c =>
      (s.dropFixed c kind (fun t => t.lid == id)).updCore c (fun k => { k with chunks := k.chunks.filter (fun h => h.lid != id) }))
    (fun s c => (s.dropFixed_sameLaunches c kind _).trans (State.updCore_sameLaunches _ _ _))
    ((s.cores.map Prod.fst).filter (fun c => dieOf c == d)) s
  refine (hcores.trans ?_).trans (State.updDie_sameLaunches fun _ => rfl)
  exact (State.Reports.foldl (f := fun (s : State) (b : Brick) => s.reportIndices d kind b.ten
      (b.gen.toNat * 2 ^ 48 + b.serial) b.task) (fun s b => s.reportIndices_reports ..) _ _).sameLaunches

/-- Freeing a launch empties the slots that hold it and no other. -/
theorem State.launch_freeLaunch (s : State) (id e n : Nat) : ((s.freeLaunch id).die e).launch n = match (s.die e).launch n with
    | some x => if x.id = id then none else some x
    | none => none := by
  unfold State.freeLaunch
  dsimp only
  have hdrop := State.SameLaunches.foldl (f := fun (s : State) d => s.dropWork d 0x07 id) (fun s d => s.dropWork_sameLaunches d _ _)
    (s.dies.map Prod.fst) s
  rw [← hdrop e n]
  generalize (s.dies.map Prod.fst).foldl (fun s d => State.dropWork s d 0x07 id) s = t
  refine (congrArg (fun x => Die.launch x n) (Sparse.get_mapVals (d := ({} : Die)) ?_ t.dies)).trans
    (Sparse.get_mapVals (d := (none : Option Launch)) ?_ (t.die e).launches)
  · rfl
  · rfl

/-- A change of every copy of a launch, slot by slot. -/
theorem State.launch_updCopies (s : State) (id : Nat) (f : Launch → Launch) (e n : Nat) :
    ((s.updCopies id f).die e).launch n = ((s.die e).launch n).map (fun l => if l.id = id then f l else l) := by
  unfold State.updCopies
  dsimp only
  exact (congrArg (fun x => Die.launch x n) (Sparse.get_mapVals (d := ({} : Die)) rfl s.dies)).trans
    (Sparse.get_mapVals (d := (none : Option Launch)) rfl (s.die e).launches)

/-- After a change of the copies of a launch that keeps their identity, each copy is a changed one. -/
theorem State.copy_updCopies {id : Nat} {f : Launch → Launch} {e n : Nat} {x : Launch}
    (hx : ((s.updCopies id f).die e).launch n = some x) (hi : x.id = id) : ∃ y, x = f y := by
  rw [State.launch_updCopies] at hx
  obtain ⟨y, -, hy⟩ := Option.map_eq_some_iff.1 hx
  by_cases h : y.id = id
  · exact ⟨y, (hy.symm.trans (if_pos h))⟩
  · rw [if_neg h] at hy
    exact absurd (hy ▸ hi) h

end LaunchTables

/-! ### Writes to the record of a launch -/

section RecordWrites
variable {s : State} {d a f : Nat} {ten : Option Nat} {g : Target}

/-- A write whose home can be reached and whose generation is current there is made. -/
theorem State.homeWrite_lands (ht : s.translateCp d ten (BitVec.ofNat 64 a) .write = .ok g) (hw : s.wayLost d g = false)
    (ho : s.homeOpen g = true) (hy : s.wayOpen d g = true) (hc : s.isCurrent (homeDie g.dla) g.gen = true) (n v : Nat) :
    s.homeWrite d ten a n v = .ok (s.write g.gen g.dla n v) := by
  unfold State.homeWrite
  rw [ht]
  dsimp only
  rw [hw, ho, hy, hc]
  rfl

/-- A write whose translation fails, or to whose home no way leads, faults. -/
theorem State.homeWrite_faults (h : s.translateCp d ten (BitVec.ofNat 64 a) .write = .error f
      ∨ f = 8 ∧ ∃ g, s.translateCp d ten (BitVec.ofNat 64 a) .write = .ok g ∧ s.wayLost d g = true) (n v : Nat) :
    s.homeWrite d ten a n v = .error f := by
  unfold State.homeWrite
  rcases h with ht | ⟨hf, g, ht, hw⟩
  · rw [ht]
  · rw [ht, hf]
    exact if_pos hw

/-- A write of a byte that is made does not wait. -/
theorem State.homeHeld_of_lands {t : State} (h : s.homeWrite d ten a 1 0 = .ok t) : s.homeHeld d ten a = false := by
  unfold State.homeHeld
  rw [h]

end RecordWrites

/-! ### Chunk marks and the end of a launch -/

section Ends
variable {s s1 : State} {d n : Nat} {l : Launch}

theorem Launch.mark_eq (l : Launch) (j k : Nat) : l.mark j k = (l.mapa.toNat + 8 * ((((l.nodes[j]?).map Node.mapoff).getD 0 + k) / 64),
    (((l.nodes[j]?).map Node.mapoff).getD 0 + k) % 64) := by
  unfold Launch.mark
  cases l.nodes[j]? <;> rfl

theorem Launch.all_nodeDone (h : ∀ i < l.nodes.length, l.nodeDone i = true) : (List.range l.nodes.length).all l.nodeDone = true :=
  List.all_eq_true.2 fun i hi => h i (List.mem_range.1 hi)

/-- The head of the finished chunks is marked at its home, and DONEC rises (R387). -/
theorem execChunkMark_marks (hl : (s.die d).launch n = some l) (hfence : l.fenced = false) {j k : Nat} {rest : List (Nat × Nat)}
    (hfin : l.finished = (j, k) :: rest) {g : Target}
    (ht : s.translateCp d (some l.ten) (BitVec.ofNat 64 (l.mark j k).1) .both = .ok g) (hbad : s.badAt g.dla = false)
    (hw : s.wayLost d g = false) (ho : s.homeOpen g = true) (hy : s.wayOpen d g = true) (hop : (s.die d).opSource g 8 = .none)
    (hc : s.isCurrent (homeDie g.dla) g.gen = true)
    (hend : (((s.updLaunch d n (fun x => { x with finished := rest })).write g.gen g.dla 8
        (Nat.lor (s.read g.gen g.dla 8) (2 ^ (l.mark j k).2))).updCopies l.id (fun x =>
          { x with marked := if x.marked.contains (j, k) then x.marked else x.marked ++ [(j, k)] })).homeWrite d (some l.ten)
        (l.doneAddr j) 4 ((l.marked.filter (fun x => x.1 == j && x.2 != k)).length + 1) = .ok s1) :
    execChunkMark d n s = .next s1 := by
  unfold execChunkMark
  rw [hl]
  dsimp only
  rw [hfin]
  dsimp only
  rw [hfence, ht]
  dsimp only
  rw [hw, hbad, ho, hy, hop, hc]
  dsimp only [Bool.not_true, Bool.false_or, Bool.or_false, ne_eq, not_true, decide_false]
  simp only [if_true, if_false, Bool.false_eq_true, not_true, decide_false]
  rw [hend]
  rfl

/-- The model's end of a launch that is complete and has not failed: STATE, then DONEV (R372). -/
theorem execLaunchComplete_good (hl : (s.die d).launch n = some l) (hh : l.home = d) (hf : l.failed = false)
    (hd : (List.range l.nodes.length).all l.nodeDone = true) :
    execLaunchComplete d n s = match s.homeWrite d (some l.ten) (l.lrec.toNat + 32) 8 (l.stateWord true false) with
      | .error f => ok (if f = 0 then s else (s.report d (s.recordFault d n l f (l.lrec.toNat + 32))).failLaunch l.id)
      | .ok s1 =>
        if l.donea = 0 then ok (s1.freeLaunch l.id)
        else if s.outbound l.gen then ok s
        else match s1.homeWrite d (some l.ten) l.donea.toNat 8 l.donev.toNat with
          | .ok s2 => ok (s2.freeLaunch l.id)
          | .error f => ok (if f = 0 then s else (s1.report d (s1.recordFault d n l f l.donea.toNat)).failLaunch l.id) := by
  unfold execLaunchComplete
  rw [hl]
  dsimp only
  rw [hd, hf, if_neg (by simp [hh])]
  simp only [Bool.not_true, Bool.not_false, Bool.and_true, if_true, Bool.false_or, decide_eq_true_eq] <;> rfl

/-- The model's end of a launch that has failed: STATE alone (R372). -/
theorem execLaunchComplete_failed (hl : (s.die d).launch n = some l) (hh : l.home = d) (hf : l.failed = true) :
    execLaunchComplete d n s = match s.homeWrite d (some l.ten) (l.lrec.toNat + 32) 8 (l.stateWord false true) with
      | .error f => ok (if f = 0 then s else
          ((s.report d (s.recordFault d n l f (l.lrec.toNat + 32))).failLaunch l.id).freeLaunch l.id)
      | .ok s1 => ok (s1.freeLaunch l.id) := by
  unfold execLaunchComplete
  rw [hl]
  dsimp only
  rw [hf, if_neg (by simp [hh])]
  simp only [Bool.not_true, Bool.and_false, Bool.not_false, if_false, Bool.false_eq_true, Bool.true_or, if_true] <;> rfl

end Ends

end Sys2Proof.Machine
end

section
/-! PROOFS. The quorum rule and the reconfiguration (spec 16 R388-R391), and the obligation on launches. -/

namespace Sys2Proof.Machine

section Splits
variable {s : State} {l : Launch}

/-- The first copy of a launch that the dies list. -/
def State.FirstCopy (s : State) (l : Launch) : Prop :=
  (s.dies.flatMap (fun x => x.2.launches.filterMap (fun y => y.2))).find? (fun x => x.id == l.id) = some l

/-! ### The quorum rule (R388-R390) -/

theorem State.divided_of {m : BitVec 8} (h : ∃ e ∈ membersOf m, s.groupOf m e ≠ membersOf m) : s.divided m = true := by
  obtain ⟨e, he, hne⟩ := h
  exact List.any_eq_true.2 ⟨e, he, bne_iff_ne.2 hne⟩

/-- The group that goes on is more than half of the membership, or half of it with the master. -/
theorem State.survivors_quorum {m : BitVec 8} {g : List Nat} (h : s.survivors l m = some g) :
    (membersOf m).length < 2 * g.length ∨ 2 * g.length = (membersOf m).length ∧ l.home ∈ g := by
  unfold State.survivors at h
  simpa using List.find?_some h

/-- The membership of a list of dies has the bit of each of them. -/
theorem getLsbD_members (g : List Nat) (e : Nat) (he : e < 8) : ∀ m : BitVec 8,
    (g.foldl (fun m d => m ||| (1#8 <<< d)) m).getLsbD e = true ↔ m.getLsbD e = true ∨ e ∈ g := by
  induction g with
  | nil => exact fun m => by simp
  | cons d g ih =>
    intro m
    have hbit : (1#8 <<< d).getLsbD e = true ↔ e = d := by
      simp only [BitVec.getLsbD_shiftLeft, BitVec.getLsbD_one, Bool.and_eq_true, decide_eq_true_eq, Bool.not_eq_true', decide_eq_false_iff_not]
      omega
    rw [List.foldl_cons, ih, BitVec.getLsbD_or, Bool.or_eq_true, hbit, List.mem_cons, or_assoc]

/-- The membership of a group without the dies that a fence has taken out of the launch. -/
def State.unfenced (s : State) (l : Launch) (g : List Nat) : BitVec 8 :=
  (g.filter (fun d => !s.fencedOut l d)).foldl (fun m d => m ||| (1#8 <<< d)) 0#8

theorem State.getLsbD_unfenced (g : List Nat) {e : Nat} (he : e < 8) :
    (s.unfenced l g).getLsbD e = true ↔ e ∈ g ∧ s.fencedOut l e = false := by
  unfold State.unfenced
  rw [getLsbD_members _ e he]
  simp

theorem execQuorumDecision_none (hfirst : s.FirstCopy l) (hf : l.failed = false) (hdiv : s.divided (l.lost.getD l.live) = true)
    (hs : s.survivors l (l.lost.getD l.live) = none) : execQuorumDecision l.id s =
      .next (((membersOf (l.lost.getD l.live)).foldl (fun s d => s.fence d l []) s).failLaunch l.id) := by
  unfold execQuorumDecision
  rw [show _ = some l from hfirst]
  dsimp only
  rw [hf, hdiv, hs]
  rfl

/-- Where a group goes on, every copy of the launch notes what has been decided. -/
theorem execQuorumDecision_some (hfirst : s.FirstCopy l) (hf : l.failed = false) (hdiv : s.divided (l.lost.getD l.live) = true)
    {g : List Nat} (hs : s.survivors l (l.lost.getD l.live) = some g) : ∃ t : State, execQuorumDecision l.id s =
      .next (t.updCopies l.id (fun x => { x with
        deciding := if s.unfenced l g = l.live then l.deciding else some (s.unfenced l g), lost := none })) := by
  unfold execQuorumDecision
  rw [show _ = some l from hfirst]
  dsimp only
  rw [hf, hdiv, hs]
  exact ⟨_, rfl⟩

/-! ### Reconfiguration (R391) -/

/-- The master of a membership: the launch's own where it is in it, else its first die. -/
def Launch.masterIn (l : Launch) (m : BitVec 8) : Nat := if (membersOf m).contains l.home then l.home else (membersOf m).headD 0

/-- The chunks that stand to be given out again once the group m has been reconfigured. -/
def State.reissued (s : State) (l : Launch) (m : BitVec 8) : List (Nat × Nat) :=
  (List.range l.nodes.length).flatMap (fun j => ((List.range (l.next.getD j 0)).map (fun k => (j, k))).filter (fun p =>
    (s.toReissue l (membersOf m)).contains p || l.reissue.contains p))

/-- What a reconfiguration to the group m leaves of a copy of the launch. -/
def State.reconfigured (s : State) (l : Launch) (m : BitVec 8) (x : Launch) : Launch := { x with
  live := m, home := l.masterIn m, split := true, reiss := x.reiss + (s.toReissue l (membersOf m)).length
  reissue := s.reissued l m, deciding := none }

theorem State.reissued_of_toReissue (m : BitVec 8) {r : Nat × Nat} (h : r ∈ s.toReissue l (membersOf m)) : r ∈ s.reissued l m := by
  have hr := h
  unfold State.toReissue at h
  obtain ⟨j, hj, h⟩ := List.mem_flatMap.1 h
  exact List.mem_flatMap.2 ⟨j, hj, List.mem_filter.2 ⟨(List.mem_filter.1 h).1, by simp [hr]⟩⟩

theorem recordWrite_ok {t : State} {d a n v : Nat} (slot : Nat) (h : s.homeWrite d (some l.ten) a n v = .ok t) :
    s.recordWrite d slot l a n v = some t := by
  unfold State.recordWrite
  rw [h]

theorem logging_unlogged {d n : Nat} (h : Sparse.get none n (s.die d).replays = none) (q : Option Nat) (rs : List Rec) (t : State) :
    s.logging d n q rs t = .go t := by
  unfold State.logging
  rw [h]

/-- Where the master can write STATE and keeps no log, the reconfiguration writes it and changes every copy. -/
theorem execReconfiguration_lands (hfirst : s.FirstCopy l) {m : BitVec 8} (hm : l.deciding = some m) {g : Target}
    (hw : ∀ n v, s.homeWrite (l.masterIn m) (some l.ten) (l.lrec.toNat + 32) n v = .ok (s.write g.gen g.dla n v))
    (hlog : ∀ x, Sparse.get none x (s.die (l.masterIn m)).replays = none) : execReconfiguration l.id s =
      .next ((s.write g.gen g.dla 8 ((s.reconfigured l m l).stateWord false false)).updCopies l.id (s.reconfigured l m)) := by
  unfold Launch.masterIn at hw hlog
  have hrec : ∀ slot (y : Launch) v, y.ten = l.ten → s.recordWrite (if (membersOf m).contains l.home then l.home
      else (membersOf m).headD 0) slot y (l.lrec.toNat + 32) 8 v = some (s.write g.gen g.dla 8 v) :=
    fun slot y v hy => recordWrite_ok slot (hy ▸ hw 8 v)
  unfold execReconfiguration
  rw [show _ = some l from hfirst]
  dsimp only
  rw [hm]
  dsimp only
  rw [List.find?_cons_of_pos (by rw [hw 8 0])]
  dsimp only
  rw [State.homeHeld_of_lands (hw 1 0), if_neg Bool.false_ne_true]
  simp only [hrec]
  rw [logging_unlogged ((congrArg (fun x => Sparse.get none l.ten x.replays) ((s.write_reports _ _ _ _).die _)).trans (hlog _))]
  rfl

end Splits

end Sys2Proof.Machine
end

section
/-! PROOFS. The obligation on the end and the split of launches (O38). -/

namespace Sys2Proof.Machine

/-! ### The STATE word, by how the launch has ended (R370) -/

theorem Launch.stateWord_done (l : Launch) : l.stateWord true false =
    l.reiss % 2 ^ 32 * 2 ^ 32 + l.live.toNat * 2 ^ 24 + l.home * 2 ^ 16 + (if l.split then 4 else 0) + 1 := by
  simp [Launch.stateWord]

theorem Launch.stateWord_failed (l : Launch) : l.stateWord false true =
    l.reiss % 2 ^ 32 * 2 ^ 32 + l.live.toNat * 2 ^ 24 + l.home * 2 ^ 16 + (if l.split then 4 else 0) + 2 := by
  simp [Launch.stateWord]

theorem State.stateWord_reconfigured (s : State) (l : Launch) (m : BitVec 8) : (s.reconfigured l m l).stateWord false false =
    (l.reiss + (s.toReissue l (membersOf m)).length) % 2 ^ 32 * 2 ^ 32 + m.toNat * 2 ^ 24 + l.masterIn m * 2 ^ 16 + 4 := by
  simp [Launch.stateWord, State.reconfigured]

/-- Settles O38, clause by clause: the mark and the end of a launch by what a write to its record does, the quorum rule and the
reconfiguration by what they leave of each copy. -/
theorem launchesEndAndSplit : Obligations.LaunchesEndAndSplit := by
  unfold Obligations.LaunchesEndAndSplit
  intro s d n l
  dsimp only
  refine ⟨?mark, ?complete, s.launch_freeLaunch l.id, fun hfirst => ⟨fun hf hdiv => ⟨?lost, ?quorum⟩, ?reconfiguration⟩⟩
  case mark =>
    intro hl hfence j k rest hfin g h ht hbad hw ho hy hop hc ⟨ht', hw', ho', hy', hc'⟩
    have hmark := l.mark_eq j k
    refine (exec_chunkMark ..).trans (execChunkMark_marks hl hfence hfin (g := g) ?_ hbad hw ho hy hop hc ?_)
    · rw [hmark]
      exact ht
    · rw [hmark]
      exact State.homeWrite_lands ht' hw' ho' hy' hc' _ _
  case complete =>
    intro hl hh
    rw [← Launch.stateWord_done, ← Launch.stateWord_failed]
    refine ⟨fun hf hall => ?_, fun hf => ?_⟩
    · have hx := (exec_launchComplete d n s).trans (execLaunchComplete_good hl hh hf (l.all_nodeDone hall))
      refine ⟨fun g ⟨ht, hw, ho, hy, hc⟩ => ?_, fun f ⟨hne, hflt⟩ => ?_⟩
      · rw [State.homeWrite_lands ht hw ho hy hc] at hx
        dsimp only at hx
        refine ⟨fun hz => hx.trans (if_pos hz), fun hz hout => ?_⟩
        rw [if_neg hz, hout, if_neg Bool.false_ne_true] at hx
        refine ⟨fun h ⟨ht', hw', ho', hy', hc'⟩ => ?_, fun f ⟨hne, hflt⟩ => ?_⟩
        · rw [State.homeWrite_lands ht' hw' ho' hy' hc'] at hx
          exact hx
        · rw [State.homeWrite_faults hflt] at hx
          exact hx.trans (congrArg ok (if_neg hne))
      · rw [State.homeWrite_faults hflt] at hx
        exact hx.trans (congrArg ok (if_neg hne))
    · have hx := (exec_launchComplete d n s).trans (execLaunchComplete_failed hl hh hf)
      refine ⟨fun g ⟨ht, hw, ho, hy, hc⟩ => ?_, fun f ⟨hne, hflt⟩ => ?_⟩
      · rw [State.homeWrite_lands ht hw ho hy hc] at hx
        exact hx
      · rw [State.homeWrite_faults hflt] at hx
        exact hx.trans (congrArg ok (if_neg hne))
  case lost =>
    intro hs
    refine ⟨_, (exec_quorumDecision ..).trans (execQuorumDecision_none hfirst hf (State.divided_of hdiv) hs), fun e m x hx hi => ?_⟩
    exact failLaunch_fails _ _ _ hx hi
  case quorum =>
    intro g hs
    obtain ⟨t, ht⟩ := execQuorumDecision_some hfirst hf (State.divided_of hdiv) hs
    refine ⟨State.survivors_quorum hs, _, s.unfenced l g, (exec_quorumDecision ..).trans ht, fun e m x hx hi => ?_, fun e he => State.getLsbD_unfenced g he⟩
    obtain ⟨y, hy⟩ := State.copy_updCopies hx hi
    subst hy
    exact ⟨rfl, fun hne => if_neg hne⟩
  case reconfiguration =>
    intro m g hm ⟨ht, hw, ho, hy, hc⟩ hlog
    have hhome : l.masterIn m = if l.home ∈ membersOf m then l.home else (membersOf m).headD 0 := by
      simp [Launch.masterIn]
    rw [← hhome] at ht hw hy hlog ⊢
    refine ⟨_, (exec_reconfiguration ..).trans (execReconfiguration_lands hfirst hm
      (fun k v => State.homeWrite_lands ht hw ho hy hc k v) hlog), ?_, fun e k x hx hi => ?_⟩
    · exact congrArg (fun v => (s.write g.gen g.dla 8 v).mem) (s.stateWord_reconfigured l m)
    obtain ⟨y, hy⟩ := State.copy_updCopies hx hi
    subst hy
    exact ⟨rfl, rfl, rfl, rfl, fun r hr => State.reissued_of_toReissue m hr⟩

end Sys2Proof.Machine
end
